-- ==== Sys2Proof/Word.lean ====
section
/-! DEFINITION. The word types of the adapter and the sparse-map type that memories, register files and tables use. -/

namespace Sys2Proof

/-- A general register, a sync count, a descriptor word (R125, R138, R168). -/
abbrev Word := BitVec 64

/-- A register of the BAR0 map (R8). -/
abbrev Word32 := BitVec 32

/-- The smallest addressable unit (R7). -/
abbrev Byte := BitVec 8

/-- A sparse table: keys strictly rising (Machine/Sparse.lean gives its operations and its canonical form). -/
abbrev SMap (β : Type) := List (Nat × β)

end Sys2Proof
end

