-- ==== Sys2Proof/Machine/Bytes.lean ====
section
/-! DEFINITION. Bits, bytes and byte order (R7), and the CRCs of R283 and R441. -/

namespace Sys2Proof.Machine

/-- Bits [lo + n − 1:lo] of `w`. -/
def bits (w lo n : Nat) : Nat := (w >>> lo) % 2 ^ n

/-- Bit `i` of `w`. -/
def bit (w i : Nat) : Bool := w.testBit i

/-- `w` with bits [lo + n − 1:lo] replaced by the low `n` bits of `v`. -/
def putBits (w lo n v : Nat) : Nat := w - (bits w lo n) <<< lo + (v % 2 ^ n) <<< lo

/-- `w` with bit `i` set to `b`. -/
def putBit (w i : Nat) (b : Bool) : Nat := putBits w i 1 (if b then 1 else 0)

/-- A Bool as a bit. -/
def b2n (b : Bool) : Nat := if b then 1 else 0

/-- The set bits of `w` below `n`, lowest first. -/
def bitList (w n : Nat) : List Nat := (List.range n).filter fun i => w.testBit i

/-- The number of set bits of `w` below `n`. -/
def popCount (w n : Nat) : Nat := (bitList w n).length

/-- The `n` low bytes of `v`, little-endian (R7). -/
def toLE : (n : Nat) → (v : Nat) → List Byte
  | 0, _ => []
  | n + 1, v => BitVec.ofNat 8 v :: toLE n (v / 256)

/-- The number that little-endian bytes spell (R7). -/
def ofLE : List Byte → Nat
  | [] => 0
  | b :: bs => b.toNat + 256 * ofLE bs

/-- Bytes as a number, the first the most significant. -/
def ofBE (bs : List Byte) : Nat := bs.foldl (fun a b => 256 * a + b.toNat) 0

/-- The `n` bytes of a number, the most significant first. -/
def toBE (n v : Nat) : List Byte := (toLE n v).reverse

/-- A little-endian field of `n` bytes at offset `o` of a byte list; bytes past its end read 0. -/
def fieldLE (bs : List Byte) (o n : Nat) : Nat := ofLE ((bs.drop o).take n)

/-- `n` bytes from offset `o`; bytes past the end read 0. -/
def slice (bs : List Byte) (o n : Nat) : List Byte :=
  let r := (bs.drop o).take n
  r ++ List.replicate (n - r.length) 0#8

/-- `bs` with the bytes from `o` on replaced by `new`. -/
def splice (bs : List Byte) (o : Nat) (new : List Byte) : List Byte :=
  bs.take o ++ new ++ bs.drop (o + new.length)

/-- Sign extension of an `n`-bit field to an integer. -/
def sext (n v : Nat) : Int := if v % 2 ^ n < 2 ^ (n - 1) then (v % 2 ^ n : Nat) else ((v % 2 ^ n : Nat) : Int) - (2 ^ n : Nat)

/-- One bit of a reflected CRC-64 with the ECMA-182 polynomial (R283), reflected: 0xC96C_5795_D787_0F42. -/
def crc64Bit (c : Nat) : Nat := if c % 2 = 1 then (c / 2) ^^^ 0xC96C5795D7870F42 else c / 2

/-- Eight bits. -/
def crc64Byte (c : Nat) (b : Byte) : Nat :=
  let x := c ^^^ b.toNat
  crc64Bit (crc64Bit (crc64Bit (crc64Bit (crc64Bit (crc64Bit (crc64Bit (crc64Bit x)))))))

/-- The CRC-64 of R283 over bytes in ascending order. -/
def crc64 (bs : List Byte) : BitVec 64 :=
  BitVec.ofNat 64 ((bs.foldl crc64Byte 0xFFFFFFFFFFFFFFFF) ^^^ 0xFFFFFFFFFFFFFFFF)

/-- One bit of the CRC-16 with polynomial 0x1021, not reflected (R441). -/
def crc16Bit (c : Nat) : Nat := if c.testBit 15 then ((2 * c) % 65536) ^^^ 0x1021 else 2 * c

def crc16Byte (c : Nat) (b : Byte) : Nat :=
  let x := c ^^^ (b.toNat * 256)
  crc16Bit (crc16Bit (crc16Bit (crc16Bit (crc16Bit (crc16Bit (crc16Bit (crc16Bit x)))))))

/-- The CRC-16 of R441. -/
def crc16 (bs : List Byte) : Nat := bs.foldl crc16Byte 0xFFFF

/-- First index of `[0, n)` at or after `p`, going up and wrapping, that `ok` accepts (R19). -/
def rotate (n p : Nat) (ok : Nat → Bool) : Option Nat :=
  ((List.range n).map fun k => (p + k) % n).find? ok

end Sys2Proof.Machine
end

