-- ==== Sys2Proof/Syntax.lean ====
section
/-! DEFINITION. The commands: one constructor for each row of spec/opcode_table.json, with the operands that the spec gives it. -/

namespace Sys2Proof

/-- A thread slot: domain and slot within it (R125). -/
structure Th where
  dom : Nat
  slot : Nat
  deriving DecidableEq, Repr, Inhabited

/-- The operand b of an ALU instruction (R158): a register, or a 32-bit immediate. -/
inductive Opd where
  | reg (n : Nat)
  | imm (v : BitVec 32)
  deriving DecidableEq, Repr

/-- The unit that a built-in test of Bring-up stage 2 found failed (R64). -/
inductive TestUnit where
  | essential (n : Nat)
  | engine (e : Nat)
  | sequencer (d : Nat)
  | dataPartition (d : Nat)
  | port (p : Nat)
  | ioDie (i : Nat)
  deriving DecidableEq, Repr

/-- How a Bring-up stage ended (R63): clean, with failed units (stage 2), or with a failure whose DETAIL is given
(stage 4: of the bank in use). `settingsFmt` of a clean stage 4 is not an operand: the banks hold it (R484). -/
inductive StageResult where
  | clean
  | failedUnits (us : List TestUnit)
  | failed (detail : Nat)
  deriving DecidableEq, Repr

/-- A laser cartridge's memory as the bay's bus reads it (R421, R422): bytes 0x0000 to 0x00FF, the SIGNATURE, and the copies of the life
area at 0x8000 and 0x8020. -/
structure Cartridge where
  readable : Bool
  record : List Byte
  signature : List Byte
  lifeA : List Byte
  lifeB : List Byte
  deriving DecidableEq, Repr

/-- A launch request (R132). -/
structure LaunchReq where
  ctx : Nat
  image : Nat
  dom : Nat
  syncBase : Nat
  zeroSync : Bool
  args : List Word
  cq : Nat
  tag : Nat
  deriving DecidableEq, Repr

/-- A Speron frame from the routing header to the tag (R318, R321, R322, R343). `rsv` is 1 when a bit that R321 or
R322 requires to be 0 is 1 (`rsvRoute`, `rsvHdr`); the ACK body's fields are those of R343. `laneBad` is no part of the
frame: the cipher pipe that works on the packet meets a self-check mismatch (R467). -/
structure Packet where
  hops : Nat := 0
  ptr : Nat := 0
  tc : Nat := 0
  ce : Bool := false
  dstEp : Nat := 0
  srcEp : Nat := 0
  path : Nat := 0
  rsvRoute : Bool := false
  type : Nat := 0
  fence : Bool := false
  last : Bool := false
  enc : Bool := false
  abort : Bool := false
  try_ : Nat := 0
  dqp : Nat := 0
  psn : Nat := 0
  offset : Nat := 0
  stamp : Nat := 0
  ssn : Nat := 0
  rgen : Nat := 0
  rkey : Nat := 0
  phase : Nat := 0
  roff : Nat := 0
  sqp : Nat := 0
  aux : Nat := 0
  txc : Nat := 0
  rsvHdr : Bool := false
  pieces : List (BitVec 64) := []
  payload : List Byte := []
  tag : BitVec 128 := 0#128
  echo : Nat := 0
  noticePsn : Nat := 0
  notice : Nat := 0
  sack : Nat := 0
  refusals : List (Nat × Nat) := []
  laneBad : Bool := false
  deriving DecidableEq, Repr, Inhabited

/-- Where a packet came from: a port's ingress number 0–31, the loopback of the transport unit (R356), or a peer inbox
over a host port (R453). -/
inductive Ingress where
  | port (n : Nat)
  | loopback
  | peer (k : Nat)
  deriving DecidableEq, Repr

/-- What a port received (R357, R410): a Speron frame, a PTP frame, a MAC control frame, or another EtherType;
`len` counts destination address to FCS. -/
inductive RxFrame where
  | speron (p : Packet)
  | ptp
  | macControl (opcode : Nat)
  | other
  deriving DecidableEq, Repr

/-- A frame of `len` bytes received at a port, and the codewords that its PCS corrected, or could not correct, in it (R407). -/
structure RxArrival where
  port : Nat
  frame : RxFrame
  len : Nat
  fcsOk : Bool
  corr : Nat := 0
  uncorr : Nat := 0
  deriving DecidableEq, Repr

/-- What an Announce message says of a grandmaster (R96): the values that IEEE 1588-2019 compares, and the steps to it; and who sends
the message. -/
structure Dataset where
  priority1 : Nat
  clockClass : Nat
  accuracy : Nat
  variance : Nat
  priority2 : Nat
  gm : BitVec 64
  steps : Nat
  sender : BitVec 64
  deriving DecidableEq, Repr

/-- A holding unit (R288): one HBM controller or one staging bank. -/
inductive HoldUnit where
  | stack (s : Nat)
  | bank (b : Nat)
  deriving DecidableEq, Repr

/-- One of the four kinds of tile access (R284), with the bytes written. -/
inductive TileOp where
  | read
  | writeWhole (data : List Byte)
  | writePart (off : Nat) (data : List Byte)
  deriving DecidableEq, Repr

/-- A tile access at its holding unit: requester number (R280), the tile's address (an adapter HBM address, or bank
offset with the bank in bits [27:24]), and, when the on-die ECC met one, the uncorrectable result's place (R285):
1 on the tile, 2 on its checksum entry. -/
structure TileAccess where
  req : Nat
  addr : Nat
  op : TileOp
  ecc : Option Nat
  deriving DecidableEq, Repr

/-- What failed in the self-check of a reduction output tile (R209, R210). -/
inductive RedCheck where
  | pass
  | residue
  | checksum
  deriving DecidableEq, Repr

/-- The statuses of type SQC (R8, R9) other than FCOL_EVTs, which FCOL_EVT_CLEAR writes. -/
inductive SqcReg where
  | pwrEvent | timeStatus | modeEvent | mariEvent
  | seqEvent (d : Nat) | redStatus (d : Nat) | spcStatus (d : Nat) | teStatus (d : Nat) | ceStatus (d : Nat)
  | memTchkEvent | segEvent | winEvent | migEvent | qpEvent | trnEvent | routeEvent
  | fabNotice (n : Nat) | portStatus (n : Nat) | lbStatus (m : Nat)
  | sqStatus (ctx q : Nat) | hostPortStatus (n : Nat)
  | quotaEvent | ctxmEvent | ceKeyEvent | keySlotEvent | fwEvent | fcolCmdEvent
  deriving DecidableEq, Repr

/-- A host submission queue entry as fetched (R441): its 64 bytes. -/
abbrev SqEntry := List Byte

inductive Instr where
  -- rails, pins and links
  | v54InReady (straps : Nat)
  | modResetRelease (straps : Nat)
  | perstNAssert (h : Nat)
  | perstNRelease (h : Nat)
  | ppsInEdge (ns : BitVec 64)
  | latchOpen (m : Nat)
  | latchClose (m : Nat)
  | cartridgeIdentified (m : Nat) (c : Cartridge)
  | bringUpStageComplete (r : StageResult)
  | hostLinkUp (h rate width : Nat)
  | hostLinkDown (h : Nat)
  | functionLevelReset (ctx : Nat)
  | contextDrainComplete (ctx : Nat)
  -- ticks, power and modes
  | tickBoundary (tj v54qv : Nat)
  | capIntervalEnd (tj avgW : Nat)
  | modeArm (armed : BitVec 32)
  | modeCommitAttempt (armed : BitVec 32)
  | modeAbort (armed : BitVec 32)
  | restExitUnitArmed (u : Nat)
  | restRequest (mgmt : Bool)
  | restExitRequest (mgmt : Bool)
  | setPower (op flags drainTicks : Nat)
  | pwrThermWrite (therm : Bool) (v : Word32)
  | modeCmdTick (swap : Bool)
  | marionetteEntryFire (n : Nat)
  | ptpSyncRx (p : Nat) (ns : BitVec 64) (offset : Int)
  | ptpAnnounceRx (p domain : Nat) (d : Dataset) (len : Nat) (origin base : BitVec 64)
  | ptpPdelayRx (p : Nat) (resp : Bool) (ns : BitVec 64)
  | ptpSyncInterval (p : Nat)
  -- launching
  | launch (r : LaunchReq)
  | privSignatureVerified (dom : Nat)
  | launchSlotsFree (dom : Nat)
  | icacheFill (t : Th)
  -- Ulent instructions
  | add (t : Th) (gd ga : Nat) (b : Opd)
  | sub (t : Th) (gd ga : Nat) (b : Opd)
  | mul (t : Th) (gd ga : Nat) (b : Opd)
  | and (t : Th) (gd ga : Nat) (b : Opd)
  | or (t : Th) (gd ga : Nat) (b : Opd)
  | xor (t : Th) (gd ga : Nat) (b : Opd)
  | shl (t : Th) (gd ga : Nat) (b : Opd)
  | shr (t : Th) (gd ga : Nat) (b : Opd)
  | sar (t : Th) (gd ga : Nat) (b : Opd)
  | cmp (t : Th) (pd cond ga : Nat) (b : Opd)
  | sel (t : Th) (gd ga gb ps : Nat)
  | mov (t : Th) (gd ga : Nat)
  | li (t : Th) (gd : Nat) (imm : BitVec 32)
  | lih (t : Th) (gd : Nat) (imm : BitVec 32)
  | br (t : Th) (off : BitVec 32)
  | brp (t : Th) (ps : Nat) (sense : Bool) (off : BitVec 32)
  | call (t : Th) (ga : Nat) (off : BitVec 32)
  | ret (t : Th) (ga : Nat)
  | loop (t : Th) (ga : Nat) (off : BitVec 32)
  | halt (t : Th)
  | yield (t : Th)
  | step (t : Th)
  | trap (t : Th) (code : Nat)
  | dset (t : Th) (dd w lo wid ga : Nat)
  | dld (t : Th) (dd ga : Nat) (off : BitVec 32)
  | dst (t : Th) (dd ga : Nat) (off : BitVec 32)
  | ld (t : Th) (gd ga size : Nat) (off : BitVec 32)
  | ldSyncCount (t : Th) (gd ga : Nat) (off : BitVec 32)
  | ldFailureLatch (t : Th) (gd ga : Nat) (off : BitVec 32)
  | st (t : Th) (gd ga size : Nat) (off : BitVec 32)
  | issue (t : Th) (dd : Nat) (er : Bool) (ga eng : Nat)
  | issuew (t : Th) (gd dd : Nat) (er : Bool) (ga eng : Nat)
  | sig (t : Th) (ga gb idx : Nat)
  | wait (t : Th) (ga gb idx : Nat)
  | waitt (t : Th) (pd ga gb idx ticks : Nat)
  | arm (t : Th) (ga gb idx : Nat)
  | sigr (t : Th) (dd ga : Nat)
  | twait (t : Th) (mode : Bool) (entry : Nat)
  | postwr (t : Th) (dd : Nat)
  | postrd (t : Th) (dd : Nat)
  | postsend (t : Th) (dd : Nat)
  | postatom (t : Th) (dd ga gb : Nat)
  | cqpost (t : Th) (dd ga gb : Nat) (nf : Bool) (code : Nat)
  | fenceE (t : Th)
  | fenceF (t : Th)
  | fenceH (t : Th)
  | fenceConditionMet (t : Th)
  | seqStop (d : Nat) (slots : BitVec 8)
  | syncUnitOperation (g : Nat)
  | waittTimeout (t : Th)
  -- engines
  | xbarDeliver (e : Nat)
  | redDescriptorStart (e : Nat)
  | redTileRelease (e : Nat) (chk : RedCheck)
  | redRemainderDelivered (e : Nat)
  | sgd (e : Nat)
  | adam (e : Nat)
  | adamw (e : Nat)
  | lambMoments (e : Nat)
  | lambApply (e : Nat)
  | lion (e : Nat)
  | norm (e : Nat)
  | cast (e : Nat)
  | lookupDescriptor (e : Nat)
  | encode (e : Nat)
  | decode (e : Nat)
  | unionSum (e : Nat)
  | quantizeDescriptor (e : Nat)
  | spcUnitRelease (e : Nat)
  | teDescriptorStart (e : Nat)
  | teUnitRelease (e : Nat) (hostData : List Byte)
  | ceEncrypt (e : Nat) (mismatch : Option Nat)
  | ceDecrypt (e : Nat) (mismatch : Option Nat)
  | holdingUnitAccess (u : HoldUnit) (arrivals : List TileAccess)
  -- segments, windows, migration
  | segSet (ctx idx : Nat)
  | segRemove (ctx idx : Nat)
  | segRead (ctx idx : Nat)
  | winSet (w : Nat)
  | winRemove (w : Nat)
  | winRead (w : Nat)
  | winBump (w : Nat)
  | keySet (k : Nat)
  | keyRemove (k : Nat)
  | keyRead (k : Nat)
  | migPrefetch (ctx seg page : Nat)
  | migEvict (ctx seg page : Nat)
  | evictComplete (ctx seg page : Nat)
  | migrationComplete (ctx seg page : Nat) (data : List Host.Cell)
  | migrationFail (ctx seg page : Nat) (writebackDone : Bool)
  | migrationTimeout (ctx seg page : Nat) (writebackDone : Bool)
  -- transport
  | qpInit (q : Nat)
  | qpRtr (q : Nat)
  | qpRts (q : Nat)
  | qpReset (q : Nat)
  | qpError (q : Nat)
  | qpRead (q : Nat)
  | qpStateFetched (q : Nat)
  | trnPacketTransmit (q ns : Nat) (hostData : List Byte) (mismatch : Bool)
  | writeRx (i : Ingress) (p : Packet)
  | readReqRx (i : Ingress) (p : Packet) (hostData : List Byte)
  | readRespRx (i : Ingress) (p : Packet)
  | sendRx (i : Ingress) (p : Packet)
  | atomicRx (i : Ingress) (p : Packet) (hostData : List Byte)
  | atomicRespRx (i : Ingress) (p : Packet)
  | signalRx (i : Ingress) (p : Packet)
  | ackRx (i : Ingress) (p : Packet)
  | pathNoticeRx (i : Ingress) (p : Packet)
  | fenceHeldRelease (q psn : Nat) (hostData : List Byte)
  | ackDelayExpiry (q : Nat)
  | retryTimerExpiry (q : Nat)
  | routeSet (ep : Nat)
  | routeInvalidate (ep : Nat)
  | routeRead (ep : Nat)
  | routeEntryFetched (ep : Nat)
  -- fabric and ports
  | frameReceived (x : RxArrival) (also : List RxArrival)
  | egressBufferRoom (n : Nat)
  | egressFrameStart (n : Nat) (ns : Nat)
  | linkUp (n : Nat)
  | linkDown (n : Nat)
  | portCfgWrite (n : Nat) (v : Word32)
  | txUnderrun (n : Nat)
  | pauseRx (n quanta : Nat)
  | pfcRx (n : Nat) (enable : BitVec 8) (quanta : List Nat)
  | pauseExpiry (n : Nat) (cls : Option Nat)
  | pauseWatchdogExpiry (n cls : Nat)
  | pauseWatchdogIgnoreEnd (n cls : Nat)
  | pfcResendTimer (n cls : Nat)
  | lbQuiesce (m : Nat)
  | lbResume (m : Nat)
  | quiesceComplete (m : Nat)
  | lifeMinute (m : Nat) (fraction : Nat)
  | lifeAreaWrite (m : Nat)
  -- hosts
  | sqDbWrite (ctx q prod : Nat)
  | sqFetchResponse (ctx q : Nat) (entry : SqEntry)
  | sqRefetchTimer (ctx q : Nat)
  | sqRestart (ctx q : Nat)
  | sqTransportEntry (ctx q : Nat) (entry : SqEntry)
  | sqLaunchEntry (ctx q : Nat) (entry : SqEntry)
  | sqControlEntry (ctx q : Nat) (entry : SqEntry)
  | sqReceiveEntry (ctx q : Nat) (entry : SqEntry)
  | cqDbWrite (ctx cq count : Nat)
  | cqDbArm (ctx cq count : Nat)
  | cqModerationTimer (cq : Nat)
  | hostApertureRead (ctx off len : Nat)
  | hostApertureWrite (ctx off : Nat) (data : List Byte)
  | peerInboxDoorbell (h inbox count : Nat) (frames : List (Nat × Packet))
  | peerOutCredit (h inbox count : Nat)
  | hostVfLimitWrite (v : Word32)
  | quotaSet (ctx : Nat)
  | quotaReadRequested (ctx : Nat)
  | quotaReadEffective (ctx : Nat)
  | ctxmFreeze (ctx : Nat)
  | freezeComplete (ctx : Nat)
  | ctxmSave (ctx : Nat)
  | ctxmRestore (ctx : Nat)
  | ctxmThaw (ctx : Nat)
  | ctxmDiscard (ctx : Nat)
  | ctxmRepoint (ctx qp : Nat)
  -- cipher, identity, firmware
  | ceKeySet (ctx idx : Nat) (use_ : Bool)
  | ceKeyClear (ctx idx : Nat)
  | ceKeyRead (ctx idx : Nat)
  | keySlotSet (kind slot : Nat)
  | keySlotClear (kind slot : Nat)
  | fwLockClass (confirm : Nat)
  | fwStage (written : Bool)
  | fwLoadComplete (failed : Option Nat)
  | relayPackageArrival (written : Bool)
  | setEndpointId (eid : Nat)
  | getMctpVersionSupport (msgType : Nat)
  | getpldmcommands (type : Nat)
  | passcomponenttable (comp : Nat)
  | updatecomponent (comp : Nat)
  | requestfirmwaredata (offset : Nat) (data : List Byte)
  | transfercomplete (ok : Bool)
  | applycomplete (written : Bool)
  | getCert (offset len : Nat)
  | getQuote (nonce : List Byte)
  | readQuote (offset len : Nat)
  -- fault collector and registers
  | faultEvent (src unit detail : Nat)
  | quietPeriodExpiry (src : Nat)
  | strikeTimerExpiry (e : Nat)
  | fcolEvtClear (src seq : Nat)
  | fcolForce (lo hi : Word32)
  | fcolUnfence (kind unit : Nat)
  | snapCmd (scope : Nat)
  | sqcClearWrite (r : SqcReg) (seq : Nat)
  | registerWrite (off width : Nat) (v : BitVec 64)
  | undefinedInstruction (t : Th) (w : Word)
  | pdelayReqInterval (p : Nat)
  | setdasa (target addr : Nat)
  | entdaa (addr : Nat)
  | rxOverflow (x : RxArrival)
  -- commands without operands (constructors with operands come first: Lean compiles at most 245 of them)
  | vaux3v3Applied
  | vaux3v3Removed
  | vaux3v3Collapse
  | v54InLoss
  | modResetAssert
  | bringUpStageLimit
  | enterActive
  | restDrainDone
  | restDrainTimeout
  | restExitCommit
  | restExitArmTimeout
  | modeCmdSwap
  | ptpSyncTimeout
  | descriptorCompletion
  | segRemoveComplete
  | winDrainComplete
  | fwOpenSession
  | fwActivate
  | fwCancel
  | fwRelay
  | fwActivationDrainDone
  | fwActivationDrainTimeout
  | getEndpointId
  | getMessageTypeSupport
  | gettid
  | getpldmtypes
  | querydeviceidentifiers
  | getfirmwareparameters
  | requestupdate
  | verifycomplete
  | activatefirmware
  | getstatus
  | cancelupdatecomponent
  | cancelupdate
  | quoteComplete
  | getState
  | getPowerEvent
  | fcolArm
  | unfenceEffect
  | domainRefillDone
  | pwrLifeWrite
  | ppsHoldover
  deriving DecidableEq, Repr

end Sys2Proof
end

