-- ==== Sys2Proof/Decode.lean ====
section
/-! DEFINITION. The command a word of the opcode table spells (its rows give no bits, so none does), and the decoder and
encoder of Ulent instruction words (R155–R159), which the sequencers fetch. -/

namespace Sys2Proof

/-- The rows of the opcode table give no bits: no word spells a command. -/
def decodeTableWord (_nbits _w : Nat) : Option Instr := none

end Sys2Proof

namespace Sys2Proof.Machine

/-- Formats 0 and 1: the operand b is gb, or imm32 (R156, R158). -/
def decAlu (w : Nat) (k : Nat → Nat → Opd → Instr) : Option Instr :=
  if bits w 52 4 = 0 then
    if bits w 0 37 = 0 then some (k (bits w 47 5) (bits w 42 5) (.reg (bits w 37 5))) else none
  else if bits w 52 4 = 1 then
    if bits w 32 10 = 0 then some (k (bits w 47 5) (bits w 42 5) (.imm (BitVec.ofNat 32 (bits w 0 32)))) else none
  else none

/-- CMP: formats 2 and 3; the conditions 11 to 15 are undefined (R164). -/
def decCmp (t : Th) (w : Nat) : Option Instr :=
  if 10 < bits w 45 4 then none
  else if bits w 52 4 = 2 then
    if bits w 0 35 = 0 then some (.cmp t (bits w 49 3) (bits w 45 4) (bits w 40 5) (.reg (bits w 35 5))) else none
  else if bits w 52 4 = 3 then
    if bits w 32 8 = 0 then
      some (.cmp t (bits w 49 3) (bits w 45 4) (bits w 40 5) (.imm (BitVec.ofNat 32 (bits w 0 32)))) else none
  else none

/-- Format 4 (LI). -/
def decLi (w : Nat) (k : Nat → BitVec 32 → Instr) : Option Instr :=
  if bits w 52 4 = 4 ∧ bits w 32 15 = 0 then some (k (bits w 47 5) (BitVec.ofNat 32 (bits w 0 32))) else none

/-- Format 5 (BR) with the operand fields an instruction does not use zero: `useG` and `useP` say which it uses. -/
def decBr (w : Nat) (useG useP : Bool) (k : Nat → Nat → Bool → BitVec 32 → Instr) : Option Instr :=
  if bits w 52 4 = 5 ∧ bits w 32 11 = 0 ∧ (useG ∨ bits w 47 5 = 0) ∧ (useP ∨ bits w 43 4 = 0) then
    some (k (bits w 47 5) (bits w 44 3) (bits w 43 1 == 1) (BitVec.ofNat 32 (bits w 0 32)))
  else none

/-- DSET, format 6; lo + wid greater than 64 is undefined, and a wid of 0 means 64 (R172). -/
def decDset (t : Th) (w : Nat) : Option Instr :=
  let wid := if bits w 34 6 = 0 then 64 else bits w 34 6
  if bits w 52 4 = 6 ∧ bits w 0 29 = 0 ∧ bits w 40 6 + wid ≤ 64 then
    some (.dset t (bits w 48 4) (bits w 46 2) (bits w 40 6) (bits w 34 6) (bits w 29 5))
  else none

/-- DLD and DST, format 7 without size and space (R173). -/
def decDls (w : Nat) (k : Nat → Nat → BitVec 32 → Instr) : Option Instr :=
  if bits w 52 4 = 7 ∧ bits w 32 10 = 0 ∧ bits w 51 1 = 0 then
    some (k (bits w 47 4) (bits w 42 5) (BitVec.ofNat 32 (bits w 0 32)))
  else none

/-- LD, format 7: spaces 1 and 2 take size 3 only, and space 3 is undefined (R175). -/
def decLd (t : Th) (w : Nat) : Option Instr :=
  if bits w 52 4 = 7 ∧ bits w 32 6 = 0 then
    if bits w 38 2 = 0 then some (.ld t (bits w 47 5) (bits w 42 5) (bits w 40 2) (BitVec.ofNat 32 (bits w 0 32)))
    else if bits w 40 2 ≠ 3 then none
    else if bits w 38 2 = 1 then some (.ldSyncCount t (bits w 47 5) (bits w 42 5) (BitVec.ofNat 32 (bits w 0 32)))
    else if bits w 38 2 = 2 then some (.ldFailureLatch t (bits w 47 5) (bits w 42 5) (BitVec.ofNat 32 (bits w 0 32)))
    else none
  else none

/-- ST, format 7, space 0 only (R174). -/
def decSt (t : Th) (w : Nat) : Option Instr :=
  if bits w 52 4 = 7 ∧ bits w 32 6 = 0 ∧ bits w 38 2 = 0 then
    some (.st t (bits w 47 5) (bits w 42 5) (bits w 40 2) (BitVec.ofNat 32 (bits w 0 32)))
  else none

/-- ISSUE and ISSUEW, format 8; the field that the selected form does not use is 0, and so is gd of ISSUE (R177). -/
def decIssue (t : Th) (w : Nat) (wait : Bool) : Option Instr :=
  if bits w 52 4 = 8 ∧ bits w 6 31 = 0 ∧ (bits w 42 1 = 1 ∨ bits w 37 5 = 0) ∧ (bits w 42 1 = 0 ∨ bits w 0 6 = 0) then
    if wait then some (.issuew t (bits w 47 5) (bits w 43 4) (bits w 42 1 == 1) (bits w 37 5) (bits w 0 6))
    else if bits w 47 5 = 0 then some (.issue t (bits w 43 4) (bits w 42 1 == 1) (bits w 37 5) (bits w 0 6))
    else none
  else none

/-- Format 9 (SY): SIG, WAIT and ARM leave pd and ticks 0 (R179). -/
def decSy (w : Nat) (k : Nat → Nat → Nat → Instr) : Option Instr :=
  if bits w 52 4 = 9 ∧ bits w 28 11 = 0 ∧ bits w 49 3 = 0 ∧ bits w 0 16 = 0 then
    some (k (bits w 44 5) (bits w 39 5) (bits w 16 12))
  else none

/-- WAITT: ticks = 0 is undefined (R179). -/
def decWaitt (t : Th) (w : Nat) : Option Instr :=
  if bits w 52 4 = 9 ∧ bits w 28 11 = 0 ∧ bits w 0 16 ≠ 0 then
    some (.waitt t (bits w 49 3) (bits w 44 5) (bits w 39 5) (bits w 16 12) (bits w 0 16))
  else none

/-- TWAIT, format 10; with mode 0 entry is not used (R180). -/
def decTwait (t : Th) (w : Nat) : Option Instr :=
  if bits w 52 4 = 10 ∧ bits w 42 9 = 0 ∧ bits w 0 32 = 0 ∧ (bits w 51 1 = 1 ∨ bits w 32 10 = 0) then
    some (.twait t (bits w 51 1 == 1) (bits w 32 10))
  else none

/-- Format 11 (PO) with ga and gb used or 0, and nf and code 0. -/
def decPost (w : Nat) (useA useB : Bool) (k : Nat → Nat → Nat → Instr) : Option Instr :=
  if bits w 52 4 = 11 ∧ bits w 0 38 = 0 ∧ (useA ∨ bits w 43 5 = 0) ∧ (useB ∨ bits w 38 5 = 0) then
    some (k (bits w 48 4) (bits w 43 5) (bits w 38 5))
  else none

/-- The codes of R12, the ones that CQPOST accepts (R185). -/
def codeDefined (c : Nat) : Bool :=
  [0x00, 0x01, 0x10, 0x11, 0x12, 0x13, 0x20, 0x21, 0x30, 0x31, 0x32, 0x40, 0x41, 0x42, 0x50, 0x51, 0x60, 0x61, 0x70,
    0x7F].contains c

def decCqpost (t : Th) (w : Nat) : Option Instr :=
  if bits w 52 4 = 11 ∧ bits w 9 29 = 0 ∧ codeDefined (bits w 0 8) = true then
    some (.cqpost t (bits w 48 4) (bits w 43 5) (bits w 38 5) (bits w 8 1 == 1) (bits w 0 8))
  else none

/-- Format 12 (N); only TRAP uses code. -/
def decN (w : Nat) (i : Instr) : Option Instr := if bits w 52 4 = 12 ∧ bits w 0 52 = 0 then some i else none

def decTrap (t : Th) (w : Nat) : Option Instr :=
  if bits w 52 4 = 12 ∧ bits w 8 44 = 0 then some (.trap t (bits w 0 8)) else none

/-- MOV: format 0, gb not used. -/
def decMov (t : Th) (w : Nat) : Option Instr :=
  if bits w 52 4 = 0 ∧ bits w 0 42 = 0 then some (.mov t (bits w 47 5) (bits w 42 5)) else none

/-- SEL: format 13. -/
def decSel (t : Th) (w : Nat) : Option Instr :=
  if bits w 52 4 = 13 ∧ bits w 0 34 = 0 then
    some (.sel t (bits w 47 5) (bits w 42 5) (bits w 37 5) (bits w 34 3))
  else none

/-- The instruction that a 64-bit word stands for, as thread `t` issues it; none: the word is undefined (R157). -/
def ulDecode (t : Th) (w : Nat) : Option Instr :=
  match bits w 56 8 with
  | 0x01 => decAlu w (.add t)
  | 0x02 => decAlu w (.sub t)
  | 0x03 => decAlu w (.mul t)
  | 0x04 => decAlu w (.and t)
  | 0x05 => decAlu w (.or t)
  | 0x06 => decAlu w (.xor t)
  | 0x07 => decAlu w (.shl t)
  | 0x08 => decAlu w (.shr t)
  | 0x09 => decAlu w (.sar t)
  | 0x0A => decCmp t w
  | 0x0B => decSel t w
  | 0x0C => decMov t w
  | 0x0D => decLi w (.li t)
  | 0x0E => decLi w (.lih t)
  | 0x20 => decBr w false false fun _ _ _ off => .br t off
  | 0x21 => decBr w false true fun _ ps sense off => .brp t ps sense off
  | 0x22 => decBr w true false fun ga _ _ off => .call t ga off
  | 0x23 => if bits w 0 32 = 0 then decBr w true false fun ga _ _ _ => .ret t ga else none
  | 0x24 => decBr w true false fun ga _ _ off => .loop t ga off
  | 0x25 => decN w (.halt t)
  | 0x26 => decN w (.yield t)
  | 0x27 => decTrap t w
  | 0x30 => decDset t w
  | 0x31 => decDls w (.dld t)
  | 0x32 => decDls w (.dst t)
  | 0x38 => decLd t w
  | 0x39 => decSt t w
  | 0x40 => decIssue t w false
  | 0x41 => decIssue t w true
  | 0x48 => decSy w (.sig t)
  | 0x49 => decSy w (.wait t)
  | 0x4A => decWaitt t w
  | 0x4B => decSy w (.arm t)
  | 0x4C => decPost w true false fun dd ga _ => .sigr t dd ga
  | 0x50 => decTwait t w
  | 0x51 => decN w (.step t)
  | 0x58 => decPost w false false fun dd _ _ => .postwr t dd
  | 0x59 => decPost w false false fun dd _ _ => .postrd t dd
  | 0x5A => decPost w false false fun dd _ _ => .postsend t dd
  | 0x5B => decPost w true true fun dd ga gb => .postatom t dd ga gb
  | 0x5C => decCqpost t w
  | 0x60 => decN w (.fenceH t)
  | 0x61 => decN w (.fenceF t)
  | 0x62 => decN w (.fenceE t)
  | _ => none

/-- Opcode and format in their places. -/
def encHead (op fmt : Nat) : Nat := op * 2 ^ 56 + fmt * 2 ^ 52

def encAlu (op gd ga : Nat) : Opd → Nat
  | .reg gb => encHead op 0 + gd * 2 ^ 47 + ga * 2 ^ 42 + gb * 2 ^ 37
  | .imm v => encHead op 1 + gd * 2 ^ 47 + ga * 2 ^ 42 + v.toNat

def encMem (op gd ga size space : Nat) (off : BitVec 32) : Nat :=
  encHead op 7 + gd * 2 ^ 47 + ga * 2 ^ 42 + size * 2 ^ 40 + space * 2 ^ 38 + off.toNat

def encSy (op pd ga gb idx ticks : Nat) : Nat :=
  encHead op 9 + pd * 2 ^ 49 + ga * 2 ^ 44 + gb * 2 ^ 39 + idx * 2 ^ 16 + ticks

def encPost (op dd ga gb : Nat) : Nat := encHead op 11 + dd * 2 ^ 48 + ga * 2 ^ 43 + gb * 2 ^ 38

/-- The word of a Ulent instruction (R156, R159); none for the other commands. -/
def ulEncode : Instr → Option Nat
  | .add _ gd ga b => some (encAlu 0x01 gd ga b)
  | .sub _ gd ga b => some (encAlu 0x02 gd ga b)
  | .mul _ gd ga b => some (encAlu 0x03 gd ga b)
  | .and _ gd ga b => some (encAlu 0x04 gd ga b)
  | .or _ gd ga b => some (encAlu 0x05 gd ga b)
  | .xor _ gd ga b => some (encAlu 0x06 gd ga b)
  | .shl _ gd ga b => some (encAlu 0x07 gd ga b)
  | .shr _ gd ga b => some (encAlu 0x08 gd ga b)
  | .sar _ gd ga b => some (encAlu 0x09 gd ga b)
  | .cmp _ pd cond ga (.reg gb) => some (encHead 0x0A 2 + pd * 2 ^ 49 + cond * 2 ^ 45 + ga * 2 ^ 40 + gb * 2 ^ 35)
  | .cmp _ pd cond ga (.imm v) => some (encHead 0x0A 3 + pd * 2 ^ 49 + cond * 2 ^ 45 + ga * 2 ^ 40 + v.toNat)
  | .sel _ gd ga gb ps => some (encHead 0x0B 13 + gd * 2 ^ 47 + ga * 2 ^ 42 + gb * 2 ^ 37 + ps * 2 ^ 34)
  | .mov _ gd ga => some (encHead 0x0C 0 + gd * 2 ^ 47 + ga * 2 ^ 42)
  | .li _ gd imm => some (encHead 0x0D 4 + gd * 2 ^ 47 + imm.toNat)
  | .lih _ gd imm => some (encHead 0x0E 4 + gd * 2 ^ 47 + imm.toNat)
  | .br _ off => some (encHead 0x20 5 + off.toNat)
  | .brp _ ps sense off => some (encHead 0x21 5 + ps * 2 ^ 44 + b2n sense * 2 ^ 43 + off.toNat)
  | .call _ ga off => some (encHead 0x22 5 + ga * 2 ^ 47 + off.toNat)
  | .ret _ ga => some (encHead 0x23 5 + ga * 2 ^ 47)
  | .loop _ ga off => some (encHead 0x24 5 + ga * 2 ^ 47 + off.toNat)
  | .halt _ => some (encHead 0x25 12)
  | .yield _ => some (encHead 0x26 12)
  | .trap _ code => some (encHead 0x27 12 + code)
  | .dset _ dd w lo wid ga => some (encHead 0x30 6 + dd * 2 ^ 48 + w * 2 ^ 46 + lo * 2 ^ 40 + wid * 2 ^ 34 + ga * 2 ^ 29)
  | .dld _ dd ga off => some (encMem 0x31 dd ga 0 0 off)
  | .dst _ dd ga off => some (encMem 0x32 dd ga 0 0 off)
  | .ld _ gd ga size off => some (encMem 0x38 gd ga size 0 off)
  | .ldSyncCount _ gd ga off => some (encMem 0x38 gd ga 3 1 off)
  | .ldFailureLatch _ gd ga off => some (encMem 0x38 gd ga 3 2 off)
  | .st _ gd ga size off => some (encMem 0x39 gd ga size 0 off)
  | .issue _ dd er ga eng => some (encHead 0x40 8 + dd * 2 ^ 43 + b2n er * 2 ^ 42 + ga * 2 ^ 37 + eng)
  | .issuew _ gd dd er ga eng =>
    some (encHead 0x41 8 + gd * 2 ^ 47 + dd * 2 ^ 43 + b2n er * 2 ^ 42 + ga * 2 ^ 37 + eng)
  | .sig _ ga gb idx => some (encSy 0x48 0 ga gb idx 0)
  | .wait _ ga gb idx => some (encSy 0x49 0 ga gb idx 0)
  | .waitt _ pd ga gb idx ticks => some (encSy 0x4A pd ga gb idx ticks)
  | .arm _ ga gb idx => some (encSy 0x4B 0 ga gb idx 0)
  | .sigr _ dd ga => some (encPost 0x4C dd ga 0)
  | .twait _ mode entry => some (encHead 0x50 10 + b2n mode * 2 ^ 51 + entry * 2 ^ 32)
  | .step _ => some (encHead 0x51 12)
  | .postwr _ dd => some (encPost 0x58 dd 0 0)
  | .postrd _ dd => some (encPost 0x59 dd 0 0)
  | .postsend _ dd => some (encPost 0x5A dd 0 0)
  | .postatom _ dd ga gb => some (encPost 0x5B dd ga gb)
  | .cqpost _ dd ga gb nf code => some (encPost 0x5C dd ga gb + b2n nf * 2 ^ 8 + code)
  | .fenceH _ => some (encHead 0x60 12)
  | .fenceF _ => some (encHead 0x61 12)
  | .fenceE _ => some (encHead 0x62 12)
  | _ => none

end Sys2Proof.Machine
end

