-- ==== Sys2Proof/Machine/Arith.lean ====
section
/-! DEFINITION. The number formats and their arithmetic (R187–R200): values as exact binary numbers, FP32 operations
rounded to nearest even, and the casts to every format. -/

namespace Sys2Proof.Machine

/-- A floating-point value: (−1)^neg × m × 2^e. A zero keeps its sign. -/
inductive FV where
  | nan
  | inf (neg : Bool)
  | num (neg : Bool) (m : Nat) (e : Int)
  deriving DecidableEq, Repr

/-- Number of bits of `m`: 0 for 0. -/
def bitLen (m : Nat) : Nat := if m = 0 then 0 else Nat.log2 m + 1

/-- How the dropped bits round: to nearest even, or with the draw of R197. -/
inductive Rnd where
  | near
  | stoch (r : Nat)
  deriving DecidableEq, Repr

/-- Drop `k` low bits of `m`. -/
def dropBits (rnd : Rnd) (m k : Nat) : Nat :=
  let keep := m >>> k
  let lo := m % 2 ^ k
  match rnd with
  | .near => if 2 ^ k < 2 * lo || (2 ^ k == 2 * lo && keep % 2 == 1) then keep + 1 else keep
  | .stoch r =>
    if lo = 0 then keep else
    let k' := min k 32
    let lo' := lo >>> (k - k')
    if 2 ^ k' ≤ lo' + r >>> (32 - k') then keep + 1 else keep

/-- Round m × 2^e to `p` significant bits with no bit below 2^emin: the new significand and exponent. -/
def roundAt (rnd : Rnd) (p : Nat) (emin : Int) (m : Nat) (e : Int) : Nat × Int :=
  let q : Int := max (e + bitLen m - p) emin
  if q ≤ e then (m, e) else
  let m' := dropBits rnd m (q - e).toNat
  if m' = 2 ^ p then (2 ^ (p - 1), q + 1) else (m', q)

/-- The 24-bit significand of an FP32 value: its lowest bit stands at 2^−149 or above. -/
def normal32 (m : Nat) (e : Int) : Nat × Int :=
  let sh := min (24 - bitLen m : Nat) (e + 149).toNat
  if m = 0 then (0, -149) else (m <<< sh, e - sh)

/-- Round to FP32, nearest even; beyond the largest finite value, infinity. -/
def fp32 (neg : Bool) (m : Nat) (e : Int) : FV :=
  let (m, e) := roundAt .near 24 (-149) m e
  if m ≠ 0 ∧ 128 < e + bitLen m then .inf neg
  else let (m, e) := normal32 m e; .num neg m e

/-- The exact integer of m × 2^(e − base), for e ≥ base. -/
def scaled (neg : Bool) (m : Nat) (e base : Int) : Int := (if neg then -1 else 1) * (m <<< (e - base).toNat : Nat)

def FV.neg : FV → FV
  | .nan => .nan
  | .inf n => .inf (!n)
  | .num n m e => .num (!n) m e

/-- FP32 addition (R193, R195). -/
def FV.add : FV → FV → FV
  | .nan, _ => .nan
  | _, .nan => .nan
  | .inf a, .inf b => if a = b then .inf a else .nan
  | .inf a, _ => .inf a
  | _, .inf b => .inf b
  | .num a m e, .num b n f =>
    if m = 0 ∧ n = 0 then .num (a && b) 0 (-149) else
    let base := min e f
    let t := scaled a m e base + scaled b n f base
    if t = 0 then .num false 0 (-149) else fp32 (decide (t < 0)) t.natAbs base

def FV.sub (x y : FV) : FV := x.add y.neg

/-- FP32 multiplication. -/
def FV.mul : FV → FV → FV
  | .nan, _ => .nan
  | _, .nan => .nan
  | .inf a, .inf b => .inf (a != b)
  | .inf a, .num b m _ => if m = 0 then .nan else .inf (a != b)
  | .num a m _, .inf b => if m = 0 then .nan else .inf (a != b)
  | .num a m e, .num b n f => fp32 (a != b) (m * n) (e + f)

/-- FP32 division. -/
def FV.div : FV → FV → FV
  | .nan, _ => .nan
  | _, .nan => .nan
  | .inf _, .inf _ => .nan
  | .inf a, .num b _ _ => .inf (a != b)
  | .num a _ _, .inf b => .num (a != b) 0 (-149)
  | .num a m e, .num b n f =>
    if n = 0 then (if m = 0 then .nan else .inf (a != b)) else
    let w := m <<< 64
    fp32 (a != b) (2 * (w / n) + (if w % n = 0 then 0 else 1)) (e - f - 65)

/-- FP32 square root; of a negative number other than −0, NaN. -/
def FV.sqrt : FV → FV
  | .nan => .nan
  | .inf false => .inf false
  | .inf true => .nan
  | .num a m e =>
    if m = 0 then .num a 0 (-149)
    else if a then .nan
    else
      let odd := e % 2 != 0
      let w := (if odd then 2 * m else m) <<< 64
      let r := Nat.sqrt w
      let e' : Int := if odd then e - 1 else e
      fp32 false (2 * r + (if r * r = w then 0 else 1)) (e' / 2 - 33)

/-- Exact comparison a < b of values that are not NaN; −0 is below +0. -/
def FV.lt : FV → FV → Bool
  | .nan, _ => false
  | _, .nan => false
  | .inf a, .inf b => a && !b
  | .inf a, _ => a
  | _, .inf b => !b
  | .num a m e, .num b n f =>
    if m = 0 ∧ n = 0 then a && !b else
    let base := min e f
    decide (scaled a m e base < scaled b n f base)

/-- MAX and MIN (R195). -/
def FV.max (x y : FV) : FV := if x = .nan ∨ y = .nan then .nan else if x.lt y then y else x
def FV.min (x y : FV) : FV := if x = .nan ∨ y = .nan then .nan else if y.lt x then y else x

/-! ### Element formats (R187, R188) -/

/-- A floating-point element format: exponent and fraction bits, bias, and what an all-ones exponent means: 0 infinity and
NaN, 1 NaN for the all-ones fraction only, 2 a finite value. -/
structure Fmt where
  eb : Nat
  fb : Nat
  bias : Int
  top : Nat
  deriving DecidableEq, Repr

/-- Format of a code, or of the elements of an MX code; none for the integer formats (R187, R188). -/
def fmtOf : Nat → Option Fmt
  | 0 => some ⟨8, 23, 127, 0⟩
  | 1 => some ⟨8, 7, 127, 0⟩
  | 2 => some ⟨5, 10, 15, 0⟩
  | 3 => some ⟨4, 3, 7, 1⟩
  | 4 => some ⟨5, 2, 15, 0⟩
  | 5 => some ⟨4, 3, 7, 1⟩
  | 6 => some ⟨5, 2, 15, 0⟩
  | 7 => some ⟨3, 2, 3, 2⟩
  | 8 => some ⟨2, 3, 1, 2⟩
  | 9 => some ⟨2, 1, 1, 2⟩
  | _ => none

/-- Element bits of a format code. -/
def elemBits : Nat → Nat
  | 0 => 32
  | 1 => 16
  | 2 => 16
  | 7 => 6
  | 8 => 6
  | 9 => 4
  | 11 => 32
  | _ => 8

def isMx (c : Nat) : Bool := 5 ≤ c && c ≤ 10
def isInt (c : Nat) : Bool := c == 11 || c == 12

/-- emax of an MX element format (R188). -/
def mxEmax : Nat → Int
  | 5 => 8
  | 6 => 15
  | 7 => 4
  | 8 => 2
  | 9 => 2
  | _ => 0

/-- The value of an encoding, exact (R187). `ftz`: a subnormal is taken as zero of its sign (R199). -/
def decodeFmt (f : Fmt) (ftz : Bool) (w : Nat) : FV :=
  let neg := bit w (f.eb + f.fb)
  let ex := bits w f.fb f.eb
  let fr := bits w 0 f.fb
  if ex = 2 ^ f.eb - 1 ∧ f.top = 0 then (if fr = 0 then .inf neg else .nan)
  else if ex = 2 ^ f.eb - 1 ∧ f.top = 1 ∧ fr = 2 ^ f.fb - 1 then .nan
  else if ex = 0 then .num neg (if ftz then 0 else fr) (1 - f.bias - f.fb)
  else .num neg (2 ^ f.fb + fr) ((ex : Int) - f.bias - f.fb)

/-- As FP32: exact for every element format (R190), with a 24-bit significand. -/
def to32 : FV → FV
  | .num n m e => let (m, e) := normal32 m e; .num n m e
  | v => v

/-- An MX element times 2^(s − 127) (R190): below the smallest subnormal zero, beyond the range infinity. -/
def mxScale (s : Nat) : FV → FV
  | .num n m e =>
    if s = 0xFF then .nan else
    let e' := e + (s : Int) - 127
    if m ≠ 0 ∧ e' + bitLen m ≤ -149 then .num n 0 (-149) else fp32 n m e'
  | v => if s = 0xFF then .nan else v

/-- The canonical NaN (R187). -/
def fmtNan (f : Fmt) : Nat := if f.top = 0 then (2 ^ f.eb - 1) * 2 ^ f.fb + 2 ^ (f.fb - 1) else 2 ^ (f.eb + f.fb) - 1

/-- The largest finite encoding without its sign. -/
def fmtMax (f : Fmt) : Nat :=
  if f.top = 0 then (2 ^ f.eb - 1) * 2 ^ f.fb - 1
  else if f.top = 1 then 2 ^ (f.eb + f.fb) - 2
  else 2 ^ (f.eb + f.fb) - 1

/-- What a cast gives: the encoding, whether it saturated, whether it is NaN. -/
structure Cast where
  w : Nat
  sat : Bool := false
  isNan : Bool := false
  deriving DecidableEq, Repr

/-- Cast to an element format (R196–R199); `sat`: beyond the largest value saturates, as the elements of MX formats do. -/
def castFmt (f : Fmt) (rnd : Rnd) (ftz : Bool) (v : FV) (sat : Bool := false) : Cast :=
  let sgn (n : Bool) : Nat := if n then 2 ^ (f.eb + f.fb) else 0
  match v with
  | .nan => { w := fmtNan f, isNan := true }
  | .inf n => if f.top = 0 && !sat then { w := sgn n + (2 ^ f.eb - 1) * 2 ^ f.fb } else { w := sgn n + fmtMax f, sat := true }
  | .num n m e =>
    let emin : Int := 1 - f.bias - f.fb
    let (m, e) := roundAt rnd (f.fb + 1) emin m e
    if m = 0 then { w := sgn n } else
    -- bring the significand to fb + 1 bits, or to the subnormal grid
    let sh := min (f.fb + 1 - bitLen m : Nat) (e - emin).toNat
    let (m, e) := (m <<< sh, e - sh)
    let w := if m < 2 ^ f.fb then m else (e + f.bias + f.fb).toNat * 2 ^ f.fb + (m - 2 ^ f.fb)
    if fmtMax f < w then
      (if f.top = 0 && !sat then { w := sgn n + (2 ^ f.eb - 1) * 2 ^ f.fb } else { w := sgn n + fmtMax f, sat := true })
    else if ftz && m < 2 ^ f.fb then { w := sgn n }
    else { w := sgn n + w }

/-- FP32 bits of a value that FP32 represents. -/
def bits32 (v : FV) : Nat := (castFmt ⟨8, 23, 127, 0⟩ .near false v).w
/-- The value of FP32 bits. -/
def of32 (w : Nat) : FV := to32 (decodeFmt ⟨8, 23, 127, 0⟩ false w)

/-- The draw of element `i` (R197). -/
def draw (seed i : Nat) : Nat :=
  let mask := 2 ^ 64
  let z := (seed + (i + 1) * 0x9E3779B97F4A7C15) % mask
  let z := ((z ^^^ (z >>> 30)) * 0xBF58476D1CE4E5B9) % mask
  let z := ((z ^^^ (z >>> 27)) * 0x94D049BB133111EB) % mask
  (z ^^^ (z >>> 31)) >>> 32

/-! ### Integers (R194) -/

/-- Nearest integer to m × 2^e, ties to even, with sign. -/
def roundInt (rnd : Rnd) (neg : Bool) (m : Nat) (e : Int) : Int :=
  let a : Nat := if 0 ≤ e then m <<< e.toNat else dropBits rnd m (-e).toNat
  if neg then -(a : Int) else a

/-- Saturate to `n` bits of two's complement. -/
def satInt (n : Nat) (x : Int) : Int × Bool :=
  let hi : Int := 2 ^ (n - 1) - 1
  let lo : Int := -(2 ^ (n - 1) : Int)
  if hi < x then (hi, true) else if x < lo then (lo, true) else (x, false)

/-- The `n`-bit pattern of an integer. -/
def intBits (n : Nat) (x : Int) : Nat := (x % (2 ^ n : Int)).toNat

/-! ### Operands of elements in memory (R189) -/

/-- Element `i` of `w` bits in packed bytes (R189): little-endian, four 6-bit elements to three bytes, the even 4-bit
element low. -/
def elemAt (bs : List Byte) (w i : Nat) : Nat :=
  bits (fieldLE bs (i * w / 8) ((i * w % 8 + w + 7) / 8)) (i * w % 8) w

/-- Pack elements of `w` bits, lowest first, into whole bytes. -/
def packElems (w : Nat) (es : List Nat) : List Byte :=
  toLE ((es.length * w + 7) / 8) (es.foldr (fun x acc => x % 2 ^ w + 2 ^ w * acc) 0)

/-- Bytes of the data area of `n` elements. -/
def dataBytes (w n : Nat) : Nat := (n * w + 7) / 8

/-- Offset of the scale area: the first tile boundary at or after the data area's end (R189). -/
def scaleOff (w n : Nat) : Nat := (dataBytes w n + 2047) / 2048 * 2048

/-- Bytes of an operand of `n` elements, scale area included (R204). -/
def operandBytes (fmt n : Nat) : Nat :=
  if isMx fmt then scaleOff (elemBits fmt) n + n / 32 else dataBytes (elemBits fmt) n

/-- Decode element `i` of a block of data bytes to FP32, `s` being its block's scale (R190, R199). -/
def decodeElem (fmt : Nat) (ftz : Bool) (bs : List Byte) (s i : Nat) : FV :=
  let w := elemAt bs (elemBits fmt) i
  if fmt = 10 then mxScale s (let x := sext 8 w; .num (decide (x < 0)) x.natAbs (-6))
  else match fmtOf fmt with
    | none => .nan
    | some f =>
      let v := decodeFmt f ftz w
      if isMx fmt then mxScale s v else
      -- an FP32 or narrower input converts exactly
      to32 v

/-- Exact floor(log2) of a nonzero magnitude. -/
def floorLog2 (m : Nat) (e : Int) : Int := (bitLen m : Int) - 1 + e

/-- Magnitude comparison for amax. -/
def magLt : FV → FV → Bool
  | .num _ m e, .num _ n f => FV.lt (.num false m e) (.num false n f)
  | _, _ => false

/-- What one block of results becomes: elements, scale, saturations, NaN outputs (R200). -/
structure BlockOut where
  elems : List Nat
  scale : Nat := 0
  sats : Nat := 0
  nans : Nat := 0
  deriving DecidableEq, Repr

/-- Encode a block of results in an MX format (R200). `first` is the index of its first element. -/
def mxEncode (fmt : Nat) (rnd : Option Nat) (ftz : Bool) (first : Nat) (vs : List FV) : BlockOut :=
  let w := elemBits fmt
  let finite (v : FV) : Bool := match v with | .num _ _ _ => true | _ => false
  if !(vs.all finite) then { elems := vs.map fun _ => 0, scale := 0xFF, nans := 1 } else
  let amax := vs.foldl (fun a v => if magLt a v then v else a) (.num false 0 (-149))
  let neg (v : FV) : Bool := match v with | .num n _ _ => n | _ => false
  match amax with
  | .num _ am ae =>
    if am = 0 then { elems := vs.map fun v => if neg v && fmt != 10 then 2 ^ (w - 1) else 0, scale := 0 } else
    let x : Int := min 127 (max (-127) (floorLog2 am ae - mxEmax fmt))
    let one (i : Nat) (v : FV) : Cast :=
      let r : Rnd := match rnd with | some seed => .stoch (draw seed (first + i)) | none => .near
      match v with
      | .num n m e =>
        if fmt = 10 then
          let (y, sat) := satInt 8 (roundInt r n m (e - x + 6))
          { w := intBits 8 y, sat := sat }
        else
          match fmtOf fmt with
          | some f => castFmt f r ftz (.num n m (e - x)) true
          | none => { w := 0 }
      | _ => { w := 0 }
    let cs := (List.range vs.length).map fun i => one i (vs.getD i .nan)
    { elems := cs.map (·.w), scale := (x + 127).toNat, sats := (cs.filter (·.sat)).length }
  | _ => { elems := vs.map fun _ => 0, scale := 0xFF, nans := 1 }

/-- Encode a block of FP32 results in any floating-point format (R196–R200). -/
def encodeBlock (fmt : Nat) (rnd : Option Nat) (ftz : Bool) (first : Nat) (vs : List FV) : BlockOut :=
  if isMx fmt then mxEncode fmt rnd ftz first vs else
  match fmtOf fmt with
  | none => { elems := vs.map fun _ => 0 }
  | some f =>
    let cs := (List.range vs.length).map fun i =>
      let r : Rnd := match rnd with | some seed => .stoch (draw seed (first + i)) | none => .near
      castFmt f r ftz (vs.getD i .nan)
    { elems := cs.map (·.w), sats := (cs.filter (·.sat)).length, nans := (cs.filter (·.isNan)).length }

end Sys2Proof.Machine
end

