-- ==== Sys2Proof/Machine/Regs.lean ====
section
/-! DEFINITION. The registers of the BAR0 map (R8, R521): the place of every field, and for each register what a write may set and what it reads after reset. Generated from the register tables of spec/. -/

namespace Sys2Proof.Machine

/-- A field of a register: the register's BAR0 offset, its lowest bit, its width. -/
structure RF where
  off : Nat
  lo : Nat
  wid : Nat
  deriving DecidableEq, Repr

/-- Base of the block of domain `d` (R521). -/
def domBase (d : Nat) : Nat := 0x100000 + 0x10000 * d
/-- Base of the block of port `n` (R521). -/
def portBase (n : Nat) : Nat := 0x200000 + 0x4000 * n
/-- Base of the registers of bay `m`: the block of fabric port 2m (R434). -/
def bayBase (m : Nat) : Nat := 0x200000 + 0x8000 * m
/-- The page-0 base of the function of context `c` (R435, R521): context 0 in the BAR0 map, the other contexts under
keys above it that only this model uses (log entry 9). -/
def fnBase (c : Nat) : Nat := if c = 0 then 0x600000 else 0x2000000 + 0x10000 * c

/-- COMPAT_CLASS (R543). -/
def F.COMPAT_CLASS : RF := ⟨0x0, 0, 32⟩
def F.COMPAT_CLASS_CLASS : RF := ⟨0x0, 0, 16⟩
def F.COMPAT_CLASS_LOCKED : RF := ⟨0x0, 16, 1⟩
/-- ID_DEVICE (R543). -/
def F.ID_DEVICE : RF := ⟨0x4, 0, 32⟩
def F.ID_DEVICE_DEVICE : RF := ⟨0x4, 0, 16⟩
def F.ID_DEVICE_STEPPING : RF := ⟨0x4, 16, 8⟩
/-- ID_SERIAL_LO (R543). -/
def F.ID_SERIAL_LO : RF := ⟨0x8, 0, 32⟩
def F.ID_SERIAL_LO_SERIAL : RF := ⟨0x8, 0, 32⟩
/-- ID_SERIAL_HI (R543). -/
def F.ID_SERIAL_HI : RF := ⟨0xc, 0, 32⟩
def F.ID_SERIAL_HI_SERIAL : RF := ⟨0xc, 0, 32⟩
/-- ID_MFG_DATE (R543). -/
def F.ID_MFG_DATE : RF := ⟨0x10, 0, 32⟩
def F.ID_MFG_DATE_DATE : RF := ⟨0x10, 0, 32⟩
/-- ID_VF_DEVICE (R543). -/
def F.ID_VF_DEVICE : RF := ⟨0x14, 0, 32⟩
def F.ID_VF_DEVICE_DEVICE : RF := ⟨0x14, 0, 16⟩
/-- BRUP_PROGRESS (R85). -/
def F.BRUP_PROGRESS : RF := ⟨0x100, 0, 32⟩
def F.BRUP_PROGRESS_CODE : RF := ⟨0x100, 0, 8⟩
def F.BRUP_PROGRESS_DETAIL : RF := ⟨0x100, 8, 8⟩
def F.BRUP_PROGRESS_DEGRADED : RF := ⟨0x100, 16, 1⟩
def F.BRUP_PROGRESS_FW_BANK : RF := ⟨0x100, 17, 1⟩
def F.BRUP_PROGRESS_FW_FALLBACK : RF := ⟨0x100, 18, 1⟩
def F.BRUP_PROGRESS_MGMT_PORT : RF := ⟨0x100, 19, 2⟩
/-- PWR_STATE (R87). -/
def F.PWR_STATE : RF := ⟨0x200, 0, 32⟩
def F.PWR_STATE_STATE : RF := ⟨0x200, 0, 3⟩
def F.PWR_STATE_REST_OPTICS : RF := ⟨0x200, 3, 1⟩
def F.PWR_STATE_CLK_LEVEL : RF := ⟨0x200, 4, 2⟩
def F.PWR_STATE_CAP_SATURATED : RF := ⟨0x200, 6, 1⟩
def F.PWR_STATE_THERM_HARD : RF := ⟨0x200, 7, 1⟩
def F.PWR_STATE_BE_SHARE : RF := ⟨0x200, 8, 8⟩
def F.PWR_STATE_TJ_MAX : RF := ⟨0x200, 16, 8⟩
/-- PWR_CMD (R88). -/
def F.PWR_CMD : RF := ⟨0x204, 0, 32⟩
def F.PWR_CMD_OP : RF := ⟨0x204, 0, 2⟩
def F.PWR_CMD_OPTICS_OFF : RF := ⟨0x204, 2, 1⟩
def F.PWR_CMD_WAKE_DB : RF := ⟨0x204, 3, 1⟩
def F.PWR_CMD_DRAIN_TICKS : RF := ⟨0x204, 16, 16⟩
/-- PWR_EVENT (R89). -/
def F.PWR_EVENT : RF := ⟨0x208, 0, 32⟩
def F.PWR_EVENT_SEQ : RF := ⟨0x208, 0, 8⟩
def F.PWR_EVENT_LAST : RF := ⟨0x208, 8, 4⟩
/-- PWR_CAP (R90). -/
def F.PWR_CAP : RF := ⟨0x20c, 0, 32⟩
def F.PWR_CAP_LIMIT_W : RF := ⟨0x20c, 0, 11⟩
def F.PWR_CAP_ENABLE : RF := ⟨0x20c, 11, 1⟩
def F.PWR_CAP_INTERVAL_TICKS : RF := ⟨0x20c, 16, 16⟩
/-- PWR_THERM (R90). -/
def F.PWR_THERM : RF := ⟨0x210, 0, 32⟩
def F.PWR_THERM_SOFT_C : RF := ⟨0x210, 0, 8⟩
def F.PWR_THERM_HARD_C : RF := ⟨0x210, 8, 8⟩
/-- TICK_LEN (R119). -/
def F.TICK_LEN : RF := ⟨0x20000, 0, 32⟩
def F.TICK_LEN_CUR : RF := ⟨0x20000, 0, 9⟩
def F.TICK_LEN_NEXT : RF := ⟨0x20000, 16, 9⟩
/-- TICK_CTL (R119). -/
def F.TICK_CTL : RF := ⟨0x20004, 0, 32⟩
def F.TICK_CTL_T_LIMIT_PCT : RF := ⟨0x20004, 0, 7⟩
/-- TIME_CTL (R120). -/
def F.TIME_CTL : RF := ⟨0x20010, 0, 32⟩
def F.TIME_CTL_PTP_EN : RF := ⟨0x20010, 0, 1⟩
def F.TIME_CTL_PPS_MODE : RF := ⟨0x20010, 1, 2⟩
def F.TIME_CTL_GM_CAPABLE : RF := ⟨0x20010, 3, 1⟩
def F.TIME_CTL_SYNC_LOG : RF := ⟨0x20010, 4, 3⟩
def F.TIME_CTL_ATTACH_MASTER : RF := ⟨0x20010, 7, 1⟩
def F.TIME_CTL_DOMAIN : RF := ⟨0x20010, 8, 8⟩
def F.TIME_CTL_PRIORITY1 : RF := ⟨0x20010, 16, 8⟩
/-- TIME_STATUS (R120). -/
def F.TIME_STATUS : RF := ⟨0x20014, 0, 32⟩
def F.TIME_STATUS_LOCK : RF := ⟨0x20014, 0, 2⟩
def F.TIME_STATUS_PARENT : RF := ⟨0x20014, 2, 5⟩
def F.TIME_STATUS_GM : RF := ⟨0x20014, 7, 1⟩
def F.TIME_STATUS_SEQ : RF := ⟨0x20014, 8, 8⟩
def F.TIME_STATUS_OFFSET : RF := ⟨0x20014, 16, 16⟩
/-- MODE_CMD (R122). -/
def F.MODE_CMD : RF := ⟨0x20020, 0, 32⟩
def F.MODE_CMD_TICK : RF := ⟨0x20020, 0, 1⟩
def F.MODE_CMD_SWAP : RF := ⟨0x20020, 1, 1⟩
/-- MODE_AT (R122). -/
def F.MODE_AT : RF := ⟨0x20024, 0, 32⟩
def F.MODE_AT_AT : RF := ⟨0x20024, 0, 32⟩
/-- MODE_STATUS (R122). -/
def F.MODE_STATUS : RF := ⟨0x20028, 0, 32⟩
def F.MODE_STATUS_NOT_ARMED : RF := ⟨0x20028, 0, 32⟩
/-- MODE_EVENT (R122). -/
def F.MODE_EVENT : RF := ⟨0x2002c, 0, 32⟩
def F.MODE_EVENT_SEQ : RF := ⟨0x2002c, 0, 8⟩
def F.MODE_EVENT_RESULT : RF := ⟨0x2002c, 8, 4⟩
def F.MODE_EVENT_POSTPONED : RF := ⟨0x2002c, 12, 4⟩
def F.MODE_EVENT_KIND : RF := ⟨0x2002c, 16, 4⟩
/-- MODE_EPOCH (R122). -/
def F.MODE_EPOCH : RF := ⟨0x20030, 0, 32⟩
def F.MODE_EPOCH_EPOCH : RF := ⟨0x20030, 0, 32⟩
/-- MARI_CTL (R123). -/
def F.MARI_CTL : RF := ⟨0x20040, 0, 32⟩
def F.MARI_CTL_ENABLE : RF := ⟨0x20040, 0, 1⟩
def F.MARI_CTL_ACTIVE_BANK : RF := ⟨0x20040, 1, 1⟩
def F.MARI_CTL_ACTIVE_PERIOD_M1 : RF := ⟨0x20040, 2, 10⟩
def F.MARI_CTL_SHADOW_PERIOD_M1 : RF := ⟨0x20040, 16, 10⟩
/-- MARI_EVENT (R123). -/
def F.MARI_EVENT : RF := ⟨0x20044, 0, 32⟩
def F.MARI_EVENT_SEQ : RF := ⟨0x20044, 0, 8⟩
def F.MARI_EVENT_LAST_ENTRY : RF := ⟨0x20044, 8, 10⟩
def F.MARI_EVENT_LAST_KIND : RF := ⟨0x20044, 18, 1⟩
/-- TICK_SNAP_LO (R124). -/
def F.TICK_SNAP_LO : RF := ⟨0x20100, 0, 32⟩
/-- TICK_SNAP_HI (R124). -/
def F.TICK_SNAP_HI : RF := ⟨0x20104, 0, 32⟩
/-- TIME_SNAP_LO (R124). -/
def F.TIME_SNAP_LO : RF := ⟨0x20108, 0, 32⟩
/-- TIME_SNAP_HI (R124). -/
def F.TIME_SNAP_HI : RF := ⟨0x2010c, 0, 32⟩
/-- TIME_PPS_STAMP_LO (R124). -/
def F.TIME_PPS_STAMP_LO : RF := ⟨0x20110, 0, 32⟩
/-- TIME_PPS_STAMP_HI (R124). -/
def F.TIME_PPS_STAMP_HI : RF := ⟨0x20114, 0, 32⟩
/-- TIME_STEPS (R124). -/
def F.TIME_STEPS : RF := ⟨0x20118, 0, 32⟩
/-- PPS_IGNORED (R124). -/
def F.PPS_IGNORED : RF := ⟨0x2011c, 0, 32⟩
/-- MARI_SKIPPED (R124). -/
def F.MARI_SKIPPED : RF := ⟨0x20120, 0, 32⟩
/-- MARI_REFUSED (R124). -/
def F.MARI_REFUSED : RF := ⟨0x20124, 0, 32⟩
/-- TICK_MISMATCH (R124). -/
def F.TICK_MISMATCH : RF := ⟨0x20128, 0, 32⟩
/-- SEQ_THREAD (R152). -/
def F.SEQ_THREAD (d k : Nat) : RF := ⟨domBase d + 0x10 + 0x4 * k, 0, 32⟩
def F.SEQ_THREAD_STATE (d k : Nat) : RF := ⟨domBase d + 0x10 + 0x4 * k, 0, 3⟩
def F.SEQ_THREAD_PRIV (d k : Nat) : RF := ⟨domBase d + 0x10 + 0x4 * k, 3, 1⟩
def F.SEQ_THREAD_CTX (d k : Nat) : RF := ⟨domBase d + 0x10 + 0x4 * k, 4, 8⟩
def F.SEQ_THREAD_WAIT_CAUSE (d k : Nat) : RF := ⟨domBase d + 0x10 + 0x4 * k, 12, 4⟩
def F.SEQ_THREAD_PROG (d k : Nat) : RF := ⟨domBase d + 0x10 + 0x4 * k, 16, 16⟩
/-- SEQ_STOP (R153). -/
def F.SEQ_STOP (d : Nat) : RF := ⟨domBase d + 0x40, 0, 32⟩
def F.SEQ_STOP_SLOTS (d : Nat) : RF := ⟨domBase d + 0x40, 0, 8⟩
/-- SEQ_EVENT (R153). -/
def F.SEQ_EVENT (d : Nat) : RF := ⟨domBase d + 0x44, 0, 32⟩
def F.SEQ_EVENT_SEQ (d : Nat) : RF := ⟨domBase d + 0x44, 0, 8⟩
def F.SEQ_EVENT_LAST_KIND (d : Nat) : RF := ⟨domBase d + 0x44, 8, 4⟩
def F.SEQ_EVENT_LAST_THREAD (d : Nat) : RF := ⟨domBase d + 0x44, 12, 3⟩
/-- SEQ_ISSUED (R154). -/
def F.SEQ_ISSUED (d : Nat) : RF := ⟨domBase d + 0x100, 0, 32⟩
/-- SEQ_ICACHE_MISS (R154). -/
def F.SEQ_ICACHE_MISS (d : Nat) : RF := ⟨domBase d + 0x104, 0, 32⟩
/-- SEQ_XBAR_WAIT (R154). -/
def F.SEQ_XBAR_WAIT (d : Nat) : RF := ⟨domBase d + 0x108, 0, 32⟩
/-- SEQ_OVERRUNS (R154). -/
def F.SEQ_OVERRUNS (d : Nat) : RF := ⟨domBase d + 0x10c, 0, 32⟩
/-- SEQ_LAUNCHES (R154). -/
def F.SEQ_LAUNCHES (d : Nat) : RF := ⟨domBase d + 0x110, 0, 32⟩
/-- SYNC_OPS (R154). -/
def F.SYNC_OPS (d : Nat) : RF := ⟨domBase d + 0x120, 0, 32⟩
/-- SYNC_CONTENDED (R154). -/
def F.SYNC_CONTENDED (d : Nat) : RF := ⟨domBase d + 0x124, 0, 32⟩
/-- SYNC_SATURATED (R154). -/
def F.SYNC_SATURATED (d : Nat) : RF := ⟨domBase d + 0x128, 0, 32⟩
/-- TRK_USED_THREAD (R154). -/
def F.TRK_USED_THREAD (d : Nat) : RF := ⟨domBase d + 0x130, 0, 32⟩
/-- TRK_USED_HOST (R154). -/
def F.TRK_USED_HOST (d : Nat) : RF := ⟨domBase d + 0x134, 0, 32⟩
/-- TRK_PEAK (R154). -/
def F.TRK_PEAK (d : Nat) : RF := ⟨domBase d + 0x138, 0, 32⟩
/-- RED_STATUS (R216). -/
def F.RED_STATUS (d : Nat) : RF := ⟨domBase d + 0x200, 0, 32⟩
def F.RED_STATUS_FENCED (d : Nat) : RF := ⟨domBase d + 0x200, 0, 1⟩
def F.RED_STATUS_STRIKE (d : Nat) : RF := ⟨domBase d + 0x200, 1, 1⟩
def F.RED_STATUS_SEQ (d : Nat) : RF := ⟨domBase d + 0x200, 8, 8⟩
def F.RED_STATUS_LAST_CHECK (d : Nat) : RF := ⟨domBase d + 0x200, 16, 1⟩
def F.RED_STATUS_LAST_TILE (d : Nat) : RF := ⟨domBase d + 0x200, 17, 15⟩
/-- RED_DESCRIPTORS (R217). -/
def F.RED_DESCRIPTORS (d : Nat) : RF := ⟨domBase d + 0x210, 0, 32⟩
/-- RED_BUSY_CYCLES (R217). -/
def F.RED_BUSY_CYCLES (d : Nat) : RF := ⟨domBase d + 0x214, 0, 32⟩
/-- RED_SATURATED (R217). -/
def F.RED_SATURATED (d : Nat) : RF := ⟨domBase d + 0x218, 0, 32⟩
/-- RED_NAN_OUT (R217). -/
def F.RED_NAN_OUT (d : Nat) : RF := ⟨domBase d + 0x21c, 0, 32⟩
/-- RED_RESIDUE_ERR (R217). -/
def F.RED_RESIDUE_ERR (d : Nat) : RF := ⟨domBase d + 0x220, 0, 32⟩
/-- RED_CKSUM_ERR (R217). -/
def F.RED_CKSUM_ERR (d : Nat) : RF := ⟨domBase d + 0x224, 0, 32⟩
/-- RED_REISSUE_OUT (R217). -/
def F.RED_REISSUE_OUT (d : Nat) : RF := ⟨domBase d + 0x228, 0, 32⟩
/-- RED_REISSUE_IN (R217). -/
def F.RED_REISSUE_IN (d : Nat) : RF := ⟨domBase d + 0x22c, 0, 32⟩
/-- RED_MIGRATE_PARKS (R217). -/
def F.RED_MIGRATE_PARKS (d : Nat) : RF := ⟨domBase d + 0x230, 0, 32⟩
/-- SPC_STATUS (R254). -/
def F.SPC_STATUS (d : Nat) : RF := ⟨domBase d + 0x300, 0, 32⟩
def F.SPC_STATUS_FENCED (d : Nat) : RF := ⟨domBase d + 0x300, 0, 1⟩
def F.SPC_STATUS_KIND (d : Nat) : RF := ⟨domBase d + 0x300, 1, 2⟩
def F.SPC_STATUS_SEQ (d : Nat) : RF := ⟨domBase d + 0x300, 8, 8⟩
def F.SPC_STATUS_LAST_CODE (d : Nat) : RF := ⟨domBase d + 0x300, 16, 8⟩
/-- SPC_DESCRIPTORS (R255). -/
def F.SPC_DESCRIPTORS (d : Nat) : RF := ⟨domBase d + 0x310, 0, 32⟩
/-- SPC_BUSY_CYCLES (R255). -/
def F.SPC_BUSY_CYCLES (d : Nat) : RF := ⟨domBase d + 0x314, 0, 32⟩
/-- SPC_MIGRATE_PARKS (R255). -/
def F.SPC_MIGRATE_PARKS (d : Nat) : RF := ⟨domBase d + 0x318, 0, 32⟩
/-- SPC_SATURATED (R255). -/
def F.SPC_SATURATED (d : Nat) : RF := ⟨domBase d + 0x31c, 0, 32⟩
/-- SPC_NAN_OUT (R255). -/
def F.SPC_NAN_OUT (d : Nat) : RF := ⟨domBase d + 0x320, 0, 32⟩
/-- SPC_KIND_A (R255). -/
def F.SPC_KIND_A (d : Nat) : RF := ⟨domBase d + 0x324, 0, 32⟩
/-- SPC_KIND_B (R255). -/
def F.SPC_KIND_B (d : Nat) : RF := ⟨domBase d + 0x328, 0, 32⟩
/-- TE_STATUS (R274). -/
def F.TE_STATUS (d : Nat) : RF := ⟨domBase d + 0x400, 0, 32⟩
def F.TE_STATUS_FENCED (d : Nat) : RF := ⟨domBase d + 0x400, 0, 1⟩
def F.TE_STATUS_PARKED (d : Nat) : RF := ⟨domBase d + 0x400, 1, 3⟩
def F.TE_STATUS_SEQ (d : Nat) : RF := ⟨domBase d + 0x400, 8, 8⟩
def F.TE_STATUS_LAST_CODE (d : Nat) : RF := ⟨domBase d + 0x400, 16, 8⟩
/-- TE_DESCRIPTORS (R275). -/
def F.TE_DESCRIPTORS (d : Nat) : RF := ⟨domBase d + 0x410, 0, 32⟩
/-- TE_BUSY_CYCLES (R275). -/
def F.TE_BUSY_CYCLES (d : Nat) : RF := ⟨domBase d + 0x414, 0, 32⟩
/-- TE_MIGRATE_PARKS (R275). -/
def F.TE_MIGRATE_PARKS (d : Nat) : RF := ⟨domBase d + 0x418, 0, 32⟩
/-- TE_UNITS (R275). -/
def F.TE_UNITS (d : Nat) : RF := ⟨domBase d + 0x41c, 0, 32⟩
/-- TE_RESUMED (R275). -/
def F.TE_RESUMED (d : Nat) : RF := ⟨domBase d + 0x420, 0, 32⟩
/-- TE_HOST_KIB (R275). -/
def F.TE_HOST_KIB (d : Nat) : RF := ⟨domBase d + 0x424, 0, 32⟩
/-- MEM_CFG (R292). -/
def F.MEM_CFG : RF := ⟨0x300000, 0, 32⟩
def F.MEM_CFG_STACKS : RF := ⟨0x300000, 0, 5⟩
def F.MEM_CFG_BANKS : RF := ⟨0x300000, 8, 5⟩
def F.MEM_CFG_ALLOC_HALF_GIB : RF := ⟨0x300000, 16, 11⟩
/-- MEM_FENCED (R292). -/
def F.MEM_FENCED : RF := ⟨0x300004, 0, 32⟩
def F.MEM_FENCED_STACKS : RF := ⟨0x300004, 0, 16⟩
/-- MEM_TCHK_EVENT (R293). -/
def F.MEM_TCHK_EVENT : RF := ⟨0x300008, 0, 32⟩
def F.MEM_TCHK_EVENT_SEQ : RF := ⟨0x300008, 0, 8⟩
def F.MEM_TCHK_EVENT_WHERE : RF := ⟨0x300008, 8, 2⟩
def F.MEM_TCHK_EVENT_UNIT : RF := ⟨0x300008, 10, 5⟩
def F.MEM_TCHK_EVENT_CAUSE : RF := ⟨0x300008, 15, 2⟩
def F.MEM_TCHK_EVENT_REQ : RF := ⟨0x300008, 17, 7⟩
/-- MEM_RX_CKSUM_DROP (R294). -/
def F.MEM_RX_CKSUM_DROP : RF := ⟨0x300020, 0, 32⟩
/-- HBM_ECC_CORR (R294). -/
def F.HBM_ECC_CORR (i : Nat) : RF := ⟨0x301000 + 0x100 * i, 0, 32⟩
/-- HBM_ECC_UNCORR (R294). -/
def F.HBM_ECC_UNCORR (i : Nat) : RF := ⟨0x301004 + 0x100 * i, 0, 32⟩
/-- HBM_TCHK_FAIL (R294). -/
def F.HBM_TCHK_FAIL (i : Nat) : RF := ⟨0x301008 + 0x100 * i, 0, 32⟩
/-- HBM_RMW (R294). -/
def F.HBM_RMW (i : Nat) : RF := ⟨0x30100c + 0x100 * i, 0, 32⟩
/-- HBM_CSUM_MISS (R294). -/
def F.HBM_CSUM_MISS (i : Nat) : RF := ⟨0x301010 + 0x100 * i, 0, 32⟩
/-- STG_TCHK_FAIL (R294). -/
def F.STG_TCHK_FAIL (i : Nat) : RF := ⟨0x302000 + 0x100 * i, 0, 32⟩
/-- STG_RMW (R294). -/
def F.STG_RMW (i : Nat) : RF := ⟨0x302004 + 0x100 * i, 0, 32⟩
/-- STG_STATE_ECC_CORR (R294). -/
def F.STG_STATE_ECC_CORR (i : Nat) : RF := ⟨0x302008 + 0x100 * i, 0, 32⟩
/-- STG_STATE_ECC_UNCORR (R294). -/
def F.STG_STATE_ECC_UNCORR (i : Nat) : RF := ⟨0x30200c + 0x100 * i, 0, 32⟩
/-- SEG_CMD (R316). -/
def F.SEG_CMD : RF := ⟨0x400000, 0, 32⟩
def F.SEG_CMD_OP : RF := ⟨0x400000, 0, 2⟩
def F.SEG_CMD_IDX : RF := ⟨0x400000, 2, 4⟩
def F.SEG_CMD_CTX : RF := ⟨0x400000, 6, 8⟩
/-- WIN_CMD (R316). -/
def F.WIN_CMD : RF := ⟨0x400004, 0, 32⟩
def F.WIN_CMD_OP : RF := ⟨0x400004, 0, 3⟩
def F.WIN_CMD_IDX : RF := ⟨0x400004, 3, 20⟩
/-- MIG_CMD (R316). -/
def F.MIG_CMD : RF := ⟨0x400008, 0, 32⟩
def F.MIG_CMD_OP : RF := ⟨0x400008, 0, 2⟩
def F.MIG_CMD_SEG : RF := ⟨0x400008, 2, 4⟩
def F.MIG_CMD_CTX : RF := ⟨0x400008, 6, 8⟩
def F.MIG_CMD_PAGE : RF := ⟨0x400008, 14, 18⟩
/-- SEG_EVENT (R316). -/
def F.SEG_EVENT : RF := ⟨0x400010, 0, 32⟩
def F.SEG_EVENT_SEQ : RF := ⟨0x400010, 0, 8⟩
def F.SEG_EVENT_RESULT : RF := ⟨0x400010, 8, 4⟩
def F.SEG_EVENT_PENDING : RF := ⟨0x400010, 12, 1⟩
/-- WIN_EVENT (R316). -/
def F.WIN_EVENT : RF := ⟨0x400014, 0, 32⟩
def F.WIN_EVENT_SEQ : RF := ⟨0x400014, 0, 8⟩
def F.WIN_EVENT_RESULT : RF := ⟨0x400014, 8, 4⟩
def F.WIN_EVENT_PENDING : RF := ⟨0x400014, 12, 1⟩
/-- MIG_EVENT (R316). -/
def F.MIG_EVENT : RF := ⟨0x400018, 0, 32⟩
def F.MIG_EVENT_SEQ : RF := ⟨0x400018, 0, 8⟩
def F.MIG_EVENT_RESULT : RF := ⟨0x400018, 8, 4⟩
def F.MIG_EVENT_PENDING : RF := ⟨0x400018, 12, 1⟩
/-- MIG_CTL (R316). -/
def F.MIG_CTL : RF := ⟨0x400020, 0, 32⟩
def F.MIG_CTL_TIMEOUT_TICKS : RF := ⟨0x400020, 0, 16⟩
/-- MIG_STATUS (R316). -/
def F.MIG_STATUS : RF := ⟨0x400024, 0, 32⟩
def F.MIG_STATUS_RECORDS : RF := ⟨0x400024, 0, 9⟩
/-- MIG_FAULTS (R317). -/
def F.MIG_FAULTS : RF := ⟨0x400100, 0, 32⟩
/-- MIG_COALESCED (R317). -/
def F.MIG_COALESCED : RF := ⟨0x400104, 0, 32⟩
/-- MIG_IN (R317). -/
def F.MIG_IN : RF := ⟨0x400108, 0, 32⟩
/-- MIG_WRITEBACK (R317). -/
def F.MIG_WRITEBACK : RF := ⟨0x40010c, 0, 32⟩
/-- MIG_FAILED (R317). -/
def F.MIG_FAILED : RF := ⟨0x400110, 0, 32⟩
/-- MIG_HELD_WRITES (R317). -/
def F.MIG_HELD_WRITES : RF := ⟨0x400114, 0, 32⟩
/-- MIG_HELD_DROPPED (R317). -/
def F.MIG_HELD_DROPPED : RF := ⟨0x400118, 0, 32⟩
/-- MIG_HELD_DUP (R317). -/
def F.MIG_HELD_DUP : RF := ⟨0x40011c, 0, 32⟩
/-- MIG_RECORD_WAIT (R317). -/
def F.MIG_RECORD_WAIT : RF := ⟨0x400120, 0, 32⟩
/-- WIN_KEY_STALE (R317). -/
def F.WIN_KEY_STALE : RF := ⟨0x400124, 0, 32⟩
/-- WIN_KEY_REFUSED (R317). -/
def F.WIN_KEY_REFUSED : RF := ⟨0x400128, 0, 32⟩
/-- TRN_CTL (R350). -/
def F.TRN_CTL : RF := ⟨0x500000, 0, 32⟩
def F.TRN_CTL_ACK_COALESCE : RF := ⟨0x500000, 0, 4⟩
def F.TRN_CTL_ACK_DELAY : RF := ⟨0x500000, 4, 8⟩
def F.TRN_CTL_PKT_LIFE_TICKS : RF := ⟨0x500000, 12, 12⟩
/-- TRN_RETRY (R350). -/
def F.TRN_RETRY : RF := ⟨0x500004, 0, 32⟩
def F.TRN_RETRY_RETRY_TICKS : RF := ⟨0x500004, 0, 16⟩
def F.TRN_RETRY_RETRY_LIMIT : RF := ⟨0x500004, 16, 3⟩
/-- TRN_ID (R350). -/
def F.TRN_ID : RF := ⟨0x500008, 0, 32⟩
def F.TRN_ID_ENDPOINT : RF := ⟨0x500008, 0, 20⟩
/-- QP_CMD (R350). -/
def F.QP_CMD : RF := ⟨0x500010, 0, 32⟩
def F.QP_CMD_OP : RF := ⟨0x500010, 0, 3⟩
def F.QP_CMD_QP : RF := ⟨0x500010, 3, 18⟩
/-- QP_EVENT (R350). -/
def F.QP_EVENT : RF := ⟨0x500014, 0, 32⟩
def F.QP_EVENT_SEQ : RF := ⟨0x500014, 0, 8⟩
def F.QP_EVENT_RESULT : RF := ⟨0x500014, 8, 4⟩
def F.QP_EVENT_PENDING : RF := ⟨0x500014, 12, 1⟩
/-- TRN_EVENT (R350). -/
def F.TRN_EVENT : RF := ⟨0x500018, 0, 32⟩
def F.TRN_EVENT_SEQ : RF := ⟨0x500018, 0, 8⟩
def F.TRN_EVENT_LAST_QP : RF := ⟨0x500018, 8, 18⟩
def F.TRN_EVENT_LAST_CAUSE : RF := ⟨0x500018, 26, 2⟩
/-- TRN_TX_PKTS (R351). -/
def F.TRN_TX_PKTS : RF := ⟨0x500100, 0, 32⟩
/-- TRN_RETX (R351). -/
def F.TRN_RETX : RF := ⟨0x500104, 0, 32⟩
/-- TRN_RX_PKTS (R351). -/
def F.TRN_RX_PKTS : RF := ⟨0x500108, 0, 32⟩
/-- TRN_BAD_HDR (R351). -/
def F.TRN_BAD_HDR : RF := ⟨0x50010c, 0, 32⟩
/-- TRN_BAD_QP (R351). -/
def F.TRN_BAD_QP : RF := ⟨0x500110, 0, 32⟩
/-- TRN_AGED (R351). -/
def F.TRN_AGED : RF := ⟨0x500114, 0, 32⟩
/-- TRN_DUP (R351). -/
def F.TRN_DUP : RF := ⟨0x500118, 0, 32⟩
/-- TRN_LATE (R351). -/
def F.TRN_LATE : RF := ⟨0x50011c, 0, 32⟩
/-- TRN_OUTSIDE (R351). -/
def F.TRN_OUTSIDE : RF := ⟨0x500120, 0, 32⟩
/-- TRN_REFUSED (R351). -/
def F.TRN_REFUSED : RF := ⟨0x500124, 0, 32⟩
/-- TRN_AUTH_FAIL (R351). -/
def F.TRN_AUTH_FAIL : RF := ⟨0x500128, 0, 32⟩
/-- TRN_FENCE_HELD (R351). -/
def F.TRN_FENCE_HELD : RF := ⟨0x50012c, 0, 32⟩
/-- TRN_FENCE_DROP (R351). -/
def F.TRN_FENCE_DROP : RF := ⟨0x500130, 0, 32⟩
/-- TRN_RNR (R351). -/
def F.TRN_RNR : RF := ⟨0x500134, 0, 32⟩
/-- TRN_RETRY_EXCEEDED (R351). -/
def F.TRN_RETRY_EXCEEDED : RF := ⟨0x500138, 0, 32⟩
/-- TRN_PATH_INVALID (R351). -/
def F.TRN_PATH_INVALID : RF := ⟨0x50013c, 0, 32⟩
/-- TRN_ACKS_TX (R351). -/
def F.TRN_ACKS_TX : RF := ⟨0x500140, 0, 32⟩
/-- ROUTE_CMD (R374). -/
def F.ROUTE_CMD : RF := ⟨0x500020, 0, 32⟩
def F.ROUTE_CMD_OP : RF := ⟨0x500020, 0, 2⟩
def F.ROUTE_CMD_EP : RF := ⟨0x500020, 2, 20⟩
/-- ROUTE_EVENT (R374). -/
def F.ROUTE_EVENT : RF := ⟨0x500024, 0, 32⟩
def F.ROUTE_EVENT_SEQ : RF := ⟨0x500024, 0, 8⟩
def F.ROUTE_EVENT_RESULT : RF := ⟨0x500024, 8, 4⟩
/-- CC_CTL (R374). -/
def F.CC_CTL : RF := ⟨0x500028, 0, 32⟩
def F.CC_CTL_INIT : RF := ⟨0x500028, 0, 16⟩
def F.CC_CTL_AI : RF := ⟨0x500028, 16, 16⟩
/-- CC_LIMIT (R374). -/
def F.CC_LIMIT : RF := ⟨0x50002c, 0, 32⟩
def F.CC_LIMIT_RMAX : RF := ⟨0x50002c, 0, 16⟩
def F.CC_LIMIT_RMIN : RF := ⟨0x50002c, 16, 16⟩
/-- CC_MD (R374). -/
def F.CC_MD : RF := ⟨0x500030, 0, 32⟩
def F.CC_MD_MD : RF := ⟨0x500030, 0, 8⟩
def F.CC_MD_ENABLE : RF := ⟨0x500030, 8, 1⟩
/-- FAB_TURN (R375). -/
def F.FAB_TURN (n : Nat) : RF := ⟨portBase n + 0x1000, 0, 32⟩
def F.FAB_TURN_PERMIT (n : Nat) : RF := ⟨portBase n + 0x1000, 0, 32⟩
/-- FAB_PFC (R375). -/
def F.FAB_PFC (n : Nat) : RF := ⟨portBase n + 0x1004, 0, 32⟩
def F.FAB_PFC_EN (n : Nat) : RF := ⟨portBase n + 0x1004, 0, 8⟩
def F.FAB_PFC_XOFF_KIB (n : Nat) : RF := ⟨portBase n + 0x1004, 8, 11⟩
def F.FAB_PFC_XON_KIB (n : Nat) : RF := ⟨portBase n + 0x1004, 19, 11⟩
/-- FAB_MARK (R375). -/
def F.FAB_MARK (n : Nat) : RF := ⟨portBase n + 0x1008, 0, 32⟩
def F.FAB_MARK_KMIN_KIB (n : Nat) : RF := ⟨portBase n + 0x1008, 0, 11⟩
def F.FAB_MARK_KMAX_KIB (n : Nat) : RF := ⟨portBase n + 0x1008, 11, 11⟩
def F.FAB_MARK_CE_EN (n : Nat) : RF := ⟨portBase n + 0x1008, 22, 8⟩
/-- FAB_SHAPE_RATE (R375). -/
def F.FAB_SHAPE_RATE (n c : Nat) : RF := ⟨portBase n + 0x1010 + 0x8 * c, 0, 32⟩
def F.FAB_SHAPE_RATE_RATE (n c : Nat) : RF := ⟨portBase n + 0x1010 + 0x8 * c, 0, 16⟩
/-- FAB_SHAPE_BURST (R375). -/
def F.FAB_SHAPE_BURST (n c : Nat) : RF := ⟨portBase n + 0x1014 + 0x8 * c, 0, 32⟩
def F.FAB_SHAPE_BURST_BURST_KIB (n c : Nat) : RF := ⟨portBase n + 0x1014 + 0x8 * c, 0, 11⟩
/-- FAB_NOTICE_EVENT (R375). -/
def F.FAB_NOTICE_EVENT (n : Nat) : RF := ⟨portBase n + 0x1050, 0, 32⟩
def F.FAB_NOTICE_EVENT_SEQ (n : Nat) : RF := ⟨portBase n + 0x1050, 0, 8⟩
def F.FAB_NOTICE_EVENT_CAUSE (n : Nat) : RF := ⟨portBase n + 0x1050, 8, 2⟩
def F.FAB_NOTICE_EVENT_EGRESS (n : Nat) : RF := ⟨portBase n + 0x1050, 10, 5⟩
def F.FAB_NOTICE_EVENT_HOP (n : Nat) : RF := ⟨portBase n + 0x1050, 15, 4⟩
/-- FAB_FWD_FRAMES (R376). -/
def F.FAB_FWD_FRAMES (n : Nat) : RF := ⟨portBase n + 0x1100, 0, 32⟩
/-- FAB_OTHER_ETYPE (R376). -/
def F.FAB_OTHER_ETYPE (n : Nat) : RF := ⟨portBase n + 0x1104, 0, 32⟩
/-- FAB_BAD_ROUTE (R376). -/
def F.FAB_BAD_ROUTE (n : Nat) : RF := ⟨portBase n + 0x1108, 0, 32⟩
/-- FAB_MISDELIVERED (R376). -/
def F.FAB_MISDELIVERED (n : Nat) : RF := ⟨portBase n + 0x110c, 0, 32⟩
/-- FAB_TURN_REFUSED (R376). -/
def F.FAB_TURN_REFUSED (n : Nat) : RF := ⟨portBase n + 0x1110, 0, 32⟩
/-- FAB_EGRESS_DOWN (R376). -/
def F.FAB_EGRESS_DOWN (n : Nat) : RF := ⟨portBase n + 0x1114, 0, 32⟩
/-- FAB_DROP_FULL (R376). -/
def F.FAB_DROP_FULL (n : Nat) : RF := ⟨portBase n + 0x1118, 0, 32⟩
/-- FAB_CE_MARKED (R376). -/
def F.FAB_CE_MARKED (n : Nat) : RF := ⟨portBase n + 0x111c, 0, 32⟩
/-- FAB_STOMPED (R376). -/
def F.FAB_STOMPED (n : Nat) : RF := ⟨portBase n + 0x1120, 0, 32⟩
/-- FAB_PFC_SENT (R376). -/
def F.FAB_PFC_SENT (n : Nat) : RF := ⟨portBase n + 0x1124, 0, 32⟩
/-- TRN_NOTICE_UNMATCHED (R376). -/
def F.TRN_NOTICE_UNMATCHED : RF := ⟨0x500144, 0, 32⟩
/-- TRN_NO_ROUTE (R376). -/
def F.TRN_NO_ROUTE : RF := ⟨0x500148, 0, 32⟩
/-- TRN_CC_CUTS (R376). -/
def F.TRN_CC_CUTS : RF := ⟨0x50014c, 0, 32⟩
/-- PORT_CFG (R430). -/
def F.PORT_CFG (n : Nat) : RF := ⟨portBase n + 0x0, 0, 32⟩
def F.PORT_CFG_WIDTH (n : Nat) : RF := ⟨portBase n + 0x0, 0, 2⟩
def F.PORT_CFG_ENABLE (n : Nat) : RF := ⟨portBase n + 0x0, 2, 1⟩
def F.PORT_CFG_TX_MODE (n : Nat) : RF := ⟨portBase n + 0x0, 3, 1⟩
def F.PORT_CFG_START_STEP (n : Nat) : RF := ⟨portBase n + 0x0, 4, 3⟩
def F.PORT_CFG_GUARD_EN (n : Nat) : RF := ⟨portBase n + 0x0, 7, 1⟩
def F.PORT_CFG_MAXF (n : Nat) : RF := ⟨portBase n + 0x0, 16, 14⟩
/-- PORT_STATUS (R431). -/
def F.PORT_STATUS (n : Nat) : RF := ⟨portBase n + 0x4, 0, 32⟩
def F.PORT_STATUS_LINK (n : Nat) : RF := ⟨portBase n + 0x4, 0, 1⟩
def F.PORT_STATUS_PRESENT (n : Nat) : RF := ⟨portBase n + 0x4, 1, 1⟩
def F.PORT_STATUS_FENCED (n : Nat) : RF := ⟨portBase n + 0x4, 2, 1⟩
def F.PORT_STATUS_START_CUR (n : Nat) : RF := ⟨portBase n + 0x4, 3, 3⟩
def F.PORT_STATUS_SEQ (n : Nat) : RF := ⟨portBase n + 0x4, 16, 8⟩
def F.PORT_STATUS_LAST (n : Nat) : RF := ⟨portBase n + 0x4, 24, 3⟩
/-- MAC_PAUSE_CTL (R432). -/
def F.MAC_PAUSE_CTL (n : Nat) : RF := ⟨portBase n + 0x8, 0, 32⟩
def F.MAC_PAUSE_CTL_RX_LLP_EN (n : Nat) : RF := ⟨portBase n + 0x8, 0, 1⟩
def F.MAC_PAUSE_CTL_RX_PFC_EN (n : Nat) : RF := ⟨portBase n + 0x8, 8, 8⟩
def F.MAC_PAUSE_CTL_WD_MS (n : Nat) : RF := ⟨portBase n + 0x8, 16, 8⟩
/-- MAC_PAUSE_STATE (R432). -/
def F.MAC_PAUSE_STATE (n : Nat) : RF := ⟨portBase n + 0xc, 0, 32⟩
def F.MAC_PAUSE_STATE_PAUSED (n : Nat) : RF := ⟨portBase n + 0xc, 0, 8⟩
def F.MAC_PAUSE_STATE_LLP (n : Nat) : RF := ⟨portBase n + 0xc, 8, 1⟩
def F.MAC_PAUSE_STATE_WD_BROKEN (n : Nat) : RF := ⟨portBase n + 0xc, 16, 8⟩
/-- PTP_ASYM (R432). -/
def F.PTP_ASYM (n : Nat) : RF := ⟨portBase n + 0x10, 0, 32⟩
def F.PTP_ASYM_ASYM_PS (n : Nat) : RF := ⟨portBase n + 0x10, 0, 32⟩
/-- MAC_TX_FRAMES (R433). -/
def F.MAC_TX_FRAMES (n : Nat) : RF := ⟨portBase n + 0x200, 0, 32⟩
/-- MAC_TX_BYTES_LO (R433). -/
def F.MAC_TX_BYTES_LO (n : Nat) : RF := ⟨portBase n + 0x204, 0, 32⟩
/-- MAC_TX_BYTES_HI (R433). -/
def F.MAC_TX_BYTES_HI (n : Nat) : RF := ⟨portBase n + 0x208, 0, 32⟩
/-- MAC_RX_FRAMES (R433). -/
def F.MAC_RX_FRAMES (n : Nat) : RF := ⟨portBase n + 0x20c, 0, 32⟩
/-- MAC_RX_BYTES_LO (R433). -/
def F.MAC_RX_BYTES_LO (n : Nat) : RF := ⟨portBase n + 0x210, 0, 32⟩
/-- MAC_RX_BYTES_HI (R433). -/
def F.MAC_RX_BYTES_HI (n : Nat) : RF := ⟨portBase n + 0x214, 0, 32⟩
/-- MAC_RX_FCS_ERR (R433). -/
def F.MAC_RX_FCS_ERR (n : Nat) : RF := ⟨portBase n + 0x218, 0, 32⟩
/-- MAC_RX_RUNT (R433). -/
def F.MAC_RX_RUNT (n : Nat) : RF := ⟨portBase n + 0x21c, 0, 32⟩
/-- MAC_RX_OVERSIZE (R433). -/
def F.MAC_RX_OVERSIZE (n : Nat) : RF := ⟨portBase n + 0x220, 0, 32⟩
/-- MAC_RX_OVERFLOW (R433). -/
def F.MAC_RX_OVERFLOW (n : Nat) : RF := ⟨portBase n + 0x224, 0, 32⟩
/-- MAC_TX_UNDERRUN (R433). -/
def F.MAC_TX_UNDERRUN (n : Nat) : RF := ⟨portBase n + 0x228, 0, 32⟩
/-- MAC_TX_OVERSIZE_DROP (R433). -/
def F.MAC_TX_OVERSIZE_DROP (n : Nat) : RF := ⟨portBase n + 0x22c, 0, 32⟩
/-- MAC_TX_DISCARD (R433). -/
def F.MAC_TX_DISCARD (n : Nat) : RF := ⟨portBase n + 0x230, 0, 32⟩
/-- MAC_PAUSE_RX (R433). -/
def F.MAC_PAUSE_RX (n : Nat) : RF := ⟨portBase n + 0x234, 0, 32⟩
/-- MAC_PFC_RX (R433). -/
def F.MAC_PFC_RX (n : Nat) : RF := ⟨portBase n + 0x238, 0, 32⟩
/-- MAC_PAUSE_WD (R433). -/
def F.MAC_PAUSE_WD (n : Nat) : RF := ⟨portBase n + 0x23c, 0, 32⟩
/-- MAC_GUARD_HOLDS (R433). -/
def F.MAC_GUARD_HOLDS (n : Nat) : RF := ⟨portBase n + 0x240, 0, 32⟩
/-- FEC_CORR_CW (R433). -/
def F.FEC_CORR_CW (n : Nat) : RF := ⟨portBase n + 0x244, 0, 32⟩
/-- FEC_UNCORR_CW (R433). -/
def F.FEC_UNCORR_CW (n : Nat) : RF := ⟨portBase n + 0x248, 0, 32⟩
/-- PTP_RX_EVENTS (R433). -/
def F.PTP_RX_EVENTS (n : Nat) : RF := ⟨portBase n + 0x24c, 0, 32⟩
/-- PTP_TX_EVENTS (R433). -/
def F.PTP_TX_EVENTS (n : Nat) : RF := ⟨portBase n + 0x250, 0, 32⟩
/-- LINK_DOWNS (R433). -/
def F.LINK_DOWNS (n : Nat) : RF := ⟨portBase n + 0x254, 0, 32⟩
/-- MAC_CTL_OTHER (R433). -/
def F.MAC_CTL_OTHER (n : Nat) : RF := ⟨portBase n + 0x258, 0, 32⟩
/-- LB_STATUS (R434). -/
def F.LB_STATUS (m : Nat) : RF := ⟨bayBase m + 0x2000, 0, 32⟩
def F.LB_STATUS_STATE (m : Nat) : RF := ⟨bayBase m + 0x2000, 0, 3⟩
def F.LB_STATUS_LATCH (m : Nat) : RF := ⟨bayBase m + 0x2000, 3, 1⟩
def F.LB_STATUS_EOL_WARN (m : Nat) : RF := ⟨bayBase m + 0x2000, 4, 1⟩
def F.LB_STATUS_EOL (m : Nat) : RF := ⟨bayBase m + 0x2000, 5, 1⟩
def F.LB_STATUS_SEQ (m : Nat) : RF := ⟨bayBase m + 0x2000, 8, 8⟩
def F.LB_STATUS_LAST (m : Nat) : RF := ⟨bayBase m + 0x2000, 16, 4⟩
/-- LB_CMD (R434). -/
def F.LB_CMD (m : Nat) : RF := ⟨bayBase m + 0x2004, 0, 32⟩
def F.LB_CMD_OP (m : Nat) : RF := ⟨bayBase m + 0x2004, 0, 2⟩
/-- LB_CLASS (R434). -/
def F.LB_CLASS (m : Nat) : RF := ⟨bayBase m + 0x2008, 0, 32⟩
def F.LB_CLASS_BAY_CLASS (m : Nat) : RF := ⟨bayBase m + 0x2008, 0, 16⟩
def F.LB_CLASS_CART_CLASS (m : Nat) : RF := ⟨bayBase m + 0x2008, 16, 16⟩
/-- FN_ID (R462). -/
def F.FN_ID (c : Nat) : RF := ⟨fnBase c + 0x0, 0, 32⟩
def F.FN_ID_CTX (c : Nat) : RF := ⟨fnBase c + 0x0, 0, 8⟩
def F.FN_ID_PORT (c : Nat) : RF := ⟨fnBase c + 0x0, 8, 2⟩
def F.FN_ID_VF (c : Nat) : RF := ⟨fnBase c + 0x0, 10, 8⟩
/-- FN_APER_LO (R462). -/
def F.FN_APER_LO (c : Nat) : RF := ⟨fnBase c + 0x8, 0, 32⟩
def F.FN_APER_LO_LO (c : Nat) : RF := ⟨fnBase c + 0x8, 0, 32⟩
/-- FN_APER_HI (R462). -/
def F.FN_APER_HI (c : Nat) : RF := ⟨fnBase c + 0xc, 0, 32⟩
def F.FN_APER_HI_HI (c : Nat) : RF := ⟨fnBase c + 0xc, 0, 15⟩
/-- SQ_BASE_LO (R462). -/
def F.SQ_BASE_LO (c q : Nat) : RF := ⟨fnBase c + 0x10 + 0x20 * q, 0, 32⟩
def F.SQ_BASE_LO_LO (c q : Nat) : RF := ⟨fnBase c + 0x10 + 0x20 * q, 0, 32⟩
/-- SQ_BASE_HI (R462). -/
def F.SQ_BASE_HI (c q : Nat) : RF := ⟨fnBase c + 0x14 + 0x20 * q, 0, 32⟩
def F.SQ_BASE_HI_HI (c q : Nat) : RF := ⟨fnBase c + 0x14 + 0x20 * q, 0, 32⟩
/-- SQ_CFG (R462). -/
def F.SQ_CFG (c q : Nat) : RF := ⟨fnBase c + 0x18 + 0x20 * q, 0, 32⟩
def F.SQ_CFG_LOG2SIZE (c q : Nat) : RF := ⟨fnBase c + 0x18 + 0x20 * q, 0, 4⟩
def F.SQ_CFG_ENABLE (c q : Nat) : RF := ⟨fnBase c + 0x18 + 0x20 * q, 4, 1⟩
def F.SQ_CFG_LOC (c q : Nat) : RF := ⟨fnBase c + 0x18 + 0x20 * q, 5, 1⟩
def F.SQ_CFG_DB_SYNC (c q : Nat) : RF := ⟨fnBase c + 0x18 + 0x20 * q, 6, 12⟩
/-- SQ_CQ (R462). -/
def F.SQ_CQ (c q : Nat) : RF := ⟨fnBase c + 0x1c + 0x20 * q, 0, 32⟩
def F.SQ_CQ_CQ (c q : Nat) : RF := ⟨fnBase c + 0x1c + 0x20 * q, 0, 16⟩
/-- SQ_STATUS (R462). -/
def F.SQ_STATUS (c q : Nat) : RF := ⟨fnBase c + 0x20 + 0x20 * q, 0, 32⟩
def F.SQ_STATUS_STATE (c q : Nat) : RF := ⟨fnBase c + 0x20 + 0x20 * q, 0, 2⟩
def F.SQ_STATUS_SEQ (c q : Nat) : RF := ⟨fnBase c + 0x20 + 0x20 * q, 8, 8⟩
def F.SQ_STATUS_STOP_IDX (c q : Nat) : RF := ⟨fnBase c + 0x20 + 0x20 * q, 16, 16⟩
/-- SQ_RESTART (R462). -/
def F.SQ_RESTART (c q : Nat) : RF := ⟨fnBase c + 0x24 + 0x20 * q, 0, 32⟩
def F.SQ_RESTART_GO (c q : Nat) : RF := ⟨fnBase c + 0x24 + 0x20 * q, 0, 1⟩
/-- SQ_FETCH (R462). -/
def F.SQ_FETCH (c q : Nat) : RF := ⟨fnBase c + 0x28 + 0x20 * q, 0, 32⟩
def F.SQ_FETCH_FETCH (c q : Nat) : RF := ⟨fnBase c + 0x28 + 0x20 * q, 0, 16⟩
def F.SQ_FETCH_PROD (c q : Nat) : RF := ⟨fnBase c + 0x28 + 0x20 * q, 16, 16⟩
/-- HOST_PORT_STATUS (R463). -/
def F.HOST_PORT_STATUS (h : Nat) : RF := ⟨0x610000 + 0x4 * h, 0, 32⟩
def F.HOST_PORT_STATUS_LINK (h : Nat) : RF := ⟨0x610000 + 0x4 * h, 0, 1⟩
def F.HOST_PORT_STATUS_RATE (h : Nat) : RF := ⟨0x610000 + 0x4 * h, 1, 2⟩
def F.HOST_PORT_STATUS_WIDTH (h : Nat) : RF := ⟨0x610000 + 0x4 * h, 3, 4⟩
def F.HOST_PORT_STATUS_PERST (h : Nat) : RF := ⟨0x610000 + 0x4 * h, 7, 1⟩
def F.HOST_PORT_STATUS_SEQ (h : Nat) : RF := ⟨0x610000 + 0x4 * h, 8, 8⟩
/-- HOST_VF_LIMIT (R463). -/
def F.HOST_VF_LIMIT : RF := ⟨0x610010, 0, 32⟩
def F.HOST_VF_LIMIT_MAX : RF := ⟨0x610010, 0, 32⟩
/-- HOST_CTX_MAP (R463). -/
def F.HOST_CTX_MAP (c : Nat) : RF := ⟨0x610100 + 0x4 * c, 0, 32⟩
def F.HOST_CTX_MAP_PORT (c : Nat) : RF := ⟨0x610100 + 0x4 * c, 0, 2⟩
def F.HOST_CTX_MAP_VF (c : Nat) : RF := ⟨0x610100 + 0x4 * c, 2, 7⟩
def F.HOST_CTX_MAP_VALID (c : Nat) : RF := ⟨0x610100 + 0x4 * c, 9, 1⟩
def F.HOST_CTX_MAP_STATE (c : Nat) : RF := ⟨0x610100 + 0x4 * c, 10, 2⟩
/-- QUOTA_CMD (R463). -/
def F.QUOTA_CMD : RF := ⟨0x610800, 0, 32⟩
def F.QUOTA_CMD_OP : RF := ⟨0x610800, 0, 2⟩
def F.QUOTA_CMD_CTX : RF := ⟨0x610800, 2, 8⟩
/-- QUOTA_EVENT (R463). -/
def F.QUOTA_EVENT : RF := ⟨0x610804, 0, 32⟩
def F.QUOTA_EVENT_SEQ : RF := ⟨0x610804, 0, 8⟩
def F.QUOTA_EVENT_RESULT : RF := ⟨0x610804, 8, 4⟩
def F.QUOTA_EVENT_PENDING : RF := ⟨0x610804, 12, 1⟩
/-- CTXM_CMD (R463). -/
def F.CTXM_CMD : RF := ⟨0x610900, 0, 32⟩
def F.CTXM_CMD_OP : RF := ⟨0x610900, 0, 3⟩
def F.CTXM_CMD_CTX : RF := ⟨0x610900, 3, 8⟩
def F.CTXM_CMD_QP : RF := ⟨0x610900, 11, 18⟩
/-- CTXM_EVENT (R463). -/
def F.CTXM_EVENT : RF := ⟨0x610904, 0, 32⟩
def F.CTXM_EVENT_SEQ : RF := ⟨0x610904, 0, 8⟩
def F.CTXM_EVENT_RESULT : RF := ⟨0x610904, 8, 4⟩
def F.CTXM_EVENT_CODE : RF := ⟨0x610904, 12, 8⟩
/-- CTXM_ADDR_LO (R463). -/
def F.CTXM_ADDR_LO : RF := ⟨0x610908, 0, 32⟩
def F.CTXM_ADDR_LO_ADDR : RF := ⟨0x610908, 0, 32⟩
/-- CTXM_ADDR_HI (R463). -/
def F.CTXM_ADDR_HI : RF := ⟨0x61090c, 0, 32⟩
def F.CTXM_ADDR_HI_ADDR : RF := ⟨0x61090c, 0, 32⟩
/-- CTXM_LEN (R463). -/
def F.CTXM_LEN : RF := ⟨0x610910, 0, 32⟩
def F.CTXM_LEN_LEN : RF := ⟨0x610910, 0, 32⟩
/-- CTXM_BLOB_LEN (R463). -/
def F.CTXM_BLOB_LEN : RF := ⟨0x610914, 0, 32⟩
def F.CTXM_BLOB_LEN_LEN : RF := ⟨0x610914, 0, 32⟩
/-- CTXM_REMAP_LO (R463). -/
def F.CTXM_REMAP_LO : RF := ⟨0x610918, 0, 32⟩
def F.CTXM_REMAP_LO_ADDR : RF := ⟨0x610918, 0, 32⟩
/-- CTXM_REMAP_HI (R463). -/
def F.CTXM_REMAP_HI : RF := ⟨0x61091c, 0, 32⟩
def F.CTXM_REMAP_HI_ADDR : RF := ⟨0x61091c, 0, 32⟩
/-- CTXM_IDKEY (R463). -/
def F.CTXM_IDKEY : RF := ⟨0x610920, 0, 32⟩
def F.CTXM_IDKEY_SLOT : RF := ⟨0x610920, 0, 8⟩
/-- CTXM_EP (R463). -/
def F.CTXM_EP : RF := ⟨0x610924, 0, 32⟩
def F.CTXM_EP_EP : RF := ⟨0x610924, 0, 20⟩
/-- ATTACH_BIND (R463). -/
def F.ATTACH_BIND (q : Nat) : RF := ⟨0x610a00 + 0x4 * q, 0, 32⟩
def F.ATTACH_BIND_CTX (q : Nat) : RF := ⟨0x610a00 + 0x4 * q, 0, 8⟩
def F.ATTACH_BIND_EN (q : Nat) : RF := ⟨0x610a00 + 0x4 * q, 8, 1⟩
/-- HOST_SQ_ENTRIES (R465). -/
def F.HOST_SQ_ENTRIES : RF := ⟨0x612000, 0, 32⟩
/-- HOST_SQ_REFETCH (R465). -/
def F.HOST_SQ_REFETCH : RF := ⟨0x612004, 0, 32⟩
/-- HOST_SQ_STOPS (R465). -/
def F.HOST_SQ_STOPS : RF := ⟨0x612008, 0, 32⟩
/-- HOST_DB_BAD (R465). -/
def F.HOST_DB_BAD : RF := ⟨0x61200c, 0, 32⟩
/-- HOST_CQ_FULL_WAITS (R465). -/
def F.HOST_CQ_FULL_WAITS : RF := ⟨0x612010, 0, 32⟩
/-- HOST_MSIX_SENT (R465). -/
def F.HOST_MSIX_SENT : RF := ⟨0x612014, 0, 32⟩
/-- HOST_BAR_REFUSED (R465). -/
def F.HOST_BAR_REFUSED : RF := ⟨0x612018, 0, 32⟩
/-- HOST_PEER_FRAMES_RX (R465). -/
def F.HOST_PEER_FRAMES_RX : RF := ⟨0x61201c, 0, 32⟩
/-- HOST_PEER_FRAMES_TX (R465). -/
def F.HOST_PEER_FRAMES_TX : RF := ⟨0x612020, 0, 32⟩
/-- HOST_PEER_BAD (R465). -/
def F.HOST_PEER_BAD : RF := ⟨0x612024, 0, 32⟩
/-- HOST_CTX_RESETS (R465). -/
def F.HOST_CTX_RESETS : RF := ⟨0x612028, 0, 32⟩
/-- CE_KEY_CMD (R495). -/
def F.CE_KEY_CMD : RF := ⟨0x700000, 0, 32⟩
def F.CE_KEY_CMD_OP : RF := ⟨0x700000, 0, 2⟩
def F.CE_KEY_CMD_CTX : RF := ⟨0x700000, 2, 8⟩
def F.CE_KEY_CMD_IDX : RF := ⟨0x700000, 10, 8⟩
def F.CE_KEY_CMD_USE : RF := ⟨0x700000, 18, 1⟩
/-- CE_KEY_EVENT (R495). -/
def F.CE_KEY_EVENT : RF := ⟨0x700004, 0, 32⟩
def F.CE_KEY_EVENT_SEQ : RF := ⟨0x700004, 0, 8⟩
def F.CE_KEY_EVENT_RESULT : RF := ⟨0x700004, 8, 4⟩
def F.CE_KEY_EVENT_VALID : RF := ⟨0x700004, 12, 1⟩
def F.CE_KEY_EVENT_USE : RF := ⟨0x700004, 13, 1⟩
/-- CE_KEY_KCV_LO (R495). -/
def F.CE_KEY_KCV_LO : RF := ⟨0x700008, 0, 32⟩
def F.CE_KEY_KCV_LO_KCV : RF := ⟨0x700008, 0, 32⟩
/-- CE_KEY_KCV_HI (R495). -/
def F.CE_KEY_KCV_HI : RF := ⟨0x70000c, 0, 32⟩
def F.CE_KEY_KCV_HI_KCV : RF := ⟨0x70000c, 0, 32⟩
/-- KEY_SLOT_CMD (R495). -/
def F.KEY_SLOT_CMD : RF := ⟨0x700100, 0, 32⟩
def F.KEY_SLOT_CMD_KIND : RF := ⟨0x700100, 0, 2⟩
def F.KEY_SLOT_CMD_SLOT : RF := ⟨0x700100, 2, 4⟩
def F.KEY_SLOT_CMD_OP : RF := ⟨0x700100, 6, 2⟩
/-- KEY_SLOT_EVENT (R495). -/
def F.KEY_SLOT_EVENT : RF := ⟨0x700104, 0, 32⟩
def F.KEY_SLOT_EVENT_SEQ : RF := ⟨0x700104, 0, 8⟩
def F.KEY_SLOT_EVENT_RESULT : RF := ⟨0x700104, 8, 4⟩
/-- FW_CMD (R496). -/
def F.FW_CMD : RF := ⟨0x700200, 0, 32⟩
def F.FW_CMD_OP : RF := ⟨0x700200, 0, 4⟩
def F.FW_CMD_CONFIRM : RF := ⟨0x700200, 16, 16⟩
/-- FW_EVENT (R496). -/
def F.FW_EVENT : RF := ⟨0x700204, 0, 32⟩
def F.FW_EVENT_SEQ : RF := ⟨0x700204, 0, 8⟩
def F.FW_EVENT_RESULT : RF := ⟨0x700204, 8, 5⟩
def F.FW_EVENT_COMP : RF := ⟨0x700204, 13, 2⟩
/-- FW_STATUS (R496). -/
def F.FW_STATUS : RF := ⟨0x700208, 0, 32⟩
def F.FW_STATUS_SESSION : RF := ⟨0x700208, 0, 1⟩
def F.FW_STATUS_LAST_STAGED : RF := ⟨0x700208, 1, 2⟩
def F.FW_STATUS_ACTIVATING : RF := ⟨0x700208, 3, 1⟩
def F.FW_STATUS_SETTINGS_RESET : RF := ⟨0x700208, 4, 1⟩
/-- FW_ADDR_LO (R496). -/
def F.FW_ADDR_LO : RF := ⟨0x700210, 0, 32⟩
def F.FW_ADDR_LO_ADDR : RF := ⟨0x700210, 0, 32⟩
/-- FW_ADDR_HI (R496). -/
def F.FW_ADDR_HI : RF := ⟨0x700214, 0, 32⟩
def F.FW_ADDR_HI_ADDR : RF := ⟨0x700214, 0, 32⟩
/-- FW_LEN (R496). -/
def F.FW_LEN : RF := ⟨0x700218, 0, 32⟩
def F.FW_LEN_LEN : RF := ⟨0x700218, 0, 32⟩
/-- FW_CTL (R496). -/
def F.FW_CTL : RF := ⟨0x70021c, 0, 32⟩
def F.FW_CTL_DRAIN_TICKS : RF := ⟨0x70021c, 0, 16⟩
def F.FW_CTL_AUTO_STAGE : RF := ⟨0x70021c, 16, 1⟩
/-- FW_SETTINGS (R496). -/
def F.FW_SETTINGS : RF := ⟨0x700240, 0, 32⟩
def F.FW_SETTINGS_STORED : RF := ⟨0x700240, 0, 16⟩
def F.FW_SETTINGS_RUNNING : RF := ⟨0x700240, 16, 16⟩
/-- FW_RELAY_BUF_LO (R496). -/
def F.FW_RELAY_BUF_LO : RF := ⟨0x700250, 0, 32⟩
def F.FW_RELAY_BUF_LO_ADDR : RF := ⟨0x700250, 0, 32⟩
/-- FW_RELAY_BUF_HI (R496). -/
def F.FW_RELAY_BUF_HI : RF := ⟨0x700254, 0, 32⟩
def F.FW_RELAY_BUF_HI_ADDR : RF := ⟨0x700254, 0, 32⟩
/-- FW_RELAY_PEER (R496). -/
def F.FW_RELAY_PEER (k : Nat) : RF := ⟨0x700280 + 0x4 * k, 0, 32⟩
def F.FW_RELAY_PEER_QP (k : Nat) : RF := ⟨0x700280 + 0x4 * k, 0, 18⟩
def F.FW_RELAY_PEER_EN (k : Nat) : RF := ⟨0x700280 + 0x4 * k, 31, 1⟩
/-- CE_STATUS (R497). -/
def F.CE_STATUS (d : Nat) : RF := ⟨domBase d + 0x500, 0, 32⟩
def F.CE_STATUS_FENCED (d : Nat) : RF := ⟨domBase d + 0x500, 0, 1⟩
def F.CE_STATUS_STRIKE (d : Nat) : RF := ⟨domBase d + 0x500, 1, 1⟩
def F.CE_STATUS_SEQ (d : Nat) : RF := ⟨domBase d + 0x500, 8, 8⟩
def F.CE_STATUS_PIPE (d : Nat) : RF := ⟨domBase d + 0x500, 16, 1⟩
/-- CE_TX_PKTS (R497). -/
def F.CE_TX_PKTS (d : Nat) : RF := ⟨domBase d + 0x510, 0, 32⟩
/-- CE_RX_PKTS (R497). -/
def F.CE_RX_PKTS (d : Nat) : RF := ⟨domBase d + 0x514, 0, 32⟩
/-- CE_AUTH_FAIL (R497). -/
def F.CE_AUTH_FAIL (d : Nat) : RF := ⟨domBase d + 0x518, 0, 32⟩
/-- CE_CHECK_ERR (R497). -/
def F.CE_CHECK_ERR (d : Nat) : RF := ⟨domBase d + 0x51c, 0, 32⟩
/-- CE_SUSPENSIONS (R497). -/
def F.CE_SUSPENSIONS (d : Nat) : RF := ⟨domBase d + 0x520, 0, 32⟩
/-- CE_DESCRIPTORS (R497). -/
def F.CE_DESCRIPTORS (d : Nat) : RF := ⟨domBase d + 0x524, 0, 32⟩
/-- FCOL_STATUS_LO (R522). -/
def F.FCOL_STATUS_LO : RF := ⟨0x10000, 0, 32⟩
def F.FCOL_STATUS_LO_ACTIVE : RF := ⟨0x10000, 0, 32⟩
/-- FCOL_STATUS_HI (R522). -/
def F.FCOL_STATUS_HI : RF := ⟨0x10004, 0, 32⟩
def F.FCOL_STATUS_HI_ACTIVE : RF := ⟨0x10004, 0, 32⟩
/-- FCOL_FORCE_LO (R522). -/
def F.FCOL_FORCE_LO : RF := ⟨0x10008, 0, 32⟩
def F.FCOL_FORCE_LO_FORCE : RF := ⟨0x10008, 0, 32⟩
/-- FCOL_FORCE_HI (R522). -/
def F.FCOL_FORCE_HI : RF := ⟨0x1000c, 0, 32⟩
def F.FCOL_FORCE_HI_FORCE : RF := ⟨0x1000c, 0, 32⟩
/-- FCOL_FORCE_UNIT (R522). -/
def F.FCOL_FORCE_UNIT : RF := ⟨0x10010, 0, 32⟩
def F.FCOL_FORCE_UNIT_UNIT : RF := ⟨0x10010, 0, 8⟩
/-- FCOL_CTL (R522). -/
def F.FCOL_CTL : RF := ⟨0x10014, 0, 32⟩
def F.FCOL_CTL_VECTOR : RF := ⟨0x10014, 0, 6⟩
def F.FCOL_CTL_ARM : RF := ⟨0x10014, 6, 1⟩
def F.FCOL_CTL_ARMED : RF := ⟨0x10014, 7, 1⟩
/-- FCOL_UNFENCE (R522). -/
def F.FCOL_UNFENCE : RF := ⟨0x10018, 0, 32⟩
def F.FCOL_UNFENCE_KIND : RF := ⟨0x10018, 0, 3⟩
def F.FCOL_UNFENCE_UNIT : RF := ⟨0x10018, 3, 8⟩
/-- FCOL_CMD_EVENT (R522). -/
def F.FCOL_CMD_EVENT : RF := ⟨0x1001c, 0, 32⟩
def F.FCOL_CMD_EVENT_SEQ : RF := ⟨0x1001c, 0, 8⟩
def F.FCOL_CMD_EVENT_RESULT : RF := ⟨0x1001c, 8, 4⟩
/-- FCOL_FENCED_ENG_LO (R522). -/
def F.FCOL_FENCED_ENG_LO : RF := ⟨0x10020, 0, 32⟩
def F.FCOL_FENCED_ENG_LO_ENG : RF := ⟨0x10020, 0, 32⟩
/-- FCOL_FENCED_ENG_HI (R522). -/
def F.FCOL_FENCED_ENG_HI : RF := ⟨0x10024, 0, 32⟩
def F.FCOL_FENCED_ENG_HI_ENG : RF := ⟨0x10024, 0, 32⟩
/-- FCOL_FENCED_DOM (R522). -/
def F.FCOL_FENCED_DOM : RF := ⟨0x10028, 0, 32⟩
def F.FCOL_FENCED_DOM_DOMAINS : RF := ⟨0x10028, 0, 16⟩
def F.FCOL_FENCED_DOM_BAYS : RF := ⟨0x10028, 16, 8⟩
/-- FCOL_FENCED_PORT (R522). -/
def F.FCOL_FENCED_PORT : RF := ⟨0x1002c, 0, 32⟩
def F.FCOL_FENCED_PORT_PORTS : RF := ⟨0x1002c, 0, 32⟩
/-- FCOL_SAFE_CAUSE (R522). -/
def F.FCOL_SAFE_CAUSE : RF := ⟨0x10030, 0, 32⟩
def F.FCOL_SAFE_CAUSE_SOURCE : RF := ⟨0x10030, 0, 6⟩
def F.FCOL_SAFE_CAUSE_VALID : RF := ⟨0x10030, 6, 1⟩
/-- FCOL_CFG (R523). -/
def F.FCOL_CFG (s : Nat) : RF := ⟨0x10100 + 0x4 * s, 0, 32⟩
def F.FCOL_CFG_REACTION (s : Nat) : RF := ⟨0x10100 + 0x4 * s, 0, 2⟩
def F.FCOL_CFG_QUIET_MS (s : Nat) : RF := ⟨0x10100 + 0x4 * s, 16, 16⟩
/-- FCOL_EVT (R523). -/
def F.FCOL_EVT (s : Nat) : RF := ⟨0x10200 + 0x4 * s, 0, 32⟩
def F.FCOL_EVT_SEQ (s : Nat) : RF := ⟨0x10200 + 0x4 * s, 0, 8⟩
def F.FCOL_EVT_ACTIVE (s : Nat) : RF := ⟨0x10200 + 0x4 * s, 8, 1⟩
def F.FCOL_EVT_FORCED (s : Nat) : RF := ⟨0x10200 + 0x4 * s, 9, 1⟩
def F.FCOL_EVT_UNIT (s : Nat) : RF := ⟨0x10200 + 0x4 * s, 16, 8⟩
def F.FCOL_EVT_DETAIL (s : Nat) : RF := ⟨0x10200 + 0x4 * s, 24, 8⟩
/-- FCOL_COUNT (R524). -/
def F.FCOL_COUNT (s : Nat) : RF := ⟨0x10300 + 0x4 * s, 0, 32⟩
def F.FCOL_COUNT_EVENTS (s : Nat) : RF := ⟨0x10300 + 0x4 * s, 0, 16⟩
def F.FCOL_COUNT_RECOVERIES (s : Nat) : RF := ⟨0x10300 + 0x4 * s, 16, 16⟩
/-- FCOL_STATUS_SNAP_LO (R524). -/
def F.FCOL_STATUS_SNAP_LO : RF := ⟨0x10400, 0, 32⟩
/-- FCOL_STATUS_SNAP_HI (R524). -/
def F.FCOL_STATUS_SNAP_HI : RF := ⟨0x10404, 0, 32⟩
/-- REG_RWK_CHANGED (R524). -/
def F.REG_RWK_CHANGED : RF := ⟨0x10408, 0, 32⟩
/-- SNAP_CMD (R525). -/
def F.SNAP_CMD : RF := ⟨0x800000, 0, 32⟩
def F.SNAP_CMD_SCOPE : RF := ⟨0x800000, 0, 8⟩
/-- SNAP_STATUS (R525). -/
def F.SNAP_STATUS : RF := ⟨0x800004, 0, 32⟩
def F.SNAP_STATUS_TAKEN : RF := ⟨0x800004, 0, 16⟩
def F.SNAP_STATUS_LAST_SCOPE : RF := ⟨0x800004, 16, 8⟩
def F.SNAP_STATUS_REFUSED : RF := ⟨0x800004, 24, 1⟩
/-- SNAP_TICK_LO (R525). -/
def F.SNAP_TICK_LO : RF := ⟨0x800008, 0, 32⟩
def F.SNAP_TICK_LO_TICK : RF := ⟨0x800008, 0, 32⟩
/-- SNAP_TICK_HI (R525). -/
def F.SNAP_TICK_HI : RF := ⟨0x80000c, 0, 32⟩
def F.SNAP_TICK_HI_TICK : RF := ⟨0x80000c, 0, 32⟩
/-- PWR_TELEM (R535). -/
def F.PWR_TELEM : RF := ⟨0x214, 0, 32⟩
def F.PWR_TELEM_AVG_W : RF := ⟨0x214, 0, 11⟩
def F.PWR_TELEM_V54_QV : RF := ⟨0x214, 16, 8⟩
/-- PWR_LIFE (R541). -/
def F.PWR_LIFE : RF := ⟨0x218, 0, 32⟩
def F.PWR_LIFE_POWERED_DAYS : RF := ⟨0x218, 0, 16⟩
def F.PWR_LIFE_TJ_AVG : RF := ⟨0x218, 16, 8⟩
/-- BRUP_ELAPSED (R86). -/
def F.BRUP_ELAPSED : RF := ⟨0x104, 0, 32⟩
/-- BRUP_IGN_WRITES (R86). -/
def F.BRUP_IGN_WRITES : RF := ⟨0x108, 0, 16⟩
/-- TIME_SET_S_LO (R121). -/
def F.TIME_SET_S_LO : RF := ⟨0x20018, 0, 32⟩
def F.TIME_SET_S_LO_S : RF := ⟨0x20018, 0, 32⟩
/-- TIME_SET_S_HI (R121). -/
def F.TIME_SET_S_HI : RF := ⟨0x2001c, 0, 32⟩
def F.TIME_SET_S_HI_S : RF := ⟨0x2001c, 0, 16⟩
/-- TIME_MISMATCH (R121). -/
def F.TIME_MISMATCH : RF := ⟨0x20038, 0, 32⟩
def F.TIME_MISMATCH_PORTS : RF := ⟨0x20038, 0, 16⟩
/-- MEM_TCHK_ADDR_LO (R293). -/
def F.MEM_TCHK_ADDR_LO : RF := ⟨0x300010, 0, 32⟩
/-- MEM_TCHK_ADDR_HI (R293). -/
def F.MEM_TCHK_ADDR_HI : RF := ⟨0x300014, 0, 32⟩
/-- LB_SERIAL_LO (R434). -/
def F.LB_SERIAL_LO (m : Nat) : RF := ⟨bayBase m + 0x200c, 0, 32⟩
/-- LB_SERIAL_HI (R434). -/
def F.LB_SERIAL_HI (m : Nat) : RF := ⟨bayBase m + 0x2010, 0, 32⟩
/-- LB_MFG_DATE (R434). -/
def F.LB_MFG_DATE (m : Nat) : RF := ⟨bayBase m + 0x2014, 0, 32⟩
/-- LB_POWERED_MIN (R434). -/
def F.LB_POWERED_MIN (m : Nat) : RF := ⟨bayBase m + 0x2018, 0, 32⟩
/-- LB_WEIGHTED (R434). -/
def F.LB_WEIGHTED (m : Nat) : RF := ⟨bayBase m + 0x201c, 0, 32⟩
/-- LB_REMAIN_MIN (R434). -/
def F.LB_REMAIN_MIN (m : Nat) : RF := ⟨bayBase m + 0x2020, 0, 32⟩
/-- LB_OUTPUT (R434). -/
def F.LB_OUTPUT (m : Nat) : RF := ⟨bayBase m + 0x2024, 0, 32⟩
def F.LB_OUTPUT_FRACTION (m : Nat) : RF := ⟨bayBase m + 0x2024, 0, 8⟩
/-- FW_VER (R496). -/
def F.FW_VER (c : Nat) : RF := ⟨0x700220 + 0x4 * c, 0, 32⟩
/-- FW_STAGED_VER (R496). -/
def F.FW_STAGED_VER (c : Nat) : RF := ⟨0x700230 + 0x4 * c, 0, 32⟩
/-- FW_RELAY_RX (R497). -/
def F.FW_RELAY_RX : RF := ⟨0x700300, 0, 32⟩
/-- FW_RELAY_FWD (R497). -/
def F.FW_RELAY_FWD : RF := ⟨0x700304, 0, 32⟩
/-- FW_RELAY_FAIL (R497). -/
def F.FW_RELAY_FAIL : RF := ⟨0x700308, 0, 32⟩
/-- FW_RELAY_BAD (R497). -/
def F.FW_RELAY_BAD : RF := ⟨0x70030c, 0, 32⟩
/-- FW_REFUSED (R497). -/
def F.FW_REFUSED : RF := ⟨0x700310, 0, 32⟩
/-- SEG_ENTRY (R316). -/
def F.SEG_ENTRY (i : Nat) : RF := ⟨0x400040 + 0x4 * i, 0, 32⟩
/-- WIN_ENTRY (R316). -/
def F.WIN_ENTRY (i : Nat) : RF := ⟨0x400080 + 0x4 * i, 0, 32⟩
/-- KEY_ENTRY (R316). -/
def F.KEY_ENTRY (i : Nat) : RF := ⟨0x4000a0 + 0x4 * i, 0, 32⟩
/-- QP_ENTRY (R350). -/
def F.QP_ENTRY (i : Nat) : RF := ⟨0x500040 + 0x4 * i, 0, 32⟩
/-- ROUTE_ENTRY (R374). -/
def F.ROUTE_ENTRY (i : Nat) : RF := ⟨0x500080 + 0x4 * i, 0, 32⟩
/-- QUOTA_ENTRY (R463). -/
def F.QUOTA_ENTRY (i : Nat) : RF := ⟨0x610840 + 0x4 * i, 0, 32⟩
/-- CE_KEY_ENTRY (R495). -/
def F.CE_KEY_ENTRY (i : Nat) : RF := ⟨0x700040 + 0x4 * i, 0, 32⟩
/-- KEY_SLOT_DATA (R495). -/
def F.KEY_SLOT_DATA (i : Nat) : RF := ⟨0x700140 + 0x4 * i, 0, 32⟩
/-- MARI_SHADOW (R115). -/
def F.MARI_SHADOW (i : Nat) : RF := ⟨0x24000 + 0x4 * i, 0, 32⟩
/-- PEER_TABLE (R464). -/
def F.PEER_TABLE (i : Nat) : RF := ⟨0x611000 + 0x4 * i, 0, 32⟩
/-- MSIX_TABLE (R462). -/
def F.MSIX_TABLE (c i : Nat) : RF := ⟨fnBase c + 0x800 + 0x4 * i, 0, 32⟩
/-- MSIX_PBA (R462). -/
def F.MSIX_PBA (c i : Nat) : RF := ⟨fnBase c + 0xc00 + 0x4 * i, 0, 32⟩

/-- One row of the register map: where the register (or the array of registers) stands, the bits that a write sets
(RW), the reserved bits that a write must leave as they are (RWK), and the value after reset (R8). -/
structure RegRow where
  base : Nat
  stride1 : Nat
  cnt1 : Nat
  stride2 : Nat
  cnt2 : Nat
  rw : Nat
  rwk : Nat
  reset : Nat
  deriving DecidableEq, Repr

/-- The registers of the block `id`. -/
def regRows_id0 : List RegRow := [
  ⟨0x0, 0x0, 1, 0x0, 1, 0x0, 0xfffe0000, 0x1⟩,
  ⟨0x4, 0x0, 1, 0x0, 1, 0x0, 0xff000000, 0x0⟩,
  ⟨0x8, 0x0, 1, 0x0, 1, 0x0, 0x0, 0x0⟩,
  ⟨0xc, 0x0, 1, 0x0, 1, 0x0, 0x0, 0x0⟩,
  ⟨0x10, 0x0, 1, 0x0, 1, 0x0, 0x0, 0x0⟩,
  ⟨0x14, 0x0, 1, 0x0, 1, 0x0, 0xffff0000, 0x0⟩,
  ⟨0x100, 0x0, 1, 0x0, 1, 0x0, 0xffe00000, 0x0⟩,
  ⟨0x200, 0x0, 1, 0x0, 1, 0x0, 0xff000000, 0x6402⟩,
  ⟨0x204, 0x0, 1, 0x0, 1, 0xffff000c, 0xfff0, 0x1f40000⟩,
  ⟨0x208, 0x0, 1, 0x0, 1, 0x0, 0xfffff000, 0x0⟩,
  ⟨0x20c, 0x0, 1, 0x0, 1, 0xffff0fff, 0xf000, 0x1000cc9⟩,
  ⟨0x210, 0x0, 1, 0x0, 1, 0xffff, 0xffff0000, 0x695f⟩,
  ⟨0x214, 0x0, 1, 0x0, 1, 0x0, 0xff00f800, 0x0⟩,
  ⟨0x218, 0x0, 1, 0x0, 1, 0x0, 0xff000000, 0x0⟩,
  ⟨0x104, 0x0, 1, 0x0, 1, 0x0, 0x0, 0x0⟩,
  ⟨0x108, 0x0, 1, 0x0, 1, 0x0, 0xffff0000, 0x0⟩]
def regRows_id : List RegRow := regRows_id0

/-- The registers of the block `tick`. -/
def regRows_tick0 : List RegRow := [
  ⟨0x20000, 0x0, 1, 0x0, 1, 0x1ff0000, 0xfe00fe00, 0x80008⟩,
  ⟨0x20004, 0x0, 1, 0x0, 1, 0x7f, 0xffffff80, 0x50⟩,
  ⟨0x20010, 0x0, 1, 0x0, 1, 0xffffff, 0xff000000, 0x800041⟩,
  ⟨0x20014, 0x0, 1, 0x0, 1, 0x0, 0x0, 0x7c⟩,
  ⟨0x20020, 0x0, 1, 0x0, 1, 0x0, 0xfffffffc, 0x0⟩,
  ⟨0x20024, 0x0, 1, 0x0, 1, 0xffffffff, 0x0, 0x0⟩,
  ⟨0x20028, 0x0, 1, 0x0, 1, 0x0, 0x0, 0x0⟩,
  ⟨0x2002c, 0x0, 1, 0x0, 1, 0x0, 0xfff00000, 0x0⟩,
  ⟨0x20030, 0x0, 1, 0x0, 1, 0x0, 0x0, 0x0⟩,
  ⟨0x20040, 0x0, 1, 0x0, 1, 0x3ff0001, 0xfc00f000, 0x0⟩,
  ⟨0x20044, 0x0, 1, 0x0, 1, 0x0, 0xfff80000, 0x0⟩,
  ⟨0x20100, 0x0, 1, 0x0, 1, 0x0, 0x0, 0x0⟩,
  ⟨0x20104, 0x0, 1, 0x0, 1, 0x0, 0x0, 0x0⟩,
  ⟨0x20108, 0x0, 1, 0x0, 1, 0x0, 0x0, 0x0⟩,
  ⟨0x2010c, 0x0, 1, 0x0, 1, 0x0, 0x0, 0x0⟩,
  ⟨0x20110, 0x0, 1, 0x0, 1, 0x0, 0x0, 0x0⟩,
  ⟨0x20114, 0x0, 1, 0x0, 1, 0x0, 0x0, 0x0⟩,
  ⟨0x20118, 0x0, 1, 0x0, 1, 0x0, 0x0, 0x0⟩,
  ⟨0x2011c, 0x0, 1, 0x0, 1, 0x0, 0x0, 0x0⟩,
  ⟨0x20120, 0x0, 1, 0x0, 1, 0x0, 0x0, 0x0⟩,
  ⟨0x20124, 0x0, 1, 0x0, 1, 0x0, 0x0, 0x0⟩,
  ⟨0x20128, 0x0, 1, 0x0, 1, 0x0, 0x0, 0x0⟩,
  ⟨0x20018, 0x0, 1, 0x0, 1, 0x0, 0x0, 0x0⟩,
  ⟨0x2001c, 0x0, 1, 0x0, 1, 0x0, 0xffff0000, 0x0⟩,
  ⟨0x20038, 0x0, 1, 0x0, 1, 0x0, 0xffff0000, 0x0⟩]
def regRows_tick1 : List RegRow := [
  ⟨0x24000, 0x0, 1, 0x4, 4096, 0xffffffff, 0x0, 0x0⟩]
def regRows_tick : List RegRow := regRows_tick0 ++ regRows_tick1

/-- The registers of the block `dom`. -/
def regRows_dom0 : List RegRow := [
  ⟨0x100010, 0x10000, 16, 0x4, 8, 0x0, 0x0, 0x0⟩,
  ⟨0x100040, 0x10000, 16, 0x0, 1, 0x0, 0xffffff00, 0x0⟩,
  ⟨0x100044, 0x10000, 16, 0x0, 1, 0x0, 0xffff8000, 0x0⟩,
  ⟨0x100100, 0x10000, 16, 0x0, 1, 0x0, 0x0, 0x0⟩,
  ⟨0x100104, 0x10000, 16, 0x0, 1, 0x0, 0x0, 0x0⟩,
  ⟨0x100108, 0x10000, 16, 0x0, 1, 0x0, 0x0, 0x0⟩,
  ⟨0x10010c, 0x10000, 16, 0x0, 1, 0x0, 0x0, 0x0⟩,
  ⟨0x100110, 0x10000, 16, 0x0, 1, 0x0, 0x0, 0x0⟩,
  ⟨0x100120, 0x10000, 16, 0x0, 1, 0x0, 0x0, 0x0⟩,
  ⟨0x100124, 0x10000, 16, 0x0, 1, 0x0, 0x0, 0x0⟩,
  ⟨0x100128, 0x10000, 16, 0x0, 1, 0x0, 0x0, 0x0⟩,
  ⟨0x100130, 0x10000, 16, 0x0, 1, 0x0, 0x0, 0x0⟩,
  ⟨0x100134, 0x10000, 16, 0x0, 1, 0x0, 0x0, 0x0⟩,
  ⟨0x100138, 0x10000, 16, 0x0, 1, 0x0, 0x0, 0x0⟩,
  ⟨0x100200, 0x10000, 16, 0x0, 1, 0x0, 0xfc, 0x0⟩,
  ⟨0x100210, 0x10000, 16, 0x0, 1, 0x0, 0x0, 0x0⟩,
  ⟨0x100214, 0x10000, 16, 0x0, 1, 0x0, 0x0, 0x0⟩,
  ⟨0x100218, 0x10000, 16, 0x0, 1, 0x0, 0x0, 0x0⟩,
  ⟨0x10021c, 0x10000, 16, 0x0, 1, 0x0, 0x0, 0x0⟩,
  ⟨0x100220, 0x10000, 16, 0x0, 1, 0x0, 0x0, 0x0⟩,
  ⟨0x100224, 0x10000, 16, 0x0, 1, 0x0, 0x0, 0x0⟩,
  ⟨0x100228, 0x10000, 16, 0x0, 1, 0x0, 0x0, 0x0⟩,
  ⟨0x10022c, 0x10000, 16, 0x0, 1, 0x0, 0x0, 0x0⟩,
  ⟨0x100230, 0x10000, 16, 0x0, 1, 0x0, 0x0, 0x0⟩,
  ⟨0x100300, 0x10000, 16, 0x0, 1, 0x0, 0xff0000f8, 0x0⟩]
def regRows_dom1 : List RegRow := [
  ⟨0x100310, 0x10000, 16, 0x0, 1, 0x0, 0x0, 0x0⟩,
  ⟨0x100314, 0x10000, 16, 0x0, 1, 0x0, 0x0, 0x0⟩,
  ⟨0x100318, 0x10000, 16, 0x0, 1, 0x0, 0x0, 0x0⟩,
  ⟨0x10031c, 0x10000, 16, 0x0, 1, 0x0, 0x0, 0x0⟩,
  ⟨0x100320, 0x10000, 16, 0x0, 1, 0x0, 0x0, 0x0⟩,
  ⟨0x100324, 0x10000, 16, 0x0, 1, 0x0, 0x0, 0x0⟩,
  ⟨0x100328, 0x10000, 16, 0x0, 1, 0x0, 0x0, 0x0⟩,
  ⟨0x100400, 0x10000, 16, 0x0, 1, 0x0, 0xff0000f0, 0x0⟩,
  ⟨0x100410, 0x10000, 16, 0x0, 1, 0x0, 0x0, 0x0⟩,
  ⟨0x100414, 0x10000, 16, 0x0, 1, 0x0, 0x0, 0x0⟩,
  ⟨0x100418, 0x10000, 16, 0x0, 1, 0x0, 0x0, 0x0⟩,
  ⟨0x10041c, 0x10000, 16, 0x0, 1, 0x0, 0x0, 0x0⟩,
  ⟨0x100420, 0x10000, 16, 0x0, 1, 0x0, 0x0, 0x0⟩,
  ⟨0x100424, 0x10000, 16, 0x0, 1, 0x0, 0x0, 0x0⟩,
  ⟨0x100500, 0x10000, 16, 0x0, 1, 0x0, 0xfffe00fc, 0x0⟩,
  ⟨0x100510, 0x10000, 16, 0x0, 1, 0x0, 0x0, 0x0⟩,
  ⟨0x100514, 0x10000, 16, 0x0, 1, 0x0, 0x0, 0x0⟩,
  ⟨0x100518, 0x10000, 16, 0x0, 1, 0x0, 0x0, 0x0⟩,
  ⟨0x10051c, 0x10000, 16, 0x0, 1, 0x0, 0x0, 0x0⟩,
  ⟨0x100520, 0x10000, 16, 0x0, 1, 0x0, 0x0, 0x0⟩,
  ⟨0x100524, 0x10000, 16, 0x0, 1, 0x0, 0x0, 0x0⟩]
def regRows_dom : List RegRow := regRows_dom0 ++ regRows_dom1

/-- The registers of the block `mem`. -/
def regRows_mem0 : List RegRow := [
  ⟨0x300000, 0x0, 1, 0x0, 1, 0x0, 0xf800e0e0, 0x0⟩,
  ⟨0x300004, 0x0, 1, 0x0, 1, 0x0, 0xffff0000, 0x0⟩,
  ⟨0x300008, 0x0, 1, 0x0, 1, 0x0, 0xff000000, 0x0⟩,
  ⟨0x300020, 0x0, 1, 0x0, 1, 0x0, 0x0, 0x0⟩,
  ⟨0x301000, 0x0, 1, 0x100, 16, 0x0, 0x0, 0x0⟩,
  ⟨0x301004, 0x0, 1, 0x100, 16, 0x0, 0x0, 0x0⟩,
  ⟨0x301008, 0x0, 1, 0x100, 16, 0x0, 0x0, 0x0⟩,
  ⟨0x30100c, 0x0, 1, 0x100, 16, 0x0, 0x0, 0x0⟩,
  ⟨0x301010, 0x0, 1, 0x100, 16, 0x0, 0x0, 0x0⟩,
  ⟨0x302000, 0x0, 1, 0x100, 16, 0x0, 0x0, 0x0⟩,
  ⟨0x302004, 0x0, 1, 0x100, 16, 0x0, 0x0, 0x0⟩,
  ⟨0x302008, 0x0, 1, 0x100, 16, 0x0, 0x0, 0x0⟩,
  ⟨0x30200c, 0x0, 1, 0x100, 16, 0x0, 0x0, 0x0⟩,
  ⟨0x300010, 0x0, 1, 0x0, 1, 0x0, 0x0, 0x0⟩,
  ⟨0x300014, 0x0, 1, 0x0, 1, 0x0, 0x0, 0x0⟩]
def regRows_mem : List RegRow := regRows_mem0

/-- The registers of the block `seg`. -/
def regRows_seg0 : List RegRow := [
  ⟨0x400000, 0x0, 1, 0x0, 1, 0x0, 0xffffc000, 0x0⟩,
  ⟨0x400004, 0x0, 1, 0x0, 1, 0x0, 0xff800000, 0x0⟩,
  ⟨0x400008, 0x0, 1, 0x0, 1, 0x0, 0x0, 0x0⟩,
  ⟨0x400010, 0x0, 1, 0x0, 1, 0x0, 0xffffe000, 0x0⟩,
  ⟨0x400014, 0x0, 1, 0x0, 1, 0x0, 0xffffe000, 0x0⟩,
  ⟨0x400018, 0x0, 1, 0x0, 1, 0x0, 0xffffe000, 0x0⟩,
  ⟨0x400020, 0x0, 1, 0x0, 1, 0xffff, 0xffff0000, 0x1f4⟩,
  ⟨0x400024, 0x0, 1, 0x0, 1, 0x0, 0xfffffe00, 0x0⟩,
  ⟨0x400100, 0x0, 1, 0x0, 1, 0x0, 0x0, 0x0⟩,
  ⟨0x400104, 0x0, 1, 0x0, 1, 0x0, 0x0, 0x0⟩,
  ⟨0x400108, 0x0, 1, 0x0, 1, 0x0, 0x0, 0x0⟩,
  ⟨0x40010c, 0x0, 1, 0x0, 1, 0x0, 0x0, 0x0⟩,
  ⟨0x400110, 0x0, 1, 0x0, 1, 0x0, 0x0, 0x0⟩,
  ⟨0x400114, 0x0, 1, 0x0, 1, 0x0, 0x0, 0x0⟩,
  ⟨0x400118, 0x0, 1, 0x0, 1, 0x0, 0x0, 0x0⟩,
  ⟨0x40011c, 0x0, 1, 0x0, 1, 0x0, 0x0, 0x0⟩,
  ⟨0x400120, 0x0, 1, 0x0, 1, 0x0, 0x0, 0x0⟩,
  ⟨0x400124, 0x0, 1, 0x0, 1, 0x0, 0x0, 0x0⟩,
  ⟨0x400128, 0x0, 1, 0x0, 1, 0x0, 0x0, 0x0⟩,
  ⟨0x400040, 0x0, 1, 0x4, 16, 0xffffffff, 0x0, 0x0⟩,
  ⟨0x400080, 0x0, 1, 0x4, 8, 0xffffffff, 0x0, 0x0⟩,
  ⟨0x4000a0, 0x0, 1, 0x4, 8, 0xffffffff, 0x0, 0x0⟩]
def regRows_seg : List RegRow := regRows_seg0

/-- The registers of the block `trn`. -/
def regRows_trn0 : List RegRow := [
  ⟨0x500000, 0x0, 1, 0x0, 1, 0xffffff, 0xff000000, 0x40324⟩,
  ⟨0x500004, 0x0, 1, 0x0, 1, 0xffff, 0xfff80000, 0x70032⟩,
  ⟨0x500008, 0x0, 1, 0x0, 1, 0xfffff, 0xfff00000, 0x0⟩,
  ⟨0x500010, 0x0, 1, 0x0, 1, 0x0, 0xffe00000, 0x0⟩,
  ⟨0x500014, 0x0, 1, 0x0, 1, 0x0, 0xffffe000, 0x0⟩,
  ⟨0x500018, 0x0, 1, 0x0, 1, 0x0, 0xf0000000, 0x0⟩,
  ⟨0x500100, 0x0, 1, 0x0, 1, 0x0, 0x0, 0x0⟩,
  ⟨0x500104, 0x0, 1, 0x0, 1, 0x0, 0x0, 0x0⟩,
  ⟨0x500108, 0x0, 1, 0x0, 1, 0x0, 0x0, 0x0⟩,
  ⟨0x50010c, 0x0, 1, 0x0, 1, 0x0, 0x0, 0x0⟩,
  ⟨0x500110, 0x0, 1, 0x0, 1, 0x0, 0x0, 0x0⟩,
  ⟨0x500114, 0x0, 1, 0x0, 1, 0x0, 0x0, 0x0⟩,
  ⟨0x500118, 0x0, 1, 0x0, 1, 0x0, 0x0, 0x0⟩,
  ⟨0x50011c, 0x0, 1, 0x0, 1, 0x0, 0x0, 0x0⟩,
  ⟨0x500120, 0x0, 1, 0x0, 1, 0x0, 0x0, 0x0⟩,
  ⟨0x500124, 0x0, 1, 0x0, 1, 0x0, 0x0, 0x0⟩,
  ⟨0x500128, 0x0, 1, 0x0, 1, 0x0, 0x0, 0x0⟩,
  ⟨0x50012c, 0x0, 1, 0x0, 1, 0x0, 0x0, 0x0⟩,
  ⟨0x500130, 0x0, 1, 0x0, 1, 0x0, 0x0, 0x0⟩,
  ⟨0x500134, 0x0, 1, 0x0, 1, 0x0, 0x0, 0x0⟩,
  ⟨0x500138, 0x0, 1, 0x0, 1, 0x0, 0x0, 0x0⟩,
  ⟨0x50013c, 0x0, 1, 0x0, 1, 0x0, 0x0, 0x0⟩,
  ⟨0x500140, 0x0, 1, 0x0, 1, 0x0, 0x0, 0x0⟩,
  ⟨0x500020, 0x0, 1, 0x0, 1, 0x0, 0xffc00000, 0x0⟩,
  ⟨0x500024, 0x0, 1, 0x0, 1, 0x0, 0xfffff000, 0x0⟩]
def regRows_trn1 : List RegRow := [
  ⟨0x500028, 0x0, 1, 0x0, 1, 0xffffffff, 0x0, 0x643e80⟩,
  ⟨0x50002c, 0x0, 1, 0x0, 1, 0xffffffff, 0x0, 0xa3e80⟩,
  ⟨0x500030, 0x0, 1, 0x0, 1, 0x1ff, 0xfffffe00, 0x1c0⟩,
  ⟨0x500144, 0x0, 1, 0x0, 1, 0x0, 0x0, 0x0⟩,
  ⟨0x500148, 0x0, 1, 0x0, 1, 0x0, 0x0, 0x0⟩,
  ⟨0x50014c, 0x0, 1, 0x0, 1, 0x0, 0x0, 0x0⟩,
  ⟨0x500040, 0x0, 1, 0x4, 16, 0xffffffff, 0x0, 0x0⟩,
  ⟨0x500080, 0x0, 1, 0x4, 24, 0xffffffff, 0x0, 0x0⟩]
def regRows_trn : List RegRow := regRows_trn0 ++ regRows_trn1

/-- The registers of the block `port`. -/
def regRows_port0 : List RegRow := [
  ⟨0x201000, 0x4000, 32, 0x0, 1, 0xffffffff, 0x0, 0x0⟩,
  ⟨0x201004, 0x4000, 32, 0x0, 1, 0x3fffffff, 0xc0000000, 0x400c07f⟩,
  ⟨0x201008, 0x4000, 32, 0x0, 1, 0x3fffffff, 0xc0000000, 0x3fd00040⟩,
  ⟨0x201010, 0x4000, 32, 0x8, 8, 0xffff, 0xffff0000, 0x0⟩,
  ⟨0x201014, 0x4000, 32, 0x8, 8, 0x7ff, 0xfffff800, 0x400⟩,
  ⟨0x201050, 0x4000, 32, 0x0, 1, 0x0, 0xfff80000, 0x0⟩,
  ⟨0x201100, 0x4000, 32, 0x0, 1, 0x0, 0x0, 0x0⟩,
  ⟨0x201104, 0x4000, 32, 0x0, 1, 0x0, 0x0, 0x0⟩,
  ⟨0x201108, 0x4000, 32, 0x0, 1, 0x0, 0x0, 0x0⟩,
  ⟨0x20110c, 0x4000, 32, 0x0, 1, 0x0, 0x0, 0x0⟩,
  ⟨0x201110, 0x4000, 32, 0x0, 1, 0x0, 0x0, 0x0⟩,
  ⟨0x201114, 0x4000, 32, 0x0, 1, 0x0, 0x0, 0x0⟩,
  ⟨0x201118, 0x4000, 32, 0x0, 1, 0x0, 0x0, 0x0⟩,
  ⟨0x20111c, 0x4000, 32, 0x0, 1, 0x0, 0x0, 0x0⟩,
  ⟨0x201120, 0x4000, 32, 0x0, 1, 0x0, 0x0, 0x0⟩,
  ⟨0x201124, 0x4000, 32, 0x0, 1, 0x0, 0x0, 0x0⟩,
  ⟨0x200000, 0x4000, 32, 0x0, 1, 0x3fff00ff, 0xc000ff00, 0x25800084⟩,
  ⟨0x200004, 0x4000, 32, 0x0, 1, 0x0, 0xf800ffc0, 0x0⟩,
  ⟨0x200008, 0x4000, 32, 0x0, 1, 0xffff01, 0xff0000fe, 0x14ff01⟩,
  ⟨0x20000c, 0x4000, 32, 0x0, 1, 0x0, 0xff00fe00, 0x0⟩,
  ⟨0x200010, 0x4000, 32, 0x0, 1, 0xffffffff, 0x0, 0x0⟩,
  ⟨0x200200, 0x4000, 32, 0x0, 1, 0x0, 0x0, 0x0⟩,
  ⟨0x200204, 0x4000, 32, 0x0, 1, 0x0, 0x0, 0x0⟩,
  ⟨0x200208, 0x4000, 32, 0x0, 1, 0x0, 0x0, 0x0⟩,
  ⟨0x20020c, 0x4000, 32, 0x0, 1, 0x0, 0x0, 0x0⟩]
def regRows_port1 : List RegRow := [
  ⟨0x200210, 0x4000, 32, 0x0, 1, 0x0, 0x0, 0x0⟩,
  ⟨0x200214, 0x4000, 32, 0x0, 1, 0x0, 0x0, 0x0⟩,
  ⟨0x200218, 0x4000, 32, 0x0, 1, 0x0, 0x0, 0x0⟩,
  ⟨0x20021c, 0x4000, 32, 0x0, 1, 0x0, 0x0, 0x0⟩,
  ⟨0x200220, 0x4000, 32, 0x0, 1, 0x0, 0x0, 0x0⟩,
  ⟨0x200224, 0x4000, 32, 0x0, 1, 0x0, 0x0, 0x0⟩,
  ⟨0x200228, 0x4000, 32, 0x0, 1, 0x0, 0x0, 0x0⟩,
  ⟨0x20022c, 0x4000, 32, 0x0, 1, 0x0, 0x0, 0x0⟩,
  ⟨0x200230, 0x4000, 32, 0x0, 1, 0x0, 0x0, 0x0⟩,
  ⟨0x200234, 0x4000, 32, 0x0, 1, 0x0, 0x0, 0x0⟩,
  ⟨0x200238, 0x4000, 32, 0x0, 1, 0x0, 0x0, 0x0⟩,
  ⟨0x20023c, 0x4000, 32, 0x0, 1, 0x0, 0x0, 0x0⟩,
  ⟨0x200240, 0x4000, 32, 0x0, 1, 0x0, 0x0, 0x0⟩,
  ⟨0x200244, 0x4000, 32, 0x0, 1, 0x0, 0x0, 0x0⟩,
  ⟨0x200248, 0x4000, 32, 0x0, 1, 0x0, 0x0, 0x0⟩,
  ⟨0x20024c, 0x4000, 32, 0x0, 1, 0x0, 0x0, 0x0⟩,
  ⟨0x200250, 0x4000, 32, 0x0, 1, 0x0, 0x0, 0x0⟩,
  ⟨0x200254, 0x4000, 32, 0x0, 1, 0x0, 0x0, 0x0⟩,
  ⟨0x200258, 0x4000, 32, 0x0, 1, 0x0, 0x0, 0x0⟩]
def regRows_port : List RegRow := regRows_port0 ++ regRows_port1

/-- The registers of the block `bay`. -/
def regRows_bay0 : List RegRow := [
  ⟨0x202000, 0x8000, 8, 0x0, 1, 0x0, 0xfff000c0, 0x0⟩,
  ⟨0x202004, 0x8000, 8, 0x0, 1, 0x0, 0xfffffffc, 0x0⟩,
  ⟨0x202008, 0x8000, 8, 0x0, 1, 0xffff, 0x0, 0x0⟩,
  ⟨0x20200c, 0x8000, 8, 0x0, 1, 0x0, 0x0, 0x0⟩,
  ⟨0x202010, 0x8000, 8, 0x0, 1, 0x0, 0x0, 0x0⟩,
  ⟨0x202014, 0x8000, 8, 0x0, 1, 0x0, 0x0, 0x0⟩,
  ⟨0x202018, 0x8000, 8, 0x0, 1, 0x0, 0x0, 0x0⟩,
  ⟨0x20201c, 0x8000, 8, 0x0, 1, 0x0, 0x0, 0x0⟩,
  ⟨0x202020, 0x8000, 8, 0x0, 1, 0x0, 0x0, 0x0⟩,
  ⟨0x202024, 0x8000, 8, 0x0, 1, 0x0, 0xffffff00, 0x0⟩]
def regRows_bay : List RegRow := regRows_bay0

/-- The registers of the block `fn` (offsets within the function page). -/
def regRows_fn0 : List RegRow := [
  ⟨0x0, 0x0, 1, 0x0, 1, 0x0, 0xfffc0000, 0x0⟩,
  ⟨0x8, 0x0, 1, 0x0, 1, 0xffffffff, 0x0, 0x0⟩,
  ⟨0xc, 0x0, 1, 0x0, 1, 0x7fff, 0xffff8000, 0x0⟩,
  ⟨0x10, 0x0, 1, 0x20, 15, 0xffffffff, 0x0, 0x0⟩,
  ⟨0x14, 0x0, 1, 0x20, 15, 0xffffffff, 0x0, 0x0⟩,
  ⟨0x18, 0x0, 1, 0x20, 15, 0x3ffff, 0xfffc0000, 0x6⟩,
  ⟨0x1c, 0x0, 1, 0x20, 15, 0xffff, 0xffff0000, 0x0⟩,
  ⟨0x20, 0x0, 1, 0x20, 15, 0x0, 0xfc, 0x0⟩,
  ⟨0x24, 0x0, 1, 0x20, 15, 0x0, 0xfffffffe, 0x0⟩,
  ⟨0x28, 0x0, 1, 0x20, 15, 0x0, 0x0, 0x0⟩,
  ⟨0x800, 0x0, 1, 0x4, 256, 0xffffffff, 0x0, 0x0⟩,
  ⟨0xc00, 0x0, 1, 0x4, 2, 0x0, 0x0, 0x0⟩]
def regRows_fn : List RegRow := regRows_fn0

/-- The registers of the block `host`. -/
def regRows_host0 : List RegRow := [
  ⟨0x610000, 0x0, 1, 0x4, 4, 0x0, 0xffff0000, 0x0⟩,
  ⟨0x610010, 0x0, 1, 0x0, 1, 0xffffffff, 0x0, 0x0⟩,
  ⟨0x610100, 0x0, 1, 0x4, 256, 0x3ff, 0xfffff000, 0x0⟩,
  ⟨0x610800, 0x0, 1, 0x0, 1, 0x0, 0xfffffc00, 0x0⟩,
  ⟨0x610804, 0x0, 1, 0x0, 1, 0x0, 0xffffe000, 0x0⟩,
  ⟨0x610900, 0x0, 1, 0x0, 1, 0x0, 0xe0000000, 0x0⟩,
  ⟨0x610904, 0x0, 1, 0x0, 1, 0x0, 0xfff00000, 0x0⟩,
  ⟨0x610908, 0x0, 1, 0x0, 1, 0xffffffff, 0x0, 0x0⟩,
  ⟨0x61090c, 0x0, 1, 0x0, 1, 0xffffffff, 0x0, 0x0⟩,
  ⟨0x610910, 0x0, 1, 0x0, 1, 0xffffffff, 0x0, 0x0⟩,
  ⟨0x610914, 0x0, 1, 0x0, 1, 0x0, 0x0, 0x0⟩,
  ⟨0x610918, 0x0, 1, 0x0, 1, 0xffffffff, 0x0, 0x0⟩,
  ⟨0x61091c, 0x0, 1, 0x0, 1, 0xffffffff, 0x0, 0x0⟩,
  ⟨0x610920, 0x0, 1, 0x0, 1, 0xff, 0xffffff00, 0x0⟩,
  ⟨0x610924, 0x0, 1, 0x0, 1, 0xfffff, 0xfff00000, 0x0⟩,
  ⟨0x610a00, 0x0, 1, 0x4, 16, 0x1ff, 0xfffffe00, 0x0⟩,
  ⟨0x612000, 0x0, 1, 0x0, 1, 0x0, 0x0, 0x0⟩,
  ⟨0x612004, 0x0, 1, 0x0, 1, 0x0, 0x0, 0x0⟩,
  ⟨0x612008, 0x0, 1, 0x0, 1, 0x0, 0x0, 0x0⟩,
  ⟨0x61200c, 0x0, 1, 0x0, 1, 0x0, 0x0, 0x0⟩,
  ⟨0x612010, 0x0, 1, 0x0, 1, 0x0, 0x0, 0x0⟩,
  ⟨0x612014, 0x0, 1, 0x0, 1, 0x0, 0x0, 0x0⟩,
  ⟨0x612018, 0x0, 1, 0x0, 1, 0x0, 0x0, 0x0⟩,
  ⟨0x61201c, 0x0, 1, 0x0, 1, 0x0, 0x0, 0x0⟩,
  ⟨0x612020, 0x0, 1, 0x0, 1, 0x0, 0x0, 0x0⟩]
def regRows_host1 : List RegRow := [
  ⟨0x612024, 0x0, 1, 0x0, 1, 0x0, 0x0, 0x0⟩,
  ⟨0x612028, 0x0, 1, 0x0, 1, 0x0, 0x0, 0x0⟩,
  ⟨0x610840, 0x0, 1, 0x4, 16, 0xffffffff, 0x0, 0x0⟩,
  ⟨0x611000, 0x0, 1, 0x4, 256, 0xffffffff, 0x0, 0x0⟩]
def regRows_host : List RegRow := regRows_host0 ++ regRows_host1

/-- The registers of the block `ciph`. -/
def regRows_ciph0 : List RegRow := [
  ⟨0x700000, 0x0, 1, 0x0, 1, 0x0, 0xfff80000, 0x0⟩,
  ⟨0x700004, 0x0, 1, 0x0, 1, 0x0, 0xffffc000, 0x0⟩,
  ⟨0x700008, 0x0, 1, 0x0, 1, 0x0, 0x0, 0x0⟩,
  ⟨0x70000c, 0x0, 1, 0x0, 1, 0x0, 0x0, 0x0⟩,
  ⟨0x700100, 0x0, 1, 0x0, 1, 0x0, 0xffffff00, 0x0⟩,
  ⟨0x700104, 0x0, 1, 0x0, 1, 0x0, 0xfffff000, 0x0⟩,
  ⟨0x700200, 0x0, 1, 0x0, 1, 0x0, 0xfff0, 0x0⟩,
  ⟨0x700204, 0x0, 1, 0x0, 1, 0x0, 0xffff8000, 0x0⟩,
  ⟨0x700208, 0x0, 1, 0x0, 1, 0x0, 0xffffffe0, 0x0⟩,
  ⟨0x700210, 0x0, 1, 0x0, 1, 0xffffffff, 0x0, 0x0⟩,
  ⟨0x700214, 0x0, 1, 0x0, 1, 0xffffffff, 0x0, 0x0⟩,
  ⟨0x700218, 0x0, 1, 0x0, 1, 0xffffffff, 0x0, 0x0⟩,
  ⟨0x70021c, 0x0, 1, 0x0, 1, 0x1ffff, 0xfffe0000, 0x1f4⟩,
  ⟨0x700240, 0x0, 1, 0x0, 1, 0x0, 0x0, 0x0⟩,
  ⟨0x700250, 0x0, 1, 0x0, 1, 0xffffffff, 0x0, 0x0⟩,
  ⟨0x700254, 0x0, 1, 0x0, 1, 0xffffffff, 0x0, 0x0⟩,
  ⟨0x700280, 0x0, 1, 0x4, 16, 0x8003ffff, 0x7ffc0000, 0x0⟩,
  ⟨0x700220, 0x0, 1, 0x4, 4, 0x0, 0x0, 0x0⟩,
  ⟨0x700230, 0x0, 1, 0x4, 4, 0x0, 0x0, 0x0⟩,
  ⟨0x700300, 0x0, 1, 0x0, 1, 0x0, 0x0, 0x0⟩,
  ⟨0x700304, 0x0, 1, 0x0, 1, 0x0, 0x0, 0x0⟩,
  ⟨0x700308, 0x0, 1, 0x0, 1, 0x0, 0x0, 0x0⟩,
  ⟨0x70030c, 0x0, 1, 0x0, 1, 0x0, 0x0, 0x0⟩,
  ⟨0x700310, 0x0, 1, 0x0, 1, 0x0, 0x0, 0x0⟩,
  ⟨0x700040, 0x0, 1, 0x4, 8, 0x0, 0x0, 0x0⟩]
def regRows_ciph1 : List RegRow := [
  ⟨0x700140, 0x0, 1, 0x4, 16, 0x0, 0x0, 0x0⟩]
def regRows_ciph : List RegRow := regRows_ciph0 ++ regRows_ciph1

/-- The registers of the block `fcol`. -/
def regRows_fcol0 : List RegRow := [
  ⟨0x10000, 0x0, 1, 0x0, 1, 0x0, 0x0, 0x0⟩,
  ⟨0x10004, 0x0, 1, 0x0, 1, 0x0, 0x0, 0x0⟩,
  ⟨0x10008, 0x0, 1, 0x0, 1, 0x0, 0x0, 0x0⟩,
  ⟨0x1000c, 0x0, 1, 0x0, 1, 0x0, 0x0, 0x0⟩,
  ⟨0x10010, 0x0, 1, 0x0, 1, 0xff, 0xffffff00, 0x0⟩,
  ⟨0x10014, 0x0, 1, 0x0, 1, 0x3f, 0xffffff00, 0x0⟩,
  ⟨0x10018, 0x0, 1, 0x0, 1, 0x0, 0xfffff800, 0x0⟩,
  ⟨0x1001c, 0x0, 1, 0x0, 1, 0x0, 0xfffff000, 0x0⟩,
  ⟨0x10020, 0x0, 1, 0x0, 1, 0x0, 0x0, 0x0⟩,
  ⟨0x10024, 0x0, 1, 0x0, 1, 0x0, 0x0, 0x0⟩,
  ⟨0x10028, 0x0, 1, 0x0, 1, 0x0, 0xff000000, 0x0⟩,
  ⟨0x1002c, 0x0, 1, 0x0, 1, 0x0, 0x0, 0x0⟩,
  ⟨0x10030, 0x0, 1, 0x0, 1, 0x0, 0xffffff80, 0x0⟩,
  ⟨0x10100, 0x0, 1, 0x4, 64, 0xffff0003, 0xfffc, 0x640000⟩,
  ⟨0x10200, 0x0, 1, 0x4, 64, 0x0, 0xfc00, 0x0⟩,
  ⟨0x10300, 0x0, 1, 0x4, 64, 0x0, 0x0, 0x0⟩,
  ⟨0x10400, 0x0, 1, 0x0, 1, 0x0, 0x0, 0x0⟩,
  ⟨0x10404, 0x0, 1, 0x0, 1, 0x0, 0x0, 0x0⟩,
  ⟨0x10408, 0x0, 1, 0x0, 1, 0x0, 0x0, 0x0⟩]
def regRows_fcol : List RegRow := regRows_fcol0

/-- The registers of the block `snap`. -/
def regRows_snap0 : List RegRow := [
  ⟨0x800000, 0x0, 1, 0x0, 1, 0x0, 0xffffff00, 0x0⟩,
  ⟨0x800004, 0x0, 1, 0x0, 1, 0x0, 0xfe000000, 0x0⟩,
  ⟨0x800008, 0x0, 1, 0x0, 1, 0x0, 0x0, 0x0⟩,
  ⟨0x80000c, 0x0, 1, 0x0, 1, 0x0, 0x0, 0x0⟩]
def regRows_snap : List RegRow := regRows_snap0

end Sys2Proof.Machine
end

