-- ==== Sys2Proof/Machine/Sparse.lean ====
section
/-! DEFINITION. Sparse tables: look a key up, write a key, remove a key; and the memory form in which no entry equals
what an unlisted key reads as. -/

namespace Sys2Proof

/-- The entry of key `k`, if one is listed. -/
def smFind {β : Type} : SMap β → Nat → Option β
  | [], _ => none
  | (a, v) :: m, k => if k = a then some v else smFind m k

/-- The entry of key `k`, or `d`. -/
def smGet {β : Type} (m : SMap β) (k : Nat) (d : β) : β := (smFind m k).getD d

/-- List `v` under `k`, in order, in place of what was there. -/
def smSet {β : Type} : SMap β → Nat → β → SMap β
  | [], k, v => [(k, v)]
  | (a, w) :: m, k, v =>
    if k < a then (k, v) :: (a, w) :: m
    else if k = a then (k, v) :: m
    else (a, w) :: smSet m k v

/-- Unlist `k`, wherever it is listed. -/
def smDel {β : Type} : SMap β → Nat → SMap β
  | [], _ => []
  | (a, w) :: m, k => if k = a then smDel m k else (a, w) :: smDel m k

/-- Write `v` under `k` where an unlisted key reads as `d`: writing `d` unlists the key. -/
def smPut {β : Type} [DecidableEq β] (d : β) (m : SMap β) (k : Nat) (v : β) : SMap β :=
  if v = d then smDel m k else smSet m k v

/-- Keys strictly rising above `lo`, so that equal tables are equal lists. -/
def smSorted {β : Type} : Option Nat → SMap β → Bool
  | _, [] => true
  | lo, (a, _) :: m => (match lo with | none => true | some b => decide (b < a)) && smSorted (some a) m

/-- Unlist every key for which `p` holds. -/
def smDrop {β : Type} (p : Nat → Bool) (m : SMap β) : SMap β := m.filter fun e => !p e.1

/-- `f` on every entry. -/
def smMap {β γ : Type} (f : Nat → β → γ) (m : SMap β) : SMap γ := m.map fun e => (e.1, f e.1 e.2)

/-- The keys whose entry meets `p`, lowest first. -/
def smKeys {β : Type} (p : Nat → β → Bool) (m : SMap β) : List Nat := (m.filter fun e => p e.1 e.2).map (·.1)

end Sys2Proof
end

