-- ==== Sys2Proof/Config.lean ====
section
/-! DEFINITION. What one part fixes at manufacture, and the free values: constants without a body, for what the spec leaves open. -/

namespace Sys2Proof.Config

/-- FREE VALUE (log entry 6; R21, R291, R515): the byte that a staging partition holds at a bank-and-offset
address after its `n`th refill, until it is written. -/
opaque stagingPattern : (refill : Nat) → (addr : Nat) → Byte

/-- FREE VALUE (log entry 6; R277, R291): the byte that the firmware, or the unit that keeps its state there, has put at an address of the
reserve, by the number of the firmware's load, until an access of HOLDING_UNIT_ACCESS writes it. -/
opaque reserveByte : (load : Nat) → (addr : Nat) → Byte

/-- FREE VALUE (log entry 2): a 64-bit value nothing constrains, one for each reading of `State.free`. -/
opaque freeValue : Nat → Word

/-- UNINTERPRETED (log entry 7; R466): the AES-256 block function of FIPS 197, which the spec names and does not define. -/
opaque aes256 : (key : BitVec 256) → (block : BitVec 128) → BitVec 128

/-- UNINTERPRETED (log entry 7; R131, R485): an SLH-DSA-SHAKE-256s signature over `msg` is valid under `key`. -/
opaque slhDsa256s : (key : List Byte) → (msg : List Byte) → (sig : List Byte) → Bool

/-- UNINTERPRETED (log entry 7; R421, R459, R479): an SLH-DSA-SHAKE-128f signature over `msg` is valid under `key`. -/
opaque slhDsa128f : (key : List Byte) → (msg : List Byte) → (sig : List Byte) → Bool

/-- UNINTERPRETED (log entry 7; R459, R480): the signature that the unit's identity key makes over `msg`. -/
opaque identitySign : (msg : List Byte) → List Byte

/-- UNINTERPRETED (log entry 7; R480, R485): SHAKE256 with 64 B of output. -/
opaque shake256 : List Byte → List Byte

/-- The unit serial (R543), set at manufacture: one number that the model does not fix (log entry 4). -/
opaque unitSerial : BitVec 64

/-- The manufacture date word (R543), set at manufacture (log entry 4). -/
opaque mfgDate : BitVec 32

/-- The stepping (R3, R543): A1, or B0. It is set at manufacture (log entry 4). -/
opaque steppingB0 : Bool

/-- The PTP clock identity of the adapter, and the clockAccuracy, offsetScaledLogVariance and priority2 that it announces (R96): IEEE
1588-2019 has them and the spec gives none (log entry 16). -/
opaque clockIdentity : BitVec 64
opaque clockAccuracy : BitVec 8
opaque clockVariance : BitVec 16
opaque clockPriority2 : BitVec 8

/-- The class of laser cartridge of bay `m` at manufacture (R424, R434; log entry 4). -/
opaque bayClass : Nat → BitVec 16

/-- The identity certificate's public key, certifying key identifier and signature (R479; log entry 4). -/
opaque identityKey : List Byte
opaque certSigner : List Byte
opaque certSignature : List Byte

/-- UNINTERPRETED (log entry 10; R480, R492): the stored settings, key slots and format number, as bytes; the spec names
what they are and gives no layout. -/
opaque settingsBytes : SMap (List Byte) → Nat → List Byte

/-- The Horquevos firmware key of a boot-ROM slot, and the cartridge key of the firmware (R421, R485; log entry 4). -/
opaque firmwareKey : (slot : Nat) → List Byte
opaque cartridgeKey : List Byte

end Sys2Proof.Config
end

