-- ==== Sys2Proof/Machine/State.lean ====
section
/-! DEFINITION. The state of the adapter: plain data, one structure for each block; what stops a command; and the state after reset. -/

namespace Sys2Proof.Machine

/-- The variant (R2): true for the VL-384. It is fixed at manufacture. -/
abbrev Variant := Bool

/-- Why a command stops the machine. -/
inductive Fault where
  /-- HOLDING_UNIT_ACCESS to an HBM stack or a staging bank that the variant does not have, or to an address that its
  unit does not hold: the spec says that the unit does not exist (R2, R278, R281). Safe. -/
  | noSuchUnit
  deriving DecidableEq, Repr

/-- Why a command is refused. -/
inductive Refusal where
  /-- A command that has no meaning yet, by its mnemonic. Safe. -/
  | notModelled (mnemonic : String)
  deriving DecidableEq, Repr

/-! ### Power, pins, bring-up (ch. 02, 03, 19) -/

/-- What Rest or a firmware activation waits for while new work is held (R69, R489). -/
inductive Drain where
  | none
  | rest (deadline : Nat)
  | fw (deadline : Nat)
  deriving DecidableEq, Repr

structure Power where
  vaux : Bool            -- VAUX_3V3 in its operating range (R60)
  v54 : Bool             -- V54_IN in its operating range
  held : Bool            -- MOD_RESET_N low (R43, R50)
  straps : Nat           -- MGMT_STRAP as latched (R49)
  perst : Nat            -- bit h: HPh_PERST_N high
  trained : Nat          -- bit h: host port h trains or is up (R66)
  halt : Bool            -- Bring-up halted at a stage (R63)
  drain : Drain          -- R69, R489
  launches : List (LaunchReq × Nat)  -- launches held while a drain or Rest holds new work, with their tracker entries (R69)
  restExit : Option Nat  -- units armed so far in a Rest exit (R76), as bits of R113
  opticsOff : Bool       -- OPTICS_OFF at the commit into Rest (R73)
  wake : Bool            -- WAKE_DB at that commit (R75)
  parts : Bool           -- data partitions powered (R21)
  sref : Bool            -- HBM in self-refresh (R44)
  calm : Nat             -- calm intervals in a row (R82)
  capTicks : Nat         -- boundaries since the last control interval ended (R82)
  elapsed : Nat          -- model's count of tick lengths since Bring-up began (R86)
  tjSum : Nat            -- TJ_MAX times ns, and ns, since PWR_LIFE was last written (R541)
  tjTime : Nat
  deriving DecidableEq, Repr

/-! ### Tick, time base, mode changes, marionette table (ch. 04) -/

/-- The kinds of mode change (R110): what commits at the boundary. -/
inductive ModeKind where
  | cmd (next : Option Nat) (swap : Bool)   -- MODE_CMD: TICK with its latched length, SWAP
  | rest
  | restExit
  | fw
  | freeze (ctx : Nat)
  | thaw (ctx : Nat)
  deriving DecidableEq, Repr

/-- A mode change that has been accepted and not yet committed or aborted (R110, R111). -/
structure ModeChange where
  kind : ModeKind
  armAt : Nat             -- the arm boundary a
  asked : Bool            -- the units have been asked to arm
  armed : Nat             -- units armed, as bits of R113
  postponed : Nat
  deriving DecidableEq, Repr

structure Tick where
  num : Nat               -- the tick number, 64 bits (R92)
  nextNum : Option Nat    -- after a step of the time base: the number of the boundary that ends the tick in progress (R98)
  count : Nat             -- boundaries since Bring-up began: what timeouts count (R94, R98)
  cap : Nat               -- engine cycles of the tick in progress (R107)
  share : Nat             -- best-effort share of the tick in progress (R107)
  origin : Nat            -- TICK_ORIGIN (R92)
  base : Nat              -- TICK_BASE (R92)
  ns : Nat                -- the time base in ns, 64 bits, as last shown: at a boundary, a step, a snapshot or a PTP or PPS event (R95)
  frac : BitVec 16        -- and its fraction then (R95)
  change : Option ModeChange
  bank : SMap Nat         -- words of the active bank, by word index (R115); the shadow bank stands in its registers
  gates : SMap Nat        -- per egress port: bit c set, the gate of class c closed (R117)
  resv : SMap Nat         -- egress ports that a reservation restricts to class 7 until the next boundary (R117)
  goodSync : Nat          -- Sync messages in a row within the lock bound (R98)
  foreign : SMap Dataset  -- what the neighbour of a fabric port announced last (R96)
  ppsLast : Option Int    -- the last accepted PPS edge on the time base in use (R46)
  locked : Bool           -- LOCK has been 2 since Bring-up began: TICK_OUT is driven (R47)
  ppsSet : Bool           -- a seconds value waits for the next PPS edge (R100)
  ppsSec : Option Nat     -- seconds value of the last PPS edge that set the phase (R100)
  ppsOn : Bool            -- PPS edges arrive (R100)
  fired : List Nat        -- marionette entries that have fired in this tick (R116)
  deriving DecidableEq, Repr

/-! ### Sequencers (ch. 05, 06) -/

/-- The state of a thread slot (R126). Stopping is a Ready or Executing slot with a stop pending. -/
inductive TSt where
  | free | ready | executing | waiting | parked | halted
  deriving DecidableEq, Repr

/-- A descriptor as issued: the register's 256 bits with CTX as used, and who issued it (R146, R169). -/
structure Desc where
  w : BitVec 256
  th : Th
  prog : Nat              -- program number within the domain
  live : Nat              -- the thread's start number, so that a later thread of the slot is not taken for it
  ew : Option Nat         -- ISSUEW: the register that receives the code
  eng : Nat               -- engine number
  opA : Word              -- ga and gb of POSTATOM and SIGR (R183, R184)
  opB : Word
  post : Bool             -- posted to the transport unit rather than issued to an engine
  no : Nat                -- number of its operation tracker entry
  ts : Bool               -- its program is tick-scheduled, with these declared cycles and bytes on the engine (R104)
  bc : Nat
  bb : Nat
  deriving DecidableEq, Repr

/-- What a thread that is Executing, Waiting or Parked still waits for. -/
inductive Pend where
  | none
  | sync                                   -- its request is at a sync unit, or its waiter is recorded (R138)
  | issuew                                 -- R178
  | tracker (d : Desc)                     -- R150: ISSUE, ISSUEW or a POST with no entry free
  | icache                                 -- R128
  | twait (entry : Option Nat)             -- R180
  | fence (k : Nat)                        -- R186: 0 FENCE.E, 1 FENCE.F, 2 FENCE.H
  | cqpost                                 -- R185, R448: its entry waits for room
  deriving DecidableEq, Repr

/-- A thread slot (R125, R126, R166, R170). -/
structure Thread where
  st : TSt := .free
  cause : Nat := 0
  pend : Pend := .none
  stop : Option Nat := none       -- a stop is pending: the FAULT_KIND it ends with (R135, R136)
  freeze : Bool := false          -- a freeze that keeps the program is pending (R166, R458)
  g : SMap Word := []             -- g1–g31; an unlisted register reads 0
  p : BitVec 8 := 0#8
  d : SMap (BitVec 256) := []     -- d0–d15
  pc : Word := 0#64
  ctx : Nat := 0
  priv : Bool := false
  idx : Nat := 0
  prog : Nat := 0
  live : Nat := 0
  steps : Nat := 0
  latchCount : Nat := 0
  latchCode : Nat := 0
  latchTag : Nat := 0
  outE : Nat := 0                 -- descriptors issued and not completed (FENCE.E)
  outF : Nat := 0                 -- operations posted and not completed (FENCE.F)
  kind : Nat := 0                 -- FAULT_KIND with which it halted
  code : Nat := 0                 -- and the completion code
  deriving DecidableEq, Repr

/-- A resident program (R130, R132, R137). -/
structure Program where
  dom : Nat
  num : Nat
  ctx : Nat
  image : Nat
  codeOff : Nat
  codeSize : Nat
  tickSched : Bool
  priv : Bool
  lateSig : Bool
  syncBase : Nat
  syncCount : Nat
  engines : Nat
  budget : List (Nat × Nat)        -- CYCLES and BYTES for RE, TE, CE, OE, LE, ZE, QE
  cq : Nat
  tag : Nat
  slots : List Nat
  no : Nat                         -- number of the launch's tracker entry
  decided : Option (List Byte × Nat × Nat × Nat) := none  -- bytes 16–31, code, FAULT_KIND, slot of the deciding thread
  overrun : Bool := false          -- stopped for TICK_OVERRUN already
  deriving DecidableEq, Repr

/-- A launch between its request and its admission (R133). -/
structure Launch where
  r : LaunchReq
  p : Program                      -- the header's fields (slots empty)
  entries : List Nat               -- ENTRY[0..THREADS−1]
  sigKey : Nat                     -- SIG_KEY
  threads : Nat
  deriving DecidableEq, Repr

structure Seq where
  thr : SMap Thread                -- by 8 × domain + slot
  progs : SMap Program             -- by 65,536 × domain + program number
  admitted : SMap Nat              -- admission count of a domain (R152)
  starts : Nat                     -- threads started so far
  sigWait : List Launch            -- launches whose signature is being verified (R131)
  lq : List Launch                 -- launch queues, oldest first (R133 step 7)
  due : List Launch                -- launches that go to admission at the next boundary
  icache : SMap (SMap Byte)        -- by 16 × tile index + domain: the tile as fetched (R128)
  last : SMap Nat                  -- per domain: the start number, plus 1, of the thread that has just yielded its turn (R166)
  trk : SMap (Nat × Nat)           -- the operation tracker (R149): context and holder, 0 the host pool, k + 1 thread slot k
  opNo : Nat                       -- number of the next tracker entry
  trkPeak : Nat                    -- highest total since the last snapshot (R154)
  deriving DecidableEq, Repr

/-! ### Sync units (ch. 05) -/

inductive SyncOp where
  | signal (n : Nat)
  | arm (v : Word)
  | wait (v : Word)
  | waitt (v : Word) (ticks pd : Nat)
  | read (gd : Nat)
  deriving DecidableEq, Repr

/-- A request at a sync unit (R138, R141). `ctx` none: no ownership check. `th`: the thread that waits for it. -/
structure SyncReq where
  req : Nat
  obj : Nat
  ctx : Option Nat
  op : SyncOp
  th : Option (Th × Nat)
  entry : Nat := 0                 -- marionette entry of a signal of the tick unit
  pkt : Option (Ingress × Packet) := none -- the SIGNAL packet it comes from
  deriving DecidableEq, Repr

/-- A waiter record (R139, R140). -/
structure Waiter where
  obj : Nat
  thr : Word
  th : Th
  expiry : Option (Nat × Nat)      -- boundary at which WAITT expires, and its predicate
  pd : Option Nat
  deriving DecidableEq, Repr

structure Sync where
  counts : SMap Nat                -- an unlisted count is 0
  reqs : List SyncReq              -- requests that wait, all units, oldest first
  waiters : List Waiter
  ptr : SMap Nat                   -- rotating pointer of a unit (R19)
  landed : List (Ingress × Packet) -- SIGNAL packets performed and not yet marked placed (R342)
  deriving DecidableEq, Repr

/-! ### Memory (ch. 10) -/

structure Mem where
  hbm : List Host.Cell             -- allocatable HBM bytes; an unlisted address reads 0 (R291)
  rsv : List Host.Cell             -- bytes of the reserve written since the firmware's load (R277, R291)
  rsvLoad : Nat                    -- loads of the firmware so far
  stg : List Host.Cell             -- staging bytes written since the bank's last refill, by operand address (R161)
  refill : SMap Nat                -- refills so far: of the data partition of bank b at b, of its state partition at 16 + b
  bad : SMap Nat                   -- tiles with an uncorrectable ECC result: bit 0 on the tile, bit 1 on its checksum entry (R285)
  sums : SMap (BitVec 64)          -- stored checksums (R278) that are not their tile's CRC-64; every other one is
  lines : SMap (List Nat)          -- lines in a stack's checksum cache (R279)
  ptr : SMap Nat                   -- R288: stack s at s, bank b at 16 + b; R22: read ports of bank b at 32 + b, write ports at 48 + b
  wait : SMap (List TileAccess)    -- accesses that wait at a holding unit
  failAddr : Nat                   -- what MEM_TCHK_ADDR copies (R293)
  deriving DecidableEq, Repr

/-! ### Segments, windows, migration (ch. 11) -/

/-- A page of a migratable segment (R300): 0 NONRES, 1 IN, 2 RES, 3 OUT. -/
structure Page where
  st : Nat := 0
  frame : Nat := 0
  referenced : Bool := false
  dirty : Bool := false
  deriving DecidableEq, Repr

structure Segm where
  e : BitVec 512                   -- the entry of R295
  clock : Nat := 0
  pages : SMap Page := []          -- an unlisted page is NONRES
  frames : SMap Nat := []          -- page in a frame, by frame; unlisted: free
  removed : Option Nat := none     -- under removal: operations numbered below this keep it (R299)
  deriving DecidableEq, Repr

/-- What waits on a fault record (R301, R304). -/
inductive FaultWaiter where
  | engine (e : Nat)
  | held (i : Ingress) (p : Packet)        -- a held write, or a parked read, atomic or send
  | localRead (qp no : Nat)                -- a LOCAL read of an operation, by its tracker entry
  | prefetch                               -- the command that asked for the page (R307)
  deriving DecidableEq, Repr

structure FaultRec where
  ctx : Nat
  seg : Nat
  page : Nat
  waiters : List FaultWaiter
  started : Option Nat             -- tick at which its migration started
  victim : Option Nat              -- page being written back for it
  frame : Option Nat               -- frame chosen; none of a started record: no frame can be taken (R306)
  deriving DecidableEq, Repr

/-- A control entry in progress (R443): context, submission queue, tag and tracker entry. -/
structure CtlEntry where
  ctx : Nat
  q : Nat
  tag : Nat
  no : Nat
  deriving DecidableEq, Repr

/-- The blocks that take commands (R316, R350, R443). -/
inductive Blk where
  | seg | win | mig | qp
  deriving DecidableEq, Repr

/-- A command of a block that has been accepted and has not completed (R316, R350): what it waits for, and the control
entry that asked for it, none for the register command. -/
structure Pending where
  blk : Blk
  op : Nat
  ctx : Nat
  idx : Nat
  page : Nat := 0
  gen : Nat := 0                   -- operations numbered below this keep what is removed
  img : BitVec 256 := 0#256        -- the window that is being removed (R142)
  entry : Option CtlEntry := none
  deriving DecidableEq, Repr

structure Seg where
  segs : SMap Segm                 -- by 16 × context + index
  recs : List FaultRec
  wins : SMap (BitVec 256)         -- valid windows (R308)
  keys : SMap (BitVec 256)         -- valid keys (R309)
  pend : List Pending              -- removals, bumps, prefetches, evicts and queue pair commands in progress
  deriving DecidableEq, Repr

/-! ### Engines (ch. 01, 04, 07, 08, 09, 17) -/

/-- What a parked descriptor waits for: segment key and page (R214). -/
abbrev PageRef := Nat × Nat

/-- A descriptor that an engine runs, has set aside or holds as a remainder: its position and what it carries on. -/
structure Run where
  d : Desc
  pos : Nat := 0                   -- units released (R206, R221, R266)
  rem : Bool := false              -- a remainder of a reduction (R211)
  acc : List Nat := []             -- numbers carried between units, by the descriptor's kind
  bytes : List Byte := []          -- bytes carried between units: the record, a stream, a histogram
  out : List (Nat × List Byte) := [] -- the next unit: operand addresses and bytes to write
  ready : Bool := false            -- `out` has been computed and not released
  cnt : List Nat := []             -- what the unit adds to SPC_SATURATED, SPC_NAN_OUT, SPC_KIND_A, SPC_KIND_B
  park : Option PageRef := none    -- waits on this page's fault record
  recWait : Option (Nat × Nat) := none -- the page at which it waits for a fault record, counted (R302, R317)
  cost : Nat := 0                  -- engine cycles of the descriptor, or of a remainder (R207)
  deriving DecidableEq, Repr

structure Engine where
  input : List Desc := []          -- at the crossbar input (R17)
  stuck : List Nat := []           -- operations there that have found no free entry (R18)
  queue : List Desc := []          -- command queue (R16)
  ptr : Nat := 0                   -- R17
  ctxPtr : Nat := 0                -- rotating pointer over contexts of best-effort starts (R107)
  run : Option Run := none
  aside : List Run := []           -- set aside on migration faults (R214, R222, R265)
  remainder : List Run := []       -- reduction remainders at the head of the queue (R211)
  incoming : List Run := []        -- remainders on their way to this engine (R211)
  poolUsed : Nat := 0              -- best-effort cycles charged in this tick (R107)
  carryBE : Nat := 0               -- best-effort cycles carried into the following ticks
  carryTS : Nat := 0               -- other cycles carried into the next tick
  spent : Nat := 0                 -- tick-scheduled and remainder cycles of this tick
  hostBytes : Nat := 0             -- bytes moved to or from host segments, below the next KiB (R275)
  deriving DecidableEq, Repr

/-- A descriptor whose work has ended, before its completion is recorded (R170). -/
structure Ended where
  d : Desc
  code : Nat
  deriving DecidableEq, Repr

structure Eng where
  eng : SMap Engine
  ended : List Ended
  used : SMap (Nat × Nat)          -- by program key × 64 + engine: cycles and bytes started this tick (R107)
  demand : SMap (Nat × Nat)        -- the same key: cycles and bytes issued in this tick (R109)
  deriving DecidableEq, Repr

/-! ### Transport (ch. 12, 13) -/

/-- An operation of a queue pair at the initiator (R331, R345). Its packets are numbered from 0. -/
structure Op where
  d : Desc
  host : Bool := false                 -- fetched from a submission queue: it completes on SCQ
  first : Nat := 0                     -- PSN of packet 0
  ssn : Nat := 0                       -- SSN of a SEND
  sent : Nat := 0                      -- packets that have taken a PSN
  acked : List Nat := []               -- of these, those acknowledged as done
  refused : Option (Nat × Nat) := none -- lowest refused packet, and its code
  got : List (Nat × Nat) := []         -- response bytes placed: offset and length
  abort : Option (Nat × Nat) := none   -- number of the abort packet, and the code it carries (R340)
  code : Option Nat := none            -- how it has ended
  told : Bool := false                 -- its completion has been handed over
  deriving DecidableEq, Repr

/-- A posted receive (R339, R450). -/
structure Recv where
  ssn : Nat
  buf : Nat
  len : Nat
  tag : Nat
  bytes : Nat := 0
  donePk : Nat := 0                    -- packets of its message that are done
  npk : Option Nat := none             -- packets of its message, once LAST has arrived
  imm : Nat := 0
  bad : Option (Nat × Nat) := none     -- lowest refused packet of its message, and its code
  abort : Option Nat := none
  deriving DecidableEq, Repr

/-- A packet of a SEND that was refused at step 5 of R335 before its receive was posted: its SSN, its number, its code, and whether it
was the message's last. -/
structure EarlyRefusal where
  ssn : Nat
  k : Nat
  code : Nat
  last : Bool
  deriving DecidableEq, Repr

/-- A queue pair (R328). -/
structure Qp where
  e : BitVec 512                       -- the entry of R328
  st : Nat := 0                        -- R329
  cached : Bool := false               -- its state is on die
  txc : Nat := 0                       -- R326
  nextPsn : Nat := 0
  nextSsn : Nat := 0
  ops : List Op := []                  -- oldest first
  tries : SMap Nat := []               -- TRY of the latest transmission of a PSN; unlisted: 0
  resend : List Nat := []              -- PSNs to send again
  heldPsn : List Nat := []             -- PSNs whose latest notice is `held` (R347)
  timer : Option Nat := none           -- boundary at which the retransmission timer expires
  rate : Nat := 0                      -- R372
  cut : Bool := false
  echoed : Bool := false
  epsn : Nat := 0                      -- R336
  done : List Nat := []                -- PSNs above ePSN that are done
  refusals : List (Nat × Nat) := []    -- refused PSNs in history and window, with their codes (R343)
  msgs : SMap (Nat × Option Nat) := [] -- WRITE messages by first PSN: bytes placed and total (R338)
  resp : List Packet := []             -- responses that have not been sent, oldest first (R341, R342, R373)
  nextAt : Nat := 0                    -- time of the time base from which the next packet may start (R373)
  recWait : Option (Nat × Nat) := none -- the page at which a LOCAL read waits for a fault record, counted (R302, R317)
  atomics : List (Nat × Nat) := []     -- the last 16 atomics: PSN and previous value (R342)
  echo : Nat := 0                      -- R343
  ackDue : Nat := 0                    -- placements since the last ACK
  ackFrom : Option (Ingress × Packet) := none  -- the first packet that no ACK has yet covered (R344)
  deriving DecidableEq, Repr

/-- A receive queue (R450). -/
structure Rq where
  log2 : Nat
  next : Nat := 0                      -- position of the next receive
  recvs : List Recv := []              -- those that have not completed
  early : List EarlyRefusal := []      -- packets refused before the receive that their message takes was posted (R339)
  deriving DecidableEq, Repr

structure Transport where
  qps : SMap Qp
  rqs : SMap Rq                        -- by 64 × context + RQ
  routes : SMap (BitVec 768)           -- the route table in the reserve (R353)
  rcache : List Nat                    -- endpoints whose entry is cached, latest first (R354)
  waitRoute : List (Nat × Option Packet) -- responses and ACKs that wait for a route entry, for a path or for a peer's
                                       -- credit, with their queue pair; none: the pair's next packet waits
  waitState : List (Ingress × Packet)  -- packets that wait for queue pair state (R328)
  fences : List (Ingress × Packet)     -- the fence store (R337)
  arrivals : List (Ingress × Packet)   -- packets for the transport unit that it has not yet handled
  deriving DecidableEq, Repr

/-! ### Ports and bays (ch. 13, 15) -/

structure Frame where
  cls : Nat
  len : Nat
  pkt : Packet
  fwd : Bool
  ingress : Nat
  deriving DecidableEq, Repr

/-- A port (ch. 13, ch. 15). Its link, START_CUR and pause state stand in PORT_STATUS and MAC_PAUSE_STATE. -/
structure Port where
  q : SMap (List Frame) := []           -- queued frames by class, head first (R364, R367)
  wait : List Frame := []               -- local frames that wait for room (R364)
  ptp : List Nat := []                  -- PTP messages that wait for the next frame boundary, by their kind (R366)
  tokens : SMap Nat := []               -- shaper tokens by class, in 1/80 byte; unlisted: full (R368)
  lastNs : Nat := 0                     -- time at which the tokens were last renewed
  xoff : Nat := 0                       -- bit c: a pause has been sent for class c and is in force (R365)
  pfc : Nat := 0                        -- bit c: a received per-class pause holds class c (R415)
  llp : Nat := 0                        -- bit c: a received PAUSE holds class c (R415, R417)
  ctl : List (Nat × Nat) := []          -- pause frames that wait for the next frame boundary: enable vector and time (R416)
  cut : Option Frame := none            -- the frame in transmission
  whole : Bool := false                 -- it was started under TX_MODE 1 (R413)
  ptr : Nat := 0                        -- R362: rotating order over the requesters 0 to 33
  held : Nat := 0                       -- bit c: the head frame of class c has been counted as held (R418)
  deriving DecidableEq, Repr

/-- A laser cartridge bay (ch. 15). Its state, latch and life values stand in the bay's registers. -/
structure Bay where
  cart : Option Cartridge := none       -- the cartridge in the bay, as its bus reads it
  quiescing : Bool := false             -- a quiesce is running (R427)
  opened : Bool := false                -- the latch has opened since the bay's last identification or quiesce
  minutes : Nat := 0                    -- minutes since the life area was last written (R425)
  deriving DecidableEq, Repr

structure Fabric where
  ports : SMap Port
  bays : SMap Bay
  deriving DecidableEq, Repr

/-! ### Hosts (ch. 16) -/

structure Sq where
  f : Nat := 0                     -- 64-bit fetch count (R441)
  prod : Nat := 0
  asked : Nat := 0                 -- reads of the next entry issued and not answered
  reread : Bool := false           -- the entry has been found not written (R445)
  tries : Nat := 0                 -- re-reads of the entry so far (R445)
  held : Option (List Byte × Option Nat) := none -- an entry found written that has not started (R445, R450), with its tracker entry
  deriving DecidableEq, Repr

structure Cq where
  ctx : Nat
  base : Nat
  log2 : Nat
  vector : Nat
  modCount : Nat
  modNs : Nat
  written : Nat := 0
  consumed : Nat := 0
  armed : Bool := false
  since : Nat := 0                 -- entries written since arming
  waiting : List (List Byte × Option (Nat × Nat) × Option Nat) := []  -- entries that wait for room, with the thread
                                   -- (slot, start) that goes on and the tracker entry that is given back
  deriving DecidableEq, Repr

/-- A frozen context (R458): its saved threads, its held launches with their tracker entries, and whether its freeze is
complete. -/
structure Frozen where
  threads : List (Th × Thread) := []
  launches : List (LaunchReq × Nat) := []
  done : Bool := false
  deriving DecidableEq, Repr

/-- A submission queue in a blob (R459): SQ number, ring base, SQ_CFG, SQ_CQ, SQ_STATUS, and its indices. -/
structure SqImage where
  q : Nat
  base : Nat
  cfg : Nat
  cq : Nat
  status : Nat
  sq : Sq
  deriving DecidableEq, Repr

/-- What a blob's body holds, by the record types of R459. -/
structure CtxImage where
  quota : BitVec 512
  segs : List (Nat × Segm)           -- by index
  wins : List (Nat × BitVec 256)
  keys : List (Nat × BitVec 256)
  qps : List (Nat × Qp)              -- with their recorded operations
  sqs : List SqImage
  cqs : List (Nat × Cq)
  rqs : List (Nat × Rq)              -- by number within the context
  syncs : List (Nat × Nat)
  progs : List Program
  threads : List (Th × Thread)
  launches : List LaunchReq
  deriving DecidableEq, Repr

structure Hosts where
  sqs : SMap Sq                    -- by 16 × context + q
  cqs : SMap Cq
  quotaReq : SMap (BitVec 512)     -- quota as written (R455)
  quotaEff : SMap (BitVec 512)     -- quota in effect
  owned : SMap Nat                 -- objects pending reclaim: the context they leave (R455), by `ownKey`
  ownedStg : List (Nat × Nat)      -- staging grants pending reclaim: context and STG word
  frozen : SMap Frozen
  sqPtr : Nat                      -- rotating pointer of the host pool over the submission queues (R150)
  quotaPend : Option Nat           -- a set whose increases wait for the boundary (R455)
  freezing : Option Nat            -- freeze committed and not yet complete
  restoring : Option (Nat × CtxImage) -- a restore that waits for the admission of its programs (R460)
  blobs : Nat                      -- nonces used for blobs (R473)
  inboxes : SMap (Nat × Nat)       -- by 8 × host port + inbox: consumed count, OUT_CREDIT
  sentTo : SMap Nat                -- frames sent to a peer entry
  vfEnable : Nat                   -- bit n: VF Enable of host port n's SR-IOV capability (R437)
  aer : Nat                        -- bit n: host port n has reported an Uncorrectable Internal Error (R78)
  deriving DecidableEq, Repr

/-! ### Cipher, identity, firmware (ch. 17) -/

/-- A component of a set (R484, R485): what of its image the adapter goes on using. -/
structure Component where
  version : Nat := 0
  body : List Byte := []
  ext : Nat := 0
  settingsFmt : Nat := 0
  compat : List (Nat × Nat) := []  -- lowest and highest accepted major and minor, by component; an absent entry accepts all
  deriving DecidableEq, Repr

/-- A NOR bank (R484): its component set and its settings copy. -/
structure Bank where
  comps : List Component := [{}, {}, {}, {}]
  settings : SMap (List Byte) := []
  fmt : Nat := 0
  deriving DecidableEq, Repr

/-- The loading of an activated set (R490). -/
inductive Loading where
  | none
  | loading
  | loaded                         -- work is released at the next boundary
  deriving DecidableEq, Repr

structure Cipher where
  keys : SMap (Bool × BitVec 256)  -- by 256 × context + index: USE and key
  slots : SMap (List Byte)         -- by 16 × kind + slot (R495)
  bankA : Bank
  bankB : Bank
  active : Bool                    -- the active bank is B (R484)
  staged : List Nat                -- components staged in the session
  load : Loading
  quote : Option (List Byte)       -- the latest finished quote
  quoting : Option (List Byte)     -- the nonce of a quote in progress
  eid : Nat
  dynAddr : Option Nat
  pldm : Nat                       -- PLDM update state: 0 idle, 1 learn, 2 ready, 3 download, 4 verify, 5 apply
  pldmComp : Nat
  pldmData : List Byte
  deriving DecidableEq, Repr

/-! ### Fault collector (ch. 18) -/

/-- A unit that a fence concerns (R505). -/
inductive FUnit where
  | engine (e : Nat)
  | domain (d : Nat)
  | port (n : Nat)
  | ioDie (i : Nat)
  | stack (k : Nat)
  | bay (m : Nat)
  deriving DecidableEq, Repr

structure Fcol where
  raised : List (Nat × Nat × Nat)  -- events of this cycle that the collector has not yet taken: source, unit, DETAIL
  selfTest : List FUnit            -- fences set at self-test (R64, R506)
  unfence : Option FUnit           -- an accepted unfence that waits for its boundary (R515)
  refilling : Option Nat           -- a domain that rejoins, while its refill runs
  ioDies : Nat                     -- bit i: I/O die i is fenced
  degraded : Bool                  -- a unit has been fenced since Bring-up (R505)
  cores : Nat                      -- bit n: the watchdog of management core n has expired (R29, R498)
  deriving DecidableEq, Repr

/-! ### What leaves the adapter -/

inductive Output where
  | hostWrite (ctx addr : Nat) (data : List Byte)      -- posted write on a context's host port
  | hostRead (ctx addr len : Nat)                      -- a read the adapter issues
  | msix (ctx vector : Nat)
  | abortRead (ctx off len : Nat)                      -- Completer Abort
  | readData (ctx : Nat) (data : List Byte)
  | busWrite (port addr : Nat) (data : List Byte)      -- posted write to a bus address through a host port (R452)
  | frame (port : Nat) (p : Packet) (src : BitVec 48) (good : Bool)  -- with its MAC source address, and whether its FCS is good
  | pause (port : Nat) (enable : Nat) (xoff : Nat)
  | ptp (port kind : Nat)                              -- 0 Sync, 1 Follow_Up, 2 Pdelay_Req, 3 Pdelay_Resp, 4 its Follow_Up
  | announce (port tickLen origin base domain : Nat) (d : Option Dataset)
  | i3c (data : List Byte)
  | tickOut (ns : Nat)                                 -- TICK_OUT rises at this time, for 100 ns (R47)
  | safeN (low : Bool)                                 -- SAFE_N is pulled low, or released (R51)
  | errFatal (port : Nat)                              -- ERR_FATAL of a host port (R78)
  deriving DecidableEq, Repr

/-- The adapter. -/
structure State where
  pending : List Instr             -- commands that wait, first in, first out
  variant : Variant
  regs : SMap Word32               -- registers of the BAR0 map by offset; an unlisted register reads its reset value
  late : SMap Word32               -- the values in effect of registers written in this tick whose writes take effect at
                                   -- the next boundary
  cnt : SMap Nat                   -- live counters by the offset of their SNAP register; unlisted: 0
  snap : SMap Nat                  -- holding registers (R519)
  pw : Power
  tk : Tick
  sq : Seq
  sy : Sync
  mem : Mem
  sg : Seg
  en : Eng
  tr : Transport
  fb : Fabric
  ho : Hosts
  ci : Cipher
  fc : Fcol
  out : List Output                -- what the adapter has sent, oldest first (log entry 8)
  free : Nat                       -- the next free value (log entry 2)
  deriving DecidableEq, Repr

/-! ### After reset -/

def Power.reset : Power :=
  { vaux := true, v54 := true, held := true, straps := 3, perst := 15, trained := 0, halt := false, drain := .none,
    launches := [], restExit := none, opticsOff := false, wake := false, parts := true, sref := false,
    calm := 0, capTicks := 0, elapsed := 0, tjSum := 0, tjTime := 0 }

def Tick.reset : Tick :=
  { num := 0, nextNum := none, count := 0, cap := 2400, share := 100, origin := 0, base := 0, ns := 0,
    frac := 0#16, foreign := [], change := none, bank := [], gates := [], resv := [],
    goodSync := 0, ppsLast := none, locked := false, ppsSet := false, ppsSec := none, ppsOn := false, fired := [] }

def Seq.reset : Seq :=
  { thr := [], progs := [], admitted := [], starts := 0, sigWait := [], lq := [], due := [], icache := [], last := [],
    trk := [], opNo := 0, trkPeak := 0 }

def Sync.reset : Sync := { counts := [], reqs := [], waiters := [], ptr := [], landed := [] }

def Mem.reset : Mem := { hbm := [], rsv := [], rsvLoad := 0, stg := [], refill := [], bad := [], sums := [], lines := [], ptr := [], wait := [], failAddr := 0 }

def Seg.reset : Seg := { segs := [], recs := [], wins := [], keys := [], pend := [] }

def Eng.reset : Eng := { eng := [], ended := [], used := [], demand := [] }

def Transport.reset : Transport :=
  { qps := [], rqs := [], routes := [], rcache := [], waitRoute := [], waitState := [], fences := [],
    arrivals := [] }

def Fabric.reset : Fabric := { ports := [], bays := [] }

def Hosts.reset : Hosts :=
  { sqs := [], cqs := [], quotaReq := [], quotaEff := [], owned := [], ownedStg := [], frozen := [], sqPtr := 0, quotaPend := none, freezing := none, restoring := none, blobs := 0,
    inboxes := [], sentTo := [], vfEnable := 0, aer := 0 }

def Cipher.reset : Cipher :=
  { keys := [], slots := [], bankA := {}, bankB := {}, active := false, staged := [], load := .none, quote := none, quoting := none,
    eid := 0, dynAddr := none, pldm := 0, pldmComp := 0, pldmData := [] }

def Fcol.reset : Fcol :=
  { raised := [], selfTest := [], unfence := none, refilling := none, ioDies := 0, degraded := false, cores := 0 }

/-- The adapter right after reset, while MOD_RESET_N is still low (R50): every register at its reset value (PWR_STATE
reads Bring-up, R87), no thread, queues empty, and no command waiting. It is a VL-768 (log entry 4), with both rails up
(log entry 5). -/
def State.reset : State :=
  { pending := [], variant := false, regs := [], late := [], cnt := [], snap := [], pw := Power.reset, tk := Tick.reset,
    sq := Seq.reset, sy := Sync.reset, mem := Mem.reset, sg := Seg.reset, en := Eng.reset, tr := Transport.reset,
    fb := Fabric.reset, ho := Hosts.reset, ci := Cipher.reset, fc := Fcol.reset, out := [], free := 0 }

end Sys2Proof.Machine
end

