-- ==== Sys2Proof/Machine/Ops.lean ====
section
/-! DEFINITION. The named operations that every command is written with: registers and SQC statuses, counters, outputs,
free values, units that are present or fenced, threads, the operation tracker. -/

namespace Sys2Proof.Machine

/-! ### What the variant has (R2) -/

def nDom (s : State) : Nat := if s.variant then 8 else 16
def nEng (s : State) : Nat := 4 * nDom s
def nStack (s : State) : Nat := if s.variant then 8 else 16
def nBay (s : State) : Nat := if s.variant then 4 else 8
def nSync (s : State) : Nat := if s.variant then 2 else 4
/-- Port `n` of the port switch: fabric 0–15, attach 16–31 (R27). -/
def portPresent (s : State) (n : Nat) : Bool := if s.variant then n < 8 || (16 ≤ n && n < 24) else n < 32
/-- Kind of the specialty engine of domain `d`: 3 OE, 4 LE, 5 ZE, 6 QE (R2, R15). -/
def spcKind (s : State) (d : Nat) : Nat := 3 + (if s.variant then d / 2 else d / 4)
/-- Kind of engine `e` as a descriptor's KIND names it (R15, R168). -/
def engKind (s : State) (e : Nat) : Nat := if e % 4 < 3 then e % 4 else spcKind s (e / 4)

/-! ### Registers (R8, R516) -/

/-- Does row `r` hold a register at `off`, and with which indexes? -/
def rowHit (r : RegRow) (off : Nat) : Option (Nat × Nat) :=
  if off < r.base then none else
  let d := off - r.base
  let i := if r.stride1 = 0 then 0 else d / r.stride1
  let m := if r.stride1 = 0 then d else d % r.stride1
  let j := if r.stride2 = 0 then 0 else m / r.stride2
  let k := if r.stride2 = 0 then m else m % r.stride2
  if i < r.cnt1 && j < r.cnt2 && k == 0 then some (i, j) else none

def findRow : List RegRow → Nat → Option (RegRow × Nat × Nat)
  | [], _ => none
  | r :: rs, off => match rowHit r off with
    | some (i, j) => some (r, i, j)
    | none => findRow rs off

/-- The context whose function page holds `off`, if one does. -/
def fnCtx (off : Nat) : Option Nat :=
  if 0x600000 ≤ off && off < 0x610000 then some 0
  else if 0x2010000 ≤ off && off < 0x3000000 then some ((off - 0x2000000) / 0x10000) else none

/-- The row of the register at `off` (R521). -/
def regRow (off : Nat) : Option (RegRow × Nat × Nat) :=
  match fnCtx off with
  | some c => findRow regRows_fn (off - fnBase c)
  | none =>
    if off < 0x10000 then findRow regRows_id off
    else if off < 0x20000 then findRow regRows_fcol off
    else if off < 0x30000 then findRow regRows_tick off
    else if off < 0x100000 then none
    else if off < 0x200000 then findRow regRows_dom off
    else if off < 0x280000 then
      (match findRow regRows_port off with
       | some r => some r
       | none => findRow regRows_bay off)
    else if off < 0x300000 then none
    else if off < 0x400000 then findRow regRows_mem off
    else if off < 0x500000 then findRow regRows_seg off
    else if off < 0x600000 then findRow regRows_trn off
    else if off < 0x700000 then findRow regRows_host off
    else if off < 0x800000 then findRow regRows_ciph off
    else if off < 0x801000 then findRow regRows_snap off
    else none

/-- Default reaction of a fault source (R498). -/
def defaultReaction (s : Nat) : Nat :=
  if s ≤ 10 then 2
  else if s = 11 || s = 12 || s = 14 || s = 15 then 0
  else if s = 13 then 1
  else if s ≤ 19 then 1
  else if s ≤ 21 then 0
  else if s ≤ 23 then 1
  else if s = 24 then 0
  else if s = 25 then 1
  else if s ≤ 31 then 0
  else 1

/-- What a register that has not been written since reset reads (R8): the tables' reset column, the values set at
manufacture (log entry 4), and those that depend on the variant or on the register's place. -/
def regReset (v : Variant) (off : Nat) : Nat :=
  match regRow off with
  | none => 0
  | some (r, i, j) =>
    if off = 0x4 then (if v then 0x0384 else 0x0768) + 65536 * (if Config.steppingB0 then 0xB0 else 0xA1)
    else if off = 0x8 then Config.unitSerial.toNat % 2 ^ 32
    else if off = 0xC then Config.unitSerial.toNat / 2 ^ 32
    else if off = 0x10 then Config.mfgDate.toNat
    else if off = 0x14 then (if v then 0x0385 else 0x0769)
    else if r.base = 0x10100 then defaultReaction j + 65536 * 100
    else if off = 0x300000 then (if v then 8 + 256 * 8 + 65536 * 755 else 16 + 256 * 16 + 65536 * 1520)
    else if r.base = 0x100300 then 2 * (if v then i / 2 else i / 4)
    else if r.base = 0x201000 then (2 ^ 32 - 1) - 2 ^ i
    else if r.base = 0x200004 then (if (if v then i < 8 || (16 ≤ i && i < 24) else i < 32) then 2 else 0)
    else if r.base = 0x200008 && v then r.reset % 65536
    else if r.base = 0x202008 then (Config.bayClass i).toNat
    else if r.base = 0x800 && j % 4 = 3 then 1
    else r.reset

/-- A register word as the state holds it. -/
def State.reg (s : State) (off : Nat) : Nat :=
  match smFind s.regs off with
  | some v => v.toNat
  | none => regReset s.variant off

/-- A field. -/
def State.get (s : State) (f : RF) : Nat := bits (s.reg f.off) f.lo f.wid

/-- A one-bit field. -/
def State.flag (s : State) (f : RF) : Bool := s.get f == 1

def State.setReg (s : State) (off v : Nat) : State := { s with regs := smSet s.regs off (BitVec.ofNat 32 v) }

/-- Write a field; the register's other bits stay. -/
def State.set (s : State) (f : RF) (v : Nat) : State := s.setReg f.off (putBits (s.reg f.off) f.lo f.wid v)

/-- A _LO and _HI pair as one number (R516). -/
def State.get64 (s : State) (lo hi : RF) : Nat := s.reg lo.off + 2 ^ 32 * s.reg hi.off

def State.set64 (s : State) (lo hi : RF) (v : Nat) : State :=
  (s.setReg lo.off (v % 2 ^ 32)).setReg hi.off ((v / 2 ^ 32) % 2 ^ 32)

/-- `n` registers in a row as one number, the first the least significant. -/
def State.getWords (s : State) (off : Nat) : (n : Nat) → Nat
  | 0 => 0
  | n + 1 => s.reg off + 2 ^ 32 * s.getWords (off + 4) n

def State.setWords (s : State) (off : Nat) : (n : Nat) → (v : Nat) → State
  | 0, _ => s
  | n + 1, v => (s.setReg off (v % 2 ^ 32)).setWords (off + 4) n (v / 2 ^ 32)

/-- Clear the registers of the span [lo, hi) to their reset values. -/
def State.resetRegs (s : State) (lo hi : Nat) : State :=
  { s with regs := smDrop (fun k => lo ≤ k && k < hi) s.regs }

/-! ### SQC statuses (R9) -/

/-- The next sequence number: never 0. -/
def seqNext (n : Nat) : Nat := if n = 255 then 1 else n + 1

/-- A new event advances the sequence number. -/
def State.bump (s : State) (f : RF) : State := s.set f (seqNext (s.get f))

/-- A command's event: the result, then the sequence number. -/
def State.result (s : State) (seq res : RF) (r : Nat) : State := (s.set res r).bump seq

/-! ### Counters (R11, R519) -/

/-- Where the live count of a SNAP field is kept. -/
def RF.key (f : RF) : Nat := 32 * f.off + f.lo

/-- Add to a counter, which saturates at its all-ones value. -/
def State.count (s : State) (f : RF) (n : Nat := 1) : State :=
  { s with cnt := smSet s.cnt f.key (min (smGet s.cnt f.key 0 + n) (2 ^ f.wid - 1)) }

def State.live (s : State) (f : RF) : Nat := smGet s.cnt f.key 0

/-- An ignored register write (R62). -/
def State.ignWrite (s : State) : State := s.count { F.BRUP_IGN_WRITES with wid := 16 }

/-! ### Power states (R59), functions held in reset (R39) -/

/-- The host port of a context (R436, R463): the management port for context 0. -/
def State.ctxPort (s : State) (ctx : Nat) : Nat :=
  if ctx = 0 then s.get F.BRUP_PROGRESS_MGMT_PORT else s.get (F.HOST_CTX_MAP_PORT ctx)

/-- Is the function of the context held in reset: is its port's PERST_N low? -/
def State.fnHeld (s : State) (ctx : Nat) : Bool := !bit s.pw.perst (s.ctxPort ctx)

/-- The power state by which commands act: an adapter that MOD_RESET_N holds in reset acts on nothing, as in Standby (R50). -/
def State.pst (s : State) : Nat :=
  let st := s.get F.PWR_STATE_STATE
  if s.pw.held && st ≠ 0 then 1 else st
def State.active (s : State) : Bool := s.pst == 3

/-- A write to a register by the function of context `ctx` (R62, R78): its effect in Active; ignored and counted in Bring-up, and in
Rest unless its block answers there; dropped in Safe, and without a path to the adapter in Standby and Off, or while PERST_N holds the
function in reset (R39). -/
def fnCmd (s : State) (ctx : Nat) (inRest : Bool) (f : State → State) : State :=
  if s.fnHeld ctx then s
  else if s.pst = 3 then f s
  else if s.pst = 4 then (if inRest then f s else s.ignWrite)
  else if s.pst = 2 then s.ignWrite
  else s

/-- A register command: a write by the management physical function. -/
def regCmd (s : State) (inRest : Bool) (f : State → State) : State := fnCmd s 0 inRest f

/-- A command that acts in Active only. -/
def inActive (s : State) (f : State → State) : State := if s.pst = 3 then f s else s

/-! ### Outputs, free values, fault signals -/

def State.emit (s : State) (o : Output) : State := { s with out := s.out ++ [o] }

/-- Take a free value (log entry 2). -/
def State.fresh (s : State) : Word × State := (Config.freeValue s.free, { s with free := s.free + 1 })

/-- A block signals an event of a fault source; the collector takes it at the end of the cycle (R501, R505). -/
def State.raise (s : State) (src unit detail : Nat) : State :=
  { s with fc := { s.fc with raised := s.fc.raised ++ [(src, unit, detail)] } }

/-! ### Fences (R505): the registers that show them hold them -/

def State.engFenced (s : State) (e : Nat) : Bool :=
  if e < 32 then bit (s.reg F.FCOL_FENCED_ENG_LO.off) e else bit (s.reg F.FCOL_FENCED_ENG_HI.off) (e - 32)
def State.domFenced (s : State) (d : Nat) : Bool := bit (s.get F.FCOL_FENCED_DOM_DOMAINS) d
def State.bayFenced (s : State) (m : Nat) : Bool := bit (s.get F.FCOL_FENCED_DOM_BAYS) m
def State.portFenced (s : State) (n : Nat) : Bool := bit (s.reg F.FCOL_FENCED_PORT.off) n
def State.stackFenced (s : State) (k : Nat) : Bool := bit (s.get F.MEM_FENCED_STACKS) k

/-! ### The control complex (R29) -/

/-- Does the control complex run? It is eight management cores; that it has stopped once the watchdog of each has expired, and runs again
only after a reset, is DESIGN CHOICE (log entry 15). -/
def ctrlOn (s : State) : Bool := s.fc.cores % 256 != 255

/-- A command that the control complex accepts. -/
def inCtrl (s : State) (f : State → State) : State := if ctrlOn s then f s else s

/-! ### Quotas and ownership (R129, R454) -/

/-- The quota record in effect for a context. -/
def State.quota (s : State) (ctx : Nat) : Nat := (smGet s.ho.quotaEff ctx 0#512).toNat

def inRange (first count n : Nat) : Bool := first ≤ n && n < first + count

/-- The kinds of owned object: 0 sync object, 1 queue pair, 2 completion queue, 3 key, 4 window. -/
def ownKey (kind n : Nat) : Nat := 2 ^ 20 * kind + n

/-- Is the object pending reclaim from the context (R455)? It still counts as owned. -/
def State.pendingReclaim (s : State) (ctx kind n : Nat) : Bool := smGet s.ho.owned (ownKey kind n) 256 == ctx

def State.ownsQp (s : State) (ctx n : Nat) : Bool :=
  let q := s.quota ctx; inRange (bits q 0 32) (bits q 32 32) n || s.pendingReclaim ctx 1 n
def State.ownsCq (s : State) (ctx n : Nat) : Bool :=
  let q := s.quota ctx; inRange (bits q 64 32) (bits q 96 32) n || s.pendingReclaim ctx 2 n
def State.ownsKey (s : State) (ctx n : Nat) : Bool :=
  let q := s.quota ctx; inRange (bits q 128 32) (bits q 160 32) n || s.pendingReclaim ctx 3 n
def State.ownsWin (s : State) (ctx n : Nat) : Bool :=
  let q := s.quota ctx; inRange (bits q 192 32) (bits q 224 32) n || s.pendingReclaim ctx 4 n
def State.ownsSync (s : State) (ctx n : Nat) : Bool :=
  let q := s.quota ctx; inRange (bits q 256 16) (bits q 272 16) n || s.pendingReclaim ctx 0 n

/-- An STG word of a quota record: valid, bank, first tile, tiles. -/
def stgWord (w : Nat) : Bool × Nat × Nat × Nat := (bit w 31, bits w 0 4, bits w 4 13, bits w 17 13)

/-- STG[i] of a quota record. -/
def quotaStg (q i : Nat) : Nat := bits q (384 + 32 * i) 32

/-- The staging grants of a context, those pending reclaim included. -/
def State.grants (s : State) (ctx : Nat) : List Nat :=
  ((List.range 4).map fun i => quotaStg (s.quota ctx) i)
    ++ (s.ho.ownedStg.filter fun e => e.1 == ctx).map (·.2)

/-- Does the context's staging grant hold the bytes [off, off + n) of bank `b`? -/
def State.stgGranted (s : State) (ctx b off n : Nat) : Bool :=
  let gs := s.grants ctx
  (List.range ((off + n - 1) / 2048 - off / 2048 + 1)).all fun k =>
    let t := off / 2048 + k
    gs.any fun w =>
      let (v, bk, first, cnt) := stgWord w
      v && bk == b && inRange first cnt t

def State.ctxState (s : State) (ctx : Nat) : Nat := s.get (F.HOST_CTX_MAP_STATE ctx)

def State.hostUp (s : State) (h : Nat) : Bool := s.flag (F.HOST_PORT_STATUS_LINK h)

/-! ### Threads (R125, R126) -/

def thKey (t : Th) : Nat := 8 * t.dom + t.slot
def State.thr (s : State) (t : Th) : Thread := smGet s.sq.thr (thKey t) {}
def State.setThr (s : State) (t : Th) (x : Thread) : State :=
  { s with sq := { s.sq with thr := smSet s.sq.thr (thKey t) x } }

/-- Register g[n]; g0 reads 0. -/
def Thread.gr (x : Thread) (n : Nat) : Word := if n = 0 then 0#64 else smGet x.g n 0#64
/-- Write g[n]; a write to g0 is discarded. -/
def Thread.setG (x : Thread) (n : Nat) (v : Word) : Thread := if n = 0 then x else { x with g := smPut 0#64 x.g n v }
def Thread.dr (x : Thread) (n : Nat) : BitVec 256 := smGet x.d n 0#256
def Thread.setD (x : Thread) (n : Nat) (v : BitVec 256) : Thread := { x with d := smPut 0#256 x.d n v }
def Thread.pr (x : Thread) (n : Nat) : Bool := x.p.getLsbD n
def Thread.setP (x : Thread) (n : Nat) (v : Bool) : Thread := { x with p := BitVec.ofNat 8 (putBit x.p.toNat n v) }
def Thread.next (x : Thread) : Thread := { x with pc := x.pc + 8#64 }

/-- A thread that waits goes on with the next instruction, `f` being what its instruction still writes. -/
def State.resume (s : State) (t : Th) (f : Thread → Thread := id) : State :=
  let x := s.thr t
  s.setThr t (f { x with st := .ready, cause := 0, pend := .none }).next

/-- A program is named by its domain and number (R152). -/
def progKey (dom num : Nat) : Nat := 65536 * dom + num
def State.prog (s : State) (t : Th) : Option Program := smFind s.sq.progs (progKey t.dom (s.thr t).prog)
def State.setProg (s : State) (p : Program) : State :=
  { s with sq := { s.sq with progs := smSet s.sq.progs (progKey p.dom p.num) p } }

/-! ### The operation tracker (R149, R150) -/

/-- Record the highest total held (R154). -/
def State.trkMark (s : State) : State := { s with sq := { s.sq with trkPeak := max s.sq.trkPeak s.sq.trk.length } }

/-- Take an entry: the operation's number is `s.sq.opNo`. `holder` is 0 for the host pool, k + 1 for thread slot k. -/
def State.trkTake (s : State) (ctx holder : Nat) : State :=
  State.trkMark { s with sq := { s.sq with trk := smSet s.sq.trk s.sq.opNo (ctx, holder), opNo := s.sq.opNo + 1 } }
/-- Give an entry back. -/
def State.trkGive (s : State) (no : Nat) : State := { s with sq := { s.sq with trk := smDel s.sq.trk no } }
/-- Entries that a thread slot holds. -/
def State.trkHeld (s : State) (t : Th) : Nat := (s.sq.trk.filter fun e => e.2.2 == thKey t + 1).length
/-- Entries of the host pool. -/
def State.trkHost (s : State) : Nat := (s.sq.trk.filter fun e => e.2.2 == 0).length
/-- Is the host pool full: its entries held, or spoken for by an entry that is being fetched? -/
def State.poolFull (s : State) : Bool :=
  8192 ≤ s.trkHost + (s.ho.sqs.filter fun e => e.2.asked != 0 || e.2.reread).length
/-- Does the context have an operation outstanding that started before number `no`? -/
def State.ctxBusy (s : State) (ctx no : Nat) : Bool := s.sq.trk.any fun e => e.2.1 == ctx && e.1 < no

/-! ### Ticks -/

/-- Word `i` of the active marionette bank (R115). -/
def State.mariWord (s : State) (i : Nat) : Nat := smGet s.tk.bank i 0

/-- The boundary at which a timeout of `k` ticks ends (R94). -/
def State.expiry (s : State) (k : Nat) : Nat := s.tk.count + max k 1

/-- TICK_LEN.CUR in ns: steps of 250 ns (R92). -/
def State.tickNs (s : State) : Nat := 250 * s.get F.TICK_LEN_CUR

/-- Time base value of boundary `m` (R92). -/
def State.boundaryNs (s : State) (m : Nat) : Nat := ((s.tk.origin : Int) + ((m : Int) - s.tk.base) * s.tickNs).toNat

/-- The tick number at time base value `t` (R92). -/
def State.numAt (s : State) (t : Nat) : Nat := ((s.tk.base : Int) + ((t : Int) - s.tk.origin) / (s.tickNs : Int)).toNat

/-- The number of the next boundary. -/
def State.nextNum (s : State) : Nat := s.tk.nextNum.getD (s.tk.num + 1)

end Sys2Proof.Machine
end

