-- ==== Sys2Proof/Machine/Memory.lean ====
section
/-! DEFINITION. HBM, staging and tile checksums (ch. 10): bytes, tiles, what an access checks, and the holding units. -/

namespace Sys2Proof.Machine

/-- Staging operand addresses have bit 47 set (R161); adapter HBM addresses lie below it. -/
def isStg (a : Nat) : Bool := bit a 47
def stgBank (a : Nat) : Nat := bits a 24 4
def stgOff (a : Nat) : Nat := bits a 0 24
def stgAddr (bank off : Nat) : Nat := 2 ^ 47 + 2 ^ 24 * bank + off

/-- The stack that holds adapter HBM address `a` (R23). -/
def stackOf (v : Variant) (a : Nat) : Nat :=
  if v then bits a 11 3 ^^^ bits a 14 3 else bits a 11 4 ^^^ bits a 15 4

/-- Within-stack address of `a`: the stack bits removed (R23). -/
def inStack (v : Variant) (a : Nat) : Nat :=
  if v then bits a 0 11 + 2048 * (a >>> 14) else bits a 0 11 + 2048 * (a >>> 15)

/-- One past the last allocatable address, one past the reserve, and one past HBM (R276). -/
def allocEnd (v : Variant) : Nat := if v then 0x5E60000000 else 0xBE00000000
def reserveEnd (v : Variant) : Nat := if v then 0x5FA0000000 else 0xBF40000000

/-- Is an adapter HBM address in the firmware reserve (R276)? -/
def inReserve (v : Variant) (a : Nat) : Bool := allocEnd v ≤ a && a < reserveEnd v

/-- Is a bank offset in the state partition (R20, R281)? -/
def inStatePart (off : Nat) : Bool := 0xB00000 ≤ off && off < 0xC00000

/-- The byte that memory holds at a physical address. -/
def State.byte (s : State) (a : Nat) : Byte :=
  if isStg a then
    (match smFind s.mem.stg a with
     | some b => b
     | none => Config.stagingPattern (smGet s.mem.refill (if inStatePart (stgOff a) then 16 + stgBank a else stgBank a) 0) a)
  else if inReserve s.variant a then
    (match smFind s.mem.rsv a with
     | some b => b
     | none => Config.reserveByte s.mem.rsvLoad a)
  else smGet s.mem.hbm a 0#8

def State.setByte (s : State) (a : Nat) (b : Byte) : State :=
  if isStg a then { s with mem := { s.mem with stg := smSet s.mem.stg a b } }
  else if inReserve s.variant a then { s with mem := { s.mem with rsv := smSet s.mem.rsv a b } }
  else { s with mem := { s.mem with hbm := smPut 0#8 s.mem.hbm a b } }

def State.bytes (s : State) (a n : Nat) : List Byte := (List.range n).map fun i => s.byte (a + i)

def State.setBytes (s : State) (a : Nat) : List Byte → State
  | [] => s
  | b :: bs => (s.setByte a b).setBytes (a + 1) bs

/-- The canonical form: addresses strictly rising, and no HBM entry equal to 0, which an unlisted HBM address reads as. -/
def Memory.wf (m : Mem) : Bool :=
  smSorted none m.hbm && m.hbm.all (fun e => e.2 != 0#8) && smSorted none m.stg && smSorted none m.rsv

/-- The tile of an address. -/
def tileOf (a : Nat) : Nat := a >>> 11

/-- The tiles that bytes [a, a + n) touch. -/
def tilesOf (a n : Nat) : List Nat :=
  if n = 0 then [] else (List.range (tileOf (a + n - 1) - tileOf a + 1)).map fun k => tileOf a + k

/-- Is the holding unit of a tile fenced (R24, R505)? -/
def State.tileFenced (s : State) (tile : Nat) : Bool :=
  let a := tile <<< 11
  if isStg a then s.domFenced (stgBank a) else s.stackFenced (stackOf s.variant a)

/-- The stored checksum of a tile (R278, R281): its own entry of the checksum store or of the bank's side array. -/
def State.storedSum (s : State) (tile : Nat) : BitVec 64 :=
  match smFind s.mem.sums tile with
  | some c => c
  | none => crc64 (s.bytes (tile <<< 11) 2048)

/-- Does the stored checksum differ from the CRC-64 of the data (R284)? -/
def State.sumDiffers (s : State) (tile : Nat) : Bool :=
  match smFind s.mem.sums tile with
  | some c => c != crc64 (s.bytes (tile <<< 11) 2048)
  | none => false

/-- Why a tile fails its check: bit 0 uncorrectable ECC on it, bit 1 on its checksum entry, bit 2 its checksum differs (R284, R285). -/
def State.tileBad (s : State) (tile : Nat) : Nat := smGet s.mem.bad tile 0 + 4 * b2n (s.sumDiffers tile)

/-- The within-stack tile index t of an HBM tile, and where its stack holds its checksum entry (R278). -/
def tileIndex (v : Variant) (tile : Nat) : Nat := inStack v (tile <<< 11) >>> 11
def sumAddr (v : Variant) (tile : Nat) : Nat := 0xBF4000000 + 8 * tileIndex v tile

/-- Lines of 64 B in a stack's checksum cache of 1 MiB (R279). -/
def sumLines : Nat := 16384

/-- A controller takes the checksum line of an HBM tile into its cache; a line that is not there is a miss (R279, R294). Which line a full
cache gives up, the spec does not say: a free value picks it. -/
def State.sumLine (s : State) (tile : Nat) : State :=
  if isStg (tile <<< 11) then s else
  let k := stackOf s.variant (tile <<< 11)
  let l := sumAddr s.variant tile / 64
  let ls := smGet s.mem.lines k []
  if ls.contains l then s else
  let s := s.count (F.HBM_CSUM_MISS k)
  let (keep, s) := if ls.length < sumLines then (ls, s) else (ls.eraseIdx ((s.fresh.1).toNat % ls.length), s.fresh.2)
  { s with mem := { s.mem with lines := smSet s.mem.lines k (l :: keep) } }

/-- The first cause that applies (R293). -/
def tileCause (marks : Nat) : Nat := if bit marks 0 then 1 else if bit marks 1 then 2 else 0

/-- A check failure is counted, recorded and reported (R286, R293, R294). -/
def State.tileFail (s : State) (req tile : Nat) : State :=
  let a := tile <<< 11
  let marks := s.tileBad tile
  let cause := tileCause marks
  let s := { s with mem := { s.mem with failAddr := a % 2 ^ 48 } }
  let s := (s.set F.MEM_TCHK_EVENT_CAUSE cause).set F.MEM_TCHK_EVENT_REQ req
  if isStg a then
    let b := stgBank a
    let s := (s.set F.MEM_TCHK_EVENT_WHERE 1).set F.MEM_TCHK_EVENT_UNIT b
    ((s.bump F.MEM_TCHK_EVENT_SEQ).count (F.STG_TCHK_FAIL b)).raise 20 b cause
  else
    let k := stackOf s.variant a
    let s := (s.set F.MEM_TCHK_EVENT_WHERE 0).set F.MEM_TCHK_EVENT_UNIT k
    let s := (s.bump F.MEM_TCHK_EVENT_SEQ).count (F.HBM_TCHK_FAIL k)
    let s := if popCount marks 2 = 0 then s else s.count (F.HBM_ECC_UNCORR k) (popCount marks 2)
    s.raise 21 k cause

/-- The check of one tile: fenced (UNIT_FENCED), failing (TILE_CHECK), or 0. -/
def State.tileCheck (s : State) (req tile : Nat) : State × Nat :=
  if s.tileFenced tile then (s, 0x7F)
  else if s.tileBad tile = 0 then (s.sumLine tile, 0)
  else ((s.sumLine tile).tileFail req tile, 0x30)

/-- Check the tiles of an access, each separately (R284); the first that fails decides. -/
def State.checkTiles (s : State) (req : Nat) : List Nat → State × Nat
  | [] => (s, 0)
  | t :: ts =>
    match s.tileCheck req t with
    | (s, c) =>
      match s.checkTiles req ts with
      | (s, c') => (s, if c = 0 then c' else c)

/-- Read bytes by whole-tile or partial reads (R284): completion code and bytes. -/
def memRead (s : State) (req a n : Nat) : State × Nat × List Byte :=
  match s.checkTiles req (tilesOf a n) with
  | (s, 0) => (s, 0, s.bytes a n)
  | (s, c) => (s, c, [])

/-- One tile access that writes: whole (no read, and the tile checks clean from then on) or partial (R284, R286). -/
def tileWrite (s : State) (req a : Nat) (bs : List Byte) : State × Nat :=
  let tile := tileOf a
  if s.tileFenced tile then (s, 0x7F)
  else if bs.length = 2048 && a % 2048 = 0 then
    let s := (s.sumLine tile).setBytes a bs
    ({ s with mem := { s.mem with bad := smDel s.mem.bad tile, sums := smDel s.mem.sums tile } }, 0)
  else
    match s.tileCheck req tile with
    | (s, 0) =>
      let s := if isStg a then s.count (F.STG_RMW (stgBank a)) else s.count (F.HBM_RMW (stackOf s.variant a))
      (s.setBytes a bs, 0)
    | r => r

/-- Cut bytes at the tile borders. -/
def cutTiles (a : Nat) (bs : List Byte) : (fuel : Nat) → List (Nat × List Byte)
  | 0 => []
  | k + 1 =>
    if bs = [] then [] else
    let room := 2048 - a % 2048
    (a, bs.take room) :: cutTiles (a + room) (bs.drop room) k

def writePieces (s : State) (req : Nat) : List (Nat × List Byte) → State × Nat
  | [] => (s, 0)
  | (a, bs) :: r =>
    match tileWrite s req a bs with
    | (s, c) =>
      match writePieces s req r with
      | (s, c') => (s, if c = 0 then c' else c)

/-- Write bytes: one access to each tile, checked and performed separately (R284); the code of the first that fails. -/
def memWrite (s : State) (req a : Nat) (bs : List Byte) : State × Nat :=
  writePieces s req (cutTiles a bs (bs.length / 2048 + 2))

/-! ### Holding units (R288) -/

def holdKey : HoldUnit → Nat
  | .stack k => k
  | .bank b => 16 + b

def holdPresent (s : State) : HoldUnit → Bool
  | .stack k => k < nStack s
  | .bank b => b < nDom s

/-- The physical address of a tile access. -/
def accAddr (u : HoldUnit) (a : TileAccess) : Nat :=
  match u with
  | .stack _ => a.addr
  | .bank _ => 2 ^ 47 + a.addr

/-- The control complex and the transport unit, which alone reach the reserve and the state partitions (R277, R280, R281). -/
def reachesState (req : Nat) : Bool := req == 116 || req == 117

/-- Does the unit serve this access: a tile of the stack below the checksum store (R277, R278), or an offset of the bank (R281)? -/
def holdServes (s : State) (u : HoldUnit) (a : TileAccess) : Bool :=
  match u with
  | .stack k =>
    a.addr < reserveEnd s.variant && stackOf s.variant a.addr == k && (a.addr < allocEnd s.variant || reachesState a.req)
  | .bank b =>
    a.addr >>> 24 == b && (stgOff a.addr < 0xB00000 || (stgOff a.addr < 0xC00000 && reachesState a.req))

/-- Mark a tile with an uncorrectable ECC result. -/
def markBad (s : State) (tile bits : Nat) : State :=
  { s with mem := { s.mem with bad := smSet s.mem.bad tile (smGet s.mem.bad tile 0 ||| bits) } }

/-- A stored checksum that has come to differ from its tile's CRC-64: a free value, which is not that CRC. -/
def spoilSum (s : State) (tile : Nat) : State :=
  let (v, s) := s.fresh
  let c := crc64 (s.bytes (tile <<< 11) 2048)
  { s with mem := { s.mem with sums := smSet s.mem.sums tile (if v = c then c ^^^ 1#64 else v) } }

/-- The tile of stack `k` with index `t`. -/
def tileAt (v : Variant) (k t : Nat) : Nat :=
  let shift := if v then 3 else 4
  (t <<< shift) + (k ^^^ (t % 2 ^ shift))

/-- What the on-die ECC met or the stored data became (R285, R286): it stays until the tile is written whole. An uncorrectable result on
a checksum line marks the eight entries of the line. -/
def markEcc (s : State) (u : HoldUnit) (a : Nat) : Nat → State
  | 0 => spoilSum s (tileOf a)
  | 1 => markBad s (tileOf a) 1
  | 2 =>
    match u with
    | .bank _ => markBad s (tileOf a) 2
    | .stack k =>
      (List.range 8).foldl (fun s j => markBad s (tileAt s.variant k (tileIndex s.variant (tileOf a) / 8 * 8 + j)) 2) s
  | _ =>
    match u with
    | .stack k => s.count (F.HBM_ECC_CORR k)
    | .bank _ => s

/-- What SECDED met in a state partition (R281, R498). -/
def stateEcc (s : State) (b : Nat) : Nat → State
  | 1 => (s.count (F.STG_STATE_ECC_UNCORR b)).raise 10 b 0
  | 3 => s.count (F.STG_STATE_ECC_CORR b)
  | _ => s

/-- The bytes that an access writes at an address, if it writes. -/
def accWrites (pa : Nat) : TileOp → Option (Nat × List Byte)
  | .read => none
  | .writeWhole d => some (tileOf pa <<< 11, slice d 0 2048)
  | .writePart off d => some ((tileOf pa <<< 11) + off % 2048, d.take (2048 - off % 2048))

/-- One tile access at its unit. A state partition has SECDED in place of tile checksums (R281). -/
def performAccess (s : State) (u : HoldUnit) (a : TileAccess) : State :=
  let pa := accAddr u a
  if isStg pa && inStatePart (stgOff pa) then
    let s := match a.ecc with | some k => stateEcc s (stgBank pa) k | none => s
    match accWrites pa a.op with
    | some (w, d) => s.setBytes w d
    | none => s
  else
    let s := match a.ecc with | some k => markEcc s u pa k | none => s
    match accWrites pa a.op with
    | some (w, d) => (tileWrite s a.req w d).1
    | none => (s.tileCheck a.req (tileOf pa)).1

/-- The oldest access of each requester, in arrival order. -/
def oldestOf (w : List TileAccess) : List TileAccess :=
  w.foldl (fun l a => if l.any fun b => b.req == a.req then l else l ++ [a]) []

/-- Accesses in the rotating order over the 118 requesters that starts at `p` (R280). -/
def fromPtr (p : Nat) (w : List TileAccess) : List TileAccess :=
  w.foldr insertAcc []
where
  turn (a : TileAccess) : Nat := (a.req + 118 - p % 118) % 118
  insertAcc (a : TileAccess) : List TileAccess → List TileAccess
    | [] => [a]
    | b :: bs => if turn a ≤ turn b then a :: b :: bs else b :: insertAcc a bs

/-- A bank's ports (R22, R282): a read takes a read port, a whole write a write port, a partial write one of each. -/
def takesRead (a : TileAccess) : Bool := match a.op with | .writeWhole _ => false | _ => true
def takesWrite (a : TileAccess) : Bool := match a.op with | .read => false | _ => true

def readPtr (b : Nat) : Nat := 32 + b
def writePtr (b : Nat) : Nat := 48 + b

/-- The accesses that a unit serves in one cycle, of those that wait: a controller one, in its own order; a bank those that get their
ports, two for reading and two for writing, each pair in the order of its own pointer (R19, R22). -/
def served (s : State) (u : HoldUnit) (w : List TileAccess) : List TileAccess :=
  let p := smGet s.mem.ptr (holdKey u) 0
  match u with
  | .stack _ => (fromPtr p (oldestOf w)).take 1
  | .bank b =>
    let old := oldestOf w
    let rs := (fromPtr (smGet s.mem.ptr (readPtr b) 0) (old.filter takesRead)).take 2
    let ws := (fromPtr (smGet s.mem.ptr (writePtr b) 0) (old.filter takesWrite)).take 2
    fromPtr p (old.filter fun a => (!takesRead a || rs.contains a) && (!takesWrite a || ws.contains a))

/-- Do two of the accesses name one tile? -/
def sameTile (u : HoldUnit) : List TileAccess → Bool
  | [] => false
  | a :: as => (as.any fun b => tileOf (accAddr u a) == tileOf (accAddr u b)) || sameTile u as

/-- Move a pointer on after a contended cycle (R19). -/
def State.turnPtr (s : State) (key : Nat) (contended : Bool) : State :=
  if contended then { s with mem := { s.mem with ptr := smPut 0 s.mem.ptr key ((smGet s.mem.ptr key 0 + 1) % 118) } } else s

/-- The pointers after a cycle (R19, R288): the unit's where a tile was named twice or a request was left, a bank's ports' where more
asked for them than there are. -/
def turnPtrs (s : State) (u : HoldUnit) (w rest : List TileAccess) : State :=
  let s := s.turnPtr (holdKey u) (sameTile u w || !rest.isEmpty)
  match u with
  | .stack _ => s
  | .bank b =>
    (s.turnPtr (readPtr b) (2 < (w.filter takesRead).length)).turnPtr (writePtr b) (2 < (w.filter takesWrite).length)

/-- The record of a check failure of `t` again shows what it showed in `s`; SEQ stays. -/
def keepRecord (s t : State) : State :=
  let t := { t with mem := { t.mem with failAddr := s.mem.failAddr } }
  [F.MEM_TCHK_EVENT_WHERE, F.MEM_TCHK_EVENT_UNIT, F.MEM_TCHK_EVENT_CAUSE, F.MEM_TCHK_EVENT_REQ].foldl (fun t f => t.set f (s.get f)) t

/-- The accesses of one cycle. Of several that fail, the one with the lowest requester number is recorded (R293): `low` is the lowest
that has failed. -/
def performAll (u : HoldUnit) : (low : Option Nat) → List TileAccess → State → State
  | _, [], s => s
  | low, a :: as, s =>
    let t := performAccess s u a
    if t.get F.MEM_TCHK_EVENT_SEQ = s.get F.MEM_TCHK_EVENT_SEQ then performAll u low as t
    else
      match low with
      | some r => if r ≤ a.req then performAll u low as (keepRecord s t) else performAll u (some a.req) as t
      | none => performAll u (some a.req) as t

/-- One cycle of a unit at which the accesses `w` wait (R22, R288). -/
def holdServe (s : State) (u : HoldUnit) (w : List TileAccess) : State :=
  let now := served s u w
  let rest := now.foldl List.erase w
  let s := turnPtrs s u w rest
  performAll u none now { s with mem := { s.mem with wait := smPut [] s.mem.wait (holdKey u) rest } }

/-- Refill a data partition: an unspecified pattern whose checksums match (R291, R515). -/
def refillBank (s : State) (b : Nat) : State :=
  let mine (t : Nat) : Bool := isStg (t <<< 11) && stgBank (t <<< 11) == b
  { s with mem := { s.mem with
      stg := smDrop (fun a => stgBank a == b && !inStatePart (stgOff a)) s.mem.stg,
      bad := smDrop (fun t => mine t) s.mem.bad,
      sums := smDrop (fun t => mine t) s.mem.sums,
      refill := smSet s.mem.refill b (smGet s.mem.refill b 0 + 1) } }

/-- A bank powers up: both its partitions hold unspecified values. -/
def powerBank (s : State) (b : Nat) : State :=
  let s := refillBank s b
  { s with mem := { s.mem with
      stg := smDrop (fun a => stgBank a == b) s.mem.stg,
      refill := smSet s.mem.refill (16 + b) (smGet s.mem.refill (16 + b) 0 + 1) } }

/-- Stage 5 writes the allocatable range with zeros and their checksums (R63, R291); the checksum caches start empty. -/
def zeroHbm (s : State) : State :=
  let mine (t : Nat) : Bool := !isStg (t <<< 11) && !inReserve s.variant (t <<< 11)
  { s with mem := { s.mem with
      hbm := [], lines := [],
      bad := smDrop (fun t => mine t) s.mem.bad,
      sums := smDrop (fun t => mine t) s.mem.sums } }

/-- The firmware, as it loads, writes the reserve (R291). -/
def loadReserve (s : State) : State :=
  let mine (t : Nat) : Bool := !isStg (t <<< 11) && inReserve s.variant (t <<< 11)
  { s with mem := { s.mem with
      rsv := [], rsvLoad := s.mem.rsvLoad + 1,
      bad := smDrop (fun t => mine t) s.mem.bad,
      sums := smDrop (fun t => mine t) s.mem.sums } }

end Sys2Proof.Machine
end

