-- ==== Sys2Proof/Machine/Operands.lean ====
section
/-! DEFINITION. Operand forms: operand addresses and their checks (R161, R162), the translation of context addresses
(R295–R300), descriptor words (R168), and register or immediate operands (R158). -/

namespace Sys2Proof.Machine

/-! ### Segment entries (R295) -/

def segVbase (e : Nat) : Nat := bits e 0 64
def segPages (e : Nat) : Nat := bits e 64 32
def segFrames (e : Nat) : Nat := bits e 96 32
def segRights (e : Nat) : Nat := bits e 128 8
def segBacking (e : Nat) : Nat := bits e 136 8
def segHbm (e : Nat) : Nat := bits e 192 64
def segHost (e : Nat) : Nat := bits e 256 64
/-- 2 MiB. -/
def pageSize : Nat := 0x200000

/-- What translates an access (R297). -/
inductive Who where
  | fetch | ls | engine | te | trn | host
  deriving DecidableEq, Repr

/-- Does the requester reach this backing (R297)? -/
def reaches (w : Who) (backing : Nat) : Bool :=
  match w with
  | .fetch | .ls | .host => backing == 1
  | .engine => backing == 1 || backing == 3
  | .te | .trn => backing == 1 || backing == 2 || backing == 3

def rRead : Nat := 1
def rWrite : Nat := 2
def rAtomic : Nat := 4
def rExec : Nat := 8

/-- What an address becomes (R298). -/
inductive Tr where
  | mem (a : Nat)                     -- a physical address: HBM or staging
  | host (a : Nat)                    -- a host address on the context's port
  | fault (key page : Nat)            -- a page that is not RES, by segment key (R300)
  | bad                               -- SEG_FAULT
  deriving DecidableEq, Repr

def segKey (ctx i : Nat) : Nat := 16 * ctx + i

/-- Is a segment there for operation number `no` (R299)? -/
def segLive (g : Segm) (no : Nat) : Bool := match g.removed with | none => true | some m => no < m

/-- The segment of the context that holds the bytes [a, a + n). -/
def findSeg (s : State) (ctx no a n : Nat) : Option (Nat × Segm) :=
  (List.range 16).findSome? fun i =>
    match smFind s.sg.segs (segKey ctx i) with
    | none => none
    | some g =>
      let e := g.e.toNat
      if segLive g no && segVbase e ≤ a && a + n ≤ segVbase e + segPages e * pageSize then some (segKey ctx i, g) else none

/-- The offset of a segment: HBM, host, or the state of its page (R298 step 3, R300). -/
def mapOffset (g : Segm) (key off : Nat) : Tr :=
  let e := g.e.toNat
  if segBacking e = 1 then .mem (segHbm e + off)
  else if segBacking e = 2 then .host (segHost e + off)
  else
    let p := smGet g.pages (off / pageSize) {}
    if p.st = 2 then .mem (segHbm e + p.frame * pageSize + off % pageSize) else .fault key (off / pageSize)

/-- Translate a context address (R298). `rights` are the rights the access needs, `n` its bytes, within one page. -/
def translate (s : State) (w : Who) (rights ctx no a n : Nat) : Tr :=
  match findSeg s ctx no a n with
  | none => .bad
  | some (key, g) =>
    let e := g.e.toNat
    if (segRights e &&& rights) = rights && reaches w (segBacking e) then mapOffset g key (a - segVbase e) else .bad

/-- Translate an operand address (R161, R162): a context address, or a staging address within the context's grant. -/
def opTranslate (s : State) (w : Who) (rights ctx no a n : Nat) : Tr :=
  if 2 ^ 48 ≤ a then .bad
  else if bit a 47 then
    if bits a 28 19 = 0 && stgBank a < nDom s && stgOff a + n ≤ 0xB00000 && s.stgGranted ctx (stgBank a) (stgOff a) n
    then .mem a else .bad
  else translate s w rights ctx no a n

/-- An access to a RES page sets its referenced bit, a write its dirty bit (R300). -/
def touchPage (s : State) (ctx no a n : Nat) (wr : Bool) : State :=
  if bit a 47 then s else
  match findSeg s ctx no a n with
  | none => s
  | some (key, g) =>
    if segBacking g.e.toNat = 3 then
      let pg := (a - segVbase g.e.toNat) / pageSize
      let p := smGet g.pages pg {}
      if p.st = 2 then
        let g := { g with pages := smSet g.pages pg { p with referenced := true, dirty := p.dirty || wr } }
        { s with sg := { s.sg with segs := smSet s.sg.segs key g } }
      else s
    else s

/-- Cut [a, a + n) at the tile borders. -/
def cutRange (a n : Nat) : List (Nat × Nat) :=
  (tilesOf a n).map fun t =>
    let lo := max a (t <<< 11)
    (lo, min (a + n) ((t + 1) <<< 11) - lo)

/-! ### Descriptors (R168) -/

/-- Field of word `w` of a descriptor. -/
def dfield (d : BitVec 256) (w lo n : Nat) : Nat := bits d.toNat (64 * w + lo) n

def dKind (d : BitVec 256) : Nat := dfield d 0 0 4
def dCtx (d : BitVec 256) : Nat := dfield d 0 4 8
def dSync (d : BitVec 256) : Nat := dfield d 0 12 12
def dSigAdd (d : BitVec 256) : Nat := dfield d 0 24 8
def dTag (d : BitVec 256) : Nat := dfield d 0 32 32
def dFsync (d : BitVec 256) : Nat := dfield d 1 0 12
def dFsyncEn (d : BitVec 256) : Bool := dfield d 1 12 1 == 1

/-- A descriptor register with a field replaced. -/
def dput (d : BitVec 256) (w lo n v : Nat) : BitVec 256 := BitVec.ofNat 256 (putBits d.toNat (64 * w + lo) n v)

/-- The CTX overwrite of an unprivileged thread (R129, R168). -/
def dOwn (x : Thread) (d : BitVec 256) : BitVec 256 := if x.priv then d else dput d 0 4 8 x.ctx

/-! ### Transport descriptors (R181) -/

def dOrdered (d : BitVec 256) : Bool := dfield d 1 13 1 == 1
def dQp (d : BitVec 256) : Nat := dfield d 1 14 18
def dLen (d : BitVec 256) : Nat := dfield d 1 32 30 + 1
def dOp (d : BitVec 256) : Nat := dfield d 1 32 1
def dLocal (d : BitVec 256) : Nat := dfield d 2 0 48
def dFence (d : BitVec 256) : Bool := dfield d 2 48 1 == 1
def dRgen (d : BitVec 256) : Nat := dfield d 2 56 8
def dRoff (d : BitVec 256) : Nat := dfield d 3 0 39
def dRkey (d : BitVec 256) : Nat := dfield d 3 44 20
def dImm (d : BitVec 256) : Nat := dfield d 3 0 32

/-! ### Operands of instructions (R158) -/

/-- The operand b: a register, or the immediate, sign-extended. -/
def opdVal (x : Thread) : Opd → Word
  | .reg n => x.gr n
  | .imm v => v.signExtend 64

/-- ga + off32, sign-extended, modulo 2^64 (R174). -/
def effAddr (x : Thread) (ga : Nat) (off : BitVec 32) : Nat := (x.gr ga + off.signExtend 64).toNat

/-- A branch target: PC + 8 × off32 (R165). -/
def target (x : Thread) (off : BitVec 32) : Word := x.pc + 8#64 * off.signExtend 64

end Sys2Proof.Machine
end

