-- ==== Sys2Proof/Machine/Cost.lean ====
section
/-! DEFINITION. The fields of the engine descriptors and what a descriptor costs: cycles and bytes (R107, R202, R207, R231,
R233, R240, R242, R248, R249, R251, R252, R269–R271, R474, R475, R477). -/

namespace Sys2Proof.Machine

def cdiv (a b : Nat) : Nat := (a + b - 1) / b

/-- A tile-number field as an operand address (R202). -/
def tileField (d : BitVec 256) (w lo : Nat) : Nat := dfield d w lo 37 * 2048

/-- The record's staging operand address, from PARAM_IDX and PARAM_BANK in word `w` (R202, R269). -/
def recAddr (d : BitVec 256) (w : Nat) : Nat := stgAddr (dfield d w 59 4) (dfield d w 41 18 * 64)

/-- Elements or parameters: COUNT_M1 + 1 of word 2, bits [62:37]. -/
def dCount (d : BitVec 256) : Nat := dfield d 2 37 26 + 1

def dInFmt (d : BitVec 256) : Nat := dfield d 1 54 4
def dOutFmt (d : BitVec 256) : Nat := dfield d 1 58 4
def dRnd (d : BitVec 256) : Bool := dfield d 1 62 1 == 1
def dFtz (d : BitVec 256) : Bool := dfield d 1 63 1 == 1
def dDst (d : BitVec 256) : Nat := tileField d 1 13

/-! ### Reduction (R202) -/
def redOp (d : BitVec 256) : Nat := dfield d 1 50 4
def redAcc (d : BitVec 256) : Bool := dfield d 2 63 1 == 1
def redComp (d : BitVec 256) : Bool := dfield d 3 37 1 == 1
def redNsrc (d : BitVec 256) : Nat := dfield d 3 38 2 + 1
def redPrm (d : BitVec 256) : Bool := dfield d 3 40 1 == 1

/-- R207, for `n` elements. -/
def redCost (d : BitVec 256) (n : Nat) : Nat × Nat :=
  let wi := elemBits (dInFmt d)
  let wo := elemBits (dOutFmt d)
  let beats := cdiv (n * max wi wo) 2048
  let reads := redNsrc d + b2n (redAcc d) + b2n (redComp d)
  let passes := max (cdiv reads 2) (1 + b2n (redComp d))
  (32 + beats * passes,
    cdiv (n * wo) 8 + (if isMx (dOutFmt d) then n / 32 else 0) + (if redComp d then 4 * n else 0))

/-! ### Transfer (R256, R269, R270) -/

/-- The record of a transfer: counts, strides, cursor, DONE. -/
structure Walk where
  n : List Nat
  ss : List Int
  ds : List Int
  cur : List Nat
  done : Nat
  deriving DecidableEq, Repr

def parseWalk (r : List Byte) : Walk :=
  { n := (List.range 5).map fun i => fieldLE r (4 * i) 4 + 1,
    ss := (List.range 5).map fun i => sext 64 (fieldLE r (0x18 + 8 * i) 8),
    ds := (List.range 5).map fun i => sext 64 (fieldLE r (0x40 + 8 * i) 8),
    cur := (List.range 5).map fun i => fieldLE r (0x68 + 4 * i) 4,
    done := fieldLE r 0x7C 4 }

def tePdim (d : BitVec 256) : Nat := dfield d 1 33 3
def teEsz (d : BitVec 256) : Nat := 2 ^ dfield d 1 36 3
def teResume (d : BitVec 256) : Bool := dfield d 1 39 1 == 1
def teSrc (d : BitVec 256) : Nat := dfield d 2 0 48
def teDst (d : BitVec 256) : Nat := dfield d 3 0 48

def Walk.cnt (w : Walk) (k : Nat) : Nat := w.n.getD k 1
/-- Elements in one pass of dimensions 0 to k − 1. -/
def Walk.span (w : Walk) (k : Nat) : Nat := (w.n.take k).foldl (· * ·) 1
/-- Position in walk order of an index vector. -/
def Walk.posOf (w : Walk) (i : List Nat) : Nat := ((List.range 5).map fun k => i.getD k 0 * w.span k).sum
/-- Index vector of a position. -/
def Walk.vec (w : Walk) (pos : Nat) : List Nat := (List.range 5).map fun k => pos / w.span k % w.cnt k
/-- Elements of one progress unit (R260). -/
def Walk.unit (w : Walk) (pdim : Nat) : Nat := if pdim = 0 then w.span 5 else w.span pdim

/-- The index boxes that make up the walk from a cursor on: for each dimension its first and last index. -/
def teBoxes (w : Walk) (cur : List Nat) : List (List (Nat × Nat)) :=
  ((List.range 5).filterMap fun k =>
    let lo := cur.getD k 0 + (if k = 0 then 0 else 1)
    if w.cnt k ≤ lo then none else
    some ((List.range 5).map fun j =>
      if j < k then (0, w.cnt j - 1) else if j = k then (lo, w.cnt k - 1) else (cur.getD j 0, cur.getD j 0)))

/-- The lowest and highest byte that one side of a box touches, as offsets. -/
def boxRange (strides : List Int) (cnts : List Nat) (b : List (Nat × Nat)) : Int × Int :=
  (List.range 5).foldl (fun (lo, hi) k =>
    let st : Int := if cnts.getD k 1 = 1 then 0 else strides.getD k 0
    let (a, z) := b.getD k (0, 0)
    (lo + min (a * st) (z * st), hi + max (a * st) (z * st))) (0, 0)

/-- The byte range of one side of the walk, from the cursor on where one is used (R258). -/
def teExtent (d : BitVec 256) (w : Walk) (strides : List Int) (base : Nat) : Int × Int :=
  let cur := if teResume d then w.cur else [0, 0, 0, 0, 0]
  let rs := (teBoxes w cur).map fun b => boxRange strides w.n b
  let lo := rs.foldl (fun a r => min a r.1) (rs.headD (0, 0)).1
  let hi := rs.foldl (fun a r => max a r.2) (rs.headD (0, 0)).2
  (base + lo, base + hi + teEsz d)

/-- Does a range start in a host-resident segment? R258 wants the whole of it in one segment. -/
def hostSide (s : State) (ctx no : Nat) (r : Int × Int) : Bool :=
  let a := r.1.toNat
  0 ≤ r.1 && !bit a 47 && (match findSeg s ctx no a 1 with | some (_, g) => segBacking g.e.toNat == 2 | none => false)

/-- Does either side of a transfer lie in a host-resident segment? -/
def teHost (s : State) (d : BitVec 256) (no : Nat) (w : Walk) : Bool :=
  hostSide s (dCtx d) no (teExtent d w w.ss (teSrc d)) || hostSide s (dCtx d) no (teExtent d w w.ds (teDst d))

/-- R271, from position `pos` of the walk; a descriptor with RESUME = 1 has the remaining walk alone (R267). -/
def teCost (s : State) (d : BitVec 256) (no : Nat) (w : Walk) (pos : Nat) : Nat × Nat :=
  let esz := teEsz d
  let n0 := w.cnt 0
  let contig := n0 == 1 || (w.ss.getD 0 0 == esz && w.ds.getD 0 0 == esz)
  let row := if contig then max 1 (cdiv (n0 * esz) 256) else cdiv n0 16
  let row := if teHost s d no w then 5 * row else row
  let r := w.span 5 / n0 - pos / n0
  ((if teResume d then 0 else 32) + r * row, n0 * r * esz)

/-! ### Cipher (R474, R475) -/
def ceDir (d : BitVec 256) : Bool := dfield d 1 13 1 == 1
def ceKeyIdx (d : BitVec 256) : Nat := dfield d 1 14 8

/-- R477. -/
def ceCost (d : BitVec 256) (len aadlen : Nat) : Nat × Nat :=
  let b := cdiv len 256
  (32 + cdiv aadlen 256 + (if ceDir d then 2 * b else b), len + (if ceDir d then 0 else 16))

/-! ### Optimizer, lookup, compression, quantize (R231, R240, R248, R251) -/
def spcOpc (d : BitVec 256) : Nat := dfield d 1 50 4

def optCost (d : BitVec 256) : Nat × Nat := (32 + cdiv (dCount d) 32, if spcOpc d = 7 then 16 else 4 * dCount d)

def lkpPool (d : BitVec 256) : Nat := dfield d 1 50 2
def lkpBags (d : BitVec 256) : Nat := dfield d 2 37 20 + 1
def lkpBag (d : BitVec 256) : Nat := dfield d 3 8 8 + 1
def lkpRowB (d : BitVec 256) : Nat := 16 * (dfield d 3 0 8 + 1)
def lkpWeighted (d : BitVec 256) : Bool := dfield d 3 16 1 == 1
/-- Elements of a row. -/
def lkpElems (d : BitVec 256) : Nat := lkpRowB d * 8 / elemBits (dInFmt d)
/-- OROW (R239). -/
def lkpOrow (d : BitVec 256) : Nat := 16 * cdiv (cdiv (lkpElems d * elemBits (dOutFmt d)) 8) 16
def lkpNidx (d : BitVec 256) : Nat := lkpBag d * lkpBags d
def lkpNout (d : BitVec 256) : Nat := if lkpPool d = 0 then lkpNidx d else lkpBags d

/-- R242. -/
def lkpCost (d : BitVec 256) : Nat × Nat :=
  (32 + cdiv (lkpNidx d * max 24 (14 + 5 * cdiv (lkpRowB d) 128)) 5, lkpNout d * lkpOrow d)

def zeOpc (d : BitVec 256) : Nat := dfield d 1 50 2
def zeFmt (d : BitVec 256) : Nat := dfield d 1 54 4
def zeNt (d : BitVec 256) : Nat := dfield d 2 37 20 + 1

/-- R249. -/
def zeCost (d : BitVec 256) : Nat × Nat := (32 + 9 * zeNt d, 2048 * zeNt d)

def qeEf (d : BitVec 256) : Bool := dfield d 2 63 1 == 1

/-- R252. -/
def qeCost (d : BitVec 256) : Nat × Nat :=
  let n := dCount d
  let bIn := cdiv (n * elemBits (dInFmt d)) 2048
  let bRes := if qeEf d then cdiv (n * 32) 2048 else 0
  (32 + max bIn bRes, cdiv (n * elemBits (dOutFmt d)) 8 + (if isMx (dOutFmt d) then n / 32 else 0))

/-- The record's bytes for its cost, or zeros where the record has no place in the context's staging grant. -/
def peekRec (s : State) (d : BitVec 256) (n : Nat) : List Byte :=
  let a := recAddr d 1
  match opTranslate s .engine rRead (dCtx d) 0 a n with
  | .mem pa => s.bytes pa n
  | _ => List.replicate n 0#8

/-- The cost of a descriptor (R107), from its fields and, for a transfer or a cipher descriptor, its record. -/
def descCost (s : State) (d : BitVec 256) (no : Nat) : Nat × Nat :=
  match dKind d with
  | 0 => redCost d (dCount d)
  | 1 =>
    let w := parseWalk (peekRec s d 128)
    teCost s d no w (if teResume d then w.posOf w.cur else 0)
  | 2 =>
    let r := peekRec s d 64
    ceCost d (fieldLE r 0 4) (fieldLE r 4 4)
  | 3 => optCost d
  | 4 => lkpCost d
  | 5 => zeCost d
  | 6 => qeCost d
  | _ => (0, 0)

end Sys2Proof.Machine
end

