-- ==== Sys2Proof/Machine/Reclaim.lean ====
section
/-! DEFINITION. Which objects are in use, and their reclaim when their last use ends (R142, R455, R456). -/

namespace Sys2Proof.Machine

/-- The descriptors that engines hold, in any place. -/
def engineDescs (g : Engine) : List Desc :=
  g.input ++ g.queue ++ (match g.run with | some r => [r.d] | none => []) ++ g.aside.map (·.d) ++ g.remainder.map (·.d)
    ++ g.incoming.map (·.d)

/-- Every outstanding descriptor: at the engines, ended and not yet recorded, and posted. -/
def outstanding (s : State) : List Desc :=
  s.en.eng.flatMap (fun e => engineDescs e.2) ++ s.en.ended.map (·.d)
    ++ s.tr.qps.flatMap fun e => e.2.ops.map (·.d)

/-- Does a descriptor name the sync object as its SYNC, FSYNC or PSYNC (R142)? -/
def namesSync (obj : Nat) (d : Desc) : Bool :=
  (dSigAdd d.w != 0 && dSync d.w == obj) || (dFsyncEn d.w && dFsync d.w == obj)
    || (dKind d.w == 1 && !d.post && tePdim d.w != 0 && dfield d.w 1 13 12 == obj)

/-- Does entry `n`, its words 0 and 1 given, name the sync object (R142)? -/
def mariNames (w0 w1 obj : Nat) : Bool := bit w0 23 && bit w0 24 && bits w1 8 12 == obj

/-- Does an entry of either marionette bank, of 1,024 entries each, name the sync object? -/
def mariUses (s : State) (obj : Nat) : Bool :=
  (s.tk.bank.any fun e => e.1 % 4 == 0 && mariNames e.2 (s.mariWord (e.1 + 1)) obj)
    || (List.range 1024).any fun n =>
      mariNames (s.reg (F.MARI_SHADOW (4 * n)).off) (s.reg (F.MARI_SHADOW (4 * n + 1)).off) obj

/-- Does a window entry map the sync object (R308)? -/
def winHoldsSync (w obj : Nat) : Bool := bit w 1 && inRange (bits w 64 64) (bits w 128 64) obj

/-- Is a sync object in use (R142)? A window counts until its removal has completed. -/
def syncInUse (s : State) (obj : Nat) : Bool :=
  (s.sq.progs.any fun e => inRange e.2.syncBase e.2.syncCount obj)
    || (outstanding s).any (namesSync obj)
    || (s.sy.reqs.any fun r => r.obj == obj && 16 ≤ r.req && r.req ≤ 80)
    || (s.sg.wins.any fun e => winHoldsSync e.2.toNat obj)
    || (s.sg.pend.any fun p => p.blk == .win && p.op == 2 && winHoldsSync p.img.toNat obj)
    || mariUses s obj

/-- Is a removed object still in use (R456)? -/
def objInUse (s : State) (key : Nat) : Bool :=
  let n := key % 2 ^ 20
  match key / 2 ^ 20 with
  | 0 => syncInUse s n
  | 1 => (smGet s.tr.qps n { e := 0#512 }).st != 0
  | 2 => (smFind s.ho.cqs n).isSome
  | 3 => (smFind s.sg.keys n).isSome || s.sg.pend.any fun p => p.blk == .win && p.op == 6 && p.idx == n
  | 4 => (smFind s.sg.wins n).isSome || s.sg.pend.any fun p => p.blk == .win && p.op == 2 && p.idx == n
  | _ => false

/-- Is a context without program and operation (R456)? -/
def ctxIdle (s : State) (ctx : Nat) : Bool :=
  !(s.sq.progs.any fun e => e.2.ctx == ctx) && !(s.sq.trk.any fun e => e.2.1 == ctx)

/-- Objects whose last use has ended leave their context; PENDING shows what is left (R455). -/
def reclaim (s : State) : State :=
  if s.ho.owned = [] && s.ho.ownedStg = [] then s else
  let s := { s with ho := { s.ho with
    owned := s.ho.owned.filter fun e => objInUse s e.1,
    ownedStg := s.ho.ownedStg.filter fun e => !ctxIdle s e.1 } }
  s.set F.QUOTA_EVENT_PENDING (b2n (s.ho.owned != [] || s.ho.ownedStg != []))

end Sys2Proof.Machine
end

