-- ==== Sys2Proof/Machine/Completions.lean ====
section
/-! DEFINITION. When new work is held (R69, R489), fetching from submission queues (R441, R150), and completion queues (R447–R449). -/

namespace Sys2Proof.Machine

/-- Is new work held: a drain for Rest or an activation, Rest itself, or a change that follows it (R69, R489)? -/
def workHeld (s : State) : Bool :=
  s.pw.drain != .none || s.pst == 4 || s.ci.load != .none ||
  (match s.tk.change with | some c => c.kind == .rest || c.kind == .fw || c.kind == .restExit | none => false)

/-! ### Fetching from submission queues (R441, R150) -/

/-- A submission queue, by 16 × context + q. -/
def State.sqd (s : State) (k : Nat) : Sq := smGet s.ho.sqs k {}

/-- SQ_FETCH shows the fetch count and the producer index (R462). -/
def State.setSqd (s : State) (k : Nat) (q : Sq) : State :=
  let s := { s with ho := { s.ho with sqs := smSet s.ho.sqs k q } }
  (s.set (F.SQ_FETCH_FETCH (k / 16) (k % 16)) (q.f % 65536)).set (F.SQ_FETCH_PROD (k / 16) (k % 16)) q.prod

def sqSize (s : State) (k : Nat) : Nat := 2 ^ s.get (F.SQ_CFG_LOG2SIZE (k / 16) (k % 16))
def sqLoc (s : State) (k : Nat) : Bool := s.flag (F.SQ_CFG_LOC (k / 16) (k % 16))
def sqEnabled (s : State) (k : Nat) : Bool := s.flag (F.SQ_CFG_ENABLE (k / 16) (k % 16))
def sqRunning (s : State) (k : Nat) : Bool := s.get (F.SQ_STATUS_STATE (k / 16) (k % 16)) == 1

/-- Where the entry at the fetch count lies (R440, R441). -/
def sqSlot (s : State) (k : Nat) : Nat :=
  s.get64 (F.SQ_BASE_LO (k / 16) (k % 16)) (F.SQ_BASE_HI (k / 16) (k % 16)) + 64 * ((s.sqd k).f % sqSize s k)

/-- A read of the next entry is issued: on the host port, or inside the adapter with LOC = 1. -/
def sqAsk (s : State) (k : Nat) : State :=
  let s := if sqLoc s k then s else s.emit (.hostRead (k / 16) (sqSlot s k) 64)
  s.setSqd k { s.sqd k with asked := (s.sqd k).asked + 1 }

/-- Does the queue have an entry to fetch: running, with none asked for or waiting, no new work held (R69), and the context not frozen (R458)? -/
def sqWants (s : State) (k : Nat) : Bool :=
  let q := s.sqd k
  sqEnabled s k && sqRunning s k && q.asked == 0 && !q.reread && q.held.isNone && q.f % 65536 != q.prod
    && s.pst == 3 && !workHeld s && (smFind s.ho.frozen (k / 16)).isNone
    && (sqLoc s k || s.hostUp (s.ctxPort (k / 16)))

/-- It is fetched while the host pool has room (R150). -/
def sqFetch (s : State) (k : Nat) : State := if sqWants s k && !s.poolFull then sqAsk s k else s

/-- Every queue that may fetch does so, in rotating order from the pool's pointer, which moves on where the pool leaves one of them unserved
(R19, R150). -/
def sqFetchAll (s : State) : State :=
  let ks := s.ho.sqs.map (·.1)
  let p := s.ho.sqPtr
  let s := ((ks.filter fun k => p ≤ k) ++ ks.filter fun k => k < p).foldl sqFetch s
  if s.poolFull && ks.any (sqWants s) then { s with ho := { s.ho with sqPtr := (p + 1) % 4096 } } else s

/-! ### Completion queues (R447–R449) -/

/-- An MSI-X message of a context's function: sent, or its pending bit set where its vector is masked. A function held in reset sends none. -/
def State.sendMsix (s : State) (ctx v : Nat) : State :=
  if s.fnHeld ctx then s
  else if bit (s.reg (F.MSIX_TABLE ctx (4 * v + 3)).off) 0 then
    let f := F.MSIX_PBA ctx (v / 32)
    s.setReg f.off (putBit (s.reg f.off) (v % 32) true)
  else (s.emit (.msix ctx v)).count F.HOST_MSIX_SENT

/-- The 32 bytes of a completion entry, PHASE 0 (R447). -/
def cqEntry (tag code source obj nbytes : Nat) (tail : List Byte := []) : List Byte :=
  toLE 4 tag ++ toLE 1 code ++ toLE 1 source ++ [0#8, 0#8] ++ toLE 4 obj ++ toLE 4 nbytes ++ slice tail 0 16

/-- An armed queue with MOD_COUNT entries or more written and not consumed sends its message and is disarmed (R449). That a MOD_COUNT of 0
acts as 1 is DESIGN CHOICE (log entry 62): the spec gives it no meaning. -/
def State.cqFire (s : State) (n : Nat) : State :=
  match smFind s.ho.cqs n with
  | none => s
  | some q =>
    if q.armed && max 1 q.modCount ≤ q.written - q.consumed then
      State.sendMsix { s with ho := { s.ho with cqs := smSet s.ho.cqs n { q with armed := false } } } q.ctx q.vector
    else s

/-- Write the next entry of a queue that has room (R448), and its interrupt (R449). -/
def State.cqWrite (s : State) (n : Nat) (q : Cq) (e : List Byte) : State :=
  let size := 2 ^ q.log2
  let ph : Byte := if (q.written / size) % 2 = 0 then 1#8 else 0#8
  let s := s.emit (.hostWrite q.ctx (q.base + 32 * (q.written % size)) (splice e 6 [ph]))
  let q := { q with written := q.written + 1, since := if q.armed then q.since + 1 else q.since }
  State.cqFire { s with ho := { s.ho with cqs := smSet s.ho.cqs n q } } n

/-- A tracker entry is given back: what waited for its context's last operation is reclaimed (R456), and a full host pool goes on fetching. -/
def State.trkBack (s : State) (no : Nat) : State :=
  let full := s.poolFull
  let s := reclaim (s.trkGive no)
  if full then sqFetchAll s else s

/-- What goes on once an entry has been written: the host tracker entry is given back (R448), a thread in CQPOST goes on. -/
def State.cqDone (s : State) (th : Option (Nat × Nat)) (no : Option Nat) : State :=
  let s := match no with | some n => s.trkBack n | none => s
  match th with
  | none => s
  | some (k, live) =>
    let t : Th := ⟨k / 8, k % 8⟩
    if (s.thr t).live = live && (s.thr t).pend = .cqpost then s.resume t else s

/-- An entry waits behind those that wait already. -/
def State.cqHold (s : State) (n : Nat) (q : Cq) (w : List Byte × Option (Nat × Nat) × Option Nat) : State :=
  { s with ho := { s.ho with cqs := smSet s.ho.cqs n { q with waiting := q.waiting ++ [w] } } }

/-- A completion for queue `n`: written, or waiting while the ring is full (R448) or the adapter in Rest (R75). A queue that does not exist, or
whose context's host port is down, takes nothing (R457). -/
def State.cqPost (s : State) (n : Nat) (e : List Byte) (th : Option (Nat × Nat) := none) (host : Option Nat := none) : State :=
  match smFind s.ho.cqs n with
  | none => s.cqDone th host
  | some q =>
    if !s.hostUp (s.ctxPort q.ctx) then s.cqDone th host
    else
      let full := q.waiting != [] || 2 ^ q.log2 ≤ q.written - q.consumed
      if s.pst = 4 then s.cqHold n q (e, th, host)
      else if full then (s.cqHold n q (e, th, host)).count F.HOST_CQ_FULL_WAITS
      else (s.cqWrite n q e).cqDone th host

/-- A completion for a program of a context, or a launch: a queue that the context does not own takes nothing. -/
def State.cqOwnPost (s : State) (ctx n : Nat) (e : List Byte) (no : Nat) : State :=
  if s.ownsCq ctx n then s.cqPost n e none (some no) else s.cqDone none (some no)

/-- Write waiting entries while there is room. -/
def State.cqDrain (s : State) (n : Nat) : (fuel : Nat) → State
  | 0 => s
  | k + 1 =>
    match smFind s.ho.cqs n with
    | none => s
    | some q =>
      match q.waiting with
      | [] => s
      | (e, th, host) :: rest =>
        if q.written - q.consumed < 2 ^ q.log2 then
          State.cqDrain ((s.cqWrite n { q with waiting := rest } e).cqDone th host) n k
        else s

/-- Every queue writes what waits and has room, and one that was armed in Rest may send its message (R75). -/
def State.cqDrainAll (s : State) : State :=
  (s.ho.cqs.map fun e => (e.1, e.2.waiting.length)).foldl (fun s e => (s.cqDrain e.1 e.2).cqFire e.1) s

end Sys2Proof.Machine
end

