-- ==== Sys2Proof/Machine/Flags.lean ====
section
/-! DEFINITION. Conditions and predicates: the conditions of CMP (R164) and the rule of the fault kinds' completion codes
(R136). The machine has no arithmetic flags (R158). -/

namespace Sys2Proof.Machine

/-- cond(a, b) (R164). The values 11 to 15 are undefined; no well-formed CMP holds one. -/
def condHolds (cond : Nat) (a b : Word) : Bool :=
  match cond with
  | 0 => a == b
  | 1 => a != b
  | 2 => a.slt b
  | 3 => b.sle a
  | 4 => a.ult b
  | 5 => b.ule a
  | 6 => a.sle b
  | 7 => b.slt a
  | 8 => a.ule b
  | 9 => b.ult a
  | 10 => (a &&& b) != 0#64
  | _ => false

/-- The codes of R12. -/
def isCode (c : Nat) : Bool :=
  [0x00, 0x01, 0x10, 0x11, 0x12, 0x13, 0x20, 0x21, 0x30, 0x31, 0x32, 0x40, 0x41, 0x42, 0x50, 0x51, 0x60, 0x61, 0x70,
    0x7F].contains c

/-- The program completion code of a fault kind (R136); `trap` is the operand of a TRAP. -/
def kindCode (kind trap : Nat) : Nat :=
  match kind with
  | 0 => 0x00
  | 3 => 0x10
  | 6 => if isCode trap && trap != 0 then trap else 0x20
  | 8 => 0x61
  | 9 => 0x30
  | 10 => 0x01
  | 12 => 0x7F
  | _ => 0x20

end Sys2Proof.Machine
end

