-- ==== Sys2Proof/Machine/Threads.lean ====
section
/-! DEFINITION. Sequencers: fetching an instruction, faults and halts, stops, program completion, and handing a
descriptor to an engine (ch. 05, ch. 06). -/

namespace Sys2Proof.Machine

/-! ### Stops, faults, completion (R135–R137) -/

/-- Request a stop of one thread with a fault kind; a stop already pending stays. -/
def Thread.reqStop (x : Thread) (kind : Nat) : Thread :=
  if x.st = .free || x.st = .halted then x else { x with stop := some (x.stop.getD kind) }

def progSlots (p : Program) : List Th := p.slots.map fun k => ⟨p.dom, k⟩

/-- Threads of a program that a freeze has saved (R166, R458): their slots are free. -/
def isSaved (p : Program) (e : Th × Thread) : Bool := e.1.dom == p.dom && e.2.prog == p.num

/-- `f` on the threads of a context that a freeze has saved. -/
def mapSaved (s : State) (ctx : Nat) (f : Th × Thread → Th × Thread) : State :=
  match smFind s.ho.frozen ctx with
  | none => s
  | some z => { s with ho := { s.ho with frozen := smSet s.ho.frozen ctx { z with threads := z.threads.map f } } }

def anySaved (s : State) (p : Program) : Bool :=
  match smFind s.ho.frozen p.ctx with
  | none => false
  | some z => z.threads.any (isSaved p)

/-- Request a stop of every thread of a program, saved ones included. -/
def stopProgram (s : State) (p : Program) (kind : Nat) : State :=
  mapSaved ((progSlots p).foldl (fun s t => s.setThr t ((s.thr t).reqStop kind)) s) p.ctx
    fun e => if isSaved p e then (e.1, e.2.reqStop kind) else e

/-- Bytes 16 to 31 of a program completion (R137). -/
def progTail (x : Thread) (kind : Nat) : List Byte :=
  toLE 4 x.pc.toNat ++ toLE 1 (x.idx % 8) ++ toLE 1 kind ++ [0#8, 0#8] ++ toLE 8 x.steps

/-- A program leaves its domain: its slots become Free. -/
def dropProgram (s : State) (p : Program) : State :=
  let s := (progSlots p).foldl (fun s t => s.setThr t {}) s
  { s with sq := { s.sq with progs := smDel s.sq.progs (progKey p.dom p.num) } }

/-- A completion whose code is not SUCCESS is an event of its domain (R153). -/
def programEvent (s : State) (d code kind slot : Nat) : State :=
  if code = 0 then s else
    ((s.set (F.SEQ_EVENT_LAST_KIND d) kind).set (F.SEQ_EVENT_LAST_THREAD d) slot).bump (F.SEQ_EVENT_SEQ d)

/-- A program is stopped for TICK_OVERRUN: counted the first time (R154). -/
def noteOverrun (s : State) (p : Program) : State :=
  match smFind s.sq.progs (progKey p.dom p.num) with
  | none => s
  | some q => if q.overrun then s else (s.setProg { q with overrun := true }).count (F.SEQ_OVERRUNS p.dom)

/-- A program completes (R137): its slots become Free, the sync objects that it held in use may be reclaimed (R142), and its entry goes to
its CQ. Its tick budget ends with it: budgets are those of the resident programs. -/
def completeProgram (s : State) (p : Program) (tail : List Byte) (code kind slot : Nat) : State :=
  (reclaim (programEvent (dropProgram s p) p.dom code kind slot)).cqOwnPost p.ctx p.cq
    (cqEntry p.tag code 2 (65536 * p.dom + p.num) 0 tail) p.no

/-- A thread halts: by HALT (kind 0), a stop or a fault. The first fault decides the program's code; a fault stops the
program's other threads; the last thread to halt completes the program (R136, R137). That a thread which halts for an R108 stop of its
own stops the program's other threads too, with FAULT_KIND 8, is DESIGN CHOICE (log entry 19): R136 says so of a fault only. -/
def haltThread (s : State) (t : Th) (kind trap : Nat) : State :=
  let x := s.thr t
  match s.prog t with
  | none => s.setThr t {}
  | some p =>
    let code := kindCode kind trap
    let s := s.setThr t { x with st := .halted, cause := 0, pend := .none, stop := none, kind := kind, code := code }
    let p := if kind = 0 || p.decided.isSome then p
      else { p with decided := some (progTail x kind, code, kind, t.slot) }
    let s := s.setProg p
    let s := if kind = 0 then s else stopProgram s p kind
    if ((progSlots p).all fun u => (s.thr u).st == .halted) && !anySaved s p then
      match p.decided with
      | some (tail, code, kind, slot) => completeProgram s p tail code kind slot
      | none => completeProgram s p (progTail x 0) 0 0 t.slot
    else s

/-- A thread faults at its instruction, which has no effect (R136). -/
def faultThread (s : State) (t : Th) (kind : Nat) (trap : Nat := 0) : State := haltThread s t kind trap

/-! ### Fetch (R128, R157) -/

inductive Fetched where
  | fault (kind : Nat)
  | miss (tile : Nat)
  | word (w : Nat)
  deriving DecidableEq, Repr

/-- The instruction cache's key of a tile in a domain. -/
def icKey (d tile : Nat) : Nat := 16 * tile + d

/-- Fetch the instruction at a thread's program counter: the checks of R157 in their order (11, 4, 12), then the cache. -/
def fetch (s : State) (t : Th) (x : Thread) (p : Program) : Fetched :=
  let pc := x.pc.toNat
  if pc % 8 ≠ 0 || p.codeSize ≤ pc then .fault 11
  else
    match translate s .fetch rExec p.ctx p.no (p.image + p.codeOff + pc) 8 with
    | .mem a =>
      if s.tileFenced (tileOf a) then .fault 12
      else
        match smFind s.sq.icache (icKey t.dom (tileOf a)) with
        | none => .miss (tileOf a)
        | some c => .word (ofLE ((List.range 8).map fun i => smGet c (a % 2048 + i) 0#8))
    | _ => .fault 4

/-- Is a thread held by the crossbar: has a descriptor of it found no free entry, and waits at its engine's input (R18)? -/
def xbarBlocked (s : State) (t : Th) : Bool :=
  s.en.eng.any fun e => e.2.input.any fun d =>
    thKey d.th == thKey t && d.live == (s.thr t).live && e.2.stuck.contains d.no

/-- Is some other thread of the domain Ready? -/
def otherReady (s : State) (t : Th) : Bool :=
  (List.range 8).any fun k => k != t.slot && (s.thr ⟨t.dom, k⟩).st == .ready && !xbarBlocked s ⟨t.dom, k⟩

/-- Tiles of the 256 KiB instruction cache of a domain (R128). -/
def icacheTiles : Nat := 128

/-- A full instruction cache drops a tile for one that arrives (R128). Which one, the spec does not say: a free value picks it. -/
def icacheRoom (s : State) (d : Nat) : State :=
  let ks := smKeys (fun k _ => k % 16 == d) s.sq.icache
  if ks.length < icacheTiles then s
  else
    let (v, s) := s.fresh
    { s with sq := { s.sq with icache := smDel s.sq.icache (ks.getD (v.toNat % ks.length) 0) } }

/-- The tile of a miss arrives: checked, cached, and the thread goes on or faults with FAULT_KIND 9 (R128). A tile of a
stack fenced meanwhile faults with FAULT_KIND 12 (R157). -/
def icacheFill (s : State) (t : Th) : State :=
  let x := s.thr t
  if x.pend ≠ .icache then s else
  match s.prog t with
  | none => s
  | some p =>
    let ready := s.setThr t { x with st := .ready, cause := 0, pend := .none }
    match fetch s t x p with
    | .miss tile =>
      match s.tileCheck (64 + t.dom) tile with
      | (s, 0) =>
        let data : SMap Byte := (List.range 2048).filterMap fun i =>
          let b := s.byte (tile <<< 11 + i); if b = 0#8 then none else some (i, b)
        let s := icacheRoom s t.dom
        let s := { s with sq := { s.sq with icache := smSet s.sq.icache (icKey t.dom tile) data } }
        s.setThr t { x with st := .ready, cause := 0, pend := .none }
      | (s, 0x7F) => faultThread s t 12
      | (s, _) => faultThread s t 9
    | _ => ready

/-- What a sequencer does when it issues: nothing unless the thread is Ready in Active, is not held by the crossbar (R18), and the word at
its program counter is one that `ok` accepts; a fetch fault, or a miss; else the instruction's own effect (R127, R157). A thread that
has just yielded does not issue while another is Ready; the other's turn ends that (R166). Which of several Ready threads issues is the
command's operand (log entry 20): R127's rotating order is of cycles, which the model has none of. -/
def issueWord (s : State) (t : Th) (ok : Nat → Bool) (body : State → Thread → Program → State) : State :=
  let x := s.thr t
  if s.pst ≠ 3 || x.st ≠ .ready || xbarBlocked s t || !(t.dom < nDom s && t.slot < 8) then s else
  match s.prog t with
  | none => s
  | some p =>
    if smGet s.sq.last t.dom 0 = x.live + 1 && otherReady s t then s else
    let turn : State := { s with sq := { s.sq with last := smPut 0 s.sq.last t.dom 0 } }
    match fetch s t x p with
    | .fault k => faultThread turn t k
    | .miss _ =>
      (turn.setThr t { x with st := .waiting, cause := 5, pend := .icache }).count (F.SEQ_ICACHE_MISS t.dom)
    | .word w => if ok w then body (turn.count (F.SEQ_ISSUED t.dom)) x p else s

/-- The word at the program counter is the command's. -/
def wordIs (t : Th) (c : Instr) (w : Nat) : Bool := decide (ulDecode t w = some c)

def issueAt (s : State) (t : Th) (c : Instr) (body : State → Thread → Program → State) : State :=
  issueWord s t (wordIs t c) body

/-- The instruction writes thread state and goes on with the next one. -/
def stepTo (t : Th) (f : Thread → Thread) : State → Thread → Program → State :=
  fun s x _ => s.setThr t (f x).next

/-! ### Handing descriptors to engines (R16–R18, R147, R177) -/

def State.engine (s : State) (e : Nat) : Engine := smGet s.en.eng e {}
def State.setEngine (s : State) (e : Nat) (x : Engine) : State :=
  { s with en := { s.en with eng := smSet s.en.eng e x } }

/-- A descriptor's work has ended with a code; its completion is recorded by DESCRIPTOR_COMPLETION (R170). -/
def State.endDesc (s : State) (d : Desc) (code : Nat) : State :=
  { s with en := { s.en with ended := s.en.ended ++ [⟨d, code⟩] } }

/-- Write bytes into a record, where it has its place and its tile takes them. -/
def writeRec (s : State) (d : Desc) (a : Nat) (bs : List Byte) : State :=
  match opTranslate s .engine rWrite (dCtx d.w) 0 a bs.length with
  | .mem pa => (memWrite s d.eng pa bs).1
  | _ => s

/-- The word of a descriptor that holds PARAM_BANK and PARAM_IDX. -/
def recWord (kind : Nat) : Nat := if kind = 1 || kind = 2 then 1 else 3

/-- A completion of a specialty or transfer engine with a code other than SUCCESS (R254, R274). -/
def noteCode (s : State) (kind dom code : Nat) : State :=
  if code = 0 then s
  else if kind = 1 then (s.set (F.TE_STATUS_LAST_CODE dom) code).bump (F.TE_STATUS_SEQ dom)
  else if 3 ≤ kind then (s.set (F.SPC_STATUS_LAST_CODE dom) code).bump (F.SPC_STATUS_SEQ dom)
  else s

/-- How a descriptor of an engine completes: the engine writes DONE (R219), and the transfer engine CURSOR (R266), as the last write,
whatever the code; then its work has ended. `units` are the units released, `tail` what is written besides (AMAX_OUT of a quantize
descriptor). -/
def finishDesc (s : State) (d : Desc) (units : Nat) (tail : List (Nat × List Byte)) (code : Nat) : State :=
  let kind := dKind d.w
  let a := recAddr d.w (recWord kind)
  let s := tail.foldl (fun s t => writeRec s d (a + t.1) t.2) s
  let s := if kind = 2 || kind = 3 || kind = 4 || kind = 6 then writeRec s d (a + 0x3C) (toLE 4 units) else s
  (noteCode s kind (d.eng / 4) code).endDesc d code

/-- What a descriptor that released nothing leaves in its record besides DONE: the origin in CURSOR, unless it was to resume (R266);
an AMAX_OUT of 0 (R250). -/
def startTail (d : Desc) : List (Nat × List Byte) :=
  if dKind d.w = 1 then (if teResume d.w then [] else [(0x68, List.replicate 24 0#8)])
  else if dKind d.w = 6 then [(0x10, List.replicate 4 0#8)]
  else []

/-- A descriptor completes without a unit released. -/
def finishNone (s : State) (d : Desc) (code : Nat) : State := finishDesc s d 0 (startTail d) code

/-- Home of an engine (R15). -/
def homeOf (e : Nat) : Nat := e / 4

def fromHome (d : Desc) : Bool := d.th.dom == homeOf d.eng

/-- May a further descriptor take an entry of the command queue (R16)? -/
def queueRoom (q : List Desc) (home : Bool) : Bool :=
  q.length < 32 && (home || (q.filter fun d => !fromHome d).length < 24)

/-- The descriptors at an engine's input that find no free entry hold their threads until they are delivered (R18). The cycles of that wait
are counted (R154): the count here shows that there were some. -/
def markStuck (s : State) (e : Nat) : State :=
  let g := s.engine e
  let new := g.input.filter fun d => !queueRoom g.queue (fromHome d) && !g.stuck.contains d.no
  let s := s.setEngine e { g with stuck := (g.stuck ++ new.map (·.no)).filter fun n => g.input.any fun d => d.no == n }
  new.foldl (fun s d => s.count (F.SEQ_XBAR_WAIT d.th.dom)) s

/-- BUDGET index of an engine kind: RE, TE, CE, OE, LE, ZE, QE (R130). -/
def budgetOf (p : Program) (kind : Nat) : Nat × Nat := p.budget.getD kind (0, 0)

/-- The demand of a program on an engine grows by a descriptor's cost; beyond the declaration every thread of the program
is stopped at its next STEP (R109). -/
def addDemand (s : State) (p : Program) (d : Desc) : State :=
  let c := descCost s d.w d.no
  let key := 64 * progKey p.dom p.num + d.eng
  let u := smGet s.en.demand key (0, 0)
  let v := (u.1 + c.1, u.2 + c.2)
  let s := { s with en := { s.en with demand := smSet s.en.demand key v } }
  if d.bc < v.1 || d.bb < v.2 then noteOverrun (stopProgram s p 8) p else s

/-- A descriptor's completion with TICK_OVERRUN stops its thread at its next STEP (R108, R177); both are counted (R154). -/
def stopOverrun (s : State) (d : Desc) : State :=
  let s := s.count (F.SEQ_OVERRUNS d.th.dom)
  if (s.thr d.th).live = d.live then
    let s := s.setThr d.th ((s.thr d.th).reqStop 8)
    match s.prog d.th with | some p => noteOverrun s p | none => s
  else s

/-- Steps 4 to 6 of R177 for a descriptor that may take a tracker entry. -/
def issueOn (s : State) (t : Th) (p : Program) (d : Desc) : State :=
  let x := s.thr t
  let b := budgetOf p (engKind s d.eng)
  let d := { d with no := s.sq.opNo, ts := p.tickSched, bc := b.1, bb := b.2 }
  let s := s.trkTake (dCtx d.w) (thKey t + 1)
  let x := { x with outE := x.outE + 1 }
  let waitOr (s : State) : State :=
    if d.ew.isSome then s.setThr t { x with st := .waiting, cause := 2, pend := .issuew }
    else s.setThr t { x with st := .ready, cause := 0, pend := .none, pc := x.pc + 8#64 }
  if nEng s ≤ d.eng then (waitOr s).endDesc d 0x7F
  else if s.engFenced d.eng then finishNone (waitOr s) d 0x7F
  else if !bit p.engines d.eng || b.1 = 0 || b.2 = 0 then
    stopOverrun (finishNone (waitOr s) d 0x61) d
  else
    let e := s.engine d.eng
    let s := markStuck (s.setEngine d.eng { e with input := e.input ++ [d] }) d.eng
    addDemand (waitOr s) p d

/-- The handling of ISSUE and ISSUEW (R177): absent engine, kind, tracker entries, then `issueOn`. -/
def issueDesc (s : State) (t : Th) (x : Thread) (p : Program) (d : Desc) : State :=
  if d.eng < nEng s && dKind d.w ≠ engKind s d.eng then faultThread s t 7
  else if 64 ≤ s.trkHeld t then s.setThr t { x with st := .waiting, cause := 4, pend := .tracker d }
  else issueOn s t p d

/-- The descriptor that an instruction of thread `t` copies (R169). -/
def copyDesc (t : Th) (x : Thread) (dd : Nat) (ew : Option Nat) (eng : Nat) (a b : Word) (post : Bool) : Desc :=
  { w := dOwn x (x.dr dd), th := t, prog := x.prog, live := x.live, ew := ew, eng := eng, opA := a, opB := b,
    post := post, no := 0, ts := false, bc := 0, bb := 0 }

end Sys2Proof.Machine
end

