-- ==== Sys2Proof/Machine/Paging.lean ====
section
/-! DEFINITION. Page faults, fault records and the start of a migration (R300–R303). -/

namespace Sys2Proof.Machine

def State.setSegm (s : State) (key : Nat) (g : Segm) : State :=
  { s with sg := { s.sg with segs := smSet s.sg.segs key g } }

def Segm.page (g : Segm) (p : Nat) : Page := smGet g.pages p {}
def Segm.setPage (g : Segm) (p : Nat) (x : Page) : Segm := { g with pages := smPut {} g.pages p x }

/-- The record of a page, if it has one. -/
def State.rec? (s : State) (key page : Nat) : Option FaultRec :=
  s.sg.recs.find? fun r => segKey r.ctx r.seg == key && r.page == page

def State.setRecs (s : State) (rs : List FaultRec) : State :=
  State.set { s with sg := { s.sg with recs := rs } } F.MIG_STATUS_RECORDS rs.length

/-- Replace the record of a page. -/
def State.putRec (s : State) (r : FaultRec) : State :=
  s.setRecs (s.sg.recs.map fun q => if q.ctx = r.ctx && q.seg = r.seg && q.page = r.page then r else q)

/-- Second chance over the segment's frames from its clock (R303): the frame taken, with the pages' referenced bits and
the clock as it leaves them; none when `fuel` looks find no page that is RES without a record. -/
def secondChance (s : State) (key : Nat) (frames : Nat) : (fuel : Nat) → Segm → Option (Nat × Nat × Segm)
  | 0, _ => none
  | k + 1, g =>
    let f := g.clock
    let g := { g with clock := (f + 1) % max 1 frames }
    match smFind g.frames f with
    | none => secondChance s key frames k g
    | some v =>
      let pg := g.page v
      if pg.st = 2 && (s.rec? key v).isNone then
        if pg.referenced then secondChance s key frames k (g.setPage v { pg with referenced := false })
        else some (f, v, g.setPage v { pg with st := 3 })
      else secondChance s key frames k g

/-- The lowest frame that holds no page. -/
def freeFrame (g : Segm) (frames : Nat) : Option Nat :=
  (List.range frames).find? fun f => (smFind g.frames f).isNone

/-- Start the migration of a page whose record is there and whose state is NONRES (R303): a free frame, or a victim. A
record for which no frame can be taken has none: where every frame holds a page with a record it fails (R306, MIGRATION_FAIL), else it
takes one when an evict ends. None starts while the control complex does not run (R29). -/
def startMigration (s : State) (key page : Nat) : State :=
  if !ctrlOn s then s else
  match smFind s.sg.segs key, s.rec? key page with
  | some g, some r =>
    let frames := segFrames g.e.toNat
    let start := match r.started with | some t => some t | none => some s.tk.count
    match freeFrame g frames with
    | some f =>
      let g := { g.setPage page { st := 1, frame := f } with frames := smSet g.frames f page }
      (s.setSegm key g).putRec { r with started := start, frame := some f, victim := none }
    | none =>
      match secondChance s key frames (2 * frames + 1) g with
      | some (f, v, g) =>
        let g := { g.setPage page { st := 1, frame := f } with frames := smSet g.frames f page }
        (s.setSegm key g).putRec { r with started := start, frame := some f, victim := some v }
      | none => s.putRec { r with started := start, frame := none, victim := none }
  | _, _ => s

/-- An access that faults on a page joins the page's record, or creates it (R301). The second answer says whether it is
parked: not where the record holds 64 waiters or none of the 256 records is free (R302). Such an access is counted once (R317): `again`
says that it has been. -/
def joinFault (s : State) (key page : Nat) (w : FaultWaiter) (again : Bool := false) : State × Bool :=
  let full (s : State) : State × Bool := (if again then s else s.count F.MIG_RECORD_WAIT, false)
  match s.rec? key page with
  | some r =>
    if 64 ≤ r.waiters.length then full s
    else ((s.putRec { r with waiters := r.waiters ++ [w] }).count F.MIG_COALESCED, true)
  | none =>
    if 256 ≤ s.sg.recs.length then full s
    else
      let r : FaultRec := {
        ctx := key / 16, seg := key % 16, page := page, waiters := [w], started := none, victim := none, frame := none }
      let s := (s.setRecs (s.sg.recs ++ [r])).count F.MIG_FAULTS
      match smFind s.sg.segs key with
      | some g => if (g.page page).st = 0 then (startMigration s key page, true) else (s, true)
      | none => (s, true)

end Sys2Proof.Machine
end

