-- ==== Sys2Proof/Machine/EngineOps.lean ====
section
/-! DEFINITION. What the engines share: reading and writing operands tile by tile, extents, parking on a page, free values
where operands overlap, taking the next descriptor, and how a run ends (R107, R108, R204–R206, R214, R219–R224, R259, R266). -/

namespace Sys2Proof.Machine

/-! ### Operands -/

/-- What reading or writing an operand gives: bytes, a completion code, or a page that is not resident. -/
inductive Got where
  | ok (bs : List Byte)
  | fail (code : Nat)
  | park (key page : Nat)
  deriving DecidableEq, Repr

/-- Who translates an engine's addresses: the transfer engine reaches host-resident segments too (R297). -/
def engWho (kind : Nat) : Who := if kind = 1 then .te else .engine

/-- The first piece of [a, a + n) that does not translate to memory, if any: a page to park on, or SEG_FAULT. -/
def firstFault (s : State) (w : Who) (rights ctx no a n : Nat) : Option Got :=
  (cutRange a n).findSome? fun p =>
    match opTranslate s w rights ctx no p.1 p.2 with
    | .mem _ => none
    | .fault k pg => some (.park k pg)
    | .host _ => some (.fail 0x20)
    | .bad => some (.fail 0x20)

/-- Read translated pieces, each tile checked. The two tiles that a partial read spans are checked separately (R284): with `both` the
pieces after one that fails are read too, and the first that fails decides. -/
def readPieces (s : State) (w : Who) (rights req ctx no : Nat) (both : Bool) : List (Nat × Nat) → State × Got
  | [] => (s, .ok [])
  | (a, n) :: ps =>
    match opTranslate s w rights ctx no a n with
    | .mem pa =>
      match memRead s req pa n with
      | (s, 0, bs) =>
        match readPieces (touchPage s ctx no a n false) w rights req ctx no both ps with
        | (s, .ok r) => (s, .ok (bs ++ r))
        | r => r
      | (s, c, _) => (if both then (readPieces s w rights req ctx no both ps).1 else s, .fail c)
    | .fault k pg => (s, .park k pg)
    | _ => (s, .fail 0x20)

/-- Read [a, a + n) of an operand of engine `req`. -/
def readOp (s : State) (w : Who) (req ctx no a n : Nat) : State × Got :=
  match firstFault s w rRead ctx no a n with
  | some g => (s, g)
  | none => readPieces s w rRead req ctx no (n ≤ 2048) (cutRange a n)

/-- Write bytes at translated pieces, each by an access of its own (R284); the code of the first that fails. -/
def writeCut (s : State) (w : Who) (req ctx no : Nat) : List (Nat × List Byte) → State × Got
  | [] => (s, .ok [])
  | (a, bs) :: r =>
    match opTranslate s w rWrite ctx no a bs.length with
    | .mem pa =>
      match memWrite s req pa bs with
      | (s, 0) => writeCut (touchPage s ctx no a bs.length true) w req ctx no r
      | (s, c) => ((writeCut s w req ctx no r).1, .fail c)
    | .fault k pg => (s, .park k pg)
    | _ => (s, .fail 0x20)

/-- Write bytes of an operand at address `a`, one access to each tile; nothing where a page is not resident. -/
def writeOp (s : State) (w : Who) (req ctx no a : Nat) (bs : List Byte) : State × Got :=
  match firstFault s w rWrite ctx no a bs.length with
  | some g => (s, g)
  | none => writeCut s w req ctx no (cutTiles a bs (bs.length / 2048 + 2))

/-- Do the bytes [a, e) lie whole in segments of the context that the requester reaches with these rights? -/
def segsCover (s : State) (w : Who) (rights ctx no e : Nat) : (fuel : Nat) → (a : Nat) → Bool
  | 0, _ => false
  | k + 1, a =>
    if e ≤ a then true else
    match findSeg s ctx no a 1 with
    | none => false
    | some (_, g) =>
      let d := g.e.toNat
      (segRights d &&& rights) == rights && reaches w (segBacking d)
        && segsCover s w rights ctx no e k (segVbase d + segPages d * pageSize)

/-- Does an operand lie whole in a staging grant of the context, or in its segments (R204, R220)? -/
def opCovered (s : State) (w : Who) (rights ctx no a n : Nat) : Bool :=
  if bit a 47 then (match opTranslate s w rights ctx no a n with | .mem _ => true | _ => false)
  else a + n ≤ 2 ^ 47 && segsCover s w rights ctx no (a + n) 18 a

/-- Is it in a staging grant? -/
def inStaging (s : State) (rights ctx a n : Nat) : Bool :=
  bit a 47 && (match opTranslate s .engine rights ctx 0 a n with | .mem _ => true | _ => false)

/-! ### Overlapping operands: free values (R205, R223, R259, R475; log entry 2). Ranges are of bits: 8 × the byte address on. -/

/-- The bits of byte `a` that fall into a range. -/
def freeMask (rs : List (Nat × Nat)) (a : Nat) : Byte :=
  BitVec.ofNat 8 (((List.range 8).map fun j => if rs.any fun r => r.1 ≤ 8 * a + j && 8 * a + j < r.2 then 2 ^ j else 0).sum)

/-- Bytes to be written at `a`, their bits that fall into a range replaced by free values. -/
def freeBytes (s : State) (rs : List (Nat × Nat)) : (a : Nat) → List Byte → State × List Byte
  | _, [] => (s, [])
  | a, b :: bs =>
    let m := freeMask rs a
    if m = 0#8 then
      let (s, r) := freeBytes s rs (a + 1) bs
      (s, b :: r)
    else
      let (v, s) := s.fresh
      let (s, r) := freeBytes s rs (a + 1) bs
      (s, ((v.truncate 8 &&& m) ||| (b &&& ~~~m)) :: r)

/-- The elements of `w` bits, laid out over the bytes [a, a + n), that meet the bytes [b, b + m). -/
def overlap (w a n b m : Nat) : List (Nat × Nat) :=
  let lo := max a b
  let hi := min (a + n) (b + m)
  if lo < hi then [(8 * a + 8 * (lo - a) / w * w, 8 * a + cdiv (8 * (hi - a)) w * w)] else []

/-- The areas of an operand of `n` elements: element bits, first byte, bytes (R189). -/
def areas (fmt a n : Nat) : List (Nat × Nat × Nat) :=
  let w := elemBits fmt
  (w, a, dataBytes w n) :: (if isMx fmt then [(8, a + scaleOff w n, n / 32)] else [])

/-- The elements of `xs` that meet an area of `ys`. -/
def meetElems (xs ys : List (Nat × Nat × Nat)) : List (Nat × Nat) :=
  xs.flatMap fun x => ys.flatMap fun y => overlap x.1 x.2.1 x.2.2 y.2.1 y.2.2

/-- The bytes of `xs` that are bytes of `ys`. -/
def meetBytes (xs ys : List (Nat × Nat × Nat)) : List (Nat × Nat) :=
  xs.flatMap fun x => ys.flatMap fun y => overlap 8 x.2.1 x.2.2 y.2.1 y.2.2

/-! ### Runs -/

/-- CURSOR and DONE of a transfer that has released `units` units from the origin (R266): all zeros at the end of the walk. -/
def cursorBytes (d : BitVec 256) (w : Walk) (units : Nat) : List Byte :=
  let pos := units * w.unit (tePdim d)
  let v := if w.span 5 ≤ pos then [0, 0, 0, 0, 0] else w.vec pos
  v.flatMap (fun x => toLE 4 x) ++ toLE 4 units

/-- AMAX_OUT and the counters a run carries (R250). -/
def runTail (r : Run) : List (Nat × List Byte) :=
  match dKind r.d.w with
  | 1 => [(0x68, cursorBytes r.d.w (parseWalk r.bytes) r.pos)]
  | 6 => [(0x10, toLE 4 (r.acc.getD 0 0))]
  | _ => []

/-- Engine cycles spent on a descriptor (R217, R255, R275), counted when it ends: its cost where it succeeds; else some part of its
cost, which no rule gives: a free value. -/
def countBusy (s : State) (e cost code : Nat) : State :=
  let (n, s) := if code = 0 then (cost, s) else ((s.fresh.1).toNat % (cost + 1), s.fresh.2)
  match e % 4 with
  | 0 => s.count (F.RED_BUSY_CYCLES (e / 4)) n
  | 1 => s.count (F.TE_BUSY_CYCLES (e / 4)) n
  | 3 => s.count (F.SPC_BUSY_CYCLES (e / 4)) n
  | _ => s

/-- A run ends. -/
def finishRun (s : State) (r : Run) (code : Nat) : State :=
  finishDesc (countBusy s r.d.eng r.cost code) r.d r.pos (runTail r) code

/-- A descriptor that its engine has taken completes with a code before a unit is started. -/
def refuseTaken (s : State) (d : Desc) (code : Nat) : State :=
  finishNone (countBusy s d.eng (descCost s d.w d.no).1 code) d code

/-- Its record's tile fails its check: nothing is written (R219, R270). -/
def recordFails (s : State) (d : Desc) (code : Nat) : State :=
  (noteCode (countBusy s d.eng (descCost s d.w d.no).1 code) (dKind d.w) (d.eng / 4) code).endDesc d code

/-- The PARKED count of a transfer engine (R274). -/
def showParked (s : State) (e : Nat) : State :=
  if e % 4 = 1 then s.set (F.TE_STATUS_PARKED (e / 4)) (s.engine e).aside.length else s

/-- The counter of descriptors set aside (R217, R255, R275). -/
def countPark (s : State) (e : Nat) : State :=
  let d := e / 4
  match e % 4 with
  | 0 => s.count (F.RED_MIGRATE_PARKS d)
  | 1 => s.count (F.TE_MIGRATE_PARKS d)
  | 3 => s.count (F.SPC_MIGRATE_PARKS d)
  | _ => s

/-- Park a run on a page's fault record (R214, R222, R265): set aside, or, as the fifth, holding its engine. A run that
no record can take stays as it is and tries again (R302). A transfer engine saves CURSOR and DONE (R264). -/
def parkRun (s : State) (e : Nat) (r : Run) (key page : Nat) : State :=
  match joinFault s key page (.engine e) (r.recWait == some (key, page)) with
  | (s, false) => s.setEngine e { s.engine e with run := some { r with recWait := some (key, page) } }
  | (s, true) =>
    let r := { r with park := some (key, page), recWait := none }
    let g := s.engine e
    let s := if g.aside.length < 4 then countPark (s.setEngine e { g with run := none, aside := g.aside ++ [r] }) e
      else s.setEngine e { g with run := some r }
    let s := if dKind r.d.w = 1 then
        (runTail r).foldl (fun s t => writeRec s r.d (recAddr r.d.w 1 + t.1) t.2) s
      else s
    showParked s e

/-- The run of an engine ends. -/
def endRun (s : State) (e : Nat) (r : Run) (code : Nat) : State :=
  finishRun (s.setEngine e { s.engine e with run := none }) r code

/-! ### Taking the next descriptor (R16, R107, R108, R211, R214) -/

/-- Capacity of a tick at the current level (R79). -/
def State.cap (s : State) : Nat :=
  s.tickNs * (match s.get F.PWR_STATE_CLK_LEVEL with | 0 => 12 | 1 => 10 | 2 => 8 | _ => 6) / 10

/-- Tick-scheduled cycles that admitted programs reserve on engine `e` (R104). -/
def tsReserved (s : State) (e : Nat) : Nat :=
  (s.sq.progs.map fun x =>
    if bit x.2.engines e && x.2.tickSched then (budgetOf x.2 (engKind s e)).1 else 0).sum

/-- Cycles of this tick outside the tick-scheduled reservation. -/
def outside (s : State) (e : Nat) : Nat := s.tk.cap - (s.engine e).carryTS - tsReserved s e

/-- Has the engine renewed cycles of this tick left? -/
def cyclesLeft (s : State) (e : Nat) : Bool := (s.engine e).carryTS + (s.engine e).spent < s.tk.cap

/-- The best-effort pool of this tick (R107). -/
def bePool (s : State) (e : Nat) : Nat := (outside s e - (s.engine e).carryBE) * s.tk.share / 100

def usedKey (d : Desc) : Nat := 64 * progKey d.th.dom d.prog + d.eng

/-- Does the cost exceed the declaration (R108)? -/
def overBudget (s : State) (d : Desc) : Bool :=
  let c := descCost s d.w d.no
  d.bc < c.1 || d.bb < c.2

/-- Does the descriptor fit its program's declared cycles and bytes of this tick (R107, R109)? -/
def fitsProg (s : State) (d : Desc) : Bool :=
  let c := descCost s d.w d.no
  let u := smGet s.en.used (usedKey d) (0, 0)
  u.1 + c.1 ≤ d.bc && u.2 + c.2 ≤ d.bb

/-- Does a best-effort descriptor fit the pool? -/
def fitsPool (s : State) (e : Nat) (d : Desc) : Bool :=
  let c := (descCost s d.w d.no).1
  let u := (s.engine e).poolUsed
  u + c ≤ bePool s e || (bePool s e < c && u == 0 && 0 < bePool s e)

/-- What an engine does next: nothing, go on with a run it has set aside, start a remainder, or start a queued descriptor. -/
inductive Next where
  | none
  | resume (r : Run)
  | remainder (r : Run)
  | start (d : Desc)
  | over (d : Desc)
  deriving DecidableEq, Repr

/-- The first tick-scheduled descriptor, in arrival order, that may start, while cycles of the tick are left. -/
def nextTs (s : State) (e : Nat) (q : List Desc) : Option Desc :=
  q.find? fun d => d.ts && (overBudget s d || (fitsProg s d && cyclesLeft s e))

/-- The oldest best-effort descriptor of a context. -/
def oldestBe (q : List Desc) (ctx : Nat) : Option Desc := q.find? fun d => !d.ts && dCtx d.w == ctx

/-- The next best-effort descriptor: contexts in rotating order, the oldest of each (R107, R19). -/
def nextBe (s : State) (e : Nat) (q : List Desc) : Option Desc :=
  (rotate 256 (s.engine e).ctxPtr fun c =>
    match oldestBe q c with
    | some d => overBudget s d || (fitsProg s d && fitsPool s e d)
    | none => false).bind (oldestBe q)

/-- What engine `e` does next among the descriptors that `mine` accepts (a pipe of a cipher engine, R468). -/
def pickNextBy (s : State) (e : Nat) (mine : BitVec 256 → Bool) : Next :=
  let g := s.engine e
  let held := match g.run with | some r => r.park.isNone | none => false
  if held then .none else
  match g.aside.find? fun r => r.park.isNone && mine r.d.w with
  | some r => .resume r
  | none =>
    if g.run.isSome then .none else
    match g.remainder with
    | r :: _ => if cyclesLeft s e then .remainder r else .none
    | [] =>
      let q := g.queue.filter fun d => mine d.w
      match nextTs s e q with
      | some d => if overBudget s d then .over d else .start d
      | none =>
        match nextBe s e q with
        | some d => if overBudget s d then .over d else .start d
        | none => .none

def pickNext (s : State) (e : Nat) : Next := pickNextBy s e fun _ => true

/-- Best-effort contexts that have a descriptor queued. -/
def beContexts (q : List Desc) : Nat := ((List.range 256).filter fun c => (oldestBe q c).isSome).length

/-- Charge a started descriptor (R107), and move the rotating pointer where several contexts waited (R19). -/
def chargeStart (s : State) (e : Nat) (d : Desc) : State :=
  let c := descCost s d.w d.no
  let u := smGet s.en.used (usedKey d) (0, 0)
  let g := s.engine e
  let s := { s with en := { s.en with used := smSet s.en.used (usedKey d) (u.1 + c.1, u.2 + c.2) } }
  let q := g.queue.erase d
  if d.ts then s.setEngine e { g with queue := q, spent := g.spent + c.1 }
  else s.setEngine e { g with
    queue := q, poolUsed := g.poolUsed + c.1,
    ctxPtr := if 1 < beContexts g.queue then (g.ctxPtr + 1) % 256 else g.ctxPtr }

/-- A descriptor over its declaration completes with TICK_OVERRUN, and its thread is stopped at its next STEP (R108). -/
def refuseOver (s : State) (e : Nat) (d : Desc) : State :=
  let g := s.engine e
  let s := stopOverrun (s.setEngine e { g with queue := g.queue.erase d }) d
  finishNone s d 0x61

/-- A resumed run goes ahead of the queue; a run that holds the engine is set aside in its place (R214), and counts as such. -/
def resumeRun (s : State) (e : Nat) (r : Run) : State :=
  let g := s.engine e
  let rest := g.aside.erase r
  match g.run with
  | some h => showParked (countPark (s.setEngine e { g with run := some r, aside := rest ++ [h] }) e) e
  | none => showParked (s.setEngine e { g with run := some r, aside := rest }) e

/-! ### Resumption after a migration (R303, R306) -/

def unpark (key page : Nat) (r : Run) : Run := if r.park = some (key, page) then { r with park := none } else r

/-- The page is resident: the engine's runs that wait for it may go on. -/
def wakeEngine (s : State) (e key page : Nat) : State :=
  let g := s.engine e
  s.setEngine e { g with run := g.run.map (unpark key page), aside := g.aside.map (unpark key page) }

/-- The migration failed: they complete with a code. -/
def failEngine (s : State) (e key page code : Nat) : State :=
  let g := s.engine e
  let hit (r : Run) : Bool := r.park == some (key, page)
  let rs := g.aside.filter hit ++ (match g.run with | some r => if hit r then [r] else [] | none => [])
  let s := s.setEngine e { g with
    aside := g.aside.filter fun r => !hit r,
    run := match g.run with | some r => if hit r then none else some r | none => none }
  showParked (rs.foldl (fun s r => finishRun s r code) s) e

end Sys2Proof.Machine
end

