-- ==== Sys2Proof/Machine/SyncUnits.lean ====
section
/-! DEFINITION. Sync units (R25, R138–R142): requests, the one operation per cycle, waiters and their timers. -/

namespace Sys2Proof.Machine

/-- The unit that owns a sync object (R25). -/
def syncOwner (s : State) (obj : Nat) : Nat := if s.variant then obj / 2048 else obj / 1024

/-- The domain whose block shows a unit's counters (R154). -/
def syncDom (g : Nat) : Nat := 4 * g

def State.syncCount (s : State) (obj : Nat) : Nat := smGet s.sy.counts obj 0
def State.setCount (s : State) (obj n : Nat) : State :=
  { s with sy := { s.sy with counts := smPut 0 s.sy.counts obj n } }

/-- Send a request to the unit that owns its object (R141). -/
def State.syncSend (s : State) (r : SyncReq) : State := { s with sy := { s.sy with reqs := s.sy.reqs ++ [r] } }

/-- Every waiter on the object whose threshold the count meets completes (R139). -/
def wakeMet (s : State) (obj : Nat) : State :=
  let met (w : Waiter) : Bool := w.obj == obj && w.thr.toNat ≤ s.syncCount obj
  let ws := s.sy.waiters.filter met
  let s := { s with sy := { s.sy with waiters := s.sy.waiters.filter fun w => !met w } }
  ws.foldl (fun s w => s.resume w.th fun x => match w.pd with | some p => x.setP p true | none => x) s

/-! ### Doorbells (R441, R444) -/

/-- A doorbell with a producer index. The second answer says whether it has recorded one. -/
def sqDoorbell (s : State) (k prod : Nat) : State × Bool :=
  let q := s.sqd k
  let d := (prod + 65536 - q.f % 65536) % 65536
  if d = 0 then (s, false)
  else if sqSize s k < d then (s.count F.HOST_DB_BAD, false)
  else (sqFetch (s.setSqd k { q with prod := prod }) k, true)

/-- The queues whose doorbell is this sync object, LOC = 1 (R444): their producer index becomes the count. -/
def syncDoorbells (s : State) (obj : Nat) : State :=
  let keys := smKeys (fun k _ => sqLoc s k && sqEnabled s k && s.get (F.SQ_CFG_DB_SYNC (k / 16) (k % 16)) == obj
    && s.ownsSync (k / 16) obj) s.ho.sqs
  keys.foldl (fun s k => (sqDoorbell s k (s.syncCount obj % 65536)).1) s

/-- The count has changed: waiters (R139), then the doorbells (R444). -/
def countChanged (s : State) (obj : Nat) : State := syncDoorbells (wakeMet s obj) obj

/-- A signal of `n`: the count saturates at 2^64 − 1 and never wraps (R138). -/
def doSignal (s : State) (obj n : Nat) : State :=
  let c := s.syncCount obj + n
  let s := if 2 ^ 64 ≤ c then s.count (F.SYNC_SATURATED (syncDom (syncOwner s obj))) else s
  countChanged (s.setCount obj (min c (2 ^ 64 - 1))) obj

/-- The thread that waits for a request goes on. -/
def syncReturn (s : State) (r : SyncReq) (f : Thread → Thread := id) : State :=
  match r.th with
  | none => s
  | some (t, live) => if (s.thr t).live = live && (s.thr t).pend = .sync then s.resume t f else s

/-- Record a waiter; its thread is Waiting with WAIT_CAUSE 1 (R179). -/
def recordWaiter (s : State) (r : SyncReq) (v : Word) (expiry : Option (Nat × Nat)) (pd : Option Nat) : State :=
  match r.th with
  | none => s
  | some (t, live) =>
    if (s.thr t).live = live then
      let s := s.setThr t { s.thr t with st := .waiting, cause := 1 }
      { s with sy := { s.sy with waiters := s.sy.waiters ++ [⟨r.obj, v, t, expiry, pd⟩] } }
    else s

/-- One operation at its unit (R138): refused where the requester's context does not own the object (R141, R179). -/
def syncPerform (s : State) (r : SyncReq) : State :=
  let owned := match r.ctx with | none => true | some c => s.ownsSync c r.obj
  if !owned then
    match r.th with
    | some (t, live) => if (s.thr t).live = live then faultThread s t 3 else s
    | none =>
      if r.req = 81 then
        (((s.count F.MARI_REFUSED).set F.MARI_EVENT_LAST_ENTRY r.entry).set F.MARI_EVENT_LAST_KIND 1).bump F.MARI_EVENT_SEQ
      else s
  else
    let s := s.count (F.SYNC_OPS (syncDom (syncOwner s r.obj)))
    match r.op with
    | .signal n =>
      let s := syncReturn (doSignal s r.obj n) r
      (match r.pkt with
       | some x => { s with sy := { s.sy with landed := s.sy.landed ++ [x] } }
       | none => s)
    | .arm v => syncReturn (countChanged (s.setCount r.obj v.toNat) r.obj) r
    | .wait v =>
      if v.toNat ≤ s.syncCount r.obj then syncReturn s r else recordWaiter s r v none none
    | .waitt v ticks pd =>
      if v.toNat ≤ s.syncCount r.obj then syncReturn s r (·.setP pd true)
      else recordWaiter s r v (some (s.expiry ticks, pd)) (some pd)
    | .read gd => let c := s.syncCount r.obj; syncReturn s r (·.setG gd (BitVec.ofNat 64 c))

/-- The oldest request of a requester at a unit, and the rest. -/
def takeSync (p : SyncReq → Bool) : List SyncReq → Option (SyncReq × List SyncReq)
  | [] => none
  | a :: as => if p a then some (a, as) else (takeSync p as).map fun x => (x.1, a :: x.2)

/-- A unit performs one of the requests that wait at it, in rotating order over its 83 requesters (R19, R141). -/
def syncServe (s : State) (g : Nat) : State :=
  let here (r : SyncReq) : Bool := syncOwner s r.obj == g
  let p := smGet s.sy.ptr g 0
  match rotate 83 p fun r => s.sy.reqs.any fun q => here q && q.req == r with
  | none => s
  | some r =>
    match takeSync (fun q => here q && q.req == r) s.sy.reqs with
    | none => s
    | some (q, rest) =>
      let more := rest.any here
      let s := { s with sy := { s.sy with
        reqs := rest, ptr := smPut 0 s.sy.ptr g (if more then (p + 1) % 83 else p) } }
      let s := if more then s.count (F.SYNC_CONTENDED (syncDom g)) else s
      reclaim (syncPerform s q)

/-- A WAITT timer expires: the waiter is gone and the thread reads predicate 0 (R140). -/
def waitTimeout (s : State) (t : Th) : State :=
  match s.sy.waiters.find? fun w => w.th == t && w.expiry.isSome with
  | none => s
  | some w =>
    match w.expiry with
    | none => s
    | some (b, pd) =>
      if b ≤ s.tk.count then
        let s := { s with sy := { s.sy with waiters := s.sy.waiters.filter fun v => v.th != t } }
        s.resume t (·.setP pd false)
      else s

end Sys2Proof.Machine
end

