-- ==== Sys2Proof/Machine/Ulent.lean ====
section
/-! DEFINITION. The Ulent instructions that act within their thread and on memory: arithmetic, compare, select, control,
descriptors, and the loads of spaces 1 and 2 (R163–R175). Each takes effect only as its thread's sequencer issues it (`issueAt`). -/

namespace Sys2Proof.Machine

/-- What a command answers. -/
abbrev Out := Host.Outcome State Fault Refusal

/-- A shift distance: b and 63 (R163). -/
def shAmt (x : Thread) (b : Opd) : Nat := (opdVal x b).toNat % 64

/-- ADD: gd := ga + b (R163). -/
def execAdd (t : Th) (gd ga : Nat) (b : Opd) (s : State) : Out :=
  .next (issueAt s t (.add t gd ga b) (stepTo t fun x => x.setG gd (x.gr ga + opdVal x b)))

/-- SUB: gd := ga - b (R163). -/
def execSub (t : Th) (gd ga : Nat) (b : Opd) (s : State) : Out :=
  .next (issueAt s t (.sub t gd ga b) (stepTo t fun x => x.setG gd (x.gr ga - opdVal x b)))

/-- MUL: gd := low 64 bits of ga * b (R163). -/
def execMul (t : Th) (gd ga : Nat) (b : Opd) (s : State) : Out :=
  .next (issueAt s t (.mul t gd ga b) (stepTo t fun x => x.setG gd (x.gr ga * opdVal x b)))

/-- AND: gd := ga and b (R163). -/
def execAnd (t : Th) (gd ga : Nat) (b : Opd) (s : State) : Out :=
  .next (issueAt s t (.and t gd ga b) (stepTo t fun x => x.setG gd (x.gr ga &&& opdVal x b)))

/-- OR: gd := ga or b (R163). -/
def execOr (t : Th) (gd ga : Nat) (b : Opd) (s : State) : Out :=
  .next (issueAt s t (.or t gd ga b) (stepTo t fun x => x.setG gd (x.gr ga ||| opdVal x b)))

/-- XOR: gd := ga xor b (R163). -/
def execXor (t : Th) (gd ga : Nat) (b : Opd) (s : State) : Out :=
  .next (issueAt s t (.xor t gd ga b) (stepTo t fun x => x.setG gd (x.gr ga ^^^ opdVal x b)))

/-- SHL: gd := ga << (b and 63) (R163). -/
def execShl (t : Th) (gd ga : Nat) (b : Opd) (s : State) : Out :=
  .next (issueAt s t (.shl t gd ga b) (stepTo t fun x => x.setG gd (x.gr ga <<< shAmt x b)))

/-- SHR: gd := ga >> (b and 63), zeros in (R163). -/
def execShr (t : Th) (gd ga : Nat) (b : Opd) (s : State) : Out :=
  .next (issueAt s t (.shr t gd ga b) (stepTo t fun x => x.setG gd (x.gr ga >>> shAmt x b)))

/-- SAR: gd := ga >> (b and 63), copies of bit 63 in (R163). -/
def execSar (t : Th) (gd ga : Nat) (b : Opd) (s : State) : Out :=
  .next (issueAt s t (.sar t gd ga b) (stepTo t fun x => x.setG gd ((x.gr ga).sshiftRight (shAmt x b))))

/-- CMP: pd := cond(ga, b) (R164). -/
def execCmp (t : Th) (pd cond ga : Nat) (b : Opd) (s : State) : Out :=
  .next (issueAt s t (.cmp t pd cond ga b) (stepTo t fun x => x.setP pd (condHolds cond (x.gr ga) (opdVal x b))))

/-- SEL: gd := ga if ps, else gb (R163). -/
def execSel (t : Th) (gd ga gb ps : Nat) (s : State) : Out :=
  .next (issueAt s t (.sel t gd ga gb ps) (stepTo t fun x => x.setG gd (if x.pr ps then x.gr ga else x.gr gb)))

/-- MOV: gd := ga (R163). -/
def execMov (t : Th) (gd ga : Nat) (s : State) : Out :=
  .next (issueAt s t (.mov t gd ga) (stepTo t fun x => x.setG gd (x.gr ga)))

/-- LI: gd := the immediate, sign-extended (R163). -/
def execLi (t : Th) (gd : Nat) (imm : BitVec 32) (s : State) : Out :=
  .next (issueAt s t (.li t gd imm) (stepTo t fun x => x.setG gd (imm.signExtend 64)))

/-- LIH: the upper half of gd := the immediate; the lower half stays (R163). -/
def execLih (t : Th) (gd : Nat) (imm : BitVec 32) (s : State) : Out :=
  .next (issueAt s t (.lih t gd imm) (stepTo t fun x =>
    x.setG gd (BitVec.ofNat 64 (imm.toNat * 2 ^ 32 + (x.gr gd).toNat % 2 ^ 32))))

/-! ### Control (R165–R167) -/

/-- Go on at `pc`. -/
def jumpTo (t : Th) (f : Thread → Thread) : State → Thread → Program → State := fun s x _ => s.setThr t (f x)

/-- BR (R165). -/
def execBr (t : Th) (off : BitVec 32) (s : State) : Out :=
  .next (issueAt s t (.br t off) (jumpTo t fun x => { x with pc := target x off }))

/-- BRP: taken when predicate ps equals sense (R165). -/
def execBrp (t : Th) (ps : Nat) (sense : Bool) (off : BitVec 32) (s : State) : Out :=
  .next (issueAt s t (.brp t ps sense off) (jumpTo t fun x =>
    if x.pr ps == sense then { x with pc := target x off } else x.next))

/-- CALL: the link goes to g[ga]; with ga = 0 it is discarded (R165). -/
def execCall (t : Th) (ga : Nat) (off : BitVec 32) (s : State) : Out :=
  .next (issueAt s t (.call t ga off) (jumpTo t fun x => { x.setG ga (x.pc + 8#64) with pc := target x off }))

/-- RET: pc := g[ga] (R165). -/
def execRet (t : Th) (ga : Nat) (s : State) : Out :=
  .next (issueAt s t (.ret t ga) (jumpTo t fun x => { x with pc := x.gr ga }))

/-- LOOP: g[ga] := g[ga] − 1, and branch while it is not 0 (R165). With ga = 0 the decrement is discarded and g0 reads
0, so the loop ends. -/
def execLoop (t : Th) (ga : Nat) (off : BitVec 32) (s : State) : Out :=
  .next (issueAt s t (.loop t ga off) (jumpTo t fun x =>
    let y := x.setG ga (x.gr ga - 1#64)
    if y.gr ga != 0#64 then { y with pc := target x off } else y.next))

/-- HALT (R167). -/
def execHalt (t : Th) (s : State) : Out :=
  .next (issueAt s t (.halt t) fun s _ _ => haltThread s t 0 0)

/-- Save a thread whose program is kept by a freeze, and free its slot (R166, R458). -/
def freezeThread (s : State) (t : Th) : State :=
  let x := s.thr t
  let z := smGet s.ho.frozen x.ctx {}
  let z := { z with threads := z.threads ++ [(t, { x with freeze := false })] }
  let s := match s.prog t with
    | some p => s.setProg { p with slots := p.slots.filter (· != t.slot) }
    | none => s
  State.setThr { s with ho := { s.ho with frozen := smSet s.ho.frozen x.ctx z } } t {}

/-- The pre-emption point of STEP and YIELD (R135, R166): a pending stop halts the thread, a pending freeze saves it. -/
def preempt (s : State) (t : Th) : State :=
  let x := s.thr t
  match x.stop with
  | some k => haltThread s t k 0
  | none => if x.freeze then freezeThread s t else s

/-- YIELD: a pre-emption point; otherwise, while another thread of the sequencer is Ready, that one issues next (R166). -/
def execYield (t : Th) (s : State) : Out :=
  .next (issueAt s t (.yield t) fun s x _ =>
    let u := preempt (s.setThr t x.next) t
    if x.stop.isNone && !x.freeze && otherReady s t then { u with sq := { u.sq with last := smPut 0 u.sq.last t.dom (x.live + 1) } }
    else u)

/-- STEP: counts STEPS and is a pre-emption point (R166). -/
def execStep (t : Th) (s : State) : Out :=
  .next (issueAt s t (.step t) fun s x _ => preempt (s.setThr t { x with steps := x.steps + 1 }.next) t)

/-- TRAP: FAULT_KIND 6 with the code as its operand (R136, R167). -/
def execTrap (t : Th) (code : Nat) (s : State) : Out :=
  .next (issueAt s t (.trap t code) fun s _ _ => faultThread s t 6 code)

/-- A word that is no instruction: FAULT_KIND 1 (R157). -/
def execUndefinedInstruction (t : Th) (w : Word) (s : State) : Out :=
  .next (issueWord s t (fun v => v == w.toNat && (ulDecode t v).isNone) fun s _ _ => faultThread s t 1)

/-! ### Descriptors (R172, R173) -/

/-- DSET: bits [lo + wid − 1:lo] of word w of dd := ga[wid − 1:0]; a wid of 0 means 64 (R172). -/
def execDset (t : Th) (dd w lo wid ga : Nat) (s : State) : Out :=
  .next (issueAt s t (.dset t dd w lo wid ga) (stepTo t fun x =>
    x.setD dd (dput (x.dr dd) w lo (if wid = 0 then 64 else wid) (x.gr ga).toNat)))

/-- Send a request to a sync unit and wait for it, Executing (R179). -/
def syncAsk (s : State) (t : Th) (x : Thread) (obj : Nat) (ctx : Option Nat) (op : SyncOp) : State :=
  if 4096 ≤ obj then faultThread s t 3
  else (s.setThr t { x with st := .executing, pend := .sync }).syncSend
    { req := t.dom, obj := obj, ctx := ctx, op := op, th := some (t, x.live) }

/-- LD, space 1: the count of sync object ga + off32; FAULT_KIND 2 in an unprivileged thread (R175). -/
def execLdSyncCount (t : Th) (gd ga : Nat) (off : BitVec 32) (s : State) : Out :=
  .next (issueAt s t (.ldSyncCount t gd ga off) fun s x _ =>
    if !x.priv then faultThread s t 2 else syncAsk s t x (effAddr x ga off) none (.read gd))

/-- LD, space 2: the failure latch, cleared by the read; an address other than 0 is undefined (R171). -/
def execLdFailureLatch (t : Th) (gd ga : Nat) (off : BitVec 32) (s : State) : Out :=
  .next (issueAt s t (.ldFailureLatch t gd ga off) fun s x _ =>
    if effAddr x ga off ≠ 0 then faultThread s t 1 else
    let v := x.latchTag % 2 ^ 32 + (x.latchCode % 256) * 2 ^ 32 + (x.latchCount % 2 ^ 24) * 2 ^ 40
    s.setThr t ({ x with latchCount := 0, latchCode := 0, latchTag := 0 }.setG gd (BitVec.ofNat 64 v)).next)

end Sys2Proof.Machine
end

