-- ==== Sys2Proof/Machine/UlentUnits.lean ====
section
/-! DEFINITION. The Ulent instructions that reach engines, sync units, ticks, completion queues and fences (R177–R186),
and the commands of the sequencers and sync units. The POST instructions and SIGR are in Machine/Post.lean. -/

namespace Sys2Proof.Machine

/-- The engine that ISSUE and ISSUEW name (R177). -/
def issueEng (x : Thread) (er : Bool) (ga eng : Nat) : Nat := if er then (x.gr ga).toNat % 64 else eng

/-- ISSUE (R177). -/
def execIssue (t : Th) (dd : Nat) (er : Bool) (ga eng : Nat) (s : State) : Out :=
  .next (issueAt s t (.issue t dd er ga eng) fun s x p =>
    issueDesc s t x p (copyDesc t x dd none (issueEng x er ga eng) 0#64 0#64 false))

/-- ISSUEW: the code of the descriptor goes to gd (R178). -/
def execIssuew (t : Th) (gd dd : Nat) (er : Bool) (ga eng : Nat) (s : State) : Out :=
  .next (issueAt s t (.issuew t gd dd er ga eng) fun s x p =>
    issueDesc s t x p (copyDesc t x dd (some gd) (issueEng x er ga eng) 0#64 0#64 false))

/-- The sync object that SIG, WAIT, WAITT and ARM name: ga + idx (R179). -/
def syncNum (x : Thread) (ga idx : Nat) : Nat := (x.gr ga + BitVec.ofNat 64 idx).toNat

/-- SIG: the amount is gb[31:0], 0 acting as 1 (R179). -/
def execSig (t : Th) (ga gb idx : Nat) (s : State) : Out :=
  .next (issueAt s t (.sig t ga gb idx) fun s x _ =>
    syncAsk s t x (syncNum x ga idx) (some x.ctx) (.signal (max 1 ((x.gr gb).toNat % 2 ^ 32))))

/-- WAIT (R179). -/
def execWait (t : Th) (ga gb idx : Nat) (s : State) : Out :=
  .next (issueAt s t (.wait t ga gb idx) fun s x _ =>
    syncAsk s t x (syncNum x ga idx) (some x.ctx) (.wait (x.gr gb)))

/-- WAITT (R140, R179). -/
def execWaitt (t : Th) (pd ga gb idx ticks : Nat) (s : State) : Out :=
  .next (issueAt s t (.waitt t pd ga gb idx ticks) fun s x _ =>
    syncAsk s t x (syncNum x ga idx) (some x.ctx) (.waitt (x.gr gb) ticks pd))

/-- ARM (R179). -/
def execArm (t : Th) (ga gb idx : Nat) (s : State) : Out :=
  .next (issueAt s t (.arm t ga gb idx) fun s x _ =>
    syncAsk s t x (syncNum x ga idx) (some x.ctx) (.arm (x.gr gb)))

/-- TWAIT: Parked until the next boundary, or on a marionette entry (R180). -/
def execTwait (t : Th) (mode : Bool) (entry : Nat) (s : State) : Out :=
  .next (issueAt s t (.twait t mode entry) fun s x _ =>
    s.setThr t { x with st := .parked, cause := 6, pend := .twait (if mode then some entry else none) })

/-- CQPOST: FAULT_KIND 3 for a queue the context does not own; the entry carries the code, the tag gb[31:0] and
bits [127:0] of dd. The thread is Waiting with WAIT_CAUSE 4 while the ring is full (R185, R448). Every earlier write of
the thread has gone out before it, so the implied FENCE.H waits for nothing (log entry 12). -/
def execCqpost (t : Th) (dd ga gb : Nat) (nf : Bool) (code : Nat) (s : State) : Out :=
  .next (issueAt s t (.cqpost t dd ga gb nf code) fun s x _ =>
    let cq := (x.gr ga).toNat % 65536
    if !s.ownsCq x.ctx cq then faultThread s t 3 else
    let s := s.setThr t { x with st := .waiting, cause := 4, pend := .cqpost }
    s.cqPost cq (cqEntry ((x.gr gb).toNat % 2 ^ 32) code 3 0 0 (toLE 16 (x.dr dd).toNat)) (some (thKey t, x.live)))

/-- What a fence waits for (R186). FENCE.H: every write the thread caused has left the adapter as it was made. -/
def fenceHolds (x : Thread) (k : Nat) : Bool :=
  match k with
  | 0 => x.outE == 0
  | 1 => x.outF == 0
  | _ => true

/-- A fence: it goes on at once where its condition holds, else the thread stays Executing. -/
def fenceBody (t : Th) (k : Nat) : State → Thread → Program → State := fun s x _ =>
  if fenceHolds x k then s.setThr t x.next else s.setThr t { x with st := .executing, pend := .fence k }

/-- FENCE.E (R186). -/
def execFenceE (t : Th) (s : State) : Out := .next (issueAt s t (.fenceE t) (fenceBody t 0))
/-- FENCE.F (R186). -/
def execFenceF (t : Th) (s : State) : Out := .next (issueAt s t (.fenceF t) (fenceBody t 1))
/-- FENCE.H (R186). -/
def execFenceH (t : Th) (s : State) : Out := .next (issueAt s t (.fenceH t) (fenceBody t 2))

/-- The condition of a waiting fence holds and the thread goes on (R186). -/
def execFenceConditionMet (t : Th) (s : State) : Out :=
  .next (inActive s fun s =>
    match (s.thr t).pend with
    | .fence k => if fenceHolds (s.thr t) k then s.resume t else s
    | _ => s)

/-- SEQ_STOP: a stop of each program that owns a set slot, FAULT_KIND 10 (R135, R153). -/
def execSeqStop (d : Nat) (slots : BitVec 8) (s : State) : Out :=
  .next (regCmd s false fun s =>
    if nDom s ≤ d then s.ignWrite else
    (bitList slots.toNat 8).foldl (fun s k =>
      match s.prog ⟨d, k⟩ with
      | some p => if (s.thr ⟨d, k⟩).st = .free then s else stopProgram s p 10
      | none => s) s)

/-- A WAITT timer expires (R140). -/
def execWaittTimeout (t : Th) (s : State) : Out := .next (inActive s fun s => waitTimeout s t)

end Sys2Proof.Machine
end

