-- ==== Sys2Proof/Machine/Launch.lean ====
section
/-! DEFINITION. Launching a program (R130–R134) and its admission against the tick (R104, R105). -/

namespace Sys2Proof.Machine

/-! ### Capacities (R15, R79, R104) -/

/-- Engine clock of a CLK_LEVEL in units of 0.1 GHz (R79). -/
def clkTenths (lvl : Nat) : Nat := match lvl with | 0 => 12 | 1 => 10 | 2 => 8 | _ => 6

/-- Capacity of a tick of `ns` at a level (R79). -/
def capacity (ns lvl : Nat) : Nat := ns * clkTenths lvl / 10

/-- Capacity of a tick at level 0 under the current TICK_LEN (R104). -/
def State.c0 (s : State) : Nat := capacity s.tickNs 0

/-- Peak width of an engine kind in bytes per cycle (R15). -/
def peakWidth (kind : Nat) : Nat := if kind = 3 || kind = 4 then 128 else 256

/-- The index of an engine's budget and of its ENG_SHARE byte: RE, TE, CE, OE, LE, ZE, QE. -/
def State.share (s : State) (ctx kind : Nat) : Nat :=
  let q := s.quota ctx
  let e := bits q (0x27 * 8 + 8 * kind) 8
  if e = 0xFF then bits q (0x26 * 8) 8 else e

/-- T_LIMIT_PCT; values above 90 act as 90 (R119). -/
def State.tLimit (s : State) : Nat := min 90 (s.get F.TICK_CTL_T_LIMIT_PCT)

/-- The cycles and bytes that admitted programs which meet `ok` hold on engine `e` (R104). -/
def admittedOn (s : State) (e : Nat) (ok : Program → Bool) : Nat × Nat :=
  s.sq.progs.foldl (fun acc x =>
    let p := x.2
    if bit p.engines e && ok p then
      let b := budgetOf p (engKind s e)
      (acc.1 + b.1, acc.2 + b.2)
    else acc) (0, 0)

/-- R105: may the launch be admitted? -/
def admissible (s : State) (p : Program) : Bool :=
  (bitList p.engines 64).all fun e =>
    let kind := engKind s e
    let b := budgetOf p kind
    let c0 := s.c0
    let w := peakWidth kind * c0
    let own := admittedOn s e fun q => q.ctx == p.ctx
    let ts := admittedOn s e fun q => q.tickSched
    e < nEng s && !s.engFenced e && b.1 ≤ c0 && b.2 ≤ w
      && 100 * (own.1 + b.1) ≤ s.share p.ctx kind * c0 && 100 * (own.2 + b.2) ≤ s.share p.ctx kind * w
      && (!p.tickSched || 100 * (ts.1 + b.1) ≤ s.tLimit * c0)

/-! ### The image header (R130) -/

/-- The header's fields as a program (slots, number and tracker entry still open), its entries and thread count; none
for a field that is not as R130 gives. -/
def parseHeader (h : List Byte) (r : LaunchReq) (no : Nat) : Option Launch :=
  let codeOff := fieldLE h 8 4
  let codeSize := fieldLE h 12 4
  let flags := fieldLE h 16 4
  let threads := fieldLE h 0x14 1
  let syncCount := fieldLE h 0x16 2
  let priv := bit flags 1
  let entries := (List.range 8).map fun k => fieldLE h (0x40 + 4 * k) 4
  let zero (o n : Nat) : Bool := fieldLE h o n == 0
  if fieldLE h 0 4 = 0x544E4C55 && fieldLE h 4 2 = 1 && fieldLE h 6 2 = 256
      && codeOff % 8 = 0 && 256 ≤ codeOff && codeSize % 8 = 0 && 8 ≤ codeSize && codeSize ≤ 0x800000
      && flags < 8 && (!bit flags 2 || (bit flags 0 && 1 ≤ syncCount))
      && 1 ≤ threads && threads ≤ 8 && zero 0x15 1 && syncCount ≤ 4096 && zero 0x20 32
      && ((entries.take threads).all fun e => e % 8 == 0 && e < codeSize)
      && fieldLE h 0x98 4 = (if priv then codeOff + codeSize else 0)
      && fieldLE h 0x9C 4 = (if priv then 29792 else 0)
      && (if priv then fieldLE h 0xA0 1 ≤ 3 else zero 0xA0 1) && zero 0xA1 95 then
    some {
      r := r, threads := threads, entries := entries.take threads, sigKey := fieldLE h 0xA0 1,
      p := {
        dom := r.dom, num := 0, ctx := r.ctx, image := r.image, codeOff := codeOff, codeSize := codeSize,
        tickSched := bit flags 0, priv := priv, lateSig := bit flags 2, syncBase := r.syncBase,
        syncCount := syncCount, engines := fieldLE h 0x18 8,
        budget := (List.range 7).map fun k => (fieldLE h (0x60 + 8 * k) 4, fieldLE h (0x64 + 8 * k) 4),
        cq := r.cq, tag := r.tag, slots := [], no := no } }
  else none

/-- A launch that never becomes a program: one entry with its code and NOT_STARTED (R137). -/
def refuseLaunch (s : State) (r : LaunchReq) (no code : Nat) : State :=
  let s := if code = 0x61 then s.count (F.SEQ_OVERRUNS r.dom) else s
  s.cqOwnPost r.ctx r.cq (cqEntry r.tag code 2 (65536 * r.dom) 0 [0#8, 0#8, 0#8, 0#8, 0x80#8]) no

/-- Step 6: the sync range is the context's, and none of it is pending reclaim (R133, R455). -/
def syncRangeOwned (s : State) (p : Program) : Bool :=
  (List.range p.syncCount).all fun i =>
    s.ownsSync p.ctx (p.syncBase + i) && smGet s.ho.owned (p.syncBase + i) 256 == 256

/-- Steps 6 and 7: the sync range, then the domain's launch queue. -/
def queueLaunch (s : State) (l : Launch) : State :=
  if syncRangeOwned s l.p then { s with sq := { s.sq with lq := s.sq.lq ++ [l] } }
  else refuseLaunch s l.r l.p.no 0x10

/-- Read image bytes for a launch: one segment with the read and execute rights, each tile checked (R133). -/
def readImage (s : State) (r : LaunchReq) (no n : Nat) : State × Nat × List Byte :=
  match translate s .fetch (rRead + rExec) r.ctx no r.image n with
  | .mem a => memRead s (64 + r.dom) a n
  | _ => (s, 0x20, [])

/-- Bytes from the header to the end of the image. -/
def imageSize (p : Program) : Nat := p.codeOff + p.codeSize + (if p.priv then 29792 else 0)

/-- A launch request through steps 1 to 7 of R133. -/
def launchReq (s : State) (r : LaunchReq) (no : Nat) : State :=
  if nDom s ≤ r.dom || s.domFenced r.dom then refuseLaunch s r no 0x7F
  else if r.image % 8 ≠ 0 then refuseLaunch s r no 0x20
  else
    match readImage s r no 256 with
    | (s, 0, h) =>
      match parseHeader h r no with
      | none => refuseLaunch s r no 0x20
      | some l =>
        match translate s .fetch (rRead + rExec) r.ctx no r.image (imageSize l.p) with
        | .mem _ =>
          if l.p.priv then
            if r.ctx ≠ 0 then refuseLaunch s r no 0x20
            else { s with sq := { s.sq with sigWait := s.sq.sigWait ++ [l] } }
          else queueLaunch s l
        | _ => refuseLaunch s r no 0x20
    | (s, c, _) => refuseLaunch s r no c

/-- A launch request, or its holding while new work is held (R69), its context is frozen (R458) or the control complex has stopped (R29). -/
def launchOrHold (s : State) (r : LaunchReq) (no : Nat) : State :=
  match smFind s.ho.frozen r.ctx with
  | some z => { s with ho := { s.ho with frozen := smSet s.ho.frozen r.ctx { z with launches := z.launches ++ [(r, no)] } } }
  | none =>
    if workHeld s || !ctrlOn s then { s with pw := { s.pw with launches := s.pw.launches ++ [(r, no)] } }
    else launchReq s r no

/-- Launches in a domain's queue (R133), with those that are held back from it or whose signature is being verified. -/
def queued (s : State) (d : Nat) : Nat :=
  (s.sq.lq.filter fun l => l.r.dom == d).length + (s.sq.sigWait.filter fun l => l.r.dom == d).length
    + (s.pw.launches.filter fun l => l.1.dom == d).length

/-- The oldest launch of a domain in a list, and the rest. -/
def takeLaunch (d : Nat) : List Launch → Option (Launch × List Launch)
  | [] => none
  | a :: as => if a.r.dom = d then some (a, as) else (takeLaunch d as).map fun x => (x.1, a :: x.2)

/-- Free slots of a domain that no launch due for admission will take. -/
def freeSlots (s : State) (d : Nat) : Nat :=
  ((List.range 8).filter fun k => (s.thr ⟨d, k⟩).st == .free).length
    - ((s.sq.due.filter fun l => l.r.dom == d).map (·.threads)).sum

/-- LAUNCH_SLOTS_FREE: the head of the domain's launch queue finds its slots and goes to admission (R133 step 7). -/
def execLaunchSlotsFree (dom : Nat) (s : State) : Out :=
  .next (inActive s fun s =>
    match takeLaunch dom s.sq.lq with
    | none => s
    | some (l, rest) =>
      if l.threads ≤ freeSlots s dom then { s with sq := { s.sq with lq := rest, due := s.sq.due ++ [l] } } else s)

/-- Arm a sync range to 0 (R133 step 9, R455). That the counts are set in the boundary step itself, each counted as one operation of its unit and
none queued there as a request of the control complex, is DESIGN CHOICE (log entry 21): R25 names no requester for these arms. -/
def armRange (s : State) (base : Nat) : (n : Nat) → State
  | 0 => s
  | n + 1 =>
    armRange (countChanged ((s.setCount base 0).count (F.SYNC_OPS (syncDom (syncOwner s base)))) base) (base + 1) n

/-- The thread of index `k` at its start (R125). -/
def startThread (l : Launch) (num k live : Nat) : Thread :=
  let g0 : SMap Word := []
  let args := (List.range 4).foldl (fun g i => smPut 0#64 g (i + 1) (l.r.args.getD i 0#64)) g0
  let g := smPut 0#64 (smPut 0#64 args 5 (BitVec.ofNat 64 k)) 6 (BitVec.ofNat 64 l.r.syncBase)
  { st := .ready, g := g, pc := BitVec.ofNat 64 (l.entries.getD k 0), ctx := l.r.ctx, priv := l.p.priv, idx := k,
    prog := num, live := live }

/-- Step 9 of R133: the program takes the domain's admission count, its threads start in the lowest free slots. -/
def startProgram (s : State) (l : Launch) : State :=
  let d := l.r.dom
  let num := smGet s.sq.admitted d 0
  let slots := ((List.range 8).filter fun k => (s.thr ⟨d, k⟩).st == .free).take l.threads
  let s := if l.r.zeroSync then armRange s l.r.syncBase l.p.syncCount else s
  let s := { s with sq := { s.sq with admitted := smPut 0 s.sq.admitted d ((num + 1) % 65536) } }
  let s := (s.setProg { l.p with num := num, slots := slots }).count (F.SEQ_LAUNCHES d)
  (List.range l.threads).foldl (fun s k =>
    let s := s.setThr ⟨d, slots.getD k 0⟩ (startThread l num k (s.sq.starts + 1))
    { s with sq := { s.sq with starts := s.sq.starts + 1 } }) s

/-- A launch takes its place by its tracker number, in which launches arrive. -/
def insertLaunch (l : Launch) : List Launch → List Launch
  | [] => [l]
  | m :: ms => if l.p.no ≤ m.p.no then l :: m :: ms else m :: insertLaunch l ms

/-- Admission at a boundary, in the order in which the launches arrived (R105). -/
def admitAll (s : State) : List Launch → State
  | [] => s
  | l :: ls =>
    admitAll (
      if s.domFenced l.r.dom then refuseLaunch s l.r l.p.no 0x7F
      else if admissible s l.p then startProgram s l
      else refuseLaunch s l.r l.p.no 0x61) ls

def admitDue (s : State) : State := admitAll { s with sq := { s.sq with due := [] } } (s.sq.due.foldr insertLaunch [])

end Sys2Proof.Machine
end

