-- ==== Sys2Proof/Machine/Access.lean ====
section
/-! DEFINITION. Register writes (R8, R10, R516, R517): which slots the variant has, what a word write stores, and the values
in effect of registers whose writes wait for the next tick boundary. -/

namespace Sys2Proof.Machine

/-- Is the unit of a register slot present on the variant (R2, R517)? -/
def slotPresent (s : State) (off : Nat) : Bool :=
  if 0x100000 ≤ off && off < 0x200000 then (off - 0x100000) / 0x10000 < nDom s
  else if 0x200000 ≤ off && off < 0x280000 then portPresent s ((off - 0x200000) / 0x4000)
  else if 0x10100 ≤ off && off < 0x10400 then
    let src := off % 0x100 / 4
    if src < 32 then true else if src < 48 then src - 32 < nDom s else src - 48 < nStack s
  else if 0x301000 ≤ off && off < 0x302000 then (off - 0x301000) / 0x100 < nStack s
  else if 0x302000 ≤ off && off < 0x303000 then (off - 0x302000) / 0x100 < nDom s
  else if 0x610A00 ≤ off && off < 0x610A40 then portPresent s (16 + (off - 0x610A00) / 4)
  else true

/-- Store a word: RW bits take it, RO, WO and SQC bits stay, RWK bits take it and a change of one is counted (R8, R517). -/
def storeWord (s : State) (r : RegRow) (off v : Nat) : State :=
  let old := s.reg off
  let take := r.rw ||| r.rwk
  let s := if (old ^^^ v) &&& r.rwk = 0 then s else s.count F.REG_RWK_CHANGED
  s.setReg off ((old ^^^ (old &&& take)) ||| (v &&& take))

/-- A word write where the block answers; ignored and counted where there is no register (R517). -/
def writeWord (s : State) (off v : Nat) : State :=
  match regRow off with
  | some (r, _, _) => if slotPresent s off then storeWord s r off v else s.ignWrite
  | none => s.ignWrite

/-- Keep the value in effect of a register that is about to be written, until the next boundary. -/
def State.keepLate (s : State) (off : Nat) : State :=
  match smFind s.late off with
  | some _ => s
  | none => { s with late := smSet s.late off (BitVec.ofNat 32 (s.reg off)) }

/-- A word write that takes effect at the next tick boundary. -/
def writeLate (s : State) (off v : Nat) : State := writeWord (s.keepLate off) off v

/-- A field as it is in effect. -/
def State.getL (s : State) (f : RF) : Nat :=
  match smFind s.late f.off with
  | some v => bits v.toNat f.lo f.wid
  | none => s.get f

/-- Add to a 64-bit counter, by the field of its low half. -/
def State.count64 (s : State) (lo : RF) (n : Nat) : State := s.count { lo with wid := 64 } n

end Sys2Proof.Machine
end

