-- ==== Sys2Proof/Machine/Pauses.lean ====
section
/-! DEFINITION. Ports: their links, their egress buffers, and the pauses that buffered bytes cause (R364, R365). -/

namespace Sys2Proof.Machine

def State.port (s : State) (n : Nat) : Port := smGet s.fb.ports n {}
def State.setPort (s : State) (n : Nat) (p : Port) : State := { s with fb := { s.fb with ports := smSet s.fb.ports n p } }

def State.linkUp (s : State) (n : Nat) : Bool := s.flag (F.PORT_STATUS_LINK n)

def State.bay (s : State) (m : Nat) : Bay := smGet s.fb.bays m {}
def State.setBay (s : State) (m : Nat) (b : Bay) : State := { s with fb := { s.fb with bays := smSet s.fb.bays m b } }

/-- Is the port kept from starting a frame, of any kind, by a quiesce of its bay (R427)? -/
def quiesced (s : State) (n : Nat) : Bool := n < 16 && (s.bay (n / 2)).quiescing

/-! ### What a port sends of its own (R410, R415, R416) -/

/-- A frame of `len` bytes has been sent (R433). -/
def countTx (s : State) (n len : Nat) : State := (s.count (F.MAC_TX_FRAMES n)).count64 (F.MAC_TX_BYTES_LO n) len

/-- A per-class pause frame leaves. -/
def sendCtl (s : State) (n enable time : Nat) : State := countTx (s.emit (.pause n enable time)) n 64

/-- The port sends a per-class pause: at the next frame boundary, which is now where no frame is in transmission or, in Safe, none is
sent. -/
def ctlSend (s : State) (n enable time : Nat) : State :=
  if !s.linkUp n || quiesced s n then s
  else if (s.port n).cut.isSome && s.pst != 5 then s.setPort n { s.port n with ctl := (s.port n).ctl ++ [(enable, time)] }
  else sendCtl s n enable time

/-! ### The buffer (R364) -/

def bufferSize : Nat := 0x200000

def Port.cls (p : Port) (c : Nat) : List Frame := smGet p.q c []
def Port.setCls (p : Port) (c : Nat) (fs : List Frame) : Port := { p with q := smPut [] p.q c fs }
def framesLen (fs : List Frame) : Nat := (fs.map (·.len)).sum
def Port.buffered (p : Port) : Nat := (p.q.map fun e => framesLen e.2).sum

/-- Bytes buffered at every egress that arrived on ingress `i` in class `c` (R365). -/
def fromIngress (s : State) (i c : Nat) : Nat :=
  (s.fb.ports.map fun e => framesLen ((e.2.cls c).filter fun f => f.ingress == i)).sum

def xoffBytes (s : State) (i : Nat) : Nat := 1024 * s.get (F.FAB_PFC_XOFF_KIB i)
def xonBytes (s : State) (i : Nat) : Nat :=
  let off := s.get (F.FAB_PFC_XOFF_KIB i)
  let on := s.get (F.FAB_PFC_XON_KIB i)
  if off ≤ on then 512 * off else 1024 * on

/-- Send a per-class pause for class `c` on port `i`. -/
def sendPfc (s : State) (i c time : Nat) : State :=
  if s.linkUp i then (ctlSend s i (2 ^ c) time).count (F.FAB_PFC_SENT i) else s

/-- The count of ingress `i` and class `c` has risen: pause above XOFF (R365). -/
def pfcRise (s : State) (i c : Nat) : State :=
  if 32 ≤ i then s else
  let p := s.port i
  if bit (s.get (F.FAB_PFC_EN i)) c && !bit p.xoff c && xoffBytes s i < fromIngress s i c then
    sendPfc (s.setPort i { p with xoff := putBit p.xoff c true }) i c 0xFFFF
  else s

/-- It has fallen: a pause with time 0 below XON. -/
def pfcFall (s : State) (i c : Nat) : State :=
  if 32 ≤ i then s else
  let p := s.port i
  if bit p.xoff c && fromIngress s i c < xonBytes s i then
    sendPfc (s.setPort i { p with xoff := putBit p.xoff c false }) i c 0
  else s

end Sys2Proof.Machine
end

