-- ==== Sys2Proof/Machine/Ptp.lean ====
section
/-! DEFINITION. LOCK, the time base value between boundaries, and the best master clock algorithm (R95–R100). -/

namespace Sys2Proof.Machine

/-- LOCK changes to `v`; a change advances SEQ (R99). From the first lock after Bring-up on, TICK_OUT is driven (R47). -/
def State.setLock (s : State) (v : Nat) : State :=
  if s.get F.TIME_STATUS_LOCK = v then s
  else State.bump (State.set { s with tk := { s.tk with locked := s.tk.locked || v == 2 } } F.TIME_STATUS_LOCK v) F.TIME_STATUS_SEQ

/-- The parent is lost: holdover, unless the time base was never following one (R99). -/
def State.holdover (s : State) : State := if s.get F.TIME_STATUS_LOCK = 0 then s else s.setLock 3

/-- The time base takes the value `ns` and some fraction, a free value (R95). -/
def State.setNs (s : State) (ns : Nat) : State :=
  let (v, s) := s.fresh
  { s with tk := { s.tk with ns := ns, frac := v.truncate 16 } }

/-- The time base shows `ns`, which lies between what it showed last and the next boundary. -/
def State.seeNs (s : State) (ns : Nat) : State :=
  if s.tk.ns < ns && ns < s.boundaryNs s.nextNum then s.setNs ns else s

/-! ### The best master clock algorithm (R96; PRESUMED, log entry 16: IEEE 1588-2019's default algorithm, which the spec names) -/

/-- The adapter advertises itself only when GM_CAPABLE is 1 and PPS_MODE is 2 (R100). -/
def gmCandidate (s : State) : Bool := s.flag F.TIME_CTL_GM_CAPABLE && s.get F.TIME_CTL_PPS_MODE == 2

/-- The adapter's own clock: clockClass 6 while PPS edges arrive, else 7 (R100). That it is 7 before the first edge has arrived, as in
holdover, is DESIGN CHOICE (log entry 16). -/
def ownDataset (s : State) : Dataset :=
  { priority1 := s.get F.TIME_CTL_PRIORITY1, clockClass := if s.tk.ppsOn then 6 else 7,
    accuracy := Config.clockAccuracy.toNat, variance := Config.clockVariance.toNat, priority2 := Config.clockPriority2.toNat,
    gm := Config.clockIdentity, steps := 0, sender := Config.clockIdentity }

/-- Lexicographic order. -/
def lexLt : List Nat → List Nat → Bool
  | a :: as, b :: bs => a < b || (a == b && lexLt as bs)
  | _, _ => false

/-- Is the clock announced on port `p` better than the one on port `q`? The lower values win; of one grandmaster, the fewer steps, then the
sender, then the port. -/
def clockBetter (a : Dataset) (p : Nat) (b : Dataset) (q : Nat) : Bool :=
  let key (d : Dataset) : List Nat := [d.priority1, d.clockClass, d.accuracy, d.variance, d.priority2, d.gm.toNat]
  if a.gm = b.gm then lexLt [a.steps, a.sender.toNat, p] [b.steps, b.sender.toNat, q] else lexLt (key a) (key b)

/-- The best of the clocks announced on the fabric ports, with its port. -/
def bestForeign : SMap Dataset → Option (Nat × Dataset)
  | [] => none
  | e :: es => match bestForeign es with
    | none => some e
    | some f => if clockBetter f.2 f.1 e.2 e.1 then some f else some e

/-- A decision (R96, R120): a grandmaster candidate, whose class lies in 1 to 127, is grandmaster where no better clock is announced, and
takes no parent; any other adapter takes the port of the best clock as its parent. -/
def bmca (s : State) : State :=
  let best := bestForeign s.tk.foreign
  let own := ownDataset s
  let gm := gmCandidate s && (match best with | none => true | some e => clockBetter own 32 e.2 e.1)
  let parent := if gmCandidate s then 31 else (match best with | none => 31 | some e => e.1)
  let s := if parent = s.get F.TIME_STATUS_PARENT then s else { s with tk := { s.tk with goodSync := 0 } }
  (s.set F.TIME_STATUS_GM (b2n gm)).set F.TIME_STATUS_PARENT parent

/-- What the port's neighbour has announced is forgotten. -/
def forgetForeign (s : State) (p : Nat) : State :=
  if (smFind s.tk.foreign p).isSome then bmca { s with tk := { s.tk with foreign := smDel s.tk.foreign p } } else s

/-- Is port `p` a master, and not the slave or passive (R96)? -/
def portMaster (s : State) (p : Nat) : Bool :=
  match smFind s.tk.foreign p with
  | none => true
  | some e =>
    if gmCandidate s then clockBetter (ownDataset s) 32 e p
    else
      match bestForeign s.tk.foreign with
      | none => true
      | some (q, b) => p != q && !(b.gm == e.gm
          && (b.steps == e.steps || (b.steps + 1 == e.steps && e.sender.toNat < Config.clockIdentity.toNat)))

/-- The clock that the adapter announces: its parent's, one step further, or its own where it is a candidate. -/
def announced (s : State) : Option Dataset :=
  if gmCandidate s then some (ownDataset s)
  else (bestForeign s.tk.foreign).map fun e => { e.2 with steps := e.2.steps + 1, sender := Config.clockIdentity }

end Sys2Proof.Machine
end

