-- ==== Sys2Proof/Machine/Fences.lean ====
section
/-! DEFINITION. The fault collector's events and reactions, what a fence does to each kind of unit, links that go down,
cartridge life areas, and entry into Safe (R498–R513, R409, R422, R24, R147, R78). -/

namespace Sys2Proof.Machine

/-! ### Links (R409) -/

/-- The MAC source address of frames that egress `e` of endpoint `ep` sends (R318, R362). -/
def macSource (ep e : Nat) : BitVec 48 := BitVec.ofNat 48 (0x0253 * 2 ^ 32 + ep * 2 ^ 12 + e * 2 ^ 7)

/-- A port ends a frame, with a good or a bad FCS. -/
def sendFrame (s : State) (n : Nat) (p : Packet) (good : Bool) : State :=
  s.emit (.frame n p (macSource (s.get F.TRN_ID_ENDPOINT) n) good)

/-- A frame is cut short: how many of its bytes were sent is timing, a free value. -/
def sendCut (s : State) (n : Nat) (f : Frame) : State :=
  let s := sendFrame s n f.pkt false
  let (v, s) := s.fresh
  countTx s n (v.toNat % (f.len + 1))

/-- Frames that a port holds, in every class. -/
def queuedFrames (p : Port) : Nat := (p.q.map fun e => e.2.length).sum

/-- A port's link goes down (R409): the frame in progress ends with a bad FCS, the queued frames are discarded, SEQ
advances with LAST 1; a parent on the port is lost (R99). Pauses, sent or received, end with the link; an ingress whose buffered bytes
fall with the queues ends its own (R365). -/
def linkGoesDown (s : State) (n : Nat) : State :=
  if !s.linkUp n then s else
  let p := s.port n
  let s := match p.cut with | some f => sendCut s n f | none => s
  let s := s.count (F.MAC_TX_DISCARD n) (queuedFrames p)
  let s := s.setPort n { p with cut := none, q := [], ptp := [], ctl := [], pfc := 0, llp := 0, xoff := 0, held := 0 }
  let s := (p.q.flatMap fun e => e.2).foldl (fun s f => pfcFall s f.ingress f.cls) s
  let s := ((s.set (F.MAC_PAUSE_STATE_PAUSED n) 0).set (F.MAC_PAUSE_STATE_LLP n) 0).set (F.MAC_PAUSE_STATE_WD_BROKEN n) 0
  let s := ((s.set (F.PORT_STATUS_LINK n) 0).set (F.PORT_STATUS_LAST n) 1).bump (F.PORT_STATUS_SEQ n)
  let s := s.count (F.LINK_DOWNS n)
  let s := if n < 16 && s.get F.TIME_STATUS_PARENT = n then s.holdover else s
  forgetForeign s n

/-! ### Life areas (R422) -/

def lifeSeq (l : List Byte) : Nat := fieldLE l 0 4
def lifePowered (l : List Byte) : Nat := fieldLE l 4 4
def lifeWeighted (l : List Byte) : Nat := fieldLE l 8 4

/-- Is a copy valid: does it end in the CRC-64 of its first 24 bytes? -/
def lifeOk (l : List Byte) : Bool := fieldLE l 24 8 == (crc64 (slice l 0 24)).toNat

/-- Is copy `a` newer than copy `b`: the higher SEQ, modulo 2^32? -/
def newerLife (a b : List Byte) : Bool := (lifeSeq a + 2 ^ 32 - lifeSeq b) % 2 ^ 32 < 2 ^ 31

/-- The valid copy with the higher SEQ; none: the cartridge starts from zeros. -/
def currentLife (c : Cartridge) : Option (List Byte) :=
  if lifeOk c.lifeA && lifeOk c.lifeB then (if newerLife c.lifeA c.lifeB then some c.lifeA else some c.lifeB)
  else if lifeOk c.lifeA then some c.lifeA
  else if lifeOk c.lifeB then some c.lifeB
  else none

/-- A copy of the life area. -/
def lifeCopy (seq powered weighted remain : Nat) : List Byte :=
  let b := toLE 4 seq ++ toLE 4 powered ++ toLE 4 weighted ++ toLE 4 remain ++ List.replicate 8 0#8
  b ++ toLE 8 (crc64 b).toNat

/-- Write the life area: the older copy, with SEQ one above the newer copy's. -/
def writeLife (s : State) (m : Nat) : State :=
  let b := s.bay m
  match b.cart with
  | none => s
  | some c =>
    let seq := match currentLife c with | some l => (lifeSeq l + 1) % 2 ^ 32 | none => 1
    let l := lifeCopy seq (s.reg (F.LB_POWERED_MIN m).off) (s.reg (F.LB_WEIGHTED m).off) (s.reg (F.LB_REMAIN_MIN m).off)
    let toA := !lifeOk c.lifeA || (lifeOk c.lifeB && !newerLife c.lifeA c.lifeB)
    s.setBay m { b with cart := some (if toA then { c with lifeA := l } else { c with lifeB := l }), minutes := 0 }

/-! ### What each fence does (R505) -/

/-- The I/O die of a port (R26). -/
def dieOf (n : Nat) : Nat := n % 8 / 2

/-- The ports of an I/O die that are present (R26). -/
def diePorts (s : State) (i : Nat) : List Nat := (List.range 32).filter fun n => dieOf n == i && portPresent s n

/-- Every descriptor at an engine completes with a code (R147). -/
def endAll (s : State) (e code : Nat) : State :=
  let g := s.engine e
  let runs := (match g.run with | some r => [r] | none => []) ++ g.aside ++ g.remainder ++ g.incoming
  let s := s.setEngine e { g with input := [], stuck := [], queue := [], run := none, aside := [], remainder := [], incoming := [] }
  let s := runs.foldl (fun s r => finishRun s r code) s
  showParked ((g.input ++ g.queue).foldl (fun s d => finishNone s d code) s) e

/-- Set the fenced bit of an engine. -/
def markEngFenced (s : State) (e : Nat) (v : Bool) : State :=
  if e < 32 then s.setReg F.FCOL_FENCED_ENG_LO.off (putBit (s.reg F.FCOL_FENCED_ENG_LO.off) e v)
  else s.setReg F.FCOL_FENCED_ENG_HI.off (putBit (s.reg F.FCOL_FENCED_ENG_HI.off) (e - 32) v)

def fenceEngine (s : State) (e : Nat) : State :=
  if s.engFenced e then s else endAll (markEngFenced s e true) e 0x7F

def fencePort (s : State) (n : Nat) : State :=
  if s.portFenced n then s
  else linkGoesDown (s.setReg F.FCOL_FENCED_PORT.off (putBit (s.reg F.FCOL_FENCED_PORT.off) n true)) n

/-- Drop what a domain's threads wait for at the sync units. -/
def dropWaiters (s : State) (d : Nat) : State :=
  { s with sy := { s.sy with waiters := s.sy.waiters.filter fun w => w.th.dom != d } }

/-- A fenced domain: its engines, then its programs and queued launches complete with UNIT_FENCED (R505). -/
def fenceDomain (s : State) (d : Nat) : State :=
  if s.domFenced d then s else
  let s := s.set F.FCOL_FENCED_DOM_DOMAINS (putBit (s.get F.FCOL_FENCED_DOM_DOMAINS) d true)
  let s := (List.range 4).foldl (fun s k => fenceEngine s (4 * d + k)) s
  let ps := (s.sq.progs.filter fun e => e.2.dom == d).map (·.2)
  let s := ps.foldl (fun s p => completeProgram s p [] 0x7F 0 0) (dropWaiters s d)
  let mine (l : Launch) : Bool := l.r.dom == d
  let ls := s.sq.sigWait.filter mine ++ s.sq.due.filter mine ++ s.sq.lq.filter mine
  let s := { s with sq := { s.sq with
    sigWait := s.sq.sigWait.filter fun l => !mine l,
    due := s.sq.due.filter fun l => !mine l,
    lq := s.sq.lq.filter fun l => !mine l } }
  ls.foldl (fun s l => refuseLaunch s l.r l.p.no 0x7F) s

/-- A fenced stack: its accesses fail (R24), and every sequencer drops its tiles from the instruction cache (R128). -/
def fenceStack (s : State) (k : Nat) : State :=
  let s := s.set F.MEM_FENCED_STACKS (putBit (s.get F.MEM_FENCED_STACKS) k true)
  { s with sq := { s.sq with icache := smDrop (fun i => stackOf s.variant (i / 16 * 2048) == k) s.sq.icache } }

def fenceDie (s : State) (i : Nat) : State :=
  if bit s.fc.ioDies i then s else
  (diePorts s i).foldl fencePort { s with fc := { s.fc with ioDies := putBit s.fc.ioDies i true } }

/-- A fenced bay (R429): lasers off, both ports down and fenced, the life area written. -/
def fenceBay (s : State) (m : Nat) : State :=
  if s.bayFenced m then s else
  let s := s.set F.FCOL_FENCED_DOM_BAYS (putBit (s.get F.FCOL_FENCED_DOM_BAYS) m true)
  let s := fencePort (fencePort s (2 * m)) (2 * m + 1)
  let lasing := s.get (F.LB_STATUS_STATE m) == 2
  let s := if lasing then writeLife s m else s
  let s := s.setBay m { s.bay m with quiescing := false }
  (s.set (F.LB_STATUS_STATE m) 5).setReg (F.LB_OUTPUT m).off 0

def fenceUnit (s : State) (u : FUnit) : State :=
  let s := { s with fc := { s.fc with degraded := true } }
  match u with
  | .engine e => fenceEngine s e
  | .domain d => fenceDomain s d
  | .port n => fencePort s n
  | .ioDie i => fenceDie s i
  | .stack k => fenceStack s k
  | .bay m => fenceBay s m

/-! ### Safe (R60, R78, R507) -/

/-- A host port reports an Uncorrectable Internal Error, and sends ERR_FATAL where its link is up (R78). -/
def hostError (s : State) (h : Nat) : State :=
  let s := { s with ho := { s.ho with aer := putBit s.ho.aer h true } }
  if s.hostUp h then s.emit (.errFatal h) else s

/-- The adapter enters Safe: SAFE_N goes low (R51), every port whose link is up sends a per-class pause for all classes (R416), and the
host ports report the error. A halted Bring-up does not leave its halt (R65). -/
def enterSafe (s : State) (src : Nat) : State :=
  if (s.pst = 2 && !s.pw.halt) || s.pst = 3 || s.pst = 4 then
    let s := (s.set F.PWR_STATE_STATE 5).set F.FCOL_SAFE_CAUSE_SOURCE src
    let s := s.set F.FCOL_SAFE_CAUSE_VALID 1
    let s := State.emit { s with pw := { s.pw with sref := true } } (.safeN true)
    let s := (List.range 32).foldl (fun s n => ctlSend s n 0xFF 0xFFFF) s
    (List.range 4).foldl hostError s
  else s

/-! ### Events (R498, R500, R501, R503, R509) -/

/-- The number of units that a source may name on this variant; none where its events name no unit. Sources 32 to 63
have one unit each, 13 the bits of R113, 22 the ports. -/
def unitInRange (s : State) (src unit : Nat) : Bool :=
  if src = 5 then unit < nSync s
  else if src = 10 || src = 20 then unit < nDom s
  else if src = 11 then unit < 8
  else if src = 12 then unit < 16 && portPresent s unit
  else if src = 13 then (unit < nDom s || (16 ≤ unit && unit < 16 + nSync s) || (20 ≤ unit && unit < 30))
  else if src = 14 || src = 15 || src = 23 then unit < 4
  else if 16 ≤ src && src ≤ 19 then unit < nEng s
  else if src = 21 then unit < nStack s
  else if src = 22 then unit < 32 && portPresent s unit
  else if src = 24 || src = 25 then unit < nBay s
  else if 32 ≤ src && src < 48 then unit == src - 32 && unit < nDom s
  else if 48 ≤ src && src < 64 then unit == src - 48 && unit < nStack s
  else true

/-- Does the source's Unit column name units (R498)? -/
def hasUnit (src : Nat) : Bool :=
  src == 5 || (10 ≤ src && src ≤ 25) || 32 ≤ src

/-- May the source be raised: not reserved, and naming a unit of the variant (R500)? -/
def eventValid (s : State) (src unit : Nat) : Bool := src < 64 && !(27 ≤ src && src ≤ 31) && unitInRange s src unit

/-- The unit that a source's event concerns, as a fence takes it (R503, R505). -/
def fenceTarget (src unit : Nat) : Option FUnit :=
  if src = 13 then
    (if unit < 16 then some (.domain unit) else if 22 ≤ unit && unit ≤ 25 then some (.ioDie (unit - 22)) else none)
  else if 16 ≤ src && src ≤ 19 then some (.engine unit)
  else if src = 20 then some (.domain unit)
  else if src = 21 then some (.stack unit)
  else if src = 22 then some (.port unit)
  else if src = 23 then some (.ioDie unit)
  else if src = 24 || src = 25 then some (.bay unit)
  else if 32 ≤ src && src < 48 then some (.domain (src - 32))
  else if 48 ≤ src then some (.stack (src - 48))
  else none

/-- STRIKE of the engine that a self-check mismatch names (R213, R467). -/
def strikeField (src unit : Nat) : RF :=
  if src = 16 then F.RED_STATUS_STRIKE (unit / 4) else F.CE_STATUS_STRIKE (unit / 4)

/-- Apply a reaction: 0 report, 1 fence, 2 safe (R503–R507). In Safe no further reaction is applied. -/
def react (s : State) (src unit : Nat) : State :=
  if s.pst = 5 then s
  else if src = 0 || src = 1 then enterSafe s src
  else if src = 13 then (match fenceTarget src unit with | some u => fenceUnit s u | none => enterSafe s src)
  else
    match s.get (F.FCOL_CFG_REACTION src) with
    | 1 => (match fenceTarget src unit with | some u => fenceUnit s u | none => s)
    | 2 => enterSafe s src
    | _ => s

/-- Bit `src` of FCOL_STATUS, with ACTIVE of the source. -/
def setActive (s : State) (src : Nat) (v : Bool) : State :=
  let s := s.set (F.FCOL_EVT_ACTIVE src) (b2n v)
  if src < 32 then s.setReg F.FCOL_STATUS_LO.off (putBit (s.reg F.FCOL_STATUS_LO.off) src v)
  else s.setReg F.FCOL_STATUS_HI.off (putBit (s.reg F.FCOL_STATUS_HI.off) (src - 32) v)

/-- The first event of an armed collector sends its message and disarms it (R513). -/
def sendArmed (s : State) : State :=
  if s.flag F.FCOL_CTL_ARMED then (s.set F.FCOL_CTL_ARMED 0).sendMsix 0 (s.get F.FCOL_CTL_VECTOR) else s

/-- One event at the collector (R501, R509). -/
def collect (s : State) (src unit detail : Nat) (forced : Bool) : State :=
  let mismatch := src == 16 || src == 17
  let second := mismatch && s.flag (strikeField src unit)
  let detail := if mismatch && second then detail % 128 + 128 else detail
  let s := if mismatch then s.set (strikeField src unit) 1 else s
  let s := (setActive s src true).bump (F.FCOL_EVT_SEQ src)
  let s := ((s.set (F.FCOL_EVT_UNIT src) unit).set (F.FCOL_EVT_DETAIL src) detail).set (F.FCOL_EVT_FORCED src) (b2n forced)
  let s := sendArmed (s.count (F.FCOL_COUNT_EVENTS src))
  if mismatch && !second then s else react s src unit

/-- Of several events of one source in one cycle, the lowest unit is recorded (R501): they are taken highest first. -/
def insertEvent (e : Nat × Nat × Nat) : List (Nat × Nat × Nat) → List (Nat × Nat × Nat)
  | [] => [e]
  | f :: fs => if f.2.1 ≤ e.2.1 then e :: f :: fs else f :: insertEvent e fs

/-- The collector takes the events that the command's blocks have signalled (R501). A safe event with the lowest source
number is the recorded cause (R507), so sources are taken lowest first. -/
def settle (s : State) : State :=
  if s.fc.raised = [] then s else
  let es := s.fc.raised.foldr insertEvent []
  let s := { s with fc := { s.fc with raised := [] } }
  (List.range 64).foldl (fun s k =>
    (es.filter fun e => e.1 == k).foldl (fun s e => if eventValid s e.1 e.2.1 then collect s e.1 e.2.1 e.2.2 false else s) s) s

end Sys2Proof.Machine
end

