-- ==== Sys2Proof/Machine/Collector.lean ====
section
/-! DEFINITION. The fault collector's commands (R501–R515): events, quiet periods, strike timers, clears, forced events,
arming and unfencing. -/

namespace Sys2Proof.Machine

/-! ### Events and timers -/

/-- The bits of DETAIL that a source may set itself (R498). -/
def detailOf (src d : Nat) : Nat :=
  if src = 16 || src = 17 then d % 2 else if src = 20 || src = 21 then d % 4 else if src = 24 then d % 16 else 0

/-- FAULT_EVENT: a source signals an event on its own (R501). An uncorrectable error of a state partition is counted at
its bank; a management core whose watchdog expires has stopped (R29). -/
def execFaultEvent (src unit detail : Nat) (s : State) : Out :=
  .next (
    if s.pst ≤ 1 || !eventValid s src unit then s
    else
      let s := if src = 10 then s.count (F.STG_STATE_ECC_UNCORR unit) else s
      let s := if src = 11 then { s with fc := { s.fc with cores := putBit s.fc.cores unit true } } else s
      collect s src (if hasUnit src then unit else 0) (detailOf src detail) false)

/-- A source clears (R510, R511). -/
def clearSource (s : State) (src : Nat) : State := (setActive s src false).set (F.FCOL_EVT_SEQ src) 0

/-- QUIET_PERIOD_EXPIRY (R510). -/
def execQuietPeriodExpiry (src : Nat) (s : State) : Out :=
  .next (
    if src < 64 && s.flag (F.FCOL_EVT_ACTIVE src) && 2 ≤ s.pst then
      (clearSource s src).count (F.FCOL_COUNT_RECOVERIES src)
    else s)

/-- STRIKE_TIMER_EXPIRY: the timer of an engine's first mismatch ends (R509). -/
def execStrikeTimerExpiry (e : Nat) (s : State) : Out :=
  .next (
    if e < nEng s && 2 ≤ s.pst then
      (if e % 4 = 0 then s.set (F.RED_STATUS_STRIKE (e / 4)) 0
       else if e % 4 = 2 then s.set (F.CE_STATUS_STRIKE (e / 4)) 0
       else s)
    else s)

/-! ### Register commands -/

/-- FCOL_EVT_CLEAR (R511). -/
def execFcolEvtClear (src seq : Nat) (s : State) : Out :=
  .next (if 64 ≤ src then s else regCmd s true fun s =>
    if seq ≠ 0 && s.get (F.FCOL_EVT_SEQ src) = seq then clearSource s src else s)

/-- One source of a FCOL_FORCE write (R512). -/
def forceOne (s : State) (src : Nat) : State :=
  let unit := if hasUnit src then s.get F.FCOL_FORCE_UNIT_UNIT else 0
  if eventValid s src unit then collect s src unit 0 true else s.ignWrite

/-- FCOL_FORCE: all set sources in one cycle (R512); the lowest safe source is the recorded cause (R507). -/
def execFcolForce (lo hi : Word32) (s : State) : Out :=
  .next (regCmd s true fun s => (bitList (lo.toNat + 2 ^ 32 * hi.toNat) 64).foldl forceOne s)

/-- FCOL_ARM (R513). -/
def execFcolArm (s : State) : Out := .next (regCmd s true fun s => s.set F.FCOL_CTL_ARMED 1)

/-! ### Unfencing (R514, R515) -/

/-- The unit that KIND and UNIT name, if it is present. -/
def unfenceUnit (s : State) (kind unit : Nat) : Option FUnit :=
  match kind with
  | 1 => if unit < nEng s then some (.engine unit) else none
  | 2 => if unit < nDom s then some (.domain unit) else none
  | 3 =>
    if unit < 32 then (if portPresent s unit then some (.port unit) else none)
    else if unit < 36 then some (.ioDie (unit - 32)) else none
  | 4 => if unit < nStack s then some (.stack unit) else none
  | 5 => if unit < nBay s then some (.bay unit) else none
  | _ => none

def unitFenced (s : State) : FUnit → Bool
  | .engine e => s.engFenced e
  | .domain d => s.domFenced d
  | .port n => s.portFenced n
  | .ioDie i => bit s.fc.ioDies i
  | .stack k => s.stackFenced k
  | .bay m => s.bayFenced m

/-- A unit with the domain, I/O die or bay that contains it (R15, R26, R54). -/
def containers : FUnit → List FUnit
  | .engine e => [.engine e, .domain (e / 4)]
  | .port n => [.port n, .ioDie (dieOf n)] ++ (if n < 16 then [.bay (n / 2)] else [])
  | .bay m => [.bay m, .ioDie (m % 4)]
  | u => [u]

/-- The unit that the latest event of a source names (R498). -/
def namedUnit (src unit : Nat) : Option FUnit :=
  if src = 10 then some (.domain unit) else if src = 12 then some (.port unit) else fenceTarget src unit

/-- Step 4: is a source active that names the unit or what contains it? -/
def namedByActive (s : State) (u : FUnit) : Bool :=
  (List.range 64).any fun src =>
    s.flag (F.FCOL_EVT_ACTIVE src) &&
      (match namedUnit src (s.get (F.FCOL_EVT_UNIT src)) with
       | some v => (containers u).contains v
       | none => false)

/-- Is a mode change pending, or a request that becomes one (R110)? -/
def modePending (s : State) : Bool := s.tk.change.isSome || s.pw.drain != .none || s.pw.restExit.isSome

/-- R514: the RESULT of the first check that fails. -/
def unfenceCheck (s : State) (u : FUnit) : Option Nat :=
  if !unitFenced s u then some 2
  else if s.fc.selfTest.contains u then some 3
  else if namedByActive s u then some 4
  else if modePending s then some 5
  else if s.fc.unfence.isSome || s.fc.refilling.isSome then some 6
  else none

/-- FCOL_UNFENCE (R514). -/
def execFcolUnfence (kind unit : Nat) (s : State) : Out :=
  .next (regCmd s true fun s =>
    match unfenceUnit s kind unit with
    | none => s.result F.FCOL_CMD_EVENT_SEQ F.FCOL_CMD_EVENT_RESULT 1
    | some u =>
      match unfenceCheck s u with
      | some r => s.result F.FCOL_CMD_EVENT_SEQ F.FCOL_CMD_EVENT_RESULT r
      | none => { s with fc := { s.fc with unfence := some u } })

/-- An engine rejoins: its STRIKE reads 0. -/
def liftEngine (s : State) (e : Nat) : State :=
  let s := markEngFenced s e false
  if e % 4 = 0 then s.set (F.RED_STATUS_STRIKE (e / 4)) 0
  else if e % 4 = 2 then s.set (F.CE_STATUS_STRIKE (e / 4)) 0
  else s

def liftPort (s : State) (n : Nat) : State :=
  s.setReg F.FCOL_FENCED_PORT.off (putBit (s.reg F.FCOL_FENCED_PORT.off) n false)

/-- A port of a unit that rejoins, unless another fence holds it: its own self-test fence, or another container's. -/
def liftMember (s : State) (n : Nat) : State :=
  if s.fc.selfTest.contains (.port n) || bit s.fc.ioDies (dieOf n) || (n < 16 && s.bayFenced (n / 2)) then s
  else liftPort s n

/-- A bay rejoins: the cartridge behind a closed latch is identified (R423, R515). -/
def liftBay (s : State) (m : Nat) : State :=
  let s := s.set F.FCOL_FENCED_DOM_BAYS (putBit (s.get F.FCOL_FENCED_DOM_BAYS) m false)
  let s := liftMember (liftMember s (2 * m)) (2 * m + 1)
  s.set (F.LB_STATUS_STATE m) (if s.flag (F.LB_STATUS_LATCH m) then 1 else 0)

/-- The unit's fence is lifted (R515). -/
def liftUnit (s : State) : FUnit → State
  | .engine e => liftEngine s e
  | .domain d =>
    let s := s.set F.FCOL_FENCED_DOM_DOMAINS (putBit (s.get F.FCOL_FENCED_DOM_DOMAINS) d false)
    (List.range 4).foldl (fun s k =>
      if s.fc.selfTest.contains (.engine (4 * d + k)) then s else liftEngine s (4 * d + k)) s
  | .port n => liftPort s n
  | .ioDie i => (diePorts s i).foldl liftMember { s with fc := { s.fc with ioDies := putBit s.fc.ioDies i false } }
  | .stack k => s.set F.MEM_FENCED_STACKS (putBit (s.get F.MEM_FENCED_STACKS) k false)
  | .bay m => liftBay s m

def unfenceDone (s : State) : State := s.result F.FCOL_CMD_EVENT_SEQ F.FCOL_CMD_EVENT_RESULT 0

/-- UNFENCE_EFFECT: at the next boundary the unit rejoins; a domain starts its refill (R515). -/
def execUnfenceEffect (s : State) : Out :=
  .next (
    match s.fc.unfence with
    | none => s
    | some u =>
      if s.pst ≠ 3 && s.pst ≠ 4 then s else
      let s := { s with fc := { s.fc with unfence := none } }
      match u with
      | .domain d => { refillBank s d with fc := { s.fc with refilling := some d } }
      | _ => unfenceDone (liftUnit s u))

/-- DOMAIN_REFILL_DONE (R515). -/
def execDomainRefillDone (s : State) : Out :=
  .next (
    match s.fc.refilling with
    | none => s
    | some d =>
      if s.pst ≠ 3 && s.pst ≠ 4 then s
      else unfenceDone (liftUnit { s with fc := { s.fc with refilling := none } } (.domain d)))

end Sys2Proof.Machine
end

