-- ==== Sys2Proof/Machine/Egress.lean ====
section
/-! DEFINITION. The port switch's egress side (R362–R370, R415–R418): frame sizes, the buffer, marking, pauses by buffered
bytes, and which frame a port starts. -/

namespace Sys2Proof.Machine

/-! ### Frames (R318–R322, R343) -/

/-- The 24 bytes of a routing header (R321). -/
def routeBytes (p : Packet) : List Byte :=
  toLE 8 (p.hops + p.ptr * 2 ^ 4 + p.tc * 2 ^ 8 + b2n p.ce * 2 ^ 11 + p.dstEp * 2 ^ 12 + p.srcEp * 2 ^ 32)
    ++ toLE 8 (p.path % 2 ^ 64) ++ toLE 8 (p.path / 2 ^ 64)

/-- The body of an ACK: SACK, then the refusals (R343). -/
def ackBody (p : Packet) : List Byte :=
  if p.type = 7 then toLE 32 p.sack ++ p.refusals.flatMap fun r => toLE 4 (r.1 + r.2 * 2 ^ 24) else []

/-- The 48 bytes of a transport header (R322). An ACK has ECHO in word 2, and NOTICE_PSN, NOTICE and NREF in word 4 (R343). -/
def hdrBytes (p : Packet) : List Byte :=
  let ack (n : Nat) : Nat := if p.type = 7 then n else 0
  toLE 8 (p.type + b2n p.fence * 2 ^ 4 + b2n p.last * 2 ^ 5 + b2n p.enc * 2 ^ 6 + b2n p.abort * 2 ^ 7 + p.try_ * 2 ^ 8
      + p.pieces.length * 2 ^ 11 + p.dqp * 2 ^ 14 + p.psn * 2 ^ 32)
    ++ toLE 8 (p.offset + (p.payload.length + (ackBody p).length) * 2 ^ 30 + p.stamp * 2 ^ 44)
    ++ toLE 8 (p.ssn + p.rgen * 2 ^ 24 + p.rkey * 2 ^ 32 + p.phase * 2 ^ 52 + ack p.echo)
    ++ toLE 8 (p.roff + p.sqp * 2 ^ 46)
    ++ toLE 8 (p.aux + ack (p.noticePsn + p.notice * 2 ^ 24 + p.refusals.length * 2 ^ 26)) ++ toLE 8 p.txc

/-- From the routing header to the end of the payload or tag: headers and piece checksums least significant byte first, the tag in the byte
order of AES-GCM (R319). -/
def packetBytes (p : Packet) : List Byte :=
  routeBytes p ++ hdrBytes p ++ (p.pieces.flatMap fun c => toLE 8 c.toNat) ++ p.payload ++ ackBody p
    ++ (if p.enc then toBE 16 p.tag.toNat else [])

/-- A frame as it is sent, up to the FCS: addresses and EtherType most significant byte first (R318, R319). -/
def frameBytes (src : BitVec 48) (p : Packet) : List Byte :=
  toBE 6 0x0253FFFFFFFF ++ toBE 6 src.toNat ++ toBE 2 0x9A4C ++ packetBytes p

/-- Bytes from destination address to FCS (R320). -/
def frameLen (p : Packet) : Nat := (frameBytes 0#48 p).length + 4

/-- Egress of hop `h` of a path (R321). -/
def hopOf (path h : Nat) : Nat := bits path (5 * h) 5

/-- May a frame leave through egress `e` (R355, R357 steps 5 and 6)? -/
def egressOk (s : State) (e : Nat) : Bool := portPresent s e && !s.portFenced e && s.linkUp e

/-! ### Marking and enqueueing (R357 step 7, R370) -/

/-- Is a frame marked at an egress whose class holds `q` bytes? The draw of the egress's generator is a free value. -/
def ceMark (s : State) (e c q : Nat) : State × Bool :=
  let kmin := 1024 * s.get (F.FAB_MARK_KMIN_KIB e)
  let kmax := 1024 * s.get (F.FAB_MARK_KMAX_KIB e)
  if !bit (s.get (F.FAB_MARK_CE_EN e)) c || q < kmin then (s, false)
  else if kmax ≤ kmin || kmax ≤ q then (s, true)
  else
    let (v, s) := s.fresh
    (s, v.toNat % 65536 * (kmax - kmin) < 65536 * (q - kmin))

/-- Put a frame at the tail of its class at an egress that has room. -/
def putFrame (s : State) (e : Nat) (f : Frame) : State :=
  let p := s.port e
  let (s, mark) := if f.pkt.type ≤ 6 then ceMark s e f.cls (framesLen (p.cls f.cls)) else (s, false)
  let s := if mark then s.count (F.FAB_CE_MARKED e) else s
  let f := if mark then { f with pkt := { f.pkt with ce := true } } else f
  pfcRise (s.setPort e (p.setCls f.cls (p.cls f.cls ++ [f]))) f.ingress f.cls

/-- Is a frame of the same class and source already waiting? Such frames leave in order (R362). -/
def waitsBehind (f : Frame) (ws : List Frame) : Bool := ws.any fun w => w.cls == f.cls && w.ingress == f.ingress

/-- Enqueue a frame: a forwarded frame is dropped where the buffer has no room, a local one waits, and holds no other (R364). -/
def enqueue (s : State) (e : Nat) (f : Frame) : State :=
  let p := s.port e
  if p.buffered + f.len ≤ bufferSize && (f.fwd || !waitsBehind f p.wait) then putFrame s e f
  else if f.fwd then s.count (F.FAB_DROP_FULL e)
  else s.setPort e { p with wait := p.wait ++ [f] }

/-- Local frames that wait enter where there is room; the answer is those that go on waiting. -/
def admitWaiting (s : State) (e : Nat) : (kept : List Frame) → List Frame → State × List Frame
  | kept, [] => (s, kept)
  | kept, f :: fs =>
    if (s.port e).buffered + f.len ≤ bufferSize && !waitsBehind f kept then admitWaiting (putFrame s e f) e kept fs
    else admitWaiting s e (kept ++ [f]) fs

/-- Frames for one egress that the port switch has in one cycle: served in the egress's rotating order over its requesters (R19, R362). -/
def enqueueAll (s : State) (e : Nat) (fs : List Frame) : State :=
  let p := s.port e
  let order := (List.range 34).map fun k => (p.ptr + k) % 34
  let s := if 1 < fs.length then s.setPort e { p with ptr := (p.ptr + 1) % 34 } else s
  order.foldl (fun s k => (fs.filter fun f => f.ingress == k).foldl (fun s f => enqueue s e f) s) s

/-- A frame of this adapter's own at hop 0 (R357 steps 6 and 7, R362). -/
def sendLocal (s : State) (p : Packet) (requester : Nat) : State :=
  let e := hopOf p.path 0
  if !egressOk s e then s.count (F.FAB_EGRESS_DOWN e)
  else enqueue s e { cls := p.tc, len := frameLen p, pkt := { p with ptr := 1 }, fwd := false, ingress := requester }

/-! ### What a port may start (R367, R368, R415, R418) -/

/-- Are marionette entries, gates and reservations in force (R118)? -/
def mariOn (s : State) : Bool := s.getL F.MARI_CTL_ENABLE == 1

/-- Start of the current tick on the time base (R92). -/
def tickStart (s : State) : Nat := s.boundaryNs s.tk.num

/-- Is the gate of a class open? -/
def gateOpen (s : State) (n c : Nat) : Bool := !mariOn s || !bit (smGet s.tk.gates n 0) c

/-- Does a reservation admit the class: class 7 only while one is in force? -/
def reserveAdmits (s : State) (n c : Nat) : Bool := !mariOn s || c == 7 || smGet s.tk.resv n 0 == 0

/-- Classes that a received pause holds. -/
def pausedMask (s : State) (n : Nat) : Nat := (s.port n).llp ||| (s.port n).pfc

/-- PAUSED shows the classes held now, and LLP whether a PAUSE is in force (R432). -/
def showPaused (s : State) (n : Nat) : State :=
  (s.set (F.MAC_PAUSE_STATE_PAUSED n) (pausedMask s n)).set (F.MAC_PAUSE_STATE_LLP n) (b2n ((s.port n).llp != 0))

def shapeRate (s : State) (n c : Nat) : Nat := s.getL (F.FAB_SHAPE_RATE_RATE n c)
/-- A full bucket, in 1/80 byte. -/
def shapeFull (s : State) (n c : Nat) : Nat := 80 * 1024 * max 10 (s.getL (F.FAB_SHAPE_BURST_BURST_KIB n c))
def tokensOf (s : State) (n c : Nat) : Nat := smGet (s.port n).tokens c (shapeFull s n c)

/-- Tokens accrue at RATE × 0.1 Gbit/s, which is RATE/80 byte each ns (R368). -/
def accrue (s : State) (n ns : Nat) : State :=
  let p := s.port n
  let dt := ns - p.lastNs
  let tokens : SMap Nat := smMap (fun c v => min (shapeFull s n c) (v + shapeRate s n c * dt)) p.tokens
  s.setPort n { p with tokens := tokens, lastNs := max ns p.lastNs }

/-- MAC data rate of a port in bits per ns (R406). -/
def macRate (s : State) (n : Nat) : Nat :=
  if 16 ≤ n then 800 else match s.get (F.PORT_CFG_WIDTH n) with | 1 => 800 | 2 => 400 | _ => 1600

/-- MAXF as it acts (R411). -/
def maxFrame (s : State) (n : Nat) : Nat := min 9600 (max 1518 (s.get (F.PORT_CFG_MAXF n)))

/-- Does entry `k` of the active bank, when it fires, close gate `c` of port `n` or begin a reservation that excludes it? -/
def entryStops (s : State) (k n c : Nat) : Bool :=
  let w := s.mariWord (4 * k)
  bit w 23 && bit (s.mariWord (4 * k + 2)) n
    && ((bit w 26 && bit (s.mariWord (4 * k + 3)) (8 + c)) || (c < 7 && bit w 27))

/-- The active period (R114). -/
def mariPeriod (s : State) : Nat := s.get F.MARI_CTL_ACTIVE_PERIOD_M1 + 1

/-- The time x of R418: the earliest stop of class `c` on port `n` after `ns`, in this tick or at offset 0 of the next. -/
def guardTime (s : State) (n c ns : Nat) : Option Nat :=
  let start := tickStart s
  let pos := s.tk.num % mariPeriod s
  let nextPos := s.nextNum % mariPeriod s
  let times := (List.range 1024).filterMap fun k =>
    if !entryStops s k n c then none else
    let w := s.mariWord (4 * k)
    let off := 10 * bits w 10 13
    let here := bits w 0 10 == pos && off < s.tickNs && ns < start + off
    if here then some (start + off)
    else if bits w 0 10 == nextPos && off == 0 then some (s.boundaryNs s.nextNum)
    else none
  times.foldl (fun a t => match a with | none => some t | some b => some (min b t)) none

/-- Does the guard band let a frame of `len` bytes start (R418)? -/
def guardFits (s : State) (n c ns len : Nat) : Bool :=
  if mariOn s && s.getL (F.PORT_CFG_GUARD_EN n) == 1 then
    (match guardTime s n c ns with
     | none => true
     | some x => 8 * (len + 20) ≤ (x - ns) * macRate s n)
  else true

/-- Drop frames over MAXF from the heads of the class queues (R412). -/
def dropOversize (s : State) (n c : Nat) : (fuel : Nat) → State
  | 0 => s
  | k + 1 =>
    match (s.port n).cls c with
    | [] => s
    | f :: fs =>
      if maxFrame s n < f.len then
        let p := s.port n
        dropOversize (pfcFall ((s.setPort n { p.setCls c fs with held := putBit p.held c false }).count (F.MAC_TX_OVERSIZE_DROP n)) f.ingress c) n c k
      else s

/-- Is class `c` eligible but for the guard band (R367)? -/
def eligible (s : State) (n c : Nat) : Bool :=
  match (s.port n).cls c with
  | [] => false
  | f :: _ =>
    gateOpen s n c && reserveAdmits s n c && !bit (pausedMask s n) c
      && (shapeRate s n c == 0 || 80 * f.len ≤ tokensOf s n c)

/-- Bytes of a PTP frame, from destination address to FCS: the message lengths of IEEE 1588-2019 (PRESUMED, log entry 61), padded to 64. -/
def ptpLen (kind : Nat) : Nat := if kind ≤ 1 then 64 else 72

/-- Send a PTP message; an event message is counted (R419). -/
def sendPtp (s : State) (n kind : Nat) : State :=
  let s := countTx (s.emit (.ptp n kind)) n (ptpLen kind)
  if kind = 0 || kind = 2 || kind = 3 then s.count (F.PTP_TX_EVENTS n) else s

/-- A PTP message leaves at the next frame boundary (R366): at once, or when the frame in transmission ends. -/
def State.ptpSend (s : State) (n kind : Nat) : State :=
  if quiesced s n then s
  else if (s.port n).cut.isSome then s.setPort n { s.port n with ptp := (s.port n).ptp ++ [kind] } else sendPtp s n kind

/-- An Announce message leaves with the TLV of R101: 64 bytes of message (PRESUMED, log entry 61) and a TLV of 24. -/
def sendAnnounce (s : State) (n : Nat) (o : Output) : State := if quiesced s n then s else countTx (s.emit o) n 106

/-- The frame boundary: the pause frames that wait are sent, then the PTP messages (R366, R416); none in a quiesce (R427). -/
def boundaryFrames (s : State) (n : Nat) : State :=
  let p := s.port n
  let s := s.setPort n { p with ctl := [], ptp := [] }
  if quiesced s n then s else p.ptp.foldl (fun s k => sendPtp s n k) (p.ctl.foldl (fun s x => sendCtl s n x.1 x.2) s)

/-- The frame in transmission ends: whole, or cut short with a bad FCS. -/
def endFrame (s : State) (n : Nat) (good : Bool) : State :=
  match (s.port n).cut with
  | none => s
  | some f =>
    let s := s.setPort n { s.port n with cut := none }
    let s := if good then countTx (sendFrame s n f.pkt true) n f.len else sendCut s n f
    boundaryFrames (if f.fwd then s.count (F.FAB_FWD_FRAMES n) else s) n

/-- Start the head frame of class `c`. -/
def startFrame (s : State) (n c : Nat) : State :=
  match (s.port n).cls c with
  | [] => s
  | f :: fs =>
    let p := s.port n
    let tokens := if shapeRate s n c = 0 then p.tokens else smSet p.tokens c (tokensOf s n c - 80 * f.len)
    let s := s.setPort n { p.setCls c fs with cut := some f, whole := s.flag (F.PORT_CFG_TX_MODE n), tokens := tokens, held := putBit p.held c false }
    pfcFall s f.ingress c

/-- Look at the classes from 7 down: start the first eligible one that fits; count a holding decision once per frame. -/
def startClasses (s : State) (n ns : Nat) : List Nat → State
  | [] => s
  | c :: cs =>
    match (s.port n).cls c with
    | [] => startClasses s n ns cs
    | f :: _ =>
      if !eligible s n c then startClasses s n ns cs
      else if guardFits s n c ns f.len then startFrame s n c
      else
        let p := s.port n
        let s := if bit p.held c then s
          else (s.setPort n { p with held := putBit p.held c true }).count (F.MAC_GUARD_HOLDS n)
        startClasses s n ns cs

end Sys2Proof.Machine
end

