-- ==== Sys2Proof/Machine/Ports.lean ====
section
/-! DEFINITION. Port commands: frames received, the egress buffer, links, PORT_CFG, underruns, pause and its watchdog (R357–R369,
R406–R418). -/

namespace Sys2Proof.Machine

/-! ### Frames received (R357–R361, R410, R411) -/

/-- Reverse path of a frame that has taken `k` hops and arrived on ingress `i` (R358, R360): entry 0 is `i`, then the
ingress numbers written into the path, latest first. -/
def reversePath (path k i : Nat) : Nat :=
  ((List.range (k - 1)).map fun j => hopOf path (k - 2 - j) * 2 ^ (5 * (j + 1))).sum + i

/-- Record a refusal at ingress `i` (R360). -/
def noteRefusal (s : State) (i cause e hop : Nat) : State :=
  let s := (s.set (F.FAB_NOTICE_EVENT_CAUSE i) cause).set (F.FAB_NOTICE_EVENT_EGRESS i) e
  (s.set (F.FAB_NOTICE_EVENT_HOP i) hop).bump (F.FAB_NOTICE_EVENT_SEQ i)

/-- The PATH_NOTICE of a refused frame (R360): word 2 [19:0] is NOTICE_EP, word 4 the cause. -/
def noticeOf (s : State) (p : Packet) (i cause e : Nat) : Packet :=
  { hops := p.ptr, ptr := 0, tc := p.tc, dstEp := p.srcEp, srcEp := s.get F.TRN_ID_ENDPOINT,
    path := reversePath p.path p.ptr i, type := 8, dqp := p.sqp, psn := p.psn, stamp := p.stamp, ssn := p.dstEp,
    aux := p.type + 16 * cause + 64 * p.ptr + 1024 * i + 32768 * e }

/-- A refusal with a notice cause: recorded, and a notice sent for a frame of type 0, 1, 3, 4 or 6 (R360). -/
def refuseFrame (s : State) (p : Packet) (i cause e : Nat) : State :=
  let s := noteRefusal s i cause e p.ptr
  if p.type = 0 || p.type = 1 || p.type = 3 || p.type = 4 || p.type = 6 then
    (if p.ptr = 0 then s else sendLocal s (noticeOf s p i cause e) 33)
  else s

/-- Is bit `e` of the turn table of ingress `i` set, as in effect (R359)? -/
def turnOk (s : State) (i e : Nat) : Bool := bit (s.getL (F.FAB_TURN_PERMIT i)) e

/-- May a frame turn from ingress `i` to egress `e`? An accelerator's own link never takes its frame back, and an attach port is the
last egress of a path or none (R357). -/
def mayTurn (s : State) (i e : Nat) (last : Bool) : Bool :=
  turnOk s i e && !(16 ≤ i && e == i) && (e < 16 || last)

/-- May egress `e` forward cut-through a frame of class `c` from ingress `i`: it is idle in the class, and no faster (R363, R413)? -/
def cutsThrough (s : State) (i e c : Nat) : Bool :=
  (s.port e).cls c == [] && macRate s e ≤ macRate s i && !s.flag (F.PORT_CFG_TX_MODE e)

/-- Is a frame that its egress forwards cut-through in transmission when its last byte arrives? It started if the port had no other and
the class was eligible (R367). -/
def underWay (s : State) (e : Nat) (f : Frame) : Bool :=
  (s.port e).cut.isNone && !quiesced s e && eligible (s.setPort e ((s.port e).setCls f.cls [f])) e f.cls

/-- A frame forwarded cut-through whose FCS fails ends with a bad FCS (R363); it has taken its tokens (R368). -/
def stomp (s : State) (e : Nat) (f : Frame) : State :=
  let p := s.port e
  let s := if shapeRate s e f.cls = 0 then s
    else s.setPort e { p with tokens := smSet p.tokens f.cls (tokensOf s e f.cls - 80 * f.len) }
  countTx ((sendFrame s e f.pkt false).count (F.FAB_STOMPED e)) e f.len

/-- Steps 2 to 7 of R357 for a Speron frame on ingress `i`; `good`: its FCS is right and it was not truncated. The second answer is the
frame for its egress, where it is to be enqueued. A bad frame goes no further unless it is already being forwarded cut-through, which
ends with a bad FCS (R363, R411). -/
def switchFrame (s : State) (i : Nat) (p : Packet) (good : Bool) : State × Option (Nat × Frame) :=
  if 14 < p.hops || p.hops < p.ptr || p.rsvRoute then (if good then s.count (F.FAB_BAD_ROUTE i) else s, none)
  else if p.ptr = p.hops then
    (if !good then s
     else if p.dstEp = s.get F.TRN_ID_ENDPOINT then
       { s with tr := { s.tr with arrivals := s.tr.arrivals ++ [(.port i, p)] } }
     else refuseFrame (s.count (F.FAB_MISDELIVERED i)) p i 2 0, none)
  else
    let e := hopOf p.path p.ptr
    let path := if p.ptr = 0 then p.path else putBits p.path (5 * (p.ptr - 1)) 5 i
    let f : Frame := {
      cls := p.tc, len := frameLen p, pkt := { p with path := path, ptr := p.ptr + 1 }, fwd := true, ingress := i }
    let turn := mayTurn s i e (p.ptr + 1 == p.hops)
    if !good then (if turn && egressOk s e && cutsThrough s i e p.tc && underWay s e f then stomp s e f else s, none)
    else if !turn then (refuseFrame (s.count (F.FAB_TURN_REFUSED i)) p i 0 e, none)
    else if !portPresent s e || s.portFenced e then (refuseFrame (s.count (F.FAB_TURN_REFUSED i)) p i 1 e, none)
    else if !s.linkUp e then (s.count (F.FAB_EGRESS_DOWN e), none)
    else (s, some (e, f))

/-- A frame at a port: what the port counts, and what the port switch does with it. `lost`: it overflows toward the port switch, which
drops it under TX_MODE 1 and ends it bad under TX_MODE 0 (R413). A codeword that the PCS cannot correct forces an FCS error (R407). The PTP
and pause commands give what those frames do; an attach port with ATTACH_MASTER 0 ignores and counts PTP frames (R419). In Rest, and while
an activation loads, the port counts what it receives and drops it (R73, R490). -/
def receiveFrame (s : State) (x : RxArrival) (lost : Bool) : State × Option (Nat × Frame) :=
  let n := x.port
  if !(portPresent s n && s.linkUp n) || !(s.pst = 3 || s.pst = 4) then (s, none) else
  let s := (s.count (F.FEC_CORR_CW n) x.corr).count (F.FEC_UNCORR_CW n) x.uncorr
  if x.len < 64 then (s.count (F.MAC_RX_RUNT n), none) else
  let big := maxFrame s n < x.len
  let fcsOk := x.fcsOk && x.uncorr == 0
  let s := if big then
      ((s.set (F.PORT_STATUS_LAST n) 4).bump (F.PORT_STATUS_SEQ n)).count (F.MAC_RX_OVERSIZE n)
    else if fcsOk then (s.count (F.MAC_RX_FRAMES n)).count64 (F.MAC_RX_BYTES_LO n) x.len
    else s.count (F.MAC_RX_FCS_ERR n)
  let good := fcsOk && !big && !lost
  if s.pst = 4 || s.ci.load = .loading then (s, none) else
  let s := if lost then s.count (F.MAC_RX_OVERFLOW n) else s
  if lost && s.flag (F.PORT_CFG_TX_MODE n) then (s, none) else
  match x.frame with
  | .speron p => switchFrame s n p good
  | .ptp => (if good && 16 ≤ n && !s.flag F.TIME_CTL_ATTACH_MASTER then s.count (F.PTP_RX_EVENTS n) else s, none)
  | .macControl op => (if good && op ≠ 1 && op ≠ 0x101 then s.count (F.MAC_CTL_OTHER n) else s, none)
  | .other => (if good then s.count (F.FAB_OTHER_ETYPE n) else s, none)

/-- Frames that end at several ports in one cycle: each is switched, then every egress takes what is for it (R357, R362). -/
def receiveFrames (s : State) (xs : List RxArrival) : State :=
  let (s, out) := xs.foldl (fun (s, out) x =>
    match receiveFrame s x false with
    | (s, some y) => (s, out ++ [y])
    | (s, none) => (s, out)) (s, ([] : List (Nat × Frame)))
  (List.range 32).foldl (fun s e => enqueueAll s e ((out.filter fun y => y.1 == e).map (·.2))) s

/-- FRAME_RECEIVED: a frame, and those that other ports receive in the same cycle. -/
def execFrameReceived (x : RxArrival) (also : List RxArrival) (s : State) : Out :=
  .next (receiveFrames s (x :: also.filter fun y => y.port != x.port))

/-! ### The egress buffer and the frame boundary -/

/-- EGRESS_BUFFER_ROOM (R364). -/
def execEgressBufferRoom (n : Nat) (s : State) : Out :=
  .next (inActive s fun s =>
    if portPresent s n then
      let (s, kept) := admitWaiting s n [] (s.port n).wait
      s.setPort n { s.port n with wait := kept }
    else s)

/-- EGRESS_FRAME_START: a frame boundary of port `n` at `ns` of the time base (R367, R368, R412, R418). -/
def execEgressFrameStart (n ns : Nat) (s : State) : Out :=
  .next (inActive s fun s =>
    if !egressOk s n then s else
    let s := accrue (endFrame s n true) n ns
    if quiesced s n then s else
    let s := (List.range 8).foldl (fun s c => dropOversize s n c ((s.port n).cls c).length) s
    startClasses s n ns [7, 6, 5, 4, 3, 2, 1, 0])

/-! ### Links (R408, R409, R414) -/

/-- START_CUR takes START_STEP (R414). -/
def resetStart (s : State) (n : Nat) : State :=
  s.set (F.PORT_STATUS_START_CUR n) (min 4 (s.get (F.PORT_CFG_START_STEP n)))

/-- May the port's link train: enabled, not fenced, for a fabric port its cartridge lasing, and not in Rest with the optics off (R73)? -/
def mayTrain (s : State) (n : Nat) : Bool :=
  portPresent s n && s.flag (F.PORT_CFG_ENABLE n) && !s.portFenced n
    && (16 ≤ n || s.get (F.LB_STATUS_STATE (n / 2)) == 2) && !(s.pst == 4 && s.pw.opticsOff)

/-- LINK_UP: training ends with the link up, in stage 6 of Bring-up, in Active or in Rest (R66, R408). -/
def execLinkUp (n : Nat) (s : State) : Out :=
  .next (
    if !mayTrain s n || s.linkUp n || !(s.pst = 3 || s.pst = 4 || (s.pst = 2 && s.get F.BRUP_PROGRESS_CODE = 0x60)) then s
    else
      let s := (s.set (F.PORT_STATUS_LINK n) 1).set (F.PORT_STATUS_LAST n) 0
      resetStart (s.bump (F.PORT_STATUS_SEQ n)) n)

/-- LINK_DOWN (R409). -/
def execLinkDown (n : Nat) (s : State) : Out := .next (if portPresent s n then linkGoesDown s n else s)

/-- A write of PORT_CFG (R408, R414, R418, R430): a new width or ENABLE 0 takes the link down; START_CUR restarts; GUARD_EN
takes effect at the next boundary. WIDTH of an attach port stays 0. -/
def portCfgWrite (s : State) (n : Nat) (v : Nat) : State :=
  if 32 ≤ n || !portPresent s n then s.ignWrite else
  let v := if 16 ≤ n then v - v % 4 else v
  let w := s.get (F.PORT_CFG_WIDTH n) % 3
  let s := resetStart (writeLate s (F.PORT_CFG n).off v) n
  if s.get (F.PORT_CFG_WIDTH n) % 3 ≠ w || !s.flag (F.PORT_CFG_ENABLE n) then linkGoesDown s n else s

/-- PORT_CFG_WRITE. -/
def execPortCfgWrite (n : Nat) (v : Word32) (s : State) : Out := .next (regCmd s false fun s => portCfgWrite s n v.toNat)

/-- TX_UNDERRUN: a frame started under TX_MODE 0 ends with a bad FCS and START_CUR rises one step, to 4 at most (R413, R414). -/
def execTxUnderrun (n : Nat) (s : State) : Out :=
  .next (inActive s fun s =>
    if !portPresent s n || (s.port n).whole || (s.port n).cut.isNone then s else
    let s := (endFrame s n false).count (F.MAC_TX_UNDERRUN n)
    let cur := s.get (F.PORT_STATUS_START_CUR n)
    if 4 ≤ cur then s
    else ((s.set (F.PORT_STATUS_START_CUR n) (cur + 1)).set (F.PORT_STATUS_LAST n) 2).bump (F.PORT_STATUS_SEQ n))

/-- RX_OVERFLOW: a frame is lost toward the port switch (R413). -/
def execRxOverflow (x : RxArrival) (s : State) : Out := .next (inActive s fun s => (receiveFrame s x true).1)

/-! ### Received pauses (R415, R417) -/

/-- Does the port receive frames? In Rest it only counts them (R73). -/
def receives (s : State) (n : Nat) : Bool := portPresent s n && s.linkUp n && (s.pst == 3 || s.pst == 4)

/-- PAUSE_RX: a PAUSE of `quanta` holds every class but those whose pauses the watchdog ignores, in place of the one in force; a time of 0
ends it, and the watchdog's breaks (R417). -/
def execPauseRx (n quanta : Nat) (s : State) : Out :=
  .next (
    if !receives s n then s else
    let s := s.count (F.MAC_PAUSE_RX n)
    if s.pst = 4 || !s.flag (F.MAC_PAUSE_CTL_RX_LLP_EN n) then s
    else if quanta = 0 then showPaused ((s.setPort n { s.port n with llp := 0 }).set (F.MAC_PAUSE_STATE_WD_BROKEN n) 0) n
    else
      let broken := s.get (F.MAC_PAUSE_STATE_WD_BROKEN n)
      showPaused (s.setPort n { s.port n with llp := 0xFF - broken }) n)

/-- One class of a per-class pause. -/
def pfcClass (s : State) (n c q : Nat) : State :=
  if !bit (s.get (F.MAC_PAUSE_CTL_RX_PFC_EN n)) c then s else
  let p := s.port n
  let broken := s.get (F.MAC_PAUSE_STATE_WD_BROKEN n)
  if q = 0 then
    (s.setPort n { p with pfc := putBit p.pfc c false }).set (F.MAC_PAUSE_STATE_WD_BROKEN n) (putBit broken c false)
  else if bit broken c then s
  else s.setPort n { p with pfc := putBit p.pfc c true }

/-- PFC_RX: a per-class pause with its enable vector and eight times. -/
def execPfcRx (n : Nat) (enable : BitVec 8) (quanta : List Nat) (s : State) : Out :=
  .next (
    if !receives s n then s else
    let s := s.count (F.MAC_PFC_RX n)
    if s.pst = 4 then s
    else showPaused ((bitList enable.toNat 8).foldl (fun s c => pfcClass s n c (quanta.getD c 0)) s) n)

/-- PAUSE_EXPIRY: the time of a PAUSE (no class named) or of a class's pause ends. -/
def execPauseExpiry (n : Nat) (cls : Option Nat) (s : State) : Out :=
  .next (
    if !portPresent s n then s else
    match cls with
    | none => showPaused (s.setPort n { s.port n with llp := 0 }) n
    | some c => showPaused (s.setPort n { s.port n with pfc := putBit (s.port n).pfc c false }) n)

/-- Has the port a watchdog in use (R417)? -/
def watchdogOn (s : State) (n : Nat) : Bool := !s.variant && portPresent s n && s.get (F.MAC_PAUSE_CTL_WD_MS n) != 0

/-- PAUSE_WATCHDOG_EXPIRY: class `cls` has been held for WD_MS. -/
def execPauseWatchdogExpiry (n cls : Nat) (s : State) : Out :=
  .next (
    if !watchdogOn s n || 8 ≤ cls || !bit (pausedMask s n) cls then s else
    let p := s.port n
    let s := s.setPort n { p with pfc := putBit p.pfc cls false, llp := if bit p.llp cls then 0 else p.llp }
    let s := s.set (F.MAC_PAUSE_STATE_WD_BROKEN n) (s.get (F.MAC_PAUSE_STATE_WD_BROKEN n) ||| 2 ^ cls)
    let s := (s.count (F.MAC_PAUSE_WD n)).set (F.PORT_STATUS_LAST n) 3
    showPaused (s.bump (F.PORT_STATUS_SEQ n)) n)

/-- PAUSE_WATCHDOG_IGNORE_END: WD_MS more has passed. -/
def execPauseWatchdogIgnoreEnd (n cls : Nat) (s : State) : Out :=
  .next (
    if portPresent s n && cls < 8 then
      s.set (F.MAC_PAUSE_STATE_WD_BROKEN n) (putBit (s.get (F.MAC_PAUSE_STATE_WD_BROKEN n)) cls false)
    else s)

/-- PFC_RESEND_TIMER: a sent pause is renewed while the class stays above XOFF (R416); in Safe the pause of all classes. -/
def execPfcResendTimer (n cls : Nat) (s : State) : Out :=
  .next (
    if 32 ≤ n || !s.linkUp n then s
    else if s.pst = 5 then ctlSend s n 0xFF 0xFFFF
    else if s.pst = 3 && cls < 8 && bit (s.port n).xoff cls && xoffBytes s n < fromIngress s n cls then sendPfc s n cls 0xFFFF
    else s)

end Sys2Proof.Machine
end

