-- ==== Sys2Proof/Machine/Bays.lean ====
section
/-! DEFINITION. Laser cartridge bays: latch, identification, quiesce, resume and life accounting (R55–R57, R421–R429, R434). -/

namespace Sys2Proof.Machine

/-- An event of LB_STATUS: LAST, then SEQ. -/
def lbEvent (s : State) (m last : Nat) : State := (s.set (F.LB_STATUS_LAST m) last).bump (F.LB_STATUS_SEQ m)

/-- What the two-colour indicator of a bay shows (R55). -/
inductive Indicator where
  | off | green | greenBlink1Hz | amber | amberBlink2Hz
  deriving DecidableEq, Repr

/-- The indicator of bay `m`. None: the bay has none (R57), or is identifying its cartridge, for which the spec states none. -/
def indicator (s : State) (m : Nat) : Option Indicator :=
  if nBay s ≤ m then none
  else if s.pst ≤ 1 then some .off
  else
    match s.get (F.LB_STATUS_STATE m) with
    | 0 => some .off
    | 2 => some .green
    | 3 => some .greenBlink1Hz
    | 4 => some .amber
    | 5 => some .amberBlink2Hz
    | _ => none

/-- Both ports of a bay go down (R409). -/
def bayPortsDown (s : State) (m : Nat) : State := linkGoesDown (linkGoesDown s (2 * m)) (2 * m + 1)

/-- The lasers of a bay are lit: accepted and lasing, and the optics are on. -/
def lasersOn (s : State) (m : Nat) : Bool :=
  s.get (F.LB_STATUS_STATE m) == 2 && (s.pst == 2 || s.pst == 3 || (s.pst == 4 && !s.pw.opticsOff))

/-- LATCH_OPEN (R56, R428): the lasers go off. An opening while the bay lases, a running quiesce included, is an
unquiesced one; one during identification abandons it; a quiesced bay only remembers it. -/
def execLatchOpen (m : Nat) (s : State) : Out :=
  .next (
    if nBay s ≤ m then s else
    let b := s.bay m
    let s := (s.set (F.LB_STATUS_LATCH m) 0).setBay m { b with cart := none, quiescing := false, opened := true }
    if s.pst ≤ 1 then s else
    let st := s.get (F.LB_STATUS_STATE m)
    let s := s.setReg (F.LB_OUTPUT m).off 0
    if st = 2 then
      settle ((lbEvent (bayPortsDown (s.set (F.LB_STATUS_STATE m) 0) m) m 4).raise 24 m 4)
    else if st = 1 || st = 4 then s.set (F.LB_STATUS_STATE m) 0
    else s)

/-- LATCH_CLOSE: the latch closes on a cartridge, and identification starts unless the bay is fenced (R423, R429). In
Bring-up before stage 6 the identification waits for that stage (R66). -/
def execLatchClose (m : Nat) (s : State) : Out :=
  .next (
    if nBay s ≤ m || s.flag (F.LB_STATUS_LATCH m) then s else
    let s := s.set (F.LB_STATUS_LATCH m) 1
    if s.bayFenced m then s
    else if s.pst = 3 || s.pst = 4 || (s.pst = 2 && s.get F.BRUP_PROGRESS_CODE = 0x60) then s.set (F.LB_STATUS_STATE m) 1
    else s)

/-- A cartridge is refused: the bay stays dark and its source reports it (R423). -/
def refuseCartridge (s : State) (m last : Nat) : State :=
  (lbEvent (s.set (F.LB_STATUS_STATE m) 4) m last).raise 24 m last

/-- REMAIN_MIN of a cartridge (R425). -/
def remainMin (rated weighted : Nat) : Nat := rated * 60 - weighted / 256

/-! Fields of the identity record (R421). -/

def cartMagic (c : Cartridge) : Nat := fieldLE c.record 0 4
def cartVersion (c : Cartridge) : Nat := fieldLE c.record 4 2
def cartClass (c : Cartridge) : Nat := fieldLE c.record 6 2
def cartSerial (c : Cartridge) : Nat := fieldLE c.record 8 8
def cartDate (c : Cartridge) : Nat := fieldLE c.record 0x10 4
def cartHours (c : Cartridge) : Nat := fieldLE c.record 0x14 4

/-- A cartridge is accepted: its life area is read and its lasers go on (R422, R423). -/
def acceptCartridge (s : State) (m : Nat) (c : Cartridge) : State :=
  let (p, w) := match currentLife c with | some l => (lifePowered l, lifeWeighted l) | none => (0, 0)
  let r := remainMin (cartHours c) w
  let s := ((s.setReg (F.LB_POWERED_MIN m).off p).setReg (F.LB_WEIGHTED m).off w).setReg (F.LB_REMAIN_MIN m).off r
  let s := (s.set (F.LB_STATUS_EOL_WARN m) (b2n (decide (r ≤ 150000)))).set (F.LB_STATUS_EOL m) (b2n (r == 0))
  let s := s.setBay m { cart := some c }
  lbEvent (s.set (F.LB_STATUS_STATE m) 2) m 0

/-- Show the record of the cartridge last identified (R434). -/
def showCartridge (s : State) (m : Nat) (c : Cartridge) : State :=
  let s := s.set (F.LB_CLASS_CART_CLASS m) (cartClass c)
  let s := (s.setReg (F.LB_SERIAL_LO m).off (cartSerial c)).setReg (F.LB_SERIAL_HI m).off ((cartSerial c) / 2 ^ 32)
  s.setReg (F.LB_MFG_DATE m).off (cartDate c)

/-- CARTRIDGE_IDENTIFIED: the checks of R423 in order. -/
def execCartridgeIdentified (m : Nat) (c : Cartridge) (s : State) : Out :=
  .next (
    if nBay s ≤ m || s.get (F.LB_STATUS_STATE m) ≠ 1 || !s.flag (F.LB_STATUS_LATCH m) || s.pst < 2 || s.pst = 5 then s
    else
      let s := s.setBay m { s.bay m with cart := some c }
      settle (
        if !c.readable || (cartMagic c) ≠ 0x5452434C || (cartVersion c) ≠ 1 then refuseCartridge s m 3
        else
          let s := showCartridge s m c
          if !Config.slhDsa128f Config.cartridgeKey (slice c.record 0 256) c.signature then refuseCartridge s m 2
          else if (cartClass c) ≠ s.get (F.LB_CLASS_BAY_CLASS m) then refuseCartridge s m 1
          else acceptCartridge s m c))

/-- LB_CMD OP 1: accepted only in STATE 2 with the latch closed (R427). -/
def lbQuiesce (s : State) (m : Nat) : State :=
  if nBay s ≤ m then s.ignWrite
  else if s.get (F.LB_STATUS_STATE m) = 2 && s.flag (F.LB_STATUS_LATCH m) then
    s.setBay m { s.bay m with quiescing := true }
  else lbEvent s m 8

/-- LB_CMD OP 2: accepted only in STATE 3 when the latch has not opened since the quiesce (R427). -/
def lbResume (s : State) (m : Nat) : State :=
  if nBay s ≤ m then s.ignWrite
  else if s.get (F.LB_STATUS_STATE m) = 3 && !(s.bay m).opened then s.set (F.LB_STATUS_STATE m) 2
  else lbEvent s m 8

/-- LB_QUIESCE. -/
def execLbQuiesce (m : Nat) (s : State) : Out := .next (regCmd s false fun s => lbQuiesce s m)

/-- LB_RESUME. -/
def execLbResume (m : Nat) (s : State) : Out := .next (regCmd s false fun s => lbResume s m)

/-- QUIESCE_COMPLETE: steps 2 to 5 of R427. -/
def execQuiesceComplete (m : Nat) (s : State) : Out :=
  .next (
    if nBay s ≤ m || !(s.bay m).quiescing || s.get (F.LB_STATUS_STATE m) ≠ 2 || !(s.pst = 3 || s.pst = 4) then s
    else
      let s := writeLife (bayPortsDown s m) m
      let s := s.setBay m { s.bay m with quiescing := false, opened := false }
      lbEvent ((s.setReg (F.LB_OUTPUT m).off 0).set (F.LB_STATUS_STATE m) 3) m 5)

/-- The end-of-life events (R426). -/
def lifeEvents (s : State) (m r : Nat) : State :=
  let s := if r ≤ 150000 && !s.flag (F.LB_STATUS_EOL_WARN m) then
      (lbEvent (s.set (F.LB_STATUS_EOL_WARN m) 1) m 6).raise 24 m 6 else s
  if r = 0 && !s.flag (F.LB_STATUS_EOL m) then (lbEvent (s.set (F.LB_STATUS_EOL m) 1) m 7).raise 24 m 7 else s

/-- LIFE_MINUTE: one minute of lasing at an output fraction of `fraction`/256 (R425). A fraction of 256 does not fit
LB_OUTPUT, and the spec states no value for it: the field is then a free value. -/
def execLifeMinute (m fraction : Nat) (s : State) : Out :=
  .next (
    if nBay s ≤ m || !lasersOn s m then s else
    match (s.bay m).cart with
    | none => s
    | some c =>
      let w := s.reg (F.LB_WEIGHTED m).off + fraction
      let r := remainMin (cartHours c) w
      let s := s.setReg (F.LB_POWERED_MIN m).off (s.reg (F.LB_POWERED_MIN m).off + 1)
      let s := (s.setReg (F.LB_WEIGHTED m).off w).setReg (F.LB_REMAIN_MIN m).off r
      let (o, s) := if fraction < 256 then (fraction, s) else (let (v, s) := s.fresh; (v.toNat % 256, s))
      let s := s.set (F.LB_OUTPUT_FRACTION m) o
      settle (lifeEvents (s.setBay m { s.bay m with minutes := (s.bay m).minutes + 1 }) m r))

/-- LIFE_AREA_WRITE: every ten minutes of lasing (R422, R425). -/
def execLifeAreaWrite (m : Nat) (s : State) : Out :=
  .next (if m < nBay s && lasersOn s m && 10 ≤ (s.bay m).minutes then writeLife s m else s)

end Sys2Proof.Machine
end

