-- ==== Sys2Proof/Machine/Gcm.lean ====
section
/-! DEFINITION. AES-256-GCM of NIST SP 800-38D, which R466 names, over the uninterpreted block function of Config: counter
mode, GHASH and tags, with 96-bit nonces and 16-byte tags. -/

namespace Sys2Proof.Machine

/-- One step of the product in GF(2^128) of SP 800-38D. -/
def gfStep (x i : Nat) (zv : Nat × Nat) : Nat × Nat :=
  let (z, v) := zv
  (if x.testBit (127 - i) then z ^^^ v else z, if v.testBit 0 then (v / 2) ^^^ (0xE1 * 2 ^ 120) else v / 2)

/-- The product of two blocks. -/
def gfMul (x y : Nat) : Nat := ((List.range 128).foldl (fun zv i => gfStep x i zv) (0, y)).1

/-- Cut into blocks of 16 bytes, the last padded with zeros. -/
def blocks16 : (fuel : Nat) → List Byte → List Nat
  | 0, _ => []
  | k + 1, bs => if bs = [] then [] else ofBE (slice bs 0 16) :: blocks16 k (bs.drop 16)

def blocksOf (bs : List Byte) : List Nat := blocks16 (bs.length / 16 + 1) bs

def aes (key : BitVec 256) (block : Nat) : Nat := (Config.aes256 key (BitVec.ofNat 128 block)).toNat

/-- GHASH over additional data and ciphertext, with their lengths. -/
def ghash (key : BitVec 256) (aad ct : List Byte) : Nat :=
  let h := aes key 0
  (blocksOf aad ++ blocksOf ct ++ [8 * aad.length * 2 ^ 64 + 8 * ct.length]).foldl (fun a b => gfMul (a ^^^ b) h) 0

/-- The counter block of block `i` of the text; block 0 of the counter is the tag's. -/
def ctrBlock (nonce : List Byte) (i : Nat) : Nat := ofBE (slice nonce 0 12) * 2 ^ 32 + (i + 2) % 2 ^ 32

/-- Key stream XOR of text bytes from text offset `off` on. -/
def gcmXor (key : BitVec 256) (nonce : List Byte) (off : Nat) (bs : List Byte) : List Byte :=
  (List.range bs.length).map fun k =>
    let p := off + k
    (bs.getD k 0#8) ^^^ ((toBE 16 (aes key (ctrBlock nonce (p / 16)))).getD (p % 16) 0#8)

/-- The tag (16 bytes). -/
def gcmTag (key : BitVec 256) (nonce aad ct : List Byte) : List Byte :=
  toBE 16 (ghash key aad ct ^^^ aes key (ofBE (slice nonce 0 12) * 2 ^ 32 + 1))

end Sys2Proof.Machine
end

