-- ==== Sys2Proof/Machine/Engines.lean ====
section
/-! DEFINITION. The crossbar and the completion of descriptors (R17, R18, R149, R150, R170, R178). -/

namespace Sys2Proof.Machine

/-! ### Crossbar (R17) -/

/-- The descriptor that the crossbar delivers next to engine `e`, of the `n` sequencers' descriptors, and whether the pointer moves. -/
def xbarPick (n : Nat) (g : Engine) (e : Nat) : Option (Desc × Bool) :=
  let others := g.input.filter fun d => !fromHome d
  match g.input.find? fromHome with
  | some d =>
    if queueRoom g.queue true then some (d, false) else none
  | none =>
    if queueRoom g.queue false then
      (rotate n g.ptr fun k => k != homeOf e && others.any fun d => d.th.dom == k).bind fun k =>
        (others.find? fun d => d.th.dom == k).map fun d => (d, 1 < others.length)
    else none

/-- When the home sequencer's descriptor may take no entry, the queue is full and no other may either (R16). -/
def xbarDeliver (s : State) (e : Nat) : State :=
  let g := s.engine e
  match xbarPick (nDom s) g e with
  | none => s
  | some (d, move) =>
    let g := { g with
      input := g.input.erase d, queue := g.queue ++ [d], ptr := if move then (g.ptr + 1) % nDom s else g.ptr }
    markStuck (s.setEngine e g) e

/-- XBAR_DELIVER (R17, R18). -/
def execXbarDeliver (e : Nat) (s : State) : Out := .next (inActive s fun s => xbarDeliver s e)

/-! ### Completion (R170) -/

/-- The failure latch keeps the first failure and counts them (R170). -/
def latchFailure (x : Thread) (code tag : Nat) : Thread :=
  { x with
    latchCode := if x.latchCount = 0 then code else x.latchCode,
    latchTag := if x.latchCount = 0 then tag else x.latchTag,
    latchCount := min (x.latchCount + 1) (2 ^ 24 - 1) }

/-- The counts of FENCE.E and FENCE.F, and the failure latch, in the issuing thread. -/
def tally (d : Desc) (code : Nat) (x : Thread) : Thread :=
  let x := if d.post then { x with outF := x.outF - 1 } else { x with outE := x.outE - 1 }
  if code ≠ 0 && d.ew.isNone then latchFailure x code (dTag d.w) else x

/-- What a completion does in the issuing thread, if it has not ended (R170, R178, R186); a thread that a freeze has saved
(R458) keeps its counts. -/
def threadDone (s : State) (d : Desc) (code : Nat) : State :=
  let x := s.thr d.th
  if x.live ≠ d.live || x.st = .free then
    mapSaved s (dCtx d.w) fun e => if e.2.live = d.live && d.live ≠ 0 then (e.1, tally d code e.2) else e
  else if x.st = .halted then s
  else
    let s := s.setThr d.th (tally d code x)
    match d.ew with
    | some gd => if (s.thr d.th).pend = .issuew then s.resume d.th (·.setG gd (BitVec.ofNat 64 code)) else s
    | none => s

/-- The unit that sends a descriptor's signals: its engine, or the transport unit (R141). -/
def sigReq (d : Desc) : Nat := if d.post then 80 else 16 + d.eng

/-- The signals of a completion, in order (R170). -/
def signalDone (s : State) (d : Desc) (code : Nat) : State :=
  let ask (obj n : Nat) : SyncReq := { req := sigReq d, obj := obj, ctx := some (dCtx d.w), op := .signal n, th := none }
  let s := if dSigAdd d.w = 0 then s else s.syncSend (ask (dSync d.w) (dSigAdd d.w))
  if code ≠ 0 && dFsyncEn d.w then s.syncSend (ask (dFsync d.w) 1) else s

/-- The completion of a descriptor is recorded (R170). -/
def recordDone (s : State) (d : Desc) (code : Nat) : State :=
  reclaim (threadDone (signalDone (s.trkGive d.no) d code) d code)

/-- Record the oldest ended descriptor. -/
def completeOne (s : State) : State :=
  match s.en.ended with
  | [] => s
  | x :: rest => recordDone { s with en := { s.en with ended := rest } } x.d x.code

end Sys2Proof.Machine
end

