-- ==== Sys2Proof/Machine/Reduction.lean ====
section
/-! DEFINITION. The reduction engines (ch. 07): checks, blocks of results, tile release, self-check mismatches and remainders. -/

namespace Sys2Proof.Machine

/-! ### Descriptor and record (R192, R201–R204) -/

/-- OP, IN_FMT, OUT_FMT and RND of a valid combination (R192). -/
def redCombo (op i o : Nat) (rnd : Bool) : Bool :=
  if op ≤ 3 then (i ≤ 10 && o ≤ 10) || (isInt i && isInt o && !rnd)
  else if op = 4 then (i == 0 && o == 0) || (i == 11 && o == 11 && !rnd)
  else op ≤ 7 && i == o && isInt i && !rnd

/-- Does the descriptor need a field of the record (R203)? -/
def redNeedsRec (d : BitVec 256) : Bool := 3 ≤ redNsrc d || redComp d || dRnd d || redOp d == 3

/-- What is checked before the record is read. -/
def redFieldsOk (d : BitVec 256) : Bool :=
  redCombo (redOp d) (dInFmt d) (dOutFmt d) (dRnd d) && dfield d 3 63 1 == 0
    && (!redNeedsRec d || redPrm d)
    && (!redComp d || (redOp d == 0 && dInFmt d ≤ 10 && dOutFmt d == 0 && redAcc d))
    && (!(isMx (dInFmt d) || isMx (dOutFmt d)) || dCount d % 32 == 0)

/-- Source addresses in order (R193). -/
def redSrcs (d : BitVec 256) (r : List Byte) : List Nat :=
  [tileField d 2 0, tileField d 3 0, fieldLE r 0 8, fieldLE r 8 8].take (redNsrc d)

def redErr (r : List Byte) : Nat := fieldLE r 0x10 8
def redSeed (d : BitVec 256) (r : List Byte) : Option Nat := if dRnd d then some (fieldLE r 0x18 8) else none
def redRecip (r : List Byte) : FV := of32 (fieldLE r 0x20 4)

/-- The record and every operand (R203, R204). -/
def redOperandsOk (s : State) (d : Desc) (r : List Byte) : Bool :=
  let w := d.w
  let ctx := dCtx w
  let n := dCount w
  (!redPrm w || fieldLE r 0x24 28 == 0)
    && (!(redOp w == 3 && isInt (dInFmt w)) || (match redRecip r with | .num _ _ _ => true | _ => false))
    && ((redSrcs w r).all fun a => a % 2048 == 0 && opCovered s .engine rRead ctx d.no a (operandBytes (dInFmt w) n))
    && opCovered s .engine (if redAcc w then rRead + rWrite else rWrite) ctx d.no (dDst w) (operandBytes (dOutFmt w) n)
    && (!redComp w || (redErr r % 2048 == 0 && inStaging s (rRead + rWrite) ctx (redErr r) (4 * n)))

/-! ### Blocks of 32 results (R193–R195, R199–R201) -/

/-- One FP32 step of an operation. -/
def redStep (op : Nat) (x y : FV) : FV :=
  match op with
  | 1 => x.max y
  | 2 => x.min y
  | 4 => x.mul y
  | _ => x.add y

/-- The operands of an element combined from left to right, AVG then times RECIP (R193). -/
def redFloat (op : Nat) (recip : FV) : List FV → FV
  | [] => .nan
  | x :: xs =>
    let v := xs.foldl (redStep op) x
    if op = 3 then v.mul recip else v

/-- Integer operands combined exactly (R194). -/
def redInt (op : Nat) (recip : FV) : List Int → Int
  | [] => 0
  | x :: xs =>
    match op with
    | 1 => xs.foldl max x
    | 2 => xs.foldl min x
    | 4 => xs.foldl (· * ·) x
    | 3 =>
      let t := xs.foldl (· + ·) x
      (match recip with
       | .num n m e => roundInt .near (n != decide (t < 0)) (t.natAbs * m) e
       | _ => t)
    | _ => xs.foldl (· + ·) x

/-- Bitwise operations on the raw bits. -/
def redBits (op : Nat) : List Nat → Nat
  | [] => 0
  | x :: xs => xs.foldl (fun a b => if op = 5 then a &&& b else if op = 6 then a ||| b else a ^^^ b) x

/-- Compensated summation of one element (R201): the sum and the error term. -/
def redComp1 (dst err : FV) (xs : List FV) : FV × FV :=
  xs.foldl (fun (s, e) x =>
    let y := x.sub e
    let t := s.add y
    (t, (t.sub s).sub y)) (dst, err)

/-- A block's operand: format, its data bytes and scale. -/
structure OperandBlock where
  fmt : Nat
  data : List Byte
  scale : Nat
  deriving DecidableEq, Repr

/-- Element `i` of an operand block as FP32. -/
def OperandBlock.fv (b : OperandBlock) (ftz : Bool) (i : Nat) : FV := decodeElem b.fmt ftz b.data b.scale i

/-- Element `i` as raw bits. -/
def OperandBlock.raw (b : OperandBlock) (i : Nat) : Nat := elemAt b.data (elemBits b.fmt) i

/-- A block of `n` results, `first` the index of its first element, with its error terms where COMP = 1. -/
def redBlock (d : BitVec 256) (r : List Byte) (ops : List OperandBlock) (err : List Byte) (first n : Nat) :
    BlockOut × List Byte :=
  let op := redOp d
  let ftz := dFtz d
  let out := dOutFmt d
  let wo := elemBits out
  if isInt out then
    let res := (List.range n).map fun i =>
      if 5 ≤ op then (((redBits op (ops.map fun b => b.raw i) : Nat) : Int), false)
      else satInt wo (redInt op (redRecip r) (ops.map fun b => sext (elemBits b.fmt) (b.raw i)))
    ({ elems := res.map fun x => intBits wo x.1, sats := (res.filter (·.2)).length }, [])
  else if redComp d then
    let res := (List.range n).map fun i =>
      match ops with
      | [] => (FV.nan, FV.nan)
      | dst :: srcs => redComp1 (dst.fv ftz i) (of32 (fieldLE err (4 * i) 4)) (srcs.map fun (b : OperandBlock) => b.fv ftz i)
    (encodeBlock 0 none ftz first (res.map (·.1)), res.flatMap fun x => toLE 4 (bits32 x.2))
  else
    (encodeBlock out (redSeed d r) ftz first
      ((List.range n).map fun i => redFloat op (redRecip r) (ops.map fun (b : OperandBlock) => b.fv ftz i)), [])

/-! ### One output tile (R206) -/

/-- Where the elements of output tile `t` are: first and one past the last block of 32. -/
def tileBlocks (w n t : Nat) : Nat × Nat :=
  let bb := 4 * w
  (t * 2048 / bb, min (cdiv n 32) (((t + 1) * 2048 - 1) / bb + 1))

/-- Blocks whose last data byte lies in tile `t`. -/
def endsIn (w t b : Nat) : Bool := ((b + 1) * (4 * w) - 1) / 2048 == t

/-- Read pieces of operands, in order. -/
def readMany (s : State) (w : Who) (req ctx no : Nat) : List (Nat × Nat) → State × Got × List (List Byte)
  | [] => (s, .ok [], [])
  | (a, n) :: ps =>
    match readOp s w req ctx no a n with
    | (s, .ok bs) =>
      match readMany s w req ctx no ps with
      | (s, g, r) => (s, g, bs :: r)
    | (s, g) => (s, g, [])

/-- The pieces of an operand that blocks b0 to b1 − 1 need: data, and scale bytes for an MX format. -/
def operandPieces (fmt addr n b0 b1 : Nat) : List (Nat × Nat) :=
  let w := elemBits fmt
  let m := min n (32 * b1) - 32 * b0
  (addr + 4 * w * b0, dataBytes w m) :: (if isMx fmt then [(addr + scaleOff w n + b0, b1 - b0)] else [])

/-- Cut what was read for one operand into blocks. -/
def cutBlocks (fmt : Nat) (data scales : List Byte) (nb : Nat) : List OperandBlock :=
  (List.range nb).map fun k =>
    { fmt := fmt, data := (data.drop (4 * elemBits fmt * k)).take (4 * elemBits fmt), scale := (scales.getD k 0#8).toNat }

/-- Operand formats and addresses in the order of R193. -/
def redOperands (d : BitVec 256) (r : List Byte) : List (Nat × Nat) :=
  (if redAcc d then [(dOutFmt d, dDst d)] else []) ++ (redSrcs d r).map fun a => (dInFmt d, a)

/-- Give each operand its pieces back. -/
def gatherBlocks (nb : Nat) : List (Nat × Nat) → List (List Byte) → List (List OperandBlock)
  | [], _ => []
  | (fmt, _) :: os, ps =>
    let scales := if isMx fmt then ps.getD 1 [] else []
    cutBlocks fmt (ps.headD []) scales nb :: gatherBlocks nb os (ps.drop (if isMx fmt then 2 else 1))

/-- A result block as numbers: scale, saturations, NaN outputs, elements. -/
def BlockOut.carry (b : BlockOut) : List Nat := b.scale :: b.sats :: b.nans :: b.elems

def BlockOut.ofCarry : List Nat → Option BlockOut
  | x :: y :: z :: es => some { elems := es, scale := x, sats := y, nans := z }
  | _ => none

/-- What a tile's computation gives: what is written (operand address, bytes), saturations, NaN outputs, and the last block's result
where the block ends in the next tile. -/
structure TileOut where
  writes : List (Nat × List Byte)
  sats : Nat
  nans : Nat
  carry : List Nat
  deriving DecidableEq, Repr

/-- The results of output tile `t`. A block that began in the tile before has the result it had then, `carry` (R200, R211): its
operands may have been overwritten since (R205). -/
def redTile (d : BitVec 256) (r : List Byte) (t : Nat) (ops : List (List OperandBlock)) (err : List Byte) (carry : List Nat) :
    TileOut :=
  let n := dCount d
  let out := dOutFmt d
  let w := elemBits out
  let (b0, b1) := tileBlocks w n t
  let res := (List.range (b1 - b0)).map fun k =>
    let m := min 32 (n - 32 * (b0 + k))
    match (if k = 0 then BlockOut.ofCarry carry else none) with
    | some b => (b, [])
    | none => redBlock d r (ops.map fun o => o.getD k ⟨0, [], 0⟩) (slice err (128 * k) (4 * m)) (32 * (b0 + k)) m
  let data := packElems w (res.flatMap (·.1.elems))
  let len := min 2048 (dataBytes w n - t * 2048)
  let piece := slice data (t * 2048 - b0 * (4 * w)) len
  let mine := (List.range (b1 - b0)).filter fun k => endsIn w t (b0 + k)
  let mineRes := mine.map fun k => (res.getD k ({ elems := [] }, [])).1
  let scales : List (Nat × List Byte) := match isMx out, mine with
    | true, k :: _ => [(dDst d + scaleOff w n + b0 + k, mineRes.map fun b => BitVec.ofNat 8 b.scale)]
    | _, _ => []
  let errs : List (Nat × List Byte) :=
    if redComp d then [(redErr r + t * 2048, res.flatMap (·.2))] else []
  let counted := if isMx out then mineRes else res.map (·.1)
  { writes := (dDst d + t * 2048, piece) :: scales ++ errs,
    sats := (counted.map (·.sats)).sum,
    nans := (counted.map (·.nans)).sum,
    carry := if endsIn w t (b1 - 1) then [] else (res.getLastD ({ elems := [] }, [])).1.carry }

/-- Ranges of the destination and ERR whose elements are unpredictable (R205). -/
def redOverlaps (d : BitVec 256) (r : List Byte) : List (Nat × Nat) :=
  let n := dCount d
  let dst := areas (dOutFmt d) (dDst d) n
  let src (a : Nat) := areas (dInFmt d) a n
  let err : List (Nat × Nat × Nat) := [(32, redErr r, 4 * n)]
  let same (a : Nat) : Bool := a == dDst d && elemBits (dInFmt d) == elemBits (dOutFmt d)
  ((redSrcs d r).flatMap fun a => if same a then [] else meetElems dst (src a))
    ++ (if redComp d then
          meetElems dst err ++ meetElems err dst ++ (redSrcs d r).flatMap fun a => meetElems err (src a)
        else [])

/-- Output tiles of a descriptor. -/
def redTiles (d : BitVec 256) : Nat := cdiv (dataBytes (elemBits (dOutFmt d)) (dCount d)) 2048

/-! ### Writing a released tile -/

/-- Do the stored tiles that these pieces write in part pass their checks (R206)? -/
def storedOk (s : State) (req ctx no : Nat) : List (Nat × List Byte) → State × Got
  | [] => (s, .ok [])
  | (a, bs) :: ps =>
    match firstFault s .engine rWrite ctx no a bs.length with
    | some g => (s, g)
    | none =>
      match readStored s (cutRange a bs.length) with
      | (s, 0) => storedOk s req ctx no ps
      | (s, c) => (s, .fail c)
where
  readStored (s : State) : List (Nat × Nat) → State × Nat
    | [] => (s, 0)
    | (a, n) :: r =>
      match opTranslate s .engine rWrite ctx no a n with
      | .mem pa =>
        if s.tileFenced (tileOf pa) then (s, 0x7F)
        else if n = 2048 then readStored s r
        else
          match s.tileCheck req (tileOf pa) with
          | (s, 0) => readStored s r
          | x => x
      | _ => (s, 0x20)

/-- Write pieces whose tiles have been checked, unpredictable elements as free values. -/
def writeFree (s : State) (req ctx no : Nat) (rs : List (Nat × Nat)) : List (Nat × List Byte) → State
  | [] => s
  | (a, bs) :: ps =>
    let (s, bs) := if rs = [] then (s, bs) else freeBytes s rs a bs
    writeFree (writeOp s .engine req ctx no a bs).1 req ctx no rs ps

/-! ### Self-check mismatches (R211, R212) -/

/-- The next reduction engine that is neither fenced nor `e` itself. -/
def nextRed (s : State) (e : Nat) : Option Nat :=
  ((List.range (nDom s)).map fun k => 4 * ((e / 4 + 1 + k) % nDom s)).find? fun f => f != e && !s.engFenced f

/-- A self-check mismatch: reported, and the rest of the descriptor handed on; it completes from the receiving engine, which sends its
signals (R141). -/
def redMismatch (s : State) (e : Nat) (r : Run) (residue : Bool) : State :=
  let d := e / 4
  let s := (s.set (F.RED_STATUS_LAST_CHECK d) (b2n residue)).set (F.RED_STATUS_LAST_TILE d) r.pos
  let s := s.bump (F.RED_STATUS_SEQ d)
  let s := if residue then s.count (F.RED_RESIDUE_ERR d) else s.count (F.RED_CKSUM_ERR d)
  let s := s.raise 16 e (b2n residue)
  if r.rem then endRun s e r 0x30 else
  match nextRed s e with
  | none => endRun s e r 0x30
  | some f =>
    let s := countBusy (s.setEngine e { s.engine e with run := none }) e r.cost 0x30
    let g := s.engine f
    let rest : Run := { r with rem := true, cost := 0, d := { r.d with eng := f } }
    (s.setEngine f { g with incoming := g.incoming ++ [rest] }).count (F.RED_REISSUE_OUT d)

/-! ### Commands -/

/-- A descriptor that the engine has taken: its checks in the order of R215, and its record. -/
def redStart (s : State) (e : Nat) (d : Desc) : State :=
  let s := s.count (F.RED_DESCRIPTORS (e / 4))
  let go (s : State) (rec : List Byte) : State :=
    if redOperandsOk s d rec then
      s.setEngine e { s.engine e with run := some { d := d, bytes := rec, cost := (descCost s d.w d.no).1 } }
    else refuseTaken s d 0x20
  if !redFieldsOk d.w then refuseTaken s d 0x20
  else if redPrm d.w then
    let a := recAddr d.w 3
    if !inStaging s rRead (dCtx d.w) a 64 then refuseTaken s d 0x20 else
    match readOp s .engine e (dCtx d.w) d.no a 64 with
    | (s, .ok rec) => go s rec
    | (s, .fail c) => recordFails s d c
    | (s, .park _ _) => refuseTaken s d 0x20
  else go s []

/-- The first element of output tile `t`. -/
def tileFirst (d : BitVec 256) (t : Nat) : Nat := t * 2048 * 8 / elemBits (dOutFmt d)

/-- A remainder starts: it is charged to no program (R211). -/
def remStart (s : State) (e : Nat) (r : Run) : State :=
  let c := (redCost r.d.w (dCount r.d.w - tileFirst r.d.w r.pos)).1
  let g := s.engine e
  let s := s.setEngine e { g with run := some { r with cost := c }, remainder := g.remainder.drop 1, spent := g.spent + c }
  s.count (F.RED_DESCRIPTORS (e / 4))

/-- RED_DESCRIPTOR_START (R107, R108, R215). -/
def execRedDescriptorStart (e : Nat) (s : State) : Out :=
  .next (inActive s fun s => settle <|
    if nEng s ≤ e || e % 4 ≠ 0 || s.engFenced e then s else
    match pickNext s e with
    | .none => s
    | .resume r => resumeRun s e r
    | .remainder r => remStart s e r
    | .over d => refuseOver s e d
    | .start d => redStart (chargeStart s e d) e d)

/-- Has the descriptor sums that the residue covers: SUM, AVG and compensated sums (R209)? -/
def residueCovers (d : BitVec 256) : Bool := redOp d == 0 || redOp d == 3

/-- The running descriptor's next output tile (R206, R209–R211, R214). -/
def redRelease (s : State) (e : Nat) (r : Run) (chk : RedCheck) : State :=
  let d := r.d
  let ctx := dCtx d.w
  let w := elemBits (dOutFmt d.w)
  let n := dCount d.w
  let (b0, b1) := tileBlocks w n r.pos
  let ops := redOperands d.w r.bytes
  let pieces := ops.flatMap fun o => operandPieces o.1 o.2 n b0 b1
  let errPieces : List (Nat × Nat) :=
    if redComp d.w then [(redErr r.bytes + 128 * b0, 4 * (min n (32 * b1) - 32 * b0))] else []
  match readMany s .engine e ctx d.no (pieces ++ errPieces) with
  | (s, .park k p, _) => parkRun s e r k p
  | (s, .fail c, _) => endRun s e r c
  | (s, .ok _, got) =>
    let err := if redComp d.w then got.getLastD [] else []
    let x := redTile d.w r.bytes r.pos (gatherBlocks (b1 - b0) ops got) err r.acc
    if chk = .residue && residueCovers d.w then redMismatch s e r true else
    match storedOk s e ctx d.no x.writes with
    | (s, .park k p) => parkRun s e r k p
    | (s, .fail c) => endRun s e r c
    | (s, .ok _) =>
      if chk = .checksum then redMismatch s e r false else
      let s := writeFree s e ctx d.no (redOverlaps d.w r.bytes) x.writes
      let s := (s.count (F.RED_SATURATED (e / 4)) x.sats).count (F.RED_NAN_OUT (e / 4)) x.nans
      let r := { r with pos := r.pos + 1, acc := x.carry }
      if redTiles d.w ≤ r.pos then endRun s e r 0 else s.setEngine e { s.engine e with run := some r }

/-- RED_TILE_RELEASE: the running descriptor releases its next tile, or `chk` names the check that fails (R206, R211); a residue names
none where the operation has no sums that it covers (R209). -/
def execRedTileRelease (e : Nat) (chk : RedCheck) (s : State) : Out :=
  .next (inActive s fun s => settle <|
    if nEng s ≤ e || e % 4 ≠ 0 then s else
    match (s.engine e).run with
    | none => s
    | some r => if r.park.isSome then s else redRelease s e r chk)

/-- RED_REMAINDER_DELIVERED: a remainder goes to the head of its new engine's queue (R211). -/
def execRedRemainderDelivered (e : Nat) (s : State) : Out :=
  .next (inActive s fun s =>
    let g := s.engine e
    match g.incoming with
    | [] => s
    | r :: rest =>
      (s.setEngine e { g with incoming := rest, remainder := r :: g.remainder }).count (F.RED_REISSUE_IN (e / 4)))

end Sys2Proof.Machine
end

