-- ==== Sys2Proof/Machine/Cipher.lean ====
section
/-! DEFINITION. The cipher engines' descriptors (R466–R478). -/

namespace Sys2Proof.Machine

/-! ### The descriptor and its record (R474, R475) -/

def ceFieldsOk (d : BitVec 256) : Bool :=
  dfield d 1 22 19 == 0 && dfield d 1 63 1 == 0 && dfield d 2 48 16 == 0 && dfield d 3 48 16 == 0

def ceSrc (d : BitVec 256) : Nat := dfield d 2 0 48
def ceDst (d : BitVec 256) : Nat := dfield d 3 0 48
def ceLen (r : List Byte) : Nat := fieldLE r 0 4
def ceAadLen (r : List Byte) : Nat := fieldLE r 4 4
def ceAad (r : List Byte) : Nat := fieldLE r 8 8
def ceNonce (r : List Byte) : List Byte := slice r 0x10 12
def ceTag (r : List Byte) : List Byte := slice r 0x20 16

/-- Row 3 of R478, after the record has been read; bytes that R475 does not name are 0 (R219). -/
def ceRecordOk (s : State) (d : Desc) (r : List Byte) : Bool :=
  let ctx := dCtx d.w
  fieldLE r 0x1C 4 == 0 && fieldLE r 0x30 12 == 0
    && 1 ≤ ceLen r && ceLen r ≤ 2 ^ 30 && ceAadLen r ≤ 4096
    && (ceAadLen r == 0 || inStaging s rRead ctx (ceAad r) (ceAadLen r))
    && opCovered s .engine rRead ctx d.no (ceSrc d.w) (ceLen r)
    && opCovered s .engine rWrite ctx d.no (ceDst d.w) (ceLen r)

/-- The key that a descriptor copies when it starts (R470, R471): the entry valid, with USE = 1. -/
def State.ceKey (s : State) (ctx idx : Nat) : Option (BitVec 256) :=
  match smFind s.ci.keys (256 * ctx + idx) with
  | some (true, k) => some k
  | _ => none

/-- Destination bytes that hold free values (R475): DST may equal SRC exactly, and nothing else. -/
def ceOverlaps (d : BitVec 256) (r : List Byte) : List (Nat × Nat) :=
  let n := ceLen r
  let a := ceDst d
  (if ceSrc d = a then [] else overlap 8 a n (ceSrc d) n)
    ++ (if ceAadLen r = 0 then [] else overlap 8 a n (ceAad r) (ceAadLen r))
    ++ overlap 8 a n (recAddr d 1) 64

/-! ### A run: `bytes` is the record, the AAD and the ciphertext so far; `acc` the key, the pass, the first pass's GHASH -/

def ceRec (r : Run) : List Byte := r.bytes.take 64
def ceAadOf (r : Run) : List Byte := slice (r.bytes.drop 64) 0 (ceAadLen (ceRec r))
def ceText (r : Run) : List Byte := r.bytes.drop (64 + ceAadLen (ceRec r))
def ceKeyOf (r : Run) : BitVec 256 := BitVec.ofNat 256 (r.acc.getD 0 0)

/-- The output tiles: piece and offset in the text. -/
def ceTiles (r : Run) : List (Nat × Nat) := cutRange (ceDst r.d.w) (ceLen (ceRec r))

/-- A self-check mismatch while pipe `pipe` works (R467, R497). -/
def ceMismatch (s : State) (e pipe : Nat) : State :=
  let dom := e / 4
  (((s.set (F.CE_STATUS_PIPE dom) pipe).bump (F.CE_STATUS_SEQ dom)).count (F.CE_CHECK_ERR dom)).raise 17 e pipe

/-- Release output tiles from the run's position on (R476): read, cipher, write. The answer is `none` when every tile has
been released, else how the run stops; `bad` is the tile at which a self-check mismatch occurs. -/
def ceRelease (s : State) (e : Nat) (bad : Option Nat) : (fuel : Nat) → Run → State × Run × Option Got
  | 0, r => (s, r, none)
  | k + 1, r =>
    let d := r.d
    match (ceTiles r)[r.pos]? with
    | none => (s, r, none)
    | some (a, n) =>
      let off := a - ceDst d.w
      if bad = some r.pos then (ceMismatch s e (b2n (ceDir d.w)), r, some (.fail 0x30)) else
      match readOp s .engine e (dCtx d.w) d.no (ceSrc d.w + off) n with
      | (s, .ok bs) =>
        let x := gcmXor (ceKeyOf r) (ceNonce (ceRec r)) off bs
        let ct := if ceDir d.w then bs else x
        let rs := ceOverlaps d.w (ceRec r)
        let (s, out) := if rs = [] then (s, x) else freeBytes s rs a x
        (match writeOp s .engine e (dCtx d.w) d.no a out with
         | (s, .ok _) => ceRelease s e bad k { r with pos := r.pos + 1, bytes := r.bytes ++ ct }
         | (s, g) => (s, r, some g))
      | (s, g) => (s, r, some g)

/-- A run stops before its last tile. -/
def ceStop (s : State) (e : Nat) (r : Run) : Got → State
  | .park k p => parkRun s e r k p
  | .fail c => endRun s e r c
  | .ok _ => endRun s e r 0

def ceAuthFail (s : State) (e : Nat) (r : Run) : State := endRun (s.count (F.CE_AUTH_FAIL (e / 4))) e r 0x70

/-- The tiles, then TAG and DONE of an encryption, or the second GHASH of a decryption (R476). -/
def ceFinish (s : State) (e : Nat) (r : Run) (bad : Option Nat) : State :=
  match ceRelease s e bad ((ceTiles r).length + 1) r with
  | (s, r, some g) => ceStop s e r g
  | (s, r, none) =>
    if ceDir r.d.w then
      if ghash (ceKeyOf r) (ceAadOf r) (ceText r) = r.acc.getD 2 0 then endRun s e r 0 else ceAuthFail s e r
    else
      let tag := gcmTag (ceKeyOf r) (ceNonce (ceRec r)) (ceAadOf r) (ceText r)
      endRun (writeRec s r.d (recAddr r.d.w 1 + 0x20) tag) e r 0

/-- Go on with a run. A self-check mismatch of a decryption counts the tiles of the first pass, then those of the second. -/
def ceRun (s : State) (e : Nat) (r : Run) (bad : Option Nat) : State :=
  let tiles := (ceTiles r).length
  if ceDir r.d.w && r.acc.getD 1 0 == 0 then
    let cut := bad.bind fun i => ((ceTiles r)[i]?).map (·.1 - ceDst r.d.w)
    match readOp s .engine e (dCtx r.d.w) r.d.no (ceSrc r.d.w) (cut.getD (ceLen (ceRec r))) with
    | (s, .ok ct) =>
      if cut.isSome then endRun (ceMismatch s e 1) e r 0x30 else
      let key := ceKeyOf r
      if gcmTag key (ceNonce (ceRec r)) (ceAadOf r) ct = ceTag (ceRec r) then
        ceFinish s e { r with acc := [r.acc.getD 0 0, 1, ghash key (ceAadOf r) ct] } (bad.map (· - tiles))
      else ceAuthFail s e r
    | (s, g) => ceStop s e r g
  else ceFinish s e r bad

/-- Start a descriptor: rows 3 to 5 of R478. -/
def ceStart (s : State) (e : Nat) (d : Desc) (bad : Option Nat) : State :=
  let s := s.count (F.CE_DESCRIPTORS (e / 4))
  let ctx := dCtx d.w
  let a := recAddr d.w 1
  if !ceFieldsOk d.w || !inStaging s rRead ctx a 64 then refuseTaken s d 0x20 else
  match readOp s .engine e ctx d.no a 64 with
  | (s, .fail c) => recordFails s d c
  | (s, .park _ _) => refuseTaken s d 0x20
  | (s, .ok rec) =>
    if !ceRecordOk s d rec then refuseTaken s d 0x20 else
    match s.ceKey ctx (ceKeyIdx d.w) with
    | none => refuseTaken s d 0x10
    | some key =>
      match (if ceAadLen rec = 0 then (s, Got.ok []) else readOp s .engine e ctx d.no (ceAad rec) (ceAadLen rec)) with
      | (s, .ok aad) => ceRun s e { d := d, bytes := rec ++ aad, acc := [key.toNat, 0, 0] } bad
      | (s, .fail c) => refuseTaken s d c
      | (s, .park _ _) => refuseTaken s d 0x20

/-- One pipe of engine `e` works on its next descriptor (R466, R468). -/
def cePipe (s : State) (e : Nat) (dir : Bool) (bad : Option Nat) : State :=
  if nEng s ≤ e || e % 4 ≠ 2 || s.engFenced e then s else
  let mine (w : BitVec 256) : Bool := ceDir w == dir
  match (s.engine e).run with
  | some r => if r.park.isNone && mine r.d.w then ceRun s e r bad else
    (match pickNextBy s e mine with
     | .resume q => let s := resumeRun s e q; ceRun s e q bad
     | _ => s)
  | none =>
    match pickNextBy s e mine with
    | .resume q => ceRun (resumeRun s e q) e q bad
    | .over d => refuseOver s e d
    | .start d => ceStart (chargeStart s e d) e d bad
    | _ => s

/-- CE_ENCRYPT: the encrypt pipe's next descriptor (DIR 0). `mismatch`: the tile at which the pipe's lanes disagree. -/
def execCeEncrypt (e : Nat) (mismatch : Option Nat) (s : State) : Out :=
  .next (inActive s fun s => settle (cePipe s e false mismatch))

/-- CE_DECRYPT: the decrypt pipe's next descriptor (DIR 1). -/
def execCeDecrypt (e : Nat) (mismatch : Option Nat) (s : State) : Out :=
  .next (inActive s fun s => settle (cePipe s e true mismatch))

end Sys2Proof.Machine
end

