-- ==== Sys2Proof/Machine/Blocks.lean ====
section
/-! DEFINITION. The blocks that take commands: their events, pending commands, and the control entries that stand for register
commands (R316, R350, R443); window fields (R308). -/

namespace Sys2Proof.Machine

/-! ### Windows (R308), and what a quota grants (R454) -/

/-- Window fields (R308). -/
def winValid (w : Nat) : Bool := bit w 0
def winSync (w : Nat) : Bool := bit w 1
def winRights (w : Nat) : Nat := bits w 8 8
def winGen (w : Nat) : Nat := bits w 16 8
def winCtx (w : Nat) : Nat := bits w 24 8
def winSeg (w : Nat) : Nat := bits w 32 8
def winBase (w : Nat) : Nat := bits w 64 64
def winLen (w : Nat) : Nat := bits w 128 64

/-- Is the number within the range that the context's quota in effect grants, so that an object may be created under it? -/
def State.mayCreate (s : State) (ctx kind n : Nat) : Bool :=
  let q := s.quota ctx
  match kind with
  | 0 => inRange (bits q 256 16) (bits q 272 16) n
  | 1 => inRange (bits q 0 32) (bits q 32 32) n
  | 2 => inRange (bits q 64 32) (bits q 96 32) n
  | 3 => inRange (bits q 128 32) (bits q 160 32) n
  | _ => inRange (bits q 192 32) (bits q 224 32) n

/-! ### Commands of the blocks (R316, R350, R443) -/

def blkSeq : Blk → RF
  | .seg => F.SEG_EVENT_SEQ
  | .win => F.WIN_EVENT_SEQ
  | .mig => F.MIG_EVENT_SEQ
  | .qp => F.QP_EVENT_SEQ
def blkResult : Blk → RF
  | .seg => F.SEG_EVENT_RESULT
  | .win => F.WIN_EVENT_RESULT
  | .mig => F.MIG_EVENT_RESULT
  | .qp => F.QP_EVENT_RESULT
def blkPendingField : Blk → RF
  | .seg => F.SEG_EVENT_PENDING
  | .win => F.WIN_EVENT_PENDING
  | .mig => F.MIG_EVENT_PENDING
  | .qp => F.QP_EVENT_PENDING

def blkBusy (s : State) (b : Blk) : Bool := s.sg.pend.any fun p => p.blk == b

/-- PENDING of a block's event register. -/
def showPending (s : State) (b : Blk) : State := s.set (blkPendingField b) (b2n (blkBusy s b))

/-- RESULT of a command that finds its block's previous command pending. -/
def busyResult : Blk → Nat
  | .qp => 4
  | _ => 7

/-- RESULT for an object outside the quota. -/
def quotaResult : Blk → Nat
  | .qp => 3
  | _ => 4

/-- Completion code of a control entry by its RESULT (R443). -/
def ctlCode (b : Blk) (r : Nat) : Nat := if r = 0 then 0 else if r = quotaResult b then 0x10 else 0x20

/-- A completion entry on the completion queue of a submission queue (R442, R443): with its tracker entry given back. A
queue that the context does not own takes nothing. -/
def sqComplete (s : State) (ctx q : Nat) (e : List Byte) (no : Option Nat) : State :=
  let cq := s.get (F.SQ_CQ_CQ ctx q)
  if s.ownsCq ctx cq then s.cqPost cq e none no else s.cqDone none no

/-- A control entry completes. -/
def ctlDone (s : State) (c : CtlEntry) (code r : Nat) : State :=
  sqComplete s c.ctx c.q (cqEntry c.tag code 4 (16 * c.ctx + c.q) 0 (toLE 4 r)) (some c.no)

/-- A command of a block completes or is refused: SEQ and RESULT, then its control entry, if one asked for it. -/
def cmdDone (s : State) (b : Blk) (entry : Option CtlEntry) (r : Nat) : State :=
  let s := s.result (blkSeq b) (blkResult b) r
  match entry with
  | none => s
  | some c => ctlDone s c (ctlCode b r) r

/-- A command is accepted and has not yet completed. -/
def cmdPend (s : State) (p : Pending) : State :=
  showPending { s with sg := { s.sg with pend := s.sg.pend ++ [p] } } p.blk

/-- A pending command ends. -/
def cmdEnd (s : State) (p : Pending) (r : Nat) : State :=
  cmdDone (showPending { s with sg := { s.sg with pend := s.sg.pend.filter fun q => q != p } } p.blk) p.blk p.entry r

/-- The first pending command of a block that `ok` accepts. -/
def findPend (s : State) (b : Blk) (ok : Pending → Bool) : Option Pending := s.sg.pend.find? fun p => p.blk == b && ok p

/-- A control entry acts only on objects of its own context (R443). -/
def outsideOwn (entry : Option CtlEntry) (owns : Nat → Bool) : Bool :=
  match entry with
  | none => false
  | some c => !owns c.ctx

/-- A context image that a control entry names: 64 B at a context address in an HBM-resident segment. -/
def ctlRead (s : State) (ctx no a : Nat) : State × Option (BitVec 512) :=
  match readOp s .ls 116 ctx no a 64 with
  | (s, .ok bs) => (s, some (BitVec.ofNat 512 (ofLE bs)))
  | (s, _) => (s, none)

/-- A read of a control entry writes its image. -/
def ctlWrite (s : State) (ctx no a v : Nat) : State × Bool :=
  match writeOp s .ls 116 ctx no a (toLE 64 v) with
  | (s, .ok _) => (s, true)
  | (s, _) => (s, false)

/-- Where a read command puts the entry: `n` registers from `off`, or the image at ADDR. -/
def readOut (s : State) (b : Blk) (entry : Option CtlEntry) (off n addr v : Nat) : State :=
  match entry with
  | none => cmdDone (s.setWords off n v) b none 0
  | some c =>
    match ctlWrite s c.ctx c.no addr v with
    | (s, true) => cmdDone s b entry 0
    | (s, false) => cmdDone s b entry 1

end Sys2Proof.Machine
end

