-- ==== Sys2Proof/Machine/Segments.lean ====
section
/-! DEFINITION. The commands of the segment block on segments, windows and keys (R295–R299, R308–R313, R316, R325), shared by the
register commands and the control entries of submission queues (R443). -/

namespace Sys2Proof.Machine

/-! ### Segments (R295, R296, R299) -/

/-- The fields of an entry on their own (R295, R296): RESULT 1 where this fails. -/
def segFieldsOk (e : Nat) : Bool :=
  bits e 144 48 == 0 && bits e 320 192 == 0
    && segVbase e % pageSize == 0 && 1 ≤ segPages e && segPages e ≤ 262144
    && segVbase e + segPages e * pageSize ≤ 2 ^ 47
    && segRights e < 16
    && (match segBacking e with
        | 1 => segFrames e == 0 && segHbm e % pageSize == 0
        | 2 => segFrames e == 0 && segHost e % 4096 == 0 && !bit (segRights e) 3
        | 3 => 1 ≤ segFrames e && segFrames e ≤ segPages e && segHbm e % pageSize == 0
            && segHost e % pageSize == 0 && !bit (segRights e) 3
        | _ => false)

/-- Bytes of HBM that an entry holds. -/
def segHbmLen (e : Nat) : Nat :=
  match segBacking e with
  | 1 => segPages e * pageSize
  | 3 => segFrames e * pageSize
  | _ => 0

/-- Do [a, a + n) and [b, b + m) share an address? -/
def meets (a n b m : Nat) : Bool := a < b + m && b < a + n

/-- Segments of a context, with their keys. -/
def ctxSegs (s : State) (ctx : Nat) : List (Nat × Segm) := s.sg.segs.filter fun x => x.1 / 16 == ctx

/-- R296, with segment `but` of the context left out of the comparisons: the RESULT of the first check that fails. -/
def segCheck (s : State) (ctx e : Nat) : Option Nat :=
  let n := segPages e * pageSize
  let h := segHbmLen e
  if !segFieldsOk e then some 1
  else if (ctxSegs s ctx).any fun x =>
      meets (segVbase e) n (segVbase x.2.e.toNat) (segPages x.2.e.toNat * pageSize) then some 2
  else if h != 0 && (allocEnd s.variant < segHbm e + h
      || s.sg.segs.any fun x => meets (segHbm e) h (segHbm x.2.e.toNat) (segHbmLen x.2.e.toNat)) then some 3
  else if bits (s.quota ctx) (0x24 * 8) 8 ≤ (ctxSegs s ctx).length then some 4
  else none

/-- SEG_CMD OP 1. -/
def segSetCore (s : State) (entry : Option CtlEntry) (ctx idx : Nat) (e : BitVec 512) : State :=
  if blkBusy s .seg then cmdDone s .seg entry 7
  else if 16 ≤ idx || 256 ≤ ctx then cmdDone s .seg entry 1
  else if (smFind s.sg.segs (segKey ctx idx)).isSome then cmdDone s .seg entry 6
  else
    match segCheck s ctx e.toNat with
    | some r => cmdDone s .seg entry r
    | none => cmdDone (s.setSegm (segKey ctx idx) { e := e }) .seg entry 0

/-- Does a window of the context map the segment? -/
def winMaps (s : State) (ctx idx : Nat) : Bool :=
  s.sg.wins.any fun w => let v := w.2.toNat; winCtx v == ctx && !winSync v && winSeg v == idx

/-- Does an operation that started before `no` keep what a command removes? The command's own control entry does not. -/
def keptBy (s : State) (ctx no : Nat) (entry : Option CtlEntry) : Bool :=
  s.sq.trk.any fun x => x.2.1 == ctx && x.1 < no && (match entry with | some c => x.1 != c.no | none => true)

/-- Is a migration or an evict of one of the segment's pages in progress? It runs to its end (R299), and the segment's range is not free
before. -/
def segMoving (s : State) (ctx idx : Nat) : Bool :=
  (s.sg.recs.any fun r => r.ctx == ctx && r.seg == idx && r.started.isSome)
    || (s.sg.pend.any fun p => p.blk == .mig && p.op == 2 && p.ctx == ctx && p.idx == idx)

def dropSeg (s : State) (key : Nat) : State := { s with sg := { s.sg with segs := smDel s.sg.segs key } }

/-- SEG_CMD OP 2 (R299). -/
def segRemoveCore (s : State) (entry : Option CtlEntry) (ctx idx : Nat) : State :=
  if blkBusy s .seg then cmdDone s .seg entry 7
  else if 16 ≤ idx || 256 ≤ ctx then cmdDone s .seg entry 1
  else
    match smFind s.sg.segs (segKey ctx idx) with
    | none => cmdDone s .seg entry 6
    | some g =>
      if winMaps s ctx idx then cmdDone s .seg entry 5
      else if keptBy s ctx s.sq.opNo entry || segMoving s ctx idx then
        cmdPend (s.setSegm (segKey ctx idx) { g with removed := some s.sq.opNo })
          { blk := .seg, op := 2, ctx := ctx, idx := idx, gen := s.sq.opNo, entry := entry }
      else cmdDone (dropSeg s (segKey ctx idx)) .seg entry 0

/-- SEG_CMD OP 3: an empty entry reads as zeros. -/
def segReadCore (s : State) (entry : Option CtlEntry) (ctx idx addr : Nat) : State :=
  if blkBusy s .seg then cmdDone s .seg entry 7
  else if 16 ≤ idx || 256 ≤ ctx then cmdDone s .seg entry 1
  else
    let v := match smFind s.sg.segs (segKey ctx idx) with | some g => g.e.toNat | none => 0
    readOut s .seg entry (F.SEG_ENTRY 0).off 16 addr v

/-- SEG_SET (R296). -/
def execSegSet (ctx idx : Nat) (s : State) : Out :=
  .next (regCmd s false fun s =>
    segSetCore s none ctx idx (BitVec.ofNat 512 (s.getWords (F.SEG_ENTRY 0).off 16)))

/-- SEG_REMOVE (R299). -/
def execSegRemove (ctx idx : Nat) (s : State) : Out := .next (regCmd s false fun s => segRemoveCore s none ctx idx)

/-- SEG_READ (R316). -/
def execSegRead (ctx idx : Nat) (s : State) : Out := .next (regCmd s false fun s => segReadCore s none ctx idx 0)

/-- SEG_REMOVE_COMPLETE: the last operation that held the segment has completed, and what migrated in it has ended (R299). -/
def execSegRemoveComplete (s : State) : Out :=
  .next (inActive s fun s =>
    match findPend s .seg fun _ => true with
    | none => s
    | some p =>
      if keptBy s p.ctx p.gen p.entry || segMoving s p.ctx p.idx then s else cmdEnd (dropSeg s (segKey p.ctx p.idx)) p 0)

/-! ### Windows (R308, R311, R325) -/

/-- The fields of a window entry: RESULT 1 where this fails. -/
def winFieldsOk (s : State) (e : Nat) : Bool :=
  let ctx := winCtx e
  bits e 2 6 == 0 && winValid e && bits e 40 24 == 0 && bits e 192 64 == 0 && winRights e < 8
    && (if winSync e then
          winRights e == rAtomic && 1 ≤ winLen e && winLen e ≤ 4096 && winBase e + winLen e ≤ 4096
            && (List.range (winLen e)).all fun i => s.mayCreate ctx 0 (winBase e + i)
        else
          winSeg e < 16 && winBase e % 2048 == 0 && 1 ≤ winLen e && winLen e ≤ 2 ^ 39
            && (match smFind s.sg.segs (segKey ctx (winSeg e)) with
                | some g => g.removed.isNone && (winRights e &&& segRights g.e.toNat) == winRights e
                    && winBase e + winLen e ≤ segPages g.e.toNat * pageSize
                | none => false))

/-- The image of an entry with its context field overwritten by the control entry's context (R443). -/
def ownImage (entry : Option CtlEntry) (lo : Nat) (v : Nat) : Nat :=
  match entry with
  | none => v
  | some c => putBits v lo 8 c.ctx

def setWin (s : State) (w v : Nat) : State :=
  { s with sg := { s.sg with wins := smSet s.sg.wins w (BitVec.ofNat 256 v) } }

/-- WIN_CMD OP 1. -/
def winSetCore (s : State) (entry : Option CtlEntry) (w image : Nat) : State :=
  let e := ownImage entry 24 (image % 2 ^ 256)
  if blkBusy s .win then cmdDone s .win entry 7
  else if 65536 ≤ w then cmdDone s .win entry 1
  else if !s.mayCreate (winCtx e) 4 w then cmdDone s .win entry 4
  else if (smFind s.sg.wins w).isSome then cmdDone s .win entry 6
  else if !winFieldsOk s e then cmdDone s .win entry 1
  else cmdDone (setWin s w e) .win entry 0

/-- Key fields (R309). -/
def keyRights (k : Nat) : Nat := bits k 8 8
def keyWin (k : Nat) : Nat := bits k 16 16
def keyCtx (k : Nat) : Nat := bits k 32 8
def keyOff (k : Nat) : Nat := bits k 64 64
def keyLen (k : Nat) : Nat := bits k 128 64

/-- Does a packet that passed its checks and is held or in placement keep a pending bump or removal from completing (R311)? A SEND and
the responses pass no key check. -/
def heldUnder (s : State) (op idx : Nat) (p : Packet) : Bool :=
  if p.type = 3 || p.type = 2 || p.type = 5 then false
  else if op = 6 then p.rkey == idx
  else
    match smFind s.sg.keys p.rkey with
    | none => false
    | some k =>
      keyWin k.toNat == idx &&
        (if op = 4 then (match smFind s.sg.wins idx with | some w => p.rgen != winGen w.toNat | none => true) else true)

/-- No packet held on a migration, and no SIGNAL that waits at a sync unit, is left from before. -/
def winDrained (s : State) (op idx : Nat) : Bool :=
  !(s.sg.recs.any fun r => r.waiters.any fun w => match w with | .held _ p => heldUnder s op idx p | _ => false)
    && !(s.sy.reqs.any fun r => match r.pkt with | some (_, p) => heldUnder s op idx p | none => false)

/-- A removal or a bump: complete where nothing has to drain, else pending. -/
def winDrain (s : State) (entry : Option CtlEntry) (op ctx idx : Nat) (img : BitVec 256 := 0#256) : State :=
  if winDrained s op idx then reclaim (cmdDone s .win entry 0)
  else cmdPend s { blk := .win, op := op, ctx := ctx, idx := idx, img := img, entry := entry }

/-- A command on a window that is there. -/
def onWin (s : State) (entry : Option CtlEntry) (w : Nat) (f : BitVec 256 → State) : State :=
  if blkBusy s .win then cmdDone s .win entry 7
  else if 65536 ≤ w then cmdDone s .win entry 1
  else if outsideOwn entry (fun c => s.ownsWin c w) then cmdDone s .win entry 4
  else match smFind s.sg.wins w with
    | none => cmdDone s .win entry 6
    | some e => f e

/-- WIN_CMD OP 2 (R311). -/
def winRemoveCore (s : State) (entry : Option CtlEntry) (w : Nat) : State :=
  onWin s entry w fun e =>
    winDrain { s with sg := { s.sg with wins := smDel s.sg.wins w } } entry 2 (winCtx e.toNat) w e

/-- WIN_CMD OP 4 (R311). -/
def winBumpCore (s : State) (entry : Option CtlEntry) (w : Nat) : State :=
  onWin s entry w fun e =>
    let v := e.toNat
    winDrain (setWin s w (putBits v 16 8 (winGen v + 1))) entry 4 (winCtx v) w

/-- WIN_CMD OP 3: an entry that is not valid reads as zeros. -/
def winReadCore (s : State) (entry : Option CtlEntry) (w addr : Nat) : State :=
  if blkBusy s .win then cmdDone s .win entry 7
  else if 65536 ≤ w then cmdDone s .win entry 1
  else if outsideOwn entry (fun c => s.ownsWin c w) then cmdDone s .win entry 4
  else readOut s .win entry (F.WIN_ENTRY 0).off 8 addr (smGet s.sg.wins w 0#256).toNat

/-- WIN_SET (R308, R325). -/
def execWinSet (w : Nat) (s : State) : Out :=
  .next (regCmd s false fun s => winSetCore s none w (s.getWords (F.WIN_ENTRY 0).off 8))
/-- WIN_REMOVE. -/
def execWinRemove (w : Nat) (s : State) : Out := .next (regCmd s false fun s => winRemoveCore s none w)
/-- WIN_READ. -/
def execWinRead (w : Nat) (s : State) : Out := .next (regCmd s false fun s => winReadCore s none w 0)
/-- WIN_BUMP. -/
def execWinBump (w : Nat) (s : State) : Out := .next (regCmd s false fun s => winBumpCore s none w)

/-! ### Keys (R309) -/

def keyFieldsOk (s : State) (k : Nat) : Bool :=
  bits k 0 8 == 1 && keyRights k < 8 && bits k 40 24 == 0 && bits k 192 64 == 0 && 1 ≤ keyLen k
    && (match smFind s.sg.wins (keyWin k) with
        | none => false
        | some w => winCtx w.toNat == keyCtx k && keyOff k + keyLen k ≤ winLen w.toNat
            && (keyRights k &&& winRights w.toNat) == keyRights k)

/-- WIN_CMD OP 5. -/
def keySetCore (s : State) (entry : Option CtlEntry) (n image : Nat) : State :=
  let k := ownImage entry 32 (image % 2 ^ 256)
  if blkBusy s .win then cmdDone s .win entry 7
  else if 2 ^ 20 ≤ n then cmdDone s .win entry 1
  else if !s.mayCreate (keyCtx k) 3 n then cmdDone s .win entry 4
  else if (smFind s.sg.keys n).isSome then cmdDone s .win entry 6
  else if !keyFieldsOk s k then cmdDone s .win entry 1
  else cmdDone { s with sg := { s.sg with keys := smSet s.sg.keys n (BitVec.ofNat 256 k) } } .win entry 0

/-- WIN_CMD OP 6 (R311). -/
def keyRemoveCore (s : State) (entry : Option CtlEntry) (n : Nat) : State :=
  if blkBusy s .win then cmdDone s .win entry 7
  else if 2 ^ 20 ≤ n then cmdDone s .win entry 1
  else if outsideOwn entry (fun c => s.ownsKey c n) then cmdDone s .win entry 4
  else match smFind s.sg.keys n with
    | none => cmdDone s .win entry 6
    | some k => winDrain { s with sg := { s.sg with keys := smDel s.sg.keys n } } entry 6 (keyCtx k.toNat) n

/-- WIN_CMD OP 7. -/
def keyReadCore (s : State) (entry : Option CtlEntry) (n addr : Nat) : State :=
  if blkBusy s .win then cmdDone s .win entry 7
  else if 2 ^ 20 ≤ n then cmdDone s .win entry 1
  else if outsideOwn entry (fun c => s.ownsKey c n) then cmdDone s .win entry 4
  else readOut s .win entry (F.KEY_ENTRY 0).off 8 addr (smGet s.sg.keys n 0#256).toNat

/-- KEY_SET. -/
def execKeySet (k : Nat) (s : State) : Out :=
  .next (regCmd s false fun s => keySetCore s none k (s.getWords (F.KEY_ENTRY 0).off 8))
/-- KEY_REMOVE. -/
def execKeyRemove (k : Nat) (s : State) : Out := .next (regCmd s false fun s => keyRemoveCore s none k)
/-- KEY_READ. -/
def execKeyRead (k : Nat) (s : State) : Out := .next (regCmd s false fun s => keyReadCore s none k 0)

/-- WIN_DRAIN_COMPLETE: no packet that passed under what was bumped or removed remains unplaced (R311). -/
def execWinDrainComplete (s : State) : Out :=
  .next (inActive s fun s =>
    match findPend s .win fun _ => true with
    | none => s
    | some p => if winDrained s p.op p.idx then reclaim (cmdEnd s p 0) else s)

end Sys2Proof.Machine
end

