-- ==== Sys2Proof/Machine/Wire.lean ====
section
/-! DEFINITION. Speron packets (R321–R327, R289, R353): queue pair entries, headers, piece checksums, encryption, and the paths
over which packets leave (R333, R355, R356, R453). -/

namespace Sys2Proof.Machine

/-! ### Queue pair entries (R328) -/

def qpCtx (e : Nat) : Nat := bits e 8 8
def qpTc (e : Nat) : Nat := bits e 16 3
def qpAckTc (e : Nat) : Nat := bits e 20 3
def qpEnc (e : Nat) : Bool := bit e 24
def qpRemoteEp (e : Nat) : Nat := bits e 32 20
def qpRemoteQp (e : Nat) : Nat := bits e 64 18
def qpSqPsn (e : Nat) : Nat := bits e 96 24
def qpRqPsn (e : Nat) : Nat := bits e 128 24
def qpScq (e : Nat) : Nat := bits e 160 16
def qpRcq (e : Nat) : Nat := bits e 176 16
def qpKeyIdx (e : Nat) : Nat := bits e 192 32
def qpNpath (e : Nat) : Nat := bits e 224 8
def qpRq (e : Nat) : Nat := bits e 256 32

/-- The state of queue pair `n`; one that has never been set up is in RESET. -/
def State.qp (s : State) (n : Nat) : Qp := smGet s.tr.qps n { e := 0#512 }
def State.setQp (s : State) (n : Nat) (q : Qp) : State := { s with tr := { s.tr with qps := smSet s.tr.qps n q } }

/-- PSN arithmetic modulo 2^24. -/
def psnAdd (a n : Nat) : Nat := (a + n) % 2 ^ 24
def psnSub (a b : Nat) : Nat := (a + 2 ^ 24 - b % 2 ^ 24) % 2 ^ 24

/-- The domain whose cipher engine serves queue pair `n` (R28). -/
def qpDom (s : State) (n : Nat) : Nat := n % nDom s
def qpCipherFenced (s : State) (n : Nat) : Bool := s.engFenced (4 * qpDom s n + 2)

/-! ### Headers and encryption (R322, R326) -/

/-- The fields that a TYPE does not use are 0 (R322, R323): FENCE, the receiver's key fields, the payload's, those of a message. -/
def hdrOk (p : Packet) : Bool :=
  let t := p.type
  let is (ts : List Nat) : Bool := ts.contains t
  let data := t ≤ 6
  (is [0, 1, 3, 4, 6] || !p.fence) && (data || (!p.last && !p.enc && p.try_ == 0 && p.txc == 0)) && (t == 3 || !p.abort)
    && ((is [0, 2, 3, 5] && !p.abort) || p.pieces.isEmpty) && ((is [0, 2, 3, 4, 5] && !p.abort) || p.payload.isEmpty)
    && (is [0, 1, 2, 3] || p.offset == 0) && (t == 3 || p.ssn == 0 || (t == 8 && p.ssn < 2 ^ 20))
    && (is [0, 1, 4, 6] || (p.rgen == 0 && p.rkey == 0 && p.roff == 0)) && (t == 1 || p.phase == 0) && (t != 8 || p.sqp == 0)
    && (match t with
        | 1 => p.aux < 2 ^ 30
        | 3 => if p.abort then p.aux < 256 else p.last || p.aux == 0
        | 4 => p.aux < 2
        | 6 => true
        | 8 => p.aux < 2 ^ 20
        | _ => p.aux == 0)

/-- Additional authenticated data: the header, and routing word 0 with HOPS, PTR, TC and CE taken as 0. -/
def pktAad (p : Packet) : List Byte := hdrBytes p ++ toLE 8 (p.dstEp * 2 ^ 12 + p.srcEp * 2 ^ 32)

def pktNonce (p : Packet) : List Byte := toBE 12 (p.srcEp * 2 ^ 76 + p.sqp * 2 ^ 58 + p.txc)

/-- What is encrypted: the piece checksums, then the payload. -/
def pktText (p : Packet) : List Byte := (p.pieces.flatMap fun c => toLE 8 c.toNat) ++ p.payload

/-- A packet with its piece checksums and payload replaced by the bytes `x`. -/
def putText (p : Packet) (x : List Byte) : Packet :=
  let n := p.pieces.length
  { p with
    pieces := (List.range n).map fun i => BitVec.ofNat 64 (fieldLE x (8 * i) 8)
    payload := x.drop (8 * n) }

/-- Encrypt a packet and add its tag. -/
def sealPacket (key : BitVec 256) (p : Packet) : Packet :=
  let p := { p with enc := true }
  let x := gcmXor key (pktNonce p) 0 (pktText p)
  { putText p x with tag := BitVec.ofNat 128 (ofBE (gcmTag key (pktNonce p) (pktAad p) x)) }

/-- Decrypt a packet whose tag is right. -/
def openPacket (key : BitVec 256) (p : Packet) : Option Packet :=
  if BitVec.ofNat 128 (ofBE (gcmTag key (pktNonce p) (pktAad p) (pktText p))) = p.tag then
    some (putText p (gcmXor key (pktNonce p) 0 (pktText p)))
  else none

/-- The key of a queue pair (R326, R470). -/
def qpKey (s : State) (e : Nat) : BitVec 256 :=
  match smFind s.ci.keys (256 * qpCtx e + qpKeyIdx e % 256) with
  | some k => k.2
  | none => 0#256

/-! ### Piece checksums (R289, R324) -/

/-- The payload cut into pieces on the tile grid, `g` being the destination of its first byte. -/
def cutPieces (g : Nat) (payload : List Byte) : List (List Byte) :=
  (cutTiles (g % 2048) payload (payload.length / 2048 + 2)).map (·.2)

def piecesOf (g : Nat) (payload : List Byte) : List (BitVec 64) := (cutPieces g payload).map crc64

/-! ### Paths (R333, R353, R355, R356, R453) -/

def slotOf (e : BitVec 768) (k : Nat) : Nat := bits e.toNat (96 * k) 96
def slotPath (w : Nat) : Nat := bits w 0 70
def slotHops (w : Nat) : Nat := bits w 70 4
def slotValid (w : Nat) : Bool := bit w 74
def slotSetDown (w : Nat) : Bool := bit w 75

/-- Is a path slot down (R355)? -/
def slotDown (s : State) (w : Nat) : Bool :=
  !slotValid w || slotSetDown w || (1 ≤ slotHops w && !egressOk s (hopOf (slotPath w) 0))

/-- Peer table fields (R464). -/
def peerEp (s : State) (k : Nat) : Nat := bits (s.reg (F.PEER_TABLE (8 * k)).off) 0 20
def peerEn (s : State) (k : Nat) : Bool := bit (s.reg (F.PEER_TABLE (8 * k)).off) 31
def peerPort (s : State) (k : Nat) : Nat := bits (s.reg (F.PEER_TABLE (8 * k + 1)).off) 0 8
def peerInbox (s : State) (k : Nat) : Nat := bits (s.reg (F.PEER_TABLE (8 * k + 1)).off) 8 8

/-- INBOX_ADDR and CREDIT_ADDR. -/
def peerInboxAddr (s : State) (k : Nat) : Nat := s.get64 (F.PEER_TABLE (8 * k + 2)) (F.PEER_TABLE (8 * k + 3))
def peerCreditAddr (s : State) (k : Nat) : Nat := s.get64 (F.PEER_TABLE (8 * k + 4)) (F.PEER_TABLE (8 * k + 5))

/-- The enabled peer entry of an endpoint. -/
def peerOf (s : State) (ep : Nat) : Option Nat := (List.range 32).find? fun k => peerEn s k && peerEp s k == ep

/-- Key of an inbox of this adapter: host port and inbox. -/
def inboxKey (port inbox : Nat) : Nat := 8 * port + inbox

/-- Frames that may still be placed in a peer's inbox of 64 slots (R452). -/
def peerCredit (s : State) (k : Nat) : Bool :=
  let credit := (smGet s.ho.inboxes (inboxKey (peerPort s k) (peerInbox s k)) (0, 0)).2
  (smGet s.ho.sentTo k 0 + 2 ^ 32 - credit % 2 ^ 32) % 2 ^ 32 < 64

/-- How a packet can leave. -/
inductive Way where
  | peer (k : Nat)
  | path (slot : Nat)
  | down                 -- every path is down: the packet is not sent and counts as sent
  | noCredit             -- the peer's inbox has no free slot: the packet waits
  | uncached             -- the route entry is being fetched: the packet waits
  | invalid              -- no slot of the entry is valid
  deriving DecidableEq, Repr

/-- The way of a packet of transmission index `i` = PSN + TRY to endpoint `ep`, over `npath` paths. -/
def wayTo (s : State) (ep npath i : Nat) : Way :=
  match peerOf s ep with
  | some k => if !s.hostUp (peerPort s k) then .down else if peerCredit s k then .peer k else .noCredit
  | none =>
    if !s.tr.rcache.contains ep then .uncached else
    let e := smGet s.tr.routes ep 0#768
    if (List.range 8).all fun k => !slotValid (slotOf e k) then .invalid
    else
      match rotate npath (i % npath) fun k => !slotDown s (slotOf e k) with
      | some k => .path (slotOf e k)
      | none => .down

/-- Paths that a queue pair sprays over, 1 to 8. -/
def npathOf (e : Nat) : Nat := min 8 (max 1 (qpNpath e))

/-- Put a packet on its way. A frame for a peer goes into the next slot of its inbox, with its length, and then its running count to IN_DB
(R452). A frame over a loopback slot, or to a peer, goes straight to step 3 of R357: at this adapter it
is an arrival where it names this adapter's endpoint. -/
def sendWay (s : State) (p : Packet) : Way → State
  | .peer k =>
    let n := smGet s.ho.sentTo k 0
    let bs := packetBytes { p with hops := 0, ptr := 0, path := 0 }
    let s := s.emit (.busWrite (peerPort s k) (peerInboxAddr s k + 0x4000 * (n % 64)) (toLE 8 bs.length ++ bs))
    let s := s.emit (.busWrite (peerPort s k) (peerInboxAddr s k + 0x100000) (toLE 4 (n + 1)))
    State.count { s with ho := { s.ho with sentTo := smSet s.ho.sentTo k ((n + 1) % 2 ^ 32) } } F.HOST_PEER_FRAMES_TX
  | .path w =>
    let p := { p with hops := slotHops w, path := slotPath w, ptr := 0 }
    if slotHops w = 0 then
      (if p.dstEp = s.get F.TRN_ID_ENDPOINT then
         { s with tr := { s.tr with arrivals := s.tr.arrivals ++ [(.loopback, p)] } }
       else s)
    else sendLocal s p 32
  | _ => s

/-- Requester number of the port pipe that reads a packet's source or places a packet (R280). -/
def wayReq (s : State) : Way → Nat
  | .path w => if slotHops w = 0 then 117 else 80 + hopOf (slotPath w) 0
  | .peer k => 112 + peerPort s k % 4
  | _ => 117

def ingressReq (s : State) : Ingress → Nat
  | .port n => 80 + n
  | .loopback => 117
  | .peer k => 112 + peerPort s k % 4

/-- A response or an ACK that has to wait for its way (R354, R453). -/
def waitWay (s : State) (n : Nat) (p : Option Packet) : State :=
  if p.isNone && s.tr.waitRoute.contains (n, none) then s
  else { s with tr := { s.tr with waitRoute := s.tr.waitRoute ++ [(n, p)] } }

/-! ### Common fields of a packet (R322) -/

/-- The fields that every packet of queue pair `n` carries. -/
def pktFrom (s : State) (n : Nat) (q : Qp) (type psn : Nat) : Packet :=
  let e := q.e.toNat
  { type := type, psn := psn, tc := qpTc e, dstEp := qpRemoteEp e, srcEp := s.get F.TRN_ID_ENDPOINT, dqp := qpRemoteQp e,
    sqp := n, stamp := s.tk.num % 65536 }

/-- A packet of types 0 to 6 takes its TXC, is encrypted where its queue pair has ENC set, and is counted. -/
def finishPacket (s : State) (n : Nat) (p : Packet) : State × Packet :=
  let q := s.qp n
  let p := { p with txc := q.txc }
  let s := (s.setQp n { q with txc := q.txc + 1 }).count F.TRN_TX_PKTS
  if qpEnc q.e.toNat then (s.count (F.CE_TX_PKTS (qpDom s n)), sealPacket (qpKey s q.e.toNat) p) else (s, p)

/-! ### Operands of the transport unit (R297, R298) -/

/-- The first piece of [a, a + n) that does not translate: a page that is not resident, or SEG_FAULT. -/
def trnFault (s : State) (rights ctx no a n : Nat) : Option Got :=
  (cutRange a n).findSome? fun p =>
    match opTranslate s .trn rights ctx no p.1 p.2 with
    | .fault k pg => some (.park k pg)
    | .bad => some (.fail 0x20)
    | _ => none

def trnReadCut (s : State) (req rights ctx no : Nat) : List (Nat × Nat) → (host : List Byte) → State × Got
  | [], _ => (s, .ok [])
  | (a, n) :: ps, host =>
    match opTranslate s .trn rights ctx no a n with
    | .mem pa =>
      (match memRead s req pa n with
       | (s, 0, bs) =>
         (match trnReadCut (touchPage s ctx no a n false) req rights ctx no ps host with
          | (s, .ok r) => (s, .ok (bs ++ r))
          | r => r)
       | (s, c, _) => ((trnReadCut s req rights ctx no ps host).1, .fail c))
    | .host h =>
      (match trnReadCut (s.emit (.hostRead ctx h n)) req rights ctx no ps (host.drop n) with
       | (s, .ok r) => (s, .ok (slice host 0 n ++ r))
       | r => r)
    | .fault k pg => (s, .park k pg)
    | .bad => (s, .fail 0x20)

/-- Read [a, a + n); what a host-resident segment delivers comes from `host`. -/
def trnRead (s : State) (req rights ctx no a n : Nat) (host : List Byte) : State × Got :=
  match trnFault s rights ctx no a n with
  | some g => (s, g)
  | none => trnReadCut s req rights ctx no (cutRange a n) host

/-- Check the tiles that a placement writes: a partial piece reads its tile (R284), a whole one needs its unit (R24). -/
def trnCheck (s : State) (req rights ctx no : Nat) : List (Nat × List Byte) → State × Nat
  | [] => (s, 0)
  | (a, bs) :: r =>
    match opTranslate s .trn rights ctx no a bs.length with
    | .mem pa =>
      let (s, c) := if bs.length = 2048 then (s, if s.tileFenced (tileOf pa) then 0x7F else 0) else s.tileCheck req (tileOf pa)
      (match trnCheck s req rights ctx no r with
       | (s, c') => (s, if c = 0 then c' else c))
    | _ => trnCheck s req rights ctx no r

def trnPlace (s : State) (req rights ctx no : Nat) : List (Nat × List Byte) → State
  | [] => s
  | (a, bs) :: r =>
    match opTranslate s .trn rights ctx no a bs.length with
    | .mem pa => trnPlace (touchPage (memWrite s req pa bs).1 ctx no a bs.length true) req rights ctx no r
    | .host h => trnPlace (s.emit (.hostWrite ctx h bs)) req rights ctx no r
    | _ => trnPlace s req rights ctx no r

/-- Place bytes at `a`: every piece or none (R290). -/
def trnWrite (s : State) (req rights ctx no a : Nat) (bs : List Byte) : State × Got :=
  match trnFault s rights ctx no a bs.length with
  | some g => (s, g)
  | none =>
    let ps := cutTiles a bs (bs.length / 2048 + 2)
    match trnCheck s req rights ctx no ps with
    | (s, 0) => (trnPlace s req rights ctx no ps, .ok [])
    | (s, c) => (s, .fail c)

end Sys2Proof.Machine
end

