-- ==== Sys2Proof/Machine/Send.lean ====
section
/-! DEFINITION. The initiator side of queue pairs (R329–R333, R340, R345–R347, R355, R372): operations, how they end, transmission,
and the retransmission timer. -/

namespace Sys2Proof.Machine

/-! ### Operations -/

/-- Message bytes of an operation: a READ's are its response, an ATOMIC's its result. -/
def opLen (d : BitVec 256) : Nat := if dKind d ≤ 10 then dLen d else if dKind d = 11 then 8 else 0

/-- Packets of an operation that take a PSN (R331). -/
def opPkts (d : BitVec 256) : Nat := if dKind d = 8 || dKind d = 10 then cdiv (dLen d) 8192 else 1

def Op.isResp (o : Op) : Bool := dKind o.d.w == 9 || dKind o.d.w == 11
/-- ORDERED governs kinds 8 to 11 (R181, R346). -/
def Op.ordered (o : Op) : Bool := dKind o.d.w != 12 && dOrdered o.d.w

/-- Does the operation hold a PSN, and as which of its packets? -/
def Op.index (o : Op) (psn : Nat) : Option Nat :=
  let k := psnSub psn o.first
  if k < o.sent then some k else none

/-- Packets to be sent, the abort packet included (R340). -/
def Op.toSend (o : Op) : Nat :=
  match o.abort with
  | some (k, _) => k + 1
  | none => if o.code.isSome then o.sent else opPkts o.d.w

/-- The operation fails, unless it has ended already. A SEND that has sent some packets and not its last needs an abort. -/
def Op.fail (o : Op) (c : Nat) : Op :=
  if o.code.isSome then o
  else { o with
    code := some c,
    abort := if dKind o.d.w = 10 && 0 < o.sent && o.sent < opPkts o.d.w then some (o.sent, c) else none }

/-- Has every packet that was sent been acknowledged as done? -/
def Op.allAcked (o : Op) : Bool := o.acked.length == o.sent

/-- What R345 makes of an operation: a refusal fails it; a WRITE, SEND or SIGNAL acknowledged whole succeeds. -/
def Op.judge (o : Op) : Op :=
  match o.refused with
  | some (_, c) => o.fail c
  | none =>
    if o.code.isNone && !o.isResp && o.sent == opPkts o.d.w && o.allAcked then { o with code := some 0 } else o

/-- Offsets of a READ's response that are still missing, lowest first. -/
def Op.missing (o : Op) : Option Nat :=
  ((List.range (cdiv (opLen o.d.w) 8192)).map (8192 * ·)).find? fun f => !(o.got.any fun g => g.1 == f)

/-- Does the operation wait for something at the target: a PSN not acknowledged, or a response? -/
def Op.waits (o : Op) : Bool := !o.allAcked || (o.isResp && 0 < o.sent && o.code.isNone)

def anyWaits (q : Qp) : Bool := q.ops.any Op.waits

/-- The oldest PSN sent and not acknowledged as done (R332). -/
def oldestUnacked (q : Qp) : Option Nat :=
  q.ops.findSome? fun o =>
    ((List.range o.sent).find? fun k => !o.acked.contains k).map fun k => psnAdd o.first k

/-! ### Completion in order (R345, R346) -/

/-- Hand over the operations that have ended, an ORDERED one only after every earlier ORDERED one; `held` says that one
of these has not been handed over. -/
def tellOps : List Op → (held : Bool) → List Op × List Ended
  | [], _ => ([], [])
  | o :: os, held =>
    match o.code with
    | some c =>
      if o.told then (let (a, b) := tellOps os held; (o :: a, b))
      else if o.ordered && held then (let (a, b) := tellOps os true; (o :: a, b))
      else (let (a, b) := tellOps os held; ({ o with told := true } :: a, ⟨o.d, c⟩ :: b))
    | none => let (a, b) := tellOps os (held || o.ordered); (o :: a, b)

/-- Ended operations go to their completion; an operation leaves the queue pair when it has ended and every PSN of it has
been acknowledged. The timer stops where nothing is outstanding (R347). -/
def settleQp (s : State) (n : Nat) (q : Qp) : State :=
  let (ops, ends) := tellOps q.ops false
  let ops := ops.filter fun o => !(o.told && o.allAcked && o.toSend == o.sent)
  let q := { q with ops := ops }
  let q := if anyWaits q then q else { q with timer := none, resend := [] }
  let s := s.setQp n q
  { s with en := { s.en with ended := s.en.ended ++ ends } }

/-- Fail the `i`th operation of a queue pair. -/
def failOp (s : State) (n i c : Nat) : State :=
  let q := s.qp n
  settleQp s n { q with ops := q.ops.modify i fun o => o.fail c }

/-! ### Leaving RTS (R330) -/

/-- Every operation of the queue pair ends with FLUSHED, those that have ended with their code. -/
def flushQp (s : State) (n : Nat) (st : Nat) : State :=
  let q := s.qp n
  let ops := q.ops.map fun o => if o.code.isSome then o else { o with code := some 0x01 }
  let (_, ends) := tellOps ops false
  let s := s.setQp n { q with st := st, ops := [], resp := [], resend := [], timer := none, tries := [], heldPsn := [] }
  { s with en := { s.en with ended := s.en.ended ++ ends } }

/-- An event moves a queue pair to ERROR: cause 0 RETRY_EXCEEDED, 1 refusal list overflow. -/
def qpErrorEvent (s : State) (n cause : Nat) : State :=
  let s := (s.set F.TRN_EVENT_LAST_QP n).set F.TRN_EVENT_LAST_CAUSE cause
  flushQp (s.bump F.TRN_EVENT_SEQ) n 4

/-! ### Rate (R372) -/

def ccOn (s : State) : Bool := s.getL F.CC_MD_ENABLE == 1
def ccMin (s : State) : Nat := max 1 (s.getL F.CC_LIMIT_RMIN)

/-- The rate on entry to RTS. -/
def ccStart (s : State) (q : Qp) : Qp :=
  { q with rate := if ccOn s then s.getL F.CC_CTL_INIT else s.getL F.CC_LIMIT_RMAX, cut := false, echoed := false }

/-- An ACK with ECHO > 0. -/
def ccEcho (s : State) (n : Nat) : State :=
  if !ccOn s then s else
  let q := s.qp n
  if q.cut then s.setQp n { q with echoed := true }
  else
    (s.setQp n { q with
      echoed := true, cut := true, rate := max (ccMin s) (q.rate * s.getL F.CC_MD_MD / 256) }).count F.TRN_CC_CUTS

/-! ### Pacing (R373) -/

/-- The rate of a queue pair, in units of 0.1 Gbit/s (R372). -/
def qpRate (s : State) (q : Qp) : Nat := max 1 (if ccOn s then q.rate else s.getL F.CC_LIMIT_RMAX)

/-- May a packet of queue pair `n` start at time `ns`? Only queue pairs in RTS have a rate. -/
def mayStart (s : State) (n ns : Nat) : Bool := (s.qp n).st != 3 || (s.qp n).nextAt ≤ ns

/-- A packet has started at `ns`: the next one starts no sooner than this one's frame bytes × 8 / rate later. -/
def paced (s : State) (n ns : Nat) (p : Packet) : State :=
  let q := s.qp n
  s.setQp n { q with nextAt := ns + cdiv (80 * frameLen p) (qpRate s q) }

/-! ### Transmission -/

/-- What a queue pair sends next: an operation by its place, and which of its packets; retransmissions first. -/
def nextJob (q : Qp) : Option (Nat × Nat × Bool) :=
  let again := q.resend.findSome? fun psn =>
    (List.range q.ops.length).findSome? fun i =>
      match q.ops[i]? with
      | none => none
      | some o =>
        match o.index psn with
        | none => none
        | some k =>
          if !o.acked.contains k || (dKind o.d.w = 9 && o.code.isNone && o.missing.isSome) then some (i, k, true) else none
  match again with
  | some j => some j
  | none =>
    (List.range q.ops.length).findSome? fun i =>
      match q.ops[i]? with
      | none => none
      | some o => if o.sent < o.toSend then some (i, o.sent, false) else none

/-- May a new PSN be sent (R332)? -/
def windowOpen (q : Qp) : Bool :=
  match oldestUnacked q with
  | none => true
  | some u => psnSub q.nextPsn u < 4096

/-- The time at which a timer that starts now ends (R347, R94). -/
def retryAt (s : State) : Nat := s.expiry (s.getL F.TRN_RETRY_RETRY_TICKS)

/-- A packet has been sent, or counts as sent: a new one takes its PSN and, as a SEND's first, its SSN; the timer starts
where nothing was outstanding. -/
def noteSent (s : State) (n i : Nat) (psn : Nat) (again : Bool) : State :=
  let q := s.qp n
  let started := anyWaits q
  let q :=
    if again then { q with resend := q.resend.erase psn }
    else
      let send := match q.ops[i]? with
        | some o => dKind o.d.w == 10 && o.sent == 0
        | none => false
      { q with
        ops := q.ops.modify i fun o => { o with
          sent := o.sent + 1,
          first := if o.sent = 0 then psn else o.first,
          ssn := if send then q.nextSsn else o.ssn }
        nextPsn := psnAdd q.nextPsn 1,
        nextSsn := if send then (q.nextSsn + 1) % 2 ^ 24 else q.nextSsn }
  s.setQp n (if started then q else { q with timer := some (retryAt s) })

/-- Bytes of packet `k` of a WRITE or SEND. -/
def pktLen (d : BitVec 256) (k : Nat) : Nat := min 8192 (dLen d - 8192 * k)

/-- Packet `k` of an operation, its payload given. -/
def opPacket (s : State) (n : Nat) (o : Op) (k psn try_ : Nat) (payload : List Byte) : Packet :=
  let w := o.d.w
  let kind := dKind w
  let q := s.qp n
  let b := pktFrom s n q (match kind with | 8 => 0 | 9 => 1 | 10 => 3 | 11 => 4 | _ => 6) psn
  let b := { b with try_ := try_, fence := if kind = 12 then !dFence w else dFence w }
  let keyed := { b with rgen := dRgen w, rkey := dRkey w, roff := dRoff w }
  let ssn := if o.sent = 0 then q.nextSsn else o.ssn
  match o.abort with
  | some (a, c) =>
    if k = a then { b with last := true, abort := true, offset := 8192 * k, aux := c, ssn := ssn }
    else { b with offset := 8192 * k, payload := payload, pieces := piecesOf (8192 * k) payload, ssn := ssn }
  | none =>
    let last := k + 1 == opPkts w
    match kind with
    | 8 => { keyed with
        last := last, offset := 8192 * k, payload := payload, pieces := piecesOf (dRoff w + 8192 * k) payload }
    | 9 => { keyed with last := true, offset := o.missing.getD 0, phase := dLocal w % 2048, aux := dLen w - 1 }
    | 10 => { b with
        last := last, offset := 8192 * k, payload := payload, pieces := piecesOf (8192 * k) payload, ssn := ssn,
        aux := if last then dImm w else 0 }
    | 11 => { keyed with
        last := true, aux := dOp w, payload := toLE 8 o.d.opA.toNat ++ toLE 8 o.d.opB.toNat }
    | _ => { keyed with last := true, aux := max 1 (o.d.opA.toNat % 2 ^ 32) }

/-- Does packet `k` carry bytes read from LOCAL? -/
def readsSource (o : Op) (k : Nat) : Bool :=
  (dKind o.d.w == 8 || dKind o.d.w == 10) && (match o.abort with | some (a, _) => k != a | none => true)

/-- The LOCAL read of operation `no` meets a page that is not resident: only this queue pair's packetisation stalls (R302). -/
def stallSource (s : State) (n no key page : Nat) : State :=
  let mine := match s.rec? key page with
    | some r => r.waiters.contains (.localRead n no)
    | none => false
  if mine then s else
  let (s, parked) := joinFault s key page (.localRead n no) ((s.qp n).recWait == some (key, page))
  s.setQp n { s.qp n with recWait := if parked then none else some (key, page) }

/-- Send packet `k` of the `i`th operation at time `ns` over a way that exists. -/
def emitPacket (s : State) (n i k psn ns : Nat) (again : Bool) (way : Way) (host : List Byte) (mismatch : Bool) : State :=
  let q := s.qp n
  match q.ops[i]? with
  | none => s
  | some o =>
    let try_ := smGet q.tries psn 0
    let enc := qpEnc q.e.toNat
    let drop (s : State) : State := if again then s.setQp n { s.qp n with resend := (s.qp n).resend.erase psn } else s
    if enc && qpCipherFenced s n then failOp (drop s) n i 0x7F
    else
      let got := if readsSource o k then
          trnRead s (wayReq s way) rRead (dCtx o.d.w) o.d.no (dLocal o.d.w + 8192 * k) (pktLen o.d.w k) host
        else (s, .ok [])
      match got with
      | (s, .park key page) => stallSource s n o.d.no key page
      | (s, .fail c) => failOp (drop s) n i c
      | (s, .ok bs) =>
        if enc && mismatch then failOp (drop (ceMismatch s (4 * qpDom s n + 2) 0)) n i 0x30
        else
          let p := opPacket s n o k psn try_ bs
          let s := noteSent s n i psn again
          let s := if again then s.count F.TRN_RETX else s
          let (s, p) := finishPacket s n p
          sendWay (paced s n ns p) p way

/-- The oldest response that waits leaves at time `ns` (R341, R342, R373). It is lost where every path is down, where its cipher engine
is fenced, or where that engine's lanes disagree: the requester asks again. -/
def sendResponse (s : State) (n ns : Nat) (p : Packet) (mismatch : Bool) : State :=
  let q := s.qp n
  let next := s.setQp n { q with resp := q.resp.drop 1 }
  match wayTo s p.dstEp (npathOf q.e.toNat) (p.psn + p.try_) with
  | .uncached => waitWay s n none
  | .noCredit => waitWay s n none
  | .down => next
  | .invalid => next
  | way =>
    if qpEnc q.e.toNat && qpCipherFenced s n then next
    else if qpEnc q.e.toNat && mismatch then ceMismatch next (4 * qpDom s n + 2) 0
    else
      let (s, p) := finishPacket next n { p with stamp := s.tk.num % 65536 }
      sendWay (paced s n ns p) p way

/-- The next packet of the queue pair's operations (R331–R333, R355). -/
def transmitOp (s : State) (n ns : Nat) (host : List Byte) (mismatch : Bool) : State :=
  let q := s.qp n
  match nextJob q with
  | none => s
  | some (i, k, again) =>
    if !again && !windowOpen q then s else
    match q.ops[i]? with
    | none => s
    | some o =>
      let psn := if again then psnAdd o.first k else q.nextPsn
      let ep := qpRemoteEp q.e.toNat
      match wayTo s ep (npathOf q.e.toNat) (psn + smGet q.tries psn 0) with
      | .uncached => waitWay s n none
      | .noCredit => waitWay s n none
      | .invalid =>
        let s := if again then s.setQp n { q with resend := q.resend.erase psn } else s
        if o.code.isSome then (if again then s else noteSent s n i psn false)
        else failOp ((s.count F.TRN_NO_ROUTE).count F.TRN_PATH_INVALID) n i 0x51
      | .down => noteSent s n i psn again
      | way => emitPacket s n i k psn ns again way host mismatch

/-- The queue pair's next packet at time `ns`, where one may start (R373). That its responses go before its operations' packets is
DESIGN CHOICE (log entry 60). -/
def transmit (s : State) (n ns : Nat) (host : List Byte) (mismatch : Bool) : State :=
  let q := s.qp n
  if (q.st ≠ 2 && q.st ≠ 3) || !q.cached || !mayStart s n ns then s else
  match q.resp with
  | p :: _ => sendResponse s n ns p mismatch
  | [] => if q.st = 3 then transmitOp s n ns host mismatch else s

/-- TRN_PACKET_TRANSMIT at time base value `ns`. `hostData`: what a host-resident source delivers; `mismatch`: the encrypt pipe's lanes
disagree. -/
def execTrnPacketTransmit (n ns : Nat) (hostData : List Byte) (mismatch : Bool) (s : State) : Out :=
  .next (inActive s fun s => settle (transmit s n ns hostData mismatch))

/-! ### The retransmission timer (R347) -/

/-- PSNs that an expiry sends again: those not acknowledged, and requests of reads with bytes missing. -/
def toResend (q : Qp) : List Nat :=
  q.ops.flatMap fun o =>
    ((List.range o.sent).filter fun k =>
      !o.acked.contains k || (dKind o.d.w == 9 && o.code.isNone && o.missing.isSome)).map fun k => psnAdd o.first k

/-- TRY of each after one more retransmission; a PSN whose latest notice is `held` keeps its TRY. -/
def nextTry (q : Qp) (psn : Nat) : Nat := smGet q.tries psn 0 + (if q.heldPsn.contains psn then 0 else 1)

def retryExpiry (s : State) (n : Nat) : State :=
  let q := s.qp n
  match q.timer with
  | none => s
  | some b =>
    if q.st ≠ 3 || s.tk.count < b then s else
    let ps := toResend q
    match ps.find? fun p => 8 ≤ nextTry q p with
    | some p =>
      let hit (o : Op) : Bool := (o.index p).isSome && o.code.isNone
      let s := if q.ops.any hit then s.count F.TRN_RETRY_EXCEEDED else s
      qpErrorEvent (s.setQp n { q with ops := q.ops.map fun o => if hit o then { o with code := some 0x50 } else o }) n 0
    | none =>
      let tries := ps.foldl (fun m p => smPut 0 m p (nextTry q p)) q.tries
      s.setQp n { q with resend := ps, tries := tries, timer := some (retryAt s) }

/-- RETRY_TIMER_EXPIRY. -/
def execRetryTimerExpiry (n : Nat) (s : State) : Out := .next (inActive s fun s => retryExpiry s n)

end Sys2Proof.Machine
end

