-- ==== Sys2Proof/Machine/Receive.lean ====
section
/-! DEFINITION. The receiving transport unit (R334–R344, R348, R349, R304, R310): the steps of R335, placement, acknowledgements,
responses, and packets that the adapter holds. -/

namespace Sys2Proof.Machine

/-! ### Steps 1 to 3 of R335 -/

/-- Take a packet from those that the transport unit has not yet handled, if it is there. -/
def takeArrival (s : State) (i : Ingress) (p : Packet) : State :=
  { s with tr := { s.tr with arrivals := s.tr.arrivals.erase (i, p) } }

/-- Is a packet aged (R334)? -/
def agedOut (s : State) (p : Packet) : Bool :=
  let age := (s.tk.num % 65536 + 65536 - p.stamp % 65536) % 65536
  max 1 (s.getL F.TRN_CTL_PKT_LIFE_TICKS) < age && age < 2 ^ 15

/-- Does an attach port bound to another context keep the packet out (R451)? -/
def bindRefuses (s : State) (ctx : Nat) : Ingress → Bool
  | .port j => 16 ≤ j && s.getL (F.ATTACH_BIND_EN (j - 16)) == 1 && s.getL (F.ATTACH_BIND_CTX (j - 16)) != ctx
  | _ => false

/-- Step 2: the queue pair exists and is in RTR or RTS, and the packet is its other end's. -/
def qpAccepts (s : State) (i : Ingress) (p : Packet) : Bool :=
  let q := s.qp p.dqp
  let e := q.e.toNat
  p.dqp < 2 ^ 18 && (q.st == 2 || q.st == 3) && p.srcEp == qpRemoteEp e && p.sqp == qpRemoteQp e
    && (6 < p.type || p.enc == qpEnc e) && !bindRefuses s (qpCtx e) i

/-- Steps 1 to 3. True: the packet goes on. A packet for a queue pair whose state is not on die waits (R328). -/
def rxHead (s : State) (i : Ingress) (p : Packet) : State × Bool :=
  let q := s.qp p.dqp
  if q.st ≠ 0 && !q.cached then
    ({ s with tr := { s.tr with waitState := s.tr.waitState ++ [(i, p)] } }, false)
  else
    let s := if p.type ≤ 6 then s.count F.TRN_RX_PKTS else s
    if 9 ≤ p.type || p.rsvHdr || p.rsvRoute || !hdrOk p then (s.count F.TRN_BAD_HDR, false)
    else if !qpAccepts s i p then (s.count F.TRN_BAD_QP, false)
    else if agedOut s p then (s.count F.TRN_AGED, false)
    else (s, true)

/-! ### PSN status (R336) -/

/-- ePSN goes past every done PSN. -/
def advancePsn : (fuel : Nat) → (e : Nat) → List Nat → Nat × List Nat
  | 0, e, done => (e, done)
  | k + 1, e, done => if done.contains e then advancePsn k (psnAdd e 1) (done.filter (· != e)) else (e, done)

/-- Position of a PSN in history and window: below 8,192 within them, below 4,096 in history. -/
def psnPlace (q : Qp) (psn : Nat) : Nat := psnSub psn (psnSub q.epsn 4096)

/-- First PSN of a packet's message (R331). -/
def firstPsn (p : Packet) : Nat := if p.type = 0 || p.type = 3 then psnSub p.psn (p.offset / 8192) else p.psn

/-- Is PSN `a` before PSN `b`, modulo 2^24? -/
def psnBefore (a b : Nat) : Bool := 1 ≤ psnSub b a && psnSub b a < 2 ^ 23

/-- Is every PSN of the WRITE message that begins at `f` done, `t` being its total length once it is known? A message whose last packet
is not known ends before a later message's first PSN `g`. -/
def msgOver (e g f : Nat) (t : Option Nat) : Bool :=
  (match t with | some t => psnBefore (psnAdd f (cdiv t 8192 - 1)) e | none => false) || (psnBefore f g && !psnBefore e g)

/-- The PSN of a packet is done. Refused PSNs that have left history, and the counts of messages whose every packet is done, are
forgotten. -/
def markDone (q : Qp) (p : Packet) : Qp :=
  let done := if q.done.contains p.psn then q.done else q.done ++ [p.psn]
  let (e, done) := advancePsn done.length q.epsn done
  let q := { q with epsn := e, done := done }
  { q with
    refusals := q.refusals.filter fun r => psnPlace q r.1 < 8192,
    msgs := q.msgs.filter fun m => !msgOver e (firstPsn p) m.1 m.2.2 }

/-- Is the packet of this PSN held on a migration? -/
def migHeld (s : State) (n psn : Nat) : Bool :=
  s.sg.recs.any fun r => r.waiters.any fun w =>
    match w with
    | .held _ p => p.dqp == n && p.psn == psn && p.type != 2 && p.type != 5
    | _ => false

def fenceHeld (s : State) (n psn : Nat) : Bool := s.tr.fences.any fun f => f.2.dqp == n && f.2.psn == psn

/-- Is its signal at a sync unit and not yet performed? -/
def signalling (s : State) (n psn : Nat) : Bool :=
  s.sy.reqs.any fun r => match r.pkt with | some (_, p) => p.dqp == n && p.psn == psn | none => false

/-! ### Acknowledgements (R343, R344) -/

/-- Insert a refusal in PSN order. -/
def insertRefusal (q : Qp) (r : Nat × Nat) : List (Nat × Nat) → List (Nat × Nat)
  | [] => [r]
  | x :: xs => if psnPlace q r.1 < psnPlace q x.1 then r :: x :: xs else x :: insertRefusal q r xs

/-- The ACK that queue pair `n` sends now. -/
def ackOf (s : State) (n notice noticePsn : Nat) : Packet :=
  let q := s.qp n
  let bitsOf := (List.range 256).filter fun j => q.done.contains (psnAdd q.epsn (1 + j))
  { pktFrom s n q 7 q.epsn with
    tc := qpAckTc q.e.toNat, echo := q.echo, notice := notice, noticePsn := noticePsn,
    sack := (bitsOf.map fun j => 2 ^ j).sum, refusals := q.refusals }

def countAck (s : State) (p : Packet) : State := if p.type = 7 then s.count F.TRN_ACKS_TX else s

/-- Send an ACK over the queue pair's paths from index `i` on; it waits where its way is not known yet or the peer has no room, and is
lost where every path is down. -/
def respond (s : State) (n : Nat) (p : Packet) (i : Nat) : State :=
  match wayTo s p.dstEp (npathOf (s.qp n).e.toNat) i with
  | .uncached => waitWay s n (some p)
  | .noCredit => waitWay s n (some p)
  | .down => s
  | .invalid => s
  | way => sendWay (countAck s p) p way

/-- Send an ACK in answer to packet `p` from ingress `i`: over the reverse of its path, or the first path that is up. A queue pair that
is in neither RTR nor RTS sends none. -/
def sendAck (s : State) (n : Nat) (i : Ingress) (p : Packet) (notice noticePsn : Nat) : State :=
  if (s.qp n).st ≠ 2 && (s.qp n).st ≠ 3 then s else
  let a := ackOf s n notice noticePsn
  let s := s.setQp n { s.qp n with echo := 0, ackDue := 0, ackFrom := none }
  if (peerOf s a.dstEp).isSome then respond s n a 0 else
  match i with
  | .loopback => sendWay (countAck s a) a (.path (2 ^ 74))
  | .port j =>
    if egressOk s j then sendLocal (countAck s a) { a with hops := p.hops, path := reversePath p.path p.hops j } 32
    else respond s n a 0
  | .peer _ => respond s n a 0

/-- A placement (step 9): the PSN is done, ECHO grows by a marked payload, and an ACK is sent where one is due. -/
def placed (s : State) (n : Nat) (i : Ingress) (p : Packet) (ackNow : Bool) : State :=
  let q := markDone (s.qp n) p
  let q := { q with
    ackDue := q.ackDue + 1, echo := if p.ce then min (2 ^ 32 - 1) (q.echo + p.payload.length) else q.echo,
    ackFrom := match q.ackFrom with | some f => some f | none => some (i, p) }
  let s := s.setQp n q
  if ackNow || max 1 (s.getL F.TRN_CTL_ACK_COALESCE) ≤ q.ackDue then sendAck s n i p 0 0 else s

/-! ### Receives (R339) -/

def rqOf (q : Qp) : Nat := 64 * qpCtx q.e.toNat + qpRq q.e.toNat % 64

def State.setRq (s : State) (k : Nat) (r : Rq) : State := { s with tr := { s.tr with rqs := smSet s.tr.rqs k r } }

/-- The receive that serves a send sequence number. -/
def findRecv (s : State) (q : Qp) (ssn : Nat) : Option Recv :=
  match smFind s.tr.rqs (rqOf q) with
  | none => none
  | some r => r.recvs.find? fun v => v.ssn % 2 ^ 24 == ssn

/-- Has the receive of a send sequence number been posted and completed? -/
def recvGone (s : State) (q : Qp) (ssn : Nat) : Bool :=
  match smFind s.tr.rqs (rqOf q) with
  | none => false
  | some r => let k := psnSub r.next ssn; 1 ≤ k && k < 2 ^ 23 && k ≤ r.next

/-- How a receive completes, once it does: by an abort, by its last packet, or with its lowest refused packet's code. -/
def recvCode (v : Recv) : Option Nat :=
  match v.abort with
  | some c => some c
  | none =>
    if v.npk = some v.donePk then some (match v.bad with | some (_, c) => c | none => 0) else none

/-- The completion entry of a receive (R447). -/
def recvEntry (s : State) (n : Nat) (v : Recv) (code : Nat) : State :=
  let e := (s.qp n).e.toNat
  if s.ownsCq (qpCtx e) (qpRcq e) then s.cqPost (qpRcq e) (cqEntry v.tag code 1 n v.bytes (toLE 4 v.imm)) else s

/-- Put a receive back, or complete it. The second answer says whether it has completed. -/
def putRecv (s : State) (n : Nat) (v : Recv) : State × Bool :=
  let k := rqOf (s.qp n)
  match smFind s.tr.rqs k with
  | none => (s, false)
  | some r =>
    match recvCode v with
    | none => (s.setRq k { r with recvs := r.recvs.map fun w => if w.ssn = v.ssn then v else w }, false)
    | some c => (recvEntry (s.setRq k { r with recvs := r.recvs.filter fun w => w.ssn != v.ssn }) n v c, true)

/-- A receive whose message has had a packet refused keeps the code of the lowest. -/
def Recv.refuse (v : Recv) (x : EarlyRefusal) : Recv :=
  let bad := match v.bad with
    | some (j, c) => if x.k < j then some (x.k, x.code) else some (j, c)
    | none => some (x.k, x.code)
  { v with bad := bad, donePk := v.donePk + 1, npk := if x.last then some (x.k + 1) else v.npk }

/-- A packet of a SEND is refused: its receive keeps the code, and where it has not been posted yet (a packet refused at step 5) the
receive queue keeps it for it (R339). -/
def recvRefused (s : State) (n : Nat) (p : Packet) (code : Nat) : State :=
  let x : EarlyRefusal := { ssn := p.ssn, k := p.offset / 8192, code := code, last := p.last }
  match findRecv s (s.qp n) p.ssn with
  | some v => (putRecv s n (v.refuse x)).1
  | none =>
    let k := rqOf (s.qp n)
    match smFind s.tr.rqs k with
    | some r => if recvGone s (s.qp n) p.ssn then s else s.setRq k { r with early := r.early ++ [x] }
    | none => s

/-- A receive has been posted: what was refused of its message before applies to it. -/
def foldEarly (s : State) (n k : Nat) (v : Recv) : State :=
  match smFind s.tr.rqs k with
  | none => s
  | some r =>
    let mine (x : EarlyRefusal) : Bool := x.ssn == v.ssn % 2 ^ 24
    let w := (r.early.filter mine).foldl Recv.refuse v
    (putRecv (s.setRq k { r with early := r.early.filter fun x => !mine x }) n w).1

/-! ### Refusals (R343) -/

/-- Packets refused with a key's codes (R317). -/
def countRefused (s : State) (code : Nat) : State :=
  let s := s.count F.TRN_REFUSED
  if code = 0x11 then s.count F.WIN_KEY_STALE
  else if code = 0x10 || code = 0x12 || code = 0x13 || code = 0x20 then s.count F.WIN_KEY_REFUSED
  else s

/-- The LAST packet of a WRITE gives the message's total, refused or not (R338). -/
def noteTotal (q : Qp) (p : Packet) : Qp :=
  if p.type = 0 && p.last then
    let f := firstPsn p
    { q with msgs := smSet q.msgs f ((smGet q.msgs f (0, none)).1, some (p.offset + p.payload.length)) }
  else q

/-- A packet is refused at steps 5, 7 or 8: done with its code, which goes to the initiator. -/
def refuse (s : State) (n : Nat) (i : Ingress) (p : Packet) (code : Nat) : State :=
  let s := countRefused s code
  let s := if p.type = 3 then recvRefused s n p code else s
  let q := noteTotal (s.qp n) p
  let q := markDone { q with refusals := insertRefusal q (p.psn, code) q.refusals } p
  let s := s.setQp n q
  if 16 < q.refusals.length && (q.st == 2 || q.st == 3) then qpErrorEvent s n 1 else sendAck s n i p 0 0

/-! ### Keys (R310) -/

/-- Steps 1 to 4 for `len` bytes, or sync objects, from window offset `off`: a code, and the window. -/
def keyCheck (s : State) (ctx : Nat) (p : Packet) (off len right : Nat) : Nat × Nat :=
  match smFind s.sg.keys p.rkey with
  | none => (0x10, 0)
  | some k =>
    match smFind s.sg.wins (keyWin k.toNat) with
    | none => (0x10, 0)
    | some w =>
      let k := k.toNat
      if keyCtx k ≠ ctx then (0x10, 0)
      else if p.rgen ≠ winGen w.toNat then (0x11, 0)
      else if off < keyOff k || keyOff k + keyLen k < off + len then (0x12, 0)
      else if keyRights k &&& right ≠ right then (0x13, 0)
      else (0, w.toNat)

/-- The context address of a window offset; none for a sync window. -/
def winAddr (s : State) (w off : Nat) : Option Nat :=
  if winSync w then none else
  match smFind s.sg.segs (segKey (winCtx w) (winSeg w)) with
  | none => none
  | some g => some (segVbase g.e.toNat + winBase w + off)

/-! ### Holding on a migration (R302, R304) -/

def holdPacket (s : State) (n : Nat) (i : Ingress) (p : Packet) (key page : Nat) : State :=
  match joinFault s key page (.held i p) with
  | (s, false) => s.count F.MIG_HELD_DROPPED
  | (s, true) =>
    let s := if p.type = 0 then s.count F.MIG_HELD_WRITES else s
    sendAck s n i p 1 p.psn

/-! ### Steps 7 to 9, by type. `ackNow`: the placement of a held packet acknowledges it -/

/-- A WRITE message counts its bytes (R338); true: it is complete. -/
def countMsg (q : Qp) (p : Packet) : Qp × Bool :=
  let f := firstPsn p
  let (c, t) := smGet q.msgs f (0, none)
  let c := c + p.payload.length
  let t := if p.last then some (p.offset + p.payload.length) else t
  if t = some c then ({ q with msgs := smDel q.msgs f }, true) else ({ q with msgs := smSet q.msgs f (c, t) }, false)

/-- Physical address of the tile at which the piece at `a` is to be placed; a host-resident destination has none, and the spec gives no
address for it: a free value. -/
def pieceTile (s : State) (ctx no a : Nat) : Nat × State :=
  match opTranslate s .trn rWrite ctx no a 1 with
  | .mem pa => (tileOf pa * 2048, s)
  | _ => (s.fresh.1.toNat, s.fresh.2)

/-- A piece of a packet for `a` does not match its checksum (R290, R293): nothing is placed and no answer goes out. Each piece that
differs is a check failure with WHERE 2, in ascending order. -/
def badPieces (s : State) (req ctx no a : Nat) (p : Packet) : State :=
  let cut := cutTiles a p.payload (p.payload.length / 2048 + 2)
  let bad := ((List.range cut.length).filterMap fun k => (cut[k]?).bind fun c => if p.pieces[k]? = some (crc64 c.2) then none else some c.1)
  bad.foldl (fun s b =>
    let (pa, s) := pieceTile s ctx no b
    let s := { s with mem := { s.mem with failAddr := pa % 2 ^ 48 } }
    let s := (s.set F.MEM_TCHK_EVENT_WHERE 2).set F.MEM_TCHK_EVENT_UNIT ((req - 80) % 32)
    ((s.set F.MEM_TCHK_EVENT_CAUSE 3).set F.MEM_TCHK_EVENT_REQ req).bump F.MEM_TCHK_EVENT_SEQ) (s.count F.MEM_RX_CKSUM_DROP)

def applyWrite (s : State) (n : Nat) (i : Ingress) (p : Packet) (ackNow : Bool) : State :=
  let ctx := qpCtx (s.qp n).e.toNat
  let off := p.roff + p.offset
  let len := p.payload.length
  match keyCheck s ctx p off len rWrite with
  | (0, w) =>
    (match winAddr s w off with
     | none => refuse s n i p 0x20
     | some a =>
       match trnFault s rWrite ctx s.sq.opNo a len with
       | some (.park k pg) => holdPacket s n i p k pg
       | some _ => refuse s n i p 0x20
       | none =>
         if piecesOf a p.payload ≠ p.pieces then badPieces s (ingressReq s i) ctx s.sq.opNo a p else
         match trnWrite s (ingressReq s i) rWrite ctx s.sq.opNo a p.payload with
         | (s, .fail c) => refuse s n i p c
         | (s, _) =>
           let (q, done) := countMsg (s.qp n) p
           placed (s.setQp n q) n i p (ackNow || done))
  | (c, _) => refuse s n i p c

def applySend (s : State) (n : Nat) (i : Ingress) (p : Packet) (ackNow : Bool) : State :=
  let q := s.qp n
  let ctx := qpCtx q.e.toNat
  match findRecv s q p.ssn with
  | none =>
    if recvGone s q p.ssn then placed s n i p ackNow
    else sendAck (s.count F.TRN_RNR) n i p 2 p.psn
  | some v =>
    if p.abort then
      let (s, _) := putRecv s n { v with abort := some (p.aux % 256) }
      placed s n i p true
    else if v.len < p.offset + p.payload.length then refuse s n i p 0x12
    else
      let a := v.buf + p.offset
      match trnFault s rWrite ctx s.sq.opNo a p.payload.length with
      | some (.park k pg) => holdPacket s n i p k pg
      | some _ => refuse s n i p 0x20
      | none =>
        if piecesOf a p.payload ≠ p.pieces then badPieces s (ingressReq s i) ctx s.sq.opNo a p else
        match trnWrite s (ingressReq s i) rWrite ctx s.sq.opNo a p.payload with
        | (s, .fail c) => refuse s n i p c
        | (s, _) =>
          let k := p.offset / 8192
          let (s, done) := putRecv s n { v with
            bytes := v.bytes + p.payload.length, donePk := v.donePk + 1,
            npk := if p.last then some (k + 1) else v.npk, imm := if p.last then p.aux else v.imm }
          placed s n i p (ackNow || done)

/-- A response joins those that the queue pair has to send. -/
def pushResponse (s : State) (n : Nat) (r : Packet) : State := s.setQp n { s.qp n with resp := (s.qp n).resp ++ [r] }

/-- The READ_RESP packets of a request, `bs` being the bytes from its OFFSET on (R341). -/
def readResponses (s : State) (n : Nat) (p : Packet) (total : Nat) : (fuel : Nat) → (off : Nat) → List Byte → State
  | 0, _, _ => s
  | k + 1, off, bs =>
    if bs = [] then s else
    let part := bs.take 8192
    let r := { pktFrom s n (s.qp n) 2 p.psn with
      try_ := p.try_, offset := off, last := off + part.length == total, payload := part,
      pieces := piecesOf (p.phase + off) part }
    readResponses (pushResponse s n r) n p total k (off + part.length) (bs.drop 8192)

/-- `mark`: the request's PSN is new, and is marked placed when its last tile has been read; its message is complete then. -/
def applyRead (s : State) (n : Nat) (i : Ingress) (p : Packet) (host : List Byte) (mark : Bool) : State :=
  let ctx := qpCtx (s.qp n).e.toNat
  let total := p.aux % 2 ^ 30 + 1
  let len := total - p.offset
  let stop (s : State) (c : Nat) : State := if mark then refuse s n i p c else s
  if len = 0 then stop s 0x12 else
  match keyCheck s ctx p (p.roff + p.offset) len rRead with
  | (0, w) =>
    (match winAddr s w (p.roff + p.offset) with
     | none => stop s 0x20
     | some a =>
       match trnRead s (ingressReq s i) rRead ctx s.sq.opNo a len host with
       | (s, .park k pg) => holdPacket s n i p k pg
       | (s, .fail c) => stop s c
       | (s, .ok bs) =>
         let s := if mark then placed s n i p true else s
         readResponses s n p total (len / 8192 + 1) p.offset bs)
  | (c, _) => stop s c

/-- The answer to an ATOMIC: the previous value (R342). -/
def atomicResponse (s : State) (n : Nat) (p : Packet) (old : Nat) : State :=
  let bs := toLE 8 old
  pushResponse s n { pktFrom s n (s.qp n) 5 p.psn with try_ := p.try_, last := true, payload := bs, pieces := [crc64 bs] }

/-- What an ATOMIC leaves: fetch-add, or compare and swap (R183). -/
def atomicNew (p : Packet) (old : Nat) : Nat :=
  let a := fieldLE p.payload 0 8
  let b := fieldLE p.payload 8 8
  if bit p.aux 0 then (if old = a then b else old) else (old + a) % 2 ^ 64

def applyAtomic (s : State) (n : Nat) (i : Ingress) (p : Packet) (host : List Byte) : State :=
  let ctx := qpCtx (s.qp n).e.toNat
  match keyCheck s ctx p p.roff 8 rAtomic with
  | (0, w) =>
    (match winAddr s w p.roff with
     | none => refuse s n i p 0x20
     | some a =>
       let req := ingressReq s i
       match trnRead s req rAtomic ctx s.sq.opNo a 8 host with
       | (s, .park k pg) => holdPacket s n i p k pg
       | (s, .fail c) => refuse s n i p c
       | (s, .ok bs) =>
         let old := ofLE bs
         match trnWrite s req rAtomic ctx s.sq.opNo a (toLE 8 (atomicNew p old)) with
         | (s, .fail c) => refuse s n i p c
         | (s, _) =>
           let q := s.qp n
           let kept := q.atomics ++ [(p.psn, old)]
           let s := s.setQp n { q with atomics := kept.drop (kept.length - 16) }
           atomicResponse (placed s n i p true) n p old)
  | (c, _) => refuse s n i p c

/-- A SIGNAL goes to the unit of its object; its PSN is placed when the unit performs it (R342). -/
def applySignal (s : State) (n : Nat) (i : Ingress) (p : Packet) : State :=
  match keyCheck s (qpCtx (s.qp n).e.toNat) p p.roff 1 rAtomic with
  | (0, w) =>
    if winSync w then
      s.syncSend { req := 80, obj := winBase w + p.roff, ctx := none, op := .signal (max 1 p.aux), th := none, pkt := some (i, p) }
    else refuse s n i p 0x20
  | (c, _) => refuse s n i p c

/-- Steps 7 to 9 for a packet that takes a PSN. -/
def rxApply (s : State) (n : Nat) (i : Ingress) (p : Packet) (host : List Byte) (ackNow : Bool) : State :=
  match p.type with
  | 0 => applyWrite s n i p ackNow
  | 1 => applyRead s n i p host true
  | 3 => applySend s n i p ackNow
  | 4 => applyAtomic s n i p host
  | _ => applySignal s n i p

/-! ### Steps 4 to 6 -/

/-- Step 5: the packet as decrypted; none: a lane mismatch, a fenced engine or a wrong tag, with the code to refuse it with. -/
def rxOpen (s : State) (n : Nat) (p : Packet) : State × Option Packet × Option Nat :=
  let e := (s.qp n).e.toNat
  if !qpEnc e then (s, some p, none)
  else if qpCipherFenced s n then (s, none, some 0x7F)
  else
    let s := s.count (F.CE_RX_PKTS (qpDom s n))
    if p.laneBad then (ceMismatch s (4 * qpDom s n + 2) 1, none, none)
    else
      match openPacket (qpKey s e) p with
      | some q => (s, some q, none)
      | none => ((s.count F.TRN_AUTH_FAIL).count (F.CE_AUTH_FAIL (qpDom s n)), none, some 0x70)

/-- Has every packet of every earlier message been placed or refused (R337)? -/
def fenceOpen (q : Qp) (p : Packet) : Bool := psnSub q.epsn (firstPsn p) < 2 ^ 23

/-- A new packet: steps 5 to 9. -/
def rxNew (s : State) (n : Nat) (i : Ingress) (p : Packet) (host : List Byte) : State :=
  match rxOpen s n p with
  | (s, none, none) => s
  | (s, none, some c) => refuse s n i p c
  | (s, some p, _) =>
    if p.fence && !fenceOpen (s.qp n) p then
      if 256 ≤ s.tr.fences.length then s.count F.TRN_FENCE_DROP
      else
        let s := { s with tr := { s.tr with fences := s.tr.fences ++ [(i, p)] } }
        sendAck (s.count F.TRN_FENCE_HELD) n i p 1 p.psn
    else rxApply s n i p host false

/-- A duplicate (R348, R341, R342). -/
def rxDup (s : State) (n : Nat) (i : Ingress) (p : Packet) (host : List Byte) : State :=
  let s := s.count F.TRN_DUP
  let q := s.qp n
  if migHeld s n p.psn then sendAck (s.count F.MIG_HELD_DUP) n i p 1 p.psn
  else if fenceHeld s n p.psn then sendAck s n i p 1 p.psn
  else
    let s := sendAck s n i p 0 0
    if q.refusals.any fun r => r.1 == p.psn then s
    else if p.type = 1 then
      (match rxOpen s n p with
       | (s, some p, _) => applyRead s n i p host false
       | (s, _, _) => s)
    else if p.type = 4 then
      (match q.atomics.find? fun a => a.1 == p.psn with
       | some (_, old) => atomicResponse s n p old
       | none => s)
    else s

/-- A late packet is never placed (R336). -/
def rxLate (s : State) (n : Nat) (p : Packet) : State :=
  let s := s.count F.TRN_LATE
  if p.type = 3 then s else
  match smFind s.sg.keys p.rkey with
  | none => s
  | some k =>
    match smFind s.sg.wins (keyWin k.toNat) with
    | none => s
    | some w =>
      if keyCtx k.toNat == qpCtx (s.qp n).e.toNat && p.rgen != winGen w.toNat then s.count F.WIN_KEY_STALE else s

/-- A packet that takes a PSN, through all steps of R335. -/
def rxData (s : State) (i : Ingress) (p : Packet) (host : List Byte) : State :=
  match rxHead (takeArrival s i p) i p with
  | (s, false) => s
  | (s, true) =>
    let n := p.dqp
    let q := s.qp n
    let d := psnPlace q p.psn
    if d < 4096 then rxDup s n i p host
    else if d < 8192 then
      (if q.done.contains p.psn || migHeld s n p.psn || fenceHeld s n p.psn || signalling s n p.psn then rxDup s n i p host
       else rxNew s n i p host)
    else if d < 2 ^ 23 + 4096 then s.count F.TRN_OUTSIDE
    else rxLate s n p

/-- A packet of type `t` is handled in Active; WRITE_RX also meets the reserved types, which step 1 drops (R323). -/
def rxAs (s : State) (i : Ingress) (p : Packet) (t : Nat) (host : List Byte) : State :=
  inActive s fun s =>
    if p.type = t || (t = 0 && 9 ≤ p.type) then settle (rxData s i p host) else s

/-- WRITE_RX. -/
def execWriteRx (i : Ingress) (p : Packet) (s : State) : Out := .next (rxAs s i p 0 [])
/-- READ_REQ_RX. `hostData`: what a host-resident target delivers. -/
def execReadReqRx (i : Ingress) (p : Packet) (hostData : List Byte) (s : State) : Out := .next (rxAs s i p 1 hostData)
/-- SEND_RX. -/
def execSendRx (i : Ingress) (p : Packet) (s : State) : Out := .next (rxAs s i p 3 [])
/-- ATOMIC_RX. -/
def execAtomicRx (i : Ingress) (p : Packet) (hostData : List Byte) (s : State) : Out := .next (rxAs s i p 4 hostData)
/-- SIGNAL_RX. -/
def execSignalRx (i : Ingress) (p : Packet) (s : State) : Out := .next (rxAs s i p 6 [])

/-! ### Responses at the requester (R341, R342, R345, R371) -/

/-- The operation of kind `kind` that holds a PSN and has not ended. -/
def respOp (q : Qp) (kind psn : Nat) : Option (Nat × Op) :=
  (List.range q.ops.length).findSome? fun i =>
    match q.ops[i]? with
    | some o => if dKind o.d.w == kind && (o.index psn).isSome && o.code.isNone then some (i, o) else none
    | none => none

/-- A marked response adds to the ECHO of the next ACK. -/
def echoResp (q : Qp) (i : Ingress) (p : Packet) : Qp :=
  if p.ce then
    { q with
      echo := min (2 ^ 32 - 1) (q.echo + p.payload.length),
      ackFrom := match q.ackFrom with | some f => some f | none => some (i, p) }
  else q

/-- The bytes of a response are placed once (R341). The timer restarts only where it is the first to acknowledge its PSN (R347). -/
def applyResp (s : State) (n : Nat) (i : Ingress) (p : Packet) : State :=
  match respOp (s.qp n) (if p.type = 2 then 9 else 11) p.psn with
  | none => s
  | some (k, o) =>
    let d := o.d
    let len := p.payload.length
    if len = 0 || opLen d.w < p.offset + len || p.offset % 8192 ≠ 0 || (o.got.any fun g => g.1 == p.offset) then s
    else
      let a := dLocal d.w + p.offset
      match trnFault s rWrite (dCtx d.w) d.no a len with
      | some (.park key pg) =>
        (match joinFault s key pg (.held i p) with
         | (s, true) => s
         | (s, false) => s.count F.MIG_HELD_DROPPED)
      | some _ => failOp s n k 0x20
      | none =>
        if piecesOf a p.payload ≠ p.pieces then badPieces s (ingressReq s i) (dCtx d.w) d.no a p else
        match trnWrite s (ingressReq s i) rWrite (dCtx d.w) d.no a p.payload with
        | (s, .fail c) => failOp s n k c
        | (s, _) =>
          let first := o.got.isEmpty && !o.acked.contains 0
          let o := { o with got := o.got ++ [(p.offset, len)] }
          let o := if o.missing.isNone then { o with code := some 0 } else o
          let q := echoResp (s.qp n) i p
          settleQp s n { q with ops := q.ops.set k o, timer := if first then q.timer.map fun _ => retryAt s else q.timer }

def rxResp (s : State) (i : Ingress) (p : Packet) (t : Nat) : State :=
  if p.type ≠ t then s else
  match rxHead (takeArrival s i p) i p with
  | (s, false) => s
  | (s, true) =>
    match rxOpen s p.dqp p with
    | (s, some r, _) => applyResp s p.dqp i r
    | (s, none, none) => s
    | (s, none, some c) =>
      let s := s.count F.TRN_REFUSED
      match respOp (s.qp p.dqp) (if t = 2 then 9 else 11) p.psn with
      | some (k, _) => failOp s p.dqp k c
      | none => s

/-- READ_RESP_RX. -/
def execReadRespRx (i : Ingress) (p : Packet) (s : State) : Out := .next (inActive s fun s => settle (rxResp s i p 2))
/-- ATOMIC_RESP_RX. -/
def execAtomicRespRx (i : Ingress) (p : Packet) (s : State) : Out := .next (inActive s fun s => settle (rxResp s i p 5))

/-! ### ACKs (R345–R347, R372) -/

/-- Does an ACK show a PSN as done? -/
def ackShows (p : Packet) (psn : Nat) : Bool :=
  let below := psnSub p.psn psn
  let above := psnSub psn p.psn
  (1 ≤ below && below < 2 ^ 23) || (1 ≤ above && above ≤ 256 && bit p.sack (above - 1))
    || p.refusals.any fun r => r.1 == psn

/-- An operation under an ACK. -/
def Op.acks (o : Op) (p : Packet) : Op :=
  let new := (List.range o.sent).filter fun k => !o.acked.contains k && ackShows p (psnAdd o.first k)
  let refs := p.refusals.filterMap fun r => (o.index r.1).map fun k => (k, r.2)
  let low := refs.foldl (fun m r => match m with | some x => if r.1 < x.1 then some r else some x | none => some r) o.refused
  Op.judge { o with acked := o.acked ++ new, refused := low }

/-- Does an ACK acknowledge a PSN of the operation for the first time? A response has acknowledged its request's. -/
def Op.news (o : Op) (p : Packet) : Bool :=
  o.got.isEmpty && (List.range o.sent).any fun k => !o.acked.contains k && ackShows p (psnAdd o.first k)

/-- Latest notice of a PSN: held, or anything else. -/
def noteHeld (q : Qp) (p : Packet) : Qp :=
  match p.notice with
  | 1 => if q.heldPsn.contains p.noticePsn then q else { q with heldPsn := q.heldPsn ++ [p.noticePsn] }
  | 2 => { q with heldPsn := q.heldPsn.filter (· != p.noticePsn) }
  | _ => q

def rxAck (s : State) (i : Ingress) (p : Packet) : State :=
  if p.type ≠ 7 then s else
  match rxHead (takeArrival s i p) i p with
  | (s, false) => s
  | (s, true) =>
    let n := p.dqp
    let s := if 0 < p.echo then ccEcho s n else s
    let q := noteHeld (s.qp n) p
    let ops := q.ops.map fun o => o.acks p
    let news := q.ops.any fun o => o.news p
    let keep (psn : Nat) : Bool := !ackShows p psn
    settleQp s n { q with
      ops := ops, tries := smDrop (fun k => !keep k) q.tries, heldPsn := q.heldPsn.filter keep,
      timer := if news then q.timer.map fun _ => retryAt s else q.timer }

/-- ACK_RX. -/
def execAckRx (i : Ingress) (p : Packet) (s : State) : Out := .next (inActive s fun s => rxAck s i p)

/-! ### Notices of refused turns (R361) -/

def rxNotice (s : State) (i : Ingress) (p : Packet) : State :=
  if p.type ≠ 8 then s else
  let s := takeArrival s i p
  let q := s.qp p.dqp
  if p.rsvHdr || p.rsvRoute || !hdrOk p then s.count F.TRN_BAD_HDR
  else if agedOut s p then s.count F.TRN_AGED
  else if !(q.st == 2 || q.st == 3) || p.ssn % 2 ^ 20 ≠ qpRemoteEp q.e.toNat then s.count F.TRN_NOTICE_UNMATCHED
  else
    let hit (o : Op) : Bool := match o.index p.psn with | some k => !o.acked.contains k | none => false
    match (List.range q.ops.length).find? fun k => (q.ops[k]?).any hit with
    | none => s
    | some k =>
      let s := if (q.ops[k]?).any fun o => o.code.isNone then s.count F.TRN_PATH_INVALID else s
      failOp s p.dqp k 0x51

/-- PATH_NOTICE_RX. -/
def execPathNoticeRx (i : Ingress) (p : Packet) (s : State) : Out := .next (inActive s fun s => rxNotice s i p)

/-! ### Held packets, delayed ACKs, and what waits for a fetch -/

/-- FENCE_HELD_RELEASE (R337). `hostData`: what a host-resident target delivers. -/
def execFenceHeldRelease (n psn : Nat) (hostData : List Byte) (s : State) : Out :=
  .next (inActive s fun s =>
    match s.tr.fences.find? fun f => f.2.dqp == n && f.2.psn == psn with
    | none => s
    | some (i, p) =>
      let q := s.qp n
      if (q.st == 2 || q.st == 3) && fenceOpen q p then
        settle (rxApply { s with tr := { s.tr with fences := s.tr.fences.erase (i, p) } } n i p hostData true)
      else s)

/-- ACK_DELAY_EXPIRY (R344, R371). -/
def execAckDelayExpiry (n : Nat) (s : State) : Out :=
  .next (inActive s fun s =>
    let q := s.qp n
    match q.ackFrom with
    | none => s
    | some (i, p) => if q.st == 2 || q.st == 3 then sendAck s n i p 0 0 else s)

/-- QP_STATE_FETCHED: the packets that waited are handled (R328). -/
def execQpStateFetched (n : Nat) (s : State) : Out :=
  .next (inActive s fun s =>
    let q := s.qp n
    if q.st = 0 || q.cached then s else
    let mine := s.tr.waitState.filter fun w => w.2.dqp == n
    let s := s.setQp n { q with cached := true }
    { s with tr := { s.tr with
      waitState := s.tr.waitState.filter fun w => w.2.dqp != n, arrivals := mine ++ s.tr.arrivals } })

/-- Responses and ACKs that waited try again; a queue pair's next packet is looked at when it is sent. -/
def releaseWaits (s : State) (ep : Nat) : State :=
  let hit (w : Nat × Option Packet) : Bool :=
    match w.2 with
    | some p => p.dstEp == ep
    | none => qpRemoteEp (s.qp w.1).e.toNat == ep
  let mine := s.tr.waitRoute.filter hit
  let s := { s with tr := { s.tr with waitRoute := s.tr.waitRoute.filter fun w => !hit w } }
  mine.foldl (fun s w => match w.2 with | some p => respond s w.1 p 0 | none => s) s

/-- Cache a route entry: 65,536 entries, the latest first (R354). -/
def cacheRoute (s : State) (ep : Nat) : State :=
  { s with tr := { s.tr with rcache := (ep :: s.tr.rcache.erase ep).take 65536 } }

/-- ROUTE_ENTRY_FETCHED (R354). -/
def execRouteEntryFetched (ep : Nat) (s : State) : Out :=
  .next (inActive s fun s => if ep < 2 ^ 20 then releaseWaits (cacheRoute s ep) ep else s)

/-! ### The route table (R353, R354, R374) -/

def routeDone (s : State) (r : Nat) : State := s.result F.ROUTE_EVENT_SEQ F.ROUTE_EVENT_RESULT r

/-- Every slot with HOPS at most 14 and its zero field zero. -/
def routeOk (e : BitVec 768) : Bool :=
  (List.range 8).all fun k => slotHops (slotOf e k) ≤ 14 && bits (slotOf e k) 76 20 == 0

def writeRoute (s : State) (ep : Nat) (e : BitVec 768) : State :=
  let s := cacheRoute { s with tr := { s.tr with routes := smPut 0#768 s.tr.routes ep e } } ep
  routeDone (releaseWaits s ep) 0

/-- ROUTE_SET. -/
def execRouteSet (ep : Nat) (s : State) : Out :=
  .next (regCmd s false fun s =>
    let e := BitVec.ofNat 768 (s.getWords (F.ROUTE_ENTRY 0).off 24)
    if 0xFFFFF ≤ ep then routeDone s 3
    else if !routeOk e then routeDone s 1
    else writeRoute s ep e)

/-- ROUTE_INVALIDATE: every VALID reads 0. -/
def execRouteInvalidate (ep : Nat) (s : State) : Out :=
  .next (regCmd s false fun s =>
    if 0xFFFFF ≤ ep then routeDone s 3 else
    let e := (smGet s.tr.routes ep 0#768).toNat
    writeRoute s ep (BitVec.ofNat 768 ((List.range 8).foldl (fun e k => putBit e (96 * k + 74) false) e)))

/-- ROUTE_READ. -/
def execRouteRead (ep : Nat) (s : State) : Out :=
  .next (regCmd s false fun s =>
    if 0xFFFFF ≤ ep then routeDone s 3
    else routeDone (s.setWords (F.ROUTE_ENTRY 0).off 24 (smGet s.tr.routes ep 0#768).toNat) 0)

/-! ### Signals that arrive (R103, R342) -/

/-- A SIGNAL that its unit has performed is placed. -/
def landSignal (s : State) (x : Ingress × Packet) : State :=
  let n := x.2.dqp
  let q := s.qp n
  if q.st = 2 || q.st = 3 then placed s n x.1 x.2 true else s

/-- Does a SIGNAL that waits at a sync unit still pass the checks of R310 (R311)? -/
def signalCheck (s : State) (p : Packet) : Nat := (keyCheck s (qpCtx (s.qp p.dqp).e.toNat) p p.roff 1 rAtomic).1

/-- The SIGNALs that wait at unit `g` and no longer pass their checks are refused. -/
def dropStale (s : State) (g : Nat) : State :=
  s.sy.reqs.foldl (fun s r =>
    match r.pkt with
    | some (i, p) =>
      if syncOwner s r.obj = g && signalCheck s p ≠ 0 then
        refuse { s with sy := { s.sy with reqs := s.sy.reqs.erase r } } p.dqp i p (signalCheck s p)
      else s
    | none => s) s

/-- SYNC_UNIT_OPERATION: one operation of unit `g` (R138, R141), with what it completes. -/
def execSyncUnitOperation (g : Nat) (s : State) : Out :=
  .next (inActive s fun s =>
    if nSync s ≤ g then s else
    let s := syncServe (dropStale s g) g
    let xs := s.sy.landed
    settle (xs.foldl landSignal { s with sy := { s.sy with landed := [] } }))

end Sys2Proof.Machine
end

