-- ==== Sys2Proof/Machine/QueuePairs.lean ====
section
/-! DEFINITION. The queue pair commands (R329, R330, R350, R471), shared by QP_CMD and the control entries of submission queues. -/

namespace Sys2Proof.Machine

/-- The bits of an entry that R328 names no field for are 0; the receive queue number is below 64 (R450). -/
def qpFieldsOk (e : Nat) : Bool :=
  !bit e 19 && !bit e 23 && bits e 25 7 == 0 && bits e 52 12 == 0 && bits e 82 14 == 0 && bits e 120 8 == 0
    && bits e 152 8 == 0 && bits e 232 24 == 0 && bits e 288 224 == 0 && qpRq e < 64

/-- With ENC, the key entry is valid and has USE = 0 (R471). -/
def qpKeyOk (s : State) (e : Nat) : Bool :=
  !qpEnc e || (qpKeyIdx e < 256 &&
    (match smFind s.ci.keys (256 * qpCtx e + qpKeyIdx e) with | some (u, _) => !u | none => false))

/-- Copy the field of `n` bits at `lo` from `v`. -/
def copyBits (e v lo n : Nat) : Nat := putBits e lo n (bits v lo n)

/-- The fields that a step towards RTS takes from the entry written (R330). -/
def takeInit (v : Nat) : Nat :=
  copyBits (copyBits (copyBits (copyBits (copyBits 0 v 8 8) v 16 16) v 160 32) v 192 32) v 256 32
def takeRtr (e v : Nat) : Nat := copyBits (copyBits (copyBits e v 32 20) v 64 18) v 128 24
def takeRts (e v : Nat) : Nat := copyBits (copyBits e v 96 24) v 224 8

/-- A command on queue pair `n`, past the checks that all commands share. -/
def onQp (s : State) (entry : Option CtlEntry) (n : Nat) (f : Qp → State) : State :=
  if blkBusy s .qp then cmdDone s .qp entry 4
  else if 2 ^ 18 ≤ n then cmdDone s .qp entry 1
  else if outsideOwn entry (fun c => s.ownsQp c n) then cmdDone s .qp entry 3
  else f (s.qp n)

/-- OP 1: to INIT. TXC keeps its value. -/
def qpInitCore (s : State) (entry : Option CtlEntry) (n image : Nat) : State :=
  onQp s entry n fun q =>
    let v := ownImage entry 8 (image % 2 ^ 512)
    if !s.mayCreate (qpCtx v) 1 n then cmdDone s .qp entry 3
    else if q.st ≠ 0 then cmdDone s .qp entry 2
    else if !qpFieldsOk v || !qpKeyOk s v then cmdDone s .qp entry 1
    else cmdDone (s.setQp n { e := BitVec.ofNat 512 (takeInit v), st := 1, txc := q.txc }) .qp entry 0

/-- OP 2: to RTR. -/
def qpRtrCore (s : State) (entry : Option CtlEntry) (n image : Nat) : State :=
  onQp s entry n fun q =>
    if q.st ≠ 1 then cmdDone s .qp entry 2
    else if !qpFieldsOk image then cmdDone s .qp entry 1
    else
      let e := takeRtr q.e.toNat image
      cmdDone (s.setQp n { q with
        e := BitVec.ofNat 512 e, st := 2, epsn := qpRqPsn e, done := [], refusals := [], msgs := [], atomics := [] }) .qp entry 0

/-- OP 3: to RTS (R330, R372). -/
def qpRtsCore (s : State) (entry : Option CtlEntry) (n image : Nat) : State :=
  onQp s entry n fun q =>
    if q.st ≠ 2 then cmdDone s .qp entry 2
    else if !qpFieldsOk image || qpNpath image = 0 || 8 < qpNpath image then cmdDone s .qp entry 1
    else
      let e := takeRts q.e.toNat image
      cmdDone (s.setQp n (ccStart s { q with e := BitVec.ofNat 512 e, st := 3, nextPsn := qpSqPsn e })) .qp entry 0

/-- Are the operations that a RESET or ERROR has ended recorded? -/
def qpRecorded (s : State) (n : Nat) : Bool := !(s.en.ended.any fun x => x.d.post && dQp x.d.w == n)

/-- A RESET or ERROR completes once they are (R350). -/
def qpEndWait (s : State) (entry : Option CtlEntry) (n op : Nat) : State :=
  if qpRecorded s n then reclaim (cmdDone s .qp entry 0)
  else cmdPend s { blk := .qp, op := op, ctx := qpCtx (s.qp n).e.toNat, idx := n, entry := entry }

/-- Discard the packets that the adapter holds for a queue pair (R330). -/
def discardHeld (s : State) (n : Nat) : State :=
  let keep (w : FaultWaiter) : Bool :=
    match w with
    | .held _ p => p.dqp != n
    | .localRead m _ => m != n
    | _ => true
  { s with
    sg := { s.sg with recs := s.sg.recs.map fun r => { r with waiters := r.waiters.filter keep } },
    tr := { s.tr with
      fences := s.tr.fences.filter fun f => f.2.dqp != n,
      waitState := s.tr.waitState.filter fun f => f.2.dqp != n,
      waitRoute := s.tr.waitRoute.filter fun f => f.1 != n } }

/-- To RESET: operations FLUSHED, held packets discarded, all sequence state but TXC cleared. -/
def resetQp (s : State) (n : Nat) : State :=
  let s := discardHeld (flushQp s n 0) n
  let q := s.qp n
  s.setQp n { e := q.e, txc := q.txc }

/-- OP 4: to RESET. -/
def qpResetCore (s : State) (entry : Option CtlEntry) (n : Nat) : State :=
  onQp s entry n fun q => if q.st = 0 then cmdDone s .qp entry 2 else qpEndWait (resetQp s n) entry n 4

/-- OP 5: to ERROR. -/
def qpErrorCore (s : State) (entry : Option CtlEntry) (n : Nat) : State :=
  onQp s entry n fun q =>
    if q.st = 2 || q.st = 3 then qpEndWait (flushQp s n 4) entry n 5 else cmdDone s .qp entry 2

/-- OP 6: read, with STATE in byte 0. -/
def qpReadCore (s : State) (entry : Option CtlEntry) (n addr : Nat) : State :=
  onQp s entry n fun q => readOut s .qp entry (F.QP_ENTRY 0).off 16 addr (putBits q.e.toNat 0 8 q.st)

/-- QP_ENTRY as one value. -/
def qpImage (s : State) : Nat := s.getWords (F.QP_ENTRY 0).off 16

/-- QP_INIT. -/
def execQpInit (n : Nat) (s : State) : Out := .next (regCmd s false fun s => qpInitCore s none n (qpImage s))
/-- QP_RTR. -/
def execQpRtr (n : Nat) (s : State) : Out := .next (regCmd s false fun s => qpRtrCore s none n (qpImage s))
/-- QP_RTS. -/
def execQpRts (n : Nat) (s : State) : Out := .next (regCmd s false fun s => qpRtsCore s none n (qpImage s))
/-- QP_RESET. -/
def execQpReset (n : Nat) (s : State) : Out := .next (regCmd s false fun s => qpResetCore s none n)
/-- QP_ERROR. -/
def execQpError (n : Nat) (s : State) : Out := .next (regCmd s false fun s => qpErrorCore s none n)
/-- QP_READ. -/
def execQpRead (n : Nat) (s : State) : Out := .next (regCmd s false fun s => qpReadCore s none n 0)

end Sys2Proof.Machine
end

