-- ==== Sys2Proof/Machine/Post.lean ====
section
/-! DEFINITION. Posting work to the transport unit (R182–R184, R329), and the completion of descriptors and work requests (R149,
R150, R170, R345). -/

namespace Sys2Proof.Machine

/-! ### Posts -/

/-- Operations of a queue pair whose completion has not been recorded. -/
def qpOps (s : State) (n : Nat) (ok : BitVec 256 → Bool) : Nat :=
  ((s.qp n).ops.filter fun o => !o.told && ok o.d.w).length
    + (s.en.ended.filter fun x => x.d.post && dQp x.d.w == n && ok x.d.w).length

/-- Is the queue pair at its limit: 512 operations, or 16 atomics for a POSTATOM (R182, R342)? -/
def qpFull (s : State) (d : BitVec 256) : Bool :=
  s.ownsQp (dCtx d) (dQp d) &&
    (512 ≤ qpOps s (dQp d) (fun _ => true) || (dKind d == 11 && 16 ≤ qpOps s (dQp d) fun w => dKind w == 11))

/-- The check of LOCAL (R162, R182, R183). -/
def localOk (s : State) (d : Desc) : Bool :=
  let w := d.w
  let ctx := dCtx w
  match dKind w with
  | 8 => opCovered s .trn rRead ctx d.no (dLocal w) (dLen w)
  | 9 => opCovered s .trn rWrite ctx d.no (dLocal w) (dLen w)
  | 10 => opCovered s .trn rRead ctx d.no (dLocal w) (dLen w)
  | 11 => dLocal w % 8 == 0 && opCovered s .trn rWrite ctx d.no (dLocal w) 8
  | _ => true

/-- The code that an operation ends with as it is posted: its cipher engine is fenced, or LOCAL or ROFF fails its check. -/
def postCode (s : State) (d : Desc) : Option Nat :=
  if qpEnc (s.qp (dQp d.w)).e.toNat && qpCipherFenced s (dQp d.w) then some 0x7F
  else if !localOk s d then some 0x20
  else if dKind d.w = 11 && dRoff d.w % 8 ≠ 0 then some 0x12
  else none

/-- The transport unit takes a work request that holds its tracker entry: the checks, in order, or its place in the
queue pair. A queue pair in FROZEN holds it (R329). One that ends here is an operation of its queue pair too, and where it is ORDERED
completes after the earlier ones (R346). -/
def acceptPost (s : State) (d : Desc) (host : Bool) : State :=
  let n := dQp d.w
  let q := s.qp n
  if !s.ownsQp (dCtx d.w) n then s.endDesc d 0x10
  else if q.st ≠ 3 && q.st ≠ 5 then s.endDesc d 0x01
  else settleQp s n { q with ops := q.ops ++ [{ d := d, host := host, code := postCode s d }] }

/-- Must a post of thread `t` wait for an entry (R150, R182)? -/
def postWaits (s : State) (t : Th) (d : Desc) : Bool := 64 ≤ s.trkHeld t || qpFull s d.w

/-- A post of thread `t` takes its tracker entry and returns. -/
def postOn (s : State) (t : Th) (d : Desc) : State :=
  let x := s.thr t
  let d := { d with no := s.sq.opNo }
  let s := s.trkTake (dCtx d.w) (thKey t + 1)
  acceptPost (s.setThr t { x with st := .ready, cause := 0, pend := .none, outF := x.outF + 1, pc := x.pc + 8#64 }) d false

/-- POSTWR to SIGR (R182): only their own KIND. -/
def postThread (s : State) (t : Th) (x : Thread) (d : Desc) (kind : Nat) : State :=
  if dKind d.w ≠ kind then faultThread s t 7
  else if postWaits s t d then s.setThr t { x with st := .waiting, cause := 4, pend := .tracker d }
  else postOn s t d

/-- POSTWR. -/
def execPostwr (t : Th) (dd : Nat) (s : State) : Out :=
  .next (issueAt s t (.postwr t dd) fun s x _ => postThread s t x (copyDesc t x dd none 0 0#64 0#64 true) 8)
/-- POSTRD. -/
def execPostrd (t : Th) (dd : Nat) (s : State) : Out :=
  .next (issueAt s t (.postrd t dd) fun s x _ => postThread s t x (copyDesc t x dd none 0 0#64 0#64 true) 9)
/-- POSTSEND. -/
def execPostsend (t : Th) (dd : Nat) (s : State) : Out :=
  .next (issueAt s t (.postsend t dd) fun s x _ => postThread s t x (copyDesc t x dd none 0 0#64 0#64 true) 10)
/-- POSTATOM (R183). -/
def execPostatom (t : Th) (dd ga gb : Nat) (s : State) : Out :=
  .next (issueAt s t (.postatom t dd ga gb) fun s x _ =>
    postThread s t x (copyDesc t x dd none 0 (x.gr ga) (x.gr gb) true) 11)
/-- SIGR (R184). -/
def execSigr (t : Th) (dd ga : Nat) (s : State) : Out :=
  .next (issueAt s t (.sigr t dd ga) fun s x _ =>
    postThread s t x (copyDesc t x dd none 0 (x.gr ga) 0#64 true) 12)

/-! ### Completion (R149, R170, R345, R442) -/

/-- A work request fetched from a submission queue completes on the SCQ of its queue pair, or, where that is not the
context's, on the completion queue of its submission queue (whose number `eng` holds); its tracker entry is given back when the entry
has been written (R448). -/
def hostDone (s : State) (d : Desc) (code : Nat) : State :=
  let s := signalDone s d code
  let ctx := dCtx d.w
  let n := dQp d.w
  let scq := qpScq (s.qp n).e.toNat
  let e := cqEntry (dTag d.w) code 0 n 0
  if s.ownsQp ctx n && s.ownsCq ctx scq then s.cqPost scq e none (some d.no) else sqComplete s ctx (d.eng % 16) e (some d.no)

/-- `eng` of a SEND of the control complex (R494), plus how often it has been sent again. -/
def relayEng : Nat := 2 ^ 20

/-- A relayed package that has failed is sent up to twice more (R494). -/
def relayDone (s : State) (d : Desc) (code : Nat) : State :=
  if code = 0 then s
  else if d.eng < relayEng + 2 then acceptPost s { d with eng := d.eng + 1, no := s.sq.opNo } false
  else s.count F.FW_RELAY_FAIL

/-- A thread that waits for a tracker entry or its queue pair goes on where it may (R150). -/
def retryThread (s : State) (k : Nat) : State :=
  let t : Th := ⟨k / 8, k % 8⟩
  match (s.thr t).pend with
  | .tracker d =>
    if d.post then (if postWaits s t d then s else postOn s t d)
    else
      (match s.prog t with
       | some p => if 64 ≤ s.trkHeld t then s else issueOn s t p d
       | none => s)
  | _ => s

def retryThreads (s : State) : State :=
  (smKeys (fun _ x => match x.pend with | .tracker _ => true | _ => false) s.sq.thr).foldl retryThread s

/-- Queue pair commands whose operations have all been recorded complete (R350). -/
def endQpCmds (s : State) : State :=
  match findPend s .qp fun p => qpRecorded s p.idx with
  | none => s
  | some p => cmdEnd s p 0

/-- The completion of the oldest ended descriptor is recorded. -/
def recordNext (s : State) : State :=
  match s.en.ended with
  | [] => s
  | x :: rest =>
    let s := { s with en := { s.en with ended := rest } }
    let s :=
      if x.d.post && x.d.live = 0 then (if relayEng ≤ x.d.eng then relayDone s x.d x.code else hostDone s x.d x.code)
      else recordDone s x.d x.code
    reclaim (endQpCmds (retryThreads s))

/-- DESCRIPTOR_COMPLETION. -/
def execDescriptorCompletion (s : State) : Out := .next (inActive s recordNext)

end Sys2Proof.Machine
end

