-- ==== Sys2Proof/Machine/Migration.lean ====
section
/-! DEFINITION. Page migration (R300–R307): prefetch and evict, and how a migration ends. -/

namespace Sys2Proof.Machine

/-! ### Frames and their host backing -/

def frameBase (g : Segm) (f : Nat) : Nat := segHbm g.e.toNat + f * pageSize

/-- Write a page back from frame `f` to its host backing; false where a tile of the frame fails its check. -/
def writeBack (s : State) (key : Nat) (g : Segm) (f page : Nat) : State × Bool :=
  let a := frameBase g f
  match s.checkTiles 116 (tilesOf a pageSize) with
  | (s, 0) =>
    ((s.emit (.hostWrite (key / 16) (segHost g.e.toNat + page * pageSize) (s.bytes a pageSize))).count F.MIG_WRITEBACK, true)
  | (s, _) => (s, false)

/-- Fill a frame with the host's page: `data` lists the bytes by offset, the others are 0. Tiles of a fenced stack take
nothing; the others check clean. -/
def fillFrame (s : State) (a : Nat) (data : List Host.Cell) : State :=
  let mine (k : Nat) : Bool := a ≤ k && k < a + pageSize && !s.stackFenced (stackOf s.variant k)
  let hbm := smDrop mine s.mem.hbm
  let hbm := data.foldl (fun m c => if c.1 < pageSize && mine (a + c.1) then smPut 0#8 m (a + c.1) c.2 else m) hbm
  let s := { s with mem := { s.mem with
    hbm := hbm,
    bad := smDrop (fun t => mine (t * 2048)) s.mem.bad,
    sums := smDrop (fun t => mine (t * 2048)) s.mem.sums } }
  (tilesOf a pageSize).foldl (fun s t => if mine (t * 2048) then s.sumLine t else s) s

/-! ### Waiters (R304–R306) -/

/-- A held packet is checked again and placed, or a parked one answered (R305 step 2, R313). A READ_REQ that had been answered before is
executed again only. -/
def resumeHeld (s : State) (i : Ingress) (p : Packet) : State :=
  let q := s.qp p.dqp
  if q.st < 2 then s
  else if p.type = 2 || p.type = 5 then applyResp s p.dqp i p
  else if p.type = 1 && (psnPlace q p.psn < 4096 || q.done.contains p.psn) then applyRead s p.dqp i p [] false
  else rxApply s p.dqp i p [] true

/-- A held packet is discarded and the target returns MIGRATE_FAILED; a response fails its operation. -/
def failHeld (s : State) (i : Ingress) (p : Packet) : State :=
  let q := s.qp p.dqp
  if q.st < 2 then s
  else if p.type = 2 || p.type = 5 then
    (match respOp q (if p.type = 2 then 9 else 11) p.psn with
     | some (k, _) => failOp s p.dqp k 0x21
     | none => s)
  else if p.type = 1 && (psnPlace q p.psn < 4096 || q.done.contains p.psn) then s
  else refuse s p.dqp i p 0x21

/-- The pending prefetch of a page, if there is one. -/
def prefetchOf (s : State) (r : FaultRec) : Option Pending :=
  findPend s .mig fun p => p.op == 1 && p.ctx == r.ctx && p.idx == r.seg && p.page == r.page

/-- Does the waiter place bytes: a held WRITE, SEND or response? READ_REQ and ATOMIC packets are parked requesters (R304). -/
def isHeld (w : FaultWaiter) : Bool := match w with | .held _ p => p.type != 1 && p.type != 4 | _ => false

def resumeWaiter (s : State) (r : FaultRec) (w : FaultWaiter) : State :=
  match w with
  | .engine e => wakeEngine s e (segKey r.ctx r.seg) r.page
  | .held i p => resumeHeld s i p
  | .localRead _ _ => s
  | .prefetch => (match prefetchOf s r with | some p => cmdEnd s p 0 | none => s)

def failWaiter (s : State) (r : FaultRec) (w : FaultWaiter) : State :=
  match w with
  | .engine e => failEngine s e (segKey r.ctx r.seg) r.page 0x21
  | .held i p => failHeld s i p
  | .localRead n no =>
    (match (s.qp n).ops.findIdx? fun o => o.d.no == no with
     | some i => failOp s n i 0x21
     | none => s)
  | .prefetch => (match prefetchOf s r with | some p => cmdEnd s p 8 | none => s)

def freeRec (s : State) (r : FaultRec) : State :=
  s.setRecs (s.sg.recs.filter fun q => !(q.ctx == r.ctx && q.seg == r.seg && q.page == r.page))

/-- Steps 2 to 4 of R305: held packets in order of arrival, then the parked requesters; the record is freed. -/
def serveRec (s : State) (r : FaultRec) : State :=
  let s := (r.waiters.filter isHeld).foldl (fun s w => resumeWaiter s r w) s
  let s := (r.waiters.filter fun w => !isHeld w).foldl (fun s w => resumeWaiter s r w) s
  freeRec s r

/-- A page that has left OUT or IN: a record on it starts its migration where it is NONRES, or is served where it is RES. -/
def pageSettled (s : State) (key page : Nat) : State :=
  match s.rec? key page, smFind s.sg.segs key with
  | some r, some g =>
    if (g.page page).st = 0 then startMigration s key page
    else if (g.page page).st = 2 then serveRec s r
    else s
  | _, _ => s

/-! ### The end of a migration (R305, R306) -/

def setPage (s : State) (key page : Nat) (x : Page) : State :=
  match smFind s.sg.segs key with
  | some g => s.setSegm key (g.setPage page x)
  | none => s

/-- Page of frame `f`; none frees it. -/
def setFrame (s : State) (key f : Nat) (page : Option Nat) : State :=
  match smFind s.sg.segs key with
  | some g => s.setSegm key { g with frames := match page with | some p => smSet g.frames f p | none => smDel g.frames f }
  | none => s

/-- MIG_EVENT on a failure: the command that started the migration reports it, or the failure itself (R316). -/
def failEvent (s : State) (r : FaultRec) : State :=
  if r.waiters.head? = some .prefetch then s else cmdDone s .mig none 8

/-- A frame of the segment may have come free, or its page may be taken again: the records that found no frame try again (R303). -/
def retryFrames (s : State) (key : Nat) : State :=
  (s.sg.recs.filter fun r => segKey r.ctx r.seg == key && r.started.isSome && r.frame.isNone).foldl
    (fun s r => match s.rec? key r.page with | some _ => startMigration s key r.page | none => s) s

/-- A migration fails (R306). `done`: the write-back of its victim had finished. -/
def failMigration (s : State) (r : FaultRec) (done : Bool) : State :=
  let key := segKey r.ctx r.seg
  let s := s.count F.MIG_FAILED
  let s := match r.frame, smFind s.sg.segs key with
    | some f, some g =>
      let s := setPage s key r.page {}
      (match r.victim with
       | none => setFrame s key f none
       | some v =>
         let x := g.page v
         let (s, out) := if x.dirty && done then writeBack s key g f v else (s, !x.dirty)
         if out then setFrame (setPage s key v {}) key f none
         else setFrame (setPage s key v { st := 2, frame := f, referenced := x.referenced, dirty := true }) key f (some v))
    | _, _ => s
  let s := r.waiters.foldl (fun s w => failWaiter s r w) (failEvent s r)
  let s := freeRec s r
  let s := match r.victim with | some v => pageSettled s key v | none => s
  retryFrames s key

/-- The last fill tile is written (R305). A dirty victim is written back tile by tile ahead of the fill; a tile of it
that fails its check fails the migration. -/
def completeMigration (s : State) (r : FaultRec) (data : List Host.Cell) : State :=
  let key := segKey r.ctx r.seg
  match smFind s.sg.segs key, r.frame with
  | some g, some f =>
    if (g.page r.page).st ≠ 1 || (g.page r.page).frame ≠ f then serveRec s r else
    let (s, ok) := match r.victim with
      | some v => if (g.page v).dirty then writeBack s key g f v else (s, true)
      | none => (s, true)
    if !ok then failMigration s r false
    else
      let s := s.emit (.hostRead r.ctx (segHost g.e.toNat + r.page * pageSize) pageSize)
      let s := fillFrame s (frameBase g f) data
      let s := match r.victim with | some v => setPage s key v {} | none => s
      let s := (setPage s key r.page { st := 2, frame := f, referenced := true }).count F.MIG_IN
      let s := serveRec s r
      retryFrames (match r.victim with
        | some v => pageSettled s key v
        | none => s) key
  | _, _ => serveRec s r

/-- The started record of a page. -/
def startedRec (s : State) (ctx seg page : Nat) : Option FaultRec :=
  match s.rec? (segKey ctx seg) page with
  | some r => if r.started.isSome then some r else none
  | none => none

/-- MIGRATION_COMPLETE. `data`: the page as its host backing delivers it. -/
def execMigrationComplete (ctx seg page : Nat) (data : List Host.Cell) (s : State) : Out :=
  .next (inActive s fun s =>
    match startedRec s ctx seg page with
    | none => s
    | some r => if r.frame.isNone then s else settle (completeMigration s r data))

/-- MIGRATION_FAIL: an error or a lost link at the host port, or no frame can be taken. -/
def execMigrationFail (ctx seg page : Nat) (writebackDone : Bool) (s : State) : Out :=
  .next (inActive s fun s =>
    match startedRec s ctx seg page with
    | none => s
    | some r => settle (failMigration s r writebackDone))

/-- MIGRATION_TIMEOUT (R306, R94). -/
def execMigrationTimeout (ctx seg page : Nat) (writebackDone : Bool) (s : State) : Out :=
  .next (inActive s fun s =>
    match startedRec s ctx seg page with
    | none => s
    | some r =>
      if r.started.getD 0 + max 1 (s.get F.MIG_CTL_TIMEOUT_TICKS) ≤ s.tk.count then settle (failMigration s r writebackDone)
      else s)

/-! ### Prefetch and evict (R307) -/

/-- A migratable segment and a page of it. -/
def migTarget (s : State) (ctx seg page : Nat) : Option Segm :=
  if 16 ≤ seg then none else
  match smFind s.sg.segs (segKey ctx seg) with
  | none => none
  | some g => if segBacking g.e.toNat = 3 && g.removed.isNone && page < segPages g.e.toNat then some g else none

/-- MIG_CMD OP 1. -/
def prefetchCore (s : State) (entry : Option CtlEntry) (ctx seg page : Nat) : State :=
  let key := segKey ctx seg
  if blkBusy s .mig then cmdDone s .mig entry 7 else
  match migTarget s ctx seg page with
  | none => cmdDone s .mig entry 1
  | some g =>
    if (g.page page).st = 2 then cmdDone s .mig entry 0
    else
      let room := match s.rec? key page with
        | some r => r.waiters.length < 64
        | none => s.sg.recs.length < 256
      if !room then cmdDone s .mig entry 9
      else
        let s := cmdPend s { blk := .mig, op := 1, ctx := ctx, idx := seg, page := page, entry := entry }
        (joinFault s key page .prefetch).1

/-- MIG_CMD OP 2. A clean page leaves its frame at once. -/
def evictCore (s : State) (entry : Option CtlEntry) (ctx seg page : Nat) : State :=
  let key := segKey ctx seg
  if blkBusy s .mig then cmdDone s .mig entry 7 else
  match migTarget s ctx seg page with
  | none => cmdDone s .mig entry 1
  | some g =>
    let x := g.page page
    if x.st = 0 then cmdDone s .mig entry 0
    else if x.st ≠ 2 then cmdDone s .mig entry 6
    else if x.dirty then
      cmdPend (setPage s key page { x with st := 3 })
        { blk := .mig, op := 2, ctx := ctx, idx := seg, page := page, entry := entry }
    else cmdDone (setFrame (setPage s key page {}) key x.frame none) .mig entry 0

/-- The pending evict of a page. -/
def evictOf (s : State) (ctx seg page : Nat) : Option Pending :=
  findPend s .mig fun p => p.op == 2 && p.ctx == ctx && p.idx == seg && p.page == page

/-- An evict's write-back ends, or fails (`ok` false, or a tile fails its check): the page is NONRES, or RES again. -/
def endEvict (s : State) (p : Pending) (ok : Bool) : State :=
  let key := segKey p.ctx p.idx
  match smFind s.sg.segs key with
  | none => cmdEnd s p 8
  | some g =>
    let x := g.page p.page
    let (s, ok) := if ok then writeBack s key g x.frame p.page else (s, false)
    let s := if ok then setFrame (setPage s key p.page {}) key x.frame none
      else setPage s key p.page { x with st := 2 }
    retryFrames (pageSettled (cmdEnd s p (if ok then 0 else 8)) key p.page) key

/-- MIG_PREFETCH. -/
def execMigPrefetch (ctx seg page : Nat) (s : State) : Out :=
  .next (regCmd s false fun s => inCtrl s fun s => prefetchCore s none ctx seg page)
/-- MIG_EVICT. -/
def execMigEvict (ctx seg page : Nat) (s : State) : Out := .next (regCmd s false fun s => inCtrl s fun s => evictCore s none ctx seg page)

/-- EVICT_COMPLETE. -/
def execEvictComplete (ctx seg page : Nat) (s : State) : Out :=
  .next (inActive s fun s =>
    match evictOf s ctx seg page with
    | none => s
    | some p => settle (endEvict s p true))

/-- Every migration and evict of a context fails: its function is reset or its host port is lost (R306, R457). -/
def failMigrations (s : State) (ctx : Nat) : State :=
  let rs := s.sg.recs.filter fun r => r.ctx == ctx && r.started.isSome
  let s := rs.foldl (fun s r => match startedRec s r.ctx r.seg r.page with | some q => failMigration s q false | none => s) s
  match findPend s .mig fun p => p.op == 2 && p.ctx == ctx with
  | some p => endEvict s p false
  | none => s

end Sys2Proof.Machine
end

