-- ==== Sys2Proof/Machine/Queues.lean ====
section
/-! DEFINITION. Submission queues and what their entries do (R440–R446, R450), completion queue doorbells (R447–R449), the aperture
(R439) and peer inboxes (R452, R453). -/

namespace Sys2Proof.Machine

/-! ### Doorbells (R75, R444) -/

/-- Does the function of the context exist, so that its pages take writes (R437)? -/
def ctxMapped (s : State) (ctx : Nat) : Bool := ctx == 0 || (ctx < 256 && s.ctxState ctx != 0)

def sqKey (ctx q : Nat) : Nat := 16 * ctx + q

/-- Exit from Rest starts (R76): the clock goes to level 0, HBM leaves self-refresh, the data partitions are powered and
refilled (R291). The units arm from here on. -/
def startRestExit (s : State) : State :=
  if s.pst ≠ 4 || s.pw.restExit.isSome then s else
  let s := (List.range (nDom s)).foldl refillBank (s.set F.PWR_STATE_CLK_LEVEL 0)
  { s with pw := { s.pw with restExit := some 0, sref := false, parts := true } }

/-- SQ_DB_WRITE. A queue that is disabled, or that has no doorbell register, takes none. In Rest the write records the index and,
with WAKE_DB as it stood at the commit, starts the exit (R75). -/
def execSqDbWrite (ctx q prod : Nat) (s : State) : Out :=
  .next (fnCmd s ctx true fun s =>
    let k := sqKey ctx q
    if !ctxMapped s ctx || 15 ≤ q then s
    else if !sqEnabled s k || sqLoc s k then s
    else
      match sqDoorbell s k (prod % 65536) with
      | (s, true) => if s.pst = 4 && s.pw.wake then startRestExit s else s
      | (s, false) => s)

/-! ### Fetching (R441, R445, R446) -/

/-- Is the entry written: LAP and CRC match (R441)? -/
def sqWritten (s : State) (k : Nat) (e : List Byte) : Bool :=
  fieldLE e 1 1 == (s.sqd k).f / sqSize s k % 255 + 1 && fieldLE e 2 2 == crc16 (splice e 2 [0#8, 0#8])

/-- The opcodes of R442. -/
def sqOpcode (e : List Byte) : Nat := fieldLE e 0 1
def sqTag (e : List Byte) : Nat := fieldLE e 4 4

/-- The next entry leaves the queue and starts (R441). -/
def sqStart (s : State) (k : Nat) : State :=
  let q := s.sqd k
  (s.setSqd k { q with f := q.f + 1, held := none }).count F.HOST_SQ_ENTRIES

/-- An entry that carries another opcode, or breaks its layout, completes with SEG_FAULT (R442). It holds its tracker
entry until that is written (R149). -/
def sqReject (s : State) (ctx q no : Nat) (e : List Byte) : State :=
  sqComplete s ctx q (cqEntry (sqTag e) 0x20 4 (sqKey ctx q) 0) (some no)

/-- The queue stops (R445). -/
def sqStop (s : State) (ctx q : Nat) : State :=
  let k := sqKey ctx q
  let s := s.setSqd k { s.sqd k with asked := 0, reread := false, tries := 0 }
  let s := (s.set (F.SQ_STATUS_STATE ctx q) 2).set (F.SQ_STATUS_STOP_IDX ctx q) ((s.sqd k).f % sqSize s k)
  let s := (s.bump (F.SQ_STATUS_SEQ ctx q)).count F.HOST_SQ_STOPS
  sqComplete s ctx q (cqEntry 0xFFFFFFFF 0x60 5 k 0) none

/-- The bytes that a response shows: the operand, or, with LOC = 1, what the ring in adapter memory holds. An entry that
cannot be read there is not written. -/
def sqBytes (s : State) (k : Nat) (entry : SqEntry) : State × List Byte :=
  if sqLoc s k then
    match readOp s .host (112 + s.ctxPort (k / 16)) (k / 16) s.sq.opNo (sqSlot s k) 64 with
    | (s, .ok bs) => (s, bs)
    | (s, _) => (s, [])
  else (s, slice entry 0 64)

/-- A response: a written entry takes its tracker entry (R149; a receive takes none, R450) and is held to be started, or completes at
once where its opcode is none of R442; one that is not written is read again, and the sixteenth time stops the queue (R445). -/
def sqJudge (s : State) (ctx q : Nat) (entry : SqEntry) : State :=
  let k := sqKey ctx q
  match sqBytes s k entry with
  | (s, e) =>
    let x := s.sqd k
    if sqWritten s k e then
      let op := sqOpcode e
      let no := s.sq.opNo
      let s := s.setSqd k { x with
        asked := 0, reread := false, tries := 0, held := some (e, if op = 0x30 then none else some no) }
      let s := if op = 0x30 then s else s.trkTake ctx 0
      if (8 ≤ op && op ≤ 12) || op = 0x10 || op = 0x20 || op = 0x30 then s
      else sqFetch (sqReject (sqStart s k) ctx q no e) k
    else if x.tries = 16 && x.asked ≤ 1 then sqStop s ctx q
    else s.setSqd k { x with asked := x.asked - 1, reread := true }

/-- SQ_FETCH_RESPONSE: the answer to a read of the queue's next entry. A queue whose read was held back issues it now. -/
def execSqFetchResponse (ctx q : Nat) (entry : SqEntry) (s : State) : Out :=
  .next (inActive s fun s =>
    let k := sqKey ctx q
    if 256 ≤ ctx || 15 ≤ q then s else
    let s := sqFetch s k
    if !sqEnabled s k || !sqRunning s k || (s.sqd k).asked = 0 then s else settle (sqJudge s ctx q entry))

/-- SQ_REFETCH_TIMER: 250 ns have passed, and the entry is read again (R445). -/
def execSqRefetchTimer (ctx q : Nat) (s : State) : Out :=
  .next (inActive s fun s =>
    let k := sqKey ctx q
    let x := s.sqd k
    if 256 ≤ ctx || 15 ≤ q || !sqRunning s k || !x.reread || 16 ≤ x.tries then s
    else (sqAsk (s.setSqd k { x with tries := x.tries + 1 }) k).count F.HOST_SQ_REFETCH)

/-- SQ_RESTART.GO (R446). -/
def sqRestart (s : State) (ctx q : Nat) : State :=
  let k := sqKey ctx q
  if !ctxMapped s ctx || 15 ≤ q || s.get (F.SQ_STATUS_STATE ctx q) ≠ 2 then s
  else sqFetch (s.set (F.SQ_STATUS_STATE ctx q) 1) k

/-- SQ_RESTART. -/
def execSqRestart (ctx q : Nat) (s : State) : Out := .next (fnCmd s ctx false fun s => sqRestart s ctx q)

/-! ### Entries (R442, R443, R450) -/

/-- Start the entry that the queue holds, if it is this one and of the row's opcodes, and fetch on. `f` takes the number of its tracker
entry. -/
def sqEntry (s : State) (ctx q : Nat) (entry : SqEntry) (ok : Nat → Bool) (f : State → Nat → State) : State :=
  let k := sqKey ctx q
  match (s.sqd k).held with
  | none => s
  | some (e, no) =>
    if 256 ≤ ctx || 15 ≤ q || e ≠ entry || !ok (sqOpcode entry) || !sqRunning s k || workHeld s
      || (smFind s.ho.frozen ctx).isSome then s
    else settle (sqFetch (f s (no.getD 0)) k)

/-- The work request of a transport entry, with CTX overwritten (R129, R442). For KINDs 11 and 12 the spec gives an entry no place
for the operands that POSTATOM and SIGR take from registers: they are free values (R183, R184). -/
def sqDesc (s : State) (ctx q no : Nat) (entry : SqEntry) : State × Desc :=
  let w := dput (BitVec.ofNat 256 (fieldLE entry 0x20 32)) 0 4 8 ctx
  let (a, s) := s.fresh
  let (b, s) := s.fresh
  (s, { w := w, th := ⟨0, 0⟩, prog := 0, live := 0, ew := none, eng := sqKey ctx q, opA := a, opB := b,
        post := true, no := no, ts := false, bc := 0, bb := 0 })

/-- SQ_TRANSPORT_ENTRY: an entry for a queue pair at its limit waits, as a post of a thread does (R150, R182). -/
def execSqTransportEntry (ctx q : Nat) (entry : SqEntry) (s : State) : Out :=
  .next (inActive s fun s =>
    sqEntry s ctx q entry (fun op => 8 ≤ op && op ≤ 12) fun s no =>
      let k := sqKey ctx q
      if fieldLE entry 8 24 ≠ 0 || fieldLE entry 0x20 1 % 16 ≠ sqOpcode entry then sqReject (sqStart s k) ctx q no entry
      else
        match sqDesc s ctx q no entry with
        | (t, d) => if qpFull s d.w then s else acceptPost (sqStart t k) d true)

/-- The request of a launch entry. -/
def sqLaunch (ctx : Nat) (e : SqEntry) : LaunchReq :=
  { ctx := ctx, image := fieldLE e 8 8, dom := fieldLE e 0x12 1, syncBase := fieldLE e 0x10 2,
    zeroSync := fieldLE e 0x13 1 == 1, args := (List.range 4).map fun i => BitVec.ofNat 64 (fieldLE e (0x20 + 8 * i) 8),
    cq := fieldLE e 0x14 2, tag := sqTag e }

/-- SQ_LAUNCH_ENTRY: an entry waits while its domain's launch queue is full (R133). A ZERO_SYNC that is neither 0 nor 1 breaks the layout. -/
def execSqLaunchEntry (ctx q : Nat) (entry : SqEntry) (s : State) : Out :=
  .next (inActive s fun s =>
    sqEntry s ctx q entry (· == 0x10) fun s no =>
      let k := sqKey ctx q
      if 1 < fieldLE entry 0x13 1 then sqReject (sqStart s k) ctx q no entry
      else if 64 ≤ queued s (sqLaunch ctx entry).dom then s
      else launchOrHold (sqStart s k) (sqLaunch ctx entry) no)

/-- Completion queue fields of an image (R447). -/
def cqImageOk (v : Nat) : Bool :=
  bits v 0 64 % 4096 == 0 && 6 ≤ bits v 64 8 && bits v 64 8 ≤ 14 && bits v 72 8 < 64 && bits v 128 384 == 0
def cqOfImage (ctx v : Nat) : Cq :=
  { ctx := ctx, base := bits v 0 64, log2 := bits v 64 8, vector := bits v 72 8, modCount := bits v 80 16, modNs := bits v 96 32 }
def cqToImage (c : Cq) : Nat :=
  c.base + 2 ^ 64 * c.log2 + 2 ^ 72 * c.vector + 2 ^ 80 * c.modCount + 2 ^ 96 * c.modNs

/-- A control entry of a block without a RESULT of its own ends. The spec numbers no RESULT for these blocks: after a failure the
four bytes are a free value. -/
def ctlEnd (s : State) (c : CtlEntry) (code : Nat) : State :=
  if code = 0 then ctlDone s c 0 0 else (let (v, s) := s.fresh; ctlDone s c code (v.toNat % 2 ^ 32))

/-- A completion queue goes: what waits in it is discarded, its tracker entries are given back, a thread in CQPOST goes on. -/
def cqDrop (s : State) (n : Nat) : State :=
  match smFind s.ho.cqs n with
  | none => s
  | some c =>
    let s := { s with ho := { s.ho with cqs := smDel s.ho.cqs n } }
    c.waiting.foldl (fun s w => s.cqDone w.2.1 w.2.2) s

/-- Control block 4: 1 create, 2 destroy, 3 read (R443, R447, R456). -/
def ctlCq (s : State) (c : CtlEntry) (op n addr : Nat) : State :=
  if !(if op = 1 then s.mayCreate c.ctx 2 n else s.ownsCq c.ctx n) then ctlEnd s c 0x10
  else
    match op, smFind s.ho.cqs n with
    | 1, none =>
      (match ctlRead s c.ctx c.no addr with
       | (s, some v) =>
         if cqImageOk v.toNat then ctlEnd { s with ho := { s.ho with cqs := smSet s.ho.cqs n (cqOfImage c.ctx v.toNat) } } c 0
         else ctlEnd s c 0x20
       | (s, none) => ctlEnd s c 0x20)
    | 2, some _ => reclaim (ctlEnd (cqDrop s n) c 0)
    | 3, some x =>
      (match ctlWrite s c.ctx c.no addr (cqToImage x) with
       | (s, true) => ctlEnd s c 0
       | (s, false) => ctlEnd s c 0x20)
    | _, _ => ctlEnd s c 0x20

/-- Receive queues that a context holds. -/
def ctxRqs (s : State) (ctx : Nat) : Nat := (s.tr.rqs.filter fun e => e.1 / 64 == ctx).length

/-- Control block 5: 1 create, 2 destroy, 3 read (R443, R450, R455, R456). -/
def ctlRq (s : State) (c : CtlEntry) (op n addr : Nat) : State :=
  let k := 64 * c.ctx + n
  if 64 ≤ n || (op = 1 && bits (s.quota c.ctx) (0x25 * 8) 8 ≤ ctxRqs s c.ctx) then ctlEnd s c 0x10
  else
    match op, smFind s.tr.rqs k with
    | 1, none =>
      (match ctlRead s c.ctx c.no addr with
       | (s, some v) =>
         let d := bits v.toNat 0 8
         if v.toNat = d && 4 ≤ d && d ≤ 12 then ctlEnd (s.setRq k { log2 := d }) c 0 else ctlEnd s c 0x20
       | (s, none) => ctlEnd s c 0x20)
    | 2, some _ => ctlEnd { s with tr := { s.tr with rqs := smDel s.tr.rqs k } } c 0
    | 3, some r =>
      (match ctlWrite s c.ctx c.no addr r.log2 with
       | (s, true) => ctlEnd s c 0
       | (s, false) => ctlEnd s c 0x20)
    | _, _ => ctlEnd s c 0x20

/-- A set takes its image from ADDR; RESULT 1 where that cannot be read. -/
def ctlSet (s : State) (b : Blk) (c : CtlEntry) (addr : Nat) (f : State → Nat → State) : State :=
  match ctlRead s c.ctx c.no addr with
  | (s, some v) => f s v.toNat
  | (s, none) => cmdDone s b (some c) 1

/-- A control entry acts as the register command of its block and OP (R443): its context stands for CTX, IDX for the number. Of a
migration, IDX [3:0] is the segment and [21:4] the page. The second answer is false for a block or an OP that there is none of. -/
def ctlEntry (s : State) (c : CtlEntry) (block op idx addr : Nat) : State × Bool :=
  match block, op with
  | 0, 1 => (ctlSet s .seg c addr fun s v => segSetCore s (some c) c.ctx idx (BitVec.ofNat 512 v), true)
  | 0, 2 => (segRemoveCore s (some c) c.ctx idx, true)
  | 0, 3 => (segReadCore s (some c) c.ctx idx addr, true)
  | 1, 1 => (ctlSet s .win c addr fun s v => winSetCore s (some c) idx v, true)
  | 1, 2 => (winRemoveCore s (some c) idx, true)
  | 1, 3 => (winReadCore s (some c) idx addr, true)
  | 1, 4 => (winBumpCore s (some c) idx, true)
  | 1, 5 => (ctlSet s .win c addr fun s v => keySetCore s (some c) idx v, true)
  | 1, 6 => (keyRemoveCore s (some c) idx, true)
  | 1, 7 => (keyReadCore s (some c) idx addr, true)
  | 2, 1 => (ctlSet s .qp c addr fun s v => qpInitCore s (some c) idx v, true)
  | 2, 2 => (ctlSet s .qp c addr fun s v => qpRtrCore s (some c) idx v, true)
  | 2, 3 => (ctlSet s .qp c addr fun s v => qpRtsCore s (some c) idx v, true)
  | 2, 4 => (qpResetCore s (some c) idx, true)
  | 2, 5 => (qpErrorCore s (some c) idx, true)
  | 2, 6 => (qpReadCore s (some c) idx addr, true)
  | 3, 1 => (prefetchCore s (some c) c.ctx (bits idx 0 4) (bits idx 4 18), true)
  | 3, 2 => (evictCore s (some c) c.ctx (bits idx 0 4) (bits idx 4 18), true)
  | 4, 1 => (ctlCq s c 1 idx addr, true)
  | 4, 2 => (ctlCq s c 2 idx addr, true)
  | 4, 3 => (ctlCq s c 3 idx addr, true)
  | 5, 1 => (ctlRq s c 1 idx addr, true)
  | 5, 2 => (ctlRq s c 2 idx addr, true)
  | 5, 3 => (ctlRq s c 3 idx addr, true)
  | _, _ => (s, false)

/-- SQ_CONTROL_ENTRY. A migration waits in its queue while the control complex does not run (R29). -/
def execSqControlEntry (ctx q : Nat) (entry : SqEntry) (s : State) : Out :=
  .next (inActive s fun s =>
    sqEntry s ctx q entry (· == 0x20) fun s no =>
      let k := sqKey ctx q
      let t := s
      let s := sqStart s k
      if fieldLE entry 0x20 32 ≠ 0 then sqReject s ctx q no entry
      else if fieldLE entry 8 1 = 3 && !ctrlOn s then t
      else
        let c : CtlEntry := { ctx := ctx, q := q, tag := sqTag entry, no := no }
        match ctlEntry s c (fieldLE entry 8 1) (fieldLE entry 9 1) (fieldLE entry 0xC 4) (fieldLE entry 0x10 8) with
        | (s, true) => s
        | (s, false) => sqComplete s ctx q (cqEntry c.tag 0x20 4 k 0) (some c.no))

/-- The queue pair that names a receive queue (R450). -/
def rqUser (s : State) (k : Nat) : Option Nat := (s.tr.qps.find? fun e => e.2.st != 0 && rqOf e.2 == k).map (·.1)

/-- SQ_RECEIVE_ENTRY (R450): a bad buffer completes at once and takes no position; a full queue keeps the entry waiting. An
entry whose receive queue does not exist breaks its layout. -/
def execSqReceiveEntry (ctx q : Nat) (entry : SqEntry) (s : State) : Out :=
  .next (inActive s fun s =>
    sqEntry s ctx q entry (· == 0x30) fun s _ =>
      let k := sqKey ctx q
      let n := 64 * ctx + fieldLE entry 8 1
      let buf := fieldLE entry 0x10 8
      let len := fieldLE entry 0x18 4
      let bare := sqComplete (sqStart s k) ctx q (cqEntry (sqTag entry) 0x20 4 k 0) none
      if 64 ≤ fieldLE entry 8 1 || fieldLE entry 0x20 32 ≠ 0 then bare
      else
        match smFind s.tr.rqs n with
        | none => bare
        | some r =>
          let v : Recv := { ssn := r.next, buf := buf, len := len, tag := sqTag entry }
          if buf % 2048 ≠ 0 || len = 0 || 2 ^ 30 < len then
            (match rqUser s n with | some u => recvEntry (sqStart s k) u v 0x20 | none => bare)
          else if 2 ^ r.log2 ≤ r.recvs.length then s
          else
            let s := (sqStart s k).setRq n { r with next := r.next + 1, recvs := r.recvs ++ [v] }
            match rqUser s n with
            | some u => foldEarly s u n v
            | none => s)

/-! ### Completion queue doorbells (R75, R448, R449) -/

/-- A queue is armed for one interrupt; outside Rest it sends it at once where its entries already reach MOD_COUNT (R449, R75). -/
def cqArm (s : State) (cq : Nat) : State :=
  match smFind s.ho.cqs cq with
  | none => s
  | some c =>
    let s := { s with ho := { s.ho with cqs := smSet s.ho.cqs cq { c with armed := true, since := 0 } } }
    if s.pst = 3 then s.cqFire cq else s

/-- The host frees entries; waiting ones are written, though none in Rest. With `arm`, the queue is then armed for one interrupt. -/
def cqDoorbell (s : State) (ctx cq count : Nat) (arm : Bool) : State :=
  if !ctxMapped s ctx then s else
  match smFind s.ho.cqs cq with
  | none => s.count F.HOST_DB_BAD
  | some c =>
    let freed := (count + 32768 - c.consumed % 32768) % 32768
    if !s.ownsCq ctx cq || c.written - c.consumed < freed then s.count F.HOST_DB_BAD
    else
      let s := { s with ho := { s.ho with cqs := smSet s.ho.cqs cq { c with consumed := c.consumed + freed } } }
      let s := if s.pst = 3 then s.cqDrain cq c.waiting.length else s
      if arm then cqArm s cq else s

/-- CQ_DB_WRITE: with ARM = 0. -/
def execCqDbWrite (ctx cq count : Nat) (s : State) : Out := .next (fnCmd s ctx true fun s => cqDoorbell s ctx cq count false)

/-- CQ_DB_ARM: with ARM = 1. -/
def execCqDbArm (ctx cq count : Nat) (s : State) : Out := .next (fnCmd s ctx true fun s => cqDoorbell s ctx cq count true)

/-- CQ_MODERATION_TIMER: MOD_NS has passed since the first entry written since arming (R449). -/
def execCqModerationTimer (cq : Nat) (s : State) : Out :=
  .next (inActive s fun s =>
    match smFind s.ho.cqs cq with
    | none => s
    | some c =>
      if !c.armed || c.since = 0 then s
      else State.sendMsix { s with ho := { s.ho with cqs := smSet s.ho.cqs cq { c with armed := false } } } c.ctx c.vector)

/-! ### The aperture (R439, R78) -/

/-- Context address of BAR2 offset `off`; none above the context's addresses. -/
def aperture (s : State) (ctx off len : Nat) : Option Nat :=
  let a := s.get64 (F.FN_APER_LO ctx) (F.FN_APER_HI ctx) + off
  if ctxMapped s ctx && off + len ≤ 2 ^ 34 && a + len ≤ 2 ^ 47 then some a else none

/-- HOST_APERTURE_READ: outside Active there is nothing that could serve it, and in Safe every read is aborted (R78). -/
def execHostApertureRead (ctx off len : Nat) (s : State) : Out :=
  .next (
    if s.pst ≤ 1 || 256 ≤ ctx || s.fnHeld ctx then s
    else if s.pst ≠ 3 then s.emit (.abortRead ctx off len)
    else
      match aperture s ctx off len with
      | none => s.emit (.abortRead ctx off len)
      | some a =>
        match readOp s .host (112 + s.ctxPort ctx) ctx s.sq.opNo a len with
        | (s, .ok bs) => settle (s.emit (.readData ctx bs))
        | (s, _) => settle (s.emit (.abortRead ctx off len)))

/-- HOST_APERTURE_WRITE: a write that fails is dropped and counted. -/
def execHostApertureWrite (ctx off : Nat) (data : List Byte) (s : State) : Out :=
  .next (inActive s fun s =>
    if 256 ≤ ctx || s.fnHeld ctx then s else
    match aperture s ctx off data.length with
    | none => s.count F.HOST_BAR_REFUSED
    | some a =>
      match writeOp s .host (112 + s.ctxPort ctx) ctx s.sq.opNo a data with
      | (s, .ok _) => settle s
      | (s, _) => settle (s.count F.HOST_BAR_REFUSED))

/-! ### Peer inboxes (R452, R453) -/

/-- The enabled peer entry that names an inbox of a host port. -/
def inboxPeer (s : State) (h inbox : Nat) : Option Nat :=
  (List.range 32).find? fun k => peerEn s k && peerPort s k == h && peerInbox s k == inbox

/-- One frame is consumed, and the running count goes to the peer with one posted write. -/
def consumeFrame (s : State) (h inbox k : Nat) (f : Nat × Packet) : State :=
  let key := inboxKey h inbox
  let (c, o) := smGet s.ho.inboxes key (0, 0)
  let c := (c + 1) % 2 ^ 32
  let s := { s with ho := { s.ho with inboxes := smSet s.ho.inboxes key (c, o) } }
  let s := s.count F.HOST_PEER_FRAMES_RX
  let s :=
    if 8338 < f.1 then s.count F.HOST_PEER_BAD
    else if f.2.dstEp = s.get F.TRN_ID_ENDPOINT then
      { s with tr := { s.tr with arrivals := s.tr.arrivals ++ [(.peer k, f.2)] } }
    else s
  s.emit (.busWrite h (peerCreditAddr s k) (toLE 4 c))

/-- PEER_INBOX_DOORBELL: IN_DB takes the running count; `frames` are the lengths and frames of the slots from the consumed count
on. An inbox that no enabled entry names has nowhere to send its credit and consumes nothing. -/
def execPeerInboxDoorbell (h inbox count : Nat) (frames : List (Nat × Packet)) (s : State) : Out :=
  .next (inActive s fun s =>
    if 4 ≤ h || 8 ≤ inbox || !s.hostUp h then s else
    match inboxPeer s h inbox with
    | none => s
    | some k =>
      let c := (smGet s.ho.inboxes (inboxKey h inbox) (0, 0)).1
      let n := (count % 2 ^ 32 + 2 ^ 32 - c) % 2 ^ 32
      if 64 < n then s.count F.HOST_PEER_BAD
      else (frames.take n).foldl (fun s f => consumeFrame s h inbox k f) s)

/-- PEER_OUT_CREDIT: what waits for the peer's credit goes on. -/
def execPeerOutCredit (h inbox count : Nat) (s : State) : Out :=
  .next (inActive s fun s =>
    if 4 ≤ h || 8 ≤ inbox || !s.hostUp h then s else
    let key := inboxKey h inbox
    let s := { s with ho := { s.ho with
      inboxes := smSet s.ho.inboxes key ((smGet s.ho.inboxes key (0, 0)).1, count % 2 ^ 32) } }
    match inboxPeer s h inbox with
    | some k => releaseWaits s (peerEp s k)
    | none => s)

/-! ### Configuration space (R66, R78, R436) and virtual functions (R437) -/

/-- What the spec gives of a physical function's configuration space: device ID, TotalVFs, VF Enable, the virtual functions' device ID,
and the Uncorrectable Internal Error that its advanced error reporting shows. -/
structure ConfigSpace where
  device : Nat
  totalVfs : Nat
  vfEnable : Bool
  vfDevice : Nat
  internalError : Bool
  deriving DecidableEq, Repr

/-- What a configuration request of host port `h` reads: it completes normally whenever the port's link is up, before stage 7 and in Safe
too. None: there is no link, or PERST_N is low, and nothing answers. -/
def configRead (s : State) (h : Nat) : Option ConfigSpace :=
  if 2 ≤ s.pst && h < 4 && s.hostUp h && bit s.pw.perst h then
    some {
      device := s.get F.ID_DEVICE_DEVICE, totalVfs := bits (s.reg F.HOST_VF_LIMIT.off) (8 * h) 8, vfEnable := bit s.ho.vfEnable h,
      vfDevice := s.get F.ID_VF_DEVICE_DEVICE, internalError := bit s.ho.aer h }
  else none

/-- A write of HOST_VF_LIMIT: each port at most 128, together at most 255, and no change on a port whose VF Enable is set. -/
def vfLimitWrite (s : State) (v : Nat) : State :=
  let n (w i : Nat) : Nat := bits w (8 * i) 8
  let old := s.reg F.HOST_VF_LIMIT.off
  if (List.range 4).any (fun i => 128 < n v i || (n v i != n old i && bit s.ho.vfEnable i))
      || 255 < ((List.range 4).map (n v)).sum then s.ignWrite
  else s.setReg F.HOST_VF_LIMIT.off v

/-- HOST_VF_LIMIT_WRITE. -/
def execHostVfLimitWrite (v : Word32) (s : State) : Out := .next (regCmd s false fun s => vfLimitWrite s v.toNat)

end Sys2Proof.Machine
end

