-- ==== Sys2Proof/Machine/Tenants.lean ====
section
/-! DEFINITION. Quotas (R454–R456), resets of contexts and host links (R457, R463), freezing, saving, restoring and thawing a context
(R458–R461, R472, R473). -/

/-- UNINTERPRETED (log entry 10; R459): the content of the `i`th record of a type of 2 to 9 in a context blob. The spec names what it
holds, and gives no layout within it. -/
opaque Sys2Proof.Config.blobPart : (type i : Nat) → Sys2Proof.Machine.CtxImage → List Sys2Proof.Byte
/-- UNINTERPRETED (log entry 10; R460): what the records of a body, by type, hold beside the quota record, if they hold a context. -/
opaque Sys2Proof.Config.blobParse : List (Nat × List Sys2Proof.Byte) → Option Sys2Proof.Machine.CtxImage

namespace Sys2Proof.Machine

/-! ### Quota records (R454) -/

/-- The ranges of a record: kind of object, lowest bit of its first number, width of either number, and how many there are. -/
def quotaKinds : List (Nat × Nat × Nat × Nat) :=
  [(1, 0, 32, 2 ^ 18), (2, 64, 32, 65536), (3, 128, 32, 2 ^ 20), (4, 192, 32, 65536), (0, 256, 16, 4096)]

def qFirst (q lo w : Nat) : Nat := bits q lo w
def qCount (q lo w : Nat) : Nat := bits q (lo + w) w

/-- Do two ranges that are not empty share a number? -/
def rangesMeet (a n b m : Nat) : Bool := n != 0 && m != 0 && meets a n b m

/-- Every field within its range (R454, R281). -/
def quotaFieldsOk (s : State) (q : Nat) : Bool :=
  (quotaKinds.all fun (_, lo, w, lim) => qFirst q lo w + qCount q lo w ≤ lim)
    && bits q 0x120 8 ≤ 16 && bits q 0x128 8 ≤ 64 && bits q 0x130 8 ≤ 100
    && ((List.range 7).all fun i => let v := bits q (0x138 + 8 * i) 8; v ≤ 100 || v == 0xFF)
    && ((List.range 4).all fun i =>
        let (v, b, f, n) := stgWord (quotaStg q i)
        !v || (b < nDom s && f + n ≤ 5632))

/-- Does a new range move its first number while its old count is not 0? -/
def quotaMoves (old new : Nat) : Bool :=
  (quotaKinds.any fun (_, lo, w, _) => qCount old lo w != 0 && qFirst new lo w != qFirst old lo w)
    || (List.range 4).any fun i =>
      let (v, b, f, n) := stgWord (quotaStg old i)
      let (v', b', f', _) := stgWord (quotaStg new i)
      v && n != 0 && v' && (b != b' || f != f')

/-- The records of the other contexts, as written and in effect. -/
def otherQuotas (s : State) (ctx : Nat) : List Nat :=
  ((s.ho.quotaReq ++ s.ho.quotaEff).filter fun e => e.1 != ctx).map (·.2.toNat)

/-- Do two records' valid staging words share a tile? -/
def stgMeets (a b : Nat) : Bool :=
  let (v, bk, f, n) := stgWord a
  let (v', bk', f', n') := stgWord b
  v && v' && bk == bk' && rangesMeet f n f' n'

/-- Does a new record overlap another context's range, what is pending reclaim from it included? -/
def quotaOverlaps (s : State) (ctx q : Nat) : Bool :=
  ((otherQuotas s ctx).any fun o =>
    (quotaKinds.any fun (_, lo, w, _) => rangesMeet (qFirst q lo w) (qCount q lo w) (qFirst o lo w) (qCount o lo w))
      || (List.range 4).any fun i => (List.range 4).any fun j => stgMeets (quotaStg q i) (quotaStg o j))
    || (s.ho.owned.any fun e =>
      e.2 != ctx && quotaKinds.any fun (k, lo, w, _) =>
        k == e.1 / 2 ^ 20 && inRange (qFirst q lo w) (qCount q lo w) (e.1 % 2 ^ 20))
    || (s.ho.ownedStg.any fun e => e.1 != ctx && (List.range 4).any fun i => stgMeets (quotaStg q i) e.2)

/-- One staging word after the decreases of a set. -/
def stgLower (old new : Nat) : Nat :=
  let (v, _, _, n) := stgWord old
  let (v', _, _, n') := stgWord new
  if v && v' && old % 2 ^ 17 == new % 2 ^ 17 then putBits new 17 13 (min n n') else 0

/-- A record after the decreases of a set: the lower of the two numbers wherever they differ. -/
def quotaLower (old new : Nat) : Nat :=
  let q := quotaKinds.foldl (fun q (_, lo, w, _) => putBits q (lo + w) w (min (qCount old lo w) (qCount new lo w))) new
  let q := (List.range 10).foldl (fun q i => putBits q (0x120 + 8 * i) 8 (min (bits old (0x120 + 8 * i) 8) (bits new (0x120 + 8 * i) 8))) q
  (List.range 4).foldl (fun q i => putBits q (384 + 32 * i) 32 (stgLower (quotaStg old i) (quotaStg new i))) q

/-- Objects of a kind that may be in use, within a range. -/
def liveNumbers (s : State) (kind first n : Nat) : List Nat :=
  let ns : List Nat :=
    match kind with
    | 0 => (List.range n).map (first + ·)
    | 1 => s.tr.qps.map (·.1)
    | 2 => s.ho.cqs.map (·.1)
    | 3 => s.sg.keys.map (·.1) ++ (s.sg.pend.filter fun p => p.blk == .win && p.op == 6).map (·.idx)
    | _ => s.sg.wins.map (·.1) ++ (s.sg.pend.filter fun p => p.blk == .win && p.op == 2).map (·.idx)
  ns.filter fun k => inRange first n k && objInUse s (ownKey kind k)

/-- Removed objects of a range that are in use stay owned (R455). -/
def keepRange (s : State) (ctx old new : Nat) (r : Nat × Nat × Nat × Nat) : State :=
  let (kind, lo, w, _) := r
  let n := qCount new lo w
  let ks := liveNumbers s kind (qFirst old lo w + n) (qCount old lo w - n)
  { s with ho := { s.ho with owned := ks.foldl (fun o k => smSet o (ownKey kind k) ctx) s.ho.owned } }

/-- A removed staging range, whole or its end, stays owned while the context has work. -/
def keepStg (s : State) (ctx old new : Nat) (i : Nat) : State :=
  let a := quotaStg old i
  let (v, _, f, n) := stgWord a
  let (v', _, _, n') := stgWord (quotaStg new i)
  let m := if v' then n' else 0
  if !v || n ≤ m || ctxIdle s ctx then s
  else { s with ho := { s.ho with ownedStg := s.ho.ownedStg ++ [(ctx, putBits (putBits a 4 13 (f + m)) 17 13 (n - m))] } }

def quotaDone (s : State) (r : Nat) : State := s.result F.QUOTA_EVENT_SEQ F.QUOTA_EVENT_RESULT r

/-- PENDING of QUOTA_EVENT (R455). -/
def showReclaim (s : State) : State := s.set F.QUOTA_EVENT_PENDING (b2n (s.ho.owned != [] || s.ho.ownedStg != []))

/-- QUOTA_CMD OP 1 (R455): checked, then the decreases; a set that also increases something completes at the next boundary. -/
def quotaSet (s : State) (ctx : Nat) : State :=
  let new := s.getWords (F.QUOTA_ENTRY 0).off 16
  let old := s.quota ctx
  if s.ho.quotaPend.isSome then quotaDone s 3
  else if !quotaFieldsOk s new then quotaDone s 1
  else if quotaMoves old new || quotaOverlaps s ctx new then quotaDone s 2
  else
    let low := quotaLower old new
    let s := quotaKinds.foldl (fun s r => keepRange s ctx old new r) s
    let s := (List.range 4).foldl (fun s i => keepStg s ctx old new i) s
    let s := showReclaim { s with ho := { s.ho with
      quotaReq := smPut 0#512 s.ho.quotaReq ctx (BitVec.ofNat 512 new),
      quotaEff := smPut 0#512 s.ho.quotaEff ctx (BitVec.ofNat 512 low) } }
    if low = new then quotaDone s 0 else { s with ho := { s.ho with quotaPend := some ctx } }

/-- Newly granted objects of a range: those pending reclaim from this context stop pending, other sync objects are armed to 0. -/
def grantRange (s : State) (ctx old new : Nat) (r : Nat × Nat × Nat × Nat) : State :=
  let (kind, lo, w, _) := r
  let from_ := qFirst new lo w + qCount old lo w
  let n := qCount new lo w - qCount old lo w
  let back (k : Nat) : Bool := s.pendingReclaim ctx kind k
  let fresh := if kind = 0 then ((List.range n).map (from_ + ·)).filter fun k => !back k else []
  let s := { s with ho := { s.ho with
    owned := s.ho.owned.filter fun e => !(e.2 == ctx && e.1 / 2 ^ 20 == kind && inRange from_ n (e.1 % 2 ^ 20)) } }
  fresh.foldl (fun s k => armRange s k 1) s

/-- Increases take effect in step 1 of a boundary (R102, R455). -/
def quotaBoundary (s : State) : State :=
  match s.ho.quotaPend with
  | none => s
  | some ctx =>
    let new := (smGet s.ho.quotaReq ctx 0#512).toNat
    let old := s.quota ctx
    let s := { s with ho := { s.ho with quotaEff := smPut 0#512 s.ho.quotaEff ctx (BitVec.ofNat 512 new), quotaPend := none } }
    let s := quotaKinds.foldl (fun s r => grantRange s ctx old new r) s
    quotaDone (showReclaim s) 0

/-- QUOTA_SET. -/
def execQuotaSet (ctx : Nat) (s : State) : Out := .next (regCmd s false fun s => inCtrl s fun s => quotaSet s (ctx % 256))

/-- OP 2 and OP 3: the record goes to QUOTA_ENTRY. -/
def quotaRead (s : State) (q : BitVec 512) : State :=
  if s.ho.quotaPend.isSome then quotaDone s 3 else quotaDone (s.setWords (F.QUOTA_ENTRY 0).off 16 q.toNat) 0

/-- QUOTA_READ_REQUESTED. -/
def execQuotaReadRequested (ctx : Nat) (s : State) : Out :=
  .next (regCmd s false fun s => quotaRead s (smGet s.ho.quotaReq (ctx % 256) 0#512))
/-- QUOTA_READ_EFFECTIVE. -/
def execQuotaReadEffective (ctx : Nat) (s : State) : Out :=
  .next (regCmd s false fun s => quotaRead s (smGet s.ho.quotaEff (ctx % 256) 0#512))

/-! ### Resets of a context (R457) -/

/-- A submission queue is disabled: it completes nothing further, and its indices and its held entry are discarded (R446). -/
def sqDisable (s : State) (ctx q : Nat) : State :=
  let k := sqKey ctx q
  if !sqEnabled s k then s else
  let s := match (s.sqd k).held with | some (_, some no) => s.trkGive no | _ => s
  let s := (s.setSqd k {}).set (F.SQ_CFG_ENABLE ctx q) 0
  State.set { s with ho := { s.ho with sqs := smDel s.ho.sqs k } } (F.SQ_STATUS_STATE ctx q) 0

/-- A submission queue is enabled: fetch count and producer index 0 (R440). -/
def sqEnable (s : State) (ctx q : Nat) : State := (s.setSqd (sqKey ctx q) {}).set (F.SQ_STATUS_STATE ctx q) 1

/-- Does a transfer use a host-resident segment? -/
def usesHost (s : State) (ctx : Nat) (d : Desc) : Bool :=
  !d.post && dKind d.w == 1 && dCtx d.w == ctx
    && teHost s d.w d.no (parseWalk (peekRec s d.w 128))

/-- The descriptors of an engine that `p` picks complete with a code, keeping their released prefix (R206, R266). -/
def endSome (s : State) (e code : Nat) (p : Desc → Bool) : State :=
  let g := s.engine e
  let pr (r : Run) : Bool := p r.d
  let runs := (match g.run with | some r => [r] | none => []) ++ g.aside ++ g.remainder ++ g.incoming
  let s := s.setEngine e { g with
    input := g.input.filter fun d => !p d, queue := g.queue.filter fun d => !p d,
    run := (match g.run with | some r => if pr r then none else some r | none => none),
    aside := g.aside.filter fun r => !pr r, remainder := g.remainder.filter fun r => !pr r,
    incoming := g.incoming.filter fun r => !pr r }
  let s := (runs.filter pr).foldl (fun s r => finishRun s r code) s
  showParked (((g.input ++ g.queue).filter p).foldl (fun s d => finishNone s d code) s) e

/-- The programs of a context, and its queue pairs that are not in RESET. -/
def ctxProgs (s : State) (ctx : Nat) : List Program := (s.sq.progs.filter fun e => e.2.ctx == ctx).map (·.2)
def ctxQps (s : State) (ctx : Nat) : List Nat := smKeys (fun _ q => q.st != 0 && qpCtx q.e.toNat == ctx) s.tr.qps

/-- The launches of a context that have not started leave their queues. -/
def takeLaunches (s : State) (ctx : Nat) : State × List (LaunchReq × Nat) :=
  let mine (l : Launch) : Bool := l.r.ctx == ctx
  let held := s.pw.launches.filter fun x => x.1.ctx == ctx
  let ls := (s.sq.sigWait ++ s.sq.due ++ s.sq.lq).filter mine
  ({ s with
      pw := { s.pw with launches := s.pw.launches.filter fun x => x.1.ctx != ctx },
      sq := { s.sq with
        sigWait := s.sq.sigWait.filter fun l => !mine l,
        due := s.sq.due.filter fun l => !mine l,
        lq := s.sq.lq.filter fun l => !mine l } },
    ls.map (fun l => (l.r, l.p.no)) ++ held)

/-- A program that a discard ends: the thread that has decided it, else the saved thread of the lowest slot, with FAULT_KIND 10 (R136, R137).
That the lowest slot decides is DESIGN CHOICE (log entry 19): the saved threads stop in one cycle, whose faults R137 orders so. -/
def discardProgram (z : Frozen) (s : State) (p : Program) : State :=
  match p.decided with
  | some (tail, code, kind, slot) => completeProgram s p tail code kind slot
  | none =>
    let lower (a : Option (Th × Thread)) (e : Th × Thread) : Option (Th × Thread) :=
      match a with | none => some e | some b => if e.1.slot < b.1.slot then some e else some b
    match (z.threads.filter (isSaved p)).foldl lower none with
    | some e => completeProgram s p (progTail e.2 10) 0x01 10 e.1.slot
    | none => completeProgram s p (progTail {} 10) 0x01 10 0

/-- A frozen context ends on this adapter: its programs, its held launches and its recorded operations complete with FLUSHED, and its
queue pairs go to RESET (R461). -/
def discardFrozen (s : State) (ctx : Nat) : State :=
  match smFind s.ho.frozen ctx with
  | none => s
  | some z =>
    let s := { s with ho := { s.ho with
      frozen := smDel s.ho.frozen ctx, freezing := if s.ho.freezing = some ctx then none else s.ho.freezing } }
    let s := (ctxProgs s ctx).foldl (discardProgram z) s
    let s := z.launches.foldl (fun s l => refuseLaunch s l.1 l.2 0x01) s
    (ctxQps s ctx).foldl resetQp s

/-- A context is reset. Its launches that have not started end with it. -/
def contextReset (s : State) (ctx : Nat) : State :=
  let s := (List.range 15).foldl (fun s q => sqDisable s ctx q) s
  let s := (smKeys (fun _ c => c.ctx == ctx) s.ho.cqs).foldl cqDrop s
  let s := discardFrozen s ctx
  let s := (ctxQps s ctx).foldl resetQp s
  let (s, ls) := takeLaunches s ctx
  let s := ls.foldl (fun s l => s.trkGive l.2) s
  let s := (ctxProgs s ctx).foldl (fun s p => stopProgram s p 10) s
  let s := (List.range (nDom s)).foldl (fun s d => endSome s (4 * d + 1) 0x01 (usesHost s ctx)) s
  let s := failMigrations s ctx
  (s.set (F.HOST_CTX_MAP_STATE ctx) 2).count F.HOST_CTX_RESETS

/-- The contexts of a host port: those mapped to it, and context 0 on the management port. -/
def portCtxs (s : State) (h : Nat) : List Nat :=
  (List.range 256).filter fun c => s.ctxPort c == h && (c == 0 || s.ctxState c != 0)

/-- The link of a host port goes down, or its PERST_N is asserted. -/
def hostPortLost (s : State) (h : Nat) : State :=
  let s := if s.hostUp h then (s.set (F.HOST_PORT_STATUS_LINK h) 0).bump (F.HOST_PORT_STATUS_SEQ h) else s
  if s.pst = 3 || s.pst = 4 then settle ((portCtxs s h).foldl contextReset s) else s

/-- HOST_LINK_UP: training ends in L0 (R66). -/
def execHostLinkUp (h rate width : Nat) (s : State) : Out :=
  .next (
    if 4 ≤ h || s.pst < 2 || !bit s.pw.trained h || !bit s.pw.perst h || s.hostUp h then s
    else
      let s := (s.set (F.HOST_PORT_STATUS_LINK h) 1).set (F.HOST_PORT_STATUS_RATE h) rate
      (s.set (F.HOST_PORT_STATUS_WIDTH h) width).bump (F.HOST_PORT_STATUS_SEQ h))

/-- HOST_LINK_DOWN. -/
def execHostLinkDown (h : Nat) (s : State) : Out := .next (if 4 ≤ h || !s.hostUp h then s else hostPortLost s h)

/-- FUNCTION_LEVEL_RESET. -/
def execFunctionLevelReset (ctx : Nat) (s : State) : Out :=
  .next (if (s.pst = 3 || s.pst = 4) && ctxMapped s ctx then settle (contextReset s ctx) else s)

/-- CONTEXT_DRAIN_COMPLETE: the last thread has halted and the last operation has completed. -/
def execContextDrainComplete (ctx : Nat) (s : State) : Out :=
  .next (if ctx < 256 && s.ctxState ctx = 2 && ctxIdle s ctx then s.set (F.HOST_CTX_MAP_STATE ctx) 1 else s)

/-! ### Freeze (R458) -/

def ctxmDone (s : State) (r : Nat) : State := s.result F.CTXM_EVENT_SEQ F.CTXM_EVENT_RESULT r

/-- Is a CTXM command in progress: a freeze or a thaw, or a restore that waits for its boundary? -/
def ctxmPending (s : State) : Bool :=
  s.ho.freezing.isSome || s.ho.restoring.isSome
    || (match s.tk.change with | some c => (match c.kind with | .freeze _ | .thaw _ => true | _ => false) | none => false)

/-- A mode change is accepted; its units are asked to arm at boundary `a` (R111). -/
def startChange (s : State) (k : ModeKind) (a : Nat) : State :=
  State.set { s with tk := { s.tk with change := some { kind := k, armAt := a, asked := false, armed := 0, postponed := 0 } } }
    F.MODE_EVENT_POSTPONED 0

/-- CTXM_FREEZE: a mode change, of an active context other than the manager's. That a freeze or thaw while another is pending gives 3, and not
R110's 5, is DESIGN CHOICE (log entry 17): the spec gives no order. -/
def execCtxmFreeze (ctx : Nat) (s : State) : Out :=
  .next (regCmd s false fun s =>
    if ctxmPending s then ctxmDone s 3
    else if ctx = 0 || 256 ≤ ctx || s.ctxState ctx ≠ 1 then ctxmDone s 2
    else if modePending s then ctxmDone s 5
    else startChange s (.freeze ctx) (s.tk.count + 1))

/-- The freeze commits. Launches of the context that have not started are held from here on. -/
def freezeCommit (s : State) (ctx : Nat) : State :=
  let (s, ls) := takeLaunches s ctx
  let s := { s with ho := { s.ho with frozen := smSet s.ho.frozen ctx { launches := ls }, freezing := some ctx } }
  let rest (q : Qp) : Qp := if q.st = 3 && qpCtx q.e.toNat = ctx then { q with st := 5, timer := none } else q
  let s := { s with tr := { s.tr with qps := smMap (fun _ q => rest q) s.tr.qps } }
  ((ctxProgs s ctx).flatMap progSlots).foldl (fun s t => s.setThr t { s.thr t with freeze := true }) s

/-- Nothing of the context runs any more: no resident thread but halted ones, no engine descriptor, no migration, no control entry. -/
def frozenIdle (s : State) (ctx : Nat) : Bool :=
  !(s.sq.thr.any fun e => e.2.ctx == ctx && e.2.st != .free && e.2.st != .halted)
    && !(s.en.eng.any fun e => (engineDescs e.2).any fun d => dCtx d.w == ctx)
    && !(s.en.ended.any fun x => dCtx x.d.w == ctx)
    && !(s.sg.recs.any fun r => r.ctx == ctx && r.started.isSome)
    && !(s.sg.pend.any fun p => match p.entry with | some c => c.ctx == ctx | none => false)

/-- FREEZE_COMPLETE. -/
def execFreezeComplete (ctx : Nat) (s : State) : Out :=
  .next (
    match smFind s.ho.frozen ctx with
    | none => s
    | some z =>
      if s.pst ≠ 3 || s.ho.freezing ≠ some ctx || !frozenIdle s ctx then s
      else
        let s := { s with ho := { s.ho with frozen := smSet s.ho.frozen ctx { z with done := true }, freezing := none } }
        ctxmDone (s.set (F.HOST_CTX_MAP_STATE ctx) 3) 0)

/-- A context whose freeze is complete. -/
def isFrozen (s : State) (ctx : Nat) : Bool :=
  match smFind s.ho.frozen ctx with | some z => z.done | none => false

/-! ### Save (R459, R473) -/

def sqImage (s : State) (ctx q : Nat) : SqImage :=
  { q := q, base := s.get64 (F.SQ_BASE_LO ctx q) (F.SQ_BASE_HI ctx q), cfg := s.reg (F.SQ_CFG ctx q).off,
    cq := s.reg (F.SQ_CQ ctx q).off, status := s.reg (F.SQ_STATUS ctx q).off, sq := s.sqd (sqKey ctx q) }

def ctxImage (s : State) (ctx : Nat) (z : Frozen) : CtxImage :=
  let q := s.quota ctx
  { quota := smGet s.ho.quotaEff ctx 0#512
    segs := (ctxSegs s ctx).map fun x => (x.1 % 16, x.2)
    wins := s.sg.wins.filter fun e => winCtx e.2.toNat == ctx
    keys := s.sg.keys.filter fun e => keyCtx e.2.toNat == ctx
    qps := s.tr.qps.filter fun e => e.2.st != 0 && qpCtx e.2.e.toNat == ctx
    sqs := (List.range 15).map (sqImage s ctx)
    cqs := s.ho.cqs.filter fun e => e.2.ctx == ctx
    rqs := (s.tr.rqs.filter fun e => e.1 / 64 == ctx).map fun e => (e.1 % 64, e.2)
    syncs := s.sy.counts.filter fun e => inRange (bits q 256 16) (bits q 272 16) e.1
    progs := ctxProgs s ctx
    threads := z.threads ++ (s.sq.thr.filter fun e => e.2.ctx == ctx && e.2.st == .halted).map fun e => (⟨e.1 / 8, e.1 % 8⟩, e.2)
    launches := z.launches.map (·.1) }

/-- A record of a blob's body: type, length, content. -/
def blobRecord (type : Nat) (content : List Byte) : List Byte := toLE 2 type ++ toLE 4 content.length ++ content

/-- The body of a blob. That its records stand in the order of their types is DESIGN CHOICE (log entry 10). -/
def blobBody (m : CtxImage) : List Byte :=
  let part (t i : Nat) : List Byte := blobRecord t (Config.blobPart t i m)
  let each (t n : Nat) : List Byte := (List.range n).flatMap (part t)
  blobRecord 1 (toLE 64 m.quota.toNat) ++ part 2 0 ++ part 3 0 ++ each 4 m.qps.length ++ each 5 m.qps.length ++ part 6 0 ++ part 7 0
    ++ each 8 m.progs.length ++ part 9 0

/-- The records of a body; none where they do not fill it. -/
def blobRecords : (fuel : Nat) → List Byte → Option (List (Nat × List Byte))
  | 0, bs => if bs = [] then some [] else none
  | k + 1, bs =>
    if bs = [] then some [] else
    let n := fieldLE bs 2 4
    if bs.length < 6 + n then none
    else (blobRecords k (bs.drop (6 + n))).map fun r => (fieldLE bs 0 2, (bs.drop 6).take n) :: r

/-- The context that a body holds: its quota record, and the rest. -/
def parseBlob (bs : List Byte) : Option CtxImage :=
  (blobRecords bs.length bs).bind fun rs =>
    (rs.find? fun r => r.1 == 1).bind fun q =>
      (Config.blobParse rs).map fun m => { m with quota := BitVec.ofNat 512 (ofLE q.2) }

/-- The nonce of a blob: the unit serial, then the count of saves since Bring-up (R473). -/
def blobNonce (s : State) (count : Nat) : List Byte := toLE 8 (s.reg 0x8 + 2 ^ 32 * s.reg 0xC) ++ toLE 4 count

def blobHeader (s : State) (ctx len count slot : Nat) : List Byte :=
  toLE 4 0x42585443 ++ toLE 2 1 ++ toLE 2 (s.get F.COMPAT_CLASS_CLASS) ++ toLE 8 (s.reg 0x8 + 2 ^ 32 * s.reg 0xC)
    ++ toLE 4 (s.get F.TRN_ID_ENDPOINT) ++ toLE 4 ctx ++ toLE 8 len ++ blobNonce s count ++ toLE 20 slot

/-- A key slot (R495) of kind 1 identity or 2 migration, if it holds a key. -/
def keySlot (s : State) (kind slot : Nat) : Option (List Byte) := smFind s.ci.slots (16 * kind + slot)

def blobKey (k : List Byte) : BitVec 256 := BitVec.ofNat 256 (ofBE (slice k 0 32))

/-- Where a blob goes and comes from: CTXM_ADDR, in a segment of context 0. -/
def ctxmAddr (s : State) : Nat := s.get64 F.CTXM_ADDR_LO F.CTXM_ADDR_HI

def writeBlob (s : State) (ctx slot : Nat) (z : Frozen) (key : List Byte) : State :=
  let count := s.ho.blobs + 1
  let body := blobBody (ctxImage s ctx z)
  let h := blobHeader s ctx body.length count slot
  let ct := gcmXor (blobKey key) (blobNonce s count) 0 body
  let tag := gcmTag (blobKey key) (blobNonce s count) h ct
  let blob := h ++ ct ++ tag ++ slice (Config.identitySign (h ++ ct ++ tag)) 0 17088
  if s.reg F.CTXM_LEN.off < blob.length then ctxmDone s 4
  else
    match writeOp s .ls 116 0 s.sq.opNo (ctxmAddr s) blob with
    | (s, .ok _) =>
      ctxmDone ({ s with ho := { s.ho with blobs := count } }.setReg F.CTXM_BLOB_LEN.off blob.length) 0
    | (s, _) => ctxmDone s 1

/-- CTXM_SAVE. The spec does not say what names the migration key slot of a save: its number is a free value. -/
def execCtxmSave (ctx : Nat) (s : State) : Out :=
  .next (regCmd s false fun s =>
    if ctxmPending s then ctxmDone s 3
    else
      match smFind s.ho.frozen ctx with
      | none => ctxmDone s 2
      | some z =>
        if !z.done then ctxmDone s 2 else
        let (v, s) := s.fresh
        let slot := v.toNat % 8
        match keySlot s 2 slot with
        | none => ctxmDone s 1
        | some key => settle (writeBlob s ctx slot z key))

/-! ### Restore (R460) -/

/-- A refused restore shows its code. -/
def restoreRefused (s : State) (code : Nat) : State := ctxmDone (s.set F.CTXM_EVENT_CODE code) 1

/-- Steps 1 and 2: the code of the check that fails, or the content and the saved context. -/
def openBlob (s : State) (blob : List Byte) : Except Nat CtxImage :=
  let n := fieldLE blob 0x18 4
  let h := slice blob 0 64
  let ct := slice (blob.drop 64) 0 n
  let tag := slice (blob.drop (64 + n)) 0 16
  let sig := slice (blob.drop (80 + n)) 0 17088
  let nonce := slice h 0x20 12
  if fieldLE h 0 4 ≠ 0x42585443 || fieldLE h 4 2 ≠ 1 || fieldLE h 6 2 ≠ s.get F.COMPAT_CLASS_CLASS then .error 0x20
  else
    match keySlot s 1 (s.get F.CTXM_IDKEY_SLOT), keySlot s 2 (fieldLE h 0x2C 1) with
    | some id, some mk =>
      if fieldLE h 0x2C 1 < 8 && Config.slhDsa128f id (h ++ ct ++ tag) sig && gcmTag (blobKey mk) nonce h ct = tag then
        (match parseBlob (gcmXor (blobKey mk) nonce 0 ct) with
         | some img => .ok img
         | none => .error 0x70)
      else .error 0x70
    | _, _ => .error 0x70

/-- Step 3: every saved number is within the target's ranges in effect, and free. -/
def numbersFree (s : State) (ctx : Nat) (m : CtxImage) : Bool :=
  let ok (kind n : Nat) : Bool := s.mayCreate ctx kind n && !objInUse s (ownKey kind n)
  let q := m.quota.toNat
  (m.qps.all fun e => ok 1 e.1) && (m.cqs.all fun e => ok 2 e.1) && (m.keys.all fun e => ok 3 e.1)
    && (m.wins.all fun e => ok 4 e.1)
    && ((List.range (bits q 272 16)).all fun i => ok 0 (bits q 256 16 + i))
    && (m.rqs.all fun e => e.1 < 64 && (smFind s.tr.rqs (64 * ctx + e.1)).isNone)

/-- Step 4: the segments with their new HBM_BASE, each checked as it joins (R296). -/
def placeSegs (s : State) (ctx : Nat) (remap : List Byte) : List (Nat × Segm) → Option State
  | [] => some s
  | (i, g) :: rest =>
    let e := putBits g.e.toNat 192 64 (fieldLE remap (8 * i) 8)
    if 16 ≤ i || (smFind s.sg.segs (segKey ctx i)).isSome || (segCheck s ctx e).isSome then none
    else placeSegs (s.setSegm (segKey ctx i) { g with e := BitVec.ofNat 512 e }) ctx remap rest

/-- A recorded operation on the target: its context, its program's number, its thread's start number `base` higher, and a tracker
entry. -/
def adoptOp (ctx base : Nat) (num : Nat → Nat → Nat) (s : State) (o : Op) : State × Op :=
  let d := { o.d with
    w := dput o.d.w 0 4 8 ctx, no := s.sq.opNo, live := if o.d.live = 0 then 0 else o.d.live + base,
    prog := num o.d.th.dom o.d.prog }
  (s.trkTake ctx 0, { o with d := d })

def adoptOps (ctx base : Nat) (num : Nat → Nat → Nat) (s : State) : List Op → State × List Op
  | [] => (s, [])
  | o :: os =>
    let (s, o) := if o.told then (s, o) else adoptOp ctx base num s o
    let (s, os) := adoptOps ctx base num s os
    (s, o :: os)

def adoptQp (ctx base : Nat) (num : Nat → Nat → Nat) (s : State) (e : Nat × Qp) : State :=
  let (n, q) := e
  let (s, ops) := adoptOps ctx base num s q.ops
  s.setQp n { q with
    e := BitVec.ofNat 512 (putBits q.e.toNat 8 8 ctx), ops := ops, cached := false, timer := none, txc := max q.txc (s.qp n).txc }

def adoptSq (ctx : Nat) (s : State) (i : SqImage) : State :=
  let s := ((s.set64 (F.SQ_BASE_LO ctx i.q) (F.SQ_BASE_HI ctx i.q) i.base).setReg (F.SQ_CFG ctx i.q).off i.cfg)
  let s := (s.setReg (F.SQ_CQ ctx i.q).off i.cq).setReg (F.SQ_STATUS ctx i.q).off i.status
  if !sqEnabled s (sqKey ctx i.q) then s
  else
    match i.sq.held with
    | some (e, some _) => (s.trkTake ctx 0).setSqd (sqKey ctx i.q) { i.sq with held := some (e, some s.sq.opNo) }
    | _ => s.setSqd (sqKey ctx i.q) i.sq

/-- The number that a saved program takes: the domain's admission count, counted on for each saved before it. -/
def newNum (s : State) (ps : List Program) (dom old : Nat) : Nat :=
  let before := ((ps.takeWhile fun p => !(p.dom == dom && p.num == old)).filter fun p => p.dom == dom).length
  (smGet s.sq.admitted dom 0 + before) % 65536

def adoptProg (ctx : Nat) (s : State) (p : Program) : State :=
  let num := smGet s.sq.admitted p.dom 0
  let no := s.sq.opNo
  let s := s.trkTake ctx 0
  let s := { s with sq := { s.sq with admitted := smPut 0 s.sq.admitted p.dom ((num + 1) % 65536) } }
  (s.setProg { p with ctx := ctx, num := num, no := no, slots := [] }).count (F.SEQ_LAUNCHES p.dom)

/-- The threads that a program's saved state needs slots for. -/
def threadsOf (ts : List (Th × Thread)) (d : Nat) : Nat := (ts.filter fun e => e.1.dom == d).length

/-- Do the domains have free slots for these threads? -/
def slotsFor (s : State) (ts : List (Th × Thread)) : Bool :=
  (List.range 16).all fun d => threadsOf ts d ≤ freeSlots s d

/-- Step 5: the programs, admitted one after the other (R105). -/
def admitSaved (ctx : Nat) (s : State) : List Program → Option State
  | [] => some s
  | p :: ps =>
    if nDom s ≤ p.dom || s.domFenced p.dom || !admissible s { p with ctx := ctx } then none
    else admitSaved ctx (adoptProg ctx s p) ps

/-- Everything else of the saved context, frozen on this adapter. -/
def adopt (s0 s : State) (ctx : Nat) (m : CtxImage) : State :=
  let base := s.sq.starts
  let num := newNum s0 m.progs
  let s := m.qps.foldl (adoptQp ctx base num) s
  let s := m.sqs.foldl (adoptSq ctx) s
  let (s, ls) := m.launches.foldl (fun (x : State × List (LaunchReq × Nat)) r =>
    (x.1.trkTake ctx 0, x.2 ++ [({ r with ctx := ctx }, x.1.sq.opNo)])) (s, [])
  let q := m.quota.toNat
  let s := (List.range (bits q 272 16)).foldl (fun s i =>
    let k := bits q 256 16 + i
    s.setCount k (smGet m.syncs k 0)) s
  let ts : List (Th × Thread) := m.threads.map fun (e : Th × Thread) =>
    (e.1, { e.2 with ctx := ctx, live := e.2.live + base, prog := num e.1.dom e.2.prog })
  let s := { s with
    sg := { s.sg with
      wins := m.wins.foldl (fun w (e : Nat × BitVec 256) => smSet w e.1 (BitVec.ofNat 256 (putBits e.2.toNat 24 8 ctx))) s.sg.wins,
      keys := m.keys.foldl (fun w (e : Nat × BitVec 256) => smSet w e.1 (BitVec.ofNat 256 (putBits e.2.toNat 32 8 ctx))) s.sg.keys },
    tr := { s.tr with rqs := m.rqs.foldl (fun r (e : Nat × Rq) => smSet r (64 * ctx + e.1) e.2) s.tr.rqs },
    sq := { s.sq with starts := (ts.map fun (e : Th × Thread) => e.2.live).foldl max base },
    ho := { s.ho with
      cqs := m.cqs.foldl (fun c (e : Nat × Cq) => smSet c e.1 { e.2 with ctx := ctx }) s.ho.cqs,
      frozen := smSet s.ho.frozen ctx { threads := ts, launches := ls, done := true } } }
  ctxmDone (s.set (F.HOST_CTX_MAP_STATE ctx) 3) 0

/-- The blob, read by its header's length; the code where memory does not give it. -/
def readBlob (s : State) : State × Except Nat (List Byte) :=
  let a := ctxmAddr s
  let fail : Got → Nat := fun g => match g with | .fail c => c | _ => 0x20
  match readOp s .ls 116 0 s.sq.opNo a 64 with
  | (s, .ok h) =>
    (match readOp s .ls 116 0 s.sq.opNo a (64 + fieldLE h 0x18 4 + 16 + 17088) with
     | (s, .ok bs) => (s, .ok bs)
     | (s, g) => (s, .error (fail g)))
  | (s, g) => (s, .error (fail g))

/-- The 16 HBM_BASE values at CTXM_REMAP. -/
def readRemap (s : State) : State × Option (List Byte) :=
  match readOp s .ls 116 0 s.sq.opNo (s.get64 F.CTXM_REMAP_LO F.CTXM_REMAP_HI) 128 with
  | (s, .ok bs) => (s, some bs)
  | (s, _) => (s, none)

/-- Steps 1 to 4; what passes waits for the admission at the next boundary, its segments' HBM_BASE in place. -/
def restoreStart (s : State) (ctx : Nat) : State :=
  match readBlob s with
  | (s, .error c) => restoreRefused s c
  | (s, .ok blob) =>
    match openBlob s blob with
    | .error c => restoreRefused s c
    | .ok m =>
      if !numbersFree s ctx m then restoreRefused s 0x10
      else
        match readRemap s with
        | (s, none) => restoreRefused s 0x20
        | (s, some r) =>
          if (placeSegs s ctx r m.segs).isNone then restoreRefused s 0x20
          else
            let segs := m.segs.map fun e =>
              (e.1, { e.2 with e := BitVec.ofNat 512 (putBits e.2.e.toNat 192 64 (fieldLE r (8 * e.1) 8)) })
            { s with ho := { s.ho with restoring := some (ctx, { m with segs := segs }) } }

/-- CTXM_RESTORE. -/
def execCtxmRestore (ctx : Nat) (s : State) : Out :=
  .next (regCmd s false fun s =>
    if ctxmPending s then ctxmDone s 3
    else if ctx = 0 || 256 ≤ ctx || s.ctxState ctx ≠ 1 then ctxmDone s 2
    else settle (restoreStart s ctx))

/-- Step 5 at the boundary: all of it, or nothing. -/
def restoreBoundary (s : State) : State :=
  match s.ho.restoring with
  | none => s
  | some (ctx, m) =>
    let s := { s with ho := { s.ho with restoring := none } }
    if !slotsFor s m.threads then restoreRefused s 0x61
    else
      match admitSaved ctx s m.progs with
      | none => restoreRefused s 0x61
      | some t => adopt s (m.segs.foldl (fun s e => s.setSegm (segKey ctx e.1) e.2) t) ctx m

/-! ### Thaw, discard, repoint (R461, R472) -/

/-- Does every queue pair of the context with ENC = 1 name a valid key? -/
def keysReady (s : State) (ctx : Nat) : Bool := (ctxQps s ctx).all fun n => qpKeyOk s (s.qp n).e.toNat

/-- CTXM_THAW: a mode change. A thaw whose threads find no free slots is refused. -/
def execCtxmThaw (ctx : Nat) (s : State) : Out :=
  .next (regCmd s false fun s =>
    if ctxmPending s then ctxmDone s 3
    else
      match smFind s.ho.frozen ctx with
      | none => ctxmDone s 2
      | some z =>
        if !z.done then ctxmDone s 2
        else if !keysReady s ctx || !slotsFor s z.threads then ctxmDone s 1
        else if modePending s then ctxmDone s 5
        else startChange s (.thaw ctx) (s.tk.count + 1))

/-- A saved thread is reloaded in the lowest free slot; its recorded operations follow it. -/
def reload (s : State) (e : Th × Thread) : State :=
  let (t, x) := e
  match (List.range 8).find? fun k => (s.thr ⟨t.dom, k⟩).st == .free with
  | none => s
  | some k =>
    let u : Th := ⟨t.dom, k⟩
    let move (d : Desc) : Desc := if d.live = x.live && d.live ≠ 0 then { d with th := u } else d
    let s := s.setThr u { x with freeze := false }
    let s := match s.prog u with | some p => s.setProg { p with slots := p.slots ++ [k] } | none => s
    { s with tr := { s.tr with qps := smMap (fun _ q => { q with ops := q.ops.map fun o => { o with d := move o.d } }) s.tr.qps } }

/-- The thaw commits. -/
def thawCommit (s : State) (ctx : Nat) : State :=
  match smFind s.ho.frozen ctx with
  | none => s
  | some z =>
    if !slotsFor s z.threads then ctxmDone s 1 else
    let s := z.threads.foldl reload { s with ho := { s.ho with frozen := smDel s.ho.frozen ctx } }
    let wake (q : Qp) : Qp :=
      if q.st = 5 && qpCtx q.e.toNat = ctx then { q with st := 3, timer := if anyWaits q then some (retryAt s) else none } else q
    let s := { s with tr := { s.tr with qps := smMap (fun _ q => wake q) s.tr.qps } }
    let s := ctxmDone (s.set (F.HOST_CTX_MAP_STATE ctx) 1) 0
    let s := z.launches.foldl (fun s l => launchOrHold s l.1 l.2) s
    (List.range 15).foldl (fun s q => sqFetch s (sqKey ctx q)) s

/-- CTXM_DISCARD. -/
def execCtxmDiscard (ctx : Nat) (s : State) : Out :=
  .next (regCmd s false fun s =>
    if ctxmPending s then ctxmDone s 3
    else if !isFrozen s ctx then ctxmDone s 2
    else settle (ctxmDone ((discardFrozen s ctx).set (F.HOST_CTX_MAP_STATE ctx) 1) 0))

/-- CTXM_REPOINT. -/
def execCtxmRepoint (ctx qp : Nat) (s : State) : Out :=
  .next (regCmd s false fun s =>
    let q := s.qp qp
    if ctxmPending s then ctxmDone s 3
    else if !s.ownsQp ctx qp || qpCtx q.e.toNat ≠ ctx then ctxmDone s 1
    else if q.st ≠ 3 && q.st ≠ 5 then ctxmDone s 2
    else ctxmDone (s.setQp qp { q with e := BitVec.ofNat 512 (putBits q.e.toNat 32 20 (s.get F.CTXM_EP_EP)) }) 0)

end Sys2Proof.Machine
end

