-- ==== Sys2Proof/Machine/Keys.lean ====
section
/-! DEFINITION. Key tables and key slots (R470–R472, R492, R495). -/

namespace Sys2Proof.Machine

/-! ### Key tables -/

def ceKeyDone (s : State) (r : Nat) : State := s.result F.CE_KEY_EVENT_SEQ F.CE_KEY_EVENT_RESULT r

/-- Is the entry in use (R471)? -/
def ceKeyUsed (s : State) (ctx idx : Nat) : Bool :=
  (s.tr.qps.any fun q => q.2.st != 0 && qpCtx q.2.e.toNat == ctx && qpEnc q.2.e.toNat && qpKeyIdx q.2.e.toNat == idx)
    || (outstanding s).any fun d => !d.post && dKind d.w == 2 && dCtx d.w == ctx && ceKeyIdx d.w == idx

/-- The key check value: bytes 0 to 7 of the encryption of the zero block (R470). -/
def kcv (key : BitVec 256) : Nat := ofLE ((toBE 16 (aes key 0)).take 8)

/-- The key in CE_KEY_ENTRY: 32 bytes. -/
def ceKeyImage (s : State) : BitVec 256 := BitVec.ofNat 256 (ofBE (toLE 32 (s.getWords (F.CE_KEY_ENTRY 0).off 8)))

def State.setKeys (s : State) (m : SMap (Bool × BitVec 256)) : State := { s with ci := { s.ci with keys := m } }

/-- CE_KEY_SET. -/
def execCeKeySet (ctx idx : Nat) (use_ : Bool) (s : State) : Out :=
  .next (regCmd s false fun s =>
    if 256 ≤ ctx || 256 ≤ idx then ceKeyDone s 1
    else if ceKeyUsed s ctx idx then ceKeyDone s 5
    else
      let k := ceKeyImage s
      let s := s.setKeys (smSet s.ci.keys (256 * ctx + idx) (use_, k))
      ceKeyDone (s.set64 F.CE_KEY_KCV_LO F.CE_KEY_KCV_HI (kcv k)) 0)

/-- CE_KEY_CLEAR. -/
def execCeKeyClear (ctx idx : Nat) (s : State) : Out :=
  .next (regCmd s false fun s =>
    if 256 ≤ ctx || 256 ≤ idx then ceKeyDone s 1
    else if ceKeyUsed s ctx idx then ceKeyDone s 5
    else ceKeyDone (s.setKeys (smDel s.ci.keys (256 * ctx + idx))) 0)

/-- CE_KEY_READ. The spec states no USE and no key check value of an entry that is not valid: free values. -/
def execCeKeyRead (ctx idx : Nat) (s : State) : Out :=
  .next (regCmd s false fun s =>
    if 256 ≤ ctx || 256 ≤ idx then ceKeyDone s 1
    else
      match smFind s.ci.keys (256 * ctx + idx) with
      | some (u, k) =>
        let s := (s.set F.CE_KEY_EVENT_VALID 1).set F.CE_KEY_EVENT_USE (b2n u)
        ceKeyDone (s.set64 F.CE_KEY_KCV_LO F.CE_KEY_KCV_HI (kcv k)) 0
      | none =>
        let (v, s) := s.fresh
        let (u, s) := s.fresh
        let s := (s.set F.CE_KEY_EVENT_VALID 0).set F.CE_KEY_EVENT_USE (u.toNat % 2)
        ceKeyDone (s.set64 F.CE_KEY_KCV_LO F.CE_KEY_KCV_HI v.toNat) 0)

/-! ### Key slots -/

def keySlotDone (s : State) (r : Nat) : State := s.result F.KEY_SLOT_EVENT_SEQ F.KEY_SLOT_EVENT_RESULT r

/-- Slots of a kind: 0 program signing, 1 peer identity, 2 migration. -/
def slotCount (kind : Nat) : Nat := match kind with | 0 => 4 | 1 => 16 | 2 => 8 | _ => 0

/-- The active bank, and the other one (R484). -/
def actBank (s : State) : Bank := if s.flag F.BRUP_PROGRESS_FW_BANK then s.ci.bankB else s.ci.bankA
def altBank (s : State) : Bank := if s.flag F.BRUP_PROGRESS_FW_BANK then s.ci.bankA else s.ci.bankB
def setAct (s : State) (b : Bank) : State :=
  { s with ci := if s.flag F.BRUP_PROGRESS_FW_BANK then { s.ci with bankB := b } else { s.ci with bankA := b } }
def setAlt (s : State) (b : Bank) : State :=
  { s with ci := if s.flag F.BRUP_PROGRESS_FW_BANK then { s.ci with bankA := b } else { s.ci with bankB := b } }

/-- The settings: the program signing and the peer identity slots (R492). -/
def settingsOf (m : SMap (List Byte)) : SMap (List Byte) := smDrop (fun k => 32 ≤ k) m

/-- A slot is written, and the settings are stored in the active bank. -/
def putSlots (s : State) (kind : Nat) (m : SMap (List Byte)) : State :=
  let s := { s with ci := { s.ci with slots := m } }
  if kind < 2 then setAct s { actBank s with settings := settingsOf m } else s

/-- KEY_SLOT_SET. -/
def execKeySlotSet (kind slot : Nat) (s : State) : Out :=
  .next (regCmd s false fun s =>
    if slotCount kind ≤ slot then keySlotDone s 1
    else
      let bs := slice (toLE 64 (s.getWords (F.KEY_SLOT_DATA 0).off 16)) 0 (if kind = 0 then 64 else 32)
      keySlotDone (putSlots s kind (smSet s.ci.slots (16 * kind + slot) bs)) 0)

/-- KEY_SLOT_CLEAR. -/
def execKeySlotClear (kind slot : Nat) (s : State) : Out :=
  .next (regCmd s false fun s =>
    if slotCount kind ≤ slot then keySlotDone s 1
    else keySlotDone (putSlots s kind (smDel s.ci.slots (16 * kind + slot))) 0)

end Sys2Proof.Machine
end

