-- ==== Sys2Proof/Machine/Firmware.lean ====
section
/-! DEFINITION. Firmware sessions, staging, activation, settings and the relay (R484–R496). -/

namespace Sys2Proof.Machine

/-! ### Images (R485, R487) -/

def fwComp (b : List Byte) : Nat := fieldLE b 6 1
def fwVersion (b : List Byte) : Nat := fieldLE b 8 4
def fwExt (b : List Byte) : Nat := fieldLE b 0x10 4
def fwLen (b : List Byte) : Nat := fieldLE b 0x24 4
def fwBody (b : List Byte) : List Byte := slice (b.drop 512) 0 (fwLen b)

/-- Largest body of a component (R484). -/
def fwLimit (c : Nat) : Nat := [16, 8, 32, 4].getD c 0 * 2 ^ 20

/-- The component that an image becomes. -/
def fwComponent (b : List Byte) : Component :=
  { version := fwVersion b, body := fwBody b, ext := fwExt b, settingsFmt := fieldLE b 0x20 2,
    compat := (List.range 4).map fun i => (fieldLE b (0x40 + 4 * i) 2, fieldLE b (0x42 + 4 * i) 2) }

/-- Steps 1 to 4: the RESULT of the first check that fails, or 0. -/
def fwCheck4 (s : State) (b : List Byte) : Nat :=
  if fieldLE b 0 4 ≠ 0x49574656 || fieldLE b 4 2 ≠ 1 || 4 ≤ fwComp b || fwLimit (fwComp b) < fwLen b
      || b.length < 512 + fwLen b + 29792 then 1
  else if 4 ≤ fieldLE b 7 1 || !Config.slhDsa256s (Config.firmwareKey (fieldLE b 7 1)) (b.take (512 + fwLen b))
      (slice (b.drop (512 + fwLen b)) 0 29792) then 2
  else if slice (Config.shake256 (fwBody b)) 0 64 ≠ slice b 0x60 64 then 3
  else if fieldLE b 0xC 2 ≠ 0xFFFF && fieldLE b 0xC 2 ≠ s.get F.ID_DEVICE_DEVICE then 4
  else 0

/-- The unit serial (R543). -/
def unitSerial (s : State) : Nat := s.reg F.ID_SERIAL_LO.off + 2 ^ 32 * s.reg F.ID_SERIAL_HI.off

/-- Does component `c` of a set accept component `o` (R485)? -/
def accepts (cs : List Component) (c o : Nat) : Bool :=
  let (lo, hi) := (cs.getD c {}).compat.getD o (0, 0xFFFF)
  let v := (cs.getD o {}).version / 65536
  lo ≤ v && v ≤ hi

/-- Step 8: the first component found that another one does not accept. -/
def fwConflict (cs : List Component) : Option Nat :=
  ((List.range 16).find? fun i => i / 4 != i % 4 && !accepts cs (i / 4) (i % 4)).map (· % 4)

/-- An event of the firmware block: RESULT, the component, SEQ. -/
def fwDone (s : State) (r c : Nat) : State := (s.set F.FW_EVENT_COMP c).result F.FW_EVENT_SEQ F.FW_EVENT_RESULT r

/-- FW_VERc and FW_STAGED_VERc show the two sets (R496). -/
def showSets (s : State) : State :=
  (List.range 4).foldl (fun s c =>
    (s.setReg (F.FW_VER c).off ((actBank s).comps.getD c {}).version).setReg (F.FW_STAGED_VER c).off
      ((altBank s).comps.getD c {}).version) s

def fwSession (s : State) : Bool := s.flag F.FW_STATUS_SESSION
def fwActivating (s : State) : Bool := s.flag F.FW_STATUS_ACTIVATING

/-- Open a session: the inactive bank becomes a copy of the active set (R486). The second answer is the RESULT. -/
def fwOpen (s : State) : State × Nat :=
  if fwActivating s then (s, 11)
  else if fwSession s then (s, 10)
  else
    let s := setAlt s { altBank s with comps := (actBank s).comps }
    let s := showSets { s with ci := { s.ci with staged := [] } }
    ((s.set F.FW_STATUS_SESSION 1).set F.FW_STATUS_LAST_STAGED 0, 0)

/-- The nine steps on an image (R487): the RESULT and the component that it names; `written` says whether what step 9 writes to the
inactive bank reads back. -/
def fwJudge (s : State) (b : List Byte) (written : Bool) : Nat × Nat :=
  let c := fwComp b % 4
  let r := fwCheck4 s b
  if r ≠ 0 then (r, c)
  else if fieldLE b 0x18 8 ≠ 0 && fieldLE b 0x18 8 ≠ unitSerial s then (5, c)
  else if fieldLE b 0xE 2 ≠ s.get F.COMPAT_CLASS_CLASS || (s.flag F.COMPAT_CLASS_LOCKED && fwExt b ≠ 0) then (6, c)
  else if !fwSession s || (s.ci.staged.any fun x => c ≤ x) then (7, c)
  else
    match fwConflict ((altBank s).comps.set c (fwComponent b)) with
    | some o => (8, o)
    | none => (if written then 0 else 9, c)

/-- Stage an image. -/
def fwStageBytes (s : State) (b : List Byte) (written : Bool) : State × Nat :=
  let (r, c) := fwJudge s b written
  if r ≠ 0 then (fwDone (s.count F.FW_REFUSED) r c, r)
  else
    let s := setAlt s { altBank s with comps := (altBank s).comps.set c (fwComponent b) }
    let s := showSets { s with ci := { s.ci with staged := s.ci.staged ++ [c] } }
    (fwDone (s.set F.FW_STATUS_LAST_STAGED c) 0 c, 0)

/-- Bytes of context 0 at an address that FW_ADDR or FW_RELAY_BUF gives. -/
def fwRead (s : State) (a n : Nat) : State × Option (List Byte) :=
  match readOp s .ls 116 0 s.sq.opNo a n with
  | (s, .ok bs) => (s, some bs)
  | (s, _) => (s, none)

def fwAddr (s : State) : Nat := s.get64 F.FW_ADDR_LO F.FW_ADDR_HI

/-- FW_OPEN_SESSION. -/
def execFwOpenSession (s : State) : Out :=
  .next (regCmd s false fun s => inCtrl s fun s => let (s, r) := fwOpen s; fwDone s r 0)

/-- FW_STAGE: an image that memory does not give fails step 1. -/
def execFwStage (written : Bool) (s : State) : Out :=
  .next (regCmd s false fun s => inCtrl s fun s =>
    if fwActivating s then fwDone s 11 0
    else
      match fwRead s (fwAddr s) (s.reg F.FW_LEN.off) with
      | (s, some b) => settle (fwStageBytes s b written).1
      | (s, none) => settle (fwDone (s.count F.FW_REFUSED) 1 0))

/-- A session ends (R486). -/
def fwEnd (s : State) : State := State.set { s with ci := { s.ci with staged := [] } } F.FW_STATUS_SESSION 0

def fwCancel (s : State) : State × Nat :=
  if fwActivating s then (s, 11) else if !fwSession s then (s, 10) else (fwEnd s, 0)

/-- FW_CANCEL. -/
def execFwCancel (s : State) : Out := .next (regCmd s false fun s => inCtrl s fun s => let (s, r) := fwCancel s; fwDone s r 0)

/-- FW_LOCK_CLASS (R5, R488): acts only with CONFIRM = 0xC1A5. -/
def execFwLockClass (confirm : Nat) (s : State) : Out :=
  .next (regCmd s false fun s => inCtrl s fun s =>
    if confirm ≠ 0xC1A5 then s
    else
      match ((actBank s).comps ++ (altBank s).comps).findIdx? fun c => c.ext != 0 with
      | some i => fwDone s 6 (i % 4)
      | none => fwDone (s.set F.COMPAT_CLASS_LOCKED 1) 0 0)

/-! ### Held work (R69, R76, R489) -/

/-- Is the operation tracker empty but for the launches that are held, which run on only when work is released? -/
def trackerEmpty (s : State) : Bool :=
  let held := (s.sq.sigWait ++ s.sq.due ++ s.sq.lq).map (·.p.no) ++ s.pw.launches.map (·.2)
    ++ s.ho.frozen.flatMap fun z => z.2.launches.map (·.2)
  s.sq.trk.all fun e => held.contains e.1

/-- Is a thread resident on any sequencer? -/
def anyResident (s : State) : Bool := s.sq.thr.any fun e => e.2.st != .free

/-- Held work is released: launches go on from their first step, and the queues fetch. -/
def releaseHeld (s : State) : State :=
  let ls := s.pw.launches
  let s := { s with pw := { s.pw with launches := [] } }
  sqFetchAll (ls.foldl (fun s l => launchOrHold s l.1 l.2) s)

/-! ### Activation (R489–R491) -/

/-- FW_CMD OP 3 and PLDM ActivateFirmware: the RESULT of a refusal, or 0 once accepted. -/
def fwActivate (s : State) : State × Nat :=
  if !fwSession s || (altBank s).comps = (actBank s).comps || anyResident s then (s, 10)
  else if modePending s then (s, 12)
  else
    let dl := s.tk.count + max 1 (s.get F.FW_CTL_DRAIN_TICKS)
    (State.set { s with pw := { s.pw with drain := .fw dl } } F.FW_STATUS_ACTIVATING 1, 0)

/-- FW_ACTIVATE: an accepted activation reports its RESULT when it ends. -/
def execFwActivate (s : State) : Out :=
  .next (regCmd s false fun s => inCtrl s fun s => let (s, r) := fwActivate s; if r = 0 then s else fwDone s r 0)

/-- FW_ACTIVATION_DRAIN_DONE: the tracker is empty at a boundary; the units are asked to arm at the next. -/
def execFwActivationDrainDone (s : State) : Out :=
  .next (
    match s.pw.drain with
    | .fw _ =>
      if s.pst = 3 && trackerEmpty s then startChange { s with pw := { s.pw with drain := .none } } .fw (s.tk.count + 1) else s
    | _ => s)

/-- The activation ends without a new set: held work is released (R489). -/
def fwAbandon (s : State) (r : Nat) : State := releaseHeld (fwDone (s.set F.FW_STATUS_ACTIVATING 0) r 0)

/-- The drain's limit passes (R489). -/
def fwDrainTimeout (s : State) : State :=
  match s.pw.drain with
  | .fw dl =>
    if s.pst = 3 && dl ≤ s.tk.count && !trackerEmpty s then fwAbandon { s with pw := { s.pw with drain := .none } } 13 else s
  | _ => s

/-- FW_ACTIVATION_DRAIN_TIMEOUT. -/
def execFwActivationDrainTimeout (s : State) : Out := .next (fwDrainTimeout s)

/-- A per-class pause for all classes from every port whose link is up. -/
def pauseAll (s : State) (time : Nat) : State :=
  (List.range 32).foldl (fun s n => ctlSend s n 0xFF time) s

/-- The activation commits: the ports pause, and the staged set loads (R490). -/
def fwCommit (s : State) : State :=
  let s := pauseAll s 0xFFFF
  { s with ci := { s.ci with load := .loading } }

/-- Control firmware starts (R492): settings kept, converted, or reset. -/
def settingsStart (s : State) : State :=
  let b := actBank s
  let run := (b.comps.getD 2 {}).settingsFmt
  let keep (m : SMap (List Byte)) : SMap (List Byte) := m ++ smDrop (fun k => k < 32) s.ci.slots
  let s := (s.set F.FW_SETTINGS_RUNNING run).set F.FW_SETTINGS_STORED run
  if run < b.fmt then
    let s := setAct { s with ci := { s.ci with slots := keep [] } } { b with settings := [], fmt := run }
    (fwDone (s.set F.FW_STATUS_SETTINGS_RESET 1) 16 2).raise 15 2 0
  else
    (setAct { s with ci := { s.ci with slots := keep b.settings } } { b with fmt := run }).set F.FW_STATUS_SETTINGS_RESET 0

/-- The banks exchange roles; the settings go along (R490, R492). -/
def fwSwap (s : State) : State :=
  let old := actBank s
  let new := { altBank s with settings := settingsOf s.ci.slots, fmt := old.fmt }
  let s := setAlt s new
  let b := !s.flag F.BRUP_PROGRESS_FW_BANK
  let s := showSets (State.set { s with ci := { s.ci with active := b } } F.BRUP_PROGRESS_FW_BANK (b2n b))
  if old.comps.getD 0 {} = new.comps.getD 0 {} then s else (List.range 32).foldl linkGoesDown s

/-- FW_LOAD_COMPLETE: the new set has loaded, or component `failed` has failed its start checks and the previous set runs on
(R491). -/
def execFwLoadComplete (failed : Option Nat) (s : State) : Out :=
  .next (
    if s.ci.load ≠ .loading || s.pst ≠ 3 then s else
    match failed with
    | none =>
      let s := pauseAll (fwSwap s) 0
      settle (settingsStart (fwEnd { s with ci := { s.ci with load := .loaded } }))
    | some c =>
      let s := fwEnd (pauseAll { s with ci := { s.ci with load := .none } } 0)
      let s := releaseHeld (State.set (settingsStart s) F.FW_STATUS_ACTIVATING 0)
      settle ((fwDone s 15 (c % 4)).raise 15 (c % 4) 0))

/-- Step 6 of R490, at a boundary. -/
def fwBoundary (s : State) : State :=
  if s.ci.load = .loaded then
    let s := { s with ci := { s.ci with load := .none } }
    fwDone (releaseHeld (s.set F.FW_STATUS_ACTIVATING 0)) 0 0
  else s

/-! ### The relay (R493, R494) -/

def relayCount (h : List Byte) : Nat := fieldLE h 4 4
def relayLen (h : List Byte) : Nat := 64 + 4 * relayCount h + fieldLE h 8 4
def relayEntry (p : List Byte) (i : Nat) : Nat := fieldLE p (64 + 4 * i) 4

/-- Step 1: the header check. -/
def relayOk (p : List Byte) : Bool :=
  let n := relayCount p
  fieldLE p 0 4 == 0x59524C56 && 1 ≤ n && n ≤ 4096
    && fieldLE p 0x10 8 == (crc64 (splice (slice p 0 (64 + 4 * n)) 0x10 (List.replicate 8 0#8))).toNat
    && (List.range n).all fun i => bits (relayEntry p i) 20 12 < n

/-- The relay peers that take the package: enabled, their queue pair context 0's and in RTS, their endpoint a child of this
adapter's entry (step 3). -/
def relayTargets (s : State) (p : List Byte) : List Nat :=
  let n := relayCount p
  match (List.range n).find? fun i => bits (relayEntry p i) 0 20 == s.get F.TRN_ID_ENDPOINT with
  | none => []
  | some i =>
    ((List.range 16).filter fun k => s.flag (F.FW_RELAY_PEER_EN k)).filterMap fun k =>
      let qn := s.get (F.FW_RELAY_PEER_QP k)
      let q := s.qp qn
      let ep := qpRemoteEp q.e.toNat
      if q.st == 3 && qpCtx q.e.toNat == 0 && ((List.range n).any fun j =>
          j != i && bits (relayEntry p j) 0 20 == ep && bits (relayEntry p j) 20 12 == i) then some qn
      else none

/-- A SEND of `n` bytes at `a` on a queue pair of context 0, by the control complex. -/
def relaySend (s : State) (a n qn : Nat) : State :=
  let w := 10 + 2 ^ 64 * (2 ^ 14 * qn + 2 ^ 32 * (n - 1)) + 2 ^ 128 * a
  acceptPost (s.count F.FW_RELAY_FWD)
    { w := BitVec.ofNat 256 w, th := ⟨0, 0⟩, prog := 0, live := 0, ew := none, eng := relayEng, opA := 0#64, opB := 0#64,
      post := true, no := s.sq.opNo, ts := false, bc := 0, bb := 0 } false

/-- Steps 1 to 4 on the package at `a`: the RESULT; `written` as in `fwJudge`. -/
def relayRun (s : State) (a : Nat) (written : Bool) : State × Nat :=
  match fwRead s a 64 with
  | (s, none) => (s.count F.FW_RELAY_BAD, 1)
  | (s, some h) =>
    match fwRead s a (relayLen h) with
    | (s, none) => (s.count F.FW_RELAY_BAD, 1)
    | (s, some p) =>
      if !relayOk p then (s.count F.FW_RELAY_BAD, 1)
      else
        let img := p.drop (64 + 4 * relayCount p)
        let r := fwCheck4 s img
        if r ≠ 0 then (fwDone s r (fwComp img % 4), 0)
        else
          let s := (relayTargets s p).foldl (fun s qn => relaySend s a p.length qn) s
          if s.flag F.FW_CTL_AUTO_STAGE && !fwActivating s then
            let s := if fwSession s then s else (fwOpen s).1
            ((fwStageBytes s img written).1, 0)
          else (s, 0)

/-- FW_RELAY: a package of the adapter's own, from FW_ADDR; what it stages reads back. -/
def execFwRelay (s : State) : Out :=
  .next (regCmd s false fun s => inCtrl s fun s =>
    if fwActivating s then fwDone s 11 0
    else
      let seq := s.get F.FW_EVENT_SEQ
      let (s, r) := relayRun s (fwAddr s) true
      settle (if s.get F.FW_EVENT_SEQ ≠ seq then s else fwDone s r 0))

/-- RELAY_PACKAGE_ARRIVAL: a package has arrived whole in the buffer at FW_RELAY_BUF. -/
def execRelayPackageArrival (written : Bool) (s : State) : Out :=
  .next (inActive s fun s => inCtrl s fun s =>
    settle (relayRun (s.count F.FW_RELAY_RX) (s.get64 F.FW_RELAY_BUF_LO F.FW_RELAY_BUF_HI) written).1)

end Sys2Proof.Machine
end

