-- ==== Sys2Proof/Machine/Holding.lean ====
section
/-! DEFINITION. HOLDING_UNIT_ACCESS: an HBM controller or a staging bank performs one tile access (R284–R288). -/

namespace Sys2Proof.Machine

/-- The accesses that reach the unit join those that wait there, and one of them is performed. A unit that the variant does
not have (R2), and an address that the unit does not hold, fault. -/
def execHoldingUnitAccess (u : HoldUnit) (arrivals : List TileAccess) (s : State) : Out :=
  if !holdPresent s u || arrivals.any fun a => !holdServes s u a then .fault .noSuchUnit
  else .next (inActive s fun s => settle (holdServe s u (smGet s.mem.wait (holdKey u) [] ++ arrivals)))

end Sys2Proof.Machine
end

