-- ==== Sys2Proof/Machine/Power.lean ====
section
/-! DEFINITION. Rails, pins and resets (R49–R51, R60, R61, R66, R531), Bring-up (R63–R67), Rest (R68–R77) and power capping
(R79–R84, R91). -/

namespace Sys2Proof.Machine

/-! ### Resets -/

/-- A register keeps its value of `t`. -/
def keepReg (t s : State) (off : Nat) : State :=
  match smFind t.regs off with
  | none => s
  | some v => { s with regs := smSet s.regs off v }

/-- Everything is reset but what is set at manufacture or kept in NOR (COMPAT_CLASS.LOCKED, PWR_LIFE, the firmware banks and which
of them is active), FCOL_SAFE_CAUSE, the pins, the cartridges and their latches, the addresses of the I3C target, which VAUX_3V3
powers, what has left the adapter, and the commands that wait (R507, R541, R543). SAFE_N is released (R51). -/
def resetAll (t : State) : State :=
  let bays : SMap Bay := smMap (fun _ (b : Bay) => ({ cart := b.cart } : Bay)) t.fb.bays
  let s := { State.reset with
    pending := t.pending, variant := t.variant, out := t.out, free := t.free,
    pw := { Power.reset with
      vaux := t.pw.vaux, v54 := t.pw.v54, held := t.pw.held, straps := t.pw.straps, perst := t.pw.perst,
      tjSum := t.pw.tjSum, tjTime := t.pw.tjTime },
    mem := { Mem.reset with refill := t.mem.refill, rsvLoad := t.mem.rsvLoad },
    fb := { ports := [], bays := bays },
    ci := { Cipher.reset with
      bankA := t.ci.bankA, bankB := t.ci.bankB, active := t.ci.active, eid := t.ci.eid, dynAddr := t.ci.dynAddr } }
  let s := [F.COMPAT_CLASS.off, F.PWR_LIFE.off, F.FCOL_SAFE_CAUSE.off].foldl (keepReg t) s
  let s := if t.get F.PWR_STATE_STATE = 5 then s.emit (.safeN false) else s
  (List.range (nBay t)).foldl (fun s m => s.set (F.LB_STATUS_LATCH m) (t.get (F.LB_STATUS_LATCH m))) s

/-- Standby, and what the loss of V54_IN takes with it: HBM, the staging banks, the running day of life accounting (R61, R541). -/
def toStandby (s : State) : State :=
  let s := resetAll { s with pw := { s.pw with tjSum := 0, tjTime := 0 } }
  let s := (List.range (nDom s)).foldl refillBank s
  s.set F.PWR_STATE_STATE 1

/-- Bring-up begins (R49, R60, R63). -/
def startBringUp (s : State) (straps : Nat) : State :=
  let s := { s with pw := { s.pw with held := false, straps := straps % 4 } }
  ((s.set F.PWR_STATE_STATE 2).set F.BRUP_PROGRESS_CODE 0x10).set F.BRUP_PROGRESS_MGMT_PORT straps

/-! ### Rails and pins -/

/-- VAUX_3V3_APPLIED: from Off to Standby. -/
def execVaux3v3Applied (s : State) : Out :=
  .next (if s.pst = 0 then State.set { s with pw := { s.pw with vaux := true } } F.PWR_STATE_STATE 1 else s)

/-- Off: nothing is powered, and FCOL_SAFE_CAUSE and the addresses of the I3C target are gone. -/
def toOff (s : State) : State :=
  let s := { s with pw := { s.pw with vaux := false }, ci := { s.ci with eid := 0, dynAddr := none } }
  (s.resetRegs F.FCOL_SAFE_CAUSE.off (F.FCOL_SAFE_CAUSE.off + 4)).set F.PWR_STATE_STATE 0

/-- VAUX_3V3_REMOVED: from Standby to Off. -/
def execVaux3v3Removed (s : State) : Out := .next (if s.get F.PWR_STATE_STATE = 1 then toOff s else s)

/-- VAUX_3V3_COLLAPSE (R531): the module turns its V54_IN load off, as for a loss of V54_IN. -/
def execVaux3v3Collapse (s : State) : Out :=
  .next (if 2 ≤ s.get F.PWR_STATE_STATE then toStandby { s with pw := { s.pw with v54 := false } } else s)

/-- V54_IN_READY: from Standby to Bring-up, unless MOD_RESET_N is still low (R60). -/
def execV54InReady (straps : Nat) (s : State) : Out :=
  .next (
    if s.get F.PWR_STATE_STATE ≠ 1 then s
    else
      let s := { s with pw := { s.pw with v54 := true } }
      if s.pw.held then s else startBringUp s straps)

/-- V54_IN_LOSS (R61). -/
def execV54InLoss (s : State) : Out :=
  .next (
    let s := { s with pw := { s.pw with v54 := false } }
    if 2 ≤ s.get F.PWR_STATE_STATE then toStandby s else s)

/-- MOD_RESET_ASSERT (R50): the adapter is in reset while the pin is low, its I3C addresses with it; PWR_STATE reads its reset value,
or Standby without V54_IN. In Off the contact does not act, and only its level is noted (R43). -/
def execModResetAssert (s : State) : Out :=
  .next (
    let s := { s with pw := { s.pw with held := true } }
    if s.get F.PWR_STATE_STATE = 0 then s
    else
      let s := resetAll { s with ci := { s.ci with eid := 0, dynAddr := none } }
      if s.pw.v54 then s else s.set F.PWR_STATE_STATE 1)

/-- MOD_RESET_RELEASE: Bring-up begins, or the adapter waits in Standby for V54_IN. -/
def execModResetRelease (straps : Nat) (s : State) : Out :=
  .next (
    if !s.pw.held then s
    else if s.pw.v54 && s.get F.PWR_STATE_STATE != 0 then startBringUp s straps
    else { s with pw := { s.pw with held := false } })

/-- PERST_N_ASSERT: the port's link goes down, and its functions are in reset (R50, R457). -/
def execPerstNAssert (h : Nat) (s : State) : Out :=
  .next (
    if 4 ≤ h then s
    else
      let s := { s with pw := { s.pw with perst := putBit s.pw.perst h false, trained := putBit s.pw.trained h false } }
      if s.pst ≤ 1 then s else hostPortLost s h)

/-- PERST_N_RELEASE: from stage 6 on the port's training starts at once (R66). -/
def execPerstNRelease (h : Nat) (s : State) : Out :=
  .next (
    if 4 ≤ h then s
    else
      let s := { s with pw := { s.pw with perst := putBit s.pw.perst h true } }
      let late := s.get F.BRUP_PROGRESS_CODE == 0x60 || s.get F.BRUP_PROGRESS_CODE == 0x70
      if 2 ≤ s.pst && late then { s with pw := { s.pw with trained := putBit s.pw.trained h true } } else s)

/-! ### Bring-up (R63–R67) -/

def State.brCode (s : State) : Nat := s.get F.BRUP_PROGRESS_CODE

/-- Is a stage running? -/
def inStage (s : State) : Bool := s.pst == 2 && !s.pw.held && !s.pw.halt && 0x10 ≤ s.brCode && s.brCode ≤ 0x60

/-- Bring-up halts (R65). -/
def brHalt (s : State) (detail : Nat) : State :=
  let s := { s with pw := { s.pw with halt := true } }
  (s.set F.BRUP_PROGRESS_CODE (s.brCode / 16 * 16 + 0xE)).set F.BRUP_PROGRESS_DETAIL detail

/-- A unit that self-test found failed: the smallest fence that contains it (R64). -/
def testFence : TestUnit → Option FUnit
  | .essential _ => none
  | .engine e => some (.engine e)
  | .sequencer d => some (.domain d)
  | .dataPartition d => some (.domain d)
  | .port p => some (.port p)
  | .ioDie i => some (.ioDie i)

/-- Is the unit on this variant? -/
def fencePresent (s : State) : FUnit → Bool
  | .engine e => e < nEng s
  | .domain d => d < nDom s
  | .port n => portPresent s n
  | .ioDie i => i < 4
  | .stack k => k < nStack s
  | .bay m => m < nBay s

def selfTestFence (s : State) (u : FUnit) : State :=
  if !fencePresent s u then s else
  let s := (fenceUnit s u).set F.BRUP_PROGRESS_DEGRADED 1
  { s with fc := { s.fc with selfTest := s.fc.selfTest ++ [u] } }

/-- The number of the first failed essential unit. -/
def firstEssential : List TestUnit → Option Nat
  | [] => none
  | .essential n :: _ => some n
  | .engine _ :: us => firstEssential us
  | .sequencer _ :: us => firstEssential us
  | .dataPartition _ :: us => firstEssential us
  | .port _ :: us => firstEssential us
  | .ioDie _ :: us => firstEssential us

/-- What a stage leaves when it ends well, and the entry of the next. -/
def stageDone (s : State) : State :=
  let c := s.brCode
  let s := s.set F.BRUP_PROGRESS_CODE (c + 0x10)
  if c = 0x20 then (List.range (nDom s)).foldl powerBank s
  else if c = 0x30 then s.set F.BRUP_PROGRESS_FW_BANK (b2n s.ci.active)
  else if c = 0x40 then settle (settingsStart (showSets (loadReserve s)))
  else if c = 0x50 then
    let closed := (List.range (nBay s)).filter fun m => s.flag (F.LB_STATUS_LATCH m) && !s.bayFenced m
    let s := closed.foldl (fun s m => s.set (F.LB_STATUS_STATE m) 1) s
    zeroHbm { s with pw := { s.pw with trained := s.pw.perst } }
  else s

/-- Stage 4 fails: the other bank, once; then a halt. -/
def stageFirmware (s : State) (detail : Nat) : State :=
  if s.flag F.BRUP_PROGRESS_FW_FALLBACK then brHalt s detail
  else
    let b := !s.flag F.BRUP_PROGRESS_FW_BANK
    State.set { s.set F.BRUP_PROGRESS_FW_FALLBACK 1 with ci := { s.ci with active := b } } F.BRUP_PROGRESS_FW_BANK (b2n b)

/-- A stage fails. Stage 6 never halts. -/
def stageFailed (s : State) (detail : Nat) : State :=
  if s.brCode = 0x60 then stageDone s
  else if s.brCode = 0x40 then stageFirmware s detail
  else brHalt s detail

/-- BRING_UP_STAGE_COMPLETE. Failed units are self-test's, in stage 2. -/
def execBringUpStageComplete (r : StageResult) (s : State) : Out :=
  .next (
    if !inStage s then s
    else
      match r with
      | .clean => stageDone s
      | .failed d => stageFailed s d
      | .failedUnits us =>
        if s.brCode ≠ 0x20 then s
        else
          match firstEssential us with
          | some n => brHalt s n
          | none => stageDone ((us.filterMap testFence).foldl selfTestFence s))

/-- BRING_UP_STAGE_LIMIT: the spec gives no DETAIL for a stage that runs out of time, which is a free value. -/
def execBringUpStageLimit (s : State) : Out :=
  .next (
    if !inStage s then s
    else
      let (v, s) := s.fresh
      stageFailed s (v.toNat % 256))

/-- ENTER_ACTIVE (R67). -/
def execEnterActive (s : State) : Out :=
  .next (if s.pst = 2 && s.brCode = 0x70 then (s.set F.PWR_STATE_STATE 3).setReg F.MODE_EPOCH.off 0 else s)

/-! ### Power events and Rest (R68–R77) -/

def pwrEvent (s : State) (last : Nat) : State := s.result F.PWR_EVENT_SEQ F.PWR_EVENT_LAST last

/-- Is a drain for Rest running? -/
def restDraining (s : State) : Bool := match s.pw.drain with | .rest _ => true | _ => false

/-- PWR_CMD.OP (R68, R69, R76, R77, R110). That result 2 comes before 6 where both refusals hold is DESIGN CHOICE (log entry 17): R68 and
R110 give no order. -/
def pwrOp (s : State) (op : Nat) : State :=
  if op = 1 then
    if s.pst ≠ 3 || restDraining s then pwrEvent s 5
    else if anyResident s then pwrEvent s 2
    else if modePending s then pwrEvent s 6
    else { s with pw := { s.pw with drain := .rest (s.tk.count + max 1 (s.get F.PWR_CMD_DRAIN_TICKS)) } }
  else if op = 2 then (if s.pst = 4 then startRestExit s else pwrEvent s 5)
  else s

/-- A write of PWR_CMD.OP by the management physical function; one by another function is ignored and counted (R68, R76). -/
def pwrCmd (s : State) (mgmt : Bool) (op : Nat) : State :=
  if mgmt then regCmd s true fun s => pwrOp s op
  else if 2 ≤ s.pst && s.pst ≠ 5 then s.ignWrite
  else s

/-- REST_REQUEST: PWR_CMD.OP = 1. -/
def execRestRequest (mgmt : Bool) (s : State) : Out := .next (pwrCmd s mgmt 1)

/-- REST_EXIT_REQUEST: PWR_CMD.OP = 2. -/
def execRestExitRequest (mgmt : Bool) (s : State) : Out := .next (pwrCmd s mgmt 2)

/-- REST_DRAIN_DONE: the tracker is empty at a boundary; the arm follows at the next (R69, R70). -/
def execRestDrainDone (s : State) : Out :=
  .next (
    if s.pst = 3 && restDraining s && trackerEmpty s then
      startChange { s with pw := { s.pw with drain := .none } } .rest (s.tk.count + 1)
    else s)

/-- The drain's limit passes (R69). -/
def restDrainTimeout (s : State) : State :=
  match s.pw.drain with
  | .rest dl =>
    if s.pst = 3 && dl ≤ s.tk.count && !trackerEmpty s then
      releaseHeld (pwrEvent { s with pw := { s.pw with drain := .none } } 3)
    else s
  | _ => s

/-- REST_DRAIN_TIMEOUT. -/
def execRestDrainTimeout (s : State) : Out := .next (restDrainTimeout s)

/-- Optics off in Rest: lasers dark, every link down (R73). -/
def opticsDown (s : State) : State :=
  let s := (List.range (nBay s)).foldl (fun s m => s.setReg (F.LB_OUTPUT m).off 0) s
  (List.range 32).foldl linkGoesDown s

/-- The commit into Rest (R70, R71, R73, R75, R425). -/
def restCommit (s : State) : State :=
  let off := s.flag F.PWR_CMD_OPTICS_OFF
  let lit := (List.range (nBay s)).filter fun m => lasersOn s m
  let s := lit.foldl writeLife s
  let s := if off then opticsDown s else s
  let s := (s.set F.PWR_STATE_STATE 4).set F.PWR_STATE_REST_OPTICS (b2n (!off))
  let s := { s with pw := { s.pw with opticsOff := off, wake := s.flag F.PWR_CMD_WAKE_DB, parts := false, sref := true } }
  pwrEvent s 0

/-- Rest entry is aborted (R70). -/
def restAbort (s : State) : State := releaseHeld (pwrEvent s 4)

/-- The units of R113 that the variant has, as bits. -/
def presentUnits (s : State) : Nat :=
  (List.range 30).foldl (fun m u =>
    putBit m u (if u < 16 then u < nDom s else if u < 20 then u < 16 + nSync s else true)) 0

/-- Of them, those that are fenced. -/
def fencedUnits (s : State) : Nat :=
  (List.range 30).foldl (fun m u =>
    putBit m u (if u < 16 then s.domFenced u else if 22 ≤ u && u ≤ 25 then bit s.fc.ioDies (u - 22) else false)) 0

/-- The units that must arm, and have not, as bits (R111, R113). -/
def notArmed (s : State) (armed : Nat) : Nat :=
  let p := presentUnits s
  let need := p ^^^ (p &&& fencedUnits s)
  need ^^^ (need &&& armed)

/-- REST_EXIT_UNIT_ARMED. -/
def execRestExitUnitArmed (u : Nat) (s : State) : Out :=
  .next (
    match s.pw.restExit with
    | none => s
    | some b => if s.pst = 4 && u < 30 && bit (notArmed s b) u then
        { s with pw := { s.pw with restExit := some (putBit b u true) } } else s)

/-- The epoch advances with a committed change, and MODE_EVENT shows it (R111, R122). -/
def modeDone (s : State) (kind : Nat) : State :=
  let s := (s.setReg F.MODE_STATUS.off 0).setReg F.MODE_EPOCH.off ((s.reg F.MODE_EPOCH.off + 1) % 2 ^ 32)
  (s.set F.MODE_EVENT_KIND kind).result F.MODE_EVENT_SEQ F.MODE_EVENT_RESULT 0

/-- REST_EXIT_COMMIT (R76): at a boundary at which every unit that is not fenced has armed. The completions of Rest are written (R75). -/
def execRestExitCommit (s : State) : Out :=
  .next (
    match s.pw.restExit with
    | none => s
    | some b =>
      if s.pst = 4 && notArmed s b = 0 then
        let s := { s with pw := { s.pw with restExit := none, opticsOff := false } }
        let s := modeDone (s.set F.PWR_STATE_STATE 3) 5
        releaseHeld (pwrEvent s 1).cqDrainAll
      else s)

/-- REST_EXIT_ARM_TIMEOUT: 5 ms have passed since the start; each unit that has not armed is ARM_FAIL's (R76, R503). -/
def execRestExitArmTimeout (s : State) : Out :=
  .next (
    match s.pw.restExit with
    | none => s
    | some b =>
      if s.pst = 4 then settle ((bitList (notArmed s b) 30).foldl (fun s u => s.raise 13 u 0) s) else s)

/-- Does the I3C target answer: from Standby on, when not in reset (R48)? That it does not answer while MOD_RESET_N is low is a reading
(DEDUCED, log entry 14): R48 says that the bus works in Standby and every later state, R50 that the adapter is then in reset. -/
def i3cOn (s : State) : Bool := s.pst != 0 && !s.pw.held

/-- A message reaches the target at its dynamic address only: it does not answer as a legacy I²C target (R48). -/
def onBus (s : State) (f : State → State) : State := if i3cOn s && s.ci.dynAddr.isSome then f s else s

/-- A response to a vendor-defined message (R482). -/
def vendor (s : State) (cmd status : Nat) (data : List Byte) : State :=
  s.emit (.i3c ([0xC0#8, 0xA4#8] ++ toLE 1 cmd ++ toLE 1 status ++ data))

/-- SET_POWER (R483): the fields, then OP, as a write of context 0. -/
def execSetPower (op flags drainTicks : Nat) (s : State) : Out :=
  .next (onBus s fun s =>
    if s.pst ≠ 3 && s.pst ≠ 4 then vendor s 5 3 []
    else if op ≠ 1 && op ≠ 2 then vendor s 5 2 []
    else if s.ci.quoting.isSome then vendor s 5 1 []
    else
      let s := (s.set F.PWR_CMD_OPTICS_OFF flags).set F.PWR_CMD_WAKE_DB (flags / 2)
      pwrOp (vendor (s.set F.PWR_CMD_DRAIN_TICKS drainTicks) 5 0 []) op)

/-! ### Capping (R79–R84, R91) -/

/-- The values of PWR_CAP and PWR_THERM in effect, as they act (R90). -/
def capLimit (s : State) : Nat := min 1225 (max 600 (s.getL F.PWR_CAP_LIMIT_W))
def capTicks (s : State) : Nat := max 16 (s.getL F.PWR_CAP_INTERVAL_TICKS)
def capOn (s : State) : Bool := s.pst == 3 && s.getL F.PWR_CAP_ENABLE == 1

/-- Does the tick-scheduled work fit level `l` on engine `e`? -/
def fitsLevel (s : State) (l e : Nat) : Bool := tsReserved s e ≤ capacity s.tickNs l

/-- The protected floor (R80). -/
def protectedFloor (s : State) : Nat :=
  (([3, 2, 1, 0].find? fun l => (List.range (nEng s)).all fun e => fitsLevel s l e)).getD 0

/-- The hard limit's levers (R82). -/
def hardLevers (s : State) (tj : Nat) : State :=
  if capOn s && s.getL F.PWR_THERM_HARD_C ≤ tj then
    ((s.set F.PWR_STATE_CLK_LEVEL 3).set F.PWR_STATE_BE_SHARE 0).set F.PWR_STATE_THERM_HARD 1
  else s

/-- The tick unit signals the programs declared late that carry LATE_SIG (R83, R393). -/
def declareLate (s : State) : State :=
  let late (p : Program) : Bool :=
    p.tickSched && p.lateSig && (List.range (nEng s)).any fun e => bit p.engines e && !fitsLevel s 3 e
  ((s.sq.progs.map (·.2)).filter late).foldl (fun s p =>
    s.syncSend { req := 81, obj := p.syncBase, ctx := none, op := .signal 1, th := none }) s

/-- The hard thermal limit at a boundary. -/
def hardThermal (s : State) (tj : Nat) : State :=
  let t := hardLevers s tj
  if capOn s && s.getL F.PWR_THERM_HARD_C ≤ tj && protectedFloor s < 3 then declareLate t else t

/-- CAP_SATURATED is set: its source reports that (R498). -/
def saturate (s : State) : State :=
  if s.flag F.PWR_STATE_CAP_SATURATED then s else (s.set F.PWR_STATE_CAP_SATURATED 1).raise 26 0 0

/-- Over the limit: the share first, then the clock. -/
def capCut (s : State) : State :=
  let share := s.get F.PWR_STATE_BE_SHARE
  let clk := s.get F.PWR_STATE_CLK_LEVEL
  if 0 < share then s.set F.PWR_STATE_BE_SHARE (share - 25)
  else if clk < protectedFloor s then s.set F.PWR_STATE_CLK_LEVEL (clk + 1)
  else saturate s

/-- Four calm intervals: the clock back first, then the share. -/
def capRaise (s : State) : State :=
  let s := (s.set F.PWR_STATE_THERM_HARD 0).set F.PWR_STATE_CAP_SATURATED 0
  let share := s.get F.PWR_STATE_BE_SHARE
  let clk := s.get F.PWR_STATE_CLK_LEVEL
  if 0 < clk then s.set F.PWR_STATE_CLK_LEVEL (clk - 1)
  else if share < 100 then s.set F.PWR_STATE_BE_SHARE (share + 25)
  else s

/-- One control interval (R82). -/
def capInterval (s : State) (tj avgW : Nat) : State :=
  let hard := s.flag F.PWR_STATE_THERM_HARD
  let soft := s.getL F.PWR_THERM_SOFT_C
  let above := capLimit s < avgW || soft ≤ tj
  let calm := 100 * avgW < 95 * capLimit s && tj + 5 < soft && (!hard || tj + 5 < s.getL F.PWR_THERM_HARD_C)
  let run := if calm then s.pw.calm + 1 else 0
  let s := { s with pw := { s.pw with calm := run } }
  if above && !hard then capCut s else if 4 ≤ run then capRaise s else s

/-- CAP_INTERVAL_END: at the boundary that ends the interval. Writes of PWR_CAP and PWR_THERM take effect from here on (R91). -/
def execCapIntervalEnd (tj avgW : Nat) (s : State) : Out :=
  .next (
    if (s.pst ≠ 3 && s.pst ≠ 4) || s.pw.capTicks + 1 < capTicks s then s
    else
      let s := s.set F.PWR_TELEM_AVG_W avgW
      let s := if capOn s then capInterval (hardLevers s tj) tj avgW else s
      let s := { s with
        late := smDrop (fun o => o == F.PWR_CAP.off || o == F.PWR_THERM.off) s.late, pw := { s.pw with capTicks := 0 } }
      settle s)

/-- A write of PWR_CAP or PWR_THERM (R91). -/
def pwrThermWrite (s : State) (therm : Bool) (v : Nat) : State :=
  if !therm then writeLate s F.PWR_CAP.off v
  else if bits v 8 8 ≤ bits v 0 8 || 110 < bits v 8 8 then s.ignWrite
  else writeLate s F.PWR_THERM.off v

/-- PWR_THERM_WRITE. -/
def execPwrThermWrite (therm : Bool) (v : Word32) (s : State) : Out :=
  .next (regCmd s true fun s => pwrThermWrite s therm v.toNat)

/-- PWR_LIFE_WRITE: a day has passed. TJ_AVG is the mean over the days before and this one; where it falls between two whole
degrees, which of them shows is a free value (R541). -/
def execPwrLifeWrite (s : State) : Out :=
  .next (
    if s.pst < 2 then s
    else
      let days := s.get F.PWR_LIFE_POWERED_DAYS
      let time := s.pw.tjTime
      let num := days * s.get F.PWR_LIFE_TJ_AVG * time + s.pw.tjSum
      let den := (days + 1) * time
      let (v, s) := s.fresh
      let avg := if time = 0 then s.get F.PWR_LIFE_TJ_AVG
        else num / den + (if num % den = 0 then 0 else v.toNat % 2)
      let s := (s.set F.PWR_LIFE_POWERED_DAYS (min 0xFFFF (days + 1))).set F.PWR_LIFE_TJ_AVG avg
      { s with pw := { s.pw with tjSum := 0, tjTime := 0 } })

end Sys2Proof.Machine
end

