-- ==== Sys2Proof/Machine/Mctp.lean ====
section
/-! DEFINITION. The management bus: I3C addresses (R48), MCTP control and PLDM (R481, R482; log entry 11), and the vendor-defined
messages of identity and attestation (R479, R480, R482). -/

namespace Sys2Proof.Machine

/-! ### Addresses and MCTP control -/

/-- The target's static address. -/
def staticAddr : Nat := 0x3A

/-- SETDASA to a static address (R48). That it replaces an address the target already holds, which ENTDAA leaves, is DESIGN CHOICE
(log entry 14): the spec does not say. -/
def execSetdasa (target addr : Nat) (s : State) : Out :=
  .next (if i3cOn s && target = staticAddr then { s with ci := { s.ci with dynAddr := some (addr % 128) } } else s)

/-- ENTDAA: a target that has an address takes none. -/
def execEntdaa (addr : Nat) (s : State) : Out :=
  .next (if i3cOn s && s.ci.dynAddr.isNone then { s with ci := { s.ci with dynAddr := some (addr % 128) } } else s)

/-- A command that succeeds: completion code 0 and its data. -/
def reply (s : State) (data : List Byte) : State := s.emit (.i3c (0#8 :: data))

/-- A command that is refused: the spec gives no completion code, which is a free value. -/
def refuseMsg (s : State) : State := let (v, s) := s.fresh; s.emit (.i3c [v.truncate 8])

/-- SET_ENDPOINT_ID. -/
def execSetEndpointId (eid : Nat) (s : State) : Out :=
  .next (onBus s fun s => reply { s with ci := { s.ci with eid := eid % 256 } } (toLE 1 eid))

/-- GET_ENDPOINT_ID. -/
def execGetEndpointId (s : State) : Out := .next (onBus s fun s => reply s (toLE 1 s.ci.eid))

/-- Free bytes: `n` of one free value. -/
def freeData (s : State) (n : Nat) : List Byte × State := let (v, s) := s.fresh; (toLE n v.toNat, s)

/-- GET_MCTP_VERSION_SUPPORT: the version numbers are not in the spec, and are free values; a message type that R481 does not list is
refused. -/
def execGetMctpVersionSupport (msgType : Nat) (s : State) : Out :=
  .next (onBus s fun s =>
    if msgType = 0 || msgType = 1 || msgType = 0x7E || msgType = 0xFF then (let (d, s) := freeData s 4; reply s (1#8 :: d))
    else refuseMsg s)

/-- GET_MESSAGE_TYPE_SUPPORT: the types of R481. -/
def execGetMessageTypeSupport (s : State) : Out := .next (onBus s fun s => reply s [3#8, 0x00#8, 0x01#8, 0x7E#8])

/-! ### PLDM base -/

/-- GETTID: the spec gives no terminus ID. -/
def execGettid (s : State) : Out := .next (onBus s fun s => let (d, s) := freeData s 1; reply s d)

/-- GETPLDMTYPES: types 0 and 5. -/
def execGetpldmtypes (s : State) : Out := .next (onBus s fun s => reply s [0#8, 5#8])

/-- GETPLDMCOMMANDS: the commands of R481 for a type. -/
def execGetpldmcommands (type : Nat) (s : State) : Out :=
  .next (onBus s fun s =>
    if type = 0 then reply s [0x02#8, 0x04#8, 0x05#8]
    else if type = 5 then
      reply s [0x01#8, 0x02#8, 0x10#8, 0x13#8, 0x14#8, 0x15#8, 0x16#8, 0x17#8, 0x18#8, 0x1A#8, 0x1B#8, 0x1C#8, 0x1D#8]
    else refuseMsg s)

/-! ### PLDM firmware update -/

/-- QUERYDEVICEIDENTIFIERS: the PCI vendor and device IDs. -/
def execQuerydeviceidentifiers (s : State) : Out :=
  .next (onBus s fun s => reply s (toLE 2 0xC0A4 ++ toLE 2 (s.get F.ID_DEVICE_DEVICE)))

/-- One component: classification 0xFFFF, its number, and the stamps of the running and of the staged image. -/
def componentData (s : State) (c : Nat) : List Byte :=
  toLE 2 0xFFFF ++ toLE 2 c ++ toLE 4 (s.reg (F.FW_VER c).off) ++ toLE 4 (s.reg (F.FW_STAGED_VER c).off)

/-- GETFIRMWAREPARAMETERS. -/
def execGetfirmwareparameters (s : State) : Out :=
  .next (onBus s fun s => reply s ((List.range 4).flatMap (componentData s)))

def setPldm (s : State) (st : Nat) : State := { s with ci := { s.ci with pldm := st } }

/-- An update command: in Active and in one of the states `ok`; refused elsewhere. -/
def pldmCmd (s : State) (ok : Nat → Bool) (f : State → State) : State :=
  onBus s fun s => if s.pst = 3 && ctrlOn s && ok s.ci.pldm then f s else refuseMsg s

/-- REQUESTUPDATE opens a session (R486). -/
def execRequestupdate (s : State) : Out :=
  .next (pldmCmd s (· == 0) fun s =>
    match fwOpen s with
    | (s, 0) => reply (setPldm s 1) []
    | (s, _) => refuseMsg s)

/-- PASSCOMPONENTTABLE. -/
def execPasscomponenttable (comp : Nat) (s : State) : Out :=
  .next (pldmCmd s (fun p => p == 1 || p == 2) fun s => if comp < 4 then reply (setPldm s 2) [] else refuseMsg s)

/-- UPDATECOMPONENT: the transfer of a component begins. -/
def execUpdatecomponent (comp : Nat) (s : State) : Out :=
  .next (pldmCmd s (· == 2) fun s =>
    if comp < 4 then reply (setPldm { s with ci := { s.ci with pldmComp := comp, pldmData := [] } } 3) [] else refuseMsg s)

/-- REQUESTFIRMWAREDATA: the adapter asks for up to 1,024 B, and gets them. -/
def execRequestfirmwaredata (offset : Nat) (data : List Byte) (s : State) : Out :=
  .next (onBus s fun s =>
    if s.pst ≠ 3 || s.ci.pldm ≠ 3 || 1024 < data.length then s
    else
      let old := s.ci.pldmData
      let new := splice (old ++ List.replicate (offset + data.length - old.length) 0#8) offset data
      State.emit { s with ci := { s.ci with pldmData := new } } (.i3c (0x15#8 :: toLE 4 offset ++ toLE 4 data.length)))

/-- A report of the adapter to the update agent: 0, or a failure whose code is a free value. -/
def pldmReport (s : State) (cmd : Byte) (ok : Bool) : State :=
  if ok then s.emit (.i3c [cmd, 0#8]) else (let (v, s) := s.fresh; s.emit (.i3c [cmd, v.truncate 8]))

/-- TRANSFERCOMPLETE. -/
def execTransfercomplete (ok : Bool) (s : State) : Out :=
  .next (onBus s fun s =>
    if s.pst = 3 && s.ci.pldm = 3 then pldmReport (setPldm s (if ok then 4 else 2)) 0x16#8 ok else s)

/-- VERIFYCOMPLETE: the image passes steps 1 to 4 of R487 and is for the component that was announced, or not. -/
def execVerifycomplete (s : State) : Out :=
  .next (onBus s fun s =>
    if s.pst = 3 && s.ci.pldm = 4 then
      let b := s.ci.pldmData
      let ok := fwCheck4 s b == 0 && fwComp b == s.ci.pldmComp
      pldmReport (setPldm s (if ok then 5 else 2)) 0x17#8 ok
    else s)

/-- APPLYCOMPLETE stages the component (R482, R487). -/
def execApplycomplete (written : Bool) (s : State) : Out :=
  .next (onBus s fun s =>
    if s.pst = 3 && s.ci.pldm = 5 then
      match fwStageBytes (setPldm s 2) s.ci.pldmData written with
      | (s, r) => pldmReport s 0x18#8 (r == 0)
    else s)

/-- ACTIVATEFIRMWARE acts as FW_CMD OP 3 (R482). -/
def execActivatefirmware (s : State) : Out :=
  .next (pldmCmd s (· == 2) fun s =>
    match fwActivate s with
    | (s, 0) => reply (setPldm s 0) []
    | (s, r) => refuseMsg (fwDone s r 0))

/-- GETSTATUS: the update state. -/
def execGetstatus (s : State) : Out := .next (onBus s fun s => reply s (toLE 1 s.ci.pldm))

/-- CANCELUPDATECOMPONENT. -/
def execCancelupdatecomponent (s : State) : Out :=
  .next (pldmCmd s (fun p => 3 ≤ p) fun s => reply (setPldm { s with ci := { s.ci with pldmData := [] } } 2) [])

/-- CANCELUPDATE ends the session. -/
def execCancelupdate (s : State) : Out :=
  .next (pldmCmd s (fun p => 1 ≤ p) fun s =>
    match fwCancel s with
    | (s, 0) => reply (setPldm s 0) []
    | (s, _) => refuseMsg s)

/-! ### Identity (R479, R480, R482) -/

/-- The identity certificate (R479). -/
def certificate (s : State) : List Byte :=
  toLE 4 0x43444956 ++ toLE 2 1 ++ toLE 2 (s.get F.ID_DEVICE_DEVICE) ++ toLE 8 (unitSerial s) ++ toLE 2 1
    ++ toLE 4 (s.reg F.ID_MFG_DATE.off) ++ [0#8, 0#8] ++ slice Config.identityKey 0 32 ++ slice Config.certSigner 0 8
    ++ List.replicate 64 0#8 ++ slice Config.certSignature 0 29792

/-- GET_CERT. -/
def execGetCert (offset len : Nat) (s : State) : Out :=
  .next (onBus s fun s =>
    if 1024 < len || 29920 < offset + len then vendor s 1 2 [] else vendor s 1 0 (slice ((certificate s).drop offset) 0 len))

/-- GET_QUOTE: one quote at a time. -/
def execGetQuote (nonce : List Byte) (s : State) : Out :=
  .next (onBus s fun s =>
    if s.pst ≠ 3 && s.pst ≠ 4 then vendor s 2 3 []
    else if s.ci.quoting.isSome then vendor s 2 1 []
    else vendor { s with ci := { s.ci with quoting := some (slice nonce 0 32) } } 2 0 [])

/-- The body of a quote (R480). -/
def quoteBody (s : State) (nonce : List Byte) : List Byte :=
  let b := actBank s
  let comps := (List.range 4).map fun c => b.comps.getD c {}
  let flags := b2n (s.flag F.BRUP_PROGRESS_FW_BANK) + 2 * b2n (s.flag F.BRUP_PROGRESS_FW_FALLBACK)
    + 4 * b2n (s.flag F.FW_STATUS_SETTINGS_RESET)
  toLE 4 0x54514C56 ++ toLE 8 (unitSerial s) ++ toLE 4 (s.reg F.COMPAT_CLASS.off) ++ nonce
    ++ (comps.flatMap fun c => toLE 4 c.version) ++ toLE 4 flags ++ List.replicate 4 0#8 ++ toLE 8 s.tk.num
    ++ slice (Config.shake256 (comps.flatMap fun c => c.body)) 0 64
    ++ slice (Config.shake256 (Config.settingsBytes b.settings b.fmt)) 0 64 ++ List.replicate 48 0#8

/-- QUOTE_COMPLETE. -/
def execQuoteComplete (s : State) : Out :=
  .next (
    match s.ci.quoting with
    | none => s
    | some nonce =>
      if s.pst ≠ 3 && s.pst ≠ 4 then s
      else
        let body := quoteBody s nonce
        { s with ci := { s.ci with quoting := none, quote := some (body ++ slice (Config.identitySign body) 0 17088) } })

/-- READ_QUOTE. -/
def execReadQuote (offset len : Nat) (s : State) : Out :=
  .next (onBus s fun s =>
    if s.pst ≠ 3 && s.pst ≠ 4 then vendor s 3 3 []
    else
      match s.ci.quote with
      | none => vendor s 3 1 []
      | some q =>
        if s.ci.quoting.isSome then vendor s 3 1 []
        else if 1024 < len || 17344 < offset + len then vendor s 3 2 []
        else vendor s 3 0 (slice (q.drop offset) 0 len))

/-- GET_STATE (R482, R499). -/
def execGetState (s : State) : Out :=
  .next (onBus s fun s =>
    vendor s 4 0 (toLE 4 (s.reg F.BRUP_PROGRESS.off) ++ toLE 4 (s.reg F.PWR_STATE.off) ++ toLE 4 (s.reg F.FCOL_STATUS_LO.off)))

/-- GET_POWER_EVENT. -/
def execGetPowerEvent (s : State) : Out :=
  .next (onBus s fun s => vendor s 6 0 (toLE 4 (s.reg F.PWR_EVENT.off) ++ toLE 4 (s.reg F.PWR_STATE.off)))

end Sys2Proof.Machine
end

