-- ==== Sys2Proof/Machine/Tick.lean ====
section
/-! DEFINITION. Ticks, the boundary cycle, mode changes, the marionette table, the time base and PTP (ch. 04). -/

namespace Sys2Proof.Machine

/-! ### Mode changes (R110–R113, R122) -/

/-- Tick-scheduled work fits T_LIMIT_PCT of C0 under a length of `len` steps (R112). -/
def loadFits (s : State) (len : Nat) : Bool :=
  (List.range (nEng s)).all fun e => 100 * tsReserved s e ≤ s.tLimit * capacity (250 * len) 0

/-- The tick number that MODE_AT names: the first at or after this tick with these low 32 bits. -/
def modeAtTick (s : State) : Nat := s.tk.num + (s.reg F.MODE_AT.off + 2 ^ 32 - s.tk.num % 2 ^ 32) % 2 ^ 32

/-- R112: the RESULT of the first check that fails. -/
def modeCheck (s : State) (tick : Bool) : Option Nat :=
  let next := s.get F.TICK_LEN_NEXT
  if modePending s then some 2
  else if tick && !(4 ≤ next && next ≤ 256) then some 4
  else if s.reg F.MODE_AT.off ≠ 0 && modeAtTick s < s.nextNum + 1 then some 3
  else if tick && !loadFits s next then some 5
  else none

/-- KIND of a MODE_CMD change (R122). -/
def cmdKind (tick swap : Bool) : Nat := b2n tick + 2 * b2n swap

/-- A MODE_CMD write. Boundaries to an AT are counted from the tick in which it is accepted. That a refusal shows the refused change's KIND
is DESIGN CHOICE (log entry 17): R122 does not say which change KIND then shows. -/
def modeCmd (s : State) (tick swap : Bool) : State :=
  if !tick && !swap then s else
  match modeCheck s tick with
  | some r => (s.set F.MODE_EVENT_KIND (cmdKind tick swap)).result F.MODE_EVENT_SEQ F.MODE_EVENT_RESULT r
  | none =>
    let a := if s.reg F.MODE_AT.off = 0 then 1 else modeAtTick s - s.nextNum
    startChange s (.cmd (if tick then some (s.get F.TICK_LEN_NEXT) else none) swap) (s.tk.count + a)

/-- MODE_CMD_TICK: MODE_CMD with TICK = 1; `swap` is its SWAP. -/
def execModeCmdTick (swap : Bool) (s : State) : Out := .next (regCmd s false fun s => modeCmd s true swap)

/-- MODE_CMD_SWAP: MODE_CMD with SWAP = 1 and TICK = 0. -/
def execModeCmdSwap (s : State) : Out := .next (regCmd s false fun s => modeCmd s false true)

/-- KIND of a change (R122). -/
def changeKind : ModeKind → Nat
  | .cmd next swap => cmdKind next.isSome swap
  | .rest => 4
  | .restExit => 5
  | .fw => 6
  | .freeze _ => 6
  | .thaw _ => 6

def setChange (s : State) (c : Option ModeChange) : State := { s with tk := { s.tk with change := c } }

/-- MODE_ARM: at the arm boundary the units are asked to arm; `armed` have armed in its cycle. -/
def execModeArm (armed : BitVec 32) (s : State) : Out :=
  .next (
    match s.tk.change with
    | none => s
    | some c =>
      if s.pst = 3 && !c.asked && c.armAt ≤ s.tk.count + 1 then
        setChange s (some { c with asked := true, armed := armed.toNat })
      else s)

/-- The words of the shadow bank (R115). -/
def shadowBank (s : State) : SMap Nat :=
  (s.regs.filter fun e => 0x24000 ≤ e.1 && e.1 < 0x28000).filterMap fun e =>
    if e.2 = 0#32 then none else some ((e.1 - 0x24000) / 4, e.2.toNat)

/-- A bank swap (R114, R123). -/
def bankSwap (s : State) : State :=
  let fresh := shadowBank s
  let old := s.tk.bank
  let pOld := s.get F.MARI_CTL_ACTIVE_PERIOD_M1
  let pNew := s.get F.MARI_CTL_SHADOW_PERIOD_M1
  let s := old.foldl (fun s (e : Nat × Nat) => s.setReg (0x24000 + 4 * e.1) e.2) (s.resetRegs 0x24000 0x28000)
  let s := { s with tk := { s.tk with bank := fresh } }
  let s := (s.set F.MARI_CTL_ACTIVE_PERIOD_M1 pNew).set F.MARI_CTL_SHADOW_PERIOD_M1 pOld
  s.set F.MARI_CTL_ACTIVE_BANK (b2n (!s.flag F.MARI_CTL_ACTIVE_BANK))

/-- A change of TICK_LEN commits at the coming boundary (R93). -/
def tickLenCommit (s : State) (len : Nat) : State :=
  let m := s.nextNum
  let s := { s with tk := { s.tk with origin := s.boundaryNs m, base := m } }
  s.set F.TICK_LEN_CUR len

/-- What a change does when it commits (R70, R93, R114, R458, R490). -/
def commitKind (s : State) : ModeKind → State
  | .cmd next swap =>
    let s := match next with | some n => tickLenCommit s n | none => s
    if swap then bankSwap s else s
  | .rest => restCommit s
  | .restExit => s
  | .fw => fwCommit s
  | .freeze c => freezeCommit s c
  | .thaw c => thawCommit s c

/-- What an aborted change leaves besides MODE_STATUS (R70, R461, R489). -/
def abortKind (s : State) : ModeKind → State
  | .cmd _ _ => s
  | .rest => restAbort s
  | .restExit => s
  | .fw => fwAbandon s 14
  | .freeze _ => ctxmDone s 1
  | .thaw _ => ctxmDone s 1

/-- MODE_COMMIT_ATTEMPT: `armed` units have armed by the boundary that comes now; it commits, or is postponed (R111). The ninth
attempt, when it fails, is MODE_ABORT's. -/
def execModeCommitAttempt (armed : BitVec 32) (s : State) : Out :=
  .next (
    match s.tk.change with
    | none => s
    | some c =>
      if s.pst ≠ 3 || !c.asked || s.tk.count + 1 < c.armAt + 1 + c.postponed then s
      else
        let up := c.armed ||| armed.toNat
        let na := notArmed s up
        if na = 0 then settle (commitKind (modeDone (setChange s none) (changeKind c.kind)) c.kind)
        else if c.postponed < 8 then
          let s := setChange s (some { c with armed := up, postponed := c.postponed + 1 })
          (s.setReg F.MODE_STATUS.off na).set F.MODE_EVENT_POSTPONED (c.postponed + 1)
        else s)

/-- MODE_ABORT: the attempt at boundary a + 9 fails (R111). -/
def execModeAbort (armed : BitVec 32) (s : State) : Out :=
  .next (
    match s.tk.change with
    | none => s
    | some c =>
      let na := notArmed s (c.armed ||| armed.toNat)
      if s.pst ≠ 3 || !c.asked || c.postponed < 8 || s.tk.count < c.armAt + 8 || na = 0 then s
      else
        let s := (setChange s none).setReg F.MODE_STATUS.off na
        let s := (s.set F.MODE_EVENT_KIND (changeKind c.kind)).result F.MODE_EVENT_SEQ F.MODE_EVENT_RESULT 1
        settle (abortKind s c.kind))

/-! ### The marionette table (R114–R118) -/

/-- May entries fire? -/
def mariFires (s : State) : Bool := s.pst == 3 && mariOn s && s.ci.load != .loading

/-- The enabled entries of the active bank, in ascending order. -/
def enabledEntries (s : State) : List Nat :=
  (s.tk.bank.filter fun e => e.1 % 4 == 0 && bit e.2 23).map fun e => e.1 / 4

def entryIdx (s : State) (n : Nat) : Nat := bits (s.mariWord (4 * n)) 0 10
def entryOff (s : State) (n : Nat) : Nat := 10 * bits (s.mariWord (4 * n)) 10 13
def entryDoes (s : State) (n i : Nat) : Bool := bit (s.mariWord (4 * n)) i
def entryCtx (s : State) (n : Nat) : Nat := bits (s.mariWord (4 * n + 1)) 0 8

/-- Does an enabled entry fire in this tick? -/
def entryNow (s : State) (n : Nat) : Bool :=
  entryIdx s n == s.tk.num % mariPeriod s && entryOff s n < s.tickNs

/-- Does it count as skipped in this tick (R116)? -/
def entrySkips (s : State) (n : Nat) : Bool :=
  let p := mariPeriod s
  entryIdx s n % p == s.tk.num % p && (p ≤ entryIdx s n || s.tickNs ≤ entryOff s n)

/-- The signal action: the unit checks that CTX owns the object when it performs it. -/
def fireSignal (s : State) (n : Nat) : State :=
  let w := s.mariWord (4 * n + 1)
  let add := max 1 (bits w 20 8)
  s.syncSend { req := 81, obj := bits w 8 12, ctx := some (entryCtx s n), op := .signal add, th := none, entry := n }

/-- The gate and reserve actions on one port. -/
def firePort (s : State) (n p : Nat) : State :=
  let w := s.mariWord (4 * n + 3)
  let g := smGet s.tk.gates p 0
  let opened := g ^^^ (g &&& bits w 0 8)
  let s := if entryDoes s n 26 then
      { s with tk := { s.tk with gates := smPut 0 s.tk.gates p (opened ||| bits w 8 8) } } else s
  if entryDoes s n 27 then { s with tk := { s.tk with resv := smSet s.tk.resv p 1 } } else s

def firePorts (s : State) (n : Nat) : State :=
  ((bitList (s.mariWord (4 * n + 2)) 32).filter fun p => portPresent s p).foldl (fun s p => firePort s n p) s

/-- The signal, gate and reserve actions of an entry that fires (R117). -/
def fireActions (s : State) (n : Nat) : State :=
  let s := { s with tk := { s.tk with fired := s.tk.fired ++ [n] } }
  let s := if entryDoes s n 24 then fireSignal s n else s
  if entryDoes s n 26 || entryDoes s n 27 then firePorts s n else s

/-- Release the threads that `p` picks among those parked in TWAIT. -/
def releaseTwait (s : State) (p : Thread → Bool) : State :=
  (s.sq.thr.filter fun e => p e.2).foldl (fun s e => s.resume ⟨e.1 / 8, e.1 % 8⟩) s

/-- The launch action: ignored for a frozen context (R458). -/
def fireLaunch (s : State) (n : Nat) : State :=
  let c := entryCtx s n
  if !entryDoes s n 25 || (smFind s.ho.frozen c).isSome then s
  else releaseTwait s fun x => x.pend == .twait (some n) && x.ctx == c

/-- May entry `n`, with an offset above 0, fire now: once in its tick? -/
def mayFire (s : State) (n : Nat) : Bool :=
  mariFires s && n < 1024 && entryDoes s n 23 && entryNow s n && entryOff s n != 0 && !s.tk.fired.contains n

/-- MARIONETTE_ENTRY_FIRE: entry `n` fires, and with it the entries of the same offset in this tick, in ascending order (R116). Entries at
offset 0 fire in TICK_BOUNDARY (R102). -/
def execMarionetteEntryFire (n : Nat) (s : State) : Out :=
  .next (
    if mayFire s n then
      ((enabledEntries s).filter fun k => mayFire s k && entryOff s k == entryOff s n).foldl
        (fun s k => fireLaunch (fireActions s k) k) s
    else s)

/-- An entry that cannot fire is counted. -/
def skipEntry (s : State) (n : Nat) : State :=
  let s := ((s.count F.MARI_SKIPPED).set F.MARI_EVENT_LAST_ENTRY n).set F.MARI_EVENT_LAST_KIND 0
  s.bump F.MARI_EVENT_SEQ

/-! ### The boundary cycle (R102) -/

/-- Writes whose effect waited for the boundary are in force: shapers (R369), routing and ports, the marionette table's ENABLE (R118),
transport and rate control. PWR_CAP and PWR_THERM wait for their interval (R91). -/
def lateEffect (s : State) : State :=
  let now := s.boundaryNs s.tk.num
  let ports := smKeys (fun _ (p : Port) => p.tokens != []) s.fb.ports
  let s := ports.foldl (fun s n => accrue s n now) s
  let was := mariOn s
  let s := { s with late := s.late.filter fun e => e.1 == F.PWR_CAP.off || e.1 == F.PWR_THERM.off }
  let s := ports.foldl (fun s n =>
    s.setPort n { s.port n with tokens := smMap (fun c v => min (shapeFull s n c) v) (s.port n).tokens }) s
  if was && !mariOn s then { s with tk := { s.tk with gates := [] } } else s

/-- An engine's cycles carried over a boundary (R107): of best-effort work, what was carried into the tick that ends and exceeds its capacity
outside the tick-scheduled reservation, and what was started in it and exceeds its pool; of the rest, what exceeds its capacity. -/
def carryOver (s : State) (e : Nat) (g : Engine) : Engine :=
  { g with
    carryBE := (g.carryBE - outside s e) + (g.poolUsed - bePool s e), carryTS := (g.carryTS + g.spent) - s.tk.cap, poolUsed := 0, spent := 0 }

/-- Tick accounting is renewed (R107, R109). -/
def renewTick (s : State) : State :=
  let g := smMap (fun e g => carryOver s e g) s.en.eng
  let s := { s with en := { s.en with eng := g, used := [], demand := [] } }
  { s with tk := { s.tk with cap := s.cap, share := s.get F.PWR_STATE_BE_SHARE } }

/-- The rate of a queue pair at a boundary (R372). -/
def ccTick (s : State) (q : Qp) : Qp :=
  if q.st ≠ 3 then q
  else
    let top := s.getL F.CC_LIMIT_RMAX
    let up := if q.echoed then q.rate else q.rate + s.getL F.CC_CTL_AI
    { q with rate := if ccOn s then min top (max (ccMin s) up) else top, cut := false, echoed := false }

/-- Temperature, voltage, life accounting and the bring-up timer (R86, R87, R535, R541). -/
def telemetry (s : State) (tj v54qv : Nat) : State :=
  let ns := s.tickNs
  let s := (s.set F.PWR_STATE_TJ_MAX (min 255 tj)).set F.PWR_TELEM_V54_QV (min 255 v54qv)
  let s := { s with pw := { s.pw with tjSum := s.pw.tjSum + tj * ns, tjTime := s.pw.tjTime + ns, capTicks := s.pw.capTicks + 1 } }
  if s.pst = 2 && !s.pw.halt && s.brCode ≠ 0x70 && s.brCode ≠ 0 then
    let el := s.pw.elapsed + ns
    State.setReg { s with pw := { s.pw with elapsed := el } } F.BRUP_ELAPSED.off (min (2 ^ 32 - 1) (el / 1000))
  else s

/-- The tick number and the time base move on (R92, R95, R98). -/
def advanceTick (s : State) : State :=
  let m := s.nextNum
  { s with tk := { s.tk with
    num := m % 2 ^ 64, nextNum := none, count := s.tk.count + 1, ns := s.boundaryNs m % 2 ^ 64, frac := 0#16, fired := [] } }

/-- Step 2 at a boundary: reservations end, and the entries at offset 0 act, in ascending order (R102, R117); those that cannot fire are
counted. -/
def boundaryEntries (s : State) : State :=
  let s := { s with tk := { s.tk with resv := [] } }
  if !mariFires s then s
  else
    (enabledEntries s).foldl (fun s n =>
      if entrySkips s n then skipEntry s n
      else if entryNow s n && entryOff s n == 0 then fireActions s n
      else s) s

/-- Step 5: threads in TWAIT mode 0, and the launch actions at offset 0. -/
def boundaryLaunches (s : State) : State :=
  let s := releaseTwait s fun x => x.pend == .twait none
  s.tk.fired.foldl fireLaunch s

/-- Of the timers of step 3, those that steps 4 and 5 depend on: the limits of a drain (R69, R489). The others are commands of their own. -/
def boundaryTimers (s : State) : State := fwDrainTimeout (restDrainTimeout s)

/-- TICK_OUT rises (R47). -/
def tickOut (s : State) : State :=
  if (s.pst = 3 || s.pst = 4) && s.tk.locked then s.emit (.tickOut s.tk.ns) else s

/-- Steps 2 to 5 in Active. -/
def boundaryActive (s : State) : State :=
  let s := renewTick (boundaryTimers (boundaryEntries s))
  let s := if workHeld s then s else admitDue s
  let s := restoreBoundary s
  let s := { s with tr := { s.tr with qps := smMap (fun _ q => ccTick s q) s.tr.qps } }
  boundaryLaunches s

/-- TICK_BOUNDARY: the hottest junction in °C and V54_IN in 0.25 V steps are read at it. Commits and clock changes of step 1 are the
commands that come before it. -/
def execTickBoundary (tj v54qv : Nat) (s : State) : Out :=
  .next (
    if s.pst < 2 || s.pw.held then s
    else
      let s := tickOut (advanceTick (telemetry s tj v54qv))
      let s := if 115 ≤ tj then s.raise 1 0 0 else s
      let s := if s.pst = 3 || s.pst = 4 then hardThermal (fwBoundary (quotaBoundary (lateEffect s))) tj else s
      settle (if s.pst = 3 then boundaryActive s else s))

/-! ### The time base (R95, R98, R100) -/

/-- The time base jumps from `now` to `t`, and with it the times that the model keeps to measure a lapse from: the tick in progress ends at
the first boundary at least half a tick later (R98). -/
def stepTime (s : State) (now t : Nat) : State :=
  let half := t + s.tickNs / 2
  let m := s.numAt half
  let m := if s.boundaryNs m < half then m + 1 else m
  let shift (x : Nat) : Nat := x + t - now
  let s := s.setNs t
  let s := { s with tr := { s.tr with qps := smMap (fun _ (q : Qp) => { q with nextAt := shift q.nextAt }) s.tr.qps } }
  let s := { s with fb := { s.fb with ports := smMap (fun _ (p : Port) => { p with lastNs := shift p.lastNs }) s.fb.ports } }
  { s with tk := { s.tk with
    num := s.numAt t, nextNum := some m, ppsLast := s.tk.ppsLast.map fun l => l + t - now } }

/-- May PTP frames be used on a port (R73, R96)? -/
def ptpOn (s : State) (p : Nat) : Bool :=
  portPresent s p && s.linkUp p && s.flag F.TIME_CTL_PTP_EN && (s.pst == 3 || (s.pst == 4 && !s.pw.opticsOff))
    && (p < 16 || s.flag F.TIME_CTL_ATTACH_MASTER)

/-- OFFSET as the register shows it: signed, saturating at ±32,767 (R120). -/
def offsetField (o : Int) : Nat := ((max (-32767) (min 32767 o)) % 65536).toNat

/-- PTP_SYNC_RX: `offset` is the measured offset to the parent, `ns` the time base then. Only the parent's Sync acts. That LOCK becomes 1 when
the base is stepped, and that it stays 2 while a locked base sees offsets of 26 to 1,000 ns, are DESIGN CHOICE (log entry 18): R97 and R98 say
neither. -/
def execPtpSyncRx (p : Nat) (ns : BitVec 64) (offset : Int) (s : State) : Out :=
  .next (
    if 16 ≤ p || !ptpOn s p then s
    else
      let s := (s.count (F.PTP_RX_EVENTS p)).seeNs ns.toNat
      if s.get F.TIME_STATUS_PARENT ≠ p then s
      else
        let s := s.set F.TIME_STATUS_OFFSET (offsetField offset)
        let run := if s.get F.TIME_STATUS_LOCK = 0 || s.get F.TIME_STATUS_LOCK = 3 then 0 else s.tk.goodSync
        if 1000 < offset.natAbs then
          let s := stepTime s ns.toNat (((ns.toNat : Int) - offset).toNat % 2 ^ 64)
          let s := { s with tk := { s.tk with goodSync := 0 } }
          settle (((s.count F.TIME_STEPS).setLock 1).raise 12 p 0)
        else
          let run := if offset.natAbs ≤ 25 then run + 1 else 0
          let s := { s with tk := { s.tk with goodSync := run } }
          if 64 ≤ run then s.setLock 2 else if s.get F.TIME_STATUS_LOCK = 2 then s else s.setLock 1)

/-- PTP_SYNC_TIMEOUT: no Sync for 8 intervals (R99). -/
def execPtpSyncTimeout (s : State) : Out :=
  .next (if (s.pst = 3 || s.pst = 4) && s.get F.TIME_STATUS_PARENT ≠ 31 then s.holdover else s)

/-- Do a neighbour's values place a boundary more than 100 ns from the adapter's own (R101)? -/
def boundariesDiffer (s : State) (len origin base : Nat) : Bool :=
  len != s.get F.TICK_LEN_CUR
    || 100 < (((origin : Int) - (base : Int) * s.tickNs) - ((s.tk.origin : Int) - (s.tk.base : Int) * s.tickNs)).natAbs

/-- A neighbour's TLV: a boundary more than 100 ns from the adapter's own is noted (R101). -/
def announceTlv (s : State) (p len origin base : Nat) : State :=
  if boundariesDiffer s len origin base then
    (s.set F.TIME_MISMATCH_PORTS (putBit (s.get F.TIME_MISMATCH_PORTS) p true)).count F.TICK_MISMATCH
  else s

/-- PTP_ANNOUNCE_RX: the clock announced, and the TLV's TICK_LEN in 250 ns steps, TICK_ORIGIN and TICK_BASE. A message of another domain is
ignored. -/
def execPtpAnnounceRx (p domain : Nat) (d : Dataset) (len : Nat) (origin base : BitVec 64) (s : State) : Out :=
  .next (
    if 16 ≤ p || !ptpOn s p || domain ≠ s.get F.TIME_CTL_DOMAIN then s
    else announceTlv (bmca { s with tk := { s.tk with foreign := smSet s.tk.foreign p d } }) p len origin.toNat base.toNat)

/-- PTP_PDELAY_RX: a Pdelay_Req is answered; a Pdelay_Resp ends a measurement (R96, R419). The measured delay shows only in later offsets. -/
def execPtpPdelayRx (p : Nat) (resp : Bool) (ns : BitVec 64) (s : State) : Out :=
  .next (
    if !ptpOn s p then s
    else
      let s := s.count (F.PTP_RX_EVENTS p)
      if resp then s.seeNs ns.toNat else (s.ptpSend p 3).ptpSend p 4)

/-- PTP_SYNC_INTERVAL: a port that is a master sends a two-step Sync and an Announce (R96, R101). -/
def execPtpSyncInterval (p : Nat) (s : State) : Out :=
  .next (
    if !ptpOn s p then s
    else
      let s := bmca s
      if !portMaster s p then s
      else
        let s := (s.ptpSend p 0).ptpSend p 1
        sendAnnounce s p
          (.announce p (s.get F.TICK_LEN_CUR) s.tk.origin s.tk.base (s.get F.TIME_CTL_DOMAIN) (announced s)))

/-- PDELAY_REQ_INTERVAL: a fabric port sends a Pdelay_Req (R96). -/
def execPdelayReqInterval (p : Nat) (s : State) : Out :=
  .next (if 16 ≤ p || !ptpOn s p then s else s.ptpSend p 2)

/-- A 64-bit value field: TIME_PPS_STAMP. -/
def ppsStamp (s : State) (ns : Nat) : State :=
  { s with cnt := smSet s.cnt F.TIME_PPS_STAMP_LO.key ns, tk := { s.tk with ppsLast := some ns } }

/-- The seconds value of an accepted edge in PPS_MODE 2: TIME_SET_S after a write to it, else one more than at the edge before. Before the
first write the spec gives none: a free value. -/
def ppsSeconds (s : State) : Nat × State :=
  if s.tk.ppsSet then (s.reg F.TIME_SET_S_LO.off + 2 ^ 32 * s.get F.TIME_SET_S_HI_S, s)
  else
    match s.tk.ppsSec with
    | some n => (n + 1, s)
    | none => (let (v, s) := s.fresh; (v.toNat, s))

/-- PPS_IN_EDGE at time base value `ns` (R46, R100). That an edge which sets the phase ends the tick in progress by R98's rule, without
TIME_STEPS and source 12, is DESIGN CHOICE (log entry 18): R100 does not say what the tick does. -/
def execPpsInEdge (ns : BitVec 64) (s : State) : Out :=
  .next (
    let mode := s.get F.TIME_CTL_PPS_MODE
    if (s.pst ≠ 3 && s.pst ≠ 4) || (mode ≠ 1 && mode ≠ 2) then s
    else if (match s.tk.ppsLast with | some l => decide (ns.toNat < l + 500000000) | none => false) then
      s.count F.PPS_IGNORED
    else if mode = 1 then ppsStamp (s.seeNs ns.toNat) ns.toNat
    else
      let (sec, s) := ppsSeconds (ppsStamp (s.seeNs ns.toNat) ns.toNat)
      let t := sec * 1000000000 % 2 ^ 64
      let s := if t = ns.toNat then s else stepTime s ns.toNat t
      bmca { s with tk := { s.tk with ppsLast := some t, frac := 0#16, ppsSet := false, ppsSec := some sec, ppsOn := true } })

/-- PPS_HOLDOVER: a grandmaster's edges stop (R99, R100). -/
def execPpsHoldover (s : State) : Out :=
  .next (
    if (s.pst = 3 || s.pst = 4) && s.flag F.TIME_STATUS_GM && s.get F.TIME_CTL_PPS_MODE = 2 && s.tk.ppsOn then
      State.setLock { s with tk := { s.tk with ppsOn := false } } 3
    else s)

end Sys2Proof.Machine
end

