-- ==== Sys2Proof/Machine/Registers.lean ====
section
/-! DEFINITION. Register writes in general (R8, R9, R62, R516, R517), snapshots (R518–R520), SQC clears, and what a register
reads (R8, R62, R521). -/

namespace Sys2Proof.Machine

/-- The state that a command leaves; one that does not run leaves it as it is. -/
def ranOr (s : State) : Out → State
  | .next t => t
  | _ => s

/-! ### SQC statuses (R9) -/

def sqcField : SqcReg → RF
  | .pwrEvent => F.PWR_EVENT_SEQ
  | .timeStatus => F.TIME_STATUS_SEQ
  | .modeEvent => F.MODE_EVENT_SEQ
  | .mariEvent => F.MARI_EVENT_SEQ
  | .seqEvent d => F.SEQ_EVENT_SEQ d
  | .redStatus d => F.RED_STATUS_SEQ d
  | .spcStatus d => F.SPC_STATUS_SEQ d
  | .teStatus d => F.TE_STATUS_SEQ d
  | .ceStatus d => F.CE_STATUS_SEQ d
  | .memTchkEvent => F.MEM_TCHK_EVENT_SEQ
  | .segEvent => F.SEG_EVENT_SEQ
  | .winEvent => F.WIN_EVENT_SEQ
  | .migEvent => F.MIG_EVENT_SEQ
  | .qpEvent => F.QP_EVENT_SEQ
  | .trnEvent => F.TRN_EVENT_SEQ
  | .routeEvent => F.ROUTE_EVENT_SEQ
  | .fabNotice n => F.FAB_NOTICE_EVENT_SEQ n
  | .portStatus n => F.PORT_STATUS_SEQ n
  | .lbStatus m => F.LB_STATUS_SEQ m
  | .sqStatus ctx q => F.SQ_STATUS_SEQ ctx q
  | .hostPortStatus n => F.HOST_PORT_STATUS_SEQ n
  | .quotaEvent => F.QUOTA_EVENT_SEQ
  | .ctxmEvent => F.CTXM_EVENT_SEQ
  | .ceKeyEvent => F.CE_KEY_EVENT_SEQ
  | .keySlotEvent => F.KEY_SLOT_EVENT_SEQ
  | .fwEvent => F.FW_EVENT_SEQ
  | .fcolCmdEvent => F.FCOL_CMD_EVENT_SEQ

/-- Is the status one of the variant's? -/
def sqcPresent (s : State) : SqcReg → Bool
  | .seqEvent d => d < nDom s
  | .redStatus d => d < nDom s
  | .spcStatus d => d < nDom s
  | .teStatus d => d < nDom s
  | .ceStatus d => d < nDom s
  | .fabNotice n => portPresent s n
  | .portStatus n => portPresent s n
  | .lbStatus m => m < nBay s
  | .sqStatus ctx q => ctxMapped s ctx && q < 15
  | .hostPortStatus n => n < 4
  | _ => true

/-- A write of `seq` to a status clears it when `seq` is its number; 0 is no event's number. -/
def clearSqc (s : State) (f : RF) (seq : Nat) : State := if seq ≠ 0 && s.get f = seq then s.set f 0 else s

/-- SQC_CLEAR_WRITE. -/
def execSqcClearWrite (r : SqcReg) (seq : Nat) (s : State) : Out :=
  let f := sqcField r
  .next (fnCmd s ((fnCtx f.off).getD 0) (decide (f.off < 0x20000)) fun s =>
    if sqcPresent s r then clearSqc s f seq else if (fnCtx f.off).isSome then s else s.ignWrite)

/-- The statuses that stand once in the map. -/
def sqcSingles : List RF :=
  [F.PWR_EVENT_SEQ, F.TIME_STATUS_SEQ, F.MODE_EVENT_SEQ, F.MARI_EVENT_SEQ, F.MEM_TCHK_EVENT_SEQ, F.SEG_EVENT_SEQ, F.WIN_EVENT_SEQ,
   F.MIG_EVENT_SEQ, F.QP_EVENT_SEQ, F.TRN_EVENT_SEQ, F.ROUTE_EVENT_SEQ, F.QUOTA_EVENT_SEQ, F.CTXM_EVENT_SEQ, F.CE_KEY_EVENT_SEQ,
   F.KEY_SLOT_EVENT_SEQ, F.FW_EVENT_SEQ, F.FCOL_CMD_EVENT_SEQ]

/-- The sequence field of the status in the word at `off`, if it holds one. -/
def sqcAt (off : Nat) : Option RF :=
  let cands : List RF :=
    match fnCtx off with
    | some c => [F.SQ_STATUS_SEQ c ((off - fnBase c) / 0x20 - 1)]
    | none =>
      if 0x100000 ≤ off && off < 0x200000 then
        let d := (off - 0x100000) / 0x10000
        [F.SEQ_EVENT_SEQ d, F.RED_STATUS_SEQ d, F.SPC_STATUS_SEQ d, F.TE_STATUS_SEQ d, F.CE_STATUS_SEQ d]
      else if 0x200000 ≤ off && off < 0x280000 then
        let n := (off - 0x200000) / 0x4000
        [F.FAB_NOTICE_EVENT_SEQ n, F.PORT_STATUS_SEQ n] ++ (if n % 2 = 0 && n < 16 then [F.LB_STATUS_SEQ (n / 2)] else [])
      else if 0x610000 ≤ off && off < 0x610010 then [F.HOST_PORT_STATUS_SEQ ((off - 0x610000) / 4)]
      else sqcSingles
  cands.find? fun f => f.off == off

/-- A word write without an effect of its own: RW bits are set, and an SQC status in the word may clear. -/
def plainWrite (s : State) (off v : Nat) : State :=
  let s' := writeWord s off v
  match sqcAt off with
  | some f => if slotPresent s off then clearSqc s' f (bits v f.lo f.wid) else s'
  | none => s'

/-! ### Snapshots (R518–R520) -/

/-- Is the scope one of R518's, with its unit present? -/
def snapScope (s : State) (scope : Nat) : Bool :=
  scope ≤ 3 || (0x10 ≤ scope && scope < 0x20 && scope - 0x10 < nDom s)
    || (0x20 ≤ scope && scope < 0x40 && portPresent s (scope - 0x20)) || (0x40 ≤ scope && scope ≤ 0x44)

/-- Is the register at `off` in the scope? -/
def inScope (scope off : Nat) : Bool :=
  let within (lo hi : Nat) : Bool := lo ≤ off && off < hi
  if scope = 0 then true
  else if scope = 1 then within 0 0x10000
  else if scope = 2 then within 0x10000 0x20000
  else if scope = 3 then within 0x20000 0x30000
  else if scope < 0x20 then within (domBase (scope - 0x10)) (domBase (scope - 0xF))
  else if scope < 0x40 then within (portBase (scope - 0x20)) (portBase (scope - 0x1F))
  else if scope = 0x40 then within 0x300000 0x310000
  else if scope = 0x41 then within 0x400000 0x410000
  else if scope = 0x42 then within 0x500000 0x510000
  else if scope = 0x43 then within 0x600000 0x620000
  else within 0x700000 0x710000 || (within 0x100000 0x200000 && 0x510 ≤ off % 0x10000 && off % 0x10000 < 0x528)

/-- The snapshot fields that no counter holds, with their live values (R154, R293, R524, R124). The time base within the tick is a free
value between its boundaries. -/
def snapValues (s : State) : List (Nat × Nat) × State :=
  let (v, s) := s.fresh
  let span := s.boundaryNs s.nextNum - s.tk.ns
  let now := s.tk.ns + (if span = 0 then 0 else v.toNat % span)
  let s := s.seeNs now
  ([(F.FCOL_STATUS_SNAP_LO.key, s.reg F.FCOL_STATUS_LO.off + 2 ^ 32 * s.reg F.FCOL_STATUS_HI.off),
    (F.TICK_SNAP_LO.key, s.tk.num), (F.TIME_SNAP_LO.key, now % 2 ^ 64),
    ((F.TRK_USED_THREAD 0).key, s.sq.trk.length - s.trkHost), ((F.TRK_USED_HOST 0).key, s.trkHost),
    ((F.TRK_PEAK 0).key, s.sq.trkPeak), (F.MEM_TCHK_ADDR_LO.key, s.mem.failAddr)], s)

/-- SEQ_XBAR_WAIT of the domains (R154): how many cycles threads have waited is a free value, where any has. -/
def xbarWaits (s : State) : List Nat → List (Nat × Nat) × State
  | [] => ([], s)
  | d :: ds =>
    let waited := s.live (F.SEQ_XBAR_WAIT d) != 0 || (List.range 8).any fun k => xbarBlocked s ⟨d, k⟩
    let (n, s) := if waited then (let (v, s) := s.fresh; (v.toNat % 2 ^ 32, s)) else (0, s)
    let (r, s) := xbarWaits s ds
    (((F.SEQ_XBAR_WAIT d).key, n) :: r, s)

/-- Copy the fields of a scope and restart its counters; TIME_PPS_STAMP is a value (R519). -/
def snapTake (s : State) (scope : Nat) : State :=
  let hit (k : Nat) : Bool := inScope scope (k / 32)
  let (vals, s) := snapValues s
  let (waits, s) := xbarWaits s (List.range (nDom s))
  let vals := vals ++ waits
  let m := (s.cnt.filter fun e => hit e.1).foldr (fun e (m : SMap Nat) => smSet m e.1 e.2) (smDrop hit s.snap)
  let m := (vals.filter fun e => hit e.1).foldl (fun (m : SMap Nat) e => smPut 0 m e.1 e.2) m
  let s := { s with snap := m, cnt := smDrop (fun k => hit k && k != F.TIME_PPS_STAMP_LO.key) s.cnt }
  let s := if hit (F.TRK_PEAK 0).key then { s with sq := { s.sq with trkPeak := s.sq.trk.length } } else s
  let s := (s.set F.SNAP_STATUS_TAKEN (s.get F.SNAP_STATUS_TAKEN + 1)).set F.SNAP_STATUS_LAST_SCOPE scope
  (s.set F.SNAP_STATUS_REFUSED 0).set64 F.SNAP_TICK_LO F.SNAP_TICK_HI s.tk.num

/-- SNAP_CMD (R518–R520). -/
def snapCmd (s : State) (scope : Nat) : State :=
  if snapScope s scope then snapTake s scope else s.set F.SNAP_STATUS_REFUSED 1

/-- SNAP_CMD. -/
def execSnapCmd (scope : Nat) (s : State) : Out := .next (regCmd s false fun s => snapCmd s (scope % 256))

/-! ### Writes of one word, block by block -/

/-- Identity and bring-up. -/
def writeId (s : State) (off v : Nat) : State :=
  if off = F.PWR_CAP.off then pwrThermWrite s false v
  else if off = F.PWR_THERM.off then pwrThermWrite s true v
  else if off = F.PWR_CMD.off then pwrOp (writeWord s off v) (v % 4)
  else plainWrite s off v

/-- The reactions that a source allows (R498, R503). -/
def reactionOk (src r : Nat) : Bool :=
  if r = 3 || (27 ≤ src && src ≤ 31) then false
  else if src = 0 || src = 1 || (4 ≤ src && src ≤ 9) then r == 2
  else if src = 2 || src = 3 || src = 10 || src = 11 || src = 14 then r != 1
  else if src = 12 || src = 15 || src = 26 then r == 0
  else if src = 13 then r == 1
  else true

/-- Fault collector. -/
def writeFcol (s : State) (off v : Nat) : State :=
  let w : Word32 := BitVec.ofNat 32 v
  if off = F.FCOL_FORCE_LO.off then ranOr s (execFcolForce w 0#32 s)
  else if off = F.FCOL_FORCE_HI.off then ranOr s (execFcolForce 0#32 w s)
  else if off = F.FCOL_CTL.off then
    let s := writeWord s off v
    if bit v 6 then ranOr s (execFcolArm s) else s
  else if off = F.FCOL_UNFENCE.off then
    let s := writeWord s off v
    ranOr s (execFcolUnfence (bits v 0 3) (bits v 3 8) s)
  else if 0x10100 ≤ off && off < 0x10200 then
    (if slotPresent s off && reactionOk ((off - 0x10100) / 4) (v % 4) then writeWord s off v else s.ignWrite)
  else if 0x10200 ≤ off && off < 0x10300 then
    let s := writeWord s off v
    ranOr s (execFcolEvtClear ((off - 0x10200) / 4) (v % 256) s)
  else plainWrite s off v

/-- The bits of an entry's word that are not reserved (R115). -/
def mariMask (i : Nat) : Nat := if i % 4 = 2 then 0xFFFFFFFF else if i % 4 = 3 then 0xFFFF else 0x0FFFFFFF

/-- Tick, time base and marionette table. A write to the shadow bank may end the use of a sync object (R142). -/
def writeTick (s : State) (off v : Nat) : State :=
  if off = F.MODE_CMD.off then modeCmd (writeWord s off v) (bit v 0) (bit v 1)
  else if off = F.TIME_SET_S_LO.off then State.setReg { s with tk := { s.tk with ppsSet := true } } off v
  else if off = F.TIME_SET_S_HI.off then
    (writeWord { s with tk := { s.tk with ppsSet := true } } off v).set F.TIME_SET_S_HI_S v
  else if off = F.MARI_CTL.off then writeLate s off v
  else if 0x24000 ≤ off && off < 0x28000 then reclaim (writeWord s off (v &&& mariMask ((off - 0x24000) / 4)))
  else if 0x28000 ≤ off && off < 0x2C000 then s
  else plainWrite s off v

/-- Domains. -/
def writeDom (s : State) (off v : Nat) : State :=
  let d := (off - 0x100000) / 0x10000
  if off = (F.SEQ_STOP d).off && d < nDom s then
    let s := writeWord s off v
    ranOr s (execSeqStop d (BitVec.ofNat 8 v) s)
  else plainWrite s off v

/-- Ports, and the bay registers that their blocks hold. WD_MS is RO 0 on the VL-384 (R432); BAY_CLASS may change only while the class is
not locked (R424). -/
def writePort (s : State) (off v : Nat) : State :=
  let n := (off - 0x200000) / 0x4000
  let o := (off - 0x200000) % 0x4000
  let bay := decide (n < 16 && n % 2 = 0)
  if !portPresent s n then s.ignWrite
  else if o = 0 then portCfgWrite s n v
  else if o = 8 && s.variant then writeWord s off (putBits v 16 8 0)
  else if o = 0x1000 || (0x1010 ≤ o && o < 0x1050) then writeLate s off v
  else if bay && o = 0x2004 then
    let s := writeWord s off v
    if v % 4 = 1 then lbQuiesce s (n / 2) else if v % 4 = 2 then lbResume s (n / 2) else s
  else if bay && o = 0x2008 && s.flag F.COMPAT_CLASS_LOCKED then s.ignWrite
  else plainWrite s off v

/-- Segments, windows and migration (R316). -/
def writeSeg (s : State) (off v : Nat) : State :=
  if off = F.SEG_CMD.off then
    let s := writeWord s off v
    let idx := bits v 2 4
    let ctx := bits v 6 8
    match v % 4 with
    | 1 => ranOr s (execSegSet ctx idx s)
    | 2 => ranOr s (execSegRemove ctx idx s)
    | 3 => ranOr s (execSegRead ctx idx s)
    | _ => s
  else if off = F.WIN_CMD.off then
    let s := writeWord s off v
    let i := bits v 3 20
    match v % 8 with
    | 1 => ranOr s (execWinSet i s)
    | 2 => ranOr s (execWinRemove i s)
    | 3 => ranOr s (execWinRead i s)
    | 4 => ranOr s (execWinBump i s)
    | 5 => ranOr s (execKeySet i s)
    | 6 => ranOr s (execKeyRemove i s)
    | 7 => ranOr s (execKeyRead i s)
    | _ => s
  else if off = F.MIG_CMD.off then
    match v % 4 with
    | 1 => ranOr s (execMigPrefetch (bits v 6 8) (bits v 2 4) (bits v 14 18) s)
    | 2 => ranOr s (execMigEvict (bits v 6 8) (bits v 2 4) (bits v 14 18) s)
    | _ => s
  else plainWrite s off v

/-- Transport (R350, R374). -/
def writeTrn (s : State) (off v : Nat) : State :=
  if off = F.QP_CMD.off then
    let s := writeWord s off v
    let q := bits v 3 18
    match v % 8 with
    | 1 => ranOr s (execQpInit q s)
    | 2 => ranOr s (execQpRtr q s)
    | 3 => ranOr s (execQpRts q s)
    | 4 => ranOr s (execQpReset q s)
    | 5 => ranOr s (execQpError q s)
    | 6 => ranOr s (execQpRead q s)
    | _ => s
  else if off = F.ROUTE_CMD.off then
    let s := writeWord s off v
    let ep := bits v 2 20
    match v % 4 with
    | 1 => ranOr s (execRouteSet ep s)
    | 2 => ranOr s (execRouteInvalidate ep s)
    | 3 => ranOr s (execRouteRead ep s)
    | _ => s
  else if off = F.TRN_CTL.off || off = F.TRN_RETRY.off || off = F.CC_CTL.off || off = F.CC_LIMIT.off || off = F.CC_MD.off then
    writeLate s off v
  else plainWrite s off v

/-- SQ_CFG (R440): while the queue is enabled a write only disables it. -/
def writeSqCfg (s : State) (c q off v : Nat) : State :=
  if sqEnabled s (sqKey c q) then (if bit v 4 then s else sqDisable s c q)
  else
    let s := writeWord s off v
    if bit v 4 then sqEnable s c q else s

/-- A word of the MSI-X table. A message that waits for its vector is sent when the vector is unmasked. -/
def writeMsix (s : State) (c i off v : Nat) : State :=
  let s := writeWord s off v
  let vec := i / 4
  let f := F.MSIX_PBA c (vec / 32)
  if i % 4 = 3 && !bit v 0 && bit (s.reg f.off) (vec % 32) then
    (s.setReg f.off (putBit (s.reg f.off) (vec % 32) false)).sendMsix c vec
  else s

/-- Is the offset that of a doorbell in a doorbell page (R462)? -/
def isDoorbell (off : Nat) : Bool :=
  match fnCtx off with
  | some c => 0x1000 ≤ off - fnBase c && (off % 0x1000 == 0 || off % 0x1000 == 0x100)
  | none => false

/-- The function page and the doorbell pages of a context (R462). A function without a context drops every write (R437). -/
def writeFn (s : State) (c off v : Nat) : State :=
  let o := off - fnBase c
  if !ctxMapped s c then s
  else if 0x1000 ≤ o then
    (if o % 0x1000 = 0 then
       let s := if v < 65536 then s else s.count F.REG_RWK_CHANGED
       ranOr s (execSqDbWrite c (o / 0x1000 - 1) (v % 65536) s)
     else if o % 0x1000 = 0x100 then
       ranOr s (if bit v 31 then execCqDbArm c (bits v 0 16) (bits v 16 15) s else execCqDbWrite c (bits v 0 16) (bits v 16 15) s)
     else s.ignWrite)
  else if o = 8 then writeWord s off (v - v % 2 ^ 21)
  else if 0x10 ≤ o && o < 0x1F0 then
    let q := (o - 0x10) / 0x20
    let k := (o - 0x10) % 0x20
    if k = 0 || k = 4 then
      (if sqEnabled s (sqKey c q) then s else writeWord s off (if k = 0 then v - v % 4096 else v))
    else if k = 8 then writeSqCfg s c q off v
    else if k = 0x14 then
      let s := writeWord s off v
      if bit v 0 then sqRestart s c q else s
    else plainWrite s off v
  else if 0x800 ≤ o && o < 0xC00 then writeMsix s c ((o - 0x800) / 4) off v
  else plainWrite s off v

/-- HOST_CTX_MAP of context c: VALID may change only in state 0 or 1 with no program resident (R463). -/
def writeCtxMap (s : State) (c off v : Nat) : State :=
  if c = 0 then s.ignWrite
  else
    let free := s.ctxState c ≤ 1 && (ctxProgs s c).isEmpty
    let v := if free then v else putBits v 9 1 (s.get (F.HOST_CTX_MAP_VALID c))
    let s := writeWord s off v
    if free then s.set (F.HOST_CTX_MAP_STATE c) (b2n (bit v 9)) else s

/-- The fields of an enabled entry of the peer table: endpoint, and port with inbox. -/
def peerNames (s : State) (k : Nat) : Option (Nat × Nat) :=
  if bit (s.reg (F.PEER_TABLE (8 * k)).off) 31 then
    some (bits (s.reg (F.PEER_TABLE (8 * k)).off) 0 20, bits (s.reg (F.PEER_TABLE (8 * k + 1)).off) 0 16)
  else none

/-- The peer table (R464): an entry that a write makes the double of an enabled one is disabled. Bytes without a field are RWK. -/
def writePeer (s : State) (i off v : Nat) : State :=
  let rwk := if i % 8 = 1 then 0xFFFF0000 else if i % 8 = 6 || i % 8 = 7 then 0xFFFFFFFF else 0
  let s := if (s.reg off ^^^ v) &&& rwk = 0 then s else s.count F.REG_RWK_CHANGED
  let s := writeWord s off v
  let k := i / 8
  match peerNames s k with
  | none => s
  | some (ep, at_) =>
    let double := (List.range 32).any fun j => j != k && (match peerNames s j with
      | some (ep', at') => ep' == ep || at' == at_
      | none => false)
    if double then
      let f := F.PEER_TABLE (8 * k)
      (s.setReg f.off (putBit (s.reg f.off) 31 false)).count F.HOST_PEER_BAD
    else s

/-- Hosts, functions and quotas (R463, R464). -/
def writeHost (s : State) (off v : Nat) : State :=
  if off = F.HOST_VF_LIMIT.off then vfLimitWrite s v
  else if 0x610100 ≤ off && off < 0x610500 then writeCtxMap s ((off - 0x610100) / 4) off v
  else if off = F.QUOTA_CMD.off then
    let s := writeWord s off v
    let ctx := bits v 2 8
    match v % 4 with
    | 1 => ranOr s (execQuotaSet ctx s)
    | 2 => ranOr s (execQuotaReadRequested ctx s)
    | 3 => ranOr s (execQuotaReadEffective ctx s)
    | _ => s
  else if off = F.CTXM_CMD.off then
    let s := writeWord s off v
    let ctx := bits v 3 8
    match v % 8 with
    | 1 => ranOr s (execCtxmFreeze ctx s)
    | 2 => ranOr s (execCtxmSave ctx s)
    | 3 => ranOr s (execCtxmRestore ctx s)
    | 4 => ranOr s (execCtxmThaw ctx s)
    | 5 => ranOr s (execCtxmDiscard ctx s)
    | 6 => ranOr s (execCtxmRepoint ctx (bits v 11 18) s)
    | _ => s
  else if 0x610A00 ≤ off && off < 0x610A40 then writeLate s off v
  else if 0x611000 ≤ off && off < 0x611400 then writePeer s ((off - 0x611000) / 4) off v
  else plainWrite s off v

/-- Cipher, identity and firmware (R495, R496). The key images are WO: the words wait for the command. -/
def writeCiph (s : State) (off v : Nat) : State :=
  if off = F.CE_KEY_CMD.off then
    let s := writeWord s off v
    let ctx := bits v 2 8
    let idx := bits v 10 8
    match v % 4 with
    | 1 => ranOr s (execCeKeySet ctx idx (bit v 18) s)
    | 2 => ranOr s (execCeKeyClear ctx idx s)
    | 3 => ranOr s (execCeKeyRead ctx idx s)
    | _ => s
  else if off = F.KEY_SLOT_CMD.off then
    let s := writeWord s off v
    match bits v 6 2 with
    | 1 => ranOr s (execKeySlotSet (v % 4) (bits v 2 4) s)
    | 2 => ranOr s (execKeySlotClear (v % 4) (bits v 2 4) s)
    | _ => s
  else if off = F.FW_CMD.off then
    let s := writeWord s off v
    match v % 16 with
    | 1 => ranOr s (execFwOpenSession s)
    | 2 => ranOr s (execFwStage true s)
    | 3 => ranOr s (execFwActivate s)
    | 4 => ranOr s (execFwCancel s)
    | 5 => ranOr s (execFwLockClass (bits v 16 16) s)
    | 6 => ranOr s (execFwRelay s)
    | _ => s
  else if (0x700040 ≤ off && off < 0x700060) || (0x700140 ≤ off && off < 0x700180) then s.setReg off v
  else plainWrite s off v

/-- One word, where its block answers. -/
def writeReg (s : State) (off v : Nat) : State :=
  if off % 4 ≠ 0 then s.ignWrite
  else
    match fnCtx off with
    | some c => writeFn s c off v
    | none =>
      if off < 0x10000 then writeId s off v
      else if off < 0x20000 then writeFcol s off v
      else if off < 0x30000 then writeTick s off v
      else if off < 0x100000 then s.ignWrite
      else if off < 0x200000 then writeDom s off v
      else if off < 0x280000 then writePort s off v
      else if off < 0x400000 then plainWrite s off v
      else if off < 0x500000 then writeSeg s off v
      else if off < 0x600000 then writeTrn s off v
      else if off < 0x700000 then writeHost s off v
      else if off < 0x800000 then writeCiph s off v
      else if off = F.SNAP_CMD.off then snapCmd (writeWord s off v) (v % 256)
      else plainWrite s off v

/-- One word, in any power state (R62, R75, R78). -/
def writeAny (s : State) (off v : Nat) : State :=
  fnCmd s ((fnCtx off).getD 0) (decide (off < 0x20000) || isDoorbell off) fun s => writeReg s off v

/-- The words of a write of more than 4 bytes, in ascending order (R516). What is left below a word is ignored. -/
def writeWords (s : State) (off v : Nat) : (n : Nat) → State
  | 0 => s
  | n + 1 => writeWords (writeAny s off (v % 2 ^ 32)) (off + 4) (v / 2 ^ 32) n

/-- REGISTER_WRITE: `width` bytes at a BAR0 offset. Both halves of an 8-byte FCOL_FORCE write raise their sources in one cycle (R512). -/
def execRegisterWrite (off width : Nat) (v : BitVec 64) (s : State) : Out :=
  .next (
    if off = F.FCOL_FORCE_LO.off && width = 8 then
      ranOr s (execFcolForce (BitVec.ofNat 32 v.toNat) (BitVec.ofNat 32 (v.toNat / 2 ^ 32)) s)
    else
      let s := writeWords s off v.toNat (min 2 (width / 4))
      settle (if width % 4 = 0 && width ≠ 0 then s else regCmd s false State.ignWrite))

/-! ### What a register reads (R8, R62, R521) -/

/-- STATE of a thread slot as SEQ_THREAD reports it (R126): a stop or a freeze that is pending shows as Stopping. -/
def thrState (x : Thread) : Nat :=
  match x.st with
  | .free => 0
  | .ready => if x.stop.isSome || x.freeze then 5 else 1
  | .executing => if x.stop.isSome || x.freeze then 5 else 2
  | .waiting => 3
  | .parked => 4
  | .halted => 6

/-- SEQ_THREAD (R152). -/
def readThread (s : State) (d k : Nat) : Nat :=
  let x := s.thr ⟨d, k⟩
  let held := xbarBlocked s ⟨d, k⟩ && x.st != .halted
  if x.st = .free then 0
  else (if held then 3 else thrState x) + 8 * b2n x.priv + 16 * (x.ctx % 256)
    + 4096 * (if held then 3 else x.cause % 16) + 65536 * (x.prog % 65536)

/-- FN_ID (R462). -/
def readFnId (s : State) (c : Nat) : Nat :=
  c + 256 * s.ctxPort c + 1024 * (if c = 0 then 0xFF else s.get (F.HOST_CTX_MAP_VF c))

/-- A snapshot field's word: the low half under its own place, the high half from the field below. -/
def readSnap (s : State) (off : Nat) : Option Nat :=
  match smFind s.snap (32 * off) with
  | some v =>
    some (v % 2 ^ 32 + 65536 * smGet s.snap (32 * off + 16) 0 % 2 ^ 32)
  | none =>
    match smFind s.snap (32 * off + 16) with
    | some v => some (65536 * v % 2 ^ 32)
    | none => if 4 ≤ off then (smFind s.snap (32 * (off - 4))).bind (fun v => if v < 2 ^ 32 then none else some (v / 2 ^ 32)) else none

/-- Does the engine's status word in a domain block show a fence? -/
def engBit (s : State) (off : Nat) : Nat :=
  let d := (off - 0x100000) / 0x10000
  let o := off % 0x10000
  if d < nDom s then
    b2n ((o == 0x200 && s.engFenced (4 * d)) || (o == 0x300 && s.engFenced (4 * d + 3)) || (o == 0x400 && s.engFenced (4 * d + 1))
      || (o == 0x500 && s.engFenced (4 * d + 2)))
  else 0

/-- A word where its block answers. -/
def readWord (s : State) (off : Nat) : Nat :=
  if !slotPresent s off then 0
  else if 0x1000000 ≤ off && off < 0x1040000 then (if off % 0x10000 < 0x100 then s.reg (off % 0x10000) else 0)
  else if 0x100000 ≤ off && off < 0x200000 && 0x10 ≤ off % 0x10000 && off % 0x10000 < 0x30 then
    readThread s ((off - 0x100000) / 0x10000) ((off % 0x10000 - 0x10) / 4)
  else if 0x28000 ≤ off && off < 0x2C000 then s.mariWord ((off - 0x28000) / 4)
  else if off = F.TIME_SET_S_HI.off then s.reg off / 65536 * 65536
  else if off = F.TIME_SET_S_LO.off || off = 0x610100
    || (0x700040 ≤ off && off < 0x700060) || (0x700140 ≤ off && off < 0x700180) then 0
  else if 0x708000 ≤ off && off < 0x708000 + 29920 then fieldLE (certificate s) (off - 0x708000) 4
  else if 0x610000 ≤ off && off < 0x610010 then
    let h := (off - 0x610000) / 4
    putBit (s.reg off) 7 (!bit s.pw.perst h)
  else
    match fnCtx off with
    | some c => if off = fnBase c then readFnId s c else s.reg off
    | none =>
      match readSnap s off with
      | some v => v
      | none =>
        if 0x200000 ≤ off && off < 0x280000 && off % 0x4000 = 4 then
          putBit (s.reg off) 2 (s.portFenced ((off - 0x200000) / 0x4000))
        else if 0x100000 ≤ off && off < 0x200000 then s.reg off - s.reg off % 2 * engBit s off + engBit s off
        else s.reg off

/-- Does the collector's register answer in Bring-up (R522)? -/
def fcolStatusReg (off : Nat) : Bool :=
  off == 0x10000 || off == 0x10004 || (0x10020 ≤ off && off ≤ 0x10030) || (0x10200 ≤ off && off < 0x10300)

/-- What a read of a BAR0 word returns; none: it completes with Completer Abort, or there is no path to the adapter. -/
def readReg (s : State) (off : Nat) : Option Nat :=
  if s.pst = 3 then some (readWord s off)
  else if s.pst = 4 then some (if off < 0x20000 then readWord s off else 0xDEAD0B0B)
  else if s.pst = 2 then some (if off < 0x10000 || fcolStatusReg off then readWord s off else 0xDEAD0B0B)
  else none

end Sys2Proof.Machine
end

