-- ==== Sys2Proof/Machine/SpecialtyOps.lean ====
section
/-! DEFINITION. What the specialty engines compute: optimizer steps (R227–R230), lookup rows (R236, R237), the compressed
tile format (R243–R247) and quantized blocks (R250). -/

namespace Sys2Proof.Machine

def fv32 (bs : List Byte) (o : Nat) : FV := of32 (fieldLE bs o 4)
def fvZero : FV := .num false 0 (-149)
def fvOne : FV := to32 (.num false 1 0)
def isFinite (v : FV) : Bool := match v with | .num _ _ _ => true | _ => false
/-- Is v greater than 0? -/
def fvPos (v : FV) : Bool := match v with | .num n m _ => !n && m != 0 | .inf n => !n | .nan => false
def fvBytes (v : FV) : List Byte := toLE 4 (bits32 v)

/-! ### Optimizer (R226–R232) -/

/-- Bytes of a stripe (R226). -/
def stripeSize (d : BitVec 256) : Nat :=
  match spcOpc d with
  | 1 => 4096
  | 6 => 4096
  | 8 => if dfield d 3 37 1 = 1 then 6144 else 4096
  | _ => 6144

/-- Does the operation keep V? -/
def keepsV (opc : Nat) : Bool := opc == 2 || opc == 3 || opc == 4 || opc == 5
def readsGrad (opc : Nat) : Bool := opc != 5 && opc != 8
def optEmit (d : BitVec 256) : Bool := dfield d 2 63 1 == 1

/-- The record's numbers (R232). -/
structure OptRec where
  lr : FV
  b1 : FV
  b2 : FV
  eps : FV
  wd : FV
  bc1 : FV
  bc2 : FV
  deriving DecidableEq, Repr

def parseOpt (r : List Byte) : OptRec :=
  { lr := fv32 r 0, b1 := fv32 r 4, b2 := fv32 r 8, eps := fv32 r 12, wd := fv32 r 16, bc1 := fv32 r 20, bc2 := fv32 r 24 }

def fvSign (v : FV) : FV :=
  match v with
  | .nan => .nan
  | .inf n => if n then fvOne.neg else fvOne
  | .num n m _ => if m = 0 then fvZero else if n then fvOne.neg else fvOne

/-- The Adam direction (m × BC1) / (sqrt(v × BC2) + EPS). -/
def adamDir (k : OptRec) (m v : FV) : FV := (m.mul k.bc1).div (((v.mul k.bc2).sqrt).add k.eps)

/-- What one parameter becomes: w, m, v, and the direction u (R227). `lrr` is LR × r of LAMB_APPLY. -/
def optStep (opc : Nat) (nesterov : Bool) (k : OptRec) (lrr g w m v : FV) : FV × FV × FV × FV :=
  let c1 := fvOne.sub k.b1
  let c2 := fvOne.sub k.b2
  let mAdam (g : FV) : FV := (k.b1.mul m).add (c1.mul g)
  let vAdam (g : FV) : FV := (k.b2.mul v).add (c2.mul (g.mul g))
  match opc with
  | 1 =>
    let g := g.add (k.wd.mul w)
    let m := (k.b1.mul m).add g
    let u := if nesterov then g.add (k.b1.mul m) else m
    (w.sub (k.lr.mul u), m, v, u)
  | 2 =>
    let g := g.add (k.wd.mul w)
    let m := mAdam g
    let v := vAdam g
    let u := adamDir k m v
    (w.sub (k.lr.mul u), m, v, u)
  | 3 =>
    let m := mAdam g
    let v := vAdam g
    let u := (adamDir k m v).add (k.wd.mul w)
    (w.sub (k.lr.mul u), m, v, u)
  | 4 =>
    let m := mAdam g
    let v := vAdam g
    (w, m, v, (adamDir k m v).add (k.wd.mul w))
  | 5 =>
    let u := (adamDir k m v).add (k.wd.mul w)
    (w.sub (lrr.mul u), m, v, u)
  | 6 =>
    let u := fvSign ((k.b1.mul m).add (c1.mul g))
    (w.sub (k.lr.mul (u.add (k.wd.mul w))), (k.b2.mul m).add (c2.mul g), v, u)
  | _ => (w, m, v, fvZero)

/-- Combine lanes in the fixed pairwise tree (R228). -/
def pairUp : List FV → List FV
  | x :: y :: r => x.add y :: pairUp r
  | r => r

def treeSum (lanes : List FV) : FV := ((pairUp (pairUp (pairUp (pairUp (pairUp lanes))))).head?).getD fvZero

/-- Add values to their lanes, in ascending index from `first` (R228). -/
def addLanes (lanes : List FV) (first : Nat) (xs : List FV) : List FV :=
  (List.range xs.length).foldl (fun ls i =>
    let k := (first + i) % 32
    ls.set k ((ls.getD k fvZero).add (xs.getD i fvZero))) lanes

/-! ### Lookup (R236, R237) -/

inductive SlotKind where
  | pad
  | outOfRange
  | row (k : Nat)
  deriving DecidableEq, Repr

def slotKind (rows idx : Nat) : SlotKind :=
  if idx < rows then .row idx else if idx = 0xFFFFFFFF then .pad else .outOfRange

/-- Pool the values of one element over the counted slots, in slot order. -/
def poolOne (pool n : Nat) (vs : List FV) : FV :=
  match vs with
  | [] => fvZero
  | x :: xs =>
    match pool with
    | 3 => xs.foldl FV.max x
    | 2 => (xs.foldl FV.add x).mul (fvOne.div (to32 (.num false n 0)))
    | _ => xs.foldl FV.add x

/-! ### Compressed tiles (R243–R246) -/

/-- Element bytes and ESZ of a format (R244). -/
def zeEsz (fmt : Nat) : Nat := elemBits fmt / 8
def zeEszCode (fmt : Nat) : Nat := match zeEsz fmt with | 1 => 0 | 2 => 1 | _ => 2

/-- Elements of a tile. -/
def zeElems (esz : Nat) (bs : List Byte) : List Nat := (List.range (2048 / esz)).map fun k => fieldLE bs (k * esz) esz

/-- Run length of elements that meet `p`, up to 255, and what follows. -/
def takeRun (p : Nat → Bool) : (fuel : Nat) → List Nat → List Nat × List Nat
  | 0, es => ([], es)
  | _, [] => ([], [])
  | k + 1, x :: xs => if p x then let (a, b) := takeRun p k xs; (x :: a, b) else ([], x :: xs)

/-- The canonical ZRUN payload (R245). -/
def zrun (esz : Nat) : (fuel : Nat) → List Nat → List Byte
  | 0, _ => []
  | k + 1, es =>
    if es.all (· == 0) then [] else
    let (z, r) := takeRun (· == 0) 255 es
    let (l, r) := takeRun (· != 0) 255 r
    BitVec.ofNat 8 z.length :: BitVec.ofNat 8 l.length :: l.flatMap (fun x => toLE esz x) ++ zrun esz k r

def bitmap (esz : Nat) (es : List Nat) : List Byte :=
  toLE (es.length / 8) (es.foldr (fun x acc => 2 * acc + (if x = 0 then 0 else 1)) 0)
    ++ (es.filter (· != 0)).flatMap fun x => toLE esz x

/-- Method and payload that the encoder chooses (R245). -/
def zeChoose (esz : Nat) (bs : List Byte) : Nat × List Byte :=
  let es := zeElems esz bs
  if es.all (· == 0) then (3, []) else
  let b := bitmap esz es
  let z := zrun esz 4097 es
  let best := if b.length < 2048 then (1, b) else (0, bs)
  if z.length < best.2.length then (2, z) else best

def pad16 (bs : List Byte) : List Byte := bs ++ List.replicate ((16 - bs.length % 16) % 16) 0#8

/-- The record of a tile (R244), padded. -/
def zeRecord (fmt : Nat) (bs : List Byte) : List Byte :=
  let (m, p) := zeChoose (zeEsz fmt) bs
  let nnz := ((zeElems (zeEsz fmt) bs).filter (· != 0)).length
  pad16 (BitVec.ofNat 8 (m + 4 * zeEszCode fmt) :: 0#8 :: toLE 2 p.length ++ toLE 2 nnz ++ [0#8, 0#8]
    ++ toLE 8 (crc64 bs).toNat ++ p)

/-- Directory bytes for `n` tiles. -/
def zeDirLen (n : Nat) : Nat := 16 * cdiv (4 * n) 16

/-- Offsets of records of the given lengths. -/
def offsetsFrom : Nat → List Nat → List Nat
  | _, [] => []
  | o, n :: ns => o :: offsetsFrom (o + n) ns

/-- A stream of tiles: its records, and its header and directory (R243). -/
def zeStream (fmt : Nat) (tiles : List (List Byte)) : List Byte × List Byte :=
  let recs := tiles.map (zeRecord fmt)
  let base := 16 + zeDirLen tiles.length
  let body := recs.flatten
  let dir := pad16 ((offsetsFrom base (recs.map (·.length))).flatMap fun o => toLE 4 o)
  (body, toLE 4 tiles.length ++ toLE 4 (base + body.length) ++ List.replicate 8 0#8 ++ dir)

/-- Put elements of `esz` bytes back into a tile. -/
def zeTile (esz : Nat) (es : List Nat) : List Byte := slice (es.flatMap fun x => toLE esz x) 0 2048

/-- Decode a bitmap payload. -/
def unBitmap (esz : Nat) : (k : Nat) → (map : Nat) → List Byte → List Nat
  | 0, _, _ => []
  | k + 1, m, vs => if m % 2 = 1 then fieldLE vs 0 esz :: unBitmap esz k (m / 2) (vs.drop esz) else 0 :: unBitmap esz k (m / 2) vs

/-- Decode ZRUN tokens; none where they do not end exactly at LEN or name more than E elements (R246). -/
def unZrun (esz room : Nat) : (fuel : Nat) → List Byte → Option (List Nat)
  | 0, _ => none
  | _, [] => some (List.replicate room 0)
  | _, [_] => none
  | k + 1, z :: l :: r =>
    let (z, l) := (z.toNat, l.toNat)
    if room < z + l || r.length < l * esz then none
    else (unZrun esz (room - z - l) k (r.drop (l * esz))).map fun es =>
      List.replicate z 0 ++ (List.range l).map (fun i => fieldLE r (i * esz) esz) ++ es

/-- Decode a record whose header is `h` and payload `p`; none where it is malformed (R246). -/
def zeDecode (fmt : Nat) (h p : List Byte) : Option (List Byte) :=
  let esz := zeEsz fmt
  let b0 := fieldLE h 0 1
  let len := fieldLE h 2 2
  let nnz := fieldLE h 4 2
  let n := 2048 / esz
  if b0 / 16 ≠ 0 || fieldLE h 1 1 ≠ 0 || fieldLE h 6 2 ≠ 0 || b0 / 4 % 4 ≠ zeEszCode fmt then none else
  let es : Option (List Nat) :=
    match b0 % 4 with
    | 0 => if len = 2048 then some (zeElems esz p) else none
    | 1 => if len = n / 8 + nnz * esz then some (unBitmap esz n (ofLE (p.take (n / 8))) (p.drop (n / 8))) else none
    | 2 => unZrun esz n (len + 1) (p.take len)
    | _ => if len = 0 && nnz = 0 then some (List.replicate n 0) else none
  es.bind fun es =>
    let t := zeTile esz es
    if (es.filter (· != 0)).length = nnz && (crc64 t).toNat = fieldLE h 8 8 then some t else none

/-- One element of UNION_SUM (R247): the bits, and whether it saturated or became NaN. -/
def unionElem (fmt a b : Nat) : Nat × Bool × Bool :=
  if a = 0 then (b, false, false)
  else if b = 0 then (a, false, false)
  else if isInt fmt then
    let (x, sat) := satInt (elemBits fmt) (sext (elemBits fmt) a + sext (elemBits fmt) b)
    (intBits (elemBits fmt) x, sat, false)
  else
    match fmtOf fmt with
    | none => (0, false, false)
    | some f =>
      let c := castFmt f .near false ((to32 (decodeFmt f false a)).add (to32 (decodeFmt f false b)))
      (c.w, c.sat, c.isNan)

/-! ### Quantize (R250) -/

/-- One block: encoded, residuals after it, largest finite |y|, and residuals forced to 0. -/
structure QuantOut where
  b : BlockOut
  res : List FV
  amax : FV
  forced : Nat
  deriving DecidableEq, Repr

def fvAbs (v : FV) : FV := match v with | .num _ m e => .num false m e | .inf _ => .inf false | .nan => .nan

def quantBlock (fmt : Nat) (seed : Option Nat) (ftz : Bool) (scale : FV) (first : Nat) (ys : List FV) : QuantOut :=
  let unit := match scale with | .num _ m _ => m == 0 | _ => false
  let b := encodeBlock fmt seed ftz first (if isMx fmt || unit then ys else ys.map fun y => y.mul scale)
  let data := packElems (elemBits fmt) b.elems
  let back (i : Nat) : FV :=
    let v := decodeElem fmt false data b.scale i
    if isMx fmt || unit then v else v.div scale
  let res := (List.range ys.length).map fun i =>
    let y := ys.getD i .nan
    if isFinite y && isFinite (back i) then (y.sub (back i), false) else (fvZero, true)
  let amax := (ys.filter isFinite).foldl (fun a y => if a.lt (fvAbs y) then fvAbs y else a) fvZero
  { b := b, res := res.map (·.1), amax := amax, forced := (res.filter (·.2)).length }

end Sys2Proof.Machine
end

