-- ==== Sys2Proof/Machine/Specialty.lean ====
section
/-! DEFINITION. The specialty engines (ch. 08): the checks of R253, one release unit at a time, and its release (R221). -/

namespace Sys2Proof.Machine

/-! ### Checks before the record (R231, R238, R240, R248, R251) -/

def optFieldsOk (d : BitVec 256) : Bool :=
  let opc := spcOpc d
  let emit := optEmit d
  1 ≤ opc && opc ≤ 8 && dInFmt d ≤ 2 && dfield d 3 38 3 == 0 && dfield d 3 63 1 == 0
    && (if emit then dOutFmt d ≤ 10 else dOutFmt d == 0 && !dRnd d && !dFtz d && dfield d 3 0 37 == 0)
    && (opc != 7 || dfield d 1 13 37 == 0) && (readsGrad opc || dfield d 2 0 37 == 0)
    && (!(opc == 7 || opc == 4) || !emit) && (opc != 8 || emit)
    && (!(emit && isMx (dOutFmt d)) || dCount d % 32 == 0)

def lkpFieldsOk (d : BitVec 256) : Bool :=
  let i := dInFmt d
  let o := dOutFmt d
  dfield d 1 52 2 == 0 && dfield d 2 57 7 == 0 && dfield d 3 17 24 == 0 && dfield d 3 63 1 == 0
    && ((i ≤ 4 && o ≤ 4) || (lkpPool d == 0 && isInt i && i == o && !lkpWeighted d))

def zeFieldsOk (d : BitVec 256) : Bool :=
  let f := zeFmt d
  zeOpc d ≤ 2 && dfield d 1 52 2 == 0 && dfield d 1 58 6 == 0 && dfield d 2 57 7 == 0 && dfield d 3 37 27 == 0
    && (f ≤ 4 || isInt f) && (zeOpc d == 2 || dfield d 3 0 37 == 0)

def qeFieldsOk (d : BitVec 256) : Bool :=
  dfield d 1 50 4 == 0 && dInFmt d ≤ 2 && 3 ≤ dOutFmt d && dOutFmt d ≤ 10 && dfield d 3 37 4 == 0 && dfield d 3 63 1 == 0
    && (qeEf d || dfield d 3 0 37 == 0) && (!isMx (dOutFmt d) || dCount d % 32 == 0)

/-! ### Operands (R220, R232, R241) -/

/-- Bytes of an optimizer's state from its start to its last used byte. -/
def optExtent (d : BitVec 256) : Nat :=
  let n := dCount d
  let last := (n - 1) / 512
  let tiles := if spcOpc d = 8 then 1 else if keepsV (spcOpc d) then 3 else 2
  last * stripeSize d + (tiles - 1) * 2048 + 4 * (n - 512 * last)

/-- The operands that the descriptor's own fields name: row 3 of R253. -/
def spcOperandsOk (s : State) (d : Desc) : Bool :=
  let w := d.w
  let ctx := dCtx w
  let n := dCount w
  let cov (r a m : Nat) : Bool := opCovered s .engine r ctx d.no a m
  match dKind w with
  | 3 =>
    (spcOpc w == 7 || cov (if spcOpc w = 8 then rRead else rRead + rWrite) (dDst w) (optExtent w))
      && (!readsGrad (spcOpc w) || cov rRead (tileField w 2 0) (operandBytes (dInFmt w) n))
      && (!optEmit w || cov rWrite (tileField w 3 0) (operandBytes (dOutFmt w) n))
  | 4 => cov rWrite (tileField w 2 0) (lkpNout w * lkpOrow w)
  | 5 =>
    let worst := 16 + zeDirLen (zeNt w) + 2064 * zeNt w
    match zeOpc w with
    | 0 => cov rRead (tileField w 2 0) (2048 * zeNt w) && cov rWrite (dDst w) worst
    | 1 => cov rRead (tileField w 2 0) 16 && cov rWrite (dDst w) (2048 * zeNt w)
    | _ => cov rRead (tileField w 2 0) 16 && cov rRead (tileField w 3 0) 16 && cov rWrite (dDst w) worst
  | _ =>
    cov rRead (tileField w 2 0) (operandBytes (dInFmt w) n) && cov rWrite (dDst w) (operandBytes (dOutFmt w) n)
      && (!qeEf w || cov (rRead + rWrite) (tileField w 3 0) (4 * n))

def optMaxNorm (r : List Byte) : FV := fv32 r 0x1C
def optNormIn (r : List Byte) : Nat := fieldLE r 0x20 8
def optNormOut (r : List Byte) : Nat := fieldLE r 0x28 8
def optNeedsIn (opc : Nat) (r : List Byte) : Bool := opc == 5 || (opc ≤ 6 && fvPos (optMaxNorm r))
def optNeedsOut (opc : Nat) : Bool := opc == 4 || opc == 7

/-- The record's bytes and addresses: row 4 of R253. -/
def spcRecordOk (s : State) (d : Desc) (r : List Byte) : Bool :=
  let w := d.w
  let ctx := dCtx w
  match dKind w with
  | 3 =>
    let norm (rights a : Nat) : Bool := a % 16 == 0 && inStaging s rights ctx a 16
    fieldLE r 0x38 4 == 0 && (!optNeedsIn (spcOpc w) r || norm rRead (optNormIn r))
      && (!optNeedsOut (spcOpc w) || norm (rRead + rWrite) (optNormOut r))
  | 4 =>
    let idx := fieldLE r 0 8
    let wgt := fieldLE r 8 8
    let rows := fieldLE r 0x10 4
    fieldLE r 0x14 4 == 0 && fieldLE r 0x20 28 == 0 && 1 ≤ rows && rows ≤ 4294967294
      && idx % 4 == 0 && opCovered s .engine rRead ctx d.no idx (4 * lkpNidx w)
      && (if lkpWeighted w then wgt % 4 == 0 && opCovered s .engine rRead ctx d.no wgt (4 * lkpNidx w) else wgt == 0)
      && opCovered s .engine rRead ctx d.no (dDst w) (rows * lkpRowB w)
  | _ => fieldLE r 4 4 == 0 && fieldLE r 0x14 40 == 0

/-! ### Starting (R219, R229) -/

/-- What an optimizer descriptor reads from NORM_IN at its start: the clip factor c, whether the step is skipped, and
LR × r (R227, R229), as FP32 bits. A MAX_NORM that is NaN or below 0 leaves c open: a free value (log entry 2). -/
def optStart (s : State) (opc : Nat) (r g : List Byte) : State × List Nat :=
  let mx := optMaxNorm r
  let lr := fv32 r 0
  let zero := match mx with | .num _ m _ => m == 0 | _ => false
  let g2 := fv32 g 0
  let t := mx.mul mx
  let (c, s) :=
    if opc = 7 || zero then (fvOne, s)
    else if fvPos mx then (if t.lt g2 then mx.div g2.sqrt else fvOne, s)
    else let (v, s) := s.fresh; (of32 (v.toNat % 2 ^ 32), s)
  let skip := opc ≤ 6 && fvPos mx && !isFinite g2
  let ratio := if fvPos (fv32 g 4) && fvPos (fv32 g 8) then (fv32 g 4).sqrt.div (fv32 g 8).sqrt else fvOne
  (s, [bits32 c, b2n skip, bits32 (lr.mul ratio)])

/-- Set the engine's run. -/
def setRun (s : State) (e : Nat) (r : Run) : State := s.setEngine e { s.engine e with run := some r }

/-- Release units of a descriptor (R221, R233, R239, R248, R250). -/
def spcUnits (d : BitVec 256) : Nat :=
  match dKind d with
  | 3 => if spcOpc d = 7 then 1 else cdiv (dCount d) 512
  | 4 => lkpNout d
  | 5 => if zeOpc d = 1 then zeNt d else 1
  | _ => cdiv (dCount d) 32

/-- A descriptor that the engine has taken: checks, record, and what it reads before its first unit. -/
def spcStart (s : State) (e : Nat) (d : Desc) : State :=
  let w := d.w
  let dom := e / 4
  let cost := (descCost s w d.no).1
  let s := s.count (F.SPC_DESCRIPTORS dom)
  let ok := match dKind w with
    | 3 => optFieldsOk w
    | 4 => lkpFieldsOk w
    | 5 => zeFieldsOk w
    | _ => qeFieldsOk w
  if !ok || !spcOperandsOk s d then refuseTaken s d 0x20
  else if dKind w = 5 then setRun s e { d := d, cost := cost }
  else
    let a := recAddr w 3
    if !inStaging s rRead (dCtx w) a 64 then refuseTaken s d 0x20 else
    match readOp s .engine e (dCtx w) d.no a 64 with
    | (s, .fail c) => recordFails s d c
    | (s, .park _ _) => refuseTaken s d 0x20
    | (s, .ok rec) =>
      if !spcRecordOk s d rec then refuseTaken s d 0x20
      else if dKind w = 3 then
        if optNeedsIn (spcOpc w) rec then
          match readOp s .engine e (dCtx w) d.no (optNormIn rec) 16 with
          | (s, .ok g) =>
            let (s, acc) := optStart s (spcOpc w) rec g
            let s := if acc.getD 1 0 = 1 then s.count (F.SPC_KIND_A dom) else s
            setRun s e { d := d, bytes := rec, acc := acc, cost := cost }
          | (s, .fail c) => refuseTaken s d c
          | (s, .park _ _) => refuseTaken s d 0x20
        else
          let (s, acc) := optStart s (spcOpc w) rec []
          setRun s e { d := d, bytes := rec, acc := acc, cost := cost }
      else setRun s e { d := d, bytes := rec, acc := [0], cost := cost }

/-! ### The next unit of an optimizer descriptor -/

/-- Split a list of lanes into two of 32. -/
def lanesOf (r : Run) : List FV × List FV :=
  let ls := (List.range 64).map fun i => of32 (r.acc.getD (3 + i) 0)
  (ls.take 32, ls.drop 32)

def putLanes (r : Run) (a b : List FV) : List Nat := r.acc.take 3 ++ (a ++ b).map bits32

/-- The pieces a stripe of `m` parameters reads. -/
def optPieces (d : BitVec 256) (j m : Nat) : List (Nat × Nat) :=
  let base := dDst d + j * stripeSize d
  let opc := spcOpc d
  (if opc = 7 then [] else [(base, 4 * m)])
    ++ (if opc = 7 || opc = 8 then [] else [(base + 2048, 4 * m)])
    ++ (if keepsV opc then [(base + 4096, 4 * m)] else [])
    ++ (if readsGrad opc then [(tileField d 2 0 + j * 512 * elemBits (dInFmt d) / 8, dataBytes (elemBits (dInFmt d)) m)]
        else [])

/-- The results of a stripe: what is written, the run's lanes, and the counts. -/
def optUnit (r : Run) (m : Nat) (got : List (List Byte)) : Run :=
  let d := r.d.w
  let opc := spcOpc d
  let k := parseOpt r.bytes
  let c := of32 (r.acc.getD 0 0)
  let skip := r.acc.getD 1 0 == 1
  let lrr := of32 (r.acc.getD 2 0)
  let j := r.pos
  let wB := if opc = 7 then [] else got.getD 0 []
  let mB := if opc = 7 || opc = 8 then [] else got.getD 1 []
  let vB := if keepsV opc then got.getD 2 [] else []
  let gB := if readsGrad opc then got.getLastD [] else []
  let grad (i : Nat) : FV := c.mul (decodeElem (dInFmt d) false gB 0 i)
  let step (i : Nat) : FV × FV × FV × FV :=
    optStep opc (dfield d 3 37 1 == 1) k lrr (if readsGrad opc then grad i else fvZero) (fv32 wB (4 * i)) (fv32 mB (4 * i))
      (fv32 vB (4 * i))
  let res := (List.range m).map step
  let base := dDst d + j * stripeSize d
  let writesW := opc ≤ 3 || opc == 5 || opc == 6
  let writesM := opc ≤ 4 || opc == 6
  let writesV := opc == 2 || opc == 3 || opc == 4
  let st : List (Nat × List FV) := if skip || opc = 7 || opc = 8 then [] else
    (if writesW then [(base, res.map (·.1))] else [])
      ++ (if writesM then [(base + 2048, res.map (·.2.1))] else [])
      ++ (if writesV then [(base + 4096, res.map (·.2.2.1))] else [])
  let ws := if skip || opc = 8 then (List.range m).map fun i => fv32 wB (4 * i) else res.map (·.1)
  let out := dOutFmt d
  let wo := elemBits out
  let blocks := (List.range (cdiv m 32)).map fun b =>
    encodeBlock out (if dRnd d then some (fieldLE r.bytes 0x30 8) else none) (dFtz d) (512 * j + 32 * b)
      ((ws.drop (32 * b)).take 32)
  let emit : List (Nat × List Byte) := if !optEmit d then [] else
    (tileField d 3 0 + j * 64 * wo, packElems wo (blocks.flatMap (·.elems)))
      :: (if isMx out then [(tileField d 3 0 + scaleOff wo (dCount d) + 16 * j, blocks.map fun b => BitVec.ofNat 8 b.scale)]
          else [])
  let (la, lb) := lanesOf r
  let sq (f : FV × FV × FV × FV → FV) : List FV := res.map fun x => (f x).mul (f x)
  let acc :=
    if skip then r.acc
    else if opc = 4 then putLanes r (addLanes la (512 * j) (sq (·.1))) (addLanes lb (512 * j) (sq (·.2.2.2)))
    else if opc = 7 then putLanes r (addLanes la (512 * j) ((List.range m).map fun i => (grad i).mul (grad i))) lb
    else r.acc
  let nans := (st.map fun x => (x.2.filter fun v => decide (v = .nan)).length).sum
  { r with
    out := (st.map fun x => (x.1, x.2.flatMap fvBytes)) ++ emit, acc := acc, ready := true,
    cnt := [if optEmit d then (blocks.map (·.sats)).sum else 0,
      nans + (if optEmit d then (blocks.map (·.nans)).sum else 0), 0, if st.isEmpty then 0 else m] }

/-- NORM takes every parameter in its one unit. -/
def optNorm (s : State) (e : Nat) (d : Desc) : (fuel : Nat) → Run → State × Got × Run
  | 0, r => (s, .ok [], r)
  | k + 1, r =>
    let n := dCount d.w
    if cdiv n 512 ≤ r.pos then (s, .ok [], r) else
    let m := min 512 (n - 512 * r.pos)
    match readMany s .engine e (dCtx d.w) d.no (optPieces d.w r.pos m) with
    | (s, .ok _, got) =>
      let r := optUnit r m got
      optNorm s e d k { r with pos := r.pos + 1 }
    | (s, g, _) => (s, g, r)

/-! ### The next unit of a lookup descriptor -/

/-- Fetch the rows of a bag's slots, with their weights, in slot order (R236). -/
def fetchRows (s : State) (e : Nat) (r : Run) : List (Nat × Nat) → State × Got × List (SlotKind × Nat × List Byte)
  | [] => (s, .ok [], [])
  | (slot, idx) :: rest =>
    let d := r.d.w
    let ctx := dCtx d
    let no := r.d.no
    let kind := slotKind (fieldLE r.bytes 0x10 4) idx
    let go (s : State) (x : SlotKind × Nat × List Byte) : State × Got × List (SlotKind × Nat × List Byte) :=
      match fetchRows s e r rest with
      | (s, g, l) => (s, g, x :: l)
    match kind with
    | .pad => go s (kind, 0, [])
    | _ =>
      let wgt : State × Got :=
        if lkpWeighted d then readOp s .engine e ctx no (fieldLE r.bytes 8 8 + 4 * slot) 4 else (s, .ok [])
      match wgt with
      | (s, .ok wb) =>
        match kind with
        | .row k =>
          match readOp s .engine e ctx no (dDst d + k * lkpRowB d) (lkpRowB d) with
          | (s, .ok row) => go s (kind, ofLE wb, row)
          | (s, g) => (s, g, [])
        | _ => go s (kind, ofLE wb, [])
      | (s, g) => (s, g, [])

/-- The output row of a lookup (R237, R239). An out-of-range slot's row is zeros: GATHER multiplies it by the slot's weight as any row,
while SUM, MEAN and MAX take zeros. -/
def lkpRow (r : Run) (rows : List (SlotKind × Nat × List Byte)) : Run :=
  let d := r.d.w
  let n := lkpElems d
  let i := dInFmt d
  let o := dOutFmt d
  let counted := rows.filter fun x => x.1 != .pad
  let value (x : SlotKind × Nat × List Byte) (k : Nat) : FV :=
    match x.1 with
    | .row _ =>
      let v := decodeElem i (dFtz d) x.2.2 0 k
      if lkpWeighted d && lkpPool d != 3 then v.mul (of32 x.2.1) else v
    | .outOfRange => if lkpWeighted d && lkpPool d == 0 then fvZero.mul (of32 x.2.1) else fvZero
    | .pad => fvZero
  let b : BlockOut :=
    if isInt i then
      { elems := (List.range n).map fun k => match counted with | x :: _ => elemAt x.2.2 (elemBits i) k | [] => 0 }
    else
      encodeBlock o (if dRnd d then some (fieldLE r.bytes 0x18 8) else none) (dFtz d) (r.pos * n)
        ((List.range n).map fun k => poolOne (lkpPool d) counted.length (counted.map fun x => value x k))
  let oor := (rows.filter fun x => x.1 == .outOfRange).length
  { r with
    out := [(tileField d 2 0 + r.pos * lkpOrow d, slice (packElems (elemBits o) b.elems) 0 (lkpOrow d))], ready := true,
    cnt := [b.sats, b.nans, oor, counted.length - oor] }

/-! ### The next unit of a compression descriptor -/

/-- Read one record of a stream at offset `off`: header, payload and padded length; none where it leaves the stream. -/
def readRecord (s : State) (e : Nat) (d : Desc) (src off total : Nat) : State × Got × Nat :=
  let ctx := dCtx d.w
  if total < off + 16 then (s, .fail 0x30, 1) else
  match readOp s .engine e ctx d.no (src + off) 16 with
  | (s, .ok h) =>
    let len := fieldLE h 2 2
    let size := 16 * cdiv (16 + len) 16
    if total < off + size then (s, .fail 0x30, 1) else
    (match readOp s .engine e ctx d.no (src + off + 16) len with
     | (s, .ok p) =>
       (match zeDecode (zeFmt d.w) h p with
        | some t => (s, .ok t, size)
        | none => (s, .fail 0x30, 1))
     | (s, g) => (s, g, 0))
  | (s, g) => (s, g, 0)

/-- The header and directory entry of record `k` of a stream, checked; TOTAL_LEN. The last number is 1 for a malformed
stream. -/
def readHeader (s : State) (e : Nat) (d : Desc) (src k off : Nat) : State × Got × Nat × Nat :=
  let ctx := dCtx d.w
  match readOp s .engine e ctx d.no src 16 with
  | (s, .ok h) =>
    let total := fieldLE h 4 4
    if fieldLE h 0 4 ≠ zeNt d.w || fieldLE h 8 8 ≠ 0 || total < 16 + zeDirLen (zeNt d.w) then (s, .fail 0x30, total, 1)
    else if !opCovered s .engine rRead ctx d.no src total then (s, .fail 0x20, total, 0)
    else
      (match readOp s .engine e ctx d.no (src + 16 + 4 * k) 4 with
       | (s, .ok x) => if ofLE x = off then (s, .ok [], total, 0) else (s, .fail 0x30, total, 1)
       | (s, g) => (s, g, total, 0))
  | (s, g) => (s, g, 0, 0)

/-- What reading a tile of a stream gives besides: the offset of the next record, the stream's length, and 1 for a malformed stream. -/
structure AtTile where
  next : Nat := 0
  total : Nat := 0
  bad : Nat := 0
  deriving DecidableEq, Repr

/-- The tile of record `k` at offset `off` (R243, R246). -/
def readTile (s : State) (e : Nat) (d : Desc) (src k off : Nat) : State × Got × AtTile :=
  match readHeader s e d src k off with
  | (s, .ok _, total, _) =>
    (match readRecord s e d src off total with
     | (s, .ok t, size) =>
       if k + 1 = zeNt d.w && off + size ≠ total then (s, .fail 0x30, { bad := 1 })
       else (s, .ok t, { next := off + size, total := total })
     | (s, g, bad) => (s, g, { bad := bad }))
  | (s, g, _, bad) => (s, g, { bad := bad })

/-- Every tile of a stream; the last record ends at the stream's length. -/
def readStream (s : State) (e : Nat) (d : Desc) (src : Nat) : (n : Nat) → (k off : Nat) →
    State × Got × List (List Byte) × AtTile
  | 0, _, off => (s, .ok [], [], { total := off })
  | n + 1, k, off =>
    match readTile s e d src k off with
    | (s, .ok t, x) =>
      (match readStream s e d src n (k + 1) x.next with
       | (s, g, ts, y) => (s, g, t :: ts, y))
    | (s, g, x) => (s, g, [], x)

/-- A stream to be written: records first, then directory and header (R248). -/
def streamOut (d : BitVec 256) (tiles : List (List Byte)) : List (Nat × List Byte) :=
  let (body, head) := zeStream (zeFmt d) tiles
  [(dDst d + head.length, body), (dDst d + 16, head.drop 16), (dDst d, head.take 16)]

/-- The sum of two tiles (R247), with saturations and NaN results. -/
def unionTile (fmt : Nat) (a b : List Byte) : List Byte × Nat × Nat :=
  let esz := zeEsz fmt
  let xs := (zeElems esz a).zip (zeElems esz b)
  let rs := xs.map fun x => unionElem fmt x.1 x.2
  (zeTile esz (rs.map (·.1)), (rs.filter (·.2.1)).length, (rs.filter (·.2.2)).length)

/-! ### One unit (R221, R222) -/

/-- How a unit's computation ends: computed, parked, or failed; `bad` counts a malformed record (R246). -/
def spcEnd (s : State) (e : Nat) (r : Run) (g : Got) (bad : Nat) : State :=
  match g with
  | .ok _ => setRun s e r
  | .park k p => parkRun s e r k p
  | .fail c => endRun (s.count (F.SPC_KIND_A (e / 4)) bad) e r c

/-- Compute the next unit of the running descriptor. -/
def spcCompute (s : State) (e : Nat) (r : Run) : State :=
  let d := r.d
  let w := d.w
  let ctx := dCtx w
  match dKind w with
  | 3 =>
    if spcOpc w = 7 then
      match optNorm s e d (cdiv (dCount w) 512 + 1) { r with pos := 0, acc := r.acc.take 3 } with
      | (s, .ok _, x) => setRun s e { x with pos := r.pos, ready := true }
      | (s, g, _) => spcEnd s e r g 0
    else
      let m := min 512 (dCount w - 512 * r.pos)
      match readMany s .engine e ctx d.no (optPieces w r.pos m) with
      | (s, .ok _, got) => setRun s e (optUnit r m got)
      | (s, g, _) => spcEnd s e r g 0
  | 4 =>
    let slots := if lkpPool w = 0 then [r.pos] else (List.range (lkpBag w)).map fun k => r.pos * lkpBag w + k
    match readOp s .engine e ctx d.no (fieldLE r.bytes 0 8 + 4 * slots.headD 0) (4 * slots.length) with
    | (s, .ok ix) =>
      (match fetchRows s e r ((List.range slots.length).map fun k => (slots.getD k 0, fieldLE ix (4 * k) 4)) with
       | (s, .ok _, rows) => setRun s e (lkpRow r rows)
       | (s, g, _) => spcEnd s e r g 0)
    | (s, g) => spcEnd s e r g 0
  | 5 =>
    let src := tileField w 2 0
    let base := 16 + zeDirLen (zeNt w)
    match zeOpc w with
    | 0 =>
      (match readMany s .engine e ctx d.no ((List.range (zeNt w)).map fun k => (src + 2048 * k, 2048)) with
       | (s, .ok _, ts) => setRun s e { r with out := streamOut w ts, ready := true, cnt := [0, 0, 0, zeNt w] }
       | (s, g, _) => spcEnd s e r g 0)
    | 1 =>
      (match readTile s e d src r.pos (if r.pos = 0 then base else r.acc.getD 0 0) with
       | (s, .ok t, x) =>
         setRun s e { r with
           out := [(dDst w + 2048 * r.pos, t)], acc := [x.next, x.total], ready := true, cnt := [0, 0, 0, 1] }
       | (s, g, x) => spcEnd s e r g x.bad)
    | _ =>
      (match readStream s e d src (zeNt w) 0 base with
       | (s, .ok _, as, x) =>
         (match readStream s e d (tileField w 3 0) (zeNt w) 0 base with
          | (s, .ok _, bs, y) =>
            let ts := (as.zip bs).map fun x => unionTile (zeFmt w) x.1 x.2
            setRun s e { r with
              out := streamOut w (ts.map (·.1)), ready := true, acc := [0, x.total, y.total],
              cnt := [(ts.map (·.2.1)).sum, (ts.map (·.2.2)).sum, 0, zeNt w] }
          | (s, g, _, x) => spcEnd s e r g x.bad)
       | (s, g, _, x) => spcEnd s e r g x.bad)
  | _ =>
    let n := dCount w
    let m := min 32 (n - 32 * r.pos)
    let wi := elemBits (dInFmt w)
    let wo := elemBits (dOutFmt w)
    let pieces := (tileField w 2 0 + 4 * wi * r.pos, dataBytes wi m)
      :: (if qeEf w then [(tileField w 3 0 + 128 * r.pos, 4 * m)] else [])
    match readMany s .engine e ctx d.no pieces with
    | (s, .ok _, got) =>
      let y (i : Nat) : FV :=
        let v := decodeElem (dInFmt w) (dFtz w) (got.headD []) 0 i
        if qeEf w then v.add (fv32 (got.getD 1 []) (4 * i)) else v
      let q := quantBlock (dOutFmt w) (if dRnd w then some (fieldLE r.bytes 8 8) else none) (dFtz w) (fv32 r.bytes 0)
        (32 * r.pos) ((List.range m).map y)
      let out : List (Nat × List Byte) := (dDst w + 4 * wo * r.pos, packElems wo q.b.elems)
        :: (if isMx (dOutFmt w) then [(dDst w + scaleOff wo n + r.pos, [BitVec.ofNat 8 q.b.scale])] else [])
        ++ (if qeEf w then [(tileField w 3 0 + 128 * r.pos, q.res.flatMap fvBytes)] else [])
      let old := of32 (r.acc.getD 0 0)
      setRun s e { r with
        out := out, ready := true, acc := [r.acc.getD 0 0, bits32 (if old.lt q.amax then q.amax else old)],
        cnt := [q.b.sats, q.b.nans, if qeEf w then q.forced else 0, m] }
    | (s, g, _) => spcEnd s e r g 0

/-- Tiles of a stripe that an operation reads or writes, and those that it writes (R226, R227). -/
def stateTiles (opc : Nat) : List Nat := if opc = 7 then [] else if opc = 8 then [0] else if keepsV opc then [0, 1, 2] else [0, 1]
def writtenTiles (opc : Nat) : List Nat :=
  if opc = 7 || opc = 8 then [] else if opc = 5 then [0] else if opc = 4 then [1, 2] else stateTiles opc

/-- The areas of these tiles in every stripe; the last may be partial. -/
def stripeAreas (d : BitVec 256) (tiles : List Nat) : List (Nat × Nat × Nat) :=
  (List.range (cdiv (dCount d) 512)).flatMap fun j => tiles.map fun t =>
    (32, dDst d + j * stripeSize d + 2048 * t, 4 * min 512 (dCount d - 512 * j))

/-- Bytes of a destination that hold free values after the unit, for overlaps that no section permits (R223), as bit ranges. -/
def spcOverlaps (r : Run) : List (Nat × Nat) :=
  let d := r.d.w
  let n := dCount d
  let a2 := tileField d 2 0
  let a3 := tileField d 3 0
  match dKind d with
  | 3 =>
    let opc := spcOpc d
    let grad := if readsGrad opc then areas (dInFmt d) a2 n else []
    let out := if optEmit d then areas (dOutFmt d) a3 n else []
    let normIn : List (Nat × Nat × Nat) := if optNeedsIn opc r.bytes then [(8, optNormIn r.bytes, 16)] else []
    let normOut : List (Nat × Nat × Nat) := if optNeedsOut opc then [(8, optNormOut r.bytes, 16)] else []
    let st := stripeAreas d (stateTiles opc)
    let same := a3 == a2 && elemBits (dOutFmt d) == elemBits (dInFmt d)
    meetBytes (stripeAreas d (writtenTiles opc)) (grad ++ normIn) ++ (if same then [] else meetBytes out grad)
      ++ meetBytes out (st ++ normIn) ++ meetBytes normOut (st ++ grad ++ normIn)
  | 4 =>
    let idx : List (Nat × Nat × Nat) := [(8, fieldLE r.bytes 0 8, 4 * lkpNidx d)]
    let wgt : List (Nat × Nat × Nat) := if lkpWeighted d then [(8, fieldLE r.bytes 8 8, 4 * lkpNidx d)] else []
    meetBytes [(8, a2, lkpNout d * lkpOrow d)] ((8, dDst d, fieldLE r.bytes 0x10 4 * lkpRowB d) :: idx ++ wgt)
  | 5 =>
    match zeOpc d with
    | 0 => [(8 * a2, 8 * (a2 + 2048 * zeNt d))]
    | 1 => [(8 * a2, 8 * (a2 + r.acc.getD 1 0))]
    | _ => [(8 * a2, 8 * (a2 + r.acc.getD 1 0)), (8 * a3, 8 * (a3 + r.acc.getD 2 0))]
  | _ =>
    let src := areas (dInFmt d) a2 n
    let dst := areas (dOutFmt d) (dDst d) n
    let res := if qeEf d then areas 0 a3 n else []
    meetBytes dst (src ++ res) ++ meetBytes res src

/-- Add the partial norms to NORM_OUT, once, on success (R230): each field in FP32. -/
def addNorm (s : State) (e : Nat) (r : Run) : State × Got :=
  let d := r.d
  let opc := spcOpc d.w
  if !(opc = 4 || opc = 7) || r.acc.getD 1 0 = 1 then (s, .ok []) else
  let a := optNormOut r.bytes
  match readOp s .engine e (dCtx d.w) d.no a 16 with
  | (s, .ok g) =>
    let (la, lb) := lanesOf r
    let new := if opc = 7 then fvBytes ((fv32 g 0).add (treeSum la)) ++ g.drop 4
      else g.take 4 ++ fvBytes ((fv32 g 4).add (treeSum la)) ++ fvBytes ((fv32 g 8).add (treeSum lb)) ++ g.drop 12
    let (s, new) := freeBytes s (spcOverlaps r) a new
    writeOp s .engine e (dCtx d.w) d.no a new
  | x => x

/-- The computed unit is written and released; after the last the norms are added and the descriptor ends (R221). NORM's one unit is that
addition: it is released where the addition is made. -/
def spcRelease (s : State) (e : Nat) (r : Run) : State :=
  let d := r.d
  let dom := e / 4
  match storedOk s e (dCtx d.w) d.no r.out with
  | (s, .park k p) => parkRun s e r k p
  | (s, .fail c) => endRun s e r c
  | (s, .ok _) =>
    let s := writeFree s e (dCtx d.w) d.no (spcOverlaps r) r.out
    let s := (s.count (F.SPC_SATURATED dom) (r.cnt.getD 0 0)).count (F.SPC_NAN_OUT dom) (r.cnt.getD 1 0)
    let s := (s.count (F.SPC_KIND_A dom) (r.cnt.getD 2 0)).count (F.SPC_KIND_B dom) (r.cnt.getD 3 0)
    let acc := if dKind d.w = 6 then [r.acc.getD 1 0] else r.acc
    let next := { r with pos := r.pos + 1, out := [], cnt := [], ready := false, acc := acc }
    if next.pos < spcUnits d.w then setRun s e next
    else
      match if dKind d.w = 3 then addNorm s e r else (s, .ok []) with
      | (s, .fail c) => endRun s e (if spcOpc d.w = 7 then r else next) c
      | (s, _) => endRun s e next 0

/-- Take the next descriptor where the engine runs none and it is one that `mine` accepts, then compute its next unit. -/
def spcRun (s : State) (e : Nat) (mine : BitVec 256 → Bool) : State :=
  if nEng s ≤ e || e % 4 ≠ 3 || s.engFenced e then s else
  let s := match pickNext s e with
    | .resume r => if mine r.d.w then resumeRun s e r else s
    | .over d => if mine d.w then refuseOver s e d else s
    | .start d => if mine d.w then spcStart (chargeStart s e d) e d else s
    | _ => s
  match (s.engine e).run with
  | some r => if r.park.isNone && !r.ready && mine r.d.w then spcCompute s e r else s
  | none => s

/-- An optimizer descriptor of operation `k`, or one whose operation is reserved. -/
def isOpt (k : Nat) (w : BitVec 256) : Bool := dKind w == 3 && (spcOpc w == k || !(1 ≤ spcOpc w && spcOpc w ≤ 8))

/-- SGD (R227). -/
def execSgd (e : Nat) (s : State) : Out := .next (inActive s fun s => settle (spcRun s e (isOpt 1)))
/-- ADAM (R227). -/
def execAdam (e : Nat) (s : State) : Out := .next (inActive s fun s => settle (spcRun s e (isOpt 2)))
/-- ADAMW (R227). -/
def execAdamw (e : Nat) (s : State) : Out := .next (inActive s fun s => settle (spcRun s e (isOpt 3)))
/-- LAMB_MOMENTS (R227). -/
def execLambMoments (e : Nat) (s : State) : Out := .next (inActive s fun s => settle (spcRun s e (isOpt 4)))
/-- LAMB_APPLY (R227). -/
def execLambApply (e : Nat) (s : State) : Out := .next (inActive s fun s => settle (spcRun s e (isOpt 5)))
/-- LION (R227). -/
def execLion (e : Nat) (s : State) : Out := .next (inActive s fun s => settle (spcRun s e (isOpt 6)))
/-- NORM (R227). -/
def execNorm (e : Nat) (s : State) : Out := .next (inActive s fun s => settle (spcRun s e (isOpt 7)))
/-- CAST (R226, R227). -/
def execCast (e : Nat) (s : State) : Out := .next (inActive s fun s => settle (spcRun s e (isOpt 8)))
/-- LOOKUP_DESCRIPTOR (R236, R237). -/
def execLookupDescriptor (e : Nat) (s : State) : Out :=
  .next (inActive s fun s => settle (spcRun s e fun w => dKind w == 4))
/-- ENCODE (R245). -/
def execEncode (e : Nat) (s : State) : Out :=
  .next (inActive s fun s => settle (spcRun s e fun w => dKind w == 5 && (zeOpc w == 0 || zeOpc w == 3)))
/-- DECODE (R246). -/
def execDecode (e : Nat) (s : State) : Out :=
  .next (inActive s fun s => settle (spcRun s e fun w => dKind w == 5 && (zeOpc w == 1 || zeOpc w == 3)))
/-- UNION_SUM (R247). -/
def execUnionSum (e : Nat) (s : State) : Out :=
  .next (inActive s fun s => settle (spcRun s e fun w => dKind w == 5 && (zeOpc w == 2 || zeOpc w == 3)))
/-- QUANTIZE_DESCRIPTOR (R250). -/
def execQuantizeDescriptor (e : Nat) (s : State) : Out :=
  .next (inActive s fun s => settle (spcRun s e fun w => dKind w == 6))

/-- SPC_UNIT_RELEASE (R221). -/
def execSpcUnitRelease (e : Nat) (s : State) : Out :=
  .next (inActive s fun s => settle <|
    if nEng s ≤ e || e % 4 ≠ 3 then s else
    match (s.engine e).run with
    | some r => if r.park.isNone && r.ready then spcRelease s e r else s
    | none => s)

end Sys2Proof.Machine
end

