-- ==== Sys2Proof/Machine/Transfer.lean ====
section
/-! DEFINITION. The transfer engines (ch. 09): checks, the walk, progress units, the cursor. -/

namespace Sys2Proof.Machine

/-! ### Checks (R257, R258, R260, R267, R269, R270) -/

def teFieldsOk (d : BitVec 256) : Bool :=
  dfield d 1 40 1 == 0 && dfield d 1 63 1 == 0 && dfield d 2 48 16 == 0 && dfield d 3 48 16 == 0
    && dfield d 1 36 3 ≤ 4 && tePdim d ≤ 5 && dfield d 1 41 18 % 2 == 0

/-- Alignment of addresses and of the strides that are not ignored (R257). -/
def teAligned (d : BitVec 256) (w : Walk) : Bool :=
  let z := teEsz d
  teSrc d % z == 0 && teDst d % z == 0
    && (List.range 5).all fun k => w.cnt k == 1 || (w.ss.getD k 0 % z == 0 && w.ds.getD k 0 % z == 0)

/-- Position where the walk starts: the cursor of a resumption (R267). -/
def teOrigin (d : BitVec 256) (w : Walk) : Nat := if teResume d then w.posOf w.cur else 0

/-- The checks of the cursor (R267). -/
def teCursorOk (d : BitVec 256) (w : Walk) : Bool :=
  !teResume d || (((List.range 5).all fun k => w.cur.getD k 0 < w.cnt k && (tePdim d ≤ k || w.cur.getD k 0 == 0))
    && w.done == w.posOf w.cur / w.unit (tePdim d))

/-- Does a range lie in one staging grant, or in one segment with the right (R258)? -/
def teCovered (s : State) (ctx no rights : Nat) (r : Int × Int) : Bool :=
  if r.1 < 0 || 2 ^ 48 < r.2 then false else
  let a := r.1.toNat
  let n := (r.2 - r.1).toNat
  if bit a 47 then
    bits a 28 19 == 0 && stgBank a < nDom s && stgOff a + n ≤ 0xB00000 && (s.grants ctx).any fun g =>
      let (v, bk, first, cnt) := stgWord g
      v && bk == stgBank a && first * 2048 ≤ stgOff a && stgOff a + n ≤ (first + cnt) * 2048
  else
    match findSeg s ctx no a n with
    | some (_, g) => (segRights g.e.toNat &&& rights) == rights && reaches .te (segBacking g.e.toNat)
    | none => false

def teWalkOk (s : State) (d : Desc) (r : List Byte) : Bool :=
  let w := parseWalk r
  fieldLE r 0x14 4 == 0 && teAligned d.w w && teCursorOk d.w w
    && teCovered s (dCtx d.w) d.no rRead (teExtent d.w w w.ss (teSrc d.w))
    && teCovered s (dCtx d.w) d.no rWrite (teExtent d.w w w.ds (teDst d.w))

/-! ### Starting (R258, R264–R267) -/

def teStart (s : State) (e : Nat) (d : Desc) : State :=
  let dom := e / 4
  let s := s.count (F.TE_DESCRIPTORS dom)
  let s := if teResume d.w then s.count (F.TE_RESUMED dom) else s
  let a := recAddr d.w 1
  if !teFieldsOk d.w || !inStaging s rRead (dCtx d.w) a 128 then refuseTaken s d 0x20 else
  match readOp s .engine e (dCtx d.w) d.no a 128 with
  | (s, .fail c) => recordFails s d c
  | (s, .park _ _) => refuseTaken s d 0x20
  | (s, .ok r) =>
    if !teWalkOk s d r then refuseTaken s d 0x20
    else
      let w := parseWalk r
      let run : Run := {
        d := d, bytes := r, pos := if teResume d.w then w.done else 0, acc := [teOrigin d.w w],
        cost := (descCost s d.w d.no).1 }
      s.setEngine e { s.engine e with run := some run }

/-- TE_DESCRIPTOR_START (R107, R258). -/
def execTeDescriptorStart (e : Nat) (s : State) : Out :=
  .next (inActive s fun s => settle <|
    if nEng s ≤ e || e % 4 ≠ 1 || s.engFenced e then s else
    match pickNext s e with
    | .resume r => resumeRun s e r
    | .over d => refuseOver s e d
    | .start d => teStart (chargeStart s e d) e d
    | _ => s)

/-! ### One progress unit (R256, R259, R261–R264) -/

/-- The address of an index vector on one side, modulo 2^64 (R256). -/
def teAddr (base : Nat) (strides : List Int) (cnts : List Nat) (v : List Nat) : Nat :=
  (((base : Int) + ((List.range 5).map fun k =>
    (if cnts.getD k 1 = 1 then 0 else strides.getD k 0) * (v.getD k 0 : Int)).sum) % (2 ^ 64 : Int)).toNat

/-- Source and destination address of each element of a unit, in walk order. -/
def teElems (d : BitVec 256) (w : Walk) (lo hi : Nat) : List (Nat × Nat) :=
  (List.range (hi - lo)).map fun k =>
    let v := w.vec (lo + k)
    (teAddr (teSrc d) w.ss w.n v, teAddr (teDst d) w.ds w.n v)

/-- The first element access that does not translate. -/
def teFault (s : State) (ctx no z : Nat) : List (Nat × Nat) → Option Got
  | [] => none
  | (a, b) :: r =>
    let f (rights x : Nat) : Option Got :=
      match opTranslate s .te rights ctx no x z with
      | .fault k p => some (.park k p)
      | .bad => some (.fail 0x20)
      | _ => none
    match f rRead a, f rWrite b with
    | some g, _ => some g
    | none, some g => some g
    | none, none => teFault s ctx no z r

/-- What a unit gathers: bytes for memory by physical address, reads of the host (R315) and writes to it, host bytes left, and host
bytes moved. -/
structure Gather where
  mem : SMap Byte := []
  reads : List (Nat × Nat) := []
  host : List (Nat × List Byte) := []
  data : List Byte := []
  moved : Nat := 0
  deriving DecidableEq, Repr

def putBytes (m : SMap Byte) (a : Nat) : List Byte → SMap Byte
  | [] => m
  | b :: bs => putBytes (smSet m a b) (a + 1) bs

/-- Add a write to the host, joined to the one before where they are contiguous. -/
def addHost (h : List (Nat × List Byte)) (a : Nat) (bs : List Byte) : List (Nat × List Byte) :=
  match h.getLast? with
  | some (x, ys) => if x + ys.length = a then h.dropLast ++ [(x, ys ++ bs)] else h ++ [(a, bs)]
  | none => [(a, bs)]

/-- Add a read of the host, joined to the one before where they are contiguous. -/
def addRead (h : List (Nat × Nat)) (a n : Nat) : List (Nat × Nat) :=
  match h.getLast? with
  | some (x, m) => if x + m = a then h.dropLast ++ [(x, m + n)] else h ++ [(a, n)]
  | none => [(a, n)]

/-- Read the source elements and place them, later visits over earlier ones (R259). -/
def teGather (s : State) (e ctx no z : Nat) (free : List (Nat × Nat)) : List (Nat × Nat) → Gather → State × Nat × Gather
  | [], g => (s, 0, g)
  | (a, b) :: r, g =>
    let got : State × Nat × List Byte × Gather :=
      match opTranslate s .te rRead ctx no a z with
      | .mem pa =>
        (match memRead s e pa z with
         | (s, c, bs) => (touchPage s ctx no a z false, c, bs, g))
      | .host h => (s, 0, slice g.data 0 z, { g with reads := addRead g.reads h z, data := g.data.drop z, moved := g.moved + z })
      | _ => (s, 0x20, [], g)
    match got with
    | (s, 0, bs, g) =>
      let (s, bs) := if free = [] then (s, bs) else freeBytes s free b bs
      (match opTranslate s .te rWrite ctx no b z with
       | .mem pb => teGather (touchPage s ctx no b z true) e ctx no z free r { g with mem := putBytes g.mem pb bs }
       | .host hb => teGather s e ctx no z free r { g with host := addHost g.host hb bs, moved := g.moved + z }
       | _ => (s, 0x20, g))
    | (s, c, _, g) => (s, c, g)

/-- The bytes of the first tile of a sorted map, and the rest. -/
def firstTile (m : SMap Byte) : SMap Byte × SMap Byte :=
  match m with
  | [] => ([], [])
  | (a, _) :: _ => (m.filter fun e => tileOf e.1 == tileOf a, m.filter fun e => tileOf e.1 != tileOf a)

/-- Write gathered bytes tile by tile: whole tiles without a read, others by read-modify-write (R176, R284). -/
def writeSparse (s : State) (req : Nat) : (fuel : Nat) → SMap Byte → State × Nat
  | 0, _ => (s, 0)
  | k + 1, m =>
    match firstTile m with
    | ([], _) => (s, 0)
    | ((a, b) :: t, rest) =>
      let tile := tileOf a
      if t.length = 2047 then
        match tileWrite s req (tile <<< 11) (b :: t.map (·.2)) with
        | (s, 0) => writeSparse s req k rest
        | r => r
      else if s.tileFenced tile then (s, 0x7F)
      else
        match s.tileCheck req tile with
        | (s, 0) =>
          let s := if isStg a then s.count (F.STG_RMW (stgBank a)) else s.count (F.HBM_RMW (stackOf s.variant a))
          writeSparse (((a, b) :: t).foldl (fun s e => s.setByte e.1 e.2) s) req k rest
        | r => r

/-- Destination bytes that hold free values: where the ranges overlap, unless the walks are the same (R259). -/
def teOverlaps (d : BitVec 256) (w : Walk) : List (Nat × Nat) :=
  let a := teExtent d w w.ss (teSrc d)
  let b := teExtent d w w.ds (teDst d)
  let same := teSrc d == teDst d && (List.range 5).all fun k => w.cnt k == 1 || w.ss.getD k 0 == w.ds.getD k 0
  let lo := max a.1 b.1
  let hi := min a.2 b.2
  if same || hi ≤ lo then [] else [(8 * lo.toNat, 8 * hi.toNat)]

/-- A released unit: its progress signal, the counters, and the end of the walk (R261, R266). -/
def teReleased (s : State) (e : Nat) (r : Run) (moved : Nat) : State :=
  let d := r.d
  let dom := e / 4
  let w := parseWalk r.bytes
  let s := if tePdim d.w = 0 then s else
    s.syncSend { req := 16 + e, obj := dfield d.w 1 13 12, ctx := some (dCtx d.w),
                 op := .signal (max 1 (dfield d.w 1 25 8)), th := none }
  let total := (s.engine e).hostBytes + moved
  let s := (s.count (F.TE_UNITS dom)).count (F.TE_HOST_KIB dom) (total / 1024)
  let s := s.setEngine e { s.engine e with hostBytes := total % 1024 }
  let r := { r with pos := r.pos + 1 }
  if w.span 5 ≤ r.pos * w.unit (tePdim d.w) then endRun s e r 0 else s.setEngine e { s.engine e with run := some r }

/-- The reads of host memory that a unit has issued. -/
def emitReads (s : State) (ctx : Nat) (g : Gather) : State := g.reads.foldl (fun s h => s.emit (.hostRead ctx h.1 h.2)) s

/-- The next unit of the running transfer (R260–R264). -/
def teRelease (s : State) (e : Nat) (r : Run) (hostData : List Byte) : State :=
  let d := r.d
  let ctx := dCtx d.w
  let w := parseWalk r.bytes
  let u := w.unit (tePdim d.w)
  let es := teElems d.w w (max (r.pos * u) (r.acc.getD 0 0)) ((r.pos + 1) * u)
  match teFault s ctx d.no (teEsz d.w) es with
  | some (.park k p) => parkRun s e r k p
  | some _ => endRun s e r 0x20
  | none =>
    match teGather s e ctx d.no (teEsz d.w) (teOverlaps d.w w) es { data := hostData } with
    | (s, 0, g) =>
      let s := g.host.foldl (fun s h => s.emit (.hostWrite ctx h.1 h.2)) (emitReads s ctx g)
      (match writeSparse s e (g.mem.length + 1) g.mem with
       | (s, 0) => teReleased s e r g.moved
       | (s, c) => endRun s e r c)
    | (s, c, g) => endRun (emitReads s ctx g) e r c

/-- TE_UNIT_RELEASE: the next unit; `hostData` is what host memory gives for its host-resident source elements (R261). -/
def execTeUnitRelease (e : Nat) (hostData : List Byte) (s : State) : Out :=
  .next (inActive s fun s => settle <|
    if nEng s ≤ e || e % 4 ≠ 1 then s else
    match (s.engine e).run with
    | some r => if r.park.isSome then s else teRelease s e r hostData
    | none => s)

end Sys2Proof.Machine
end

