-- ==== Sys2Proof/Machine/UlentMemory.lean ====
section
/-! DEFINITION. The Ulent loads and stores of operand memory, the instruction cache fill, and the launch commands (R128,
R131, R133, R173, R174). A tile check that fails in one of them is an event of the fault collector, which takes it at once. -/

namespace Sys2Proof.Machine

/-- A load's bytes: the alignment (FAULT_KIND 5), the address and right (4), the fenced tile (12), the check (9), then the
bytes to `f` (R173, R174). -/
def loadBytes (s : State) (t : Th) (x : Thread) (p : Program) (a n : Nat) (f : List Byte → Thread → Thread) : State :=
  if a % n ≠ 0 then faultThread s t 5 else
  match opTranslate s .ls rRead x.ctx p.no a n with
  | .mem pa =>
    match memRead s (64 + t.dom) pa n with
    | (s, 0, bs) => s.setThr t (f bs x).next
    | (s, 0x7F, _) => faultThread s t 12
    | (s, _, _) => faultThread s t 9
  | _ => faultThread s t 4

/-- A store: as a load, with the write right alone (R174, R298). -/
def storeBytes (s : State) (t : Th) (x : Thread) (p : Program) (a n : Nat) (bs : List Byte) : State :=
  if a % n ≠ 0 then faultThread s t 5 else
  match opTranslate s .ls rWrite x.ctx p.no a n with
  | .mem pa =>
    match memWrite s (64 + t.dom) pa bs with
    | (s, 0) => s.setThr t x.next
    | (s, 0x7F) => faultThread s t 12
    | (s, _) => faultThread s t 9
  | _ => faultThread s t 4

/-- DLD: 32 bytes into dd (R173). -/
def execDld (t : Th) (dd ga : Nat) (off : BitVec 32) (s : State) : Out :=
  .next (settle (issueAt s t (.dld t dd ga off) fun s x p =>
    loadBytes s t x p (effAddr x ga off) 32 fun bs x => x.setD dd (BitVec.ofNat 256 (ofLE bs))))

/-- DST: dd to 32 bytes (R173). -/
def execDst (t : Th) (dd ga : Nat) (off : BitVec 32) (s : State) : Out :=
  .next (settle (issueAt s t (.dst t dd ga off) fun s x p =>
    storeBytes s t x p (effAddr x ga off) 32 (toLE 32 (x.dr dd).toNat)))

/-- LD, space 0: 1, 2, 4 or 8 bytes, zero-extended (R174). -/
def execLd (t : Th) (gd ga size : Nat) (off : BitVec 32) (s : State) : Out :=
  .next (settle (issueAt s t (.ld t gd ga size off) fun s x p =>
    loadBytes s t x p (effAddr x ga off) (2 ^ size) fun bs x => x.setG gd (BitVec.ofNat 64 (ofLE bs))))

/-- ST: the low bytes of gd (R174). -/
def execSt (t : Th) (gd ga size : Nat) (off : BitVec 32) (s : State) : Out :=
  .next (settle (issueAt s t (.st t gd ga size off) fun s x p =>
    storeBytes s t x p (effAddr x ga off) (2 ^ size) (toLE (2 ^ size) (x.gr gd).toNat)))

/-- An instruction cache tile arrives (R128). -/
def execIcacheFill (t : Th) (s : State) : Out := .next (inActive s fun s => settle (icacheFill s t))

/-- LAUNCH: takes a tracker entry of the host pool (R149); not taken while the pool, or the domain's launch queue, is
full (R133, R150). -/
def execLaunch (r : LaunchReq) (s : State) : Out :=
  .next (inActive s fun s =>
    if s.poolFull || 64 ≤ queued s r.dom then s
    else settle (launchOrHold (s.trkTake r.ctx 0) r s.sq.opNo))

/-- PRIV_SIGNATURE_VERIFIED: the signed bytes are read with their tile checks, then the signature decides; an
empty key slot verifies none (R131, R133, R492). -/
def execPrivSignatureVerified (dom : Nat) (s : State) : Out :=
  .next (inActive s fun s =>
    match takeLaunch dom s.sq.sigWait with
    | none => s
    | some (l, rest) =>
      let s := { s with sq := { s.sq with sigWait := rest } }
      settle <| match readImage s l.r l.p.no (imageSize l.p) with
      | (s, 0, img) =>
        let n := l.p.codeOff + l.p.codeSize
        match smFind s.ci.slots l.sigKey with
        | some key =>
          if Config.slhDsa256s key (img.take n) (slice img n 29792) then queueLaunch s l else refuseLaunch s l.r l.p.no 0x70
        | none => refuseLaunch s l.r l.p.no 0x70
      | (s, c, _) => refuseLaunch s l.r l.p.no c)

end Sys2Proof.Machine
end

