-- ==== Sys2Proof/Machine/Dispatch.lean ====
section
/-! DEFINITION. What each command does: one arm for each command, each a call of its meaning. -/

namespace Sys2Proof.Machine

/-- The effect of a command on everything but the queue. -/
def exec (i : Instr) (s : State) : Host.Outcome State Fault Refusal :=
  match i with
  | .v54InReady straps => Sys2Proof.Machine.execV54InReady straps s
  | .modResetRelease straps => Sys2Proof.Machine.execModResetRelease straps s
  | .perstNAssert h => Sys2Proof.Machine.execPerstNAssert h s
  | .perstNRelease h => Sys2Proof.Machine.execPerstNRelease h s
  | .ppsInEdge ns => Sys2Proof.Machine.execPpsInEdge ns s
  | .latchOpen m => Sys2Proof.Machine.execLatchOpen m s
  | .latchClose m => Sys2Proof.Machine.execLatchClose m s
  | .cartridgeIdentified m c => Sys2Proof.Machine.execCartridgeIdentified m c s
  | .bringUpStageComplete r => Sys2Proof.Machine.execBringUpStageComplete r s
  | .hostLinkUp h rate width => Sys2Proof.Machine.execHostLinkUp h rate width s
  | .hostLinkDown h => Sys2Proof.Machine.execHostLinkDown h s
  | .functionLevelReset ctx => Sys2Proof.Machine.execFunctionLevelReset ctx s
  | .contextDrainComplete ctx => Sys2Proof.Machine.execContextDrainComplete ctx s
  | .tickBoundary tj v54qv => Sys2Proof.Machine.execTickBoundary tj v54qv s
  | .capIntervalEnd tj avgW => Sys2Proof.Machine.execCapIntervalEnd tj avgW s
  | .modeArm armed => Sys2Proof.Machine.execModeArm armed s
  | .modeCommitAttempt armed => Sys2Proof.Machine.execModeCommitAttempt armed s
  | .modeAbort armed => Sys2Proof.Machine.execModeAbort armed s
  | .restExitUnitArmed u => Sys2Proof.Machine.execRestExitUnitArmed u s
  | .restRequest mgmt => Sys2Proof.Machine.execRestRequest mgmt s
  | .restExitRequest mgmt => Sys2Proof.Machine.execRestExitRequest mgmt s
  | .setPower op flags drainTicks => Sys2Proof.Machine.execSetPower op flags drainTicks s
  | .pwrThermWrite therm v => Sys2Proof.Machine.execPwrThermWrite therm v s
  | .modeCmdTick swap => Sys2Proof.Machine.execModeCmdTick swap s
  | .marionetteEntryFire n => Sys2Proof.Machine.execMarionetteEntryFire n s
  | .ptpSyncRx p ns offset => Sys2Proof.Machine.execPtpSyncRx p ns offset s
  | .ptpAnnounceRx p domain d len origin base => Sys2Proof.Machine.execPtpAnnounceRx p domain d len origin base s
  | .ptpPdelayRx p resp ns => Sys2Proof.Machine.execPtpPdelayRx p resp ns s
  | .ptpSyncInterval p => Sys2Proof.Machine.execPtpSyncInterval p s
  | .launch r => Sys2Proof.Machine.execLaunch r s
  | .privSignatureVerified dom => Sys2Proof.Machine.execPrivSignatureVerified dom s
  | .launchSlotsFree dom => Sys2Proof.Machine.execLaunchSlotsFree dom s
  | .icacheFill t => Sys2Proof.Machine.execIcacheFill t s
  | .add t gd ga b => Sys2Proof.Machine.execAdd t gd ga b s
  | .sub t gd ga b => Sys2Proof.Machine.execSub t gd ga b s
  | .mul t gd ga b => Sys2Proof.Machine.execMul t gd ga b s
  | .and t gd ga b => Sys2Proof.Machine.execAnd t gd ga b s
  | .or t gd ga b => Sys2Proof.Machine.execOr t gd ga b s
  | .xor t gd ga b => Sys2Proof.Machine.execXor t gd ga b s
  | .shl t gd ga b => Sys2Proof.Machine.execShl t gd ga b s
  | .shr t gd ga b => Sys2Proof.Machine.execShr t gd ga b s
  | .sar t gd ga b => Sys2Proof.Machine.execSar t gd ga b s
  | .cmp t pd cond ga b => Sys2Proof.Machine.execCmp t pd cond ga b s
  | .sel t gd ga gb ps => Sys2Proof.Machine.execSel t gd ga gb ps s
  | .mov t gd ga => Sys2Proof.Machine.execMov t gd ga s
  | .li t gd imm => Sys2Proof.Machine.execLi t gd imm s
  | .lih t gd imm => Sys2Proof.Machine.execLih t gd imm s
  | .br t off => Sys2Proof.Machine.execBr t off s
  | .brp t ps sense off => Sys2Proof.Machine.execBrp t ps sense off s
  | .call t ga off => Sys2Proof.Machine.execCall t ga off s
  | .ret t ga => Sys2Proof.Machine.execRet t ga s
  | .loop t ga off => Sys2Proof.Machine.execLoop t ga off s
  | .halt t => Sys2Proof.Machine.execHalt t s
  | .yield t => Sys2Proof.Machine.execYield t s
  | .step t => Sys2Proof.Machine.execStep t s
  | .trap t code => Sys2Proof.Machine.execTrap t code s
  | .dset t dd w lo wid ga => Sys2Proof.Machine.execDset t dd w lo wid ga s
  | .dld t dd ga off => Sys2Proof.Machine.execDld t dd ga off s
  | .dst t dd ga off => Sys2Proof.Machine.execDst t dd ga off s
  | .ld t gd ga size off => Sys2Proof.Machine.execLd t gd ga size off s
  | .ldSyncCount t gd ga off => Sys2Proof.Machine.execLdSyncCount t gd ga off s
  | .ldFailureLatch t gd ga off => Sys2Proof.Machine.execLdFailureLatch t gd ga off s
  | .st t gd ga size off => Sys2Proof.Machine.execSt t gd ga size off s
  | .issue t dd er ga eng => Sys2Proof.Machine.execIssue t dd er ga eng s
  | .issuew t gd dd er ga eng => Sys2Proof.Machine.execIssuew t gd dd er ga eng s
  | .sig t ga gb idx => Sys2Proof.Machine.execSig t ga gb idx s
  | .wait t ga gb idx => Sys2Proof.Machine.execWait t ga gb idx s
  | .waitt t pd ga gb idx ticks => Sys2Proof.Machine.execWaitt t pd ga gb idx ticks s
  | .arm t ga gb idx => Sys2Proof.Machine.execArm t ga gb idx s
  | .sigr t dd ga => Sys2Proof.Machine.execSigr t dd ga s
  | .twait t mode entry => Sys2Proof.Machine.execTwait t mode entry s
  | .postwr t dd => Sys2Proof.Machine.execPostwr t dd s
  | .postrd t dd => Sys2Proof.Machine.execPostrd t dd s
  | .postsend t dd => Sys2Proof.Machine.execPostsend t dd s
  | .postatom t dd ga gb => Sys2Proof.Machine.execPostatom t dd ga gb s
  | .cqpost t dd ga gb nf code => Sys2Proof.Machine.execCqpost t dd ga gb nf code s
  | .fenceE t => Sys2Proof.Machine.execFenceE t s
  | .fenceF t => Sys2Proof.Machine.execFenceF t s
  | .fenceH t => Sys2Proof.Machine.execFenceH t s
  | .fenceConditionMet t => Sys2Proof.Machine.execFenceConditionMet t s
  | .seqStop d slots => Sys2Proof.Machine.execSeqStop d slots s
  | .syncUnitOperation g => Sys2Proof.Machine.execSyncUnitOperation g s
  | .waittTimeout t => Sys2Proof.Machine.execWaittTimeout t s
  | .xbarDeliver e => Sys2Proof.Machine.execXbarDeliver e s
  | .redDescriptorStart e => Sys2Proof.Machine.execRedDescriptorStart e s
  | .redTileRelease e chk => Sys2Proof.Machine.execRedTileRelease e chk s
  | .redRemainderDelivered e => Sys2Proof.Machine.execRedRemainderDelivered e s
  | .sgd e => Sys2Proof.Machine.execSgd e s
  | .adam e => Sys2Proof.Machine.execAdam e s
  | .adamw e => Sys2Proof.Machine.execAdamw e s
  | .lambMoments e => Sys2Proof.Machine.execLambMoments e s
  | .lambApply e => Sys2Proof.Machine.execLambApply e s
  | .lion e => Sys2Proof.Machine.execLion e s
  | .norm e => Sys2Proof.Machine.execNorm e s
  | .cast e => Sys2Proof.Machine.execCast e s
  | .lookupDescriptor e => Sys2Proof.Machine.execLookupDescriptor e s
  | .encode e => Sys2Proof.Machine.execEncode e s
  | .decode e => Sys2Proof.Machine.execDecode e s
  | .unionSum e => Sys2Proof.Machine.execUnionSum e s
  | .quantizeDescriptor e => Sys2Proof.Machine.execQuantizeDescriptor e s
  | .spcUnitRelease e => Sys2Proof.Machine.execSpcUnitRelease e s
  | .teDescriptorStart e => Sys2Proof.Machine.execTeDescriptorStart e s
  | .teUnitRelease e hostData => Sys2Proof.Machine.execTeUnitRelease e hostData s
  | .ceEncrypt e mismatch => Sys2Proof.Machine.execCeEncrypt e mismatch s
  | .ceDecrypt e mismatch => Sys2Proof.Machine.execCeDecrypt e mismatch s
  | .holdingUnitAccess u arrivals => Sys2Proof.Machine.execHoldingUnitAccess u arrivals s
  | .segSet ctx idx => Sys2Proof.Machine.execSegSet ctx idx s
  | .segRemove ctx idx => Sys2Proof.Machine.execSegRemove ctx idx s
  | .segRead ctx idx => Sys2Proof.Machine.execSegRead ctx idx s
  | .winSet w => Sys2Proof.Machine.execWinSet w s
  | .winRemove w => Sys2Proof.Machine.execWinRemove w s
  | .winRead w => Sys2Proof.Machine.execWinRead w s
  | .winBump w => Sys2Proof.Machine.execWinBump w s
  | .keySet k => Sys2Proof.Machine.execKeySet k s
  | .keyRemove k => Sys2Proof.Machine.execKeyRemove k s
  | .keyRead k => Sys2Proof.Machine.execKeyRead k s
  | .migPrefetch ctx seg page => Sys2Proof.Machine.execMigPrefetch ctx seg page s
  | .migEvict ctx seg page => Sys2Proof.Machine.execMigEvict ctx seg page s
  | .evictComplete ctx seg page => Sys2Proof.Machine.execEvictComplete ctx seg page s
  | .migrationComplete ctx seg page data => Sys2Proof.Machine.execMigrationComplete ctx seg page data s
  | .migrationFail ctx seg page writebackDone => Sys2Proof.Machine.execMigrationFail ctx seg page writebackDone s
  | .migrationTimeout ctx seg page writebackDone => Sys2Proof.Machine.execMigrationTimeout ctx seg page writebackDone s
  | .qpInit q => Sys2Proof.Machine.execQpInit q s
  | .qpRtr q => Sys2Proof.Machine.execQpRtr q s
  | .qpRts q => Sys2Proof.Machine.execQpRts q s
  | .qpReset q => Sys2Proof.Machine.execQpReset q s
  | .qpError q => Sys2Proof.Machine.execQpError q s
  | .qpRead q => Sys2Proof.Machine.execQpRead q s
  | .qpStateFetched q => Sys2Proof.Machine.execQpStateFetched q s
  | .trnPacketTransmit q ns hostData mismatch => Sys2Proof.Machine.execTrnPacketTransmit q ns hostData mismatch s
  | .writeRx src p => Sys2Proof.Machine.execWriteRx src p s
  | .readReqRx src p hostData => Sys2Proof.Machine.execReadReqRx src p hostData s
  | .readRespRx src p => Sys2Proof.Machine.execReadRespRx src p s
  | .sendRx src p => Sys2Proof.Machine.execSendRx src p s
  | .atomicRx src p hostData => Sys2Proof.Machine.execAtomicRx src p hostData s
  | .atomicRespRx src p => Sys2Proof.Machine.execAtomicRespRx src p s
  | .signalRx src p => Sys2Proof.Machine.execSignalRx src p s
  | .ackRx src p => Sys2Proof.Machine.execAckRx src p s
  | .pathNoticeRx src p => Sys2Proof.Machine.execPathNoticeRx src p s
  | .fenceHeldRelease q psn hostData => Sys2Proof.Machine.execFenceHeldRelease q psn hostData s
  | .ackDelayExpiry q => Sys2Proof.Machine.execAckDelayExpiry q s
  | .retryTimerExpiry q => Sys2Proof.Machine.execRetryTimerExpiry q s
  | .routeSet ep => Sys2Proof.Machine.execRouteSet ep s
  | .routeInvalidate ep => Sys2Proof.Machine.execRouteInvalidate ep s
  | .routeRead ep => Sys2Proof.Machine.execRouteRead ep s
  | .routeEntryFetched ep => Sys2Proof.Machine.execRouteEntryFetched ep s
  | .frameReceived x also => Sys2Proof.Machine.execFrameReceived x also s
  | .egressBufferRoom n => Sys2Proof.Machine.execEgressBufferRoom n s
  | .egressFrameStart n ns => Sys2Proof.Machine.execEgressFrameStart n ns s
  | .linkUp n => Sys2Proof.Machine.execLinkUp n s
  | .linkDown n => Sys2Proof.Machine.execLinkDown n s
  | .portCfgWrite n v => Sys2Proof.Machine.execPortCfgWrite n v s
  | .txUnderrun n => Sys2Proof.Machine.execTxUnderrun n s
  | .pauseRx n quanta => Sys2Proof.Machine.execPauseRx n quanta s
  | .pfcRx n enable quanta => Sys2Proof.Machine.execPfcRx n enable quanta s
  | .pauseExpiry n cls => Sys2Proof.Machine.execPauseExpiry n cls s
  | .pauseWatchdogExpiry n cls => Sys2Proof.Machine.execPauseWatchdogExpiry n cls s
  | .pauseWatchdogIgnoreEnd n cls => Sys2Proof.Machine.execPauseWatchdogIgnoreEnd n cls s
  | .pfcResendTimer n cls => Sys2Proof.Machine.execPfcResendTimer n cls s
  | .lbQuiesce m => Sys2Proof.Machine.execLbQuiesce m s
  | .lbResume m => Sys2Proof.Machine.execLbResume m s
  | .quiesceComplete m => Sys2Proof.Machine.execQuiesceComplete m s
  | .lifeMinute m fraction => Sys2Proof.Machine.execLifeMinute m fraction s
  | .lifeAreaWrite m => Sys2Proof.Machine.execLifeAreaWrite m s
  | .sqDbWrite ctx q prod => Sys2Proof.Machine.execSqDbWrite ctx q prod s
  | .sqFetchResponse ctx q entry => Sys2Proof.Machine.execSqFetchResponse ctx q entry s
  | .sqRefetchTimer ctx q => Sys2Proof.Machine.execSqRefetchTimer ctx q s
  | .sqRestart ctx q => Sys2Proof.Machine.execSqRestart ctx q s
  | .sqTransportEntry ctx q entry => Sys2Proof.Machine.execSqTransportEntry ctx q entry s
  | .sqLaunchEntry ctx q entry => Sys2Proof.Machine.execSqLaunchEntry ctx q entry s
  | .sqControlEntry ctx q entry => Sys2Proof.Machine.execSqControlEntry ctx q entry s
  | .sqReceiveEntry ctx q entry => Sys2Proof.Machine.execSqReceiveEntry ctx q entry s
  | .cqDbWrite ctx cq count => Sys2Proof.Machine.execCqDbWrite ctx cq count s
  | .cqDbArm ctx cq count => Sys2Proof.Machine.execCqDbArm ctx cq count s
  | .cqModerationTimer cq => Sys2Proof.Machine.execCqModerationTimer cq s
  | .hostApertureRead ctx off len => Sys2Proof.Machine.execHostApertureRead ctx off len s
  | .hostApertureWrite ctx off data => Sys2Proof.Machine.execHostApertureWrite ctx off data s
  | .peerInboxDoorbell h inbox count frames => Sys2Proof.Machine.execPeerInboxDoorbell h inbox count frames s
  | .peerOutCredit h inbox count => Sys2Proof.Machine.execPeerOutCredit h inbox count s
  | .hostVfLimitWrite v => Sys2Proof.Machine.execHostVfLimitWrite v s
  | .quotaSet ctx => Sys2Proof.Machine.execQuotaSet ctx s
  | .quotaReadRequested ctx => Sys2Proof.Machine.execQuotaReadRequested ctx s
  | .quotaReadEffective ctx => Sys2Proof.Machine.execQuotaReadEffective ctx s
  | .ctxmFreeze ctx => Sys2Proof.Machine.execCtxmFreeze ctx s
  | .freezeComplete ctx => Sys2Proof.Machine.execFreezeComplete ctx s
  | .ctxmSave ctx => Sys2Proof.Machine.execCtxmSave ctx s
  | .ctxmRestore ctx => Sys2Proof.Machine.execCtxmRestore ctx s
  | .ctxmThaw ctx => Sys2Proof.Machine.execCtxmThaw ctx s
  | .ctxmDiscard ctx => Sys2Proof.Machine.execCtxmDiscard ctx s
  | .ctxmRepoint ctx qp => Sys2Proof.Machine.execCtxmRepoint ctx qp s
  | .ceKeySet ctx idx use_ => Sys2Proof.Machine.execCeKeySet ctx idx use_ s
  | .ceKeyClear ctx idx => Sys2Proof.Machine.execCeKeyClear ctx idx s
  | .ceKeyRead ctx idx => Sys2Proof.Machine.execCeKeyRead ctx idx s
  | .keySlotSet kind slot => Sys2Proof.Machine.execKeySlotSet kind slot s
  | .keySlotClear kind slot => Sys2Proof.Machine.execKeySlotClear kind slot s
  | .fwLockClass confirm => Sys2Proof.Machine.execFwLockClass confirm s
  | .fwStage written => Sys2Proof.Machine.execFwStage written s
  | .fwLoadComplete failed => Sys2Proof.Machine.execFwLoadComplete failed s
  | .relayPackageArrival written => Sys2Proof.Machine.execRelayPackageArrival written s
  | .setEndpointId eid => Sys2Proof.Machine.execSetEndpointId eid s
  | .getMctpVersionSupport msgType => Sys2Proof.Machine.execGetMctpVersionSupport msgType s
  | .getpldmcommands type => Sys2Proof.Machine.execGetpldmcommands type s
  | .passcomponenttable comp => Sys2Proof.Machine.execPasscomponenttable comp s
  | .updatecomponent comp => Sys2Proof.Machine.execUpdatecomponent comp s
  | .requestfirmwaredata offset data => Sys2Proof.Machine.execRequestfirmwaredata offset data s
  | .transfercomplete ok => Sys2Proof.Machine.execTransfercomplete ok s
  | .applycomplete written => Sys2Proof.Machine.execApplycomplete written s
  | .getCert offset len => Sys2Proof.Machine.execGetCert offset len s
  | .getQuote nonce => Sys2Proof.Machine.execGetQuote nonce s
  | .readQuote offset len => Sys2Proof.Machine.execReadQuote offset len s
  | .faultEvent src unit detail => Sys2Proof.Machine.execFaultEvent src unit detail s
  | .quietPeriodExpiry src => Sys2Proof.Machine.execQuietPeriodExpiry src s
  | .strikeTimerExpiry e => Sys2Proof.Machine.execStrikeTimerExpiry e s
  | .fcolEvtClear src seq => Sys2Proof.Machine.execFcolEvtClear src seq s
  | .fcolForce lo hi => Sys2Proof.Machine.execFcolForce lo hi s
  | .fcolUnfence kind unit => Sys2Proof.Machine.execFcolUnfence kind unit s
  | .snapCmd scope => Sys2Proof.Machine.execSnapCmd scope s
  | .sqcClearWrite r seq => Sys2Proof.Machine.execSqcClearWrite r seq s
  | .registerWrite off width v => Sys2Proof.Machine.execRegisterWrite off width v s
  | .undefinedInstruction t w => Sys2Proof.Machine.execUndefinedInstruction t w s
  | .pdelayReqInterval p => Sys2Proof.Machine.execPdelayReqInterval p s
  | .setdasa target addr => Sys2Proof.Machine.execSetdasa target addr s
  | .entdaa addr => Sys2Proof.Machine.execEntdaa addr s
  | .rxOverflow x => Sys2Proof.Machine.execRxOverflow x s
  | .vaux3v3Applied => Sys2Proof.Machine.execVaux3v3Applied s
  | .vaux3v3Removed => Sys2Proof.Machine.execVaux3v3Removed s
  | .vaux3v3Collapse => Sys2Proof.Machine.execVaux3v3Collapse s
  | .v54InLoss => Sys2Proof.Machine.execV54InLoss s
  | .modResetAssert => Sys2Proof.Machine.execModResetAssert s
  | .bringUpStageLimit => Sys2Proof.Machine.execBringUpStageLimit s
  | .enterActive => Sys2Proof.Machine.execEnterActive s
  | .restDrainDone => Sys2Proof.Machine.execRestDrainDone s
  | .restDrainTimeout => Sys2Proof.Machine.execRestDrainTimeout s
  | .restExitCommit => Sys2Proof.Machine.execRestExitCommit s
  | .restExitArmTimeout => Sys2Proof.Machine.execRestExitArmTimeout s
  | .modeCmdSwap => Sys2Proof.Machine.execModeCmdSwap s
  | .ptpSyncTimeout => Sys2Proof.Machine.execPtpSyncTimeout s
  | .descriptorCompletion => Sys2Proof.Machine.execDescriptorCompletion s
  | .segRemoveComplete => Sys2Proof.Machine.execSegRemoveComplete s
  | .winDrainComplete => Sys2Proof.Machine.execWinDrainComplete s
  | .fwOpenSession => Sys2Proof.Machine.execFwOpenSession s
  | .fwActivate => Sys2Proof.Machine.execFwActivate s
  | .fwCancel => Sys2Proof.Machine.execFwCancel s
  | .fwRelay => Sys2Proof.Machine.execFwRelay s
  | .fwActivationDrainDone => Sys2Proof.Machine.execFwActivationDrainDone s
  | .fwActivationDrainTimeout => Sys2Proof.Machine.execFwActivationDrainTimeout s
  | .getEndpointId => Sys2Proof.Machine.execGetEndpointId s
  | .getMessageTypeSupport => Sys2Proof.Machine.execGetMessageTypeSupport s
  | .gettid => Sys2Proof.Machine.execGettid s
  | .getpldmtypes => Sys2Proof.Machine.execGetpldmtypes s
  | .querydeviceidentifiers => Sys2Proof.Machine.execQuerydeviceidentifiers s
  | .getfirmwareparameters => Sys2Proof.Machine.execGetfirmwareparameters s
  | .requestupdate => Sys2Proof.Machine.execRequestupdate s
  | .verifycomplete => Sys2Proof.Machine.execVerifycomplete s
  | .activatefirmware => Sys2Proof.Machine.execActivatefirmware s
  | .getstatus => Sys2Proof.Machine.execGetstatus s
  | .cancelupdatecomponent => Sys2Proof.Machine.execCancelupdatecomponent s
  | .cancelupdate => Sys2Proof.Machine.execCancelupdate s
  | .quoteComplete => Sys2Proof.Machine.execQuoteComplete s
  | .getState => Sys2Proof.Machine.execGetState s
  | .getPowerEvent => Sys2Proof.Machine.execGetPowerEvent s
  | .fcolArm => Sys2Proof.Machine.execFcolArm s
  | .unfenceEffect => Sys2Proof.Machine.execUnfenceEffect s
  | .domainRefillDone => Sys2Proof.Machine.execDomainRefillDone s
  | .pwrLifeWrite => Sys2Proof.Machine.execPwrLifeWrite s
  | .ppsHoldover => Sys2Proof.Machine.execPpsHoldover s

end Sys2Proof.Machine
end

