-- ==== Sys2Proof/WellFormed.lean ====
section
/-! DEFINITION. Which commands are well formed: every operand in the range that its field has in the spec. A command that is not is still
run; the meaning then changes nothing, or takes the operand modulo its field, as each says. -/

namespace Sys2Proof

/-- A thread slot of the larger variant (R125). -/
def wfTh (t : Th) : Bool := t.dom < 16 && t.slot < 8

/-- A register number (R156). -/
def wfG (n : Nat) : Bool := n < 32

def wfOpd : Opd → Bool
  | .reg n => n < 32
  | .imm _ => true

/-- ISSUE and ISSUEW: the field that the form does not use is 0 (R177). -/
def wfEng (er : Bool) (ga eng : Nat) : Bool := if er then ga < 32 && eng == 0 else ga == 0 && eng < 64

def wfTestUnit : TestUnit → Bool
  | .essential n => n < 256
  | .engine e => e < 64
  | .sequencer d => d < 16
  | .dataPartition d => d < 16
  | .port p => p < 32
  | .ioDie i => i < 4

def wfStage : StageResult → Bool
  | .clean => true
  | .failedUnits us => us.all wfTestUnit
  | .failed d => d < 256

/-- A cartridge's record, signature and life copies (R421, R422). -/
def wfCart (c : Cartridge) : Bool :=
  c.record.length == 256 && c.signature.length ≤ 17088 && c.lifeA.length == 32 && c.lifeB.length == 32

/-- What an Announce message says (R96). -/
def wfDataset (d : Dataset) : Bool :=
  d.priority1 < 256 && d.clockClass < 256 && d.accuracy < 256 && d.variance < 65536 && d.priority2 < 256 && d.steps < 65536

/-- R132. -/
def wfLaunch (r : LaunchReq) : Bool :=
  r.ctx < 256 && r.image < 2 ^ 64 && r.dom < 256 && r.syncBase < 65536 && r.args.length == 4 && r.cq < 65536 && r.tag < 2 ^ 32

/-- The fields of a Speron frame (R321, R322, R343). -/
def wfPacket (p : Packet) : Bool :=
  p.hops ≤ 14 && p.ptr < 16 && p.tc < 8 && p.dstEp < 2 ^ 20 && p.srcEp < 2 ^ 20 && p.path < 2 ^ 70 && p.type < 16 && p.try_ < 8
    && p.dqp < 2 ^ 18 && p.psn < 2 ^ 24 && p.offset < 2 ^ 30 && p.stamp < 2 ^ 16 && p.ssn < 2 ^ 24 && p.rgen < 256 && p.rkey < 2 ^ 20
    && p.phase < 2 ^ 11 && p.roff < 2 ^ 39 && p.sqp < 2 ^ 18 && p.aux < 2 ^ 32 && p.txc < 2 ^ 58 && p.pieces.length < 8
    && p.payload.length < 2 ^ 14 && p.noticePsn < 2 ^ 24 && p.notice < 256

def wfFrame : RxFrame → Bool
  | .speron p => wfPacket p
  | .ptp => true
  | .macControl o => o < 65536
  | .other => true

/-- An arrival at a port (R357, R407). -/
def wfArrival (x : RxArrival) : Bool := x.port < 32 && x.len < 16384 && wfFrame x.frame

def wfIngress : Ingress → Bool
  | .port n => n < 32
  | .loopback => true
  | .peer k => k < 32

def wfHold : HoldUnit → Bool
  | .stack s => s < 16
  | .bank b => b < 16

/-- A tile access names a requester (R280) and a whole tile (R278). -/
def wfAccess (_u : HoldUnit) (a : TileAccess) : Bool :=
  a.req < 118 && a.addr % 2048 == 0
    && (match a.op with
        | .read => true
        | .writeWhole d => d.length == 2048
        | .writePart off d => off + d.length ≤ 2048)

def wfSq (ctx q : Nat) : Bool := ctx < 256 && q < 15

/-- R495. -/
def wfSlot (kind slot : Nat) : Bool := (kind == 0 && slot < 4) || (kind == 1 && slot < 16) || (kind == 2 && slot < 8)

def wfSqc : SqcReg → Bool
  | .seqEvent d => d < 16
  | .redStatus d => d < 16
  | .spcStatus d => d < 16
  | .teStatus d => d < 16
  | .ceStatus d => d < 16
  | .fabNotice n => n < 32
  | .portStatus n => n < 32
  | .lbStatus m => m < 8
  | .sqStatus ctx q => wfSq ctx q
  | .hostPortStatus n => n < 4
  | _ => true

/-- Every operand is in its range. -/
def Instr.wf : Instr → Bool
  | .v54InReady straps => straps < 4
  | .modResetRelease straps => straps < 4
  | .perstNAssert h => h < 4
  | .perstNRelease h => h < 4
  | .ppsInEdge _ => true
  | .latchOpen m => m < 8
  | .latchClose m => m < 8
  | .cartridgeIdentified m c => m < 8 && wfCart c
  | .bringUpStageComplete r => wfStage r
  | .hostLinkUp h rate width => h < 4 && rate < 3 && [1, 2, 4, 8].contains width
  | .hostLinkDown h => h < 4
  | .functionLevelReset ctx => ctx < 256
  | .contextDrainComplete ctx => ctx < 256
  | .tickBoundary tj v54qv => tj < 256 && v54qv < 256
  | .capIntervalEnd tj avgW => tj < 256 && avgW < 2048
  | .modeArm _ => true
  | .modeCommitAttempt _ => true
  | .modeAbort _ => true
  | .restExitUnitArmed u => u < 30
  | .restRequest _ => true
  | .restExitRequest _ => true
  | .setPower op flags drainTicks => op < 256 && flags < 256 && drainTicks < 65536
  | .pwrThermWrite _ _ => true
  | .modeCmdTick _ => true
  | .marionetteEntryFire n => n < 1024
  | .ptpSyncRx p _ _ => p < 16
  | .ptpAnnounceRx p domain d len _ _ => p < 16 && domain < 256 && len < 512 && wfDataset d
  | .ptpPdelayRx p _ _ => p < 32
  | .ptpSyncInterval p => p < 32
  | .launch r => wfLaunch r
  | .privSignatureVerified dom => dom < 16
  | .launchSlotsFree dom => dom < 16
  | .icacheFill t => wfTh t
  | .add t gd ga b => wfTh t && wfG gd && wfG ga && wfOpd b
  | .sub t gd ga b => wfTh t && wfG gd && wfG ga && wfOpd b
  | .mul t gd ga b => wfTh t && wfG gd && wfG ga && wfOpd b
  | .and t gd ga b => wfTh t && wfG gd && wfG ga && wfOpd b
  | .or t gd ga b => wfTh t && wfG gd && wfG ga && wfOpd b
  | .xor t gd ga b => wfTh t && wfG gd && wfG ga && wfOpd b
  | .shl t gd ga b => wfTh t && wfG gd && wfG ga && wfOpd b
  | .shr t gd ga b => wfTh t && wfG gd && wfG ga && wfOpd b
  | .sar t gd ga b => wfTh t && wfG gd && wfG ga && wfOpd b
  | .cmp t pd cond ga b => wfTh t && pd < 8 && cond ≤ 10 && wfG ga && wfOpd b
  | .sel t gd ga gb ps => wfTh t && wfG gd && wfG ga && wfG gb && ps < 8
  | .mov t gd ga => wfTh t && wfG gd && wfG ga
  | .li t gd _ => wfTh t && wfG gd
  | .lih t gd _ => wfTh t && wfG gd
  | .br t _ => wfTh t
  | .brp t ps _ _ => wfTh t && ps < 8
  | .call t ga _ => wfTh t && wfG ga
  | .ret t ga => wfTh t && wfG ga
  | .loop t ga _ => wfTh t && wfG ga
  | .halt t => wfTh t
  | .yield t => wfTh t
  | .step t => wfTh t
  | .trap t code => wfTh t && code < 256
  | .dset t dd w lo wid ga => wfTh t && dd < 16 && w < 4 && wid < 64 && lo + (if wid = 0 then 64 else wid) ≤ 64 && wfG ga
  | .dld t dd ga _ => wfTh t && dd < 16 && wfG ga
  | .dst t dd ga _ => wfTh t && dd < 16 && wfG ga
  | .ld t gd ga size _ => wfTh t && wfG gd && wfG ga && size < 4
  | .ldSyncCount t gd ga _ => wfTh t && wfG gd && wfG ga
  | .ldFailureLatch t gd ga _ => wfTh t && wfG gd && wfG ga
  | .st t gd ga size _ => wfTh t && wfG gd && wfG ga && size < 4
  | .issue t dd er ga eng => wfTh t && dd < 16 && wfEng er ga eng
  | .issuew t gd dd er ga eng => wfTh t && wfG gd && dd < 16 && wfEng er ga eng
  | .sig t ga gb idx => wfTh t && wfG ga && wfG gb && idx < 4096
  | .wait t ga gb idx => wfTh t && wfG ga && wfG gb && idx < 4096
  | .waitt t pd ga gb idx ticks => wfTh t && pd < 8 && wfG ga && wfG gb && idx < 4096 && 1 ≤ ticks && ticks < 65536
  | .arm t ga gb idx => wfTh t && wfG ga && wfG gb && idx < 4096
  | .sigr t dd ga => wfTh t && dd < 16 && wfG ga
  | .twait t mode entry => wfTh t && (if mode then entry < 1024 else entry == 0)
  | .postwr t dd => wfTh t && dd < 16
  | .postrd t dd => wfTh t && dd < 16
  | .postsend t dd => wfTh t && dd < 16
  | .postatom t dd ga gb => wfTh t && dd < 16 && wfG ga && wfG gb
  | .cqpost t dd ga gb _ code => wfTh t && dd < 16 && wfG ga && wfG gb && Machine.codeDefined code
  | .fenceE t => wfTh t
  | .fenceF t => wfTh t
  | .fenceH t => wfTh t
  | .fenceConditionMet t => wfTh t
  | .seqStop d _ => d < 16
  | .syncUnitOperation g => g < 4
  | .waittTimeout t => wfTh t
  | .xbarDeliver e => e < 64
  | .redDescriptorStart e => e < 64
  | .redTileRelease e _ => e < 64
  | .redRemainderDelivered e => e < 64
  | .sgd e => e < 64
  | .adam e => e < 64
  | .adamw e => e < 64
  | .lambMoments e => e < 64
  | .lambApply e => e < 64
  | .lion e => e < 64
  | .norm e => e < 64
  | .cast e => e < 64
  | .lookupDescriptor e => e < 64
  | .encode e => e < 64
  | .decode e => e < 64
  | .unionSum e => e < 64
  | .quantizeDescriptor e => e < 64
  | .spcUnitRelease e => e < 64
  | .teDescriptorStart e => e < 64
  | .teUnitRelease e _ => e < 64
  | .ceEncrypt e _ => e < 64
  | .ceDecrypt e _ => e < 64
  | .holdingUnitAccess u arrivals => wfHold u && arrivals.all (wfAccess u)
  | .segSet ctx idx => ctx < 256 && idx < 16
  | .segRemove ctx idx => ctx < 256 && idx < 16
  | .segRead ctx idx => ctx < 256 && idx < 16
  | .winSet w => w < 65536
  | .winRemove w => w < 65536
  | .winRead w => w < 65536
  | .winBump w => w < 65536
  | .keySet k => k < 1048576
  | .keyRemove k => k < 1048576
  | .keyRead k => k < 1048576
  | .migPrefetch ctx seg page => ctx < 256 && seg < 16 && page < 262144
  | .migEvict ctx seg page => ctx < 256 && seg < 16 && page < 262144
  | .evictComplete ctx seg page => ctx < 256 && seg < 16 && page < 262144
  | .migrationComplete ctx seg page data => ctx < 256 && seg < 16 && page < 262144 && data.all (fun c => c.1 < 2097152)
  | .migrationFail ctx seg page _ => ctx < 256 && seg < 16 && page < 262144
  | .migrationTimeout ctx seg page _ => ctx < 256 && seg < 16 && page < 262144
  | .qpInit q => q < 262144
  | .qpRtr q => q < 262144
  | .qpRts q => q < 262144
  | .qpReset q => q < 262144
  | .qpError q => q < 262144
  | .qpRead q => q < 262144
  | .qpStateFetched q => q < 262144
  | .trnPacketTransmit q _ _ _ => q < 262144
  | .writeRx i p => wfIngress i && wfPacket p
  | .readReqRx i p _ => wfIngress i && wfPacket p
  | .readRespRx i p => wfIngress i && wfPacket p
  | .sendRx i p => wfIngress i && wfPacket p
  | .atomicRx i p _ => wfIngress i && wfPacket p
  | .atomicRespRx i p => wfIngress i && wfPacket p
  | .signalRx i p => wfIngress i && wfPacket p
  | .ackRx i p => wfIngress i && wfPacket p
  | .pathNoticeRx i p => wfIngress i && wfPacket p
  | .fenceHeldRelease q psn _ => q < 262144 && psn < 16777216
  | .ackDelayExpiry q => q < 262144
  | .retryTimerExpiry q => q < 262144
  | .routeSet ep => ep < 1048576
  | .routeInvalidate ep => ep < 1048576
  | .routeRead ep => ep < 1048576
  | .routeEntryFetched ep => ep < 1048576
  | .frameReceived x also => wfArrival x && also.all wfArrival
  | .egressBufferRoom n => n < 32
  | .egressFrameStart n _ => n < 32
  | .linkUp n => n < 32
  | .linkDown n => n < 32
  | .portCfgWrite n _ => n < 32
  | .txUnderrun n => n < 32
  | .pauseRx n quanta => n < 32 && quanta < 65536
  | .pfcRx n _ quanta => n < 32 && quanta.length == 8 && quanta.all (fun q => q < 65536)
  | .pauseExpiry n cls => n < 32 && (match cls with | none => true | some c => c < 8)
  | .pauseWatchdogExpiry n cls => n < 32 && cls < 8
  | .pauseWatchdogIgnoreEnd n cls => n < 32 && cls < 8
  | .pfcResendTimer n cls => n < 32 && cls < 8
  | .lbQuiesce m => m < 8
  | .lbResume m => m < 8
  | .quiesceComplete m => m < 8
  | .lifeMinute m fraction => m < 8 && fraction ≤ 256
  | .lifeAreaWrite m => m < 8
  | .sqDbWrite ctx q prod => wfSq ctx q && prod < 65536
  | .sqFetchResponse ctx q entry => wfSq ctx q && entry.length == 64
  | .sqRefetchTimer ctx q => wfSq ctx q
  | .sqRestart ctx q => wfSq ctx q
  | .sqTransportEntry ctx q entry => wfSq ctx q && entry.length == 64
  | .sqLaunchEntry ctx q entry => wfSq ctx q && entry.length == 64
  | .sqControlEntry ctx q entry => wfSq ctx q && entry.length == 64
  | .sqReceiveEntry ctx q entry => wfSq ctx q && entry.length == 64
  | .cqDbWrite ctx cq count => ctx < 256 && cq < 65536 && count < 32768
  | .cqDbArm ctx cq count => ctx < 256 && cq < 65536 && count < 32768
  | .cqModerationTimer cq => cq < 65536
  | .hostApertureRead ctx _ len => ctx < 256 && len ≤ 4096
  | .hostApertureWrite ctx _ data => ctx < 256 && data.length ≤ 512
  | .peerInboxDoorbell h inbox _ frames => h < 4 && inbox < 8 && frames.all (fun e => wfPacket e.2)
  | .peerOutCredit h inbox _ => h < 4 && inbox < 8
  | .hostVfLimitWrite _ => true
  | .quotaSet ctx => ctx < 256
  | .quotaReadRequested ctx => ctx < 256
  | .quotaReadEffective ctx => ctx < 256
  | .ctxmFreeze ctx => ctx < 256
  | .freezeComplete ctx => ctx < 256
  | .ctxmSave ctx => ctx < 256
  | .ctxmRestore ctx => ctx < 256
  | .ctxmThaw ctx => ctx < 256
  | .ctxmDiscard ctx => ctx < 256
  | .ctxmRepoint ctx qp => ctx < 256 && qp < 262144
  | .ceKeySet ctx idx _ => ctx < 256 && idx < 256
  | .ceKeyClear ctx idx => ctx < 256 && idx < 256
  | .ceKeyRead ctx idx => ctx < 256 && idx < 256
  | .keySlotSet kind slot => wfSlot kind slot
  | .keySlotClear kind slot => wfSlot kind slot
  | .fwLockClass confirm => confirm < 65536
  | .fwStage _ => true
  | .fwLoadComplete failed => (match failed with | none => true | some c => c < 4)
  | .relayPackageArrival _ => true
  | .setEndpointId eid => 8 ≤ eid && eid < 255
  | .getMctpVersionSupport msgType => msgType < 256
  | .getpldmcommands type => type < 64
  | .passcomponenttable comp => comp < 4
  | .updatecomponent comp => comp < 4
  | .requestfirmwaredata _ _ => true
  | .transfercomplete _ => true
  | .applycomplete _ => true
  | .getCert _ len => len ≤ 1024
  | .getQuote nonce => nonce.length == 32
  | .readQuote _ len => len ≤ 1024
  | .faultEvent src unit detail => src < 64 && unit < 256 && detail < 256
  | .quietPeriodExpiry src => src < 64
  | .strikeTimerExpiry e => e < 64
  | .fcolEvtClear src seq => src < 64 && seq < 256
  | .fcolForce _ _ => true
  | .fcolUnfence kind unit => kind < 8 && unit < 256
  | .snapCmd scope => scope < 256
  | .sqcClearWrite r seq => seq < 256 && wfSqc r
  | .registerWrite off width _ => 1 ≤ width && width ≤ 8 && (off + width ≤ 0x1040000 || (0x2010000 ≤ off && off + width ≤ 0x3000000))
  | .undefinedInstruction t _ => wfTh t
  | .pdelayReqInterval p => p < 32
  | .setdasa target addr => target < 128 && addr < 128
  | .entdaa addr => addr < 128
  | .rxOverflow x => wfArrival x
  | .vaux3v3Applied => true
  | .vaux3v3Removed => true
  | .vaux3v3Collapse => true
  | .v54InLoss => true
  | .modResetAssert => true
  | .bringUpStageLimit => true
  | .enterActive => true
  | .restDrainDone => true
  | .restDrainTimeout => true
  | .restExitCommit => true
  | .restExitArmTimeout => true
  | .modeCmdSwap => true
  | .ptpSyncTimeout => true
  | .descriptorCompletion => true
  | .segRemoveComplete => true
  | .winDrainComplete => true
  | .fwOpenSession => true
  | .fwActivate => true
  | .fwCancel => true
  | .fwRelay => true
  | .fwActivationDrainDone => true
  | .fwActivationDrainTimeout => true
  | .getEndpointId => true
  | .getMessageTypeSupport => true
  | .gettid => true
  | .getpldmtypes => true
  | .querydeviceidentifiers => true
  | .getfirmwareparameters => true
  | .requestupdate => true
  | .verifycomplete => true
  | .activatefirmware => true
  | .getstatus => true
  | .cancelupdatecomponent => true
  | .cancelupdate => true
  | .quoteComplete => true
  | .getState => true
  | .getPowerEvent => true
  | .fcolArm => true
  | .unfenceEffect => true
  | .domainRefillDone => true
  | .pwrLifeWrite => true
  | .ppsHoldover => true

end Sys2Proof
end

