-- ==== Sys2Proof/Safety.lean ====
section
/-! DEFINITION. What counts as a safe run, and the terms in which the statements speak: the invariant, when a sequencer issues an instruction, and
what a command leaves unchanged. -/

namespace Sys2Proof.Machine

/-- The invariant of every step: HBM and staging keep their canonical form (ch. 10). -/
def Inv (s : State) : Prop := Memory.wf s.mem = true

/-- A safe step: the command at the front runs to a next state, and the invariant stays. -/
def StepSafe (s : State) : Prop := ∃ t, step s = .next t ∧ (Inv s → Inv t)

/-! ### Frames -/

/-- Every register but those at `offs` reads as before. -/
def RegsBut (s t : State) (offs : List Nat) : Prop := ∀ off, off ∉ offs → t.reg off = s.reg off

/-- Every counter but those of the fields `fs` is as before. -/
def CntBut (s t : State) (fs : List RF) : Prop := ∀ k, k ∉ fs.map RF.key → smGet t.cnt k 0 = smGet s.cnt k 0

/-- The counters of misses in the checksum caches (R294). -/
def sumMisses : List RF := (List.range 16).map F.HBM_CSUM_MISS

/-- Every byte of HBM and staging reads as before. -/
def MemSame (s t : State) : Prop := ∀ a, t.byte a = s.byte a

/-- Every byte outside [a, a + n) reads as before. -/
def MemBut (s t : State) (a n : Nat) : Prop := ∀ b, b < a ∨ a + n ≤ b → t.byte b = s.byte b

/-- Every thread slot but `u`'s is as before. -/
def ThrBut (s t : State) (u : Th) : Prop := ∀ v, thKey v ≠ thKey u → t.thr v = s.thr v

/-! ### How a command ends -/

/-- The command runs, and the state that it leaves has `P`. -/
def Runs (c : Instr) (s : State) (P : State → Prop) : Prop := ∃ u, exec c s = .next u ∧ P u

/-- The command runs, and before the collector takes the events that its blocks have raised (R501), the state has `P`. -/
def RunsSettled (c : Instr) (s : State) (P : State → Prop) : Prop := ∃ u, exec c s = .next (settle u) ∧ P u

/-- A command's event: its RESULT reads `r` and its SEQ has advanced once (R9). -/
def Answered (s u : State) (seq res : RF) (r : Nat) : Prop := u.get res = r ∧ u.get seq = seqNext (s.get seq)

/-- A counter has gone up by `n`, or stands at its all-ones value (R11). -/
def Counted (s u : State) (f : RF) (n : Nat := 1) : Prop := u.live f = min (s.live f + n) (2 ^ f.wid - 1)

/-- What a completion queue with room writes for entry `e`: at the next place of its ring, with the pass's PHASE (R447, R448). -/
def cqRing (c : Cq) (e : List Byte) : Output :=
  .hostWrite c.ctx (c.base + 32 * (c.written % 2 ^ c.log2)) (splice e 6 [if c.written / 2 ^ c.log2 % 2 = 0 then 1#8 else 0#8])

/-- Completion queue `n` is `c`: its host port is up, the adapter is not in Rest, it has room, and it is not armed. -/
structure CqOpen (s : State) (n : Nat) (c : Cq) : Prop where
  awake : s.pst ≠ 4
  found : smFind s.ho.cqs n = some c
  up : s.hostUp (s.ctxPort c.ctx) = true
  none_waits : c.waiting = []
  room : c.written - c.consumed < 2 ^ c.log2
  quiet : c.armed = false

/-! ### Issue (R127, R157) -/

/-- The thread of a Ulent instruction; none for the other commands. -/
def ulThread : Instr → Option Th
  | .add t _ _ _ | .sub t _ _ _ | .mul t _ _ _ | .and t _ _ _ | .or t _ _ _ | .xor t _ _ _ | .shl t _ _ _ | .shr t _ _ _
  | .sar t _ _ _ | .cmp t _ _ _ _ | .sel t _ _ _ _ | .mov t _ _ | .li t _ _ | .lih t _ _ | .br t _ | .brp t _ _ _
  | .call t _ _ | .ret t _ | .loop t _ _ | .halt t | .yield t | .step t | .trap t _ | .dset t _ _ _ _ _ | .dld t _ _ _
  | .dst t _ _ _ | .ld t _ _ _ _ | .ldSyncCount t _ _ _ | .ldFailureLatch t _ _ _ | .st t _ _ _ _ | .issue t _ _ _ _
  | .issuew t _ _ _ _ _ | .sig t _ _ _ | .wait t _ _ _ | .waitt t _ _ _ _ _ | .arm t _ _ _ | .sigr t _ _ | .twait t _ _
  | .postwr t _ | .postrd t _ | .postsend t _ | .postatom t _ _ _ | .cqpost t _ _ _ _ _ | .fenceE t | .fenceF t
  | .fenceH t => some t
  | _ => none

/-- The sequencer of thread `t` issues the instruction `c` of program `p`: the adapter is in Active, the thread is Ready,
no descriptor of it is held by the crossbar (R18), its turn has come (R166), and the word at its program counter is `c`'s. -/
structure Issues (s : State) (t : Th) (c : Instr) (p : Program) : Prop where
  active : s.pst = 3
  ready : (s.thr t).st = .ready
  free : xbarBlocked s t = false
  dom : t.dom < nDom s
  slot : t.slot < 8
  prog : s.prog t = some p
  turn : ¬ (smGet s.sq.last t.dom 0 = (s.thr t).live + 1 ∧ otherReady s t = true)
  word : ∃ w, fetch s t (s.thr t) p = .word w ∧ ulDecode t w = some c

/-- A packet passes steps 1 to 3 of R335 at a queue pair without encryption: its state is on die, the header is good, the packet is that of the
queue pair's other end and has not aged. -/
structure Arrives (s : State) (i : Ingress) (p : Packet) : Prop where
  cached : (s.qp p.dqp).cached = true
  header : p.type ≤ 8 ∧ p.rsvHdr = false ∧ p.rsvRoute = false ∧ hdrOk p = true
  pair : qpAccepts s i p = true
  young : agedOut s p = false
  clear : qpEnc (s.qp p.dqp).e.toNat = false

/-- It takes the PSN that its queue pair expects next, and is new there; with FENCE, everything before it is placed (R336, R337). -/
structure Expected (s : State) (i : Ingress) (p : Packet) : Prop where
  arrives : Arrives s i p
  next : p.psn = (s.qp p.dqp).epsn
  range : p.psn < 2 ^ 24
  none_done : (s.qp p.dqp).done = []
  not_held : migHeld s p.dqp p.psn = false ∧ fenceHeld s p.dqp p.psn = false ∧ signalling s p.dqp p.psn = false
  fence : p.fence = false ∨ fenceOpen (s.qp p.dqp) p = true

/-- What a frame for peer `k` puts on the bus: the frame in the next slot of its inbox, then the running count (R452). -/
def peerOut (s : State) (k : Nat) (p : Packet) : List Output :=
  let n := smGet s.ho.sentTo k 0
  let bs := packetBytes { p with hops := 0, ptr := 0, path := 0 }
  [.busWrite (peerPort s k) (peerInboxAddr s k + 0x4000 * (n % 64)) (toLE 8 bs.length ++ bs),
    .busWrite (peerPort s k) (peerInboxAddr s k + 0x100000) (toLE 4 (n + 1))]

/-- [a, a + n) lies within one tile, translates for `who` with `rights` to the bytes at `pa`, and the tile is whole. -/
structure OneTile (s : State) (who : Who) (rights ctx no a n pa : Nat) : Prop where
  some_ : 0 < n
  tile : a % 2048 + n ≤ 2048
  maps : opTranslate s who rights ctx no a n = .mem pa
  place : pa % 2048 = a % 2048
  unfenced : s.tileFenced (tileOf pa) = false
  good : s.tileBad (tileOf pa) = 0

/-- The bytes at [pa, pa + n) are `bs`, and every other byte is as before. -/
def Stored (s u : State) (pa : Nat) (bs : List Byte) : Prop :=
  (∀ j, j < bs.length → u.byte (pa + j) = bs.getD j 0#8) ∧ MemBut s u pa bs.length

/-- A thread-only effect: beside the thread, nothing changes but the sequencer's own counts of issued instructions. -/
structure OnlyThread (s u : State) (t : Th) : Prop where
  rest : u = { s with sq := u.sq, cnt := u.cnt }
  sq : u.sq = { s.sq with thr := u.sq.thr, last := u.sq.last }
  others : ThrBut s u t
  cnt : CntBut s u [F.SEQ_ISSUED t.dom]
  issued : u.live (F.SEQ_ISSUED t.dom) = min (s.live (F.SEQ_ISSUED t.dom) + 1) (2 ^ (F.SEQ_ISSUED t.dom).wid - 1)
  mem : MemSame s u

/-- The effect of a load: beside the thread, nothing changes but the sequencer's own counts, the lines in the checksum caches and the misses
there (R279, R294), and how many free values have been used. -/
structure LoadOnly (s u : State) (t : Th) : Prop where
  rest : u = { s with sq := u.sq, cnt := u.cnt, mem := { s.mem with lines := u.mem.lines }, free := u.free }
  sq : u.sq = { s.sq with thr := u.sq.thr, last := u.sq.last }
  others : ThrBut s u t
  cnt : CntBut s u (F.SEQ_ISSUED t.dom :: sumMisses)

/-- The thread has written `v` to register gd and goes on with the next instruction: a write to g0 is discarded, every
other part of the thread is as before. -/
structure WroteG (s u : State) (t : Th) (gd : Nat) (v : Word) : Prop where
  only : OnlyThread s u t
  value : (u.thr t).gr gd = if gd = 0 then 0#64 else v
  regs : ∀ n, n ≠ gd → (u.thr t).gr n = (s.thr t).gr n
  rest : u.thr t = { s.thr t with g := (u.thr t).g, pc := (s.thr t).pc + 8#64 }

end Sys2Proof.Machine
end

