-- ==== Sys2Proof/Certificates/Slice0/Obligations.lean ====
section
/-! DEFINITION. The statements about the adapter for the provers: each a Prop, its docstring the rule it follows. -/

open Sys2Proof Sys2Proof.Machine

/-! ### The queue, reset, the whole table -/

/-- With a command at the front of its queue, a step is that command's effect on the state with the queue's rest. On an empty queue the block idles:
the model's choice (log entry 1). -/
def Obligations.StepRunsFront : Prop :=
  (∀ (c : Instr) (rest : List Instr) (s : State), step { s with pending := c :: rest } = exec c { s with pending := rest }) ∧
  (∀ s : State, s.pending = [] → step s = .next s)

/-- After reset, with MOD_RESET_N low: PWR_STATE reads Bring-up (R87), every thread slot is Free with all its registers 0 (R125), every sync count is 0, nothing
waits at the sync units, and no command waits. TICK_LEN reads 2,000 ns in CUR and NEXT, and the register fields hold their tables' values. -/
def Obligations.ResetState : Prop :=
  let s := State.reset
  s.pending = [] ∧ s.get F.PWR_STATE_STATE = 2 ∧ s.pw.held = true ∧ s.get F.TICK_LEN_CUR = 8 ∧ s.get F.TICK_LEN_NEXT = 8 ∧
  (∀ t : Th, (s.thr t).st = .free ∧ (∀ n, (s.thr t).gr n = 0#64) ∧ (∀ n, (s.thr t).dr n = 0#256) ∧ (s.thr t).p = 0#8) ∧
  (∀ obj, s.syncCount obj = 0) ∧ s.sy.reqs = [] ∧ s.sy.waiters = [] ∧ (∀ a, isStg a = false → s.byte a = 0#8)

/-- The invariant holds at reset. -/
def Obligations.InvReset : Prop := Inv State.reset

/-- Every step keeps HBM and staging in their canonical form, from every state that has it. -/
def Obligations.StepKeepsMemory : Prop := ∀ s t : State, Inv s → step s = .next t → Inv t

/-- Every command other than HOLDING_UNIT_ACCESS answers a next state, in every state and for every operand; HOLDING_UNIT_ACCESS stops where its stack
or bank is absent on the variant or an address is not its unit's (R2, R278, R281), and answers a next state otherwise. -/
def Obligations.WhereCommandsStop : Prop :=
  (∀ (c : Instr) (s : State), (∀ u as, c ≠ .holdingUnitAccess u as) → ∃ t, exec c s = .next t) ∧
  (∀ (u : HoldUnit) (as : List TileAccess) (s : State),
    ((holdPresent s u = false ∨ ∃ a ∈ as, holdServes s u a = false) → exec (.holdingUnitAccess u as) s = .fault .noSuchUnit) ∧
    (holdPresent s u = true → (∀ a ∈ as, holdServes s u a = true) → ∃ t, exec (.holdingUnitAccess u as) s = .next t))

/-! ### Ulent words (R155–R159) -/

/-- Decoding the word of a well-formed Ulent instruction gives the instruction back, whatever its operands. -/
def Obligations.UlentRoundTrip : Prop :=
  ∀ (t : Th) (c : Instr) (w : Nat), Instr.wf c = true → ulEncode c = some w → ulThread c = some t → ulDecode t w = some c

/-! ### Ulent instructions (R163–R186) -/

/-- The ALU instructions write their result to gd, discarding a write to g0, and change nothing else of the thread or the adapter (R125, R158, R163). -/
def Obligations.AluResult : Prop :=
  ∀ (s : State) (t : Th) (p : Program) (gd ga : Nat) (b : Opd),
    let a := (s.thr t).gr ga
    let v := opdVal (s.thr t) b
    (Issues s t (.add t gd ga b) p → ∃ u, exec (.add t gd ga b) s = .next u ∧ WroteG s u t gd (a + v)) ∧
    (Issues s t (.sub t gd ga b) p → ∃ u, exec (.sub t gd ga b) s = .next u ∧ WroteG s u t gd (a - v)) ∧
    (Issues s t (.mul t gd ga b) p → ∃ u, exec (.mul t gd ga b) s = .next u ∧ WroteG s u t gd (a * v)) ∧
    (Issues s t (.and t gd ga b) p → ∃ u, exec (.and t gd ga b) s = .next u ∧ WroteG s u t gd (a &&& v)) ∧
    (Issues s t (.or t gd ga b) p → ∃ u, exec (.or t gd ga b) s = .next u ∧ WroteG s u t gd (a ||| v)) ∧
    (Issues s t (.xor t gd ga b) p → ∃ u, exec (.xor t gd ga b) s = .next u ∧ WroteG s u t gd (a ^^^ v)) ∧
    (Issues s t (.shl t gd ga b) p → ∃ u, exec (.shl t gd ga b) s = .next u ∧ WroteG s u t gd (a <<< (v.toNat % 64))) ∧
    (Issues s t (.shr t gd ga b) p → ∃ u, exec (.shr t gd ga b) s = .next u ∧ WroteG s u t gd (a >>> (v.toNat % 64))) ∧
    (Issues s t (.sar t gd ga b) p → ∃ u, exec (.sar t gd ga b) s = .next u ∧ WroteG s u t gd (a.sshiftRight (v.toNat % 64)))

/-- MOV, LI, LIH and SEL write gd as R163 gives, LIH leaving bits [31:0] as they were. -/
def Obligations.MoveResult : Prop :=
  ∀ (s : State) (t : Th) (p : Program) (gd ga gb ps : Nat) (imm : BitVec 32),
    let x := s.thr t
    (Issues s t (.mov t gd ga) p → ∃ u, exec (.mov t gd ga) s = .next u ∧ WroteG s u t gd (x.gr ga)) ∧
    (Issues s t (.li t gd imm) p → ∃ u, exec (.li t gd imm) s = .next u ∧ WroteG s u t gd (imm.signExtend 64)) ∧
    (Issues s t (.lih t gd imm) p → ∃ u v, exec (.lih t gd imm) s = .next u ∧ WroteG s u t gd v ∧
      v.extractLsb' 32 32 = imm ∧ v.extractLsb' 0 32 = (x.gr gd).extractLsb' 0 32) ∧
    (Issues s t (.sel t gd ga gb ps) p → ∃ u, exec (.sel t gd ga gb ps) s = .next u ∧
      WroteG s u t gd (if x.pr ps then x.gr ga else x.gr gb))

/-- CMP writes cond(ga, b) to pd, for each of the conditions 0 to 10, and changes no other predicate and no register; a word with a condition of 11 to
15 is no CMP (R164). -/
def Obligations.CmpResult : Prop :=
  ∀ (s : State) (t : Th) (p : Program) (pd cond ga : Nat) (b : Opd), Issues s t (.cmp t pd cond ga b) p →
    let a := (s.thr t).gr ga
    let v := opdVal (s.thr t) b
    cond ≤ 10 ∧ ∃ u, exec (.cmp t pd cond ga b) s = .next u ∧ OnlyThread s u t ∧
      u.thr t = { s.thr t with p := (u.thr t).p, pc := (s.thr t).pc + 8#64 } ∧
      (∀ n, n ≠ pd → (u.thr t).pr n = (s.thr t).pr n) ∧
      (cond = 0 → ((u.thr t).pr pd = true ↔ a = v)) ∧
      (cond = 1 → ((u.thr t).pr pd = true ↔ a ≠ v)) ∧
      (cond = 2 → ((u.thr t).pr pd = true ↔ a.toInt < v.toInt)) ∧
      (cond = 3 → ((u.thr t).pr pd = true ↔ v.toInt ≤ a.toInt)) ∧
      (cond = 4 → ((u.thr t).pr pd = true ↔ a.toNat < v.toNat)) ∧
      (cond = 5 → ((u.thr t).pr pd = true ↔ v.toNat ≤ a.toNat)) ∧
      (cond = 6 → ((u.thr t).pr pd = true ↔ a.toInt ≤ v.toInt)) ∧
      (cond = 7 → ((u.thr t).pr pd = true ↔ v.toInt < a.toInt)) ∧
      (cond = 8 → ((u.thr t).pr pd = true ↔ a.toNat ≤ v.toNat)) ∧
      (cond = 9 → ((u.thr t).pr pd = true ↔ v.toNat < a.toNat)) ∧
      (cond = 10 → ((u.thr t).pr pd = true ↔ a &&& v ≠ 0#64))

/-- The control instructions move the program counter as R165 gives; CALL writes its link and LOOP its count, a write to g0 discarded; nothing
else changes. LOOP with ga other than 0 entered at a count of 0 goes on at 2^64 − 1. Whatever instruction is to be fetched at a program counter that is no
multiple of 8 or lies outside the code, the thread halts with FAULT_KIND 11; said of a program with another thread that has not halted. -/
def Obligations.ControlResult : Prop :=
  ∀ (s : State) (t : Th) (p : Program) (ps ga : Nat) (sense : Bool) (off : BitVec 32),
    let x := s.thr t
    let dest := x.pc + 8#64 * off.signExtend 64
    (Issues s t (.br t off) p → ∃ u, exec (.br t off) s = .next u ∧ OnlyThread s u t ∧ u.thr t = { x with pc := dest }) ∧
    (Issues s t (.brp t ps sense off) p → ∃ u, exec (.brp t ps sense off) s = .next u ∧ OnlyThread s u t ∧
      u.thr t = { x with pc := if x.pr ps = sense then dest else x.pc + 8#64 }) ∧
    (Issues s t (.call t ga off) p → ∃ u, exec (.call t ga off) s = .next u ∧ OnlyThread s u t ∧
      (u.thr t).pc = dest ∧ (u.thr t).gr ga = (if ga = 0 then 0#64 else x.pc + 8#64) ∧
      (∀ n, n ≠ ga → (u.thr t).gr n = x.gr n) ∧ u.thr t = { x with g := (u.thr t).g, pc := dest }) ∧
    (Issues s t (.ret t ga) p → ∃ u, exec (.ret t ga) s = .next u ∧ OnlyThread s u t ∧ u.thr t = { x with pc := x.gr ga }) ∧
    (Issues s t (.loop t ga off) p → ga ≠ 0 → ∃ u, exec (.loop t ga off) s = .next u ∧ OnlyThread s u t ∧
      (u.thr t).gr ga = x.gr ga - 1#64 ∧ (u.thr t).pc = (if x.gr ga = 1#64 then x.pc + 8#64 else dest) ∧
      (∀ n, n ≠ ga → (u.thr t).gr n = x.gr n) ∧ u.thr t = { x with g := (u.thr t).g, pc := (u.thr t).pc }) ∧
    (Issues s t (.loop t 0 off) p → ∃ u, exec (.loop t 0 off) s = .next u ∧ OnlyThread s u t ∧
      u.thr t = { x with pc := x.pc + 8#64 }) ∧
    (∀ c, ulThread c = some t → s.pst = 3 → x.st = .ready → t.dom < nDom s → t.slot < 8 → s.prog t = some p → xbarBlocked s t = false → otherReady s t = false →
      (∃ k ∈ p.slots, thKey ⟨p.dom, k⟩ ≠ thKey t ∧ (s.thr ⟨p.dom, k⟩).st ≠ .halted) → x.pc.toNat % 8 ≠ 0 ∨ p.codeSize ≤ x.pc.toNat →
      ∃ u, exec c s = .next u ∧ (u.thr t).st = .halted ∧ (u.thr t).kind = 11 ∧ (u.thr t).g = x.g ∧ (u.thr t).pc = x.pc ∧
        RegsBut s u [] ∧ CntBut s u [] ∧ MemSame s u)

/-- DSET writes ga[wid − 1:0] to bits [lo + wid − 1:lo] of word w of dd, a wid of 0 meaning 64, and changes no other bit, no other descriptor
register and nothing else; a word with lo + wid above 64 is no DSET (R172). LD of space 2 at address 0 returns TAG, CODE and COUNT of the failure latch and clears it (R171). -/
def Obligations.DescriptorAndLatch : Prop :=
  ∀ (s : State) (t : Th) (p : Program) (dd w lo wid ga gd : Nat) (off : BitVec 32),
    let x := s.thr t
    let n := if wid = 0 then 64 else wid
    (Issues s t (.dset t dd w lo wid ga) p → w < 4 ∧ lo + n ≤ 64 ∧
      ∃ u, exec (.dset t dd w lo wid ga) s = .next u ∧ OnlyThread s u t ∧
        (∀ i, i < 256 → ((u.thr t).dr dd).getLsbD i =
          if 64 * w + lo ≤ i ∧ i < 64 * w + lo + n then (x.gr ga).getLsbD (i - (64 * w + lo)) else (x.dr dd).getLsbD i) ∧
        (∀ m, m ≠ dd → (u.thr t).dr m = x.dr m) ∧ u.thr t = { x with d := (u.thr t).d, pc := x.pc + 8#64 }) ∧
    (Issues s t (.ldFailureLatch t gd ga off) p → effAddr x ga off = 0 →
      ∃ u, exec (.ldFailureLatch t gd ga off) s = .next u ∧ OnlyThread s u t ∧
        (u.thr t).gr gd = (if gd = 0 then 0#64 else
          BitVec.ofNat 24 x.latchCount ++ BitVec.ofNat 8 x.latchCode ++ BitVec.ofNat 32 x.latchTag) ∧
        (∀ m, m ≠ gd → (u.thr t).gr m = x.gr m) ∧
        u.thr t = { x with g := (u.thr t).g, pc := x.pc + 8#64, latchCount := 0, latchCode := 0, latchTag := 0 })

/-- The faults of a thread at an instruction (R136): the thread halts with the kind and its code, and its registers, descriptors,
predicates, latch and program counter stay; every other thread of the program gets a stop with that kind, unless one is pending or it has
halted. No register, no counter other than that of issued instructions and no byte of memory changes. It is said of a program with another
thread that has not halted, whose completion therefore waits (R137). LD of space 2 at an address other than 0: kind 1 (R171). LD of space 1 in an
unprivileged thread: kind 2 (R175). SIG, WAIT, WAITT and ARM of an object 4,096 or above: kind 3 (R179). CQPOST to a queue that is not the
context's: kind 3 (R185). ISSUE and POSTWR of a descriptor of another KIND: kind 7 (R177, R182). -/
def Obligations.ThreadFaults : Prop :=
  ∀ (s : State) (t : Th) (p : Program) (c : Instr) (kind gd dd pd ga gb idx ticks eng code : Nat) (er nf : Bool) (off : BitVec 32),
    let x := s.thr t
    let big := 4096 ≤ (x.gr ga + BitVec.ofNat 64 idx).toNat
    let e := if er then (x.gr ga).toNat % 64 else eng
    Issues s t c p → (∃ k ∈ p.slots, thKey ⟨p.dom, k⟩ ≠ thKey t ∧ (s.thr ⟨p.dom, k⟩).st ≠ .halted) →
    ((c = .ldFailureLatch t gd ga off ∧ effAddr x ga off ≠ 0 ∧ kind = 1) ∨
     (c = .ldSyncCount t gd ga off ∧ x.priv = false ∧ kind = 2) ∨
     (c = .sig t ga gb idx ∧ big ∧ kind = 3) ∨ (c = .wait t ga gb idx ∧ big ∧ kind = 3) ∨
     (c = .waitt t pd ga gb idx ticks ∧ big ∧ kind = 3) ∨ (c = .arm t ga gb idx ∧ big ∧ kind = 3) ∨
     (c = .cqpost t dd ga gb nf code ∧ s.ownsCq x.ctx ((x.gr ga).toNat % 65536) = false ∧ kind = 3) ∨
     (c = .issue t dd er ga eng ∧ e < nEng s ∧ dKind (dOwn x (x.dr dd)) ≠ engKind s e ∧ kind = 7) ∨
     (c = .postwr t dd ∧ dKind (dOwn x (x.dr dd)) ≠ 8 ∧ kind = 7)) →
    ∃ u, exec c s = .next u ∧
      u.thr t = { x with st := .halted, cause := 0, pend := .none, stop := none, kind := kind, code := kindCode kind 0 } ∧
      (∀ k ∈ p.slots, thKey ⟨p.dom, k⟩ ≠ thKey t → (s.thr ⟨p.dom, k⟩).st ≠ .free → (s.thr ⟨p.dom, k⟩).st ≠ .halted →
        (u.thr ⟨p.dom, k⟩).stop = some ((s.thr ⟨p.dom, k⟩).stop.getD kind)) ∧
      RegsBut s u [] ∧ CntBut s u [F.SEQ_ISSUED t.dom] ∧ MemSame s u

/-- HALT (R167) moves its thread to Halted, and its program goes on, while another thread of it has not halted. When it is the last, the
program completes (R137): it is gone, its slots are Free, and SEQ_EVENT does not advance where no thread has faulted. -/
def Obligations.HaltResult : Prop :=
  ∀ (s : State) (t : Th) (p : Program), Issues s t (.halt t) p →
    ((∃ k ∈ p.slots, thKey ⟨p.dom, k⟩ ≠ thKey t ∧ (s.thr ⟨p.dom, k⟩).st ≠ .halted) →
      ∃ u, exec (.halt t) s = .next u ∧ (u.thr t).st = .halted ∧ (u.thr t).kind = 0 ∧ (u.thr t).pc = (s.thr t).pc ∧
        ThrBut s u t ∧ RegsBut s u [] ∧ CntBut s u [F.SEQ_ISSUED t.dom] ∧ MemSame s u ∧ u.out = s.out) ∧
    ((∀ k ∈ p.slots, thKey ⟨p.dom, k⟩ ≠ thKey t → (s.thr ⟨p.dom, k⟩).st = .halted) → anySaved s p = false →
      p.dom < 16 → ∃ u, exec (.halt t) s = .next u ∧ smFind u.sq.progs (progKey p.dom p.num) = none ∧
        (∀ k ∈ p.slots, (u.thr ⟨p.dom, k⟩).st = .free) ∧ MemSame s u ∧
        (p.decided = none → u.get (F.SEQ_EVENT_SEQ p.dom) = s.get (F.SEQ_EVENT_SEQ p.dom)))

/-- TRAP (R136, R167) and a word that is no instruction (R157) halt the thread with FAULT_KIND 6 and 1; where it is its program's last, the program
completes: it is gone, its slots are Free, and SEQ_EVENT advances with the kind and the slot (R137, R153). -/
def Obligations.TrapAndUndefined : Prop :=
  ∀ (s : State) (t : Th) (p : Program) (code : Nat) (w : Word),
    let last := (∀ k ∈ p.slots, thKey ⟨p.dom, k⟩ ≠ thKey t → (s.thr ⟨p.dom, k⟩).st = .halted) ∧ anySaved s p = false ∧ p.decided = none
    let event (u : State) (kind : Nat) : Prop := smFind u.sq.progs (progKey p.dom p.num) = none ∧
      (∀ k ∈ p.slots, (u.thr ⟨p.dom, k⟩).st = .free) ∧
      u.get (F.SEQ_EVENT_SEQ p.dom) = seqNext (s.get (F.SEQ_EVENT_SEQ p.dom)) ∧
      u.get (F.SEQ_EVENT_LAST_KIND p.dom) = kind ∧ u.get (F.SEQ_EVENT_LAST_THREAD p.dom) = t.slot
    (Issues s t (.trap t code) p → last → p.dom < 16 → ∃ u, exec (.trap t code) s = .next u ∧ event u 6) ∧
    (s.pst = 3 → (s.thr t).st = .ready → t.dom < nDom s → t.slot < 8 → s.prog t = some p → xbarBlocked s t = false → otherReady s t = false →
      fetch s t (s.thr t) p = .word w.toNat → ulDecode t w.toNat = none → last → p.dom < 16 →
      ∃ u, exec (.undefinedInstruction t w) s = .next u ∧ event u 1)

/-- STEP counts, and both STEP and YIELD go on with the next instruction while no stop and no freeze is pending (R166); with a stop pending they
halt the thread with the pending kind, here of a program with another thread that has not halted (R135). -/
def Obligations.PreemptionPoints : Prop :=
  ∀ (s : State) (t : Th) (p : Program) (c : Instr), c = .step t ∨ c = .yield t → Issues s t c p →
    let x := s.thr t
    let y := if c = .step t then { x with steps := x.steps + 1, pc := x.pc + 8#64 } else { x with pc := x.pc + 8#64 }
    (x.stop = none → x.freeze = false → ∃ u, exec c s = .next u ∧ OnlyThread s u t ∧ u.thr t = y ∧
      (c = .yield t → otherReady s t = true → smGet u.sq.last t.dom 0 = x.live + 1)) ∧
    (∀ k, x.stop = some k → (∃ j ∈ p.slots, thKey ⟨p.dom, j⟩ ≠ thKey t ∧ (s.thr ⟨p.dom, j⟩).st ≠ .halted) →
      ∃ u, exec c s = .next u ∧ (u.thr t).st = .halted ∧ (u.thr t).kind = k ∧ (u.thr t).gr = x.gr ∧ RegsBut s u [] ∧ MemSame s u)

/-- SIG, WAIT, WAITT and ARM of an object below 4,096, and a privileged LD of space 1, send one request to the sync units and leave the thread
Executing until it is performed (R138, R175, R179): SIG's amount is gb[31:0], 0 acting as 1. -/
def Obligations.SyncRequests : Prop :=
  ∀ (s : State) (t : Th) (p : Program) (c : Instr) (r : SyncReq) (pd gd ga gb idx ticks : Nat) (off : BitVec 32),
    let x := s.thr t
    let n := (x.gr ga + BitVec.ofNat 64 idx).toNat
    let v := x.gr gb
    let m := (x.gr ga + off.signExtend 64).toNat
    let req (obj : Nat) (ctx : Option Nat) (op : SyncOp) : SyncReq := ⟨t.dom, obj, ctx, op, some (t, x.live), 0, none⟩
    ((c = .sig t ga gb idx ∧ n < 4096 ∧
        r = req n (some x.ctx) (.signal (if v.toNat % 2 ^ 32 = 0 then 1 else v.toNat % 2 ^ 32))) ∨
     (c = .wait t ga gb idx ∧ n < 4096 ∧ r = req n (some x.ctx) (.wait v)) ∨
     (c = .waitt t pd ga gb idx ticks ∧ n < 4096 ∧ r = req n (some x.ctx) (.waitt v ticks pd)) ∨
     (c = .arm t ga gb idx ∧ n < 4096 ∧ r = req n (some x.ctx) (.arm v)) ∨
     (c = .ldSyncCount t gd ga off ∧ x.priv = true ∧ m < 4096 ∧ r = req m none (.read gd))) →
    Issues s t c p →
    ∃ u, exec c s = .next u ∧ u = { s with sq := u.sq, cnt := u.cnt, sy := { s.sy with reqs := s.sy.reqs ++ [r] } } ∧
      u.thr t = { x with st := .executing, pend := .sync } ∧ ThrBut s u t ∧ CntBut s u [F.SEQ_ISSUED t.dom] ∧ MemSame s u

/-- A sync unit performs one operation (R138, R139): a signal adds and saturates at 2^64 − 1, an arm sets, a wait whose threshold is met lets its thread
go on and any other records a waiter, a read returns the count; every other object's count stays. Said of one request at the unit, of an object that
its context owns (R141). Requests at one unit are taken in rotating order from its pointer, the oldest of a requester first; the pointer moves on by
one only where another request is left (R19). -/
def Obligations.SyncOperation : Prop :=
  (∀ (s : State) (g : Nat) (r : SyncReq), s.pst = 3 → g < nSync s → s.sy.reqs = [r] → syncOwner s r.obj = g → r.req < 83 →
    r.pkt = none → s.sy.landed = [] → (∀ c, r.ctx = some c → s.ownsSync c r.obj = true) →
    let c := s.syncCount r.obj
    ∃ u, exec (.syncUnitOperation g) s = .next (settle u) ∧ u.sy.reqs = [] ∧
      (∀ o, o ≠ r.obj → u.syncCount o = s.syncCount o) ∧ MemSame s u ∧
      (∀ n, r.op = .signal n → u.syncCount r.obj = min (c + n) (2 ^ 64 - 1)) ∧
      (∀ v, r.op = .arm v → u.syncCount r.obj = v.toNat) ∧
      (∀ v, r.op = .wait v → u.syncCount r.obj = c) ∧
      (∀ gd, r.op = .read gd → u.syncCount r.obj = c) ∧
      -- the thread that sent a wait, a WAITT or a read, still in that start and waiting for the unit
      (∀ t live, r.th = some (t, live) → (s.thr t).live = live → (s.thr t).pend = .sync →
        (∀ v, r.op = .wait v → (if v.toNat ≤ c then
            (u.thr t).st = .ready ∧ (u.thr t).pc = (s.thr t).pc + 8#64 ∧ u.sy.waiters = s.sy.waiters
          else (u.thr t).st = .waiting ∧ (u.thr t).cause = 1 ∧ (u.thr t).pc = (s.thr t).pc ∧
            u.sy.waiters = s.sy.waiters ++ [⟨r.obj, v, t, none, none⟩])) ∧
        (∀ v ticks pd, r.op = .waitt v ticks pd → pd < 8 → (if v.toNat ≤ c then
            (u.thr t).st = .ready ∧ (u.thr t).pr pd = true ∧ u.sy.waiters = s.sy.waiters
          else (u.thr t).st = .waiting ∧ (u.thr t).cause = 1 ∧
            u.sy.waiters = s.sy.waiters ++ [⟨r.obj, v, t, some (s.tk.count + max ticks 1, pd), some pd⟩])) ∧
        (∀ gd, r.op = .read gd → (u.thr t).st = .ready ∧ (gd ≠ 0 → (u.thr t).gr gd = BitVec.ofNat 64 c) ∧
          (∀ n, n ≠ gd → (u.thr t).gr n = (s.thr t).gr n)))) ∧
  (∀ (s : State) (g : Nat), s.pst = 3 → g < nSync s → s.sy.landed = [] → (∀ r ∈ s.sy.reqs, r.pkt = none ∧ r.req < 83) →
    ∀ (pre post : List SyncReq) (r : SyncReq), s.sy.reqs = pre ++ r :: post → syncOwner s r.obj = g →
      (∀ q ∈ pre, syncOwner s q.obj = g → q.req ≠ r.req) →
      let p := smGet s.sy.ptr g 0
      -- no requester at or after the pointer comes before r's
      p < 83 → (∀ q ∈ s.sy.reqs, syncOwner s q.obj = g → (r.req + 83 - p) % 83 ≤ (q.req + 83 - p) % 83) →
      ∃ u, exec (.syncUnitOperation g) s = .next (settle u) ∧ u.sy.reqs = pre ++ post ∧
        smGet u.sy.ptr g 0 = (if ∃ q ∈ pre ++ post, syncOwner s q.obj = g then (p + 1) % 83 else p))

/-- A WAITT timer that expires leaves no waiter and its thread reads predicate 0 (R140); TWAIT parks its thread with WAIT_CAUSE 6, on the next boundary or
on an entry (R180). A fence whose condition holds goes on at once, and any other leaves its thread Executing; FENCE_CONDITION_MET lets it go on once
the condition holds (R186): FENCE.E with no descriptor outstanding, FENCE.F with no posted operation, FENCE.H at once (log entry 12). -/
def Obligations.TimedWaitsAndFences : Prop :=
  (∀ (s : State) (t : Th) (w : Waiter) (b pd : Nat), s.pst = 3 → w ∈ s.sy.waiters → w.th = t → w.expiry = some (b, pd) → b ≤ s.tk.count →
    (∀ v ∈ s.sy.waiters, v.th = t → v = w) → pd < 8 →
    ∃ u, exec (.waittTimeout t) s = .next u ∧ (u.thr t).st = .ready ∧ (u.thr t).pr pd = false ∧
      (∀ n, n ≠ pd → (u.thr t).pr n = (s.thr t).pr n) ∧ (u.thr t).pc = (s.thr t).pc + 8#64 ∧
      (∀ v ∈ u.sy.waiters, v.th ≠ t) ∧ u.sy.counts = s.sy.counts ∧ ThrBut s u t ∧ RegsBut s u [] ∧ MemSame s u) ∧
  (∀ (s : State) (t : Th) (p : Program) (mode : Bool) (entry : Nat), Issues s t (.twait t mode entry) p →
    ∃ u, exec (.twait t mode entry) s = .next u ∧ OnlyThread s u t ∧
      u.thr t = { s.thr t with st := .parked, cause := 6, pend := .twait (if mode then some entry else none) }) ∧
  (∀ (s : State) (t : Th) (p : Program),
    let x := s.thr t
    let go : Thread := { x with pc := x.pc + 8#64 }
    (Issues s t (.fenceE t) p → ∃ u, exec (.fenceE t) s = .next u ∧ OnlyThread s u t ∧
      u.thr t = (if x.outE = 0 then go else { x with st := .executing, pend := .fence 0 })) ∧
    (Issues s t (.fenceF t) p → ∃ u, exec (.fenceF t) s = .next u ∧ OnlyThread s u t ∧
      u.thr t = (if x.outF = 0 then go else { x with st := .executing, pend := .fence 1 })) ∧
    (Issues s t (.fenceH t) p → ∃ u, exec (.fenceH t) s = .next u ∧ OnlyThread s u t ∧ u.thr t = go) ∧
    (s.pst = 3 → (x.pend = .fence 0 ∧ x.outE = 0 ∨ x.pend = .fence 1 ∧ x.outF = 0) →
      ∃ u, exec (.fenceConditionMet t) s = .next u ∧ u.thr t = { go with st := .ready, cause := 0, pend := .none } ∧
        ThrBut s u t ∧ u = { s with sq := { s.sq with thr := u.sq.thr } }))

/-- LD and DLD of an aligned address that translates with the read right, to tiles that are whole, write the bytes, little-endian and
zero-extended; a write to g0 is discarded. Beside the thread only counts and the checksum caches change, and no byte of memory (R173, R174, R279). -/
def Obligations.LoadResult : Prop :=
  ∀ (s : State) (t : Th) (p : Program) (gd ga size dd pa : Nat) (off : BitVec 32),
    let x := s.thr t
    let a := (x.gr ga + off.signExtend 64).toNat
    let whole (n : Nat) : Prop := ∀ k ∈ tilesOf pa n, s.tileFenced k = false ∧ s.tileBad k = 0
    (Issues s t (.ld t gd ga size off) p → a % 2 ^ size = 0 → opTranslate s .ls rRead x.ctx p.no a (2 ^ size) = .mem pa →
      whole (2 ^ size) → ∃ u, exec (.ld t gd ga size off) s = .next (settle u) ∧ LoadOnly s u t ∧
        (u.thr t).gr gd = (if gd = 0 then 0#64 else BitVec.ofNat 64 (ofLE ((List.range (2 ^ size)).map fun i => s.byte (pa + i)))) ∧
        (∀ m, m ≠ gd → (u.thr t).gr m = x.gr m) ∧ u.thr t = { x with g := (u.thr t).g, pc := x.pc + 8#64 }) ∧
    (Issues s t (.dld t dd ga off) p → a % 32 = 0 → opTranslate s .ls rRead x.ctx p.no a 32 = .mem pa → whole 32 →
      ∃ u, exec (.dld t dd ga off) s = .next (settle u) ∧ LoadOnly s u t ∧
        (u.thr t).dr dd = BitVec.ofNat 256 (ofLE ((List.range 32).map fun i => s.byte (pa + i))) ∧
        (∀ m, m ≠ dd → (u.thr t).dr m = x.dr m) ∧ u.thr t = { x with d := (u.thr t).d, pc := x.pc + 8#64 })

/-- ST and DST of an aligned address that translates with the write right, to a tile that is whole, write the low bytes of gd and the bytes of dd at
the translated address, and no other byte; the thread goes on and no register changes (R173, R174, R284). -/
def Obligations.StoreResult : Prop :=
  ∀ (s : State) (t : Th) (p : Program) (gd ga size dd pa : Nat) (off : BitVec 32),
    let x := s.thr t
    let a := (x.gr ga + off.signExtend 64).toNat
    let whole : Prop := s.tileFenced (tileOf pa) = false ∧ s.tileBad (tileOf pa) = 0
    let cf := if isStg pa then F.STG_RMW (stgBank pa) else F.HBM_RMW (stackOf s.variant pa)
    let stored (u : State) (n : Nat) (v : Nat) : Prop :=
      (∀ i, i < n → u.byte (pa + i) = BitVec.ofNat 8 (v / 256 ^ i)) ∧ MemBut s u pa n ∧ u.thr t = { x with pc := x.pc + 8#64 } ∧
        ThrBut s u t ∧ RegsBut s u [] ∧ CntBut s u (F.SEQ_ISSUED t.dom :: cf :: sumMisses)
    (Issues s t (.st t gd ga size off) p → size ≤ 3 → a % 2 ^ size = 0 → opTranslate s .ls rWrite x.ctx p.no a (2 ^ size) = .mem pa →
      pa % 2 ^ size = 0 → whole → ∃ u, exec (.st t gd ga size off) s = .next (settle u) ∧ stored u (2 ^ size) (x.gr gd).toNat) ∧
    (Issues s t (.dst t dd ga off) p → a % 32 = 0 → opTranslate s .ls rWrite x.ctx p.no a 32 = .mem pa → pa % 32 = 0 → whole →
      ∃ u, exec (.dst t dd ga off) s = .next (settle u) ∧ stored u 32 (x.dr dd).toNat)

/-- LD, ST, DLD and DST fault in the order of R173 and R174: a misaligned address with FAULT_KIND 5, whatever it names; one that does not translate with
the right to memory with 4; a tile of a fenced stack or domain with 12; no byte is written. Said of a program with another thread that has not halted. -/
def Obligations.LoadStoreFaults : Prop :=
  ∀ (s : State) (t : Th) (p : Program) (c : Instr) (kind gd ga size dd : Nat) (off : BitVec 32),
    let x := s.thr t
    let a := (x.gr ga + off.signExtend 64).toNat
    Issues s t c p → (∃ k ∈ p.slots, thKey ⟨p.dom, k⟩ ≠ thKey t ∧ (s.thr ⟨p.dom, k⟩).st ≠ .halted) →
    (∃ n rights, ((c = .ld t gd ga size off ∧ n = 2 ^ size ∧ rights = rRead) ∨ (c = .st t gd ga size off ∧ size ≤ 3 ∧ n = 2 ^ size ∧ rights = rWrite) ∨
        (c = .dld t dd ga off ∧ n = 32 ∧ rights = rRead) ∨ (c = .dst t dd ga off ∧ n = 32 ∧ rights = rWrite)) ∧
      ((a % n ≠ 0 ∧ kind = 5) ∨
       (a % n = 0 ∧ (∀ pa, opTranslate s .ls rights x.ctx p.no a n ≠ .mem pa) ∧ kind = 4) ∨
       (a % n = 0 ∧ (∃ pa, opTranslate s .ls rights x.ctx p.no a n = .mem pa ∧ pa % n = 0 ∧ s.tileFenced (tileOf pa) = true) ∧ kind = 12))) →
    ∃ u, exec c s = .next (settle u) ∧
      u.thr t = { x with st := .halted, cause := 0, pend := .none, stop := none, kind := kind, code := kindCode kind 0 } ∧
      RegsBut s u [] ∧ CntBut s u [F.SEQ_ISSUED t.dom] ∧ MemSame s u

/-- ISSUE and ISSUEW hand the descriptor, with the thread's own context unless it is privileged, to the engine's crossbar input, with a tracker entry:
ISSUE goes on, ISSUEW waits with WAIT_CAUSE 2 (R149, R168, R177, R178). While the engine's queue has no entry for the descriptor, it holds its thread at the
crossbar (R18). For an absent or fenced engine the descriptor ends with UNIT_FENCED (R147); of a reduction engine that is fenced, and of one that is absent, with
no register and no byte changed, of another that is fenced with no byte changed outside the 128 at its record (R219, R266). -/
def Obligations.IssueResult : Prop :=
  ∀ (s : State) (t : Th) (p : Program) (c : Instr) (gd dd ga eng : Nat) (er : Bool),
    let x := s.thr t
    let e := if er then (x.gr ga).toNat % 64 else eng
    let w := dOwn x (x.dr dd)
    let b := p.budget.getD (engKind s e) (0, 0)
    (c = .issue t dd er ga eng ∨ c = .issuew t gd dd er ga eng) → Issues s t c p → s.trkHeld t < 64 →
    let thread (u : State) : Prop := (u.thr t).outE = x.outE + 1 ∧ (u.thr t).g = x.g ∧
      (c = .issue t dd er ga eng → (u.thr t).st = .ready ∧ (u.thr t).pc = x.pc + 8#64) ∧
      (c = .issuew t gd dd er ga eng → (u.thr t).st = .waiting ∧ (u.thr t).cause = 2 ∧ (u.thr t).pc = x.pc) ∧
      smFind u.sq.trk s.sq.opNo = some (dCtx w, thKey t + 1) ∧ u.sq.opNo = s.sq.opNo + 1
    let sent (d : Desc) : Prop := d.w = w ∧ d.th = t ∧ d.eng = e ∧ d.no = s.sq.opNo ∧ d.post = false ∧
      (c = .issue t dd er ga eng → d.ew = none) ∧ (c = .issuew t gd dd er ga eng → d.ew = some gd)
    (nEng s ≤ e → ∃ u d, exec c s = .next u ∧ thread u ∧ sent d ∧ u.en.ended = s.en.ended ++ [⟨d, 0x7F⟩] ∧ RegsBut s u [] ∧ MemSame s u) ∧
    (e < nEng s → dKind w = engKind s e → s.engFenced e = true →
      ∃ u d, exec c s = .next u ∧ thread u ∧ sent d ∧ u.en.ended = s.en.ended ++ [⟨d, 0x7F⟩] ∧
        (dKind w = 0 → RegsBut s u [] ∧ MemSame s u) ∧ MemBut s u (recAddr w (recWord (dKind w))) 128) ∧
    (e < nEng s → dKind w = engKind s e → s.engFenced e = false → bit p.engines e = true → b.1 ≠ 0 → b.2 ≠ 0 →
      ∃ u d, exec c s = .next u ∧ thread u ∧ sent d ∧ (u.engine e).input = (s.engine e).input ++ [d] ∧
        (u.engine e).queue = (s.engine e).queue ∧ RegsBut s u [] ∧ MemSame s u ∧
        (queueRoom (s.engine e).queue (t.dom = e / 4) = false → xbarBlocked u t = true))

/-- POSTWR, POSTRD, POSTSEND, POSTATOM and SIGR queue their work request on a queue pair that the context owns and that is in RTS, with a tracker entry,
and go on (R149, R182–R184). Said of a queue pair none of whose operations has ended. -/
def Obligations.PostResult : Prop :=
  ∀ (s : State) (t : Th) (p : Program) (c : Instr) (kind dd ga gb : Nat),
    let x := s.thr t
    let w := dOwn x (x.dr dd)
    ((c = .postwr t dd ∧ kind = 8) ∨ (c = .postrd t dd ∧ kind = 9) ∨ (c = .postsend t dd ∧ kind = 10) ∨
     (c = .postatom t dd ga gb ∧ kind = 11) ∨ (c = .sigr t dd ga ∧ kind = 12)) →
    Issues s t c p → dKind w = kind → s.trkHeld t < 64 → qpFull s w = false → s.ownsQp (dCtx w) (dQp w) = true → (s.qp (dQp w)).st = 3 →
    qpEnc (s.qp (dQp w)).e.toNat = false → (kind = 11 → dRoff w % 8 = 0) →
    (∀ d : Desc, d.w = w → d.no = s.sq.opNo → localOk s d = true) →
    (∀ o ∈ (s.qp (dQp w)).ops, o.code = none ∧ o.told = false) →
    ∃ u o, exec c s = .next u ∧ (u.qp (dQp w)).ops = (s.qp (dQp w)).ops ++ [o] ∧ o.d.w = w ∧ o.d.th = t ∧ o.d.no = s.sq.opNo ∧ o.host = false ∧
      o.sent = 0 ∧ (kind = 11 → o.d.opA = x.gr ga ∧ o.d.opB = x.gr gb) ∧ (kind = 12 → o.d.opA = x.gr ga) ∧
      smFind u.sq.trk s.sq.opNo = some (dCtx w, thKey t + 1) ∧
      u.thr t = { x with st := .ready, cause := 0, pend := .none, outF := x.outF + 1, pc := x.pc + 8#64 } ∧ ThrBut s u t ∧
      RegsBut s u [] ∧ MemSame s u

/-- CQPOST writes the next entry of a queue that its context owns and that has room, with gb[31:0] as its tag, the code, SOURCE 3 and bits [127:0] of dd
in bytes 16 to 31, and goes on; where the ring is full the thread is Waiting (R185, R447, R448). -/
def Obligations.CqpostResult : Prop :=
  ∀ (s : State) (t : Th) (p : Program) (dd ga gb code : Nat) (nf : Bool) (q : Cq),
    let x := s.thr t
    let n := (x.gr ga).toNat % 65536
    Issues s t (.cqpost t dd ga gb nf code) p → s.ownsCq x.ctx n = true → smFind s.ho.cqs n = some q → code < 256 →
    s.hostUp (s.ctxPort q.ctx) = true →
    (q.waiting = [] → q.written - q.consumed < 2 ^ q.log2 →
      ∃ u bs more, exec (.cqpost t dd ga gb nf code) s = .next u ∧
        u.out = s.out ++ .hostWrite q.ctx (q.base + 32 * (q.written % 2 ^ q.log2)) bs :: more ∧
        bs.length = 32 ∧ fieldLE bs 0 4 = (x.gr gb).toNat % 2 ^ 32 ∧ fieldLE bs 4 1 = code ∧ fieldLE bs 5 1 = 3 ∧
        fieldLE bs 16 16 = (x.dr dd).toNat % 2 ^ 128 ∧
        u.thr t = { x with st := .ready, cause := 0, pend := .none, pc := x.pc + 8#64 } ∧ ThrBut s u t ∧ MemSame s u) ∧
    (2 ^ q.log2 ≤ q.written - q.consumed →
      ∃ u, exec (.cqpost t dd ga gb nf code) s = .next u ∧ u.out = s.out ∧
        u.thr t = { x with st := .waiting, cause := 4, pend := .cqpost } ∧ ThrBut s u t ∧ MemSame s u)

/-- SEQ_STOP requests a stop, FAULT_KIND 10, of the program of every slot whose bit is set (R135, R153). -/
def Obligations.SeqStopResult : Prop :=
  ∀ (s : State) (d k : Nat) (slots : BitVec 8) (p : Program), s.pst = 3 → s.fnHeld 0 = false → d < nDom s → k < 8 → slots.getLsbD k = true →
    s.prog ⟨d, k⟩ = some p → p.dom = d → (s.thr ⟨d, k⟩).st ≠ .free →
    ∃ u, exec (.seqStop d slots) s = .next u ∧
      (∀ j ∈ p.slots, (s.thr ⟨d, j⟩).st ≠ .free → (s.thr ⟨d, j⟩).st ≠ .halted →
        (u.thr ⟨d, j⟩).stop = some ((s.thr ⟨d, j⟩).stop.getD 10)) ∧
      (∀ v, (u.thr v).pc = (s.thr v).pc ∧ (u.thr v).st = (s.thr v).st ∧ (u.thr v).g = (s.thr v).g) ∧
      RegsBut s u [] ∧ CntBut s u [] ∧ MemSame s u

/-- A launch whose header is as R130 gives takes a tracker entry of the host pool and goes, unprivileged, to its domain's launch queue, or, privileged and of
context 0, to the verification of its signature; with its slots Free the head of the queue goes on to admission (R131, R133, R149). An
instruction cache tile that arrives whole lets its thread go on at the same program counter, and the fetch then gives the eight bytes there (R128). -/
def Obligations.LaunchSteps : Prop :=
  (∀ (s v : State) (r : LaunchReq) (h : List Byte) (l : Launch) (a : Nat),
    s.pst = 3 → ctrlOn s = true → s.poolFull = false → queued s r.dom < 64 → smFind s.ho.frozen r.ctx = none → workHeld s = false →
    r.dom < nDom s → s.domFenced r.dom = false → r.image % 8 = 0 →
    readImage (s.trkTake r.ctx 0) r s.sq.opNo 256 = (v, 0, h) → parseHeader h r s.sq.opNo = some l →
    translate v .fetch (rRead + rExec) r.ctx s.sq.opNo r.image (imageSize l.p) = .mem a →
    (l.p.priv = false → syncRangeOwned v l.p = true →
      ∃ u, exec (.launch r) s = .next (settle u) ∧ u.sq.lq = s.sq.lq ++ [l] ∧ u.sq.sigWait = s.sq.sigWait ∧
        smFind u.sq.trk s.sq.opNo = some (r.ctx, 0) ∧ MemSame s u) ∧
    (l.p.priv = true → r.ctx = 0 →
      ∃ u, exec (.launch r) s = .next (settle u) ∧ u.sq.lq = s.sq.lq ∧ u.sq.sigWait = s.sq.sigWait ++ [l] ∧
        smFind u.sq.trk s.sq.opNo = some (r.ctx, 0) ∧ MemSame s u)) ∧
  (∀ (s v : State) (dom : Nat) (l : Launch) (rest : List Launch) (img : List Byte),
    s.pst = 3 → takeLaunch dom s.sq.sigWait = some (l, rest) →
    readImage { s with sq := { s.sq with sigWait := rest } } l.r l.p.no (imageSize l.p) = (v, 0, img) → syncRangeOwned v l.p = true →
    ∃ u, exec (.privSignatureVerified dom) s = .next (settle u) ∧ MemSame v u ∧ u.sq.sigWait = rest ∧
      u.sq.lq = (match smFind v.ci.slots l.sigKey with
        | some key => if Config.slhDsa256s key (img.take (l.p.codeOff + l.p.codeSize)) (slice img (l.p.codeOff + l.p.codeSize) 29792) = true
            then v.sq.lq ++ [l] else v.sq.lq
        | none => v.sq.lq)) ∧
  (∀ (s : State) (dom : Nat) (l : Launch) (rest : List Launch),
    s.pst = 3 → takeLaunch dom s.sq.lq = some (l, rest) →
    exec (.launchSlotsFree dom) s = .next (if l.threads ≤ freeSlots s dom
      then { s with sq := { s.sq with lq := rest, due := s.sq.due ++ [l] } } else s)) ∧
  (∀ (s : State) (t : Th) (p : Program) (tile : Nat), s.pst = 3 → (s.thr t).pend = .icache → s.prog t = some p →
    fetch s t (s.thr t) p = .miss tile → s.tileFenced tile = false → s.tileBad tile = 0 →
    ∃ u w, exec (.icacheFill t) s = .next (settle u) ∧ u.thr t = { s.thr t with st := .ready, cause := 0, pend := .none } ∧
      fetch u t (u.thr t) p = .word w ∧
      (∀ a, translate s .fetch rExec p.ctx p.no (p.image + p.codeOff + (s.thr t).pc.toNat) 8 = .mem a → a % 8 = 0 →
        w = ofLE ((List.range 8).map fun i => s.byte (a + i))) ∧
      ThrBut s u t ∧ RegsBut s u [] ∧ MemSame s u)

/-! ### Engines (ch. 01, 04, 07, 08, 09, 17) -/

/-- The crossbar delivers a descriptor of the home sequencer first, the oldest, while the queue has an entry that it may take; else, of the other
sequencers, the oldest of the first domain in rotating order, where the queue holds fewer than 32 and the others fewer than 24 (R16, R17). The pointer
moves only where another of those waits. The descriptor no longer holds its thread (R18). -/
def Obligations.CrossbarDelivery : Prop :=
  ∀ (s : State) (e : Nat) (d : Desc), s.pst = 3 →
    let g := s.engine e
    let n := nDom s
    let others := g.input.filter fun x => x.th.dom != e / 4
    (∀ x ∈ g.input, x.eng = e) →
    ((g.input.filter fun x => x.th.dom == e / 4).head? = some d → g.queue.length < 32 →
      ∃ u, exec (.xbarDeliver e) s = .next u ∧ (u.engine e).queue = g.queue ++ [d] ∧ (u.engine e).input = g.input.erase d ∧
        (u.engine e).ptr = g.ptr ∧ RegsBut s u [] ∧ MemSame s u ∧
        ((∀ x ∈ g.input.erase d, x.no ≠ d.no) → d.no ∉ (u.engine e).stuck)) ∧
    (others = g.input → (others.filter fun x => x.th.dom == d.th.dom).head? = some d → g.queue.length < 32 →
      (g.queue.filter fun x => x.th.dom != x.eng / 4).length < 24 → g.ptr < n → (∀ x ∈ others, x.th.dom < n) →
      (∀ x ∈ others, (d.th.dom + n - g.ptr) % n ≤ (x.th.dom + n - g.ptr) % n) →
      ∃ u, exec (.xbarDeliver e) s = .next u ∧ (u.engine e).queue = g.queue ++ [d] ∧ (u.engine e).input = g.input.erase d ∧
        (u.engine e).ptr = (if 1 < others.length then (g.ptr + 1) % n else g.ptr) ∧ RegsBut s u [] ∧ MemSame s u)

/-- The completion of an engine descriptor of a live thread (R170): its tracker entry is given back; SYNC is signalled by SIG_ADD, unless 0, whatever the
code, and then FSYNC by 1 for a failure with FSYNC_EN; the failure latch of a thread that issued it by ISSUE keeps the first failure and counts; an
ISSUEW receives the code and goes on (R178). -/
def Obligations.DescriptorCompletion : Prop :=
  ∀ (s : State) (d : Desc) (code : Nat) (rest : List Ended),
    let x := s.thr d.th
    let sig (obj n : Nat) : SyncReq := ⟨16 + d.eng, obj, some (dCtx d.w), .signal n, none, 0, none⟩
    s.pst = 3 → s.en.ended = ⟨d, code⟩ :: rest → d.post = false → x.live = d.live → x.st ≠ .free → x.st ≠ .halted →
    (∀ e ∈ s.sq.thr, ∀ z, e.2.pend ≠ .tracker z) → (∀ q ∈ s.sg.pend, q.blk ≠ .qp) →
    ∃ u, exec .descriptorCompletion s = .next u ∧ u.en.ended = rest ∧ smFind u.sq.trk d.no = none ∧
      u.sy.reqs = s.sy.reqs ++ (if dSigAdd d.w = 0 then [] else [sig (dSync d.w) (dSigAdd d.w)])
        ++ (if code ≠ 0 ∧ dFsyncEn d.w = true then [sig (dFsync d.w) 1] else []) ∧
      (u.thr d.th).outE = x.outE - 1 ∧
      (d.ew = none → (u.thr d.th).st = x.st ∧ (u.thr d.th).g = x.g ∧
        (code = 0 → (u.thr d.th).latchCount = x.latchCount) ∧
        (code ≠ 0 → (u.thr d.th).latchCount = min (x.latchCount + 1) (2 ^ 24 - 1) ∧
          (x.latchCount = 0 → (u.thr d.th).latchCode = code ∧ (u.thr d.th).latchTag = dTag d.w) ∧
          (x.latchCount ≠ 0 → (u.thr d.th).latchCode = x.latchCode ∧ (u.thr d.th).latchTag = x.latchTag))) ∧
      (∀ gd, d.ew = some gd → x.pend = .issuew → (u.thr d.th).st = .ready ∧ (u.thr d.th).pc = x.pc + 8#64 ∧
        (gd ≠ 0 → (u.thr d.th).gr gd = BitVec.ofNat 64 code) ∧ (u.thr d.th).latchCount = x.latchCount) ∧
      ThrBut s u d.th ∧ MemSame s u

/-- A reduction engine that takes its next descriptor (R107, R108, R215): fields outside the valid combinations end it with SEG_FAULT; with its operands
in place and no record it runs from output tile 0, at the cost of R207, and nothing is written. A descriptor over its declaration ends with TICK_OVERRUN. -/
def Obligations.ReductionStart : Prop :=
  ∀ (s : State) (e : Nat) (d : Desc), s.pst = 3 → e < nEng s → e % 4 = 0 → s.engFenced e = false →
    (pickNext s e = .start d → dKind d.w = 0 → redFieldsOk d.w = false →
      ∃ u, exec (.redDescriptorStart e) s = .next (settle u) ∧ u.en.ended = s.en.ended ++ [⟨d, 0x20⟩] ∧
        (u.engine e).run = (s.engine e).run ∧ (u.engine e).queue = (s.engine e).queue.erase d ∧ RegsBut s u [] ∧ MemSame s u) ∧
    (pickNext s e = .start d → dKind d.w = 0 → redFieldsOk d.w = true → redPrm d.w = false → redOperandsOk s d [] = true →
      ∃ u, exec (.redDescriptorStart e) s = .next (settle u) ∧ u.en.ended = s.en.ended ∧ (u.engine e).run = some { d := d, cost := (redCost d.w (dCount d.w)).1 } ∧
        (u.engine e).queue = (s.engine e).queue.erase d ∧ RegsBut s u [] ∧ MemSame s u) ∧
    (pickNext s e = .over d → dKind d.w = 0 →
      ∃ u, exec (.redDescriptorStart e) s = .next (settle u) ∧ u.en.ended = s.en.ended ++ [⟨d, 0x61⟩] ∧
        (u.engine e).queue = (s.engine e).queue.erase d ∧ RegsBut s u [] ∧ MemSame s u)

/-- A reduction's next output tile, by RED_TILE_RELEASE (R206, R210, R211). When its checks pass, the bytes of the tile's part are those computed from the operands read, no other
byte changes, and the run goes on with the next tile or, after the last, ends with SUCCESS. A checksum mismatch writes nothing, advances RED_STATUS and hands
the descriptor, at the failing tile, to the next reduction engine that is not fenced, from which it completes; so does a residue mismatch of SUM, AVG and
compensated sums (R209). Said of an output of one piece that does not overlap a source. -/
def Obligations.ReductionRelease : Prop :=
  ∀ (s v : State) (e a pa f : Nat) (r : Run) (got : List (List Byte)) (bs : List Byte) (sats nans : Nat) (carry : List Nat),
    let d := r.d
    let n := dCount d.w
    let b := tileBlocks (elemBits (dOutFmt d.w)) n r.pos
    let ops := redOperands d.w r.bytes
    let handed (u : State) (residue : Nat) : Prop := MemSame s u ∧ (u.engine e).run = none ∧
      (u.engine f).incoming = (s.engine f).incoming ++ [{ r with rem := true, cost := 0, d := { d with eng := f } }] ∧ u.en.ended = s.en.ended ∧
      u.fc.raised = s.fc.raised ++ [(16, e, residue)] ∧ u.get (F.RED_STATUS_LAST_CHECK (e / 4)) = residue ∧
      u.get (F.RED_STATUS_SEQ (e / 4)) = seqNext (s.get (F.RED_STATUS_SEQ (e / 4)))
    s.pst = 3 → e < nEng s → e % 4 = 0 → (s.engine e).run = some r → r.park = none → dKind d.w = 0 → redComp d.w = false →
    readMany s .engine e (dCtx d.w) d.no (ops.flatMap fun o => operandPieces o.1 o.2 n b.1 b.2) = (v, .ok [], got) →
    redTile d.w r.bytes r.pos (gatherBlocks (b.2 - b.1) ops got) [] r.acc = ⟨[(a, bs)], sats, nans, carry⟩ →
    opTranslate v .engine rWrite (dCtx d.w) d.no a bs.length = .mem pa → pa % 2048 = 0 → a % 2048 = 0 → 0 < bs.length → bs.length ≤ 2048 →
    v.tileFenced (tileOf pa) = false → v.tileBad (tileOf pa) = 0 → redOverlaps d.w r.bytes = [] →
    (∃ u, exec (.redTileRelease e .pass) s = .next (settle u) ∧
      (∀ i, i < bs.length → u.byte (pa + i) = bs.getD i 0#8) ∧ MemBut s u pa bs.length ∧
      (if redTiles d.w ≤ r.pos + 1 then (u.engine e).run = none ∧ u.en.ended = s.en.ended ++ [⟨d, 0⟩]
       else (u.engine e).run = some { r with pos := r.pos + 1, acc := carry } ∧ u.en.ended = s.en.ended)) ∧
    (r.rem = false → nextRed s e = some f →
      (∃ u, exec (.redTileRelease e .checksum) s = .next (settle u) ∧ handed u 0) ∧
      (residueCovers d.w = true → ∃ u, exec (.redTileRelease e .residue) s = .next (settle u) ∧ handed u 1))

/-- RED_REMAINDER_DELIVERED: a remainder that reaches its new engine stands at the head of the engine's queue, outside the limits of the command queue, and
is counted (R211); nothing else of that engine changes, nor anything of another. It starts, as RED_DESCRIPTOR_START, at the tile that failed, before the
queued descriptors, at the cost of its remaining elements (R207, R211). -/
def Obligations.ReductionRemainder : Prop :=
  ∀ (s : State) (f : Nat) (q : Run) (rest : List Run), s.pst = 3 → f < nEng s → f % 4 = 0 →
    ((s.engine f).incoming = q :: rest →
      ∃ u, exec (.redRemainderDelivered f) s = .next u ∧
        u.engine f = { s.engine f with incoming := rest, remainder := q :: (s.engine f).remainder } ∧
        (∀ k, k ≠ f → u.engine k = s.engine k) ∧ u.en.ended = s.en.ended ∧ Counted s u (F.RED_REISSUE_IN (f / 4)) ∧
        CntBut s u [F.RED_REISSUE_IN (f / 4)] ∧ RegsBut s u [] ∧ MemSame s u) ∧
    (s.engFenced f = false → (s.engine f).run = none → (s.engine f).remainder = q :: rest → cyclesLeft s f = true →
      (∀ x ∈ (s.engine f).aside, x.park ≠ none) →
      ∃ u, exec (.redDescriptorStart f) s = .next (settle u) ∧ (u.engine f).remainder = rest ∧ (u.engine f).queue = (s.engine f).queue ∧
        (u.engine f).run = some { q with cost := (redCost q.d.w (dCount q.d.w - tileFirst q.d.w q.pos)).1 } ∧
        u.en.used = s.en.used ∧ RegsBut s u [] ∧ MemSame s u)

/-- The specialty engines compute the next unit of the descriptor that they run from the bytes its operands hold, and write nothing until the unit's
release (R221): an optimizer operation its stripe and NORM all its parameters (R226, R227), a lookup its next output row (R236, R237), ENCODE and UNION_SUM
their stream, DECODE its next tile (R243–R247), a quantize descriptor its next block (R250), whose release unit and counts stand in the run. -/
def Obligations.SpecialtyUnits : Prop :=
  ∀ (s v : State) (e : Nat) (c : Instr) (r : Run) (got : List (List Byte)),
    let w := r.d.w
    let ctx := dCtx w
    let no := r.d.no
    let m := min 512 (dCount w - 512 * r.pos)
    let base := 16 + zeDirLen (zeNt w)
    let unit (q : Run) : Prop := ∃ u, exec c s = .next (settle u) ∧ (u.engine e).run = some q ∧ q.d = r.d ∧ q.pos = r.pos ∧ q.ready = true ∧
      MemSame s u ∧ RegsBut s u [] ∧ u.en.ended = s.en.ended
    s.pst = 3 → e < nEng s → e % 4 = 3 → s.engFenced e = false → (s.engine e).run = some r → r.park = none → r.ready = false →
    (∀ opc, ((c = .sgd e ∧ opc = 1) ∨ (c = .adam e ∧ opc = 2) ∨ (c = .adamw e ∧ opc = 3) ∨ (c = .lambMoments e ∧ opc = 4) ∨
        (c = .lambApply e ∧ opc = 5) ∨ (c = .lion e ∧ opc = 6) ∨ (c = .cast e ∧ opc = 8)) → dKind w = 3 → spcOpc w = opc →
      readMany s .engine e ctx no (optPieces w r.pos m) = (v, .ok [], got) → unit (optUnit r m got)) ∧
    (∀ q, c = .norm e → dKind w = 3 → spcOpc w = 7 →
      optNorm s e r.d (cdiv (dCount w) 512 + 1) { r with pos := 0, acc := r.acc.take 3 } = (v, .ok [], q) → q.d = r.d →
      unit { q with pos := r.pos, ready := true }) ∧
    (∀ (v' : State) (ix : List Byte) (rows : List (SlotKind × Nat × List Byte)),
      let slots := if lkpPool w = 0 then [r.pos] else (List.range (lkpBag w)).map fun k => r.pos * lkpBag w + k
      c = .lookupDescriptor e → dKind w = 4 →
      readOp s .engine e ctx no (fieldLE r.bytes 0 8 + 4 * slots.headD 0) (4 * slots.length) = (v', .ok ix) →
      fetchRows v' e r ((List.range slots.length).map fun k => (slots.getD k 0, fieldLE ix (4 * k) 4)) = (v, .ok [], rows) →
      unit (lkpRow r rows)) ∧
    (c = .encode e → dKind w = 5 → zeOpc w = 0 →
      readMany s .engine e ctx no ((List.range (zeNt w)).map fun k => (tileField w 2 0 + 2048 * k, 2048)) = (v, .ok [], got) →
      ∃ cnt, unit { r with out := streamOut w got, ready := true, cnt := cnt }) ∧
    (∀ t x, c = .decode e → dKind w = 5 → zeOpc w = 1 →
      readTile s e r.d (tileField w 2 0) r.pos (if r.pos = 0 then base else r.acc.getD 0 0) = (v, .ok t, x) →
      ∃ cnt, unit { r with out := [(dDst w + 2048 * r.pos, t)], acc := [x.next, x.total], ready := true, cnt := cnt }) ∧
    (∀ (v' : State) as bs x y, c = .unionSum e → dKind w = 5 → zeOpc w = 2 →
      readStream s e r.d (tileField w 2 0) (zeNt w) 0 base = (v', .ok [], as, x) →
      readStream v' e r.d (tileField w 3 0) (zeNt w) 0 base = (v, .ok [], bs, y) →
      ∃ cnt, unit { r with
        out := streamOut w ((as.zip bs).map fun p => (unionTile (zeFmt w) p.1 p.2).1), acc := [0, x.total, y.total], ready := true, cnt := cnt }) ∧
    (c = .quantizeDescriptor e → dKind w = 6 → qeEf w = false → isMx (dOutFmt w) = false →
      let k := min 32 (dCount w - 32 * r.pos)
      let q := quantBlock (dOutFmt w) (if dRnd w then some (fieldLE r.bytes 8 8) else none) (dFtz w) (fv32 r.bytes 0) (32 * r.pos)
        ((List.range k).map fun i => decodeElem (dInFmt w) (dFtz w) (got.headD []) 0 i)
      readMany s .engine e ctx no [(tileField w 2 0 + 4 * elemBits (dInFmt w) * r.pos, dataBytes (elemBits (dInFmt w)) k)] = (v, .ok [], got) →
      ∃ acc cnt, unit { r with
        out := [(dDst w + 4 * elemBits (dOutFmt w) * r.pos, packElems (elemBits (dOutFmt w)) q.b.elems)], ready := true, acc := acc, cnt := cnt })

/-- The release of a computed unit writes its bytes and no other, and the run goes on with the next unit; the last unit of a lookup, compression or quantize
descriptor, or of an optimizer operation that keeps no norm, ends it with SUCCESS (R221). The byte claim is of a unit of one piece within one tile that
overlaps no operand. -/
def Obligations.SpecialtyRelease : Prop :=
  ∀ (s : State) (e a pa : Nat) (r : Run) (bs : List Byte),
    let w := r.d.w
    s.pst = 3 → e < nEng s → e % 4 = 3 → (s.engine e).run = some r → r.park = none → r.ready = true → r.out = [(a, bs)] →
    3 ≤ dKind w → dKind w ≤ 6 → (dKind w = 3 → spcOpc w ≠ 4 ∧ spcOpc w ≠ 7) →
    opTranslate s .engine rWrite (dCtx w) r.d.no a bs.length = .mem pa → pa % 2048 = a % 2048 → 0 < bs.length → a % 2048 + bs.length ≤ 2048 →
    s.tileFenced (tileOf pa) = false → s.tileBad (tileOf pa) = 0 → spcOverlaps r = [] →
    ∃ u, exec (.spcUnitRelease e) s = .next (settle u) ∧
      (r.pos + 1 < spcUnits w → (∃ q, (u.engine e).run = some q ∧ q.d = r.d ∧ q.pos = r.pos + 1 ∧ q.ready = false) ∧ u.en.ended = s.en.ended ∧
        (∀ i, i < bs.length → u.byte (pa + i) = bs.getD i 0#8) ∧ MemBut s u pa bs.length) ∧
      (spcUnits w ≤ r.pos + 1 → (u.engine e).run = none ∧ u.en.ended = s.en.ended ++ [⟨r.d, 0⟩])

/-- TE_DESCRIPTOR_START: a transfer engine takes a descriptor whose fields are not valid to its end with SEG_FAULT, and runs one whose walk is covered from its
origin or its cursor, with nothing written (R258, R264, R267). What the first writes lies in its record: CURSOR and DONE (R266). -/
def Obligations.TransferStart : Prop :=
  ∀ (s : State) (e : Nat) (d : Desc), s.pst = 3 → e < nEng s → e % 4 = 1 → s.engFenced e = false → pickNext s e = .start d →
    let a := recAddr d.w 1
    let rd := (List.range 128).map fun i => s.byte (a + i)
    (teFieldsOk d.w = false → d.eng = e → dKind d.w = 1 →
      ∃ u, exec (.teDescriptorStart e) s = .next (settle u) ∧ u.en.ended = s.en.ended ++ [⟨d, 0x20⟩] ∧
        (u.engine e).run = (s.engine e).run ∧ u.get (F.TE_STATUS_LAST_CODE (e / 4)) = 0x20 ∧
        MemBut s u (a + 0x68) 24) ∧
    (teFieldsOk d.w = true → inStaging s rRead (dCtx d.w) a 128 = true →
      (∀ k ∈ tilesOf a 128, s.tileFenced k = false ∧ s.tileBad k = 0) → teWalkOk s d rd = true →
      ∃ u q, exec (.teDescriptorStart e) s = .next (settle u) ∧ u.en.ended = s.en.ended ∧ (u.engine e).run = some q ∧ q.d = d ∧ q.bytes = rd ∧
        q.pos = (if teResume d.w then (parseWalk rd).done else 0) ∧ q.acc = [teOrigin d.w (parseWalk rd)] ∧ (u.engine e).queue = (s.engine e).queue.erase d ∧ MemSame s u ∧
        RegsBut s u [])

/-- A transfer's next progress unit (R259–R261, R264): the gathered bytes are written and no other; a PDIM other than 0 signals PSYNC; the run goes on, or, after
the walk's end, ends with SUCCESS. -/
def Obligations.TransferRelease : Prop :=
  ∀ (s v z : State) (e : Nat) (r : Run) (hostData : List Byte) (g : Gather),
    let d := r.d
    let w := parseWalk r.bytes
    let n := w.unit (tePdim d.w)
    let es := teElems d.w w (max (r.pos * n) (r.acc.getD 0 0)) ((r.pos + 1) * n)
    s.pst = 3 → e < nEng s → e % 4 = 1 → (s.engine e).run = some r → r.park = none → dKind d.w = 1 →
    teFault s (dCtx d.w) d.no (teEsz d.w) es = none →
    teGather s e (dCtx d.w) d.no (teEsz d.w) (teOverlaps d.w w) es { data := hostData } = (v, 0, g) → g.host = [] →
    writeSparse (emitReads v (dCtx d.w) g) e (g.mem.length + 1) g.mem = (z, 0) →
    ∃ u, exec (.teUnitRelease e hostData) s = .next (settle u) ∧ u.out = s.out ++ g.reads.map (fun h => .hostRead (dCtx d.w) h.1 h.2) ∧
      u.sy.reqs = s.sy.reqs ++ (if tePdim d.w = 0 then [] else
        [⟨16 + e, dfield d.w 1 13 12, some (dCtx d.w), .signal (max 1 (dfield d.w 1 25 8)), none, 0, none⟩]) ∧
      ((r.pos + 1) * n < w.span 5 → (∃ q, (u.engine e).run = some q ∧ q.d = d ∧ q.pos = r.pos + 1) ∧ u.en.ended = s.en.ended ∧
        (∀ b, u.byte b = match smFind g.mem b with | some x => x | none => s.byte b)) ∧
      (w.span 5 ≤ (r.pos + 1) * n → (u.engine e).run = none ∧ u.en.ended = s.en.ended ++ [⟨d, 0⟩])

/-- CE_DECRYPT whose tag does not match ends with AUTH_FAIL after the first pass and writes nothing but DONE in its record (R476); CE_ENCRYPT, its
tiles released, ends with SUCCESS, and CE_DECRYPT with SUCCESS where the second GHASH is the first. Deciphering what has been enciphered under one key and
nonce, from one text offset, gives the text back (R466). -/
def Obligations.CipherResult : Prop :=
  (∀ (key : BitVec 256) (nonce text : List Byte) (off : Nat), gcmXor key nonce off (gcmXor key nonce off text) = text) ∧
  ∀ (s v : State) (e : Nat) (r q : Run) (ct : List Byte),
    let d := r.d
    let rd := ceRec r
    let key := ceKeyOf r
    s.pst = 3 → e < nEng s → e % 4 = 2 → s.engFenced e = false → (s.engine e).run = some r → r.park = none → dKind d.w = 2 →
    (ceDir d.w = false → ceRelease s e none ((ceTiles r).length + 1) r = (v, q, none) → q.d = d →
      ∃ u, exec (.ceEncrypt e none) s = .next (settle u) ∧ u.en.ended = s.en.ended ++ [⟨d, 0⟩] ∧ (u.engine e).run = none) ∧
    (ceDir d.w = true → r.acc.getD 1 0 = 0 →
      readOp s .engine e (dCtx d.w) d.no (ceSrc d.w) (ceLen rd) = (v, .ok ct) → gcmTag key (ceNonce rd) (ceAadOf r) ct ≠ ceTag rd →
      ∃ u, exec (.ceDecrypt e none) s = .next (settle u) ∧ u.en.ended = s.en.ended ++ [⟨d, 0x70⟩] ∧ (u.engine e).run = none ∧
        MemBut s u (recAddr d.w 1 + 0x3C) 4) ∧
    (ceDir d.w = true → r.acc.getD 1 0 = 1 → ceRelease s e none ((ceTiles r).length + 1) r = (v, q, none) → q.d = d →
      ghash (ceKeyOf q) (ceAadOf q) (ceText q) = q.acc.getD 2 0 →
      ∃ u, exec (.ceDecrypt e none) s = .next (settle u) ∧ u.en.ended = s.en.ended ++ [⟨d, 0⟩] ∧ (u.engine e).run = none)

/-- Decoding the record that the compression engine writes for a tile gives the tile back, whatever its elements and method (R244–R246). -/
def Obligations.CompressionRoundTrip : Prop :=
  ∀ (fmt : Nat) (tile : List Byte), (fmt ≤ 4 ∨ isInt fmt = true) → tile.length = 2048 →
    let r := zeRecord fmt tile
    zeDecode fmt (r.take 16) ((r.drop 16).take (fieldLE r 2 2)) = some tile

/-- One tile access at a holding unit at which no other waits (R279, R281, R284–R286, R293). A read changes nothing but the checksum cache's misses; a whole write replaces the tile's bytes and no other,
and from then on the tile checks clean; a partial write replaces its bytes and no other. A read of a tile that fails its check advances MEM_TCHK_EVENT
with the first cause that applies and the requester, and raises source 21 or 20; nothing is written. A state partition has no tile check: a read changes
nothing, a write replaces its bytes and no other (R281). -/
def Obligations.HoldingUnitAccess : Prop :=
  ∀ (s : State) (x : HoldUnit) (req addr off : Nat) (data : List Byte),
    let pa := accAddr x ⟨req, addr, .read, none⟩
    let tile := tileOf pa
    let state := isStg pa && inStatePart (stgOff pa)
    s.pst = 3 → holdPresent s x = true → holdServes s x ⟨req, addr, .read, none⟩ = true → smGet s.mem.wait (holdKey x) [] = [] → req < 118 →
    smGet s.mem.ptr (holdKey x) 0 < 118 → pa % 2048 = 0 → s.tileFenced tile = false →
    (state = true → (∃ u, exec (.holdingUnitAccess x [⟨req, addr, .read, none⟩]) s = .next (settle u) ∧ MemSame s u ∧ RegsBut s u [] ∧
        CntBut s u [] ∧ u.fc = s.fc) ∧
      (off + data.length ≤ 2048 → off < 2048 → ∃ u, exec (.holdingUnitAccess x [⟨req, addr, .writePart off data, none⟩]) s = .next (settle u) ∧
        Stored s u (pa + off) data ∧ RegsBut s u [] ∧ CntBut s u [] ∧ u.fc = s.fc)) ∧
    (state = false → s.tileBad tile = 0 → ∃ u, exec (.holdingUnitAccess x [⟨req, addr, .read, none⟩]) s = .next (settle u) ∧
      MemSame s u ∧ RegsBut s u [] ∧ CntBut s u sumMisses ∧ u.fc = s.fc) ∧
    (state = false → data.length = 2048 → ∃ u, exec (.holdingUnitAccess x [⟨req, addr, .writeWhole data, none⟩]) s = .next (settle u) ∧
      (∀ i, i < 2048 → u.byte (pa + i) = data.getD i 0#8) ∧ MemBut s u pa 2048 ∧ u.tileBad tile = 0 ∧ RegsBut s u []) ∧
    (state = false → s.tileBad tile = 0 → off + data.length ≤ 2048 → data.length < 2048 → off < 2048 →
      ∃ u, exec (.holdingUnitAccess x [⟨req, addr, .writePart off data, none⟩]) s = .next (settle u) ∧
        (∀ i, i < data.length → u.byte (pa + off + i) = data.getD i 0#8) ∧ MemBut s u (pa + off) data.length ∧ RegsBut s u []) ∧
    (state = false → s.tileBad tile ≠ 0 → ∃ u, exec (.holdingUnitAccess x [⟨req, addr, .read, none⟩]) s = .next (settle u) ∧ MemSame s u ∧
      u.get F.MEM_TCHK_EVENT_SEQ = seqNext (s.get F.MEM_TCHK_EVENT_SEQ) ∧ u.get F.MEM_TCHK_EVENT_REQ = req ∧
      u.get F.MEM_TCHK_EVENT_CAUSE = (if bit (s.tileBad tile) 0 then 1 else if bit (s.tileBad tile) 1 then 2 else 0) ∧
      u.fc.raised = s.fc.raised ++ [(match x with
        | .stack k => (21, k, u.get F.MEM_TCHK_EVENT_CAUSE)
        | .bank b => (20, b, u.get F.MEM_TCHK_EVENT_CAUSE))])

/-! ### Segments, windows, keys, migration (ch. 11) -/

/-- SEG_CMD with no command of its block pending (R296, R299, R316): a set that passes the checks takes the entry, any other is refused with the
RESULT of the first check that fails, or with 6 where the index holds a segment; a removal is refused with 6 or, while a window maps the segment, with 5,
completes at once where no operation of the context is outstanding and no page of the segment migrates, and stays pending otherwise; a read copies the entry to SEG_ENTRY. Other segments and
memory stay. SEG_REMOVE_COMPLETE ends a removal that nothing holds. -/
def Obligations.SegmentCommands : Prop :=
  ∀ (s : State) (ctx idx : Nat), s.pst = 3 → s.fnHeld 0 = false → ctx < 256 → idx < 16 →
    let key := segKey ctx idx
    let e := s.getWords (F.SEG_ENTRY 0).off 16
    let ev (u : State) (r : Nat) : Prop := Answered s u F.SEG_EVENT_SEQ F.SEG_EVENT_RESULT r
    let frame (u : State) : Prop := MemSame s u ∧ RegsBut s u [F.SEG_EVENT.off] ∧ CntBut s u [] ∧
      ∀ k, k ≠ key → smFind u.sg.segs k = smFind s.sg.segs k
    (blkBusy s .seg = false →
      (smFind s.sg.segs key = none →
        Runs (.segSet ctx idx) s (fun u => frame u ∧
          (segCheck s ctx e = none → ev u 0 ∧ smFind u.sg.segs key = some { e := BitVec.ofNat 512 e }) ∧
          (∀ r, segCheck s ctx e = some r → ev u r ∧ u.sg = s.sg)) ∧
        Runs (.segRemove ctx idx) s fun u => frame u ∧ ev u 6 ∧ u.sg = s.sg) ∧
      (∀ g, smFind s.sg.segs key = some g →
        Runs (.segSet ctx idx) s (fun u => frame u ∧ ev u 6 ∧ u.sg = s.sg) ∧
        Runs (.segRead ctx idx) s (fun u => ev u 0 ∧ u.getWords (F.SEG_ENTRY 0).off 16 = g.e.toNat ∧ u.sg = s.sg ∧ MemSame s u) ∧
        Runs (.segRemove ctx idx) s fun u => frame u ∧
          (winMaps s ctx idx = true → ev u 5 ∧ u.sg = s.sg) ∧
          (winMaps s ctx idx = false → (∀ x ∈ s.sq.trk, x.2.1 = ctx → s.sq.opNo ≤ x.1) → segMoving s ctx idx = false → ev u 0 ∧ smFind u.sg.segs key = none) ∧
          (winMaps s ctx idx = false → (∃ x ∈ s.sq.trk, x.2.1 = ctx ∧ x.1 < s.sq.opNo) ∨ segMoving s ctx idx = true → u.get F.SEG_EVENT_PENDING = 1 ∧
            u.get F.SEG_EVENT_SEQ = s.get F.SEG_EVENT_SEQ ∧ smFind u.sg.segs key = some { g with removed := some s.sq.opNo } ∧
            blkBusy u .seg = true))) ∧
    (∀ gen, s.sg.pend = [{ blk := .seg, op := 2, ctx := ctx, idx := idx, gen := gen }] →
      (∀ x ∈ s.sq.trk, x.2.1 = ctx → gen ≤ x.1) → segMoving s ctx idx = false →
      Runs .segRemoveComplete s fun u => frame u ∧ ev u 0 ∧ u.get F.SEG_EVENT_PENDING = 0 ∧ smFind u.sg.segs key = none ∧
        blkBusy u .seg = false)

/-- WIN_CMD with no command of its block pending (R308, R309, R311, R316): a set of a window or a key within the quota of its context, with valid fields,
takes the entry where the number holds none (RESULT 0), else RESULT 6; a number outside the quota gives RESULT 4; a read copies the entry to
WIN_ENTRY or KEY_ENTRY; a bump adds 1 to GEN modulo 256 and changes nothing else of the window; a removal invalidates the entry. Bumps and
removals complete at once where no packet is held, and WIN_DRAIN_COMPLETE ends one whose packets have drained. Segments and memory stay. -/
def Obligations.WindowCommands : Prop :=
  ∀ (s : State) (n : Nat), s.pst = 3 → s.fnHeld 0 = false →
    let w := s.getWords (F.WIN_ENTRY 0).off 8
    let k := s.getWords (F.KEY_ENTRY 0).off 8
    let ev (u : State) (r : Nat) : Prop := Answered s u F.WIN_EVENT_SEQ F.WIN_EVENT_RESULT r
    let frame (u : State) : Prop := MemSame s u ∧ u.sg.segs = s.sg.segs ∧ CntBut s u [] ∧
      (∀ j, j ≠ n → smFind u.sg.wins j = smFind s.sg.wins j) ∧ (∀ j, j ≠ n → smFind u.sg.keys j = smFind s.sg.keys j)
    let quiet : Prop := (∀ r ∈ s.sg.recs, ∀ x ∈ r.waiters, ∀ i p, x ≠ .held i p) ∧ ∀ r ∈ s.sy.reqs, r.pkt = none
    (blkBusy s .win = false → n < 65536 →
      (s.mayCreate (winCtx w) 4 n = false → Runs (.winSet n) s fun u => frame u ∧ ev u 4 ∧ u.sg = s.sg) ∧
      (s.mayCreate (winCtx w) 4 n = true → smFind s.sg.wins n = none → winFieldsOk s w = true →
        Runs (.winSet n) s fun u => frame u ∧ ev u 0 ∧ smFind u.sg.wins n = some (BitVec.ofNat 256 w) ∧ u.sg.keys = s.sg.keys) ∧
      (∀ e, smFind s.sg.wins n = some e →
        (s.mayCreate (winCtx w) 4 n = true → Runs (.winSet n) s fun u => frame u ∧ ev u 6 ∧ u.sg = s.sg) ∧
        Runs (.winRead n) s (fun u => frame u ∧ ev u 0 ∧ u.getWords (F.WIN_ENTRY 0).off 8 = e.toNat ∧ u.sg = s.sg) ∧
        (quiet → Runs (.winBump n) s fun u => frame u ∧ ev u 0 ∧ u.sg.keys = s.sg.keys ∧ ∃ e', smFind u.sg.wins n = some e' ∧
          winGen e'.toNat = (winGen e.toNat + 1) % 256 ∧ (∀ i, i < 256 → (i < 16 ∨ 24 ≤ i) → e'.getLsbD i = e.getLsbD i)) ∧
        (quiet → Runs (.winRemove n) s fun u => frame u ∧ ev u 0 ∧ u.sg.keys = s.sg.keys ∧ smFind u.sg.wins n = none))) ∧
    (blkBusy s .win = false → n < 2 ^ 20 →
      (s.mayCreate (keyCtx k) 3 n = true → smFind s.sg.keys n = none → keyFieldsOk s k = true →
        Runs (.keySet n) s fun u => frame u ∧ ev u 0 ∧ smFind u.sg.keys n = some (BitVec.ofNat 256 k) ∧ u.sg.wins = s.sg.wins) ∧
      (∀ e, smFind s.sg.keys n = some e →
        Runs (.keyRead n) s (fun u => frame u ∧ ev u 0 ∧ u.getWords (F.KEY_ENTRY 0).off 8 = e.toNat ∧ u.sg = s.sg) ∧
        (quiet → Runs (.keyRemove n) s fun u => frame u ∧ ev u 0 ∧ u.sg.wins = s.sg.wins ∧ smFind u.sg.keys n = none))) ∧
    (∀ p, s.sg.pend = [p] → p.blk = .win → p.entry = none → winDrained s p.op p.idx = true →
      Runs .winDrainComplete s fun u => frame u ∧ ev u 0 ∧ u.get F.WIN_EVENT_PENDING = 0 ∧ u.sg.pend = [] ∧ u.sg.wins = s.sg.wins ∧
        u.sg.keys = s.sg.keys)

/-- Migration (R300–R307). A prefetch of a page that is NONRES, with no record, creates its record and takes a free frame: the page is IN, the record
started at this boundary's count, MIG_FAULTS counts it and the command is pending. An evict of a clean RES page frees its frame at once; of a dirty one it is
OUT, until EVICT_COMPLETE writes the page to its host backing, frees the frame and completes. MIGRATION_COMPLETE of a page without a victim, which only its
prefetch waits for, writes the page's bytes into its frame and no others, and leaves it RES, not dirty, the record freed, the command complete with RESULT 0. A
failure, or a time-out after TIMEOUT_TICKS boundaries, frees the frame, leaves the page NONRES and completes the command with RESULT 8, no byte written. -/
def Obligations.MigrationCommands : Prop :=
  ∀ (s : State) (ctx seg page : Nat) (g : Segm), s.pst = 3 → s.fnHeld 0 = false → ctrlOn s = true → seg < 16 → page < segPages g.e.toNat → segBacking g.e.toNat = 3 →
    let key := segKey ctx seg
    let x := g.page page
    smFind s.sg.segs key = some g → g.removed = none →
    let pg (u : State) : Option Page := (smFind u.sg.segs key).map fun g => g.page page
    let fr (u : State) (f : Nat) : Option (Option Nat) := (smFind u.sg.segs key).map fun g => smFind g.frames f
    let ev (u : State) (r : Nat) : Prop := Answered s u F.MIG_EVENT_SEQ F.MIG_EVENT_RESULT r
    let ask (op : Nat) : Pending := { blk := .mig, op := op, ctx := ctx, idx := seg, page := page }
    (∀ f, blkBusy s .mig = false → x.st = 0 → s.sg.recs = [] → freeFrame g (segFrames g.e.toNat) = some f →
      Runs (.migPrefetch ctx seg page) s fun u => pg u = some { st := 1, frame := f } ∧ fr u f = some (some page) ∧
        u.sg.recs = [⟨ctx, seg, page, [.prefetch], some s.tk.count, none, some f⟩] ∧ u.get F.MIG_EVENT_PENDING = 1 ∧
        u.sg.pend = s.sg.pend ++ [ask 1] ∧ u.get F.MIG_EVENT_SEQ = s.get F.MIG_EVENT_SEQ ∧ Counted s u F.MIG_FAULTS ∧ MemSame s u) ∧
    (blkBusy s .mig = false → x.st = 2 → x.dirty = false →
      Runs (.migEvict ctx seg page) s fun u => pg u = some {} ∧ fr u x.frame = some none ∧ ev u 0 ∧ MemSame s u) ∧
    (blkBusy s .mig = false → x.st = 2 → x.dirty = true →
      Runs (.migEvict ctx seg page) s fun u => pg u = some { x with st := 3 } ∧ u.get F.MIG_EVENT_PENDING = 1 ∧
        u.sg.pend = s.sg.pend ++ [ask 2] ∧ u.get F.MIG_EVENT_SEQ = s.get F.MIG_EVENT_SEQ ∧ MemSame s u) ∧
    (s.sg.pend = [ask 2] → s.sg.recs = [] →
      (∀ k ∈ tilesOf (frameBase g x.frame) pageSize, s.tileFenced k = false ∧ s.tileBad k = 0) →
      RunsSettled (.evictComplete ctx seg page) s fun u => pg u = some {} ∧ fr u x.frame = some none ∧ ev u 0 ∧
        u.get F.MIG_EVENT_PENDING = 0 ∧ u.sg.pend = [] ∧ Counted s u F.MIG_WRITEBACK ∧ MemSame s u ∧
        u.out = s.out ++ [.hostWrite (key / 16) (segHost g.e.toNat + page * pageSize) (s.bytes (frameBase g x.frame) pageSize)]) ∧
    (∀ f started data, x = { st := 1, frame := f } → s.sg.recs = [⟨ctx, seg, page, [.prefetch], some started, none, some f⟩] → s.sg.pend = [ask 1] →
      frameBase g f + pageSize ≤ allocEnd s.variant →
      (∀ b, frameBase g f ≤ b → b < frameBase g f + pageSize → s.stackFenced (stackOf s.variant b) = false) →
      (∀ c ∈ data, c.1 < pageSize) → data.Pairwise (fun a b => a.1 ≠ b.1) →
      RunsSettled (.migrationComplete ctx seg page data) s (fun u => pg u = some { st := 2, frame := f, referenced := true } ∧ ev u 0 ∧
        u.sg.recs = [] ∧ u.sg.pend = [] ∧ u.get F.MIG_EVENT_PENDING = 0 ∧ u.get F.MIG_STATUS_RECORDS = 0 ∧ Counted s u F.MIG_IN ∧
        MemBut s u (frameBase g f) pageSize ∧ (∀ c ∈ data, u.byte (frameBase g f + c.1) = c.2) ∧
        (∀ i, i < pageSize → (∀ c ∈ data, c.1 ≠ i) → u.byte (frameBase g f + i) = 0#8)) ∧
      ∀ c done, (c = .migrationFail ctx seg page done ∨
          (c = .migrationTimeout ctx seg page done ∧ started + max 1 (s.get F.MIG_CTL_TIMEOUT_TICKS) ≤ s.tk.count)) →
        RunsSettled c s fun u => pg u = some {} ∧ fr u f = some none ∧ ev u 8 ∧ u.sg.recs = [] ∧ u.sg.pend = [] ∧ Counted s u F.MIG_FAILED ∧
          MemSame s u)

/-! ### Queue pairs, packets, routes (ch. 12, ch. 13) -/

/-- QP_CMD with no command of its block pending (R329, R330, R350): INIT from RESET, RTR from INIT and RTS from RTR take the fields that R330 names, RTR
starting ePSN from RQ_PSN and RTS the next PSN from SQ_PSN; a command that the state does not allow gives RESULT 2 and changes no queue pair; ERROR and RESET, of a
queue pair without operations, move it to 4 and to 0, RESET keeping only TXC; a read copies the entry with STATE. QP_STATE_FETCHED brings its
state on die. Every other queue pair and all memory stay. -/
def Obligations.QueuePairCommands : Prop :=
  ∀ (s : State) (n : Nat), s.pst = 3 → s.fnHeld 0 = false → n < 2 ^ 18 →
    let q := s.qp n
    let v := s.getWords (F.QP_ENTRY 0).off 16
    let ev (u : State) (r : Nat) : Prop := Answered s u F.QP_EVENT_SEQ F.QP_EVENT_RESULT r
    let frame (u : State) : Prop := MemSame s u ∧ (∀ m, m ≠ n → u.qp m = s.qp m)
    (blkBusy s .qp = false →
      (q.st = 0 → s.mayCreate (qpCtx v) 1 n = true → qpFieldsOk v = true → qpKeyOk s v = true →
        Runs (.qpInit n) s fun u => frame u ∧ ev u 0 ∧ (u.qp n).st = 1 ∧ (u.qp n).txc = q.txc ∧
          qpCtx (u.qp n).e.toNat = qpCtx v ∧ qpScq (u.qp n).e.toNat = qpScq v ∧ qpRcq (u.qp n).e.toNat = qpRcq v ∧
          qpEnc (u.qp n).e.toNat = qpEnc v ∧ qpTc (u.qp n).e.toNat = qpTc v ∧ qpKeyIdx (u.qp n).e.toNat = qpKeyIdx v ∧
          qpRq (u.qp n).e.toNat = qpRq v) ∧
      (q.st = 1 → qpFieldsOk v = true →
        Runs (.qpRtr n) s fun u => frame u ∧ ev u 0 ∧ (u.qp n).st = 2 ∧ (u.qp n).epsn = qpRqPsn v ∧ (u.qp n).done = [] ∧
          qpRemoteEp (u.qp n).e.toNat = qpRemoteEp v ∧ qpRemoteQp (u.qp n).e.toNat = qpRemoteQp v ∧ qpCtx (u.qp n).e.toNat = qpCtx q.e.toNat) ∧
      (q.st = 2 → qpFieldsOk v = true → 1 ≤ qpNpath v → qpNpath v ≤ 8 →
        Runs (.qpRts n) s fun u => frame u ∧ ev u 0 ∧ (u.qp n).st = 3 ∧ (u.qp n).nextPsn = qpSqPsn v ∧ (u.qp n).epsn = q.epsn ∧
          qpNpath (u.qp n).e.toNat = qpNpath v ∧ qpRemoteEp (u.qp n).e.toNat = qpRemoteEp q.e.toNat) ∧
      (∀ c, (c = .qpRtr n ∧ q.st ≠ 1) ∨ (c = .qpRts n ∧ q.st ≠ 2) ∨ (c = .qpReset n ∧ q.st = 0) ∨
          (c = .qpError n ∧ q.st ≠ 2 ∧ q.st ≠ 3) ∨ (c = .qpInit n ∧ q.st ≠ 0 ∧ s.mayCreate (qpCtx v) 1 n = true) →
        Runs c s fun u => frame u ∧ ev u 2 ∧ u.tr = s.tr) ∧
      (q.ops = [] → s.en.ended = [] →
        (q.st = 2 ∨ q.st = 3 → Runs (.qpError n) s fun u => frame u ∧ ev u 0 ∧ (u.qp n).st = 4 ∧ (u.qp n).e = q.e ∧ (u.qp n).epsn = q.epsn) ∧
        (q.st ≠ 0 → Runs (.qpReset n) s fun u => frame u ∧ ev u 0 ∧ u.qp n = { e := q.e, txc := q.txc })) ∧
      Runs (.qpRead n) s fun u => frame u ∧ ev u 0 ∧ u.tr = s.tr ∧
        u.getWords (F.QP_ENTRY 0).off 16 = putBits q.e.toNat 0 8 q.st % 2 ^ 512) ∧
    (q.st ≠ 0 → q.cached = false → Runs (.qpStateFetched n) s fun u => frame u ∧ u.qp n = { q with cached := true } ∧
      u.tr.waitState = s.tr.waitState.filter (fun w => w.2.dqp != n) ∧
      u.tr.arrivals = s.tr.waitState.filter (fun w => w.2.dqp == n) ++ s.tr.arrivals ∧ RegsBut s u [] ∧ CntBut s u [])

/-- The transport unit's next packet on a queue pair in RTS without encryption that has nothing to send again and a peer or a fabric path open (R322,
R331–R333, R373), at a time at which one may start: it takes the next PSN and TXC, TRN_TX_PKTS counts it, and it carries the payload read from LOCAL; it goes to the peer's inbox, to this
adapter itself over a loopback path, or to the tail of its class at the first hop's egress. The next packet
starts no sooner than its frame bytes × 8 / rate later. Memory stays. -/
def Obligations.PacketTransmission : Prop :=
  ∀ (s v : State) (n ns : Nat) (o : Op) (rest : List Op) (way : Way) (host bs : List Byte),
    let q := s.qp n
    let e := q.e.toNat
    let src := readsSource o o.sent
    s.pst = 3 → q.st = 3 → q.cached = true → mayStart s n ns = true → q.resp = [] → q.resend = [] → qpEnc e = false → q.ops = o :: rest → o.code = none → o.abort = none →
    o.sent < opPkts o.d.w → windowOpen q = true → wayTo s (qpRemoteEp e) (npathOf e) (q.nextPsn + smGet q.tries q.nextPsn 0) = way →
    (src = true → trnRead s (wayReq s way) rRead (dCtx o.d.w) o.d.no (dLocal o.d.w + 8192 * o.sent) (pktLen o.d.w o.sent) host = (v, .ok bs)) →
    (src = false → v = s ∧ bs = []) →
    (∃ k, way = .peer k) ∨ (∃ w, way = .path w) →
    RunsSettled (.trnPacketTransmit n ns host false) s fun u => ∃ p : Packet,
      (u.qp n).nextPsn = psnAdd q.nextPsn 1 ∧ (u.qp n).txc = q.txc + 1 ∧ (u.qp n).epsn = q.epsn ∧
      (u.qp n).ops.tail = rest ∧ ((u.qp n).ops.map (·.sent)).head? = some (o.sent + 1) ∧
      (u.qp n).nextAt = ns + cdiv (80 * frameLen p) (qpRate s q) ∧
      (u.qp n).timer = (if anyWaits q then q.timer else some (retryAt s)) ∧
      p.psn = q.nextPsn ∧ p.txc = q.txc ∧ p.sqp = n ∧ p.dqp = qpRemoteQp e ∧ p.dstEp = qpRemoteEp e ∧ p.srcEp = s.get F.TRN_ID_ENDPOINT ∧
      p.stamp = s.tk.num % 65536 ∧ p.tc = qpTc e ∧ p.enc = false ∧ p.ptr = 0 ∧ (p.last = true ↔ o.sent + 1 = opPkts o.d.w) ∧
      (dKind o.d.w ≠ 11 → p.payload = bs) ∧ Counted s u F.TRN_TX_PKTS ∧ MemSame s u ∧
      (∀ k, way = .peer k → u.out = v.out ++ peerOut s k p ∧ Counted s u F.HOST_PEER_FRAMES_TX) ∧
      (∀ w, way = .path w → p.hops = slotHops w ∧ p.path = slotPath w ∧
        (slotHops w = 0 → qpRemoteEp e = s.get F.TRN_ID_ENDPOINT → u.tr.arrivals = s.tr.arrivals ++ [(.loopback, p)]) ∧
        (slotHops w ≠ 0 →
          let x := hopOf (slotPath w) 0
          (s.port x).wait = [] → (s.port x).buffered + frameLen p ≤ bufferSize → bit (s.get (F.FAB_MARK_CE_EN x)) p.tc = false →
          (u.port x).cls p.tc = (s.port x).cls p.tc ++ [⟨p.tc, frameLen p, { p with ptr := 1 }, false, 32⟩]))

/-- What the initiator makes of an ACK, of a PATH_NOTICE and of its timer (R345, R347, R361): a WRITE acknowledged whole ends with SUCCESS; one
with a refused packet, with the refusal's code; one whose packet a notice names, with NO_ROUTE's code 0x51 and a count in TRN_PATH_INVALID. An
expiry sends every PSN again that is not acknowledged, with TRY one higher, and restarts; where a TRY would be 8, the queue pair goes to ERROR, with
TRN_EVENT cause 0 and all its operations ended. -/
def Obligations.InitiatorEvents : Prop :=
  ∀ (s : State) (i : Ingress) (p : Packet) (o : Op),
    let n := p.dqp
    let q := s.qp n
    s.pst = 3 → q.ops = [o] → o.code = none → dKind o.d.w = 8 → o.sent = opPkts o.d.w → 0 < o.sent → o.sent ≤ 4096 → o.acked = [] →
    o.refused = none → o.abort = none → o.told = false → o.first < 2 ^ 24 →
    (Arrives s i p → p.type = 7 → p.echo = 0 → (∀ k, k < o.sent → ackShows p (psnAdd o.first k) = true) →
      (p.refusals = [] → Runs (.ackRx i p) s fun u => u.en.ended = s.en.ended ++ [⟨o.d, 0⟩] ∧ (u.qp n).ops = [] ∧ (u.qp n).timer = none ∧
        (u.qp n).epsn = q.epsn ∧ MemSame s u ∧ RegsBut s u []) ∧
      (∀ k c, k < o.sent → p.refusals = [(psnAdd o.first k, c)] → Runs (.ackRx i p) s fun u => u.en.ended = s.en.ended ++ [⟨o.d, c⟩] ∧
        (u.qp n).ops = [] ∧ (u.qp n).timer = none ∧ MemSame s u)) ∧
    (∀ k, k < o.sent → p.type = 8 → hdrOk p = true → p.rsvHdr = false → p.rsvRoute = false → agedOut s p = false → (q.st = 2 ∨ q.st = 3) →
      p.ssn % 2 ^ 20 = qpRemoteEp q.e.toNat → p.psn = psnAdd o.first k →
      Runs (.pathNoticeRx i p) s fun u => u.en.ended = s.en.ended ++ [⟨o.d, 0x51⟩] ∧ Counted s u F.TRN_PATH_INVALID ∧ MemSame s u ∧ RegsBut s u []) ∧
    (∀ b, q.timer = some b → q.st = 3 → b ≤ s.tk.count → q.heldPsn = [] →
      ((∀ k, k < o.sent → smGet q.tries (psnAdd o.first k) 0 < 7) → Runs (.retryTimerExpiry n) s fun u =>
        (u.qp n).resend = (List.range o.sent).map (psnAdd o.first) ∧ (u.qp n).timer = some (retryAt s) ∧
        (∀ k, k < o.sent → smGet (u.qp n).tries (psnAdd o.first k) 0 = smGet q.tries (psnAdd o.first k) 0 + 1) ∧
        (u.qp n).st = 3 ∧ (u.qp n).ops = [o] ∧ u.en.ended = s.en.ended ∧ MemSame s u ∧ RegsBut s u []) ∧
      ((∃ k, k < o.sent ∧ 7 ≤ smGet q.tries (psnAdd o.first k) 0) → Runs (.retryTimerExpiry n) s fun u =>
        (u.qp n).st = 4 ∧ (u.qp n).ops = [] ∧ (u.qp n).timer = none ∧ u.en.ended = s.en.ended ++ [⟨o.d, 0x50⟩] ∧
        Answered s u F.TRN_EVENT_SEQ F.TRN_EVENT_LAST_CAUSE 0 ∧ Counted s u F.TRN_RETRY_EXCEEDED ∧ MemSame s u))

/-- A packet that its queue pair expects next (R335–R342): a WRITE within its key and window is placed, every byte and no other; an ATOMIC leaves the sum
modulo 2^64, or the swapped value where the comparison holds, and keeps the old value; a READ_REQ changes no byte, and the bytes read stand in the response to be
sent; a SEND is
placed in the receive of its sequence number, which completes with its last packet; a SIGNAL goes to its sync unit and its PSN waits for it. Each but
SIGNAL then moves ePSN on. One that R310 refuses is placed nowhere, its code stands in the refusals, and ePSN moves on. -/
def Obligations.PacketReception : Prop :=
  ∀ (s : State) (i : Ingress) (p : Packet) (off len right : Nat),
    let n := p.dqp
    let q := s.qp n
    let ctx := qpCtx q.e.toNat
    let moved (u : State) : Prop := (u.qp n).epsn = psnAdd p.psn 1 ∧ (u.qp n).done = []
    s.pst = 3 → Expected s i p →
    (off = p.roff + p.offset → len = p.payload.length → p.type = 0 → ∀ w a pa, keyCheck s ctx p off len rWrite = (0, w) →
      winAddr s w off = some a → OneTile s .trn rWrite ctx s.sq.opNo a len pa → piecesOf a p.payload = p.pieces →
      RunsSettled (.writeRx i p) s fun u => Stored s u pa p.payload ∧ moved u ∧ Counted s u F.TRN_RX_PKTS) ∧
    (off = p.roff → p.type = 4 → ∀ w a pa, keyCheck s ctx p off 8 rAtomic = (0, w) → winAddr s w off = some a →
      OneTile s .trn rAtomic ctx s.sq.opNo a 8 pa → 
      let old := ofLE ((List.range 8).map fun j => s.byte (pa + j))
      let x := fieldLE p.payload 0 8
      RunsSettled (.atomicRx i p []) s fun u => moved u ∧ (u.qp n).atomics.getLast? = some (p.psn, old) ∧
        (p.aux % 2 = 0 → Stored s u pa (toLE 8 ((old + x) % 2 ^ 64))) ∧
        (p.aux % 2 = 1 → Stored s u pa (toLE 8 (if old = x then fieldLE p.payload 8 8 else old)))) ∧
    (off = p.roff → p.type = 1 → p.offset = 0 → len = p.aux % 2 ^ 30 + 1 → len ≤ 8192 → ∀ w a pa, keyCheck s ctx p off len rRead = (0, w) →
      winAddr s w off = some a → OneTile s .trn rRead ctx s.sq.opNo a len pa →
      RunsSettled (.readReqRx i p []) s fun u => moved u ∧ MemSame s u ∧ ∃ r : Packet, (u.qp n).resp = q.resp ++ [r] ∧ r.type = 2 ∧ r.psn = p.psn ∧
        r.dqp = qpRemoteQp q.e.toNat ∧ r.sqp = n ∧ r.offset = 0 ∧ r.last = true ∧ r.try_ = p.try_ ∧
        r.payload = (List.range len).map fun j => s.byte (pa + j)) ∧
    (p.type = 3 → p.abort = false → p.offset = 0 → p.last = true → len = p.payload.length → ∀ v rq pa, findRecv s q p.ssn = some v →
      smFind s.tr.rqs (rqOf q) = some rq → v.donePk = 0 → v.bad = none → v.abort = none → v.bytes = 0 → len ≤ v.len →
      OneTile s .trn rWrite ctx s.sq.opNo v.buf len pa → piecesOf v.buf p.payload = p.pieces →
      RunsSettled (.sendRx i p) s fun u => Stored s u pa p.payload ∧ moved u ∧
        (smFind u.tr.rqs (rqOf q)).map (·.recvs) = some (rq.recvs.filter fun z => z.ssn != v.ssn) ∧
        ∀ c, s.ownsCq ctx (qpRcq q.e.toNat) = true → smFind s.ho.cqs (qpRcq q.e.toNat) = some c → s.hostUp (s.ctxPort c.ctx) = true → c.waiting = [] →
          c.written - c.consumed < 2 ^ c.log2 → ∃ bs, Output.hostWrite c.ctx (c.base + 32 * (c.written % 2 ^ c.log2)) bs ∈ u.out ∧
            fieldLE bs 0 4 = v.tag % 2 ^ 32 ∧ fieldLE bs 4 1 = 0 ∧ fieldLE bs 5 1 = 1 ∧ fieldLE bs 12 4 = len) ∧
    (off = p.roff → p.type = 6 → ∀ w, keyCheck s ctx p off 1 rAtomic = (0, w) → winSync w = true →
      RunsSettled (.signalRx i p) s fun u => u.qp n = q ∧ MemSame s u ∧
        u.sy.reqs = s.sy.reqs ++ [⟨80, winBase w + p.roff, none, .signal (max 1 p.aux), none, 0, some (i, p)⟩]) ∧
    (∀ c code x, (c = .writeRx i p ∧ p.type = 0 ∧ off = p.roff + p.offset ∧ len = p.payload.length ∧ right = rWrite) ∨
        (c = .readReqRx i p [] ∧ p.type = 1 ∧ off = p.roff + p.offset ∧ len = p.aux % 2 ^ 30 + 1 - p.offset ∧ 0 < len ∧ right = rRead) ∨
        (c = .atomicRx i p [] ∧ p.type = 4 ∧ off = p.roff ∧ len = 8 ∧ right = rAtomic) ∨
        (c = .signalRx i p ∧ p.type = 6 ∧ off = p.roff ∧ len = 1 ∧ right = rAtomic) →
      keyCheck s ctx p off len right = (code, x) → code ≠ 0 → q.refusals = [] →
      RunsSettled c s fun u => moved u ∧ MemSame s u ∧ (u.qp n).refusals = [(p.psn, code)] ∧ Counted s u F.TRN_REFUSED ∧ u.sy = s.sy)

/-- Responses, and the target's own timers (R337, R341–R344): the response of a READ or an ATOMIC of one packet is placed at LOCAL, every byte and no
other, and its operation ends with SUCCESS. A packet held by its FENCE is handled once everything before it is placed, here a SIGNAL. A delayed ACK
goes out with ePSN, ECHO and the refusals, and nothing is owed after it. -/
def Obligations.ResponsesAndAcks : Prop :=
  ∀ (s : State) (i : Ingress) (p : Packet),
    let n := p.dqp
    let q := s.qp n
    let e := q.e.toNat
    s.pst = 3 →
    (∀ o pa c, (c = .readRespRx i p ∧ p.type = 2 ∧ dKind o.d.w = 9) ∨ (c = .atomicRespRx i p ∧ p.type = 5 ∧ dKind o.d.w = 11) →
      Arrives s i p → q.ops = [o] → o.code = none → o.told = false → o.got = [] → o.sent = 1 → o.first = p.psn → p.psn < 2 ^ 24 → o.abort = none →
      p.offset = 0 → p.payload.length = opLen o.d.w →
      OneTile s .trn rWrite (dCtx o.d.w) o.d.no (dLocal o.d.w) p.payload.length pa → piecesOf (dLocal o.d.w) p.payload = p.pieces →
      RunsSettled c s fun u => Stored s u pa p.payload ∧ u.en.ended = s.en.ended ++ [⟨o.d, 0⟩] ∧ (u.qp n).epsn = q.epsn) ∧
    (∀ w, s.tr.fences = [(i, p)] → q.st = 2 ∨ q.st = 3 → p.type = 6 → keyCheck s (qpCtx e) p p.roff 1 rAtomic = (0, w) → winSync w = true →
      Runs (.fenceHeldRelease n p.psn []) s (fun u => fenceOpen q p = false → u = s) ∧
      (fenceOpen q p = true → RunsSettled (.fenceHeldRelease n p.psn []) s fun u => u.tr.fences = [] ∧ MemSame s u ∧
        u.sy.reqs = s.sy.reqs ++ [⟨80, winBase w + p.roff, none, .signal (max 1 p.aux), none, 0, some (i, p)⟩])) ∧
    (∀ k, q.ackFrom = some (i, p) → q.st = 2 ∨ q.st = 3 → wayTo s (qpRemoteEp e) (npathOf e) 0 = .peer k →
      Runs (.ackDelayExpiry n) s fun u => u.qp n = { q with echo := 0, ackDue := 0, ackFrom := none } ∧ MemSame s u ∧ RegsBut s u [] ∧
        Counted s u F.TRN_ACKS_TX ∧ ∃ a : Packet, u.out = s.out ++ peerOut s k a ∧ a.type = 7 ∧ a.psn = q.epsn ∧ a.echo = q.echo ∧
          a.refusals = q.refusals ∧ a.notice = 0 ∧ a.dqp = qpRemoteQp e ∧ a.sqp = n ∧ a.tc = qpAckTc e)

/-- ROUTE_CMD (R353, R354, R374): an endpoint above the table gives RESULT 3, an entry with HOPS above 14 or bits that must be 0 RESULT 1, and
neither changes a route; a set writes the entry, an invalidation clears the eight VALID bits and no other, both of it alone; a read copies it to
ROUTE_ENTRY. ROUTE_ENTRY_FETCHED makes the entry on die, the latest. -/
def Obligations.RouteCommands : Prop :=
  ∀ (s : State) (ep : Nat), s.pst = 3 → s.fnHeld 0 = false →
    let e := s.getWords (F.ROUTE_ENTRY 0).off 24
    let route (u : State) (x : Nat) : BitVec 768 := smGet u.tr.routes x 0#768
    let ev (u : State) (r : Nat) : Prop := Answered s u F.ROUTE_EVENT_SEQ F.ROUTE_EVENT_RESULT r
    let others (u : State) : Prop := MemSame s u ∧ ∀ x, x ≠ ep → route u x = route s x
    (0xFFFFF ≤ ep → ∀ c, c = .routeSet ep ∨ c = .routeInvalidate ep ∨ c = .routeRead ep →
      Runs c s fun u => ev u 3 ∧ u.tr = s.tr ∧ MemSame s u) ∧
    (ep < 0xFFFFF →
      (routeOk (BitVec.ofNat 768 e) = false → Runs (.routeSet ep) s fun u => ev u 1 ∧ u.tr = s.tr ∧ MemSame s u) ∧
      (s.tr.waitRoute = [] →
        (routeOk (BitVec.ofNat 768 e) = true →
          Runs (.routeSet ep) s fun u => ev u 0 ∧ route u ep = BitVec.ofNat 768 e ∧ others u ∧ ep ∈ u.tr.rcache ∧ RegsBut s u [F.ROUTE_EVENT.off]) ∧
        Runs (.routeInvalidate ep) s (fun u => ev u 0 ∧ others u ∧ RegsBut s u [F.ROUTE_EVENT.off] ∧ ∀ b, b < 768 →
          (route u ep).getLsbD b = (decide (b % 96 ≠ 74) && (route s ep).getLsbD b)) ∧
        Runs (.routeEntryFetched ep) s fun u => u.tr.rcache = (ep :: s.tr.rcache.erase ep).take 65536 ∧ u.tr.routes = s.tr.routes ∧
          MemSame s u ∧ RegsBut s u []) ∧
      Runs (.routeRead ep) s fun u => ev u 0 ∧ u.tr = s.tr ∧ u.getWords (F.ROUTE_ENTRY 0).off 24 = (route s ep).toNat ∧ MemSame s u)

/-! ### The port switch and the ports (ch. 13, 15) -/

/-- A Speron frame with a good FCS at a port with its link up, in Active (R357–R364): one whose route has ended here goes to the transport unit; one
for another endpoint is counted and noted with cause 2; one whose turn is not permitted, with cause 0, and for a WRITE that has taken a hop a PATH_NOTICE
leaves on its ingress; another goes to the tail of its class at the egress that its path names, PTR one higher and its ingress written into the path,
is counted and dropped where the buffer has no room or the link is down. Every other queue and memory stay. A route error, a runt, an oversize frame
and a bad FCS are counted; a frame lost toward the port switch is counted and dropped. A waiting frame enters where there is room; at a frame boundary the frame in transmission has left, and the port starts the
head of the highest class that may send; an underrun ends the frame with a bad FCS and raises START_CUR by one, to 4 at most (R413). -/
def Obligations.FrameForwarding : Prop :=
  ∀ (s : State) (n : Nat), s.pst = 3 → n < 32 → portPresent s n = true → s.linkUp n = true → s.ci.load = .none →
    let mac := macSource (s.get F.TRN_ID_ENDPOINT) n
    (∀ (p : Packet) (len : Nat),
      let got (len : Nat) (ok : Bool) (P : State → Prop) : Prop :=
        Runs (.frameReceived ⟨n, .speron p, len, ok, 0, 0⟩ []) s fun u => P u ∧ MemSame s u ∧ u.en = s.en ∧ u.sg = s.sg ∧ u.ho = s.ho
      let e := hopOf p.path p.ptr
      let turn := mayTurn s n e (p.ptr + 1 == p.hops)
      let f : Frame := ⟨p.tc, frameLen p, { p with path := if p.ptr = 0 then p.path else putBits p.path (5 * (p.ptr - 1)) 5 n, ptr := p.ptr + 1 }, true, n⟩
      let noted (u : State) (cause e : Nat) : Prop := u.get (F.FAB_NOTICE_EVENT_CAUSE n) = cause ∧ u.get (F.FAB_NOTICE_EVENT_EGRESS n) = e ∧
        u.get (F.FAB_NOTICE_EVENT_HOP n) = p.ptr ∧ u.get (F.FAB_NOTICE_EVENT_SEQ n) = seqNext (s.get (F.FAB_NOTICE_EVENT_SEQ n)) ∧ u.tr = s.tr
      (len < 64 → ∀ ok, got len ok fun u => Counted s u (F.MAC_RX_RUNT n) ∧ u.tr = s.tr ∧ u.fb = s.fb) ∧
      (maxFrame s n < len → got len true fun u => Counted s u (F.MAC_RX_OVERSIZE n) ∧ u.get (F.PORT_STATUS_LAST n) = 4 ∧
        u.get (F.PORT_STATUS_SEQ n) = seqNext (s.get (F.PORT_STATUS_SEQ n)) ∧ u.tr = s.tr ∧ u.fb = s.fb) ∧
      (64 ≤ len → len ≤ maxFrame s n →
        got len false (fun u => Counted s u (F.MAC_RX_FCS_ERR n) ∧ u.tr = s.tr ∧ u.fb = s.fb) ∧
        (14 < p.hops ∨ p.hops < p.ptr ∨ p.rsvRoute = true → got len true fun u => Counted s u (F.FAB_BAD_ROUTE n) ∧ u.tr = s.tr ∧ u.fb = s.fb) ∧
        (p.hops ≤ 14 → p.rsvRoute = false →
          (p.ptr = p.hops → p.dstEp = s.get F.TRN_ID_ENDPOINT → got len true fun u => Counted s u (F.MAC_RX_FRAMES n) ∧
            u.tr = { s.tr with arrivals := s.tr.arrivals ++ [(.port n, p)] } ∧ u.fb = s.fb ∧ RegsBut s u []) ∧
          (p.ptr = p.hops → p.dstEp ≠ s.get F.TRN_ID_ENDPOINT → got len true fun u => Counted s u (F.FAB_MISDELIVERED n) ∧ noted u 2 0) ∧
          (p.ptr < p.hops → turn = false → got len true fun u => Counted s u (F.FAB_TURN_REFUSED n) ∧ noted u 0 e ∧
            (p.type = 0 → 0 < p.ptr → s.portFenced n = false → (s.port n).wait = [] → (s.port n).buffered + 90 ≤ bufferSize →
              (u.port n).cls p.tc = (s.port n).cls p.tc ++ [⟨p.tc, 90, { noticeOf s p n 0 e with ptr := 1 }, false, 33⟩])) ∧
          (p.ptr < p.hops → turn = true → portPresent s e = true → s.portFenced e = false → s.linkUp e = false →
            got len true fun u => Counted s u (F.FAB_EGRESS_DOWN e) ∧ u.tr = s.tr ∧ u.fb = s.fb) ∧
          (p.ptr < p.hops → turn = true → egressOk s e = true →
            (bufferSize < (s.port e).buffered + frameLen p → got len true fun u => Counted s u (F.FAB_DROP_FULL e) ∧ u.tr = s.tr ∧ u.fb = s.fb) ∧
            ((s.port e).buffered + frameLen p ≤ bufferSize → bit (s.get (F.FAB_MARK_CE_EN e)) p.tc = false →
              got len true fun u => (u.port e).cls p.tc = (s.port e).cls p.tc ++ [f] ∧ u.tr = s.tr ∧ RegsBut s u [] ∧
                (∀ c, c ≠ p.tc → (u.port e).cls c = (s.port e).cls c) ∧ ∀ m, m ≠ e → (u.port m).q = (s.port m).q))))) ∧
    (∀ (p : Packet) (len : Nat), 64 ≤ len → len ≤ maxFrame s n → (s.flag (F.PORT_CFG_TX_MODE n) = true ∨ p.ptr = p.hops) →
      Runs (.rxOverflow ⟨n, .speron p, len, true, 0, 0⟩) s fun u => Counted s u (F.MAC_RX_OVERFLOW n) ∧ Counted s u (F.MAC_RX_FRAMES n) ∧
        u.fb = s.fb ∧ u.tr = s.tr ∧ RegsBut s u [] ∧ CntBut s u [F.MAC_RX_OVERFLOW n, F.MAC_RX_FRAMES n, F.MAC_RX_BYTES_LO n] ∧ MemSame s u) ∧
    (∀ f, (s.port n).wait = [f] → (s.port n).buffered + f.len ≤ bufferSize → bit (s.get (F.FAB_MARK_CE_EN n)) f.cls = false →
      Runs (.egressBufferRoom n) s fun u => (u.port n).wait = [] ∧ (u.port n).cls f.cls = (s.port n).cls f.cls ++ [f] ∧ u.tr = s.tr ∧ MemSame s u) ∧
    (∀ ns, s.portFenced n = false → quiesced s n = false → (s.port n).ctl = [] → (s.port n).ptp = [] → (∀ k g gs, k < 8 → (s.port n).cls k = g :: gs → g.len ≤ maxFrame s n) →
      (∀ f, (∀ k, k < 8 → (s.port n).cls k = []) → (s.port n).cut = some f → Runs (.egressFrameStart n ns) s fun u => (u.port n).cut = none ∧
        u.out = s.out ++ [.frame n f.pkt mac true] ∧ Counted s u (F.MAC_TX_FRAMES n) ∧ u.tr = s.tr ∧ RegsBut s u [] ∧ MemSame s u) ∧
      (∀ c f fs, c < 8 → (s.port n).cls c = f :: fs → (∀ k, c < k → k < 8 → (s.port n).cls k = []) → (s.port n).cut = none → mariOn s = false →
        bit (pausedMask s n) c = false → shapeRate s n c = 0 → Runs (.egressFrameStart n ns) s fun u => (u.port n).cut = some f ∧
          (u.port n).cls c = fs ∧ (∀ k, k ≠ c → (u.port n).cls k = (s.port n).cls k) ∧ u.tr = s.tr ∧ RegsBut s u [] ∧ MemSame s u)) ∧
    (∀ f, (s.port n).cut = some f → (s.port n).whole = false → (s.port n).ctl = [] → (s.port n).ptp = [] → Runs (.txUnderrun n) s fun u => (u.port n).cut = none ∧
      u.out = s.out ++ [.frame n f.pkt mac false] ∧ Counted s u (F.MAC_TX_UNDERRUN n) ∧ MemSame s u ∧
      (s.get (F.PORT_STATUS_START_CUR n) < 4 → u.get (F.PORT_STATUS_START_CUR n) = s.get (F.PORT_STATUS_START_CUR n) + 1 ∧
        u.get (F.PORT_STATUS_LAST n) = 2 ∧ u.get (F.PORT_STATUS_SEQ n) = seqNext (s.get (F.PORT_STATUS_SEQ n))) ∧
      (4 ≤ s.get (F.PORT_STATUS_START_CUR n) → RegsBut s u []))

/-- Links and pauses in Active (R408, R409, R414–R418): a link comes up with LAST 0 and START_CUR at START_STEP, 4 at most; when it goes down the
queued frames are discarded and counted, the frame in transmission ends with a bad FCS, LAST is 1. A PORT_CFG write restarts START_CUR, leaves GUARD_EN in
effect till the boundary, and with ENABLE 0 takes the link down. A PAUSE holds every class but those that ignore pauses until its time ends, a per-class pause the classes that it and
RX_PFC_EN name; the watchdog breaks a hold, with LAST 3, and its class then ignores pauses; a sent pause is renewed while its class stays above XOFF. -/
def Obligations.LinksAndPauses : Prop :=
  ∀ (s : State) (n : Nat), s.pst = 3 → s.fnHeld 0 = false → n < 32 → portPresent s n = true →
    let p := s.port n
    let st (u : State) (last : Nat) : Prop := u.get (F.PORT_STATUS_LAST n) = last ∧
      u.get (F.PORT_STATUS_SEQ n) = seqNext (s.get (F.PORT_STATUS_SEQ n)) ∧ MemSame s u
    (mayTrain s n = true → s.linkUp n = false → Runs (.linkUp n) s fun u => u.linkUp n = true ∧ st u 0 ∧
      u.get (F.PORT_STATUS_START_CUR n) = min 4 (s.get (F.PORT_CFG_START_STEP n)) ∧ u.fb = s.fb ∧ RegsBut s u [(F.PORT_STATUS n).off] ∧ CntBut s u []) ∧
    (s.linkUp n = true → Runs (.linkDown n) s fun u => u.linkUp n = false ∧ st u 1 ∧ (u.port n).q = [] ∧ (u.port n).cut = none ∧ (u.port n).pfc = 0 ∧
      Counted s u (F.LINK_DOWNS n) ∧ Counted s u (F.MAC_TX_DISCARD n) (queuedFrames p) ∧
      ((∀ m, (s.port m).xoff = 0) → (∀ m, m ≠ n → u.port m = s.port m) ∧
        ∀ f, p.cut = some f → u.out = s.out ++ [.frame n f.pkt (macSource (s.get F.TRN_ID_ENDPOINT) n) false])) ∧
    (∀ v : Word32, bit v.toNat 2 = true → (if n < 16 then bits v.toNat 0 2 % 3 else 0) = s.get (F.PORT_CFG_WIDTH n) % 3 →
      Runs (.portCfgWrite n v) s fun u => u.get (F.PORT_CFG_MAXF n) = bits v.toNat 16 14 ∧ u.get (F.PORT_CFG_TX_MODE n) = bits v.toNat 3 1 ∧
        u.get (F.PORT_STATUS_START_CUR n) = min 4 (bits v.toNat 4 3) ∧ u.getL (F.PORT_CFG_GUARD_EN n) = s.getL (F.PORT_CFG_GUARD_EN n) ∧
        u.get (F.PORT_CFG_GUARD_EN n) = bits v.toNat 7 1 ∧ u.linkUp n = s.linkUp n ∧ u.fb = s.fb ∧ MemSame s u) ∧
    (∀ v : Word32, bit v.toNat 2 = false → s.linkUp n = true → Runs (.portCfgWrite n v) s fun u => u.linkUp n = false ∧ st u 1 ∧
      (u.port n).cut = none ∧ (u.port n).q = []) ∧
    (s.linkUp n = true → ∀ quanta,
      (s.flag (F.MAC_PAUSE_CTL_RX_LLP_EN n) = true →
        (quanta ≠ 0 → Runs (.pauseRx n quanta) s fun u => u.port n = { p with llp := 0xFF - s.get (F.MAC_PAUSE_STATE_WD_BROKEN n) } ∧
          u.get (F.MAC_PAUSE_STATE_PAUSED n) = pausedMask u n % 256 ∧ Counted s u (F.MAC_PAUSE_RX n) ∧ (∀ m, m ≠ n → u.port m = s.port m) ∧
          MemSame s u) ∧
        (quanta = 0 → Runs (.pauseRx n quanta) s fun u => u.port n = { p with llp := 0 } ∧ u.get (F.MAC_PAUSE_STATE_WD_BROKEN n) = 0 ∧
          u.get (F.MAC_PAUSE_STATE_LLP n) = 0 ∧ u.get (F.MAC_PAUSE_STATE_PAUSED n) = p.pfc % 256 ∧ Counted s u (F.MAC_PAUSE_RX n) ∧ MemSame s u)) ∧
      (s.flag (F.MAC_PAUSE_CTL_RX_LLP_EN n) = false → Runs (.pauseRx n quanta) s fun u => Counted s u (F.MAC_PAUSE_RX n) ∧ u.fb = s.fb ∧
        RegsBut s u [] ∧ MemSame s u)) ∧
    (s.linkUp n = true → ∀ (en : BitVec 8) (quanta : List Nat), Runs (.pfcRx n en quanta) s fun u => Counted s u (F.MAC_PFC_RX n) ∧ MemSame s u ∧
      u.get (F.MAC_PAUSE_STATE_PAUSED n) = pausedMask u n % 256 ∧ ∀ c, c < 8 → bit (u.port n).pfc c =
        if bit en.toNat c && bit (s.get (F.MAC_PAUSE_CTL_RX_PFC_EN n)) c then
          (if quanta.getD c 0 = 0 then false else if bit (s.get (F.MAC_PAUSE_STATE_WD_BROKEN n)) c then bit p.pfc c else true)
        else bit p.pfc c) ∧
    (Runs (.pauseExpiry n none) s fun u => u.port n = { p with llp := 0 } ∧ u.get (F.MAC_PAUSE_STATE_PAUSED n) = p.pfc % 256 ∧
      u.get (F.MAC_PAUSE_STATE_LLP n) = 0 ∧ MemSame s u) ∧
    (∀ c, c < 8 →
      (Runs (.pauseExpiry n (some c)) s fun u => (∀ k, bit (u.port n).pfc k = (bit p.pfc k && k != c)) ∧
        u.get (F.MAC_PAUSE_STATE_PAUSED n) = pausedMask u n % 256 ∧ MemSame s u) ∧
      (watchdogOn s n = true → bit (pausedMask s n) c = true → Runs (.pauseWatchdogExpiry n c) s fun u => bit (pausedMask u n) c = false ∧ st u 3 ∧
        bit (u.get (F.MAC_PAUSE_STATE_WD_BROKEN n)) c = true ∧ Counted s u (F.MAC_PAUSE_WD n)) ∧
      (Runs (.pauseWatchdogIgnoreEnd n c) s fun u => u.fb = s.fb ∧ MemSame s u ∧ RegsBut s u [(F.MAC_PAUSE_STATE n).off] ∧
        ∀ k, bit (u.get (F.MAC_PAUSE_STATE_WD_BROKEN n)) k = (bit (s.get (F.MAC_PAUSE_STATE_WD_BROKEN n)) k && k != c)) ∧
      (s.linkUp n = true → quiesced s n = false → p.cut = none → bit p.xoff c = true → xoffBytes s n < fromIngress s n c → Runs (.pfcResendTimer n c) s fun u =>
        u.out = s.out ++ [.pause n (2 ^ c) 0xFFFF] ∧ Counted s u (F.FAB_PFC_SENT n) ∧ u.fb = s.fb ∧ RegsBut s u [] ∧ MemSame s u))

/-- Bays (R56, R421–R429). An opened latch is shown at once; over lasing lasers it takes both ports down and raises event 4, an identification under way is
given up. A closed latch starts identification unless the bay is fenced. Identification refuses, in this order, a record that is not readable or not
of the format (LAST 3), a bad signature (2), another class (1), leaving STATE 4, and otherwise lights the lasers (STATE 2) with the life of the valid
copy with the higher SEQ. A quiesce ends with the ports down, the life area written, STATE 3 and LAST 5; a resume of a bay that has not been opened
lases again; either is refused with LAST 8 elsewhere. A minute of lasing adds its fraction to the weighted life, and the warnings show at 150,000 and 0. -/
def Obligations.Bays : Prop :=
  ∀ (s : State) (m : Nat), s.pst = 3 → s.fnHeld 0 = false → m < nBay s →
    let b := s.bay m
    let state := s.get (F.LB_STATUS_STATE m)
    let st (u : State) (x : Nat) : Prop := u.get (F.LB_STATUS_STATE m) = x
    let ev (u : State) (last : Nat) : Prop := u.get (F.LB_STATUS_LAST m) = last ∧ u.get (F.LB_STATUS_SEQ m) = seqNext (s.get (F.LB_STATUS_SEQ m))
    let down (u : State) : Prop := u.linkUp (2 * m) = false ∧ u.linkUp (2 * m + 1) = false
    let alarm (u : State) (d : Nat) : Prop := u.fc.raised = s.fc.raised ++ [(24, m, d)]
    let written (u : State) : Prop := ∀ c, b.cart = some c → ∃ c' l, (u.bay m).cart = some c' ∧ currentLife c' = some l ∧
      lifePowered l = s.reg (F.LB_POWERED_MIN m).off ∧ lifeWeighted l = s.reg (F.LB_WEIGHTED m).off ∧
      fieldLE l 12 4 = s.reg (F.LB_REMAIN_MIN m).off ∧
      lifeSeq l = (match currentLife c with | some x => (lifeSeq x + 1) % 2 ^ 32 | none => 1)
    (state = 2 → RunsSettled (.latchOpen m) s fun u => st u 0 ∧ ev u 4 ∧ down u ∧ alarm u 4 ∧ u.flag (F.LB_STATUS_LATCH m) = false ∧
      u.reg (F.LB_OUTPUT m).off = 0 ∧ (u.bay m).cart = none ∧ MemSame s u) ∧
    (state ≠ 2 → Runs (.latchOpen m) s fun u => st u (if state = 1 ∨ state = 4 then 0 else state) ∧ u.flag (F.LB_STATUS_LATCH m) = false ∧
      u.get (F.LB_STATUS_SEQ m) = s.get (F.LB_STATUS_SEQ m) ∧ (u.bay m).opened = true ∧ u.fc = s.fc ∧ MemSame s u) ∧
    (s.flag (F.LB_STATUS_LATCH m) = false → Runs (.latchClose m) s fun u => u.flag (F.LB_STATUS_LATCH m) = true ∧
      st u (if s.bayFenced m = true then state else 1) ∧ u.fb = s.fb ∧ RegsBut s u [(F.LB_STATUS m).off] ∧ CntBut s u [] ∧ MemSame s u) ∧
    (∀ c : Cartridge, state = 1 → s.flag (F.LB_STATUS_LATCH m) = true →
      let good := c.readable = true ∧ cartMagic c = 0x5452434C ∧ cartVersion c = 1
      let signed := Config.slhDsa128f Config.cartridgeKey (slice c.record 0 256) c.signature
      let fits := cartClass c = s.get (F.LB_CLASS_BAY_CLASS m)
      (¬ good → RunsSettled (.cartridgeIdentified m c) s fun u => st u 4 ∧ ev u 3 ∧ alarm u 3) ∧
      (good → RunsSettled (.cartridgeIdentified m c) s fun u =>
        if signed = false then st u 4 ∧ ev u 2 ∧ alarm u 2
        else if ¬ fits then st u 4 ∧ ev u 1 ∧ alarm u 1
        else st u 2 ∧ ev u 0 ∧ u.fc = s.fc ∧ (u.bay m).cart = some c ∧ ∀ l, currentLife c = some l →
          u.reg (F.LB_POWERED_MIN m).off = lifePowered l ∧ u.reg (F.LB_WEIGHTED m).off = lifeWeighted l ∧
          u.reg (F.LB_REMAIN_MIN m).off = remainMin (cartHours c) (lifeWeighted l) % 2 ^ 32 ∧
          (u.flag (F.LB_STATUS_EOL_WARN m) = true ↔ remainMin (cartHours c) (lifeWeighted l) ≤ 150000))) ∧
    (Runs (.lbQuiesce m) s fun u => if state = 2 ∧ s.flag (F.LB_STATUS_LATCH m) = true then u.bay m = { b with quiescing := true } ∧ RegsBut s u []
      else ev u 8 ∧ st u state ∧ u.fb = s.fb) ∧
    (Runs (.lbResume m) s fun u => if state = 3 ∧ b.opened = false then st u 2 ∧ u.fb = s.fb else ev u 8 ∧ st u state ∧ u.fb = s.fb) ∧
    (b.quiescing = true → state = 2 → Runs (.quiesceComplete m) s fun u => st u 3 ∧ ev u 5 ∧ down u ∧ written u ∧ (u.bay m).quiescing = false ∧
      (u.bay m).opened = false ∧ u.reg (F.LB_OUTPUT m).off = 0 ∧ MemSame s u) ∧
    (∀ c f, lasersOn s m = true → b.cart = some c →
      let w := s.reg (F.LB_WEIGHTED m).off + f
      let r := remainMin (cartHours c) w
      RunsSettled (.lifeMinute m f) s fun u => u.reg (F.LB_POWERED_MIN m).off = (s.reg (F.LB_POWERED_MIN m).off + 1) % 2 ^ 32 ∧
        u.reg (F.LB_WEIGHTED m).off = w % 2 ^ 32 ∧ u.reg (F.LB_REMAIN_MIN m).off = r % 2 ^ 32 ∧ (f < 256 → u.get (F.LB_OUTPUT_FRACTION m) = f) ∧
        (u.bay m).minutes = b.minutes + 1 ∧ (150000 < r → u.fc = s.fc ∧ RegsBut s u [(F.LB_POWERED_MIN m).off, (F.LB_WEIGHTED m).off,
          (F.LB_REMAIN_MIN m).off, (F.LB_OUTPUT m).off]) ∧
        (r ≤ 150000 → u.flag (F.LB_STATUS_EOL_WARN m) = true) ∧ (r = 0 → u.flag (F.LB_STATUS_EOL m) = true) ∧ MemSame s u) ∧
    (lasersOn s m = true → 10 ≤ b.minutes → Runs (.lifeAreaWrite m) s fun u => written u ∧ RegsBut s u [] ∧ MemSame s u ∧
      (b.cart.isSome = true → (u.bay m).minutes = 0))

/-! ### Queues and hosts (ch. 16) -/

/-- Submission queues (R441–R450). A doorbell with no new entry does nothing, one that is too far ahead is counted, any other records PROD and, where the queue
may fetch, reads the next entry. A response that shows the entry written holds it to be started; one that does not is read again, and after the sixteenth
re-read the queue stops with its slot, an event, and DOORBELL_AHEAD on its completion queue; a restart sets STATE 1 again. A held entry takes its position:
a work request, with its context, goes to its queue pair; a launch is queued; a control entry acts as its register command and completes; a
receive takes the next position of its receive queue. -/
def Obligations.SubmissionQueues : Prop :=
  ∀ (s : State) (ctx q : Nat), s.pst = 3 → ctx < 256 → q < 15 → s.fnHeld ctx = false → ctxMapped s ctx = true →
    let k := sqKey ctx q
    let x := s.sqd k
    let cq := s.get (F.SQ_CQ_CQ ctx q)
    let ask (t u : State) : Prop := u.out = t.out ++ [.hostRead ctx (sqSlot s k) 64]
    let taken (u : State) : Prop := (u.sqd k).f = x.f + 1 ∧ (u.sqd k).held = none ∧ Counted s u F.HOST_SQ_ENTRIES ∧ MemSame s u
    (sqEnabled s k = true → sqLoc s k = false →
      (∀ prod,
        let d := (prod % 65536 + 65536 - x.f % 65536) % 65536
        (d = 0 → Runs (.sqDbWrite ctx q prod) s fun u => u = s) ∧
        (sqSize s k < d → Runs (.sqDbWrite ctx q prod) s fun u => u.ho = s.ho ∧ Counted s u F.HOST_DB_BAD ∧ u.out = s.out ∧ RegsBut s u [] ∧ MemSame s u) ∧
        (0 < d → d ≤ sqSize s k → Runs (.sqDbWrite ctx q prod) s fun u => (u.sqd k).prod = prod % 65536 ∧ (u.sqd k).f = x.f ∧
          u.get (F.SQ_FETCH_PROD ctx q) = prod % 65536 ∧ CntBut s u [] ∧ MemSame s u ∧
          (if sqWants (s.setSqd k { x with prod := prod % 65536 }) k = true ∧ s.poolFull = false then ask s u ∧ (u.sqd k).asked = x.asked + 1 else u.out = s.out))) ∧
      (∀ entry, sqRunning s k = true → x.asked = 1 →
        let e := slice entry 0 64
        (sqWritten s k e = true → (8 ≤ sqOpcode e ∧ sqOpcode e ≤ 12 ∨ sqOpcode e = 0x10 ∨ sqOpcode e = 0x20 ∨ sqOpcode e = 0x30) →
          RunsSettled (.sqFetchResponse ctx q entry) s fun u => u.out = s.out ∧ MemSame s u ∧
            u.sqd k = { x with asked := 0, reread := false, tries := 0, held := some (e, if sqOpcode e = 0x30 then none else some s.sq.opNo) } ∧
            (sqOpcode e ≠ 0x30 → smFind u.sq.trk s.sq.opNo = some (ctx, 0)) ∧ (sqOpcode e = 0x30 → u.sq = s.sq)) ∧
        (sqWritten s k e = false → x.tries < 16 → RunsSettled (.sqFetchResponse ctx q entry) s fun u => u.out = s.out ∧ MemSame s u ∧
          u.sqd k = { x with asked := 0, reread := true }) ∧
        (sqWritten s k e = false → x.tries = 16 → RunsSettled (.sqFetchResponse ctx q entry) s fun u =>
          u.get (F.SQ_STATUS_STATE ctx q) = 2 ∧ u.get (F.SQ_STATUS_STOP_IDX ctx q) = x.f % sqSize s k ∧ Counted s u F.HOST_SQ_STOPS ∧
          u.get (F.SQ_STATUS_SEQ ctx q) = seqNext (s.get (F.SQ_STATUS_SEQ ctx q)) ∧ (u.sqd k).f = x.f ∧ MemSame s u ∧
          ∀ c, CqOpen s cq c → s.ownsCq ctx cq = true → u.out = s.out ++ [cqRing c (cqEntry 0xFFFFFFFF 0x60 5 k 0)]))) ∧
    (sqRunning s k = true → x.reread = true → x.tries < 16 → Runs (.sqRefetchTimer ctx q) s fun u => (u.sqd k).tries = x.tries + 1 ∧
      (u.sqd k).asked = x.asked + 1 ∧ (u.sqd k).f = x.f ∧ Counted s u F.HOST_SQ_REFETCH ∧ MemSame s u ∧
      (if sqLoc s k = true then u.out = s.out else ask s u)) ∧
    (s.get (F.SQ_STATUS_STATE ctx q) ≠ 2 → Runs (.sqRestart ctx q) s fun u => u = s) ∧
    (s.get (F.SQ_STATUS_STATE ctx q) = 2 → Runs (.sqRestart ctx q) s fun u => u.get (F.SQ_STATUS_STATE ctx q) = 1 ∧ (u.sqd k).f = x.f ∧
      (u.sqd k).prod = x.prod ∧ CntBut s u [] ∧ MemSame s u ∧
      (sqLoc s k = false → sqWants (s.set (F.SQ_STATUS_STATE ctx q) 1) k = true → s.poolFull = false → ask s u)) ∧
    (∀ entry no, x.held = some (entry, some no) → sqRunning s k = true → workHeld s = false → smFind s.ho.frozen ctx = none →
      let op := sqOpcode entry
      (8 ≤ op → op ≤ 12 → fieldLE entry 8 24 = 0 → fieldLE entry 0x20 1 % 16 = op →
        let d := (sqDesc s ctx q no entry).2
        let o := s.qp (dQp d.w)
        qpFull s d.w = false → dCtx d.w = ctx ∧ d.no = no ∧
          (s.ownsQp ctx (dQp d.w) = false → RunsSettled (.sqTransportEntry ctx q entry) s fun u => taken u ∧ u.en.ended = s.en.ended ++ [⟨d, 0x10⟩] ∧
            u.qp (dQp d.w) = o) ∧
          (s.ownsQp ctx (dQp d.w) = true → o.st = 3 → qpEnc o.e.toNat = false → localOk s d = true → (op = 11 → dRoff d.w % 8 = 0) →
            (∀ z ∈ o.ops, z.code = none ∧ z.told = false) → (anyWaits o = true ∨ o.timer = none ∧ o.resend = []) →
            RunsSettled (.sqTransportEntry ctx q entry) s fun u => taken u ∧ u.qp (dQp d.w) = { o with ops := o.ops ++ [{ d := d, host := true }] } ∧
              smFind u.sq.trk no = smFind s.sq.trk no ∧ u.en = s.en)) ∧
      (∀ v h l a, op = 0x10 → fieldLE entry 0x13 1 ≤ 1 →
        let r := sqLaunch ctx entry
        r.dom < nDom s → s.domFenced r.dom = false → queued s r.dom < 64 → ctrlOn s = true → r.image % 8 = 0 → readImage (sqStart s k) r no 256 = (v, 0, h) →
        parseHeader h r no = some l → translate v .fetch (rRead + rExec) ctx no r.image (imageSize l.p) = .mem a → l.p.priv = false →
        syncRangeOwned v l.p = true → RunsSettled (.sqLaunchEntry ctx q entry) s fun u => taken u ∧ u.sq.lq = s.sq.lq ++ [l] ∧
          smFind u.sq.trk no = smFind s.sq.trk no) ∧
      (∀ c e, op = 0x20 → fieldLE entry 0x20 32 = 0 → CqOpen s cq c → s.ownsCq ctx cq = true →
        let w := fieldLE entry 0xC 4
        let ends (u : State) (code r : Nat) : Prop := taken u ∧ smFind u.sq.trk no = none ∧
          ∃ more, u.out = s.out ++ cqRing c (cqEntry (sqTag entry) code 4 k 0 (toLE 4 r)) :: more
        (5 < fieldLE entry 8 1 → RunsSettled (.sqControlEntry ctx q entry) s fun u => ends u 0x20 0 ∧ u.sg = s.sg) ∧
        (fieldLE entry 8 1 = 1 → fieldLE entry 9 1 = 4 → blkBusy s .win = false → w < 65536 → s.ownsWin ctx w = true →
          smFind s.sg.wins w = some e → (∀ r ∈ s.sg.recs, ∀ y ∈ r.waiters, ∀ i p, y ≠ .held i p) → (∀ r ∈ s.sy.reqs, r.pkt = none) →
          RunsSettled (.sqControlEntry ctx q entry) s fun u => ends u 0 0 ∧ Answered s u F.WIN_EVENT_SEQ F.WIN_EVENT_RESULT 0 ∧
            u.sg.segs = s.sg.segs ∧ ∃ e', smFind u.sg.wins w = some e' ∧ winGen e'.toNat = (winGen e.toNat + 1) % 256))) ∧
    (∀ entry r, x.held = some (entry, none) → sqRunning s k = true → workHeld s = false → smFind s.ho.frozen ctx = none →
      sqOpcode entry = 0x30 → fieldLE entry 8 1 < 64 →
      let n := 64 * ctx + fieldLE entry 8 1
      let buf := fieldLE entry 0x10 8
      let len := fieldLE entry 0x18 4
      fieldLE entry 0x20 32 = 0 → smFind s.tr.rqs n = some r → r.early = [] → (∀ w ∈ r.recvs, w.ssn ≠ r.next) → buf % 2048 = 0 → 0 < len → len ≤ 2 ^ 30 → r.recvs.length < 2 ^ r.log2 →
      RunsSettled (.sqReceiveEntry ctx q entry) s fun u => taken u ∧ u.sq = s.sq ∧ u.en = s.en ∧
        smFind u.tr.rqs n = some { r with next := r.next + 1, recvs := r.recvs ++ [{ ssn := r.next, buf := buf, len := len, tag := sqTag entry }] })

/-- Completion queues, the aperture, inboxes and hosts (R437, R439, R448, R449, R452, R453, R457, R463, R66). CQ_DB frees entries, and a waiting one is
written; with ARM it arms the queue; a queue that is not the context's, or too many entries, is counted in HOST_DB_BAD. The moderation timer sends the vector's
message, or sets its pending bit where it is masked, and disarms. An aperture access reads or writes the bytes at APER + offset. A consumed
inbox frame goes to the transport unit where it names this endpoint, and its credit to the peer. VF limits above R437's are ignored. A host link's
loss or a function level reset leaves its contexts in STATE 2, their queues disabled, and an idle one goes to STATE 1. -/
def Obligations.HostFunctions : Prop :=
  (∀ (s : State) (ctx n count : Nat) (c : Cq) (arm : Bool), s.pst = 3 → s.fnHeld ctx = false → ctxMapped s ctx = true → smFind s.ho.cqs n = some c →
    let freed := (count + 32768 - c.consumed % 32768) % 32768
    let c' : Cq := { c with consumed := c.consumed + freed }
    let level := c.written - (c.consumed + freed)
    let cmd : Instr := if arm then .cqDbArm ctx n count else .cqDbWrite ctx n count
    (s.ownsCq ctx n = false ∨ c.written - c.consumed < freed → Runs cmd s fun u => u.ho = s.ho ∧ Counted s u F.HOST_DB_BAD ∧ u.out = s.out) ∧
    (s.ownsCq ctx n = true → freed ≤ c.written - c.consumed →
      (c.waiting = [] → arm = false → Runs cmd s fun u =>
        smFind u.ho.cqs n = some c' ∧ u.out = s.out ∧ RegsBut s u [] ∧ CntBut s u [] ∧ MemSame s u) ∧
      (c.waiting = [] → arm = true → level < max 1 c.modCount → Runs cmd s fun u =>
        smFind u.ho.cqs n = some { c' with armed := true, since := 0 } ∧ u.out = s.out ∧ RegsBut s u [] ∧ CntBut s u [] ∧ MemSame s u) ∧
      (c.waiting = [] → arm = true → max 1 c.modCount ≤ level → s.fnHeld c.ctx = false →
        bit (s.reg (F.MSIX_TABLE c.ctx (4 * c.vector + 3)).off) 0 = false → Runs cmd s fun u =>
        smFind u.ho.cqs n = some { c' with armed := false, since := 0 } ∧ u.out = s.out ++ [.msix c.ctx c.vector] ∧
        Counted s u F.HOST_MSIX_SENT ∧ RegsBut s u [] ∧ MemSame s u) ∧
      (∀ e, c.waiting = [(e, none, none)] → 0 < freed → c.written = c.consumed + 2 ^ c.log2 → c.armed = false → arm = false →
        Runs cmd s fun u => u.out = s.out ++ [cqRing c e] ∧ smFind u.ho.cqs n = some { c' with waiting := [], written := c.written + 1 } ∧ MemSame s u)) ∧
    (c.armed = true → c.since ≠ 0 → s.fnHeld c.ctx = false →
      let masked := bit (s.reg (F.MSIX_TABLE c.ctx (4 * c.vector + 3)).off) 0
      Runs (.cqModerationTimer n) s fun u => smFind u.ho.cqs n = some { c with armed := false } ∧ MemSame s u ∧
        u.out = (if masked then s.out else s.out ++ [.msix c.ctx c.vector]) ∧
        (masked = true → bit (u.reg (F.MSIX_PBA c.ctx (c.vector / 32)).off) (c.vector % 32) = true) ∧
        (masked = false → RegsBut s u []))) ∧
  (∀ (s : State) (ctx off : Nat), s.pst = 3 → ctx < 256 → s.fnHeld ctx = false →
    (∀ len a pa, aperture s ctx off len = some a → OneTile s .host rRead ctx s.sq.opNo a len pa →
      RunsSettled (.hostApertureRead ctx off len) s fun u => u.out = s.out ++ [.readData ctx (s.bytes pa len)] ∧ MemSame s u) ∧
    (∀ len, aperture s ctx off len = none → Runs (.hostApertureRead ctx off len) s fun u => u = s.emit (.abortRead ctx off len)) ∧
    (∀ data a pa, aperture s ctx off data.length = some a → OneTile s .host rWrite ctx s.sq.opNo a data.length pa →
      RunsSettled (.hostApertureWrite ctx off data) s fun u => Stored s u pa data ∧ u.out = s.out) ∧
    (∀ data, aperture s ctx off data.length = none → Runs (.hostApertureWrite ctx off data) s fun u => Counted s u F.HOST_BAR_REFUSED ∧
      u.out = s.out ∧ MemSame s u)) ∧
  (∀ (s : State) (h i count k : Nat) (len : Nat) (p : Packet), s.pst = 3 → h < 4 → i < 8 → s.hostUp h = true → inboxPeer s h i = some k →
    let got := smGet s.ho.inboxes (inboxKey h i) (0, 0)
    let n := (count % 2 ^ 32 + 2 ^ 32 - got.1) % 2 ^ 32
    (64 < n → ∀ fs, Runs (.peerInboxDoorbell h i count fs) s fun u => Counted s u F.HOST_PEER_BAD ∧ u.tr = s.tr ∧ u.ho = s.ho ∧ u.out = s.out) ∧
    (n = 1 → Runs (.peerInboxDoorbell h i count [(len, p)]) s fun u => u.out = s.out ++ [.busWrite h (peerCreditAddr s k) (toLE 4 ((got.1 + 1) % 2 ^ 32))] ∧
      smGet u.ho.inboxes (inboxKey h i) (0, 0) = ((got.1 + 1) % 2 ^ 32, got.2) ∧ MemSame s u ∧ RegsBut s u [] ∧ Counted s u F.HOST_PEER_FRAMES_RX ∧
      (8338 < len → Counted s u F.HOST_PEER_BAD ∧ u.tr = s.tr) ∧
      (len ≤ 8338 → p.dstEp = s.get F.TRN_ID_ENDPOINT → u.tr = { s.tr with arrivals := s.tr.arrivals ++ [(.peer k, p)] })) ∧
    (s.tr.waitRoute = [] → Runs (.peerOutCredit h i count) s fun u => smGet u.ho.inboxes (inboxKey h i) (0, 0) = (got.1, count % 2 ^ 32) ∧
      u.tr = s.tr ∧ u.out = s.out ∧ RegsBut s u [] ∧ MemSame s u)) ∧
  (∀ (s : State) (v : Word32), s.pst = 3 → s.fnHeld 0 = false →
    let n (w j : Nat) : Nat := bits w (8 * j) 8
    let bad := (∃ j, j < 4 ∧ (128 < n v.toNat j ∨ (n v.toNat j ≠ n (s.reg F.HOST_VF_LIMIT.off) j ∧ bit s.ho.vfEnable j = true))) ∨
      255 < n v.toNat 0 + n v.toNat 1 + n v.toNat 2 + n v.toNat 3
    (bad → Runs (.hostVfLimitWrite v) s fun u => RegsBut s u [] ∧ Counted s u { F.BRUP_IGN_WRITES with wid := 16 } ∧ MemSame s u) ∧
    (¬ bad → Runs (.hostVfLimitWrite v) s fun u => u.reg F.HOST_VF_LIMIT.off = v.toNat ∧ RegsBut s u [F.HOST_VF_LIMIT.off] ∧ CntBut s u [] ∧ MemSame s u)) ∧
  (∀ (s : State) (h : Nat), s.pst = 3 → h < 4 →
    let seq (u : State) : Prop := u.get (F.HOST_PORT_STATUS_SEQ h) = seqNext (s.get (F.HOST_PORT_STATUS_SEQ h))
    (∀ rate width, bit s.pw.trained h = true → bit s.pw.perst h = true → s.hostUp h = false → Runs (.hostLinkUp h rate width) s fun u =>
      u.hostUp h = true ∧ seq u ∧ u.get (F.HOST_PORT_STATUS_RATE h) = rate % 4 ∧ u.get (F.HOST_PORT_STATUS_WIDTH h) = width % 16 ∧ MemSame s u ∧
      RegsBut s u [(F.HOST_PORT_STATUS_LINK h).off] ∧ CntBut s u []) ∧
    (s.hostUp h = true → RunsSettled (.hostLinkDown h) s fun u => u.hostUp h = false ∧ seq u ∧ ∀ c ∈ portCtxs s h, u.ctxState c = 2)) ∧
  (∀ (s : State) (ctx : Nat), s.pst = 3 → ctxMapped s ctx = true →
    (RunsSettled (.functionLevelReset ctx) s fun u => u.ctxState ctx = 2 ∧ Counted s u F.HOST_CTX_RESETS ∧
      ∀ q, q < 15 → sqEnabled u (sqKey ctx q) = false) ∧
    (s.ctxState ctx = 2 → ctxIdle s ctx = true → Runs (.contextDrainComplete ctx) s fun u => u.ctxState ctx = 1 ∧ MemSame s u ∧ CntBut s u [] ∧
      RegsBut s u [(F.HOST_CTX_MAP_STATE ctx).off]))

/-! ### Tenants (ch. 16), keys and firmware (ch. 17), the management bus -/

/-- QUOTA_CMD and CTXM_CMD (R454, R455, R458–R461, R472). A quota set that passes the checks records the request; its decreases take effect at once, and where it
increases nothing it completes with RESULT 0, else it waits for the boundary; a failing check gives 1 or 2, a set that waits 3. A freeze and a thaw are mode
changes, armed at the next boundary; a freeze completes in STATE 3 once nothing of the context runs. A save writes the sealed blob at CTXM_ADDR and its
length; a restore whose blob passes steps 1 to 4 waits for its admission; a discard leaves STATE 1; a repoint changes REMOTE_EP alone. -/
def Obligations.Tenants : Prop :=
  (∀ (s : State) (ctx : Nat), s.pst = 3 → s.fnHeld 0 = false → ctrlOn s = true → ctx < 256 →
    let new := s.getWords (F.QUOTA_ENTRY 0).off 16
    let old := s.quota ctx
    let ev (u : State) (r : Nat) : Prop := Answered s u F.QUOTA_EVENT_SEQ F.QUOTA_EVENT_RESULT r ∧ MemSame s u
    (s.ho.quotaPend.isSome = true → ∀ c, c = .quotaSet ctx ∨ c = .quotaReadRequested ctx ∨ c = .quotaReadEffective ctx →
      Runs c s fun u => ev u 3 ∧ u.ho = s.ho) ∧
    (s.ho.quotaPend = none →
      (quotaFieldsOk s new = false → Runs (.quotaSet ctx) s fun u => ev u 1 ∧ u.ho = s.ho) ∧
      (quotaFieldsOk s new = true → quotaMoves old new = true ∨ quotaOverlaps s ctx new = true → Runs (.quotaSet ctx) s fun u => ev u 2 ∧ u.ho = s.ho) ∧
      (quotaFieldsOk s new = true → quotaMoves old new = false → quotaOverlaps s ctx new = false → Runs (.quotaSet ctx) s fun u =>
        smGet u.ho.quotaReq ctx 0#512 = BitVec.ofNat 512 new ∧ smGet u.ho.quotaEff ctx 0#512 = BitVec.ofNat 512 (quotaLower old new) ∧
        (∀ c, c ≠ ctx → u.quota c = s.quota c) ∧ u.ho.cqs = s.ho.cqs ∧ MemSame s u ∧
        (quotaLower old new = new → ev u 0 ∧ u.ho.quotaPend = none) ∧
        (quotaLower old new ≠ new → u.ho.quotaPend = some ctx ∧ u.get F.QUOTA_EVENT_SEQ = s.get F.QUOTA_EVENT_SEQ)) ∧
      Runs (.quotaReadRequested ctx) s (fun u => ev u 0 ∧ u.ho = s.ho ∧
        u.getWords (F.QUOTA_ENTRY 0).off 16 = (smGet s.ho.quotaReq ctx 0#512).toNat) ∧
      Runs (.quotaReadEffective ctx) s fun u => ev u 0 ∧ u.ho = s.ho ∧
        u.getWords (F.QUOTA_ENTRY 0).off 16 = (smGet s.ho.quotaEff ctx 0#512).toNat)) ∧
  (∀ (s : State) (ctx : Nat), s.pst = 3 → s.fnHeld 0 = false → 0 < ctx → ctx < 256 → ctxmPending s = false →
    let ev (u : State) (r : Nat) : Prop := Answered s u F.CTXM_EVENT_SEQ F.CTXM_EVENT_RESULT r
    let asks (u : State) (k : ModeKind) : Prop := u = startChange s k (s.tk.count + 1)
    (s.ctxState ctx ≠ 1 → Runs (.ctxmFreeze ctx) s (fun u => ev u 2 ∧ u.tk = s.tk) ∧ Runs (.ctxmRestore ctx) s fun u => ev u 2 ∧ u.ho = s.ho) ∧
    (s.ctxState ctx = 1 → modePending s = true → Runs (.ctxmFreeze ctx) s fun u => ev u 5 ∧ u.tk = s.tk) ∧
    (s.ctxState ctx = 1 → modePending s = false → Runs (.ctxmFreeze ctx) s fun u => asks u (.freeze ctx)) ∧
    (isFrozen s ctx = false → ∀ c, c = .ctxmSave ctx ∨ c = .ctxmThaw ctx ∨ c = .ctxmDiscard ctx → Runs c s fun u => ev u 2 ∧ u.ho = s.ho ∧ MemSame s u) ∧
    (∀ z, smFind s.ho.frozen ctx = some z → z.done = true →
      (keysReady s ctx = true → slotsFor s z.threads = true → modePending s = false → Runs (.ctxmThaw ctx) s fun u => asks u (.thaw ctx)) ∧
      (keysReady s ctx = false → Runs (.ctxmThaw ctx) s fun u => ev u 1 ∧ u.ho = s.ho ∧ u.tk = s.tk) ∧
      RunsSettled (.ctxmDiscard ctx) s (fun u => ev u 0 ∧ u.ctxState ctx = 1 ∧ smFind u.ho.frozen ctx = none) ∧
      (∀ key w, let slot := (Config.freeValue s.free).toNat % 8
        keySlot s 2 slot = some key →
        let v := { s with free := s.free + 1 }
        let body := blobBody (ctxImage v ctx z)
        let n := s.ho.blobs + 1
        let h := blobHeader s ctx body.length n slot
        let ct := gcmXor (blobKey key) (blobNonce s n) 0 body
        let sealed := h ++ ct ++ gcmTag (blobKey key) (blobNonce s n) h ct
        let blob := sealed ++ slice (Config.identitySign sealed) 0 17088
        (s.reg F.CTXM_LEN.off < blob.length → RunsSettled (.ctxmSave ctx) s fun u => ev u 4 ∧ u.ho = s.ho ∧ MemSame s u) ∧
        (blob.length ≤ s.reg F.CTXM_LEN.off → writeOp v .ls 116 0 s.sq.opNo (ctxmAddr s) blob = (w, .ok []) →
          RunsSettled (.ctxmSave ctx) s fun u => Answered w u F.CTXM_EVENT_SEQ F.CTXM_EVENT_RESULT 0 ∧ u.reg F.CTXM_BLOB_LEN.off = blob.length ∧
            u.ho = { w.ho with blobs := n } ∧ MemSame w u))) ∧
    (∀ v blob, s.ctxState ctx = 1 → readBlob s = (v, .ok blob) →
      let refused (u : State) (c : Nat) : Prop := ev u 1 ∧ u.get F.CTXM_EVENT_CODE = c ∧ u.ho = s.ho ∧ MemSame s u
      (v.regs = s.regs → v.ho = s.ho → RunsSettled (.ctxmRestore ctx) s fun u =>
        match openBlob v blob with
        | .error c => refused u c
        | .ok m => if numbersFree v ctx m = false then refused u 0x10 else ∀ w r, readRemap v = (w, some r) → w.regs = s.regs → w.ho = s.ho →
            if (placeSegs w ctx r m.segs).isSome = false then refused u 0x20
            else u.get F.CTXM_EVENT_SEQ = s.get F.CTXM_EVENT_SEQ ∧ MemSame s u ∧ ∃ m', u.ho.restoring = some (ctx, m') ∧
              m' = { m with segs := m'.segs } ∧ m'.segs.length = m.segs.length)) ∧
    (∀ n, s.ownsQp ctx n = true → qpCtx (s.qp n).e.toNat = ctx → (s.qp n).st = 3 ∨ (s.qp n).st = 5 → Runs (.ctxmRepoint ctx n) s fun u => ev u 0 ∧
      (∃ e, u.qp n = { s.qp n with e := e } ∧ qpRemoteEp e.toNat = s.get F.CTXM_EP_EP ∧
        ∀ i, i < 512 → (i < 32 ∨ 52 ≤ i) → e.getLsbD i = (s.qp n).e.getLsbD i) ∧
      (∀ j, j ≠ n → u.qp j = s.qp j) ∧ MemSame s u)) ∧
  (∀ (s : State) (ctx : Nat) (z : Frozen), s.pst = 3 → smFind s.ho.frozen ctx = some z → s.ho.freezing = some ctx → frozenIdle s ctx = true →
    Runs (.freezeComplete ctx) s fun u => smFind u.ho.frozen ctx = some { z with done := true } ∧ u.ho.freezing = none ∧ u.ctxState ctx = 3 ∧
      Answered s u F.CTXM_EVENT_SEQ F.CTXM_EVENT_RESULT 0 ∧ u.sq = s.sq ∧ u.tr = s.tr ∧ MemSame s u)

/-- Keys and firmware (R470, R471, R486–R496). A key or a slot is set, cleared or read with its RESULT, 5 where the key is in use; a read of a valid key
shows its USE and its check value. A session copies the active set; an image that passes the nine steps replaces its component in the inactive bank; a cancel ends the
session; LOCKED is set where no image names an extension. An activation holds new work, commits as a mode change once the tracker is empty, and fails with 13
when its time is up; a set that has loaded is active, its settings kept or, where their format is newer than what it knows, reset with RESULT 16; one whose component fails leaves the previous set with RESULT 15 and source 15. A relayed
package is checked and sent to every child that takes it. -/
def Obligations.KeysAndFirmware : Prop :=
  (∀ (s : State) (ctx idx : Nat), s.pst = 3 → s.fnHeld 0 = false →
    let k := 256 * ctx + idx
    let ev (u : State) (r : Nat) : Prop := Answered s u F.CE_KEY_EVENT_SEQ F.CE_KEY_EVENT_RESULT r ∧ MemSame s u ∧
      ∀ j, j ≠ k → smFind u.ci.keys j = smFind s.ci.keys j
    let kcvOf (u : State) : Nat := u.get64 F.CE_KEY_KCV_LO F.CE_KEY_KCV_HI
    (256 ≤ ctx ∨ 256 ≤ idx → ∀ c, c = .ceKeyClear ctx idx ∨ c = .ceKeyRead ctx idx ∨ (∃ b, c = .ceKeySet ctx idx b) →
      Runs c s fun u => ev u 1 ∧ u.ci = s.ci) ∧
    (ctx < 256 → idx < 256 →
      (ceKeyUsed s ctx idx = true → ∀ c, c = .ceKeyClear ctx idx ∨ (∃ b, c = .ceKeySet ctx idx b) → Runs c s fun u => ev u 5 ∧ u.ci = s.ci) ∧
      (ceKeyUsed s ctx idx = false →
        (∀ b, Runs (.ceKeySet ctx idx b) s fun u => ev u 0 ∧ smFind u.ci.keys k = some (b, ceKeyImage s) ∧ kcvOf u = kcv (ceKeyImage s)) ∧
        Runs (.ceKeyClear ctx idx) s fun u => ev u 0 ∧ smFind u.ci.keys k = none) ∧
      (Runs (.ceKeyRead ctx idx) s fun u => ev u 0 ∧ u.ci = s.ci ∧ (u.get F.CE_KEY_EVENT_VALID = 1 ↔ (smFind s.ci.keys k).isSome = true) ∧
        ∀ b x, smFind s.ci.keys k = some (b, x) → kcvOf u = kcv x ∧ (u.get F.CE_KEY_EVENT_USE = 1 ↔ b = true)))) ∧
  (∀ (s : State) (kind slot : Nat), s.pst = 3 → s.fnHeld 0 = false →
    let k := 16 * kind + slot
    let bs := slice (toLE 64 (s.getWords (F.KEY_SLOT_DATA 0).off 16)) 0 (if kind = 0 then 64 else 32)
    let ev (u : State) (r : Nat) : Prop := Answered s u F.KEY_SLOT_EVENT_SEQ F.KEY_SLOT_EVENT_RESULT r ∧ MemSame s u ∧
      (∀ j, j ≠ k → smFind u.ci.slots j = smFind s.ci.slots j) ∧ altBank u = altBank s
    (slotCount kind ≤ slot → ∀ c, c = .keySlotSet kind slot ∨ c = .keySlotClear kind slot → Runs c s fun u => ev u 1 ∧ u.ci = s.ci) ∧
    (slot < slotCount kind →
      Runs (.keySlotSet kind slot) s (fun u => ev u 0 ∧ smFind u.ci.slots k = some bs ∧ (kind < 2 → smFind (actBank u).settings k = some bs)) ∧
      Runs (.keySlotClear kind slot) s fun u => ev u 0 ∧ smFind u.ci.slots k = none ∧ (kind < 2 → smFind (actBank u).settings k = none))) ∧
  (∀ s : State, s.pst = 3 → s.fnHeld 0 = false → ctrlOn s = true →
    let evOf (t u : State) (r : Nat) : Prop := Answered t u F.FW_EVENT_SEQ F.FW_EVENT_RESULT r
    let ev := evOf s
    let silent (u : State) : Prop := u.get F.FW_EVENT_SEQ = s.get F.FW_EVENT_SEQ
    (fwActivating s = true → ∀ c, c = .fwOpenSession ∨ (∃ w, c = .fwStage w) ∨ c = .fwCancel ∨ c = .fwRelay → Runs c s fun u => ev u 11 ∧ u.ci = s.ci ∧ MemSame s u) ∧
    (fwActivating s = false →
      (fwSession s = true → Runs .fwOpenSession s (fun u => ev u 10 ∧ u.ci = s.ci) ∧
        Runs .fwCancel s fun u => ev u 0 ∧ fwSession u = false ∧ u.ci = { s.ci with staged := [] } ∧ MemSame s u) ∧
      (fwSession s = false → Runs .fwCancel s (fun u => ev u 10 ∧ u.ci = s.ci) ∧
        Runs .fwOpenSession s fun u => ev u 0 ∧ fwSession u = true ∧ u.ci.staged = [] ∧ actBank u = actBank s ∧
          (altBank u).comps = (actBank s).comps ∧ MemSame s u) ∧
      (∀ v b written, fwRead s (fwAddr s) (s.reg F.FW_LEN.off) = (v, some b) →
        let (r, c) := fwJudge v b written
        RunsSettled (.fwStage written) s fun u => evOf v u r ∧ u.get F.FW_EVENT_COMP = c ∧ MemSame v u ∧
          if r = 0 then actBank u = actBank v ∧ (altBank u).comps = (altBank v).comps.set c (fwComponent b) ∧
            u.ci.staged = v.ci.staged ++ [c] ∧ u.get F.FW_STATUS_LAST_STAGED = c
          else Counted v u F.FW_REFUSED ∧ u.ci = v.ci) ∧
      (∀ v w h p, fwRead s (fwAddr s) 64 = (v, some h) → fwRead v (fwAddr s) (relayLen h) = (w, some p) → w.get F.FW_EVENT_SEQ = s.get F.FW_EVENT_SEQ →
        let img := p.drop (64 + 4 * relayCount p)
        w.flag F.FW_CTL_AUTO_STAGE = false → RunsSettled .fwRelay s fun u => u.ci = w.ci ∧ MemSame w u ∧
          if relayOk p = false then evOf w u 1 ∧ Counted w u F.FW_RELAY_BAD ∧ u.tr = w.tr
          else if fwCheck4 w img = 0 then evOf w u 0 ∧ ∀ k, (relayTargets w p).length = k + 1 → Counted w u F.FW_RELAY_FWD (k + 1)
          else evOf w u (fwCheck4 w img) ∧ u.tr = w.tr)) ∧
    (let t := s.count F.FW_RELAY_RX
      let a := s.get64 F.FW_RELAY_BUF_LO F.FW_RELAY_BUF_HI
      ∀ v w h p written, fwRead t a 64 = (v, some h) → fwRead v a (relayLen h) = (w, some p) →
        let img := p.drop (64 + 4 * relayCount p)
        w.flag F.FW_CTL_AUTO_STAGE = false → RunsSettled (.relayPackageArrival written) s fun u => u.ci = w.ci ∧ MemSame w u ∧
          if relayOk p = false then Counted w u F.FW_RELAY_BAD ∧ u.tr = w.tr
          else if fwCheck4 w img = 0 then ∀ k, (relayTargets w p).length = k + 1 → Counted w u F.FW_RELAY_FWD (k + 1)
          else evOf w u (fwCheck4 w img) ∧ u.tr = w.tr) ∧
    (∀ confirm,
      (confirm ≠ 0xC1A5 → Runs (.fwLockClass confirm) s fun u => u = s) ∧
      (confirm = 0xC1A5 → (∀ c ∈ (actBank s).comps ++ (altBank s).comps, c.ext = 0) → Runs (.fwLockClass confirm) s fun u => ev u 0 ∧
        u.flag F.COMPAT_CLASS_LOCKED = true ∧ u.ci = s.ci ∧ MemSame s u) ∧
      (confirm = 0xC1A5 → (∃ c ∈ (actBank s).comps ++ (altBank s).comps, c.ext ≠ 0) → Runs (.fwLockClass confirm) s fun u => ev u 6 ∧
        u.reg F.COMPAT_CLASS.off = s.reg F.COMPAT_CLASS.off)) ∧
    (let able := fwSession s = true ∧ (altBank s).comps ≠ (actBank s).comps ∧ anyResident s = false;
      (¬ able → Runs .fwActivate s fun u => ev u 10 ∧ u.pw = s.pw) ∧
      (able → modePending s = true → Runs .fwActivate s fun u => ev u 12 ∧ u.pw = s.pw) ∧
      (able → modePending s = false → Runs .fwActivate s fun u => silent u ∧ fwActivating u = true ∧ MemSame s u ∧
        u.pw = { s.pw with drain := .fw (s.tk.count + max 1 (s.get F.FW_CTL_DRAIN_TICKS)) })) ∧
    (∀ dl, s.pw.drain = .fw dl →
      (trackerEmpty s = true → Runs .fwActivationDrainDone s fun u =>
        u = startChange { s with pw := { s.pw with drain := .none } } .fw (s.tk.count + 1)) ∧
      (trackerEmpty s = false → dl ≤ s.tk.count → s.pw.launches = [] → Runs .fwActivationDrainTimeout s fun u => ev u 13 ∧ fwActivating u = false ∧
        u.pw = { s.pw with drain := .none } ∧ MemSame s u)) ∧
    (s.ci.load = .loading →
      (RunsSettled (.fwLoadComplete none) s fun u => u.ci.load = .loaded ∧ fwSession u = false ∧ (actBank u).comps = (altBank s).comps ∧
        (altBank u).comps = (actBank s).comps ∧ u.flag F.BRUP_PROGRESS_FW_BANK = !s.flag F.BRUP_PROGRESS_FW_BANK ∧ MemSame s u) ∧
      ((actBank s).fmt ≤ ((actBank s).comps.getD 2 {}).settingsFmt → ∀ c, s.pw.launches = [] → RunsSettled (.fwLoadComplete (some c)) s fun u => u.ci.load = .none ∧ fwActivating u = false ∧ fwSession u = false ∧
        ev u 15 ∧ u.fc.raised = s.fc.raised ++ [(15, c % 4, 0)] ∧ (actBank u).comps = (actBank s).comps ∧ altBank u = altBank s ∧ MemSame s u) ∧
      (((altBank s).comps.getD 2 {}).settingsFmt < (actBank s).fmt → RunsSettled (.fwLoadComplete none) s fun u => ev u 16 ∧ u.get F.FW_EVENT_COMP = 2 ∧
        u.flag F.FW_STATUS_SETTINGS_RESET = true ∧ (actBank u).settings = [] ∧ ∀ k, k < 32 → smFind u.ci.slots k = none)))

/-- The management bus (R48, R479–R483, log entry 11), while the target answers. It takes a dynamic address by its static address 3Ah or by assignment, answers at
that address alone, and keeps and reports an EID; the base commands answer with
what the spec lists. An update passes its states in order, 0 idle, 1 learn, 2 ready, 3 download, 4 verify, 5 apply: it opens a session, collects the
component's bytes, stages it, and activates. GET_CERT and READ_QUOTE answer with the bytes asked for, in pieces of 1,024 B at most, or with status 2; a quote is
taken over the nonce, one at a time; SET_POWER acts as a write of PWR_CMD. -/
def Obligations.ManagementBus : Prop :=
  ∀ s : State, i3cOn s = true →
    let tells (u : State) (bs : List Byte) : Prop := u.out = s.out ++ [.i3c bs]
    let only (u : State) (bs : List Byte) : Prop := u = s.emit (.i3c bs)
    let vend (cmd st : Nat) (bs : List Byte) : List Byte := 0xC0#8 :: 0xA4#8 :: (toLE 1 cmd ++ toLE 1 st ++ bs)
    let step (c : Instr) (p : Nat) (bs : List Byte) : Prop := Runs c s fun u => u = (setPldm s p).emit (.i3c bs)
    (∀ a, Runs (.setdasa 0x3A a) s (fun u => u = { s with ci := { s.ci with dynAddr := some (a % 128) } }) ∧
      (∀ t, t ≠ 0x3A → Runs (.setdasa t a) s fun u => u = s) ∧
      Runs (.entdaa a) s fun u => u = { s with ci := { s.ci with dynAddr := some (s.ci.dynAddr.getD (a % 128)) } }) ∧
    (s.ci.dynAddr = none → Runs .getState s (fun u => u = s) ∧ Runs .getstatus s (fun u => u = s) ∧ Runs .getEndpointId s fun u => u = s) ∧
    (s.ci.dynAddr.isSome = true →
    (∀ a, Runs (.setEndpointId a) s fun u => u.ci = { s.ci with eid := a % 256 } ∧ tells u (0#8 :: toLE 1 a) ∧ RegsBut s u [] ∧ MemSame s u) ∧
    Runs .getEndpointId s (fun u => only u (0#8 :: toLE 1 s.ci.eid)) ∧
    (∀ n, (n = 0 ∨ n = 1 ∨ n = 0x7E ∨ n = 0xFF → Runs (.getMctpVersionSupport n) s fun u => ∃ v : List Byte, v.length = 4 ∧
        tells u (0#8 :: 1#8 :: v) ∧ u.ci = s.ci ∧ RegsBut s u []) ∧
      (¬ (n = 0 ∨ n = 1 ∨ n = 0x7E ∨ n = 0xFF) → Runs (.getMctpVersionSupport n) s fun u => ∃ b, tells u [b] ∧ u.ci = s.ci ∧ RegsBut s u [])) ∧
    Runs .getMessageTypeSupport s (fun u => only u [0#8, 3#8, 0#8, 1#8, 0x7E#8]) ∧
    Runs .gettid s (fun u => ∃ b, tells u [0#8, b] ∧ u.ci = s.ci ∧ RegsBut s u []) ∧
    Runs .getpldmtypes s (fun u => only u [0#8, 0#8, 5#8]) ∧
    Runs (.getpldmcommands 0) s (fun u => only u [0#8, 2#8, 4#8, 5#8]) ∧
    Runs (.getpldmcommands 5) s (fun u => only u [0#8, 0x01#8, 0x02#8, 0x10#8, 0x13#8, 0x14#8, 0x15#8, 0x16#8, 0x17#8, 0x18#8, 0x1A#8, 0x1B#8, 0x1C#8,
      0x1D#8]) ∧
    Runs .querydeviceidentifiers s (fun u => only u (0#8 :: (toLE 2 0xC0A4 ++ toLE 2 (s.get F.ID_DEVICE_DEVICE)))) ∧
    Runs .getfirmwareparameters s (fun u => ∃ bs : List Byte, bs.length = 48 ∧ only u (0#8 :: bs) ∧ ∀ c, c < 4 →
      fieldLE bs (12 * c) 2 = 0xFFFF ∧ fieldLE bs (12 * c + 2) 2 = c ∧ fieldLE bs (12 * c + 4) 4 = s.reg (F.FW_VER c).off % 2 ^ 32 ∧
      fieldLE bs (12 * c + 8) 4 = s.reg (F.FW_STAGED_VER c).off % 2 ^ 32) ∧
    Runs .getstatus s (fun u => only u (0#8 :: toLE 1 s.ci.pldm)) ∧
    (s.pst = 3 → ctrlOn s = true →
      (s.ci.pldm = 0 → fwActivating s = false → fwSession s = false → Runs .requestupdate s fun u => u.ci.pldm = 1 ∧ fwSession u = true ∧ tells u [0#8] ∧
        (altBank u).comps = (actBank s).comps ∧ MemSame s u) ∧
      (∀ comp, comp < 4 →
        (s.ci.pldm = 1 ∨ s.ci.pldm = 2 → step (.passcomponenttable comp) 2 [0#8]) ∧
        (s.ci.pldm = 2 → Runs (.updatecomponent comp) s fun u => u = ({ s with ci := { s.ci with pldm := 3, pldmComp := comp, pldmData := [] } }).emit
          (.i3c [0#8]))) ∧
      (∀ off (data : List Byte), s.ci.pldm = 3 → data.length ≤ 1024 → Runs (.requestfirmwaredata off data) s fun u =>
        tells u (0x15#8 :: (toLE 4 off ++ toLE 4 data.length)) ∧ u.ci.pldm = 3 ∧ RegsBut s u [] ∧ MemSame s u ∧
        ∀ j, u.ci.pldmData.getD j 0#8 = if off ≤ j ∧ j < off + data.length then data.getD (j - off) 0#8 else s.ci.pldmData.getD j 0#8) ∧
      (s.ci.pldm = 3 → step (.transfercomplete true) 4 [0x16#8, 0#8] ∧
        Runs (.transfercomplete false) s fun u => u.ci = { s.ci with pldm := 2 } ∧ ∃ b, tells u [0x16#8, b]) ∧
      (s.ci.pldm = 4 →
        let ok := fwCheck4 s s.ci.pldmData = 0 ∧ fwComp s.ci.pldmData = s.ci.pldmComp
        Runs .verifycomplete s fun u => u.ci = { s.ci with pldm := if ok then 5 else 2 } ∧ MemSame s u ∧ RegsBut s u [] ∧
          ∃ b, tells u [0x17#8, b] ∧ (ok → b = 0#8)) ∧
      (s.ci.pldm = 5 → ∀ written, Runs (.applycomplete written) s fun u => u.ci.pldm = 2 ∧ MemSame s u ∧
        let (r, c) := fwJudge s s.ci.pldmData written
        Answered s u F.FW_EVENT_SEQ F.FW_EVENT_RESULT r ∧ ∃ b, tells u [0x18#8, b] ∧
          (r = 0 → b = 0#8 ∧ (altBank u).comps = (altBank s).comps.set c (fwComponent s.ci.pldmData))) ∧
      (s.ci.pldm = 2 → fwSession s = true → (altBank s).comps ≠ (actBank s).comps → anyResident s = false → modePending s = false →
        Runs .activatefirmware s fun u => u.ci.pldm = 0 ∧ tells u [0#8] ∧ fwActivating u = true ∧
          u.pw = { s.pw with drain := .fw (s.tk.count + max 1 (s.get F.FW_CTL_DRAIN_TICKS)) }) ∧
      (3 ≤ s.ci.pldm → Runs .cancelupdatecomponent s fun u => u = ({ s with ci := { s.ci with pldm := 2, pldmData := [] } }).emit (.i3c [0#8])) ∧
      (1 ≤ s.ci.pldm → fwActivating s = false → fwSession s = true → Runs .cancelupdate s fun u => u.ci.pldm = 0 ∧ fwSession u = false ∧ tells u [0#8] ∧
        MemSame s u)) ∧
    (∀ off len, Runs (.getCert off len) s fun u => only u (if len ≤ 1024 ∧ off + len ≤ 29920
      then vend 1 0 (slice ((certificate s).drop off) 0 len) else vend 1 2 [])) ∧
    (s.pst = 3 ∨ s.pst = 4 →
      (s.ci.quoting = none →
        (∀ nonce, Runs (.getQuote nonce) s fun u => u = ({ s with ci := { s.ci with quoting := some (slice nonce 0 32) } }).emit (.i3c (vend 2 0 []))) ∧
        (∀ q off len, s.ci.quote = some q → Runs (.readQuote off len) s fun u => only u (if len ≤ 1024 ∧ off + len ≤ 17344
          then vend 3 0 (slice (q.drop off) 0 len) else vend 3 2 []))) ∧
      (∀ nonce, s.ci.quoting = some nonce →
        (∀ x, Runs (.getQuote x) s fun u => only u (vend 2 1 [])) ∧
        let body := quoteBody s nonce
        Runs .quoteComplete s fun u =>
          u = { s with ci := { s.ci with quoting := none, quote := some (body ++ slice (Config.identitySign body) 0 17088) } }) ∧
      (∀ op flags ticks,
        (op ≠ 1 → op ≠ 2 → Runs (.setPower op flags ticks) s fun u => only u (vend 5 2 [])) ∧
        (op = 1 → s.pst = 3 → s.ci.quoting = none → anyResident s = false → modePending s = false → Runs (.setPower op flags ticks) s fun u =>
          tells u (vend 5 0 []) ∧ u.get F.PWR_CMD_OPTICS_OFF = flags % 2 ∧ u.get F.PWR_CMD_WAKE_DB = flags / 2 % 2 ∧
          u.pw = { s.pw with drain := .rest (s.tk.count + max 1 (ticks % 2 ^ 16)) } ∧ MemSame s u))) ∧
    Runs .getState s (fun u => only u (vend 4 0 (toLE 4 (s.reg F.BRUP_PROGRESS.off) ++ toLE 4 (s.reg F.PWR_STATE.off) ++ toLE 4 (s.reg F.FCOL_STATUS_LO.off)))) ∧
    Runs .getPowerEvent s fun u => only u (vend 6 0 (toLE 4 (s.reg F.PWR_EVENT.off) ++ toLE 4 (s.reg F.PWR_STATE.off))))

/-! ### The fault collector, snapshots, register writes (ch. 08, 18, 19) -/

/-- The collector (R498–R515). An event sets ACTIVE and its status bit, its unit and DETAIL, advances SEQ and is counted; its source's reaction is then
applied: a fence of the unit it names, or Safe with the source as its cause; the first mismatch of an engine's self-check only sets STRIKE. A quiet
period and a clear with the event's number clear it. FCOL_FORCE raises what it names with FORCED; an unfence that passes its checks waits for the boundary,
where the unit rejoins, a domain after its refill. -/
def Obligations.FaultCollector : Prop :=
  ∀ (s : State) (src unit : Nat), s.pst = 3 →
    let act (u : State) (n : Nat) (forced : Bool) : Prop := u.flag (F.FCOL_EVT_ACTIVE src) = true ∧ u.get (F.FCOL_EVT_UNIT src) = n % 256 ∧
      u.get (F.FCOL_EVT_SEQ src) = seqNext (s.get (F.FCOL_EVT_SEQ src)) ∧ u.flag (F.FCOL_EVT_FORCED src) = forced ∧ Counted s u (F.FCOL_COUNT_EVENTS src) ∧
      bit (if src < 32 then u.reg F.FCOL_STATUS_LO.off else u.reg F.FCOL_STATUS_HI.off) (src % 32) = true
    let cleared (u : State) : Prop := u.flag (F.FCOL_EVT_ACTIVE src) = false ∧ u.get (F.FCOL_EVT_SEQ src) = 0 ∧
      bit (if src < 32 then u.reg F.FCOL_STATUS_LO.off else u.reg F.FCOL_STATUS_HI.off) (src % 32) = false ∧ MemSame s u
    let ev (u : State) (r : Nat) : Prop := Answered s u F.FCOL_CMD_EVENT_SEQ F.FCOL_CMD_EVENT_RESULT r
    let how := s.get (F.FCOL_CFG_REACTION src)
    (∀ d, eventValid s src unit = true → src ≠ 16 → src ≠ 17 →
      Runs (.faultEvent src unit d) s fun u => act u (if hasUnit src then unit else 0) false ∧ u.get (F.FCOL_EVT_DETAIL src) = detailOf src d ∧
        (src ≤ 1 ∨ (how = 2 ∧ src ≠ 13) → u.pst = 5 ∧ u.get F.FCOL_SAFE_CAUSE_SOURCE = src ∧ u.flag F.FCOL_SAFE_CAUSE_VALID = true ∧
          .safeN true ∈ u.out) ∧
        (2 ≤ src → src ≠ 13 → how = 0 → u.pst = 3 ∧ u.en = s.en ∧ u.fb = s.fb ∧ MemSame s u) ∧
        (2 ≤ src → src ≠ 13 → how = 1 → ∀ x, fenceTarget src unit = some x → unitFenced u x = true)) ∧
    (∀ d, (src = 16 ∨ src = 17) → eventValid s src unit = true → s.flag (strikeField src unit) = false →
      Runs (.faultEvent src unit d) s fun u => act u unit false ∧ u.get (F.FCOL_EVT_DETAIL src) = d % 2 ∧ u.flag (strikeField src unit) = true ∧
        u.pst = 3 ∧ u.en = s.en ∧ u.fb = s.fb ∧ MemSame s u) ∧
    (src < 64 → s.flag (F.FCOL_EVT_ACTIVE src) = true → Runs (.quietPeriodExpiry src) s fun u => cleared u ∧ Counted s u (F.FCOL_COUNT_RECOVERIES src)) ∧
    (unit < nEng s → Runs (.strikeTimerExpiry unit) s fun u => MemSame s u ∧ u.fc = s.fc ∧ (unit % 4 = 0 → u.get (F.RED_STATUS_STRIKE (unit / 4)) = 0) ∧
      (unit % 4 = 2 → u.get (F.CE_STATUS_STRIKE (unit / 4)) = 0)) ∧
    (∀ seq, s.fnHeld 0 = false → src < 64 →
      (seq ≠ 0 → s.get (F.FCOL_EVT_SEQ src) = seq → Runs (.fcolEvtClear src seq) s cleared) ∧
      (seq = 0 ∨ s.get (F.FCOL_EVT_SEQ src) ≠ seq → Runs (.fcolEvtClear src seq) s fun u => u = s)) ∧
    (∀ lo hi : Word32, s.fnHeld 0 = false → src < 64 → src ≠ 16 → src ≠ 17 → lo.toNat + 2 ^ 32 * hi.toNat = 2 ^ src →
      let n := if hasUnit src then s.get F.FCOL_FORCE_UNIT_UNIT else 0
      (eventValid s src n = true → Runs (.fcolForce lo hi) s fun u => act u n true ∧
        (src ≤ 1 ∨ (how = 2 ∧ src ≠ 13) → u.pst = 5 ∧ u.get F.FCOL_SAFE_CAUSE_SOURCE = src)) ∧
      (eventValid s src n = false → Runs (.fcolForce lo hi) s fun u => Counted s u { F.BRUP_IGN_WRITES with wid := 16 } ∧ RegsBut s u [] ∧ MemSame s u)) ∧
    (s.fnHeld 0 = false → Runs .fcolArm s fun u => u.flag F.FCOL_CTL_ARMED = true ∧ RegsBut s u [F.FCOL_CTL.off] ∧ CntBut s u [] ∧ MemSame s u) ∧
    (∀ kind, s.fnHeld 0 = false →
      (unfenceUnit s kind unit = none → Runs (.fcolUnfence kind unit) s fun u => ev u 1 ∧ u.fc = s.fc ∧ MemSame s u) ∧
      (∀ x, unfenceUnit s kind unit = some x →
        (∀ r, unfenceCheck s x = some r → Runs (.fcolUnfence kind unit) s fun u => ev u r ∧ u.fc = s.fc ∧ MemSame s u) ∧
        (unfenceCheck s x = none → Runs (.fcolUnfence kind unit) s fun u => u = { s with fc := { s.fc with unfence := some x } }))) ∧
    (∀ x, s.fc.unfence = some x → (∀ d, x ≠ .domain d) → Runs .unfenceEffect s fun u => ev u 0 ∧ unitFenced u x = false ∧ u.fc.unfence = none ∧ MemSame s u) ∧
    (∀ d, s.fc.unfence = some (.domain d) → Runs .unfenceEffect s fun u => u.fc = { s.fc with unfence := none, refilling := some d } ∧ RegsBut s u []) ∧
    (∀ d, s.fc.refilling = some d → Runs .domainRefillDone s fun u => ev u 0 ∧ unitFenced u (.domain d) = false ∧ u.fc.refilling = none ∧ MemSame s u ∧
      ∀ k, k < 4 → s.fc.selfTest.contains (.engine (4 * d + k)) = false → u.engFenced (4 * d + k) = false)

/-- Snapshots, SQC clears and register writes (R9, R62, R516–R519). A snapshot copies every counter of its scope and restarts it, no other, and counts itself; a
scope that names nothing sets REFUSED. A status clears when its own number is written. A word write to the memory block sets its RW and RWK bits and no other; one that names no
register, or that finds the adapter in Bring-up, is ignored and counted. -/
def Obligations.SnapshotsAndWrites : Prop :=
  (∀ (s : State) (scope : Nat), s.pst = 3 → s.fnHeld 0 = false → scope < 256 →
    (snapScope s scope = false → Runs (.snapCmd scope) s fun u => u.flag F.SNAP_STATUS_REFUSED = true ∧ u.cnt = s.cnt ∧ u.snap = s.snap ∧ MemSame s u) ∧
    (snapScope s scope = true → Runs (.snapCmd scope) s fun u => u.flag F.SNAP_STATUS_REFUSED = false ∧ MemSame s u ∧
      u.get F.SNAP_STATUS_TAKEN = (s.get F.SNAP_STATUS_TAKEN + 1) % 2 ^ 16 ∧ u.get F.SNAP_STATUS_LAST_SCOPE = scope ∧
      u.get64 F.SNAP_TICK_LO F.SNAP_TICK_HI = s.tk.num % 2 ^ 64 ∧ RegsBut s u [F.SNAP_STATUS.off, F.SNAP_TICK_LO.off, F.SNAP_TICK_HI.off] ∧
      ∀ k, (inScope scope (k / 32) = true → k ≠ F.TIME_PPS_STAMP_LO.key → k ∉ (snapValues s).1.map (·.1) → (∀ d, d < nDom s → k ≠ (F.SEQ_XBAR_WAIT d).key) →
          smGet u.snap k 0 = smGet s.cnt k 0 ∧ smGet u.cnt k 0 = 0) ∧
        (inScope scope (k / 32) = false → smFind u.snap k = smFind s.snap k ∧ smFind u.cnt k = smFind s.cnt k))) ∧
  (∀ (s : State) (r : SqcReg) (seq : Nat), s.pst = 3 → s.fnHeld ((fnCtx (sqcField r).off).getD 0) = false → sqcPresent s r = true →
    (seq ≠ 0 → s.get (sqcField r) = seq → Runs (.sqcClearWrite r seq) s fun u => u.get (sqcField r) = 0 ∧ RegsBut s u [(sqcField r).off] ∧
      CntBut s u [] ∧ MemSame s u ∧ ∀ i, i < 32 → (i < (sqcField r).lo ∨ (sqcField r).lo + 8 ≤ i) →
        bit (u.reg (sqcField r).off) i = bit (s.reg (sqcField r).off) i) ∧
    (seq = 0 ∨ s.get (sqcField r) ≠ seq → Runs (.sqcClearWrite r seq) s fun u => u = s)) ∧
  (∀ (s : State) (off : Nat) (v : BitVec 64), s.fnHeld ((fnCtx off).getD 0) = false →
    let ignored (u : State) : Prop := RegsBut s u [] ∧ Counted s u { F.BRUP_IGN_WRITES with wid := 16 } ∧ MemSame s u
    (∀ r i j, s.pst = 3 → 0x300000 ≤ off → off < 0x400000 → off % 4 = 0 → regRow off = some (r, i, j) → sqcAt off = none → slotPresent s off = true →
      RunsSettled (.registerWrite off 4 v) s fun u => RegsBut s u [off] ∧ CntBut s u [F.REG_RWK_CHANGED] ∧ MemSame s u ∧
        ∀ b, b < 32 → bit (u.reg off) b = if bit (r.rw ||| r.rwk) b then v.getLsbD b else bit (s.reg off) b) ∧
    (s.pst = 3 → 0x300000 ≤ off → off < 0x400000 → off % 4 ≠ 0 ∨ regRow off = none ∨ slotPresent s off = false → RunsSettled (.registerWrite off 4 v) s ignored) ∧
    (s.pst = 2 → RunsSettled (.registerWrite off 4 v) s ignored))

/-! ### Power, mode changes, the time base (ch. 02–04) -/

/-- Rails, pins and Bring-up (R50, R60–R67). VAUX_3V3 takes the adapter from Off to Standby and back; V54_IN, with MOD_RESET_N high, starts Bring-up at stage 1 with the
straps; its loss, or a collapse of VAUX_3V3, leads to Standby from any later state, with nothing running. MOD_RESET_N low resets everything but what R50
names, and its release starts Bring-up. A stage that ends moves CODE on; one that fails halts with its DETAIL, the firmware stage after the
other bank has been tried; a failed engine of stage 2 is fenced and the adapter degraded. READY enters Active with EPOCH 0. PERST_N takes its port's link down, and lets
it train again. -/
def Obligations.RailsAndBringUp : Prop :=
  ∀ s : State,
    let begins (u : State) (straps : Nat) : Prop := u.pst = 2 ∧ u.brCode = 0x10 ∧ u.pw.held = false ∧ u.pw.straps = straps % 4 ∧
      u.get F.BRUP_PROGRESS_MGMT_PORT = straps % 4
    let idle (u : State) : Prop := u.sq = Seq.reset ∧ u.sy = Sync.reset ∧ u.en = Eng.reset ∧ u.tr = Transport.reset ∧ u.sg = Seg.reset ∧ u.ho = Hosts.reset
    let lost (u : State) : Prop := u.pst = 1 ∧ u.pw.v54 = false ∧ idle u ∧ u.reg F.FCOL_SAFE_CAUSE.off = s.reg F.FCOL_SAFE_CAUSE.off ∧
      u.ci.bankA = s.ci.bankA ∧ u.ci.bankB = s.ci.bankB ∧ u.pending = s.pending ∧
      u.out = (if s.get F.PWR_STATE_STATE = 5 then s.out ++ [.safeN false] else s.out)
    (s.pst = 0 → Runs .vaux3v3Applied s fun u => u.pst = 1 ∧ u.pw.vaux = true ∧ MemSame s u) ∧
    (s.pst = 0 → Runs .modResetAssert s fun u => u = { s with pw := { s.pw with held := true } }) ∧
    (s.get F.PWR_STATE_STATE = 1 → Runs .vaux3v3Removed s (fun u => u.pst = 0 ∧ u.pw.vaux = false ∧ u.ci.dynAddr = none ∧ u.ci.eid = 0 ∧ MemSame s u) ∧
      (s.pw.held = false → ∀ x, Runs (.v54InReady x) s fun u => begins u x ∧ u.pw.v54 = true ∧ MemSame s u) ∧
      (s.pw.held = true → ∀ x, Runs (.v54InReady x) s fun u => u = { s with pw := { s.pw with v54 := true } })) ∧
    (2 ≤ s.get F.PWR_STATE_STATE → Runs .v54InLoss s lost ∧ Runs .vaux3v3Collapse s lost) ∧
    (s.pst ≠ 0 → Runs .modResetAssert s fun u => u.pst = 1 ∧ u.get F.PWR_STATE_STATE = (if s.pw.v54 then 2 else 1) ∧ u.pw.held = true ∧ u.brCode = 0 ∧
      idle u ∧ u.cnt = [] ∧ u.ci.dynAddr = none ∧
      u.reg F.FCOL_SAFE_CAUSE.off = s.reg F.FCOL_SAFE_CAUSE.off ∧ u.reg F.COMPAT_CLASS.off = s.reg F.COMPAT_CLASS.off ∧
      u.ci.bankA = s.ci.bankA ∧ u.ci.bankB = s.ci.bankB ∧ (∀ m, (u.bay m).cart = (s.bay m).cart) ∧ u.pending = s.pending ∧
      u.out = (if s.get F.PWR_STATE_STATE = 5 then s.out ++ [.safeN false] else s.out)) ∧
    (s.pw.held = true → s.pst ≠ 0 → ∀ x, (s.pw.v54 = true → Runs (.modResetRelease x) s fun u => begins u x) ∧
      (s.pw.v54 = false → Runs (.modResetRelease x) s fun u => u = { s with pw := { s.pw with held := false } })) ∧
    (inStage s = true →
      let c := s.brCode
      let halts (u : State) (d : Nat) : Prop := u.pw.halt = true ∧ u.brCode = c / 16 * 16 + 14 ∧ u.get F.BRUP_PROGRESS_DETAIL = d % 256 ∧ u.pst = 2
      (c ≠ 0x40 → Runs (.bringUpStageComplete .clean) s fun u => u.brCode = c + 0x10 ∧ u.pst = 2 ∧ (c = 0x50 → u.pw.trained = s.pw.perst ∧
        ∀ m, m < nBay s → s.flag (F.LB_STATUS_LATCH m) = true → s.bayFenced m = false → u.get (F.LB_STATUS_STATE m) = 1)) ∧
      (c = 0x40 → RunsSettled (.bringUpStageComplete .clean) s fun u => u.brCode = 0x50 ∧ u.pst = 2) ∧
      (∀ d, c ≠ 0x60 → c ≠ 0x40 → Runs (.bringUpStageComplete (.failed d)) s fun u => halts u d) ∧
      (∀ d, c = 0x40 → s.flag F.BRUP_PROGRESS_FW_FALLBACK = true → Runs (.bringUpStageComplete (.failed d)) s fun u => halts u d) ∧
      (∀ d, c = 0x40 → s.flag F.BRUP_PROGRESS_FW_FALLBACK = false → Runs (.bringUpStageComplete (.failed d)) s fun u => u.brCode = 0x40 ∧ u.pw.halt = false ∧
        u.flag F.BRUP_PROGRESS_FW_FALLBACK = true ∧ u.flag F.BRUP_PROGRESS_FW_BANK = !s.flag F.BRUP_PROGRESS_FW_BANK) ∧
      (∀ e, c = 0x20 → e < nEng s → Runs (.bringUpStageComplete (.failedUnits [.engine e])) s fun u => u.engFenced e = true ∧ u.brCode = 0x30 ∧
        u.flag F.BRUP_PROGRESS_DEGRADED = true) ∧
      (∀ n, c = 0x20 → Runs (.bringUpStageComplete (.failedUnits [.essential n])) s fun u => halts u n) ∧
      (c ≠ 0x60 → c ≠ 0x40 → Runs .bringUpStageLimit s fun u => u.pw.halt = true ∧ u.brCode = c / 16 * 16 + 14)) ∧
    (s.pst = 2 → s.brCode = 0x70 → Runs .enterActive s fun u => u.pst = 3 ∧ u.reg F.MODE_EPOCH.off = 0 ∧ RegsBut s u [F.PWR_STATE.off, F.MODE_EPOCH.off] ∧
      CntBut s u [] ∧ MemSame s u) ∧
    (∀ h, h < 4 →
      (s.pst = 3 → RunsSettled (.perstNAssert h) s fun u => bit u.pw.perst h = false ∧ bit u.pw.trained h = false ∧ u.hostUp h = false ∧
        ∀ c ∈ portCtxs s h, u.ctxState c = 2) ∧
      (2 ≤ s.pst → s.brCode = 0x70 → Runs (.perstNRelease h) s fun u => bit u.pw.perst h = true ∧ bit u.pw.trained h = true ∧ RegsBut s u [] ∧ MemSame s u))

/-- Rest, mode changes, ticks, the marionette table and capping (R68–R77, R82, R91–R94, R102, R110–R117, R541). A request for Rest drains and is refused with 2, 6 or 5; the drain's end asks for a
mode change, its time-out gives event 3; an exit arms its units and commits with EPOCH one higher and event 1, and a unit that has not armed is source 13's.
MODE_CMD is refused with the result of its first failing check, or starts a change for its boundary; the units are asked at the arm boundary; an attempt with
every unit armed commits, any other is postponed up to eight times and then aborted. A boundary advances the tick number and releases TWAIT; an entry
that fires does so with those of its offset, signals, and opens and closes gates. An interval over the cap lowers the best-effort share by 25. -/
def Obligations.RestAndModes : Prop :=
  ∀ s : State,
    let ev (u : State) (last : Nat) : Prop := Answered s u F.PWR_EVENT_SEQ F.PWR_EVENT_LAST last
    let mev (u : State) (kind r : Nat) : Prop := Answered s u F.MODE_EVENT_SEQ F.MODE_EVENT_RESULT r ∧ u.get F.MODE_EVENT_KIND = kind
    let epoch (u : State) : Prop := u.reg F.MODE_EPOCH.off = (s.reg F.MODE_EPOCH.off + 1) % 2 ^ 32
    (∀ c, c = .restRequest false ∨ c = .restExitRequest false → 2 ≤ s.pst → s.pst ≠ 5 → Runs c s fun u =>
      RegsBut s u [] ∧ Counted s u { F.BRUP_IGN_WRITES with wid := 16 } ∧ u.pw = s.pw ∧ MemSame s u) ∧
    (s.pst = 3 →
      (s.fnHeld 0 = false → restDraining s = false → anyResident s = true → Runs (.restRequest true) s fun u => ev u 2 ∧ u.pw = s.pw ∧ MemSame s u) ∧
      (s.fnHeld 0 = false → restDraining s = false → anyResident s = false → modePending s = true → Runs (.restRequest true) s fun u => ev u 6 ∧ u.pw = s.pw ∧ MemSame s u) ∧
      (s.fnHeld 0 = false → anyResident s = false → modePending s = false → Runs (.restRequest true) s fun u =>
        u = { s with pw := { s.pw with drain := .rest (s.tk.count + max 1 (s.get F.PWR_CMD_DRAIN_TICKS)) } }) ∧
      (∀ dl, s.pw.drain = .rest dl →
        (trackerEmpty s = true → Runs .restDrainDone s fun u =>
          u = startChange { s with pw := { s.pw with drain := .none } } .rest (s.tk.count + 1)) ∧
        (trackerEmpty s = false → dl ≤ s.tk.count → s.pw.launches = [] → Runs .restDrainTimeout s fun u => ev u 3 ∧ u.pst = 3 ∧
          u.pw = { s.pw with drain := .none } ∧ MemSame s u))) ∧
    (s.pst = 4 →
      (s.fnHeld 0 = false → Runs (.restRequest true) s fun u => ev u 5 ∧ u.pw = s.pw) ∧
      (s.fnHeld 0 = false → s.pw.restExit = none → Runs (.restExitRequest true) s fun u => u.pw = { s.pw with restExit := some 0, sref := false, parts := true } ∧
        u.get F.PWR_STATE_CLK_LEVEL = 0 ∧ u.pst = 4 ∧ u.get F.PWR_EVENT_SEQ = s.get F.PWR_EVENT_SEQ) ∧
      (∀ b, s.pw.restExit = some b →
        (∀ n, n < 30 → bit (notArmed s b) n = true → Runs (.restExitUnitArmed n) s fun u =>
          u = { s with pw := { s.pw with restExit := some (putBit b n true) } }) ∧
        (notArmed s b = 0 → s.pw.launches = [] → Runs .restExitCommit s fun u => u.pst = 3 ∧ epoch u ∧ mev u 5 0 ∧ ev u 1 ∧
          u.pw = { s.pw with restExit := none, opticsOff := false } ∧ MemSame s u) ∧
        RunsSettled .restExitArmTimeout s fun u => u.fc = { s.fc with raised := s.fc.raised ++ (bitList (notArmed s b) 30).map fun n => (13, n, 0) } ∧
          RegsBut s u [] ∧ MemSame s u)) ∧
    (s.pst = 3 →
      (∀ c tick swap, s.fnHeld 0 = false → c = .modeCmdTick swap ∧ tick = true ∨ c = .modeCmdSwap ∧ tick = false ∧ swap = true →
        (∀ r, modeCheck s tick = some r → Runs c s fun u => mev u (cmdKind tick swap) r ∧ u.tk = s.tk ∧ MemSame s u) ∧
        (modeCheck s tick = none → Runs c s fun u => u.get F.MODE_EVENT_SEQ = s.get F.MODE_EVENT_SEQ ∧ u.get F.MODE_EVENT_POSTPONED = 0 ∧ ∃ a,
          u.tk = { s.tk with change := some ⟨.cmd (if tick then some (s.get F.TICK_LEN_NEXT) else none) swap, s.tk.count + a, false, 0, 0⟩ } ∧
          (s.reg F.MODE_AT.off = 0 → a = 1) ∧ (s.reg F.MODE_AT.off ≠ 0 → s.nextNum + a = modeAtTick s))) ∧
      (∀ c, s.tk.change = some c →
        (∀ armed, c.asked = false → c.armAt ≤ s.tk.count + 1 → Runs (.modeArm armed) s fun u =>
          u = { s with tk := { s.tk with change := some { c with asked := true, armed := armed.toNat } } }) ∧
        (∀ armed : BitVec 32, c.asked = true → c.armAt + c.postponed ≤ s.tk.count →
          let na := notArmed s (c.armed ||| armed.toNat)
          (∀ n swap, na = 0 → c.kind = .cmd n swap → RunsSettled (.modeCommitAttempt armed) s fun u => u.tk.change = none ∧ epoch u ∧ mev u (changeKind c.kind) 0 ∧
            MemSame s u ∧ (∀ l, n = some l → l ≤ 256 → u.get F.TICK_LEN_CUR = l) ∧ (n = none → u.get F.TICK_LEN_CUR = s.get F.TICK_LEN_CUR) ∧
            u.flag F.MARI_CTL_ACTIVE_BANK = (s.flag F.MARI_CTL_ACTIVE_BANK != swap)) ∧
          (na = 0 → c.kind = .rest → RunsSettled (.modeCommitAttempt armed) s fun u => u.pst = 4 ∧ ev u 0 ∧ epoch u ∧ u.pw.parts = false ∧ u.pw.sref = true) ∧
          (na ≠ 0 → c.postponed < 8 → Runs (.modeCommitAttempt armed) s fun u => u.reg F.MODE_STATUS.off = na ∧ MemSame s u ∧
            u.get F.MODE_EVENT_POSTPONED = c.postponed + 1 ∧ u.get F.MODE_EVENT_SEQ = s.get F.MODE_EVENT_SEQ ∧
            u.tk = { s.tk with change := some { c with armed := c.armed ||| armed.toNat, postponed := c.postponed + 1 } }) ∧
          (∀ n swap, na ≠ 0 → 8 ≤ c.postponed → c.kind = .cmd n swap → RunsSettled (.modeAbort armed) s fun u => u.tk = { s.tk with change := none } ∧
            mev u (changeKind c.kind) 1 ∧ u.reg F.MODE_STATUS.off = na ∧ u.reg F.MODE_EPOCH.off = s.reg F.MODE_EPOCH.off ∧ MemSame s u))) ∧
      (∀ n, mayFire s n = true →
        let group := (enabledEntries s).filter fun k => mayFire s k && entryOff s k == entryOff s n
        Runs (.marionetteEntryFire n) s fun u => u.tk.fired = s.tk.fired ++ group ∧ MemSame s u ∧
          u.sy = { s.sy with reqs := s.sy.reqs ++ (group.filter fun k => entryDoes s k 24).map fun k =>
            ⟨81, bits (s.mariWord (4 * k + 1)) 8 12, some (entryCtx s k), .signal (max 1 (bits (s.mariWord (4 * k + 1)) 20 8)), none, k, none⟩ } ∧
          (group = [n] → entryDoes s n 26 = true → ∀ p c, p < 32 → portPresent s p = true → bit (s.mariWord (4 * n + 2)) p = true → c < 8 →
            bit (smGet u.tk.gates p 0) c = (bit (s.mariWord (4 * n + 3)) (8 + c) || (bit (smGet s.tk.gates p 0) c && !bit (s.mariWord (4 * n + 3)) c))) ∧
          (group = [n] → entryDoes s n 26 = false → u.tk.gates = s.tk.gates))) ∧
    (∀ tj v54, 2 ≤ s.pst → s.pw.held = false → RunsSettled (.tickBoundary tj v54) s fun u => u.tk.num = s.nextNum % 2 ^ 64 ∧ u.tk.nextNum = none ∧
      u.tk.count = s.tk.count + 1 ∧ u.get F.PWR_STATE_TJ_MAX = min 255 tj ∧ u.get F.PWR_TELEM_V54_QV = min 255 v54 ∧ MemSame s u ∧
      (115 ≤ tj → (1, 0, 0) ∈ u.fc.raised) ∧ (s.pst = 3 ∨ s.pst = 4 → s.tk.locked = true → .tickOut (s.boundaryNs s.nextNum % 2 ^ 64) ∈ u.out) ∧
      (s.pst = 3 → ∀ t, t.slot < 8 → (s.thr t).st = .parked → (s.thr t).pend = .twait none → (u.thr t).st = .ready)) ∧
    (s.pst = 3 ∨ s.pst = 4 → ∀ tj w, capTicks s ≤ s.pw.capTicks + 1 → RunsSettled (.capIntervalEnd tj w) s fun u =>
      u.get F.PWR_TELEM_AVG_W = w % 2 ^ 11 ∧ u.pw.capTicks = 0 ∧ MemSame s u ∧
      (capOn s = false → u.get F.PWR_STATE_BE_SHARE = s.get F.PWR_STATE_BE_SHARE ∧ u.get F.PWR_STATE_CLK_LEVEL = s.get F.PWR_STATE_CLK_LEVEL) ∧
      (capOn s = true → tj < s.getL F.PWR_THERM_HARD_C → s.flag F.PWR_STATE_THERM_HARD = false → capLimit s < w ∨ s.getL F.PWR_THERM_SOFT_C ≤ tj →
        0 < s.get F.PWR_STATE_BE_SHARE → u.get F.PWR_STATE_BE_SHARE = s.get F.PWR_STATE_BE_SHARE - 25 ∧
          u.get F.PWR_STATE_CLK_LEVEL = s.get F.PWR_STATE_CLK_LEVEL)) ∧
    (s.pst = 3 ∨ s.pst = 4 → s.fnHeld 0 = false → ∀ v : Word32,
      (Runs (.pwrThermWrite false v) s fun u => u.get F.PWR_CAP_LIMIT_W = bits v.toNat 0 11 ∧ u.getL F.PWR_CAP_LIMIT_W = s.getL F.PWR_CAP_LIMIT_W ∧
        u.getL F.PWR_CAP_ENABLE = s.getL F.PWR_CAP_ENABLE ∧ RegsBut s u [F.PWR_CAP.off] ∧ MemSame s u) ∧
      (bits v.toNat 0 8 < bits v.toNat 8 8 → bits v.toNat 8 8 ≤ 110 → Runs (.pwrThermWrite true v) s fun u =>
        u.get F.PWR_THERM_SOFT_C = bits v.toNat 0 8 ∧ u.get F.PWR_THERM_HARD_C = bits v.toNat 8 8 ∧
        u.getL F.PWR_THERM_HARD_C = s.getL F.PWR_THERM_HARD_C ∧ RegsBut s u [F.PWR_THERM.off] ∧ MemSame s u)) ∧
    (2 ≤ s.pst → Runs .pwrLifeWrite s fun u => u.get F.PWR_LIFE_POWERED_DAYS = min 0xFFFF (s.get F.PWR_LIFE_POWERED_DAYS + 1) ∧ u.pw.tjSum = 0 ∧
      u.pw.tjTime = 0 ∧ RegsBut s u [F.PWR_LIFE.off] ∧ CntBut s u [] ∧ MemSame s u)

/-- The time base (R46, R95–R101, R419). A Sync of the parent shows its offset and port; with 64 in a row within 25 ns LOCK is 2, one more than 1,000 ns off
steps the time base, with LOCK 1 and source 12; no Sync, or no edge, leads to holdover. An announced clock is kept for its port, and is the parent
where the adapter is no candidate and knows no other; a better one than a candidate's own ends its being grandmaster. A neighbour's tick values that place a boundary more than 100 ns
off are shown and counted. A Pdelay_Req is answered in two steps; a master port sends a two-step Sync and an Announce with the tick values, at the next frame boundary. An edge within
500 ms of the last is ignored; in mode 1 its time is stamped, in mode 2 the time base takes the seconds that were set. -/
def Obligations.TimeBase : Prop :=
  ∀ s : State, s.pst = 3 →
    let lock (u : State) (v : Nat) : Prop := u.get F.TIME_STATUS_LOCK = v
    (∀ p, ptpOn s p = true →
      (∀ ns off, p < 16 → s.get F.TIME_STATUS_PARENT ≠ p → Runs (.ptpSyncRx p ns off) s fun u =>
        RegsBut s u [] ∧ Counted s u (F.PTP_RX_EVENTS p) ∧ MemSame s u ∧ u.tk = (s.seeNs ns.toNat).tk) ∧
      (∀ ns off, p < 16 → s.get F.TIME_STATUS_PARENT = p →
        let x := (s.seeNs ns.toNat).tk
        let seen (u : State) : Prop := u.get F.TIME_STATUS_PARENT = p ∧ u.get F.TIME_STATUS_OFFSET = offsetField off ∧
          Counted s u (F.PTP_RX_EVENTS p) ∧ MemSame s u;
        (off.natAbs ≤ 25 → s.get F.TIME_STATUS_LOCK = 1 → 63 ≤ s.tk.goodSync → Runs (.ptpSyncRx p ns off) s fun u => seen u ∧ lock u 2 ∧
          u.tk = { x with goodSync := s.tk.goodSync + 1, locked := true }) ∧
        (off.natAbs ≤ 25 → s.get F.TIME_STATUS_LOCK = 1 → s.tk.goodSync < 63 → Runs (.ptpSyncRx p ns off) s fun u => seen u ∧ lock u 1 ∧
          u.tk = { x with goodSync := s.tk.goodSync + 1 }) ∧
        (off.natAbs ≤ 25 → s.get F.TIME_STATUS_LOCK = 0 ∨ s.get F.TIME_STATUS_LOCK = 3 → Runs (.ptpSyncRx p ns off) s fun u => seen u ∧ lock u 1 ∧
          u.tk = { x with goodSync := 1 }) ∧
        (25 < off.natAbs → off.natAbs ≤ 1000 → Runs (.ptpSyncRx p ns off) s fun u => seen u ∧ u.tk = { x with goodSync := 0 } ∧
          lock u (if s.get F.TIME_STATUS_LOCK = 2 then 2 else 1)) ∧
        (1000 < off.natAbs → RunsSettled (.ptpSyncRx p ns off) s fun u => seen u ∧ lock u 1 ∧ Counted s u F.TIME_STEPS ∧
          u.fc.raised = s.fc.raised ++ [(12, p, 0)] ∧ (0 ≤ (ns.toNat : Int) - off → (u.tk.ns : Int) = ((ns.toNat : Int) - off) % 2 ^ 64))) ∧
      (∀ dom d len (origin base : BitVec 64), p < 16 →
        (dom ≠ s.get F.TIME_CTL_DOMAIN → Runs (.ptpAnnounceRx p dom d len origin base) s fun u => u = s) ∧
        (dom = s.get F.TIME_CTL_DOMAIN → Runs (.ptpAnnounceRx p dom d len origin base) s fun u =>
          u.tk.foreign = smSet s.tk.foreign p d ∧ u.out = s.out ∧ RegsBut s u [F.TIME_MISMATCH.off, F.TIME_STATUS.off] ∧
          (boundariesDiffer s len origin.toNat base.toNat = true → bit (u.get F.TIME_MISMATCH_PORTS) p = true ∧ Counted s u F.TICK_MISMATCH) ∧
          (boundariesDiffer s len origin.toNat base.toNat = false → u.reg F.TIME_MISMATCH.off = s.reg F.TIME_MISMATCH.off ∧ u.cnt = s.cnt) ∧
          (s.tk.foreign = [] → gmCandidate s = false → u.get F.TIME_STATUS_PARENT = p ∧ u.flag F.TIME_STATUS_GM = false) ∧
          (s.tk.foreign = [] → gmCandidate s = true → u.get F.TIME_STATUS_PARENT = 31 ∧ u.flag F.TIME_STATUS_GM = clockBetter (ownDataset s) 32 d p))) ∧
      (∀ ns, quiesced s p = false → (s.port p).cut = none → Runs (.ptpPdelayRx p false ns) s fun u =>
        u.out = s.out ++ [.ptp p 3, .ptp p 4] ∧ Counted s u (F.PTP_RX_EVENTS p) ∧ RegsBut s u []) ∧
      (∀ ns, (s.port p).cut.isSome = true → quiesced s p = false → Runs (.ptpPdelayRx p false ns) s fun u =>
        u.out = s.out ∧ (u.port p).ptp = (s.port p).ptp ++ [3, 4] ∧ Counted s u (F.PTP_RX_EVENTS p) ∧ RegsBut s u []) ∧
      (∀ ns, Runs (.ptpPdelayRx p true ns) s fun u => u.out = s.out ∧ Counted s u (F.PTP_RX_EVENTS p) ∧ RegsBut s u []) ∧
      (portMaster s p = false → Runs (.ptpSyncInterval p) s fun u => RegsBut s u [F.TIME_STATUS.off] ∧ u.out = s.out ∧ CntBut s u []) ∧
      (portMaster s p = true → quiesced s p = false → (s.port p).cut = none → Runs (.ptpSyncInterval p) s fun u =>
        RegsBut s u [F.TIME_STATUS.off] ∧ Counted s u (F.PTP_TX_EVENTS p) ∧
        u.out = s.out ++ [.ptp p 0, .ptp p 1, .announce p (s.get F.TICK_LEN_CUR) s.tk.origin s.tk.base (s.get F.TIME_CTL_DOMAIN) (announced s)]) ∧
      (p < 16 → quiesced s p = false → (s.port p).cut = none → Runs (.pdelayReqInterval p) s fun u => u.out = s.out ++ [.ptp p 2] ∧ Counted s u (F.PTP_TX_EVENTS p) ∧ RegsBut s u [])) ∧
    (s.get F.TIME_STATUS_PARENT ≠ 31 → Runs .ptpSyncTimeout s fun u => RegsBut s u [F.TIME_STATUS.off] ∧ u.tk = s.tk ∧
      lock u (if s.get F.TIME_STATUS_LOCK = 0 then 0 else 3)) ∧
    (s.flag F.TIME_STATUS_GM = true → s.get F.TIME_CTL_PPS_MODE = 2 → s.tk.ppsOn = true → Runs .ppsHoldover s fun u => lock u 3 ∧
      u.tk = { s.tk with ppsOn := false } ∧ RegsBut s u [F.TIME_STATUS.off]) ∧
    (∀ ns : BitVec 64,
      let late := ∀ l, s.tk.ppsLast = some l → l + 500000000 ≤ ns.toNat
      let mode := s.get F.TIME_CTL_PPS_MODE;
      (mode = 1 ∨ mode = 2 → ¬ late → Runs (.ppsInEdge ns) s fun u => Counted s u F.PPS_IGNORED ∧ u.tk = s.tk ∧ RegsBut s u []) ∧
      (mode = 1 → late → Runs (.ppsInEdge ns) s fun u => smGet u.cnt F.TIME_PPS_STAMP_LO.key 0 = ns.toNat ∧
        u.tk = { (s.seeNs ns.toNat).tk with ppsLast := some ns.toNat } ∧ RegsBut s u []) ∧
      (mode = 2 → late → s.tk.ppsSet = true →
        let sec := s.reg F.TIME_SET_S_LO.off + 2 ^ 32 * s.get F.TIME_SET_S_HI_S
        let t : Nat := sec * 1000000000 % 2 ^ 64
        Runs (.ppsInEdge ns) s fun u => u.tk.ppsSec = some sec ∧ u.tk.ppsLast = some t ∧ u.tk.ppsSet = false ∧ u.tk.ppsOn = true ∧ MemSame s u ∧
          u.tk.ns = (if t = ns.toNat then (s.seeNs ns.toNat).tk.ns else t) ∧ u.tk.frac = 0#16 ∧ lock u (s.get F.TIME_STATUS_LOCK) ∧
          RegsBut s u [F.TIME_STATUS.off] ∧
          (s.flag F.TIME_CTL_GM_CAPABLE = true → s.tk.foreign = [] → u.get F.TIME_STATUS_GM = 1 ∧ u.get F.TIME_STATUS_PARENT = 31)))
end

