-- ==== Sys2Proof/Laws/Sparse.lean ====
section
/-! SUPPORT. Sparse tables: what a lookup finds after a write or a removal, and that both keep the keys rising. -/

namespace Sys2Proof

variable {β : Type}

@[simp] theorem smFind_nil (k : Nat) : smFind ([] : SMap β) k = none := rfl

theorem smFind_smSet_self (m : SMap β) (k : Nat) (v : β) : smFind (smSet m k v) k = some v := by
  induction m with
  | nil => simp [smSet, smFind]
  | cons e m ih =>
    obtain ⟨a, w⟩ := e
    simp only [smSet]
    split
    · simp [smFind]
    · split
      · simp [smFind]
      · simp [smFind, *]

theorem smFind_smSet_ne (m : SMap β) {k j : Nat} (v : β) (h : j ≠ k) : smFind (smSet m k v) j = smFind m j := by
  induction m with
  | nil => simp [smSet, smFind, h]
  | cons e m ih =>
    obtain ⟨a, w⟩ := e
    simp only [smSet]
    split
    · simp [smFind, h]
    · split
      · rename_i h2; subst h2; simp [smFind, h]
      · simp [smFind, ih]

@[simp] theorem smGet_smSet_self (m : SMap β) (k : Nat) (v d : β) : smGet (smSet m k v) k d = v := by
  simp [smGet, smFind_smSet_self]

theorem smGet_smSet_ne (m : SMap β) {k j : Nat} (v d : β) (h : j ≠ k) : smGet (smSet m k v) j d = smGet m j d := by
  simp [smGet, smFind_smSet_ne m v h]

theorem smFind_smDel_ne (m : SMap β) {k j : Nat} (h : j ≠ k) : smFind (smDel m k) j = smFind m j := by
  induction m with
  | nil => rfl
  | cons e m ih =>
    obtain ⟨a, w⟩ := e
    simp only [smDel]
    split
    · rename_i h2; subst h2; rw [ih]; simp [smFind, h]
    · simp [smFind, ih]

theorem smSorted_none {m : SMap β} {b : Nat} (h : smSorted (some b) m = true) : smSorted none m = true := by
  cases m with
  | nil => rfl
  | cons e m => obtain ⟨a, v⟩ := e; simp [smSorted] at h ⊢; exact h.2

theorem smSorted_lt {m : SMap β} {b c : Nat} (hb : c ≤ b) (h : smSorted (some b) m = true) : smSorted (some c) m = true := by
  cases m with
  | nil => rfl
  | cons e m => obtain ⟨a, v⟩ := e; simp [smSorted] at h ⊢; exact ⟨by omega, h.2⟩

theorem smFind_of_lt {m : SMap β} {b k : Nat} (h : smSorted (some b) m = true) (hk : k ≤ b) : smFind m k = none := by
  induction m generalizing b with
  | nil => rfl
  | cons e m ih =>
    obtain ⟨a, v⟩ := e
    simp [smSorted] at h
    simp [smFind, show ¬ k = a by omega]
    exact ih h.2 (by omega)

/-- A removed key is unlisted. -/
theorem smFind_smDel_self (m : SMap β) (k : Nat) : smFind (smDel m k) k = none := by
  induction m with
  | nil => rfl
  | cons e m ih =>
    obtain ⟨a, v⟩ := e
    simp only [smDel]
    split
    · exact ih
    · simp [smFind, *]

theorem smSorted_smSet_some {m : SMap β} {b k : Nat} (v : β) (hb : b < k) (h : smSorted (some b) m = true) :
    smSorted (some b) (smSet m k v) = true := by
  induction m generalizing b with
  | nil => simp [smSet, smSorted, hb]
  | cons e m ih =>
    obtain ⟨a, w⟩ := e
    simp [smSorted] at h
    simp only [smSet]
    split
    · simp [smSorted, hb, h.2]; assumption
    · split
      · rename_i h2; subst h2; simp [smSorted, h]
      · simp [smSorted, h.1]; exact ih (by omega) h.2

theorem smSorted_smSet {m : SMap β} (k : Nat) (v : β) (h : smSorted none m = true) : smSorted none (smSet m k v) = true := by
  cases m with
  | nil => rfl
  | cons e m =>
    obtain ⟨a, w⟩ := e
    simp [smSorted] at h
    simp only [smSet]
    split
    · simp [smSorted, h]; assumption
    · split
      · rename_i h2; subst h2; simp [smSorted, h]
      · simp [smSorted]; exact smSorted_smSet_some v (by omega) h

theorem smSorted_smDel_some {m : SMap β} {b : Nat} (k : Nat) (h : smSorted (some b) m = true) :
    smSorted (some b) (smDel m k) = true := by
  induction m generalizing b with
  | nil => rfl
  | cons e m ih =>
    obtain ⟨a, w⟩ := e
    simp [smSorted] at h
    simp only [smDel]
    split
    · exact ih (smSorted_lt (by omega) h.2)
    · simp [smSorted, h.1]; exact ih h.2

theorem smSorted_smDel {m : SMap β} (k : Nat) (h : smSorted none m = true) : smSorted none (smDel m k) = true := by
  cases m with
  | nil => rfl
  | cons e m =>
    obtain ⟨a, w⟩ := e
    simp [smSorted] at h
    simp only [smDel]
    split
    · exact smSorted_none (smSorted_smDel_some k h)
    · simp [smSorted]; exact smSorted_smDel_some k h

theorem smSorted_filter_some {m : SMap β} {b : Nat} (p : Nat × β → Bool) (h : smSorted (some b) m = true) :
    smSorted (some b) (m.filter p) = true := by
  induction m generalizing b with
  | nil => rfl
  | cons e m ih =>
    obtain ⟨a, w⟩ := e
    simp [smSorted] at h
    simp only [List.filter_cons]
    split
    · simp [smSorted, h.1]; exact ih h.2
    · exact ih (smSorted_lt (by omega) h.2)

theorem smSorted_filter {m : SMap β} (p : Nat × β → Bool) (h : smSorted none m = true) : smSorted none (m.filter p) = true := by
  cases m with
  | nil => rfl
  | cons e m =>
    obtain ⟨a, w⟩ := e
    simp [smSorted] at h
    simp only [List.filter_cons]
    split
    · simp [smSorted]; exact smSorted_filter_some p h
    · exact smSorted_none (smSorted_filter_some p h)

theorem smSorted_smDrop {m : SMap β} (p : Nat → Bool) (h : smSorted none m = true) : smSorted none (smDrop p m) = true :=
  smSorted_filter _ h

theorem smSet_all {m : SMap β} {p : Nat × β → Bool} {k : Nat} {v : β} (h : m.all p = true) (hv : p (k, v) = true) :
    (smSet m k v).all p = true := by
  induction m with
  | nil => simpa [smSet] using hv
  | cons e m ih =>
    obtain ⟨a, w⟩ := e
    simp only [List.all_cons, Bool.and_eq_true] at h
    simp only [smSet]
    split
    · simp [hv, h.1]; simpa using h.2
    · split
      · simp [hv]; simpa using h.2
      · simp only [List.all_cons, h.1, Bool.true_and]; exact ih h.2

theorem smDel_all {m : SMap β} {p : Nat × β → Bool} (k : Nat) (h : m.all p = true) : (smDel m k).all p = true := by
  induction m with
  | nil => rfl
  | cons e m ih =>
    obtain ⟨a, w⟩ := e
    simp only [List.all_cons, Bool.and_eq_true] at h
    simp only [smDel]
    split
    · exact ih h.2
    · simp only [List.all_cons, h.1, Bool.true_and]; exact ih h.2

@[simp] theorem smGet_smPut_self [DecidableEq β] (m : SMap β) (d : β) (k : Nat) (v : β) :
    smGet (smPut d m k v) k d = v := by
  unfold smPut
  split
  · rename_i hv; subst hv; simp [smGet, smFind_smDel_self]
  · simp

theorem smGet_smPut_ne [DecidableEq β] (m : SMap β) (d : β) {k j : Nat} (v : β) (h : j ≠ k) :
    smGet (smPut d m k v) j d = smGet m j d := by
  unfold smPut
  split
  · simp [smGet, smFind_smDel_ne m h]
  · exact smGet_smSet_ne m v d h

theorem smSorted_smPut [DecidableEq β] {m : SMap β} (d : β) (k : Nat) (v : β) (h : smSorted none m = true) :
    smSorted none (smPut d m k v) = true := by
  unfold smPut
  split
  · exact smSorted_smDel k h
  · exact smSorted_smSet k v h

end Sys2Proof
end

