-- ==== Sys2Proof/Laws/State.lean ====
section
/-! SUPPORT. The state's small operations: one lemma for each field of State under each, and what a register, a field of a register, a counter
or a thread reads after them. -/

namespace Sys2Proof.Machine

variable (s : State)

@[simp] theorem State.setReg_pending (off v : Nat) : (s.setReg off v).pending = s.pending := rfl
@[simp] theorem State.setReg_variant (off v : Nat) : (s.setReg off v).variant = s.variant := rfl
@[simp] theorem State.setReg_late (off v : Nat) : (s.setReg off v).late = s.late := rfl
@[simp] theorem State.setReg_cnt (off v : Nat) : (s.setReg off v).cnt = s.cnt := rfl
@[simp] theorem State.setReg_snap (off v : Nat) : (s.setReg off v).snap = s.snap := rfl
@[simp] theorem State.setReg_pw (off v : Nat) : (s.setReg off v).pw = s.pw := rfl
@[simp] theorem State.setReg_tk (off v : Nat) : (s.setReg off v).tk = s.tk := rfl
@[simp] theorem State.setReg_sq (off v : Nat) : (s.setReg off v).sq = s.sq := rfl
@[simp] theorem State.setReg_sy (off v : Nat) : (s.setReg off v).sy = s.sy := rfl
@[simp] theorem State.setReg_mem (off v : Nat) : (s.setReg off v).mem = s.mem := rfl
@[simp] theorem State.setReg_sg (off v : Nat) : (s.setReg off v).sg = s.sg := rfl
@[simp] theorem State.setReg_en (off v : Nat) : (s.setReg off v).en = s.en := rfl
@[simp] theorem State.setReg_tr (off v : Nat) : (s.setReg off v).tr = s.tr := rfl
@[simp] theorem State.setReg_fb (off v : Nat) : (s.setReg off v).fb = s.fb := rfl
@[simp] theorem State.setReg_ho (off v : Nat) : (s.setReg off v).ho = s.ho := rfl
@[simp] theorem State.setReg_ci (off v : Nat) : (s.setReg off v).ci = s.ci := rfl
@[simp] theorem State.setReg_fc (off v : Nat) : (s.setReg off v).fc = s.fc := rfl
@[simp] theorem State.setReg_out (off v : Nat) : (s.setReg off v).out = s.out := rfl
@[simp] theorem State.setReg_free (off v : Nat) : (s.setReg off v).free = s.free := rfl
@[simp] theorem State.setReg_thr (off v : Nat) (u : Th) : (s.setReg off v).thr u = s.thr u := rfl
@[simp] theorem State.setReg_prog (off v : Nat) (u : Th) : (s.setReg off v).prog u = s.prog u := rfl

@[simp] theorem State.set_pending (f : RF) (v : Nat) : (s.set f v).pending = s.pending := rfl
@[simp] theorem State.set_variant (f : RF) (v : Nat) : (s.set f v).variant = s.variant := rfl
@[simp] theorem State.set_late (f : RF) (v : Nat) : (s.set f v).late = s.late := rfl
@[simp] theorem State.set_cnt (f : RF) (v : Nat) : (s.set f v).cnt = s.cnt := rfl
@[simp] theorem State.set_snap (f : RF) (v : Nat) : (s.set f v).snap = s.snap := rfl
@[simp] theorem State.set_pw (f : RF) (v : Nat) : (s.set f v).pw = s.pw := rfl
@[simp] theorem State.set_tk (f : RF) (v : Nat) : (s.set f v).tk = s.tk := rfl
@[simp] theorem State.set_sq (f : RF) (v : Nat) : (s.set f v).sq = s.sq := rfl
@[simp] theorem State.set_sy (f : RF) (v : Nat) : (s.set f v).sy = s.sy := rfl
@[simp] theorem State.set_mem (f : RF) (v : Nat) : (s.set f v).mem = s.mem := rfl
@[simp] theorem State.set_sg (f : RF) (v : Nat) : (s.set f v).sg = s.sg := rfl
@[simp] theorem State.set_en (f : RF) (v : Nat) : (s.set f v).en = s.en := rfl
@[simp] theorem State.set_tr (f : RF) (v : Nat) : (s.set f v).tr = s.tr := rfl
@[simp] theorem State.set_fb (f : RF) (v : Nat) : (s.set f v).fb = s.fb := rfl
@[simp] theorem State.set_ho (f : RF) (v : Nat) : (s.set f v).ho = s.ho := rfl
@[simp] theorem State.set_ci (f : RF) (v : Nat) : (s.set f v).ci = s.ci := rfl
@[simp] theorem State.set_fc (f : RF) (v : Nat) : (s.set f v).fc = s.fc := rfl
@[simp] theorem State.set_out (f : RF) (v : Nat) : (s.set f v).out = s.out := rfl
@[simp] theorem State.set_free (f : RF) (v : Nat) : (s.set f v).free = s.free := rfl
@[simp] theorem State.set_thr (f : RF) (v : Nat) (u : Th) : (s.set f v).thr u = s.thr u := rfl
@[simp] theorem State.set_prog (f : RF) (v : Nat) (u : Th) : (s.set f v).prog u = s.prog u := rfl

@[simp] theorem State.bump_pending (f : RF) : (s.bump f).pending = s.pending := rfl
@[simp] theorem State.bump_variant (f : RF) : (s.bump f).variant = s.variant := rfl
@[simp] theorem State.bump_late (f : RF) : (s.bump f).late = s.late := rfl
@[simp] theorem State.bump_cnt (f : RF) : (s.bump f).cnt = s.cnt := rfl
@[simp] theorem State.bump_snap (f : RF) : (s.bump f).snap = s.snap := rfl
@[simp] theorem State.bump_pw (f : RF) : (s.bump f).pw = s.pw := rfl
@[simp] theorem State.bump_tk (f : RF) : (s.bump f).tk = s.tk := rfl
@[simp] theorem State.bump_sq (f : RF) : (s.bump f).sq = s.sq := rfl
@[simp] theorem State.bump_sy (f : RF) : (s.bump f).sy = s.sy := rfl
@[simp] theorem State.bump_mem (f : RF) : (s.bump f).mem = s.mem := rfl
@[simp] theorem State.bump_sg (f : RF) : (s.bump f).sg = s.sg := rfl
@[simp] theorem State.bump_en (f : RF) : (s.bump f).en = s.en := rfl
@[simp] theorem State.bump_tr (f : RF) : (s.bump f).tr = s.tr := rfl
@[simp] theorem State.bump_fb (f : RF) : (s.bump f).fb = s.fb := rfl
@[simp] theorem State.bump_ho (f : RF) : (s.bump f).ho = s.ho := rfl
@[simp] theorem State.bump_ci (f : RF) : (s.bump f).ci = s.ci := rfl
@[simp] theorem State.bump_fc (f : RF) : (s.bump f).fc = s.fc := rfl
@[simp] theorem State.bump_out (f : RF) : (s.bump f).out = s.out := rfl
@[simp] theorem State.bump_free (f : RF) : (s.bump f).free = s.free := rfl
@[simp] theorem State.bump_thr (f : RF) (u : Th) : (s.bump f).thr u = s.thr u := rfl
@[simp] theorem State.bump_prog (f : RF) (u : Th) : (s.bump f).prog u = s.prog u := rfl

@[simp] theorem State.result_pending (f g : RF) (r : Nat) : (s.result f g r).pending = s.pending := rfl
@[simp] theorem State.result_variant (f g : RF) (r : Nat) : (s.result f g r).variant = s.variant := rfl
@[simp] theorem State.result_late (f g : RF) (r : Nat) : (s.result f g r).late = s.late := rfl
@[simp] theorem State.result_cnt (f g : RF) (r : Nat) : (s.result f g r).cnt = s.cnt := rfl
@[simp] theorem State.result_snap (f g : RF) (r : Nat) : (s.result f g r).snap = s.snap := rfl
@[simp] theorem State.result_pw (f g : RF) (r : Nat) : (s.result f g r).pw = s.pw := rfl
@[simp] theorem State.result_tk (f g : RF) (r : Nat) : (s.result f g r).tk = s.tk := rfl
@[simp] theorem State.result_sq (f g : RF) (r : Nat) : (s.result f g r).sq = s.sq := rfl
@[simp] theorem State.result_sy (f g : RF) (r : Nat) : (s.result f g r).sy = s.sy := rfl
@[simp] theorem State.result_mem (f g : RF) (r : Nat) : (s.result f g r).mem = s.mem := rfl
@[simp] theorem State.result_sg (f g : RF) (r : Nat) : (s.result f g r).sg = s.sg := rfl
@[simp] theorem State.result_en (f g : RF) (r : Nat) : (s.result f g r).en = s.en := rfl
@[simp] theorem State.result_tr (f g : RF) (r : Nat) : (s.result f g r).tr = s.tr := rfl
@[simp] theorem State.result_fb (f g : RF) (r : Nat) : (s.result f g r).fb = s.fb := rfl
@[simp] theorem State.result_ho (f g : RF) (r : Nat) : (s.result f g r).ho = s.ho := rfl
@[simp] theorem State.result_ci (f g : RF) (r : Nat) : (s.result f g r).ci = s.ci := rfl
@[simp] theorem State.result_fc (f g : RF) (r : Nat) : (s.result f g r).fc = s.fc := rfl
@[simp] theorem State.result_out (f g : RF) (r : Nat) : (s.result f g r).out = s.out := rfl
@[simp] theorem State.result_free (f g : RF) (r : Nat) : (s.result f g r).free = s.free := rfl
@[simp] theorem State.result_thr (f g : RF) (r : Nat) (u : Th) : (s.result f g r).thr u = s.thr u := rfl
@[simp] theorem State.result_prog (f g : RF) (r : Nat) (u : Th) : (s.result f g r).prog u = s.prog u := rfl

@[simp] theorem State.set64_pending (f g : RF) (v : Nat) : (s.set64 f g v).pending = s.pending := rfl
@[simp] theorem State.set64_variant (f g : RF) (v : Nat) : (s.set64 f g v).variant = s.variant := rfl
@[simp] theorem State.set64_late (f g : RF) (v : Nat) : (s.set64 f g v).late = s.late := rfl
@[simp] theorem State.set64_cnt (f g : RF) (v : Nat) : (s.set64 f g v).cnt = s.cnt := rfl
@[simp] theorem State.set64_snap (f g : RF) (v : Nat) : (s.set64 f g v).snap = s.snap := rfl
@[simp] theorem State.set64_pw (f g : RF) (v : Nat) : (s.set64 f g v).pw = s.pw := rfl
@[simp] theorem State.set64_tk (f g : RF) (v : Nat) : (s.set64 f g v).tk = s.tk := rfl
@[simp] theorem State.set64_sq (f g : RF) (v : Nat) : (s.set64 f g v).sq = s.sq := rfl
@[simp] theorem State.set64_sy (f g : RF) (v : Nat) : (s.set64 f g v).sy = s.sy := rfl
@[simp] theorem State.set64_mem (f g : RF) (v : Nat) : (s.set64 f g v).mem = s.mem := rfl
@[simp] theorem State.set64_sg (f g : RF) (v : Nat) : (s.set64 f g v).sg = s.sg := rfl
@[simp] theorem State.set64_en (f g : RF) (v : Nat) : (s.set64 f g v).en = s.en := rfl
@[simp] theorem State.set64_tr (f g : RF) (v : Nat) : (s.set64 f g v).tr = s.tr := rfl
@[simp] theorem State.set64_fb (f g : RF) (v : Nat) : (s.set64 f g v).fb = s.fb := rfl
@[simp] theorem State.set64_ho (f g : RF) (v : Nat) : (s.set64 f g v).ho = s.ho := rfl
@[simp] theorem State.set64_ci (f g : RF) (v : Nat) : (s.set64 f g v).ci = s.ci := rfl
@[simp] theorem State.set64_fc (f g : RF) (v : Nat) : (s.set64 f g v).fc = s.fc := rfl
@[simp] theorem State.set64_out (f g : RF) (v : Nat) : (s.set64 f g v).out = s.out := rfl
@[simp] theorem State.set64_free (f g : RF) (v : Nat) : (s.set64 f g v).free = s.free := rfl
@[simp] theorem State.set64_thr (f g : RF) (v : Nat) (u : Th) : (s.set64 f g v).thr u = s.thr u := rfl
@[simp] theorem State.set64_prog (f g : RF) (v : Nat) (u : Th) : (s.set64 f g v).prog u = s.prog u := rfl

@[simp] theorem State.count_pending (f : RF) (n : Nat) : (s.count f n).pending = s.pending := rfl
@[simp] theorem State.count_variant (f : RF) (n : Nat) : (s.count f n).variant = s.variant := rfl
@[simp] theorem State.count_regs (f : RF) (n : Nat) : (s.count f n).regs = s.regs := rfl
@[simp] theorem State.count_late (f : RF) (n : Nat) : (s.count f n).late = s.late := rfl
@[simp] theorem State.count_snap (f : RF) (n : Nat) : (s.count f n).snap = s.snap := rfl
@[simp] theorem State.count_pw (f : RF) (n : Nat) : (s.count f n).pw = s.pw := rfl
@[simp] theorem State.count_tk (f : RF) (n : Nat) : (s.count f n).tk = s.tk := rfl
@[simp] theorem State.count_sq (f : RF) (n : Nat) : (s.count f n).sq = s.sq := rfl
@[simp] theorem State.count_sy (f : RF) (n : Nat) : (s.count f n).sy = s.sy := rfl
@[simp] theorem State.count_mem (f : RF) (n : Nat) : (s.count f n).mem = s.mem := rfl
@[simp] theorem State.count_sg (f : RF) (n : Nat) : (s.count f n).sg = s.sg := rfl
@[simp] theorem State.count_en (f : RF) (n : Nat) : (s.count f n).en = s.en := rfl
@[simp] theorem State.count_tr (f : RF) (n : Nat) : (s.count f n).tr = s.tr := rfl
@[simp] theorem State.count_fb (f : RF) (n : Nat) : (s.count f n).fb = s.fb := rfl
@[simp] theorem State.count_ho (f : RF) (n : Nat) : (s.count f n).ho = s.ho := rfl
@[simp] theorem State.count_ci (f : RF) (n : Nat) : (s.count f n).ci = s.ci := rfl
@[simp] theorem State.count_fc (f : RF) (n : Nat) : (s.count f n).fc = s.fc := rfl
@[simp] theorem State.count_out (f : RF) (n : Nat) : (s.count f n).out = s.out := rfl
@[simp] theorem State.count_free (f : RF) (n : Nat) : (s.count f n).free = s.free := rfl
@[simp] theorem State.count_reg (f : RF) (n : Nat) (j : Nat) : (s.count f n).reg j = s.reg j := rfl
@[simp] theorem State.count_get (f : RF) (n : Nat) (k : RF) : (s.count f n).get k = s.get k := rfl
@[simp] theorem State.count_pst (f : RF) (n : Nat) : (s.count f n).pst = s.pst := rfl
@[simp] theorem State.count_thr (f : RF) (n : Nat) (u : Th) : (s.count f n).thr u = s.thr u := rfl
@[simp] theorem State.count_prog (f : RF) (n : Nat) (u : Th) : (s.count f n).prog u = s.prog u := rfl

@[simp] theorem State.ignWrite_pending : (s.ignWrite).pending = s.pending := rfl
@[simp] theorem State.ignWrite_variant : (s.ignWrite).variant = s.variant := rfl
@[simp] theorem State.ignWrite_regs : (s.ignWrite).regs = s.regs := rfl
@[simp] theorem State.ignWrite_late : (s.ignWrite).late = s.late := rfl
@[simp] theorem State.ignWrite_snap : (s.ignWrite).snap = s.snap := rfl
@[simp] theorem State.ignWrite_pw : (s.ignWrite).pw = s.pw := rfl
@[simp] theorem State.ignWrite_tk : (s.ignWrite).tk = s.tk := rfl
@[simp] theorem State.ignWrite_sq : (s.ignWrite).sq = s.sq := rfl
@[simp] theorem State.ignWrite_sy : (s.ignWrite).sy = s.sy := rfl
@[simp] theorem State.ignWrite_mem : (s.ignWrite).mem = s.mem := rfl
@[simp] theorem State.ignWrite_sg : (s.ignWrite).sg = s.sg := rfl
@[simp] theorem State.ignWrite_en : (s.ignWrite).en = s.en := rfl
@[simp] theorem State.ignWrite_tr : (s.ignWrite).tr = s.tr := rfl
@[simp] theorem State.ignWrite_fb : (s.ignWrite).fb = s.fb := rfl
@[simp] theorem State.ignWrite_ho : (s.ignWrite).ho = s.ho := rfl
@[simp] theorem State.ignWrite_ci : (s.ignWrite).ci = s.ci := rfl
@[simp] theorem State.ignWrite_fc : (s.ignWrite).fc = s.fc := rfl
@[simp] theorem State.ignWrite_out : (s.ignWrite).out = s.out := rfl
@[simp] theorem State.ignWrite_free : (s.ignWrite).free = s.free := rfl
@[simp] theorem State.ignWrite_reg (j : Nat) : (s.ignWrite).reg j = s.reg j := rfl
@[simp] theorem State.ignWrite_get (k : RF) : (s.ignWrite).get k = s.get k := rfl
@[simp] theorem State.ignWrite_pst : (s.ignWrite).pst = s.pst := rfl
@[simp] theorem State.ignWrite_thr (u : Th) : (s.ignWrite).thr u = s.thr u := rfl
@[simp] theorem State.ignWrite_prog (u : Th) : (s.ignWrite).prog u = s.prog u := rfl

@[simp] theorem State.emit_pending (o : Output) : (s.emit o).pending = s.pending := rfl
@[simp] theorem State.emit_variant (o : Output) : (s.emit o).variant = s.variant := rfl
@[simp] theorem State.emit_regs (o : Output) : (s.emit o).regs = s.regs := rfl
@[simp] theorem State.emit_late (o : Output) : (s.emit o).late = s.late := rfl
@[simp] theorem State.emit_cnt (o : Output) : (s.emit o).cnt = s.cnt := rfl
@[simp] theorem State.emit_snap (o : Output) : (s.emit o).snap = s.snap := rfl
@[simp] theorem State.emit_pw (o : Output) : (s.emit o).pw = s.pw := rfl
@[simp] theorem State.emit_tk (o : Output) : (s.emit o).tk = s.tk := rfl
@[simp] theorem State.emit_sq (o : Output) : (s.emit o).sq = s.sq := rfl
@[simp] theorem State.emit_sy (o : Output) : (s.emit o).sy = s.sy := rfl
@[simp] theorem State.emit_mem (o : Output) : (s.emit o).mem = s.mem := rfl
@[simp] theorem State.emit_sg (o : Output) : (s.emit o).sg = s.sg := rfl
@[simp] theorem State.emit_en (o : Output) : (s.emit o).en = s.en := rfl
@[simp] theorem State.emit_tr (o : Output) : (s.emit o).tr = s.tr := rfl
@[simp] theorem State.emit_fb (o : Output) : (s.emit o).fb = s.fb := rfl
@[simp] theorem State.emit_ho (o : Output) : (s.emit o).ho = s.ho := rfl
@[simp] theorem State.emit_ci (o : Output) : (s.emit o).ci = s.ci := rfl
@[simp] theorem State.emit_fc (o : Output) : (s.emit o).fc = s.fc := rfl
@[simp] theorem State.emit_free (o : Output) : (s.emit o).free = s.free := rfl
@[simp] theorem State.emit_reg (o : Output) (j : Nat) : (s.emit o).reg j = s.reg j := rfl
@[simp] theorem State.emit_get (o : Output) (k : RF) : (s.emit o).get k = s.get k := rfl
@[simp] theorem State.emit_pst (o : Output) : (s.emit o).pst = s.pst := rfl
@[simp] theorem State.emit_thr (o : Output) (u : Th) : (s.emit o).thr u = s.thr u := rfl
@[simp] theorem State.emit_prog (o : Output) (u : Th) : (s.emit o).prog u = s.prog u := rfl

@[simp] theorem State.raise_pending (a b c : Nat) : (s.raise a b c).pending = s.pending := rfl
@[simp] theorem State.raise_variant (a b c : Nat) : (s.raise a b c).variant = s.variant := rfl
@[simp] theorem State.raise_regs (a b c : Nat) : (s.raise a b c).regs = s.regs := rfl
@[simp] theorem State.raise_late (a b c : Nat) : (s.raise a b c).late = s.late := rfl
@[simp] theorem State.raise_cnt (a b c : Nat) : (s.raise a b c).cnt = s.cnt := rfl
@[simp] theorem State.raise_snap (a b c : Nat) : (s.raise a b c).snap = s.snap := rfl
@[simp] theorem State.raise_pw (a b c : Nat) : (s.raise a b c).pw = s.pw := rfl
@[simp] theorem State.raise_tk (a b c : Nat) : (s.raise a b c).tk = s.tk := rfl
@[simp] theorem State.raise_sq (a b c : Nat) : (s.raise a b c).sq = s.sq := rfl
@[simp] theorem State.raise_sy (a b c : Nat) : (s.raise a b c).sy = s.sy := rfl
@[simp] theorem State.raise_mem (a b c : Nat) : (s.raise a b c).mem = s.mem := rfl
@[simp] theorem State.raise_sg (a b c : Nat) : (s.raise a b c).sg = s.sg := rfl
@[simp] theorem State.raise_en (a b c : Nat) : (s.raise a b c).en = s.en := rfl
@[simp] theorem State.raise_tr (a b c : Nat) : (s.raise a b c).tr = s.tr := rfl
@[simp] theorem State.raise_fb (a b c : Nat) : (s.raise a b c).fb = s.fb := rfl
@[simp] theorem State.raise_ho (a b c : Nat) : (s.raise a b c).ho = s.ho := rfl
@[simp] theorem State.raise_ci (a b c : Nat) : (s.raise a b c).ci = s.ci := rfl
@[simp] theorem State.raise_out (a b c : Nat) : (s.raise a b c).out = s.out := rfl
@[simp] theorem State.raise_free (a b c : Nat) : (s.raise a b c).free = s.free := rfl
@[simp] theorem State.raise_reg (a b c : Nat) (j : Nat) : (s.raise a b c).reg j = s.reg j := rfl
@[simp] theorem State.raise_get (a b c : Nat) (k : RF) : (s.raise a b c).get k = s.get k := rfl
@[simp] theorem State.raise_pst (a b c : Nat) : (s.raise a b c).pst = s.pst := rfl
@[simp] theorem State.raise_thr (a b c : Nat) (u : Th) : (s.raise a b c).thr u = s.thr u := rfl
@[simp] theorem State.raise_prog (a b c : Nat) (u : Th) : (s.raise a b c).prog u = s.prog u := rfl

@[simp] theorem State.setThr_pending (t : Th) (x : Thread) : (s.setThr t x).pending = s.pending := rfl
@[simp] theorem State.setThr_variant (t : Th) (x : Thread) : (s.setThr t x).variant = s.variant := rfl
@[simp] theorem State.setThr_regs (t : Th) (x : Thread) : (s.setThr t x).regs = s.regs := rfl
@[simp] theorem State.setThr_late (t : Th) (x : Thread) : (s.setThr t x).late = s.late := rfl
@[simp] theorem State.setThr_cnt (t : Th) (x : Thread) : (s.setThr t x).cnt = s.cnt := rfl
@[simp] theorem State.setThr_snap (t : Th) (x : Thread) : (s.setThr t x).snap = s.snap := rfl
@[simp] theorem State.setThr_pw (t : Th) (x : Thread) : (s.setThr t x).pw = s.pw := rfl
@[simp] theorem State.setThr_tk (t : Th) (x : Thread) : (s.setThr t x).tk = s.tk := rfl
@[simp] theorem State.setThr_sy (t : Th) (x : Thread) : (s.setThr t x).sy = s.sy := rfl
@[simp] theorem State.setThr_mem (t : Th) (x : Thread) : (s.setThr t x).mem = s.mem := rfl
@[simp] theorem State.setThr_sg (t : Th) (x : Thread) : (s.setThr t x).sg = s.sg := rfl
@[simp] theorem State.setThr_en (t : Th) (x : Thread) : (s.setThr t x).en = s.en := rfl
@[simp] theorem State.setThr_tr (t : Th) (x : Thread) : (s.setThr t x).tr = s.tr := rfl
@[simp] theorem State.setThr_fb (t : Th) (x : Thread) : (s.setThr t x).fb = s.fb := rfl
@[simp] theorem State.setThr_ho (t : Th) (x : Thread) : (s.setThr t x).ho = s.ho := rfl
@[simp] theorem State.setThr_ci (t : Th) (x : Thread) : (s.setThr t x).ci = s.ci := rfl
@[simp] theorem State.setThr_fc (t : Th) (x : Thread) : (s.setThr t x).fc = s.fc := rfl
@[simp] theorem State.setThr_out (t : Th) (x : Thread) : (s.setThr t x).out = s.out := rfl
@[simp] theorem State.setThr_free (t : Th) (x : Thread) : (s.setThr t x).free = s.free := rfl
@[simp] theorem State.setThr_reg (t : Th) (x : Thread) (j : Nat) : (s.setThr t x).reg j = s.reg j := rfl
@[simp] theorem State.setThr_get (t : Th) (x : Thread) (k : RF) : (s.setThr t x).get k = s.get k := rfl
@[simp] theorem State.setThr_pst (t : Th) (x : Thread) : (s.setThr t x).pst = s.pst := rfl

@[simp] theorem State.setProg_pending (p : Program) : (s.setProg p).pending = s.pending := rfl
@[simp] theorem State.setProg_variant (p : Program) : (s.setProg p).variant = s.variant := rfl
@[simp] theorem State.setProg_regs (p : Program) : (s.setProg p).regs = s.regs := rfl
@[simp] theorem State.setProg_late (p : Program) : (s.setProg p).late = s.late := rfl
@[simp] theorem State.setProg_cnt (p : Program) : (s.setProg p).cnt = s.cnt := rfl
@[simp] theorem State.setProg_snap (p : Program) : (s.setProg p).snap = s.snap := rfl
@[simp] theorem State.setProg_pw (p : Program) : (s.setProg p).pw = s.pw := rfl
@[simp] theorem State.setProg_tk (p : Program) : (s.setProg p).tk = s.tk := rfl
@[simp] theorem State.setProg_sy (p : Program) : (s.setProg p).sy = s.sy := rfl
@[simp] theorem State.setProg_mem (p : Program) : (s.setProg p).mem = s.mem := rfl
@[simp] theorem State.setProg_sg (p : Program) : (s.setProg p).sg = s.sg := rfl
@[simp] theorem State.setProg_en (p : Program) : (s.setProg p).en = s.en := rfl
@[simp] theorem State.setProg_tr (p : Program) : (s.setProg p).tr = s.tr := rfl
@[simp] theorem State.setProg_fb (p : Program) : (s.setProg p).fb = s.fb := rfl
@[simp] theorem State.setProg_ho (p : Program) : (s.setProg p).ho = s.ho := rfl
@[simp] theorem State.setProg_ci (p : Program) : (s.setProg p).ci = s.ci := rfl
@[simp] theorem State.setProg_fc (p : Program) : (s.setProg p).fc = s.fc := rfl
@[simp] theorem State.setProg_out (p : Program) : (s.setProg p).out = s.out := rfl
@[simp] theorem State.setProg_free (p : Program) : (s.setProg p).free = s.free := rfl
@[simp] theorem State.setProg_reg (p : Program) (j : Nat) : (s.setProg p).reg j = s.reg j := rfl
@[simp] theorem State.setProg_get (p : Program) (k : RF) : (s.setProg p).get k = s.get k := rfl
@[simp] theorem State.setProg_pst (p : Program) : (s.setProg p).pst = s.pst := rfl

@[simp] theorem State.trkTake_pending (c h : Nat) : (s.trkTake c h).pending = s.pending := rfl
@[simp] theorem State.trkTake_variant (c h : Nat) : (s.trkTake c h).variant = s.variant := rfl
@[simp] theorem State.trkTake_regs (c h : Nat) : (s.trkTake c h).regs = s.regs := rfl
@[simp] theorem State.trkTake_late (c h : Nat) : (s.trkTake c h).late = s.late := rfl
@[simp] theorem State.trkTake_cnt (c h : Nat) : (s.trkTake c h).cnt = s.cnt := rfl
@[simp] theorem State.trkTake_snap (c h : Nat) : (s.trkTake c h).snap = s.snap := rfl
@[simp] theorem State.trkTake_pw (c h : Nat) : (s.trkTake c h).pw = s.pw := rfl
@[simp] theorem State.trkTake_tk (c h : Nat) : (s.trkTake c h).tk = s.tk := rfl
@[simp] theorem State.trkTake_sy (c h : Nat) : (s.trkTake c h).sy = s.sy := rfl
@[simp] theorem State.trkTake_mem (c h : Nat) : (s.trkTake c h).mem = s.mem := rfl
@[simp] theorem State.trkTake_sg (c h : Nat) : (s.trkTake c h).sg = s.sg := rfl
@[simp] theorem State.trkTake_en (c h : Nat) : (s.trkTake c h).en = s.en := rfl
@[simp] theorem State.trkTake_tr (c h : Nat) : (s.trkTake c h).tr = s.tr := rfl
@[simp] theorem State.trkTake_fb (c h : Nat) : (s.trkTake c h).fb = s.fb := rfl
@[simp] theorem State.trkTake_ho (c h : Nat) : (s.trkTake c h).ho = s.ho := rfl
@[simp] theorem State.trkTake_ci (c h : Nat) : (s.trkTake c h).ci = s.ci := rfl
@[simp] theorem State.trkTake_fc (c h : Nat) : (s.trkTake c h).fc = s.fc := rfl
@[simp] theorem State.trkTake_out (c h : Nat) : (s.trkTake c h).out = s.out := rfl
@[simp] theorem State.trkTake_free (c h : Nat) : (s.trkTake c h).free = s.free := rfl
@[simp] theorem State.trkTake_reg (c h : Nat) (j : Nat) : (s.trkTake c h).reg j = s.reg j := rfl
@[simp] theorem State.trkTake_get (c h : Nat) (k : RF) : (s.trkTake c h).get k = s.get k := rfl
@[simp] theorem State.trkTake_pst (c h : Nat) : (s.trkTake c h).pst = s.pst := rfl

@[simp] theorem State.trkGive_pending (n : Nat) : (s.trkGive n).pending = s.pending := rfl
@[simp] theorem State.trkGive_variant (n : Nat) : (s.trkGive n).variant = s.variant := rfl
@[simp] theorem State.trkGive_regs (n : Nat) : (s.trkGive n).regs = s.regs := rfl
@[simp] theorem State.trkGive_late (n : Nat) : (s.trkGive n).late = s.late := rfl
@[simp] theorem State.trkGive_cnt (n : Nat) : (s.trkGive n).cnt = s.cnt := rfl
@[simp] theorem State.trkGive_snap (n : Nat) : (s.trkGive n).snap = s.snap := rfl
@[simp] theorem State.trkGive_pw (n : Nat) : (s.trkGive n).pw = s.pw := rfl
@[simp] theorem State.trkGive_tk (n : Nat) : (s.trkGive n).tk = s.tk := rfl
@[simp] theorem State.trkGive_sy (n : Nat) : (s.trkGive n).sy = s.sy := rfl
@[simp] theorem State.trkGive_mem (n : Nat) : (s.trkGive n).mem = s.mem := rfl
@[simp] theorem State.trkGive_sg (n : Nat) : (s.trkGive n).sg = s.sg := rfl
@[simp] theorem State.trkGive_en (n : Nat) : (s.trkGive n).en = s.en := rfl
@[simp] theorem State.trkGive_tr (n : Nat) : (s.trkGive n).tr = s.tr := rfl
@[simp] theorem State.trkGive_fb (n : Nat) : (s.trkGive n).fb = s.fb := rfl
@[simp] theorem State.trkGive_ho (n : Nat) : (s.trkGive n).ho = s.ho := rfl
@[simp] theorem State.trkGive_ci (n : Nat) : (s.trkGive n).ci = s.ci := rfl
@[simp] theorem State.trkGive_fc (n : Nat) : (s.trkGive n).fc = s.fc := rfl
@[simp] theorem State.trkGive_out (n : Nat) : (s.trkGive n).out = s.out := rfl
@[simp] theorem State.trkGive_free (n : Nat) : (s.trkGive n).free = s.free := rfl
@[simp] theorem State.trkGive_reg (n : Nat) (j : Nat) : (s.trkGive n).reg j = s.reg j := rfl
@[simp] theorem State.trkGive_get (n : Nat) (k : RF) : (s.trkGive n).get k = s.get k := rfl
@[simp] theorem State.trkGive_pst (n : Nat) : (s.trkGive n).pst = s.pst := rfl

/-! ### Bits -/

theorem bits_eq (w lo n : Nat) : bits w lo n = w / 2 ^ lo % 2 ^ n := by simp [bits, Nat.shiftRight_eq_div_pow]

theorem putBits_eq (w lo n v : Nat) :
    putBits w lo n v = w / 2 ^ lo / 2 ^ n * 2 ^ n * 2 ^ lo + v % 2 ^ n * 2 ^ lo + w % 2 ^ lo := by
  have h1 := Nat.div_add_mod w (2 ^ lo)
  have h2 := Nat.div_add_mod (w / 2 ^ lo) (2 ^ n)
  simp only [putBits, bits_eq, Nat.shiftLeft_eq]
  have h3 : w = w / 2 ^ lo / 2 ^ n * 2 ^ n * 2 ^ lo + w / 2 ^ lo % 2 ^ n * 2 ^ lo + w % 2 ^ lo := by
    calc w = 2 ^ lo * (w / 2 ^ lo) + w % 2 ^ lo := h1.symm
      _ = 2 ^ lo * (2 ^ n * (w / 2 ^ lo / 2 ^ n) + w / 2 ^ lo % 2 ^ n) + w % 2 ^ lo := by rw [h2]
      _ = _ := by ring
  omega

/-- A field that has been written reads what was written. -/
theorem bits_putBits_self (w lo n v : Nat) : bits (putBits w lo n v) lo n = v % 2 ^ n := by
  rw [putBits_eq, bits_eq]
  have hlt : w % 2 ^ lo < 2 ^ lo := Nat.mod_lt _ (by positivity)
  have : (w / 2 ^ lo / 2 ^ n * 2 ^ n * 2 ^ lo + v % 2 ^ n * 2 ^ lo + w % 2 ^ lo) / 2 ^ lo
      = w / 2 ^ lo / 2 ^ n * 2 ^ n + v % 2 ^ n := by
    rw [← Nat.add_mul, Nat.add_comm, Nat.add_mul_div_right _ _ (by positivity), Nat.div_eq_of_lt hlt, Nat.zero_add]
  rw [this, Nat.add_comm, Nat.add_mul_mod_self_right, Nat.mod_mod]

/-- The bits above a field that is written stay. -/
theorem bits_putBits_above (w v : Nat) {lo n lo' n' : Nat} (h : lo + n ≤ lo') :
    bits (putBits w lo n v) lo' n' = bits w lo' n' := by
  rw [putBits_eq, bits_eq, bits_eq]
  have hlt : w % 2 ^ lo < 2 ^ lo := Nat.mod_lt _ (by positivity)
  have hv : v % 2 ^ n < 2 ^ n := Nat.mod_lt _ (by positivity)
  have hr : v % 2 ^ n * 2 ^ lo + w % 2 ^ lo < 2 ^ n * 2 ^ lo := by
    have h1 : (v % 2 ^ n + 1) * 2 ^ lo ≤ 2 ^ n * 2 ^ lo := Nat.mul_le_mul_right _ hv
    rw [Nat.add_mul, Nat.one_mul] at h1
    omega
  have e : 2 ^ lo' = 2 ^ n * 2 ^ lo * 2 ^ (lo' - lo - n) := by rw [← pow_add, ← pow_add]; congr 1; omega
  have e2 : w / 2 ^ lo' = w / 2 ^ lo / 2 ^ n / 2 ^ (lo' - lo - n) := by
    rw [e, Nat.mul_comm (2 ^ n), Nat.div_div_eq_div_mul, Nat.div_div_eq_div_mul, Nat.mul_assoc]
  rw [e2, e, ← Nat.div_div_eq_div_mul, Nat.mul_assoc, Nat.add_assoc, Nat.add_comm,
    Nat.add_mul_div_right _ _ (by positivity), Nat.div_eq_of_lt hr, Nat.zero_add]

/-- The bits below a field that is written stay. -/
theorem bits_putBits_below (w v : Nat) {lo n lo' n' : Nat} (h : lo' + n' ≤ lo) :
    bits (putBits w lo n v) lo' n' = bits w lo' n' := by
  rw [putBits_eq, bits_eq, bits_eq, ← Nat.mod_mul_right_div_self, ← Nat.mod_mul_right_div_self, ← pow_add]
  congr 1
  have e : 2 ^ lo = 2 ^ (lo' + n') * 2 ^ (lo - lo' - n') := by rw [← pow_add]; congr 1; omega
  rw [← Nat.add_mul, Nat.add_comm, e, ← Nat.mul_assoc, Nat.mul_right_comm, Nat.add_mul_mod_self_right,
    Nat.mod_mul_right_mod]

theorem bits_mod (w : Nat) {lo n k : Nat} (h : lo + n ≤ k) : bits (w % 2 ^ k) lo n = bits w lo n := by
  rw [bits_eq, bits_eq, ← Nat.mod_mul_right_div_self, ← Nat.mod_mul_right_div_self, ← pow_add]
  congr 1
  exact Nat.mod_mod_of_dvd _ (pow_dvd_pow 2 h)

theorem bits_lt (w lo n : Nat) : bits w lo n < 2 ^ n := by rw [bits_eq]; exact Nat.mod_lt _ (by positivity)

/-! ### Registers and fields -/

@[simp] theorem State.reg_setReg_self (off v : Nat) : (s.setReg off v).reg off = v % 2 ^ 32 := by
  simp [State.reg, State.setReg, smFind_smSet_self]

theorem State.reg_setReg_ne {off o : Nat} (v : Nat) (h : o ≠ off) : (s.setReg off v).reg o = s.reg o := by
  simp [State.reg, State.setReg, smFind_smSet_ne _ _ h]

theorem State.reg_set_ne {f : RF} {o : Nat} (v : Nat) (h : o ≠ f.off) : (s.set f v).reg o = s.reg o := s.reg_setReg_ne _ h

theorem State.get_set_self {f : RF} (v : Nat) (h : f.lo + f.wid ≤ 32) : (s.set f v).get f = v % 2 ^ f.wid := by
  rw [State.get, State.set, State.reg_setReg_self, bits_mod _ h, bits_putBits_self]

theorem State.get_set_ne {f h : RF} (v : Nat) (hoff : h.off ≠ f.off) : (s.set f v).get h = s.get h := by
  simp [State.get, State.reg_set_ne _ _ hoff]

/-- Two fields of one register. -/
theorem State.get_set_apart {f h : RF} (v : Nat) (hw : h.lo + h.wid ≤ 32)
    (hd : f.lo + f.wid ≤ h.lo ∨ h.lo + h.wid ≤ f.lo) : (s.set f v).get h = s.get h := by
  by_cases ho : h.off = f.off
  · simp only [State.get, State.set, ho, State.reg_setReg_self, bits_mod _ hw]
    rcases hd with hd | hd
    · exact bits_putBits_above _ _ hd
    · exact bits_putBits_below _ _ hd
  · exact s.get_set_ne v ho

/-- An event advances its status by one step (R9). -/
theorem State.get_bump {f : RF} (h : f.lo + f.wid ≤ 32) : (s.bump f).get f = seqNext (s.get f) % 2 ^ f.wid := by
  simp [State.bump, State.get_set_self _ _ h]

/-- A field of the state with a changed power state. -/
theorem State.pst_setReg_ne {off : Nat} (v : Nat) (h : F.PWR_STATE_STATE.off ≠ off) : (s.setReg off v).pst = s.pst := by
  unfold State.pst State.get; rw [State.reg_setReg_ne _ _ h]; rfl

theorem State.pst_set_ne {f : RF} (v : Nat) (h : F.PWR_STATE_STATE.off ≠ f.off) : (s.set f v).pst = s.pst :=
  s.pst_setReg_ne _ h

/-! ### Counters, threads -/

@[simp] theorem State.live_count_self (f : RF) (n : Nat) :
    (s.count f n).live f = min (s.live f + n) (2 ^ f.wid - 1) := by
  simp [State.live, State.count]

theorem State.live_count_ne {f h : RF} (n : Nat) (hk : h.key ≠ f.key) : (s.count f n).live h = s.live h := by
  simp [State.live, State.count, smGet_smSet_ne _ _ _ hk]

@[simp] theorem State.thr_setThr_self (t : Th) (x : Thread) : (s.setThr t x).thr t = x := by
  simp [State.thr, State.setThr]

theorem State.thr_setThr_ne {t u : Th} (x : Thread) (h : thKey u ≠ thKey t) : (s.setThr t x).thr u = s.thr u := by
  simp [State.thr, State.setThr, smGet_smSet_ne _ _ _ h]

theorem Thread.gr_setG_self (x : Thread) {n : Nat} (v : Word) (hn : n ≠ 0) : (x.setG n v).gr n = v := by
  simp [Thread.gr, Thread.setG, hn]

theorem Thread.gr_setG_ne (x : Thread) {n m : Nat} (v : Word) (h : m ≠ n) : (x.setG n v).gr m = x.gr m := by
  unfold Thread.gr Thread.setG
  split
  · rfl
  · split
    · rfl
    · exact smGet_smPut_ne _ _ _ h

/-- Writes to g0 are discarded and it reads 0 (R125). -/
@[simp] theorem Thread.gr_zero (x : Thread) : x.gr 0 = 0#64 := rfl
@[simp] theorem Thread.setG_zero (x : Thread) (v : Word) : x.setG 0 v = x := rfl

end Sys2Proof.Machine
end

