-- ==== Sys2Proof/Laws/Blocks.lean ====
section
/-! SUPPORT. The blocks' small operations (an engine, a queue pair, a receive queue, a port, a bay, a sync count): one lemma for each field of State
under each, and what the block reads after them. -/

namespace Sys2Proof.Machine

variable (s : State)

@[simp] theorem State.setEngine_pending (e : Nat) (x : Engine) : (s.setEngine e x).pending = s.pending := rfl
@[simp] theorem State.setEngine_variant (e : Nat) (x : Engine) : (s.setEngine e x).variant = s.variant := rfl
@[simp] theorem State.setEngine_regs (e : Nat) (x : Engine) : (s.setEngine e x).regs = s.regs := rfl
@[simp] theorem State.setEngine_late (e : Nat) (x : Engine) : (s.setEngine e x).late = s.late := rfl
@[simp] theorem State.setEngine_cnt (e : Nat) (x : Engine) : (s.setEngine e x).cnt = s.cnt := rfl
@[simp] theorem State.setEngine_snap (e : Nat) (x : Engine) : (s.setEngine e x).snap = s.snap := rfl
@[simp] theorem State.setEngine_pw (e : Nat) (x : Engine) : (s.setEngine e x).pw = s.pw := rfl
@[simp] theorem State.setEngine_tk (e : Nat) (x : Engine) : (s.setEngine e x).tk = s.tk := rfl
@[simp] theorem State.setEngine_sq (e : Nat) (x : Engine) : (s.setEngine e x).sq = s.sq := rfl
@[simp] theorem State.setEngine_sy (e : Nat) (x : Engine) : (s.setEngine e x).sy = s.sy := rfl
@[simp] theorem State.setEngine_mem (e : Nat) (x : Engine) : (s.setEngine e x).mem = s.mem := rfl
@[simp] theorem State.setEngine_sg (e : Nat) (x : Engine) : (s.setEngine e x).sg = s.sg := rfl
@[simp] theorem State.setEngine_tr (e : Nat) (x : Engine) : (s.setEngine e x).tr = s.tr := rfl
@[simp] theorem State.setEngine_fb (e : Nat) (x : Engine) : (s.setEngine e x).fb = s.fb := rfl
@[simp] theorem State.setEngine_ho (e : Nat) (x : Engine) : (s.setEngine e x).ho = s.ho := rfl
@[simp] theorem State.setEngine_ci (e : Nat) (x : Engine) : (s.setEngine e x).ci = s.ci := rfl
@[simp] theorem State.setEngine_fc (e : Nat) (x : Engine) : (s.setEngine e x).fc = s.fc := rfl
@[simp] theorem State.setEngine_out (e : Nat) (x : Engine) : (s.setEngine e x).out = s.out := rfl
@[simp] theorem State.setEngine_free (e : Nat) (x : Engine) : (s.setEngine e x).free = s.free := rfl
@[simp] theorem State.setEngine_reg (e : Nat) (x : Engine) (j : Nat) : (s.setEngine e x).reg j = s.reg j := rfl
@[simp] theorem State.setEngine_get (e : Nat) (x : Engine) (k : RF) : (s.setEngine e x).get k = s.get k := rfl
@[simp] theorem State.setEngine_pst (e : Nat) (x : Engine) : (s.setEngine e x).pst = s.pst := rfl

@[simp] theorem State.endDesc_pending (d : Desc) (c : Nat) : (s.endDesc d c).pending = s.pending := rfl
@[simp] theorem State.endDesc_variant (d : Desc) (c : Nat) : (s.endDesc d c).variant = s.variant := rfl
@[simp] theorem State.endDesc_regs (d : Desc) (c : Nat) : (s.endDesc d c).regs = s.regs := rfl
@[simp] theorem State.endDesc_late (d : Desc) (c : Nat) : (s.endDesc d c).late = s.late := rfl
@[simp] theorem State.endDesc_cnt (d : Desc) (c : Nat) : (s.endDesc d c).cnt = s.cnt := rfl
@[simp] theorem State.endDesc_snap (d : Desc) (c : Nat) : (s.endDesc d c).snap = s.snap := rfl
@[simp] theorem State.endDesc_pw (d : Desc) (c : Nat) : (s.endDesc d c).pw = s.pw := rfl
@[simp] theorem State.endDesc_tk (d : Desc) (c : Nat) : (s.endDesc d c).tk = s.tk := rfl
@[simp] theorem State.endDesc_sq (d : Desc) (c : Nat) : (s.endDesc d c).sq = s.sq := rfl
@[simp] theorem State.endDesc_sy (d : Desc) (c : Nat) : (s.endDesc d c).sy = s.sy := rfl
@[simp] theorem State.endDesc_mem (d : Desc) (c : Nat) : (s.endDesc d c).mem = s.mem := rfl
@[simp] theorem State.endDesc_sg (d : Desc) (c : Nat) : (s.endDesc d c).sg = s.sg := rfl
@[simp] theorem State.endDesc_tr (d : Desc) (c : Nat) : (s.endDesc d c).tr = s.tr := rfl
@[simp] theorem State.endDesc_fb (d : Desc) (c : Nat) : (s.endDesc d c).fb = s.fb := rfl
@[simp] theorem State.endDesc_ho (d : Desc) (c : Nat) : (s.endDesc d c).ho = s.ho := rfl
@[simp] theorem State.endDesc_ci (d : Desc) (c : Nat) : (s.endDesc d c).ci = s.ci := rfl
@[simp] theorem State.endDesc_fc (d : Desc) (c : Nat) : (s.endDesc d c).fc = s.fc := rfl
@[simp] theorem State.endDesc_out (d : Desc) (c : Nat) : (s.endDesc d c).out = s.out := rfl
@[simp] theorem State.endDesc_free (d : Desc) (c : Nat) : (s.endDesc d c).free = s.free := rfl
@[simp] theorem State.endDesc_reg (d : Desc) (c : Nat) (j : Nat) : (s.endDesc d c).reg j = s.reg j := rfl
@[simp] theorem State.endDesc_get (d : Desc) (c : Nat) (k : RF) : (s.endDesc d c).get k = s.get k := rfl
@[simp] theorem State.endDesc_pst (d : Desc) (c : Nat) : (s.endDesc d c).pst = s.pst := rfl

@[simp] theorem State.setQp_pending (n : Nat) (q : Qp) : (s.setQp n q).pending = s.pending := rfl
@[simp] theorem State.setQp_variant (n : Nat) (q : Qp) : (s.setQp n q).variant = s.variant := rfl
@[simp] theorem State.setQp_regs (n : Nat) (q : Qp) : (s.setQp n q).regs = s.regs := rfl
@[simp] theorem State.setQp_late (n : Nat) (q : Qp) : (s.setQp n q).late = s.late := rfl
@[simp] theorem State.setQp_cnt (n : Nat) (q : Qp) : (s.setQp n q).cnt = s.cnt := rfl
@[simp] theorem State.setQp_snap (n : Nat) (q : Qp) : (s.setQp n q).snap = s.snap := rfl
@[simp] theorem State.setQp_pw (n : Nat) (q : Qp) : (s.setQp n q).pw = s.pw := rfl
@[simp] theorem State.setQp_tk (n : Nat) (q : Qp) : (s.setQp n q).tk = s.tk := rfl
@[simp] theorem State.setQp_sq (n : Nat) (q : Qp) : (s.setQp n q).sq = s.sq := rfl
@[simp] theorem State.setQp_sy (n : Nat) (q : Qp) : (s.setQp n q).sy = s.sy := rfl
@[simp] theorem State.setQp_mem (n : Nat) (q : Qp) : (s.setQp n q).mem = s.mem := rfl
@[simp] theorem State.setQp_sg (n : Nat) (q : Qp) : (s.setQp n q).sg = s.sg := rfl
@[simp] theorem State.setQp_en (n : Nat) (q : Qp) : (s.setQp n q).en = s.en := rfl
@[simp] theorem State.setQp_fb (n : Nat) (q : Qp) : (s.setQp n q).fb = s.fb := rfl
@[simp] theorem State.setQp_ho (n : Nat) (q : Qp) : (s.setQp n q).ho = s.ho := rfl
@[simp] theorem State.setQp_ci (n : Nat) (q : Qp) : (s.setQp n q).ci = s.ci := rfl
@[simp] theorem State.setQp_fc (n : Nat) (q : Qp) : (s.setQp n q).fc = s.fc := rfl
@[simp] theorem State.setQp_out (n : Nat) (q : Qp) : (s.setQp n q).out = s.out := rfl
@[simp] theorem State.setQp_free (n : Nat) (q : Qp) : (s.setQp n q).free = s.free := rfl
@[simp] theorem State.setQp_reg (n : Nat) (q : Qp) (j : Nat) : (s.setQp n q).reg j = s.reg j := rfl
@[simp] theorem State.setQp_get (n : Nat) (q : Qp) (k : RF) : (s.setQp n q).get k = s.get k := rfl
@[simp] theorem State.setQp_pst (n : Nat) (q : Qp) : (s.setQp n q).pst = s.pst := rfl

@[simp] theorem State.setRq_pending (k : Nat) (r : Rq) : (s.setRq k r).pending = s.pending := rfl
@[simp] theorem State.setRq_variant (k : Nat) (r : Rq) : (s.setRq k r).variant = s.variant := rfl
@[simp] theorem State.setRq_regs (k : Nat) (r : Rq) : (s.setRq k r).regs = s.regs := rfl
@[simp] theorem State.setRq_late (k : Nat) (r : Rq) : (s.setRq k r).late = s.late := rfl
@[simp] theorem State.setRq_cnt (k : Nat) (r : Rq) : (s.setRq k r).cnt = s.cnt := rfl
@[simp] theorem State.setRq_snap (k : Nat) (r : Rq) : (s.setRq k r).snap = s.snap := rfl
@[simp] theorem State.setRq_pw (k : Nat) (r : Rq) : (s.setRq k r).pw = s.pw := rfl
@[simp] theorem State.setRq_tk (k : Nat) (r : Rq) : (s.setRq k r).tk = s.tk := rfl
@[simp] theorem State.setRq_sq (k : Nat) (r : Rq) : (s.setRq k r).sq = s.sq := rfl
@[simp] theorem State.setRq_sy (k : Nat) (r : Rq) : (s.setRq k r).sy = s.sy := rfl
@[simp] theorem State.setRq_mem (k : Nat) (r : Rq) : (s.setRq k r).mem = s.mem := rfl
@[simp] theorem State.setRq_sg (k : Nat) (r : Rq) : (s.setRq k r).sg = s.sg := rfl
@[simp] theorem State.setRq_en (k : Nat) (r : Rq) : (s.setRq k r).en = s.en := rfl
@[simp] theorem State.setRq_fb (k : Nat) (r : Rq) : (s.setRq k r).fb = s.fb := rfl
@[simp] theorem State.setRq_ho (k : Nat) (r : Rq) : (s.setRq k r).ho = s.ho := rfl
@[simp] theorem State.setRq_ci (k : Nat) (r : Rq) : (s.setRq k r).ci = s.ci := rfl
@[simp] theorem State.setRq_fc (k : Nat) (r : Rq) : (s.setRq k r).fc = s.fc := rfl
@[simp] theorem State.setRq_out (k : Nat) (r : Rq) : (s.setRq k r).out = s.out := rfl
@[simp] theorem State.setRq_free (k : Nat) (r : Rq) : (s.setRq k r).free = s.free := rfl
@[simp] theorem State.setRq_reg (k : Nat) (r : Rq) (j : Nat) : (s.setRq k r).reg j = s.reg j := rfl
@[simp] theorem State.setRq_get (i : Nat) (r : Rq) (k : RF) : (s.setRq i r).get k = s.get k := rfl
@[simp] theorem State.setRq_pst (k : Nat) (r : Rq) : (s.setRq k r).pst = s.pst := rfl

@[simp] theorem State.setPort_pending (n : Nat) (p : Port) : (s.setPort n p).pending = s.pending := rfl
@[simp] theorem State.setPort_variant (n : Nat) (p : Port) : (s.setPort n p).variant = s.variant := rfl
@[simp] theorem State.setPort_regs (n : Nat) (p : Port) : (s.setPort n p).regs = s.regs := rfl
@[simp] theorem State.setPort_late (n : Nat) (p : Port) : (s.setPort n p).late = s.late := rfl
@[simp] theorem State.setPort_cnt (n : Nat) (p : Port) : (s.setPort n p).cnt = s.cnt := rfl
@[simp] theorem State.setPort_snap (n : Nat) (p : Port) : (s.setPort n p).snap = s.snap := rfl
@[simp] theorem State.setPort_pw (n : Nat) (p : Port) : (s.setPort n p).pw = s.pw := rfl
@[simp] theorem State.setPort_tk (n : Nat) (p : Port) : (s.setPort n p).tk = s.tk := rfl
@[simp] theorem State.setPort_sq (n : Nat) (p : Port) : (s.setPort n p).sq = s.sq := rfl
@[simp] theorem State.setPort_sy (n : Nat) (p : Port) : (s.setPort n p).sy = s.sy := rfl
@[simp] theorem State.setPort_mem (n : Nat) (p : Port) : (s.setPort n p).mem = s.mem := rfl
@[simp] theorem State.setPort_sg (n : Nat) (p : Port) : (s.setPort n p).sg = s.sg := rfl
@[simp] theorem State.setPort_en (n : Nat) (p : Port) : (s.setPort n p).en = s.en := rfl
@[simp] theorem State.setPort_tr (n : Nat) (p : Port) : (s.setPort n p).tr = s.tr := rfl
@[simp] theorem State.setPort_ho (n : Nat) (p : Port) : (s.setPort n p).ho = s.ho := rfl
@[simp] theorem State.setPort_ci (n : Nat) (p : Port) : (s.setPort n p).ci = s.ci := rfl
@[simp] theorem State.setPort_fc (n : Nat) (p : Port) : (s.setPort n p).fc = s.fc := rfl
@[simp] theorem State.setPort_out (n : Nat) (p : Port) : (s.setPort n p).out = s.out := rfl
@[simp] theorem State.setPort_free (n : Nat) (p : Port) : (s.setPort n p).free = s.free := rfl
@[simp] theorem State.setPort_reg (n : Nat) (p : Port) (j : Nat) : (s.setPort n p).reg j = s.reg j := rfl
@[simp] theorem State.setPort_get (n : Nat) (p : Port) (k : RF) : (s.setPort n p).get k = s.get k := rfl
@[simp] theorem State.setPort_pst (n : Nat) (p : Port) : (s.setPort n p).pst = s.pst := rfl

@[simp] theorem State.setBay_pending (m : Nat) (b : Bay) : (s.setBay m b).pending = s.pending := rfl
@[simp] theorem State.setBay_variant (m : Nat) (b : Bay) : (s.setBay m b).variant = s.variant := rfl
@[simp] theorem State.setBay_regs (m : Nat) (b : Bay) : (s.setBay m b).regs = s.regs := rfl
@[simp] theorem State.setBay_late (m : Nat) (b : Bay) : (s.setBay m b).late = s.late := rfl
@[simp] theorem State.setBay_cnt (m : Nat) (b : Bay) : (s.setBay m b).cnt = s.cnt := rfl
@[simp] theorem State.setBay_snap (m : Nat) (b : Bay) : (s.setBay m b).snap = s.snap := rfl
@[simp] theorem State.setBay_pw (m : Nat) (b : Bay) : (s.setBay m b).pw = s.pw := rfl
@[simp] theorem State.setBay_tk (m : Nat) (b : Bay) : (s.setBay m b).tk = s.tk := rfl
@[simp] theorem State.setBay_sq (m : Nat) (b : Bay) : (s.setBay m b).sq = s.sq := rfl
@[simp] theorem State.setBay_sy (m : Nat) (b : Bay) : (s.setBay m b).sy = s.sy := rfl
@[simp] theorem State.setBay_mem (m : Nat) (b : Bay) : (s.setBay m b).mem = s.mem := rfl
@[simp] theorem State.setBay_sg (m : Nat) (b : Bay) : (s.setBay m b).sg = s.sg := rfl
@[simp] theorem State.setBay_en (m : Nat) (b : Bay) : (s.setBay m b).en = s.en := rfl
@[simp] theorem State.setBay_tr (m : Nat) (b : Bay) : (s.setBay m b).tr = s.tr := rfl
@[simp] theorem State.setBay_ho (m : Nat) (b : Bay) : (s.setBay m b).ho = s.ho := rfl
@[simp] theorem State.setBay_ci (m : Nat) (b : Bay) : (s.setBay m b).ci = s.ci := rfl
@[simp] theorem State.setBay_fc (m : Nat) (b : Bay) : (s.setBay m b).fc = s.fc := rfl
@[simp] theorem State.setBay_out (m : Nat) (b : Bay) : (s.setBay m b).out = s.out := rfl
@[simp] theorem State.setBay_free (m : Nat) (b : Bay) : (s.setBay m b).free = s.free := rfl
@[simp] theorem State.setBay_reg (m : Nat) (b : Bay) (j : Nat) : (s.setBay m b).reg j = s.reg j := rfl
@[simp] theorem State.setBay_get (m : Nat) (b : Bay) (k : RF) : (s.setBay m b).get k = s.get k := rfl
@[simp] theorem State.setBay_pst (m : Nat) (b : Bay) : (s.setBay m b).pst = s.pst := rfl

@[simp] theorem State.setCount_pending (obj n : Nat) : (s.setCount obj n).pending = s.pending := rfl
@[simp] theorem State.setCount_variant (obj n : Nat) : (s.setCount obj n).variant = s.variant := rfl
@[simp] theorem State.setCount_regs (obj n : Nat) : (s.setCount obj n).regs = s.regs := rfl
@[simp] theorem State.setCount_late (obj n : Nat) : (s.setCount obj n).late = s.late := rfl
@[simp] theorem State.setCount_cnt (obj n : Nat) : (s.setCount obj n).cnt = s.cnt := rfl
@[simp] theorem State.setCount_snap (obj n : Nat) : (s.setCount obj n).snap = s.snap := rfl
@[simp] theorem State.setCount_pw (obj n : Nat) : (s.setCount obj n).pw = s.pw := rfl
@[simp] theorem State.setCount_tk (obj n : Nat) : (s.setCount obj n).tk = s.tk := rfl
@[simp] theorem State.setCount_sq (obj n : Nat) : (s.setCount obj n).sq = s.sq := rfl
@[simp] theorem State.setCount_mem (obj n : Nat) : (s.setCount obj n).mem = s.mem := rfl
@[simp] theorem State.setCount_sg (obj n : Nat) : (s.setCount obj n).sg = s.sg := rfl
@[simp] theorem State.setCount_en (obj n : Nat) : (s.setCount obj n).en = s.en := rfl
@[simp] theorem State.setCount_tr (obj n : Nat) : (s.setCount obj n).tr = s.tr := rfl
@[simp] theorem State.setCount_fb (obj n : Nat) : (s.setCount obj n).fb = s.fb := rfl
@[simp] theorem State.setCount_ho (obj n : Nat) : (s.setCount obj n).ho = s.ho := rfl
@[simp] theorem State.setCount_ci (obj n : Nat) : (s.setCount obj n).ci = s.ci := rfl
@[simp] theorem State.setCount_fc (obj n : Nat) : (s.setCount obj n).fc = s.fc := rfl
@[simp] theorem State.setCount_out (obj n : Nat) : (s.setCount obj n).out = s.out := rfl
@[simp] theorem State.setCount_free (obj n : Nat) : (s.setCount obj n).free = s.free := rfl
@[simp] theorem State.setCount_reg (obj n : Nat) (j : Nat) : (s.setCount obj n).reg j = s.reg j := rfl
@[simp] theorem State.setCount_get (obj n : Nat) (k : RF) : (s.setCount obj n).get k = s.get k := rfl
@[simp] theorem State.setCount_pst (obj n : Nat) : (s.setCount obj n).pst = s.pst := rfl

@[simp] theorem State.syncSend_pending (r : SyncReq) : (s.syncSend r).pending = s.pending := rfl
@[simp] theorem State.syncSend_variant (r : SyncReq) : (s.syncSend r).variant = s.variant := rfl
@[simp] theorem State.syncSend_regs (r : SyncReq) : (s.syncSend r).regs = s.regs := rfl
@[simp] theorem State.syncSend_late (r : SyncReq) : (s.syncSend r).late = s.late := rfl
@[simp] theorem State.syncSend_cnt (r : SyncReq) : (s.syncSend r).cnt = s.cnt := rfl
@[simp] theorem State.syncSend_snap (r : SyncReq) : (s.syncSend r).snap = s.snap := rfl
@[simp] theorem State.syncSend_pw (r : SyncReq) : (s.syncSend r).pw = s.pw := rfl
@[simp] theorem State.syncSend_tk (r : SyncReq) : (s.syncSend r).tk = s.tk := rfl
@[simp] theorem State.syncSend_sq (r : SyncReq) : (s.syncSend r).sq = s.sq := rfl
@[simp] theorem State.syncSend_mem (r : SyncReq) : (s.syncSend r).mem = s.mem := rfl
@[simp] theorem State.syncSend_sg (r : SyncReq) : (s.syncSend r).sg = s.sg := rfl
@[simp] theorem State.syncSend_en (r : SyncReq) : (s.syncSend r).en = s.en := rfl
@[simp] theorem State.syncSend_tr (r : SyncReq) : (s.syncSend r).tr = s.tr := rfl
@[simp] theorem State.syncSend_fb (r : SyncReq) : (s.syncSend r).fb = s.fb := rfl
@[simp] theorem State.syncSend_ho (r : SyncReq) : (s.syncSend r).ho = s.ho := rfl
@[simp] theorem State.syncSend_ci (r : SyncReq) : (s.syncSend r).ci = s.ci := rfl
@[simp] theorem State.syncSend_fc (r : SyncReq) : (s.syncSend r).fc = s.fc := rfl
@[simp] theorem State.syncSend_out (r : SyncReq) : (s.syncSend r).out = s.out := rfl
@[simp] theorem State.syncSend_free (r : SyncReq) : (s.syncSend r).free = s.free := rfl
@[simp] theorem State.syncSend_reg (r : SyncReq) (j : Nat) : (s.syncSend r).reg j = s.reg j := rfl
@[simp] theorem State.syncSend_get (r : SyncReq) (k : RF) : (s.syncSend r).get k = s.get k := rfl
@[simp] theorem State.syncSend_pst (r : SyncReq) : (s.syncSend r).pst = s.pst := rfl

@[simp] theorem State.engine_setEngine_self (n : Nat) (x : Engine) : (s.setEngine n x).engine n = x := by
  simp [State.engine, State.setEngine]

theorem State.engine_setEngine_ne {n m : Nat} (x : Engine) (h : m ≠ n) : (s.setEngine n x).engine m = s.engine m := by
  simp [State.engine, State.setEngine, smGet_smSet_ne _ _ _ h]

@[simp] theorem State.qp_setQp_self (n : Nat) (x : Qp) : (s.setQp n x).qp n = x := by
  simp [State.qp, State.setQp]

theorem State.qp_setQp_ne {n m : Nat} (x : Qp) (h : m ≠ n) : (s.setQp n x).qp m = s.qp m := by
  simp [State.qp, State.setQp, smGet_smSet_ne _ _ _ h]

@[simp] theorem State.port_setPort_self (n : Nat) (x : Port) : (s.setPort n x).port n = x := by
  simp [State.port, State.setPort]

theorem State.port_setPort_ne {n m : Nat} (x : Port) (h : m ≠ n) : (s.setPort n x).port m = s.port m := by
  simp [State.port, State.setPort, smGet_smSet_ne _ _ _ h]

@[simp] theorem State.bay_setBay_self (n : Nat) (x : Bay) : (s.setBay n x).bay n = x := by
  simp [State.bay, State.setBay]

theorem State.bay_setBay_ne {n m : Nat} (x : Bay) (h : m ≠ n) : (s.setBay n x).bay m = s.bay m := by
  simp [State.bay, State.setBay, smGet_smSet_ne _ _ _ h]

@[simp] theorem State.endDesc_ended (d : Desc) (c : Nat) : (s.endDesc d c).en.ended = s.en.ended ++ [⟨d, c⟩] := rfl

@[simp] theorem State.endDesc_engine (d : Desc) (c e : Nat) : (s.endDesc d c).engine e = s.engine e := rfl

@[simp] theorem State.setEngine_ended (e : Nat) (x : Engine) : (s.setEngine e x).en.ended = s.en.ended := rfl

@[simp] theorem State.syncSend_reqs (r : SyncReq) : (s.syncSend r).sy.reqs = s.sy.reqs ++ [r] := rfl

@[simp] theorem State.syncSend_count (r : SyncReq) (obj : Nat) : (s.syncSend r).syncCount obj = s.syncCount obj := rfl

@[simp] theorem State.setPort_bay (n : Nat) (p : Port) (m : Nat) : (s.setPort n p).bay m = s.bay m := rfl

@[simp] theorem State.setBay_port (m : Nat) (b : Bay) (n : Nat) : (s.setBay m b).port n = s.port n := rfl

@[simp] theorem State.syncCount_setCount_self (obj n : Nat) : (s.setCount obj n).syncCount obj = n := by
  simp [State.syncCount, State.setCount]

theorem State.syncCount_setCount_ne {i j : Nat} (n : Nat) (h : j ≠ i) : (s.setCount i n).syncCount j = s.syncCount j := by
  simp [State.syncCount, State.setCount, smGet_smPut_ne _ _ _ h]

end Sys2Proof.Machine
end

