-- ==== Sys2Proof/Laws/Memory.lean ====
section
/-! SUPPORT. HBM and staging: a byte reads what was last written to it, a write leaves every other byte alone, and every memory operation
keeps the canonical form. -/

namespace Sys2Proof.Machine

variable {s : State}

/-- What every step of a fold keeps, the fold keeps. -/
theorem foldl_keeps {α σ : Type} {P : σ → Prop} {f : σ → α → σ} (hf : ∀ t x, P t → P (f t x)) (l : List α) {t : σ} (h : P t) :
    P (l.foldl f t) := by
  induction l generalizing t with
  | nil => exact h
  | cons x l ih => exact ih (hf t x h)

theorem wf_parts {m : Mem} (h : Memory.wf m = true) :
    smSorted none m.hbm = true ∧ m.hbm.all (fun e => e.2 != 0#8) = true ∧ smSorted none m.stg = true ∧ smSorted none m.rsv = true := by
  simpa [Memory.wf, and_assoc] using h

theorem wf_of {m : Mem} (h1 : smSorted none m.hbm = true) (h2 : m.hbm.all (fun e => e.2 != 0#8) = true)
    (h3 : smSorted none m.stg = true) (h4 : smSorted none m.rsv = true) : Memory.wf m = true := by
  rw [Memory.wf, h1, h2, h3, h4]; rfl

/-! ### Bytes -/

@[simp] theorem setByte_variant (a : Nat) (b : Byte) : (s.setByte a b).variant = s.variant := by
  unfold State.setByte; split <;> (try split) <;> rfl

/-- Read after write. -/
theorem byte_setByte_self (a : Nat) (b : Byte) : (s.setByte a b).byte a = b := by
  unfold State.setByte State.byte
  by_cases hs : isStg a = true
  · simp [hs, smFind_smSet_self]
  · by_cases hr : inReserve s.variant a = true
    · simp [hs, hr, smFind_smSet_self]
    · simp [hs, hr]

/-- A write leaves every other byte alone. -/
theorem byte_setByte_ne {a a' : Nat} (b : Byte) (h : a' ≠ a) : (s.setByte a b).byte a' = s.byte a' := by
  unfold State.setByte State.byte
  by_cases hs : isStg a = true
  · simp [hs, smFind_smSet_ne _ _ h]
  · by_cases hr : inReserve s.variant a = true
    · simp [hs, hr, smFind_smSet_ne _ _ h]
    · simp [hs, hr, smGet_smPut_ne _ _ _ h]

theorem byte_setBytes_out {bs : List Byte} {a a' : Nat} (h : a' < a ∨ a + bs.length ≤ a') :
    (s.setBytes a bs).byte a' = s.byte a' := by
  induction bs generalizing s a with
  | nil => rfl
  | cons b bs ih =>
    simp only [List.length_cons] at h
    rw [State.setBytes, ih (by omega), byte_setByte_ne _ (by omega)]

theorem setByte_wf (h : Memory.wf s.mem = true) (a : Nat) (b : Byte) : Memory.wf (s.setByte a b).mem = true := by
  obtain ⟨h1, h2, h3, h4⟩ := wf_parts h
  unfold State.setByte
  split
  · exact wf_of h1 h2 (smSorted_smSet _ _ h3) h4
  · split
    · exact wf_of h1 h2 h3 (smSorted_smSet _ _ h4)
    · refine wf_of (smSorted_smPut _ _ _ h1) ?_ h3 h4
      show (smPut 0#8 s.mem.hbm a b).all _ = true
      unfold smPut
      split
      · exact smDel_all _ h2
      · rename_i hb; exact smSet_all h2 (by simpa using hb)

theorem setBytes_wf {bs : List Byte} (h : Memory.wf s.mem = true) (a : Nat) : Memory.wf (s.setBytes a bs).mem = true := by
  induction bs generalizing s a with
  | nil => exact h
  | cons b bs ih => exact ih (setByte_wf h a b) (a + 1)

/-! ### Operations that leave the bytes alone -/

/-- The bytes of memory are the same. -/
structure SameBytes (s t : State) : Prop where
  hbm : t.mem.hbm = s.mem.hbm
  stg : t.mem.stg = s.mem.stg
  rsv : t.mem.rsv = s.mem.rsv
  refill : t.mem.refill = s.mem.refill
  load : t.mem.rsvLoad = s.mem.rsvLoad
  variant : t.variant = s.variant

theorem SameBytes.refl (s : State) : SameBytes s s := ⟨rfl, rfl, rfl, rfl, rfl, rfl⟩

theorem SameBytes.trans {a b c : State} (h : SameBytes a b) (k : SameBytes b c) : SameBytes a c :=
  ⟨k.hbm.trans h.hbm, k.stg.trans h.stg, k.rsv.trans h.rsv, k.refill.trans h.refill, k.load.trans h.load, k.variant.trans h.variant⟩

theorem SameBytes.byte {t : State} (h : SameBytes s t) (a : Nat) : t.byte a = s.byte a := by
  rw [State.byte, State.byte, h.hbm, h.stg, h.rsv, h.refill, h.load, h.variant]

theorem SameBytes.wf {t : State} (h : SameBytes s t) (hw : Memory.wf s.mem = true) : Memory.wf t.mem = true := by
  unfold Memory.wf; rw [h.hbm, h.stg, h.rsv]; exact hw

theorem sumLine_same (tile : Nat) : SameBytes s (s.sumLine tile) := by
  unfold State.sumLine
  simp only
  split
  · exact .refl s
  · split
    · exact .refl s
    · split <;> exact ⟨rfl, rfl, rfl, rfl, rfl, rfl⟩

theorem tileFail_same (req tile : Nat) : SameBytes s (s.tileFail req tile) := by
  unfold State.tileFail
  simp only
  split
  · exact ⟨rfl, rfl, rfl, rfl, rfl, rfl⟩
  · split <;> exact ⟨rfl, rfl, rfl, rfl, rfl, rfl⟩

theorem tileCheck_same (req tile : Nat) : SameBytes s (s.tileCheck req tile).1 := by
  unfold State.tileCheck
  split
  · exact .refl s
  · split
    · exact sumLine_same tile
    · exact (sumLine_same tile).trans (tileFail_same req tile)

theorem checkTiles_same (req : Nat) (ts : List Nat) : SameBytes s (s.checkTiles req ts).1 := by
  induction ts generalizing s with
  | nil => exact .refl s
  | cons t ts ih => exact (tileCheck_same req t).trans ih

/-- A read changes no byte. -/
theorem memRead_same (req a n : Nat) : SameBytes s (memRead s req a n).1 := by
  have h := checkTiles_same (s := s) req (tilesOf a n)
  unfold memRead
  split <;> (rename_i heq; rw [heq] at h; exact h)

theorem memRead_wf (h : Memory.wf s.mem = true) (req a n : Nat) : Memory.wf (memRead s req a n).1.mem = true :=
  (memRead_same req a n).wf h

theorem tileWrite_wf (h : Memory.wf s.mem = true) (req a : Nat) (bs : List Byte) : Memory.wf (tileWrite s req a bs).1.mem = true := by
  unfold tileWrite
  simp only
  split
  · exact h
  · split
    · exact setBytes_wf ((sumLine_same _).wf h) a
    · have hc := (tileCheck_same (s := s) req (tileOf a)).wf h
      split
      · rename_i s' heq
        rw [heq] at hc
        apply setBytes_wf
        split <;> exact hc
      · exact hc

theorem writePieces_wf (h : Memory.wf s.mem = true) (req : Nat) (ps : List (Nat × List Byte)) :
    Memory.wf (writePieces s req ps).1.mem = true := by
  induction ps generalizing s with
  | nil => exact h
  | cons p ps ih => obtain ⟨a, bs⟩ := p; exact ih (tileWrite_wf h req a bs)

theorem memWrite_wf (h : Memory.wf s.mem = true) (req a : Nat) (bs : List Byte) : Memory.wf (memWrite s req a bs).1.mem = true :=
  writePieces_wf h req _

/-! ### Refills -/

theorem refillBank_wf (h : Memory.wf s.mem = true) (b : Nat) : Memory.wf (refillBank s b).mem = true := by
  obtain ⟨h1, h2, h3, h4⟩ := wf_parts h
  exact wf_of h1 h2 (smSorted_smDrop (fun a => stgBank a == b && !inStatePart (stgOff a)) h3) h4

theorem powerBank_wf (h : Memory.wf s.mem = true) (b : Nat) : Memory.wf (powerBank s b).mem = true := by
  obtain ⟨h1, h2, h3, h4⟩ := wf_parts (refillBank_wf h b)
  exact wf_of h1 h2 (smSorted_smDrop (fun a => stgBank a == b) h3) h4

theorem zeroHbm_wf (h : Memory.wf s.mem = true) : Memory.wf (zeroHbm s).mem = true := by
  obtain ⟨_, _, h3, h4⟩ := wf_parts h
  exact wf_of rfl rfl h3 h4

theorem loadReserve_wf (h : Memory.wf s.mem = true) : Memory.wf (loadReserve s).mem = true := by
  obtain ⟨h1, h2, h3, _⟩ := wf_parts h
  exact wf_of h1 h2 h3 rfl

/-! ### Holding units -/

theorem markEcc_same (u : HoldUnit) (a k : Nat) : SameBytes s (markEcc s u a k) := by
  unfold markEcc
  split
  · exact ⟨rfl, rfl, rfl, rfl, rfl, rfl⟩
  · exact ⟨rfl, rfl, rfl, rfl, rfl, rfl⟩
  · split
    · exact ⟨rfl, rfl, rfl, rfl, rfl, rfl⟩
    · apply foldl_keeps (P := fun t => SameBytes s t)
      · exact fun t x h => h.trans ⟨rfl, rfl, rfl, rfl, rfl, rfl⟩
      · exact .refl s
  · split <;> exact ⟨rfl, rfl, rfl, rfl, rfl, rfl⟩

theorem stateEcc_same (b k : Nat) : SameBytes s (stateEcc s b k) := by
  unfold stateEcc; split <;> exact ⟨rfl, rfl, rfl, rfl, rfl, rfl⟩

theorem performAccess_wf (h : Memory.wf s.mem = true) (u : HoldUnit) (a : TileAccess) :
    Memory.wf (performAccess s u a).mem = true := by
  unfold performAccess
  simp only
  split
  · have hs : ∀ t : State, Memory.wf t.mem = true → Memory.wf (match accWrites (accAddr u a) a.op with
        | some (w, d) => t.setBytes w d
        | none => t).mem = true := by
      intro t ht; split
      · exact setBytes_wf ht _
      · exact ht
    apply hs
    split
    · exact (stateEcc_same _ _).wf h
    · exact h
  · have hs : ∀ t : State, Memory.wf t.mem = true → Memory.wf (match accWrites (accAddr u a) a.op with
        | some (w, d) => (tileWrite t a.req w d).1
        | none => (t.tileCheck a.req (tileOf (accAddr u a))).1).mem = true := by
      intro t ht; split
      · exact tileWrite_wf ht _ _ _
      · exact (tileCheck_same _ _).wf ht
    apply hs
    split
    · exact (markEcc_same _ _ _).wf h
    · exact h

theorem keepRecord_same (s t : State) : SameBytes t (keepRecord s t) := by
  unfold keepRecord
  apply foldl_keeps (P := fun u => SameBytes t u)
  · exact fun u x h => h.trans ⟨rfl, rfl, rfl, rfl, rfl, rfl⟩
  · exact ⟨rfl, rfl, rfl, rfl, rfl, rfl⟩

theorem performAll_wf (u : HoldUnit) (l : List TileAccess) (low : Option Nat) (h : Memory.wf s.mem = true) :
    Memory.wf (performAll u low l s).mem = true := by
  induction l generalizing s low with
  | nil => exact h
  | cons a l ih =>
    have ha := performAccess_wf h u a
    unfold performAll
    simp only
    split
    · exact ih _ ha
    · split
      · split
        · exact ih _ ((keepRecord_same _ _).wf ha)
        · exact ih _ ha
      · exact ih _ ha

theorem turnPtr_same (key : Nat) (c : Bool) : SameBytes s (s.turnPtr key c) := by
  unfold State.turnPtr; split <;> exact ⟨rfl, rfl, rfl, rfl, rfl, rfl⟩

theorem turnPtrs_same (u : HoldUnit) (w rest : List TileAccess) : SameBytes s (turnPtrs s u w rest) := by
  unfold turnPtrs
  split
  · exact turnPtr_same _ _
  · exact ((turnPtr_same _ _).trans (turnPtr_same _ _)).trans (turnPtr_same _ _)

theorem holdServe_wf (h : Memory.wf s.mem = true) (u : HoldUnit) (w : List TileAccess) :
    Memory.wf (holdServe s u w).mem = true := by
  unfold holdServe
  exact performAll_wf _ _ _ ((turnPtrs_same u w _).wf h)

end Sys2Proof.Machine
end

