-- ==== Sys2Proof/Laws/Ulent.lean ====
section
/-! SUPPORT. Issuing an instruction: what a sequencer does under `Issues`, once for every instruction of a thread. -/

namespace Sys2Proof.Machine

variable {s : State} {t : Th} {c : Instr} {p : Program}

/-- The state in which an issued instruction has its effect. -/
def issued (s : State) (t : Th) : State :=
  State.count { s with sq := { s.sq with last := smPut 0 s.sq.last t.dom 0 } } (F.SEQ_ISSUED t.dom)

@[simp] theorem issued_thr (u : Th) : (issued s t).thr u = s.thr u := rfl
@[simp] theorem issued_prog (u : Th) : (issued s t).prog u = s.prog u := rfl
@[simp] theorem issued_reg (o : Nat) : (issued s t).reg o = s.reg o := rfl
@[simp] theorem issued_get (f : RF) : (issued s t).get f = s.get f := rfl
@[simp] theorem issued_mem : (issued s t).mem = s.mem := rfl
@[simp] theorem issued_byte (a : Nat) : (issued s t).byte a = s.byte a := rfl

/-- An instruction that its sequencer issues has its own effect on the issued state. -/
theorem issueAt_of (h : Issues s t c p) (body : State → Thread → Program → State) :
    issueAt s t c body = body (issued s t) (s.thr t) p := by
  obtain ⟨h1, h2, hf, h3, h4, h5, h6, w, h7, h8⟩ := h
  rw [not_and, Bool.not_eq_true] at h6
  simp only [issueAt, issueWord, h1, h2, hf, h3, h4, h5, h7, wordIs, h8, issued]
  by_cases h9 : smGet s.sq.last t.dom 0 = (s.thr t).live + 1
  · simp [h6 h9]
  · simp [h9]

/-- What an instruction answers when it issues, from its meaning's form. -/
theorem answers_of (h : Issues s t c p) {body : State → Thread → Program → State} (e : exec c s = .next (issueAt s t c body)) :
    exec c s = .next (body (issued s t) (s.thr t) p) := by rw [e, issueAt_of h]

theorem stepTo_eq (f : Thread → Thread) (x : Thread) : stepTo t f s x p = s.setThr t (f x).next := rfl
theorem jumpTo_eq (f : Thread → Thread) (x : Thread) : jumpTo t f s x p = s.setThr t (f x) := rfl
@[simp] theorem issued_anySaved (q : Program) : anySaved (issued s t) q = anySaved s q := rfl

/-- A thread-only instruction changes nothing but the thread and the sequencer's counts. -/
theorem onlyThread_setThr (x : Thread) : OnlyThread s ((issued s t).setThr t x) t where
  rest := rfl
  sq := rfl
  others := fun v hv => State.thr_setThr_ne _ x hv
  cnt := fun k hk => by
    simp at hk
    exact smGet_smSet_ne _ _ _ hk
  issued := by simp [issued, State.setThr, State.live, State.count]
  mem := fun _ => rfl

/-- A result written to a general register. -/
theorem wroteG_setG (gd : Nat) (v : Word) :
    WroteG s ((issued s t).setThr t ((s.thr t).setG gd v).next) t gd v where
  only := onlyThread_setThr _
  value := by
    simp only [State.thr_setThr_self]
    by_cases h : gd = 0
    · subst h; rfl
    · simp only [h, if_false]; exact Thread.gr_setG_self _ _ h
  regs := fun n hn => by simp only [State.thr_setThr_self]; exact Thread.gr_setG_ne _ _ hn
  rest := by
    simp only [State.thr_setThr_self, Thread.next, Thread.setG]
    split <;> rfl

end Sys2Proof.Machine
end

