-- ==== Sys2Proof/Laws/Threads.lean ====
section
/-! SUPPORT. Stops, completion entries, halts: what each can change (R135–R137, R447–R449). -/

namespace Sys2Proof.Machine

variable {s : State}

/-! ### Completion queues -/

/-- What a completion entry leaves alone: everything but registers of the host blocks, counters, the tracker, the queues, the objects pending
reclaim, and the output. -/
structure CqFrame (s u : State) : Prop where
  rest : u = { s with regs := u.regs, cnt := u.cnt, sq := u.sq, ho := u.ho, out := u.out }
  sq : u.sq = { s.sq with trk := u.sq.trk }
  ho : u.ho = { s.ho with cqs := u.ho.cqs, sqs := u.ho.sqs, sqPtr := u.ho.sqPtr, owned := u.ho.owned, ownedStg := u.ho.ownedStg }
  regs : ∀ off, off < 0x600000 → u.reg off = s.reg off

theorem CqFrame.refl (s : State) : CqFrame s s := ⟨rfl, rfl, rfl, fun _ _ => rfl⟩

theorem CqFrame.trans {a b c : State} (h : CqFrame a b) (k : CqFrame b c) : CqFrame a c := by
  obtain ⟨h1, h2, h3, h4⟩ := h
  obtain ⟨k1, k2, k3, k4⟩ := k
  refine ⟨?_, ?_, ?_, fun o ho => (k4 o ho).trans (h4 o ho)⟩
  · rw [k1, h1]
  · rw [k2, h2]
  · rw [k3, h3]

theorem CqFrame.thr {s u : State} (h : CqFrame s u) (t : Th) : u.thr t = s.thr t := by rw [State.thr, State.thr, h.sq]
theorem CqFrame.byte {s u : State} (h : CqFrame s u) (a : Nat) : u.byte a = s.byte a := by
  have h1 : u.mem = s.mem := by rw [h.rest]
  have h2 : u.variant = s.variant := by rw [h.rest]
  rw [State.byte, State.byte, h1, h2]
theorem CqFrame.progs {s u : State} (h : CqFrame s u) : u.sq.progs = s.sq.progs := by rw [h.sq]
theorem CqFrame.get {s u : State} (h : CqFrame s u) {f : RF} (hf : f.off < 0x600000) : u.get f = s.get f := by
  rw [State.get, State.get, h.regs _ hf]

theorem msixOff (ctx k : Nat) : 0x600000 ≤ (F.MSIX_PBA ctx k).off := by
  show 0x600000 ≤ fnBase ctx + 0xc00 + 0x4 * k
  unfold fnBase; split <;> omega

theorem sqFetchOff (k : Nat) : 0x600000 ≤ (F.SQ_FETCH_FETCH (k / 16) (k % 16)).off := by
  show 0x600000 ≤ fnBase (k / 16) + 0x28 + 0x20 * (k % 16)
  unfold fnBase; split <;> omega

/-- A register of the host blocks. -/
theorem setHost_frame (s : State) {f : RF} (v : Nat) (h : 0x600000 ≤ f.off) : CqFrame s (s.set f v) :=
  ⟨rfl, rfl, rfl, fun off ho => State.reg_set_ne s v (by omega)⟩

theorem sendMsix_frame (s : State) (ctx v : Nat) : CqFrame s (s.sendMsix ctx v) := by
  unfold State.sendMsix
  split
  · exact .refl s
  · split
    · refine ⟨rfl, rfl, rfl, fun off ho => State.reg_setReg_ne _ _ ?_⟩
      have := msixOff ctx (v / 32); omega
    · exact ⟨rfl, rfl, rfl, fun _ _ => rfl⟩

theorem cqFire_frame (s : State) (n : Nat) : CqFrame s (s.cqFire n) := by
  unfold State.cqFire
  split
  · exact .refl s
  · split
    · refine CqFrame.trans ?_ (sendMsix_frame _ _ _)
      exact ⟨rfl, rfl, rfl, fun _ _ => rfl⟩
    · exact .refl s

theorem cqWrite_frame (s : State) (n : Nat) (q : Cq) (e : List Byte) : CqFrame s (s.cqWrite n q e) := by
  unfold State.cqWrite
  refine CqFrame.trans ?_ (cqFire_frame _ _)
  exact ⟨rfl, rfl, rfl, fun _ _ => rfl⟩

theorem setSqd_frame (s : State) (k : Nat) (q : Sq) : CqFrame s (s.setSqd k q) := by
  unfold State.setSqd
  refine CqFrame.trans ?_ (setHost_frame _ _ (sqFetchOff k))
  refine CqFrame.trans ?_ (setHost_frame _ _ (sqFetchOff k))
  exact ⟨rfl, rfl, rfl, fun _ _ => rfl⟩

theorem sqFetch_frame (s : State) (k : Nat) : CqFrame s (sqFetch s k) := by
  unfold sqFetch
  split
  · unfold sqAsk
    refine CqFrame.trans ?_ (setSqd_frame _ _ _)
    split <;> exact ⟨rfl, rfl, rfl, fun _ _ => rfl⟩
  · exact .refl s

theorem sqFetchAll_frame (s : State) : CqFrame s (sqFetchAll s) := by
  have h : ∀ (l : List Nat) (u : State), CqFrame s u → CqFrame s (l.foldl sqFetch u) := by
    intro l
    induction l with
    | nil => exact fun _ h => h
    | cons k l ih => exact fun u h => ih _ (h.trans (sqFetch_frame u k))
  unfold sqFetchAll
  simp only
  split
  · exact (h _ s (.refl s)).trans ⟨rfl, rfl, rfl, fun _ _ => rfl⟩
  · exact h _ s (.refl s)

theorem reclaim_frame (s : State) : CqFrame s (reclaim s) := by
  unfold reclaim
  split
  · exact .refl s
  · refine CqFrame.trans ?_ (setHost_frame _ _ (by show 0x600000 ≤ 0x610804; omega))
    exact ⟨rfl, rfl, rfl, fun _ _ => rfl⟩

theorem trkBack_frame (s : State) (no : Nat) : CqFrame s (s.trkBack no) := by
  have h0 : CqFrame s (s.trkGive no) := ⟨rfl, rfl, rfl, fun _ _ => rfl⟩
  have h : CqFrame s (reclaim (s.trkGive no)) := h0.trans (reclaim_frame _)
  unfold State.trkBack
  simp only
  split
  · exact h.trans (sqFetchAll_frame _)
  · exact h

theorem cqDone_frame (s : State) (no : Option Nat) : CqFrame s (s.cqDone none no) := by
  cases no with
  | none => exact .refl s
  | some n => exact trkBack_frame s n

theorem cqPost_frame (s : State) (n : Nat) (e : List Byte) (host : Option Nat) : CqFrame s (s.cqPost n e none host) := by
  unfold State.cqPost
  split
  · exact cqDone_frame _ _
  · split
    · exact cqDone_frame _ _
    · simp only
      split
      · exact ⟨rfl, rfl, rfl, fun _ _ => rfl⟩
      · split
        · exact ⟨rfl, rfl, rfl, fun _ _ => rfl⟩
        · exact (cqWrite_frame _ _ _ _).trans (cqDone_frame _ _)

theorem cqOwnPost_frame (s : State) (ctx n : Nat) (e : List Byte) (no : Nat) : CqFrame s (s.cqOwnPost ctx n e no) := by
  unfold State.cqOwnPost
  split
  · exact cqPost_frame _ _ _ _
  · exact cqDone_frame _ _

/-! ### Stops -/

theorem reqStop_reqStop (x : Thread) (k : Nat) : (x.reqStop k).reqStop k = x.reqStop k := by
  unfold Thread.reqStop; split <;> simp_all

@[simp] theorem reqStop_st (x : Thread) (k : Nat) : (x.reqStop k).st = x.st := by unfold Thread.reqStop; split <;> rfl

theorem foldl_reqStop_thr (ts : List Th) (k : Nat) (s : State) (v : Th) :
    (ts.foldl (fun s t => s.setThr t ((s.thr t).reqStop k)) s).thr v =
      if ∃ t ∈ ts, thKey t = thKey v then (s.thr v).reqStop k else s.thr v := by
  induction ts generalizing s with
  | nil => simp
  | cons t ts ih =>
    rw [List.foldl_cons, ih]
    by_cases h : thKey t = thKey v
    · have ht : (s.setThr t ((s.thr t).reqStop k)).thr v = (s.thr v).reqStop k := by
        simp only [State.thr, State.setThr, ← h, smGet_smSet_self]
      rw [ht]
      simp only [List.mem_cons, exists_eq_or_imp, h, true_or, if_true]
      split
      · exact reqStop_reqStop _ _
      · rfl
    · rw [State.thr_setThr_ne _ _ (Ne.symm h)]
      simp [h]

/-- What stops leave alone: everything but the threads and the saved threads. -/
structure StopFrame (s u : State) : Prop where
  rest : u = { s with sq := u.sq, ho := u.ho }
  sq : u.sq = { s.sq with thr := u.sq.thr }
  ho : u.ho = { s.ho with frozen := u.ho.frozen }

theorem foldl_setThr_frame {α : Type} (f : State → α → Thread) (g : α → Th) (l : List α) (s : State) :
    ∃ m, l.foldl (fun s t => s.setThr (g t) (f s t)) s = { s with sq := { s.sq with thr := m } } := by
  induction l generalizing s with
  | nil => exact ⟨s.sq.thr, rfl⟩
  | cons t l ih =>
    rw [List.foldl_cons]
    obtain ⟨m, hm⟩ := ih (s.setThr (g t) (f s t))
    exact ⟨m, hm.trans rfl⟩

theorem mapSaved_eq (s : State) (ctx : Nat) (f : Th × Thread → Th × Thread) :
    ∃ z, mapSaved s ctx f = { s with ho := { s.ho with frozen := z } } := by
  unfold mapSaved
  split
  · exact ⟨s.ho.frozen, rfl⟩
  · exact ⟨_, rfl⟩

/-- A stop of a program asks it of every thread in its slots, and changes nothing else but saved threads. -/
theorem stopProgram_eq (s : State) (p : Program) (k : Nat) :
    ∃ m z, stopProgram s p k = { s with sq := { s.sq with thr := m }, ho := { s.ho with frozen := z } } := by
  obtain ⟨m, hm⟩ := foldl_setThr_frame (fun s t => (s.thr t).reqStop k) id (progSlots p) s
  obtain ⟨z, hz⟩ := mapSaved_eq ((progSlots p).foldl (fun s t => s.setThr t ((s.thr t).reqStop k)) s) p.ctx
    (fun e => if isSaved p e then (e.1, e.2.reqStop k) else e)
  refine ⟨m, z, ?_⟩
  unfold stopProgram
  rw [hz]
  simp only [id] at hm
  rw [hm]

theorem stopProgram_thr (s : State) (p : Program) (k : Nat) (v : Th) :
    (stopProgram s p k).thr v =
      if ∃ j ∈ p.slots, thKey ⟨p.dom, j⟩ = thKey v then (s.thr v).reqStop k else s.thr v := by
  obtain ⟨z, hz⟩ := mapSaved_eq ((progSlots p).foldl (fun s t => s.setThr t ((s.thr t).reqStop k)) s) p.ctx
    (fun e => if isSaved p e then (e.1, e.2.reqStop k) else e)
  unfold stopProgram
  rw [hz]
  show ((progSlots p).foldl (fun s t => s.setThr t ((s.thr t).reqStop k)) s).thr v = _
  rw [foldl_reqStop_thr]
  simp [progSlots]

theorem anySaved_stopProgram (s : State) (p q : Program) (k : Nat) (hc : q.ctx = p.ctx) :
    anySaved (stopProgram s p k) q = anySaved s q := by
  obtain ⟨m, hm⟩ := foldl_setThr_frame (fun s t => (s.thr t).reqStop k) id (progSlots p) s
  simp only [id] at hm
  unfold stopProgram
  rw [hm]
  unfold mapSaved anySaved
  dsimp only
  rw [hc]
  cases h : smFind s.ho.frozen p.ctx with
  | none => simp [h]
  | some z =>
    simp only [smFind_smSet_self, List.any_map]
    congr 1
    funext e
    simp only [Function.comp]
    split
    · simp only [isSaved]
      congr 2
      unfold Thread.reqStop
      split <;> rfl
    · rfl

/-! ### Program completion (R137) -/

theorem foldl_clear_free (ts : List Th) (s : State) (v : Th) (h : v ∈ ts ∨ (s.thr v).st = .free) :
    ((ts.foldl (fun s t => s.setThr t {}) s).thr v).st = .free := by
  induction ts generalizing s with
  | nil => simpa using h
  | cons t ts ih =>
    rw [List.foldl_cons]
    apply ih
    by_cases ht : thKey v = thKey t
    · right; simp only [State.thr, State.setThr, ht, smGet_smSet_self]
    · rw [State.thr_setThr_ne _ _ ht]
      rcases h with h | h
      · rcases List.mem_cons.1 h with h | h
        · exact absurd (by rw [h]) ht
        · exact .inl h
      · exact .inr h

theorem dropProgram_eq (s : State) (p : Program) :
    ∃ m, dropProgram s p = { s with sq := { s.sq with thr := m, progs := smDel s.sq.progs (progKey p.dom p.num) } } := by
  obtain ⟨m, hm⟩ := foldl_setThr_frame (fun _ _ => ({} : Thread)) id (progSlots p) s
  simp only [id] at hm
  exact ⟨m, by rw [dropProgram, hm]⟩

theorem dropProgram_free (s : State) (p : Program) {k : Nat} (hk : k ∈ p.slots) :
    ((dropProgram s p).thr ⟨p.dom, k⟩).st = .free :=
  foldl_clear_free _ s _ (.inl (List.mem_map.2 ⟨k, hk, rfl⟩))

/-- A program's event touches one register and one counter. -/
theorem programEvent_rest (s : State) (d code kind slot : Nat) :
    programEvent s d code kind slot =
      { s with regs := (programEvent s d code kind slot).regs, cnt := (programEvent s d code kind slot).cnt } := by
  unfold programEvent; split <;> rfl

theorem programEvent_zero (s : State) (d kind slot : Nat) : programEvent s d 0 kind slot = s := rfl

/-- An event of a domain: SEQ advances, with the kind and the slot. -/
theorem programEvent_fields (s : State) (d code kind slot : Nat) (h : code ≠ 0) :
    let u := programEvent s d code kind slot
    u.get (F.SEQ_EVENT_SEQ d) = seqNext (s.get (F.SEQ_EVENT_SEQ d)) ∧
      u.get (F.SEQ_EVENT_LAST_KIND d) = kind % 16 ∧ u.get (F.SEQ_EVENT_LAST_THREAD d) = slot % 8 := by
  intro u
  have hu : ∀ f, u.get f = (((s.set (F.SEQ_EVENT_LAST_KIND d) kind).set (F.SEQ_EVENT_LAST_THREAD d) slot).bump
      (F.SEQ_EVENT_SEQ d)).get f := by
    intro f
    show (programEvent s d code kind slot).get f = _
    unfold programEvent
    simp only [h, if_false]
  have hlt : s.get (F.SEQ_EVENT_SEQ d) < 256 := bits_lt _ _ 8
  have hseq : seqNext (s.get (F.SEQ_EVENT_SEQ d)) % 2 ^ 8 = seqNext (s.get (F.SEQ_EVENT_SEQ d)) := by
    unfold seqNext; split <;> omega
  refine ⟨?_, ?_, ?_⟩
  · rw [hu, State.get_bump _ (by show 0 + 8 ≤ 32; decide),
      State.get_set_apart _ _ (by show 0 + 8 ≤ 32; decide) (.inr (by show 0 + 8 ≤ 12; decide)),
      State.get_set_apart _ _ (by show 0 + 8 ≤ 32; decide) (.inr (by show 0 + 8 ≤ 8; decide))]
    exact hseq
  · rw [hu, State.bump,
      State.get_set_apart _ _ (by show 8 + 4 ≤ 32; decide) (.inl (by show 0 + 8 ≤ 8; decide)),
      State.get_set_apart _ _ (by show 8 + 4 ≤ 32; decide) (.inr (by show 8 + 4 ≤ 12; decide)),
      State.get_set_self _ _ (by show 8 + 4 ≤ 32; decide)]
    rfl
  · rw [hu, State.bump,
      State.get_set_apart _ _ (by show 12 + 3 ≤ 32; decide) (.inl (by show 0 + 8 ≤ 12; decide)),
      State.get_set_self _ _ (by show 12 + 3 ≤ 32; decide)]
    rfl

/-- After the completion of a program: it is gone, its slots are Free, and its event stands in SEQ_EVENT. -/
theorem completeProgram_spec (s : State) (p : Program) (tail : List Byte) (code kind slot : Nat) :
    let u := completeProgram s p tail code kind slot
    smFind u.sq.progs (progKey p.dom p.num) = none ∧ (∀ k ∈ p.slots, (u.thr ⟨p.dom, k⟩).st = .free) ∧ MemSame s u ∧
      (p.dom < 16 → code = 0 → u.get (F.SEQ_EVENT_SEQ p.dom) = s.get (F.SEQ_EVENT_SEQ p.dom)) ∧
      (p.dom < 16 → code ≠ 0 → u.get (F.SEQ_EVENT_SEQ p.dom) = seqNext (s.get (F.SEQ_EVENT_SEQ p.dom)) ∧
        u.get (F.SEQ_EVENT_LAST_KIND p.dom) = kind % 16 ∧ u.get (F.SEQ_EVENT_LAST_THREAD p.dom) = slot % 8) := by
  intro u
  obtain ⟨m, hm⟩ := dropProgram_eq s p
  have hfr : CqFrame (programEvent (dropProgram s p) p.dom code kind slot) u := (reclaim_frame _).trans (cqOwnPost_frame _ _ _ _ _)
  have hrest := programEvent_rest (dropProgram s p) p.dom code kind slot
  have hd : ∀ f : RF, f.off = domBase p.dom + 0x44 → p.dom < 16 → f.off < 0x600000 := by
    intro f hf hp; rw [hf]; unfold domBase; omega
  have hget : ∀ f, (dropProgram s p).get f = s.get f := fun f => by rw [hm]; rfl
  refine ⟨?_, ?_, ?_, ?_, ?_⟩
  · rw [hfr.progs, hrest, hm]; exact smFind_smDel_self _ _
  · intro k hk
    rw [hfr.thr, hrest]
    exact dropProgram_free s p hk
  · intro a; rw [hfr.byte, hrest, hm]; rfl
  · intro hp hc
    rw [hfr.get (hd _ rfl hp), hc, programEvent_zero, hget]
  · intro hp hc
    have hf := programEvent_fields (dropProgram s p) p.dom code kind slot hc
    rw [hget] at hf
    rw [hfr.get (hd _ rfl hp), hfr.get (hd _ rfl hp), hfr.get (hd _ rfl hp)]
    exact hf

/-! ### Halts (R136) -/

/-- A thread that halts while another thread of its program has not. -/
theorem haltThread_on {t : Th} {p : Program} (kind trap : Nat) (hp : s.prog t = some p)
    (ho : ∃ k ∈ p.slots, thKey ⟨p.dom, k⟩ ≠ thKey t ∧ (s.thr ⟨p.dom, k⟩).st ≠ .halted) :
    let u := haltThread s t kind trap
    u.thr t = { s.thr t with st := .halted, cause := 0, pend := .none, stop := none, kind := kind, code := kindCode kind trap } ∧
      (∀ v, thKey v ≠ thKey t → u.thr v = if kind ≠ 0 ∧ ∃ j ∈ p.slots, thKey ⟨p.dom, j⟩ = thKey v then (s.thr v).reqStop kind else s.thr v) ∧
      u = { s with sq := u.sq, ho := u.ho } ∧ u.sq.last = s.sq.last := by
  intro u
  obtain ⟨k, hk, hne, hst⟩ := ho
  have hu : u = haltThread s t kind trap := rfl
  unfold haltThread at hu
  simp only [hp] at hu
  set x : Thread := { s.thr t with st := .halted, cause := 0, pend := .none, stop := none, kind := kind, code := kindCode kind trap } with hx
  set q : Program := (if kind = 0 || p.decided.isSome then p
      else { p with decided := some (progTail (s.thr t) kind, kindCode kind trap, kind, t.slot) }) with hq
  have hqs : q.slots = p.slots ∧ q.dom = p.dom := by rw [hq]; split <;> exact ⟨rfl, rfl⟩
  set a : State := (s.setThr t x).setProg q with ha
  set b : State := (if kind = 0 then a else stopProgram a q kind) with hb
  have hbt : ∀ v, b.thr v = if kind ≠ 0 ∧ ∃ j ∈ p.slots, thKey ⟨p.dom, j⟩ = thKey v then (a.thr v).reqStop kind else a.thr v := by
    intro v
    rw [hb]
    by_cases h0 : kind = 0
    · simp [h0]
    · simp only [h0, if_false, ne_eq, not_false_eq_true, true_and]
      rw [stopProgram_thr, hqs.1, hqs.2]
  have hat : ∀ v, thKey v ≠ thKey t → a.thr v = s.thr v := fun v hv => State.thr_setThr_ne s x hv
  have hself : a.thr t = x := State.thr_setThr_self s t x
  have hnot : (((progSlots q).all fun u => (b.thr u).st == .halted) && !anySaved b q) = false := by
    rw [Bool.and_eq_false_iff]; left
    rw [List.all_eq_false]
    refine ⟨⟨p.dom, k⟩, ?_, ?_⟩
    · exact List.mem_map.2 ⟨k, hqs.1 ▸ hk, by rw [hqs.2]⟩
    · rw [hbt]
      split
      · rw [reqStop_st, hat _ hne]; simpa using hst
      · rw [hat _ hne]; simpa using hst
  rw [hnot] at hu
  simp only [Bool.false_eq_true, if_false] at hu
  rw [hu]
  refine ⟨?_, ?_, ?_, ?_⟩
  · rw [hbt, hself]
    split
    · unfold Thread.reqStop; simp [hx]
    · rfl
  · intro v hv; rw [hbt, hat v hv]
  · rw [hb]
    split
    · rfl
    · obtain ⟨m, z, hmz⟩ := stopProgram_eq a q kind
      rw [hmz]; rfl
  · rw [hb]
    split
    · rfl
    · obtain ⟨m, z, hmz⟩ := stopProgram_eq a q kind
      rw [hmz]; rfl

/-- A thread that halts as the last of its program completes it. -/
theorem haltThread_last {t : Th} {p : Program} (kind trap : Nat) (hp : s.prog t = some p)
    (hall : ∀ k ∈ p.slots, thKey ⟨p.dom, k⟩ ≠ thKey t → (s.thr ⟨p.dom, k⟩).st = .halted) (hs : anySaved s p = false) :
    ∃ a : State, ∃ q : Program, ∃ tail code kd slot, haltThread s t kind trap = completeProgram a q tail code kd slot ∧ q.slots = p.slots ∧ q.dom = p.dom ∧
      q.num = p.num ∧ a.regs = s.regs ∧ a.variant = s.variant ∧ a.mem = s.mem ∧
      (p.decided = none → code = (if kind = 0 then 0 else kindCode kind trap) ∧ kd = kind ∧ slot = t.slot) := by
  unfold haltThread
  simp only [hp]
  set x : Thread := { s.thr t with st := .halted, cause := 0, pend := .none, stop := none, kind := kind, code := kindCode kind trap } with hx
  set q : Program := (if kind = 0 || p.decided.isSome then p
      else { p with decided := some (progTail (s.thr t) kind, kindCode kind trap, kind, t.slot) }) with hq
  have hqs : q.slots = p.slots ∧ q.dom = p.dom ∧ q.num = p.num ∧ q.ctx = p.ctx := by rw [hq]; split <;> exact ⟨rfl, rfl, rfl, rfl⟩
  set a : State := (s.setThr t x).setProg q with ha
  set b : State := (if kind = 0 then a else stopProgram a q kind) with hb
  have hbt : ∀ v, (b.thr v).st = (a.thr v).st := by
    intro v
    rw [hb]
    by_cases h0 : kind = 0
    · simp [h0]
    · simp only [h0, if_false]
      rw [stopProgram_thr]
      split <;> simp
  have hsv : anySaved b q = false := by
    have h1 : anySaved a q = false := by
      have : anySaved a q = anySaved s p := by
        unfold anySaved isSaved
        rw [hqs.2.1, hqs.2.2.1, hqs.2.2.2]; rfl
      rw [this, hs]
    rw [hb]
    by_cases h0 : kind = 0
    · simp [h0, h1]
    · simp only [h0, if_false]; rw [anySaved_stopProgram _ _ _ _ rfl, h1]
  have hyes : (((progSlots q).all fun u => (b.thr u).st == .halted) && !anySaved b q) = true := by
    rw [hsv]
    simp only [Bool.not_false, Bool.and_true, List.all_eq_true]
    intro u hu
    obtain ⟨k, hk, rfl⟩ := List.mem_map.1 hu
    rw [hbt]
    rw [hqs.2.1]
    rw [hqs.1] at hk
    by_cases hkt : thKey ⟨p.dom, k⟩ = thKey t
    · have : a.thr ⟨p.dom, k⟩ = x := by
        show (s.setThr t x).thr ⟨p.dom, k⟩ = x
        simp only [State.thr, State.setThr, hkt, smGet_smSet_self]
      rw [this]; rfl
    · have : a.thr ⟨p.dom, k⟩ = s.thr ⟨p.dom, k⟩ := State.thr_setThr_ne s x hkt
      rw [this, hall k hk hkt]; rfl
  have hbf : b.regs = s.regs ∧ b.variant = s.variant ∧ b.mem = s.mem := by
    rw [hb]
    split
    · exact ⟨rfl, rfl, rfl⟩
    · obtain ⟨m, z, hmz⟩ := stopProgram_eq a q kind
      rw [hmz]; exact ⟨rfl, rfl, rfl⟩
  rw [hyes]
  simp only [if_true]
  cases hdec : q.decided with
  | none =>
    refine ⟨b, q, _, _, _, _, rfl, hqs.1, hqs.2.1, hqs.2.2.1, hbf.1, hbf.2.1, hbf.2.2, fun hn => ?_⟩
    have h0 : kind = 0 := by
      by_contra h0
      rw [hq] at hdec
      simp [h0, hn] at hdec
    simp [h0]
  | some d =>
    obtain ⟨d1, d2, d3, d4⟩ := d
    refine ⟨b, q, _, _, _, _, rfl, hqs.1, hqs.2.1, hqs.2.2.1, hbf.1, hbf.2.1, hbf.2.2, fun hn => ?_⟩
    rw [hq] at hdec
    by_cases h0 : kind = 0
    · simp [h0, hn] at hdec
    · simp [h0, hn] at hdec
      obtain ⟨-, h2, h3, h4⟩ := hdec
      exact ⟨by simp [h0, h2], h3.symm, h4.symm⟩

end Sys2Proof.Machine
end

