-- ==== Sys2Proof/Tests/Slice0.lean ====
section
/-! SUPPORT. The model's own tests: what well-formedness refuses, the spec's worked examples, and for the hypotheses of every statement a concrete
state and operands that meet them (`witness_<statement>`). -/

set_option maxRecDepth 100000
set_option Elab.async false
set_option exponentiation.threshold 512

namespace Sys2Proof.Tests

open Sys2Proof.Machine

/-! ### What well-formedness refuses: of every command with a check, a term for each check -/

def cart : Cartridge := ⟨true, List.replicate 256 0#8, [], List.replicate 32 0#8, List.replicate 32 0#8⟩
def announced : Dataset := ⟨0, 0, 0, 0, 0, 0, 0, 0⟩
def launchReq : LaunchReq := ⟨0, 0, 0, 0, false, [0, 0, 0, 0], 0, 0⟩
def arrival : RxArrival := ⟨0, .other, 64, true, 0, 0⟩
def entry : SqEntry := List.replicate 64 0#8
def eight : List Nat := List.replicate 8 0

/-- Ill-formed terms of the commands v54InReady to ptpSyncInterval. -/
theorem test_refuses_v54InReady_to_ptpSyncInterval : ([
    .v54InReady 4,
    .modResetRelease 4,
    .perstNAssert 4,
    .perstNRelease 4,
    .latchOpen 8,
    .latchClose 8,
    .cartridgeIdentified 8 cart, .cartridgeIdentified 0 { cart with record := [] }, .cartridgeIdentified 0 { cart with signature := List.replicate 17089 0#8 }, .cartridgeIdentified 0 { cart with lifeA := [] }, .cartridgeIdentified 0 { cart with lifeB := [] },
    .bringUpStageComplete (.failedUnits [.essential 256]), .bringUpStageComplete (.failedUnits [.engine 64]), .bringUpStageComplete (.failedUnits [.sequencer 16]), .bringUpStageComplete (.failedUnits [.dataPartition 16]), .bringUpStageComplete (.failedUnits [.port 32]), .bringUpStageComplete (.failedUnits [.ioDie 4]), .bringUpStageComplete (.failed 256),
    .hostLinkUp 4 0 8, .hostLinkUp 0 3 8, .hostLinkUp 0 0 3,
    .hostLinkDown 4,
    .functionLevelReset 256,
    .contextDrainComplete 256,
    .tickBoundary 256 0, .tickBoundary 0 256,
    .capIntervalEnd 256 0, .capIntervalEnd 0 2048,
    .restExitUnitArmed 30,
    .setPower 256 0 0, .setPower 0 256 0, .setPower 0 0 65536,
    .marionetteEntryFire 1024,
    .ptpSyncRx 16 0 0,
    .ptpAnnounceRx 16 0 announced 0 0 0, .ptpAnnounceRx 0 256 announced 0 0 0, .ptpAnnounceRx 0 0 announced 512 0 0, .ptpAnnounceRx 0 0 { announced with priority1 := 256 } 0 0 0, .ptpAnnounceRx 0 0 { announced with clockClass := 256 } 0 0 0, .ptpAnnounceRx 0 0 { announced with accuracy := 256 } 0 0 0, .ptpAnnounceRx 0 0 { announced with variance := 65536 } 0 0 0, .ptpAnnounceRx 0 0 { announced with priority2 := 256 } 0 0 0, .ptpAnnounceRx 0 0 { announced with steps := 65536 } 0 0 0,
    .ptpPdelayRx 32 false 0,
    .ptpSyncInterval 32] : List Instr).all (fun c => !c.wf) = true := by
  decide +kernel

/-- Ill-formed terms of the commands launch to xor. -/
theorem test_refuses_launch_to_xor : ([
    .launch { launchReq with ctx := 256 }, .launch { launchReq with image := 2 ^ 64 }, .launch { launchReq with dom := 256 }, .launch { launchReq with syncBase := 65536 }, .launch { launchReq with args := [] }, .launch { launchReq with cq := 65536 }, .launch { launchReq with tag := 2 ^ 32 },
    .privSignatureVerified 16,
    .launchSlotsFree 16,
    .icacheFill ⟨16, 0⟩, .icacheFill ⟨0, 8⟩,
    .add ⟨16, 0⟩ 0 0 (.reg 1), .add ⟨0, 8⟩ 0 0 (.reg 1), .add ⟨0, 0⟩ 32 0 (.reg 1), .add ⟨0, 0⟩ 0 32 (.reg 1), .add ⟨0, 0⟩ 0 0 (.reg 32),
    .sub ⟨16, 0⟩ 0 0 (.reg 1), .sub ⟨0, 8⟩ 0 0 (.reg 1), .sub ⟨0, 0⟩ 32 0 (.reg 1), .sub ⟨0, 0⟩ 0 32 (.reg 1), .sub ⟨0, 0⟩ 0 0 (.reg 32),
    .mul ⟨16, 0⟩ 0 0 (.reg 1), .mul ⟨0, 8⟩ 0 0 (.reg 1), .mul ⟨0, 0⟩ 32 0 (.reg 1), .mul ⟨0, 0⟩ 0 32 (.reg 1), .mul ⟨0, 0⟩ 0 0 (.reg 32),
    .and ⟨16, 0⟩ 0 0 (.reg 1), .and ⟨0, 8⟩ 0 0 (.reg 1), .and ⟨0, 0⟩ 32 0 (.reg 1), .and ⟨0, 0⟩ 0 32 (.reg 1), .and ⟨0, 0⟩ 0 0 (.reg 32),
    .or ⟨16, 0⟩ 0 0 (.reg 1), .or ⟨0, 8⟩ 0 0 (.reg 1), .or ⟨0, 0⟩ 32 0 (.reg 1), .or ⟨0, 0⟩ 0 32 (.reg 1), .or ⟨0, 0⟩ 0 0 (.reg 32),
    .xor ⟨16, 0⟩ 0 0 (.reg 1), .xor ⟨0, 8⟩ 0 0 (.reg 1), .xor ⟨0, 0⟩ 32 0 (.reg 1), .xor ⟨0, 0⟩ 0 32 (.reg 1), .xor ⟨0, 0⟩ 0 0 (.reg 32)] : List Instr).all (fun c => !c.wf) = true := by
  decide +kernel

/-- Ill-formed terms of the commands shl to call. -/
theorem test_refuses_shl_to_call : ([
    .shl ⟨16, 0⟩ 0 0 (.reg 1), .shl ⟨0, 8⟩ 0 0 (.reg 1), .shl ⟨0, 0⟩ 32 0 (.reg 1), .shl ⟨0, 0⟩ 0 32 (.reg 1), .shl ⟨0, 0⟩ 0 0 (.reg 32),
    .shr ⟨16, 0⟩ 0 0 (.reg 1), .shr ⟨0, 8⟩ 0 0 (.reg 1), .shr ⟨0, 0⟩ 32 0 (.reg 1), .shr ⟨0, 0⟩ 0 32 (.reg 1), .shr ⟨0, 0⟩ 0 0 (.reg 32),
    .sar ⟨16, 0⟩ 0 0 (.reg 1), .sar ⟨0, 8⟩ 0 0 (.reg 1), .sar ⟨0, 0⟩ 32 0 (.reg 1), .sar ⟨0, 0⟩ 0 32 (.reg 1), .sar ⟨0, 0⟩ 0 0 (.reg 32),
    .cmp ⟨16, 0⟩ 0 0 0 (.reg 1), .cmp ⟨0, 8⟩ 0 0 0 (.reg 1), .cmp ⟨0, 0⟩ 8 0 0 (.reg 1), .cmp ⟨0, 0⟩ 0 11 0 (.reg 1), .cmp ⟨0, 0⟩ 0 0 32 (.reg 1), .cmp ⟨0, 0⟩ 0 0 0 (.reg 32),
    .sel ⟨16, 0⟩ 0 0 0 0, .sel ⟨0, 8⟩ 0 0 0 0, .sel ⟨0, 0⟩ 32 0 0 0, .sel ⟨0, 0⟩ 0 32 0 0, .sel ⟨0, 0⟩ 0 0 32 0, .sel ⟨0, 0⟩ 0 0 0 8,
    .mov ⟨16, 0⟩ 0 0, .mov ⟨0, 8⟩ 0 0, .mov ⟨0, 0⟩ 32 0, .mov ⟨0, 0⟩ 0 32,
    .li ⟨16, 0⟩ 0 0, .li ⟨0, 8⟩ 0 0, .li ⟨0, 0⟩ 32 0,
    .lih ⟨16, 0⟩ 0 0, .lih ⟨0, 8⟩ 0 0, .lih ⟨0, 0⟩ 32 0,
    .br ⟨16, 0⟩ 0, .br ⟨0, 8⟩ 0,
    .brp ⟨16, 0⟩ 0 false 0, .brp ⟨0, 8⟩ 0 false 0, .brp ⟨0, 0⟩ 8 false 0,
    .call ⟨16, 0⟩ 0 0, .call ⟨0, 8⟩ 0 0, .call ⟨0, 0⟩ 32 0] : List Instr).all (fun c => !c.wf) = true := by
  decide +kernel

/-- Ill-formed terms of the commands ret to ldFailureLatch. -/
theorem test_refuses_ret_to_ldFailureLatch : ([
    .ret ⟨16, 0⟩ 0, .ret ⟨0, 8⟩ 0, .ret ⟨0, 0⟩ 32,
    .loop ⟨16, 0⟩ 0 0, .loop ⟨0, 8⟩ 0 0, .loop ⟨0, 0⟩ 32 0,
    .halt ⟨16, 0⟩, .halt ⟨0, 8⟩,
    .yield ⟨16, 0⟩, .yield ⟨0, 8⟩,
    .step ⟨16, 0⟩, .step ⟨0, 8⟩,
    .trap ⟨16, 0⟩ 0, .trap ⟨0, 8⟩ 0, .trap ⟨0, 0⟩ 256,
    .dset ⟨16, 0⟩ 0 0 0 0 0, .dset ⟨0, 8⟩ 0 0 0 0 0, .dset ⟨0, 0⟩ 16 0 0 0 0, .dset ⟨0, 0⟩ 0 4 0 0 0, .dset ⟨0, 0⟩ 0 0 0 64 0, .dset ⟨0, 0⟩ 0 0 0 0 32, .dset ⟨0, 0⟩ 0 0 1 0 1, .dset ⟨0, 0⟩ 0 0 60 5 1,
    .dld ⟨16, 0⟩ 0 0 0, .dld ⟨0, 8⟩ 0 0 0, .dld ⟨0, 0⟩ 16 0 0, .dld ⟨0, 0⟩ 0 32 0,
    .dst ⟨16, 0⟩ 0 0 0, .dst ⟨0, 8⟩ 0 0 0, .dst ⟨0, 0⟩ 16 0 0, .dst ⟨0, 0⟩ 0 32 0,
    .ld ⟨16, 0⟩ 0 0 0 0, .ld ⟨0, 8⟩ 0 0 0 0, .ld ⟨0, 0⟩ 32 0 0 0, .ld ⟨0, 0⟩ 0 32 0 0, .ld ⟨0, 0⟩ 0 0 4 0,
    .ldSyncCount ⟨16, 0⟩ 0 0 0, .ldSyncCount ⟨0, 8⟩ 0 0 0, .ldSyncCount ⟨0, 0⟩ 32 0 0, .ldSyncCount ⟨0, 0⟩ 0 32 0,
    .ldFailureLatch ⟨16, 0⟩ 0 0 0, .ldFailureLatch ⟨0, 8⟩ 0 0 0, .ldFailureLatch ⟨0, 0⟩ 32 0 0, .ldFailureLatch ⟨0, 0⟩ 0 32 0] : List Instr).all (fun c => !c.wf) = true := by
  decide +kernel

/-- Ill-formed terms of the commands st to arm. -/
theorem test_refuses_st_to_arm : ([
    .st ⟨16, 0⟩ 0 0 0 0, .st ⟨0, 8⟩ 0 0 0 0, .st ⟨0, 0⟩ 32 0 0 0, .st ⟨0, 0⟩ 0 32 0 0, .st ⟨0, 0⟩ 0 0 4 0,
    .issue ⟨16, 0⟩ 0 false 0 0, .issue ⟨0, 8⟩ 0 false 0 0, .issue ⟨0, 0⟩ 16 false 0 0, .issue ⟨0, 0⟩ 0 true 32 0, .issue ⟨0, 0⟩ 0 true 0 1, .issue ⟨0, 0⟩ 0 false 1 0, .issue ⟨0, 0⟩ 0 false 0 64,
    .issuew ⟨16, 0⟩ 0 0 false 0 0, .issuew ⟨0, 8⟩ 0 0 false 0 0, .issuew ⟨0, 0⟩ 32 0 false 0 0, .issuew ⟨0, 0⟩ 0 16 false 0 0, .issuew ⟨0, 0⟩ 1 0 true 32 0, .issuew ⟨0, 0⟩ 1 0 true 0 1, .issuew ⟨0, 0⟩ 1 0 false 1 0, .issuew ⟨0, 0⟩ 1 0 false 0 64,
    .sig ⟨16, 0⟩ 0 0 0, .sig ⟨0, 8⟩ 0 0 0, .sig ⟨0, 0⟩ 32 0 0, .sig ⟨0, 0⟩ 0 32 0, .sig ⟨0, 0⟩ 0 0 4096,
    .wait ⟨16, 0⟩ 0 0 0, .wait ⟨0, 8⟩ 0 0 0, .wait ⟨0, 0⟩ 32 0 0, .wait ⟨0, 0⟩ 0 32 0, .wait ⟨0, 0⟩ 0 0 4096,
    .waitt ⟨16, 0⟩ 0 0 0 0 1, .waitt ⟨0, 8⟩ 0 0 0 0 1, .waitt ⟨0, 0⟩ 8 0 0 0 1, .waitt ⟨0, 0⟩ 0 32 0 0 1, .waitt ⟨0, 0⟩ 0 0 32 0 1, .waitt ⟨0, 0⟩ 0 0 0 4096 1, .waitt ⟨0, 0⟩ 0 0 0 0 65536, .waitt ⟨0, 0⟩ 1 1 1 0 0,
    .arm ⟨16, 0⟩ 0 0 0, .arm ⟨0, 8⟩ 0 0 0, .arm ⟨0, 0⟩ 32 0 0, .arm ⟨0, 0⟩ 0 32 0, .arm ⟨0, 0⟩ 0 0 4096] : List Instr).all (fun c => !c.wf) = true := by
  decide +kernel

/-- Ill-formed terms of the commands sigr to sgd. -/
theorem test_refuses_sigr_to_sgd : ([
    .sigr ⟨16, 0⟩ 0 0, .sigr ⟨0, 8⟩ 0 0, .sigr ⟨0, 0⟩ 16 0, .sigr ⟨0, 0⟩ 0 32,
    .twait ⟨16, 0⟩ false 0, .twait ⟨0, 8⟩ false 0, .twait ⟨0, 0⟩ true 1024, .twait ⟨0, 0⟩ false 1,
    .postwr ⟨16, 0⟩ 0, .postwr ⟨0, 8⟩ 0, .postwr ⟨0, 0⟩ 16,
    .postrd ⟨16, 0⟩ 0, .postrd ⟨0, 8⟩ 0, .postrd ⟨0, 0⟩ 16,
    .postsend ⟨16, 0⟩ 0, .postsend ⟨0, 8⟩ 0, .postsend ⟨0, 0⟩ 16,
    .postatom ⟨16, 0⟩ 0 0 0, .postatom ⟨0, 8⟩ 0 0 0, .postatom ⟨0, 0⟩ 16 0 0, .postatom ⟨0, 0⟩ 0 32 0, .postatom ⟨0, 0⟩ 0 0 32,
    .cqpost ⟨16, 0⟩ 0 0 0 false 0, .cqpost ⟨0, 8⟩ 0 0 0 false 0, .cqpost ⟨0, 0⟩ 16 0 0 false 0, .cqpost ⟨0, 0⟩ 0 32 0 false 0, .cqpost ⟨0, 0⟩ 0 0 32 false 0, .cqpost ⟨0, 0⟩ 0 1 1 false 3,
    .fenceE ⟨16, 0⟩, .fenceE ⟨0, 8⟩,
    .fenceF ⟨16, 0⟩, .fenceF ⟨0, 8⟩,
    .fenceH ⟨16, 0⟩, .fenceH ⟨0, 8⟩,
    .fenceConditionMet ⟨16, 0⟩, .fenceConditionMet ⟨0, 8⟩,
    .seqStop 16 0,
    .syncUnitOperation 4,
    .waittTimeout ⟨16, 0⟩, .waittTimeout ⟨0, 8⟩,
    .xbarDeliver 64,
    .redDescriptorStart 64,
    .redTileRelease 64 .pass,
    .redRemainderDelivered 64,
    .sgd 64] : List Instr).all (fun c => !c.wf) = true := by
  decide +kernel

/-- Ill-formed terms of the commands adam to evictComplete. -/
theorem test_refuses_adam_to_evictComplete : ([
    .adam 64,
    .adamw 64,
    .lambMoments 64,
    .lambApply 64,
    .lion 64,
    .norm 64,
    .cast 64,
    .lookupDescriptor 64,
    .encode 64,
    .decode 64,
    .unionSum 64,
    .quantizeDescriptor 64,
    .spcUnitRelease 64,
    .teDescriptorStart 64,
    .teUnitRelease 64 [],
    .ceEncrypt 64 none,
    .ceDecrypt 64 none,
    .holdingUnitAccess (.stack 16) [], .holdingUnitAccess (.bank 16) [], .holdingUnitAccess (.stack 0) [⟨118, 0, .read, none⟩], .holdingUnitAccess (.stack 0) [⟨0, 1, .read, none⟩], .holdingUnitAccess (.bank 0) [⟨0, 0, .writeWhole [], none⟩], .holdingUnitAccess (.bank 0) [⟨0, 0, .writePart 2048 [0#8], none⟩],
    .segSet 256 0, .segSet 0 16,
    .segRemove 256 0, .segRemove 0 16,
    .segRead 256 0, .segRead 0 16,
    .winSet 65536,
    .winRemove 65536,
    .winRead 65536,
    .winBump 65536,
    .keySet 1048576,
    .keyRemove 1048576,
    .keyRead 1048576,
    .migPrefetch 256 0 0, .migPrefetch 0 16 0, .migPrefetch 0 0 262144,
    .migEvict 256 0 0, .migEvict 0 16 0, .migEvict 0 0 262144,
    .evictComplete 256 0 0, .evictComplete 0 16 0, .evictComplete 0 0 262144] : List Instr).all (fun c => !c.wf) = true := by
  decide +kernel

/-- Ill-formed terms of the commands migrationComplete to writeRx. -/
theorem test_refuses_migrationComplete_to_writeRx : ([
    .migrationComplete 256 0 0 [], .migrationComplete 0 16 0 [], .migrationComplete 0 0 262144 [], .migrationComplete 0 0 0 [(2097152, 0#8)],
    .migrationFail 256 0 0 false, .migrationFail 0 16 0 false, .migrationFail 0 0 262144 false,
    .migrationTimeout 256 0 0 false, .migrationTimeout 0 16 0 false, .migrationTimeout 0 0 262144 false,
    .qpInit 262144,
    .qpRtr 262144,
    .qpRts 262144,
    .qpReset 262144,
    .qpError 262144,
    .qpRead 262144,
    .qpStateFetched 262144,
    .trnPacketTransmit 262144 0 [] false,
    .writeRx (.port 32) {}, .writeRx (.peer 32) {}, .writeRx .loopback { hops := 15 }, .writeRx .loopback { ptr := 16 }, .writeRx .loopback { tc := 8 }, .writeRx .loopback { dstEp := 2 ^ 20 }, .writeRx .loopback { srcEp := 2 ^ 20 }, .writeRx .loopback { path := 2 ^ 70 }, .writeRx .loopback { type := 16 }, .writeRx .loopback { try_ := 8 }, .writeRx .loopback { dqp := 2 ^ 18 }, .writeRx .loopback { psn := 2 ^ 24 }, .writeRx .loopback { offset := 2 ^ 30 }, .writeRx .loopback { stamp := 65536 }, .writeRx .loopback { ssn := 2 ^ 24 }, .writeRx .loopback { rgen := 256 }, .writeRx .loopback { rkey := 2 ^ 20 }, .writeRx .loopback { phase := 2048 }, .writeRx .loopback { roff := 2 ^ 39 }, .writeRx .loopback { sqp := 2 ^ 18 }, .writeRx .loopback { aux := 2 ^ 32 }, .writeRx .loopback { txc := 2 ^ 58 }, .writeRx .loopback { pieces := List.replicate 8 0 }, .writeRx .loopback { payload := List.replicate 16384 0#8 }, .writeRx .loopback { noticePsn := 2 ^ 24 }, .writeRx .loopback { notice := 256 }] : List Instr).all (fun c => !c.wf) = true := by
  decide +kernel

/-- Ill-formed terms of the commands readReqRx to readReqRx. -/
theorem test_refuses_readReqRx : ([
    .readReqRx (.port 32) {} [], .readReqRx (.peer 32) {} [], .readReqRx .loopback { hops := 15 } [], .readReqRx .loopback { ptr := 16 } [], .readReqRx .loopback { tc := 8 } [], .readReqRx .loopback { dstEp := 2 ^ 20 } [], .readReqRx .loopback { srcEp := 2 ^ 20 } [], .readReqRx .loopback { path := 2 ^ 70 } [], .readReqRx .loopback { type := 16 } [], .readReqRx .loopback { try_ := 8 } [], .readReqRx .loopback { dqp := 2 ^ 18 } [], .readReqRx .loopback { psn := 2 ^ 24 } [], .readReqRx .loopback { offset := 2 ^ 30 } [], .readReqRx .loopback { stamp := 65536 } [], .readReqRx .loopback { ssn := 2 ^ 24 } [], .readReqRx .loopback { rgen := 256 } [], .readReqRx .loopback { rkey := 2 ^ 20 } [], .readReqRx .loopback { phase := 2048 } [], .readReqRx .loopback { roff := 2 ^ 39 } [], .readReqRx .loopback { sqp := 2 ^ 18 } [], .readReqRx .loopback { aux := 2 ^ 32 } [], .readReqRx .loopback { txc := 2 ^ 58 } [], .readReqRx .loopback { pieces := List.replicate 8 0 } [], .readReqRx .loopback { payload := List.replicate 16384 0#8 } [], .readReqRx .loopback { noticePsn := 2 ^ 24 } [], .readReqRx .loopback { notice := 256 } []] : List Instr).all (fun c => !c.wf) = true := by
  decide +kernel

/-- Ill-formed terms of the commands readRespRx to readRespRx. -/
theorem test_refuses_readRespRx : ([
    .readRespRx (.port 32) {}, .readRespRx (.peer 32) {}, .readRespRx .loopback { hops := 15 }, .readRespRx .loopback { ptr := 16 }, .readRespRx .loopback { tc := 8 }, .readRespRx .loopback { dstEp := 2 ^ 20 }, .readRespRx .loopback { srcEp := 2 ^ 20 }, .readRespRx .loopback { path := 2 ^ 70 }, .readRespRx .loopback { type := 16 }, .readRespRx .loopback { try_ := 8 }, .readRespRx .loopback { dqp := 2 ^ 18 }, .readRespRx .loopback { psn := 2 ^ 24 }, .readRespRx .loopback { offset := 2 ^ 30 }, .readRespRx .loopback { stamp := 65536 }, .readRespRx .loopback { ssn := 2 ^ 24 }, .readRespRx .loopback { rgen := 256 }, .readRespRx .loopback { rkey := 2 ^ 20 }, .readRespRx .loopback { phase := 2048 }, .readRespRx .loopback { roff := 2 ^ 39 }, .readRespRx .loopback { sqp := 2 ^ 18 }, .readRespRx .loopback { aux := 2 ^ 32 }, .readRespRx .loopback { txc := 2 ^ 58 }, .readRespRx .loopback { pieces := List.replicate 8 0 }, .readRespRx .loopback { payload := List.replicate 16384 0#8 }, .readRespRx .loopback { noticePsn := 2 ^ 24 }, .readRespRx .loopback { notice := 256 }] : List Instr).all (fun c => !c.wf) = true := by
  decide +kernel

/-- Ill-formed terms of the commands sendRx to sendRx. -/
theorem test_refuses_sendRx : ([
    .sendRx (.port 32) {}, .sendRx (.peer 32) {}, .sendRx .loopback { hops := 15 }, .sendRx .loopback { ptr := 16 }, .sendRx .loopback { tc := 8 }, .sendRx .loopback { dstEp := 2 ^ 20 }, .sendRx .loopback { srcEp := 2 ^ 20 }, .sendRx .loopback { path := 2 ^ 70 }, .sendRx .loopback { type := 16 }, .sendRx .loopback { try_ := 8 }, .sendRx .loopback { dqp := 2 ^ 18 }, .sendRx .loopback { psn := 2 ^ 24 }, .sendRx .loopback { offset := 2 ^ 30 }, .sendRx .loopback { stamp := 65536 }, .sendRx .loopback { ssn := 2 ^ 24 }, .sendRx .loopback { rgen := 256 }, .sendRx .loopback { rkey := 2 ^ 20 }, .sendRx .loopback { phase := 2048 }, .sendRx .loopback { roff := 2 ^ 39 }, .sendRx .loopback { sqp := 2 ^ 18 }, .sendRx .loopback { aux := 2 ^ 32 }, .sendRx .loopback { txc := 2 ^ 58 }, .sendRx .loopback { pieces := List.replicate 8 0 }, .sendRx .loopback { payload := List.replicate 16384 0#8 }, .sendRx .loopback { noticePsn := 2 ^ 24 }, .sendRx .loopback { notice := 256 }] : List Instr).all (fun c => !c.wf) = true := by
  decide +kernel

/-- Ill-formed terms of the commands atomicRx to atomicRx. -/
theorem test_refuses_atomicRx : ([
    .atomicRx (.port 32) {} [], .atomicRx (.peer 32) {} [], .atomicRx .loopback { hops := 15 } [], .atomicRx .loopback { ptr := 16 } [], .atomicRx .loopback { tc := 8 } [], .atomicRx .loopback { dstEp := 2 ^ 20 } [], .atomicRx .loopback { srcEp := 2 ^ 20 } [], .atomicRx .loopback { path := 2 ^ 70 } [], .atomicRx .loopback { type := 16 } [], .atomicRx .loopback { try_ := 8 } [], .atomicRx .loopback { dqp := 2 ^ 18 } [], .atomicRx .loopback { psn := 2 ^ 24 } [], .atomicRx .loopback { offset := 2 ^ 30 } [], .atomicRx .loopback { stamp := 65536 } [], .atomicRx .loopback { ssn := 2 ^ 24 } [], .atomicRx .loopback { rgen := 256 } [], .atomicRx .loopback { rkey := 2 ^ 20 } [], .atomicRx .loopback { phase := 2048 } [], .atomicRx .loopback { roff := 2 ^ 39 } [], .atomicRx .loopback { sqp := 2 ^ 18 } [], .atomicRx .loopback { aux := 2 ^ 32 } [], .atomicRx .loopback { txc := 2 ^ 58 } [], .atomicRx .loopback { pieces := List.replicate 8 0 } [], .atomicRx .loopback { payload := List.replicate 16384 0#8 } [], .atomicRx .loopback { noticePsn := 2 ^ 24 } [], .atomicRx .loopback { notice := 256 } []] : List Instr).all (fun c => !c.wf) = true := by
  decide +kernel

/-- Ill-formed terms of the commands atomicRespRx to atomicRespRx. -/
theorem test_refuses_atomicRespRx : ([
    .atomicRespRx (.port 32) {}, .atomicRespRx (.peer 32) {}, .atomicRespRx .loopback { hops := 15 }, .atomicRespRx .loopback { ptr := 16 }, .atomicRespRx .loopback { tc := 8 }, .atomicRespRx .loopback { dstEp := 2 ^ 20 }, .atomicRespRx .loopback { srcEp := 2 ^ 20 }, .atomicRespRx .loopback { path := 2 ^ 70 }, .atomicRespRx .loopback { type := 16 }, .atomicRespRx .loopback { try_ := 8 }, .atomicRespRx .loopback { dqp := 2 ^ 18 }, .atomicRespRx .loopback { psn := 2 ^ 24 }, .atomicRespRx .loopback { offset := 2 ^ 30 }, .atomicRespRx .loopback { stamp := 65536 }, .atomicRespRx .loopback { ssn := 2 ^ 24 }, .atomicRespRx .loopback { rgen := 256 }, .atomicRespRx .loopback { rkey := 2 ^ 20 }, .atomicRespRx .loopback { phase := 2048 }, .atomicRespRx .loopback { roff := 2 ^ 39 }, .atomicRespRx .loopback { sqp := 2 ^ 18 }, .atomicRespRx .loopback { aux := 2 ^ 32 }, .atomicRespRx .loopback { txc := 2 ^ 58 }, .atomicRespRx .loopback { pieces := List.replicate 8 0 }, .atomicRespRx .loopback { payload := List.replicate 16384 0#8 }, .atomicRespRx .loopback { noticePsn := 2 ^ 24 }, .atomicRespRx .loopback { notice := 256 }] : List Instr).all (fun c => !c.wf) = true := by
  decide +kernel

/-- Ill-formed terms of the commands signalRx to signalRx. -/
theorem test_refuses_signalRx : ([
    .signalRx (.port 32) {}, .signalRx (.peer 32) {}, .signalRx .loopback { hops := 15 }, .signalRx .loopback { ptr := 16 }, .signalRx .loopback { tc := 8 }, .signalRx .loopback { dstEp := 2 ^ 20 }, .signalRx .loopback { srcEp := 2 ^ 20 }, .signalRx .loopback { path := 2 ^ 70 }, .signalRx .loopback { type := 16 }, .signalRx .loopback { try_ := 8 }, .signalRx .loopback { dqp := 2 ^ 18 }, .signalRx .loopback { psn := 2 ^ 24 }, .signalRx .loopback { offset := 2 ^ 30 }, .signalRx .loopback { stamp := 65536 }, .signalRx .loopback { ssn := 2 ^ 24 }, .signalRx .loopback { rgen := 256 }, .signalRx .loopback { rkey := 2 ^ 20 }, .signalRx .loopback { phase := 2048 }, .signalRx .loopback { roff := 2 ^ 39 }, .signalRx .loopback { sqp := 2 ^ 18 }, .signalRx .loopback { aux := 2 ^ 32 }, .signalRx .loopback { txc := 2 ^ 58 }, .signalRx .loopback { pieces := List.replicate 8 0 }, .signalRx .loopback { payload := List.replicate 16384 0#8 }, .signalRx .loopback { noticePsn := 2 ^ 24 }, .signalRx .loopback { notice := 256 }] : List Instr).all (fun c => !c.wf) = true := by
  decide +kernel

/-- Ill-formed terms of the commands ackRx to ackRx. -/
theorem test_refuses_ackRx : ([
    .ackRx (.port 32) {}, .ackRx (.peer 32) {}, .ackRx .loopback { hops := 15 }, .ackRx .loopback { ptr := 16 }, .ackRx .loopback { tc := 8 }, .ackRx .loopback { dstEp := 2 ^ 20 }, .ackRx .loopback { srcEp := 2 ^ 20 }, .ackRx .loopback { path := 2 ^ 70 }, .ackRx .loopback { type := 16 }, .ackRx .loopback { try_ := 8 }, .ackRx .loopback { dqp := 2 ^ 18 }, .ackRx .loopback { psn := 2 ^ 24 }, .ackRx .loopback { offset := 2 ^ 30 }, .ackRx .loopback { stamp := 65536 }, .ackRx .loopback { ssn := 2 ^ 24 }, .ackRx .loopback { rgen := 256 }, .ackRx .loopback { rkey := 2 ^ 20 }, .ackRx .loopback { phase := 2048 }, .ackRx .loopback { roff := 2 ^ 39 }, .ackRx .loopback { sqp := 2 ^ 18 }, .ackRx .loopback { aux := 2 ^ 32 }, .ackRx .loopback { txc := 2 ^ 58 }, .ackRx .loopback { pieces := List.replicate 8 0 }, .ackRx .loopback { payload := List.replicate 16384 0#8 }, .ackRx .loopback { noticePsn := 2 ^ 24 }, .ackRx .loopback { notice := 256 }] : List Instr).all (fun c => !c.wf) = true := by
  decide +kernel

/-- Ill-formed terms of the commands pathNoticeRx to txUnderrun. -/
theorem test_refuses_pathNoticeRx_to_txUnderrun : ([
    .pathNoticeRx (.port 32) {}, .pathNoticeRx (.peer 32) {}, .pathNoticeRx .loopback { hops := 15 }, .pathNoticeRx .loopback { ptr := 16 }, .pathNoticeRx .loopback { tc := 8 }, .pathNoticeRx .loopback { dstEp := 2 ^ 20 }, .pathNoticeRx .loopback { srcEp := 2 ^ 20 }, .pathNoticeRx .loopback { path := 2 ^ 70 }, .pathNoticeRx .loopback { type := 16 }, .pathNoticeRx .loopback { try_ := 8 }, .pathNoticeRx .loopback { dqp := 2 ^ 18 }, .pathNoticeRx .loopback { psn := 2 ^ 24 }, .pathNoticeRx .loopback { offset := 2 ^ 30 }, .pathNoticeRx .loopback { stamp := 65536 }, .pathNoticeRx .loopback { ssn := 2 ^ 24 }, .pathNoticeRx .loopback { rgen := 256 }, .pathNoticeRx .loopback { rkey := 2 ^ 20 }, .pathNoticeRx .loopback { phase := 2048 }, .pathNoticeRx .loopback { roff := 2 ^ 39 }, .pathNoticeRx .loopback { sqp := 2 ^ 18 }, .pathNoticeRx .loopback { aux := 2 ^ 32 }, .pathNoticeRx .loopback { txc := 2 ^ 58 }, .pathNoticeRx .loopback { pieces := List.replicate 8 0 }, .pathNoticeRx .loopback { payload := List.replicate 16384 0#8 }, .pathNoticeRx .loopback { noticePsn := 2 ^ 24 }, .pathNoticeRx .loopback { notice := 256 },
    .fenceHeldRelease 262144 0 [], .fenceHeldRelease 0 16777216 [],
    .ackDelayExpiry 262144,
    .retryTimerExpiry 262144,
    .routeSet 1048576,
    .routeInvalidate 1048576,
    .routeRead 1048576,
    .routeEntryFetched 1048576,
    .frameReceived { arrival with port := 32 } [], .frameReceived { arrival with len := 16384 } [], .frameReceived { arrival with frame := .macControl 65536 } [], .frameReceived { arrival with frame := .speron { hops := 15 } } [], .frameReceived arrival [{ arrival with port := 32 }],
    .egressBufferRoom 32,
    .egressFrameStart 32 0,
    .linkUp 32,
    .linkDown 32,
    .portCfgWrite 32 0,
    .txUnderrun 32] : List Instr).all (fun c => !c.wf) = true := by
  decide +kernel

/-- Ill-formed terms of the commands pauseRx to cqDbWrite. -/
theorem test_refuses_pauseRx_to_cqDbWrite : ([
    .pauseRx 32 0, .pauseRx 0 65536,
    .pfcRx 32 0 eight, .pfcRx 0 0 [], .pfcRx 0 0 (65536 :: List.replicate 7 0),
    .pauseExpiry 32 none, .pauseExpiry 0 (some 8),
    .pauseWatchdogExpiry 32 0, .pauseWatchdogExpiry 0 8,
    .pauseWatchdogIgnoreEnd 32 0, .pauseWatchdogIgnoreEnd 0 8,
    .pfcResendTimer 32 0, .pfcResendTimer 0 8,
    .lbQuiesce 8,
    .lbResume 8,
    .quiesceComplete 8,
    .lifeMinute 8 0, .lifeMinute 0 257,
    .lifeAreaWrite 8,
    .sqDbWrite 256 0 0, .sqDbWrite 0 15 0, .sqDbWrite 0 0 65536,
    .sqFetchResponse 256 0 entry, .sqFetchResponse 0 15 entry, .sqFetchResponse 0 0 [],
    .sqRefetchTimer 256 0, .sqRefetchTimer 0 15,
    .sqRestart 256 0, .sqRestart 0 15,
    .sqTransportEntry 256 0 entry, .sqTransportEntry 0 15 entry, .sqTransportEntry 0 0 [],
    .sqLaunchEntry 256 0 entry, .sqLaunchEntry 0 15 entry, .sqLaunchEntry 0 0 [],
    .sqControlEntry 256 0 entry, .sqControlEntry 0 15 entry, .sqControlEntry 0 0 [],
    .sqReceiveEntry 256 0 entry, .sqReceiveEntry 0 15 entry, .sqReceiveEntry 0 0 [],
    .cqDbWrite 256 0 0, .cqDbWrite 0 65536 0, .cqDbWrite 0 0 32768] : List Instr).all (fun c => !c.wf) = true := by
  decide +kernel

/-- Ill-formed terms of the commands cqDbArm to passcomponenttable. -/
theorem test_refuses_cqDbArm_to_passcomponenttable : ([
    .cqDbArm 256 0 0, .cqDbArm 0 65536 0, .cqDbArm 0 0 32768,
    .cqModerationTimer 65536,
    .hostApertureRead 256 0 0, .hostApertureRead 0 0 4097,
    .hostApertureWrite 256 0 [], .hostApertureWrite 0 0 (List.replicate 513 0#8),
    .peerInboxDoorbell 4 0 0 [], .peerInboxDoorbell 0 8 0 [], .peerInboxDoorbell 0 0 0 [(0, { hops := 15 })],
    .peerOutCredit 4 0 0, .peerOutCredit 0 8 0,
    .quotaSet 256,
    .quotaReadRequested 256,
    .quotaReadEffective 256,
    .ctxmFreeze 256,
    .freezeComplete 256,
    .ctxmSave 256,
    .ctxmRestore 256,
    .ctxmThaw 256,
    .ctxmDiscard 256,
    .ctxmRepoint 256 0, .ctxmRepoint 0 262144,
    .ceKeySet 256 0 false, .ceKeySet 0 256 false,
    .ceKeyClear 256 0, .ceKeyClear 0 256,
    .ceKeyRead 256 0, .ceKeyRead 0 256,
    .keySlotSet 0 4, .keySlotSet 1 16, .keySlotSet 2 8, .keySlotSet 3 0,
    .keySlotClear 0 4, .keySlotClear 1 16, .keySlotClear 2 8, .keySlotClear 3 0,
    .fwLockClass 65536,
    .fwLoadComplete (some 4),
    .setEndpointId 255, .setEndpointId 7,
    .getMctpVersionSupport 256,
    .getpldmcommands 64,
    .passcomponenttable 4] : List Instr).all (fun c => !c.wf) = true := by
  decide +kernel

/-- Ill-formed terms of the commands updatecomponent to rxOverflow. -/
theorem test_refuses_updatecomponent_to_rxOverflow : ([
    .updatecomponent 4,
    .getCert 0 1025,
    .getQuote [],
    .readQuote 0 1025,
    .faultEvent 64 0 0, .faultEvent 0 256 0, .faultEvent 0 0 256,
    .quietPeriodExpiry 64,
    .strikeTimerExpiry 64,
    .fcolEvtClear 64 0, .fcolEvtClear 0 256,
    .fcolUnfence 8 0, .fcolUnfence 0 256,
    .snapCmd 256,
    .sqcClearWrite .pwrEvent 256, .sqcClearWrite (.seqEvent 16) 0, .sqcClearWrite (.redStatus 16) 0, .sqcClearWrite (.spcStatus 16) 0, .sqcClearWrite (.teStatus 16) 0, .sqcClearWrite (.ceStatus 16) 0, .sqcClearWrite (.fabNotice 32) 0, .sqcClearWrite (.portStatus 32) 0, .sqcClearWrite (.lbStatus 8) 0, .sqcClearWrite (.sqStatus 256 0) 0, .sqcClearWrite (.sqStatus 0 15) 0, .sqcClearWrite (.hostPortStatus 4) 0,
    .registerWrite 0 9 0, .registerWrite 0 0 0, .registerWrite 0x1040000 4 0, .registerWrite 0x2000000 4 0, .registerWrite 0x3000000 4 0,
    .undefinedInstruction ⟨16, 0⟩ 0, .undefinedInstruction ⟨0, 8⟩ 0,
    .pdelayReqInterval 32,
    .setdasa 128 0, .setdasa 0 128,
    .entdaa 128,
    .rxOverflow { arrival with port := 32 }, .rxOverflow { arrival with len := 16384 }, .rxOverflow { arrival with frame := .macControl 65536 }, .rxOverflow { arrival with frame := .speron { hops := 15 } }] : List Instr).all (fun c => !c.wf) = true := by
  decide +kernel

theorem test_accepts_v54InReady_to_ld : ([
    .v54InReady 0, .modResetRelease 0, .perstNAssert 0, .perstNRelease 0, .ppsInEdge 0, .latchOpen 0, .latchClose 0, .cartridgeIdentified 0 cart, .bringUpStageComplete .clean, .hostLinkUp 0 0 8, .hostLinkDown 0, .functionLevelReset 0, .contextDrainComplete 0, .tickBoundary 0 0, .capIntervalEnd 0 0, .modeArm 0, .modeCommitAttempt 0, .modeAbort 0, .restExitUnitArmed 0, .restRequest false, .restExitRequest false, .setPower 0 0 0, .pwrThermWrite false 0, .modeCmdTick false, .marionetteEntryFire 0, .ptpSyncRx 0 0 0, .ptpAnnounceRx 0 0 announced 0 0 0, .ptpPdelayRx 0 false 0, .ptpSyncInterval 0, .launch launchReq, .privSignatureVerified 0, .launchSlotsFree 0, .icacheFill ⟨0, 0⟩, .add ⟨0, 0⟩ 0 0 (.reg 1), .sub ⟨0, 0⟩ 0 0 (.reg 1), .mul ⟨0, 0⟩ 0 0 (.reg 1), .and ⟨0, 0⟩ 0 0 (.reg 1), .or ⟨0, 0⟩ 0 0 (.reg 1), .xor ⟨0, 0⟩ 0 0 (.reg 1), .shl ⟨0, 0⟩ 0 0 (.reg 1), .shr ⟨0, 0⟩ 0 0 (.reg 1), .sar ⟨0, 0⟩ 0 0 (.reg 1), .cmp ⟨0, 0⟩ 0 0 0 (.reg 1), .sel ⟨0, 0⟩ 0 0 0 0, .mov ⟨0, 0⟩ 0 0, .li ⟨0, 0⟩ 0 0, .lih ⟨0, 0⟩ 0 0, .br ⟨0, 0⟩ 0, .brp ⟨0, 0⟩ 0 false 0, .call ⟨0, 0⟩ 0 0, .ret ⟨0, 0⟩ 0, .loop ⟨0, 0⟩ 0 0, .halt ⟨0, 0⟩, .yield ⟨0, 0⟩, .step ⟨0, 0⟩, .trap ⟨0, 0⟩ 0, .dset ⟨0, 0⟩ 1 2 60 4 1, .dld ⟨0, 0⟩ 0 0 0, .dst ⟨0, 0⟩ 0 0 0, .ld ⟨0, 0⟩ 0 0 0 0] : List Instr).all Instr.wf = true := by
  decide +kernel

theorem test_accepts_ldSyncCount_to_migrationComplete : ([
    .ldSyncCount ⟨0, 0⟩ 0 0 0, .ldFailureLatch ⟨0, 0⟩ 0 0 0, .st ⟨0, 0⟩ 0 0 0 0, .issue ⟨0, 0⟩ 0 false 0 0, .issuew ⟨0, 0⟩ 0 0 false 0 0, .sig ⟨0, 0⟩ 0 0 0, .wait ⟨0, 0⟩ 0 0 0, .waitt ⟨0, 0⟩ 1 1 1 0 1, .arm ⟨0, 0⟩ 0 0 0, .sigr ⟨0, 0⟩ 0 0, .twait ⟨0, 0⟩ false 0, .postwr ⟨0, 0⟩ 0, .postrd ⟨0, 0⟩ 0, .postsend ⟨0, 0⟩ 0, .postatom ⟨0, 0⟩ 0 0 0, .cqpost ⟨0, 0⟩ 1 1 1 false 0x7F, .fenceE ⟨0, 0⟩, .fenceF ⟨0, 0⟩, .fenceH ⟨0, 0⟩, .fenceConditionMet ⟨0, 0⟩, .seqStop 0 0, .syncUnitOperation 0, .waittTimeout ⟨0, 0⟩, .xbarDeliver 0, .redDescriptorStart 0, .redTileRelease 0 .pass, .redRemainderDelivered 0, .sgd 0, .adam 0, .adamw 0, .lambMoments 0, .lambApply 0, .lion 0, .norm 0, .cast 0, .lookupDescriptor 0, .encode 0, .decode 0, .unionSum 0, .quantizeDescriptor 0, .spcUnitRelease 0, .teDescriptorStart 0, .teUnitRelease 0 [], .ceEncrypt 0 none, .ceDecrypt 0 none, .holdingUnitAccess (.stack 0) [], .segSet 0 0, .segRemove 0 0, .segRead 0 0, .winSet 0, .winRemove 0, .winRead 0, .winBump 0, .keySet 0, .keyRemove 0, .keyRead 0, .migPrefetch 0 0 0, .migEvict 0 0 0, .evictComplete 0 0 0, .migrationComplete 0 0 0 []] : List Instr).all Instr.wf = true := by
  decide +kernel

theorem test_accepts_migrationFail_to_hostVfLimitWrite : ([
    .migrationFail 0 0 0 false, .migrationTimeout 0 0 0 false, .qpInit 0, .qpRtr 0, .qpRts 0, .qpReset 0, .qpError 0, .qpRead 0, .qpStateFetched 0, .trnPacketTransmit 0 0 [] false, .writeRx .loopback {}, .readReqRx .loopback {} [], .readRespRx .loopback {}, .sendRx .loopback {}, .atomicRx .loopback {} [], .atomicRespRx .loopback {}, .signalRx .loopback {}, .ackRx .loopback {}, .pathNoticeRx .loopback {}, .fenceHeldRelease 0 0 [], .ackDelayExpiry 0, .retryTimerExpiry 0, .routeSet 0, .routeInvalidate 0, .routeRead 0, .routeEntryFetched 0, .frameReceived arrival [], .egressBufferRoom 0, .egressFrameStart 0 0, .linkUp 0, .linkDown 0, .portCfgWrite 0 0, .txUnderrun 0, .pauseRx 0 0, .pfcRx 0 0 eight, .pauseExpiry 0 none, .pauseWatchdogExpiry 0 0, .pauseWatchdogIgnoreEnd 0 0, .pfcResendTimer 0 0, .lbQuiesce 0, .lbResume 0, .quiesceComplete 0, .lifeMinute 0 0, .lifeAreaWrite 0, .sqDbWrite 0 0 0, .sqFetchResponse 0 0 entry, .sqRefetchTimer 0 0, .sqRestart 0 0, .sqTransportEntry 0 0 entry, .sqLaunchEntry 0 0 entry, .sqControlEntry 0 0 entry, .sqReceiveEntry 0 0 entry, .cqDbWrite 0 0 0, .cqDbArm 0 0 0, .cqModerationTimer 0, .hostApertureRead 0 0 0, .hostApertureWrite 0 0 [], .peerInboxDoorbell 0 0 0 [], .peerOutCredit 0 0 0, .hostVfLimitWrite 0] : List Instr).all Instr.wf = true := by
  decide +kernel

theorem test_accepts_quotaSet_to_winDrainComplete : ([
    .quotaSet 0, .quotaReadRequested 0, .quotaReadEffective 0, .ctxmFreeze 0, .freezeComplete 0, .ctxmSave 0, .ctxmRestore 0, .ctxmThaw 0, .ctxmDiscard 0, .ctxmRepoint 0 0, .ceKeySet 0 0 false, .ceKeyClear 0 0, .ceKeyRead 0 0, .keySlotSet 0 0, .keySlotClear 0 0, .fwLockClass 0, .fwStage false, .fwLoadComplete none, .relayPackageArrival false, .setEndpointId 8, .getMctpVersionSupport 0, .getpldmcommands 0, .passcomponenttable 0, .updatecomponent 0, .requestfirmwaredata 0 [], .transfercomplete false, .applycomplete false, .getCert 0 0, .getQuote (List.replicate 32 0#8), .readQuote 0 0, .faultEvent 0 0 0, .quietPeriodExpiry 0, .strikeTimerExpiry 0, .fcolEvtClear 0 0, .fcolForce 0 0, .fcolUnfence 0 0, .snapCmd 0, .sqcClearWrite .pwrEvent 0, .registerWrite 0x100 4 0, .undefinedInstruction ⟨0, 0⟩ 0, .pdelayReqInterval 0, .setdasa 0 0, .entdaa 0, .rxOverflow arrival, .vaux3v3Applied, .vaux3v3Removed, .vaux3v3Collapse, .v54InLoss, .modResetAssert, .bringUpStageLimit, .enterActive, .restDrainDone, .restDrainTimeout, .restExitCommit, .restExitArmTimeout, .modeCmdSwap, .ptpSyncTimeout, .descriptorCompletion, .segRemoveComplete, .winDrainComplete] : List Instr).all Instr.wf = true := by
  decide +kernel

theorem test_accepts_fwOpenSession_to_ppsHoldover : ([
    .fwOpenSession, .fwActivate, .fwCancel, .fwRelay, .fwActivationDrainDone, .fwActivationDrainTimeout, .getEndpointId, .getMessageTypeSupport, .gettid, .getpldmtypes, .querydeviceidentifiers, .getfirmwareparameters, .requestupdate, .verifycomplete, .activatefirmware, .getstatus, .cancelupdatecomponent, .cancelupdate, .quoteComplete, .getState, .getPowerEvent, .fcolArm, .unfenceEffect, .domainRefillDone, .pwrLifeWrite, .ppsHoldover] : List Instr).all Instr.wf = true := by
  decide +kernel

/-! ### Ulent words -/

/-- The five words that the spec derives, and one word of each of the other formats, decode to their instructions (R156, R159, R186). -/
theorem test_sample_words :
  ∀ t : Th,
    ulDecode t 0x01139C0000020000 = some (.add t 7 7 (.imm 131072)) ∧
    ulDecode t 0x4A92638000020001 = some (.waitt t 1 6 7 2 1) ∧
    ulDecode t 0x2150100000000009 = some (.brp t 1 false 9) ∧
    ulDecode t 0x3062C09C40000000 = some (.dset t 2 3 0 39 2) ∧
    ulDecode t 0x24518000FFFFFFF8 = some (.loop t 3 0xFFFFFFF8) ∧
    ulDecode t 0x25C0000000000000 = some (.halt t) ∧
    ulDecode t 0x27C0000000000040 = some (.trap t 0x40) ∧
    ulDecode t 0x0D46000001403008 = some (.li t 12 0x01403008) ∧
    ulDecode t 0x58B2000000000000 = some (.postwr t 2) ∧
    ulDecode t 0x61C0000000000000 = some (.fenceF t) ∧
    ulDecode t 0 = none := by
  intro t
  refine ⟨?_, ?_, ?_, ?_, ?_, ?_, ?_, ?_, ?_, ?_, ?_⟩ <;> rfl

/-! ### The hypotheses of the statements that are structures, as conditions that are decided -/

theorem cqOpen_iff (s : State) (n : Nat) (c : Cq) : CqOpen s n c ↔
    (s.pst ≠ 4 ∧ smFind s.ho.cqs n = some c ∧ s.hostUp (s.ctxPort c.ctx) = true ∧ c.waiting = [] ∧ c.written - c.consumed < 2 ^ c.log2 ∧ c.armed = false) :=
  ⟨fun ⟨a, b, c, d, e, f⟩ => ⟨a, b, c, d, e, f⟩, fun ⟨a, b, c, d, e, f⟩ => ⟨a, b, c, d, e, f⟩⟩

theorem issues_iff (s : State) (t : Th) (c : Instr) (p : Program) : Issues s t c p ↔
    (s.pst = 3 ∧ (s.thr t).st = .ready ∧ xbarBlocked s t = false ∧ t.dom < nDom s ∧ t.slot < 8 ∧ s.prog t = some p ∧
      ¬ (smGet s.sq.last t.dom 0 = (s.thr t).live + 1 ∧ otherReady s t = true) ∧
      (match fetch s t (s.thr t) p with | .word w => ulDecode t w == some c | _ => false) = true) := by
  constructor
  · rintro ⟨a, b, c, d, e, f, g, w, h, i⟩
    exact ⟨a, b, c, d, e, f, g, by rw [h]; simpa using i⟩
  · rintro ⟨a, b, c, d, e, f, g, h⟩
    refine ⟨a, b, c, d, e, f, g, ?_⟩
    split at h
    · exact ⟨_, by assumption, by simpa using h⟩
    · cases h

theorem arrives_iff (s : State) (i : Ingress) (p : Packet) : Arrives s i p ↔
    ((s.qp p.dqp).cached = true ∧ (p.type ≤ 8 ∧ p.rsvHdr = false ∧ p.rsvRoute = false ∧ hdrOk p = true) ∧ qpAccepts s i p = true ∧
      agedOut s p = false ∧ qpEnc (s.qp p.dqp).e.toNat = false) :=
  ⟨fun ⟨a, b, c, d, e⟩ => ⟨a, b, c, d, e⟩, fun ⟨a, b, c, d, e⟩ => ⟨a, b, c, d, e⟩⟩

theorem expected_iff (s : State) (i : Ingress) (p : Packet) : Expected s i p ↔
    (Arrives s i p ∧ p.psn = (s.qp p.dqp).epsn ∧ p.psn < 2 ^ 24 ∧ (s.qp p.dqp).done = [] ∧
      (migHeld s p.dqp p.psn = false ∧ fenceHeld s p.dqp p.psn = false ∧ signalling s p.dqp p.psn = false) ∧
      (p.fence = false ∨ fenceOpen (s.qp p.dqp) p = true)) :=
  ⟨fun ⟨a, b, c, d, e, f⟩ => ⟨a, b, c, d, e, f⟩, fun ⟨a, b, c, d, e, f⟩ => ⟨a, b, c, d, e, f⟩⟩

theorem oneTile_iff (s : State) (who : Who) (rights ctx no a n pa : Nat) : OneTile s who rights ctx no a n pa ↔
    (0 < n ∧ a % 2048 + n ≤ 2048 ∧ opTranslate s who rights ctx no a n = .mem pa ∧ pa % 2048 = a % 2048 ∧
      s.tileFenced (tileOf pa) = false ∧ s.tileBad (tileOf pa) = 0) :=
  ⟨fun ⟨a, b, c, d, e, f⟩ => ⟨a, b, c, d, e, f⟩, fun ⟨a, b, c, d, e, f⟩ => ⟨a, b, c, d, e, f⟩⟩

/-! ### Hypotheses over a type without end, from conditions that are decided -/

def isTracker : Pend → Bool
  | .tracker _ => true
  | _ => false

theorem no_tracker {l : List (Nat × Thread)} (h : (l.all fun e => !isTracker e.2.pend) = true) : ∀ e ∈ l, ∀ z : Desc, e.2.pend ≠ .tracker z := by
  intro e he z hz
  have := List.all_eq_true.mp h e he
  rw [hz] at this
  simp [isTracker] at this

theorem none_held {l : List FaultRec} (h : l = []) : ∀ r ∈ l, ∀ x ∈ r.waiters, ∀ (i : Ingress) (p : Packet), x ≠ .held i p := by
  subst h; intro r hr; cases hr

theorem heads_fit {s : State} {n m : Nat} (h : ∀ k < 8, ∀ g ∈ (s.port n).cls k, g.len ≤ m) :
    ∀ (k : Nat) (g : Frame) (gs : List Frame), k < 8 → (s.port n).cls k = g :: gs → g.len ≤ m :=
  fun k g gs hk e => h k hk g (by rw [e]; exact List.mem_cons_self)

theorem between {P : Nat → Prop} {a b : Nat} (h : ∀ k < b, a < k → P k) : ∀ k, a < k → k < b → P k := fun k x y => h k y x

theorem not_mem {x : Tr} (h : (match x with | .mem _ => false | _ => true) = true) : ∀ pa, x ≠ .mem pa := by
  rintro pa rfl; cases h

/-! ### States -/

def act : State :=
  let s := State.reset.set F.PWR_STATE_STATE 3
  { s with pw := { s.pw with held := false } }
abbrev th : Th := ⟨0, 0⟩
def seg0 : Segm := { e := BitVec.ofNat 512 (2 ^ 65 + 2 ^ 128 * (0xF + 256) + 2 ^ 192 * 0x200000) }
def quota1 : BitVec 512 := BitVec.ofNat 512 (64 * 2 ^ 32 + 64 * 2 ^ 96 + 64 * 2 ^ 160 + 64 * 2 ^ 224 + 16 * 2 ^ 272
  + 2 ^ 384 * (2 ^ 31 + 2 ^ 17 * 5632))
def prog1 : Program := { dom := 0, num := 0, ctx := 1, image := 0, codeOff := 0, codeSize := 64, tickSched := false, priv := false, lateSig := false, syncBase := 0, syncCount := 16, engines := 2 ^ 64 - 1, budget := List.replicate 7 (1000000, 1000000), cq := 0, tag := 7, slots := [0, 1], no := 99 }
def cached (c : Instr) : SMap (SMap Byte) :=
  [(16 * 1024, ((toLE 8 ((ulEncode c).getD 0)).zipIdx.map fun e => (e.2, e.1)))]
def qp1 : Qp := { e := BitVec.ofNat 512 (2 ^ 8 + 5 * 2 ^ 32), st := 3, cached := true }
def seqSt (c : Instr) (x : Thread) (p : Program := prog1) : State :=
  { act with
    sg := { act.sg with segs := [(16, seg0)] }
    ho := { act.ho with quotaEff := [(1, quota1)] }
    tr := { act.tr with qps := [(3, qp1)] }
    sq := { act.sq with thr := [(0, { x with st := .ready, ctx := 1 }), (1, { st := .waiting, ctx := 1 })], progs := [(0, p)], icache := cached c, opNo := 5 } }
def x0 : Thread := { g := [(1, 5#64), (2, 0xFFFFFFFFFFFFFFFF#64), (3, 70#64)] }
def xd (w : Nat) : Thread := { x0 with d := [(1, BitVec.ofNat 256 w)] }
def prog1a : Program := { prog1 with slots := [0] }
def dw (kind : Nat) (w1 w2 w3 : Nat) : Nat :=
  kind + 1 * 2 ^ 4 + 3 * 2 ^ 12 + 2 * 2 ^ 24 + 9 * 2 ^ 32 + 2 ^ 64 * (4 + 2 ^ 12 + w1) + 2 ^ 128 * w2 + 2 ^ 192 * w3
def hdr (flags sig : Nat) : List Byte :=
  slice (toLE 4 0x544E4C55 ++ toLE 2 1 ++ toLE 2 256 ++ toLE 4 256 ++ toLE 4 8 ++ toLE 4 flags ++ toLE 1 1 ++ toLE 1 0 ++ toLE 2 8) 0 152
    ++ toLE 4 (if sig = 0 then 0 else 264) ++ toLE 4 sig ++ slice [] 0 96
def cells (a : Nat) (bs : List Byte) : List Host.Cell := (bs.zipIdx.map fun e => (a + e.2, e.1)).filter fun e => e.2 != 0#8
def segP : Segm := { e := BitVec.ofNat 512 (2 ^ 65 + 2 ^ 128 * (0xF + 256) + 2 ^ 192 * 0x200000) }
def launchSt (h : List Byte) : State :=
  { act with
    sg := { act.sg with segs := [(0, segP), (16, segP)] }
    ho := { act.ho with quotaEff := [(0, quota1), (1, quota1)] }
    mem := { act.mem with hbm := cells 0x200000 h }
    sq := { act.sq with opNo := 5 } }
def lreq (ctx : Nat) : LaunchReq := { ctx := ctx, image := 0, dom := 0, syncBase := 8, zeroSync := true, args := [1#64, 2#64, 3#64, 4#64], cq := 0, tag := 77 }
def launchOf (h : List Byte) (ctx : Nat) : Launch := ((parseHeader h (lreq ctx) 5).getD ⟨lreq ctx, prog1, [], 0, 0⟩)
def launch1 : Launch := launchOf (hdr 0 0) 1
def launchP : Launch := launchOf (hdr 2 29792) 0
def desc (eng w : Nat) : Desc := { w := BitVec.ofNat 256 w, th := th, prog := 0, live := 0, ew := none, eng := eng, opA := 0, opB := 0, post := false, no := 3, ts := false, bc := 1000000, bb := 1000000 }
def engSt (e : Nat) (q : List Desc) (r : Option Run) : State :=
  let s := seqSt (.halt th) x0
  { s with en := { s.en with eng := [(e, { queue := q, run := r })] }, mem := { s.mem with hbm := cells 0x200800 [0#8, 0#8, 0x80#8, 0x3F#8] } }
def dAdd (n : Nat) : Desc := desc 0 (dw 0 (4 * 2 ^ 13) (1 + 2 ^ 37 * (n - 1)) 0)

/-! ### Worked examples of the spec: every expected result is the spec's own -/

/-- The ASCII bytes "123456789". -/
def ascii9 : List Byte := (List.range 9).map fun i => BitVec.ofNat 8 (0x31 + i)

/-- The check value of the tile checksum (R278). -/
theorem test_crc64 : crc64 ascii9 = 0x995DC9BBDF1939FA#64 := by decide +kernel

/-- The check value of an entry's CRC-16 (R441). -/
theorem test_crc16 : crc16 ascii9 = 0x29B1 := by decide +kernel

/-- Address 0x45C818 lies in stack 2, and its tile's checksum entry at 0xB_F400_0458 (ch. 10's example). -/
theorem test_tile_address : stackOf false 0x45C818 = 2 ∧ inStack false 0x45C818 = 0x45818 ∧ sumAddr false (tileOf 0x45C818) = 0xBF4000458 := by decide +kernel

/-- 1.0 + 0.005859375 in BF16: nearest even, and the two draws of ch. 7's example. -/
theorem test_bf16_rounding :
    let v := (of32 0x3F800000).add (of32 0x3BC00000)
    ((fmtOf 1).map fun f => ((castFmt f .near false v).w, (castFmt f (.stoch 0x2A510000) false v).w, (castFmt f (.stoch 0x5C100000) false v).w))
      = some (0x3F81, 0x3F80, 0x3F81) := by decide +kernel

/-- The MXFP8 E4M3 block of ch. 7's example: 1,000.0, −600.0, 0.3 and 0.001. -/
theorem test_mxfp8_block :
    let o := mxEncode 5 none false 0 ([of32 0x447A0000, of32 0xC4160000, of32 0x3E99999A, of32 0x3A83126F] ++ List.replicate 28 (of32 0))
    o.scale = 0x80 ∧ o.sats = 1 ∧ o.elems.take 5 = [0x7E, 0xF9, 0x22, 0x00, 0x00] := by decide +kernel

/-- The ring step of ch. 7's example costs 544 cycles and 131,072 bytes. -/
theorem test_ring_step_cost :
    redCost (BitVec.ofNat 256 (0x0000090101404000 + 2 ^ 64 * 0x0442000015000000 + 2 ^ 128 * 0x001FFFF00000A400 + 2 ^ 192 * 0x0000004000400000)) 65536
      = (544, 131072) := by decide +kernel

/-- The path 3, 9, 21 is 0x5523 (ch. 13's example). -/
theorem test_path : (List.range 3).map (hopOf 0x5523) = [3, 9, 21] := by decide +kernel

/-- Three operations in one cycle on object 1,030, the unit's pointer at 10 (ch. 5's example): the engine's, the transport unit's, then the arm; after
each the count and the pointer. -/
theorem test_three_sync_operations :
    let s : State := { act with sy := { act.sy with
      counts := [(1030, 4)], ptr := [(1, 10)], reqs := [⟨6, 1030, none, .arm 0, none, 0, none⟩, ⟨37, 1030, none, .signal 1, none, 0, none⟩, ⟨80, 1030, none, .signal 8, none, 0, none⟩] } }
    let a := syncServe s 1; let b := syncServe a 1; let c := syncServe b 1
    [a, b, c].map (fun t => (t.syncCount 1030, smGet t.sy.ptr 1 0)) = [(5, 11), (13, 12), (0, 12)] := by decide +kernel

/-! ### One instruction each -/

/-- The register of thread 0 of domain 0 after a command, if it runs. -/
def regAfter (c : Instr) (x : Thread) (n : Nat) : Option Word :=
  match exec c (seqSt c x) with
  | .next u => some ((u.thr th).gr n)
  | _ => none

/-- A sum wraps at 2^64 (R163). -/
theorem test_add_wraps : regAfter (.add th 4 2 (.reg 1)) x0 4 = some 4#64 := by decide +kernel
/-- A 32-bit immediate is sign-extended (R158). -/
theorem test_sub_sign_extends : regAfter (.sub th 4 1 (.imm 0xFFFFFFFF#32)) x0 4 = some 6#64 := by decide +kernel
/-- g0 reads 0 and discards a write (R125). -/
theorem test_g0_discards : regAfter (.add th 0 1 (.reg 1)) x0 0 = some 0#64 := by decide +kernel
/-- A shift by 70 is a shift by 6 (R163). -/
theorem test_shl_masks : regAfter (.shl th 4 1 (.reg 3)) x0 4 = some 320#64 := by decide +kernel
/-- The sign is kept by SAR (R163). -/
theorem test_sar_sign : regAfter (.sar th 4 2 (.imm 8#32)) x0 4 = some 0xFFFFFFFFFFFFFFFF#64 := by decide +kernel
/-- LIH leaves the low half (R164). -/
theorem test_lih_low : regAfter (.lih th 1 0xABCD#32) x0 1 = some 0x0000ABCD00000005#64 := by decide +kernel

/-! ### The hypotheses of the statements about every command -/

theorem witness_StepRunsFront : State.reset.pending = [] := rfl

/-- A step that keeps the invariant: the idle one, and one that runs a command. -/
theorem witness_StepKeepsMemory :
    (Machine.Inv State.reset ∧ step State.reset = .next State.reset) ∧
    (∃ t, Machine.Inv { State.reset with pending := [.vaux3v3Applied] } ∧ step { State.reset with pending := [.vaux3v3Applied] } = .next t) :=
  ⟨⟨by unfold Machine.Inv; decide +kernel, rfl⟩, _, by unfold Machine.Inv; decide +kernel, rfl⟩

/-- A command other than HOLDING_UNIT_ACCESS; a stack that no variant has; an address of another stack; and an access that is served. -/
theorem witness_WhereCommandsStop :
    (∀ u as, Instr.vaux3v3Applied ≠ .holdingUnitAccess u as) ∧ holdPresent act (.stack 16) = false ∧
    holdServes act (.stack 1) ⟨0, 0, .read, none⟩ = false ∧ holdPresent act (.stack 0) = true ∧ holdServes act (.stack 0) ⟨0, 0, .read, none⟩ = true := by
  refine ⟨fun _ _ => Instr.noConfusion, by decide +kernel, by decide +kernel, by decide +kernel, by decide +kernel⟩

/-- ADD with an immediate, every register number at its largest. -/
theorem witness_UlentRoundTrip :
    let c : Instr := .add ⟨15, 7⟩ 31 31 (.imm 0xFFFFFFFF#32)
    Instr.wf c = true ∧ (∃ w, ulEncode c = some w) ∧ ulThread c = some ⟨15, 7⟩ := by
  exact ⟨by decide +kernel, ⟨_, rfl⟩, rfl⟩

theorem witness_CompressionRoundTrip : (0 ≤ 4 ∨ isInt 0 = true) ∧ isInt 12 = true ∧ (List.replicate 2048 0#8).length = 2048 := by decide +kernel

/-! ### The hypotheses of the statements about Ulent instructions -/

namespace Ulent

theorem witness_AluResult :
    (let s : State := seqSt (.add th 4 1 (.reg 2)) x0; Issues s th (Instr.add th 4 1 (Opd.reg 2)) prog1) ∧
    (let s : State := seqSt (.sub th 0 1 (.imm 2)) x0; Issues s th (Instr.sub th 0 1 (Opd.imm 2)) prog1) ∧
    (let s : State := seqSt (.mul th 31 2 (.reg 2)) x0; Issues s th (Instr.mul th 31 2 (Opd.reg 2)) prog1) ∧
    (let s : State := seqSt (.and th 31 2 (.reg 2)) x0; Issues s th (Instr.and th 31 2 (Opd.reg 2)) prog1) ∧
    (let s : State := seqSt (.or th 31 2 (.reg 2)) x0; Issues s th (Instr.or th 31 2 (Opd.reg 2)) prog1) ∧
    (let s : State := seqSt (.xor th 31 2 (.reg 2)) x0; Issues s th (Instr.xor th 31 2 (Opd.reg 2)) prog1) ∧
    (let s : State := seqSt (.shl th 31 2 (.reg 3)) x0; Issues s th (Instr.shl th 31 2 (Opd.reg 3)) prog1) ∧
    (let s : State := seqSt (.shr th 31 2 (.reg 3)) x0; Issues s th (Instr.shr th 31 2 (Opd.reg 3)) prog1) ∧
    (let s : State := seqSt (.sar th 31 2 (.reg 3)) x0; Issues s th (Instr.sar th 31 2 (Opd.reg 3)) prog1) := by
  simp only [issues_iff]
  refine ⟨?_, ?_, ?_, ?_, ?_, ?_, ?_, ?_, ?_⟩ <;> decide +kernel

theorem witness_MoveResult :
    (let s : State := seqSt (.mov th 31 2) x0; Issues s th (Instr.mov th 31 2) prog1) ∧
    (let s : State := seqSt (.li th 31 0x80000000) x0; Issues s th (Instr.li th 31 2147483648) prog1) ∧
    (let s : State := seqSt (.sel th 31 2 3 7) {x0 with p := 128}; Issues s th (Instr.sel th 31 2 3 7) prog1) := by
  simp only [issues_iff]
  refine ⟨?_, ?_, ?_⟩ <;> decide +kernel

theorem witness_CmpResult :
    (let s : State := seqSt (.cmp th 7 10 1 (.imm 4)) x0; Issues s th (Instr.cmp th 7 10 1 (Opd.imm 4)) prog1) := by
  simp only [issues_iff]
  decide +kernel

theorem witness_ControlResult :
    (let s : State := seqSt (.br th 3) x0; Issues s th (Instr.br th 3) prog1) ∧
    (let s : State := seqSt (.brp th 7 false 3) x0; Issues s th (Instr.brp th 7 false 3) prog1) ∧
    (let s : State := seqSt (.call th 0 3) x0; Issues s th (Instr.call th 0 3) prog1) ∧
    (let s : State := seqSt (.ret th 1) x0; Issues s th (Instr.ret th 1) prog1) ∧
    (let s : State := seqSt (.loop th 9 3) x0; Issues s th (Instr.loop th 9 3) prog1 ∧ 9 ≠ 0) ∧
    (let s : State := seqSt (.loop th 0 3) x0; Issues s th (Instr.loop th 0 3) prog1) ∧
    (let s : State := seqSt (.loop th 0 3) {x0 with pc := 64}; ulThread (Instr.loop th 0 3) = some th ∧ s.pst = 3 ∧ (s.thr th).st = TSt.ready ∧
      th.dom < nDom s ∧ th.slot < 8 ∧ s.prog th = some prog1 ∧ xbarBlocked s th = false ∧ otherReady s th = false ∧
      (∃ k ∈ prog1.slots, thKey { prog1 with slot := k } ≠ thKey th ∧ (s.thr { prog1 with slot := k }).st ≠ TSt.halted) ∧
      (BitVec.toNat (s.thr th).pc % 8 ≠ 0 ∨ prog1.codeSize ≤ BitVec.toNat (s.thr th).pc)) := by
  simp only [issues_iff]
  refine ⟨?_, ?_, ?_, ?_, ?_, ?_, ?_⟩ <;> decide +kernel

theorem witness_DescriptorAndLatch :
    (let s : State := seqSt (.dset th 15 3 63 1 1) x0; Issues s th (Instr.dset th 15 3 63 1 1) prog1) ∧
    (let s : State := seqSt (.ldFailureLatch th 3 1 (BitVec.ofInt 32 (-5))) {x0 with latchCount := 2, latchCode := 0x10, latchTag := 77}; Issues s th (Instr.ldFailureLatch th 3 1 (BitVec.ofInt 32 (-5))) prog1 ∧
      effAddr (s.thr th) 1 (BitVec.ofInt 32 (-5)) = 0) := by
  simp only [issues_iff]
  refine ⟨?_, ?_⟩ <;> decide +kernel

theorem witness_ThreadFaults :
    (let s : State := seqSt (.ldFailureLatch th 3 1 0) x0; Issues s th (Instr.ldFailureLatch th 3 1 0) prog1 ∧
      (∃ k ∈ prog1.slots, thKey { prog1 with slot := k } ≠ thKey th ∧ (s.thr { prog1 with slot := k }).st ≠ TSt.halted) ∧ effAddr (s.thr th) 1 0 ≠ 0) ∧
    (let s : State := seqSt (.ldSyncCount th 3 1 0) x0; Issues s th (Instr.ldSyncCount th 3 1 0) prog1 ∧
      (∃ k ∈ prog1.slots, thKey { prog1 with slot := k } ≠ thKey th ∧ (s.thr { prog1 with slot := k }).st ≠ TSt.halted) ∧ (s.thr th).priv = false) ∧
    (let s : State := seqSt (.sig th 1 1 4091) x0; Issues s th (Instr.sig th 1 1 4091) prog1 ∧ (∃ k ∈ prog1.slots, thKey { prog1 with slot := k } ≠ thKey th ∧
      (s.thr { prog1 with slot := k }).st ≠ TSt.halted) ∧ 4096 ≤ BitVec.toNat ((s.thr th).gr 1 + 4091#64)) ∧
    (let s : State := seqSt (.wait th 1 1 4091) x0; Issues s th (Instr.wait th 1 1 4091) prog1 ∧ (∃ k ∈ prog1.slots, thKey { prog1 with slot := k } ≠ thKey th ∧
      (s.thr { prog1 with slot := k }).st ≠ TSt.halted) ∧ 4096 ≤ BitVec.toNat ((s.thr th).gr 1 + 4091#64)) ∧
    (let s : State := seqSt (.waitt th 0 1 1 4091 9) x0; Issues s th (Instr.waitt th 0 1 1 4091 9) prog1 ∧
      (∃ k ∈ prog1.slots, thKey { prog1 with slot := k } ≠ thKey th ∧ (s.thr { prog1 with slot := k }).st ≠ TSt.halted) ∧
      4096 ≤ BitVec.toNat ((s.thr th).gr 1 + 4091#64)) ∧
    (let s : State := seqSt (.arm th 1 1 4091) x0; Issues s th (Instr.arm th 1 1 4091) prog1 ∧ (∃ k ∈ prog1.slots, thKey { prog1 with slot := k } ≠ thKey th ∧
      (s.thr { prog1 with slot := k }).st ≠ TSt.halted) ∧ 4096 ≤ BitVec.toNat ((s.thr th).gr 1 + 4091#64)) ∧
    (let s : State := seqSt (.issue th 1 false 0 0) (xd 1); Issues s th (Instr.issue th 1 false 0 0) prog1 ∧
      (∃ k ∈ prog1.slots, thKey { prog1 with slot := k } ≠ thKey th ∧ (s.thr { prog1 with slot := k }).st ≠ TSt.halted) ∧
      ((if false = true then BitVec.toNat ((s.thr th).gr 0) % 64 else 0) < nEng s ∧
      dKind (dOwn (s.thr th) ((s.thr th).dr 1)) ≠ engKind s (if false = true then BitVec.toNat ((s.thr th).gr 0) % 64 else 0))) ∧
    (let s : State := seqSt (.postwr th 1) (xd 1); Issues s th (Instr.postwr th 1) prog1 ∧ (∃ k ∈ prog1.slots, thKey { prog1 with slot := k } ≠ thKey th ∧
      (s.thr { prog1 with slot := k }).st ≠ TSt.halted) ∧ dKind (dOwn (s.thr th) ((s.thr th).dr 1)) ≠ 8) := by
  simp only [issues_iff]
  refine ⟨?_, ?_, ?_, ?_, ?_, ?_, ?_, ?_⟩ <;> decide +kernel

end Ulent

/-! ### The hypotheses of the statements about halts and synchronization -/

namespace Sync

def sreq (op : SyncOp) (obj : Nat) (c : Option Nat := some 1) : SyncReq := ⟨0, obj, c, op, some (th, 0), 0, none⟩
def syncSt (r : SyncReq) (c : Nat) : State := let s := seqSt (.halt th) { x0 with pend := .sync, st := .executing }
  { s with sq := { s.sq with thr := [(0, { x0 with pend := .sync, st := .executing, ctx := 1 })] }, sy := { s.sy with reqs := [r], counts := [(3, c)] } }
def s2 : State := let s := syncSt (sreq (.signal 5) 3) 4; { s with sy := { s.sy with ptr := [(0, 1)], reqs := [sreq (.signal 1) 3, {sreq (.signal 2) 3 with req := 1}, sreq (.signal 4) 3] } }

theorem witness_HaltResult :
    (let s : State := seqSt (.halt th) x0; Issues s th (Instr.halt th) prog1 ∧ (∃ k ∈ prog1.slots, thKey { prog1 with slot := k } ≠ thKey th ∧
      (s.thr { prog1 with slot := k }).st ≠ TSt.halted)) ∧
    (let s : State := seqSt (.halt th) x0 prog1a; Issues s th (Instr.halt th) prog1a ∧
      (∀ k ∈ prog1a.slots, thKey { prog1a with slot := k } ≠ thKey th → (s.thr { prog1a with slot := k }).st = TSt.halted) ∧ anySaved s prog1a = false ∧
      prog1a.dom < 16) := by
  simp only [issues_iff]
  refine ⟨?_, ?_⟩ <;> decide +kernel

theorem witness_TrapAndUndefined :
    (let s : State := seqSt (.trap th 64) x0 prog1a; Issues s th (Instr.trap th 64) prog1a ∧
      ((∀ k ∈ prog1a.slots, thKey { prog1a with slot := k } ≠ thKey th → (s.thr { prog1a with slot := k }).st = TSt.halted) ∧ anySaved s prog1a = false ∧
      prog1a.decided = none) ∧ prog1a.dom < 16) ∧
    (let s : State := seqSt (.trap th 1000) x0 prog1a; s.pst = 3 ∧ (s.thr th).st = TSt.ready ∧ th.dom < nDom s ∧ th.slot < 8 ∧ s.prog th = some prog1a ∧
      xbarBlocked s th = false ∧ otherReady s th = false ∧
      fetch s th (s.thr th) prog1a = Fetched.word (BitVec.ofNat 64 ((ulEncode (Instr.trap th 1000)).getD 0)).toNat ∧
      ulDecode th (BitVec.ofNat 64 ((ulEncode (Instr.trap th 1000)).getD 0)).toNat = none ∧
      ((∀ k ∈ prog1a.slots, thKey { prog1a with slot := k } ≠ thKey th → (s.thr { prog1a with slot := k }).st = TSt.halted) ∧ anySaved s prog1a = false ∧
      prog1a.decided = none) ∧ prog1a.dom < 16) := by
  simp only [issues_iff]
  refine ⟨?_, ?_⟩ <;> decide +kernel

theorem witness_PreemptionPoints :
    (let s : State := seqSt (.step th) x0 prog1; Issues s th (Instr.step th) prog1 ∧ (s.thr th).stop = none ∧ (s.thr th).freeze = false) ∧
    (let s : State := seqSt (.yield th) {x0 with stop := some 10} prog1; Issues s th (Instr.yield th) prog1 ∧ (s.thr th).stop = some 10 ∧
      (∃ j ∈ prog1.slots, thKey { prog1 with slot := j } ≠ thKey th ∧ (s.thr { prog1 with slot := j }).st ≠ TSt.halted)) := by
  simp only [issues_iff]
  refine ⟨?_, ?_⟩ <;> decide +kernel

theorem witness_SyncRequests :
    (let s : State := seqSt (.sig th 0 0 4095) x0; (BitVec.toNat ((s.thr th).gr 0 + 4095#64) < 4096 ∧
      sreq (SyncOp.signal 1) 4095 = { req := th.dom, obj := BitVec.toNat ((s.thr th).gr 0 + 4095#64), ctx := some (s.thr th).ctx, op := SyncOp.signal (if BitVec.toNat ((s.thr th).gr 0) % 2 ^ 32 = 0 then 1 else BitVec.toNat ((s.thr th).gr 0) % 2 ^ 32), th := some (th, (s.thr th).live) }) ∧
      Issues s th (Instr.sig th 0 0 4095) prog1) ∧
    (let s : State := seqSt (.wait th 1 3 4090) x0; (BitVec.toNat ((s.thr th).gr 1 + 4090#64) < 4096 ∧
      sreq (SyncOp.wait 70) 4095 = { req := th.dom, obj := BitVec.toNat ((s.thr th).gr 1 + 4090#64), ctx := some (s.thr th).ctx, op := SyncOp.wait ((s.thr th).gr 3), th := some (th, (s.thr th).live) }) ∧
      Issues s th (Instr.wait th 1 3 4090) prog1) ∧
    (let s : State := seqSt (.waitt th 7 1 3 4090 1) x0; (BitVec.toNat ((s.thr th).gr 1 + 4090#64) < 4096 ∧
      sreq (SyncOp.waitt 70 1 7) 4095 = { req := th.dom, obj := BitVec.toNat ((s.thr th).gr 1 + 4090#64), ctx := some (s.thr th).ctx, op := SyncOp.waitt ((s.thr th).gr 3) 1 7, th := some (th, (s.thr th).live) }) ∧
      Issues s th (Instr.waitt th 7 1 3 4090 1) prog1) ∧
    (let s : State := seqSt (.arm th 1 3 4090) x0; (BitVec.toNat ((s.thr th).gr 1 + 4090#64) < 4096 ∧
      sreq (SyncOp.arm 70) 4095 = { req := th.dom, obj := BitVec.toNat ((s.thr th).gr 1 + 4090#64), ctx := some (s.thr th).ctx, op := SyncOp.arm ((s.thr th).gr 3), th := some (th, (s.thr th).live) }) ∧
      Issues s th (Instr.arm th 1 3 4090) prog1) ∧
    (let s : State := seqSt (.ldSyncCount th 9 1 4090) {x0 with priv := true}; ((s.thr th).priv = true ∧
      BitVec.toNat ((s.thr th).gr 1 + BitVec.signExtend 64 4090#32) < 4096 ∧
      sreq (SyncOp.read 9) 4095 none = { req := th.dom, obj := BitVec.toNat ((s.thr th).gr 1 + BitVec.signExtend 64 4090#32), ctx := none, op := SyncOp.read 9, th := some (th, (s.thr th).live) }) ∧
      Issues s th (Instr.ldSyncCount th 9 1 4090) prog1) := by
  simp only [issues_iff]
  refine ⟨?_, ?_, ?_, ?_, ?_⟩ <;> decide +kernel

theorem witness_SyncOperation :
    (let s : State := syncSt (sreq (.signal 5) 3) 4; s.pst = 3 ∧ 0 < nSync s ∧ s.sy.reqs = [sreq (SyncOp.signal 5) 3] ∧
      syncOwner s (sreq (SyncOp.signal 5) 3).obj = 0 ∧ (sreq (SyncOp.signal 5) 3).req < 83 ∧ (sreq (SyncOp.signal 5) 3).pkt = none ∧ s.sy.landed = [] ∧
      (∀ (c : Nat), (sreq (SyncOp.signal 5) 3).ctx = some c → s.ownsSync c (sreq (SyncOp.signal 5) 3).obj = true)) ∧
    (s2.pst = 3 ∧ 0 < nSync s2 ∧ s2.sy.landed = [] ∧ (∀ r ∈ s2.sy.reqs, r.pkt = none ∧ r.req < 83) ∧
      s2.sy.reqs = [sreq (SyncOp.signal 1) 3] ++ [{ sreq (SyncOp.signal 2) 3 with req := 1 }, sreq (SyncOp.signal 4) 3] ∧
      syncOwner s2 { sreq (SyncOp.signal 2) 3 with req := 1 }.obj = 0 ∧
      (∀ q ∈ [sreq (SyncOp.signal 1) 3], syncOwner s2 q.obj = 0 → q.req ≠ { sreq (SyncOp.signal 2) 3 with req := 1 }.req) ∧ smGet s2.sy.ptr 0 0 < 83 ∧
      (∀ q ∈ s2.sy.reqs, syncOwner s2 q.obj = 0 → ({ sreq (SyncOp.signal 2) 3 with req := 1 }.req + 83 - smGet s2.sy.ptr 0 0) % 83 ≤ (q.req + 83 - smGet s2.sy.ptr 0 0) % 83)) := by
  refine ⟨?_, ?_⟩ <;> decide +kernel

end Sync

/-! ### The hypotheses of the statements about memory, issue and posts -/

namespace Issue

def wSt : State := let s := seqSt (.waitt th 7 1 3 4090 1) x0
  { s with tk := { s.tk with count := 9 }, sq := { s.sq with thr := [(0, { x0 with st := .waiting, cause := 1, pend := .sync, p := 255 })] }, sy := { s.sy with waiters := [⟨4, 1#64, ⟨0, 1⟩, none, none⟩, ⟨3, 70#64, th, some (9, 7), some 7⟩] } }
def memSt (c : Instr) (x : Thread) : State := let s := seqSt c x
  { s with mem := { s.mem with hbm := (List.range 32).map fun i => (0x200800 + i, BitVec.ofNat 8 (i + 1)) } }
def x8 : Thread := { x0 with g := [(1, 2048#64), (2, 0xFFFFFFFFFFFFFFFF#64), (3, 70#64)], d := [(1, 0x0123456789abcdef#256)] }
def e0 : Nat := dw 0 0 0 0
def qE (c : Instr) : State := seqSt c (xd e0)
def cq1 : Cq := ⟨1, 0x1000, 5, 0, 1, 0, 0, 0, false, 0, []⟩
def cqS (c : Instr) (x : Thread) (q : Cq) : State := let s := (seqSt c x).set (F.HOST_PORT_STATUS_LINK 0) 1; { s with ho := { s.ho with cqs := [(5, q)] } }
def xIs : State := { seqSt (.issue th 1 true 3 0) { xd e0 with g := [(3, 40#64)] } with variant := true }

theorem witness_TimedWaitsAndFences :
    (let s : State := seqSt (.fenceE th) {x0 with pend := .fence 1, cause := 0, outE := 7}; Issues s th (Instr.fenceE th) prog1 ∧ s.pst = 3 ∧
      ((s.thr th).pend = Pend.fence 0 ∧ (s.thr th).outE = 0 ∨ (s.thr th).pend = Pend.fence 1 ∧ (s.thr th).outF = 0)) ∧
    (wSt.pst = 3 ∧ { obj := 3, thr := 70#64, th := th, expiry := some (9, 7), pd := some 7 } ∈ wSt.sy.waiters ∧
      ({ obj := 3, thr := 70#64, th := th, expiry := some (9, 7), pd := some 7 } : Waiter).th = th ∧
      ({ obj := 3, thr := 70#64, th := th, expiry := some (9, 7), pd := some 7 } : Waiter).expiry = some (9, 7) ∧ 9 ≤ wSt.tk.count ∧
      (∀ v ∈ wSt.sy.waiters, v.th = th → v = { obj := 3, thr := 70#64, th := th, expiry := some (9, 7), pd := some 7 }) ∧ 7 < 8) ∧
    (let s : State := seqSt (.twait th true 1023) x0; Issues s th (Instr.twait th true 1023) prog1) ∧
    (let s : State := seqSt (.fenceF th) x0; Issues s th (Instr.fenceF th) prog1) ∧
    (let s : State := seqSt (.fenceH th) x0; Issues s th (Instr.fenceH th) prog1) := by
  simp only [issues_iff]
  refine ⟨?_, ?_, ?_, ?_, ?_⟩ <;> decide +kernel

theorem witness_LoadResult :
    (let s : State := memSt (.ld th 31 1 3 8) x8; Issues s th (Instr.ld th 31 1 3 8) prog1 ∧
      BitVec.toNat ((s.thr th).gr 1 + BitVec.signExtend 64 8#32) % 2 ^ 3 = 0 ∧
      opTranslate s Who.ls rRead (s.thr th).ctx prog1.no (BitVec.toNat ((s.thr th).gr 1 + BitVec.signExtend 64 8#32)) (2 ^ 3) = Tr.mem 2099208 ∧
      (∀ k ∈ tilesOf 2099208 (2 ^ 3), s.tileFenced k = false ∧ s.tileBad k = 0)) ∧
    (let s : State := memSt (.dld th 1 1 0) x8; Issues s th (Instr.dld th 1 1 0) prog1 ∧ BitVec.toNat ((s.thr th).gr 1 + BitVec.signExtend 64 0#32) % 32 = 0 ∧
      opTranslate s Who.ls rRead (s.thr th).ctx prog1.no (BitVec.toNat ((s.thr th).gr 1 + BitVec.signExtend 64 0#32)) 32 = Tr.mem 2099200 ∧
      (∀ k ∈ tilesOf 2099200 32, s.tileFenced k = false ∧ s.tileBad k = 0)) := by
  simp only [issues_iff]
  refine ⟨?_, ?_⟩ <;> decide +kernel

theorem witness_StoreResult :
    (let s : State := memSt (.st th 2 1 3 8) x8; Issues s th (Instr.st th 2 1 3 8) prog1 ∧ 3 ≤ 3 ∧
      BitVec.toNat ((s.thr th).gr 1 + BitVec.signExtend 64 8#32) % 2 ^ 3 = 0 ∧
      opTranslate s Who.ls rWrite (s.thr th).ctx prog1.no (BitVec.toNat ((s.thr th).gr 1 + BitVec.signExtend 64 8#32)) (2 ^ 3) = Tr.mem 2099208 ∧
      2099208 % 2 ^ 3 = 0 ∧ (s.tileFenced (tileOf 2099208) = false ∧ s.tileBad (tileOf 2099208) = 0)) ∧
    (let s : State := memSt (.dst th 1 1 0) x8; Issues s th (Instr.dst th 1 1 0) prog1 ∧ BitVec.toNat ((s.thr th).gr 1 + BitVec.signExtend 64 0#32) % 32 = 0 ∧
      opTranslate s Who.ls rWrite (s.thr th).ctx prog1.no (BitVec.toNat ((s.thr th).gr 1 + BitVec.signExtend 64 0#32)) 32 = Tr.mem 2099200 ∧ 2099200 % 32 = 0 ∧
      (s.tileFenced (tileOf 2099200) = false ∧ s.tileBad (tileOf 2099200) = 0)) := by
  simp only [issues_iff]
  refine ⟨?_, ?_⟩ <;> decide +kernel

/-- Misaligned accesses (kind 5), one outside every segment (kind 4), and one of a fenced tile (kind 12), with the size and the right of the
instruction, and another thread of the program that has not halted. -/
theorem witness_LoadStoreFaults :
    (∃ k ∈ prog1.slots, thKey ⟨prog1.dom, k⟩ ≠ thKey th ∧ ((memSt (.st th 2 1 3 9) x8).thr ⟨prog1.dom, k⟩).st ≠ .halted) ∧
    (let s : State := memSt (.st th 2 1 3 9) x8; Issues s th (.st th 2 1 3 9) prog1 ∧ 3 ≤ 3 ∧ ((s.thr th).gr 1 + BitVec.signExtend 64 9#32).toNat % 2 ^ 3 ≠ 0) ∧
    (let s : State := memSt (.ld th 2 1 1 9) x8; Issues s th (.ld th 2 1 1 9) prog1 ∧ ((s.thr th).gr 1 + BitVec.signExtend 64 9#32).toNat % 2 ^ 1 ≠ 0) ∧
    (let s : State := memSt (.dld th 2 1 8) x8; Issues s th (.dld th 2 1 8) prog1 ∧ ((s.thr th).gr 1 + BitVec.signExtend 64 8#32).toNat % 32 ≠ 0) ∧
    (let s : State := memSt (.dst th 2 1 0x400000) x8; Issues s th (.dst th 2 1 0x400000) prog1 ∧
      ((s.thr th).gr 1 + BitVec.signExtend 64 0x400000#32).toNat % 32 = 0 ∧
      ∀ pa, opTranslate s .ls rWrite (s.thr th).ctx prog1.no ((s.thr th).gr 1 + BitVec.signExtend 64 0x400000#32).toNat 32 ≠ .mem pa) ∧
    (let s : State := (memSt (.dld th 2 1 0) x8).set F.MEM_FENCED_STACKS 2; Issues s th (.dld th 2 1 0) prog1 ∧
      opTranslate s .ls rRead (s.thr th).ctx prog1.no ((s.thr th).gr 1 + BitVec.signExtend 64 0#32).toNat 32 = .mem 0x200800 ∧
      0x200800 % 32 = 0 ∧ s.tileFenced (tileOf 0x200800) = true) := by
  simp only [issues_iff]
  exact ⟨by decide +kernel, by decide +kernel, by decide +kernel, by decide +kernel, ⟨by decide +kernel, by decide +kernel, not_mem (by decide +kernel)⟩,
    by decide +kernel⟩

theorem witness_IssueResult :
    (let s : State := qE (.issue th 1 false 0 0); Issues s th (Instr.issue th 1 false 0 0) prog1 ∧ s.trkHeld th < 64 ∧
      (if false = true then BitVec.toNat ((s.thr th).gr 0) % 64 else 0) < nEng s ∧
      dKind (dOwn (s.thr th) ((s.thr th).dr 1)) = engKind s (if false = true then BitVec.toNat ((s.thr th).gr 0) % 64 else 0) ∧
      s.engFenced (if false = true then BitVec.toNat ((s.thr th).gr 0) % 64 else 0) = false ∧
      bit prog1.engines (if false = true then BitVec.toNat ((s.thr th).gr 0) % 64 else 0) = true ∧
      (prog1.budget.getD (engKind s (if false = true then BitVec.toNat ((s.thr th).gr 0) % 64 else 0)) (0, 0)).1 ≠ 0 ∧
      (prog1.budget.getD (engKind s (if false = true then BitVec.toNat ((s.thr th).gr 0) % 64 else 0)) (0, 0)).2 ≠ 0) ∧
    (let s : State := (qE (.issue th 1 false 0 0)).setReg F.FCOL_FENCED_ENG_LO.off 1; Issues s th (Instr.issue th 1 false 0 0) prog1 ∧ s.trkHeld th < 64 ∧
      (if false = true then BitVec.toNat ((s.thr th).gr 0) % 64 else 0) < nEng s ∧
      dKind (dOwn (s.thr th) ((s.thr th).dr 1)) = engKind s (if false = true then BitVec.toNat ((s.thr th).gr 0) % 64 else 0) ∧
      s.engFenced (if false = true then BitVec.toNat ((s.thr th).gr 0) % 64 else 0) = true) ∧
    (Issues xIs th (Instr.issue th 1 true 3 0) prog1 ∧ xIs.trkHeld th < 64 ∧ nEng xIs ≤ if true = true then BitVec.toNat ((xIs.thr th).gr 3) % 64 else 0) := by
  simp only [issues_iff]
  refine ⟨?_, ?_, ?_⟩ <;> decide +kernel

theorem witness_PostResult :
    (let s : State := seqSt (.postwr th 1) (xd (dw 8 (2^14*3 + 2^32*99) 2048 0)); (Issues s th (Instr.postwr th 1) prog1 ∧
      dKind (dOwn (s.thr th) ((s.thr th).dr 1)) = 8 ∧ s.trkHeld th < 64 ∧ qpFull s (dOwn (s.thr th) ((s.thr th).dr 1)) = false ∧
      s.ownsQp (dCtx (dOwn (s.thr th) ((s.thr th).dr 1))) (dQp (dOwn (s.thr th) ((s.thr th).dr 1))) = true ∧
      (s.qp (dQp (dOwn (s.thr th) ((s.thr th).dr 1)))).st = 3 ∧ qpEnc (s.qp (dQp (dOwn (s.thr th) ((s.thr th).dr 1)))).e.toNat = false ∧
      (8 = 11 → dRoff (dOwn (s.thr th) ((s.thr th).dr 1)) % 8 = 0) ∧ (∀ o ∈ (s.qp (dQp (dOwn (s.thr th) ((s.thr th).dr 1)))).ops, o.code = none ∧
      o.told = false)) ∧ (∀ (d : Desc), d.w = dOwn (s.thr th) ((s.thr th).dr 1) → d.no = s.sq.opNo → localOk s d = true)) ∧
    (let s : State := seqSt (.postrd th 1) (xd (dw 9 (2^14*3 + 2^32*99) 2048 0)); (Issues s th (Instr.postrd th 1) prog1 ∧
      dKind (dOwn (s.thr th) ((s.thr th).dr 1)) = 9 ∧ s.trkHeld th < 64 ∧ qpFull s (dOwn (s.thr th) ((s.thr th).dr 1)) = false ∧
      s.ownsQp (dCtx (dOwn (s.thr th) ((s.thr th).dr 1))) (dQp (dOwn (s.thr th) ((s.thr th).dr 1))) = true ∧
      (s.qp (dQp (dOwn (s.thr th) ((s.thr th).dr 1)))).st = 3 ∧ qpEnc (s.qp (dQp (dOwn (s.thr th) ((s.thr th).dr 1)))).e.toNat = false ∧
      (9 = 11 → dRoff (dOwn (s.thr th) ((s.thr th).dr 1)) % 8 = 0) ∧ (∀ o ∈ (s.qp (dQp (dOwn (s.thr th) ((s.thr th).dr 1)))).ops, o.code = none ∧
      o.told = false)) ∧ (∀ (d : Desc), d.w = dOwn (s.thr th) ((s.thr th).dr 1) → d.no = s.sq.opNo → localOk s d = true)) ∧
    (let s : State := seqSt (.postsend th 1) (xd (dw 10 (2^14*3 + 2^32*99) 2048 0)); (Issues s th (Instr.postsend th 1) prog1 ∧
      dKind (dOwn (s.thr th) ((s.thr th).dr 1)) = 10 ∧ s.trkHeld th < 64 ∧ qpFull s (dOwn (s.thr th) ((s.thr th).dr 1)) = false ∧
      s.ownsQp (dCtx (dOwn (s.thr th) ((s.thr th).dr 1))) (dQp (dOwn (s.thr th) ((s.thr th).dr 1))) = true ∧
      (s.qp (dQp (dOwn (s.thr th) ((s.thr th).dr 1)))).st = 3 ∧ qpEnc (s.qp (dQp (dOwn (s.thr th) ((s.thr th).dr 1)))).e.toNat = false ∧
      (10 = 11 → dRoff (dOwn (s.thr th) ((s.thr th).dr 1)) % 8 = 0) ∧ (∀ o ∈ (s.qp (dQp (dOwn (s.thr th) ((s.thr th).dr 1)))).ops, o.code = none ∧
      o.told = false)) ∧ (∀ (d : Desc), d.w = dOwn (s.thr th) ((s.thr th).dr 1) → d.no = s.sq.opNo → localOk s d = true)) ∧
    (let s : State := seqSt (.postatom th 1 1 3) (xd (dw 11 (2^14*3 + 2^32*99) 2048 0)); (Issues s th (Instr.postatom th 1 1 3) prog1 ∧
      dKind (dOwn (s.thr th) ((s.thr th).dr 1)) = 11 ∧ s.trkHeld th < 64 ∧ qpFull s (dOwn (s.thr th) ((s.thr th).dr 1)) = false ∧
      s.ownsQp (dCtx (dOwn (s.thr th) ((s.thr th).dr 1))) (dQp (dOwn (s.thr th) ((s.thr th).dr 1))) = true ∧
      (s.qp (dQp (dOwn (s.thr th) ((s.thr th).dr 1)))).st = 3 ∧ qpEnc (s.qp (dQp (dOwn (s.thr th) ((s.thr th).dr 1)))).e.toNat = false ∧
      (11 = 11 → dRoff (dOwn (s.thr th) ((s.thr th).dr 1)) % 8 = 0) ∧ (∀ o ∈ (s.qp (dQp (dOwn (s.thr th) ((s.thr th).dr 1)))).ops, o.code = none ∧
      o.told = false)) ∧ (∀ (d : Desc), d.w = dOwn (s.thr th) ((s.thr th).dr 1) → d.no = s.sq.opNo → localOk s d = true)) ∧
    (let s : State := seqSt (.sigr th 1 1) (xd (dw 12 (2^14*3 + 2^32*99) 2048 0)); (Issues s th (Instr.sigr th 1 1) prog1 ∧
      dKind (dOwn (s.thr th) ((s.thr th).dr 1)) = 12 ∧ s.trkHeld th < 64 ∧ qpFull s (dOwn (s.thr th) ((s.thr th).dr 1)) = false ∧
      s.ownsQp (dCtx (dOwn (s.thr th) ((s.thr th).dr 1))) (dQp (dOwn (s.thr th) ((s.thr th).dr 1))) = true ∧
      (s.qp (dQp (dOwn (s.thr th) ((s.thr th).dr 1)))).st = 3 ∧ qpEnc (s.qp (dQp (dOwn (s.thr th) ((s.thr th).dr 1)))).e.toNat = false ∧
      (12 = 11 → dRoff (dOwn (s.thr th) ((s.thr th).dr 1)) % 8 = 0) ∧ (∀ o ∈ (s.qp (dQp (dOwn (s.thr th) ((s.thr th).dr 1)))).ops, o.code = none ∧
      o.told = false)) ∧ (∀ (d : Desc), d.w = dOwn (s.thr th) ((s.thr th).dr 1) → d.no = s.sq.opNo → localOk s d = true)) := by
  simp only [issues_iff]
  refine ⟨?_, ?_, ?_, ?_, ?_⟩ <;> exact ⟨by decide +kernel, (fun d hw hn => by simp only [localOk, hw, hn]; decide +kernel)⟩

theorem witness_CqpostResult :
    (let s : State := cqS (.cqpost th 1 1 3 false 16) {x8 with g := [(1,5#64)]} cq1; Issues s th (Instr.cqpost th 1 1 3 false 16) prog1 ∧
      s.ownsCq (s.thr th).ctx (BitVec.toNat ((s.thr th).gr 1) % 65536) = true ∧ smFind s.ho.cqs (BitVec.toNat ((s.thr th).gr 1) % 65536) = some cq1 ∧ 16 < 256 ∧
      s.hostUp (s.ctxPort cq1.ctx) = true ∧ cq1.waiting = [] ∧ cq1.written - cq1.consumed < 2 ^ cq1.log2) ∧
    (let s : State := cqS (.cqpost th 1 1 3 true 16) {x8 with g := [(1,5#64),(3,77#64)]} {cq1 with written := 32}; Issues s th (Instr.cqpost th 1 1 3 true 16) prog1 ∧
      s.ownsCq (s.thr th).ctx (BitVec.toNat ((s.thr th).gr 1) % 65536) = true ∧
      smFind s.ho.cqs (BitVec.toNat ((s.thr th).gr 1) % 65536) = some { cq1 with written := 32 } ∧ 16 < 256 ∧
      s.hostUp (s.ctxPort { cq1 with written := 32 }.ctx) = true ∧
      2 ^ { cq1 with written := 32 }.log2 ≤ { cq1 with written := 32 }.written - { cq1 with written := 32 }.consumed) := by
  simp only [issues_iff]
  refine ⟨?_, ?_⟩ <;> decide +kernel

theorem witness_SeqStopResult :
    (let s : State := seqSt (.step th) x0; s.pst = 3 ∧ s.fnHeld 0 = false ∧ 0 < nDom s ∧ 1 < 8 ∧ BitVec.getLsbD (130#8) 1 = true ∧
      s.prog { dom := 0, slot := 1 } = some prog1 ∧ prog1.dom = 0 ∧ (s.thr { dom := 0, slot := 1 }).st ≠ TSt.free) := by
  decide +kernel

end Issue

/-! ### The hypotheses of the statements about launches -/

namespace Launches

def sL : State := launchSt (hdr 0 0)
def sP : State := launchSt (hdr 2 29792)
def sP2 : State := { sP with sq := { sP.sq with sigWait := [launchP] } }
def rdP : State × Nat × List Byte := readImage { sP2 with sq := { sP2.sq with sigWait := [] } } launchP.r launchP.p.no (imageSize launchP.p)
def sL2 : State := { sL with sq := { sL.sq with lq := [launch1] } }
def sI : State := let s := seqSt (.halt th) {x0 with pend := .icache}; { s with mem := { s.mem with hbm := cells 0x200000 [5#8] }, sq := { s.sq with icache := [] } }

theorem witness_LaunchSteps :
    (sL.pst = 3 ∧ ctrlOn sL = true ∧ sL.poolFull = false ∧ queued sL (lreq 1).dom < 64 ∧ smFind sL.ho.frozen (lreq 1).ctx = none ∧ workHeld sL = false ∧
      (lreq 1).dom < nDom sL ∧ sL.domFenced (lreq 1).dom = false ∧ (lreq 1).image % 8 = 0 ∧
      ((readImage (sL.trkTake (lreq 1).ctx 0) (lreq 1) sL.sq.opNo 256).2.1 = 0 ∧
      (readImage (sL.trkTake (lreq 1).ctx 0) (lreq 1) sL.sq.opNo 256).2.2 = hdr 0 0) ∧ parseHeader (hdr 0 0) (lreq 1) sL.sq.opNo = some launch1 ∧
      Machine.translate (readImage (sL.trkTake 1 0) (lreq 1) 5 256).1 Who.fetch (rRead + rExec) (lreq 1).ctx sL.sq.opNo (lreq 1).image (imageSize launch1.p) = Tr.mem 2097152 ∧
      launch1.p.priv = false ∧ syncRangeOwned (readImage (sL.trkTake 1 0) (lreq 1) 5 256).1 launch1.p = true) ∧
    (sP.pst = 3 ∧ ctrlOn sP = true ∧ sP.poolFull = false ∧ queued sP (lreq 0).dom < 64 ∧ smFind sP.ho.frozen (lreq 0).ctx = none ∧ workHeld sP = false ∧
      (lreq 0).dom < nDom sP ∧ sP.domFenced (lreq 0).dom = false ∧ (lreq 0).image % 8 = 0 ∧
      ((readImage (sP.trkTake (lreq 0).ctx 0) (lreq 0) sP.sq.opNo 256).2.1 = 0 ∧
      (readImage (sP.trkTake (lreq 0).ctx 0) (lreq 0) sP.sq.opNo 256).2.2 = hdr 2 29792) ∧ parseHeader (hdr 2 29792) (lreq 0) sP.sq.opNo = some launchP ∧
      Machine.translate (readImage (sP.trkTake 0 0) (lreq 0) 5 256).1 Who.fetch (rRead + rExec) (lreq 0).ctx sP.sq.opNo (lreq 0).image (imageSize launchP.p) = Tr.mem 2097152 ∧
      launchP.p.priv = true ∧ (lreq 0).ctx = 0) ∧
    (sP2.pst = 3 ∧ takeLaunch 0 sP2.sq.sigWait = some (launchP, []) ∧
      (readImage { sP2 with sq := { sP2.sq with sigWait := [] } } launchP.r launchP.p.no (imageSize launchP.p)).2.1 = 0 ∧
      syncRangeOwned rdP.1 launchP.p = true) ∧
    (sL2.pst = 3 ∧ takeLaunch 0 sL2.sq.lq = some (launch1, [])) ∧
    (sI.pst = 3 ∧ (sI.thr th).pend = Pend.icache ∧ sI.prog th = some prog1 ∧ fetch sI th (sI.thr th) prog1 = Fetched.miss 1024 ∧ sI.tileFenced 1024 = false ∧
      sI.tileBad 1024 = 0) := by
  refine ⟨?_, ?_, ?_, ?_, ?_⟩ <;> decide +kernel

end Launches

/-! ### The hypotheses of the statements about the crossbar and completions -/

namespace Crossbar

def dE (k no : Nat) (dom : Nat := 0) (eng : Nat := 0) (ew : Option Nat := none) : Desc := ⟨BitVec.ofNat 256 (dw k 0 0 0), ⟨dom, 0⟩, 0, 0, ew, eng, 0, 0, false, no, false, 1000000, 1000000⟩
def xbSt (inp : List Desc) (pend : Pend) : State := let s := seqSt (.halt th) x0
  { s with en := { s.en with eng := [(0, { input := inp, stuck := [4, 3] })] }, sq := { s.sq with thr := [(0, { x0 with pend := pend, st := .waiting, ctx := 1 })] } }
def endSt (d : Desc) (code : Nat) (x : Thread) : State := let s := seqSt (.halt th) x0
  { s with en := { s.en with ended := [⟨d, code⟩] }, sq := { s.sq with trk := [(3, 1, 1)], thr := [(0, { x with ctx := 1 })] } }

theorem witness_CrossbarDelivery :
    (let s : State := xbSt [dE 0 3 1, dE 0 4 0, dE 0 5 0] .none; s.pst = 3 ∧ (∀ x ∈ (s.engine 0).input, x.eng = 0) ∧
      (List.filter (fun (x : Desc) => x.th.dom == 0 / 4) (s.engine 0).input).head? = some (dE 0 4) ∧ (s.engine 0).queue.length < 32) ∧
    (let s : State := xbSt [dE 0 3 2, dE 0 4 1, dE 0 5 1] .none; s.pst = 3 ∧ (∀ x ∈ (s.engine 0).input, x.eng = 0) ∧
      List.filter (fun (x : Desc) => x.th.dom != 0 / 4) (s.engine 0).input = (s.engine 0).input ∧
      (List.filter (fun (x : Desc) => x.th.dom == (dE 0 4 1).th.dom) (List.filter (fun (x : Desc) => x.th.dom != 0 / 4) (s.engine 0).input)).head? = some (dE 0 4 1) ∧
      (s.engine 0).queue.length < 32 ∧ (List.filter (fun (x : Desc) => x.th.dom != x.eng / 4) (s.engine 0).queue).length < 24 ∧ (s.engine 0).ptr < nDom s ∧
      (∀ x ∈ List.filter (fun (x : Desc) => x.th.dom != 0 / 4) (s.engine 0).input, x.th.dom < nDom s) ∧
      (∀ x ∈ List.filter (fun (x : Desc) => x.th.dom != 0 / 4) (s.engine 0).input, ((dE 0 4 1).th.dom + nDom s - (s.engine 0).ptr) % nDom s ≤ (x.th.dom + nDom s - (s.engine 0).ptr) % nDom s)) := by
  refine ⟨?_, ?_⟩ <;> decide +kernel

theorem witness_DescriptorCompletion :
    (let s : State := endSt (dE 0 3) 0 {x0 with outE := 1, st := .ready}; (s.pst = 3 ∧ s.en.ended = [{ d := dE 0 3, code := 0 }] ∧ (dE 0 3).post = false ∧
      (s.thr (dE 0 3).th).live = (dE 0 3).live ∧ (s.thr (dE 0 3).th).st ≠ TSt.free ∧ (s.thr (dE 0 3).th).st ≠ TSt.halted ∧ (∀ q ∈ s.sg.pend, q.blk ≠ Blk.qp)) ∧
      (∀ e ∈ s.sq.thr, ∀ (z : Desc), e.2.pend ≠ Pend.tracker z)) := by
  exact ⟨by decide +kernel, no_tracker (by decide +kernel)⟩

end Crossbar

/-! ### The hypotheses of the statements about reductions -/

namespace Reductions

def rA (n p : Nat) : Run := { d := dAdd n, pos := p }
def sA (n p : Nat) : State := engSt 0 [] (some (rA n p))
def gotA (n p : Nat) := readMany (sA n p) .engine 0 1 3 ((redOperands (dAdd n).w []).flatMap fun o => operandPieces o.1 o.2 n (tileBlocks 32 n p).1 (tileBlocks 32 n p).2)
def outA (n p : Nat) := redTile (dAdd n).w [] p (gatherBlocks ((tileBlocks 32 n p).2 - (tileBlocks 32 n p).1) (redOperands (dAdd n).w []) (gotA n p).2.2) [] []
def sF : State := let s := engSt 0 [] none; { s with en := { s.en with eng := [(4, { incoming := [rA 512 0, rA 512 1], remainder := [rA 1000 1] })] } }
def sG : State := let s := engSt 0 [] none; { s with en := { s.en with eng := [(4, { remainder := [rA 1000 1], queue := [dAdd 3] })] } }

theorem witness_ReductionStart :
    (let s : State := engSt 0 [desc 0 (dw 0 (2^50*8) 0 0)] none; s.pst = 3 ∧ 0 < nEng s ∧ 0 % 4 = 0 ∧ s.engFenced 0 = false ∧
      pickNext s 0 = Next.start (desc 0 (dw 0 (2 ^ 50 * 8) 0 0)) ∧ dKind (desc 0 (dw 0 (2 ^ 50 * 8) 0 0)).w = 0 ∧
      redFieldsOk (desc 0 (dw 0 (2 ^ 50 * 8) 0 0)).w = false) ∧
    (let s : State := engSt 0 [dAdd 512] none; s.pst = 3 ∧ 0 < nEng s ∧ 0 % 4 = 0 ∧ s.engFenced 0 = false ∧ pickNext s 0 = Next.start (dAdd 512) ∧
      dKind (dAdd 512).w = 0 ∧ redFieldsOk (dAdd 512).w = true ∧ redPrm (dAdd 512).w = false ∧ redOperandsOk s (dAdd 512) [] = true) ∧
    (let s : State := engSt 0 [{dAdd 512 with bc := 1}] none; s.pst = 3 ∧ 0 < nEng s ∧ 0 % 4 = 0 ∧ s.engFenced 0 = false ∧
      pickNext s 0 = Next.over { dAdd 512 with bc := 1 } ∧ dKind { dAdd 512 with bc := 1 }.w = 0) := by
  refine ⟨?_, ?_, ?_⟩ <;> decide +kernel

theorem witness_ReductionRelease :
    (let s : State := sA 512 0; s.pst = 3 ∧ 0 < nEng s ∧ 0 % 4 = 0 ∧ (s.engine 0).run = some (rA 512 0) ∧ (rA 512 0).park = none ∧ dKind (rA 512 0).d.w = 0 ∧
      redComp (rA 512 0).d.w = false ∧
      (readMany s Who.engine 0 (dCtx (rA 512 0).d.w) (rA 512 0).d.no (List.flatMap (fun (o : Nat × Nat) => operandPieces o.1 o.2 (dCount (rA 512 0).d.w) (tileBlocks (elemBits (dOutFmt (rA 512 0).d.w)) (dCount (rA 512 0).d.w) (rA 512 0).pos).1 (tileBlocks (elemBits (dOutFmt (rA 512 0).d.w)) (dCount (rA 512 0).d.w) (rA 512 0).pos).2) (redOperands (rA 512 0).d.w (rA 512 0).bytes))).2.1 = Got.ok [] ∧
      redTile (rA 512 0).d.w (rA 512 0).bytes (rA 512 0).pos (gatherBlocks ((tileBlocks (elemBits (dOutFmt (rA 512 0).d.w)) (dCount (rA 512 0).d.w) (rA 512 0).pos).2 - (tileBlocks (elemBits (dOutFmt (rA 512 0).d.w)) (dCount (rA 512 0).d.w) (rA 512 0).pos).1) (redOperands (rA 512 0).d.w (rA 512 0).bytes) (gotA 512 0).2.2) [] (rA 512 0).acc = { writes := [(8192, ((outA 512 0).writes.headD (0, [])).2)], sats := 0, nans := 0, carry := [] } ∧
      opTranslate (gotA 512 0).1 Who.engine rWrite (dCtx (rA 512 0).d.w) (rA 512 0).d.no 8192 ((outA 512 0).writes.headD (0, [])).2.length = Tr.mem 2105344 ∧
      2105344 % 2048 = 0 ∧ 8192 % 2048 = 0 ∧ 0 < ((outA 512 0).writes.headD (0, [])).2.length ∧ ((outA 512 0).writes.headD (0, [])).2.length ≤ 2048 ∧
      (gotA 512 0).1.tileFenced (tileOf 2105344) = false ∧ (gotA 512 0).1.tileBad (tileOf 2105344) = 0 ∧ redOverlaps (rA 512 0).d.w (rA 512 0).bytes = [] ∧
      (rA 512 0).rem = false ∧ nextRed s 0 = some 4 ∧ residueCovers (rA 512 0).d.w = true) := by
  decide +kernel

theorem witness_ReductionRemainder :
    (sF.pst = 3 ∧ 4 < nEng sF ∧ 4 % 4 = 0 ∧ (sF.engine 4).incoming = [rA 512 0, rA 512 1]) ∧
    (sG.pst = 3 ∧ 4 < nEng sG ∧ 4 % 4 = 0 ∧ sG.engFenced 4 = false ∧ (sG.engine 4).run = none ∧ (sG.engine 4).remainder = [rA 1000 1] ∧ cyclesLeft sG 4 = true ∧
      (∀ x ∈ (sG.engine 4).aside, x.park ≠ none)) := by
  refine ⟨?_, ?_⟩ <;> decide +kernel

end Reductions

/-! ### The hypotheses of the statements about specialty engines -/

namespace Specialty

def dOpt (opc n : Nat) (emit : Nat := 0) : Desc := desc 3 (dw 3 (4 * 2^13 + opc * 2^50) (1 + 2^37*(n-1)) (emit * 8))
def rO (opc n : Nat) : Run := { d := dOpt opc n, acc := [0x3F800000, 0, 0] }
def sO (opc n : Nat) : State := engSt 3 [] (some (rO opc n))
def nO (n : Nat) := optNorm (sO 7 n) 3 (dOpt 7 n) (cdiv n 512 + 1) { rO 7 n with pos := 0, acc := (rO 7 n).acc.take 3 }
def dL (pool : Nat) : Desc := desc 19 (dw 4 (4 * 2^13 + pool * 2^50) (1 + 2^37*1) (1 + 2^8*1))
def rL (pool p : Nat) : Run := { d := dL pool, pos := p, acc := [0], bytes := toLE 8 0x10000 ++ toLE 8 0 ++ toLE 4 4 ++ slice [] 0 44 }
def sLk (pool p : Nat) : State := engSt 19 [] (some (rL pool p))
def slotsL (pool p : Nat) : List Nat := if pool = 0 then [p] else (List.range 2).map fun k => p * 2 + k
def ixL (pool p : Nat) := readOp (sLk pool p) .engine 19 1 3 (0x10000 + 4 * (slotsL pool p).headD 0) (4 * (slotsL pool p).length)
def ixB (pool p : Nat) : List Byte := match (ixL pool p).2 with | .ok b => b | _ => [0]
def dZ (op : Nat) : Desc := desc 35 (dw 5 (0x10 * 2^13 + op * 2^50) (1 + 2^37*1) 8)
def rZ (op : Nat) : Run := { d := dZ op }
def zrec : List Byte := toLE 8 11 ++ toLE 8 0x38FB68182427E347
def strm : List Byte := toLE 8 0x4000000002 ++ toLE 8 0 ++ toLE 8 0x3000000020 ++ toLE 8 0 ++ zrec ++ zrec
def sZ (op : Nat) : State := let s := engSt 35 [] (some (rZ op)); if op = 0 then s else { s with mem := { s.mem with hbm := cells 0x200800 strm ++ cells 0x204000 strm } }
def uA := readStream (sZ 2) 35 (dZ 2) 2048 2 0 (16 + zeDirLen 2)
def dQ : Desc := desc 51 (dw 6 (0x10 * 2^13 + 3 * 2^58) (1 + 2^37*39) 8)
def rQ (p : Nat) : Run := { d := dQ, pos := p, bytes := toLE 4 0x3F800000 ++ slice [] 0 60, acc := [0] }
def sQ (p : Nat) : State := engSt 51 [] (some (rQ p))
def rRel (n p : Nat) : Run := { rO 1 n with pos := p, ready := true, out := [(0x2000, [1#8, 0#8, 3#8])] }
def sRel (n p : Nat) : State := engSt 3 [] (some (rRel n p))

theorem witness_SpecialtyUnits :
    (let s : State := sO 1 8; s.pst = 3 ∧ 3 < nEng s ∧ 3 % 4 = 3 ∧ s.engFenced 3 = false ∧ (s.engine 3).run = some (rO 1 8) ∧ (rO 1 8).park = none ∧
      (rO 1 8).ready = false ∧ dKind (rO 1 8).d.w = 3 ∧ spcOpc (rO 1 8).d.w = 1 ∧
      (readMany s Who.engine 3 (dCtx (rO 1 8).d.w) (rO 1 8).d.no (optPieces (rO 1 8).d.w (rO 1 8).pos (min 512 (dCount (rO 1 8).d.w - 512 * (rO 1 8).pos)))).2.1 = Got.ok []) ∧
    (let s : State := sO 7 9; s.pst = 3 ∧ 3 < nEng s ∧ 3 % 4 = 3 ∧ s.engFenced 3 = false ∧ (s.engine 3).run = some (rO 7 9) ∧ (rO 7 9).park = none ∧
      (rO 7 9).ready = false ∧ dKind (rO 7 9).d.w = 3 ∧ spcOpc (rO 7 9).d.w = 7 ∧
      (optNorm s 3 (rO 7 9).d (cdiv (dCount (rO 7 9).d.w) 512 + 1) { rO 7 9 with acc := List.take 3 (rO 7 9).acc }).2.1 = Got.ok [] ∧
      (nO 9).2.2.d = (rO 7 9).d) ∧
    (let s : State := sLk 1 1; s.pst = 3 ∧ 19 < nEng s ∧ 19 % 4 = 3 ∧ s.engFenced 19 = false ∧ (s.engine 19).run = some (rL 1 1) ∧ (rL 1 1).park = none ∧
      (rL 1 1).ready = false ∧ dKind (rL 1 1).d.w = 4 ∧
      (readOp s Who.engine 19 (dCtx (rL 1 1).d.w) (rL 1 1).d.no (fieldLE (rL 1 1).bytes 0 8 + 4 * (if lkpPool (rL 1 1).d.w = 0 then [(rL 1 1).pos] else List.map (fun (k : Nat) => (rL 1 1).pos * lkpBag (rL 1 1).d.w + k) (List.range (lkpBag (rL 1 1).d.w))).headD 0) (4 * (if lkpPool (rL 1 1).d.w = 0 then [(rL 1 1).pos] else List.map (fun (k : Nat) => (rL 1 1).pos * lkpBag (rL 1 1).d.w + k) (List.range (lkpBag (rL 1 1).d.w))).length)).2 = Got.ok (ixB 1 1) ∧
      (fetchRows (ixL 1 1).1 19 (rL 1 1) (List.map (fun (k : Nat) => ((if lkpPool (rL 1 1).d.w = 0 then [(rL 1 1).pos] else List.map (fun (k : Nat) => (rL 1 1).pos * lkpBag (rL 1 1).d.w + k) (List.range (lkpBag (rL 1 1).d.w))).getD k 0, fieldLE (ixB 1 1) (4 * k) 4)) (List.range (if lkpPool (rL 1 1).d.w = 0 then [(rL 1 1).pos] else List.map (fun (k : Nat) => (rL 1 1).pos * lkpBag (rL 1 1).d.w + k) (List.range (lkpBag (rL 1 1).d.w))).length))).2.1 = Got.ok []) ∧
    ((sZ 0).pst = 3 ∧ 35 < nEng (sZ 0) ∧ 35 % 4 = 3 ∧ (sZ 0).engFenced 35 = false ∧ ((sZ 0).engine 35).run = some (rZ 0) ∧ (rZ 0).park = none ∧
      (rZ 0).ready = false ∧ dKind (rZ 0).d.w = 5 ∧ zeOpc (rZ 0).d.w = 0 ∧
      (readMany (sZ 0) Who.engine 35 (dCtx (rZ 0).d.w) (rZ 0).d.no (List.map (fun (k : Nat) => (tileField (rZ 0).d.w 2 0 + 2048 * k, 2048)) (List.range (zeNt (rZ 0).d.w)))).2.1 = Got.ok []) ∧
    ((sZ 1).pst = 3 ∧ 35 < nEng (sZ 1) ∧ 35 % 4 = 3 ∧ (sZ 1).engFenced 35 = false ∧ ((sZ 1).engine 35).run = some (rZ 1) ∧ (rZ 1).park = none ∧
      (rZ 1).ready = false ∧ dKind (rZ 1).d.w = 5 ∧ zeOpc (rZ 1).d.w = 1 ∧
      (readTile (sZ 1) 35 (rZ 1).d (tileField (rZ 1).d.w 2 0) (rZ 1).pos (if (rZ 1).pos = 0 then 16 + zeDirLen (zeNt (rZ 1).d.w) else (rZ 1).acc.getD 0 0)).2.1 = Got.ok (slice [] 0 2048)) ∧
    ((sZ 2).pst = 3 ∧ 35 < nEng (sZ 2) ∧ 35 % 4 = 3 ∧ (sZ 2).engFenced 35 = false ∧ ((sZ 2).engine 35).run = some (rZ 2) ∧ (rZ 2).park = none ∧
      (rZ 2).ready = false ∧ dKind (rZ 2).d.w = 5 ∧ zeOpc (rZ 2).d.w = 2 ∧
      (readStream (sZ 2) 35 (rZ 2).d (tileField (rZ 2).d.w 2 0) (zeNt (rZ 2).d.w) 0 (16 + zeDirLen (zeNt (rZ 2).d.w))).2.1 = Got.ok [] ∧
      (readStream uA.1 35 (rZ 2).d (tileField (rZ 2).d.w 3 0) (zeNt (rZ 2).d.w) 0 (16 + zeDirLen (zeNt (rZ 2).d.w))).2.1 = Got.ok []) ∧
    ((sQ 1).pst = 3 ∧ 51 < nEng (sQ 1) ∧ 51 % 4 = 3 ∧ (sQ 1).engFenced 51 = false ∧ ((sQ 1).engine 51).run = some (rQ 1) ∧ (rQ 1).park = none ∧
      (rQ 1).ready = false ∧ dKind (rQ 1).d.w = 6 ∧ qeEf (rQ 1).d.w = false ∧ isMx (dOutFmt (rQ 1).d.w) = false ∧
      (readMany (sQ 1) Who.engine 51 (dCtx (rQ 1).d.w) (rQ 1).d.no [(tileField (rQ 1).d.w 2 0 + 4 * elemBits (dInFmt (rQ 1).d.w) * (rQ 1).pos, dataBytes (elemBits (dInFmt (rQ 1).d.w)) (min 32 (dCount (rQ 1).d.w - 32 * (rQ 1).pos)))]).2.1 = Got.ok []) := by
  refine ⟨?_, ?_, ?_, ?_, ?_, ?_, ?_⟩ <;> decide +kernel

theorem witness_SpecialtyRelease :
    ((sRel 8 0).pst = 3 ∧ 3 < nEng (sRel 8 0) ∧ 3 % 4 = 3 ∧ ((sRel 8 0).engine 3).run = some (rRel 8 0) ∧ (rRel 8 0).park = none ∧ (rRel 8 0).ready = true ∧
      (rRel 8 0).out = [(8192, [1#8, 0#8, 3#8])] ∧ 3 ≤ dKind (rRel 8 0).d.w ∧ dKind (rRel 8 0).d.w ≤ 6 ∧ (dKind (rRel 8 0).d.w = 3 → spcOpc (rRel 8 0).d.w ≠ 4 ∧
      spcOpc (rRel 8 0).d.w ≠ 7) ∧ opTranslate (sRel 8 0) Who.engine rWrite (dCtx (rRel 8 0).d.w) (rRel 8 0).d.no 8192 [1#8, 0#8, 3#8].length = Tr.mem 2105344 ∧
      2105344 % 2048 = 8192 % 2048 ∧ 0 < [1#8, 0#8, 3#8].length ∧ 8192 % 2048 + [1#8, 0#8, 3#8].length ≤ 2048 ∧ (sRel 8 0).tileFenced (tileOf 2105344) = false ∧
      (sRel 8 0).tileBad (tileOf 2105344) = 0 ∧ spcOverlaps (rRel 8 0) = []) := by
  decide +kernel

end Specialty

/-! ### The hypotheses of the statements about transfers -/

namespace Transfers

def recA : Nat := stgAddr 0 0
def stgCells (a : Nat) (bs : List Byte) : List Host.Cell := bs.zipIdx.map fun e => (a + e.2, e.1)
def wrec (n0 : Nat) (done : Nat := 0) (cur : Nat := 0) : List Byte := slice (toLE 4 (n0-1) ++ slice [] 0 20 ++ toLE 8 4 ++ slice [] 0 32 ++ toLE 8 4 ++ slice [] 0 32 ++ toLE 4 cur ++ slice [] 0 16 ++ toLE 4 done) 0 128
def dT (pd : Nat) (res : Nat := 0) (bad : Nat := 0) : Desc := desc 1 (dw 1 (2^33*pd + 2^36*2 + 2^39*res + 2^40*bad) 0x800 0x8000)
def teSt (q : List Desc) (r : Option Run) (bs : List Byte) : State := let s := engSt 1 q r; { s with mem := { s.mem with stg := stgCells recA bs } }
def rT (pd p : Nat) : Run := { d := dT pd, bytes := wrec 8, pos := p, acc := [0] }
def tS (pd p : Nat) : State := teSt [] (some (rT pd p)) (wrec 8)
def tES (pd p : Nat) := let w := parseWalk (wrec 8); teElems (dT pd).w w (p * w.unit (tePdim (dT pd).w)) ((p+1) * w.unit (tePdim (dT pd).w))
def tG (pd p : Nat) := teGather (tS pd p) 1 1 3 4 (teOverlaps (dT pd).w (parseWalk (wrec 8))) (tES pd p) { data := [] }

theorem witness_TransferStart :
    (let s : State := teSt [dT 0] none (wrec 8); s.pst = 3 ∧ 1 < nEng s ∧ 1 % 4 = 1 ∧ s.engFenced 1 = false ∧ pickNext s 1 = Next.start (dT 0) ∧
      teFieldsOk (dT 0).w = true ∧ inStaging s rRead (dCtx (dT 0).w) (recAddr (dT 0).w 1) 128 = true ∧
      (∀ k ∈ tilesOf (recAddr (dT 0).w 1) 128, s.tileFenced k = false ∧ s.tileBad k = 0) ∧
      teWalkOk s (dT 0) (List.map (fun (i : Nat) => s.byte (recAddr (dT 0).w 1 + i)) (List.range 128)) = true) ∧
    (let s : State := teSt [dT 0 0 1] none (wrec 8); s.pst = 3 ∧ 1 < nEng s ∧ 1 % 4 = 1 ∧ s.engFenced 1 = false ∧ pickNext s 1 = Next.start (dT 0 0 1) ∧
      teFieldsOk (dT 0 0 1).w = false ∧ (dT 0 0 1).eng = 1 ∧ dKind (dT 0 0 1).w = 1) := by
  refine ⟨?_, ?_⟩ <;> decide +kernel

theorem witness_TransferRelease :
    (let s : State := tS 0 0; s.pst = 3 ∧ 1 < nEng s ∧ 1 % 4 = 1 ∧ (s.engine 1).run = some (rT 0 0) ∧ (rT 0 0).park = none ∧ dKind (rT 0 0).d.w = 1 ∧
      teFault s (dCtx (rT 0 0).d.w) (rT 0 0).d.no (teEsz (rT 0 0).d.w) (teElems (rT 0 0).d.w (parseWalk (rT 0 0).bytes) (max ((rT 0 0).pos * (parseWalk (rT 0 0).bytes).unit (tePdim (rT 0 0).d.w)) ((rT 0 0).acc.getD 0 0)) (((rT 0 0).pos + 1) * (parseWalk (rT 0 0).bytes).unit (tePdim (rT 0 0).d.w))) = none ∧
      (teGather s 1 (dCtx (rT 0 0).d.w) (rT 0 0).d.no (teEsz (rT 0 0).d.w) (teOverlaps (rT 0 0).d.w (parseWalk (rT 0 0).bytes)) (teElems (rT 0 0).d.w (parseWalk (rT 0 0).bytes) (max ((rT 0 0).pos * (parseWalk (rT 0 0).bytes).unit (tePdim (rT 0 0).d.w)) ((rT 0 0).acc.getD 0 0)) (((rT 0 0).pos + 1) * (parseWalk (rT 0 0).bytes).unit (tePdim (rT 0 0).d.w))) { }).2.1 = 0 ∧
      (tG 0 0).2.2.host = [] ∧
      (writeSparse (emitReads (tG 0 0).1 (dCtx (rT 0 0).d.w) (tG 0 0).2.2) 1 (List.length (tG 0 0).2.2.mem + 1) (tG 0 0).2.2.mem).2 = 0) := by
  decide +kernel

end Transfers

/-! ### The hypotheses of the statements about ciphers and holding units -/

namespace Ciphers

def crec (n : Nat) : List Byte := slice (toLE 4 n ++ toLE 4 0 ++ toLE 8 0 ++ List.replicate 12 3#8 ++ slice [] 0 4 ++ slice [] 0 16) 0 64
def dC (dir : Nat) : Desc := desc 2 (dw 2 0 0x800 0x8000 + dir * 2^(64+13))
def rC (dir n : Nat) (acc : List Nat := [5,0,0]) : Run := { d := dC dir, bytes := crec n, acc := acc }
def cS (dir n : Nat) (acc : List Nat := [5,0,0]) : State := engSt 2 [] (some (rC dir n acc))
def cR (dir n : Nat) (acc : List Nat := [5,0,0]) := ceRelease (cS dir n acc) 2 none ((ceTiles (rC dir n)).length+1) (rC dir n acc)
def rC2 : Run := { rC 1 40 with bytes := splice (crec 40) 0x20 [1#8] }
def cS2 : State := engSt 2 [] (some rC2)
def ctC := readOp cS2 .engine 2 1 3 0x800 40
def ctB : List Byte := match ctC.2 with | .ok b => b | _ => []
def acc1 := [5, 1, ghash 5 [] ctB]
def hS (_x : HoldUnit) : State := { act with mem := { act.mem with hbm := cells 0x200800 [1#8,2#8], bad := [(0x401, 3)] } }
def sk (a : Nat) : Nat := stackOf act.variant a

/-- A run of a decryption of 40 bytes whose record's tag begins with `b`. -/
def rTag (b : Byte) : Run := { rC 1 40 with bytes := splice (crec 40) 0x20 [b] }

/-- The block cipher is uninterpreted: of two records that differ in their tags alone, one does not match. -/
theorem tag_differs : ∃ b, (b = 0#8 ∨ b = 1#8) ∧ gcmTag (ceKeyOf (rTag b)) (ceNonce (ceRec (rTag b))) (ceAadOf (rTag b)) ctB ≠ ceTag (ceRec (rTag b)) := by
  by_contra h
  have h1 : ceKeyOf (rTag 0#8) = ceKeyOf (rTag 1#8) := by decide +kernel
  have h2 : ceNonce (ceRec (rTag 0#8)) = ceNonce (ceRec (rTag 1#8)) := by decide +kernel
  have h3 : ceAadOf (rTag 0#8) = ceAadOf (rTag 1#8) := by decide +kernel
  have h4 : ceTag (ceRec (rTag 0#8)) ≠ ceTag (ceRec (rTag 1#8)) := by decide +kernel
  have e : ∀ b, b = 0#8 ∨ b = 1#8 → gcmTag (ceKeyOf (rTag b)) (ceNonce (ceRec (rTag b))) (ceAadOf (rTag b)) ctB = ceTag (ceRec (rTag b)) :=
    fun b hb => by_contra fun x => h ⟨b, hb, x⟩
  exact h4 (by rw [← e 0#8 (.inl rfl), ← e 1#8 (.inr rfl), h1, h2, h3])

theorem ghash_matches : ghash (ceKeyOf (cR 1 40 acc1).2.1) (ceAadOf (cR 1 40 acc1).2.1) (ceText (cR 1 40 acc1).2.1) = (cR 1 40 acc1).2.1.acc.getD 2 0 := by
  have h1 : ceKeyOf (cR 1 40 acc1).2.1 = 5 := by decide +kernel
  have h2 : ceAadOf (cR 1 40 acc1).2.1 = [] := by decide +kernel
  have h3 : ceText (cR 1 40 acc1).2.1 = ctB := by decide +kernel
  rw [h1, h2, h3]; rfl

/-- An encryption whose last tile is released. -/
theorem witness_CipherResult :
    let s : State := cS 0 40; s.pst = 3 ∧ 2 < nEng s ∧ 2 % 4 = 2 ∧ s.engFenced 2 = false ∧ (s.engine 2).run = some (rC 0 40) ∧ (rC 0 40).park = none ∧
      dKind (rC 0 40).d.w = 2 ∧ ceDir (rC 0 40).d.w = false ∧ (ceRelease s 2 none ((ceTiles (rC 0 40)).length + 1) (rC 0 40)).2.2 = none ∧
      (cR 0 40).2.1.d = (rC 0 40).d := by
  decide +kernel

/-- A decryption in its first pass, of either tag byte; `tag_differs` shows one of them to be refused. -/
theorem witness_CipherResult_refused (b : Byte) :
    ((engSt 2 [] (some (rTag b))).engine 2).run = some (rTag b) ∧ (rTag b).park = none ∧ dKind (rTag b).d.w = 2 ∧ ceDir (rTag b).d.w = true ∧
      (rTag b).acc.getD 1 0 = 0 ∧ (engSt 2 [] (some (rTag b))).pst = 3 ∧ (engSt 2 [] (some (rTag b))).engFenced 2 = false :=
  ⟨rfl, rfl, (by decide +kernel : dKind (dC 1).w = 2), (by decide +kernel : ceDir (dC 1).w = true), rfl,
    (by decide +kernel : act.pst = 3), (by decide +kernel : act.engFenced 2 = false)⟩

theorem witness_CipherResult_text0 : (readOp (engSt 2 [] (some (rTag 0#8))) Who.engine 2 (dCtx (rTag 0#8).d.w) (rTag 0#8).d.no (ceSrc (rTag 0#8).d.w) (ceLen (ceRec (rTag 0#8)))).2 = Got.ok ctB := by
  decide +kernel

theorem witness_CipherResult_text1 : (readOp (engSt 2 [] (some (rTag 1#8))) Who.engine 2 (dCtx (rTag 1#8).d.w) (rTag 1#8).d.no (ceSrc (rTag 1#8).d.w) (ceLen (ceRec (rTag 1#8)))).2 = Got.ok ctB := by
  decide +kernel

theorem witness_CipherResult_run : ((cS 1 40 acc1).engine 2).run = some (rC 1 40 acc1) ∧ (rC 1 40 acc1).park = none ∧ dKind (rC 1 40 acc1).d.w = 2 ∧
    ceDir (rC 1 40 acc1).d.w = true ∧ (rC 1 40 acc1).acc.getD 1 0 = 1 := ⟨rfl, rfl, by decide +kernel, by decide +kernel, rfl⟩

theorem witness_CipherResult_unit : (let s : State := cS 1 40 acc1; s.pst = 3 ∧ 2 < nEng s ∧ s.engFenced 2 = false) ∧
    (ceRelease (cS 1 40 acc1) 2 none ((ceTiles (rC 1 40 acc1)).length + 1) (rC 1 40 acc1)).2.2 = none := by
  decide +kernel

/-- A decryption in its second pass whose last tile is released; `ghash_matches` says that its hash is the first pass's. -/
theorem witness_CipherResult_second : (cR 1 40 acc1).2.1.d = (rC 1 40 acc1).d := by decide +kernel

theorem witness_HoldingUnitAccess :
    (let s : State := hS (.stack 0); s.pst = 3 ∧ holdPresent s (HoldUnit.stack (sk 2101248)) = true ∧
      holdServes s (HoldUnit.stack (sk 2101248)) { req := 5, addr := 2101248, op := TileOp.read, ecc := none } = true ∧
      smGet s.mem.wait (holdKey (HoldUnit.stack (sk 2101248))) [] = [] ∧ 5 < 118 ∧ smGet s.mem.ptr (holdKey (HoldUnit.stack (sk 2101248))) 0 < 118 ∧
      accAddr (HoldUnit.stack (sk 2101248)) { req := 5, addr := 2101248, op := TileOp.read, ecc := none } % 2048 = 0 ∧
      s.tileFenced (tileOf (accAddr (HoldUnit.stack (sk 2101248)) { req := 5, addr := 2101248, op := TileOp.read, ecc := none })) = false ∧
      (isStg (accAddr (HoldUnit.stack (sk 2101248)) { req := 5, addr := 2101248, op := TileOp.read, ecc := none }) && inStatePart (stgOff (accAddr (HoldUnit.stack (sk 2101248)) { req := 5, addr := 2101248, op := TileOp.read, ecc := none }))) = false ∧
      s.tileBad (tileOf (accAddr (HoldUnit.stack (sk 2101248)) { req := 5, addr := 2101248, op := TileOp.read, ecc := none })) = 0 ∧
      10 + [7#8, 0#8].length ≤ 2048 ∧ [7#8, 0#8].length < 2048 ∧ 10 < 2048) ∧
    (let s : State := hS (.bank 1); s.pst = 3 ∧ holdPresent s (HoldUnit.bank 1) = true ∧
      holdServes s (HoldUnit.bank 1) { req := 117, addr := 28313600, op := TileOp.read, ecc := none } = true ∧
      smGet s.mem.wait (holdKey (HoldUnit.bank 1)) [] = [] ∧ 117 < 118 ∧ smGet s.mem.ptr (holdKey (HoldUnit.bank 1)) 0 < 118 ∧
      accAddr (HoldUnit.bank 1) { req := 117, addr := 28313600, op := TileOp.read, ecc := none } % 2048 = 0 ∧
      s.tileFenced (tileOf (accAddr (HoldUnit.bank 1) { req := 117, addr := 28313600, op := TileOp.read, ecc := none })) = false ∧
      (isStg (accAddr (HoldUnit.bank 1) { req := 117, addr := 28313600, op := TileOp.read, ecc := none }) && inStatePart (stgOff (accAddr (HoldUnit.bank 1) { req := 117, addr := 28313600, op := TileOp.read, ecc := none }))) = true ∧
      10 + [7#8, 0#8].length ≤ 2048 ∧ 10 < 2048) ∧
    (let s : State := hS (.stack 0); s.pst = 3 ∧ holdPresent s (HoldUnit.stack (sk 2099200)) = true ∧
      holdServes s (HoldUnit.stack (sk 2099200)) { req := 5, addr := 2099200, op := TileOp.read, ecc := none } = true ∧
      smGet s.mem.wait (holdKey (HoldUnit.stack (sk 2099200))) [] = [] ∧ 5 < 118 ∧ smGet s.mem.ptr (holdKey (HoldUnit.stack (sk 2099200))) 0 < 118 ∧
      accAddr (HoldUnit.stack (sk 2099200)) { req := 5, addr := 2099200, op := TileOp.read, ecc := none } % 2048 = 0 ∧
      s.tileFenced (tileOf (accAddr (HoldUnit.stack (sk 2099200)) { req := 5, addr := 2099200, op := TileOp.read, ecc := none })) = false ∧
      (isStg (accAddr (HoldUnit.stack (sk 2099200)) { req := 5, addr := 2099200, op := TileOp.read, ecc := none }) && inStatePart (stgOff (accAddr (HoldUnit.stack (sk 2099200)) { req := 5, addr := 2099200, op := TileOp.read, ecc := none }))) = false ∧
      s.tileBad (tileOf (accAddr (HoldUnit.stack (sk 2099200)) { req := 5, addr := 2099200, op := TileOp.read, ecc := none })) ≠ 0) ∧
    (let s : State := hS (.stack 0); s.pst = 3 ∧ holdPresent s (HoldUnit.stack (sk 2101248)) = true ∧
      holdServes s (HoldUnit.stack (sk 2101248)) { req := 5, addr := 2101248, op := TileOp.read, ecc := none } = true ∧
      smGet s.mem.wait (holdKey (HoldUnit.stack (sk 2101248))) [] = [] ∧ 5 < 118 ∧ smGet s.mem.ptr (holdKey (HoldUnit.stack (sk 2101248))) 0 < 118 ∧
      accAddr (HoldUnit.stack (sk 2101248)) { req := 5, addr := 2101248, op := TileOp.read, ecc := none } % 2048 = 0 ∧
      s.tileFenced (tileOf (accAddr (HoldUnit.stack (sk 2101248)) { req := 5, addr := 2101248, op := TileOp.read, ecc := none })) = false ∧
      (isStg (accAddr (HoldUnit.stack (sk 2101248)) { req := 5, addr := 2101248, op := TileOp.read, ecc := none }) && inStatePart (stgOff (accAddr (HoldUnit.stack (sk 2101248)) { req := 5, addr := 2101248, op := TileOp.read, ecc := none }))) = false ∧
      (List.replicate 2048 7#8).length = 2048) := by
  refine ⟨?_, ?_, ?_, ?_⟩ <;> decide +kernel

end Ciphers

/-! ### The hypotheses of the statements about segments, windows and keys -/

namespace Segments

def sgE (vp pages back frames rights hbm host : Nat) : Nat := vp * 0x200000 + 2^64*pages + 2^96*frames + 2^128*(rights + 256*back) + 2^192*hbm + 2^256*host
def quotaS : BitVec 512 := quota1 + BitVec.ofNat 512 (16 * 2^0x120)
def baseL (segs : SMap Segm) : State := { act with sg := { act.sg with segs := segs }, ho := { act.ho with quotaEff := [(1, quotaS)] }, tr := { act.tr with qps := [(3, qp1)] }, sq := { act.sq with opNo := 5 } }
def withW (s : State) (f : RF) (n v : Nat) : State := s.setWords f.off n v
def remL (trk : SMap (Nat × Nat)) : State := let s := baseL [(16, {seg0 with removed := some 4})]; { s with sq := { s.sq with trk := trk }, sg := { s.sg with pend := [{ blk := .seg, op := 2, ctx := 1, idx := 0, gen := 4 }] } }
def wE (sync rights gen ctx seg base len : Nat) : Nat := 1 + 2*sync + 2^8*rights + 2^16*gen + 2^24*ctx + 2^32*seg + 2^64*base + 2^128*len
def kE (rights w ctx off len : Nat) : Nat := 1 + 2^8*rights + 2^16*w + 2^32*ctx + 2^64*off + 2^128*len
def winL (wins keys : SMap (BitVec 256)) (w k : Nat) : State := let s := withW (withW (baseL [(16, seg0)]) (F.WIN_ENTRY 0) 8 w) (F.KEY_ENTRY 0) 8 k
  { s with sg := { s.sg with wins := wins, keys := keys } }
def winP : State := let s := winL [(4, BitVec.ofNat 256 (wE 0 7 255 1 0 2048 5000))] [] 0 0; { s with sg := { s.sg with pend := [{ blk := .win, op := 4, ctx := 1, idx := 4 }] } }

theorem witness_SegmentCommands :
    (let s : State := withW (baseL [(16, seg0)]) (F.SEG_ENTRY 0) 16 (sgE 4 2 1 0 15 0x200000 0); s.pst = 3 ∧ s.fnHeld 0 = false ∧ 1 < 256 ∧ 0 < 16 ∧
      blkBusy s Blk.seg = false ∧ smFind s.sg.segs (segKey 1 0) = some seg0) ∧
    (let s : State := withW (baseL []) (F.SEG_ENTRY 0) 16 (sgE 0 2 1 0 15 0x200000 0); s.pst = 3 ∧ s.fnHeld 0 = false ∧ 1 < 256 ∧ 0 < 16 ∧
      blkBusy s Blk.seg = false ∧ smFind s.sg.segs (segKey 1 0) = none) ∧
    (let s : State := remL []; s.pst = 3 ∧ s.fnHeld 0 = false ∧ 1 < 256 ∧ 0 < 16 ∧ s.sg.pend = [{ blk := Blk.seg, op := 2, ctx := 1, idx := 0, gen := 4 }] ∧
      (∀ x ∈ s.sq.trk, x.2.1 = 1 → 4 ≤ x.1) ∧ segMoving s 1 0 = false) := by
  refine ⟨?_, ?_, ?_⟩ <;> decide +kernel

theorem witness_WindowCommands :
    (let s : State := winL [(4, BitVec.ofNat 256 (wE 0 7 255 1 0 2048 5000))] [(4, BitVec.ofNat 256 (kE 3 4 1 10 100))] (wE 0 7 3 1 0 2048 5000) (kE 3 4 1 10 100); (s.pst = 3 ∧
      s.fnHeld 0 = false ∧ blkBusy s Blk.win = false ∧ 4 < 65536 ∧ smFind s.sg.wins 4 = some (BitVec.ofNat 256 (wE 0 7 255 1 0 2048 5000)) ∧
      s.mayCreate (winCtx (s.getWords (F.WIN_ENTRY 0).off 8)) 4 4 = true ∧ 4 < 2 ^ 20 ∧ smFind s.sg.keys 4 = some (BitVec.ofNat 256 (kE 3 4 1 10 100))) ∧
      ((∀ r ∈ s.sg.recs, ∀ x ∈ r.waiters, ∀ (i : Ingress) (p : Packet), x ≠ FaultWaiter.held i p) ∧ ∀ r ∈ s.sy.reqs, r.pkt = none)) ∧
    (let s : State := winL [] [] (wE 0 7 3 1 0 2048 5000) 0; s.pst = 3 ∧ s.fnHeld 0 = false ∧ blkBusy s Blk.win = false ∧ 4 < 65536 ∧
      s.mayCreate (winCtx (s.getWords (F.WIN_ENTRY 0).off 8)) 4 4 = true ∧ smFind s.sg.wins 4 = none ∧
      winFieldsOk s (s.getWords (F.WIN_ENTRY 0).off 8) = true) ∧
    (let s : State := winL [] [] (wE 0 7 3 1 0 2048 5000) 0; s.pst = 3 ∧ s.fnHeld 0 = false ∧ blkBusy s Blk.win = false ∧ 70 < 65536 ∧
      s.mayCreate (winCtx (s.getWords (F.WIN_ENTRY 0).off 8)) 4 70 = false) ∧
    (let s : State := winL [(4, BitVec.ofNat 256 (wE 0 7 255 1 0 2048 5000))] [] (wE 0 7 3 1 0 2048 5000) (kE 3 4 1 10 100); s.pst = 3 ∧ s.fnHeld 0 = false ∧
      blkBusy s Blk.win = false ∧ 4 < 2 ^ 20 ∧ s.mayCreate (keyCtx (s.getWords (F.KEY_ENTRY 0).off 8)) 3 4 = true ∧ smFind s.sg.keys 4 = none ∧
      keyFieldsOk s (s.getWords (F.KEY_ENTRY 0).off 8) = true) ∧
    (winP.pst = 3 ∧ winP.fnHeld 0 = false ∧ winP.sg.pend = [{ blk := Blk.win, op := 4, ctx := 1, idx := 4 }] ∧
      ({ blk := Blk.win, op := 4, ctx := 1, idx := 4 } : Pending).blk = Blk.win ∧ ({ blk := Blk.win, op := 4, ctx := 1, idx := 4 } : Pending).entry = none ∧
      winDrained winP ({ blk := Blk.win, op := 4, ctx := 1, idx := 4 } : Pending).op ({ blk := Blk.win, op := 4, ctx := 1, idx := 4 } : Pending).idx = true) := by
  refine ⟨?_, ?_, ?_, ?_, ?_⟩
  · exact ⟨by decide +kernel, ⟨none_held (by decide +kernel), by decide +kernel⟩⟩
  · decide +kernel
  · decide +kernel
  · decide +kernel
  · decide +kernel

end Segments

/-! ### The hypotheses of the statements about migrations -/

namespace Migrations

def sgE (vp pages back frames rights hbm host : Nat) : Nat := vp * 0x200000 + 2^64*pages + 2^96*frames + 2^128*(rights + 256*back) + 2^192*hbm + 2^256*host
def gM (pages : SMap Page) (frames : SMap Nat) : Segm := { e := BitVec.ofNat 512 (sgE 0 4 3 2 3 0x400000 0x10000000), pages := pages, frames := frames }
def mM (g : Segm) (recs : List FaultRec) (pend : List Pending) : State := { act with sg := { act.sg with segs := [(16, g)], recs := recs, pend := pend }, ho := { act.ho with quotaEff := [(1, quota1)] }, mem := { act.mem with hbm := cells 0x600000 [1#8,2#8] }, tk := { act.tk with count := 100 } }
def g2 := gM [(1,{st := 2, frame := 1})] [(1, 1)]
def g3 := gM [(1,{st := 2, frame := 1, dirty := true})] [(1, 1)]
def g4 := gM [(1,{st := 3, frame := 1, dirty := true})] [(1, 1)]
def g5 := gM [(1,{st := 1, frame := 1})] [(1, 1)]
def ask (op : Nat) : Pending := { blk := .mig, op := op, ctx := 1, idx := 0, page := 1 }
def mS : State := mM g5 [⟨1, 0, 1, [.prefetch], some 3, none, some 1⟩] [ask 1]

theorem witness_MigrationCommands :
    ((mS.pst = 3 ∧ mS.fnHeld 0 = false ∧ ctrlOn mS = true ∧ 0 < 16 ∧ 1 < segPages g5.e.toNat ∧ segBacking g5.e.toNat = 3 ∧
      smFind mS.sg.segs (segKey 1 0) = some g5 ∧ g5.removed = none ∧ g5.page 1 = { st := 1, frame := 1 } ∧
      mS.sg.recs = [{ ctx := 1, seg := 0, page := 1, waiters := [FaultWaiter.prefetch], started := some 3, victim := none, frame := some 1 }] ∧
      mS.sg.pend = [{ blk := Blk.mig, op := 1, ctx := 1, idx := 0, page := 1 }] ∧ frameBase g5 1 + pageSize ≤ allocEnd mS.variant ∧
      (∀ c ∈ [(5, 7#8), (2, 9#8)], c.1 < pageSize) ∧ List.Pairwise (fun (a b : Host.Cell) => a.1 ≠ b.1) [(5, 7#8), (2, 9#8)]) ∧
      (∀ (b : Nat), frameBase g5 1 ≤ b → b < frameBase g5 1 + pageSize → mS.stackFenced (stackOf mS.variant b) = false)) ∧
    (let s : State := mM (gM [] []) [] []; s.pst = 3 ∧ s.fnHeld 0 = false ∧ ctrlOn s = true ∧ 0 < 16 ∧ 2 < segPages (gM [] []).e.toNat ∧
      segBacking (gM [] []).e.toNat = 3 ∧ smFind s.sg.segs (segKey 1 0) = some (gM [] []) ∧ (gM [] []).removed = none ∧ blkBusy s Blk.mig = false ∧
      ((gM [] []).page 2).st = 0 ∧ s.sg.recs = [] ∧ freeFrame (gM [] []) (segFrames (gM [] []).e.toNat) = some 0) ∧
    (let s : State := mM g2 [] []; s.pst = 3 ∧ s.fnHeld 0 = false ∧ ctrlOn s = true ∧ 0 < 16 ∧ 1 < segPages g2.e.toNat ∧ segBacking g2.e.toNat = 3 ∧
      smFind s.sg.segs (segKey 1 0) = some g2 ∧ g2.removed = none ∧ blkBusy s Blk.mig = false ∧ (g2.page 1).st = 2 ∧ (g2.page 1).dirty = false) ∧
    (let s : State := mM g3 [] []; s.pst = 3 ∧ s.fnHeld 0 = false ∧ ctrlOn s = true ∧ 0 < 16 ∧ 1 < segPages g3.e.toNat ∧ segBacking g3.e.toNat = 3 ∧
      smFind s.sg.segs (segKey 1 0) = some g3 ∧ g3.removed = none ∧ blkBusy s Blk.mig = false ∧ (g3.page 1).st = 2 ∧ (g3.page 1).dirty = true) ∧
    (let s : State := mM g4 [] [ask 2]; s.pst = 3 ∧ s.fnHeld 0 = false ∧ ctrlOn s = true ∧ 0 < 16 ∧ 1 < segPages g4.e.toNat ∧ segBacking g4.e.toNat = 3 ∧
      smFind s.sg.segs (segKey 1 0) = some g4 ∧ g4.removed = none ∧ s.sg.pend = [{ blk := Blk.mig, op := 2, ctx := 1, idx := 0, page := 1 }] ∧ s.sg.recs = [] ∧
      (∀ k ∈ tilesOf (frameBase g4 (g4.page 1).frame) pageSize, s.tileFenced k = false ∧ s.tileBad k = 0)) := by
  refine ⟨?_, ?_, ?_, ?_, ?_⟩
  · exact ⟨by decide +kernel, (fun b _ _ => by unfold State.stackFenced; rw [show mS.get F.MEM_FENCED_STACKS = 0 by decide +kernel]; simp [bit])⟩
  · decide +kernel
  · decide +kernel
  · decide +kernel
  · decide +kernel

end Migrations

/-! ### The hypotheses of the statements about queue pairs and routes -/

namespace Routes

def qE (st ctx tc acktc enc rep rqp sqpsn rqpsn scq rcq npath rq : Nat) : Nat := st + 2^8*ctx + 2^16*tc + 2^20*acktc + 2^24*enc + 2^32*rep + 2^64*rqp + 2^96*sqpsn + 2^128*rqpsn + 2^160*scq + 2^176*rcq + 2^224*npath + 2^256*rq
def quotaQ : BitVec 512 := quota1
def stQ (q : Option Qp) : State := let s := { act with ho := { act.ho with quotaEff := [(1, quotaQ)] }, tr := { act.tr with qps := (q.map fun q => (5, q)).toList } }
  s.setWords (F.QP_ENTRY 0).off 16 (qE 0 1 2 3 0 77 9 100 200 4 5 2 1)
def qN (st : Nat) : Qp := { e := BitVec.ofNat 512 (qE 0 1 2 3 0 77 9 100 200 4 5 2 1), st := st, txc := 8, epsn := 33, nextPsn := 44, cached := true }
def rtE (hops path valid : Nat) : BitVec 768 := BitVec.ofNat 768 (path + 2^70*hops + 2^74*valid + 2^96*(path + 2^70*hops + 2^74*valid))
def stR (v : Nat) : State := let s := { act with tr := { act.tr with routes := [(4, rtE 2 33 1), (9, rtE 1 3 1)] } }; s.setWords (F.ROUTE_ENTRY 0).off 24 v

theorem witness_QueuePairCommands :
    (let s : State := stQ (some (qN 2)); s.pst = 3 ∧ s.fnHeld 0 = false ∧ 5 < 2 ^ 18 ∧ blkBusy s Blk.qp = false ∧ (s.qp 5).st = 2 ∧
      qpFieldsOk (s.getWords (F.QP_ENTRY 0).off 16) = true ∧ 1 ≤ qpNpath (s.getWords (F.QP_ENTRY 0).off 16) ∧ qpNpath (s.getWords (F.QP_ENTRY 0).off 16) ≤ 8 ∧
      (s.qp 5).st ≠ 1 ∧ (s.qp 5).ops = [] ∧ s.en.ended = [] ∧ ((s.qp 5).st = 2 ∨ (s.qp 5).st = 3) ∧ (s.qp 5).st ≠ 0) ∧
    (let s : State := stQ none; s.pst = 3 ∧ s.fnHeld 0 = false ∧ 5 < 2 ^ 18 ∧ blkBusy s Blk.qp = false ∧ (s.qp 5).st = 0 ∧
      s.mayCreate (qpCtx (s.getWords (F.QP_ENTRY 0).off 16)) 1 5 = true ∧ qpFieldsOk (s.getWords (F.QP_ENTRY 0).off 16) = true ∧
      qpKeyOk s (s.getWords (F.QP_ENTRY 0).off 16) = true) ∧
    (let s : State := stQ (some (qN 1)); s.pst = 3 ∧ s.fnHeld 0 = false ∧ 5 < 2 ^ 18 ∧ blkBusy s Blk.qp = false ∧ (s.qp 5).st = 1 ∧
      qpFieldsOk (s.getWords (F.QP_ENTRY 0).off 16) = true) ∧
    (let s : State := stQ (some {qN 3 with cached := false}); s.pst = 3 ∧ s.fnHeld 0 = false ∧ 5 < 2 ^ 18 ∧ (s.qp 5).st ≠ 0 ∧ (s.qp 5).cached = false) := by
  refine ⟨?_, ?_, ?_, ?_⟩ <;> decide +kernel

theorem witness_RouteCommands :
    (let s : State := stR (rtE 3 5 1).toNat; s.pst = 3 ∧ s.fnHeld 0 = false ∧ 4 < 1048575 ∧ s.tr.waitRoute = [] ∧
      routeOk (BitVec.ofNat 768 (s.getWords (F.ROUTE_ENTRY 0).off 24)) = true) ∧
    (let s : State := stR (rtE 15 5 1).toNat; s.pst = 3 ∧ s.fnHeld 0 = false ∧ 4 < 1048575 ∧
      routeOk (BitVec.ofNat 768 (s.getWords (F.ROUTE_ENTRY 0).off 24)) = false) ∧
    ((stR (rtE 15 5 1).toNat).pst = 3 ∧ (stR (rtE 15 5 1).toNat).fnHeld 0 = false ∧ 1048575 ≤ 1048575) := by
  refine ⟨?_, ?_, ?_⟩ <;> decide +kernel

end Routes

/-! ### The hypotheses of the statements about packets sent -/

namespace Sending

def rt5 (hops : Nat) : BitVec 768 := BitVec.ofNat 768 (1 + 2^5*2 + 2^70*hops + 2^74)
def dP (kind len : Nat) (no : Nat := 3) : Desc := { desc 0 (dw kind (2^14*3 + 2^32*(len-1)) 0x800 0) with post := true, no := no }
def op8 (len : Nat) : Op := { d := dP 8 len }
def qT : Qp := { qp1 with e := qp1.e + BitVec.ofNat 512 (2^64*9 + 2^224), ops := [op8 10000], nextPsn := 70, txc := 6, epsn := 90 }
def trS (q : Qp) (rt : SMap (BitVec 768)) (ep : Nat) : State :=
  let s := { act with sg := { act.sg with segs := [(16, seg0)] }, ho := { act.ho with quotaEff := [(1, quota1)] }, mem := { act.mem with hbm := cells 0x200800 [1#8,2#8,3#8] }
                      tr := { act.tr with qps := [(3, q)], routes := rt, rcache := rt.map Prod.fst } }
  ((s.set F.TRN_ID_ENDPOINT ep).set (F.PORT_STATUS_LINK 1) 1).set (F.PORT_STATUS_LINK 2) 1
def goT (s : State) (o : Op) := let q := s.qp 3; trnRead s (wayReq s (wayTo s (qpRemoteEp q.e.toNat) (npathOf q.e.toNat) (q.nextPsn + smGet q.tries q.nextPsn 0))) rRead (dCtx o.d.w) o.d.no (dLocal o.d.w + 8192 * o.sent) (pktLen o.d.w o.sent) []
def gotB (g : Got) : List Byte := match g with | .ok b => b | _ => []
def wayT (s : State) : Way := let q := s.qp 3; wayTo s (qpRemoteEp q.e.toNat) (npathOf q.e.toNat) (q.nextPsn + smGet q.tries q.nextPsn 0)
def opA : Op := { d := dP 11 100 }
def tPeer := let s := trS qT [] 4; ((((s.setReg (F.PEER_TABLE 0).off 0x80000005).setReg (F.PEER_TABLE 1).off 0)).set (F.HOST_PORT_STATUS_LINK 0) 1)
def opW : Op := { op8 10000 with first := 70, sent := 2 }
def ackP (psn sack : Nat) (rf : List (Nat × Nat)) : Packet := { type := 7, dqp := 3, sqp := 9, srcEp := 5, dstEp := 4, psn := psn, sack := sack, refusals := rf }
def iS (tries : SMap Nat) := trS {qT with ops := [opW], nextPsn := 72, timer := some 5, tries := tries} [(5, rt5 2)] 4

theorem witness_PacketTransmission :
    ((tPeer.pst = 3 ∧ (tPeer.qp 3).st = 3 ∧ (tPeer.qp 3).cached = true ∧ mayStart tPeer 3 100 = true ∧ (tPeer.qp 3).resp = [] ∧ (tPeer.qp 3).resend = [] ∧
      qpEnc (tPeer.qp 3).e.toNat = false ∧ (tPeer.qp 3).ops = [op8 10000] ∧ (op8 10000).code = none ∧ (op8 10000).abort = none ∧
      (op8 10000).sent < opPkts (op8 10000).d.w ∧ windowOpen (tPeer.qp 3) = true ∧
      wayTo tPeer (qpRemoteEp (tPeer.qp 3).e.toNat) (npathOf (tPeer.qp 3).e.toNat) ((tPeer.qp 3).nextPsn + smGet (tPeer.qp 3).tries (tPeer.qp 3).nextPsn 0) = wayT tPeer ∧
      (readsSource (op8 10000) (op8 10000).sent = true → trnRead tPeer (wayReq tPeer (wayT tPeer)) rRead (dCtx (op8 10000).d.w) (op8 10000).d.no (dLocal (op8 10000).d.w + 8192 * (op8 10000).sent) (pktLen (op8 10000).d.w (op8 10000).sent) [] = ((goT tPeer (op8 10000)).1, Got.ok (gotB (goT tPeer (op8 10000)).2))) ∧
      (readsSource (op8 10000) (op8 10000).sent = false → (goT tPeer (op8 10000)).1 = tPeer ∧ gotB (goT tPeer (op8 10000)).2 = [])) ∧
      ((∃ (k : Nat), wayT tPeer = Way.peer k) ∨ ∃ (w : Nat), wayT tPeer = Way.path w)) := by
  exact ⟨by decide +kernel, Or.inl ⟨0, by decide +kernel⟩⟩

theorem witness_InitiatorEvents :
    (let s : State := {iS [(71, 3)] with tk := {act.tk with count := 9}}; s.pst = 3 ∧ (s.qp (ackP 72 0 []).dqp).ops = [opW] ∧ opW.code = none ∧
      dKind opW.d.w = 8 ∧ opW.sent = opPkts opW.d.w ∧ 0 < opW.sent ∧ opW.sent ≤ 4096 ∧ opW.acked = [] ∧ opW.refused = none ∧ opW.abort = none ∧
      opW.told = false ∧ opW.first < 2 ^ 24 ∧ Arrives s (Ingress.port 1) (ackP 72 0 []) ∧ (ackP 72 0 []).type = 7 ∧ (ackP 72 0 []).echo = 0 ∧
      (∀ k < opW.sent, ackShows (ackP 72 0 []) (psnAdd opW.first k) = true) ∧ (ackP 72 0 []).refusals = [] ∧ (s.qp (ackP 72 0 []).dqp).timer = some 5 ∧
      (s.qp (ackP 72 0 []).dqp).st = 3 ∧ 5 ≤ s.tk.count ∧ (s.qp (ackP 72 0 []).dqp).heldPsn = [] ∧
      (∀ k < opW.sent, smGet (s.qp (ackP 72 0 []).dqp).tries (psnAdd opW.first k) 0 < 7)) ∧
    (let s : State := iS []; s.pst = 3 ∧ (s.qp (ackP 71 0 [(71, 18)]).dqp).ops = [opW] ∧ opW.code = none ∧ dKind opW.d.w = 8 ∧ opW.sent = opPkts opW.d.w ∧
      0 < opW.sent ∧ opW.sent ≤ 4096 ∧ opW.acked = [] ∧ opW.refused = none ∧ opW.abort = none ∧ opW.told = false ∧ opW.first < 2 ^ 24 ∧
      Arrives s (Ingress.port 1) (ackP 71 0 [(71, 18)]) ∧ (ackP 71 0 [(71, 18)]).type = 7 ∧ (ackP 71 0 [(71, 18)]).echo = 0 ∧
      (∀ k < opW.sent, ackShows (ackP 71 0 [(71, 18)]) (psnAdd opW.first k) = true) ∧ 1 < opW.sent ∧
      (ackP 71 0 [(71, 18)]).refusals = [(psnAdd opW.first 1, 18)]) ∧
    (let s : State := {iS [(71, 7)] with tk := {act.tk with count := 9}}; s.pst = 3 ∧ (s.qp (ackP 72 0 []).dqp).ops = [opW] ∧ opW.code = none ∧
      dKind opW.d.w = 8 ∧ opW.sent = opPkts opW.d.w ∧ 0 < opW.sent ∧ opW.sent ≤ 4096 ∧ opW.acked = [] ∧ opW.refused = none ∧ opW.abort = none ∧
      opW.told = false ∧ opW.first < 2 ^ 24 ∧ (s.qp (ackP 72 0 []).dqp).timer = some 5 ∧ (s.qp (ackP 72 0 []).dqp).st = 3 ∧ 5 ≤ s.tk.count ∧
      (s.qp (ackP 72 0 []).dqp).heldPsn = [] ∧ (∃ k < opW.sent, 7 ≤ smGet (s.qp (ackP 72 0 []).dqp).tries (psnAdd opW.first k) 0)) ∧
    (let s : State := iS [(71, 7)]; s.pst = 3 ∧ (s.qp ({ type := 8, dqp := 3, psn := 71, ssn := 5 } : Packet).dqp).ops = [opW] ∧ opW.code = none ∧
      dKind opW.d.w = 8 ∧ opW.sent = opPkts opW.d.w ∧ 0 < opW.sent ∧ opW.sent ≤ 4096 ∧ opW.acked = [] ∧ opW.refused = none ∧ opW.abort = none ∧
      opW.told = false ∧ opW.first < 2 ^ 24 ∧ 1 < opW.sent ∧ ({ type := 8, dqp := 3, psn := 71, ssn := 5 } : Packet).type = 8 ∧
      hdrOk { type := 8, dqp := 3, psn := 71, ssn := 5 } = true ∧ ({ type := 8, dqp := 3, psn := 71, ssn := 5 } : Packet).rsvHdr = false ∧
      ({ type := 8, dqp := 3, psn := 71, ssn := 5 } : Packet).rsvRoute = false ∧ agedOut s { type := 8, dqp := 3, psn := 71, ssn := 5 } = false ∧
      ((s.qp ({ type := 8, dqp := 3, psn := 71, ssn := 5 } : Packet).dqp).st = 2 ∨ (s.qp ({ type := 8, dqp := 3, psn := 71, ssn := 5 } : Packet).dqp).st = 3) ∧
      ({ type := 8, dqp := 3, psn := 71, ssn := 5 } : Packet).ssn % 2 ^ 20 = qpRemoteEp (s.qp ({ type := 8, dqp := 3, psn := 71, ssn := 5 } : Packet).dqp).e.toNat ∧
      ({ type := 8, dqp := 3, psn := 71, ssn := 5 } : Packet).psn = psnAdd opW.first 1) := by
  simp only [arrives_iff]
  refine ⟨?_, ?_, ?_, ?_⟩ <;> decide +kernel

end Sending

/-! ### The hypotheses of the statements about frames forwarded -/

namespace Frames

def pk (ptr hops path : Nat) (n : Nat := 20) : Packet := { type := 0, dqp := 3, srcEp := 5, dstEp := 9, psn := 40, hops := hops, ptr := ptr, path := path, tc := 2, payload := List.replicate n 7#8, pieces := [0#64] }
def swS (f : State → State) : State := f (((((act.set F.TRN_ID_ENDPOINT 9).set (F.PORT_STATUS_LINK 1) 1).set (F.PORT_STATUS_LINK 2) 1).set (F.PORT_STATUS_LINK 16) 1).set (F.PORT_CFG_MAXF 1) 9000)
def fr (c : Nat) : Frame := ⟨c, 100, pk 1 2 0, true, 2⟩
def pS (p : Port) : State := swS fun s => { s with fb := { s.fb with ports := [(1, p)] } }
def full (e : Nat) : State := swS fun s => { s with fb := { s.fb with ports := [(e, {q := [(2, List.replicate 220 ⟨2, 9600, pk 1 2 0, true, 2⟩)]})] } }
def qM : State := (swS id).set (F.FAB_MARK_CE_EN 2) 0
def qW : State := (pS {wait := [fr 3]}).set (F.FAB_MARK_CE_EN 1) 0

theorem witness_FrameForwarding :
    (let s : State := pS {cut := some (fr 3)}; (s.pst = 3 ∧ 1 < 32 ∧ portPresent s 1 = true ∧ s.linkUp 1 = true ∧ s.ci.load = Loading.none ∧ 63 < 64 ∧
      maxFrame s 1 < 20000 ∧ 64 ≤ 100 ∧ 100 ≤ maxFrame s 1 ∧ (14 < (pk 0 15 2).hops ∨ (pk 0 15 2).hops < (pk 0 15 2).ptr ∨ (pk 0 15 2).rsvRoute = true) ∧
      (pk 1 1 1).hops ≤ 14 ∧ (pk 1 1 1).rsvRoute = false ∧ (pk 1 1 1).ptr = (pk 1 1 1).hops ∧ (pk 1 1 1).dstEp = s.get F.TRN_ID_ENDPOINT ∧
      { pk 1 1 1 with dstEp := 8 }.hops ≤ 14 ∧ { pk 1 1 1 with dstEp := 8 }.rsvRoute = false ∧
      { pk 1 1 1 with dstEp := 8 }.ptr = { pk 1 1 1 with dstEp := 8 }.hops ∧ { pk 1 1 1 with dstEp := 8 }.dstEp ≠ s.get F.TRN_ID_ENDPOINT ∧
      (pk 0 2 1).hops ≤ 14 ∧ (pk 0 2 1).rsvRoute = false ∧ (pk 0 2 1).ptr < (pk 0 2 1).hops ∧
      mayTurn s 1 (hopOf (pk 0 2 1).path (pk 0 2 1).ptr) ((pk 0 2 1).ptr + 1 == (pk 0 2 1).hops) = false ∧ (pk 0 2 4).hops ≤ 14 ∧ (pk 0 2 4).rsvRoute = false ∧
      (pk 0 2 4).ptr < (pk 0 2 4).hops ∧ mayTurn s 1 (hopOf (pk 0 2 4).path (pk 0 2 4).ptr) ((pk 0 2 4).ptr + 1 == (pk 0 2 4).hops) = true ∧
      portPresent s (hopOf (pk 0 2 4).path (pk 0 2 4).ptr) = true ∧ s.portFenced (hopOf (pk 0 2 4).path (pk 0 2 4).ptr) = false ∧
      s.linkUp (hopOf (pk 0 2 4).path (pk 0 2 4).ptr) = false ∧ (s.flag (F.PORT_CFG_TX_MODE 1) = true ∨ (pk 1 1 1).ptr = (pk 1 1 1).hops) ∧
      s.portFenced 1 = false ∧ quiesced s 1 = false ∧ (s.port 1).ctl = [] ∧ (s.port 1).ptp = [] ∧ (∀ k < 8, (s.port 1).cls k = []) ∧
      (s.port 1).cut = some (fr 3) ∧ (s.port 1).whole = false) ∧
      (∀ (k : Nat) (g : Frame) (gs : List Frame), k < 8 → (s.port 1).cls k = g :: gs → g.len ≤ maxFrame s 1)) ∧
    (let s : State := pS {q := [(2, [fr 2, fr 2]), (1, [fr 1])]}; (s.pst = 3 ∧ 1 < 32 ∧ portPresent s 1 = true ∧ s.linkUp 1 = true ∧ s.ci.load = Loading.none ∧
      s.portFenced 1 = false ∧ quiesced s 1 = false ∧ (s.port 1).ctl = [] ∧ (s.port 1).ptp = [] ∧ 2 < 8 ∧ (s.port 1).cls 2 = [fr 2, fr 2] ∧
      (s.port 1).cut = none ∧ mariOn s = false ∧ bit (pausedMask s 1) 2 = false ∧ shapeRate s 1 2 = 0) ∧
      (∀ (k : Nat) (g : Frame) (gs : List Frame), k < 8 → (s.port 1).cls k = g :: gs → g.len ≤ maxFrame s 1) ∧
      (∀ (k : Nat), 2 < k → k < 8 → (s.port 1).cls k = [])) ∧
    (let s : State := full 2; s.pst = 3 ∧ 1 < 32 ∧ portPresent s 1 = true ∧ s.linkUp 1 = true ∧ s.ci.load = Loading.none ∧ 64 ≤ 100 ∧ 100 ≤ maxFrame s 1 ∧
      (pk 0 2 2).hops ≤ 14 ∧ (pk 0 2 2).rsvRoute = false ∧ (pk 0 2 2).ptr < (pk 0 2 2).hops ∧
      mayTurn s 1 (hopOf (pk 0 2 2).path (pk 0 2 2).ptr) ((pk 0 2 2).ptr + 1 == (pk 0 2 2).hops) = true ∧
      egressOk s (hopOf (pk 0 2 2).path (pk 0 2 2).ptr) = true ∧ bufferSize < (s.port (hopOf (pk 0 2 2).path (pk 0 2 2).ptr)).buffered + frameLen (pk 0 2 2)) ∧
    (qM.pst = 3 ∧ 1 < 32 ∧ portPresent qM 1 = true ∧ qM.linkUp 1 = true ∧ qM.ci.load = Loading.none ∧ 64 ≤ 100 ∧ 100 ≤ maxFrame qM 1 ∧ (pk 0 2 2).hops ≤ 14 ∧
      (pk 0 2 2).rsvRoute = false ∧ (pk 0 2 2).ptr < (pk 0 2 2).hops ∧
      mayTurn qM 1 (hopOf (pk 0 2 2).path (pk 0 2 2).ptr) ((pk 0 2 2).ptr + 1 == (pk 0 2 2).hops) = true ∧
      egressOk qM (hopOf (pk 0 2 2).path (pk 0 2 2).ptr) = true ∧ (qM.port (hopOf (pk 0 2 2).path (pk 0 2 2).ptr)).buffered + frameLen (pk 0 2 2) ≤ bufferSize ∧
      bit (qM.get (F.FAB_MARK_CE_EN (hopOf (pk 0 2 2).path (pk 0 2 2).ptr))) (pk 0 2 2).tc = false) ∧
    (qW.pst = 3 ∧ 1 < 32 ∧ portPresent qW 1 = true ∧ qW.linkUp 1 = true ∧ qW.ci.load = Loading.none ∧ (qW.port 1).wait = [fr 3] ∧
      (qW.port 1).buffered + (fr 3).len ≤ bufferSize ∧ bit (qW.get (F.FAB_MARK_CE_EN 1)) (fr 3).cls = false) := by
  refine ⟨?_, ?_, ?_, ?_, ?_⟩
  · exact ⟨by decide +kernel, heads_fit (by decide +kernel)⟩
  · exact ⟨by decide +kernel, heads_fit (by decide +kernel), between (by decide +kernel)⟩
  · decide +kernel
  · decide +kernel
  · decide +kernel

end Frames

/-! ### The hypotheses of the statements about packets received -/

namespace Receiving

def wE (sync rights gen ctx seg base len : Nat) : Nat := 1 + 2*sync + 2^8*rights + 2^16*gen + 2^24*ctx + 2^32*seg + 2^64*base + 2^128*len
def kE (rights w ctx off len : Nat) : Nat := 1 + 2^8*rights + 2^16*w + 2^32*ctx + 2^64*off + 2^128*len
def rcvW (sync : Nat) : Nat := wE sync 15 7 1 0 (if sync = 1 then 2 else 2048) 5000
def rxS (sync : Nat) (q : Qp) : State :=
  { act with
      sg := { act.sg with segs := [(16, seg0)], wins := [(4, BitVec.ofNat 256 (rcvW sync))], keys := [(6, BitVec.ofNat 256 (kE 15 4 1 0 4000))] }
      ho := { act.ho with quotaEff := [(1, quota1)], cqs := [(0, { ctx := 1, base := 0x9000, log2 := 4, vector := 0, modCount := 1, modNs := 0 })] }
      mem := { act.mem with hbm := cells 0x200800 [1#8,2#8,3#8,4#8,5#8,6#8,7#8,8#8] }
      tr := { act.tr with qps := [(3, q)], rqs := [(64, { log2 := 4, next := 1, recvs := [⟨0, 0x1000, 500, 88, 0, 0, none, 0, none, none⟩] })] }
      sq := { act.sq with opNo := 5 } }.set (F.HOST_PORT_STATUS_LINK 0) 1
def pay (n : Nat) : List Byte := (List.range n).map fun i => BitVec.ofNat 8 (i+9)
def qR : Qp := { qp1 with epsn := 40 }
def wr (n off : Nat) : Packet := { type := 0, dqp := 3, sqp := 0, srcEp := 5, psn := 40, rkey := 6, rgen := 7, roff := off, payload := pay n, pieces := piecesOf (2048 + off) (pay n), last := true }
def at_ (aux : Nat) : Packet := { type := 4, dqp := 3, srcEp := 5, psn := 40, rkey := 6, rgen := 7, roff := 0, aux := aux, payload := toLE 8 (if aux = 1 then 0x0807060504030201 else 0x10) ++ toLE 8 99, last := true }
def rdq (n : Nat) : Packet := { type := 1, dqp := 3, srcEp := 5, psn := 40, rkey := 6, rgen := 7, roff := 0, aux := n-1, last := true }
def sd (n : Nat) : Packet := { type := 3, dqp := 3, srcEp := 5, psn := 40, payload := pay n, pieces := piecesOf 0x1000 (pay n), last := true }
def sg : Packet := { type := 6, dqp := 3, srcEp := 5, psn := 40, rkey := 6, rgen := 7, roff := 1, aux := 3, last := true }
def bad (p : Packet) : State := let s := rxS 0 qR; { s with tr := { s.tr with arrivals := [(.port 1, p)] } }
def w1 : Packet := {wr 20 10 with rgen := 8}
def w2 : Packet := {rdq 40 with rgen := 8}
def w3 : Packet := {at_ 0 with rkey := 5}
def opRd : Op := { d := { desc 0 (dw 9 (2^14*3 + 2^32*(40-1)) 0x1000 0) with post := true }, first := 40, sent := 1 }
def rsp (t n : Nat) : Packet := { type := t, dqp := 3, srcEp := 5, psn := 40, payload := pay n, pieces := piecesOf 0x1000 (pay n), last := true }
def rsS (o : Op) (_p : Packet) : State := let s := rxS 0 { qR with ops := [o], nextPsn := 41, epsn := 77 }; { s with tr := { s.tr with arrivals := [] } }
def fS (epsn : Nat) (l : List (Nat×Nat)) (p : Packet) : State := let s := rxS 1 { qR with epsn := epsn, ackFrom := some (.port 1, p), echo := 5, ackDue := 2, refusals := l }
  let s := { s with tr := { s.tr with fences := [(.port 1, p)] } }
  ((s.setReg (F.PEER_TABLE 0).off 0x80000005).setReg (F.PEER_TABLE 1).off 0)

theorem witness_PacketReception :
    (let s : State := rxS 0 qR; s.pst = 3 ∧ Expected s (Ingress.port 1) (wr 20 10) ∧ 10 = (wr 20 10).roff + (wr 20 10).offset ∧ 20 = (wr 20 10).payload.length ∧
      (wr 20 10).type = 0 ∧ keyCheck s (qpCtx (s.qp (wr 20 10).dqp).e.toNat) (wr 20 10) 10 20 rWrite = (0, rcvW 0) ∧ winAddr s (rcvW 0) 10 = some 2058 ∧
      OneTile s Who.trn rWrite (qpCtx (s.qp (wr 20 10).dqp).e.toNat) s.sq.opNo 2058 20 2099210 ∧ piecesOf 2058 (wr 20 10).payload = (wr 20 10).pieces) ∧
    (let s : State := rxS 0 qR; s.pst = 3 ∧ Expected s (Ingress.port 1) (at_ 0) ∧ 0 = (at_ 0).roff ∧ (at_ 0).type = 4 ∧
      keyCheck s (qpCtx (s.qp (at_ 0).dqp).e.toNat) (at_ 0) 0 8 rAtomic = (0, rcvW 0) ∧ winAddr s (rcvW 0) 0 = some 2048 ∧
      OneTile s Who.trn rAtomic (qpCtx (s.qp (at_ 0).dqp).e.toNat) s.sq.opNo 2048 8 2099200) ∧
    (let s : State := rxS 0 qR; s.pst = 3 ∧ Expected s (Ingress.port 1) (rdq 40) ∧ 0 = (rdq 40).roff ∧ (rdq 40).type = 1 ∧ (rdq 40).offset = 0 ∧
      40 = (rdq 40).aux % 2 ^ 30 + 1 ∧ 40 ≤ 8192 ∧ keyCheck s (qpCtx (s.qp (rdq 40).dqp).e.toNat) (rdq 40) 0 40 rRead = (0, rcvW 0) ∧
      winAddr s (rcvW 0) 0 = some 2048 ∧ OneTile s Who.trn rRead (qpCtx (s.qp (rdq 40).dqp).e.toNat) s.sq.opNo 2048 40 2099200) ∧
    (let s : State := rxS 0 qR; s.pst = 3 ∧ Expected s (Ingress.port 1) (sd 40) ∧ (sd 40).type = 3 ∧ (sd 40).abort = false ∧ (sd 40).offset = 0 ∧
      (sd 40).last = true ∧ 40 = (sd 40).payload.length ∧ findRecv s (s.qp (sd 40).dqp) (sd 40).ssn = some { ssn := 0, buf := 4096, len := 500, tag := 88 } ∧
      smFind s.tr.rqs (rqOf (s.qp (sd 40).dqp)) = some { log2 := 4, next := 1, recvs := [{ ssn := 0, buf := 4096, len := 500, tag := 88 }] } ∧
      ({ ssn := 0, buf := 4096, len := 500, tag := 88 } : Recv).donePk = 0 ∧ ({ ssn := 0, buf := 4096, len := 500, tag := 88 } : Recv).bad = none ∧
      ({ ssn := 0, buf := 4096, len := 500, tag := 88 } : Recv).abort = none ∧ ({ ssn := 0, buf := 4096, len := 500, tag := 88 } : Recv).bytes = 0 ∧
      40 ≤ ({ ssn := 0, buf := 4096, len := 500, tag := 88 } : Recv).len ∧
      OneTile s Who.trn rWrite (qpCtx (s.qp (sd 40).dqp).e.toNat) s.sq.opNo ({ ssn := 0, buf := 4096, len := 500, tag := 88 } : Recv).buf 40 2101248 ∧
      piecesOf ({ ssn := 0, buf := 4096, len := 500, tag := 88 } : Recv).buf (sd 40).payload = (sd 40).pieces) ∧
    (let s : State := rxS 1 qR; s.pst = 3 ∧ Expected s (Ingress.port 1) sg ∧ 1 = sg.roff ∧ sg.type = 6 ∧
      keyCheck s (qpCtx (s.qp sg.dqp).e.toNat) sg 1 1 rAtomic = (0, rcvW 1) ∧ winSync (rcvW 1) = true) ∧
    ((rxS 0 qR).pst = 3 ∧ Expected (rxS 0 qR) (Ingress.port 1) w1 ∧ (w1.type = 0 ∧ 10 = w1.roff + w1.offset ∧ 20 = w1.payload.length) ∧
      keyCheck (rxS 0 qR) (qpCtx ((rxS 0 qR).qp w1.dqp).e.toNat) w1 10 20 rWrite = (17, 0) ∧ 17 ≠ 0 ∧ ((rxS 0 qR).qp w1.dqp).refusals = []) := by
  simp only [expected_iff, arrives_iff, oneTile_iff]
  refine ⟨?_, ?_, ?_, ?_, ?_, ?_⟩ <;> decide +kernel

theorem witness_ResponsesAndAcks :
    (let s : State := fS 40 [] sg; s.pst = 3 ∧ s.tr.fences = [(Ingress.port 1, sg)] ∧ ((s.qp sg.dqp).st = 2 ∨ (s.qp sg.dqp).st = 3) ∧ sg.type = 6 ∧
      keyCheck s (qpCtx (s.qp sg.dqp).e.toNat) sg sg.roff 1 rAtomic = (0, rcvW 1) ∧ winSync (rcvW 1) = true ∧ fenceOpen (s.qp sg.dqp) sg = true ∧
      (s.qp sg.dqp).ackFrom = some (Ingress.port 1, sg) ∧ wayTo s (qpRemoteEp (s.qp sg.dqp).e.toNat) (npathOf (s.qp sg.dqp).e.toNat) 0 = Way.peer 0) ∧
    (let s : State := rsS opRd (rsp 2 40); s.pst = 3 ∧ ((rsp 2 40).type = 2 ∧ dKind opRd.d.w = 9) ∧ Arrives s (Ingress.port 1) (rsp 2 40) ∧
      (s.qp (rsp 2 40).dqp).ops = [opRd] ∧ opRd.code = none ∧ opRd.told = false ∧ opRd.got = [] ∧ opRd.sent = 1 ∧ opRd.first = (rsp 2 40).psn ∧
      (rsp 2 40).psn < 2 ^ 24 ∧ opRd.abort = none ∧ (rsp 2 40).offset = 0 ∧ (rsp 2 40).payload.length = opLen opRd.d.w ∧
      OneTile s Who.trn rWrite (dCtx opRd.d.w) opRd.d.no (dLocal opRd.d.w) (rsp 2 40).payload.length 2101248 ∧
      piecesOf (dLocal opRd.d.w) (rsp 2 40).payload = (rsp 2 40).pieces) := by
  simp only [arrives_iff, oneTile_iff]
  refine ⟨?_, ?_⟩ <;> decide +kernel

end Receiving

/-! ### The hypotheses of the statements about links, pauses and bays -/

namespace Links

def pk (ptr hops path : Nat) (n : Nat := 20) : Packet := { type := 0, dqp := 3, srcEp := 5, dstEp := 9, psn := 40, hops := hops, ptr := ptr, path := path, tc := 2, payload := List.replicate n 7#8, pieces := [0#64] }
def swS (f : State → State) : State := f (((((act.set F.TRN_ID_ENDPOINT 9).set (F.PORT_STATUS_LINK 1) 1).set (F.PORT_STATUS_LINK 2) 1).set (F.PORT_STATUS_LINK 16) 1).set (F.PORT_CFG_MAXF 1) 9000)
def fr (c : Nat) : Frame := ⟨c, 100, pk 1 2 0, true, 2⟩
def pS (p : Port) : State := swS fun s => { s with fb := { s.fb with ports := [(1, p)] } }
def q (m : Nat) (llp pfc xoff : Nat) : State := (((pS {q := [(2, [fr 2])], pfc := pfc, llp := llp, xoff := xoff}).set (F.MAC_PAUSE_CTL_WD_MS 1) 1).set (F.MAC_PAUSE_CTL_RX_LLP_EN 1) m).set (F.MAC_PAUSE_CTL_RX_PFC_EN 1) 0xFB
def life (seq pw wt rem : Nat) : List Byte := lifeCopy seq pw wt rem
def cart (cls : Nat) (hours : Nat) : Cartridge := { readable := true, record := slice (toLE 4 0x5452434C ++ toLE 2 1 ++ toLE 2 cls ++ toLE 8 77 ++ toLE 4 5 ++ toLE 4 hours) 0 256, signature := [], lifeA := life 5 10 2560 50, lifeB := life 6 11 2561 49 }
def bS (st latch : Nat) (b : Bay) : State := (((swS id).setBay 0 b).set (F.LB_STATUS_STATE 0) st).set (F.LB_STATUS_LATCH 0) latch

theorem witness_LinksAndPauses :
    (let s : State := pS {q := [(2, [fr 2, fr 2]), (1, [fr 1])], pfc := 4, cut := some (fr 2)}; s.pst = 3 ∧ s.fnHeld 0 = false ∧ 1 < 32 ∧
      portPresent s 1 = true ∧ s.linkUp 1 = true ∧ bit (4#32).toNat 2 = true ∧
      (if 1 < 16 then bits (4#32).toNat 0 2 % 3 else 0) = s.get (F.PORT_CFG_WIDTH 1) % 3 ∧ bit (0#32).toNat 2 = false ∧
      s.flag (F.MAC_PAUSE_CTL_RX_LLP_EN 1) = true ∧ 1 ≠ 0 ∧ 0 < 8 ∧ 2 < 8 ∧ watchdogOn s 1 = true ∧ bit (pausedMask s 1) 2 = true) ∧
    (let s : State := (swS id).set (F.LB_STATUS_STATE 0) 2; s.pst = 3 ∧ s.fnHeld 0 = false ∧ 0 < 32 ∧ portPresent s 0 = true ∧ mayTrain s 0 = true ∧
      s.linkUp 0 = false) ∧
    (let s : State := (q 0 0 0x11 4).set (F.FAB_PFC_XOFF_KIB 2) 0; s.pst = 3 ∧ s.fnHeld 0 = false ∧ 1 < 32 ∧ portPresent s 1 = true ∧ s.linkUp 1 = true ∧
      s.flag (F.MAC_PAUSE_CTL_RX_LLP_EN 1) = false) ∧
    (let s : State := let s := ((q 0 0 0x11 0).set (F.FAB_PFC_XOFF_KIB 2) 0); { s.setPort 2 {xoff := 4} with out := [] }; s.pst = 3 ∧ s.fnHeld 0 = false ∧
      2 < 32 ∧ portPresent s 2 = true ∧ 2 < 8 ∧ s.linkUp 2 = true ∧ quiesced s 2 = false ∧ (s.port 2).cut = none ∧ bit (s.port 2).xoff 2 = true ∧
      xoffBytes s 2 < fromIngress s 2 2) := by
  refine ⟨?_, ?_, ?_, ?_⟩ <;> decide +kernel

theorem witness_Bays :
    (let s : State := bS 2 1 { cart := some (cart 0 0), minutes := 10, quiescing := true }; s.pst = 3 ∧ s.fnHeld 0 = false ∧ 0 < nBay s ∧
      s.get (F.LB_STATUS_STATE 0) = 2 ∧ (s.bay 0).quiescing = true ∧ lasersOn s 0 = true ∧ (s.bay 0).cart = some (cart 0 0) ∧ 10 ≤ (s.bay 0).minutes) ∧
    (let s : State := bS 1 1 { }; s.pst = 3 ∧ s.fnHeld 0 = false ∧ 0 < nBay s ∧ s.get (F.LB_STATUS_STATE 0) ≠ 2 ∧ s.get (F.LB_STATUS_STATE 0) = 1 ∧
      s.flag (F.LB_STATUS_LATCH 0) = true ∧ (¬({ cart 0 10000 with readable := false }.readable = true ∧
      cartMagic { cart 0 10000 with readable := false } = 1414677324 ∧ cartVersion { cart 0 10000 with readable := false } = 1)) ∧
      ((cart 0 10000).readable = true ∧ cartMagic (cart 0 10000) = 1414677324 ∧ cartVersion (cart 0 10000) = 1)) ∧
    (let s : State := bS 0 0 { }; s.pst = 3 ∧ s.fnHeld 0 = false ∧ 0 < nBay s ∧ s.flag (F.LB_STATUS_LATCH 0) = false) := by
  refine ⟨?_, ?_, ?_⟩ <;> decide +kernel

end Links

/-! ### The hypotheses of the statements about rails and Bring-up -/

namespace BringUp

def st (n : Nat) (f : State → State := id) : State := f (State.reset.set F.PWR_STATE_STATE n)
def unheld (s : State) : State := { s with pw := { s.pw with held := false } }
def br (c : Nat) (f : State → State := id) : State := f ((unheld (st 2)).set F.BRUP_PROGRESS_CODE c)
def sOff : State := { State.reset with pw := { State.reset.pw with vaux := false, v54 := false } }.set F.PWR_STATE_STATE 0
def sHeld : State := { st 1 with pw := { (st 1).pw with v54 := false } }

theorem witness_RailsAndBringUp :
    (let s : State := br 0x20; 2 ≤ s.get F.PWR_STATE_STATE ∧ s.pst ≠ 0 ∧ inStage s = true ∧ s.brCode ≠ 64 ∧ s.brCode ≠ 96 ∧ s.brCode = 32 ∧ 0 < nEng s) ∧
    (let s : State := st 1; s.get F.PWR_STATE_STATE = 1 ∧ s.pw.held = true ∧ s.pst ≠ 0 ∧ s.pw.v54 = true) ∧
    (let s : State := br 0x40; inStage s = true ∧ s.brCode = 64 ∧ s.flag F.BRUP_PROGRESS_FW_FALLBACK = false) ∧
    (let s : State := br 0x70; s.pst = 2 ∧ s.brCode = 112 ∧ 0 < 4 ∧ 2 ≤ s.pst) ∧
    (let s : State := st 1 unheld; s.get F.PWR_STATE_STATE = 1 ∧ s.pw.held = false) ∧
    (let s : State := st 3 unheld; 0 < 4 ∧ s.pst = 3) ∧
    (let s : State := br 0x40 (·.set F.BRUP_PROGRESS_FW_FALLBACK 1); inStage s = true ∧ s.brCode = 64 ∧ s.flag F.BRUP_PROGRESS_FW_FALLBACK = true) ∧
    (sOff.pst = 0) ∧
    (sOff.pst = 0) ∧
    (sHeld.pw.held = true ∧ sHeld.pst ≠ 0 ∧ sHeld.pw.v54 = false) := by
  refine ⟨?_, ?_, ?_, ?_, ?_, ?_, ?_, ?_, ?_, ?_⟩ <;> decide +kernel

end BringUp

/-! ### The hypotheses of the statements about Rest and mode changes -/

namespace Modes

def chg (k : ModeKind) (asked : Bool) (a p arm : Nat) : State := {act with tk := {act.tk with change := some ⟨k, a, asked, arm, p⟩}}
def rst (x : Option Nat) : State := let s := act.set F.PWR_STATE_STATE 4; {s with pw := {s.pw with restExit := x}}
def mtS (l : Nat) : State := {act with tk := {act.tk with locked := true, bank := [(0, 2^23+2^24+2^26+2^10*5), (1, 1 + 2^8*3+2^20*2), (2, 2), (3, 0x0F30), (4, 2^23+2^24+2^10*5), (5, 1 + 2^8*4)], cap := 2000}}.setReg F.MARI_CTL.off l
def capS (be : Nat) : State := let s := (((act.set F.PWR_CAP_ENABLE 1).set F.PWR_CAP_LIMIT_W 50).set F.PWR_THERM_HARD_C 110).set F.PWR_STATE_BE_SHARE be; {s with pw := {s.pw with capTicks := 100000}}

theorem witness_RestAndModes :
    (let s : State := chg (.cmd (some 8) true) true 0 0 0; 2 ≤ s.pst ∧ s.pst ≠ 5 ∧ s.pst = 3 ∧ s.fnHeld 0 = false ∧ restDraining s = false ∧
      anyResident s = false ∧ modePending s = true ∧ modeCheck s true = some 2 ∧
      s.tk.change = some { kind := ModeKind.cmd (some 8) true, armAt := 0, asked := true, armed := 0, postponed := 0 } ∧
      ({ kind := ModeKind.cmd (some 8) true, armAt := 0, asked := true, armed := 0, postponed := 0 } : ModeChange).asked = true ∧
      ({ kind := ModeKind.cmd (some 8) true, armAt := 0, asked := true, armed := 0, postponed := 0 } : ModeChange).armAt + ({ kind := ModeKind.cmd (some 8) true, armAt := 0, asked := true, armed := 0, postponed := 0 } : ModeChange).postponed ≤ s.tk.count ∧
      notArmed s (({ kind := ModeKind.cmd (some 8) true, armAt := 0, asked := true, armed := 0, postponed := 0 } : ModeChange).armed ||| (4294967295#32).toNat) = 0 ∧
      ({ kind := ModeKind.cmd (some 8) true, armAt := 0, asked := true, armed := 0, postponed := 0 } : ModeChange).kind = ModeKind.cmd (some 8) true ∧
      notArmed s (({ kind := ModeKind.cmd (some 8) true, armAt := 0, asked := true, armed := 0, postponed := 0 } : ModeChange).armed ||| (0#32).toNat) ≠ 0 ∧
      ({ kind := ModeKind.cmd (some 8) true, armAt := 0, asked := true, armed := 0, postponed := 0 } : ModeChange).postponed < 8 ∧ s.pw.held = false ∧
      (s.pst = 3 ∨ s.pst = 4) ∧ bits (28245#32).toNat 0 8 < bits (28245#32).toNat 8 8 ∧ bits (28245#32).toNat 8 8 ≤ 110) ∧
    (let s : State := rst (some 5); s.pst = 4 ∧ s.fnHeld 0 = false ∧ s.pw.restExit = some 5 ∧ 1 < 30 ∧ bit (notArmed s 5) 1 = true) ∧
    (let s : State := (mtS 0).set F.MARI_CTL_ENABLE 1; s.pst = 3 ∧ s.fnHeld 0 = false ∧ anyResident s = false ∧ modePending s = false ∧
      modeCheck s true = none ∧ mayFire s 0 = true) ∧
    (let s : State := {act with pw := {act.pw with drain := .rest 0}}; s.pst = 3 ∧ s.pw.drain = Drain.rest 0 ∧ trackerEmpty s = true) ∧
    (let s : State := {act with pw := {act.pw with drain := .rest 0}, sq := {act.sq with trk := [(3,1,0)]}}; s.pst = 3 ∧ s.pw.drain = Drain.rest 0 ∧
      trackerEmpty s = false ∧ 0 ≤ s.tk.count ∧ s.pw.launches = []) ∧
    (let s : State := chg (.cmd (some 8) true) false 1 0 0; s.pst = 3 ∧
      s.tk.change = some { kind := ModeKind.cmd (some 8) true, armAt := 1, asked := false, armed := 0, postponed := 0 } ∧
      ({ kind := ModeKind.cmd (some 8) true, armAt := 1, asked := false, armed := 0, postponed := 0 } : ModeChange).asked = false ∧
      ({ kind := ModeKind.cmd (some 8) true, armAt := 1, asked := false, armed := 0, postponed := 0 } : ModeChange).armAt ≤ s.tk.count + 1) ∧
    (let s : State := {chg (.cmd none true) true 0 8 0 with tk := {(chg (.cmd none true) true 0 8 0).tk with count := 9}}; s.pst = 3 ∧
      s.tk.change = some { kind := ModeKind.cmd none true, armAt := 0, asked := true, armed := 0, postponed := 8 } ∧
      ({ kind := ModeKind.cmd none true, armAt := 0, asked := true, armed := 0, postponed := 8 } : ModeChange).asked = true ∧
      ({ kind := ModeKind.cmd none true, armAt := 0, asked := true, armed := 0, postponed := 8 } : ModeChange).armAt + ({ kind := ModeKind.cmd none true, armAt := 0, asked := true, armed := 0, postponed := 8 } : ModeChange).postponed ≤ s.tk.count ∧
      notArmed s (({ kind := ModeKind.cmd none true, armAt := 0, asked := true, armed := 0, postponed := 8 } : ModeChange).armed ||| (0#32).toNat) ≠ 0 ∧
      8 ≤ ({ kind := ModeKind.cmd none true, armAt := 0, asked := true, armed := 0, postponed := 8 } : ModeChange).postponed ∧
      ({ kind := ModeKind.cmd none true, armAt := 0, asked := true, armed := 0, postponed := 8 } : ModeChange).kind = ModeKind.cmd none true) ∧
    (let s : State := chg .rest true 0 0 0x3FFFFFFF; s.pst = 3 ∧
      s.tk.change = some { kind := ModeKind.rest, armAt := 0, asked := true, armed := 1073741823, postponed := 0 } ∧
      ({ kind := ModeKind.rest, armAt := 0, asked := true, armed := 1073741823, postponed := 0 } : ModeChange).asked = true ∧
      ({ kind := ModeKind.rest, armAt := 0, asked := true, armed := 1073741823, postponed := 0 } : ModeChange).armAt + ({ kind := ModeKind.rest, armAt := 0, asked := true, armed := 1073741823, postponed := 0 } : ModeChange).postponed ≤ s.tk.count ∧
      notArmed s (({ kind := ModeKind.rest, armAt := 0, asked := true, armed := 1073741823, postponed := 0 } : ModeChange).armed ||| (0#32).toNat) = 0 ∧
      ({ kind := ModeKind.rest, armAt := 0, asked := true, armed := 1073741823, postponed := 0 } : ModeChange).kind = ModeKind.rest) ∧
    (let s : State := seqSt (.halt th) x0; s.pst = 3 ∧ s.fnHeld 0 = false ∧ restDraining s = false ∧ anyResident s = true) ∧
    (let s : State := rst none; s.pst = 4 ∧ s.fnHeld 0 = false ∧ s.pw.restExit = none) ∧
    (let s : State := rst (some 0x3FFFFFFF); s.pst = 4 ∧ s.pw.restExit = some 1073741823 ∧ notArmed s 1073741823 = 0 ∧ s.pw.launches = []) ∧
    (let s : State := capS 50; (s.pst = 3 ∨ s.pst = 4) ∧ capTicks s ≤ s.pw.capTicks + 1) := by
  refine ⟨?_, ?_, ?_, ?_, ?_, ?_, ?_, ?_, ?_, ?_, ?_, ?_⟩ <;> decide +kernel

end Modes

/-! ### The hypotheses of the statements about the time base -/

namespace Clock

def ds (p : Nat) : Dataset := ⟨p, 6, 0x20, 5, 128, 77#64, 0, 99#64⟩
def tbS (gm mode parent lock good : Nat) (f : Tick → Tick := id) : State :=
  let s := ((((((act.set (F.PORT_STATUS_LINK 1) 1).set F.TIME_CTL_PTP_EN 1).set F.TIME_CTL_GM_CAPABLE gm).set F.TIME_CTL_PPS_MODE mode).set F.TIME_STATUS_PARENT parent).set F.TIME_STATUS_LOCK lock)
  { s with tk := f { s.tk with goodSync := good } }

theorem witness_TimeBase :
    (let s : State := tbS 0 0 1 1 0; s.pst = 3 ∧ ptpOn s 1 = true ∧ 1 < 16 ∧ s.get F.TIME_STATUS_PARENT = 1 ∧ Int.natAbs 0 ≤ 25 ∧ s.get F.TIME_STATUS_LOCK = 1 ∧
      s.tk.goodSync < 63 ∧ 25 < Int.natAbs 26 ∧ Int.natAbs 26 ≤ 1000 ∧ 1000 < Int.natAbs 1001 ∧ 1 ≠ s.get F.TIME_CTL_DOMAIN ∧ 0 = s.get F.TIME_CTL_DOMAIN ∧
      quiesced s 1 = false ∧ (s.port 1).cut = none ∧ portMaster s 1 = true ∧ s.get F.TIME_STATUS_PARENT ≠ 31) ∧
    (let s : State := tbS 0 2 31 0 0 fun t => { t with foreign := [(1, ds 0), (2, ds 1)], ppsLast := some 900 }; s.pst = 3 ∧ ptpOn s 1 = true ∧ 1 < 16 ∧
      s.get F.TIME_STATUS_PARENT ≠ 1 ∧ portMaster s 1 = false ∧ (s.get F.TIME_CTL_PPS_MODE = 1 ∨ s.get F.TIME_CTL_PPS_MODE = 2) ∧
      (¬∀ (l : Int), s.tk.ppsLast = some l → l + 500000000 ≤ ↑(1000#64).toNat)) ∧
    (let s : State := tbS 0 0 1 1 63; s.pst = 3 ∧ ptpOn s 1 = true ∧ 1 < 16 ∧ s.get F.TIME_STATUS_PARENT = 1 ∧ Int.natAbs 0 ≤ 25 ∧
      s.get F.TIME_STATUS_LOCK = 1 ∧ 63 ≤ s.tk.goodSync) ∧
    (let s : State := tbS 0 0 1 0 9; s.pst = 3 ∧ ptpOn s 1 = true ∧ 1 < 16 ∧ s.get F.TIME_STATUS_PARENT = 1 ∧ Int.natAbs 0 ≤ 25 ∧
      (s.get F.TIME_STATUS_LOCK = 0 ∨ s.get F.TIME_STATUS_LOCK = 3)) ∧
    (let s : State := (tbS 0 1 31 0 0 fun t => { t with ppsLast := some 900 }); s.pst = 3 ∧ s.get F.TIME_CTL_PPS_MODE = 1 ∧
      (∀ (l : Int), s.tk.ppsLast = some l → l + 500000000 ≤ ↑(2000000000#64).toNat)) ∧
    (let s : State := (((tbS 1 2 31 0 0 fun t => { t with ppsSet := true }).set F.TIME_STATUS_GM 0).setReg F.TIME_SET_S_LO.off 2); s.pst = 3 ∧
      s.get F.TIME_CTL_PPS_MODE = 2 ∧ (∀ (l : Int), s.tk.ppsLast = some l → l + 500000000 ≤ ↑(1000#64).toNat) ∧ s.tk.ppsSet = true) ∧
    (let s : State := (tbS 1 2 31 2 0 fun t => { t with ppsOn := true }).set F.TIME_STATUS_GM 1; s.pst = 3 ∧ s.flag F.TIME_STATUS_GM = true ∧
      s.get F.TIME_CTL_PPS_MODE = 2 ∧ s.tk.ppsOn = true) ∧
    (let s : State := (tbS 0 0 1 1 0).setPort 1 {cut := some ⟨0, 100, {}, true, 2⟩}; s.pst = 3 ∧ ptpOn s 1 = true ∧ (s.port 1).cut.isSome = true ∧
      quiesced s 1 = false) := by
  refine ⟨?_, ?_, ?_, ?_, ?_, ?_, ?_, ?_⟩ <;> decide +kernel

end Clock

/-! ### The hypotheses of the statements about faults and snapshots -/

namespace Faults

def rea (src r : Nat) : State := act.set (F.FCOL_CFG_REACTION src) r
def cj (f : Fcol → Fcol) (s : State := act) : State := { s with fc := f s.fc }
def cnts (s : State) : State := ((((s.count (F.SEQ_ISSUED 0) 5).count (F.TRN_TX_PKTS) 7).count (F.LINK_DOWNS 1) 3).count F.PPS_IGNORED 2)
def vU : State := act.set F.FCOL_FORCE_UNIT_UNIT 200

theorem witness_FaultCollector :
    (let s : State := ((rea 20 1).set (F.FCOL_EVT_ACTIVE 20) 1).set (F.FCOL_EVT_SEQ 20) 4; s.pst = 3 ∧ eventValid s 20 1 = true ∧ 20 ≠ 16 ∧ 20 ≠ 17 ∧ 20 < 64 ∧
      s.flag (F.FCOL_EVT_ACTIVE 20) = true ∧ 1 < nEng s ∧ s.fnHeld 0 = false ∧ 4 ≠ 0 ∧ s.get (F.FCOL_EVT_SEQ 20) = 4 ∧ (0 = 0 ∨ s.get (F.FCOL_EVT_SEQ 20) ≠ 0) ∧
      (1048576#32).toNat + 2 ^ 32 * (0#32).toNat = 2 ^ 20 ∧ eventValid s 20 (if hasUnit 20 = true then s.get F.FCOL_FORCE_UNIT_UNIT else 0) = true ∧
      unfenceUnit s 0 1 = none ∧ unfenceUnit s 5 1 = some (FUnit.bay 1) ∧ unfenceCheck s (FUnit.bay 1) = some 2) ∧
    (let s : State := rea 16 1; s.pst = 3 ∧ (16 = 16 ∨ 16 = 17) ∧ eventValid s 16 0 = true ∧ s.flag (strikeField 16 0) = false) ∧
    (let s : State := fenceUnit act (.engine 2); s.pst = 3 ∧ s.fnHeld 0 = false ∧ unfenceUnit s 1 2 = some (FUnit.engine 2) ∧
      unfenceCheck s (FUnit.engine 2) = none) ∧
    (let s : State := cj (fun f => { f with unfence := some (.port 2) }) (fenceUnit act (.port 2)); (s.pst = 3 ∧ s.fc.unfence = some (FUnit.port 2)) ∧
      (∀ (d : Nat), FUnit.port 2 ≠ FUnit.domain d)) ∧
    (let s : State := cj (fun f => { f with unfence := some (.domain 2) }) (fenceUnit act (.domain 2)); s.pst = 3 ∧ s.fc.unfence = some (FUnit.domain 2)) ∧
    (let s : State := cj (fun f => { f with refilling := some 2 }) (fenceUnit act (.domain 2)); s.pst = 3 ∧ s.fc.refilling = some 2) ∧
    (vU.pst = 3 ∧ vU.fnHeld 0 = false ∧ 20 < 64 ∧ 20 ≠ 16 ∧ 20 ≠ 17 ∧ (1048576#32).toNat + 2 ^ 32 * (0#32).toNat = 2 ^ 20 ∧
      eventValid vU 20 (if hasUnit 20 = true then vU.get F.FCOL_FORCE_UNIT_UNIT else 0) = false) := by
  refine ⟨?_, ?_, ?_, ?_, ?_, ?_, ?_⟩
  · decide +kernel
  · decide +kernel
  · decide +kernel
  · exact ⟨by decide +kernel, (fun d h => nomatch h)⟩
  · decide +kernel
  · decide +kernel
  · decide +kernel

theorem witness_SnapshotsAndWrites :
    (let s : State := cnts act; s.pst = 3 ∧ s.fnHeld 0 = false ∧ 0 < 256 ∧ snapScope s 0 = true) ∧
    (let s : State := cnts act; s.pst = 3 ∧ s.fnHeld 0 = false ∧ 255 < 256 ∧ snapScope s 255 = false) ∧
    (let s : State := ((act.set F.PWR_EVENT_SEQ 4).set (F.PORT_STATUS_SEQ 1) 7); s.pst = 3 ∧ s.fnHeld ((fnCtx (sqcField SqcReg.pwrEvent).off).getD 0) = false ∧
      sqcPresent s SqcReg.pwrEvent = true ∧ 4 ≠ 0 ∧ s.get (sqcField SqcReg.pwrEvent) = 4) ∧
    (let s : State := ((act.set F.PWR_EVENT_SEQ 4).set (F.PORT_STATUS_SEQ 1) 7); s.pst = 3 ∧ s.fnHeld ((fnCtx (sqcField SqcReg.pwrEvent).off).getD 0) = false ∧
      sqcPresent s SqcReg.pwrEvent = true ∧ (5 = 0 ∨ s.get (sqcField SqcReg.pwrEvent) ≠ 5)) := by
  refine ⟨?_, ?_, ?_, ?_⟩ <;> decide +kernel

end Faults

/-! ### The hypotheses of the statements about unfences -/

namespace Unfences

theorem witness_SnapshotsAndWrites_more :
    (act.fnHeld ((fnCtx 3207168).getD 0) = false ∧ act.pst = 3 ∧ 3145728 ≤ 3207168 ∧ 3207168 < 4194304 ∧
      (3207168 % 4 ≠ 0 ∨ regRow 3207168 = none ∨ slotPresent act 3207168 = false)) ∧
    (let s : State := act.set F.PWR_STATE_STATE 2; s.fnHeld ((fnCtx 3145731).getD 0) = false ∧ s.pst = 2) ∧
    (act.fnHeld ((fnCtx 3145728).getD 0) = false ∧ act.pst = 3 ∧ 3145728 ≤ 3145728 ∧ 3145728 < 4194304 ∧ 3145728 % 4 = 0 ∧
      regRow 3145728 = some ({ base := 3145728, stride1 := 0, cnt1 := 1, stride2 := 0, cnt2 := 1, rw := 0, rwk := 4160807136, reset := 0 }, 0, 0) ∧
      sqcAt 3145728 = none ∧ slotPresent act 3145728 = true) := by
  refine ⟨?_, ?_, ?_⟩ <;> decide +kernel

end Unfences

/-! ### The hypotheses of the statements about submission queues -/

namespace Queues

def ctx1 (s : State) : State := (s.set (F.HOST_CTX_MAP_STATE 1) 1).set (F.HOST_PORT_STATUS_LINK 0) 1
def cqv : Cq := { ctx := 1, base := 0x9000, log2 := 4, vector := 0, modCount := 1, modNs := 0 }
def sqS (x : Sq) (f : State → State := id) : State :=
  let s := ctx1 { act with
      sg := { act.sg with segs := [(16, seg0)] }
      ho := { act.ho with quotaEff := [(1, quota1)], cqs := [(5, cqv)], sqs := [(sqKey 1 2, x)] }
      tr := { act.tr with qps := [(3, qp1)], rqs := [(64, { log2 := 4, next := 1, recvs := [⟨0, 0x1000, 500, 88, 0, 0, none, 0, none, none⟩] })] }
      sq := { act.sq with opNo := 5, trk := [(4, 1, 0)] } }
  f ((((((s.set (F.SQ_CFG_ENABLE 1 2) 1).set (F.SQ_CFG_LOG2SIZE 1 2) 4).set (F.SQ_CQ_CQ 1 2) 5).set (F.SQ_STATUS_STATE 1 2) 1).setReg (F.SQ_BASE_LO 1 2).off 0x10000))
def mkE (s : State) (b : List Byte) : List Byte :=
  let e := slice b 0 64
  let e := splice e 1 (toLE 1 ((s.sqd 18).f / sqSize s 18 % 255 + 1))
  splice e 2 (toLE 2 (crc16 (splice e 2 [0#8, 0#8])))
def eTr (op : Nat) : List Byte := toLE 1 op ++ slice [] 0 3 ++ toLE 4 77 ++ slice [] 0 24 ++ toLE 32 (dw op (2^14*3 + 2^32*99) 0x800 0)
def eLn : List Byte := toLE 1 0x10 ++ slice [] 0 3 ++ toLE 4 77 ++ toLE 8 0 ++ toLE 2 8 ++ toLE 1 0 ++ toLE 1 1 ++ toLE 2 5
def eCt (op blk w : Nat) : List Byte := toLE 1 0x20 ++ slice [] 0 3 ++ toLE 4 77 ++ toLE 1 blk ++ toLE 1 op ++ slice [] 0 2 ++ toLE 4 w
def eRq (rq buf len : Nat) : List Byte := toLE 1 0x30 ++ slice [] 0 3 ++ toLE 4 78 ++ toLE 1 rq ++ slice [] 0 7 ++ toLE 8 buf ++ toLE 4 len
def s0 := sqS {f := 3, prod := 3}
def hs (e : List Byte) (no : Option Nat) : State := sqS {f := 3, prod := 5, held := some (mkE s0 e, no)}
def lnS : State := let s := hs eLn (some 4); { s with mem := { s.mem with hbm := cells 0x200000 (hdr 0 0) } }
def lnV := (readImage (sqStart lnS 18) (sqLaunch 1 (mkE s0 eLn)) 4 256)
def lnL := (parseHeader lnV.2.2 (sqLaunch 1 (mkE s0 eLn)) 4).getD launch1

theorem witness_SubmissionQueues :
    (let s : State := hs (eTr 8) (some 4); s.pst = 3 ∧ 1 < 256 ∧ 2 < 15 ∧ s.fnHeld 1 = false ∧ ctxMapped s 1 = true ∧ sqEnabled s (sqKey 1 2) = true ∧
      sqLoc s (sqKey 1 2) = false ∧ (3 % 65536 + 65536 - (s.sqd (sqKey 1 2)).f % 65536) % 65536 = 0 ∧
      sqSize s (sqKey 1 2) < (0 % 65536 + 65536 - (s.sqd (sqKey 1 2)).f % 65536) % 65536 ∧ 0 < (4 % 65536 + 65536 - (s.sqd (sqKey 1 2)).f % 65536) % 65536 ∧
      (4 % 65536 + 65536 - (s.sqd (sqKey 1 2)).f % 65536) % 65536 ≤ sqSize s (sqKey 1 2) ∧ s.get (F.SQ_STATUS_STATE 1 2) ≠ 2 ∧
      (s.sqd (sqKey 1 2)).held = some (mkE s0 (eTr 8), some 4) ∧ sqRunning s (sqKey 1 2) = true ∧ workHeld s = false ∧ smFind s.ho.frozen 1 = none ∧
      8 ≤ sqOpcode (mkE s0 (eTr 8)) ∧ sqOpcode (mkE s0 (eTr 8)) ≤ 12 ∧ fieldLE (mkE s0 (eTr 8)) 8 24 = 0 ∧
      fieldLE (mkE s0 (eTr 8)) 32 1 % 16 = sqOpcode (mkE s0 (eTr 8)) ∧ qpFull s (sqDesc s 1 2 4 (mkE s0 (eTr 8))).2.w = false ∧
      s.ownsQp 1 (dQp (sqDesc s 1 2 4 (mkE s0 (eTr 8))).2.w) = true ∧ (s.qp (dQp (sqDesc s 1 2 4 (mkE s0 (eTr 8))).2.w)).st = 3 ∧
      qpEnc (s.qp (dQp (sqDesc s 1 2 4 (mkE s0 (eTr 8))).2.w)).e.toNat = false ∧ localOk s (sqDesc s 1 2 4 (mkE s0 (eTr 8))).2 = true ∧
      (sqOpcode (mkE s0 (eTr 8)) = 11 → dRoff (sqDesc s 1 2 4 (mkE s0 (eTr 8))).2.w % 8 = 0) ∧
      (∀ z ∈ (s.qp (dQp (sqDesc s 1 2 4 (mkE s0 (eTr 8))).2.w)).ops, z.code = none ∧ z.told = false) ∧
      (anyWaits (s.qp (dQp (sqDesc s 1 2 4 (mkE s0 (eTr 8))).2.w)) = true ∨ (s.qp (dQp (sqDesc s 1 2 4 (mkE s0 (eTr 8))).2.w)).timer = none ∧
      (s.qp (dQp (sqDesc s 1 2 4 (mkE s0 (eTr 8))).2.w)).resend = [])) ∧
    (let s : State := sqS {f := 3, prod := 5, asked := 1}; s.pst = 3 ∧ 1 < 256 ∧ 2 < 15 ∧ s.fnHeld 1 = false ∧ ctxMapped s 1 = true ∧
      sqEnabled s (sqKey 1 2) = true ∧ sqLoc s (sqKey 1 2) = false ∧ sqRunning s (sqKey 1 2) = true ∧ (s.sqd (sqKey 1 2)).asked = 1 ∧
      sqWritten s (sqKey 1 2) (slice (mkE s0 (eTr 8)) 0 64) = true ∧ (8 ≤ sqOpcode (slice (mkE s0 (eTr 8)) 0 64) ∧
      sqOpcode (slice (mkE s0 (eTr 8)) 0 64) ≤ 12 ∨ sqOpcode (slice (mkE s0 (eTr 8)) 0 64) = 16 ∨ sqOpcode (slice (mkE s0 (eTr 8)) 0 64) = 32 ∨ sqOpcode (slice (mkE s0 (eTr 8)) 0 64) = 48) ∧
      sqWritten s (sqKey 1 2) (slice (slice [] 0 64) 0 64) = false ∧ (s.sqd (sqKey 1 2)).tries < 16) ∧
    (let s : State := sqS {f := 3, prod := 5, asked := 1, tries := 16}; s.pst = 3 ∧ 1 < 256 ∧ 2 < 15 ∧ s.fnHeld 1 = false ∧ ctxMapped s 1 = true ∧
      sqEnabled s (sqKey 1 2) = true ∧ sqLoc s (sqKey 1 2) = false ∧ sqRunning s (sqKey 1 2) = true ∧ (s.sqd (sqKey 1 2)).asked = 1 ∧
      sqWritten s (sqKey 1 2) (slice (slice [] 0 64) 0 64) = false ∧ (s.sqd (sqKey 1 2)).tries = 16) ∧
    (let s : State := sqS {f := 3, prod := 5, reread := true, tries := 5}; s.pst = 3 ∧ 1 < 256 ∧ 2 < 15 ∧ s.fnHeld 1 = false ∧ ctxMapped s 1 = true ∧
      sqRunning s (sqKey 1 2) = true ∧ (s.sqd (sqKey 1 2)).reread = true ∧ (s.sqd (sqKey 1 2)).tries < 16) ∧
    (let s : State := sqS {f := 3, prod := 5} (·.set (F.SQ_STATUS_STATE 1 2) 2); s.pst = 3 ∧ 1 < 256 ∧ 2 < 15 ∧ s.fnHeld 1 = false ∧ ctxMapped s 1 = true ∧
      s.get (F.SQ_STATUS_STATE 1 2) = 2) ∧
    (let s : State := { hs (eTr 8) (some 4) with tr := act.tr, ho := { (hs (eTr 8) (some 4)).ho with quotaEff := [] }}; s.pst = 3 ∧ 1 < 256 ∧ 2 < 15 ∧
      s.fnHeld 1 = false ∧ ctxMapped s 1 = true ∧ (s.sqd (sqKey 1 2)).held = some (mkE s0 (eTr 8), some 4) ∧ sqRunning s (sqKey 1 2) = true ∧
      workHeld s = false ∧ smFind s.ho.frozen 1 = none ∧ 8 ≤ sqOpcode (mkE s0 (eTr 8)) ∧ sqOpcode (mkE s0 (eTr 8)) ≤ 12 ∧ fieldLE (mkE s0 (eTr 8)) 8 24 = 0 ∧
      fieldLE (mkE s0 (eTr 8)) 32 1 % 16 = sqOpcode (mkE s0 (eTr 8)) ∧ qpFull s (sqDesc s 1 2 4 (mkE s0 (eTr 8))).2.w = false ∧
      s.ownsQp 1 (dQp (sqDesc s 1 2 4 (mkE s0 (eTr 8))).2.w) = false) ∧
    (let s : State := { hs (eCt 4 1 4) (some 4) with sg := { act.sg with wins := [(4, BitVec.ofNat 256 (1 + 2^8*15 + 2^16*255+2^24))] } }; (s.pst = 3 ∧
      1 < 256 ∧ 2 < 15 ∧ s.fnHeld 1 = false ∧ ctxMapped s 1 = true ∧ (s.sqd (sqKey 1 2)).held = some (mkE s0 (eCt 4 1 4), some 4) ∧
      sqRunning s (sqKey 1 2) = true ∧ workHeld s = false ∧ smFind s.ho.frozen 1 = none ∧ sqOpcode (mkE s0 (eCt 4 1 4)) = 32 ∧
      fieldLE (mkE s0 (eCt 4 1 4)) 32 32 = 0 ∧ CqOpen s (s.get (F.SQ_CQ_CQ 1 2)) cqv ∧ s.ownsCq 1 (s.get (F.SQ_CQ_CQ 1 2)) = true ∧
      fieldLE (mkE s0 (eCt 4 1 4)) 8 1 = 1 ∧ fieldLE (mkE s0 (eCt 4 1 4)) 9 1 = 4 ∧ blkBusy s Blk.win = false ∧ fieldLE (mkE s0 (eCt 4 1 4)) 12 4 < 65536 ∧
      s.ownsWin 1 (fieldLE (mkE s0 (eCt 4 1 4)) 12 4) = true ∧
      smFind s.sg.wins (fieldLE (mkE s0 (eCt 4 1 4)) 12 4) = some (BitVec.ofNat 256 (1 + 2 ^ 8 * 15 + 2 ^ 16 * 255 + 2 ^ 24)) ∧
      (∀ r ∈ s.sy.reqs, r.pkt = none)) ∧ (∀ r ∈ s.sg.recs, ∀ y ∈ r.waiters, ∀ (i : Ingress) (p : Packet), y ≠ FaultWaiter.held i p)) ∧
    (let s : State := hs (eCt 4 6 4) (some 4); s.pst = 3 ∧ 1 < 256 ∧ 2 < 15 ∧ s.fnHeld 1 = false ∧ ctxMapped s 1 = true ∧
      (s.sqd (sqKey 1 2)).held = some (mkE s0 (eCt 4 6 4), some 4) ∧ sqRunning s (sqKey 1 2) = true ∧ workHeld s = false ∧ smFind s.ho.frozen 1 = none ∧
      sqOpcode (mkE s0 (eCt 4 6 4)) = 32 ∧ fieldLE (mkE s0 (eCt 4 6 4)) 32 32 = 0 ∧ CqOpen s (s.get (F.SQ_CQ_CQ 1 2)) cqv ∧
      s.ownsCq 1 (s.get (F.SQ_CQ_CQ 1 2)) = true ∧ 5 < fieldLE (mkE s0 (eCt 4 6 4)) 8 1) ∧
    (let s : State := hs (eRq 0 0x1000 64) none; s.pst = 3 ∧ 1 < 256 ∧ 2 < 15 ∧ s.fnHeld 1 = false ∧ ctxMapped s 1 = true ∧
      (s.sqd (sqKey 1 2)).held = some (mkE s0 (eRq 0 4096 64), none) ∧ sqRunning s (sqKey 1 2) = true ∧ workHeld s = false ∧ smFind s.ho.frozen 1 = none ∧
      sqOpcode (mkE s0 (eRq 0 4096 64)) = 48 ∧ fieldLE (mkE s0 (eRq 0 4096 64)) 8 1 < 64 ∧ fieldLE (mkE s0 (eRq 0 4096 64)) 32 32 = 0 ∧
      smFind s.tr.rqs (64 * 1 + fieldLE (mkE s0 (eRq 0 4096 64)) 8 1) = some { log2 := 4, next := 1, recvs := [{ ssn := 0, buf := 4096, len := 500, tag := 88 }] } ∧
      ({ log2 := 4, next := 1, recvs := [{ ssn := 0, buf := 4096, len := 500, tag := 88 }] } : Rq).early = [] ∧
      (∀ w ∈ ({ log2 := 4, next := 1, recvs := [{ ssn := 0, buf := 4096, len := 500, tag := 88 }] } : Rq).recvs, w.ssn ≠ ({ log2 := 4, next := 1, recvs := [{ ssn := 0, buf := 4096, len := 500, tag := 88 }] } : Rq).next) ∧
      fieldLE (mkE s0 (eRq 0 4096 64)) 16 8 % 2048 = 0 ∧ 0 < fieldLE (mkE s0 (eRq 0 4096 64)) 24 4 ∧ fieldLE (mkE s0 (eRq 0 4096 64)) 24 4 ≤ 2 ^ 30 ∧
      ({ log2 := 4, next := 1, recvs := [{ ssn := 0, buf := 4096, len := 500, tag := 88 }] } : Rq).recvs.length < 2 ^ ({ log2 := 4, next := 1, recvs := [{ ssn := 0, buf := 4096, len := 500, tag := 88 }] } : Rq).log2) ∧
    (lnS.pst = 3 ∧ 1 < 256 ∧ 2 < 15 ∧ lnS.fnHeld 1 = false ∧ ctxMapped lnS 1 = true ∧ (lnS.sqd (sqKey 1 2)).held = some (mkE s0 eLn, some 4) ∧
      sqRunning lnS (sqKey 1 2) = true ∧ workHeld lnS = false ∧ smFind lnS.ho.frozen 1 = none ∧ sqOpcode (mkE s0 eLn) = 16 ∧ fieldLE (mkE s0 eLn) 19 1 ≤ 1 ∧
      (sqLaunch 1 (mkE s0 eLn)).dom < nDom lnS ∧ lnS.domFenced (sqLaunch 1 (mkE s0 eLn)).dom = false ∧ queued lnS (sqLaunch 1 (mkE s0 eLn)).dom < 64 ∧
      ctrlOn lnS = true ∧ (sqLaunch 1 (mkE s0 eLn)).image % 8 = 0 ∧ (readImage (sqStart lnS (sqKey 1 2)) (sqLaunch 1 (mkE s0 eLn)) 4 256).2.1 = 0 ∧
      parseHeader lnV.2.2 (sqLaunch 1 (mkE s0 eLn)) 4 = some lnL ∧
      Machine.translate lnV.1 Who.fetch (rRead + rExec) 1 4 (sqLaunch 1 (mkE s0 eLn)).image (imageSize lnL.p) = Tr.mem 2097152 ∧ lnL.p.priv = false ∧
      syncRangeOwned lnV.1 lnL.p = true) := by
  simp only [cqOpen_iff]
  refine ⟨?_, ?_, ?_, ?_, ?_, ?_, ?_, ?_, ?_, ?_⟩
  · decide +kernel
  · decide +kernel
  · decide +kernel
  · decide +kernel
  · decide +kernel
  · decide +kernel
  · exact ⟨by decide +kernel, none_held (by decide +kernel)⟩
  · decide +kernel
  · decide +kernel
  · decide +kernel

end Queues

/-! ### The hypotheses of the statements about host functions -/

namespace HostSide

def ctx1 (s : State) : State := (s.set (F.HOST_CTX_MAP_STATE 1) 1).set (F.HOST_PORT_STATUS_LINK 0) 1
def cqv : Cq := { ctx := 1, base := 0x9000, log2 := 4, vector := 0, modCount := 1, modNs := 0 }
def cqS (c : Cq) (f : State → State := id) : State :=
  f (ctx1 { act with sg := { act.sg with segs := [(16, seg0)] }, ho := { act.ho with quotaEff := [(1, quota1)], cqs := [(5, c)] }, sq := { act.sq with opNo := 5 } })
def pS : State := let s := cqS cqv; (((s.setReg (F.PEER_TABLE 0).off 0x80000005).setReg (F.PEER_TABLE 1).off 0x0200).set F.TRN_ID_ENDPOINT 9)

theorem witness_HostFunctions :
    (let s : State := cqS {cqv with written := 3, armed := true, since := 2}; s.pst = 3 ∧ s.fnHeld 1 = false ∧ ctxMapped s 1 = true ∧
      smFind s.ho.cqs 5 = some ((smFind s.ho.cqs 5).getD cqv) ∧ s.ownsCq 1 5 = true ∧
      (2 + 32768 - ((smFind s.ho.cqs 5).getD cqv).consumed % 32768) % 32768 ≤ ((smFind s.ho.cqs 5).getD cqv).written - ((smFind s.ho.cqs 5).getD cqv).consumed ∧
      ((smFind s.ho.cqs 5).getD cqv).waiting = [] ∧ ((smFind s.ho.cqs 5).getD cqv).armed = true ∧ ((smFind s.ho.cqs 5).getD cqv).since ≠ 0 ∧
      s.fnHeld ((smFind s.ho.cqs 5).getD cqv).ctx = false) ∧
    (let s : State := cqS cqv (fun s => s.setReg (F.FN_APER_LO 1).off 0x800); s.pst = 3 ∧ 1 < 256 ∧ s.fnHeld 1 = false ∧ aperture s 1 0 1 = some 2048 ∧
      OneTile s Who.host rRead 1 s.sq.opNo 2048 1 2099200 ∧ aperture s 1 0 [1#8, 2#8, 3#8].length = some 2048 ∧
      OneTile s Who.host rWrite 1 s.sq.opNo 2048 [1#8, 2#8, 3#8].length 2099200) ∧
    (let s : State := cqS cqv (fun s => s.setReg (F.FN_APER_LO 1).off 0x800); s.pst = 3 ∧ 1 < 256 ∧ s.fnHeld 1 = false ∧ aperture s 1 (2 ^ 34 - 1) 2 = none ∧
      aperture s 1 (2 ^ 34 - 1) [1#8, 2#8, 3#8].length = none) ∧
    (pS.pst = 3 ∧ 0 < 4 ∧ 2 < 8 ∧ pS.hostUp 0 = true ∧ inboxPeer pS 0 2 = some 0 ∧
      (1 % 2 ^ 32 + 2 ^ 32 - (smGet pS.ho.inboxes (inboxKey 0 2) (0, 0)).1) % 2 ^ 32 = 1 ∧ pS.tr.waitRoute = []) ∧
    (let s : State := cqS cqv (fun s => s.set (F.HOST_CTX_MAP_STATE 1) 2); s.pst = 3 ∧ ctxMapped s 1 = true ∧ s.ctxState 1 = 2 ∧ ctxIdle s 1 = true) ∧
    (let s : State := cqS {cqv with written := 3, consumed := 1}; s.pst = 3 ∧ s.fnHeld 1 = false ∧ ctxMapped s 1 = true ∧
      smFind s.ho.cqs 5 = some ((smFind s.ho.cqs 5).getD cqv) ∧ s.ownsCq 1 5 = true ∧
      (3 + 32768 - ((smFind s.ho.cqs 5).getD cqv).consumed % 32768) % 32768 ≤ ((smFind s.ho.cqs 5).getD cqv).written - ((smFind s.ho.cqs 5).getD cqv).consumed ∧
      ((smFind s.ho.cqs 5).getD cqv).waiting = [] ∧
      ((smFind s.ho.cqs 5).getD cqv).written - (((smFind s.ho.cqs 5).getD cqv).consumed + (3 + 32768 - ((smFind s.ho.cqs 5).getD cqv).consumed % 32768) % 32768) < max 1 ((smFind s.ho.cqs 5).getD cqv).modCount) ∧
    (let s : State := cqS {cqv with written := 3, consumed := 1}; s.pst = 3 ∧ s.fnHeld 1 = false ∧ ctxMapped s 1 = true ∧
      smFind s.ho.cqs 5 = some ((smFind s.ho.cqs 5).getD cqv) ∧
      (s.ownsCq 1 5 = false ∨ ((smFind s.ho.cqs 5).getD cqv).written - ((smFind s.ho.cqs 5).getD cqv).consumed < (9 + 32768 - ((smFind s.ho.cqs 5).getD cqv).consumed % 32768) % 32768)) ∧
    (let s : State := cqS {cqv with written := 16, consumed := 0, waiting := [(slice [] 0 32, none, none)]}; s.pst = 3 ∧ s.fnHeld 1 = false ∧
      ctxMapped s 1 = true ∧ smFind s.ho.cqs 5 = some ((smFind s.ho.cqs 5).getD cqv) ∧ s.ownsCq 1 5 = true ∧
      (2 + 32768 - ((smFind s.ho.cqs 5).getD cqv).consumed % 32768) % 32768 ≤ ((smFind s.ho.cqs 5).getD cqv).written - ((smFind s.ho.cqs 5).getD cqv).consumed ∧
      ((smFind s.ho.cqs 5).getD cqv).waiting = [(slice [] 0 32, none, none)] ∧ 0 < (2 + 32768 - ((smFind s.ho.cqs 5).getD cqv).consumed % 32768) % 32768 ∧
      ((smFind s.ho.cqs 5).getD cqv).written = ((smFind s.ho.cqs 5).getD cqv).consumed + 2 ^ ((smFind s.ho.cqs 5).getD cqv).log2 ∧
      ((smFind s.ho.cqs 5).getD cqv).armed = false) ∧
    (let s : State := cqS {cqv with written := 3, consumed := 1} (fun s => s.setReg (F.MSIX_TABLE 1 3).off 0); s.pst = 3 ∧ s.fnHeld 1 = false ∧
      ctxMapped s 1 = true ∧ smFind s.ho.cqs 5 = some ((smFind s.ho.cqs 5).getD cqv) ∧ s.ownsCq 1 5 = true ∧
      (2 + 32768 - ((smFind s.ho.cqs 5).getD cqv).consumed % 32768) % 32768 ≤ ((smFind s.ho.cqs 5).getD cqv).written - ((smFind s.ho.cqs 5).getD cqv).consumed ∧
      ((smFind s.ho.cqs 5).getD cqv).waiting = [] ∧
      max 1 ((smFind s.ho.cqs 5).getD cqv).modCount ≤ ((smFind s.ho.cqs 5).getD cqv).written - (((smFind s.ho.cqs 5).getD cqv).consumed + (2 + 32768 - ((smFind s.ho.cqs 5).getD cqv).consumed % 32768) % 32768) ∧
      s.fnHeld ((smFind s.ho.cqs 5).getD cqv).ctx = false ∧
      bit (s.reg (F.MSIX_TABLE ((smFind s.ho.cqs 5).getD cqv).ctx (4 * ((smFind s.ho.cqs 5).getD cqv).vector + 3)).off) 0 = false) ∧
    (pS.pst = 3 ∧ 0 < 4 ∧ 2 < 8 ∧ pS.hostUp 0 = true ∧ inboxPeer pS 0 2 = some 0 ∧
      64 < (100 % 2 ^ 32 + 2 ^ 32 - (smGet pS.ho.inboxes (inboxKey 0 2) (0, 0)).1) % 2 ^ 32) ∧
    (act.pst = 3 ∧ act.fnHeld 0 = false ∧
      (¬((∃ j < 4, 128 < bits (16909060#32).toNat (8 * j) 8 ∨ bits (16909060#32).toNat (8 * j) 8 ≠ bits (act.reg F.HOST_VF_LIMIT.off) (8 * j) 8 ∧
      bit act.ho.vfEnable j = true) ∨ 255 < bits (16909060#32).toNat (8 * 0) 8 + bits (16909060#32).toNat (8 * 1) 8 + bits (16909060#32).toNat (8 * 2) 8 + bits (16909060#32).toNat (8 * 3) 8))) ∧
    (act.pst = 3 ∧ act.fnHeld 0 = false ∧
      ((∃ j < 4, 128 < bits (2164392708#32).toNat (8 * j) 8 ∨ bits (2164392708#32).toNat (8 * j) 8 ≠ bits (act.reg F.HOST_VF_LIMIT.off) (8 * j) 8 ∧
      bit act.ho.vfEnable j = true) ∨ 255 < bits (2164392708#32).toNat (8 * 0) 8 + bits (2164392708#32).toNat (8 * 1) 8 + bits (2164392708#32).toNat (8 * 2) 8 + bits (2164392708#32).toNat (8 * 3) 8)) ∧
    (let s : State := cqS cqv; s.pst = 3 ∧ 0 < 4 ∧ s.hostUp 0 = true) ∧
    (let s : State := {act with pw := {act.pw with trained := 15, perst := 15}}; s.pst = 3 ∧ 1 < 4 ∧ bit s.pw.trained 1 = true ∧ bit s.pw.perst 1 = true ∧
      s.hostUp 1 = false) := by
  simp only [oneTile_iff]
  refine ⟨?_, ?_, ?_, ?_, ?_, ?_, ?_, ?_, ?_, ?_, ?_, ?_, ?_, ?_⟩ <;> decide +kernel

end HostSide

/-! ### The hypotheses of the statements about tenants -/

namespace Contexts

def tnS (new : Nat) (eff : BitVec 512) (f : State → State := id) : State :=
  f (State.setWords { act with ho := { act.ho with quotaEff := [(1, eff)], quotaReq := [(1, eff)] } } (F.QUOTA_ENTRY 0).off 16 new)
def cs (f : State → State := id) : State := f ((act.set (F.HOST_CTX_MAP_STATE 1) 1))
def key32 : List Byte := (List.range 32).map fun i => BitVec.ofNat 8 (i+1)
def slots8 : SMap (List Byte) := ((List.range 8).map fun i => (32 + i, key32))
def fz : Frozen := { done := true, threads := [(⟨0,0⟩, {ctx := 1, st := .ready})] }
def svS (len : Nat) : State := let s := { cs with ho := {cs.ho with frozen := [(1, fz)]}, ci := {cs.ci with slots := slots8}, sg := { act.sg with segs := [(0, seg0)] } }; s.setReg F.CTXM_LEN.off len
def zKey : State := { cs with ho := {cs.ho with frozen := [(1, fz)], quotaEff := [(1, quota1)]}, tr := { cs.tr with qps := [(3, { qp1 with e := qp1.e + BitVec.ofNat 512 (2^24 + 2^192*2), st := 5 })] } }
def zRep : State := ({ cs with tr := {act.tr with qps := [(3, qp1)]}, ho := {cs.ho with quotaEff := [(1, quota1)]} }).set F.CTXM_EP_EP 77

theorem witness_Tenants :
    (let s : State := tnS quota1.toNat quota1; s.pst = 3 ∧ s.fnHeld 0 = false ∧ ctrlOn s = true ∧ 1 < 256 ∧ s.ho.quotaPend = none ∧
      quotaFieldsOk s (s.getWords (F.QUOTA_ENTRY 0).off 16) = true ∧ quotaMoves (s.quota 1) (s.getWords (F.QUOTA_ENTRY 0).off 16) = false ∧
      quotaOverlaps s 1 (s.getWords (F.QUOTA_ENTRY 0).off 16) = false) ∧
    (act.pst = 3 ∧ act.fnHeld 0 = false ∧ 0 < 1 ∧ 1 < 256 ∧ ctxmPending act = false ∧ act.ctxState 1 ≠ 1) ∧
    (let s : State := tnS (quota1.toNat + 1) quota1; s.pst = 3 ∧ s.fnHeld 0 = false ∧ ctrlOn s = true ∧ 1 < 256 ∧ s.ho.quotaPend = none ∧
      quotaFieldsOk s (s.getWords (F.QUOTA_ENTRY 0).off 16) = true ∧
      (quotaMoves (s.quota 1) (s.getWords (F.QUOTA_ENTRY 0).off 16) = true ∨ quotaOverlaps s 1 (s.getWords (F.QUOTA_ENTRY 0).off 16) = true)) ∧
    (let s : State := tnS (2^512-1) quota1; s.pst = 3 ∧ s.fnHeld 0 = false ∧ ctrlOn s = true ∧ 1 < 256 ∧ s.ho.quotaPend = none ∧
      quotaFieldsOk s (s.getWords (F.QUOTA_ENTRY 0).off 16) = false) ∧
    (let s : State := tnS quota1.toNat quota1 (fun s => {s with ho := {s.ho with quotaPend := some 1}}); s.pst = 3 ∧ s.fnHeld 0 = false ∧ ctrlOn s = true ∧
      1 < 256 ∧ s.ho.quotaPend.isSome = true) ∧
    (cs.pst = 3 ∧ cs.fnHeld 0 = false ∧ 0 < 1 ∧ 1 < 256 ∧ ctxmPending cs = false ∧ cs.ctxState 1 = 1 ∧ modePending cs = false) ∧
    (cs.pst = 3 ∧ cs.fnHeld 0 = false ∧ 0 < 1 ∧ 1 < 256 ∧ ctxmPending cs = false ∧ isFrozen cs 1 = false) ∧
    (let s : State := cs (fun s => {s with pw := {s.pw with drain := .rest 5}}); s.pst = 3 ∧ s.fnHeld 0 = false ∧ 0 < 1 ∧ 1 < 256 ∧ ctxmPending s = false ∧
      s.ctxState 1 = 1 ∧ modePending s = true) ∧
    (let s : State := {cs with ho := {cs.ho with frozen := [(1, {fz with done := false, threads := []})], freezing := some 1}}; s.pst = 3 ∧
      smFind s.ho.frozen 1 = some { fz with done := false, threads := [] } ∧ s.ho.freezing = some 1 ∧ frozenIdle s 1 = true) ∧
    (zKey.pst = 3 ∧ zKey.fnHeld 0 = false ∧ 0 < 1 ∧ 1 < 256 ∧ ctxmPending zKey = false ∧ smFind zKey.ho.frozen 1 = some fz ∧ fz.done = true ∧
      keysReady zKey 1 = false) ∧
    (zRep.pst = 3 ∧ zRep.fnHeld 0 = false ∧ 0 < 1 ∧ 1 < 256 ∧ ctxmPending zRep = false ∧ zRep.ownsQp 1 3 = true ∧ qpCtx (zRep.qp 3).e.toNat = 1 ∧
      ((zRep.qp 3).st = 3 ∨ (zRep.qp 3).st = 5)) := by
  refine ⟨?_, ?_, ?_, ?_, ?_, ?_, ?_, ?_, ?_, ?_, ?_⟩ <;> decide +kernel

/-- The save's slot is a free value: every slot of the state holds the key. -/
theorem saveSlot : keySlot (svS 100) 2 ((Config.freeValue (svS 100).free).toNat % 8) = some key32 :=
  (show ∀ n < 8, keySlot (svS 100) 2 n = some key32 by decide +kernel) _ (Nat.mod_lt _ (by decide))

theorem slice_long (x y : List Byte) : 100 < (x ++ slice y 0 17088).length := by
  simp only [slice, List.length_append, List.length_replicate]; omega

/-- A save that needs more room than CTXM_LEN gives. Of a save that has the room there is no closed witness: the layout of a blob's parts is
uninterpreted (log entry 10), so no number bounds its length. -/
theorem witness_Tenants_save :
    (let s : State := svS 100; s.pst = 3 ∧ s.fnHeld 0 = false ∧ 0 < 1 ∧ 1 < 256 ∧ ctxmPending s = false ∧ smFind s.ho.frozen 1 = some fz ∧ fz.done = true ∧
      keysReady s 1 = true ∧ slotsFor s fz.threads = true ∧ modePending s = false) ∧
    ∀ x y : List Byte, (svS 100).reg F.CTXM_LEN.off < (x ++ slice y 0 17088).length := by
  refine ⟨by decide +kernel, fun x y => ?_⟩
  rw [show (svS 100).reg F.CTXM_LEN.off = 100 by decide +kernel]
  exact slice_long x y

def rdS : State := { cs with sg := { act.sg with segs := [(0, segP)] } }

/-- A blob of zeros that is read for a restore. -/
theorem witness_Tenants_restore :
    let s : State := rdS; s.pst = 3 ∧ s.fnHeld 0 = false ∧ 0 < 1 ∧ 1 < 256 ∧ ctxmPending s = false ∧ s.ctxState 1 = 1 ∧
      (match (readBlob s).2 with | .ok _ => true | _ => false) = true ∧ (readBlob s).1.regs = s.regs ∧ (readBlob s).1.ho = s.ho := by
  decide +kernel

end Contexts

/-! ### The hypotheses of the statements about keys and firmware -/

namespace Images

def kS (keys : SMap (Bool × BitVec 256)) : State := { act with ci := { act.ci with keys := keys } }
def img (comp ver dev : Nat) (body : List Byte) (sigb : Byte) : List Byte := 
  slice (toLE 4 0x49574656 ++ toLE 2 1 ++ toLE 1 comp ++ toLE 1 0 ++ toLE 4 body.length ++ toLE 2 dev ++ toLE 2 (act.get F.COMPAT_CLASS_CLASS) ++ toLE 4 ver) 0 512
  |> fun h => splice h 0x60 (slice (Config.shake256 body) 0 64) |> fun h => splice h 0x40 (toLE 2 0 ++ toLE 2 0xFFFF ++ toLE 2 0 ++ toLE 2 0xFFFF ++ toLE 2 0 ++ toLE 2 0xFFFF ++ toLE 2 0 ++ toLE 2 0xFFFF) |> fun h => h ++ body ++ sigb :: slice [] 0 29791
def fwS (sess actv : Nat) (im : List Byte) (f : State → State := id) : State :=
  let s := { act with sg := { act.sg with segs := [(0, seg0)] }, mem := { act.mem with hbm := cells 0x200000 im } }
  f (((s.set F.FW_STATUS_SESSION sess).set F.FW_STATUS_ACTIVATING actv).setReg F.FW_LEN.off im.length)
def im1 := img 1 0x10000 0xFFFF [1#8, 2#8] 1#8
def ld (f : State → State := id) : State := f (fwS 1 1 im1 fun s => {s with ci := {s.ci with load := .loading}})

theorem witness_KeysAndFirmware :
    (let s : State := kS []; s.pst = 3 ∧ s.fnHeld 0 = false ∧ 1 < 256 ∧ 2 < 256 ∧ ceKeyUsed s 1 2 = false) ∧
    (let s : State := kS []; s.pst = 3 ∧ s.fnHeld 0 = false ∧ 3 < slotCount 0) ∧
    (let s : State := fwS 1 0 im1; s.pst = 3 ∧ s.fnHeld 0 = false ∧ ctrlOn s = true ∧ fwActivating s = false ∧ fwSession s = true) ∧
    (let s : State := fwS 0 0 im1; s.pst = 3 ∧ s.fnHeld 0 = false ∧ ctrlOn s = true ∧ fwActivating s = false ∧ fwSession s = false) ∧
    (let s : State := fwS 0 0 im1; s.pst = 3 ∧ s.fnHeld 0 = false ∧ ctrlOn s = true ∧ 0 ≠ 49573 ∧ (∀ c ∈ (actBank s).comps ++ (altBank s).comps, c.ext = 0)) ∧
    (ld.pst = 3 ∧ ld.fnHeld 0 = false ∧ ctrlOn ld = true ∧ ld.ci.load = Loading.loading ∧ (actBank ld).fmt ≤ ((actBank ld).comps.getD 2 { }).settingsFmt ∧
      ld.pw.launches = []) ∧
    (let s : State := kS []; s.pst = 3 ∧ s.fnHeld 0 = false ∧ (256 ≤ 300 ∨ 256 ≤ 1)) ∧
    (let s : State := { kS [(258, false, 5#256)] with tr := {act.tr with qps := [(3, { qp1 with e := qp1.e + BitVec.ofNat 512 (2^24 + 2^192*2) })]} }; s.pst = 3 ∧
      s.fnHeld 0 = false ∧ 1 < 256 ∧ 2 < 256 ∧ ceKeyUsed s 1 2 = true) ∧
    (let s : State := kS []; s.pst = 3 ∧ s.fnHeld 0 = false ∧ slotCount 0 ≤ 9) ∧
    (let s : State := fwS 0 1 im1; s.pst = 3 ∧ s.fnHeld 0 = false ∧ ctrlOn s = true ∧ fwActivating s = true) ∧
    (let s : State := fwS 1 0 im1 fun s => setAlt s {altBank s with comps := [{ext := 1}]}; s.pst = 3 ∧ s.fnHeld 0 = false ∧ ctrlOn s = true ∧
      (∃ c ∈ (actBank s).comps ++ (altBank s).comps, c.ext ≠ 0)) ∧
    (let s : State := fwS 1 0 im1 fun s => setAlt s {altBank s with comps := [{ext := 1}]}; s.pst = 3 ∧ s.fnHeld 0 = false ∧ ctrlOn s = true ∧
      (fwSession s = true ∧ (altBank s).comps ≠ (actBank s).comps ∧ anyResident s = false) ∧ modePending s = false) ∧
    (let s : State := fwS 0 0 im1 fun s => setAlt s {altBank s with comps := [{ext := 1}]}; s.pst = 3 ∧ s.fnHeld 0 = false ∧ ctrlOn s = true ∧
      (¬(fwSession s = true ∧ (altBank s).comps ≠ (actBank s).comps ∧ anyResident s = false))) ∧
    (let s : State := fwS 1 0 im1 fun s => {setAlt s {altBank s with comps := [{ext := 1}]} with pw := {s.pw with restExit := some 1}}; s.pst = 3 ∧
      s.fnHeld 0 = false ∧ ctrlOn s = true ∧ (fwSession s = true ∧ (altBank s).comps ≠ (actBank s).comps ∧ anyResident s = false) ∧ modePending s = true) ∧
    (let s : State := fwS 1 1 im1 fun s => {s with pw := {s.pw with drain := .fw 0}}; s.pst = 3 ∧ s.fnHeld 0 = false ∧ ctrlOn s = true ∧
      s.pw.drain = Drain.fw 0 ∧ trackerEmpty s = true) ∧
    (let s : State := fwS 1 1 im1 fun s => {s with pw := {s.pw with drain := .fw 0}, sq := {s.sq with trk := [(3,1,0)]}}; s.pst = 3 ∧ s.fnHeld 0 = false ∧
      ctrlOn s = true ∧ s.pw.drain = Drain.fw 0 ∧ trackerEmpty s = false ∧ 0 ≤ s.tk.count ∧ s.pw.launches = []) ∧
    (let s : State := ld fun s => setAct s {actBank s with comps := [{ext := 1},{},{settingsFmt := 3},{}], fmt := 5}; s.pst = 3 ∧ s.fnHeld 0 = false ∧
      ctrlOn s = true ∧ s.ci.load = Loading.loading ∧ ((altBank s).comps.getD 2 { }).settingsFmt < (actBank s).fmt) := by
  refine ⟨?_, ?_, ?_, ?_, ?_, ?_, ?_, ?_, ?_, ?_, ?_, ?_, ?_, ?_, ?_, ?_, ?_⟩ <;> decide +kernel

end Images

/-! ### The hypotheses of the statements about the management bus -/

namespace Bus

def nn : List Byte := slice [9#8] 0 32
def iS (f : State → State := id) : State := f { act with ci := { act.ci with dynAddr := some 0x20 } }
def pl (n : Nat) (f : State → State := id) : State := f (iS fun s => {s with ci := {s.ci with pldm := n, pldmData := [7#8]}})

theorem witness_ManagementBus :
    (let s : State := iS fun s => {s with ci := {s.ci with quote := some nn}}; i3cOn s = true ∧ s.ci.dynAddr.isSome = true ∧ (s.pst = 3 ∨ s.pst = 4) ∧
      s.ci.quoting = none ∧ s.ci.quote = some nn ∧ 0 ≠ 1 ∧ 0 ≠ 2 ∧ s.pst = 3 ∧ anyResident s = false ∧ modePending s = false) ∧
    (i3cOn iS = true ∧ 0 ≠ 58) ∧
    (i3cOn act = true ∧ act.ci.dynAddr = none) ∧
    (let s : State := pl 2; i3cOn s = true ∧ s.ci.dynAddr.isSome = true ∧ s.pst = 3 ∧ ctrlOn s = true ∧ 0 < 4 ∧ (s.ci.pldm = 1 ∨ s.ci.pldm = 2) ∧
      s.ci.pldm = 2) ∧
    (let s : State := pl 3; i3cOn s = true ∧ s.ci.dynAddr.isSome = true ∧ s.pst = 3 ∧ ctrlOn s = true ∧ s.ci.pldm = 3) ∧
    (let s : State := iS fun s => {s with ci := {s.ci with quoting := some nn}}; i3cOn s = true ∧ s.ci.dynAddr.isSome = true ∧ (s.pst = 3 ∨ s.pst = 4) ∧
      s.ci.quoting = some nn) ∧
    (i3cOn iS = true ∧ iS.ci.dynAddr.isSome = true ∧ (0 = 0 ∨ 0 = 1 ∨ 0 = 126 ∨ 0 = 255) ∧ (¬(2 = 0 ∨ 2 = 1 ∨ 2 = 126 ∨ 2 = 255))) ∧
    (i3cOn iS = true ∧ iS.ci.dynAddr.isSome = true) ∧
    (i3cOn iS = true ∧ iS.ci.dynAddr.isSome = true) ∧
    (i3cOn iS = true ∧ iS.ci.dynAddr.isSome = true) ∧
    (i3cOn iS = true ∧ iS.ci.dynAddr.isSome = true) ∧
    (i3cOn iS = true ∧ iS.ci.dynAddr.isSome = true) ∧
    (i3cOn iS = true ∧ iS.ci.dynAddr.isSome = true) ∧
    (i3cOn iS = true ∧ iS.ci.dynAddr.isSome = true) ∧
    (i3cOn iS = true ∧ iS.ci.dynAddr.isSome = true) ∧
    (let s : State := pl 0; i3cOn s = true ∧ s.ci.dynAddr.isSome = true ∧ s.pst = 3 ∧ ctrlOn s = true ∧ s.ci.pldm = 0 ∧ fwActivating s = false ∧
      fwSession s = false) ∧
    (let s : State := pl 3; i3cOn s = true ∧ s.ci.dynAddr.isSome = true ∧ s.pst = 3 ∧ ctrlOn s = true ∧ s.ci.pldm = 3 ∧ nn.length ≤ 1024) ∧
    (let s : State := pl 4; i3cOn s = true ∧ s.ci.dynAddr.isSome = true ∧ s.pst = 3 ∧ ctrlOn s = true ∧ s.ci.pldm = 4) ∧
    (let s : State := pl 2 fun s => (setAlt s {altBank s with comps := [{ext := 1}]}).set F.FW_STATUS_SESSION 1; i3cOn s = true ∧ s.ci.dynAddr.isSome = true ∧
      s.pst = 3 ∧ ctrlOn s = true ∧ s.ci.pldm = 2 ∧ fwSession s = true ∧ (altBank s).comps ≠ (actBank s).comps ∧ anyResident s = false ∧
      modePending s = false) ∧
    (let s : State := pl 3; i3cOn s = true ∧ s.ci.dynAddr.isSome = true ∧ s.pst = 3 ∧ ctrlOn s = true ∧ 3 ≤ s.ci.pldm) ∧
    (let s : State := pl 3 fun s => s.set F.FW_STATUS_SESSION 1; i3cOn s = true ∧ s.ci.dynAddr.isSome = true ∧ s.pst = 3 ∧ ctrlOn s = true ∧ 1 ≤ s.ci.pldm ∧
      fwActivating s = false ∧ fwSession s = true) ∧
    (i3cOn iS = true ∧ iS.ci.dynAddr.isSome = true) ∧
    (i3cOn iS = true ∧ iS.ci.dynAddr.isSome = true) ∧
    (i3cOn iS = true ∧ iS.ci.dynAddr.isSome = true) := by
  refine ⟨?_, ?_, ?_, ?_, ?_, ?_, ?_, ?_, ?_, ?_, ?_, ?_, ?_, ?_, ?_, ?_, ?_, ?_, ?_, ?_, ?_, ?_, ?_, ?_⟩ <;> decide +kernel

end Bus

end Sys2Proof.Tests
end

/-! ## Where commands stop (R2, R278, R281) -/

namespace Sys2Proof.Machine

/-- Every meaning but HOLDING_UNIT_ACCESS's is a next state outright: its own checks choose the state, never the outcome. -/
theorem exec_answers_next (c : Instr) (s : State) (h : ∀ u as, c ≠ .holdingUnitAccess u as) : ∃ t, exec c s = .next t := by
  cases c with
  | holdingUnitAccess u as => exact absurd rfl (h u as)
  | _ => exact ⟨_, rfl⟩

/-- The check that HOLDING_UNIT_ACCESS opens with: an absent unit, or an address that is not the unit's. -/
theorem holdRefuses_iff (u : HoldUnit) (as : List TileAccess) (s : State) :
    (!holdPresent s u || as.any fun a => !holdServes s u a) = true ↔ holdPresent s u = false ∨ ∃ a ∈ as, holdServes s u a = false := by
  simp

theorem exec_holdingUnitAccess (u : HoldUnit) (as : List TileAccess) (s : State) :
    exec (.holdingUnitAccess u as) s =
      if (!holdPresent s u || as.any fun a => !holdServes s u a) = true then .fault .noSuchUnit
      else .next (inActive s fun s => settle (holdServe s u (smGet s.mem.wait (holdKey u) [] ++ as))) := rfl

/-- Settles O5: the commands' meanings case by case, and the one check of HOLDING_UNIT_ACCESS. -/
theorem whereCommandsStop : Obligations.WhereCommandsStop := by
  refine ⟨exec_answers_next, fun u as s => ⟨fun h => ?_, fun hp hs => ?_⟩⟩
  · rw [exec_holdingUnitAccess, if_pos ((holdRefuses_iff u as s).2 h)]
  · have hok : ¬ (holdPresent s u = false ∨ ∃ a ∈ as, holdServes s u a = false) := by
      rintro (h | ⟨a, ha, h⟩)
      · simp [hp] at h
      · simp [hs a ha] at h
    rw [exec_holdingUnitAccess, if_neg (mt (holdRefuses_iff u as s).1 hok)]
    exact ⟨_, rfl⟩

end Sys2Proof.Machine

/-! ## Sparse tables: copying the entries of one into another -/

namespace Sys2Proof

variable {β : Type}

theorem smFind_filter_key (p : Nat → Bool) (m : SMap β) (k : Nat) :
    smFind (m.filter fun e => p e.1) k = if p k then smFind m k else none := by
  induction m with
  | nil => simp
  | cons e m ih =>
    obtain ⟨a, v⟩ := e
    by_cases hk : k = a
    · subst hk; cases hp : p k <;> simp [smFind, hp, ih]
    · cases hp : p a <;> simp [smFind, hp, hk, ih]

theorem smFind_smDrop (p : Nat → Bool) (m : SMap β) (k : Nat) : smFind (smDrop p m) k = if p k then none else smFind m k := by
  rw [smDrop, smFind_filter_key fun k => !p k]
  cases p k <;> rfl

/-- Entries copied from the last to the first: the first entry of a key is the one that stays. -/
theorem smFind_foldr_smSet (l m : SMap β) (k : Nat) :
    smFind (l.foldr (fun e m => smSet m e.1 e.2) m) k = (smFind l k).or (smFind m k) := by
  induction l with
  | nil => simp
  | cons e l ih =>
    obtain ⟨a, v⟩ := e
    by_cases hk : k = a
    · subst hk; simp [smFind, smFind_smSet_self]
    · simp [smFind, hk, smFind_smSet_ne _ _ hk, ih]

theorem smFind_smPut_ne [DecidableEq β] (m : SMap β) (d : β) {k j : Nat} (v : β) (h : j ≠ k) :
    smFind (smPut d m k v) j = smFind m j := by
  unfold smPut
  split
  · exact smFind_smDel_ne m h
  · exact smFind_smSet_ne m v h

theorem smFind_foldl_smPut_ne [DecidableEq β] (d : β) (l m : SMap β) {k : Nat} (h : k ∉ l.map (·.1)) :
    smFind (l.foldl (fun m e => smPut d m e.1 e.2) m) k = smFind m k := by
  induction l generalizing m with
  | nil => rfl
  | cons e l ih =>
    simp only [List.map_cons, List.mem_cons, not_or] at h
    rw [List.foldl_cons, ih _ h.2, smFind_smPut_ne _ _ _ h.1]

end Sys2Proof

/-! ## Frames of register writes and counters -/

namespace Sys2Proof.Machine

theorem bit_eq_bits (w i : Nat) : bit w i = decide (bits w i 1 = 1) := by
  rw [bit, bits_eq, Nat.testBit_eq_decide_div_mod_eq, pow_one]

/-- The bits outside a field that is written stay. -/
theorem bit_putBits_outside (w v : Nat) {lo n i : Nat} (h : i < lo ∨ lo + n ≤ i) : bit (putBits w lo n v) i = bit w i := by
  rw [bit_eq_bits, bit_eq_bits]
  rcases h with h | h
  · rw [bits_putBits_below w v h]
  · rw [bits_putBits_above w v h]

/-- A register keeps the low 32 bits of what is stored. -/
theorem bit_reg_setReg (s : State) (off v : Nat) {i : Nat} (h : i < 32) : bit ((s.setReg off v).reg off) i = bit v i := by
  rw [State.reg_setReg_self, bit_eq_bits, bit_eq_bits, bits_mod v h]

theorem regsBut_setReg (s : State) (off v : Nat) : RegsBut s (s.setReg off v) [off] :=
  fun o ho => s.reg_setReg_ne v (by simpa using ho)

theorem memSame_of_mem {s t : State} (hm : t.mem = s.mem) (hv : t.variant = s.variant) : MemSame s t := by
  intro a; rw [State.byte, State.byte, hm, hv]

/-- What an ignored write leaves (R62). -/
def Ignored (s u : State) : Prop := RegsBut s u [] ∧ Counted s u { F.BRUP_IGN_WRITES with wid := 16 } ∧ MemSame s u

theorem ignored_ignWrite (s : State) : Ignored s s.ignWrite :=
  ⟨fun _ _ => rfl, s.live_count_self _ 1, fun _ => rfl⟩

/-! ### Functions that act in Active, or ignore writes in Bring-up (R62, R39) -/

theorem fnCmd_active {s : State} {ctx : Nat} (hr : s.fnHeld ctx = false) (ha : s.pst = 3) (inRest : Bool) (f : State → State) :
    fnCmd s ctx inRest f = f s := by simp [fnCmd, hr, ha]

theorem fnCmd_bringUp {s : State} {ctx : Nat} (hr : s.fnHeld ctx = false) (hb : s.pst = 2) (inRest : Bool) (f : State → State) :
    fnCmd s ctx inRest f = s.ignWrite := by simp [fnCmd, hr, hb]

/-! ## Snapshots (R518–R520) -/

/-! ### The values that no counter holds -/

/-- Showing the time base within the tick leaves the tick as it is. -/
theorem seeNs_state (s : State) (ns : Nat) : ∃ tk n, s.seeNs ns = { s with tk := tk, free := n } ∧ tk.num = s.tk.num := by
  unfold State.seeNs
  split
  · exact ⟨_, _, rfl, rfl⟩
  · exact ⟨s.tk, s.free, rfl, rfl⟩

theorem snapValues_state (s : State) :
    ∃ tk n, (snapValues s).2 = { s with tk := tk, free := n } ∧ tk.num = s.tk.num :=
  seeNs_state s.fresh.2 _

theorem xbarWaits_state (s : State) (ds : List Nat) : ∃ n, (xbarWaits s ds).2 = { s with free := n } := by
  induction ds generalizing s with
  | nil => exact ⟨s.free, rfl⟩
  | cons d ds ih =>
    simp only [xbarWaits, State.fresh]
    split
    · exact ih _
    · exact ih s

theorem xbarWaits_keys (s : State) (ds : List Nat) : (xbarWaits s ds).1.map (·.1) = ds.map fun d => (F.SEQ_XBAR_WAIT d).key := by
  induction ds generalizing s with
  | nil => rfl
  | cons d ds ih => simp only [xbarWaits, List.map_cons, ih]

/-! ### The copy -/

/-- The snapshot table after a copy: of the scope, the values `vals` over the counters `cnt`; of the rest, what stood there. -/
def snapTable (scope : Nat) (vals cnt snap : SMap Nat) : SMap Nat :=
  (vals.filter fun e => inScope scope (e.1 / 32)).foldl (fun m e => smPut 0 m e.1 e.2)
    ((cnt.filter fun e => inScope scope (e.1 / 32)).foldr (fun e m => smSet m e.1 e.2) (smDrop (fun k => inScope scope (k / 32)) snap))

theorem smFind_snapTable_in {scope k : Nat} (vals cnt snap : SMap Nat) (hk : inScope scope (k / 32) = true) (hv : k ∉ vals.map (·.1)) :
    smFind (snapTable scope vals cnt snap) k = smFind cnt k := by
  have hf : k ∉ (vals.filter fun e => inScope scope (e.1 / 32)).map (·.1) :=
    fun h => hv ((List.filter_sublist.map _).subset h)
  rw [snapTable, smFind_foldl_smPut_ne _ _ _ hf, smFind_foldr_smSet, smFind_filter_key fun k => inScope scope (k / 32), smFind_smDrop]
  simp [hk]

theorem smFind_snapTable_out {scope k : Nat} (vals cnt snap : SMap Nat) (hk : inScope scope (k / 32) = false) :
    smFind (snapTable scope vals cnt snap) k = smFind snap k := by
  have hf : k ∉ (vals.filter fun e => inScope scope (e.1 / 32)).map (·.1) := by
    intro h
    obtain ⟨e, he, rfl⟩ := List.mem_map.1 h
    simp [hk] at he
  rw [snapTable, smFind_foldl_smPut_ne _ _ _ hf, smFind_foldr_smSet, smFind_filter_key fun k => inScope scope (k / 32), smFind_smDrop]
  simp [hk]

/-- What a snapshot of `s` has done before it writes its own status registers. -/
structure SnapCopied (s x : State) (scope : Nat) : Prop where
  regs : x.regs = s.regs
  variant : x.variant = s.variant
  mem : x.mem = s.mem
  num : x.tk.num = s.tk.num
  cnt : x.cnt = smDrop (fun k => inScope scope (k / 32) && k != F.TIME_PPS_STAMP_LO.key) s.cnt
  snap : ∃ waits : SMap Nat, waits.map (·.1) = (List.range (nDom s)).map (fun d => (F.SEQ_XBAR_WAIT d).key) ∧
    x.snap = snapTable scope ((snapValues s).1 ++ waits) s.cnt s.snap

/-- The snapshot's own status registers (R520, R525). -/
def snapMark (x : State) (scope : Nat) : State :=
  let t := (x.set F.SNAP_STATUS_TAKEN (x.get F.SNAP_STATUS_TAKEN + 1)).set F.SNAP_STATUS_LAST_SCOPE scope
  (t.set F.SNAP_STATUS_REFUSED 0).set64 F.SNAP_TICK_LO F.SNAP_TICK_HI t.tk.num

/-- A snapshot copies, then marks. -/
theorem snapTake_eq (s : State) (scope : Nat) : ∃ x, snapTake s scope = snapMark x scope ∧ SnapCopied s x scope := by
  obtain ⟨tk, n, hv, hnum⟩ := snapValues_state s
  obtain ⟨n', hw⟩ := xbarWaits_state (snapValues s).2 (List.range (nDom (snapValues s).2))
  have hkeys := xbarWaits_keys (snapValues s).2 (List.range (nDom (snapValues s).2))
  have hdom : nDom (snapValues s).2 = nDom s := by rw [hv]; rfl
  simp only [snapTake]
  refine ⟨_, rfl, ?_⟩
  rw [hdom] at hw hkeys ⊢
  rw [hw]
  constructor
  · split <;> simp [hv]
  · split <;> simp [hv]
  · split <;> simp [hv]
  · split <;> simp [hv, hnum]
  · split <;> simp [hv]
  · refine ⟨_, hkeys, ?_⟩
    split <;> simp [snapTable, hv]

/-! ### The marks -/

theorem snapMark_get64 (x : State) (scope : Nat) : (snapMark x scope).get64 F.SNAP_TICK_LO F.SNAP_TICK_HI = x.tk.num % 2 ^ 64 := by
  simp only [snapMark, State.get64, State.set64, State.reg_setReg_self, State.set_tk]
  rw [State.reg_setReg_ne _ _ (by decide), State.reg_setReg_self]
  omega

/-- Of the marks, SNAP_TICK is written last and leaves SNAP_STATUS. -/
theorem snapMark_get (x : State) (scope : Nat) (f : RF) (h : f.off = F.SNAP_STATUS.off) :
    (snapMark x scope).get f = (((x.set F.SNAP_STATUS_TAKEN (x.get F.SNAP_STATUS_TAKEN + 1)).set F.SNAP_STATUS_LAST_SCOPE scope).set
      F.SNAP_STATUS_REFUSED 0).get f := by
  simp only [snapMark, State.set64, State.get, h]
  rw [State.reg_setReg_ne _ _ (by decide), State.reg_setReg_ne _ _ (by decide)]

theorem snapMark_taken (x : State) (scope : Nat) :
    (snapMark x scope).get F.SNAP_STATUS_TAKEN = (x.get F.SNAP_STATUS_TAKEN + 1) % 2 ^ 16 := by
  rw [snapMark_get _ _ F.SNAP_STATUS_TAKEN rfl, State.get_set_apart _ _ (by decide) (by decide), State.get_set_apart _ _ (by decide) (by decide),
    State.get_set_self _ _ (by decide)]
  rfl

theorem snapMark_lastScope (x : State) (scope : Nat) : (snapMark x scope).get F.SNAP_STATUS_LAST_SCOPE = scope % 2 ^ 8 := by
  rw [snapMark_get _ _ F.SNAP_STATUS_LAST_SCOPE rfl, State.get_set_apart _ _ (by decide) (by decide), State.get_set_self _ _ (by decide)]
  rfl

theorem snapMark_refused (x : State) (scope : Nat) : (snapMark x scope).get F.SNAP_STATUS_REFUSED = 0 := by
  rw [snapMark_get _ _ F.SNAP_STATUS_REFUSED rfl, State.get_set_self _ _ (by decide)]
  rfl

theorem snapMark_regsBut (x : State) (scope : Nat) :
    RegsBut x (snapMark x scope) [F.SNAP_STATUS.off, F.SNAP_TICK_LO.off, F.SNAP_TICK_HI.off] := by
  intro o ho
  simp only [List.mem_cons, List.not_mem_nil, or_false, not_or] at ho
  obtain ⟨hst, hlo, hhi⟩ := ho
  have hset : ∀ (t : State) (f : RF) (v : Nat), f.off = F.SNAP_STATUS.off → (t.set f v).reg o = t.reg o :=
    fun t f v hf => t.reg_set_ne v (hf ▸ hst)
  simp only [snapMark, State.set64]
  rw [State.reg_setReg_ne _ _ hhi, State.reg_setReg_ne _ _ hlo, hset _ F.SNAP_STATUS_REFUSED _ rfl,
    hset _ F.SNAP_STATUS_LAST_SCOPE _ rfl, hset _ F.SNAP_STATUS_TAKEN _ rfl]


/-! ### The command -/

theorem SnapCopied.reg {s x : State} {scope : Nat} (h : SnapCopied s x scope) (o : Nat) : x.reg o = s.reg o := by
  rw [State.reg, State.reg, h.regs, h.variant]

theorem SnapCopied.get {s x : State} {scope : Nat} (h : SnapCopied s x scope) (f : RF) : x.get f = s.get f := by
  rw [State.get, State.get, h.reg]

/-- A counter of the scope is copied and restarted. -/
theorem SnapCopied.counter_in {s x : State} {scope k : Nat} (h : SnapCopied s x scope) (hk : inScope scope (k / 32) = true)
    (hp : k ≠ F.TIME_PPS_STAMP_LO.key) (hv : k ∉ (snapValues s).1.map (·.1)) (hx : ∀ d, d < nDom s → k ≠ (F.SEQ_XBAR_WAIT d).key) :
    smGet x.snap k 0 = smGet s.cnt k 0 ∧ smGet x.cnt k 0 = 0 := by
  obtain ⟨waits, hw, hs⟩ := h.snap
  have hall : k ∉ ((snapValues s).1 ++ waits).map (·.1) := by
    rw [List.map_append, hw, List.mem_append]
    rintro (hm | hm)
    · exact hv hm
    · obtain ⟨d, hd, rfl⟩ := List.mem_map.1 hm
      exact hx d (List.mem_range.1 hd) rfl
  constructor
  · rw [smGet, smGet, hs, smFind_snapTable_in _ _ _ hk hall]
  · rw [smGet, h.cnt, smFind_smDrop]
    simp [hk, hp]

/-- A counter of another scope stays, with its snapshot. -/
theorem SnapCopied.counter_out {s x : State} {scope k : Nat} (h : SnapCopied s x scope) (hk : inScope scope (k / 32) = false) :
    smFind x.snap k = smFind s.snap k ∧ smFind x.cnt k = smFind s.cnt k := by
  obtain ⟨waits, -, hs⟩ := h.snap
  constructor
  · rw [hs, smFind_snapTable_out _ _ _ hk]
  · rw [h.cnt, smFind_smDrop]
    simp [hk]

theorem exec_snapCmd {s : State} {scope : Nat} (ha : s.pst = 3) (hr : s.fnHeld 0 = false) (hs : scope < 256) :
    exec (.snapCmd scope) s = .next (snapCmd s scope) := by
  show Host.Outcome.next (fnCmd s 0 false fun s => snapCmd s (scope % 256)) = _
  rw [fnCmd_active hr ha, Nat.mod_eq_of_lt hs]

theorem snapCmd_of_noScope {s : State} {scope : Nat} (h : snapScope s scope = false) : snapCmd s scope = s.set F.SNAP_STATUS_REFUSED 1 := by
  simp [snapCmd, h]

theorem snapCmd_of_scope {s : State} {scope : Nat} (h : snapScope s scope = true) :
    ∃ x, snapCmd s scope = snapMark x scope ∧ SnapCopied s x scope := by
  simpa [snapCmd, h] using snapTake_eq s scope

theorem snapCmd_refused {s : State} {scope : Nat} (h : snapScope s scope = false) :
    let u := snapCmd s scope
    u.flag F.SNAP_STATUS_REFUSED = true ∧ u.cnt = s.cnt ∧ u.snap = s.snap ∧ MemSame s u := by
  rw [snapCmd_of_noScope h]
  refine ⟨?_, rfl, rfl, fun _ => rfl⟩
  rw [State.flag, State.get_set_self _ _ (by decide)]
  rfl

theorem snapCmd_taken {s : State} {scope : Nat} (h : snapScope s scope = true) (hs : scope < 256) :
    let u := snapCmd s scope
    u.flag F.SNAP_STATUS_REFUSED = false ∧ MemSame s u ∧
      u.get F.SNAP_STATUS_TAKEN = (s.get F.SNAP_STATUS_TAKEN + 1) % 2 ^ 16 ∧ u.get F.SNAP_STATUS_LAST_SCOPE = scope ∧
      u.get64 F.SNAP_TICK_LO F.SNAP_TICK_HI = s.tk.num % 2 ^ 64 ∧ RegsBut s u [F.SNAP_STATUS.off, F.SNAP_TICK_LO.off, F.SNAP_TICK_HI.off] ∧
      ∀ k, (inScope scope (k / 32) = true → k ≠ F.TIME_PPS_STAMP_LO.key → k ∉ (snapValues s).1.map (·.1) →
            (∀ d, d < nDom s → k ≠ (F.SEQ_XBAR_WAIT d).key) → smGet u.snap k 0 = smGet s.cnt k 0 ∧ smGet u.cnt k 0 = 0) ∧
        (inScope scope (k / 32) = false → smFind u.snap k = smFind s.snap k ∧ smFind u.cnt k = smFind s.cnt k) := by
  obtain ⟨x, hx, hc⟩ := snapCmd_of_scope h
  rw [hx]
  refine ⟨?_, memSame_of_mem hc.mem hc.variant, ?_, ?_, ?_, ?_, fun k => ⟨hc.counter_in, hc.counter_out⟩⟩
  · rw [State.flag, snapMark_refused]; rfl
  · rw [snapMark_taken, hc.get]
  · rw [snapMark_lastScope]; exact Nat.mod_eq_of_lt hs
  · rw [snapMark_get64, hc.num]
  · exact fun o ho => (snapMark_regsBut x scope o ho).trans (hc.reg o)

/-! ## SQC clears (R9) -/

/-- Every status has its sequence number in one byte of a register. -/
theorem sqcField_byte (r : SqcReg) : (sqcField r).wid = 8 ∧ (sqcField r).lo + 8 ≤ 32 := by
  cases r <;> exact ⟨rfl, Nat.le_of_ble_eq_true rfl⟩

/-- Clearing a byte of a register leaves its other bits, every other register, the counters and memory. -/
theorem set_zero_byte (s : State) {f : RF} (hwid : f.wid = 8) (hlo : f.lo + 8 ≤ 32) :
    let u := s.set f 0
    u.get f = 0 ∧ RegsBut s u [f.off] ∧ CntBut s u [] ∧ MemSame s u ∧
      ∀ i, i < 32 → (i < f.lo ∨ f.lo + 8 ≤ i) → bit (u.reg f.off) i = bit (s.reg f.off) i := by
  refine ⟨?_, regsBut_setReg s _ _, fun _ _ => rfl, fun _ => rfl, fun i hi hout => ?_⟩
  · rw [State.get_set_self _ _ (by omega), Nat.zero_mod]
  · rw [State.set, bit_reg_setReg _ _ _ hi, bit_putBits_outside _ _ (by rwa [hwid])]

theorem exec_sqcClearWrite {s : State} {r : SqcReg} (seq : Nat) (ha : s.pst = 3) (hr : s.fnHeld ((fnCtx (sqcField r).off).getD 0) = false)
    (hp : sqcPresent s r = true) : exec (.sqcClearWrite r seq) s = .next (clearSqc s (sqcField r) seq) := by
  show Host.Outcome.next (fnCmd s _ _ _) = _
  rw [fnCmd_active hr ha, if_pos hp]

theorem clearSqc_own {s : State} {f : RF} {seq : Nat} (h0 : seq ≠ 0) (h : s.get f = seq) : clearSqc s f seq = s.set f 0 := by
  simp [clearSqc, h0, h]

theorem clearSqc_other {s : State} {f : RF} {seq : Nat} (h : seq = 0 ∨ s.get f ≠ seq) : clearSqc s f seq = s := by
  rcases h with h | h <;> simp [clearSqc, h]

/-! ## Writes of one word (R8, R516, R517) -/

theorem exec_registerWrite_word (s : State) (off : Nat) (v : BitVec 64) :
    exec (.registerWrite off 4 v) s = .next (settle (writeAny s off (v.toNat % 2 ^ 32))) := by
  show Host.Outcome.next (if off = F.FCOL_FORCE_LO.off && decide (4 = 8) then _ else _) = _
  rw [if_neg (by simp)]
  rfl

theorem writeAny_active {s : State} {off : Nat} (v : Nat) (ha : s.pst = 3) (hr : s.fnHeld ((fnCtx off).getD 0) = false) :
    writeAny s off v = writeReg s off v := fnCmd_active hr ha _ _

theorem writeAny_bringUp {s : State} {off : Nat} (v : Nat) (hb : s.pst = 2) (hr : s.fnHeld ((fnCtx off).getD 0) = false) :
    writeAny s off v = s.ignWrite := fnCmd_bringUp hr hb _ _

/-! ### The memory block -/

theorem fnCtx_memBlock {off : Nat} (hlo : 0x300000 ≤ off) (hhi : off < 0x400000) : fnCtx off = none := by
  unfold fnCtx
  rw [if_neg (by simp; omega), if_neg (by simp; omega)]

theorem writeReg_memBlock (s : State) {off : Nat} (v : Nat) (hlo : 0x300000 ≤ off) (hhi : off < 0x400000) (h4 : off % 4 = 0) :
    writeReg s off v = plainWrite s off v := by
  simp only [writeReg, h4, fnCtx_memBlock hlo hhi]
  rw [if_neg (by simp), if_neg (by omega), if_neg (by omega), if_neg (by omega), if_neg (by omega), if_neg (by omega),
    if_neg (by omega), if_pos hhi]

theorem sqcAt_memBlock {off : Nat} (hlo : 0x300000 ≤ off) (hhi : off < 0x400000) : sqcAt off = sqcSingles.find? fun f => f.off == off := by
  simp only [sqcAt, fnCtx_memBlock hlo hhi]
  rw [if_neg (by simp; omega), if_neg (by simp; omega), if_neg (by simp; omega)]

/-- Every status of the map stands in a register. -/
theorem regRow_sqcSingles : ∀ f ∈ sqcSingles, regRow f.off ≠ none := by decide +kernel

/-- Where the memory block has no register, no status can clear. -/
theorem sqcAt_of_noRegister {off : Nat} (hlo : 0x300000 ≤ off) (hhi : off < 0x400000) (hr : regRow off = none) : sqcAt off = none := by
  rw [sqcAt_memBlock hlo hhi, List.find?_eq_none]
  intro f hf hoff
  exact regRow_sqcSingles f hf (by rw [eq_of_beq hoff, hr])

theorem plainWrite_noSqc (s : State) {off : Nat} (v : Nat) (h : sqcAt off = none) : plainWrite s off v = writeWord s off v := by
  simp [plainWrite, h]

theorem plainWrite_absent {s : State} {off : Nat} (v : Nat) (h : slotPresent s off = false) : plainWrite s off v = writeWord s off v := by
  simp only [plainWrite, h]
  split <;> rfl

theorem writeWord_register {s : State} {off : Nat} {r : RegRow} {i j : Nat} (v : Nat) (hr : regRow off = some (r, i, j))
    (hp : slotPresent s off = true) : writeWord s off v = storeWord s r off v := by simp [writeWord, hr, hp]

theorem writeWord_noRegister (s : State) {off : Nat} (v : Nat) (h : regRow off = none) : writeWord s off v = s.ignWrite := by
  simp [writeWord, h]

theorem writeWord_absent {s : State} {off : Nat} (v : Nat) (h : slotPresent s off = false) : writeWord s off v = s.ignWrite := by
  simp only [writeWord, h]
  split <;> rfl

/-- A word write to the memory block that meets no register is ignored and counted. -/
theorem writeReg_memBlock_ignored {s : State} {off : Nat} (v : Nat) (hlo : 0x300000 ≤ off) (hhi : off < 0x400000)
    (h : off % 4 ≠ 0 ∨ regRow off = none ∨ slotPresent s off = false) : writeReg s off v = s.ignWrite := by
  by_cases h4 : off % 4 = 0
  · rw [writeReg_memBlock s v hlo hhi h4]
    rcases h with h | h | h
    · exact absurd h4 h
    · rw [plainWrite_noSqc s v (sqcAt_of_noRegister hlo hhi h), writeWord_noRegister s v h]
    · rw [plainWrite_absent v h, writeWord_absent v h]
  · simp [writeReg, h4]

/-! ### A stored word -/

theorem bit_lowWord (v : BitVec 64) {b : Nat} (hb : b < 32) : bit (v.toNat % 2 ^ 32) b = v.getLsbD b := by
  rw [bit, Nat.testBit_mod_two_pow, decide_eq_true hb, Bool.true_and, BitVec.testBit_toNat]

theorem storeWord_eq (s : State) (r : RegRow) (off v : Nat) :
    ∃ t : State, storeWord s r off v = t.setReg off ((s.reg off ^^^ (s.reg off &&& (r.rw ||| r.rwk))) ||| (v &&& (r.rw ||| r.rwk))) ∧
      (t = s ∨ t = s.count F.REG_RWK_CHANGED) := by
  refine ⟨_, rfl, ?_⟩
  split
  · exact .inl rfl
  · exact .inr rfl

/-- A stored word takes the written value in its RW and RWK bits. -/
theorem storeWord_bit (s : State) (r : RegRow) (off v : Nat) {b : Nat} (hb : b < 32) :
    bit ((storeWord s r off v).reg off) b = if bit (r.rw ||| r.rwk) b then bit v b else bit (s.reg off) b := by
  obtain ⟨t, ht, -⟩ := storeWord_eq s r off v
  rw [ht, bit_reg_setReg t off _ hb]
  simp only [bit, Nat.testBit_or, Nat.testBit_xor, Nat.testBit_and]
  cases r.rw.testBit b <;> cases r.rwk.testBit b <;> simp

theorem storeWord_frame (s : State) (r : RegRow) (off v : Nat) :
    RegsBut s (storeWord s r off v) [off] ∧ CntBut s (storeWord s r off v) [F.REG_RWK_CHANGED] ∧ MemSame s (storeWord s r off v) := by
  obtain ⟨t, ht, rfl | rfl⟩ := storeWord_eq s r off v
  · rw [ht]; exact ⟨regsBut_setReg t off _, fun _ _ => rfl, fun _ => rfl⟩
  · rw [ht]
    exact ⟨regsBut_setReg (s.count F.REG_RWK_CHANGED) off _, fun k hk => smGet_smSet_ne _ _ _ (by simpa using hk), fun _ => rfl⟩

/-! ## The statement -/

/-- Settles O57, from the snapshot's copy and marks, the SQC clear, and the stored or ignored word. -/
theorem snapshotsAndWrites : Obligations.SnapshotsAndWrites := by
  refine ⟨fun s scope ha hr hs => ⟨fun h => ?_, fun h => ?_⟩, fun s r seq ha hr hp => ⟨fun h0 h => ?_, fun h => ?_⟩,
    fun s off v hr => ⟨fun r i j ha hlo hhi h4 hrow hsqc hpr => ?_, fun ha hlo hhi h => ?_, fun hb => ?_⟩⟩
  · exact ⟨_, exec_snapCmd ha hr hs, snapCmd_refused h⟩
  · exact ⟨_, exec_snapCmd ha hr hs, snapCmd_taken h hs⟩
  · obtain ⟨hwid, hlo⟩ := sqcField_byte r
    exact ⟨_, by rw [exec_sqcClearWrite seq ha hr hp, clearSqc_own h0 h], set_zero_byte s hwid hlo⟩
  · exact ⟨s, by rw [exec_sqcClearWrite seq ha hr hp, clearSqc_other h], rfl⟩
  · have hw : writeAny s off (v.toNat % 2 ^ 32) = storeWord s r off (v.toNat % 2 ^ 32) := by
      rw [writeAny_active _ ha hr, writeReg_memBlock s _ hlo hhi h4, plainWrite_noSqc s _ hsqc, writeWord_register _ hrow hpr]
    obtain ⟨hregs, hcnt, hmem⟩ := storeWord_frame s r off (v.toNat % 2 ^ 32)
    refine ⟨_, by rw [exec_registerWrite_word, hw], hregs, hcnt, hmem, fun b hb => ?_⟩
    rw [storeWord_bit s r off _ hb, bit_lowWord v hb]
  · exact ⟨s.ignWrite, by rw [exec_registerWrite_word, writeAny_active _ ha hr, writeReg_memBlock_ignored _ hlo hhi h], ignored_ignWrite s⟩
  · exact ⟨s.ignWrite, by rw [exec_registerWrite_word, writeAny_bringUp _ hb hr], ignored_ignWrite s⟩

end Sys2Proof.Machine

/-! ## Rotating order (R19) -/

namespace Sys2Proof.Machine

/-- From the pointer, the steps to `v` lead to `v`. -/
theorem add_stepsTo_mod (p : Nat) {n v : Nat} (hv : v < n) : (p + (v + n - p % n) % n) % n = v := by
  have hp : p % n < n := Nat.mod_lt _ (by omega)
  rw [← Nat.mod_add_mod, Nat.add_mod_mod, show p % n + (v + n - p % n) = v + n by omega, Nat.add_mod_right, Nat.mod_eq_of_lt hv]

/-- `k` steps from the pointer is at a distance of `k`. -/
theorem stepsTo_add_mod (p : Nat) {n k : Nat} (hk : k < n) : ((p + k) % n + n - p % n) % n = k := by
  have hp : p % n < n := Nat.mod_lt _ (by omega)
  rw [← Nat.mod_add_mod]
  rcases Nat.lt_or_ge (p % n + k) n with h | h
  · rw [Nat.mod_eq_of_lt h, show p % n + k + n - p % n = k + n by omega, Nat.add_mod_right, Nat.mod_eq_of_lt hk]
  · rw [Nat.mod_eq_sub_mod h, Nat.mod_eq_of_lt (by omega : p % n + k - n < n), show p % n + k - n + n - p % n = k by omega,
      Nat.mod_eq_of_lt hk]

/-- Rotating order takes the accepted index that is nearest to the pointer, going up and wrapping. -/
theorem rotate_eq_some {n p v : Nat} {ok : Nat → Bool} (hv : v < n) (hok : ok v = true)
    (hnear : ∀ w, w < n → ok w = true → (v + n - p % n) % n ≤ (w + n - p % n) % n) : rotate n p ok = some v := by
  have hfind : (List.range n).find? (ok ∘ fun k => (p + k) % n) = some ((v + n - p % n) % n) := by
    rw [List.find?_range_eq_some]
    refine ⟨by simpa [add_stepsTo_mod p hv] using hok, List.mem_range.2 (Nat.mod_lt _ (by omega)), fun j hj => ?_⟩
    have hjn : j < n := hj.trans (Nat.mod_lt _ (by omega))
    by_contra hacc
    have hle := hnear ((p + j) % n) (Nat.mod_lt _ (by omega)) (by simpa using hacc)
    rw [stepsTo_add_mod p hjn] at hle
    omega
  rw [rotate, List.find?_map, hfind, Option.map_some, add_stepsTo_mod p hv]

end Sys2Proof.Machine

/-! ## The crossbar (R16–R18) -/

namespace Sys2Proof.Machine

/-! ### Which descriptor is delivered -/

/-- At an engine's input, the home sequencer's descriptors are those of the engine's own domain. -/
theorem fromHome_of_eng {d : Desc} {e : Nat} (h : d.eng = e) : fromHome d = (d.th.dom == e / 4) := by subst h; rfl

theorem find?_fromHome {l : List Desc} {e : Nat} (h : ∀ x ∈ l, x.eng = e) :
    l.find? fromHome = (l.filter fun x => x.th.dom == e / 4).head? := by
  rw [← List.head?_filter, List.filter_congr fun x hx => fromHome_of_eng (h x hx)]

theorem filter_not_fromHome {l : List Desc} {e : Nat} (h : ∀ x ∈ l, x.eng = e) :
    (l.filter fun d => !fromHome d) = l.filter fun x => x.th.dom != e / 4 :=
  List.filter_congr fun x hx => by rw [fromHome_of_eng (h x hx)]; rfl

/-- The oldest descriptor of the home sequencer goes first. -/
theorem xbarPick_home {n e : Nat} {g : Engine} {d : Desc} (h : g.input.find? fromHome = some d) (hq : g.queue.length < 32) :
    xbarPick n g e = some (d, false) := by
  simp [xbarPick, h, queueRoom, hq]

/-- Without one, the oldest descriptor of the domain that is nearest to the pointer; here every descriptor at the input is of
another sequencer. -/
theorem xbarPick_other {n e : Nat} {g : Engine} {d : Desc} (heng : ∀ x ∈ g.input, x.eng = e)
    (hall : (g.input.filter fun x => x.th.dom != e / 4) = g.input)
    (hd : (g.input.filter fun x => x.th.dom == d.th.dom).head? = some d) (hq : queueRoom g.queue false = true)
    (hdom : ∀ x ∈ g.input, x.th.dom < n)
    (hnear : ∀ x ∈ g.input, (d.th.dom + n - g.ptr % n) % n ≤ (x.th.dom + n - g.ptr % n) % n) :
    xbarPick n g e = some (d, decide (1 < g.input.length)) := by
  have hmem : d ∈ g.input := (List.mem_filter.1 (List.mem_of_mem_head? hd)).1
  have haway : ∀ x ∈ g.input, x.th.dom ≠ e / 4 := by simpa using List.filter_eq_self.1 hall
  have hhome : g.input.find? fromHome = none :=
    List.find?_eq_none.2 fun x hx => by simpa [fromHome_of_eng (heng x hx)] using haway x hx
  have hrot : rotate n g.ptr (fun k => k != homeOf e && g.input.any fun x => x.th.dom == k) = some d.th.dom := by
    refine rotate_eq_some (hdom d hmem) ?_ fun w _ hw => ?_
    · simpa [homeOf, haway d hmem] using ⟨d, hmem, rfl⟩
    · obtain ⟨-, x, hx, rfl⟩ : w ≠ homeOf e ∧ ∃ x ∈ g.input, x.th.dom = w := by simpa using hw
      exact hnear x hx
  rw [List.head?_filter] at hd
  simp [xbarPick, hhome, hq, filter_not_fromHome heng, hall, hrot, hd]

/-! ### What a delivery does -/

theorem foldl_count_eq {α : Type} (f : α → RF) (l : List α) (s : State) :
    ∃ m, l.foldl (fun s x => s.count (f x)) s = { s with cnt := m } := by
  induction l generalizing s with
  | nil => exact ⟨s.cnt, rfl⟩
  | cons x l ih =>
    obtain ⟨m, hm⟩ := ih (s.count (f x))
    exact ⟨m, hm.trans rfl⟩

/-- Marking the descriptors that find no entry changes counts and the engine's marks, which name descriptors at its input. -/
theorem markStuck_eq (s : State) (e : Nat) :
    ∃ marks m, markStuck s e = { s.setEngine e { s.engine e with stuck := marks } with cnt := m } ∧
      ∀ n ∈ marks, ∃ d ∈ (s.engine e).input, d.no = n := by
  unfold markStuck
  obtain ⟨m, hm⟩ := foldl_count_eq (fun d : Desc => F.SEQ_XBAR_WAIT d.th.dom) _ _
  refine ⟨_, m, hm, fun n hn => ?_⟩
  simpa using (List.mem_filter.1 hn).2

/-- The picked descriptor moves from the input to the end of the queue. -/
theorem xbarDeliver_spec {s : State} {e : Nat} {d : Desc} {move : Bool} (h : xbarPick (nDom s) (s.engine e) e = some (d, move)) :
    let u := xbarDeliver s e
    (u.engine e).queue = (s.engine e).queue ++ [d] ∧ (u.engine e).input = (s.engine e).input.erase d ∧
      (u.engine e).ptr = (if move then ((s.engine e).ptr + 1) % nDom s else (s.engine e).ptr) ∧ RegsBut s u [] ∧ MemSame s u ∧
      ((∀ x ∈ (s.engine e).input.erase d, x.no ≠ d.no) → d.no ∉ (u.engine e).stuck) := by
  simp only [xbarDeliver, h]
  obtain ⟨marks, m, hu, hmarks⟩ := markStuck_eq (s.setEngine e { s.engine e with
    input := (s.engine e).input.erase d, queue := (s.engine e).queue ++ [d],
    ptr := if move then ((s.engine e).ptr + 1) % nDom s else (s.engine e).ptr }) e
  have heng : ∀ (t : State) (x : Engine), ({ t.setEngine e x with cnt := m } : State).engine e = x :=
    fun t x => t.engine_setEngine_self e x
  rw [State.engine_setEngine_self] at hu hmarks
  rw [hu, heng]
  refine ⟨rfl, rfl, rfl, fun _ _ => rfl, fun _ => rfl, fun hno hstuck => ?_⟩
  obtain ⟨x, hx, hxd⟩ := hmarks _ hstuck
  exact hno x hx hxd

theorem exec_xbarDeliver {s : State} (e : Nat) (ha : s.pst = 3) : exec (.xbarDeliver e) s = .next (xbarDeliver s e) := by
  show Host.Outcome.next (inActive s _) = _
  rw [inActive, if_pos ha]

/-- Settles O27, from the descriptor that is picked and what its delivery does. -/
theorem crossbarDelivery : Obligations.CrossbarDelivery := by
  intro s e d ha g n others heng
  refine ⟨fun hd hq => ⟨_, exec_xbarDeliver e ha, ?_⟩, fun hall hd hq hother hptr hdom hnear => ⟨_, exec_xbarDeliver e ha, ?_⟩⟩
  · exact xbarDeliver_spec (xbarPick_home ((find?_fromHome heng).trans hd) hq)
  · have hroom : queueRoom g.queue false = true := by
      rw [queueRoom, decide_eq_true hq]
      exact decide_eq_true hother
    rw [hall] at hd hdom hnear ⊢
    have hpick := xbarPick_other heng hall hd hroom hdom (by simpa only [Nat.mod_eq_of_lt hptr] using hnear)
    obtain ⟨hqueue, hinput, hp, hregs, hmem, -⟩ := xbarDeliver_spec hpick
    exact ⟨hqueue, hinput, by simpa using hp, hregs, hmem⟩

end Sys2Proof.Machine

/-! ## Sync units: what an operation leaves alone (R138, R139) -/

namespace Sys2Proof.Machine

/-- A predicate that has been written reads what was written. -/
theorem Thread.pr_setP_self (x : Thread) {n : Nat} (v : Bool) (hn : n < 8) : (x.setP n v).pr n = v := by
  have hbit : bit (putBit x.p.toNat n v) n = v := by
    rw [bit_eq_bits, putBit, bits_putBits_self]
    cases v <;> rfl
  rw [Thread.pr, Thread.setP, BitVec.getLsbD_ofNat, decide_eq_true hn, Bool.true_and]
  exact hbit

theorem CqFrame.sy {s u : State} (h : CqFrame s u) : u.sy = s.sy := by rw [h.rest]

/-- The requests, the pointers, the counts and the signals performed stay, with memory: of the sync units only recorded waiters may change. -/
structure SyncFrame (s u : State) : Prop where
  sy : u.sy = { s.sy with waiters := u.sy.waiters }
  mem : u.mem = s.mem
  variant : u.variant = s.variant

theorem SyncFrame.refl (s : State) : SyncFrame s s := ⟨rfl, rfl, rfl⟩

theorem SyncFrame.trans {a b c : State} (h : SyncFrame a b) (k : SyncFrame b c) : SyncFrame a c :=
  ⟨by rw [k.sy, h.sy], k.mem.trans h.mem, k.variant.trans h.variant⟩

theorem CqFrame.syncFrame {s u : State} (h : CqFrame s u) : SyncFrame s u :=
  ⟨by rw [h.sy], by rw [h.rest], by rw [h.rest]⟩

variable {s u : State}

theorem SyncFrame.reqs (h : SyncFrame s u) : u.sy.reqs = s.sy.reqs := by rw [h.sy]
theorem SyncFrame.ptr (h : SyncFrame s u) : u.sy.ptr = s.sy.ptr := by rw [h.sy]
theorem SyncFrame.landed (h : SyncFrame s u) : u.sy.landed = s.sy.landed := by rw [h.sy]
theorem SyncFrame.syncCount (h : SyncFrame s u) (o : Nat) : u.syncCount o = s.syncCount o := by rw [State.syncCount, State.syncCount, h.sy]
theorem SyncFrame.setCount (h : SyncFrame s u) (o n : Nat) : SyncFrame (s.setCount o n) (u.setCount o n) :=
  ⟨by rw [State.setCount, State.setCount, h.sy], h.mem, h.variant⟩
theorem SyncFrame.memSame (h : SyncFrame s u) : MemSame s u := memSame_of_mem h.mem h.variant

/-! ### A thread that faults (R136, R137) -/

theorem completeProgram_syncFrame (s : State) (p : Program) (tail : List Byte) (code kind slot : Nat) :
    SyncFrame s (completeProgram s p tail code kind slot) := by
  obtain ⟨m, hm⟩ := dropProgram_eq s p
  have hevent : SyncFrame s (programEvent (dropProgram s p) p.dom code kind slot) := by
    rw [programEvent_rest, hm]
    exact ⟨rfl, rfl, rfl⟩
  exact hevent.trans ((reclaim_frame _).trans (cqOwnPost_frame _ _ _ _ _)).syncFrame

theorem stopProgram_syncFrame (s : State) (p : Program) (kind : Nat) : SyncFrame s (stopProgram s p kind) := by
  obtain ⟨m, z, h⟩ := stopProgram_eq s p kind
  rw [h]
  exact ⟨rfl, rfl, rfl⟩

theorem haltThread_syncFrame (s : State) (t : Th) (kind trap : Nat) : SyncFrame s (haltThread s t kind trap) := by
  have hstop : ∀ (x : Thread) (q : Program),
      SyncFrame s (if kind = 0 then (s.setThr t x).setProg q else stopProgram ((s.setThr t x).setProg q) q kind) := by
    intro x q
    have hset : SyncFrame s ((s.setThr t x).setProg q) := ⟨rfl, rfl, rfl⟩
    split
    · exact hset
    · exact hset.trans (stopProgram_syncFrame _ q kind)
  unfold haltThread
  extract_lets x
  split
  · exact ⟨rfl, rfl, rfl⟩
  · extract_lets q halted stopped
    have hframe : SyncFrame s stopped := hstop _ q
    split
    · split
      · exact hframe.trans (completeProgram_syncFrame _ _ _ _ _ _)
      · exact hframe.trans (completeProgram_syncFrame _ _ _ _ _ _)
    · exact hframe

/-! ### A count that has changed (R139, R444) -/

theorem foldl_resume_syncFrame {α : Type} (th : α → Th) (f : α → Thread → Thread) (l : List α) (s : State) :
    SyncFrame s (l.foldl (fun s x => s.resume (th x) (f x)) s) := by
  induction l generalizing s with
  | nil => exact .refl s
  | cons x l ih =>
    have hx : SyncFrame s (s.resume (th x) (f x)) := ⟨rfl, rfl, rfl⟩
    exact hx.trans (ih _)

theorem wakeMet_syncFrame (s : State) (obj : Nat) : SyncFrame s (wakeMet s obj) := by
  refine SyncFrame.trans ?_ (foldl_resume_syncFrame Waiter.th _ _ _)
  exact ⟨rfl, rfl, rfl⟩

theorem sqDoorbell_frame (s : State) (k prod : Nat) : CqFrame s (sqDoorbell s k prod).1 := by
  unfold sqDoorbell
  dsimp only
  split
  · exact .refl s
  · split
    · exact ⟨rfl, rfl, rfl, fun _ _ => rfl⟩
    · exact (setSqd_frame s k _).trans (sqFetch_frame _ k)

theorem syncDoorbells_frame (s : State) (obj : Nat) : CqFrame s (syncDoorbells s obj) := by
  have hfold : ∀ (ks : List Nat) (u : State), CqFrame s u → CqFrame s (ks.foldl (fun s k => (sqDoorbell s k (s.syncCount obj % 65536)).1) u) := by
    intro ks
    induction ks with
    | nil => exact fun _ h => h
    | cons k ks ih => exact fun u h => ih _ (h.trans (sqDoorbell_frame u k _))
  exact hfold _ s (.refl s)

theorem countChanged_syncFrame (s : State) (obj : Nat) : SyncFrame s (countChanged s obj) :=
  (wakeMet_syncFrame s obj).trans (syncDoorbells_frame _ obj).syncFrame

theorem syncReturn_syncFrame (s : State) (r : SyncReq) (f : Thread → Thread) : SyncFrame s (syncReturn s r f) := by
  unfold syncReturn
  split
  · exact .refl s
  · split
    · exact ⟨rfl, rfl, rfl⟩
    · exact .refl s

theorem recordWaiter_syncFrame (s : State) (r : SyncReq) (v : Word) (expiry : Option (Nat × Nat)) (pd : Option Nat) :
    SyncFrame s (recordWaiter s r v expiry pd) := by
  unfold recordWaiter
  split
  · exact .refl s
  · split
    · exact ⟨rfl, rfl, rfl⟩
    · exact .refl s

theorem doSignal_syncFrame (s : State) (obj n : Nat) :
    SyncFrame (s.setCount obj (min (s.syncCount obj + n) (2 ^ 64 - 1))) (doSignal s obj n) := by
  unfold doSignal
  dsimp only
  refine SyncFrame.trans ?_ (countChanged_syncFrame _ obj)
  split <;> exact ⟨rfl, rfl, rfl⟩

/-! ### One operation -/

/-- The state in which a unit performs an operation: it has counted it (R154). -/
def syncOps (s : State) (r : SyncReq) : State := s.count (F.SYNC_OPS (syncDom (syncOwner s r.obj)))

theorem syncOps_syncFrame (s : State) (r : SyncReq) : SyncFrame s (syncOps s r) := ⟨rfl, rfl, rfl⟩

/-- The counts after an operation that is performed: a signal adds and saturates (R138), an arm sets (R139). -/
def syncCounted (s : State) (r : SyncReq) : State :=
  match r.op with
  | .signal n => s.setCount r.obj (min (s.syncCount r.obj + n) (2 ^ 64 - 1))
  | .arm v => s.setCount r.obj v.toNat
  | _ => s

/-- An operation changes its own object's count only. -/
theorem syncCounted_eq (s : State) (r : SyncReq) : syncCounted s r = s ∨ ∃ n, syncCounted s r = s.setCount r.obj n := by
  unfold syncCounted
  split
  · exact .inr ⟨_, rfl⟩
  · exact .inr ⟨_, rfl⟩
  · exact .inl rfl

/-- The requester's context owns the object, or the request is not checked (R141). -/
def SyncOwned (s : State) (r : SyncReq) : Prop := ∀ c, r.ctx = some c → s.ownsSync c r.obj = true

section Performed

variable {r : SyncReq} (ho : SyncOwned s r)
include ho

/-- An owner's request runs as one that is not checked. -/
theorem syncPerform_unchecked : syncPerform s r = syncPerform s { r with ctx := none } := by
  obtain ⟨req, obj, ctx, op, th, entry, pkt⟩ := r
  cases ctx with
  | none => rfl
  | some c =>
    have hc : s.ownsSync c obj = true := ho c rfl
    simp only [syncPerform, hc]
    rfl

theorem syncPerform_signal {n : Nat} (hop : r.op = .signal n) (hpkt : r.pkt = none) :
    syncPerform s r = syncReturn (doSignal (syncOps s r) r.obj n) r := by
  rw [syncPerform_unchecked ho, syncPerform]
  simp only [hop, hpkt]
  rfl

theorem syncPerform_arm {v : Word} (hop : r.op = .arm v) :
    syncPerform s r = syncReturn (countChanged ((syncOps s r).setCount r.obj v.toNat) r.obj) r := by
  rw [syncPerform_unchecked ho, syncPerform]
  simp only [hop]
  rfl

theorem syncPerform_wait {v : Word} (hop : r.op = .wait v) :
    syncPerform s r = if v.toNat ≤ s.syncCount r.obj then syncReturn (syncOps s r) r
      else recordWaiter (syncOps s r) r v none none := by
  rw [syncPerform_unchecked ho, syncPerform]
  simp only [hop]
  rfl

theorem syncPerform_waitt {v : Word} {ticks pd : Nat} (hop : r.op = .waitt v ticks pd) :
    syncPerform s r =
      if v.toNat ≤ s.syncCount r.obj then syncReturn (syncOps s r) r (·.setP pd true)
      else recordWaiter (syncOps s r) r v (some (s.expiry ticks, pd)) (some pd) := by
  rw [syncPerform_unchecked ho, syncPerform]
  simp only [hop]
  rfl

theorem syncPerform_read {gd : Nat} (hop : r.op = .read gd) :
    syncPerform s r = syncReturn (syncOps s r) r (·.setG gd (BitVec.ofNat 64 (s.syncCount r.obj))) := by
  rw [syncPerform_unchecked ho, syncPerform]
  simp only [hop]
  rfl

/-- An operation of an owner changes its object's count and recorded waiters. -/
theorem syncPerform_owned_syncFrame (hpkt : r.pkt = none) : SyncFrame (syncCounted s r) (syncPerform s r) := by
  have hops := syncOps_syncFrame s r
  unfold syncCounted
  cases hop : r.op with
  | signal n =>
    rw [syncPerform_signal ho hop hpkt]
    exact (hops.setCount _ _).trans ((doSignal_syncFrame _ _ _).trans (syncReturn_syncFrame _ _ _))
  | arm v =>
    rw [syncPerform_arm ho hop]
    exact (hops.setCount _ _).trans ((countChanged_syncFrame _ _).trans (syncReturn_syncFrame _ _ _))
  | wait v =>
    rw [syncPerform_wait ho hop]
    refine hops.trans ?_
    split
    · exact syncReturn_syncFrame _ _ _
    · exact recordWaiter_syncFrame _ _ _ _ _
  | waitt v ticks pd =>
    rw [syncPerform_waitt ho hop]
    refine hops.trans ?_
    split
    · exact syncReturn_syncFrame _ _ _
    · exact recordWaiter_syncFrame _ _ _ _ _
  | read gd =>
    rw [syncPerform_read ho hop]
    exact hops.trans (syncReturn_syncFrame _ _ _)

end Performed

/-- A refused operation faults its thread, or is counted where the tick unit sent it, and changes no count (R141, R179). -/
theorem syncPerform_refused_syncFrame {r : SyncReq} (h : ¬ SyncOwned s r) : SyncFrame s (syncPerform s r) := by
  obtain ⟨c, hctx, hc⟩ : ∃ c, r.ctx = some c ∧ s.ownsSync c r.obj = false := by simpa [SyncOwned] using h
  simp only [syncPerform, hctx, hc, Bool.not_false, if_true]
  split
  · split
    · exact haltThread_syncFrame _ _ _ _
    · exact .refl s
  · split
    · exact ⟨rfl, rfl, rfl⟩
    · exact .refl s

/-- Whatever a unit performs, the requests that wait, the pointers and the signals performed stay. -/
theorem syncPerform_keeps (s : State) {r : SyncReq} (hpkt : r.pkt = none) :
    let u := syncPerform s r
    u.sy.reqs = s.sy.reqs ∧ u.sy.ptr = s.sy.ptr ∧ u.sy.landed = s.sy.landed := by
  by_cases ho : SyncOwned s r
  · have h := syncPerform_owned_syncFrame ho hpkt
    rcases syncCounted_eq s r with hc | ⟨n, hc⟩ <;> rw [hc] at h <;> exact ⟨h.reqs, h.ptr, h.landed⟩
  · have h := syncPerform_refused_syncFrame ho
    exact ⟨h.reqs, h.ptr, h.landed⟩

/-- What an owner's operation leaves of the counts (R138, R139). -/
theorem syncCount_after {s u : State} {r : SyncReq} (h : SyncFrame (syncCounted s r) u) :
    let c := s.syncCount r.obj
    (∀ o, o ≠ r.obj → u.syncCount o = s.syncCount o) ∧
      (∀ n, r.op = .signal n → u.syncCount r.obj = min (c + n) (2 ^ 64 - 1)) ∧ (∀ v, r.op = .arm v → u.syncCount r.obj = v.toNat) ∧
      (∀ v, r.op = .wait v → u.syncCount r.obj = c) ∧ ∀ gd, r.op = .read gd → u.syncCount r.obj = c := by
  refine ⟨fun o ho => ?_, fun n hop => ?_, fun v hop => ?_, fun v hop => ?_, fun gd hop => ?_⟩
  · rw [h.syncCount]
    rcases syncCounted_eq s r with hc | ⟨n, hc⟩
    · rw [hc]
    · rw [hc, State.syncCount_setCount_ne _ _ ho]
  · rw [h.syncCount, syncCounted, hop]
    exact State.syncCount_setCount_self _ _ _
  · rw [h.syncCount, syncCounted, hop]
    exact State.syncCount_setCount_self _ _ _
  · rw [h.syncCount, syncCounted, hop]
  · rw [h.syncCount, syncCounted, hop]

/-- An owner's operation leaves memory. -/
theorem syncCounted_memSame {s u : State} {r : SyncReq} (h : SyncFrame (syncCounted s r) u) : MemSame s u := by
  rcases syncCounted_eq s r with hc | ⟨n, hc⟩ <;> rw [hc] at h <;> exact h.memSame

/-! ### The thread that waits for the unit -/

section Waiting

variable {r : SyncReq} {t : Th} {live : Nat} (ho : SyncOwned s r) (hth : r.th = some (t, live)) (hlive : (s.thr t).live = live)
  (hpend : (s.thr t).pend = .sync)

include hth hlive in
/-- A waiter is recorded for a thread that is still in that start. -/
theorem recordWaiter_live (v : Word) (expiry : Option (Nat × Nat)) (pd : Option Nat) :
    let u := recordWaiter s r v expiry pd
    u.thr t = { s.thr t with st := .waiting, cause := 1 } ∧ u.sy.waiters = s.sy.waiters ++ [⟨r.obj, v, t, expiry, pd⟩] := by
  simp only [recordWaiter, hth, hlive, if_true]
  exact ⟨State.thr_setThr_self _ _ _, rfl⟩

include hth hlive hpend

/-- A thread in that start that waits for the unit goes on. -/
theorem syncReturn_waiting (f : Thread → Thread) :
    let u := syncReturn s r f
    u.thr t = (f { s.thr t with st := .ready, cause := 0, pend := .none }).next ∧ u.sy = s.sy := by
  subst hlive
  simp only [syncReturn, hth, hpend, decide_true, Bool.and_self, if_true]
  exact ⟨State.thr_setThr_self _ _ _, rfl⟩

include ho

/-- WAIT: it goes on where the count meets the threshold, else its waiter is recorded (R139, R179). -/
theorem syncPerform_wait_thread {v : Word} (hop : r.op = .wait v) :
    let u := syncPerform s r
    if v.toNat ≤ s.syncCount r.obj then
      (u.thr t).st = .ready ∧ (u.thr t).pc = (s.thr t).pc + 8#64 ∧ u.sy.waiters = s.sy.waiters
    else (u.thr t).st = .waiting ∧ (u.thr t).cause = 1 ∧ (u.thr t).pc = (s.thr t).pc ∧
      u.sy.waiters = s.sy.waiters ++ [⟨r.obj, v, t, none, none⟩] := by
  rw [syncPerform_wait ho hop]
  by_cases hmet : v.toNat ≤ s.syncCount r.obj
  · simp only [if_pos hmet]
    obtain ⟨hthr, hsy⟩ := syncReturn_waiting (s := syncOps s r) hth hlive hpend id
    exact ⟨by rw [hthr]; rfl, by rw [hthr]; rfl, by rw [hsy]; rfl⟩
  · simp only [if_neg hmet]
    obtain ⟨hthr, hws⟩ := recordWaiter_live (s := syncOps s r) hth hlive v none none
    exact ⟨by rw [hthr], by rw [hthr], by rw [hthr]; rfl, hws⟩

/-- WAITT: as WAIT, with its predicate set where the threshold is met, and a timer on the waiter elsewhere (R140). -/
theorem syncPerform_waitt_thread {v : Word} {ticks pd : Nat} (hop : r.op = .waitt v ticks pd) (hpd : pd < 8) :
    let u := syncPerform s r
    if v.toNat ≤ s.syncCount r.obj then (u.thr t).st = .ready ∧ (u.thr t).pr pd = true ∧ u.sy.waiters = s.sy.waiters
    else (u.thr t).st = .waiting ∧ (u.thr t).cause = 1 ∧
      u.sy.waiters = s.sy.waiters ++ [⟨r.obj, v, t, some (s.tk.count + max ticks 1, pd), some pd⟩] := by
  rw [syncPerform_waitt ho hop]
  by_cases hmet : v.toNat ≤ s.syncCount r.obj
  · simp only [if_pos hmet]
    obtain ⟨hthr, hsy⟩ := syncReturn_waiting (s := syncOps s r) hth hlive hpend (·.setP pd true)
    exact ⟨by rw [hthr]; rfl, by rw [hthr]; exact Thread.pr_setP_self _ true hpd, by rw [hsy]; rfl⟩
  · simp only [if_neg hmet]
    obtain ⟨hthr, hws⟩ := recordWaiter_live (s := syncOps s r) hth hlive v (some (s.expiry ticks, pd)) (some pd)
    exact ⟨by rw [hthr], by rw [hthr], hws⟩

/-- A read returns the count in its register and leaves the others. -/
theorem syncPerform_read_thread {gd : Nat} (hop : r.op = .read gd) :
    let u := syncPerform s r
    (u.thr t).st = .ready ∧ (gd ≠ 0 → (u.thr t).gr gd = BitVec.ofNat 64 (s.syncCount r.obj)) ∧
      ∀ n, n ≠ gd → (u.thr t).gr n = (s.thr t).gr n := by
  rw [syncPerform_read ho hop]
  obtain ⟨hthr, -⟩ := syncReturn_waiting (s := syncOps s r) hth hlive hpend (·.setG gd (BitVec.ofNat 64 (s.syncCount r.obj)))
  refine ⟨?_, fun h => ?_, fun n hn => ?_⟩
  · rw [hthr, Thread.next, Thread.setG]
    split <;> rfl
  · rw [hthr]
    exact Thread.gr_setG_self _ _ h
  · rw [hthr]
    exact Thread.gr_setG_ne _ _ hn

end Waiting

end Sys2Proof.Machine

/-! ## Sync units: which request is taken (R19, R141) -/

namespace Sys2Proof.Machine

/-- The first request that is asked for is taken, and the others stay in order. -/
theorem takeSync_append {p : SyncReq → Bool} {pre post : List SyncReq} {r : SyncReq} (hpre : ∀ q ∈ pre, p q = false) (hr : p r = true) :
    takeSync p (pre ++ r :: post) = some (r, pre ++ post) := by
  induction pre with
  | nil => simp [takeSync, hr]
  | cons a pre ih =>
    rw [List.forall_mem_cons] at hpre
    simp [takeSync, hpre.1, ih hpre.2]

/-- The state in which unit `g` performs the request that it has taken: `rest` are left, its pointer has moved on where one of them
waits at it (R19), and `m` are the counts. -/
def syncTaken (s : State) (g : Nat) (rest : List SyncReq) (m : SMap Nat) : State :=
  let p := smGet s.sy.ptr g 0
  { s with
    cnt := m
    sy := { s.sy with
      reqs := rest
      ptr := smPut 0 s.sy.ptr g (if rest.any fun q => syncOwner s q.obj == g then (p + 1) % 83 else p) } }

/-- A unit at which further requests wait counts that (R154). -/
theorem syncTaken_contended (s : State) (g : Nat) (rest : List SyncReq) :
    ∃ m, (if (rest.any fun q => syncOwner s q.obj == g) = true then (syncTaken s g rest s.cnt).count (F.SYNC_CONTENDED (syncDom g))
      else syncTaken s g rest s.cnt) = syncTaken s g rest m := by
  split
  · exact ⟨_, rfl⟩
  · exact ⟨_, rfl⟩

/-- A unit takes the oldest request of the requester that is nearest to its pointer. -/
theorem syncServe_eq {s : State} {g : Nat} {pre post : List SyncReq} {r : SyncReq} (hreqs : s.sy.reqs = pre ++ r :: post)
    (hown : syncOwner s r.obj = g) (hreq : r.req < 83) (hpre : ∀ q ∈ pre, syncOwner s q.obj = g → q.req ≠ r.req)
    (hnear : ∀ q ∈ s.sy.reqs, syncOwner s q.obj = g →
      (r.req + 83 - smGet s.sy.ptr g 0 % 83) % 83 ≤ (q.req + 83 - smGet s.sy.ptr g 0 % 83) % 83) :
    ∃ m, syncServe s g = reclaim (syncPerform (syncTaken s g (pre ++ post) m) r) := by
  have hrot : rotate 83 (smGet s.sy.ptr g 0) (fun k => s.sy.reqs.any fun q => syncOwner s q.obj == g && q.req == k) = some r.req := by
    refine rotate_eq_some hreq ?_ fun w _ hw => ?_
    · simp [hreqs, hown]
    · obtain ⟨q, hq, howner, rfl⟩ : ∃ q ∈ s.sy.reqs, syncOwner s q.obj = g ∧ q.req = w := by simpa using hw
      exact hnear q hq howner
  have htake : takeSync (fun q => syncOwner s q.obj == g && q.req == r.req) s.sy.reqs = some (r, pre ++ post) := by
    rw [hreqs]
    exact takeSync_append (by simpa using hpre) (by simp [hown])
  obtain ⟨m, hm⟩ := syncTaken_contended s g (pre ++ post)
  simp only [syncServe, hrot, htake]
  exact ⟨m, congrArg (fun a => reclaim (syncPerform a r)) hm⟩

/-- The only request is the one that is taken. -/
theorem syncServe_single {s : State} {g : Nat} {r : SyncReq} (hreqs : s.sy.reqs = [r]) (hown : syncOwner s r.obj = g) (hreq : r.req < 83) :
    ∃ m, syncServe s g = reclaim (syncPerform (syncTaken s g [] m) r) :=
  syncServe_eq (pre := []) (post := []) hreqs hown hreq (by simp) fun q hq _ => by
    rw [hreqs, List.mem_singleton] at hq
    rw [hq]

/-! ### The command -/

/-- Without SIGNAL packets no request is refused for a check that it no longer passes. -/
theorem dropStale_eq_self {s : State} (g : Nat) (h : ∀ r ∈ s.sy.reqs, r.pkt = none) : dropStale s g = s := by
  unfold dropStale
  generalize s.sy.reqs = l at h
  induction l with
  | nil => rfl
  | cons r l ih =>
    rw [List.forall_mem_cons] at h
    rw [List.foldl_cons, h.1]
    exact ih h.2

theorem exec_syncUnitOperation {s : State} {g : Nat} (ha : s.pst = 3) (hg : g < nSync s) (hpkt : ∀ r ∈ s.sy.reqs, r.pkt = none)
    (hland : (syncServe s g).sy.landed = []) : exec (.syncUnitOperation g) s = .next (settle (syncServe s g)) := by
  have hempty : { syncServe s g with sy := { (syncServe s g).sy with landed := [] } } = syncServe s g := by
    conv_lhs => rw [← hland]
  show Host.Outcome.next (inActive s _) = _
  rw [inActive, if_pos ha, if_neg (by omega), dropStale_eq_self g hpkt]
  dsimp only
  rw [hland, hempty]
  rfl

/-! ### The statement -/

/-- Settles O17, from the request that rotating order takes and the five operations case by case. -/
theorem syncOperation : Obligations.SyncOperation := by
  refine ⟨fun s g r ha hg hreqs hown hreq hpkt hland ho => ?_, fun s g ha hg hland hall pre post r hreqs hown hpre => ?_⟩
  · intro c
    obtain ⟨m, hserve⟩ := syncServe_single hreqs hown hreq
    have hframe := reclaim_frame (syncPerform (syncTaken s g [] m) r)
    obtain ⟨hleft, -, hkeep⟩ := syncPerform_keeps (syncTaken s g [] m) hpkt
    have howned : SyncOwned (syncTaken s g [] m) r := ho
    have hchange := (syncPerform_owned_syncFrame howned hpkt).trans hframe.syncFrame
    obtain ⟨hothers, hsignal, harm, hwait, hread⟩ := syncCount_after hchange
    have hmem : MemSame (syncTaken s g [] m) _ := syncCounted_memSame hchange
    refine ⟨syncServe s g, exec_syncUnitOperation ha hg (by simpa [hreqs] using hpkt) ?_, ?_⟩
    · rw [hserve, hframe.sy, hkeep]
      exact hland
    · rw [hserve]
      refine ⟨hframe.sy ▸ hleft, hothers, hmem, hsignal, harm, hwait, hread, fun t live hth hlive hpend => ?_⟩
      rw [hframe.thr, hframe.sy]
      exact ⟨fun v hop => syncPerform_wait_thread howned hth hlive hpend hop,
        fun v ticks pd hop hpd => syncPerform_waitt_thread howned hth hlive hpend hop hpd,
        fun gd hop => syncPerform_read_thread howned hth hlive hpend hop⟩
  · intro p hp hnear
    have hr := hall r (by simp [hreqs])
    obtain ⟨m, hserve⟩ := syncServe_eq hreqs hown hr.2 hpre (by rwa [show smGet s.sy.ptr g 0 % 83 = p from Nat.mod_eq_of_lt hp])
    have hframe := reclaim_frame (syncPerform (syncTaken s g (pre ++ post) m) r)
    obtain ⟨hleft, hptr, hkeep⟩ := syncPerform_keeps (syncTaken s g (pre ++ post) m) hr.1
    refine ⟨syncServe s g, exec_syncUnitOperation ha hg (fun q hq => (hall q hq).1) ?_, ?_⟩
    · rw [hserve, hframe.sy, hkeep]
      exact hland
    · rw [hserve, hframe.sy, hleft, hptr]
      refine ⟨rfl, ?_⟩
      rw [syncTaken, smGet_smPut_self]
      simp only [List.any_eq_true, beq_iff_eq]
      rfl

end Sys2Proof.Machine

/-! ## Fields of a register, and the registers that a step leaves alone -/

namespace Sys2Proof.Machine

variable (s : State)

theorem State.reg_bump_ne {f : RF} {o : Nat} (h : o ≠ f.off) : (s.bump f).reg o = s.reg o := s.reg_set_ne _ h

theorem State.get_bump_apart {f h : RF} (hw : h.lo + h.wid ≤ 32) (hd : f.lo + f.wid ≤ h.lo ∨ h.lo + h.wid ≤ f.lo) :
    (s.bump f).get h = s.get h := s.get_set_apart _ hw hd

theorem seqNext_mod {n : Nat} (h : n < 256) : seqNext n % 256 = seqNext n := by
  unfold seqNext
  split <;> omega

/-- A SEQ field of 8 bits after an event. -/
theorem State.get_bump_seq {f : RF} (hwid : f.wid = 8) (hlo : f.lo + 8 ≤ 32) : (s.bump f).get f = seqNext (s.get f) := by
  have hlt : s.get f < 256 := by simpa [State.get, hwid] using bits_lt (s.reg f.off) f.lo f.wid
  rw [State.get_bump _ (by omega), hwid]
  exact seqNext_mod hlt

/-- An event's RESULT and SEQ (R9). -/
theorem answered_result {seq res : RF} {r : Nat} (hwid : seq.wid = 8) (hseq : seq.lo + 8 ≤ 32) (hres : res.lo + res.wid ≤ 32)
    (hd : seq.lo + 8 ≤ res.lo ∨ res.lo + res.wid ≤ seq.lo) (hr : r < 2 ^ res.wid) : Answered s (s.result seq res r) seq res r := by
  constructor
  · rw [State.result, State.get_bump_apart _ hres (by omega), State.get_set_self _ _ hres, Nat.mod_eq_of_lt hr]
  · rw [State.result, State.get_bump_seq _ hwid hseq, State.get_set_apart _ _ (by omega) (by omega)]

theorem regsBut_set (f : RF) (v : Nat) : RegsBut s (s.set f v) [f.off] := regsBut_setReg s _ _

variable {s}

theorem RegsBut.trans {t u : State} {l : List Nat} (h : RegsBut s t l) (k : RegsBut t u l) : RegsBut s u l :=
  fun o ho => (k o ho).trans (h o ho)

theorem RegsBut.mono {t : State} {l l' : List Nat} (h : RegsBut s t l) (hl : l ⊆ l') : RegsBut s t l' :=
  fun o ho => h o fun hm => ho (hl hm)

theorem flag_of_get {f : RF} (h : s.get f = 1) : s.flag f = true := by rw [State.flag, h]; rfl

theorem flag_congr {u : State} {f : RF} (h : u.get f = s.get f) : u.flag f = s.flag f := by rw [State.flag, State.flag, h]

end Sys2Proof.Machine

/-! ## The management bus (R48, R479–R483) -/

namespace Sys2Proof.Machine

variable {s : State} {c : Instr} {f : State → State} {P : State → Prop}

/-- A message that reaches the target at its dynamic address has its effect. -/
theorem runs_onBus (hon : i3cOn s = true) (haddr : s.ci.dynAddr.isSome = true) (hc : exec c s = .next (onBus s f)) (h : P (f s)) :
    Runs c s P := by
  refine ⟨f s, hc.trans ?_, h⟩
  rw [onBus, hon, haddr]
  rfl

/-- A target without a dynamic address answers no message (R48). -/
theorem runs_onBus_silent (haddr : s.ci.dynAddr = none) (hc : exec c s = .next (onBus s f)) : Runs c s fun u => u = s := by
  refine ⟨s, hc.trans ?_, rfl⟩
  rw [onBus, haddr, Option.isSome_none, Bool.and_false]
  rfl

/-- An update command in one of its states. -/
theorem runs_pldmCmd {ok : Nat → Bool} (hon : i3cOn s = true) (haddr : s.ci.dynAddr.isSome = true) (ha : s.pst = 3) (hctrl : ctrlOn s = true)
    (hc : exec c s = .next (pldmCmd s ok f)) (hok : ok s.ci.pldm = true) (h : P (f s)) : Runs c s P := by
  refine runs_onBus hon haddr hc ?_
  rw [ha, hctrl, hok]
  exact h

/-! ### Byte strings -/

@[simp] theorem toLE_length (n v : Nat) : (toLE n v).length = n := by
  induction n generalizing v with
  | zero => rfl
  | succ n ih => simp [toLE, ih]

theorem ofLE_toLE (n v : Nat) : ofLE (toLE n v) = v % 256 ^ n := by
  induction n generalizing v with
  | zero => simp [toLE, ofLE, Nat.mod_one]
  | succ n ih => rw [toLE, ofLE, ih, BitVec.toNat_ofNat, Nat.pow_succ' (m := 256), Nat.mod_mul]

/-- A number written at its place in a byte string is read back. -/
theorem fieldLE_append {pre post : List Byte} {o n v : Nat} (ho : pre.length = o) : fieldLE (pre ++ (toLE n v ++ post)) o n = v % 256 ^ n := by
  subst ho
  rw [fieldLE, List.drop_left, List.take_left' (toLE_length n v), ofLE_toLE]

/-- What a byte string holds after a transfer of `data` to `off`, the gap before it filled with zeros (R482). -/
theorem getD_splice (old data : List Byte) (off j : Nat) :
    (splice (old ++ List.replicate (off + data.length - old.length) 0#8) off data).getD j 0#8
      = if off ≤ j ∧ j < off + data.length then data.getD (j - off) 0#8 else old.getD j 0#8 := by
  have hpad (k : Nat) : (old ++ List.replicate (off + data.length - old.length) 0#8).getD k 0#8 = old.getD k 0#8 := by
    rcases lt_or_ge k old.length with h | h
    · rw [List.getD_append _ _ _ _ h]
    · rw [List.getD_append_right _ _ _ _ h, List.getD_eq_default _ _ h]
      rw [List.getD_eq_getElem?_getD, List.getElem?_getD_replicate_default_eq]
  have htake : ((old ++ List.replicate (off + data.length - old.length) 0#8).take off).length = off := by
    simp only [List.length_take, List.length_append, List.length_replicate]
    omega
  rw [splice, List.append_assoc]
  by_cases hlo : off ≤ j
  · rw [List.getD_append_right _ _ _ _ (by omega), htake]
    by_cases hhi : j < off + data.length
    · rw [if_pos ⟨hlo, hhi⟩, List.getD_append _ _ _ _ (by omega)]
    · rw [if_neg (fun h => hhi h.2), List.getD_append_right _ _ _ _ (by omega), List.getD_eq_getElem?_getD,
        List.getElem?_drop, ← List.getD_eq_getElem?_getD, show off + data.length + (j - off - data.length) = j by omega, hpad]
  · rw [if_neg (fun h => hlo h.1), List.getD_append _ _ _ _ (by omega), ← hpad j]
    simp only [List.getD_eq_getElem?_getD, List.getElem?_take, if_pos (show j < off by omega)]

/-! ### Firmware sets (R484–R487) -/

/-- FW_VERc and FW_STAGED_VERc are the only registers that show the sets. -/
theorem showSets_reg (s : State) {o : Nat} (h : o < 0x700220) : (showSets s).reg o = s.reg o := by
  unfold showSets
  refine foldl_keeps (P := fun u : State => u.reg o = s.reg o) (fun t c ht => ?_) _ rfl
  have hv : o ≠ (F.FW_VER c).off := by show o ≠ 0x700220 + 0x4 * c; omega
  have hs : o ≠ (F.FW_STAGED_VER c).off := by show o ≠ 0x700230 + 0x4 * c; omega
  rw [State.reg_setReg_ne _ _ hs, State.reg_setReg_ne _ _ hv, ht]

theorem showSets_get (s : State) {f : RF} (h : f.off < 0x700220) : (showSets s).get f = s.get f := by
  rw [State.get, State.get, showSets_reg s h]

@[simp] theorem showSets_ci (s : State) : (showSets s).ci = s.ci := rfl
@[simp] theorem showSets_mem (s : State) : (showSets s).mem = s.mem := rfl
@[simp] theorem showSets_out (s : State) : (showSets s).out = s.out := rfl
@[simp] theorem showSets_variant (s : State) : (showSets s).variant = s.variant := rfl

/-- The inactive bank is named by BRUP_PROGRESS.FW_BANK. -/
theorem altBank_congr {s u : State} (hci : u.ci.bankA = s.ci.bankA ∧ u.ci.bankB = s.ci.bankB)
    (hbank : u.get F.BRUP_PROGRESS_FW_BANK = s.get F.BRUP_PROGRESS_FW_BANK) : altBank u = altBank s := by
  rw [altBank, altBank, flag_congr hbank, hci.1, hci.2]

theorem altBank_setAlt (s : State) (b : Bank) : altBank (setAlt s b) = b := by
  have hflag : (setAlt s b).flag F.BRUP_PROGRESS_FW_BANK = s.flag F.BRUP_PROGRESS_FW_BANK := rfl
  rw [altBank, hflag]
  unfold setAlt
  cases s.flag F.BRUP_PROGRESS_FW_BANK <;> rfl

theorem altBank_set (s : State) {f : RF} (v : Nat) (h : F.BRUP_PROGRESS_FW_BANK.off ≠ f.off) : altBank (s.set f v) = altBank s :=
  altBank_congr ⟨rfl, rfl⟩ (s.get_set_ne v h)

@[simp] theorem setAlt_mem (s : State) (b : Bank) : (setAlt s b).mem = s.mem := rfl
@[simp] theorem setAlt_variant (s : State) (b : Bank) : (setAlt s b).variant = s.variant := rfl
@[simp] theorem setAlt_out (s : State) (b : Bank) : (setAlt s b).out = s.out := rfl
@[simp] theorem setAlt_get (s : State) (b : Bank) (f : RF) : (setAlt s b).get f = s.get f := rfl
@[simp] theorem setAlt_pldm (s : State) (b : Bank) : (setAlt s b).ci.pldm = s.ci.pldm := by
  unfold setAlt
  cases s.flag F.BRUP_PROGRESS_FW_BANK <;> rfl

/-- The set that a session has staged is shown. -/
def fwShown (s : State) (staged : List Nat) : State := showSets { s with ci := { s.ci with staged := staged } }

section Shown

variable (s : State) (l : List Nat)

@[simp] theorem fwShown_mem : (fwShown s l).mem = s.mem := rfl
@[simp] theorem fwShown_variant : (fwShown s l).variant = s.variant := rfl
@[simp] theorem fwShown_out : (fwShown s l).out = s.out := rfl
@[simp] theorem fwShown_pldm : (fwShown s l).ci.pldm = s.ci.pldm := rfl

theorem fwShown_get {f : RF} (h : f.off < 0x700220) : (fwShown s l).get f = s.get f := showSets_get _ h

@[simp] theorem altBank_fwShown : altBank (fwShown s l) = altBank s := altBank_congr ⟨rfl, rfl⟩ (fwShown_get s l (by decide))

end Shown

theorem fwOpen_eq {s : State} (hact : fwActivating s = false) (hses : fwSession s = false) :
    fwOpen s = (((fwShown (setAlt s { altBank s with comps := (actBank s).comps }) []).set F.FW_STATUS_SESSION 1).set F.FW_STATUS_LAST_STAGED 0, 0) := by
  simp only [fwOpen, hact, hses, Bool.false_eq_true, if_false, fwShown]

theorem fwOpen_spec {s : State} (hact : fwActivating s = false) (hses : fwSession s = false) :
    ∃ u, fwOpen s = (u, 0) ∧ fwSession u = true ∧ (altBank u).comps = (actBank s).comps ∧ u.out = s.out ∧ MemSame s u := by
  refine ⟨_, fwOpen_eq hact hses, flag_of_get ?_, ?_, by simp, memSame_of_mem (by simp) (by simp)⟩
  · rw [State.get_set_apart _ _ (by decide) (by decide), State.get_set_self _ _ (by decide)]
    rfl
  · rw [altBank_set _ _ (by decide), altBank_set _ _ (by decide), altBank_fwShown, altBank_setAlt]

theorem fwCancel_eq {s : State} (hact : fwActivating s = false) (hses : fwSession s = true) : fwCancel s = (fwEnd s, 0) := by
  rw [fwCancel, hact, hses]
  rfl

theorem fwSession_fwEnd (s : State) : fwSession (fwEnd s) = false := by
  rw [fwSession, State.flag, fwEnd, State.get_set_self _ _ (by decide)]
  rfl

theorem fwJudge_le (s : State) (b : List Byte) (written : Bool) : (fwJudge s b written).1 ≤ 9 := by
  have h4 : fwCheck4 s b ≤ 4 := by unfold fwCheck4; split_ifs <;> omega
  unfold fwJudge
  dsimp only
  split
  · omega
  · (repeat' split) <;> simp

/-- An image that is refused is counted (R487). -/
theorem fwStageBytes_refused {s : State} {b : List Byte} {written : Bool} {r c : Nat} (hj : fwJudge s b written = (r, c)) (hr : r ≠ 0) :
    fwStageBytes s b written = (fwDone (s.count F.FW_REFUSED) r c, r) := by
  rw [fwStageBytes, hj]
  exact if_pos hr

theorem fwStageBytes_staged {s : State} {b : List Byte} {written : Bool} {c : Nat} (hj : fwJudge s b written = (0, c)) :
    let x := setAlt s { altBank s with comps := (altBank s).comps.set c (fwComponent b) }
    fwStageBytes s b written = (fwDone ((fwShown x (x.ci.staged ++ [c])).set F.FW_STATUS_LAST_STAGED c) 0 c, 0) := by
  simp only [fwStageBytes, hj, ne_eq, not_true_eq_false, if_false, fwShown]

theorem answered_fwDone {s t : State} {r : Nat} (c : Nat) (hseq : t.get F.FW_EVENT_SEQ = s.get F.FW_EVENT_SEQ) (hr : r < 32) :
    Answered s (fwDone t r c) F.FW_EVENT_SEQ F.FW_EVENT_RESULT r := by
  obtain ⟨hres, hnext⟩ := answered_result (t.set F.FW_EVENT_COMP c) (seq := F.FW_EVENT_SEQ) (res := F.FW_EVENT_RESULT) rfl (by decide) (by decide)
    (by decide) hr
  refine ⟨hres, hnext.trans ?_⟩
  rw [State.get_set_apart _ _ (by decide) (by decide), hseq]

theorem altBank_fwDone (s : State) (r c : Nat) : altBank (fwDone s r c) = altBank s := by
  rw [fwDone, State.result, State.bump, altBank_set _ _ (by decide), altBank_set _ _ (by decide), altBank_set _ _ (by decide)]

/-- What staging leaves (R487): the event of the judgement, and the new component where it succeeds. -/
theorem fwStageBytes_spec {s : State} {b : List Byte} {written : Bool} {r c : Nat} (hj : fwJudge s b written = (r, c)) :
    ∃ u, fwStageBytes s b written = (u, r) ∧ u.ci.pldm = s.ci.pldm ∧ u.out = s.out ∧ MemSame s u ∧
      Answered s u F.FW_EVENT_SEQ F.FW_EVENT_RESULT r ∧ (r = 0 → (altBank u).comps = (altBank s).comps.set c (fwComponent b)) := by
  have hle : r ≤ 9 := by simpa [hj] using fwJudge_le s b written
  rcases Nat.eq_zero_or_pos r with rfl | hr
  · refine ⟨_, fwStageBytes_staged hj, by simp [fwDone], by simp [fwDone], memSame_of_mem (by simp [fwDone]) (by simp [fwDone]),
      answered_fwDone c ?_ (by omega), fun _ => ?_⟩
    · rw [State.get_set_ne _ _ (by decide), fwShown_get _ _ (by decide), setAlt_get]
    · rw [altBank_fwDone, altBank_set _ _ (by decide), altBank_fwShown, altBank_setAlt]
  · exact ⟨_, fwStageBytes_refused hj (by omega), rfl, rfl, memSame_of_mem rfl rfl, answered_fwDone c rfl (by omega), fun h => by omega⟩

theorem fwActivate_eq {s : State} (hses : fwSession s = true) (hnew : (altBank s).comps ≠ (actBank s).comps) (hidle : anyResident s = false)
    (hmode : modePending s = false) :
    fwActivate s = (State.set { s with pw := { s.pw with drain := .fw (s.tk.count + max 1 (s.get F.FW_CTL_DRAIN_TICKS)) } } F.FW_STATUS_ACTIVATING 1, 0) := by
  simp [fwActivate, hses, hnew, hidle, hmode]

/-! ### What the messages answer -/

/-! An update session's commands (R482, R486), in Active. -/

section Update

variable (hon : i3cOn s = true) (haddr : s.ci.dynAddr.isSome = true) (ha : s.pst = 3)
include hon haddr ha

section Accepted

variable (hctrl : ctrlOn s = true)
include hctrl

theorem runs_requestupdate (hidle : s.ci.pldm = 0) (hact : fwActivating s = false) (hses : fwSession s = false) :
    Runs .requestupdate s fun u => u.ci.pldm = 1 ∧ fwSession u = true ∧ u.out = s.out ++ [.i3c [0#8]] ∧ (altBank u).comps = (actBank s).comps ∧
      MemSame s u := by
  obtain ⟨u, hopen, hopened, hcomps, hout, hmem⟩ := fwOpen_spec hact hses
  refine runs_pldmCmd hon haddr ha hctrl rfl (by rw [hidle]; rfl) ?_
  rw [hopen]
  refine ⟨rfl, hopened, congrArg (· ++ [Output.i3c [0#8]]) hout, ?_, hmem⟩
  rw [← hcomps]
  exact congrArg Bank.comps (altBank_congr ⟨rfl, rfl⟩ rfl)

theorem runs_activatefirmware (hready : s.ci.pldm = 2) (hses : fwSession s = true) (hnew : (altBank s).comps ≠ (actBank s).comps)
    (hidle : anyResident s = false) (hmode : modePending s = false) :
    Runs .activatefirmware s fun u => u.ci.pldm = 0 ∧ u.out = s.out ++ [.i3c [0#8]] ∧ fwActivating u = true ∧
      u.pw = { s.pw with drain := .fw (s.tk.count + max 1 (s.get F.FW_CTL_DRAIN_TICKS)) } := by
  refine runs_pldmCmd hon haddr ha hctrl rfl (by rw [hready]; rfl) ?_
  rw [fwActivate_eq hses hnew hidle hmode]
  exact ⟨rfl, rfl, flag_of_get (State.get_set_self _ _ (by decide)), rfl⟩

theorem runs_cancelupdate (hopen : 1 ≤ s.ci.pldm) (hact : fwActivating s = false) (hses : fwSession s = true) :
    Runs .cancelupdate s fun u => u.ci.pldm = 0 ∧ fwSession u = false ∧ u.out = s.out ++ [.i3c [0#8]] ∧ MemSame s u := by
  refine runs_pldmCmd hon haddr ha hctrl rfl (by simpa using hopen) ?_
  rw [fwCancel_eq hact hses]
  exact ⟨rfl, fwSession_fwEnd s, rfl, memSame_of_mem rfl rfl⟩

end Accepted

/-- A piece of the component goes to its place in what has been collected. -/
theorem runs_requestfirmwaredata {off : Nat} {data : List Byte} (hdown : s.ci.pldm = 3) (hlen : data.length ≤ 1024) :
    Runs (.requestfirmwaredata off data) s fun u =>
      u.out = s.out ++ [.i3c (0x15#8 :: (toLE 4 off ++ toLE 4 data.length))] ∧ u.ci.pldm = 3 ∧ RegsBut s u [] ∧ MemSame s u ∧
      ∀ j, u.ci.pldmData.getD j 0#8 = if off ≤ j ∧ j < off + data.length then data.getD (j - off) 0#8 else s.ci.pldmData.getD j 0#8 := by
  refine runs_onBus hon haddr rfl ?_
  rw [if_neg (by simp [ha, hdown, hlen])]
  exact ⟨rfl, hdown, fun _ _ => rfl, fun _ => rfl, getD_splice _ _ _⟩

theorem runs_verifycomplete (hverify : s.ci.pldm = 4) :
    let ok := fwCheck4 s s.ci.pldmData = 0 ∧ fwComp s.ci.pldmData = s.ci.pldmComp
    Runs .verifycomplete s fun u => u.ci = { s.ci with pldm := if ok then 5 else 2 } ∧ MemSame s u ∧ RegsBut s u [] ∧
      ∃ b, u.out = s.out ++ [.i3c [0x17#8, b]] ∧ (ok → b = 0#8) := by
  intro ok
  refine runs_onBus hon haddr rfl ?_
  rw [if_pos (by simp [ha, hverify])]
  by_cases hok : ok
  · have hb : (fwCheck4 s s.ci.pldmData == 0 && fwComp s.ci.pldmData == s.ci.pldmComp) = true := by simpa using hok
    dsimp only
    rw [hb, if_pos hok]
    exact ⟨rfl, fun _ => rfl, fun _ _ => rfl, _, rfl, fun _ => rfl⟩
  · have hb : (fwCheck4 s s.ci.pldmData == 0 && fwComp s.ci.pldmData == s.ci.pldmComp) = false := by simpa [ok] using hok
    dsimp only
    rw [hb, if_neg hok]
    exact ⟨rfl, fun _ => rfl, fun _ _ => rfl, _, rfl, fun h => absurd h hok⟩

theorem runs_applycomplete (happly : s.ci.pldm = 5) (written : Bool) {r c : Nat} (hj : fwJudge s s.ci.pldmData written = (r, c)) :
    Runs (.applycomplete written) s fun u => u.ci.pldm = 2 ∧ MemSame s u ∧ Answered s u F.FW_EVENT_SEQ F.FW_EVENT_RESULT r ∧
      ∃ b, u.out = s.out ++ [.i3c [0x18#8, b]] ∧
        (r = 0 → b = 0#8 ∧ (altBank u).comps = (altBank s).comps.set c (fwComponent s.ci.pldmData)) := by
  obtain ⟨u, hstage, hpldm, hout, hmem, hevent, hcomps⟩ := fwStageBytes_spec (s := setPldm s 2) hj
  refine runs_onBus hon haddr rfl ?_
  rw [if_pos (by simp [ha, happly]), hstage]
  by_cases hr : r = 0
  · subst hr
    exact ⟨hpldm, hmem, hevent, 0#8, congrArg (· ++ _) hout, fun _ => ⟨rfl, hcomps rfl⟩⟩
  · have hb : (r == 0) = false := by simpa using hr
    dsimp only
    rw [hb]
    exact ⟨hpldm, hmem, hevent, _, congrArg (· ++ _) hout, fun h => absurd h hr⟩

end Update

/-- One component's entry of GETFIRMWAREPARAMETERS. -/
theorem componentData_length (s : State) (c : Nat) : (componentData s c).length = 12 := by simp [componentData]

theorem fieldLE_componentData (s : State) {pre post : List Byte} {c : Nat} (hpre : pre.length = 12 * c) (hc : c < 4) :
    let bs := pre ++ (componentData s c ++ post)
    fieldLE bs (12 * c) 2 = 0xFFFF ∧ fieldLE bs (12 * c + 2) 2 = c ∧ fieldLE bs (12 * c + 4) 4 = s.reg (F.FW_VER c).off % 2 ^ 32 ∧
      fieldLE bs (12 * c + 8) 4 = s.reg (F.FW_STAGED_VER c).off % 2 ^ 32 := by
  intro bs
  have h0 : bs = pre ++ (toLE 2 0xFFFF ++ (toLE 2 c ++ (toLE 4 (s.reg (F.FW_VER c).off) ++ (toLE 4 (s.reg (F.FW_STAGED_VER c).off) ++ post)))) := by
    simp [bs, componentData]
  have h2 := h0.trans (List.append_assoc ..).symm
  have h4 := h2.trans (List.append_assoc ..).symm
  have h8 := h4.trans (List.append_assoc ..).symm
  refine ⟨?_, ?_, ?_, ?_⟩
  · rw [h0, fieldLE_append hpre]
    rfl
  · rw [h2, fieldLE_append (by simp [hpre])]
    exact Nat.mod_eq_of_lt (by omega)
  · rw [h4, fieldLE_append (by simp [hpre])]
    rfl
  · rw [h8, fieldLE_append (by simp [hpre])]
    rfl

theorem fieldLE_components (s : State) {c : Nat} (hc : c < 4) :
    let bs := (List.range 4).flatMap (componentData s)
    fieldLE bs (12 * c) 2 = 0xFFFF ∧ fieldLE bs (12 * c + 2) 2 = c ∧ fieldLE bs (12 * c + 4) 4 = s.reg (F.FW_VER c).off % 2 ^ 32 ∧
      fieldLE bs (12 * c + 8) 4 = s.reg (F.FW_STAGED_VER c).off % 2 ^ 32 := by
  have hsplit : (List.range 4).flatMap (componentData s) = (List.range c).flatMap (componentData s) ++ (componentData s c ++
      (List.range' (c + 1) (3 - c)).flatMap (componentData s)) := by
    interval_cases c <;> simp [List.range_succ, List.range'_succ]
  rw [hsplit]
  exact fieldLE_componentData s (by simp [List.length_flatMap, componentData_length, Nat.mul_comm]) hc

/-- SET_POWER of OP 1 starts the drain for Rest (R483, R69). -/
theorem runs_setPower_rest (hon : i3cOn s = true) (haddr : s.ci.dynAddr.isSome = true) (ha : s.pst = 3) (hq : s.ci.quoting = none)
    (hidle : anyResident s = false) (hmode : modePending s = false) (flags ticks : Nat) :
    Runs (.setPower 1 flags ticks) s fun u => u.out = s.out ++ [.i3c (0xC0#8 :: 0xA4#8 :: (toLE 1 5 ++ toLE 1 0 ++ []))] ∧
      u.get F.PWR_CMD_OPTICS_OFF = flags % 2 ∧ u.get F.PWR_CMD_WAKE_DB = flags / 2 % 2 ∧
      u.pw = { s.pw with drain := .rest (s.tk.count + max 1 (ticks % 2 ^ 16)) } ∧ MemSame s u := by
  have hdrain : restDraining s = false := by
    rw [modePending, Bool.or_eq_false_iff, Bool.or_eq_false_iff, bne_eq_false_iff_eq] at hmode
    rw [restDraining, hmode.1.2]
  refine runs_onBus hon haddr rfl ?_
  rw [if_neg (by simp [ha]), if_neg (by simp), hq]
  set t := (((s.set F.PWR_CMD_OPTICS_OFF flags).set F.PWR_CMD_WAKE_DB (flags / 2)).set F.PWR_CMD_DRAIN_TICKS ticks) with ht
  have hpst : t.pst = 3 := by
    rw [ht, State.pst_set_ne _ _ (by decide), State.pst_set_ne _ _ (by decide), State.pst_set_ne _ _ (by decide), ha]
  have hop : pwrOp (vendor t 5 0 []) 1 =
      { vendor t 5 0 [] with pw := { s.pw with drain := .rest (s.tk.count + max 1 (t.get F.PWR_CMD_DRAIN_TICKS)) } } := by
    rw [pwrOp, if_pos rfl, if_neg, if_neg, if_neg]
    · rfl
    · exact Bool.eq_false_iff.1 hmode
    · exact Bool.eq_false_iff.1 hidle
    · rw [show (vendor t 5 0 []).pst = 3 from hpst, show restDraining (vendor t 5 0 []) = false from hdrain]
      simp
  dsimp only [Option.isSome_none]
  rw [if_neg (by simp), hop]
  refine ⟨rfl, ?_, ?_, ?_, fun _ => rfl⟩
  · show t.get F.PWR_CMD_OPTICS_OFF = _
    rw [ht, State.get_set_apart _ _ (by decide) (by decide), State.get_set_apart _ _ (by decide) (by decide), State.get_set_self _ _ (by decide)]
    rfl
  · show t.get F.PWR_CMD_WAKE_DB = _
    rw [ht, State.get_set_apart _ _ (by decide) (by decide), State.get_set_self _ _ (by decide)]
    rfl
  · rw [ht, State.get_set_self _ _ (by decide)]
    rfl

/-! ### The statement -/

/-- Settles O55, message by message: a message that reaches the target is its meaning on the state. -/
theorem managementBus : Obligations.ManagementBus := by
  intro s hon tells only vend step
  refine ⟨fun a => ⟨?_, fun t ht => ?_, ?_⟩, fun hnone => ?_, fun haddr => ?_⟩
  · refine ⟨_, rfl, ?_⟩
    rw [hon]
    rfl
  · refine ⟨_, rfl, if_neg ?_⟩
    simp [staticAddr, ht]
  · refine ⟨_, rfl, ?_⟩
    rw [hon]
    cases h : s.ci.dynAddr with
    | none => rfl
    | some x => exact (congrArg (fun a => { s with ci := { s.ci with dynAddr := a } }) h)
  · exact ⟨runs_onBus_silent hnone rfl, runs_onBus_silent hnone rfl, runs_onBus_silent hnone rfl⟩
  have bus {c : Instr} {f : State → State} {P : State → Prop} : exec c s = .next (onBus s f) → P (f s) → Runs c s P := runs_onBus hon haddr
  refine ⟨fun a => bus rfl ⟨rfl, rfl, fun _ _ => rfl, fun _ => rfl⟩, bus rfl rfl, fun n => ⟨fun h => ?_, fun h => ?_⟩, bus rfl rfl, ?_, bus rfl rfl,
    bus rfl rfl, bus rfl rfl, bus rfl rfl, ?_, bus rfl rfl, fun ha hctrl => ?_, fun off len => ?_, fun hpst => ?_, bus rfl rfl, bus rfl rfl⟩
  · refine bus rfl ?_
    rw [if_pos (by simpa [or_assoc] using h)]
    exact ⟨_, toLE_length _ _, rfl, rfl, fun _ _ => rfl⟩
  · refine bus rfl ?_
    rw [if_neg (by simpa [or_assoc] using h)]
    exact ⟨_, rfl, rfl, fun _ _ => rfl⟩
  · exact bus rfl ⟨_, rfl, rfl, fun _ _ => rfl⟩
  · exact bus rfl ⟨_, by simp [List.length_flatMap, componentData_length], rfl, fun c => fieldLE_components s⟩
  · have pldm {c : Instr} {ok : Nat → Bool} {f : State → State} {P : State → Prop} : exec c s = .next (pldmCmd s ok f) → ok s.ci.pldm = true →
        P (f s) → Runs c s P := runs_pldmCmd hon haddr ha hctrl
    refine ⟨runs_requestupdate hon haddr ha hctrl, fun comp hcomp => ⟨fun hp => ?_, fun hp => ?_⟩, fun off data => runs_requestfirmwaredata hon haddr ha,
      fun hp => ⟨?_, ?_⟩, runs_verifycomplete hon haddr ha, fun hp written => ?_, runs_activatefirmware hon haddr ha hctrl, fun hp => ?_,
      runs_cancelupdate hon haddr ha hctrl⟩
    · exact pldm rfl (by simpa using hp) (if_pos hcomp)
    · exact pldm rfl (by simpa using hp) (if_pos hcomp)
    · exact bus rfl (if_pos (by simp [ha, hp]))
    · refine bus rfl ?_
      rw [if_pos (by simp [ha, hp])]
      exact ⟨rfl, _, rfl⟩
    · exact runs_applycomplete hon haddr ha hp written rfl
    · exact pldm rfl (by simpa using hp) rfl
  · refine bus rfl ?_
    by_cases h : len ≤ 1024 ∧ off + len ≤ 29920
    · rw [if_neg (by simp; omega), if_pos h]
      rfl
    · rw [if_pos (by simp; omega), if_neg h]
      rfl
  · have hawake : ¬ ((decide (s.pst ≠ 3) && decide (s.pst ≠ 4)) = true) := by simp; omega
    refine ⟨fun hq => ⟨fun nonce => ?_, fun q off len hquote => ?_⟩, fun nonce hq => ⟨fun x => ?_, ?_⟩, fun op flags ticks => ⟨fun h1 h2 => ?_, ?_⟩⟩
    · refine bus rfl ?_
      rw [if_neg hawake, hq, if_neg (by simp)]
      rfl
    · refine bus rfl ?_
      rw [if_neg hawake, hquote]
      dsimp only
      rw [hq, if_neg (by simp)]
      by_cases h : len ≤ 1024 ∧ off + len ≤ 17344
      · rw [if_neg (by simp; omega), if_pos h]
        rfl
      · rw [if_pos (by simp; omega), if_neg h]
        rfl
    · refine bus rfl ?_
      rw [if_neg hawake, hq, Option.isSome_some, if_pos rfl]
      rfl
    · refine ⟨_, ?_, rfl⟩
      show Host.Outcome.next _ = _
      rw [hq]
      exact congrArg _ (if_neg hawake)
    · refine bus rfl ?_
      rw [if_neg hawake, if_pos (by simp [h1, h2])]
      rfl
    · rintro rfl ha hq hidle hmode
      exact runs_setPower_rest hon haddr ha hq hidle hmode flags ticks

end Sys2Proof.Machine

/-! ## The time base: its shared operations (R95–R100) -/

namespace Sys2Proof.Machine

/-! ### What PTP and PPS show (R95, R99) -/

section Operations

variable (s : State)

theorem seeNs_tk (ns : Nat) : (s.seeNs ns).tk = s.tk ∨ ∃ frac, (s.seeNs ns).tk = { s.tk with ns := ns, frac := frac } := by
  unfold State.seeNs
  split
  · exact .inr ⟨_, rfl⟩
  · exact .inl rfl

@[simp] theorem seeNs_goodSync (ns : Nat) : (s.seeNs ns).tk.goodSync = s.tk.goodSync := by
  rcases seeNs_tk s ns with h | ⟨_, h⟩ <;> rw [h]

@[simp] theorem seeNs_locked (ns : Nat) : (s.seeNs ns).tk.locked = s.tk.locked := by
  rcases seeNs_tk s ns with h | ⟨_, h⟩ <;> rw [h]

@[simp] theorem seeNs_foreign (ns : Nat) : (s.seeNs ns).tk.foreign = s.tk.foreign := by
  rcases seeNs_tk s ns with h | ⟨_, h⟩ <;> rw [h]

/-- The time base shows an event's time: nothing else changes. -/
theorem seeNs_rest (ns : Nat) : s.seeNs ns = { s with tk := (s.seeNs ns).tk, free := (s.seeNs ns).free } := by
  unfold State.seeNs
  split <;> rfl

@[simp] theorem seeNs_variant (ns : Nat) : (s.seeNs ns).variant = s.variant := by rw [seeNs_rest]
@[simp] theorem seeNs_regs (ns : Nat) : (s.seeNs ns).regs = s.regs := by rw [seeNs_rest]
@[simp] theorem seeNs_cnt (ns : Nat) : (s.seeNs ns).cnt = s.cnt := by rw [seeNs_rest]
@[simp] theorem seeNs_mem (ns : Nat) : (s.seeNs ns).mem = s.mem := by rw [seeNs_rest]
@[simp] theorem seeNs_out (ns : Nat) : (s.seeNs ns).out = s.out := by rw [seeNs_rest]
@[simp] theorem seeNs_fc (ns : Nat) : (s.seeNs ns).fc = s.fc := by rw [seeNs_rest]
@[simp] theorem seeNs_reg (ns o : Nat) : (s.seeNs ns).reg o = s.reg o := by rw [seeNs_rest]; rfl
@[simp] theorem seeNs_get (ns : Nat) (f : RF) : (s.seeNs ns).get f = s.get f := by rw [State.get, seeNs_reg, State.get]
@[simp] theorem seeNs_live (ns : Nat) (f : RF) : (s.seeNs ns).live f = s.live f := by rw [State.live, seeNs_cnt, State.live]

theorem seeNs_count_tk (f : RF) (n ns : Nat) : ((s.count f n).seeNs ns).tk = (s.seeNs ns).tk := by
  have hnext : (s.count f n).boundaryNs (s.count f n).nextNum = s.boundaryNs s.nextNum := rfl
  unfold State.seeNs
  rw [hnext, State.count_tk]
  split <;> rfl

/-- LOCK changes TIME_STATUS, and LOCKED at the first lock. -/
theorem setLock_rest (v : Nat) : s.setLock v = { s with regs := (s.setLock v).regs, tk := (s.setLock v).tk } := by
  unfold State.setLock
  split <;> rfl

@[simp] theorem setLock_variant (v : Nat) : (s.setLock v).variant = s.variant := by rw [setLock_rest]
@[simp] theorem setLock_cnt (v : Nat) : (s.setLock v).cnt = s.cnt := by rw [setLock_rest]
@[simp] theorem setLock_mem (v : Nat) : (s.setLock v).mem = s.mem := by rw [setLock_rest]
@[simp] theorem setLock_fc (v : Nat) : (s.setLock v).fc = s.fc := by rw [setLock_rest]

theorem setLock_reg {v o : Nat} (h : o ≠ F.TIME_STATUS.off) : (s.setLock v).reg o = s.reg o := by
  unfold State.setLock
  split
  · rfl
  · exact (State.reg_bump_ne _ (f := F.TIME_STATUS_SEQ) h).trans (State.reg_set_ne _ (f := F.TIME_STATUS_LOCK) _ h)

theorem setLock_lock {v : Nat} (h : v < 4) : (s.setLock v).get F.TIME_STATUS_LOCK = v := by
  unfold State.setLock
  split
  · assumption
  · rw [State.get_bump_apart _ (by decide) (by decide), State.get_set_self _ _ (by decide)]
    exact Nat.mod_eq_of_lt h

/-- The fields of TIME_STATUS beside LOCK and SEQ. -/
theorem setLock_get {f : RF} (v : Nat) (h : 2 ≤ f.lo ∧ f.lo + f.wid ≤ 8 ∨ 16 ≤ f.lo ∧ f.lo + f.wid ≤ 32) : (s.setLock v).get f = s.get f := by
  unfold State.setLock
  split
  · rfl
  · have hseq : F.TIME_STATUS_SEQ.lo = 8 ∧ F.TIME_STATUS_SEQ.wid = 8 := ⟨rfl, rfl⟩
    have hlock : F.TIME_STATUS_LOCK.lo = 0 ∧ F.TIME_STATUS_LOCK.wid = 2 := ⟨rfl, rfl⟩
    rw [State.get_bump_apart _ (by omega) (by omega), State.get_set_apart _ _ (by omega) (by omega)]
    rfl

theorem setLock_tk {v : Nat} (h : v ≠ 2) : (s.setLock v).tk = s.tk := by
  have h2 : (v == 2) = false := by simpa using h
  unfold State.setLock
  split
  · rfl
  · show { s.tk with locked := s.tk.locked || v == 2 } = s.tk
    rw [h2, Bool.or_false]

theorem setLock_two_tk (h : s.get F.TIME_STATUS_LOCK ≠ 2) : (s.setLock 2).tk = { s.tk with locked := true } := by
  unfold State.setLock
  rw [if_neg h]
  show { s.tk with locked := s.tk.locked || true } = _
  rw [Bool.or_true]

/-! ### The best master clock algorithm (R96) -/

/-- Whether a decision makes the adapter grandmaster. -/
def bmcaGm (s : State) : Bool :=
  gmCandidate s && (match bestForeign s.tk.foreign with | none => true | some e => clockBetter (ownDataset s) 32 e.2 e.1)

/-- The parent that a decision takes; 31 is none. -/
def bmcaParent (s : State) : Nat := if gmCandidate s then 31 else (match bestForeign s.tk.foreign with | none => 31 | some e => e.1)

theorem bmca_eq : bmca s = ((if bmcaParent s = s.get F.TIME_STATUS_PARENT then s else { s with tk := { s.tk with goodSync := 0 } }).set
    F.TIME_STATUS_GM (b2n (bmcaGm s))).set F.TIME_STATUS_PARENT (bmcaParent s) := rfl

/-- A decision changes TIME_STATUS, and the count of good Syncs. -/
theorem bmca_rest : bmca s = { s with regs := (bmca s).regs, tk := { s.tk with goodSync := (bmca s).tk.goodSync } } := by
  rw [bmca_eq]
  split <;> rfl

@[simp] theorem bmca_variant : (bmca s).variant = s.variant := by rw [bmca_rest]
@[simp] theorem bmca_cnt : (bmca s).cnt = s.cnt := by rw [bmca_rest]
@[simp] theorem bmca_mem : (bmca s).mem = s.mem := by rw [bmca_rest]
@[simp] theorem bmca_fb : (bmca s).fb = s.fb := by rw [bmca_rest]
@[simp] theorem bmca_out : (bmca s).out = s.out := by rw [bmca_rest]
@[simp] theorem bmca_fc : (bmca s).fc = s.fc := by rw [bmca_rest]
theorem bmca_tk : (bmca s).tk = { s.tk with goodSync := (bmca s).tk.goodSync } := by rw [bmca_rest]

theorem bmca_reg {o : Nat} (h : o ≠ F.TIME_STATUS.off) : (bmca s).reg o = s.reg o := by
  rw [bmca_eq, State.reg_set_ne (f := F.TIME_STATUS_PARENT) _ _ h, State.reg_set_ne (f := F.TIME_STATUS_GM) _ _ h]
  split <;> rfl

theorem bmca_get {f : RF} (h : f.off ≠ F.TIME_STATUS.off) : (bmca s).get f = s.get f := by rw [State.get, State.get, bmca_reg s h]

/-- LOCK and OFFSET stay in a decision. -/
theorem bmca_status {f : RF} (h : f.lo + f.wid ≤ 2 ∨ 8 ≤ f.lo ∧ f.lo + f.wid ≤ 32) : (bmca s).get f = s.get f := by
  have hgm : F.TIME_STATUS_GM.lo = 7 ∧ F.TIME_STATUS_GM.wid = 1 := ⟨rfl, rfl⟩
  have hparent : F.TIME_STATUS_PARENT.lo = 2 ∧ F.TIME_STATUS_PARENT.wid = 5 := ⟨rfl, rfl⟩
  rw [bmca_eq, State.get_set_apart _ _ (by omega) (by omega), State.get_set_apart _ _ (by omega) (by omega)]
  split <;> rfl

theorem bmca_parent : (bmca s).get F.TIME_STATUS_PARENT = bmcaParent s % 32 := by
  rw [bmca_eq, State.get_set_self _ _ (by decide)]
  rfl

theorem bmca_gm : (bmca s).get F.TIME_STATUS_GM = b2n (bmcaGm s) := by
  rw [bmca_eq, State.get_set_apart _ _ (by decide) (by decide), State.get_set_self _ _ (by decide)]
  cases bmcaGm s <;> rfl

theorem bmca_grandmaster : (bmca s).flag F.TIME_STATUS_GM = bmcaGm s := by
  rw [State.flag, bmca_gm]
  cases bmcaGm s <;> rfl

theorem regsBut_bmca : RegsBut s (bmca s) [F.TIME_STATUS.off] := fun _ ho => bmca_reg s (List.mem_singleton.not.mp ho)

theorem regsBut_setLock (v : Nat) : RegsBut s (s.setLock v) [F.TIME_STATUS.off] := fun _ ho => setLock_reg s (List.mem_singleton.not.mp ho)

/-! ### What clock decisions read (R96, R100) -/

/-- The registers of TIME_CTL, the announced clocks and PPS are as before. -/
structure SameClock (s u : State) : Prop where
  ctl : u.reg F.TIME_CTL.off = s.reg F.TIME_CTL.off
  foreign : u.tk.foreign = s.tk.foreign
  pps : u.tk.ppsOn = s.tk.ppsOn

variable {s} {u : State}

theorem SameClock.get (h : SameClock s u) {f : RF} (hf : f.off = F.TIME_CTL.off) : u.get f = s.get f := by rw [State.get, State.get, hf, h.ctl]

theorem SameClock.candidate (h : SameClock s u) : gmCandidate u = gmCandidate s := by
  rw [gmCandidate, gmCandidate, flag_congr (h.get (f := F.TIME_CTL_GM_CAPABLE) rfl), h.get (f := F.TIME_CTL_PPS_MODE) rfl]

theorem SameClock.dataset (h : SameClock s u) : ownDataset u = ownDataset s := by rw [ownDataset, ownDataset, h.get (f := F.TIME_CTL_PRIORITY1) rfl, h.pps]

theorem SameClock.master (h : SameClock s u) (p : Nat) : portMaster u p = portMaster s p := by
  rw [portMaster, portMaster, h.foreign, h.candidate, h.dataset]

theorem SameClock.announced (h : SameClock s u) : announced u = announced s := by
  rw [Machine.announced, Machine.announced, h.foreign, h.candidate, h.dataset]

theorem bmca_sameClock (s : State) : SameClock s (bmca s) := ⟨bmca_reg s (by decide), by rw [bmca_tk], by rw [bmca_tk]⟩

end Operations

/-! ### PTP messages (R366, R419) -/

section Messages

variable (s : State) (n k : Nat)

/-- A frame's counters lie below those of PTP. -/
theorem countTx_live {f : RF} (len : Nat) (h : portBase n + 0x204 < f.off) : (countTx s n len).live f = s.live f := by
  have h1 : f.key ≠ { F.MAC_TX_BYTES_LO n with wid := 64 }.key := by
    show 32 * f.off + f.lo ≠ 32 * (portBase n + 0x204) + 0
    omega
  have h2 : f.key ≠ (F.MAC_TX_FRAMES n).key := by
    show 32 * f.off + f.lo ≠ 32 * (portBase n + 0x200) + 0
    omega
  rw [countTx, State.count64, State.live_count_ne _ _ h1, State.live_count_ne _ _ h2]

/-- An event message is counted (R419). -/
def ptpEvent (kind : Nat) : Bool := kind = 0 || kind = 2 || kind = 3

theorem sendPtp_eq : sendPtp s n k =
    if ptpEvent k then (countTx (s.emit (.ptp n k)) n (ptpLen k)).count (F.PTP_TX_EVENTS n) else countTx (s.emit (.ptp n k)) n (ptpLen k) := rfl

theorem sendPtp_rest : sendPtp s n k = { s with cnt := (sendPtp s n k).cnt, out := s.out ++ [.ptp n k] } := by
  unfold sendPtp
  dsimp only
  split <;> rfl

theorem sendPtp_two (k' : Nat) : ∃ c, sendPtp (sendPtp s n k) n k' = { s with cnt := c, out := s.out ++ [.ptp n k, .ptp n k'] } := by
  refine ⟨(sendPtp (sendPtp s n k) n k').cnt, ?_⟩
  rw [sendPtp_rest, sendPtp_rest]
  simp

theorem sendPtp_live_tx : (sendPtp s n k).live (F.PTP_TX_EVENTS n) =
    if ptpEvent k then min (s.live (F.PTP_TX_EVENTS n) + 1) (2 ^ 32 - 1) else s.live (F.PTP_TX_EVENTS n) := by
  have hframe : (countTx (s.emit (.ptp n k)) n (ptpLen k)).live (F.PTP_TX_EVENTS n) = s.live (F.PTP_TX_EVENTS n) :=
    countTx_live _ n _ (by show portBase n + 0x204 < portBase n + 0x250; omega)
  rw [sendPtp_eq]
  by_cases h : ptpEvent k = true
  · rw [if_pos h, if_pos h, State.live_count_self, hframe]
    rfl
  · rw [if_neg h, if_neg h, hframe]

theorem sendPtp_live_rx : (sendPtp s n k).live (F.PTP_RX_EVENTS n) = s.live (F.PTP_RX_EVENTS n) := by
  have hframe : (countTx (s.emit (.ptp n k)) n (ptpLen k)).live (F.PTP_RX_EVENTS n) = s.live (F.PTP_RX_EVENTS n) :=
    countTx_live _ n _ (by show portBase n + 0x204 < portBase n + 0x24c; omega)
  have hne : (F.PTP_RX_EVENTS n).key ≠ (F.PTP_TX_EVENTS n).key := by
    show 32 * (portBase n + 0x24c) + 0 ≠ 32 * (portBase n + 0x250) + 0
    omega
  rw [sendPtp_eq]
  split
  · rw [State.live_count_ne _ _ hne, hframe]
  · exact hframe

variable {s n}

theorem ptpSend_now (hq : quiesced s n = false) (hcut : (s.port n).cut = none) : s.ptpSend n k = sendPtp s n k := by
  rw [State.ptpSend, hq, hcut]
  rfl

theorem ptpSend_waits (hq : quiesced s n = false) (hcut : (s.port n).cut.isSome = true) :
    s.ptpSend n k = s.setPort n { s.port n with ptp := (s.port n).ptp ++ [k] } := by
  rw [State.ptpSend, hq, hcut]
  rfl

/-- Two messages at a free frame boundary. -/
theorem ptpSend_two (k' : Nat) (hq : quiesced s n = false) (hcut : (s.port n).cut = none) :
    (s.ptpSend n k).ptpSend n k' = sendPtp (sendPtp s n k) n k' := by
  rw [ptpSend_now k hq hcut]
  have hrest := sendPtp_rest s n k
  refine ptpSend_now k' ?_ ?_ <;> rw [hrest]
  · exact hq
  · exact hcut

/-- A two-step Sync at a free frame boundary: one event message is counted. -/
theorem ptpSend_sync (hq : quiesced s n = false) (hcut : (s.port n).cut = none) :
    ∃ c, (s.ptpSend n 0).ptpSend n 1 = { s with cnt := c, out := s.out ++ [.ptp n 0, .ptp n 1] } ∧
      smGet c (F.PTP_TX_EVENTS n).key 0 = min (s.live (F.PTP_TX_EVENTS n) + 1) (2 ^ 32 - 1) := by
  obtain ⟨c, hsent⟩ := sendPtp_two s n 0 1
  have hlive : (sendPtp (sendPtp s n 0) n 1).live (F.PTP_TX_EVENTS n) = min (s.live (F.PTP_TX_EVENTS n) + 1) (2 ^ 32 - 1) := by
    rw [sendPtp_live_tx, if_neg (by decide), sendPtp_live_tx, if_pos (by decide)]
  rw [hsent] at hlive
  exact ⟨c, (ptpSend_two 0 1 hq hcut).trans hsent, hlive⟩

theorem sendAnnounce_sent (hq : quiesced s n = false) (o : Output) :
    ∃ c, sendAnnounce s n o = { s with cnt := c, out := s.out ++ [o] } ∧ smGet c (F.PTP_TX_EVENTS n).key 0 = s.live (F.PTP_TX_EVENTS n) :=
  ⟨_, if_neg (Bool.eq_false_iff.mp hq), countTx_live (s.emit o) n 106 (by show portBase n + 0x204 < portBase n + 0x250; omega)⟩

end Messages

/-! ## A Sync (R97, R98) -/

section SyncRx

variable {s : State} {p : Nat}

/-- A Sync of the parent shows its offset (R120). -/
def syncShown (s : State) (p ns : Nat) (off : Int) : State := ((s.count (F.PTP_RX_EVENTS p)).seeNs ns).set F.TIME_STATUS_OFFSET (offsetField off)

/-- The state with `n` good Syncs in a row. -/
def withRow (t : State) (n : Nat) : State := { t with tk := { t.tk with goodSync := n } }

/-- What a parent's Sync within the step bound leaves, with `n` good ones in a row. -/
def syncFollowed (t : State) (n : Nat) : State :=
  if 64 ≤ n then (withRow t n).setLock 2 else if t.get F.TIME_STATUS_LOCK = 2 then withRow t n else (withRow t n).setLock 1

/-- What one beyond the step bound leaves. -/
def syncStepped (t : State) (p ns : Nat) (off : Int) : State :=
  let t := stepTime t ns (((ns : Int) - off).toNat % 2 ^ 64)
  let t := { t with tk := { t.tk with goodSync := 0 } }
  ((t.count F.TIME_STEPS).setLock 1).raise 12 p 0

/-- Good Syncs in a row before this one: a time base that follows no parent begins anew. -/
def syncRow (s : State) : Nat := if s.get F.TIME_STATUS_LOCK = 0 || s.get F.TIME_STATUS_LOCK = 3 then 0 else s.tk.goodSync

theorem syncShown_get (ns : Nat) (off : Int) {f : RF} (h : f.lo + f.wid ≤ 16) : (syncShown s p ns off).get f = s.get f := by
  have hoff : F.TIME_STATUS_OFFSET.lo = 16 ∧ F.TIME_STATUS_OFFSET.wid = 16 := ⟨rfl, rfl⟩
  rw [syncShown, State.get_set_apart _ _ (by omega) (by omega), seeNs_get, State.count_get]

theorem syncShown_tk (ns : Nat) (off : Int) : (syncShown s p ns off).tk = (s.seeNs ns).tk := by rw [syncShown, State.set_tk, seeNs_count_tk]

section Parent

variable (hp : p < 16) (hon : ptpOn s p = true)
include hp hon

theorem exec_ptpSyncRx_other (hparent : s.get F.TIME_STATUS_PARENT ≠ p) (ns : BitVec 64) (off : Int) :
    exec (.ptpSyncRx p ns off) s = .next ((s.count (F.PTP_RX_EVENTS p)).seeNs ns.toNat) := by
  show execPtpSyncRx p ns off s = _
  rw [execPtpSyncRx, if_neg (by simp [hon]; omega), if_pos (by rwa [seeNs_get, State.count_get])]

variable (hparent : s.get F.TIME_STATUS_PARENT = p)
include hparent

theorem exec_ptpSyncRx_near (ns : BitVec 64) {off : Int} (hnear : off.natAbs ≤ 1000) :
    exec (.ptpSyncRx p ns off) s = .next (syncFollowed (syncShown s p ns.toNat off) (if off.natAbs ≤ 25 then syncRow s + 1 else 0)) := by
  have hrow : (if (syncShown s p ns.toNat off).get F.TIME_STATUS_LOCK = 0 || (syncShown s p ns.toNat off).get F.TIME_STATUS_LOCK = 3 then 0
      else (syncShown s p ns.toNat off).tk.goodSync) = syncRow s := by
    rw [syncShown_get _ _ (by decide), syncShown_tk, seeNs_goodSync, syncRow]
  show execPtpSyncRx p ns off s = _
  rw [execPtpSyncRx, if_neg (by simp [hon]; omega), if_neg (by rw [seeNs_get, State.count_get, hparent]; simp)]
  show Host.Outcome.next (if 1000 < off.natAbs then _ else syncFollowed (syncShown s p ns.toNat off) (if off.natAbs ≤ 25 then
    (if (syncShown s p ns.toNat off).get F.TIME_STATUS_LOCK = 0 || (syncShown s p ns.toNat off).get F.TIME_STATUS_LOCK = 3 then 0
      else (syncShown s p ns.toNat off).tk.goodSync) + 1 else 0)) = _
  rw [hrow, if_neg (by omega)]

theorem exec_ptpSyncRx_far (ns : BitVec 64) {off : Int} (hfar : 1000 < off.natAbs) :
    exec (.ptpSyncRx p ns off) s = .next (settle (syncStepped (syncShown s p ns.toNat off) p ns.toNat off)) := by
  show execPtpSyncRx p ns off s = _
  rw [execPtpSyncRx, if_neg (by simp [hon]; omega), if_neg (by rw [seeNs_get, State.count_get, hparent]; simp)]
  exact congrArg _ (if_pos hfar)

end Parent

/-! ### What the parent's Sync shows -/

/-- The offset and the port of a Sync are shown, and it is counted. -/
def SyncSeen (s u : State) (p : Nat) (off : Int) : Prop :=
  u.get F.TIME_STATUS_PARENT = p ∧ u.get F.TIME_STATUS_OFFSET = offsetField off ∧ Counted s u (F.PTP_RX_EVENTS p) ∧ MemSame s u

theorem syncShown_seen (hparent : s.get F.TIME_STATUS_PARENT = p) (ns : Nat) (off : Int) : SyncSeen s (syncShown s p ns off) p off := by
  have hsat : offsetField off < 2 ^ 16 := by unfold offsetField; omega
  refine ⟨?_, ?_, ?_, memSame_of_mem ?_ ?_⟩
  · rw [syncShown_get _ _ (by decide), hparent]
  · rw [syncShown, State.get_set_self _ _ (by decide)]
    exact Nat.mod_eq_of_lt hsat
  · show ((s.count (F.PTP_RX_EVENTS p)).seeNs ns).live _ = _
    rw [seeNs_live, State.live_count_self]
  · show ((s.count (F.PTP_RX_EVENTS p)).seeNs ns).mem = _
    rw [seeNs_mem, State.count_mem]
  · show ((s.count (F.PTP_RX_EVENTS p)).seeNs ns).variant = _
    rw [seeNs_variant, State.count_variant]

section Followed

variable (t : State) (n : Nat)

theorem syncFollowed_cases : syncFollowed t n = (withRow t n).setLock 2 ∧ 64 ≤ n ∨
    syncFollowed t n = withRow t n ∧ n < 64 ∧ t.get F.TIME_STATUS_LOCK = 2 ∨
    syncFollowed t n = (withRow t n).setLock 1 ∧ n < 64 ∧ t.get F.TIME_STATUS_LOCK ≠ 2 := by
  by_cases hn : 64 ≤ n
  · exact .inl ⟨if_pos hn, hn⟩
  · by_cases hl : t.get F.TIME_STATUS_LOCK = 2
    · exact .inr (.inl ⟨(if_neg hn).trans (if_pos hl), by omega, hl⟩)
    · exact .inr (.inr ⟨(if_neg hn).trans (if_neg hl), by omega, hl⟩)

theorem SyncSeen.followed {off : Int} (h : SyncSeen s t p off) : SyncSeen s (syncFollowed t n) p off := by
  have hrow : SyncSeen s (withRow t n) p off := h
  have hlock (v : Nat) : SyncSeen s ((withRow t n).setLock v) p off := by
    obtain ⟨hparent, hoff, hcount, hmem⟩ := hrow
    refine ⟨(setLock_get _ v (.inl (by decide))).trans hparent, (setLock_get _ v (.inr (by decide))).trans hoff, ?_, fun a => ?_⟩
    · rw [Counted, State.live, setLock_cnt]
      exact hcount
    · exact (memSame_of_mem (setLock_mem _ v) (setLock_variant _ v) a).trans (hmem a)
  obtain ⟨e, -⟩ | ⟨e, -⟩ | ⟨e, -⟩ := syncFollowed_cases t n <;> rw [e]
  · exact hlock 2
  · exact hrow
  · exact hlock 1

/-- 64 good Syncs in a row lock the time base (R97). -/
theorem syncFollowed_locks (hn : 64 ≤ n) (hl : t.get F.TIME_STATUS_LOCK ≠ 2) :
    (syncFollowed t n).get F.TIME_STATUS_LOCK = 2 ∧ (syncFollowed t n).tk = { t.tk with goodSync := n, locked := true } := by
  rw [show syncFollowed t n = (withRow t n).setLock 2 from if_pos hn]
  exact ⟨setLock_lock _ (by decide), setLock_two_tk (withRow t n) hl⟩

theorem syncFollowed_waits (hn : n < 64) :
    (syncFollowed t n).get F.TIME_STATUS_LOCK = (if t.get F.TIME_STATUS_LOCK = 2 then 2 else 1) ∧
      (syncFollowed t n).tk = { t.tk with goodSync := n } := by
  obtain ⟨-, h⟩ | ⟨e, -, hl⟩ | ⟨e, -, hl⟩ := syncFollowed_cases t n
  · omega
  · rw [e, if_pos hl]
    exact ⟨hl, rfl⟩
  · rw [e, if_neg hl]
    exact ⟨setLock_lock _ (by decide), setLock_tk (withRow t n) (by decide)⟩

end Followed

section Stepped

variable (t : State) (ns : Nat) (off : Int)

theorem syncStepped_get {f : RF} (h : 2 ≤ f.lo ∧ f.lo + f.wid ≤ 8 ∨ 16 ≤ f.lo ∧ f.lo + f.wid ≤ 32) : (syncStepped t p ns off).get f = t.get f :=
  (setLock_get _ 1 h).trans rfl

theorem syncStepped_lock : (syncStepped t p ns off).get F.TIME_STATUS_LOCK = 1 := setLock_lock _ (by decide)

theorem syncStepped_cnt : (syncStepped t p ns off).cnt = (t.count F.TIME_STEPS).cnt := (setLock_cnt _ 1).trans rfl

theorem syncStepped_raised : (syncStepped t p ns off).fc.raised = t.fc.raised ++ [(12, p, 0)] :=
  congrArg (fun x : Fcol => x.raised ++ [(12, p, 0)]) ((setLock_fc _ 1).trans rfl)

theorem syncStepped_ns : (syncStepped t p ns off).tk.ns = ((ns : Int) - off).toNat % 2 ^ 64 :=
  congrArg Tick.ns (setLock_tk _ (v := 1) (by decide))

theorem SyncSeen.stepped (h : SyncSeen s t p off) (hp : p < 16) :
    SyncSeen s (syncStepped t p ns off) p off ∧ ((t.live F.TIME_STEPS = s.live F.TIME_STEPS) → Counted s (syncStepped t p ns off) F.TIME_STEPS) := by
  have hne : (F.PTP_RX_EVENTS p).key ≠ F.TIME_STEPS.key := by
    show 32 * (0x200000 + 0x4000 * p + 0x24c) + 0 ≠ 32 * 0x20118 + 0
    omega
  obtain ⟨hparent, hoff, hcount, hmem⟩ := h
  refine ⟨⟨(syncStepped_get t ns off (.inl (by decide))).trans hparent, (syncStepped_get t ns off (.inr (by decide))).trans hoff, ?_, fun a => ?_⟩,
    fun hsteps => ?_⟩
  · rw [Counted, State.live, syncStepped_cnt]
    exact (State.live_count_ne _ _ hne).trans hcount
  · refine (memSame_of_mem ?_ ?_ a).trans (hmem a)
    · exact (setLock_mem _ 1).trans rfl
    · exact (setLock_variant _ 1).trans rfl
  · rw [Counted, State.live, syncStepped_cnt]
    refine (State.live_count_self t _ _).trans ?_
    rw [hsteps]

end Stepped

/-! ### The clauses on a Sync -/

theorem syncShown_steps (hp : p < 16) (ns : Nat) (off : Int) : (syncShown s p ns off).live F.TIME_STEPS = s.live F.TIME_STEPS := by
  have hne : F.TIME_STEPS.key ≠ (F.PTP_RX_EVENTS p).key := by
    show 32 * 0x20118 + 0 ≠ 32 * (0x200000 + 0x4000 * p + 0x24c) + 0
    omega
  show ((s.count (F.PTP_RX_EVENTS p)).seeNs ns).live _ = _
  rw [seeNs_live, State.live_count_ne _ _ hne]

variable (hp : p < 16) (hon : ptpOn s p = true)
include hp hon

/-- Another clock's Sync is counted, and shows its time. -/
theorem runs_ptpSyncRx_other (hparent : s.get F.TIME_STATUS_PARENT ≠ p) (ns : BitVec 64) (off : Int) :
    Runs (.ptpSyncRx p ns off) s fun u => RegsBut s u [] ∧ Counted s u (F.PTP_RX_EVENTS p) ∧ MemSame s u ∧ u.tk = (s.seeNs ns.toNat).tk := by
  refine ⟨_, exec_ptpSyncRx_other hp hon hparent ns off, fun o _ => ?_, ?_, memSame_of_mem ?_ ?_, seeNs_count_tk s _ _ _⟩
  · rw [seeNs_reg, State.count_reg]
  · rw [Counted, seeNs_live, State.live_count_self]
  · rw [seeNs_mem, State.count_mem]
  · rw [seeNs_variant, State.count_variant]

variable (hparent : s.get F.TIME_STATUS_PARENT = p) (ns : BitVec 64) {off : Int}
include hparent

theorem runs_ptpSyncRx_locks (hoff : off.natAbs ≤ 25) (hl : s.get F.TIME_STATUS_LOCK = 1) (hn : 63 ≤ s.tk.goodSync) :
    Runs (.ptpSyncRx p ns off) s fun u => SyncSeen s u p off ∧ u.get F.TIME_STATUS_LOCK = 2 ∧
      u.tk = { (s.seeNs ns.toNat).tk with goodSync := s.tk.goodSync + 1, locked := true } := by
  have hrow : syncRow s = s.tk.goodSync := by simp [syncRow, hl]
  obtain ⟨hlock, htk⟩ := syncFollowed_locks (syncShown s p ns.toNat off) (n := s.tk.goodSync + 1) (by omega) (by rw [syncShown_get _ _ (by decide), hl]; decide)
  rw [syncShown_tk] at htk
  have hexec := exec_ptpSyncRx_near hp hon hparent ns (off := off) (by omega)
  rw [if_pos hoff, hrow] at hexec
  exact ⟨_, hexec, (syncShown_seen hparent _ _).followed _ _, hlock, htk⟩

/-- A Sync in a row that is too short, or outside the lock bound, leaves LOCK 2 or brings LOCK 1. -/
theorem runs_ptpSyncRx_waits (hoff : off.natAbs ≤ 1000) {n : Nat} (hn : (if off.natAbs ≤ 25 then syncRow s + 1 else 0) = n) (h64 : n < 64) :
    Runs (.ptpSyncRx p ns off) s fun u => SyncSeen s u p off ∧ u.get F.TIME_STATUS_LOCK = (if s.get F.TIME_STATUS_LOCK = 2 then 2 else 1) ∧
      u.tk = { (s.seeNs ns.toNat).tk with goodSync := n } := by
  obtain ⟨hlock, htk⟩ := syncFollowed_waits (syncShown s p ns.toNat off) n h64
  rw [syncShown_tk] at htk
  rw [syncShown_get _ _ (by decide)] at hlock
  have hexec := exec_ptpSyncRx_near hp hon hparent ns hoff
  rw [hn] at hexec
  exact ⟨_, hexec, (syncShown_seen hparent _ _).followed _ _, hlock, htk⟩

/-- More than 1,000 ns off, the time base is stepped (R97). -/
theorem runsSettled_ptpSyncRx (hoff : 1000 < off.natAbs) :
    RunsSettled (.ptpSyncRx p ns off) s fun u => SyncSeen s u p off ∧ u.get F.TIME_STATUS_LOCK = 1 ∧ Counted s u F.TIME_STEPS ∧
      u.fc.raised = s.fc.raised ++ [(12, p, 0)] ∧ (0 ≤ (ns.toNat : Int) - off → (u.tk.ns : Int) = ((ns.toNat : Int) - off) % 2 ^ 64) := by
  obtain ⟨hseen, hsteps⟩ := (syncShown_seen hparent ns.toNat off).stepped _ ns.toNat off hp
  have hraised : (syncShown s p ns.toNat off).fc.raised = s.fc.raised := by rw [syncShown, State.set_fc, seeNs_fc, State.count_fc]
  refine ⟨_, exec_ptpSyncRx_far hp hon hparent ns hoff, hseen, syncStepped_lock _ _ _, hsteps (syncShown_steps hp _ _), ?_, fun hpos => ?_⟩
  · rw [syncStepped_raised, hraised]
  · rw [syncStepped_ns]
    omega

end SyncRx

/-! ## An Announce (R96, R99) -/

section AnnounceRx

variable {s : State} {p : Nat} (d : Dataset)

/-- An announced clock is kept for its port, and a decision is taken. -/
def announceTaken (s : State) (p : Nat) (d : Dataset) : State := bmca { s with tk := { s.tk with foreign := smSet s.tk.foreign p d } }

theorem exec_ptpAnnounceRx (hp : p < 16) (hon : ptpOn s p = true) (len : Nat) (origin base : BitVec 64) :
    exec (.ptpAnnounceRx p (s.get F.TIME_CTL_DOMAIN) d len origin base) s = .next (announceTlv (announceTaken s p d) p len origin.toNat base.toNat) :=
  congrArg Host.Outcome.next (if_neg (by simp [hon]; omega))

theorem exec_ptpAnnounceRx_other {dom : Nat} (hdom : dom ≠ s.get F.TIME_CTL_DOMAIN) (len : Nat) (origin base : BitVec 64) :
    exec (.ptpAnnounceRx p dom d len origin base) s = .next s := congrArg Host.Outcome.next (if_pos (by simp [hdom]))

theorem announceTaken_reg {o : Nat} (h : o ≠ F.TIME_STATUS.off) : (announceTaken s p d).reg o = s.reg o := bmca_reg _ h

theorem announceTaken_foreign : (announceTaken s p d).tk.foreign = smSet s.tk.foreign p d := by rw [announceTaken, bmca_tk]

/-- A neighbour's boundaries are compared with values that a decision keeps. -/
theorem announceTaken_boundaries (len origin base : Nat) : boundariesDiffer (announceTaken s p d) len origin base = boundariesDiffer s len origin base := by
  have hlen : (announceTaken s p d).get F.TICK_LEN_CUR = s.get F.TICK_LEN_CUR := bmca_get _ (by decide)
  rw [boundariesDiffer, boundariesDiffer, State.tickNs, State.tickNs, hlen, announceTaken, bmca_tk]

/-- With no other clock known, the announced one is the parent or is compared with the adapter's own. -/
theorem announceTaken_first (hp : p < 16) (hnone : s.tk.foreign = []) :
    (gmCandidate s = false → (announceTaken s p d).get F.TIME_STATUS_PARENT = p ∧ (announceTaken s p d).flag F.TIME_STATUS_GM = false) ∧
      (gmCandidate s = true → (announceTaken s p d).get F.TIME_STATUS_PARENT = 31 ∧
        (announceTaken s p d).flag F.TIME_STATUS_GM = clockBetter (ownDataset s) 32 d p) := by
  have hbest : bestForeign (smSet s.tk.foreign p d) = some (p, d) := by rw [hnone]; rfl
  rw [announceTaken, bmca_parent, bmca_grandmaster, bmcaParent, bmcaGm, hbest]
  refine ⟨fun hc => ?_, fun hc => ?_⟩ <;> change gmCandidate { s with tk := { s.tk with foreign := smSet s.tk.foreign p d } } = _ at hc <;> rw [hc]
  · exact ⟨Nat.mod_eq_of_lt (by show p < 32; omega), rfl⟩
  · exact ⟨rfl, rfl⟩

end AnnounceRx

section AnnounceTlv

variable (t : State) (p len origin base : Nat)

theorem announceTlv_rest : announceTlv t p len origin base =
    { t with regs := (announceTlv t p len origin base).regs, cnt := (announceTlv t p len origin base).cnt } := by
  unfold announceTlv
  split <;> rfl

theorem announceTlv_reg {o : Nat} (h : o ≠ F.TIME_MISMATCH.off) : (announceTlv t p len origin base).reg o = t.reg o := by
  unfold announceTlv
  split
  · exact State.reg_set_ne t (f := F.TIME_MISMATCH_PORTS) _ h
  · rfl

theorem announceTlv_get {f : RF} (h : f.off ≠ F.TIME_MISMATCH.off) : (announceTlv t p len origin base).get f = t.get f := by
  rw [State.get, State.get, announceTlv_reg t p len origin base h]

variable {t len origin base}

theorem announceTlv_same (h : boundariesDiffer t len origin base = false) : announceTlv t p len origin base = t := if_neg (by rw [h]; decide)

/-- A boundary more than 100 ns off is shown for its port and counted (R99). -/
theorem announceTlv_differs (hp : p < 16) (h : boundariesDiffer t len origin base = true) :
    bit ((announceTlv t p len origin base).get F.TIME_MISMATCH_PORTS) p = true ∧ Counted t (announceTlv t p len origin base) F.TICK_MISMATCH := by
  have e : announceTlv t p len origin base = _ := if_pos h
  rw [e]
  refine ⟨?_, State.live_count_self _ _ _⟩
  rw [State.count_get, State.get_set_self _ _ (by decide), bit_eq_bits, bits_mod _ (show p + 1 ≤ F.TIME_MISMATCH_PORTS.wid from hp), putBit, bits_putBits_self]
  rfl

end AnnounceTlv

/-! ## Pdelay and the intervals (R97, R419) -/

section Intervals

variable {s : State} {p : Nat} (hon : ptpOn s p = true)
include hon

section Open

variable (hq : quiesced s p = false) (hcut : (s.port p).cut = none)
include hq hcut

/-- A Pdelay_Req is answered in two steps. -/
theorem runs_ptpPdelayRx_answered (ns : BitVec 64) : Runs (.ptpPdelayRx p false ns) s fun u =>
    u.out = s.out ++ [.ptp p 3, .ptp p 4] ∧ Counted s u (F.PTP_RX_EVENTS p) ∧ RegsBut s u [] := by
  have hsend : ((s.count (F.PTP_RX_EVENTS p)).ptpSend p 3).ptpSend p 4 = _ := ptpSend_two 3 4 hq hcut
  have hexec : exec (.ptpPdelayRx p false ns) s = .next (((s.count (F.PTP_RX_EVENTS p)).ptpSend p 3).ptpSend p 4) :=
    congrArg Host.Outcome.next (if_neg (by simp [hon]))
  rw [hsend] at hexec
  refine ⟨_, hexec, ?_, ?_, fun o _ => ?_⟩
  · rw [sendPtp_rest, sendPtp_rest]
    exact List.append_assoc _ _ _
  · rw [Counted, sendPtp_live_rx, sendPtp_live_rx, State.live_count_self]
  · rw [sendPtp_rest, sendPtp_rest]
    rfl

/-- The port asks its neighbour for the path's delay. -/
theorem runs_pdelayReqInterval (hp : p < 16) : Runs (.pdelayReqInterval p) s fun u =>
    u.out = s.out ++ [.ptp p 2] ∧ Counted s u (F.PTP_TX_EVENTS p) ∧ RegsBut s u [] := by
  have hexec : exec (.pdelayReqInterval p) s = .next (s.ptpSend p 2) := congrArg Host.Outcome.next (if_neg (by simp [hon]; omega))
  rw [ptpSend_now 2 hq hcut] at hexec
  refine ⟨_, hexec, ?_, sendPtp_live_tx s p 2, fun o _ => ?_⟩ <;> rw [sendPtp_rest]
  rfl

end Open

/-- Inside a frame the answer waits for the next boundary. -/
theorem runs_ptpPdelayRx_waits (hcut : (s.port p).cut.isSome = true) (hq : quiesced s p = false) (ns : BitVec 64) :
    Runs (.ptpPdelayRx p false ns) s fun u =>
      u.out = s.out ∧ (u.port p).ptp = (s.port p).ptp ++ [3, 4] ∧ Counted s u (F.PTP_RX_EVENTS p) ∧ RegsBut s u [] := by
  have hexec : exec (.ptpPdelayRx p false ns) s = .next (((s.count (F.PTP_RX_EVENTS p)).ptpSend p 3).ptpSend p 4) :=
    congrArg Host.Outcome.next (if_neg (by simp [hon]))
  rw [ptpSend_waits 3 (s := s.count (F.PTP_RX_EVENTS p)) hq hcut] at hexec
  have hsecond := ptpSend_waits 4 (s := (s.count (F.PTP_RX_EVENTS p)).setPort p { s.port p with ptp := (s.port p).ptp ++ [3] }) hq
    (by rw [State.port_setPort_self]; exact hcut)
  refine ⟨_, hexec.trans (congrArg _ hsecond), rfl, ?_, State.live_count_self s _ _, fun o _ => rfl⟩
  rw [State.port_setPort_self, State.port_setPort_self]
  exact List.append_assoc _ _ _

/-- A response shows its time. -/
theorem runs_ptpPdelayRx_response (ns : BitVec 64) : Runs (.ptpPdelayRx p true ns) s fun u =>
    u.out = s.out ∧ Counted s u (F.PTP_RX_EVENTS p) ∧ RegsBut s u [] := by
  have hexec : exec (.ptpPdelayRx p true ns) s = .next ((s.count (F.PTP_RX_EVENTS p)).seeNs ns.toNat) :=
    congrArg Host.Outcome.next (if_neg (by simp [hon]))
  refine ⟨_, hexec, ?_, ?_, fun o _ => ?_⟩
  · rw [seeNs_out, State.count_out]
  · rw [Counted, seeNs_live, State.live_count_self]
  · rw [seeNs_reg, State.count_reg]

/-- A port that is no master sends nothing. -/
theorem runs_ptpSyncInterval_slave (hm : portMaster s p = false) : Runs (.ptpSyncInterval p) s fun u =>
    RegsBut s u [F.TIME_STATUS.off] ∧ u.out = s.out ∧ CntBut s u [] := by
  have hexec : exec (.ptpSyncInterval p) s = .next (bmca s) := by
    refine congrArg Host.Outcome.next ((if_neg (by simp [hon])).trans (if_pos ?_))
    rw [(bmca_sameClock s).master, hm]
    rfl
  exact ⟨_, hexec, regsBut_bmca s, bmca_out s, fun k _ => by rw [bmca_cnt]⟩

/-- A master port sends a two-step Sync, and an Announce with the tick values. -/
theorem runs_ptpSyncInterval_master (hm : portMaster s p = true) (hq : quiesced s p = false) (hcut : (s.port p).cut = none) :
    Runs (.ptpSyncInterval p) s fun u => RegsBut s u [F.TIME_STATUS.off] ∧ Counted s u (F.PTP_TX_EVENTS p) ∧
      u.out = s.out ++ [.ptp p 0, .ptp p 1, .announce p (s.get F.TICK_LEN_CUR) s.tk.origin s.tk.base (s.get F.TIME_CTL_DOMAIN) (announced s)] := by
  have hclock := bmca_sameClock s
  have hlen : (bmca s).get F.TICK_LEN_CUR = s.get F.TICK_LEN_CUR := bmca_get s (by decide)
  have hdom : (bmca s).get F.TIME_CTL_DOMAIN = s.get F.TIME_CTL_DOMAIN := bmca_get s (by decide)
  have hq' : quiesced (bmca s) p = false := by rwa [quiesced, State.bay, bmca_fb]
  have horigin : (bmca s).tk.origin = s.tk.origin ∧ (bmca s).tk.base = s.tk.base := by rw [bmca_tk]; exact ⟨rfl, rfl⟩
  obtain ⟨c, hsync, hcount⟩ := ptpSend_sync hq' (by rwa [State.port, bmca_fb])
  obtain ⟨c', hann, hcount'⟩ := sendAnnounce_sent (s := { bmca s with cnt := c, out := (bmca s).out ++ [.ptp p 0, .ptp p 1] }) hq'
    (.announce p (s.get F.TICK_LEN_CUR) s.tk.origin s.tk.base (s.get F.TIME_CTL_DOMAIN) (announced s))
  have hexec : exec (.ptpSyncInterval p) s = .next (sendAnnounce { bmca s with cnt := c, out := (bmca s).out ++ [.ptp p 0, .ptp p 1] } p
      (.announce p (s.get F.TICK_LEN_CUR) s.tk.origin s.tk.base (s.get F.TIME_CTL_DOMAIN) (announced s))) := by
    refine congrArg Host.Outcome.next ((if_neg (by simp [hon])).trans ((if_neg ?_).trans ?_))
    · rw [hclock.master, hm]
      decide
    · rw [← hlen, ← hdom, ← horigin.1, ← horigin.2, ← hclock.announced]
      exact congrArg (fun t => sendAnnounce t p (.announce p (t.get F.TICK_LEN_CUR) t.tk.origin t.tk.base (t.get F.TIME_CTL_DOMAIN) (announced t))) hsync
  refine ⟨_, hexec.trans (congrArg _ hann), regsBut_bmca s, (hcount'.trans hcount).trans ?_, ?_⟩
  · rw [State.live, bmca_cnt, State.live]
    rfl
  · show (bmca s).out ++ [.ptp p 0, .ptp p 1] ++ [_] = _
    rw [bmca_out]
    exact List.append_assoc _ _ _

end Intervals

/-! ## Holdover and PPS (R98, R101) -/

/-! ### The edge of mode 2 -/

section Stepped

/-- What an edge of mode 2 leaves before the decision, with `sec` its second and `t` the time it sets (R101). -/
def ppsStepped (s : State) (ns sec t : Nat) : State :=
  let x := ppsStamp (s.seeNs ns) ns
  let x := if t = ns then x else stepTime x ns t
  { x with tk := { x.tk with ppsLast := some t, frac := 0#16, ppsSet := false, ppsSec := some sec, ppsOn := true } }

variable (s : State) (ns sec t : Nat)

theorem ppsStepped_regs : (ppsStepped s ns sec t).regs = s.regs := by
  unfold ppsStepped
  dsimp only
  split <;> exact seeNs_regs s ns

theorem ppsStepped_mem : (ppsStepped s ns sec t).mem = s.mem := by
  unfold ppsStepped
  dsimp only
  split <;> exact seeNs_mem s ns

theorem ppsStepped_variant : (ppsStepped s ns sec t).variant = s.variant := by
  unfold ppsStepped
  dsimp only
  split <;> exact seeNs_variant s ns

theorem ppsStepped_foreign : (ppsStepped s ns sec t).tk.foreign = s.tk.foreign := by
  unfold ppsStepped
  dsimp only
  split <;> exact seeNs_foreign s ns

theorem ppsStepped_ns : (ppsStepped s ns sec t).tk.ns = (if t = ns then (s.seeNs ns).tk.ns else t) := by
  unfold ppsStepped
  dsimp only
  split <;> rfl

theorem ppsStepped_reg (o : Nat) : (ppsStepped s ns sec t).reg o = s.reg o := by
  rw [State.reg, ppsStepped_regs, ppsStepped_variant]
  rfl

theorem ppsStepped_get (f : RF) : (ppsStepped s ns sec t).get f = s.get f := congrArg (bits · f.lo f.wid) (ppsStepped_reg s ns sec t f.off)

end Stepped

section Pps

variable {s : State}

theorem runs_ptpSyncTimeout (hact : s.pst = 3) (hparent : s.get F.TIME_STATUS_PARENT ≠ 31) : Runs .ptpSyncTimeout s fun u =>
    RegsBut s u [F.TIME_STATUS.off] ∧ u.tk = s.tk ∧ u.get F.TIME_STATUS_LOCK = (if s.get F.TIME_STATUS_LOCK = 0 then 0 else 3) := by
  refine ⟨s.holdover, congrArg Host.Outcome.next (if_pos (by simp [hact, hparent])), ?_⟩
  rw [State.holdover]
  split
  · exact ⟨fun o _ => rfl, rfl, ‹_›⟩
  · exact ⟨regsBut_setLock s 3, setLock_tk s (by decide), setLock_lock s (by decide)⟩

theorem runs_ppsHoldover (hact : s.pst = 3) (hgm : s.flag F.TIME_STATUS_GM = true) (hmode : s.get F.TIME_CTL_PPS_MODE = 2) (hon : s.tk.ppsOn = true) :
    Runs .ppsHoldover s fun u => u.get F.TIME_STATUS_LOCK = 3 ∧ u.tk = { s.tk with ppsOn := false } ∧ RegsBut s u [F.TIME_STATUS.off] :=
  ⟨_, congrArg Host.Outcome.next (if_pos (by simp [hact, hgm, hmode, hon])), setLock_lock _ (by decide), setLock_tk _ (by decide), regsBut_setLock _ 3⟩

variable (hact : s.pst = 3) {ns : BitVec 64}
include hact

/-- An edge within 500 ms of the last is ignored. -/
theorem runs_ppsInEdge_early (hmode : s.get F.TIME_CTL_PPS_MODE = 1 ∨ s.get F.TIME_CTL_PPS_MODE = 2) {l : Int} (hlast : s.tk.ppsLast = some l)
    (hearly : ns.toNat < l + 500000000) :
    Runs (.ppsInEdge ns) s fun u => Counted s u F.PPS_IGNORED ∧ u.tk = s.tk ∧ RegsBut s u [] := by
  refine ⟨s.count F.PPS_IGNORED, congrArg Host.Outcome.next ((if_neg ?_).trans (if_pos ?_)), State.live_count_self s _ _, rfl, fun o _ => rfl⟩
  · rcases hmode with h | h <;> simp [hact, h]
  · simp [hlast, hearly]

section Late

variable (hlate : ∀ l, s.tk.ppsLast = some l → l + 500000000 ≤ ns.toNat)
include hlate

/-- In mode 1 the edge's time is stamped. -/
theorem runs_ppsInEdge_stamp (hmode : s.get F.TIME_CTL_PPS_MODE = 1) : Runs (.ppsInEdge ns) s fun u =>
    smGet u.cnt F.TIME_PPS_STAMP_LO.key 0 = ns.toNat ∧ u.tk = { (s.seeNs ns.toNat).tk with ppsLast := some ns.toNat } ∧ RegsBut s u [] := by
  refine ⟨ppsStamp (s.seeNs ns.toNat) ns.toNat, congrArg Host.Outcome.next ((if_neg ?_).trans ((if_neg ?_).trans (if_pos hmode))), ?_, rfl, fun o _ => ?_⟩
  · simp [hact, hmode]
  · cases h : s.tk.ppsLast with
    | none => simp
    | some l => simpa using hlate l h
  · exact smGet_smSet_self _ _ _ _
  · exact seeNs_reg s _ o

/-- In mode 2 the time base takes the seconds that were set. -/
theorem runs_ppsInEdge_set (hmode : s.get F.TIME_CTL_PPS_MODE = 2) (hset : s.tk.ppsSet = true) {sec t : Nat}
    (hsec : s.reg F.TIME_SET_S_LO.off + 2 ^ 32 * s.get F.TIME_SET_S_HI_S = sec) (ht : sec * 1000000000 % 2 ^ 64 = t) :
    Runs (.ppsInEdge ns) s fun u => u.tk.ppsSec = some sec ∧ u.tk.ppsLast = some (t : Int) ∧ u.tk.ppsSet = false ∧ u.tk.ppsOn = true ∧
      MemSame s u ∧ u.tk.ns = (if t = ns.toNat then (s.seeNs ns.toNat).tk.ns else t) ∧ u.tk.frac = 0#16 ∧
      u.get F.TIME_STATUS_LOCK = s.get F.TIME_STATUS_LOCK ∧ RegsBut s u [F.TIME_STATUS.off] ∧
      (s.flag F.TIME_CTL_GM_CAPABLE = true → s.tk.foreign = [] → u.get F.TIME_STATUS_GM = 1 ∧ u.get F.TIME_STATUS_PARENT = 31) := by
  have hseconds : ppsSeconds (ppsStamp (s.seeNs ns.toNat) ns.toNat) = (sec, ppsStamp (s.seeNs ns.toNat) ns.toNat) := by
    have hkept : (ppsStamp (s.seeNs ns.toNat) ns.toNat).tk.ppsSet = true := by
      show (s.seeNs ns.toNat).tk.ppsSet = true
      rcases seeNs_tk s ns.toNat with h | ⟨_, h⟩ <;> rw [h] <;> exact hset
    rw [ppsSeconds, if_pos hkept]
    show ((s.seeNs ns.toNat).reg _ + 2 ^ 32 * (s.seeNs ns.toNat).get _, _) = _
    rw [seeNs_reg, seeNs_get, hsec]
  have hexec : exec (.ppsInEdge ns) s = .next (bmca (ppsStepped s ns.toNat sec t)) := by
    refine congrArg Host.Outcome.next ((if_neg ?_).trans ((if_neg ?_).trans ((if_neg ?_).trans ?_)))
    · simp [hact, hmode]
    · cases h : s.tk.ppsLast with
      | none => simp
      | some l => simpa using hlate l h
    · rw [hmode]
      decide
    · rw [hseconds]
      dsimp only
      rw [ht]
      rfl
  refine ⟨_, hexec, ?_⟩
  have htk := bmca_tk (ppsStepped s ns.toNat sec t)
  refine ⟨?_, ?_, ?_, ?_, memSame_of_mem ?_ ?_, ?_, ?_, ?_, ?_, fun hcap hnone => ?_⟩
  · rw [htk]; rfl
  · rw [htk]; rfl
  · rw [htk]; rfl
  · rw [htk]; rfl
  · rw [bmca_mem, ppsStepped_mem]
  · rw [bmca_variant, ppsStepped_variant]
  · rw [htk]
    exact ppsStepped_ns s ns.toNat sec t
  · rw [htk]; rfl
  · rw [bmca_status _ (.inl (by decide)), ppsStepped_get]
  · intro o ho
    rw [bmca_reg _ (List.mem_singleton.not.mp ho), ppsStepped_reg]
  · have hcand : gmCandidate (ppsStepped s ns.toNat sec t) = true := by
      rw [gmCandidate, flag_congr (ppsStepped_get s ns.toNat sec t _), ppsStepped_get, hcap, hmode]
      rfl
    have hbest : bestForeign (ppsStepped s ns.toNat sec t).tk.foreign = none := by
      rw [ppsStepped_foreign, hnone]
      rfl
    rw [bmca_gm, bmca_parent, bmcaGm, bmcaParent, hcand, hbest]
    exact ⟨rfl, rfl⟩

end Late

end Pps

/-! ## O60 -/

section Clauses

variable {s : State} {p : Nat}

/-- The Syncs of the parent, by how far off they are. -/
theorem runs_ptpSyncRx_parent (hp : p < 16) (hon : ptpOn s p = true) (hparent : s.get F.TIME_STATUS_PARENT = p) (ns : BitVec 64) {off : Int} :
    let x := (s.seeNs ns.toNat).tk
    (off.natAbs ≤ 25 → s.get F.TIME_STATUS_LOCK = 1 → s.tk.goodSync < 63 → Runs (.ptpSyncRx p ns off) s fun u =>
      SyncSeen s u p off ∧ u.get F.TIME_STATUS_LOCK = 1 ∧ u.tk = { x with goodSync := s.tk.goodSync + 1 }) ∧
    (off.natAbs ≤ 25 → s.get F.TIME_STATUS_LOCK = 0 ∨ s.get F.TIME_STATUS_LOCK = 3 → Runs (.ptpSyncRx p ns off) s fun u =>
      SyncSeen s u p off ∧ u.get F.TIME_STATUS_LOCK = 1 ∧ u.tk = { x with goodSync := 1 }) ∧
    (25 < off.natAbs → off.natAbs ≤ 1000 → Runs (.ptpSyncRx p ns off) s fun u =>
      SyncSeen s u p off ∧ u.tk = { x with goodSync := 0 } ∧ u.get F.TIME_STATUS_LOCK = (if s.get F.TIME_STATUS_LOCK = 2 then 2 else 1)) := by
  refine ⟨fun hoff hl hn => ?_, fun hoff hl => ?_, fun hfar hoff => ?_⟩
  · have hrow : (if off.natAbs ≤ 25 then syncRow s + 1 else 0) = s.tk.goodSync + 1 := by simp [hoff, syncRow, hl]
    have h := runs_ptpSyncRx_waits hp hon hparent ns (by omega) hrow (by omega)
    rwa [if_neg (by rw [hl]; decide)] at h
  · have hrow : (if off.natAbs ≤ 25 then syncRow s + 1 else 0) = 1 := by rcases hl with hl | hl <;> simp [hoff, syncRow, hl]
    have h := runs_ptpSyncRx_waits hp hon hparent ns (by omega) hrow (by omega)
    rwa [if_neg (by rcases hl with hl | hl <;> rw [hl] <;> decide)] at h
  · obtain ⟨u, hexec, hseen, hlock, htk⟩ := runs_ptpSyncRx_waits hp hon hparent ns hoff (if_neg (by omega)) (by omega)
    exact ⟨u, hexec, hseen, htk, hlock⟩

theorem runs_ptpAnnounceRx (hp : p < 16) (hon : ptpOn s p = true) (d : Dataset) (len : Nat) (origin base : BitVec 64) :
    Runs (.ptpAnnounceRx p (s.get F.TIME_CTL_DOMAIN) d len origin base) s fun u =>
      u.tk.foreign = smSet s.tk.foreign p d ∧ u.out = s.out ∧ RegsBut s u [F.TIME_MISMATCH.off, F.TIME_STATUS.off] ∧
      (boundariesDiffer s len origin.toNat base.toNat = true → bit (u.get F.TIME_MISMATCH_PORTS) p = true ∧ Counted s u F.TICK_MISMATCH) ∧
      (boundariesDiffer s len origin.toNat base.toNat = false → u.reg F.TIME_MISMATCH.off = s.reg F.TIME_MISMATCH.off ∧ u.cnt = s.cnt) ∧
      (s.tk.foreign = [] → gmCandidate s = false → u.get F.TIME_STATUS_PARENT = p ∧ u.flag F.TIME_STATUS_GM = false) ∧
      (s.tk.foreign = [] → gmCandidate s = true → u.get F.TIME_STATUS_PARENT = 31 ∧ u.flag F.TIME_STATUS_GM = clockBetter (ownDataset s) 32 d p) := by
  have hdiffer := announceTaken_boundaries (s := s) (p := p) d len origin.toNat base.toNat
  have hcnt : (announceTaken s p d).cnt = s.cnt := bmca_cnt _
  have hparent_kept := announceTlv_get (announceTaken s p d) p len origin.toNat base.toNat (f := F.TIME_STATUS_PARENT) (by decide)
  have hgm_kept := announceTlv_get (announceTaken s p d) p len origin.toNat base.toNat (f := F.TIME_STATUS_GM) (by decide)
  refine ⟨_, exec_ptpAnnounceRx d hp hon len origin base, ?_, ?_, fun o ho => ?_, fun h => ?_, fun h => ?_, fun hnone hc => ?_, fun hnone hc => ?_⟩
  · rw [announceTlv_rest]
    exact announceTaken_foreign d
  · rw [announceTlv_rest]
    exact bmca_out _
  · obtain ⟨hmis, hstatus⟩ : o ≠ F.TIME_MISMATCH.off ∧ o ≠ F.TIME_STATUS.off := by simpa using ho
    rw [announceTlv_reg _ _ _ _ _ hmis, announceTaken_reg d hstatus]
  · obtain ⟨hbit, hcount⟩ := announceTlv_differs p hp (hdiffer.trans h)
    refine ⟨hbit, hcount.trans ?_⟩
    rw [State.live, hcnt, State.live]
  · rw [announceTlv_same p (hdiffer.trans h)]
    exact ⟨announceTaken_reg d (by decide), hcnt⟩
  · obtain ⟨hparent, hgm⟩ := (announceTaken_first d hp hnone).1 hc
    exact ⟨hparent_kept.trans hparent, (flag_congr hgm_kept).trans hgm⟩
  · obtain ⟨hparent, hgm⟩ := (announceTaken_first d hp hnone).2 hc
    exact ⟨hparent_kept.trans hparent, (flag_congr hgm_kept).trans hgm⟩

end Clauses

/-- Settles O60: each event is one of the operations above, and each clause reads what that operation leaves. -/
theorem timeBase : Obligations.TimeBase := by
  unfold Obligations.TimeBase
  intro s hact lock
  refine ⟨fun p hon => ⟨fun ns off hp hother => runs_ptpSyncRx_other hp hon hother ns off, fun ns off hp hparent => ?_,
      fun dom d len origin base hp => ⟨fun hdom => ⟨s, exec_ptpAnnounceRx_other d hdom len origin base, rfl⟩, fun hdom => ?_⟩,
      fun ns hq hcut => runs_ptpPdelayRx_answered hon hq hcut ns, fun ns hcut hq => runs_ptpPdelayRx_waits hon hcut hq ns,
      fun ns => runs_ptpPdelayRx_response hon ns, fun hm => runs_ptpSyncInterval_slave hon hm,
      fun hm hq hcut => runs_ptpSyncInterval_master hon hm hq hcut, fun hp hq hcut => runs_pdelayReqInterval hon hq hcut hp⟩,
    fun hparent => runs_ptpSyncTimeout hact hparent, fun hgm hmode hpps => runs_ppsHoldover hact hgm hmode hpps,
    fun ns => ⟨fun hmode hearly => ?_, fun hmode hlate => runs_ppsInEdge_stamp hact hlate hmode,
      fun hmode hlate hset => runs_ppsInEdge_set hact hlate hmode hset rfl rfl⟩⟩
  · obtain ⟨hrow, hfirst, hnear⟩ := runs_ptpSyncRx_parent hp hon hparent ns (off := off)
    exact ⟨fun hoff hl hn => runs_ptpSyncRx_locks hp hon hparent ns hoff hl hn, hrow, hfirst, hnear,
      fun hoff => runsSettled_ptpSyncRx hp hon hparent ns hoff⟩
  · rw [hdom]
    exact runs_ptpAnnounceRx hp hon d len origin base
  · obtain ⟨l, hlast, hl⟩ : ∃ l, s.tk.ppsLast = some l ∧ ns.toNat < l + 500000000 := by
      by_contra hnone
      exact hearly fun l hlast => not_lt.mp fun hl => hnone ⟨l, hlast, hl⟩
    exact runs_ppsInEdge_early hact hmode hlast hl

end Sys2Proof.Machine

/-! ## Links that go down (R409) -/

namespace Sys2Proof.Machine

/-- Memory, the collector, the variant, the bays and every register outside `offs` are as before. -/
structure PortKept (s u : State) (offs : List Nat) : Prop where
  regs : RegsBut s u offs
  fc : u.fc = s.fc
  bays : u.fb.bays = s.fb.bays
  mem : u.mem = s.mem
  variant : u.variant = s.variant

namespace PortKept

variable {s t u : State} {l l' : List Nat}

theorem refl (s : State) (l : List Nat) : PortKept s s l := ⟨fun _ _ => rfl, rfl, rfl, rfl, rfl⟩

theorem trans (h : PortKept s t l) (k : PortKept t u l) : PortKept s u l :=
  ⟨h.regs.trans k.regs, k.fc.trans h.fc, k.bays.trans h.bays, k.mem.trans h.mem, k.variant.trans h.variant⟩

theorem mono (h : PortKept s t l) (hl : l ⊆ l') : PortKept s t l' := ⟨h.regs.mono hl, h.fc, h.bays, h.mem, h.variant⟩

theorem reg (h : PortKept s t l) {o : Nat} (ho : o ∉ l) : t.reg o = s.reg o := h.regs o ho

theorem get (h : PortKept s t l) {f : RF} (hf : f.off ∉ l) : t.get f = s.get f := congrArg (bits · f.lo f.wid) (h.reg hf)

theorem bay (h : PortKept s t l) (m : Nat) : t.bay m = s.bay m := by rw [State.bay, State.bay, h.bays]

theorem set (s : State) (f : RF) (v : Nat) (hf : f.off ∈ l) : PortKept s (s.set f v) l :=
  ⟨(regsBut_set s f v).mono (by simpa using hf), rfl, rfl, rfl, rfl⟩

end PortKept

variable (s : State)

/-- Counters, outputs and ports show in no register. -/
theorem portKept_ctlSend (n enable time : Nat) (l : List Nat) : PortKept s (ctlSend s n enable time) l := by
  unfold ctlSend
  split
  · exact .refl s l
  · split <;> exact ⟨fun _ _ => rfl, rfl, rfl, rfl, rfl⟩

theorem portKept_sendPfc (i c time : Nat) (l : List Nat) : PortKept s (sendPfc s i c time) l := by
  unfold sendPfc
  split
  · exact (portKept_ctlSend s i (2 ^ c) time l).trans ⟨fun _ _ => rfl, rfl, rfl, rfl, rfl⟩
  · exact .refl s l

theorem portKept_pfcFall (i c : Nat) (l : List Nat) : PortKept s (pfcFall s i c) l := by
  unfold pfcFall
  split
  · exact .refl s l
  · dsimp only
    split
    · exact .trans (t := s.setPort i { s.port i with xoff := putBit (s.port i).xoff c false }) ⟨fun _ _ => rfl, rfl, rfl, rfl, rfl⟩
        (portKept_sendPfc _ i c 0 l)
    · exact .refl s l

theorem portKept_bmca {l : List Nat} (hl : F.TIME_STATUS.off ∈ l) : PortKept s (bmca s) l :=
  ⟨(regsBut_bmca s).mono (by simpa using hl), bmca_fc s, by rw [bmca_fb], bmca_mem s, bmca_variant s⟩

theorem portKept_holdover {l : List Nat} (hl : F.TIME_STATUS.off ∈ l) : PortKept s s.holdover l := by
  unfold State.holdover
  split
  · exact .refl s l
  · exact ⟨(regsBut_setLock s 3).mono (by simpa using hl), setLock_fc s 3, by rw [setLock_rest], setLock_mem s 3, setLock_variant s 3⟩

theorem portKept_forgetForeign (n : Nat) {l : List Nat} (hl : F.TIME_STATUS.off ∈ l) : PortKept s (forgetForeign s n) l := by
  unfold forgetForeign
  split
  · exact .trans (t := { s with tk := { s.tk with foreign := smDel s.tk.foreign n } }) ⟨fun _ _ => rfl, rfl, rfl, rfl, rfl⟩ (portKept_bmca _ hl)
  · exact .refl s l

/-- The registers that show a port's link. -/
def linkRegs (n : Nat) : List Nat := [(F.PORT_STATUS n).off, (F.MAC_PAUSE_STATE n).off, F.TIME_STATUS.off]

/-- What the frames in a port's queues leave with the pauses ended. -/
def linkDropped (s : State) (n : Nat) : State :=
  let p := s.port n
  let s := match p.cut with | some f => sendCut s n f | none => s
  let s := s.count (F.MAC_TX_DISCARD n) (queuedFrames p)
  let s := s.setPort n { p with cut := none, q := [], ptp := [], ctl := [], pfc := 0, llp := 0, xoff := 0, held := 0 }
  (p.q.flatMap fun e => e.2).foldl (fun s f => pfcFall s f.ingress f.cls) s

/-- The port's own registers of a link that is down. -/
def linkShown (s : State) (n : Nat) : State :=
  let s := ((s.set (F.MAC_PAUSE_STATE_PAUSED n) 0).set (F.MAC_PAUSE_STATE_LLP n) 0).set (F.MAC_PAUSE_STATE_WD_BROKEN n) 0
  (((s.set (F.PORT_STATUS_LINK n) 0).set (F.PORT_STATUS_LAST n) 1).bump (F.PORT_STATUS_SEQ n)).count (F.LINK_DOWNS n)

/-- A parent on the port is lost (R99). -/
def linkLost (s : State) (n : Nat) : State := forgetForeign (if n < 16 && s.get F.TIME_STATUS_PARENT = n then s.holdover else s) n

theorem linkGoesDown_eq (n : Nat) : linkGoesDown s n = if !s.linkUp n then s else linkLost (linkShown (linkDropped s n) n) n := rfl

theorem portKept_linkDropped (n : Nat) (l : List Nat) : PortKept s (linkDropped s n) l := by
  unfold linkDropped
  refine foldl_keeps (P := fun t => PortKept s t l) (fun t f h => h.trans (portKept_pfcFall t _ _ l)) _ ?_
  cases (s.port n).cut with
  | none => exact ⟨fun _ _ => rfl, rfl, rfl, rfl, rfl⟩
  | some f => exact ⟨fun _ _ => rfl, rfl, rfl, rfl, rfl⟩

theorem portKept_linkShown (n : Nat) : PortKept s (linkShown s n) (linkRegs n) := by
  refine ⟨fun o ho => ?_, rfl, rfl, rfl, rfl⟩
  obtain ⟨hstatus, hpause, -⟩ : o ≠ (F.PORT_STATUS n).off ∧ o ≠ (F.MAC_PAUSE_STATE n).off ∧ _ := by simpa [linkRegs] using ho
  rw [linkShown, State.count_reg, State.reg_bump_ne (f := F.PORT_STATUS_SEQ n) _ hstatus, State.reg_set_ne (f := F.PORT_STATUS_LAST n) _ _ hstatus,
    State.reg_set_ne (f := F.PORT_STATUS_LINK n) _ _ hstatus, State.reg_set_ne (f := F.MAC_PAUSE_STATE_WD_BROKEN n) _ _ hpause,
    State.reg_set_ne (f := F.MAC_PAUSE_STATE_LLP n) _ _ hpause, State.reg_set_ne (f := F.MAC_PAUSE_STATE_PAUSED n) _ _ hpause]

theorem linkUp_linkShown (n : Nat) : (linkShown s n).linkUp n = false := by
  have hlink : (F.PORT_STATUS_LINK n).lo = 0 ∧ (F.PORT_STATUS_LINK n).wid = 1 := ⟨rfl, rfl⟩
  have hlast : (F.PORT_STATUS_LAST n).lo = 24 ∧ (F.PORT_STATUS_SEQ n).lo = 16 := ⟨rfl, rfl⟩
  rw [State.linkUp, State.flag, linkShown, State.count_get, State.get_bump_apart _ (by omega) (by omega),
    State.get_set_apart _ _ (by omega) (by omega), State.get_set_self _ _ (by omega)]
  rfl

theorem portKept_linkLost (n : Nat) : PortKept s (linkLost s n) [F.TIME_STATUS.off] := by
  refine .trans ?_ (portKept_forgetForeign _ n (by simp))
  split
  · exact portKept_holdover s (by simp)
  · exact .refl s _

theorem portKept_linkGoesDown (n : Nat) : PortKept s (linkGoesDown s n) (linkRegs n) := by
  rw [linkGoesDown_eq]
  split
  · exact .refl s _
  · exact ((portKept_linkDropped s n _).trans (portKept_linkShown _ n)).trans ((portKept_linkLost _ n).mono (by simp [linkRegs]))

/-- LINK reads 0 after a link has gone down. -/
theorem linkUp_linkGoesDown (n : Nat) : (linkGoesDown s n).linkUp n = false := by
  have hstatus : (F.PORT_STATUS_LINK n).off ≠ F.TIME_STATUS.off := by
    show 0x200000 + 0x4000 * n + 0x4 ≠ 0x20014
    omega
  rw [linkGoesDown_eq]
  split
  · simpa using ‹(!s.linkUp n) = true›
  · rw [State.linkUp, flag_congr ((portKept_linkLost _ n).get (by simpa using hstatus))]
    exact linkUp_linkShown _ n

/-! ### Both ports of a bay -/

/-- The registers of the links of a bay's two ports. -/
def bayLinkRegs (m : Nat) : List Nat := linkRegs (2 * m) ++ linkRegs (2 * m + 1)

theorem portKept_bayPortsDown (m : Nat) : PortKept s (bayPortsDown s m) (bayLinkRegs m) :=
  ((portKept_linkGoesDown s _).mono (by simp [bayLinkRegs])).trans ((portKept_linkGoesDown _ _).mono (by simp [bayLinkRegs]))

theorem linkUp_bayPortsDown (m : Nat) : (bayPortsDown s m).linkUp (2 * m) = false ∧ (bayPortsDown s m).linkUp (2 * m + 1) = false := by
  have hother : (F.PORT_STATUS_LINK (2 * m)).off ∉ linkRegs (2 * m + 1) := by
    simp [linkRegs, F.PORT_STATUS_LINK, F.PORT_STATUS, F.MAC_PAUSE_STATE, F.TIME_STATUS, portBase]
    omega
  refine ⟨?_, linkUp_linkGoesDown _ _⟩
  rw [bayPortsDown, State.linkUp, flag_congr ((portKept_linkGoesDown _ _).get hother)]
  exact linkUp_linkGoesDown s _

/-- A bay's own registers lie apart from those of its ports' links. -/
theorem bayBase_notMem_bayLinkRegs {m k : Nat} (h : 0x2000 ≤ k ∧ k < 0x4000) : bayBase m + k ∉ bayLinkRegs m := by
  simp [bayLinkRegs, linkRegs, F.PORT_STATUS, F.MAC_PAUSE_STATE, F.TIME_STATUS, portBase, bayBase]
  omega

end Sys2Proof.Machine

/-! ## Cartridge life areas (R422) -/

namespace Sys2Proof.Machine

/-! ### Little-endian fields (R7) -/

theorem ofLE_lt (bs : List Byte) : ofLE bs < 256 ^ bs.length := by
  induction bs with
  | nil => decide
  | cons b bs ih =>
    have hb := b.isLt
    rw [ofLE, List.length_cons, pow_succ]
    omega

theorem fieldLE_lt (bs : List Byte) (o n : Nat) : fieldLE bs o n < 256 ^ n :=
  (ofLE_lt _).trans_le (Nat.pow_le_pow_right (by decide) (List.length_take_le _ _))

theorem slice_append (a b : List Byte) {n : Nat} (hn : a.length = n) : slice (a ++ b) 0 n = a := by
  rw [slice, List.drop_zero, List.take_left' hn, hn, Nat.sub_self, List.replicate_zero, List.append_nil]


/-! ### A copy of the life area -/

section Copy

variable (seq powered weighted remain : Nat)

/-- What the CRC of a copy covers. -/
def lifeBody : List Byte := toLE 4 seq ++ (toLE 4 powered ++ (toLE 4 weighted ++ (toLE 4 remain ++ List.replicate 8 0#8)))

theorem lifeBody_length : (lifeBody seq powered weighted remain).length = 24 := by simp [lifeBody]

theorem lifeCopy_eq : lifeCopy seq powered weighted remain =
    lifeBody seq powered weighted remain ++ toLE 8 (crc64 (lifeBody seq powered weighted remain)).toNat := by
  simp only [lifeCopy, lifeBody, List.append_assoc]

theorem lifeOk_lifeCopy : lifeOk (lifeCopy seq powered weighted remain) = true := by
  have hlen := lifeBody_length seq powered weighted remain
  have hcrc := fieldLE_append (post := []) (n := 8) (v := (crc64 (lifeBody seq powered weighted remain)).toNat) hlen
  rw [List.append_nil] at hcrc
  have hlt : (crc64 (lifeBody seq powered weighted remain)).toNat < 256 ^ 8 := BitVec.isLt _
  rw [lifeOk, lifeCopy_eq, slice_append _ _ hlen, hcrc, Nat.mod_eq_of_lt hlt]
  exact beq_self_eq_true _

theorem lifeSeq_lifeCopy : lifeSeq (lifeCopy seq powered weighted remain) = seq % 2 ^ 32 := by
  rw [lifeSeq, lifeCopy_eq, lifeBody, List.append_assoc]
  exact fieldLE_append (pre := []) rfl

theorem lifePowered_lifeCopy : lifePowered (lifeCopy seq powered weighted remain) = powered % 2 ^ 32 := by
  rw [lifePowered, lifeCopy_eq, lifeBody, List.append_assoc, List.append_assoc]
  exact fieldLE_append (toLE_length 4 seq)

theorem lifeWeighted_lifeCopy : lifeWeighted (lifeCopy seq powered weighted remain) = weighted % 2 ^ 32 := by
  rw [lifeWeighted, lifeCopy_eq, lifeBody, ← List.append_assoc (toLE 4 seq), List.append_assoc _ _ (toLE 8 _), List.append_assoc (toLE 4 weighted)]
  exact fieldLE_append (by simp)

theorem lifeRemain_lifeCopy : fieldLE (lifeCopy seq powered weighted remain) 12 4 = remain % 2 ^ 32 := by
  rw [lifeCopy_eq, lifeBody, ← List.append_assoc (toLE 4 seq), ← List.append_assoc _ (toLE 4 weighted), List.append_assoc _ _ (toLE 8 _),
    List.append_assoc (toLE 4 remain)]
  exact fieldLE_append (by simp)

end Copy

/-! ### The current copy -/

/-- Is copy A the one that the next write replaces: the copy that is not current? -/
def writesA (c : Cartridge) : Bool := !lifeOk c.lifeA || (lifeOk c.lifeB && !newerLife c.lifeA c.lifeB)

/-- The cartridge with `l` in place of its older copy. -/
def withLife (c : Cartridge) (l : List Byte) : Cartridge := if writesA c then { c with lifeA := l } else { c with lifeB := l }

/-- SEQ of the next copy: one above that of the current one. -/
def nextLifeSeq (c : Cartridge) : Nat := match currentLife c with | some l => (lifeSeq l + 1) % 2 ^ 32 | none => 1

theorem lifeSeq_lt (l : List Byte) : lifeSeq l < 2 ^ 32 := fieldLE_lt l 0 4

/-- The copy after `a` is newer than `a`, also where SEQ wraps. -/
theorem newerLife_next {a l : List Byte} (h : lifeSeq l = (lifeSeq a + 1) % 2 ^ 32) : newerLife l a = true ∧ newerLife a l = false := by
  have ha := lifeSeq_lt a
  constructor
  · rw [newerLife, h, decide_eq_true_iff]
    omega
  · rw [newerLife, h, decide_eq_false_iff_not]
    omega

/-- The copy that a write leaves is the current one. -/
theorem currentLife_withLife {c : Cartridge} {l : List Byte} (hok : lifeOk l = true) (hseq : lifeSeq l = nextLifeSeq c) :
    currentLife (withLife c l) = some l := by
  by_cases hA : lifeOk c.lifeA = true
  · by_cases hB : lifeOk c.lifeB = true
    · by_cases hn : newerLife c.lifeA c.lifeB = true
      · have hcur : currentLife c = some c.lifeA := by simp [currentLife, hA, hB, hn]
        rw [nextLifeSeq, hcur] at hseq
        simp [withLife, writesA, currentLife, hA, hB, hn, hok, (newerLife_next hseq).2]
      · have hcur : currentLife c = some c.lifeB := by simp [currentLife, hA, hB, hn]
        rw [nextLifeSeq, hcur] at hseq
        simp [withLife, writesA, currentLife, hA, hB, hn, hok, (newerLife_next hseq).1]
    · have hcur : currentLife c = some c.lifeA := by simp [currentLife, hA, hB]
      rw [nextLifeSeq, hcur] at hseq
      simp [withLife, writesA, currentLife, hA, hB, hok, (newerLife_next hseq).2]
  · by_cases hB : lifeOk c.lifeB = true
    · have hcur : currentLife c = some c.lifeB := by simp [currentLife, hA, hB]
      rw [nextLifeSeq, hcur] at hseq
      simp [withLife, writesA, currentLife, hA, hB, hok, (newerLife_next hseq).1]
    · simp [withLife, writesA, currentLife, hA, hB, hok]


/-! ## A bay's registers (R424–R426) -/

section Registers

variable (s : State) {m : Nat}

/-- The registers that count a cartridge's life read 0 until they are written. -/
theorem regReset_life : ∀ v : Variant, ∀ m < 8, regReset v (F.LB_POWERED_MIN m).off = 0 ∧ regReset v (F.LB_WEIGHTED m).off = 0 ∧
    regReset v (F.LB_REMAIN_MIN m).off = 0 := by decide

theorem reg_lt_of_reset {o : Nat} (h : regReset s.variant o = 0) : s.reg o < 2 ^ 32 := by
  rw [State.reg]
  split
  · exact BitVec.isLt _
  · rw [h]
    decide

theorem nBay_le : nBay s ≤ 8 := by
  unfold nBay
  split <;> decide

/-- Two of a bay's registers. -/
theorem bayBase_add_ne {a b : Nat} (h : a ≠ b) : bayBase m + a ≠ bayBase m + b := fun e => h (Nat.add_left_cancel e)

theorem output_ne_status : (F.LB_OUTPUT m).off ≠ (F.LB_STATUS m).off := bayBase_add_ne (by decide)

end Registers

/-! ### STATE and SEQ of LB_STATUS (R424) -/

section Event

variable (s : State) (m last : Nat)

theorem lbState_set {v : Nat} (h : v < 8) : (s.set (F.LB_STATUS_STATE m) v).get (F.LB_STATUS_STATE m) = v :=
  (State.get_set_self _ _ (by show 0 + 3 ≤ 32; decide)).trans (Nat.mod_eq_of_lt h)

theorem lbSeq_set_state (v : Nat) : (s.set (F.LB_STATUS_STATE m) v).get (F.LB_STATUS_SEQ m) = s.get (F.LB_STATUS_SEQ m) :=
  State.get_set_apart _ _ (by show 8 + 8 ≤ 32; decide) (.inl (by show 0 + 3 ≤ 8; decide))

theorem lbLatch_set_state (v : Nat) : (s.set (F.LB_STATUS_STATE m) v).get (F.LB_STATUS_LATCH m) = s.get (F.LB_STATUS_LATCH m) :=
  State.get_set_apart _ _ (by show 3 + 1 ≤ 32; decide) (.inl (by show 0 + 3 ≤ 3; decide))

theorem lbState_set_latch (v : Nat) : (s.set (F.LB_STATUS_LATCH m) v).get (F.LB_STATUS_STATE m) = s.get (F.LB_STATUS_STATE m) :=
  State.get_set_apart _ _ (by show 0 + 3 ≤ 32; decide) (.inr (by show 0 + 3 ≤ 3; decide))

theorem lbEvent_answered (h : last < 16) : Answered s (lbEvent s m last) (F.LB_STATUS_SEQ m) (F.LB_STATUS_LAST m) last :=
  answered_result s rfl (by show 8 + 8 ≤ 32; decide) (by show 16 + 4 ≤ 32; decide) (.inl (by show 8 + 8 ≤ 16; decide)) h

theorem lbEvent_reg {o : Nat} (h : o ≠ (F.LB_STATUS m).off) : (lbEvent s m last).reg o = s.reg o := by
  rw [lbEvent, State.reg_bump_ne (f := F.LB_STATUS_SEQ m) _ h, State.reg_set_ne (f := F.LB_STATUS_LAST m) _ _ h]

theorem lbEvent_fc : (lbEvent s m last).fc = s.fc := rfl
theorem lbEvent_fb : (lbEvent s m last).fb = s.fb := rfl
theorem lbEvent_mem : (lbEvent s m last).mem = s.mem := rfl
theorem lbEvent_variant : (lbEvent s m last).variant = s.variant := rfl

/-- STATE, LATCH and the warnings stay. -/
theorem lbEvent_get {f : RF} (h : f.lo + f.wid ≤ 8) : (lbEvent s m last).get f = s.get f := by
  have hlo : (F.LB_STATUS_SEQ m).lo = 8 ∧ (F.LB_STATUS_LAST m).lo = 16 := ⟨rfl, rfl⟩
  rw [lbEvent, State.get_bump_apart _ (by omega) (by omega), State.get_set_apart _ _ (by omega) (by omega)]

theorem lbEvent_state : (lbEvent s m last).get (F.LB_STATUS_STATE m) = s.get (F.LB_STATUS_STATE m) := lbEvent_get s m last (by show 0 + 3 ≤ 8; decide)

end Event

/-! ### The life counts (R425) -/

section LifeShown

variable (s : State) (m p w r : Nat)

/-- POWERED_MIN, WEIGHTED and REMAIN_MIN show `p`, `w` and `r`. -/
def lifeShown : State := ((s.setReg (F.LB_POWERED_MIN m).off p).setReg (F.LB_WEIGHTED m).off w).setReg (F.LB_REMAIN_MIN m).off r

theorem lifeShown_reg {o : Nat} (hp : o ≠ (F.LB_POWERED_MIN m).off) (hw : o ≠ (F.LB_WEIGHTED m).off) (hr : o ≠ (F.LB_REMAIN_MIN m).off) :
    (lifeShown s m p w r).reg o = s.reg o := by
  rw [lifeShown, State.reg_setReg_ne _ _ hr, State.reg_setReg_ne _ _ hw, State.reg_setReg_ne _ _ hp]

theorem lifeShown_counts : (lifeShown s m p w r).reg (F.LB_POWERED_MIN m).off = p % 2 ^ 32 ∧ (lifeShown s m p w r).reg (F.LB_WEIGHTED m).off = w % 2 ^ 32 ∧
    (lifeShown s m p w r).reg (F.LB_REMAIN_MIN m).off = r % 2 ^ 32 := by
  have hpw : (F.LB_POWERED_MIN m).off ≠ (F.LB_WEIGHTED m).off := bayBase_add_ne (by decide)
  have hpr : (F.LB_POWERED_MIN m).off ≠ (F.LB_REMAIN_MIN m).off := bayBase_add_ne (by decide)
  have hwr : (F.LB_WEIGHTED m).off ≠ (F.LB_REMAIN_MIN m).off := bayBase_add_ne (by decide)
  rw [lifeShown, State.reg_setReg_ne _ _ hpr, State.reg_setReg_ne _ _ hpw, State.reg_setReg_self, State.reg_setReg_ne _ _ hwr, State.reg_setReg_self,
    State.reg_setReg_self]
  exact ⟨rfl, rfl, rfl⟩

theorem lifeShown_status {f : RF} (h : f.off = (F.LB_STATUS m).off) : (lifeShown s m p w r).get f = s.get f := by
  have hp : f.off ≠ (F.LB_POWERED_MIN m).off := by rw [h]; exact bayBase_add_ne (by decide)
  have hw : f.off ≠ (F.LB_WEIGHTED m).off := by rw [h]; exact bayBase_add_ne (by decide)
  have hr : f.off ≠ (F.LB_REMAIN_MIN m).off := by rw [h]; exact bayBase_add_ne (by decide)
  rw [State.get, lifeShown_reg s m p w r hp hw hr, ← State.get]

end LifeShown

/-! ### The life area is written -/

section WriteLife

variable (s : State) (m : Nat)

/-- The copy that the bay writes on cartridge `c`. -/
def bayLife (s : State) (m : Nat) (c : Cartridge) : List Byte :=
  lifeCopy (nextLifeSeq c) (s.reg (F.LB_POWERED_MIN m).off) (s.reg (F.LB_WEIGHTED m).off) (s.reg (F.LB_REMAIN_MIN m).off)

/-- Cartridge `c'` holds, as its current copy, the life of the bay's registers, with SEQ one above that of `c`. -/
def LifeOn (s : State) (m : Nat) (c c' : Cartridge) : Prop :=
  ∃ l, currentLife c' = some l ∧ lifePowered l = s.reg (F.LB_POWERED_MIN m).off ∧ lifeWeighted l = s.reg (F.LB_WEIGHTED m).off ∧
    fieldLE l 12 4 = s.reg (F.LB_REMAIN_MIN m).off ∧ lifeSeq l = nextLifeSeq c

variable {m}

theorem lifeOn_withLife (hm : m < 8) (c : Cartridge) : LifeOn s m c (withLife c (bayLife s m c)) := by
  obtain ⟨hpowered, hweighted, hremain⟩ := regReset_life s.variant m hm
  have hnext : nextLifeSeq c < 2 ^ 32 := by
    unfold nextLifeSeq
    split <;> omega
  have hseq : lifeSeq (bayLife s m c) = nextLifeSeq c := (lifeSeq_lifeCopy _ _ _ _).trans (Nat.mod_eq_of_lt hnext)
  exact ⟨bayLife s m c, currentLife_withLife (lifeOk_lifeCopy _ _ _ _) hseq,
    (lifePowered_lifeCopy _ _ _ _).trans (Nat.mod_eq_of_lt (reg_lt_of_reset s hpowered)),
    (lifeWeighted_lifeCopy _ _ _ _).trans (Nat.mod_eq_of_lt (reg_lt_of_reset s hweighted)),
    (lifeRemain_lifeCopy _ _ _ _).trans (Nat.mod_eq_of_lt (reg_lt_of_reset s hremain)), hseq⟩

theorem writeLife_empty (h : (s.bay m).cart = none) : writeLife s m = s := by
  rw [writeLife, h]

theorem writeLife_cart {c : Cartridge} (h : (s.bay m).cart = some c) :
    writeLife s m = s.setBay m { s.bay m with cart := some (withLife c (bayLife s m c)), minutes := 0 } := by
  rw [writeLife, h]
  rfl

/-- A write of the life area changes the bay alone. -/
theorem writeLife_rest : ∃ b, writeLife s m = s ∨ writeLife s m = s.setBay m b := by
  cases h : (s.bay m).cart with
  | none => exact ⟨{}, .inl (writeLife_empty s h)⟩
  | some c => exact ⟨_, .inr (writeLife_cart s h)⟩

theorem writeLife_kept : RegsBut s (writeLife s m) [] ∧ (writeLife s m).mem = s.mem ∧ (writeLife s m).variant = s.variant := by
  obtain ⟨b, h | h⟩ := writeLife_rest s (m := m) <;> rw [h] <;> exact ⟨fun _ _ => rfl, rfl, rfl⟩

end WriteLife

/-! ### The ports of a bay go down -/

section PortsDown

variable (s : State) (m : Nat)

theorem bayPortsDown_reg {k : Nat} (h : 0x2000 ≤ k ∧ k < 0x4000) : (bayPortsDown s m).reg (bayBase m + k) = s.reg (bayBase m + k) :=
  (portKept_bayPortsDown s m).reg (bayBase_notMem_bayLinkRegs h)

theorem bayPortsDown_get (f : RF) (hf : f.off = (F.LB_STATUS m).off) : (bayPortsDown s m).get f = s.get f := by
  rw [State.get, State.get, hf]
  exact congrArg (bits · f.lo f.wid) (bayPortsDown_reg s m (by decide))

variable {s m}

theorem linkUp_congr {u : State} {n : Nat} (h : u.reg (F.PORT_STATUS n).off = s.reg (F.PORT_STATUS n).off) : u.linkUp n = s.linkUp n :=
  flag_congr (congrArg (bits · _ _) h)

theorem portStatus_ne_bay {n k : Nat} (h : 0x2000 ≤ k ∧ k < 0x4000) : (F.PORT_STATUS n).off ≠ bayBase m + k := by
  show 0x200000 + 0x4000 * n + 0x4 ≠ 0x200000 + 0x8000 * m + k
  omega

theorem linkUp_raise (a b c n : Nat) : (s.raise a b c).linkUp n = s.linkUp n := rfl

/-- An event of a bay after its ports have gone down. -/
theorem lbEvent_linkUp (last n : Nat) : (lbEvent s m last).linkUp n = s.linkUp n :=
  linkUp_congr (lbEvent_reg s m last (portStatus_ne_bay (by decide)))

end PortsDown

/-! ## The latch (R56, R428, R429) -/

section Latch

variable {s : State} {m : Nat} (hact : s.pst = 3) (hm : m < nBay s)

/-- What an opened latch shows at once. -/
def bayOpened (s : State) (m : Nat) : State :=
  ((s.set (F.LB_STATUS_LATCH m) 0).setBay m { s.bay m with cart := none, quiescing := false, opened := true }).setReg (F.LB_OUTPUT m).off 0

theorem bayOpened_get (f : RF) (hoff : f.off = (F.LB_STATUS m).off) : (bayOpened s m).get f = (s.set (F.LB_STATUS_LATCH m) 0).get f :=
  congrArg (bits · f.lo f.wid) (State.reg_setReg_ne _ _ (by rw [hoff]; exact bayBase_add_ne (by decide)))

theorem bayOpened_get_apart (f : RF) (hoff : f.off = (F.LB_STATUS m).off) (h : f.lo + f.wid ≤ 3 ∨ 4 ≤ f.lo ∧ f.lo + f.wid ≤ 32) :
    (bayOpened s m).get f = s.get f := by
  have hlatch : (F.LB_STATUS_LATCH m).lo = 3 ∧ (F.LB_STATUS_LATCH m).wid = 1 := ⟨rfl, rfl⟩
  rw [bayOpened_get f hoff, State.get_set_apart _ _ (by omega) (by omega)]

theorem bayOpened_latch : (bayOpened s m).get (F.LB_STATUS_LATCH m) = 0 := by
  rw [bayOpened_get (F.LB_STATUS_LATCH m) rfl, State.get_set_self _ _ (by show 3 + 1 ≤ 32; decide)]
  rfl

/-- The bay with its lasers off. -/
def bayDark (s : State) (m : Nat) : State := (bayOpened s m).set (F.LB_STATUS_STATE m) 0

theorem bayDark_state : (bayDark s m).get (F.LB_STATUS_STATE m) = 0 := by
  rw [bayDark, lbState_set _ _ (by decide)]

theorem bayDark_latch : (bayDark s m).get (F.LB_STATUS_LATCH m) = 0 := by
  rw [bayDark, lbLatch_set_state, bayOpened_latch]

theorem bayDark_seq : (bayDark s m).get (F.LB_STATUS_SEQ m) = s.get (F.LB_STATUS_SEQ m) := by
  rw [bayDark, lbSeq_set_state, bayOpened_get_apart (F.LB_STATUS_SEQ m) rfl (.inr (by show 4 ≤ 8 ∧ 8 + 8 ≤ 32; decide))]

theorem bayDark_output : (bayDark s m).reg (F.LB_OUTPUT m).off = 0 := by
  have hne : (F.LB_OUTPUT m).off ≠ (F.LB_STATUS_STATE m).off := bayBase_add_ne (by decide)
  rw [bayDark, State.reg_set_ne _ _ hne, bayOpened, State.reg_setReg_self, Nat.zero_mod]

theorem bayDark_fc : (bayDark s m).fc = s.fc := rfl
theorem bayDark_mem : (bayDark s m).mem = s.mem := rfl
theorem bayDark_variant : (bayDark s m).variant = s.variant := rfl
theorem bayDark_bay : (bayDark s m).bay m = { s.bay m with cart := none, quiescing := false, opened := true } := State.bay_setBay_self _ m _

include hact hm

theorem exec_latchOpen : exec (.latchOpen m) s = .next (
    if s.get (F.LB_STATUS_STATE m) = 2 then
      settle ((lbEvent (bayPortsDown (bayDark s m) m) m 4).raise 24 m 4)
    else if s.get (F.LB_STATUS_STATE m) = 1 || s.get (F.LB_STATUS_STATE m) = 4 then bayDark s m
    else bayOpened s m) := by
  have hstate := lbState_set_latch s m 0
  have hpst : (s.set (F.LB_STATUS_LATCH m) 0).pst = s.pst := State.pst_set_ne _ _ (by show 0x200 ≠ 0x200000 + 0x8000 * m + 0x2000; omega)
  show Host.Outcome.next (if _ then _ else _) = _
  have hon : ¬ (s.set (F.LB_STATUS_LATCH m) 0).pst ≤ 1 := by
    rw [hpst, hact]
    decide
  rw [if_neg (by omega), ← hstate]
  exact congrArg Host.Outcome.next (if_neg hon)

/-- Over lasing lasers the opening takes both ports down (R428). -/
theorem runs_latchOpen_lasing (hstate : s.get (F.LB_STATUS_STATE m) = 2) : RunsSettled (.latchOpen m) s fun u =>
    u.get (F.LB_STATUS_STATE m) = 0 ∧ (u.get (F.LB_STATUS_LAST m) = 4 ∧ u.get (F.LB_STATUS_SEQ m) = seqNext (s.get (F.LB_STATUS_SEQ m))) ∧
      (u.linkUp (2 * m) = false ∧ u.linkUp (2 * m + 1) = false) ∧ u.fc.raised = s.fc.raised ++ [(24, m, 4)] ∧
      u.flag (F.LB_STATUS_LATCH m) = false ∧ u.reg (F.LB_OUTPUT m).off = 0 ∧ (u.bay m).cart = none ∧ MemSame s u := by
  have hexec : exec (.latchOpen m) s = .next (settle ((lbEvent (bayPortsDown (bayDark s m) m) m 4).raise 24 m 4)) :=
    (exec_latchOpen hact hm).trans (congrArg _ (if_pos hstate))
  have hdown := portKept_bayPortsDown (bayDark s m) m
  have hlinks := linkUp_bayPortsDown (bayDark s m) m
  have hevent := lbEvent_answered (bayPortsDown (bayDark s m) m) m 4 (by decide)
  rw [Answered, bayPortsDown_get _ _ (F.LB_STATUS_SEQ m) rfl, bayDark_seq] at hevent
  refine ⟨_, hexec, ?_, ?_, ?_, ?_, ?_, ?_, ?_, ?_⟩
  · rw [State.raise_get, lbEvent_state, bayPortsDown_get _ _ (F.LB_STATUS_STATE m) rfl, bayDark_state]
  · rw [State.raise_get, State.raise_get]
    exact hevent
  · rw [linkUp_raise, linkUp_raise, lbEvent_linkUp, lbEvent_linkUp]
    exact hlinks
  · show (lbEvent _ m 4).fc.raised ++ [(24, m, 4)] = _
    rw [lbEvent_fc, hdown.fc, bayDark_fc]
  · rw [State.flag, State.raise_get, lbEvent_get _ _ _ (by show 3 + 1 ≤ 8; decide), bayPortsDown_get _ _ (F.LB_STATUS_LATCH m) rfl, bayDark_latch]
    rfl
  · rw [State.raise_reg, lbEvent_reg _ _ _ output_ne_status]
    exact (bayPortsDown_reg _ m (by decide)).trans bayDark_output
  · rw [State.bay, State.raise_fb, lbEvent_fb, ← State.bay, hdown.bay, bayDark_bay]
  · refine memSame_of_mem ?_ ?_
    · rw [State.raise_mem, lbEvent_mem, hdown.mem, bayDark_mem]
    · rw [State.raise_variant, lbEvent_variant, hdown.variant, bayDark_variant]

/-- Elsewhere the opening is remembered, and an identification is given up. -/
theorem runs_latchOpen_dark (hstate : s.get (F.LB_STATUS_STATE m) ≠ 2) : Runs (.latchOpen m) s fun u =>
    u.get (F.LB_STATUS_STATE m) = (if s.get (F.LB_STATUS_STATE m) = 1 ∨ s.get (F.LB_STATUS_STATE m) = 4 then 0 else s.get (F.LB_STATUS_STATE m)) ∧
      u.flag (F.LB_STATUS_LATCH m) = false ∧ u.get (F.LB_STATUS_SEQ m) = s.get (F.LB_STATUS_SEQ m) ∧ (u.bay m).opened = true ∧ u.fc = s.fc ∧
      MemSame s u := by
  have hexec := (exec_latchOpen hact hm).trans (congrArg _ (if_neg hstate))
  by_cases hgiven : s.get (F.LB_STATUS_STATE m) = 1 ∨ s.get (F.LB_STATUS_STATE m) = 4
  · rw [if_pos hgiven]
    refine ⟨bayDark s m, hexec.trans (congrArg _ (if_pos (by simpa using hgiven))), bayDark_state, ?_, bayDark_seq, ?_, rfl, memSame_of_mem rfl rfl⟩
    · rw [State.flag, bayDark_latch]
      rfl
    · rw [bayDark_bay]
  · rw [if_neg hgiven]
    refine ⟨bayOpened s m, hexec.trans (congrArg _ (if_neg (by simpa using hgiven))), ?_, ?_, ?_, ?_, rfl, memSame_of_mem rfl rfl⟩
    · exact bayOpened_get_apart (F.LB_STATUS_STATE m) rfl (.inl (by show 0 + 3 ≤ 3; decide))
    · rw [State.flag, bayOpened_latch]
      rfl
    · exact bayOpened_get_apart (F.LB_STATUS_SEQ m) rfl (.inr (by show 4 ≤ 8 ∧ 8 + 8 ≤ 32; decide))
    · exact congrArg Bay.opened (State.bay_setBay_self _ m _)

/-- A closed latch starts identification, unless the bay is fenced (R423, R429). -/
theorem runs_latchClose (hopen : s.flag (F.LB_STATUS_LATCH m) = false) : Runs (.latchClose m) s fun u => u.flag (F.LB_STATUS_LATCH m) = true ∧
    u.get (F.LB_STATUS_STATE m) = (if s.bayFenced m = true then s.get (F.LB_STATUS_STATE m) else 1) ∧ u.fb = s.fb ∧
      RegsBut s u [(F.LB_STATUS m).off] ∧ CntBut s u [] ∧ MemSame s u := by
  have hfenced : (s.set (F.LB_STATUS_LATCH m) 1).bayFenced m = s.bayFenced m := by
    rw [State.bayFenced, State.bayFenced, State.get_set_ne _ _ (by show 0x10028 ≠ 0x200000 + 0x8000 * m + 0x2000; omega)]
  have hpst : (s.set (F.LB_STATUS_LATCH m) 1).pst = 3 := (State.pst_set_ne _ _ (by show 0x200 ≠ 0x200000 + 0x8000 * m + 0x2000; omega)).trans hact
  have hlatch : (s.set (F.LB_STATUS_LATCH m) 1).flag (F.LB_STATUS_LATCH m) = true := flag_of_get (State.get_set_self _ _ (by show 3 + 1 ≤ 32; decide))
  have hregs : RegsBut s (s.set (F.LB_STATUS_LATCH m) 1) [(F.LB_STATUS m).off] := regsBut_set s _ _
  have hexec : exec (.latchClose m) s = .next (if s.bayFenced m then s.set (F.LB_STATUS_LATCH m) 1
      else (s.set (F.LB_STATUS_LATCH m) 1).set (F.LB_STATUS_STATE m) 1) := by
    refine congrArg Host.Outcome.next ((if_neg (by simp [hopen]; omega)).trans ?_)
    dsimp only
    rw [hfenced, hpst]
    rfl
  by_cases hf : s.bayFenced m = true
  · rw [if_pos hf] at hexec ⊢
    exact ⟨_, hexec, hlatch, lbState_set_latch s m 1, rfl, hregs, fun k _ => rfl, memSame_of_mem rfl rfl⟩
  · rw [if_neg hf] at hexec ⊢
    exact ⟨_, hexec, (flag_congr (lbLatch_set_state _ m 1)).trans hlatch, lbState_set _ m (by decide), rfl, hregs.trans (regsBut_set _ _ _),
      fun k _ => rfl, memSame_of_mem rfl rfl⟩

end Latch

/-! ## Identification (R421–R423) -/

section Cartridges

variable (t : State) (m : Nat) (c : Cartridge)

theorem refuseCartridge_state (last : Nat) : (refuseCartridge t m last).get (F.LB_STATUS_STATE m) = 4 := by
  rw [refuseCartridge, State.raise_get, lbEvent_state, lbState_set _ _ (by decide)]

theorem refuseCartridge_answered {last : Nat} (h : last < 16) : Answered t (refuseCartridge t m last) (F.LB_STATUS_SEQ m) (F.LB_STATUS_LAST m) last := by
  have hevent := lbEvent_answered (t.set (F.LB_STATUS_STATE m) 4) m last h
  rwa [Answered, lbSeq_set_state] at hevent

theorem refuseCartridge_raised (last : Nat) : (refuseCartridge t m last).fc.raised = t.fc.raised ++ [(24, m, last)] := rfl

/-- Showing a record leaves the bay's status and class. -/
theorem showCartridge_get {f : RF} (h : f.off = (F.LB_STATUS m).off ∨ f.off = (F.LB_CLASS m).off ∧ f.lo + f.wid ≤ 16) :
    (showCartridge t m c).get f = t.get f := by
  have hne {a : Nat} (ha : 0x200c ≤ a) : f.off ≠ bayBase m + a := by
    rcases h with h | ⟨h, -⟩ <;> rw [h] <;> exact bayBase_add_ne (by omega)
  have hdate : f.off ≠ (F.LB_MFG_DATE m).off := hne (by decide)
  have hhi : f.off ≠ (F.LB_SERIAL_HI m).off := hne (by decide)
  have hlo : f.off ≠ (F.LB_SERIAL_LO m).off := hne (by decide)
  rw [showCartridge, State.get, State.reg_setReg_ne _ _ hdate, State.reg_setReg_ne _ _ hhi, State.reg_setReg_ne _ _ hlo, ← State.get]
  rcases h with h | ⟨h, hlo⟩
  · exact State.get_set_ne _ _ (by rw [h]; exact bayBase_add_ne (by decide))
  · have hclass : (F.LB_CLASS_CART_CLASS m).lo = 16 := rfl
    exact State.get_set_apart _ _ (by omega) (by omega)

/-- The bay of an accepted cartridge with `p` minutes of power and the weighted life `w` (R422, R425). -/
def cartAccepted (t : State) (m : Nat) (c : Cartridge) (p w : Nat) : State :=
  let r := remainMin (cartHours c) w
  let t := ((lifeShown t m p w r).set (F.LB_STATUS_EOL_WARN m) (b2n (decide (r ≤ 150000)))).set (F.LB_STATUS_EOL m) (b2n (r == 0))
  lbEvent ((t.setBay m { cart := some c }).set (F.LB_STATUS_STATE m) 2) m 0

theorem acceptCartridge_eq : ∃ p w, acceptCartridge t m c = cartAccepted t m c p w ∧
    ∀ l, currentLife c = some l → p = lifePowered l ∧ w = lifeWeighted l := by
  unfold acceptCartridge
  cases h : currentLife c with
  | none => exact ⟨0, 0, rfl, nofun⟩
  | some l => exact ⟨lifePowered l, lifeWeighted l, rfl, fun l' hl => by cases hl; exact ⟨rfl, rfl⟩⟩

variable (p w : Nat)

theorem cartAccepted_state : (cartAccepted t m c p w).get (F.LB_STATUS_STATE m) = 2 := by
  rw [cartAccepted, lbEvent_state, lbState_set _ _ (by decide)]

theorem cartAccepted_fc : (cartAccepted t m c p w).fc = t.fc := by
  rw [cartAccepted, lbEvent_fc, State.set_fc, State.setBay_fc, State.set_fc, State.set_fc]
  rfl

theorem cartAccepted_cart : ((cartAccepted t m c p w).bay m).cart = some c := by
  rw [cartAccepted, State.bay, lbEvent_fb, State.set_fb, ← State.bay, State.bay_setBay_self]

theorem cartAccepted_reg {o : Nat} (ho : o ≠ (F.LB_STATUS m).off) :
    (cartAccepted t m c p w).reg o = (lifeShown t m p w (remainMin (cartHours c) w)).reg o := by
  rw [cartAccepted, lbEvent_reg _ _ _ ho, State.reg_set_ne (f := F.LB_STATUS_STATE m) _ _ ho]
  exact (State.reg_set_ne (f := F.LB_STATUS_EOL m) _ _ ho).trans (State.reg_set_ne (f := F.LB_STATUS_EOL_WARN m) _ _ ho)

theorem cartAccepted_life : (cartAccepted t m c p w).reg (F.LB_POWERED_MIN m).off = p % 2 ^ 32 ∧
    (cartAccepted t m c p w).reg (F.LB_WEIGHTED m).off = w % 2 ^ 32 ∧
    (cartAccepted t m c p w).reg (F.LB_REMAIN_MIN m).off = remainMin (cartHours c) w % 2 ^ 32 := by
  rw [cartAccepted_reg t m c p w (o := (F.LB_POWERED_MIN m).off) (bayBase_add_ne (by decide)),
    cartAccepted_reg t m c p w (o := (F.LB_WEIGHTED m).off) (bayBase_add_ne (by decide)),
    cartAccepted_reg t m c p w (o := (F.LB_REMAIN_MIN m).off) (bayBase_add_ne (by decide))]
  exact lifeShown_counts t m p w _

theorem cartAccepted_warn : (cartAccepted t m c p w).flag (F.LB_STATUS_EOL_WARN m) = true ↔ remainMin (cartHours c) w ≤ 150000 := by
  rw [State.flag, cartAccepted, lbEvent_get _ _ _ (by show 4 + 1 ≤ 8; decide),
    State.get_set_apart _ _ (by show 4 + 1 ≤ 32; decide) (.inl (by show 0 + 3 ≤ 4; decide))]
  show ((State.set (State.set _ _ _) _ _).get (F.LB_STATUS_EOL_WARN m) == 1) = true ↔ _
  rw [State.get_set_apart _ _ (by show 4 + 1 ≤ 32; decide) (.inr (by show 4 + 1 ≤ 5; decide)), State.get_set_self _ _ (by show 4 + 1 ≤ 32; decide)]
  by_cases h : remainMin (cartHours c) w ≤ 150000 <;> simp [h, b2n, F.LB_STATUS_EOL_WARN]

theorem cartAccepted_answered : Answered t (cartAccepted t m c p w) (F.LB_STATUS_SEQ m) (F.LB_STATUS_LAST m) 0 := by
  have hwarn : ((lifeShown t m p w (remainMin (cartHours c) w)).set (F.LB_STATUS_EOL_WARN m) (b2n (decide (remainMin (cartHours c) w ≤ 150000)))).get
      (F.LB_STATUS_SEQ m) = t.get (F.LB_STATUS_SEQ m) :=
    (State.get_set_apart _ _ (by show 8 + 8 ≤ 32; decide) (.inl (by show 4 + 1 ≤ 8; decide))).trans (lifeShown_status t m p w _ (f := F.LB_STATUS_SEQ m) rfl)
  obtain ⟨hlast, hseq⟩ := lbEvent_answered (((((lifeShown t m p w (remainMin (cartHours c) w)).set (F.LB_STATUS_EOL_WARN m)
    (b2n (decide (remainMin (cartHours c) w ≤ 150000)))).set (F.LB_STATUS_EOL m) (b2n (remainMin (cartHours c) w == 0))).setBay m { cart := some c }).set
      (F.LB_STATUS_STATE m) 2) m 0 (by decide)
  refine ⟨hlast, hseq.trans ?_⟩
  rw [lbSeq_set_state]
  exact congrArg seqNext ((State.get_set_apart _ _ (by show 8 + 8 ≤ 32; decide) (.inl (by show 5 + 1 ≤ 8; decide))).trans hwarn)

end Cartridges

section Identified

variable {s : State} {m : Nat} (hact : s.pst = 3) (hm : m < nBay s) (c : Cartridge) (hstate : s.get (F.LB_STATUS_STATE m) = 1)
  (hlatch : s.flag (F.LB_STATUS_LATCH m) = true)

/-- The bay holds `c` while it is identified. -/
def bayHolds (s : State) (m : Nat) (c : Cartridge) : State := s.setBay m { s.bay m with cart := some c }

include hact hm hstate hlatch

theorem exec_cartridgeIdentified : exec (.cartridgeIdentified m c) s = .next (settle (
    if !c.readable || cartMagic c ≠ 0x5452434C || cartVersion c ≠ 1 then refuseCartridge (bayHolds s m c) m 3
    else if !Config.slhDsa128f Config.cartridgeKey (slice c.record 0 256) c.signature then refuseCartridge (showCartridge (bayHolds s m c) m c) m 2
    else if cartClass c ≠ s.get (F.LB_CLASS_BAY_CLASS m) then refuseCartridge (showCartridge (bayHolds s m c) m c) m 1
    else acceptCartridge (showCartridge (bayHolds s m c) m c) m c)) := by
  have hclass : (showCartridge (bayHolds s m c) m c).get (F.LB_CLASS_BAY_CLASS m) = s.get (F.LB_CLASS_BAY_CLASS m) :=
    showCartridge_get (bayHolds s m c) m c (.inr ⟨rfl, by show 0 + 16 ≤ 16; decide⟩)
  rw [← hclass]
  exact congrArg Host.Outcome.next (if_neg (by simp [hstate, hlatch, hact]; omega))

/-- A record that is not readable or not of the format (R423). -/
theorem runs_cartridgeIdentified_bad (hbad : ¬ (c.readable = true ∧ cartMagic c = 0x5452434C ∧ cartVersion c = 1)) :
    RunsSettled (.cartridgeIdentified m c) s fun u => u.get (F.LB_STATUS_STATE m) = 4 ∧
      (u.get (F.LB_STATUS_LAST m) = 3 ∧ u.get (F.LB_STATUS_SEQ m) = seqNext (s.get (F.LB_STATUS_SEQ m))) ∧ u.fc.raised = s.fc.raised ++ [(24, m, 3)] := by
  have hexec := exec_cartridgeIdentified hact hm c hstate hlatch
  rw [not_and_or, not_and_or, Bool.not_eq_true, ← or_assoc] at hbad
  rw [if_pos (by simpa using hbad)] at hexec
  exact ⟨_, hexec, refuseCartridge_state _ _ _, refuseCartridge_answered _ _ (by decide), refuseCartridge_raised _ _ _⟩

theorem runs_cartridgeIdentified_good (hgood : c.readable = true ∧ cartMagic c = 0x5452434C ∧ cartVersion c = 1) :
    RunsSettled (.cartridgeIdentified m c) s fun u =>
      if Config.slhDsa128f Config.cartridgeKey (slice c.record 0 256) c.signature = false then u.get (F.LB_STATUS_STATE m) = 4 ∧
        (u.get (F.LB_STATUS_LAST m) = 2 ∧ u.get (F.LB_STATUS_SEQ m) = seqNext (s.get (F.LB_STATUS_SEQ m))) ∧ u.fc.raised = s.fc.raised ++ [(24, m, 2)]
      else if ¬ cartClass c = s.get (F.LB_CLASS_BAY_CLASS m) then u.get (F.LB_STATUS_STATE m) = 4 ∧
        (u.get (F.LB_STATUS_LAST m) = 1 ∧ u.get (F.LB_STATUS_SEQ m) = seqNext (s.get (F.LB_STATUS_SEQ m))) ∧ u.fc.raised = s.fc.raised ++ [(24, m, 1)]
      else u.get (F.LB_STATUS_STATE m) = 2 ∧
        (u.get (F.LB_STATUS_LAST m) = 0 ∧ u.get (F.LB_STATUS_SEQ m) = seqNext (s.get (F.LB_STATUS_SEQ m))) ∧ u.fc = s.fc ∧
        (u.bay m).cart = some c ∧ ∀ l, currentLife c = some l →
          u.reg (F.LB_POWERED_MIN m).off = lifePowered l ∧ u.reg (F.LB_WEIGHTED m).off = lifeWeighted l ∧
          u.reg (F.LB_REMAIN_MIN m).off = remainMin (cartHours c) (lifeWeighted l) % 2 ^ 32 ∧
          (u.flag (F.LB_STATUS_EOL_WARN m) = true ↔ remainMin (cartHours c) (lifeWeighted l) ≤ 150000) := by
  obtain ⟨hread, hmagic, hversion⟩ := hgood
  have hexec := exec_cartridgeIdentified hact hm c hstate hlatch
  rw [if_neg (by simp [hread, hmagic, hversion])] at hexec
  have hseq : (showCartridge (bayHolds s m c) m c).get (F.LB_STATUS_SEQ m) = s.get (F.LB_STATUS_SEQ m) := showCartridge_get (bayHolds s m c) m c (.inl rfl)
  by_cases hsig : Config.slhDsa128f Config.cartridgeKey (slice c.record 0 256) c.signature = false
  · have hevent := refuseCartridge_answered (showCartridge (bayHolds s m c) m c) m (last := 2) (by decide)
    rw [Answered, hseq] at hevent
    rw [if_pos (by rw [hsig]; rfl)] at hexec
    simp only [if_pos hsig]
    exact ⟨_, hexec, refuseCartridge_state _ _ _, hevent, refuseCartridge_raised _ _ _⟩
  · rw [if_neg (by simpa using hsig)] at hexec
    simp only [if_neg hsig]
    by_cases hfit : cartClass c = s.get (F.LB_CLASS_BAY_CLASS m)
    · rw [if_neg (not_not.mpr hfit)] at hexec
      simp only [if_neg (not_not.mpr hfit)]
      obtain ⟨p, w, hacc, hlife⟩ := acceptCartridge_eq (showCartridge (bayHolds s m c) m c) m c
      rw [hacc] at hexec
      have hevent := cartAccepted_answered (showCartridge (bayHolds s m c) m c) m c p w
      rw [Answered, hseq] at hevent
      refine ⟨_, hexec, cartAccepted_state _ m c p w, hevent, cartAccepted_fc _ m c p w, cartAccepted_cart _ m c p w, fun l hl => ?_⟩
      obtain ⟨rfl, rfl⟩ := hlife l hl
      obtain ⟨hp, hw, hr⟩ := cartAccepted_life (showCartridge (bayHolds s m c) m c) m c (lifePowered l) (lifeWeighted l)
      exact ⟨hp.trans (Nat.mod_eq_of_lt (fieldLE_lt l 4 4)), hw.trans (Nat.mod_eq_of_lt (fieldLE_lt l 8 4)), hr, cartAccepted_warn _ m c _ _⟩
    · have hevent := refuseCartridge_answered (showCartridge (bayHolds s m c) m c) m (last := 1) (by decide)
      rw [Answered, hseq] at hevent
      rw [if_pos hfit] at hexec
      simp only [if_pos hfit]
      exact ⟨_, hexec, refuseCartridge_state _ _ _, hevent, refuseCartridge_raised _ _ _⟩

end Identified

/-! ## Quiesce and resume (R427) -/

section Quiesce

variable {s : State} {m : Nat} (hact : s.pst = 3) (hm : m < nBay s)

section Commands

variable (hfn : s.fnHeld 0 = false)
include hact hm hfn

theorem runs_lbQuiesce : Runs (.lbQuiesce m) s fun u =>
    if s.get (F.LB_STATUS_STATE m) = 2 ∧ s.flag (F.LB_STATUS_LATCH m) = true then u.bay m = { s.bay m with quiescing := true } ∧ RegsBut s u []
    else (u.get (F.LB_STATUS_LAST m) = 8 ∧ u.get (F.LB_STATUS_SEQ m) = seqNext (s.get (F.LB_STATUS_SEQ m))) ∧
      u.get (F.LB_STATUS_STATE m) = s.get (F.LB_STATUS_STATE m) ∧ u.fb = s.fb := by
  have hexec : exec (.lbQuiesce m) s = .next (if s.get (F.LB_STATUS_STATE m) = 2 && s.flag (F.LB_STATUS_LATCH m) then
      s.setBay m { s.bay m with quiescing := true } else lbEvent s m 8) :=
    congrArg Host.Outcome.next ((fnCmd_active hfn hact false _).trans (if_neg (by omega)))
  by_cases hlit : s.get (F.LB_STATUS_STATE m) = 2 ∧ s.flag (F.LB_STATUS_LATCH m) = true
  · rw [if_pos (by simp [hlit])] at hexec
    simp only [if_pos hlit]
    exact ⟨_, hexec, State.bay_setBay_self _ _ _, fun _ _ => rfl⟩
  · rw [if_neg (by simpa using hlit)] at hexec
    simp only [if_neg hlit]
    exact ⟨_, hexec, lbEvent_answered s m 8 (by decide), lbEvent_state s m 8, lbEvent_fb s m 8⟩

theorem runs_lbResume : Runs (.lbResume m) s fun u =>
    if s.get (F.LB_STATUS_STATE m) = 3 ∧ (s.bay m).opened = false then u.get (F.LB_STATUS_STATE m) = 2 ∧ u.fb = s.fb
    else (u.get (F.LB_STATUS_LAST m) = 8 ∧ u.get (F.LB_STATUS_SEQ m) = seqNext (s.get (F.LB_STATUS_SEQ m))) ∧
      u.get (F.LB_STATUS_STATE m) = s.get (F.LB_STATUS_STATE m) ∧ u.fb = s.fb := by
  have hexec : exec (.lbResume m) s = .next (if s.get (F.LB_STATUS_STATE m) = 3 && !(s.bay m).opened then
      s.set (F.LB_STATUS_STATE m) 2 else lbEvent s m 8) :=
    congrArg Host.Outcome.next ((fnCmd_active hfn hact false _).trans (if_neg (by omega)))
  by_cases hheld : s.get (F.LB_STATUS_STATE m) = 3 ∧ (s.bay m).opened = false
  · rw [if_pos (by simp [hheld])] at hexec
    simp only [if_pos hheld]
    exact ⟨_, hexec, lbState_set s m (by decide), rfl⟩
  · rw [if_neg (by simpa using hheld)] at hexec
    simp only [if_neg hheld]
    exact ⟨_, hexec, lbEvent_answered s m 8 (by decide), lbEvent_state s m 8, lbEvent_fb s m 8⟩

end Commands

/-- The registers and the bay of a quiesce that ends, from `t`, whose life area is written. -/
def bayQuiesced (t : State) (m : Nat) : State :=
  lbEvent (((t.setBay m { t.bay m with quiescing := false, opened := false }).setReg (F.LB_OUTPUT m).off 0).set (F.LB_STATUS_STATE m) 3) m 5

section Quiesced

variable (t : State)

theorem bayQuiesced_state : (bayQuiesced t m).get (F.LB_STATUS_STATE m) = 3 := by
  rw [bayQuiesced, lbEvent_state, lbState_set _ _ (by decide)]

theorem bayQuiesced_bay : (bayQuiesced t m).bay m = { t.bay m with quiescing := false, opened := false } := State.bay_setBay_self _ m _

theorem bayQuiesced_reg {o : Nat} (hs : o ≠ (F.LB_STATUS m).off) (ho : o ≠ (F.LB_OUTPUT m).off) : (bayQuiesced t m).reg o = t.reg o := by
  rw [bayQuiesced, lbEvent_reg _ _ _ hs, State.reg_set_ne (f := F.LB_STATUS_STATE m) _ _ hs, State.reg_setReg_ne _ _ ho]
  rfl

theorem bayQuiesced_output : (bayQuiesced t m).reg (F.LB_OUTPUT m).off = 0 := by
  rw [bayQuiesced, lbEvent_reg _ _ _ output_ne_status, State.reg_set_ne (f := F.LB_STATUS_STATE m) _ _ output_ne_status, State.reg_setReg_self, Nat.zero_mod]

theorem bayQuiesced_answered : Answered t (bayQuiesced t m) (F.LB_STATUS_SEQ m) (F.LB_STATUS_LAST m) 5 := by
  obtain ⟨hlast, hseq⟩ := lbEvent_answered (((t.setBay m { t.bay m with quiescing := false, opened := false }).setReg (F.LB_OUTPUT m).off 0).set
    (F.LB_STATUS_STATE m) 3) m 5 (by decide)
  refine ⟨hlast, hseq.trans ?_⟩
  rw [lbSeq_set_state, State.get, State.reg_setReg_ne _ _ (show (F.LB_STATUS_SEQ m).off ≠ (F.LB_OUTPUT m).off from (output_ne_status (m := m)).symm)]
  rfl

theorem bayQuiesced_mem : (bayQuiesced t m).mem = t.mem := rfl
theorem bayQuiesced_variant : (bayQuiesced t m).variant = t.variant := rfl

end Quiesced

include hact hm

theorem exec_quiesceComplete (hq : (s.bay m).quiescing = true) (hstate : s.get (F.LB_STATUS_STATE m) = 2) :
    exec (.quiesceComplete m) s = .next (bayQuiesced (writeLife (bayPortsDown s m) m) m) :=
  congrArg Host.Outcome.next (if_neg (by simp [hact, hq, hstate]; omega))

/-- A quiesce ends with the ports down and the life area written. -/
theorem runs_quiesceComplete (hq : (s.bay m).quiescing = true) (hstate : s.get (F.LB_STATUS_STATE m) = 2) : Runs (.quiesceComplete m) s fun u =>
    u.get (F.LB_STATUS_STATE m) = 3 ∧ (u.get (F.LB_STATUS_LAST m) = 5 ∧ u.get (F.LB_STATUS_SEQ m) = seqNext (s.get (F.LB_STATUS_SEQ m))) ∧
      (u.linkUp (2 * m) = false ∧ u.linkUp (2 * m + 1) = false) ∧
      (∀ c, (s.bay m).cart = some c → ∃ c', (u.bay m).cart = some c' ∧ LifeOn s m c c') ∧ (u.bay m).quiescing = false ∧ (u.bay m).opened = false ∧
      u.reg (F.LB_OUTPUT m).off = 0 ∧ MemSame s u := by
  have hm8 : m < 8 := hm.trans_le (nBay_le s)
  have hdown := portKept_bayPortsDown s m
  obtain ⟨hlink, hlink'⟩ := linkUp_bayPortsDown s m
  obtain ⟨hregs, hmem, hvariant⟩ := writeLife_kept (bayPortsDown s m) (m := m)
  have hseq : (writeLife (bayPortsDown s m) m).get (F.LB_STATUS_SEQ m) = s.get (F.LB_STATUS_SEQ m) :=
    (congrArg (bits · _ _) (hregs _ (by simp))).trans (bayPortsDown_get s m (F.LB_STATUS_SEQ m) rfl)
  have hevent := bayQuiesced_answered (m := m) (writeLife (bayPortsDown s m) m)
  rw [Answered, hseq] at hevent
  have hlinkUp (n : Nat) : (bayQuiesced (writeLife (bayPortsDown s m) m) m).linkUp n = (bayPortsDown s m).linkUp n :=
    linkUp_congr ((bayQuiesced_reg _ (portStatus_ne_bay (by decide)) (portStatus_ne_bay (by decide))).trans (hregs _ (by simp)))
  refine ⟨_, exec_quiesceComplete hact hm hq hstate, bayQuiesced_state _, hevent, ⟨(hlinkUp _).trans hlink, (hlinkUp _).trans hlink'⟩, fun c hc => ?_,
    ?_, ?_, bayQuiesced_output _, memSame_of_mem ?_ ?_⟩
  · have hcart : ((bayPortsDown s m).bay m).cart = some c := by rw [hdown.bay, hc]
    obtain ⟨l, hcurrent, hp, hw, hr, hs⟩ := lifeOn_withLife (bayPortsDown s m) hm8 c
    refine ⟨withLife c (bayLife (bayPortsDown s m) m c), ?_, l, hcurrent, hp.trans (bayPortsDown_reg s m (by decide)),
      hw.trans (bayPortsDown_reg s m (by decide)), hr.trans (bayPortsDown_reg s m (by decide)), hs⟩
    rw [bayQuiesced_bay, writeLife_cart _ hcart, State.bay_setBay_self]
  · rw [bayQuiesced_bay]
  · rw [bayQuiesced_bay]
  · rw [bayQuiesced_mem, hmem, hdown.mem]
  · rw [bayQuiesced_variant, hvariant, hdown.variant]

end Quiesce

/-! ## A minute of lasing (R425, R426) -/

/-- From `s` to `u` nothing has changed in the fabric, in memory and in the registers, but for LB_STATUS of bay `m`. -/
structure StatusOnly (m : Nat) (s u : State) : Prop where
  reg : ∀ o, o ≠ (F.LB_STATUS m).off → u.reg o = s.reg o
  fb : u.fb = s.fb
  mem : u.mem = s.mem
  variant : u.variant = s.variant

theorem StatusOnly.refl (m : Nat) (s : State) : StatusOnly m s s := ⟨fun _ _ => rfl, rfl, rfl, rfl⟩

theorem StatusOnly.trans {m : Nat} {s t u : State} (h : StatusOnly m s t) (k : StatusOnly m t u) : StatusOnly m s u :=
  ⟨fun o ho => (k.reg o ho).trans (h.reg o ho), k.fb.trans h.fb, k.mem.trans h.mem, k.variant.trans h.variant⟩

/-- A flag of the bay that is set with its event. -/
theorem statusOnly_event (s : State) (m : Nat) {f : RF} (hf : f.off = (F.LB_STATUS m).off) (last : Nat) :
    StatusOnly m s ((lbEvent (s.set f 1) m last).raise 24 m last) := by
  refine ⟨fun o ho => ?_, rfl, rfl, rfl⟩
  rw [State.raise_reg, lbEvent_reg _ _ _ ho, State.reg_set_ne _ _ (by rwa [hf])]

section LifeEvents

variable (s : State) (m r : Nat)

/-- The warning of a life that nears its end. -/
def lifeWarned : State := if r ≤ 150000 && !s.flag (F.LB_STATUS_EOL_WARN m) then (lbEvent (s.set (F.LB_STATUS_EOL_WARN m) 1) m 6).raise 24 m 6 else s

/-- The event of a life that has ended. -/
def lifeEnded : State := if r = 0 && !s.flag (F.LB_STATUS_EOL m) then (lbEvent (s.set (F.LB_STATUS_EOL m) 1) m 7).raise 24 m 7 else s

theorem lifeEvents_eq : lifeEvents s m r = lifeEnded (lifeWarned s m r) m r := rfl

/-- Above the warning's bound nothing happens. -/
theorem lifeEvents_none (h : 150000 < r) : lifeEvents s m r = s := by
  rw [lifeEvents_eq, lifeWarned, if_neg (by simp; omega), lifeEnded, if_neg (by simp; omega)]

theorem lifeWarned_kept : StatusOnly m s (lifeWarned s m r) := by
  unfold lifeWarned
  split
  · exact statusOnly_event s m (f := F.LB_STATUS_EOL_WARN m) rfl 6
  · exact .refl m s

theorem lifeEnded_kept : StatusOnly m s (lifeEnded s m r) := by
  unfold lifeEnded
  split
  · exact statusOnly_event s m (f := F.LB_STATUS_EOL m) rfl 7
  · exact .refl m s

theorem lifeEvents_kept : StatusOnly m s (lifeEvents s m r) := (lifeWarned_kept s m r).trans (lifeEnded_kept _ m r)

variable {r}

theorem lifeWarned_warns (h : r ≤ 150000) : (lifeWarned s m r).flag (F.LB_STATUS_EOL_WARN m) = true := by
  by_cases hw : s.flag (F.LB_STATUS_EOL_WARN m) = true
  · rw [lifeWarned, if_neg (by simp [hw])]
    exact hw
  · rw [lifeWarned, if_pos (by simp [hw, h])]
    refine flag_of_get ?_
    rw [State.raise_get, lbEvent_get _ _ _ (by show 4 + 1 ≤ 8; decide), State.get_set_self _ _ (by show 4 + 1 ≤ 32; decide)]
    rfl

/-- The end of a life leaves its warning. -/
theorem lifeEnded_warn : (lifeEnded s m r).flag (F.LB_STATUS_EOL_WARN m) = s.flag (F.LB_STATUS_EOL_WARN m) := by
  unfold lifeEnded
  split
  · refine flag_congr ?_
    rw [State.raise_get, lbEvent_get _ _ _ (by show 4 + 1 ≤ 8; decide),
      State.get_set_apart _ _ (by show 4 + 1 ≤ 32; decide) (.inr (by show 4 + 1 ≤ 5; decide))]
  · rfl

theorem lifeEnded_ends (h : r = 0) : (lifeEnded s m r).flag (F.LB_STATUS_EOL m) = true := by
  by_cases he : s.flag (F.LB_STATUS_EOL m) = true
  · rw [lifeEnded, if_neg (by simp [he])]
    exact he
  · rw [lifeEnded, if_pos (by simp [he, h])]
    refine flag_of_get ?_
    rw [State.raise_get, lbEvent_get _ _ _ (by show 5 + 1 ≤ 8; decide), State.get_set_self _ _ (by show 5 + 1 ≤ 32; decide)]
    rfl

end LifeEvents

section Minute

/-- One more minute in the bay's counts, at an output fraction of `o`; a free value may have been taken. -/
def lifeCounted (s : State) (m w r o k : Nat) : State :=
  let t := State.set { lifeShown s m (s.reg (F.LB_POWERED_MIN m).off + 1) w r with free := k } (F.LB_OUTPUT_FRACTION m) o
  t.setBay m { s.bay m with minutes := (s.bay m).minutes + 1 }

section Counted

variable (s : State) (m w r o k : Nat)

theorem lifeCounted_reg {j : Nat} (hj : j ≠ (F.LB_OUTPUT m).off) :
    (lifeCounted s m w r o k).reg j = (lifeShown s m (s.reg (F.LB_POWERED_MIN m).off + 1) w r).reg j :=
  State.reg_set_ne { lifeShown s m (s.reg (F.LB_POWERED_MIN m).off + 1) w r with free := k } (f := F.LB_OUTPUT_FRACTION m) o hj

theorem lifeCounted_fraction (ho : o < 256) : (lifeCounted s m w r o k).get (F.LB_OUTPUT_FRACTION m) = o :=
  (State.get_set_self _ _ (by show 0 + 8 ≤ 32; decide)).trans (Nat.mod_eq_of_lt ho)

theorem lifeCounted_bay : (lifeCounted s m w r o k).bay m = { s.bay m with minutes := (s.bay m).minutes + 1 } := State.bay_setBay_self _ m _

theorem lifeCounted_fc : (lifeCounted s m w r o k).fc = s.fc := rfl
theorem lifeCounted_mem : (lifeCounted s m w r o k).mem = s.mem := rfl
theorem lifeCounted_variant : (lifeCounted s m w r o k).variant = s.variant := rfl

end Counted

variable {s : State} {m : Nat} (hm : m < nBay s) (hlit : lasersOn s m = true)
include hm hlit

theorem exec_lifeMinute {c : Cartridge} (hc : (s.bay m).cart = some c) (f : Nat) : ∃ o k, (f < 256 → o = f) ∧
    exec (.lifeMinute m f) s = .next (settle (lifeEvents (lifeCounted s m (s.reg (F.LB_WEIGHTED m).off + f)
      (remainMin (cartHours c) (s.reg (F.LB_WEIGHTED m).off + f)) o k) m (remainMin (cartHours c) (s.reg (F.LB_WEIGHTED m).off + f)))) := by
  have hon : ¬ ((decide (nBay s ≤ m) || !lasersOn s m) = true) := by simp [hlit]; omega
  have hexec : exec (.lifeMinute m f) s = .next _ := congrArg Host.Outcome.next (if_neg hon)
  rw [hc] at hexec
  by_cases hf : f < 256
  · refine ⟨f, s.free, fun _ => rfl, hexec.trans ?_⟩
    dsimp only
    rw [if_pos hf]
    rfl
  · refine ⟨(Config.freeValue s.free).toNat % 256, s.free + 1, fun h => absurd h hf, hexec.trans ?_⟩
    dsimp only
    rw [if_neg hf]
    rfl

/-- A minute of lasing adds its fraction to the weighted life (R425). -/
theorem runs_lifeMinute {c : Cartridge} (hc : (s.bay m).cart = some c) (f : Nat) {w r : Nat} (hw : s.reg (F.LB_WEIGHTED m).off + f = w)
    (hr : remainMin (cartHours c) w = r) :
    RunsSettled (.lifeMinute m f) s fun u => u.reg (F.LB_POWERED_MIN m).off = (s.reg (F.LB_POWERED_MIN m).off + 1) % 2 ^ 32 ∧
      u.reg (F.LB_WEIGHTED m).off = w % 2 ^ 32 ∧ u.reg (F.LB_REMAIN_MIN m).off = r % 2 ^ 32 ∧ (f < 256 → u.get (F.LB_OUTPUT_FRACTION m) = f) ∧
      (u.bay m).minutes = (s.bay m).minutes + 1 ∧ (150000 < r → u.fc = s.fc ∧ RegsBut s u [(F.LB_POWERED_MIN m).off, (F.LB_WEIGHTED m).off,
        (F.LB_REMAIN_MIN m).off, (F.LB_OUTPUT m).off]) ∧
      (r ≤ 150000 → u.flag (F.LB_STATUS_EOL_WARN m) = true) ∧ (r = 0 → u.flag (F.LB_STATUS_EOL m) = true) ∧ MemSame s u := by
  obtain ⟨o, k, ho, hexec⟩ := exec_lifeMinute hm hlit hc f
  rw [hw, hr] at hexec
  have hkept := lifeEvents_kept (lifeCounted s m w r o k) m r
  have hreg {j : Nat} (hs : j ≠ (F.LB_STATUS m).off) (hout : j ≠ (F.LB_OUTPUT m).off) :
      (lifeEvents (lifeCounted s m w r o k) m r).reg j = (lifeShown s m (s.reg (F.LB_POWERED_MIN m).off + 1) w r).reg j :=
    (hkept.reg j hs).trans (lifeCounted_reg s m w r o k hout)
  obtain ⟨hpowered, hweighted, hremain⟩ := lifeShown_counts s m (s.reg (F.LB_POWERED_MIN m).off + 1) w r
  refine ⟨_, hexec, (hreg (bayBase_add_ne (by decide)) (bayBase_add_ne (by decide))).trans hpowered,
    (hreg (bayBase_add_ne (by decide)) (bayBase_add_ne (by decide))).trans hweighted,
    (hreg (bayBase_add_ne (by decide)) (bayBase_add_ne (by decide))).trans hremain, fun hf => ?_, ?_, fun hlong => ?_, fun hnear => ?_, fun hend => ?_,
    memSame_of_mem (hkept.mem.trans (lifeCounted_mem s m w r o k)) (hkept.variant.trans (lifeCounted_variant s m w r o k))⟩
  · obtain rfl := ho hf
    exact (congrArg (bits · _ _) (hkept.reg _ output_ne_status)).trans (lifeCounted_fraction s m w r o k hf)
  · rw [State.bay, hkept.fb, ← State.bay, lifeCounted_bay]
  · rw [lifeEvents_none _ _ _ hlong]
    refine ⟨lifeCounted_fc s m w r o k, fun j hj => ?_⟩
    obtain ⟨hjp, hjw, hjr, hjo⟩ : j ≠ (F.LB_POWERED_MIN m).off ∧ j ≠ (F.LB_WEIGHTED m).off ∧ j ≠ (F.LB_REMAIN_MIN m).off ∧
        j ≠ (F.LB_OUTPUT m).off := by
      simpa using hj
    rw [lifeCounted_reg s m w r o k hjo, lifeShown_reg s m _ w r hjp hjw hjr]
  · rw [lifeEvents_eq, lifeEnded_warn, lifeWarned_warns _ _ hnear]
  · rw [lifeEvents_eq, lifeEnded_ends _ _ hend]

/-- Every ten minutes of lasing the life area is written. -/
theorem runs_lifeAreaWrite (hten : 10 ≤ (s.bay m).minutes) : Runs (.lifeAreaWrite m) s fun u =>
    (∀ c, (s.bay m).cart = some c → ∃ c', (u.bay m).cart = some c' ∧ LifeOn s m c c') ∧ RegsBut s u [] ∧ MemSame s u ∧
      ((s.bay m).cart.isSome = true → (u.bay m).minutes = 0) := by
  obtain ⟨hregs, hmem, hvariant⟩ := writeLife_kept s (m := m)
  refine ⟨writeLife s m, congrArg Host.Outcome.next (if_pos (by simp [hm, hlit, hten])), fun c hc => ?_, hregs, memSame_of_mem hmem hvariant, fun hsome => ?_⟩
  · refine ⟨withLife c (bayLife s m c), ?_, lifeOn_withLife s (hm.trans_le (nBay_le s)) c⟩
    rw [writeLife_cart s hc, State.bay_setBay_self]
  · obtain ⟨c, hc⟩ := Option.isSome_iff_exists.mp hsome
    rw [writeLife_cart s hc, State.bay_setBay_self]

end Minute

/-! ## O50 -/

/-- Settles O50: each command's clauses read what its branch leaves in the bay's registers, its ports and its cartridge. -/
theorem bays : Obligations.Bays := by
  unfold Obligations.Bays
  intro s m hact hfn hm b state st ev down alarm written
  have hwritten {u : State} (h : ∀ c, (s.bay m).cart = some c → ∃ c', (u.bay m).cart = some c' ∧ LifeOn s m c c') : written u := by
    intro c hc
    obtain ⟨c', hc', l, hcurrent, hp, hw, hr, hs⟩ := h c hc
    exact ⟨c', l, hc', hcurrent, hp, hw, hr, hs⟩
  refine ⟨fun hlit => runs_latchOpen_lasing hact hm hlit, fun hdark => runs_latchOpen_dark hact hm hdark, fun hopen => runs_latchClose hact hm hopen,
    fun c hstate hlatch => ⟨fun hbad => runs_cartridgeIdentified_bad hact hm c hstate hlatch hbad,
      fun hgood => runs_cartridgeIdentified_good hact hm c hstate hlatch hgood⟩,
    runs_lbQuiesce hact hm hfn, runs_lbResume hact hm hfn, fun hq hstate => ?_, fun c f hlit hc => runs_lifeMinute hm hlit hc f rfl rfl,
    fun hlit hten => ?_⟩
  · obtain ⟨u, hexec, hst, hev, hlinks, hlife, hrest⟩ := runs_quiesceComplete hact hm hq hstate
    exact ⟨u, hexec, hst, hev, hlinks, hwritten hlife, hrest⟩
  · obtain ⟨u, hexec, hlife, hrest⟩ := runs_lifeAreaWrite hm hlit hten
    exact ⟨u, hexec, hwritten hlife, hrest⟩

end Sys2Proof.Machine

/-! ## What a reaction leaves of the collector's events (R501–R507) -/

namespace Sys2Proof.Machine

/-- The FCOL_EVT registers are as before. -/
def EventsKept (s u : State) : Prop := ∀ o, 0x10200 ≤ o → o < 0x10300 → u.reg o = s.reg o

namespace EventsKept

variable {s t u : State}

theorem refl (s : State) : EventsKept s s := fun _ _ _ => rfl

theorem trans (h : EventsKept s t) (k : EventsKept t u) : EventsKept s u := fun o hl hh => (k o hl hh).trans (h o hl hh)

/-- The rest of the state is no part of a register. -/
theorem of_regs (hr : u.regs = s.regs) (hv : u.variant = s.variant) : EventsKept s u := fun o _ _ => by rw [State.reg, State.reg, hr, hv]

theorem setReg (s : State) {off : Nat} (v : Nat) (h : off < 0x10200 ∨ 0x10300 ≤ off) : EventsKept s (s.setReg off v) :=
  fun o _ _ => s.reg_setReg_ne v (by omega)

theorem set (s : State) {f : RF} (v : Nat) (h : f.off < 0x10200 ∨ 0x10300 ≤ f.off) : EventsKept s (s.set f v) := setReg s _ h

theorem bump (s : State) {f : RF} (h : f.off < 0x10200 ∨ 0x10300 ≤ f.off) : EventsKept s (s.bump f) := set s _ h

theorem foldl {α : Type} {f : State → α → State} (hf : ∀ t x, EventsKept t (f t x)) (l : List α) (s : State) : EventsKept s (l.foldl f s) :=
  foldl_keeps (P := EventsKept s) (fun t x h => h.trans (hf t x)) l (refl s)

theorem of_cqFrame (h : CqFrame s u) : EventsKept s u := fun o _ ho => h.regs o (by omega)

theorem of_portKept {l : List Nat} (h : PortKept s u l) (hl : ∀ o ∈ l, o < 0x10200 ∨ 0x10300 ≤ o) : EventsKept s u :=
  fun o hlo hhi => h.reg fun ho => by have := hl o ho; omega

end EventsKept

open EventsKept

/-- A domain's registers and those of a port or bay lie above the collector's. -/
theorem domBase_far (d k : Nat) : domBase d + k < 0x10200 ∨ 0x10300 ≤ domBase d + k := by
  unfold domBase
  omega

theorem portBase_far (n k : Nat) : portBase n + k < 0x10200 ∨ 0x10300 ≤ portBase n + k := by
  unfold portBase
  omega

theorem bayBase_far (m k : Nat) : bayBase m + k < 0x10200 ∨ 0x10300 ≤ bayBase m + k := by
  unfold bayBase
  omega

/-! ### Memory (R284–R286) -/

section Writes

variable (s : State)

theorem eventsKept_setByte (a : Nat) (b : Byte) : EventsKept s (s.setByte a b) := by
  unfold State.setByte
  split
  · exact of_regs rfl rfl
  · split <;> exact of_regs rfl rfl

theorem eventsKept_setBytes (bs : List Byte) (a : Nat) : EventsKept s (s.setBytes a bs) := by
  induction bs generalizing s a with
  | nil => exact refl s
  | cons b bs ih => exact (eventsKept_setByte s a b).trans (ih _ _)

theorem eventsKept_sumLine (tile : Nat) : EventsKept s (s.sumLine tile) := by
  unfold State.sumLine
  split
  · exact refl s
  · dsimp only
    split
    · exact refl s
    · split <;> exact of_regs rfl rfl

/-- A check failure shows in MEM_TCHK_EVENT alone. -/
theorem tileFail_reg (req tile : Nat) {o : Nat} (h : o ≠ F.MEM_TCHK_EVENT.off) : (s.tileFail req tile).reg o = s.reg o := by
  have hshown (t : State) (c w x : Nat) : (((((t.set F.MEM_TCHK_EVENT_CAUSE c).set F.MEM_TCHK_EVENT_REQ req).set F.MEM_TCHK_EVENT_WHERE w).set
      F.MEM_TCHK_EVENT_UNIT x).bump F.MEM_TCHK_EVENT_SEQ).reg o = t.reg o := by
    rw [State.reg_bump_ne (f := F.MEM_TCHK_EVENT_SEQ) _ h, State.reg_set_ne (f := F.MEM_TCHK_EVENT_UNIT) _ _ h,
      State.reg_set_ne (f := F.MEM_TCHK_EVENT_WHERE) _ _ h, State.reg_set_ne (f := F.MEM_TCHK_EVENT_REQ) _ _ h,
      State.reg_set_ne (f := F.MEM_TCHK_EVENT_CAUSE) _ _ h]
  unfold State.tileFail
  dsimp only
  split
  · rw [State.raise_reg, State.count_reg, hshown]
    rfl
  · split
    · rw [State.raise_reg, State.count_reg, hshown]
      rfl
    · rw [State.raise_reg, State.count_reg, State.count_reg, hshown]
      rfl

theorem eventsKept_tileFail (req tile : Nat) : EventsKept s (s.tileFail req tile) := fun o _ ho =>
  tileFail_reg s req tile (show o ≠ 0x300008 by omega)

theorem eventsKept_tileCheck (req tile : Nat) : EventsKept s (s.tileCheck req tile).1 := by
  unfold State.tileCheck
  split
  · exact refl s
  · split
    · exact eventsKept_sumLine s tile
    · exact (eventsKept_sumLine s tile).trans (eventsKept_tileFail _ req tile)

theorem eventsKept_tileWrite (req a : Nat) (bs : List Byte) : EventsKept s (tileWrite s req a bs).1 := by
  have hcheck := eventsKept_tileCheck s req (tileOf a)
  unfold tileWrite
  dsimp only
  split
  · exact refl s
  · split
    · exact ((eventsKept_sumLine s _).trans (eventsKept_setBytes _ bs a)).trans (of_regs rfl rfl)
    · split
      next t h =>
        rw [h] at hcheck
        refine .trans (hcheck.trans ?_) (eventsKept_setBytes _ bs a)
        split <;> exact of_regs rfl rfl
      next => exact hcheck

theorem eventsKept_writePieces (req : Nat) (ps : List (Nat × List Byte)) : EventsKept s (writePieces s req ps).1 := by
  induction ps generalizing s with
  | nil => exact refl s
  | cons p ps ih => exact (eventsKept_tileWrite s req p.1 p.2).trans (ih _)

theorem eventsKept_writeRec (d : Desc) (a : Nat) (bs : List Byte) : EventsKept s (writeRec s d a bs) := by
  unfold writeRec
  split
  · exact eventsKept_writePieces s _ _
  · exact refl s

end Writes

/-! ### Descriptors (R147) -/

section Engines

variable (s : State)

theorem eventsKept_noteCode (kind dom code : Nat) : EventsKept s (noteCode s kind dom code) := by
  unfold noteCode
  split
  · exact refl s
  · split
    · exact (set s code (domBase_far _ _)).trans (bump _ (domBase_far _ _))
    · split
      · exact (set s code (domBase_far _ _)).trans (bump _ (domBase_far _ _))
      · exact refl s

theorem eventsKept_finishDesc (d : Desc) (units : Nat) (tail : List (Nat × List Byte)) (code : Nat) :
    EventsKept s (finishDesc s d units tail code) := by
  have htail := EventsKept.foldl (f := fun s (t : Nat × List Byte) => writeRec s d (recAddr d.w (recWord (dKind d.w)) + t.1) t.2)
    (fun t x => eventsKept_writeRec t d _ x.2) tail s
  unfold finishDesc
  dsimp only
  split
  · exact ((htail.trans (eventsKept_writeRec _ _ _ _)).trans (eventsKept_noteCode _ _ _ _)).trans (of_regs rfl rfl)
  · exact (htail.trans (eventsKept_noteCode _ _ _ _)).trans (of_regs rfl rfl)

theorem eventsKept_countBusy (e cost code : Nat) : EventsKept s (countBusy s e cost code) := by
  unfold countBusy
  split
  next n t h =>
    have ht : EventsKept s t := by
      split at h <;> cases h <;> exact of_regs rfl rfl
    split
    · exact ht.trans (of_regs rfl rfl)
    · exact ht.trans (of_regs rfl rfl)
    · exact ht.trans (of_regs rfl rfl)
    · exact ht

theorem eventsKept_finishRun (r : Run) (code : Nat) : EventsKept s (finishRun s r code) :=
  (eventsKept_countBusy s _ _ _).trans (eventsKept_finishDesc _ _ _ _ _)

theorem eventsKept_showParked (e : Nat) : EventsKept s (showParked s e) := by
  unfold showParked
  split
  · exact set s _ (domBase_far _ _)
  · exact refl s

theorem eventsKept_endAll (e code : Nat) : EventsKept s (endAll s e code) := by
  refine .trans (.trans (.trans (t := s.setEngine e _) (of_regs rfl rfl) (EventsKept.foldl ?_ _ _)) (EventsKept.foldl ?_ _ _)) (eventsKept_showParked _ _)
  · exact fun t r => eventsKept_finishRun t r code
  · exact fun t d => eventsKept_finishDesc t d 0 _ code

theorem eventsKept_fenceEngine (e : Nat) : EventsKept s (fenceEngine s e) := by
  unfold fenceEngine
  split
  · exact refl s
  · refine .trans ?_ (eventsKept_endAll _ e 0x7F)
    unfold markEngFenced
    split
    · exact setReg s _ (.inl (by decide))
    · exact setReg s _ (.inl (by decide))

end Engines

/-! ### Fences (R505) -/

section Fences

variable (s : State)

theorem eventsKept_programEvent (d code kind slot : Nat) : EventsKept s (programEvent s d code kind slot) := by
  unfold programEvent
  split
  · exact refl s
  · exact ((set s kind (domBase_far _ _)).trans (set _ slot (domBase_far _ _))).trans (bump _ (domBase_far _ _))

theorem eventsKept_completeProgram (p : Program) (tail : List Byte) (code kind slot : Nat) :
    EventsKept s (completeProgram s p tail code kind slot) := by
  obtain ⟨thr, hdrop⟩ := dropProgram_eq s p
  have hdropped : EventsKept s (dropProgram s p) := by
    rw [hdrop]
    exact of_regs rfl rfl
  exact (hdropped.trans (eventsKept_programEvent _ _ _ _ _)).trans (of_cqFrame ((reclaim_frame _).trans (cqOwnPost_frame _ _ _ _ _)))

theorem eventsKept_refuseLaunch (r : LaunchReq) (no code : Nat) : EventsKept s (refuseLaunch s r no code) := by
  unfold refuseLaunch
  refine .trans ?_ (of_cqFrame (cqOwnPost_frame _ _ _ _ _))
  split
  · exact of_regs rfl rfl
  · exact refl s

theorem eventsKept_fenceDomain (d : Nat) : EventsKept s (fenceDomain s d) := by
  have hmark (v : Nat) : EventsKept s (s.set F.FCOL_FENCED_DOM_DOMAINS v) := set s v (.inl (by decide))
  have hengines (t : State) : EventsKept t ((List.range 4).foldl (fun s k => fenceEngine s (4 * d + k)) t) :=
    EventsKept.foldl (fun t k => eventsKept_fenceEngine t (4 * d + k)) _ t
  have hprograms (t : State) (ps : List Program) : EventsKept t (ps.foldl (fun s p => completeProgram s p [] 0x7F 0 0) t) :=
    EventsKept.foldl (fun t p => eventsKept_completeProgram t p [] 0x7F 0 0) ps t
  have hlaunches (t : State) (ls : List Launch) : EventsKept t (ls.foldl (fun s l => refuseLaunch s l.r l.p.no 0x7F) t) :=
    EventsKept.foldl (f := fun s (l : Launch) => refuseLaunch s l.r l.p.no 0x7F)
      (fun t l => eventsKept_refuseLaunch t l.r l.p.no 0x7F) ls t
  have hwaiters (t : State) : EventsKept t (dropWaiters t d) := of_regs rfl rfl
  have hqueues (t : State) (w e q : List Launch) : EventsKept t { t with sq := { t.sq with sigWait := w, due := e, lq := q } } := of_regs rfl rfl
  unfold fenceDomain
  split
  · exact refl s
  · refine .trans (.trans (.trans ?_ (hprograms _ _)) (hqueues _ _ _ _)) (hlaunches _ _)
    exact ((hmark _).trans (hengines _)).trans (hwaiters _)

theorem eventsKept_linkGoesDown (n : Nat) : EventsKept s (linkGoesDown s n) := by
  refine of_portKept (portKept_linkGoesDown s n) fun o ho => ?_
  obtain rfl | rfl | rfl : o = (F.PORT_STATUS n).off ∨ o = (F.MAC_PAUSE_STATE n).off ∨ o = F.TIME_STATUS.off := by simpa [linkRegs] using ho
  · exact portBase_far _ _
  · exact portBase_far _ _
  · exact .inr (by decide)

theorem eventsKept_fencePort (n : Nat) : EventsKept s (fencePort s n) := by
  unfold fencePort
  split
  · exact refl s
  · exact (setReg s _ (.inl (by decide))).trans (eventsKept_linkGoesDown _ n)

theorem eventsKept_fenceDie (i : Nat) : EventsKept s (fenceDie s i) := by
  unfold fenceDie
  split
  · exact refl s
  · exact .trans (t := { s with fc := { s.fc with ioDies := putBit s.fc.ioDies i true } }) (of_regs rfl rfl)
      (EventsKept.foldl (fun t n => eventsKept_fencePort t n) _ _)

theorem eventsKept_writeLife (m : Nat) : EventsKept s (writeLife s m) := by
  obtain ⟨b, h | h⟩ := writeLife_rest s (m := m) <;> rw [h]
  · exact refl s
  · exact of_regs rfl rfl

theorem eventsKept_fenceBay (m : Nat) : EventsKept s (fenceBay s m) := by
  have hports : EventsKept s (fencePort (fencePort (s.set F.FCOL_FENCED_DOM_BAYS (putBit (s.get F.FCOL_FENCED_DOM_BAYS) m true)) (2 * m)) (2 * m + 1)) :=
    ((set s _ (.inl (by decide))).trans (eventsKept_fencePort _ _)).trans (eventsKept_fencePort _ _)
  have hdark (t : State) (b : Bay) : EventsKept t (((t.setBay m b).set (F.LB_STATUS_STATE m) 5).setReg (F.LB_OUTPUT m).off 0) :=
    (EventsKept.trans (t := t.setBay m b) (of_regs rfl rfl) (set _ 5 (bayBase_far _ _))).trans (setReg _ 0 (bayBase_far _ _))
  unfold fenceBay
  split
  · exact refl s
  · refine (hports.trans ?_).trans (hdark _ _)
    split
    · exact eventsKept_writeLife _ m
    · exact refl _

theorem eventsKept_fenceUnit (u : FUnit) : EventsKept s (fenceUnit s u) := by
  refine .trans (t := { s with fc := { s.fc with degraded := true } }) (of_regs rfl rfl) ?_
  cases u with
  | engine e => exact eventsKept_fenceEngine _ e
  | domain d => exact eventsKept_fenceDomain _ d
  | port n => exact eventsKept_fencePort _ n
  | ioDie i => exact eventsKept_fenceDie _ i
  | stack k => exact .trans (set _ _ (.inr (by decide))) (of_regs rfl rfl)
  | bay m => exact eventsKept_fenceBay _ m

/-! ### Safe (R507) -/

theorem eventsKept_hostError (h : Nat) : EventsKept s (hostError s h) := by
  unfold hostError
  dsimp only
  split <;> exact of_regs rfl rfl

theorem eventsKept_enterSafe (src : Nat) : EventsKept s (enterSafe s src) := by
  have hcause : EventsKept s (((s.set F.PWR_STATE_STATE 5).set F.FCOL_SAFE_CAUSE_SOURCE src).set F.FCOL_SAFE_CAUSE_VALID 1) :=
    ((set s 5 (.inl (by decide))).trans (set _ src (.inl (by decide)))).trans (set _ 1 (.inl (by decide)))
  have hpauses (t : State) : EventsKept t ((List.range 32).foldl (fun s n => ctlSend s n 0xFF 0xFFFF) t) :=
    EventsKept.foldl (fun t n => of_portKept (portKept_ctlSend t n 0xFF 0xFFFF []) (by simp)) _ t
  have herrors (t : State) : EventsKept t ((List.range 4).foldl hostError t) := EventsKept.foldl eventsKept_hostError _ t
  have hsafe (t : State) : EventsKept t (State.emit { t with pw := { t.pw with sref := true } } (.safeN true)) := of_regs rfl rfl
  unfold enterSafe
  split
  · exact ((hcause.trans (hsafe _)).trans (hpauses _)).trans (herrors _)
  · exact refl s

theorem eventsKept_react (src unit : Nat) : EventsKept s (react s src unit) := by
  unfold react
  split
  · exact refl s
  · split
    · exact eventsKept_enterSafe s src
    · split
      · split
        · exact eventsKept_fenceUnit s _
        · exact eventsKept_enterSafe s src
      · split
        · split
          · exact eventsKept_fenceUnit s _
          · exact refl s
        · exact eventsKept_enterSafe s src
        · exact refl s

end Fences

/-! ### Events that show (R501) -/

theorem seqNext_ne_zero (n : Nat) : seqNext n ≠ 0 := by
  unfold seqNext
  split <;> omega

section Collect

variable (s : State) (src unit detail : Nat) (forced : Bool)

theorem eventsKept_sendArmed : EventsKept s (sendArmed s) := by
  unfold sendArmed
  split
  · exact (set s 0 (.inl (by decide))).trans (of_cqFrame (sendMsix_frame _ _ _))
  · exact refl s

/-- The event's own register. -/
def eventShown : State :=
  (((s.bump (F.FCOL_EVT_SEQ src)).set (F.FCOL_EVT_UNIT src) unit).set (F.FCOL_EVT_DETAIL src) detail).set (F.FCOL_EVT_FORCED src) (b2n forced)

theorem eventShown_seq : (eventShown s src unit detail forced).get (F.FCOL_EVT_SEQ src) ≠ 0 := by
  rw [eventShown, State.get_set_apart _ _ (by show 0 + 8 ≤ 32; decide) (.inr (by show 0 + 8 ≤ 9; decide)),
    State.get_set_apart _ _ (by show 0 + 8 ≤ 32; decide) (.inr (by show 0 + 8 ≤ 24; decide)),
    State.get_set_apart _ _ (by show 0 + 8 ≤ 32; decide) (.inr (by show 0 + 8 ≤ 16; decide)), State.get_bump_seq _ rfl (by show 0 + 8 ≤ 32; decide)]
  exact seqNext_ne_zero _

/-- A collected event is shown, sends the armed message and has its reaction, if any. -/
theorem collect_cases : ∃ t d, collect s src unit detail forced = sendArmed ((eventShown t src unit d forced).count (F.FCOL_COUNT_EVENTS src)) ∨
    collect s src unit detail forced = react (sendArmed ((eventShown t src unit d forced).count (F.FCOL_COUNT_EVENTS src))) src unit := by
  unfold collect
  dsimp only
  split
  · exact ⟨_, _, .inl rfl⟩
  · exact ⟨_, _, .inr rfl⟩

/-- Whatever the reaction, SEQ of a collected event is not 0. -/
theorem collect_seq (h : src < 64) : (collect s src unit detail forced).get (F.FCOL_EVT_SEQ src) ≠ 0 := by
  obtain ⟨t, d, hcollect⟩ := collect_cases s src unit detail forced
  have hsent : EventsKept (eventShown t src unit d forced) (sendArmed ((eventShown t src unit d forced).count (F.FCOL_COUNT_EVENTS src))) :=
    .trans (t := (eventShown t src unit d forced).count (F.FCOL_COUNT_EVENTS src)) (of_regs rfl rfl) (eventsKept_sendArmed _)
  have hkept : EventsKept (eventShown t src unit d forced) (collect s src unit detail forced) := by
    rcases hcollect with e | e <;> rw [e]
    · exact hsent
    · exact hsent.trans (eventsKept_react _ src unit)
  have hreg : (collect s src unit detail forced).reg (F.FCOL_EVT_SEQ src).off = (eventShown t src unit d forced).reg (F.FCOL_EVT_SEQ src).off :=
    hkept _ (by show 0x10200 ≤ 0x10200 + 4 * src; omega) (by show 0x10200 + 4 * src < 0x10300; omega)
  rw [State.get, hreg]
  exact eventShown_seq t src unit d forced

end Collect

/-! ### The collector's turn (R501) -/

/-- No event shows. -/
def Quiet (s : State) : Prop := ∀ k < 64, s.get (F.FCOL_EVT_SEQ k) = 0

section Settle

variable (s : State)

/-- The events of one source that are taken. -/
def takeEvents (es : List (Nat × Nat × Nat)) (t : State) : State :=
  es.foldl (fun s e => if eventValid s e.1 e.2.1 then collect s e.1 e.2.1 e.2.2 false else s) t

/-- A turn that takes an event shows it: a state in which none shows has not been changed. -/
theorem takeEvents_quiet (es : List (Nat × Nat × Nat)) {x t : State} (h : t = x ∨ ¬ Quiet t) : takeEvents es t = x ∨ ¬ Quiet (takeEvents es t) := by
  refine foldl_keeps (P := fun t => t = x ∨ ¬ Quiet t) (fun t e ht => ?_) es h
  by_cases hv : eventValid t e.1 e.2.1 = true
  · have hsrc : e.1 < 64 := by
      rw [eventValid, Bool.and_eq_true, Bool.and_eq_true, decide_eq_true_eq] at hv
      exact hv.1.1
    rw [if_pos hv]
    exact .inr fun hq => collect_seq t e.1 e.2.1 e.2.2 false hsrc (hq _ hsrc)
  · rwa [if_neg hv]

/-- Where no event shows after the collector's turn, it has taken none: the registers are as before. -/
theorem settle_quiet (h : Quiet (settle s)) : (settle s).regs = s.regs ∧ (settle s).variant = s.variant := by
  by_cases hr : s.fc.raised = []
  · rw [show settle s = s from if_pos hr]
    exact ⟨rfl, rfl⟩
  · have hturn : settle s = (List.range 64).foldl (fun t k => takeEvents ((s.fc.raised.foldr insertEvent []).filter fun e => e.1 == k) t)
        { s with fc := { s.fc with raised := [] } } := if_neg hr
    have hkept := foldl_keeps (P := fun t => t = { s with fc := { s.fc with raised := [] } } ∨ ¬ Quiet t)
      (fun t k ht => takeEvents_quiet ((s.fc.raised.foldr insertEvent []).filter fun e => e.1 == k) ht) (List.range 64) (.inl rfl)
    rw [← hturn] at hkept
    obtain e | hloud := hkept
    · rw [e]
      exact ⟨rfl, rfl⟩
    · exact absurd h hloud

end Settle

end Sys2Proof.Machine

/-! ## A host port that loses PERST_N (R67) -/

namespace Sys2Proof.Machine

/-- A transfer descriptor of context 193, with RESUME, at engine 325: the transfer engine of a domain 0x51 that no variant has. TE_STATUS of that
domain would stand at 0x610400, where HOST_CTX_MAP(192) stands. -/
def strayDesc : Desc :=
  { w := BitVec.ofNat 256 (1 + 193 * 2 ^ 4 + 2 ^ 103), th := ⟨0, 0⟩, prog := 0, live := 0, ew := none, eng := 325, opA := 0, opB := 0, post := false,
    no := 0, ts := false, bc := 0, bb := 0 }

/-- Active, with contexts 192 and 193 running at host port 1 and the stray descriptor queued at the transfer engine of domain 0; segment 0 of
context 193 is one host-resident page. -/
def strayState : State :=
  { State.reset with
    regs := [(F.PWR_STATE.off, 3#32), ((F.HOST_CTX_MAP 192).off, BitVec.ofNat 32 (1 + 2 ^ 8 + 2 ^ 9 + 2 ^ 10)),
      ((F.HOST_CTX_MAP 193).off, BitVec.ofNat 32 (1 + 2 ^ 10))]
    pw := { Power.reset with held := false }
    sg := { Seg.reset with segs := [(16 * 193, { e := BitVec.ofNat 512 (2 ^ 64 + 2 ^ 137) })] }
    en := { Eng.reset with eng := [(1, { queue := [strayDesc] })] } }

/-- What the loss of PERST_N at port `h` leaves. -/
def perstLost (s : State) (h : Nat) : State :=
  hostPortLost { s with pw := { s.pw with perst := putBit s.pw.perst h false, trained := putBit s.pw.trained h false } } h

theorem exec_perstNAssert_stray : exec (.perstNAssert 1) strayState = .next (perstLost strayState 1) := by
  refine congrArg Host.Outcome.next ((if_neg (by decide)).trans (if_neg ?_))
  decide

theorem stray_active : strayState.pst = 3 := by decide

theorem stray_ctx : 192 ∈ portCtxs strayState 1 := by decide

/-- Completing the stray descriptor, when context 193 is reset, advances SEQ of its TE_STATUS and so changes STATE of context 192. -/
theorem stray_ctxState : (perstLost strayState 1).ctxState 192 = 3 := by decide +kernel

theorem stray_quiet : Quiet (perstLost strayState 1) := by
  unfold Quiet
  decide +kernel

/-- Refutes O58: the statement puts no bound on the engine number of a queued descriptor. With one of domain 0x51, the loss of PERST_N at a port resets
context 192 (STATE 2), then context 193, whose descriptor completes into the register that shows context 192: its STATE reads 3. -/
theorem not_railsAndBringUp : ¬ Obligations.RailsAndBringUp := by
  unfold Obligations.RailsAndBringUp
  intro hall
  obtain ⟨-, -, -, -, -, -, -, -, hports⟩ := hall strayState
  obtain ⟨u, hexec, -, -, -, hctx⟩ := (hports 1 (by decide)).1 stray_active
  have hsettled : perstLost strayState 1 = settle u := by
    have h := exec_perstNAssert_stray.symm.trans hexec
    injection h
  have hquiet : Quiet (settle u) := hsettled ▸ stray_quiet
  obtain ⟨hregs, hvariant⟩ := settle_quiet u hquiet
  have hsame : (settle u).ctxState 192 = u.ctxState 192 := by
    rw [State.ctxState, State.ctxState, State.get, State.get, State.reg, State.reg, hregs, hvariant]
  have hthree : u.ctxState 192 = 3 := by rw [← hsame, ← hsettled, stray_ctxState]
  have htwo : u.ctxState 192 = 2 := hctx 192 stray_ctx
  omega

end Sys2Proof.Machine

/-! ## What the operations of a tick boundary leave alone (R102) -/

namespace Sys2Proof.Machine

/-- The registers below this offset are those of power, the tick, the time base and mode changes. -/
def tickRegs : Nat := 0x20040

/-- A thread that is Ready after the boundary: it is Ready, or parked in TWAIT mode 0 (R180). -/
def Going (x : Thread) : Prop := x.st = .ready ∨ x.st = .parked ∧ x.pend = .twait none

/-- The parts of the state that the boundary's clauses speak of. -/
def tickCore (s : State) :=
  (s.regs, s.variant, s.pw.held, s.mem.hbm, s.mem.stg, s.mem.rsv, s.mem.refill, s.mem.rsvLoad, s.tk.num, s.tk.nextNum, s.tk.count, s.out,
    s.fc.raised, s.sq.thr)

/-- The registers of power and the tick outside `offs`, the bytes of memory and the tick's number are as before; what has been sent and raised
stays, and a thread that goes on at the boundary still does. -/
structure TickKept (s u : State) (offs : List Nat) : Prop where
  regs : ∀ o, o < tickRegs → o ∉ offs → u.reg o = s.reg o
  held : u.pw.held = s.pw.held
  bytes : SameBytes s u
  tick : u.tk.num = s.tk.num ∧ u.tk.nextNum = s.tk.nextNum ∧ u.tk.count = s.tk.count
  sent : s.out <+: u.out
  raised : s.fc.raised <+: u.fc.raised
  going : ∀ t, Going (s.thr t) → Going (u.thr t)

namespace TickKept

variable {s t u : State} {l l' : List Nat}

theorem of_core (h : tickCore u = tickCore s) : TickKept s u l := by
  simp only [tickCore, Prod.mk.injEq] at h
  obtain ⟨hregs, hvar, hheld, hhbm, hstg, hrsv, hrefill, hload, hnum, hnext, hcount, hout, hraised, hthr⟩ := h
  exact ⟨fun o _ _ => by rw [State.reg, State.reg, hregs, hvar], hheld, ⟨hhbm, hstg, hrsv, hrefill, hload, hvar⟩,
    ⟨hnum, hnext, hcount⟩, by rw [hout], by rw [hraised], fun v => by rw [State.thr, State.thr, hthr]; exact id⟩

theorem refl (s : State) (l : List Nat) : TickKept s s l := of_core rfl

theorem trans (h : TickKept s t l) (k : TickKept t u l) : TickKept s u l where
  regs o ho hl := (k.regs o ho hl).trans (h.regs o ho hl)
  held := k.held.trans h.held
  bytes := h.bytes.trans k.bytes
  tick := ⟨k.tick.1.trans h.tick.1, k.tick.2.1.trans h.tick.2.1, k.tick.2.2.trans h.tick.2.2⟩
  sent := h.sent.trans k.sent
  raised := h.raised.trans k.raised
  going v hv := k.going v (h.going v hv)

theorem mono (h : TickKept s t l) (hl : l ⊆ l') : TickKept s t l' := { h with regs := fun o ho hn => h.regs o ho fun hm => hn (hl hm) }

theorem foldl {α : Type} {f : State → α → State} (hf : ∀ t x, TickKept t (f t x) l) (xs : List α) (s : State) : TickKept s (xs.foldl f s) l :=
  foldl_keeps (P := fun t => TickKept s t l) (fun t x h => h.trans (hf t x)) xs (refl s l)

theorem get (h : TickKept s t l) {f : RF} (ho : f.off < tickRegs) (hl : f.off ∉ l) : t.get f = s.get f := congrArg (bits · f.lo f.wid) (h.regs _ ho hl)

/-- The power state stays where its register does. -/
theorem pst_eq (h : TickKept s t l) (hl : F.PWR_STATE_STATE.off ∉ l) : t.pst = s.pst := by
  rw [State.pst, State.pst, h.get (by decide) hl, h.held]

theorem memSame (h : TickKept s t l) : MemSame s t := h.bytes.byte

theorem setReg (s : State) {off : Nat} (v : Nat) (h : tickRegs ≤ off ∨ off ∈ l) : TickKept s (s.setReg off v) l where
  regs o ho hl := s.reg_setReg_ne v fun e => by subst e; exact h.elim (by omega) hl
  held := rfl
  bytes := ⟨rfl, rfl, rfl, rfl, rfl, rfl⟩
  tick := ⟨rfl, rfl, rfl⟩
  sent := List.prefix_rfl
  raised := List.prefix_rfl
  going _ := id

theorem set (s : State) {f : RF} (v : Nat) (h : tickRegs ≤ f.off ∨ f.off ∈ l) : TickKept s (s.set f v) l := setReg s _ h

theorem bump (s : State) {f : RF} (h : tickRegs ≤ f.off ∨ f.off ∈ l) : TickKept s (s.bump f) l := set s _ h

theorem result (s : State) {seq res : RF} (r : Nat) (hseq : tickRegs ≤ seq.off ∨ seq.off ∈ l) (hres : tickRegs ≤ res.off ∨ res.off ∈ l) :
    TickKept s (s.result seq res r) l := (set s r hres).trans (bump _ hseq)

theorem emit (s : State) (o : Output) (l : List Nat) : TickKept s (s.emit o) l :=
  ⟨fun _ _ _ => rfl, rfl, ⟨rfl, rfl, rfl, rfl, rfl, rfl⟩, ⟨rfl, rfl, rfl⟩, List.prefix_append _ _, List.prefix_rfl, fun _ => id⟩

theorem raise (s : State) (src unit detail : Nat) (l : List Nat) : TickKept s (s.raise src unit detail) l :=
  ⟨fun _ _ _ => rfl, rfl, ⟨rfl, rfl, rfl, rfl, rfl, rfl⟩, ⟨rfl, rfl, rfl⟩, List.prefix_rfl, List.prefix_append _ _, fun _ => id⟩

/-- A thread that becomes Ready goes on. -/
theorem setThr (s : State) (v : Th) {x : Thread} (hx : x.st = .ready) (l : List Nat) : TickKept s (s.setThr v x) l := by
  refine ⟨fun _ _ _ => rfl, rfl, ⟨rfl, rfl, rfl, rfl, rfl, rfl⟩, ⟨rfl, rfl, rfl⟩, List.prefix_rfl, List.prefix_rfl, fun w hw => ?_⟩
  by_cases h : thKey w = thKey v
  · rw [State.thr, h]
    exact .inl (by rw [← hx]; exact congrArg Thread.st (s.thr_setThr_self v x))
  · rwa [s.thr_setThr_ne x h]

theorem resume (s : State) (v : Th) {f : Thread → Thread} (hf : ∀ x, (f x).st = x.st) (l : List Nat) : TickKept s (s.resume v f) l :=
  setThr s v (hf _) l

end TickKept

open TickKept

variable (s : State) (l : List Nat)

/-! ### Completion and submission queues (R440–R449) -/

/-- The registers of the host blocks lie above those of power and the tick. -/
theorem tickRegs_le_host {o : Nat} (h : 0x600000 ≤ o) : tickRegs ≤ o ∨ o ∈ l := .inl ((show tickRegs ≤ 0x600000 by decide).trans h)

theorem tickKept_sendMsix (ctx v : Nat) : TickKept s (s.sendMsix ctx v) l := by
  unfold State.sendMsix
  split
  · exact refl s l
  · split
    · exact setReg s _ (tickRegs_le_host l (msixOff _ _))
    · exact (emit s _ l).trans (of_core rfl)

theorem tickKept_cqFire (n : Nat) : TickKept s (s.cqFire n) l := by
  unfold State.cqFire
  split
  · exact refl s l
  · split
    · refine .trans ?_ (tickKept_sendMsix _ l _ _)
      exact of_core rfl
    · exact refl s l

theorem tickKept_cqWrite (n : Nat) (q : Cq) (e : List Byte) : TickKept s (s.cqWrite n q e) l := by
  refine .trans ?_ (tickKept_cqFire _ l n)
  exact (emit s _ l).trans (of_core rfl)

theorem tickKept_setSqd (k : Nat) (q : Sq) : TickKept s (s.setSqd k q) l := by
  refine .trans (.trans ?_ (set _ _ (tickRegs_le_host l (sqFetchOff k)))) (set _ _ (tickRegs_le_host l (sqFetchOff k)))
  exact of_core rfl

theorem tickKept_sqFetch (k : Nat) : TickKept s (sqFetch s k) l := by
  unfold sqFetch
  split
  · refine .trans ?_ (tickKept_setSqd _ l _ _)
    split
    · exact refl s l
    · exact emit s _ l
  · exact refl s l

theorem tickKept_sqFetchAll : TickKept s (sqFetchAll s) l := by
  have hall (ks : List Nat) : TickKept s (ks.foldl sqFetch s) l := .foldl (fun t k => tickKept_sqFetch t l k) ks s
  unfold sqFetchAll
  dsimp only
  split
  · exact (hall _).trans (of_core rfl)
  · exact hall _

theorem tickKept_reclaim : TickKept s (reclaim s) l := by
  unfold reclaim
  split
  · exact refl s l
  · refine .trans ?_ (set _ (f := F.QUOTA_EVENT_PENDING) _ (.inl (by decide)))
    exact of_core rfl

theorem tickKept_trkBack (no : Nat) : TickKept s (s.trkBack no) l := by
  have hgiven : TickKept s (reclaim (s.trkGive no)) l := by
    refine .trans ?_ (tickKept_reclaim _ l)
    exact of_core rfl
  unfold State.trkBack
  dsimp only
  split
  · exact hgiven.trans (tickKept_sqFetchAll _ l)
  · exact hgiven

theorem tickKept_cqDone (th : Option (Nat × Nat)) (no : Option Nat) : TickKept s (s.cqDone th no) l := by
  have hback (t : State) (h : TickKept s t l) (v : Th) (live : Nat) :
      TickKept s (if (t.thr v).live = live && (t.thr v).pend = .cqpost then t.resume v else t) l := by
    split
    · exact h.trans (resume _ _ (fun _ => rfl) l)
    · exact h
  have hno : TickKept s (match no with | some n => s.trkBack n | none => s) l := by
    cases no with
    | none => exact refl s l
    | some n => exact tickKept_trkBack s l n
  cases th with
  | none => exact hno
  | some e => exact hback _ hno _ _

theorem tickKept_cqPost (n : Nat) (e : List Byte) (th : Option (Nat × Nat)) (host : Option Nat) : TickKept s (s.cqPost n e th host) l := by
  unfold State.cqPost
  split
  · exact tickKept_cqDone s l th host
  · split
    · exact tickKept_cqDone s l th host
    · dsimp only
      split
      · exact of_core rfl
      · split
        · exact of_core rfl
        · exact (tickKept_cqWrite s l _ _ _).trans (tickKept_cqDone _ l th host)

theorem tickKept_cqOwnPost (ctx n : Nat) (e : List Byte) (no : Nat) : TickKept s (s.cqOwnPost ctx n e no) l := by
  unfold State.cqOwnPost
  split
  · exact tickKept_cqPost s l _ _ _ _
  · exact tickKept_cqDone s l _ _

theorem tickKept_cqDrain (n fuel : Nat) : TickKept s (s.cqDrain n fuel) l := by
  induction fuel generalizing s with
  | zero => exact refl s l
  | succ k ih =>
    rw [State.cqDrain]
    split
    · exact refl s l
    · split
      · exact refl s l
      · split
        · exact ((tickKept_cqWrite s l _ _ _).trans (tickKept_cqDone _ l _ _)).trans (ih _)
        · exact refl s l

theorem tickKept_cqDrainAll : TickKept s s.cqDrainAll l :=
  .foldl (f := fun s (e : Nat × Nat) => (s.cqDrain e.1 e.2).cqFire e.1)
    (fun t e => (tickKept_cqDrain t l e.1 e.2).trans (tickKept_cqFire _ l e.1)) _ s

/-! ### Sync counts (R138, R139, R444) -/

theorem tickKept_wakeMet (obj : Nat) : TickKept s (wakeMet s obj) l := by
  refine .trans ?_ (TickKept.foldl (fun t w => resume t _ (fun x => ?_) l) _ _)
  · exact of_core rfl
  · cases w.pd <;> rfl

theorem tickKept_sqDoorbell (k prod : Nat) : TickKept s (sqDoorbell s k prod).1 l := by
  unfold sqDoorbell
  dsimp only
  split
  · exact refl s l
  · split
    · exact of_core rfl
    · exact (tickKept_setSqd s l k _).trans (tickKept_sqFetch _ l k)

theorem tickKept_countChanged (obj : Nat) : TickKept s (countChanged s obj) l :=
  (tickKept_wakeMet s l obj).trans (TickKept.foldl (f := fun s k => (sqDoorbell s k (s.syncCount obj % 65536)).1)
    (fun t k => tickKept_sqDoorbell t l k _) _ _)

theorem tickKept_armRange (base n : Nat) : TickKept s (armRange s base n) l := by
  induction n generalizing s base with
  | zero => exact refl s l
  | succ n ih =>
    refine .trans (.trans ?_ (tickKept_countChanged _ l base)) (ih _ _)
    exact of_core rfl

/-! ### Reads of memory (R284–R286) -/

theorem tickKept_sumLine (tile : Nat) : TickKept s (s.sumLine tile) l := by
  unfold State.sumLine
  split
  · exact refl s l
  · dsimp only
    split
    · exact refl s l
    · split <;> exact of_core rfl

/-- A check failure is recorded in MEM_TCHK_EVENT, counted and raised. -/
theorem tickKept_tileFail (req tile : Nat) : TickKept s (s.tileFail req tile) l := by
  have hfail : TickKept s { s with mem := { s.mem with failAddr := (tile <<< 11) % 2 ^ 48 } } l := of_core rfl
  have hshown (c w x : Nat) := ((((hfail.trans (set _ (f := F.MEM_TCHK_EVENT_CAUSE) c (.inl (by decide)))).trans
    (set _ (f := F.MEM_TCHK_EVENT_REQ) req (.inl (by decide)))).trans (set _ (f := F.MEM_TCHK_EVENT_WHERE) w (.inl (by decide)))).trans
    (set _ (f := F.MEM_TCHK_EVENT_UNIT) x (.inl (by decide)))).trans (bump _ (f := F.MEM_TCHK_EVENT_SEQ) (.inl (by decide)))
  unfold State.tileFail
  dsimp only
  split
  · refine ((hshown (tileCause (s.tileBad tile)) 1 (stgBank (tile <<< 11))).trans ?_).trans (raise _ _ _ _ l)
    exact of_core rfl
  · refine ((hshown (tileCause (s.tileBad tile)) 0 (stackOf s.variant (tile <<< 11))).trans ?_).trans (raise _ _ _ _ l)
    split <;> exact of_core rfl

theorem tickKept_tileCheck (req tile : Nat) : TickKept s (s.tileCheck req tile).1 l := by
  unfold State.tileCheck
  split
  · exact refl s l
  · split
    · exact tickKept_sumLine s l tile
    · exact (tickKept_sumLine s l tile).trans (tickKept_tileFail _ l req tile)

theorem tickKept_checkTiles (req : Nat) (ts : List Nat) : TickKept s (s.checkTiles req ts).1 l := by
  induction ts generalizing s with
  | nil => exact refl s l
  | cons t ts ih => exact (tickKept_tileCheck s l req t).trans (ih _)

theorem tickKept_memRead (req a n : Nat) : TickKept s (memRead s req a n).1 l := by
  have h := tickKept_checkTiles s l req (tilesOf a n)
  unfold memRead
  split <;> (rename_i heq; rw [heq] at h; exact h)

/-! ### Launches (R130–R133) -/

theorem tickKept_readImage (r : LaunchReq) (no n : Nat) : TickKept s (readImage s r no n).1 l := by
  unfold readImage
  split
  · exact tickKept_memRead s l _ _ _
  · exact refl s l

theorem tickKept_refuseLaunch (r : LaunchReq) (no code : Nat) : TickKept s (refuseLaunch s r no code) l := by
  unfold refuseLaunch
  refine .trans ?_ (tickKept_cqOwnPost _ l _ _ _ _)
  split
  · exact of_core rfl
  · exact refl s l

theorem tickKept_queueLaunch (x : Launch) : TickKept s (queueLaunch s x) l := by
  unfold queueLaunch
  split
  · exact of_core rfl
  · exact tickKept_refuseLaunch s l _ _ _

theorem tickKept_launchReq (r : LaunchReq) (no : Nat) : TickKept s (launchReq s r no) l := by
  have hread := tickKept_readImage s l r no 256
  unfold launchReq
  split
  · exact tickKept_refuseLaunch s l _ _ _
  · split
    · exact tickKept_refuseLaunch s l _ _ _
    · split
      next t h heq =>
        rw [heq] at hread
        refine hread.trans ?_
        dsimp only
        split
        · exact tickKept_refuseLaunch t l _ _ _
        · split
          · split
            · split
              · exact tickKept_refuseLaunch t l _ _ _
              · exact of_core rfl
            · exact tickKept_queueLaunch t l _
          · exact tickKept_refuseLaunch t l _ _ _
      next t c h hne heq =>
        rw [heq] at hread
        exact hread.trans (tickKept_refuseLaunch t l _ _ _)

theorem tickKept_launchOrHold (r : LaunchReq) (no : Nat) : TickKept s (launchOrHold s r no) l := by
  unfold launchOrHold
  split
  · exact of_core rfl
  · split
    · exact of_core rfl
    · exact tickKept_launchReq s l r no

theorem tickKept_releaseHeld : TickKept s (releaseHeld s) l := by
  refine .trans (.trans ?_ (TickKept.foldl (f := fun s (x : LaunchReq × Nat) => launchOrHold s x.1 x.2)
    (fun t x => tickKept_launchOrHold t l x.1 x.2) _ _)) (tickKept_sqFetchAll _ l)
  exact of_core rfl

theorem tickKept_startProgram (x : Launch) : TickKept s (startProgram s x) l := by
  unfold startProgram
  refine .trans ?_ (TickKept.foldl (fun t k => ?_) _ _)
  · refine .trans (t := if x.r.zeroSync then armRange s x.r.syncBase x.p.syncCount else s) ?_ (of_core rfl)
    split
    · exact tickKept_armRange s l _ _
    · exact refl s l
  · exact (setThr t _ rfl l).trans (of_core rfl)

theorem tickKept_admitAll (xs : List Launch) : TickKept s (admitAll s xs) l := by
  induction xs generalizing s with
  | nil => exact refl s l
  | cons x xs ih =>
    refine .trans ?_ (ih _)
    split
    · exact tickKept_refuseLaunch s l _ _ _
    · split
      · exact tickKept_startProgram s l x
      · exact tickKept_refuseLaunch s l _ _ _

theorem tickKept_admitDue : TickKept s (admitDue s) l := by
  refine .trans ?_ (tickKept_admitAll _ l _)
  exact of_core rfl

/-! ### Quotas, firmware, restores (R455, R460, R490) -/

theorem tickKept_grantRange (ctx old new : Nat) (r : Nat × Nat × Nat × Nat) : TickKept s (grantRange s ctx old new r) l := by
  refine .trans ?_ (TickKept.foldl (f := fun s k => armRange s k 1) (fun t k => tickKept_armRange t l k 1) _ _)
  exact of_core rfl

theorem tickKept_quotaBoundary : TickKept s (quotaBoundary s) l := by
  unfold quotaBoundary
  split
  · exact refl s l
  · refine .trans (.trans (.trans ?_ (TickKept.foldl (fun t r => tickKept_grantRange t l _ _ _ r) _ _)) (set _ (f := F.QUOTA_EVENT_PENDING) _ (.inl (by decide))))
      (result _ _ (.inl (by decide)) (.inl (by decide)))
    exact of_core rfl

theorem tickKept_fwDone (r c : Nat) : TickKept s (fwDone s r c) l :=
  (set s _ (.inl (by decide))).trans (result _ _ (.inl (by decide)) (.inl (by decide)))

theorem tickKept_fwBoundary : TickKept s (fwBoundary s) l := by
  unfold fwBoundary
  split
  · refine .trans (.trans (.trans ?_ (set _ (f := F.FW_STATUS_ACTIVATING) 0 (.inl (by decide)))) (tickKept_releaseHeld _ l)) (tickKept_fwDone _ l _ _)
    exact of_core rfl
  · exact refl s l

theorem tickKept_fwDrainTimeout : TickKept s (fwDrainTimeout s) l := by
  unfold fwDrainTimeout
  split
  · split
    · refine .trans (.trans (.trans ?_ (set _ (f := F.FW_STATUS_ACTIVATING) 0 (.inl (by decide)))) (tickKept_fwDone _ l _ _)) (tickKept_releaseHeld _ l)
      exact of_core rfl
    · exact refl s l
  · exact refl s l

theorem tickKept_ctxmDone (r : Nat) : TickKept s (ctxmDone s r) l := result s r (.inl (by decide)) (.inl (by decide))

theorem tickKept_restoreRefused (code : Nat) : TickKept s (restoreRefused s code) l :=
  (set s code (.inl (by decide))).trans (tickKept_ctxmDone _ l 1)

theorem tickKept_adoptOps (ctx base : Nat) (num : Nat → Nat → Nat) (ops : List Op) : TickKept s (adoptOps ctx base num s ops).1 l := by
  induction ops generalizing s with
  | nil => exact refl s l
  | cons o os ih =>
    refine .trans (t := (if o.told then (s, o) else adoptOp ctx base num s o).1) ?_ (ih _)
    split
    · exact refl s l
    · exact of_core rfl

theorem tickKept_adoptQp (ctx base : Nat) (num : Nat → Nat → Nat) (e : Nat × Qp) : TickKept s (adoptQp ctx base num s e) l :=
  (tickKept_adoptOps s l ctx base num e.2.ops).trans (of_core rfl)

theorem tickKept_adoptSq (ctx : Nat) (i : SqImage) : TickKept s (adoptSq ctx s i) l := by
  have hhigh (k : Nat) : tickRegs ≤ fnBase ctx + k + 0x20 * i.q ∨ fnBase ctx + k + 0x20 * i.q ∈ l :=
    tickRegs_le_host l (by unfold fnBase; split <;> omega)
  have hregs := (((((setReg s (i.base % 2 ^ 32) (hhigh 0x10)).trans (setReg _ (i.base / 2 ^ 32 % 2 ^ 32) (hhigh 0x14))).trans
    (setReg _ i.cfg (hhigh 0x18))).trans (setReg _ i.cq (hhigh 0x1c))).trans (setReg _ i.status (hhigh 0x20)))
  unfold adoptSq
  dsimp only
  split
  · exact hregs
  · split
    · refine (hregs.trans ?_).trans (tickKept_setSqd _ l _ _)
      exact of_core rfl
    · exact hregs.trans (tickKept_setSqd _ l _ _)

theorem tickKept_admitSaved (ctx : Nat) (ps : List Program) {t : State} (h : Machine.admitSaved ctx s ps = some t) : TickKept s t l := by
  induction ps generalizing s with
  | nil => cases h; exact refl _ l
  | cons p ps ih =>
    rw [admitSaved] at h
    split at h
    · cases h
    · refine .trans ?_ (ih _ h)
      exact of_core rfl

theorem tickKept_adopt (s0 : State) (ctx : Nat) (m : CtxImage) : TickKept s (adopt s0 s ctx m) l := by
  have hqps := TickKept.foldl (f := adoptQp ctx s.sq.starts (newNum s0 m.progs)) (fun t e => tickKept_adoptQp t l ctx _ _ e) m.qps s
  have hsqs := hqps.trans (TickKept.foldl (f := adoptSq ctx) (fun t i => tickKept_adoptSq t l ctx i) m.sqs _)
  have hlaunches (t : State) : TickKept t (m.launches.foldl (fun (x : State × List (LaunchReq × Nat)) r =>
      (x.1.trkTake ctx 0, x.2 ++ [({ r with ctx := ctx }, x.1.sq.opNo)])) (t, [])).1 l := by
    refine foldl_keeps (P := fun x : State × List (LaunchReq × Nat) => TickKept t x.1 l) (fun x r h => ?_) m.launches (refl t l)
    exact h.trans (of_core rfl)
  have hcounts (t : State) : TickKept t ((List.range (bits m.quota.toNat 272 16)).foldl (fun s i =>
      s.setCount (bits m.quota.toNat 256 16 + i) (smGet m.syncs (bits m.quota.toNat 256 16 + i) 0)) t) l := by
    refine TickKept.foldl (fun u i => ?_) _ t
    exact of_core rfl
  refine .trans (.trans ?_ (set _ (f := F.HOST_CTX_MAP_STATE ctx) 3 (tickRegs_le_host l ?_))) (tickKept_ctxmDone _ l 0)
  · exact ((hsqs.trans (hlaunches _)).trans (hcounts _)).trans (of_core rfl)
  · show 0x600000 ≤ 0x610100 + 0x4 * ctx
    omega

theorem tickKept_restoreBoundary : TickKept s (restoreBoundary s) l := by
  unfold restoreBoundary
  split
  · exact refl s l
  · dsimp only
    split
    · refine .trans ?_ (tickKept_restoreRefused _ l _)
      exact of_core rfl
    · split
      · refine .trans ?_ (tickKept_restoreRefused _ l _)
        exact of_core rfl
      next ctx m _ _ t h =>
        refine .trans (.trans (.trans ?_ (tickKept_admitSaved _ l _ _ h)) (TickKept.foldl (fun u e => ?_) _ _)) (tickKept_adopt _ l _ _ _)
        · exact of_core rfl
        · exact of_core rfl

/-! ### The marionette table (R116, R117) -/

/-- The ports on which entry `n` acts. -/
def firedPorts (s : State) (n : Nat) : List Nat := (bitList (s.mariWord (4 * n + 2)) 32).filter fun p => portPresent s p

/-- The gates `g` once entry `n` has acted on port `p`. -/
def portGates (s : State) (n : Nat) (g : SMap Nat) (p : Nat) : SMap Nat :=
  if entryDoes s n 26 then
    smPut 0 g p ((smGet g p 0 ^^^ (smGet g p 0 &&& bits (s.mariWord (4 * n + 3)) 0 8)) ||| bits (s.mariWord (4 * n + 3)) 8 8)
  else g

/-- The reservations `r` once entry `n` has acted on port `p`. -/
def portResv (s : State) (n : Nat) (r : SMap Nat) (p : Nat) : SMap Nat := if entryDoes s n 27 then smSet r p 1 else r

theorem firePort_eq (n p : Nat) :
    firePort s n p = { s with tk := { s.tk with gates := portGates s n s.tk.gates p, resv := portResv s n s.tk.resv p } } := by
  unfold firePort portGates portResv
  dsimp only
  by_cases hg : entryDoes s n 26 = true
  · rw [if_pos hg, if_pos hg]
    by_cases hr : entryDoes s n 27 = true
    · rw [if_pos hr]
      exact if_pos hr
    · rw [if_neg hr]
      exact if_neg hr
  · rw [if_neg hg, if_neg hg]
    split <;> rfl

/-- An entry's words stand in the bank, which its own actions leave. -/
theorem foldl_firePort_eq (n : Nat) (ps : List Nat) : ps.foldl (fun s p => firePort s n p) s =
    { s with tk := { s.tk with gates := ps.foldl (portGates s n) s.tk.gates, resv := ps.foldl (portResv s n) s.tk.resv } } := by
  induction ps generalizing s with
  | nil => rfl
  | cons p ps ih => rw [List.foldl_cons, ih, firePort_eq]; rfl

/-- The request by which entry `n` signals. -/
def entrySignal (s : State) (n : Nat) : SyncReq :=
  ⟨81, bits (s.mariWord (4 * n + 1)) 8 12, some (entryCtx s n), .signal (max 1 (bits (s.mariWord (4 * n + 1)) 20 8)), none, n, none⟩

/-- What an entry that fires leaves but for its launch action (R117). -/
def entryFired (s : State) (n : Nat) : State :=
  { s with
    tk := { s.tk with
      fired := s.tk.fired ++ [n]
      gates := (firedPorts s n).foldl (portGates s n) s.tk.gates
      resv := (firedPorts s n).foldl (portResv s n) s.tk.resv }
    sy := if entryDoes s n 24 then { s.sy with reqs := s.sy.reqs ++ [entrySignal s n] } else s.sy }

theorem foldl_portGates_of_closed {n : Nat} (h : entryDoes s n 26 = false) (g : SMap Nat) (ps : List Nat) : ps.foldl (portGates s n) g = g :=
  foldl_keeps (P := fun x => x = g) (fun x p hx => by rw [portGates, if_neg (by simp [h]), hx]) ps rfl

theorem foldl_portResv_of_none {n : Nat} (h : entryDoes s n 27 = false) (r : SMap Nat) (ps : List Nat) : ps.foldl (portResv s n) r = r :=
  foldl_keeps (P := fun x => x = r) (fun x p hx => by rw [portResv, if_neg (by simp [h]), hx]) ps rfl

theorem fireActions_eq (n : Nat) : fireActions s n = entryFired s n := by
  have hports (t : State) (hb : t.tk.bank = s.tk.bank) (hv : t.variant = s.variant) :
      (if entryDoes t n 26 || entryDoes t n 27 then firePorts t n else t) =
        { t with tk := { t.tk with gates := (firedPorts t n).foldl (portGates t n) t.tk.gates,
                                   resv := (firedPorts t n).foldl (portResv t n) t.tk.resv } } := by
    by_cases h : (entryDoes t n 26 || entryDoes t n 27) = true
    · rw [if_pos h]
      exact foldl_firePort_eq t n _
    · rw [if_neg h]
      rw [Bool.or_eq_true, not_or, Bool.not_eq_true, Bool.not_eq_true] at h
      rw [foldl_portGates_of_closed t h.1, foldl_portResv_of_none t h.2]
  unfold fireActions entryFired
  dsimp only
  by_cases hs : entryDoes s n 24 = true
  · rw [if_pos (show entryDoes { s with tk := { s.tk with fired := s.tk.fired ++ [n] } } n 24 = true from hs), if_pos hs]
    exact hports _ rfl rfl
  · rw [if_neg (show ¬ entryDoes { s with tk := { s.tk with fired := s.tk.fired ++ [n] } } n 24 = true from hs), if_neg hs]
    exact hports _ rfl rfl

theorem tickKept_fireActions (n : Nat) : TickKept s (fireActions s n) l := by
  rw [fireActions_eq]
  exact of_core rfl

theorem tickKept_skipEntry (n : Nat) : TickKept s (skipEntry s n) l := by
  refine .trans (.trans (.trans (t := s.count F.MARI_SKIPPED) (of_core rfl) (set _ n ?_)) (set _ 0 ?_)) (bump _ ?_) <;> exact .inl (by decide)

theorem tickKept_releaseTwait (p : Thread → Bool) : TickKept s (releaseTwait s p) l :=
  .foldl (f := fun s (e : Nat × Thread) => s.resume ⟨e.1 / 8, e.1 % 8⟩) (fun t _ => resume t _ (fun _ => rfl) l) _ s

theorem tickKept_fireLaunch (n : Nat) : TickKept s (fireLaunch s n) l := by
  unfold fireLaunch
  dsimp only
  split
  · exact refl s l
  · exact tickKept_releaseTwait s l _

theorem tickKept_boundaryEntries : TickKept s (boundaryEntries s) l := by
  unfold boundaryEntries
  dsimp only
  split
  · exact of_core rfl
  · refine .trans (t := { s with tk := { s.tk with resv := [] } }) (of_core rfl) (.foldl (fun t n => ?_) _ _)
    split
    · exact tickKept_skipEntry t l n
    · split
      · exact tickKept_fireActions t l n
      · exact refl t l

/-! ### The steps of a boundary (R102) -/

theorem tickKept_lateEffect : TickKept s (lateEffect s) l := by
  unfold lateEffect
  extract_lets now ports renewed was late full
  have hlate : TickKept s late l := by
    refine .trans (t := renewed) (TickKept.foldl (fun t n => ?_) _ _) (of_core rfl)
    exact of_core rfl
  have hfull : TickKept late full l := by
    refine TickKept.foldl (fun t n => ?_) _ _
    exact of_core rfl
  split
  · exact (hlate.trans hfull).trans (of_core rfl)
  · exact hlate.trans hfull

theorem tickKept_restDrainTimeout (hl : F.PWR_EVENT.off ∈ l) : TickKept s (restDrainTimeout s) l := by
  unfold restDrainTimeout
  split
  · split
    · refine .trans (.trans ?_ (result _ (seq := F.PWR_EVENT_SEQ) (res := F.PWR_EVENT_LAST) 3 (.inr hl) (.inr hl))) (tickKept_releaseHeld _ l)
      exact of_core rfl
    · exact refl s l
  · exact refl s l

theorem tickKept_boundaryTimers (hl : F.PWR_EVENT.off ∈ l) : TickKept s (boundaryTimers s) l :=
  (tickKept_restDrainTimeout s l hl).trans (tickKept_fwDrainTimeout _ l)

theorem tickKept_boundaryLaunches : TickKept s (boundaryLaunches s) l :=
  (tickKept_releaseTwait s l _).trans (.foldl (fun t n => tickKept_fireLaunch t l n) _ _)

/-- Steps 2 to 5 in Active up to the release of threads. -/
def beforeLaunches (s : State) : State :=
  let t := renewTick (boundaryTimers (boundaryEntries s))
  let u := restoreBoundary (if workHeld t then t else admitDue t)
  { u with tr := { u.tr with qps := smMap (fun _ q => ccTick u q) u.tr.qps } }

theorem boundaryActive_eq : boundaryActive s = boundaryLaunches (beforeLaunches s) := rfl

theorem tickKept_beforeLaunches (hl : F.PWR_EVENT.off ∈ l) : TickKept s (beforeLaunches s) l := by
  have hbegin : TickKept s (renewTick (boundaryTimers (boundaryEntries s))) l :=
    ((tickKept_boundaryEntries s l).trans (tickKept_boundaryTimers _ l hl)).trans (of_core rfl)
  have hadmit (t : State) : TickKept t (if workHeld t then t else admitDue t) l := by
    split
    · exact refl t l
    · exact tickKept_admitDue t l
  exact ((hbegin.trans (hadmit _)).trans (tickKept_restoreBoundary _ l)).trans (of_core rfl)

theorem tickKept_boundaryActive (hl : F.PWR_EVENT.off ∈ l) : TickKept s (boundaryActive s) l := by
  rw [boundaryActive_eq]
  exact (tickKept_beforeLaunches s l hl).trans (tickKept_boundaryLaunches _ l)

end Sys2Proof.Machine

namespace Sys2Proof.Machine

/-! ## An entry of the marionette table that fires (R116, R117) -/

variable (s : State)

theorem testBit_bits_eq (w lo n i : Nat) : (bits w lo n).testBit i = (decide (i < n) && bit w (lo + i)) := by
  rw [bits, bit, Nat.testBit_mod_two_pow, Nat.testBit_shiftRight]

theorem testBit_bits (w lo : Nat) {n i : Nat} (h : i < n) : (bits w lo n).testBit i = bit w (lo + i) := by
  rw [testBit_bits_eq, decide_eq_true h, Bool.true_and]

theorem releaseTwait_frame (p : Thread → Bool) : ∃ m, releaseTwait s p = { s with sq := { s.sq with thr := m } } :=
  foldl_setThr_frame (fun s (e : Nat × Thread) => Thread.next { s.thr ⟨e.1 / 8, e.1 % 8⟩ with st := .ready, cause := 0, pend := .none })
    (fun e => ⟨e.1 / 8, e.1 % 8⟩) _ s

/-- A launch action changes threads only. -/
theorem fireLaunch_frame (n : Nat) : ∃ m, fireLaunch s n = { s with sq := { s.sq with thr := m } } := by
  unfold fireLaunch
  dsimp only
  split
  · exact ⟨s.sq.thr, rfl⟩
  · exact releaseTwait_frame s _

/-- Entry `n` fires with all its actions. -/
def fireEntry (s : State) (n : Nat) : State := fireLaunch (fireActions s n) n

theorem fireEntry_tk (n : Nat) : (fireEntry s n).tk = (entryFired s n).tk := by
  obtain ⟨m, hm⟩ := fireLaunch_frame (fireActions s n) n
  rw [fireEntry, hm, fireActions_eq]

theorem fireEntry_sy (n : Nat) : (fireEntry s n).sy = (entryFired s n).sy := by
  obtain ⟨m, hm⟩ := fireLaunch_frame (fireActions s n) n
  rw [fireEntry, hm, fireActions_eq]

theorem tickKept_fireEntry (n : Nat) (l : List Nat) : TickKept s (fireEntry s n) l :=
  (tickKept_fireActions s l n).trans (tickKept_fireLaunch _ l n)

/-- The signals of entries that fire. -/
def entrySignals (s : State) (ks : List Nat) : List SyncReq := (ks.filter fun k => entryDoes s k 24).map (entrySignal s)

theorem entrySignals_cons (k : Nat) (ks : List Nat) :
    entrySignals s (k :: ks) = if entryDoes s k 24 then entrySignal s k :: entrySignals s ks else entrySignals s ks := by
  unfold entrySignals
  rw [List.filter_cons]
  split <;> rfl

/-- What an entry does stands in its words. -/
theorem entrySignals_bank {t : State} (h : t.tk.bank = s.tk.bank) (ks : List Nat) : entrySignals t ks = entrySignals s ks := by
  have hword (i : Nat) : t.mariWord i = s.mariWord i := by rw [State.mariWord, State.mariWord, h]
  have hsignal (k : Nat) : entrySignal t k = entrySignal s k := by simp only [entrySignal, entryCtx, hword]
  have hdoes (k : Nat) : entryDoes t k 24 = entryDoes s k 24 := by simp only [entryDoes, hword]
  simp only [entrySignals, funext hsignal, funext hdoes]

/-- Entries that fire together: each is noted, and signals. -/
theorem foldl_fireEntry (ks : List Nat) : (ks.foldl fireEntry s).tk.fired = s.tk.fired ++ ks ∧
    (ks.foldl fireEntry s).sy = { s.sy with reqs := s.sy.reqs ++ entrySignals s ks } := by
  induction ks generalizing s with
  | nil => exact ⟨(List.append_nil _).symm, by rw [show entrySignals s [] = [] from rfl, List.append_nil]; rfl⟩
  | cons k ks ih =>
    obtain ⟨hfired, hsy⟩ := ih (fireEntry s k)
    have hbank : (fireEntry s k).tk.bank = s.tk.bank := by rw [fireEntry_tk]; rfl
    rw [List.foldl_cons, hfired, hsy, fireEntry_tk, fireEntry_sy, entrySignals_bank s hbank]
    refine ⟨List.append_assoc _ [k] ks, ?_⟩
    unfold entryFired
    dsimp only
    by_cases hs : entryDoes s k 24 = true
    · rw [if_pos hs, entrySignals_cons, if_pos hs]
      dsimp only
      rw [List.append_assoc]
      rfl
    · rw [if_neg hs, entrySignals_cons, if_neg hs]

/-! ### Gates -/

theorem nodup_firedPorts (n : Nat) : (firedPorts s n).Nodup := (List.nodup_range.filter _).filter _

theorem mem_firedPorts {n p : Nat} (hp : p < 32) (hpres : portPresent s p = true) (hbit : bit (s.mariWord (4 * n + 2)) p = true) :
    p ∈ firedPorts s n :=
  List.mem_filter.mpr ⟨List.mem_filter.mpr ⟨List.mem_range.mpr hp, hbit⟩, hpres⟩

theorem smGet_portGates_ne (n : Nat) (g : SMap Nat) {p q : Nat} (h : p ≠ q) : smGet (portGates s n g q) p 0 = smGet g p 0 := by
  unfold portGates
  split
  · exact smGet_smPut_ne g 0 _ h
  · rfl

theorem smGet_foldl_portGates_ne (n : Nat) (g : SMap Nat) {p : Nat} {ps : List Nat} (h : p ∉ ps) :
    smGet (ps.foldl (portGates s n) g) p 0 = smGet g p 0 := by
  induction ps generalizing g with
  | nil => rfl
  | cons q ps ih =>
    rw [List.foldl_cons, ih _ (List.not_mem_of_not_mem_cons h), smGet_portGates_ne s n g (List.ne_of_not_mem_cons h)]

/-- Each port is acted on once. -/
theorem smGet_foldl_portGates (n : Nat) (g : SMap Nat) {p : Nat} {ps : List Nat} (hn : ps.Nodup) (hp : p ∈ ps) :
    smGet (ps.foldl (portGates s n) g) p 0 = smGet (portGates s n g p) p 0 := by
  induction ps generalizing g with
  | nil => cases hp
  | cons q ps ih =>
    obtain ⟨hq, hn⟩ := List.nodup_cons.mp hn
    rw [List.foldl_cons]
    rcases List.mem_cons.mp hp with rfl | hp
    · exact smGet_foldl_portGates_ne s n _ hq
    · have hne : p ≠ q := fun e => hq (e ▸ hp)
      rw [ih _ hn hp]
      unfold portGates
      split
      · rw [smGet_smPut_self, smGet_smPut_self, smGet_smPut_ne g 0 _ hne]
      · rfl

/-- An entry with a gate action opens and closes the classes that it names (R117). -/
theorem bit_gates_entryFired {n p c : Nat} (hgate : entryDoes s n 26 = true) (hp : p ∈ firedPorts s n) (hc : c < 8) :
    bit (smGet (entryFired s n).tk.gates p 0) c =
      (bit (s.mariWord (4 * n + 3)) (8 + c) || (bit (smGet s.tk.gates p 0) c && !bit (s.mariWord (4 * n + 3)) c)) := by
  have hgates : smGet (entryFired s n).tk.gates p 0 =
      (smGet s.tk.gates p 0 ^^^ (smGet s.tk.gates p 0 &&& bits (s.mariWord (4 * n + 3)) 0 8)) ||| bits (s.mariWord (4 * n + 3)) 8 8 := by
    rw [entryFired, smGet_foldl_portGates s n _ (nodup_firedPorts s n) hp, portGates, if_pos hgate, smGet_smPut_self]
  rw [hgates, bit, Nat.testBit_or, Nat.testBit_xor, Nat.testBit_and, testBit_bits _ _ hc, testBit_bits _ _ hc, Nat.zero_add, ← bit, Bool.or_comm]
  cases bit (smGet s.tk.gates p 0) c <;> cases bit (s.mariWord (4 * n + 3)) c <;> rfl

/-- MARIONETTE_ENTRY_FIRE fires the entries of one offset (R116). -/
theorem exec_marionetteEntryFire {n : Nat} (h : mayFire s n = true) :
    exec (.marionetteEntryFire n) s =
      .next (((enabledEntries s).filter fun k => mayFire s k && entryOff s k == entryOff s n).foldl fireEntry s) :=
  congrArg Host.Outcome.next (if_pos h)

end Sys2Proof.Machine

namespace Sys2Proof.Machine

/-! ## A tick boundary (R92, R102) -/

open TickKept

variable (s : State)

/-! ### Telemetry and the tick number -/

/-- What the boundary reads is shown. -/
def telemetryShown (s : State) (tj v54 : Nat) : State := (s.set F.PWR_STATE_TJ_MAX (min 255 tj)).set F.PWR_TELEM_V54_QV (min 255 v54)

theorem telemetry_tk (tj v54 : Nat) : (telemetry s tj v54).tk = s.tk := by
  unfold telemetry
  dsimp only
  split <;> rfl

theorem tickKept_telemetry (tj v54 : Nat) : TickKept (telemetryShown s tj v54) (telemetry s tj v54) [F.BRUP_ELAPSED.off] := by
  unfold telemetry
  extract_lets ns shown timed
  split
  · refine .trans ?_ (setReg _ _ (.inr (List.mem_singleton_self _)))
    exact of_core rfl
  · exact of_core rfl

theorem tickKept_telemetryShown (tj v54 : Nat) : TickKept s (telemetryShown s tj v54) [F.PWR_STATE.off, F.PWR_TELEM.off] :=
  (TickKept.set s (f := F.PWR_STATE_TJ_MAX) _ (.inr (by decide))).trans (TickKept.set _ (f := F.PWR_TELEM_V54_QV) _ (.inr (by decide)))

theorem tjMax_telemetry (tj v54 : Nat) : (telemetry s tj v54).get F.PWR_STATE_TJ_MAX = min 255 tj := by
  rw [(tickKept_telemetry s tj v54).get (by decide) (by decide), telemetryShown, State.get_set_ne _ _ (by decide), State.get_set_self _ _ (by decide)]
  exact Nat.mod_eq_of_lt (show min 255 tj < 256 by omega)

theorem v54Qv_telemetry (tj v54 : Nat) : (telemetry s tj v54).get F.PWR_TELEM_V54_QV = min 255 v54 := by
  rw [(tickKept_telemetry s tj v54).get (by decide) (by decide), telemetryShown, State.get_set_self _ _ (by decide)]
  exact Nat.mod_eq_of_lt (show min 255 v54 < 256 by omega)

theorem tickLen_telemetry (tj v54 : Nat) : (telemetry s tj v54).get F.TICK_LEN_CUR = s.get F.TICK_LEN_CUR := by
  rw [(tickKept_telemetry s tj v54).get (by decide) (by decide), (tickKept_telemetryShown s tj v54).get (by decide) (by decide)]

theorem pst_telemetry (tj v54 : Nat) : (telemetry s tj v54).pst = s.pst := by
  rw [(tickKept_telemetry s tj v54).pst_eq (by decide), State.pst, State.pst, telemetryShown, State.get_set_ne _ _ (by decide),
    State.get_set_apart _ _ (by decide) (by decide)]
  rfl

/-! ### The hottest junction (R82, R83) -/

theorem tickKept_declareLate (l : List Nat) : TickKept s (declareLate s) l :=
  .foldl (f := fun s (p : Program) => s.syncSend { req := 81, obj := p.syncBase, ctx := none, op := .signal 1, th := none })
    (fun _ _ => of_core rfl) _ s

theorem tickKept_hardLevers (tj : Nat) : TickKept s (hardLevers s tj) [F.PWR_STATE.off] := by
  unfold hardLevers
  split
  · exact ((TickKept.set s (f := F.PWR_STATE_CLK_LEVEL) _ (.inr (by decide))).trans (TickKept.set _ (f := F.PWR_STATE_BE_SHARE) _ (.inr (by decide)))).trans
      (TickKept.set _ (f := F.PWR_STATE_THERM_HARD) _ (.inr (by decide)))
  · exact refl s _

/-- The levers leave the power state and TJ_MAX. -/
theorem get_hardLevers (tj : Nat) {f : RF} (hf : f = F.PWR_STATE_STATE ∨ f = F.PWR_STATE_TJ_MAX) : (hardLevers s tj).get f = s.get f := by
  unfold hardLevers
  split
  · rcases hf with rfl | rfl <;>
      rw [State.get_set_apart _ _ (by decide) (by decide), State.get_set_apart _ _ (by decide) (by decide), State.get_set_apart _ _ (by decide) (by decide)]
  · rfl

theorem tickKept_hardThermal (tj : Nat) : TickKept s (hardThermal s tj) [F.PWR_STATE.off] := by
  unfold hardThermal
  dsimp only
  split
  · exact (tickKept_hardLevers s tj).trans (tickKept_declareLate _ _)
  · exact tickKept_hardLevers s tj

theorem get_hardThermal (tj : Nat) {f : RF} (hf : f = F.PWR_STATE_STATE ∨ f = F.PWR_STATE_TJ_MAX) : (hardThermal s tj).get f = s.get f := by
  have hoff : f.off < tickRegs := by rcases hf with rfl | rfl <;> decide
  unfold hardThermal
  dsimp only
  split
  · rw [(tickKept_declareLate _ []).get hoff List.not_mem_nil, get_hardLevers s tj hf]
  · exact get_hardLevers s tj hf

/-! ### TWAIT (R94, R180) -/

theorem thKey_ofKey (k : Nat) : thKey ⟨k / 8, k % 8⟩ = k := Nat.div_add_mod k 8

theorem thr_of_thKey {t u : Th} (h : thKey t = thKey u) : s.thr t = s.thr u := by rw [State.thr, State.thr, h]

theorem ready_resume_self {t u : Th} (h : thKey t = thKey u) : ((s.resume u).thr t).st = .ready := by
  rw [thr_of_thKey _ h, State.resume, State.thr_setThr_self]
  rfl

theorem ready_resume {t : Th} (u : Th) (h : (s.thr t).st = .ready) : ((s.resume u).thr t).st = .ready := by
  by_cases hk : thKey t = thKey u
  · exact ready_resume_self s hk
  · rwa [State.resume, State.thr_setThr_ne _ _ hk]

theorem ready_foldl_resume {t : Th} (es : List (Nat × Thread)) (h : (s.thr t).st = .ready ∨ thKey t ∈ es.map (·.1)) :
    ((es.foldl (fun s e => s.resume ⟨e.1 / 8, e.1 % 8⟩) s).thr t).st = .ready := by
  induction es generalizing s with
  | nil => exact h.resolve_right List.not_mem_nil
  | cons e es ih =>
    refine ih _ ?_
    rcases h with h | h
    · exact .inl (ready_resume s _ h)
    · rcases List.mem_cons.mp h with h | h
      · exact .inl (ready_resume_self s (h.trans (thKey_ofKey e.1).symm))
      · exact .inr h

theorem mem_of_smFind {β : Type} {m : SMap β} {k : Nat} {v : β} (h : smFind m k = some v) : (k, v) ∈ m := by
  induction m with
  | nil => cases h
  | cons e m ih =>
    obtain ⟨j, w⟩ := e
    rw [smFind] at h
    split at h
    next hk => cases h; subst hk; exact List.mem_cons_self
    next => exact List.mem_cons_of_mem _ (ih h)

/-- A thread that is not free stands in the table of threads. -/
theorem mem_thr {t : Th} (h : (s.thr t).st ≠ .free) : (thKey t, s.thr t) ∈ s.sq.thr := by
  cases hf : smFind s.sq.thr (thKey t) with
  | none => exact absurd (by rw [State.thr, smGet, hf]; rfl) h
  | some x =>
    have hx : s.thr t = x := by rw [State.thr, smGet, hf]; rfl
    rw [hx]
    exact mem_of_smFind hf

/-- A boundary releases the threads that wait for it. -/
theorem ready_boundaryLaunches {t : Th} (h : Going (s.thr t)) : ((boundaryLaunches s).thr t).st = .ready := by
  have hreleased : ((releaseTwait s fun x => x.pend == .twait none).thr t).st = .ready := by
    refine ready_foldl_resume s _ (h.imp_right fun ⟨hst, hpend⟩ => ?_)
    exact List.mem_map_of_mem (f := Prod.fst) (List.mem_filter.mpr ⟨mem_thr s (by rw [hst]; decide), by simp [hpend]⟩)
  refine foldl_keeps (P := fun u : State => (u.thr t).st = .ready) (fun u n hu => ?_) _ hreleased
  unfold fireLaunch
  dsimp only
  split
  · exact hu
  · exact ready_foldl_resume u _ (.inl hu)

/-! ### The command -/

/-- A boundary up to TICK_OUT and the limit of 115 °C. -/
def boundaryBegun (s : State) (tj v54 : Nat) : State :=
  let t := tickOut (advanceTick (telemetry s tj v54))
  if 115 ≤ tj then t.raise 1 0 0 else t

/-- Late writes, quotas, firmware and the hard limit, in Active and Rest. -/
def boundaryChanged (s : State) (tj : Nat) : State :=
  if s.pst = 3 || s.pst = 4 then hardThermal (fwBoundary (quotaBoundary (lateEffect s))) tj else s

/-- What a boundary leaves before the collector takes its events. -/
def boundaryDone (s : State) (tj v54 : Nat) : State :=
  let t := boundaryChanged (boundaryBegun s tj v54) tj
  if t.pst = 3 then boundaryActive t else t

theorem exec_tickBoundary {tj v54 : Nat} (hp : 2 ≤ s.pst) (hh : s.pw.held = false) :
    exec (.tickBoundary tj v54) s = .next (settle (boundaryDone s tj v54)) := by
  refine congrArg Host.Outcome.next (if_neg ?_)
  simp [hh, Nat.not_lt.mpr hp]

theorem tickKept_tickOut (l : List Nat) : TickKept s (tickOut s) l := by
  unfold tickOut
  split
  · exact emit s _ l
  · exact refl s l

theorem tickKept_boundaryBegun (tj v54 : Nat) : TickKept (advanceTick (telemetry s tj v54)) (boundaryBegun s tj v54) [] := by
  unfold boundaryBegun
  dsimp only
  split
  · exact (tickKept_tickOut _ []).trans (raise _ _ _ _ [])
  · exact tickKept_tickOut _ []

theorem tickKept_boundaryEarly (l : List Nat) : TickKept s (fwBoundary (quotaBoundary (lateEffect s))) l :=
  ((tickKept_lateEffect s l).trans (tickKept_quotaBoundary _ l)).trans (tickKept_fwBoundary _ l)

theorem tickKept_boundaryChanged (tj : Nat) : TickKept s (boundaryChanged s tj) [F.PWR_STATE.off] := by
  unfold boundaryChanged
  split
  · exact (tickKept_boundaryEarly s _).trans (tickKept_hardThermal _ tj)
  · exact refl s _

theorem get_boundaryChanged (tj : Nat) {f : RF} (hf : f = F.PWR_STATE_STATE ∨ f = F.PWR_STATE_TJ_MAX) : (boundaryChanged s tj).get f = s.get f := by
  have hoff : f.off < tickRegs := by rcases hf with rfl | rfl <;> decide
  unfold boundaryChanged
  split
  · rw [get_hardThermal _ tj hf, (tickKept_boundaryEarly s []).get hoff List.not_mem_nil]
  · rfl

theorem tickKept_boundaryDone (tj v54 : Nat) : TickKept (boundaryChanged (boundaryBegun s tj v54) tj) (boundaryDone s tj v54) [F.PWR_EVENT.off] := by
  unfold boundaryDone
  dsimp only
  split
  · exact tickKept_boundaryActive _ _ (List.mem_singleton_self _)
  · exact refl _ _

/-- From the new tick's number on. -/
theorem tickKept_afterAdvance (tj v54 : Nat) :
    TickKept (advanceTick (telemetry s tj v54)) (boundaryDone s tj v54) [F.PWR_STATE.off, F.PWR_EVENT.off] :=
  (((tickKept_boundaryBegun s tj v54).mono (List.nil_subset _)).trans ((tickKept_boundaryChanged _ tj).mono (by decide))).trans
    ((tickKept_boundaryDone s tj v54).mono (by decide))

theorem pst_boundaryChanged (tj v54 : Nat) : (boundaryChanged (boundaryBegun s tj v54) tj).pst = s.pst := by
  have hstate := get_boundaryChanged (boundaryBegun s tj v54) tj (.inl rfl)
  rw [State.pst, hstate, (tickKept_boundaryChanged _ tj).held, ← State.pst, (tickKept_boundaryBegun s tj v54).pst_eq List.not_mem_nil]
  exact pst_telemetry s tj v54

theorem tjMax_boundaryDone (tj v54 : Nat) : (boundaryDone s tj v54).get F.PWR_STATE_TJ_MAX = min 255 tj := by
  rw [(tickKept_boundaryDone s tj v54).get (by decide) (by decide), get_boundaryChanged _ tj (.inr rfl),
    (tickKept_boundaryBegun s tj v54).get (by decide) List.not_mem_nil]
  exact tjMax_telemetry s tj v54

theorem v54Qv_boundaryDone (tj v54 : Nat) : (boundaryDone s tj v54).get F.PWR_TELEM_V54_QV = min 255 v54 := by
  rw [(tickKept_afterAdvance s tj v54).get (by decide) (by decide)]
  exact v54Qv_telemetry s tj v54

/-- A junction at 115 °C is source 1's (R82). -/
theorem raised_boundaryDone {tj : Nat} (v54 : Nat) (h : 115 ≤ tj) : (1, 0, 0) ∈ (boundaryDone s tj v54).fc.raised := by
  refine (tickKept_boundaryDone s tj v54).raised.subset ((tickKept_boundaryChanged _ tj).raised.subset ?_)
  unfold boundaryBegun
  dsimp only
  rw [if_pos h]
  exact List.mem_append_right _ (List.mem_singleton_self _)

theorem boundaryNs_telemetry (tj v54 m : Nat) : (telemetry s tj v54).boundaryNs m = s.boundaryNs m := by
  rw [State.boundaryNs, State.boundaryNs, State.tickNs, State.tickNs, tickLen_telemetry, telemetry_tk]

theorem nextNum_telemetry (tj v54 : Nat) : (telemetry s tj v54).nextNum = s.nextNum := by
  rw [State.nextNum, State.nextNum, telemetry_tk]

/-- TICK_OUT rises at the boundary's time (R47). -/
theorem tickOut_boundaryDone (tj v54 : Nat) (hp : s.pst = 3 ∨ s.pst = 4) (hl : s.tk.locked = true) :
    .tickOut (s.boundaryNs s.nextNum % 2 ^ 64) ∈ (boundaryDone s tj v54).out := by
  have hlocked : ((advanceTick (telemetry s tj v54)).pst = 3 || (advanceTick (telemetry s tj v54)).pst = 4) &&
      (advanceTick (telemetry s tj v54)).tk.locked := by
    rw [show (advanceTick (telemetry s tj v54)).pst = s.pst from pst_telemetry s tj v54,
      show (advanceTick (telemetry s tj v54)).tk.locked = (telemetry s tj v54).tk.locked from rfl, telemetry_tk, hl]
    simpa using hp
  have hrose : .tickOut (s.boundaryNs s.nextNum % 2 ^ 64) ∈ (tickOut (advanceTick (telemetry s tj v54))).out := by
    rw [tickOut, if_pos hlocked, ← boundaryNs_telemetry s tj v54, ← nextNum_telemetry s tj v54]
    exact List.mem_append_right _ (List.mem_singleton_self _)
  refine (tickKept_boundaryDone s tj v54).sent.subset ((tickKept_boundaryChanged _ tj).sent.subset ?_)
  unfold boundaryBegun
  dsimp only
  split <;> exact hrose

theorem memSame_boundaryDone (tj v54 : Nat) : MemSame s (boundaryDone s tj v54) := by
  have hshown : MemSame s (telemetry s tj v54) := fun a =>
    ((tickKept_telemetry s tj v54).memSame a).trans ((tickKept_telemetryShown s tj v54).memSame a)
  exact fun a => ((tickKept_afterAdvance s tj v54).memSame a).trans (hshown a)

/-- A boundary in Active releases the threads in TWAIT mode 0 (R94). -/
theorem ready_boundaryDone (tj v54 : Nat) (hp : s.pst = 3) {t : Th} (h : Going (s.thr t)) : ((boundaryDone s tj v54).thr t).st = .ready := by
  have hshown : Going ((advanceTick (telemetry s tj v54)).thr t) := (tickKept_telemetry s tj v54).going t ((tickKept_telemetryShown s tj v54).going t h)
  have hchanged := (tickKept_boundaryChanged _ tj).going t ((tickKept_boundaryBegun s tj v54).going t hshown)
  rw [boundaryDone, if_pos ((pst_boundaryChanged s tj v54).trans hp), boundaryActive_eq]
  exact ready_boundaryLaunches _ ((tickKept_beforeLaunches _ _ (List.mem_singleton_self F.PWR_EVENT.off)).going t hchanged)

end Sys2Proof.Machine

namespace Sys2Proof.Machine

/-! ## Rest (R68–R77) -/

open TickKept

variable {s t u : State} {l : List Nat}

/-! ### Events of power and mode changes -/

/-- An event answers a command although other registers changed before it. -/
theorem Answered.of_seq {seq res : RF} {r : Nat} (h : Answered t u seq res r) (hs : t.get seq = s.get seq) : Answered s u seq res r :=
  ⟨h.1, h.2.trans (congrArg seqNext hs)⟩

theorem TickKept.answered {seq res : RF} {r : Nat} (k : TickKept t u l) (h : Answered s t seq res r) (hseq : seq.off < tickRegs ∧ seq.off ∉ l)
    (hres : res.off < tickRegs ∧ res.off ∉ l) : Answered s u seq res r :=
  ⟨(k.get hres.1 hres.2).trans h.1, (k.get hseq.1 hseq.2).trans h.2⟩

theorem answered_pwrEvent (s : State) {last : Nat} (h : last < 8) : Answered s (pwrEvent s last) F.PWR_EVENT_SEQ F.PWR_EVENT_LAST last :=
  answered_result s (by decide) (by decide) (by decide) (by decide) (h.trans (by decide))

theorem tickKept_pwrEvent (s : State) (last : Nat) : TickKept s (pwrEvent s last) [F.PWR_EVENT.off] :=
  .result s last (.inr (List.mem_singleton_self _)) (.inr (List.mem_singleton_self _))

/-- MODE_EVENT shows a change's KIND and RESULT (R122). -/
theorem answered_modeEvent (s : State) {kind r : Nat} (hk : kind < 8) (hr : r < 8) :
    Answered s ((s.set F.MODE_EVENT_KIND kind).result F.MODE_EVENT_SEQ F.MODE_EVENT_RESULT r) F.MODE_EVENT_SEQ F.MODE_EVENT_RESULT r ∧
      ((s.set F.MODE_EVENT_KIND kind).result F.MODE_EVENT_SEQ F.MODE_EVENT_RESULT r).get F.MODE_EVENT_KIND = kind := by
  refine ⟨(answered_result _ (by decide) (by decide) (by decide) (by decide) (hr.trans (by decide))).of_seq
    (State.get_set_apart _ _ (by decide) (by decide)), ?_⟩
  rw [State.result, State.get_bump_apart _ (by decide) (by decide), State.get_set_apart _ _ (by decide) (by decide), State.get_set_self _ _ (by decide)]
  exact Nat.mod_eq_of_lt (hk.trans (by decide))

theorem tickKept_modeEvent (s : State) (kind r : Nat) :
    TickKept s ((s.set F.MODE_EVENT_KIND kind).result F.MODE_EVENT_SEQ F.MODE_EVENT_RESULT r) [F.MODE_EVENT.off] :=
  (TickKept.set s (f := F.MODE_EVENT_KIND) kind (.inr (List.mem_singleton_self _))).trans
    (.result _ r (.inr (List.mem_singleton_self _)) (.inr (List.mem_singleton_self _)))

/-- What the commit of a change leaves in the registers (R111, R122). -/
theorem modeDone_event (s : State) {kind : Nat} (hk : kind < 8) :
    (modeDone s kind).reg F.MODE_EPOCH.off = (s.reg F.MODE_EPOCH.off + 1) % 2 ^ 32 ∧
    Answered s (modeDone s kind) F.MODE_EVENT_SEQ F.MODE_EVENT_RESULT 0 ∧ (modeDone s kind).get F.MODE_EVENT_KIND = kind := by
  obtain ⟨hans, hkind⟩ := answered_modeEvent
    ((s.setReg F.MODE_STATUS.off 0).setReg F.MODE_EPOCH.off ((s.reg F.MODE_EPOCH.off + 1) % 2 ^ 32)) hk (r := 0) (by decide)
  refine ⟨?_, hans.of_seq ?_, hkind⟩
  · rw [modeDone, (tickKept_modeEvent _ kind 0).regs _ (by decide) (by decide), State.reg_setReg_self, Nat.mod_mod]
  · exact congrArg (bits · _ _) ((State.reg_setReg_ne _ _ (by decide)).trans (State.reg_setReg_ne _ _ (by decide)))

theorem tickKept_modeDone (s : State) (kind : Nat) : TickKept s (modeDone s kind) [F.MODE_STATUS.off, F.MODE_EPOCH.off, F.MODE_EVENT.off] :=
  ((TickKept.setReg s (off := F.MODE_STATUS.off) _ (.inr (by decide))).trans (TickKept.setReg _ (off := F.MODE_EPOCH.off) _ (.inr (by decide)))).trans
    ((tickKept_modeEvent _ kind 0).mono (by decide))

/-! ### Waiting completions and held launches -/

theorem CqFrame.pw (h : CqFrame s u) : u.pw = s.pw := by rw [h.rest]

theorem pw_cqDone (s : State) (th : Option (Nat × Nat)) (no : Option Nat) : (s.cqDone th no).pw = s.pw := by
  have hback : (s.cqDone none no).pw = s.pw := (cqDone_frame s no).pw
  have hresume (t : State) (v : Th) (live : Nat) : (if (t.thr v).live = live && (t.thr v).pend = .cqpost then t.resume v else t).pw = t.pw := by
    split <;> rfl
  cases th with
  | none => exact hback
  | some e => exact (hresume _ _ _).trans hback

theorem pw_cqDrain (s : State) (n fuel : Nat) : (s.cqDrain n fuel).pw = s.pw := by
  induction fuel generalizing s with
  | zero => rfl
  | succ k ih =>
    rw [State.cqDrain]
    split
    · rfl
    · split
      · rfl
      · split
        · rw [ih, pw_cqDone]
          exact (cqWrite_frame s n _ _).pw
        · rfl

theorem pw_cqDrainAll (s : State) : s.cqDrainAll.pw = s.pw :=
  foldl_keeps (P := fun u : State => u.pw = s.pw)
    (fun t e h => ((cqFire_frame _ e.1).pw.trans (pw_cqDrain t e.1 e.2)).trans h) _ rfl

/-- With no launch held, what releases them only lets the submission queues fetch. -/
theorem pw_releaseHeld (h : s.pw.launches = []) : (releaseHeld s).pw = s.pw := by
  have hidle : { s.pw with launches := [] } = s.pw := by rw [← h]
  rw [releaseHeld, h]
  exact (sqFetchAll_frame _).pw.trans hidle

/-! ### The drain -/

theorem not_modePending (h : modePending s = false) : s.tk.change = none ∧ s.pw.drain = .none ∧ s.pw.restExit = none := by
  simpa [modePending, and_assoc] using h

/-- A write by another function than the management physical function is ignored (R68, R76). -/
theorem runs_pwrCmd_ignored {c : Instr} {op : Nat} (hc : exec c s = .next (pwrCmd s false op)) (hp : 2 ≤ s.pst) (hs : s.pst ≠ 5) :
    Runs c s fun u => RegsBut s u [] ∧ Counted s u { F.BRUP_IGN_WRITES with wid := 16 } ∧ u.pw = s.pw ∧ MemSame s u := by
  obtain ⟨hregs, hcount, hmem⟩ := ignored_ignWrite s
  have hignored : pwrCmd s false op = s.ignWrite := by simp [pwrCmd, hp, hs]
  exact ⟨s.ignWrite, hc.trans (congrArg Host.Outcome.next hignored), hregs, hcount, rfl, hmem⟩

/-- PWR_CMD.OP in Active by the management physical function. -/
theorem exec_restRequest_active (ha : s.pst = 3) (hf : s.fnHeld 0 = false) : exec (.restRequest true) s = .next (pwrOp s 1) :=
  congrArg Host.Outcome.next (fnCmd_active hf ha true _)

theorem fnCmd_rest {ctx : Nat} (hf : s.fnHeld ctx = false) (hr : s.pst = 4) {f : State → State} : fnCmd s ctx true f = f s := by
  simp [fnCmd, hf, hr]

/-- A refusal of Rest is an event only. -/
theorem pwrEvent_refusal (s : State) {last : Nat} (h : last < 8) :
    Answered s (pwrEvent s last) F.PWR_EVENT_SEQ F.PWR_EVENT_LAST last ∧ (pwrEvent s last).pw = s.pw ∧ MemSame s (pwrEvent s last) :=
  ⟨answered_pwrEvent s h, rfl, (tickKept_pwrEvent s last).memSame⟩

theorem pwrOp_resident (ha : s.pst = 3) (hd : restDraining s = false) (hr : anyResident s = true) : pwrOp s 1 = pwrEvent s 2 := by
  simp [pwrOp, ha, hd, hr]

theorem pwrOp_pending (ha : s.pst = 3) (hd : restDraining s = false) (hr : anyResident s = false) (hm : modePending s = true) :
    pwrOp s 1 = pwrEvent s 6 := by
  simp [pwrOp, ha, hd, hr, hm]

/-- A request for Rest that nothing refuses starts the drain. -/
theorem pwrOp_drain (ha : s.pst = 3) (hr : anyResident s = false) (hm : modePending s = false) :
    pwrOp s 1 = { s with pw := { s.pw with drain := .rest (s.tk.count + max 1 (s.get F.PWR_CMD_DRAIN_TICKS)) } } := by
  have hd : restDraining s = false := by rw [restDraining, (not_modePending hm).2.1]
  simp [pwrOp, ha, hd, hr, hm]

theorem exec_restDrainDone {dl : Nat} (ha : s.pst = 3) (hd : s.pw.drain = .rest dl) (he : trackerEmpty s = true) :
    exec .restDrainDone s = .next (startChange { s with pw := { s.pw with drain := .none } } .rest (s.tk.count + 1)) :=
  congrArg Host.Outcome.next (if_pos (by simp [ha, he, restDraining, hd]))

theorem runs_restDrainTimeout {dl : Nat} (ha : s.pst = 3) (hd : s.pw.drain = .rest dl) (he : trackerEmpty s = false) (hl : dl ≤ s.tk.count)
    (hn : s.pw.launches = []) :
    Runs .restDrainTimeout s fun u => Answered s u F.PWR_EVENT_SEQ F.PWR_EVENT_LAST 3 ∧ u.pst = 3 ∧ u.pw = { s.pw with drain := .none } ∧ MemSame s u := by
  have hout : restDrainTimeout s = releaseHeld (pwrEvent { s with pw := { s.pw with drain := .none } } 3) := by
    simp [restDrainTimeout, hd, ha, he, hl]
  have hstop : TickKept s { s with pw := { s.pw with drain := .none } } [F.PWR_EVENT.off] := of_core rfl
  have hevent := tickKept_pwrEvent { s with pw := { s.pw with drain := .none } } 3
  have hheld := tickKept_releaseHeld (pwrEvent { s with pw := { s.pw with drain := .none } } 3) []
  refine ⟨_, congrArg Host.Outcome.next hout, ?_, ?_, pw_releaseHeld hn, ?_⟩
  · exact hheld.answered (answered_pwrEvent _ (by decide)) (by decide) (by decide)
  · rw [hheld.pst_eq (by decide), hevent.pst_eq (by decide), hstop.pst_eq (by decide), ha]
  · exact fun a => (hheld.memSame a).trans (hevent.memSame a)

/-! ### Leaving Rest -/

/-- An adapter above Standby is not held in reset. -/
theorem held_of_awake (h : 2 ≤ s.pst) : s.pw.held = false := by
  by_contra hheld
  rw [Bool.not_eq_false] at hheld
  have hpst : s.pst = if s.get F.PWR_STATE_STATE ≠ 0 then 1 else s.get F.PWR_STATE_STATE := by simp [State.pst, hheld]
  rw [hpst] at h
  split at h <;> omega

theorem foldl_refillBank (s : State) (bs : List Nat) : ∃ m, bs.foldl refillBank s = { s with mem := m } := by
  induction bs generalizing s with
  | nil => exact ⟨s.mem, rfl⟩
  | cons b bs ih =>
    obtain ⟨m, hm⟩ := ih (refillBank s b)
    exact ⟨m, hm⟩

theorem runs_restExitRequest (hr : s.pst = 4) (hf : s.fnHeld 0 = false) (hx : s.pw.restExit = none) :
    Runs (.restExitRequest true) s fun u => u.pw = { s.pw with restExit := some 0, sref := false, parts := true } ∧
      u.get F.PWR_STATE_CLK_LEVEL = 0 ∧ u.pst = 4 ∧ u.get F.PWR_EVENT_SEQ = s.get F.PWR_EVENT_SEQ := by
  obtain ⟨m, hm⟩ := foldl_refillBank (s.set F.PWR_STATE_CLK_LEVEL 0) (List.range (nDom s))
  have hstart : startRestExit s =
      { s.set F.PWR_STATE_CLK_LEVEL 0 with mem := m, pw := { s.pw with restExit := some 0, sref := false, parts := true } } := by
    rw [startRestExit, if_neg (by simp [hr, hx])]
    dsimp only
    rw [hm]
    rfl
  have hexec : exec (.restExitRequest true) s = .next (startRestExit s) := by
    have hop : pwrOp s 2 = startRestExit s := by rw [pwrOp, if_neg (by decide), if_pos rfl, if_pos hr]
    exact congrArg Host.Outcome.next ((fnCmd_rest (f := fun s => pwrOp s 2) hf hr).trans hop)
  rw [hstart] at hexec
  refine ⟨_, hexec, rfl, ?_, ?_, ?_⟩
  · exact State.get_set_self s 0 (by decide)
  · have hstate : (s.set F.PWR_STATE_CLK_LEVEL 0).get F.PWR_STATE_STATE = s.get F.PWR_STATE_STATE := State.get_set_apart s 0 (by decide) (by decide)
    rw [← hr, State.pst, State.pst, ← hstate]
    rfl
  · exact State.get_set_ne s 0 (by decide)

theorem exec_restExitUnitArmed {b n : Nat} (hr : s.pst = 4) (hx : s.pw.restExit = some b) (hn : n < 30) (hb : bit (notArmed s b) n = true) :
    exec (.restExitUnitArmed n) s = .next { s with pw := { s.pw with restExit := some (putBit b n true) } } := by
  show Host.Outcome.next _ = _
  simp [hx, hr, hn, hb]

theorem runs_restExitCommit {b : Nat} (hr : s.pst = 4) (hx : s.pw.restExit = some b) (hb : notArmed s b = 0) (hn : s.pw.launches = []) :
    Runs .restExitCommit s fun u => u.pst = 3 ∧ u.reg F.MODE_EPOCH.off = (s.reg F.MODE_EPOCH.off + 1) % 2 ^ 32 ∧
      (Answered s u F.MODE_EVENT_SEQ F.MODE_EVENT_RESULT 0 ∧ u.get F.MODE_EVENT_KIND = 5) ∧ Answered s u F.PWR_EVENT_SEQ F.PWR_EVENT_LAST 1 ∧
      u.pw = { s.pw with restExit := none, opticsOff := false } ∧ MemSame s u := by
  let a : State := State.set { s with pw := { s.pw with restExit := none, opticsOff := false } } F.PWR_STATE_STATE 3
  have hexec : exec .restExitCommit s = .next (releaseHeld (pwrEvent (modeDone a 5) 1).cqDrainAll) := by
    show Host.Outcome.next _ = _
    simp only [hx, hr, hb, decide_true, Bool.and_self, if_true]
    rfl
  have hdone := tickKept_modeDone a 5
  have hevent := tickKept_pwrEvent (modeDone a 5) 1
  have hend : TickKept (pwrEvent (modeDone a 5) 1) (releaseHeld (pwrEvent (modeDone a 5) 1).cqDrainAll) [] :=
    (tickKept_cqDrainAll _ []).trans (tickKept_releaseHeld _ [])
  have hpw : (pwrEvent (modeDone a 5) 1).cqDrainAll.pw = a.pw := pw_cqDrainAll _
  have hstate : a.get F.PWR_STATE_STATE = 3 := State.get_set_self _ _ (by decide)
  have hseq {f : RF} (hf : f.off ≠ F.PWR_STATE.off) : a.get f = s.get f := State.get_set_ne _ _ hf
  obtain ⟨hepoch, hans, hkind⟩ := modeDone_event a (kind := 5) (by decide)
  refine ⟨_, hexec, ?_, ?_, ⟨?_, ?_⟩, ?_, (pw_releaseHeld (by rw [hpw]; exact hn)).trans hpw, ?_⟩
  · rw [hend.pst_eq (by decide), hevent.pst_eq (by decide), hdone.pst_eq (by decide), State.pst, hstate]
    exact if_neg (by simp [a, held_of_awake (s := s) (by omega)])
  · rw [hend.regs _ (by decide) (by decide), hevent.regs _ (by decide) (by decide), hepoch]
    exact congrArg (fun n => (n + 1) % 2 ^ 32) (State.reg_setReg_ne _ _ (by decide))
  · exact hend.answered (hevent.answered (hans.of_seq (hseq (by decide))) (by decide) (by decide)) (by decide) (by decide)
  · rw [hend.get (by decide) (by decide), hevent.get (by decide) (by decide), hkind]
  · exact hend.answered ((answered_pwrEvent _ (by decide)).of_seq ((hdone.get (by decide) (by decide)).trans (hseq (by decide)))) (by decide) (by decide)
  · exact fun b => (hend.memSame b).trans ((hevent.memSame b).trans (hdone.memSame b))

theorem foldl_raise (f : Nat → Nat × Nat × Nat) (s : State) (ns : List Nat) :
    ns.foldl (fun s n => s.raise (f n).1 (f n).2.1 (f n).2.2) s = { s with fc := { s.fc with raised := s.fc.raised ++ ns.map f } } := by
  induction ns generalizing s with
  | nil => rw [List.map_nil, List.append_nil]; rfl
  | cons n ns ih =>
    rw [List.foldl_cons, ih, List.map_cons]
    exact congrArg (fun l => { s with fc := { s.fc with raised := l } }) (List.append_assoc _ [f n] _)

theorem runs_restExitArmTimeout {b : Nat} (hr : s.pst = 4) (hx : s.pw.restExit = some b) :
    RunsSettled .restExitArmTimeout s fun u =>
      u.fc = { s.fc with raised := s.fc.raised ++ (bitList (notArmed s b) 30).map fun n => (13, n, 0) } ∧ RegsBut s u [] ∧ MemSame s u := by
  have hraised := foldl_raise (fun n => (13, n, 0)) s (bitList (notArmed s b) 30)
  refine ⟨{ s with fc := { s.fc with raised := s.fc.raised ++ (bitList (notArmed s b) 30).map fun n => (13, n, 0) } }, ?_, rfl,
    fun _ _ => rfl, fun _ => rfl⟩
  show Host.Outcome.next _ = _
  rw [hx]
  dsimp only
  rw [if_pos hr, hraised]

end Sys2Proof.Machine

namespace Sys2Proof.Machine

/-! ## Mode changes (R110–R115, R122) -/

open TickKept

variable {s t u : State} {l : List Nat}

/-! ### MODE_CMD -/

theorem exec_modeCmd {c : Instr} {tick swap : Bool} (ha : s.pst = 3) (hf : s.fnHeld 0 = false)
    (hc : c = .modeCmdTick swap ∧ tick = true ∨ c = .modeCmdSwap ∧ tick = false ∧ swap = true) : exec c s = .next (modeCmd s tick swap) := by
  rcases hc with ⟨rfl, rfl⟩ | ⟨rfl, rfl, rfl⟩
  · exact congrArg Host.Outcome.next (fnCmd_active hf ha false _)
  · exact congrArg Host.Outcome.next (fnCmd_active hf ha false _)

theorem modeCheck_lt {tick : Bool} {r : Nat} (h : modeCheck s tick = some r) : r < 8 := by
  unfold modeCheck at h
  dsimp only at h
  split at h
  · cases h; decide
  · split at h
    · cases h; decide
    · split at h
      · cases h; decide
      · split at h
        · cases h; decide
        · cases h

theorem cmdKind_lt (tick swap : Bool) : cmdKind tick swap < 8 := by cases tick <;> cases swap <;> decide

/-- A refused MODE_CMD shows the result of the check that failed (R112). -/
theorem modeCmd_refused {tick swap : Bool} {r : Nat} (hn : (tick || swap) = true) (h : modeCheck s tick = some r) :
    modeCmd s tick swap = (s.set F.MODE_EVENT_KIND (cmdKind tick swap)).result F.MODE_EVENT_SEQ F.MODE_EVENT_RESULT r := by
  rw [modeCmd, if_neg (by cases tick <;> simp_all), h]

theorem modeCmd_accepted {tick swap : Bool} (hn : (tick || swap) = true) (h : modeCheck s tick = none) :
    modeCmd s tick swap = startChange s (.cmd (if tick then some (s.get F.TICK_LEN_NEXT) else none) swap)
      (s.tk.count + if s.reg F.MODE_AT.off = 0 then 1 else modeAtTick s - s.nextNum) := by
  rw [modeCmd, if_neg (by cases tick <;> simp_all), h]

/-- An AT that is accepted names a boundary to come (R112). -/
theorem nextNum_lt_of_modeCheck {tick : Bool} (h : modeCheck s tick = none) (hat : s.reg F.MODE_AT.off ≠ 0) : s.nextNum < modeAtTick s := by
  by_contra hlt
  unfold modeCheck at h
  dsimp only at h
  split at h
  · cases h
  · split at h
    · cases h
    · rw [if_pos (by simp [hat]; omega)] at h
      cases h

theorem modeEvent_startChange (s : State) (k : ModeKind) (a : Nat) : (startChange s k a).get F.MODE_EVENT_SEQ = s.get F.MODE_EVENT_SEQ ∧
    (startChange s k a).get F.MODE_EVENT_POSTPONED = 0 :=
  ⟨State.get_set_apart _ _ (by decide) (by decide), State.get_set_self _ _ (by decide)⟩

theorem runs_modeCmd {c : Instr} {tick swap : Bool} (ha : s.pst = 3) (hf : s.fnHeld 0 = false)
    (hc : c = .modeCmdTick swap ∧ tick = true ∨ c = .modeCmdSwap ∧ tick = false ∧ swap = true) :
    (∀ r, modeCheck s tick = some r → Runs c s fun u => (Answered s u F.MODE_EVENT_SEQ F.MODE_EVENT_RESULT r ∧
      u.get F.MODE_EVENT_KIND = cmdKind tick swap) ∧ u.tk = s.tk ∧ MemSame s u) ∧
    (modeCheck s tick = none → Runs c s fun u => u.get F.MODE_EVENT_SEQ = s.get F.MODE_EVENT_SEQ ∧ u.get F.MODE_EVENT_POSTPONED = 0 ∧ ∃ a,
      u.tk = { s.tk with change := some ⟨.cmd (if tick then some (s.get F.TICK_LEN_NEXT) else none) swap, s.tk.count + a, false, 0, 0⟩ } ∧
      (s.reg F.MODE_AT.off = 0 → a = 1) ∧ (s.reg F.MODE_AT.off ≠ 0 → s.nextNum + a = modeAtTick s)) := by
  have hexec := exec_modeCmd ha hf hc
  have hn : (tick || swap) = true := by rcases hc with ⟨-, rfl⟩ | ⟨-, -, rfl⟩ <;> simp
  constructor
  · intro r hr
    rw [modeCmd_refused hn hr] at hexec
    exact ⟨_, hexec, answered_modeEvent s (cmdKind_lt tick swap) (modeCheck_lt hr), rfl, (tickKept_modeEvent s _ r).memSame⟩
  · intro hok
    rw [modeCmd_accepted hn hok] at hexec
    obtain ⟨hseq, hpost⟩ := modeEvent_startChange s (.cmd (if tick then some (s.get F.TICK_LEN_NEXT) else none) swap)
      (s.tk.count + if s.reg F.MODE_AT.off = 0 then 1 else modeAtTick s - s.nextNum)
    refine ⟨_, hexec, hseq, hpost, _, rfl, fun hz => if_pos hz, fun hat => ?_⟩
    rw [if_neg hat]
    exact Nat.add_sub_cancel' (Nat.le_of_lt (nextNum_lt_of_modeCheck hok hat))

/-! ### Arming and the attempts to commit (R111) -/

theorem exec_modeArm {c : ModeChange} {armed : BitVec 32} (ha : s.pst = 3) (hc : s.tk.change = some c) (hk : c.asked = false)
    (hat : c.armAt ≤ s.tk.count + 1) :
    exec (.modeArm armed) s = .next { s with tk := { s.tk with change := some { c with asked := true, armed := armed.toNat } } } := by
  show Host.Outcome.next _ = _
  rw [hc]
  dsimp only
  rw [if_pos (by simp [ha, hk, hat])]
  rfl

theorem exec_modeCommitAttempt {c : ModeChange} {armed : BitVec 32} (ha : s.pst = 3) (hc : s.tk.change = some c) (hk : c.asked = true)
    (hat : c.armAt + c.postponed ≤ s.tk.count) (hna : notArmed s (c.armed ||| armed.toNat) = 0) :
    exec (.modeCommitAttempt armed) s = .next (settle (commitKind (modeDone (setChange s none) (changeKind c.kind)) c.kind)) := by
  show Host.Outcome.next _ = _
  rw [hc]
  dsimp only
  rw [if_neg (by simp [ha, hk]; omega), if_pos hna]

theorem exec_modePostponed {c : ModeChange} {armed : BitVec 32} (ha : s.pst = 3) (hc : s.tk.change = some c) (hk : c.asked = true)
    (hat : c.armAt + c.postponed ≤ s.tk.count) (hna : notArmed s (c.armed ||| armed.toNat) ≠ 0) (hp : c.postponed < 8) :
    exec (.modeCommitAttempt armed) s =
      .next (((setChange s (some { c with armed := c.armed ||| armed.toNat, postponed := c.postponed + 1 })).setReg F.MODE_STATUS.off
        (notArmed s (c.armed ||| armed.toNat))).set F.MODE_EVENT_POSTPONED (c.postponed + 1)) := by
  show Host.Outcome.next _ = _
  rw [hc]
  dsimp only
  rw [if_neg (by simp [ha, hk]; omega), if_neg hna, if_pos hp]

theorem exec_modeAbort {c : ModeChange} {armed : BitVec 32} (ha : s.pst = 3) (hc : s.tk.change = some c) (hk : c.asked = true)
    (hat : c.armAt + c.postponed ≤ s.tk.count) (hna : notArmed s (c.armed ||| armed.toNat) ≠ 0) (hp : 8 ≤ c.postponed) :
    exec (.modeAbort armed) s = .next (settle (abortKind ((((setChange s none).setReg F.MODE_STATUS.off
      (notArmed s (c.armed ||| armed.toNat))).set F.MODE_EVENT_KIND (changeKind c.kind)).result F.MODE_EVENT_SEQ F.MODE_EVENT_RESULT 1) c.kind)) := by
  show Host.Outcome.next _ = _
  rw [hc]
  dsimp only
  rw [if_neg (by simp [ha, hk, hna]; omega)]

end Sys2Proof.Machine

namespace Sys2Proof.Machine

open TickKept

variable {s t u : State} {l : List Nat}

/-! ### The units that have not armed (R113) -/

theorem presentUnits_lt (s : State) : presentUnits s < 2 ^ 32 := by
  cases h : s.variant <;> simp only [presentUnits, nDom, nSync, h] <;> decide

/-- A unit that has not armed is one of the variant's. -/
theorem notArmed_lt (s : State) (armed : Nat) : notArmed s armed < 2 ^ 32 := by
  have hneed : presentUnits s ^^^ (presentUnits s &&& fencedUnits s) < 2 ^ 32 :=
    Nat.xor_lt_two_pow (presentUnits_lt s) (Nat.lt_of_le_of_lt Nat.and_le_left (presentUnits_lt s))
  exact Nat.xor_lt_two_pow hneed (Nat.lt_of_le_of_lt Nat.and_le_left hneed)

theorem reg_setReg_of_lt (s : State) (off : Nat) {v : Nat} (h : v < 2 ^ 32) : (s.setReg off v).reg off = v := by
  rw [State.reg_setReg_self, Nat.mod_eq_of_lt h]

/-! ### A postponed attempt, and the last -/

theorem runs_modePostponed {c : ModeChange} {armed : BitVec 32} (ha : s.pst = 3) (hc : s.tk.change = some c) (hk : c.asked = true)
    (hat : c.armAt + c.postponed ≤ s.tk.count) (hna : notArmed s (c.armed ||| armed.toNat) ≠ 0) (hp : c.postponed < 8) :
    Runs (.modeCommitAttempt armed) s fun u => u.reg F.MODE_STATUS.off = notArmed s (c.armed ||| armed.toNat) ∧ MemSame s u ∧
      u.get F.MODE_EVENT_POSTPONED = c.postponed + 1 ∧ u.get F.MODE_EVENT_SEQ = s.get F.MODE_EVENT_SEQ ∧
      u.tk = { s.tk with change := some { c with armed := c.armed ||| armed.toNat, postponed := c.postponed + 1 } } := by
  refine ⟨_, exec_modePostponed ha hc hk hat hna hp, ?_, fun _ => rfl, ?_, ?_, rfl⟩
  · rw [State.reg_set_ne _ _ (by decide)]
    exact reg_setReg_of_lt _ _ (notArmed_lt s _)
  · rw [State.get_set_self _ _ (by decide)]
    exact Nat.mod_eq_of_lt (show c.postponed + 1 < 16 by omega)
  · rw [State.get_set_apart _ _ (by decide) (by decide)]
    exact congrArg (bits · _ _) (State.reg_setReg_ne _ _ (by decide))

theorem changeKind_cmd_lt (n : Option Nat) (swap : Bool) : changeKind (.cmd n swap) < 8 := cmdKind_lt _ _

theorem runs_modeAbort {c : ModeChange} {armed : BitVec 32} {n : Option Nat} {swap : Bool} (ha : s.pst = 3) (hc : s.tk.change = some c)
    (hk : c.asked = true) (hat : c.armAt + c.postponed ≤ s.tk.count) (hna : notArmed s (c.armed ||| armed.toNat) ≠ 0) (hp : 8 ≤ c.postponed)
    (hkind : c.kind = .cmd n swap) :
    RunsSettled (.modeAbort armed) s fun u => u.tk = { s.tk with change := none } ∧
      (Answered s u F.MODE_EVENT_SEQ F.MODE_EVENT_RESULT 1 ∧ u.get F.MODE_EVENT_KIND = changeKind c.kind) ∧
      u.reg F.MODE_STATUS.off = notArmed s (c.armed ||| armed.toNat) ∧ u.reg F.MODE_EPOCH.off = s.reg F.MODE_EPOCH.off ∧ MemSame s u := by
  have hexec := exec_modeAbort ha hc hk hat hna hp
  rw [hkind] at hexec ⊢
  set a := (setChange s none).setReg F.MODE_STATUS.off (notArmed s (c.armed ||| armed.toNat)) with hadef
  obtain ⟨hans, hshown⟩ := answered_modeEvent a (changeKind_cmd_lt n swap) (r := 1) (by decide)
  have hkept := tickKept_modeEvent a (changeKind (.cmd n swap)) 1
  refine ⟨_, hexec, rfl, ⟨hans.of_seq (congrArg (bits · _ _) (State.reg_setReg_ne _ _ (by decide))), hshown⟩, ?_, ?_, hkept.memSame⟩
  · exact (hkept.regs _ (by decide) (by decide)).trans (reg_setReg_of_lt _ _ (notArmed_lt s _))
  · exact (hkept.regs _ (by decide) (by decide)).trans (State.reg_setReg_ne _ _ (by decide))

/-! ### The commit of a MODE_CMD (R93, R114) -/

theorem regsBut_modeDone (s : State) (kind : Nat) : RegsBut s (modeDone s kind) [F.MODE_STATUS.off, F.MODE_EPOCH.off, F.MODE_EVENT.off] := by
  have hevent (t : State) : RegsBut t ((t.set F.MODE_EVENT_KIND kind).result F.MODE_EVENT_SEQ F.MODE_EVENT_RESULT 0) [F.MODE_EVENT.off] :=
    ((regsBut_set t F.MODE_EVENT_KIND kind).trans (regsBut_set _ F.MODE_EVENT_RESULT 0)).trans (regsBut_set _ F.MODE_EVENT_SEQ _)
  exact (((regsBut_setReg s F.MODE_STATUS.off 0).mono (by decide)).trans ((regsBut_setReg _ F.MODE_EPOCH.off _).mono (by decide))).trans
    ((hevent _).mono (by decide))

theorem reg_resetRegs_of_lt (s : State) {lo hi o : Nat} (h : o < lo) : (s.resetRegs lo hi).reg o = s.reg o := by
  rw [State.reg, State.reg, State.resetRegs, smFind_smDrop, if_neg (by simp; omega)]

/-- The bank that was active becomes the shadow's (R114). -/
def shadowLoaded (s : State) : State :=
  s.tk.bank.foldl (fun s (e : Nat × Nat) => s.setReg (0x24000 + 4 * e.1) e.2) (s.resetRegs 0x24000 0x28000)

/-- The shadow bank's registers lie from 0x24000 on. -/
theorem reg_shadowLoaded (s : State) {o : Nat} (h : o < 0x24000) : (shadowLoaded s).reg o = s.reg o :=
  foldl_keeps (P := fun t : State => t.reg o = s.reg o) (fun t e ht => (State.reg_setReg_ne _ _ (by omega)).trans ht) _ (reg_resetRegs_of_lt s h)

theorem shadowLoaded_rest (s : State) : shadowLoaded s = { s with regs := (shadowLoaded s).regs } :=
  foldl_keeps (P := fun t : State => t = { s with regs := t.regs }) (fun t e ht => by rw [ht]; rfl) _ rfl

theorem tickKept_shadowLoaded (s : State) (l : List Nat) : TickKept s (shadowLoaded s) l := by
  have hrest := shadowLoaded_rest s
  refine ⟨fun o ho _ => reg_shadowLoaded s (ho.trans (by decide)), ?_, ?_, ?_, ?_, ?_, ?_⟩ <;> rw [hrest]
  · exact ⟨rfl, rfl, rfl, rfl, rfl, rfl⟩
  · exact ⟨rfl, rfl, rfl⟩
  · exact fun _ => id

/-- The banks and the periods have changed places. -/
def bankLoaded (s : State) : State :=
  (State.set { shadowLoaded s with tk := { s.tk with bank := shadowBank s } } F.MARI_CTL_ACTIVE_PERIOD_M1 (s.get F.MARI_CTL_SHADOW_PERIOD_M1)).set
    F.MARI_CTL_SHADOW_PERIOD_M1 (s.get F.MARI_CTL_ACTIVE_PERIOD_M1)

theorem bankSwap_eq (s : State) : bankSwap s = (bankLoaded s).set F.MARI_CTL_ACTIVE_BANK (b2n (!(bankLoaded s).flag F.MARI_CTL_ACTIVE_BANK)) := by
  have htk : (shadowLoaded s).tk = s.tk := by rw [shadowLoaded_rest]
  rw [bankLoaded, ← htk]
  rfl

theorem activeBank_bankLoaded (s : State) : (bankLoaded s).flag F.MARI_CTL_ACTIVE_BANK = s.flag F.MARI_CTL_ACTIVE_BANK := by
  refine flag_congr ?_
  rw [bankLoaded, State.get_set_apart _ _ (by decide) (by decide), State.get_set_apart _ _ (by decide) (by decide)]
  exact congrArg (bits · _ _) (reg_shadowLoaded s (by decide))

theorem flag_set_b2n (s : State) {f : RF} (b : Bool) (hw : f.wid = 1) (hl : f.lo < 32) : (s.set f (b2n b)).flag f = b := by
  rw [State.flag, State.get_set_self _ _ (by omega), hw]
  cases b <;> rfl

theorem activeBank_bankSwap (s : State) : (bankSwap s).flag F.MARI_CTL_ACTIVE_BANK = !s.flag F.MARI_CTL_ACTIVE_BANK := by
  rw [bankSwap_eq, flag_set_b2n _ _ rfl (by decide), activeBank_bankLoaded]

theorem tickKept_bankSwap (s : State) (l : List Nat) : TickKept s (bankSwap s) l := by
  have hloaded : TickKept s (bankLoaded s) l := by
    refine .trans (.trans ((tickKept_shadowLoaded s l).trans ?_) (set _ _ (.inl (by decide)))) (set _ _ (.inl (by decide)))
    have htk : (shadowLoaded s).tk = s.tk := by rw [shadowLoaded_rest]
    rw [← htk]
    exact of_core rfl
  rw [bankSwap_eq]
  exact hloaded.trans (set _ _ (.inl (by decide)))

/-- TICK_LEN.CUR takes the new length, within the register's range. -/
theorem tickLen_tickLenCommit (s : State) {n : Nat} (h : n ≤ 256) : (tickLenCommit s n).get F.TICK_LEN_CUR = n := by
  refine (State.get_set_self _ _ (by decide)).trans ?_
  exact Nat.mod_eq_of_lt (show n < 512 by omega)

/-- Registers and bytes that a commit of MODE_CMD leaves: those of neither the tick's length nor the marionette table. -/
structure CommitKept (s u : State) : Prop where
  regs : ∀ o, o < tickRegs → o ≠ F.TICK_LEN.off → u.reg o = s.reg o
  mem : MemSame s u
  change : u.tk.change = s.tk.change

theorem commitKind_cmd (s : State) (n : Option Nat) (swap : Bool) :
    CommitKept s (commitKind s (.cmd n swap)) ∧
    (∀ l, n = some l → l ≤ 256 → (commitKind s (.cmd n swap)).get F.TICK_LEN_CUR = l) ∧
    (n = none → (commitKind s (.cmd n swap)).get F.TICK_LEN_CUR = s.get F.TICK_LEN_CUR) ∧
    (commitKind s (.cmd n swap)).flag F.MARI_CTL_ACTIVE_BANK = (s.flag F.MARI_CTL_ACTIVE_BANK != swap) := by
  set t := (match n with | some k => tickLenCommit s k | none => s) with ht
  have hlen : CommitKept s t ∧ t.flag F.MARI_CTL_ACTIVE_BANK = s.flag F.MARI_CTL_ACTIVE_BANK := by
    cases n with
    | none => exact ⟨⟨fun _ _ _ => rfl, fun _ => rfl, rfl⟩, rfl⟩
    | some k => exact ⟨⟨fun _ _ ho => State.reg_set_ne _ _ ho, fun _ => rfl, rfl⟩, flag_congr (State.get_set_ne _ _ (by decide))⟩
  have hcommit : commitKind s (.cmd n swap) = if swap then bankSwap t else t := rfl
  have hswap := tickKept_bankSwap t []
  have hchange : (bankSwap t).tk.change = t.tk.change := by
    rw [bankSwap_eq]
    rfl
  have htick : (if swap then bankSwap t else t).get F.TICK_LEN_CUR = t.get F.TICK_LEN_CUR := by
    split
    · exact hswap.get (by decide) List.not_mem_nil
    · rfl
  rw [hcommit, htick]
  refine ⟨?_, ?_, ?_, ?_⟩
  · split
    · exact ⟨fun o ho hl => (hswap.regs o ho List.not_mem_nil).trans (hlen.1.regs o ho hl), fun a => (hswap.memSame a).trans (hlen.1.mem a),
        hchange.trans hlen.1.change⟩
    · exact hlen.1
  · rintro k rfl hk
    exact tickLen_tickLenCommit s hk
  · rintro rfl
    rfl
  · rw [← hlen.2]
    cases swap with
    | false => exact (Bool.bne_false _).symm
    | true => exact (activeBank_bankSwap t).trans (Bool.bne_true _).symm

theorem runs_modeCommit_cmd {c : ModeChange} {armed : BitVec 32} {n : Option Nat} {swap : Bool} (ha : s.pst = 3) (hc : s.tk.change = some c)
    (hk : c.asked = true) (hat : c.armAt + c.postponed ≤ s.tk.count) (hna : notArmed s (c.armed ||| armed.toNat) = 0) (hkind : c.kind = .cmd n swap) :
    RunsSettled (.modeCommitAttempt armed) s fun u => u.tk.change = none ∧ u.reg F.MODE_EPOCH.off = (s.reg F.MODE_EPOCH.off + 1) % 2 ^ 32 ∧
      (Answered s u F.MODE_EVENT_SEQ F.MODE_EVENT_RESULT 0 ∧ u.get F.MODE_EVENT_KIND = changeKind c.kind) ∧
      MemSame s u ∧ (∀ l, n = some l → l ≤ 256 → u.get F.TICK_LEN_CUR = l) ∧ (n = none → u.get F.TICK_LEN_CUR = s.get F.TICK_LEN_CUR) ∧
      u.flag F.MARI_CTL_ACTIVE_BANK = (s.flag F.MARI_CTL_ACTIVE_BANK != swap) := by
  have hexec := exec_modeCommitAttempt ha hc hk hat hna
  rw [hkind] at hexec ⊢
  set d := modeDone (setChange s none) (changeKind (.cmd n swap)) with hd
  obtain ⟨hepoch, hans, hshown⟩ := modeDone_event (setChange s none) (changeKind_cmd_lt n swap)
  have hdone := tickKept_modeDone (setChange s none) (changeKind (.cmd n swap))
  obtain ⟨⟨hregs, hmem, hchange⟩, hlen, hsame, hbank⟩ := commitKind_cmd d n swap
  have hget {f : RF} (ho : f.off < tickRegs) (hl : f.off ≠ F.TICK_LEN.off) : (commitKind d (.cmd n swap)).get f = d.get f :=
    congrArg (bits · f.lo f.wid) (hregs _ ho hl)
  refine ⟨_, hexec, hchange, (hregs _ (by decide) (by decide)).trans hepoch, ⟨⟨(hget (by decide) (by decide)).trans hans.1,
    (hget (by decide) (by decide)).trans hans.2⟩, (hget (by decide) (by decide)).trans hshown⟩, fun a => (hmem a).trans (hdone.memSame a), hlen,
    fun h => (hsame h).trans (hdone.get (by decide) (by decide)), hbank.trans ?_⟩
  have hold : d.flag F.MARI_CTL_ACTIVE_BANK = s.flag F.MARI_CTL_ACTIVE_BANK :=
    flag_congr (congrArg (bits · _ _) (regsBut_modeDone (setChange s none) _ _ (by decide)))
  rw [hold]

/-! ### The commit into Rest (R70) -/

/-- The registers of power and mode changes and the power state's other inputs, while the links go down. -/
structure DownKept (s u : State) : Prop where
  regs : ∀ o, o < tickRegs → o ≠ F.TIME_STATUS.off → u.reg o = s.reg o
  held : u.pw.held = s.pw.held

theorem DownKept.trans (h : DownKept s t) (k : DownKept t u) : DownKept s u :=
  ⟨fun o ho hl => (k.regs o ho hl).trans (h.regs o ho hl), k.held.trans h.held⟩

theorem DownKept.refl (s : State) : DownKept s s := ⟨fun _ _ _ => rfl, rfl⟩

theorem DownKept.foldl {α : Type} {f : State → α → State} (hf : ∀ t x, DownKept t (f t x)) (xs : List α) (s : State) : DownKept s (xs.foldl f s) :=
  foldl_keeps (P := fun t => DownKept s t) (fun t x h => h.trans (hf t x)) xs (.refl s)

theorem DownKept.setReg (s : State) {off : Nat} (v : Nat) (h : tickRegs ≤ off) : DownKept s (s.setReg off v) :=
  ⟨fun o ho _ => State.reg_setReg_ne _ _ (by omega), rfl⟩

theorem pw_ctlSend (s : State) (n enable time : Nat) : (ctlSend s n enable time).pw = s.pw := by
  unfold ctlSend
  split
  · rfl
  · split <;> rfl

theorem pw_pfcFall (s : State) (i c : Nat) : (pfcFall s i c).pw = s.pw := by
  unfold pfcFall
  split
  · rfl
  · dsimp only
    split
    · unfold sendPfc
      split
      · exact pw_ctlSend _ _ _ _
      · rfl
    · rfl

theorem pw_linkDropped (s : State) (n : Nat) : (linkDropped s n).pw = s.pw := by
  unfold linkDropped
  refine foldl_keeps (P := fun t : State => t.pw = s.pw) (fun t f h => (pw_pfcFall t _ _).trans h) _ ?_
  cases (s.port n).cut <;> rfl

theorem pw_linkLost (s : State) (n : Nat) : (linkLost s n).pw = s.pw := by
  have hholdover : s.holdover.pw = s.pw := by
    unfold State.holdover
    split
    · rfl
    · rw [setLock_rest]
  have hforget (t : State) : (forgetForeign t n).pw = t.pw := by
    unfold forgetForeign
    split
    · rw [bmca_rest]
    · rfl
  refine (hforget _).trans ?_
  split
  · exact hholdover
  · rfl

theorem pw_linkShown (s : State) (n : Nat) : (linkShown s n).pw = s.pw := rfl

theorem pw_linkGoesDown (s : State) (n : Nat) : (linkGoesDown s n).pw = s.pw := by
  rw [linkGoesDown_eq]
  split
  · rfl
  · rw [pw_linkLost, pw_linkShown, pw_linkDropped]

theorem downKept_linkGoesDown (s : State) (n : Nat) : DownKept s (linkGoesDown s n) := by
  refine ⟨fun o ho hl => (portKept_linkGoesDown s n).reg ?_, congrArg Power.held (pw_linkGoesDown s n)⟩
  have hbase (k : Nat) : o ≠ portBase n + k := by
    unfold portBase
    unfold tickRegs at ho
    omega
  simp only [linkRegs, List.mem_cons, List.not_mem_nil, or_false, not_or]
  exact ⟨hbase _, hbase _, hl⟩

theorem downKept_opticsDown (s : State) : DownKept s (opticsDown s) := by
  refine .trans (.foldl (fun t m => .setReg t 0 ?_) _ s) (.foldl downKept_linkGoesDown _ _)
  show tickRegs ≤ bayBase m + _
  unfold tickRegs bayBase
  omega

theorem downKept_writeLife (s : State) (m : Nat) : DownKept s (writeLife s m) := by
  obtain ⟨b, h | h⟩ := writeLife_rest s (m := m) <;> rw [h] <;> exact ⟨fun _ _ _ => rfl, rfl⟩

/-- The lifetimes are written and the optics go off where the request says so. -/
def restDarkened (s : State) : State :=
  let s' := ((List.range (nBay s)).filter fun m => lasersOn s m).foldl writeLife s
  if s.flag F.PWR_CMD_OPTICS_OFF then opticsDown s' else s'

theorem downKept_restDarkened (s : State) : DownKept s (restDarkened s) := by
  unfold restDarkened
  dsimp only
  split
  · exact (DownKept.foldl downKept_writeLife _ s).trans (downKept_opticsDown _)
  · exact .foldl downKept_writeLife _ s

/-- Rest as the registers show it. -/
def restShown (s : State) : State :=
  ((restDarkened s).set F.PWR_STATE_STATE 4).set F.PWR_STATE_REST_OPTICS (b2n (!s.flag F.PWR_CMD_OPTICS_OFF))

theorem restCommit_eq (s : State) : restCommit s = pwrEvent { restShown s with pw := { (restShown s).pw with
    opticsOff := s.flag F.PWR_CMD_OPTICS_OFF, wake := (restShown s).flag F.PWR_CMD_WAKE_DB, parts := false, sref := true } } 0 := rfl

theorem reg_restShown (s : State) {o : Nat} (ho : o < tickRegs) (hl : o ≠ F.TIME_STATUS.off) (hp : o ≠ F.PWR_STATE.off) : (restShown s).reg o = s.reg o := by
  rw [restShown, State.reg_set_ne (f := F.PWR_STATE_REST_OPTICS) _ _ hp, State.reg_set_ne (f := F.PWR_STATE_STATE) _ _ hp,
    (downKept_restDarkened s).regs o ho hl]

theorem restCommit_event (s : State) (hh : s.pw.held = false) : (restCommit s).pst = 4 ∧
    Answered s (restCommit s) F.PWR_EVENT_SEQ F.PWR_EVENT_LAST 0 ∧ (restCommit s).reg F.MODE_EPOCH.off = s.reg F.MODE_EPOCH.off ∧
    (restCommit s).pw.parts = false ∧ (restCommit s).pw.sref = true := by
  have hstate : (restShown s).get F.PWR_STATE_STATE = 4 :=
    (State.get_set_apart _ _ (by decide) (by decide)).trans (State.get_set_self _ _ (by decide))
  have hheld : (restShown s).pw.held = false := (downKept_restDarkened s).held.trans hh
  have hepoch := reg_restShown s (o := F.MODE_EPOCH.off) (by decide) (by decide) (by decide)
  have hseq := reg_restShown s (o := F.PWR_EVENT.off) (by decide) (by decide) (by decide)
  rw [restCommit_eq]
  refine ⟨?_, (answered_pwrEvent _ (by decide)).of_seq (congrArg (bits · _ _) hseq), ?_, rfl, rfl⟩
  · rw [(tickKept_pwrEvent _ 0).pst_eq (by decide)]
    have hpst : (restShown s).pst = 4 := by rw [State.pst, hstate, hheld]; rfl
    exact hpst
  · exact ((tickKept_pwrEvent _ 0).regs _ (by decide) (by decide)).trans hepoch

theorem runs_modeCommit_rest {c : ModeChange} {armed : BitVec 32} (ha : s.pst = 3) (hc : s.tk.change = some c)
    (hk : c.asked = true) (hat : c.armAt + c.postponed ≤ s.tk.count) (hna : notArmed s (c.armed ||| armed.toNat) = 0) (hkind : c.kind = .rest) :
    RunsSettled (.modeCommitAttempt armed) s fun u => u.pst = 4 ∧ Answered s u F.PWR_EVENT_SEQ F.PWR_EVENT_LAST 0 ∧
      u.reg F.MODE_EPOCH.off = (s.reg F.MODE_EPOCH.off + 1) % 2 ^ 32 ∧ u.pw.parts = false ∧ u.pw.sref = true := by
  have hexec := exec_modeCommitAttempt ha hc hk hat hna
  rw [hkind] at hexec
  have hdone := tickKept_modeDone (setChange s none) 4
  obtain ⟨hpst, hans, hepoch, hparts, hsref⟩ := restCommit_event (modeDone (setChange s none) 4) (held_of_awake (s := s) (by omega))
  exact ⟨_, hexec, hpst, hans.of_seq (hdone.get (by decide) (by decide)), hepoch.trans (modeDone_event (setChange s none) (by decide)).1, hparts, hsref⟩

end Sys2Proof.Machine

namespace Sys2Proof.Machine

open TickKept

variable {s t u : State} {l : List Nat}

/-! ## Capping (R82, R91, R541) -/

/-! ### Fields in effect -/

theorem getL_set (s : State) {f h : RF} (v : Nat) (hne : h.off ≠ f.off) : (s.set f v).getL h = s.getL h := by
  unfold State.getL
  rw [State.get_set_ne _ _ hne]
  rfl

/-- The value in effect stays while a write waits (R91). -/
theorem getL_keepLate (s : State) (f : RF) (hw : f.lo + f.wid ≤ 32) : (s.keepLate f.off).getL f = s.getL f := by
  unfold State.keepLate
  cases h : smFind s.late f.off with
  | some v => rfl
  | none =>
    dsimp only
    rw [State.getL, State.getL, smFind_smSet_self, h]
    dsimp only
    rw [BitVec.toNat_ofNat, bits_mod _ hw, State.get]

theorem keepLate_rest (s : State) (off : Nat) : s.keepLate off = { s with late := (s.keepLate off).late } := by
  unfold State.keepLate
  split <;> rfl

theorem late_storeWord (s : State) (r : RegRow) (off v : Nat) : (storeWord s r off v).late = s.late := by
  obtain ⟨t, ht, rfl | rfl⟩ := storeWord_eq s r off v <;> rw [ht] <;> rfl

/-- A field whose bits all take a write reads what was written. -/
theorem get_storeWord (s : State) (r : RegRow) (v : Nat) {f : RF} (hw : f.lo + f.wid ≤ 32)
    (htake : ∀ i, i < f.wid → bit (r.rw ||| r.rwk) (f.lo + i) = true) : (storeWord s r f.off v).get f = bits v f.lo f.wid := by
  refine Nat.eq_of_testBit_eq fun i => ?_
  rw [State.get, testBit_bits_eq, testBit_bits_eq]
  by_cases hi : i < f.wid
  · rw [storeWord_bit s r f.off v (by omega), if_pos (htake i hi)]
  · rw [decide_eq_false hi, Bool.false_and, Bool.false_and]

/-- A write that waits for its interval: the register takes it, and the value in effect stays. -/
theorem writeLate_eq {off : Nat} {r : RegRow} {i j : Nat} (s : State) (v : Nat) (hr : regRow off = some (r, i, j))
    (hp : slotPresent (s.keepLate off) off = true) : writeLate s off v = storeWord (s.keepLate off) r off v := writeWord_register v hr hp

theorem getL_writeLate {f : RF} {r : RegRow} {i j : Nat} (s : State) (v : Nat) (hr : regRow f.off = some (r, i, j))
    (hp : slotPresent (s.keepLate f.off) f.off = true) (hw : f.lo + f.wid ≤ 32) : (writeLate s f.off v).getL f = s.getL f := by
  rw [writeLate_eq s v hr hp, ← getL_keepLate s f hw]
  have hsome : ∃ x, smFind (s.keepLate f.off).late f.off = some x := by
    unfold State.keepLate
    split
    · exact ⟨_, ‹_›⟩
    · exact ⟨_, smFind_smSet_self _ _ _⟩
  obtain ⟨x, hx⟩ := hsome
  rw [State.getL, State.getL, late_storeWord, hx]

theorem writeLate_frame {off : Nat} {r : RegRow} {i j : Nat} (s : State) (v : Nat) (hr : regRow off = some (r, i, j))
    (hp : slotPresent (s.keepLate off) off = true) : RegsBut s (writeLate s off v) [off] ∧ MemSame s (writeLate s off v) := by
  obtain ⟨hregs, -, hmem⟩ := storeWord_frame (s.keepLate off) r off v
  rw [writeLate_eq s v hr hp]
  have hkept : RegsBut s (s.keepLate off) [] := fun o _ => by rw [keepLate_rest]; rfl
  have hbytes : MemSame s (s.keepLate off) := fun a => by rw [keepLate_rest]; rfl
  exact ⟨(hkept.mono (List.nil_subset _)).trans hregs, fun a => (hmem a).trans (hbytes a)⟩

/-- The bits of PWR_CAP and of PWR_THERM that a write stores. -/
theorem regRow_pwrCap : ∃ r, regRow F.PWR_CAP.off = some (r, 0, 0) ∧ ∀ i, i < 12 → bit (r.rw ||| r.rwk) i = true := ⟨_, rfl, by decide⟩

theorem regRow_pwrTherm : ∃ r, regRow F.PWR_THERM.off = some (r, 0, 0) ∧ ∀ i, i < 16 → bit (r.rw ||| r.rwk) i = true := ⟨_, rfl, by decide⟩

theorem exec_pwrThermWrite {therm : Bool} {v : Word32} (hp : s.pst = 3 ∨ s.pst = 4) (hf : s.fnHeld 0 = false) :
    exec (.pwrThermWrite therm v) s = .next (pwrThermWrite s therm v.toNat) := by
  rcases hp with ha | hr
  · exact congrArg Host.Outcome.next (fnCmd_active hf ha true _)
  · exact congrArg Host.Outcome.next (fnCmd_rest (f := fun s => pwrThermWrite s therm v.toNat) hf hr)

theorem runs_pwrCapWrite (hp : s.pst = 3 ∨ s.pst = 4) (hf : s.fnHeld 0 = false) (v : Word32) :
    Runs (.pwrThermWrite false v) s fun u => u.get F.PWR_CAP_LIMIT_W = bits v.toNat 0 11 ∧ u.getL F.PWR_CAP_LIMIT_W = s.getL F.PWR_CAP_LIMIT_W ∧
      u.getL F.PWR_CAP_ENABLE = s.getL F.PWR_CAP_ENABLE ∧ RegsBut s u [F.PWR_CAP.off] ∧ MemSame s u := by
  obtain ⟨r, hr, htake⟩ := regRow_pwrCap
  obtain ⟨hregs, hmem⟩ := writeLate_frame s v.toNat hr rfl
  refine ⟨_, exec_pwrThermWrite hp hf, ?_, getL_writeLate (f := F.PWR_CAP_LIMIT_W) s _ hr rfl (by decide),
    getL_writeLate (f := F.PWR_CAP_ENABLE) s _ hr rfl (by decide), hregs, hmem⟩
  rw [show pwrThermWrite s false v.toNat = writeLate s F.PWR_CAP.off v.toNat from rfl, writeLate_eq s _ hr rfl]
  refine get_storeWord _ r _ (f := F.PWR_CAP_LIMIT_W) (by decide) fun i hi => ?_
  have hlt : i < 11 := hi
  exact htake _ (show 0 + i < 12 by omega)

theorem runs_pwrThermWrite (hp : s.pst = 3 ∨ s.pst = 4) (hf : s.fnHeld 0 = false) (v : Word32) (horder : bits v.toNat 0 8 < bits v.toNat 8 8)
    (hmax : bits v.toNat 8 8 ≤ 110) :
    Runs (.pwrThermWrite true v) s fun u => u.get F.PWR_THERM_SOFT_C = bits v.toNat 0 8 ∧ u.get F.PWR_THERM_HARD_C = bits v.toNat 8 8 ∧
      u.getL F.PWR_THERM_HARD_C = s.getL F.PWR_THERM_HARD_C ∧ RegsBut s u [F.PWR_THERM.off] ∧ MemSame s u := by
  obtain ⟨r, hr, htake⟩ := regRow_pwrTherm
  obtain ⟨hregs, hmem⟩ := writeLate_frame s v.toNat hr rfl
  have hwrite : pwrThermWrite s true v.toNat = writeLate s F.PWR_THERM.off v.toNat := by
    rw [pwrThermWrite, if_neg (by decide), if_neg (by simp; omega)]
  have hexec := exec_pwrThermWrite (therm := true) (v := v) hp hf
  rw [hwrite] at hexec
  refine ⟨_, hexec, ?_, ?_, getL_writeLate (f := F.PWR_THERM_HARD_C) s _ hr rfl (by decide), hregs, hmem⟩ <;> rw [writeLate_eq s _ hr rfl]
  · refine get_storeWord _ r _ (f := F.PWR_THERM_SOFT_C) (by decide) fun i hi => ?_
    have hlt : i < 8 := hi
    exact htake _ (show 0 + i < 16 by omega)
  · refine get_storeWord _ r _ (f := F.PWR_THERM_HARD_C) (by decide) fun i hi => ?_
    have hlt : i < 8 := hi
    exact htake _ (show 8 + i < 16 by omega)

/-! ### An interval's end -/

theorem tickKept_saturate (s : State) : TickKept s (saturate s) [F.PWR_STATE.off] := by
  unfold saturate
  split
  · exact refl s _
  · exact (TickKept.set s (f := F.PWR_STATE_CAP_SATURATED) 1 (.inr (List.mem_singleton_self _))).trans (raise _ _ _ _ _)

theorem tickKept_capCut (s : State) : TickKept s (capCut s) [F.PWR_STATE.off] := by
  unfold capCut
  dsimp only
  split
  · exact TickKept.set s (f := F.PWR_STATE_BE_SHARE) _ (.inr (List.mem_singleton_self _))
  · split
    · exact TickKept.set s (f := F.PWR_STATE_CLK_LEVEL) _ (.inr (List.mem_singleton_self _))
    · exact tickKept_saturate s

theorem tickKept_capRaise (s : State) : TickKept s (capRaise s) [F.PWR_STATE.off] := by
  have hcalm : TickKept s ((s.set F.PWR_STATE_THERM_HARD 0).set F.PWR_STATE_CAP_SATURATED 0) [F.PWR_STATE.off] :=
    (TickKept.set s (f := F.PWR_STATE_THERM_HARD) 0 (.inr (List.mem_singleton_self _))).trans
      (TickKept.set _ (f := F.PWR_STATE_CAP_SATURATED) 0 (.inr (List.mem_singleton_self _)))
  unfold capRaise
  dsimp only
  split
  · exact hcalm.trans (TickKept.set _ (f := F.PWR_STATE_CLK_LEVEL) _ (.inr (List.mem_singleton_self _)))
  · split
    · exact hcalm.trans (TickKept.set _ (f := F.PWR_STATE_BE_SHARE) _ (.inr (List.mem_singleton_self _)))
    · exact hcalm

theorem tickKept_capInterval (s : State) (tj w : Nat) : TickKept s (capInterval s tj w) [F.PWR_STATE.off] := by
  have hlevers (t : State) (above : Bool) (run : Nat) :
      TickKept t (if above then capCut t else if 4 ≤ run then capRaise t else t) [F.PWR_STATE.off] := by
    split
    · exact tickKept_capCut t
    · split
      · exact tickKept_capRaise t
      · exact refl t _
  refine .trans ?_ (hlevers _ _ _)
  exact of_core rfl

/-- The control loop of one interval, before writes of PWR_CAP and PWR_THERM take effect. -/
def capControlled (s : State) (tj w : Nat) : State := if capOn s then capInterval (hardLevers s tj) tj w else s

theorem tickKept_capControlled (s : State) (tj w : Nat) : TickKept s (capControlled s tj w) [F.PWR_STATE.off] := by
  unfold capControlled
  split
  · exact (tickKept_hardLevers s tj).trans (tickKept_capInterval _ tj w)
  · exact refl s _

/-- Over the limit with best-effort share left, the share falls by 25 (R82). -/
theorem capControlled_cut {tj w : Nat} (hon : capOn s = true) (hcool : tj < s.getL F.PWR_THERM_HARD_C) (hhard : s.flag F.PWR_STATE_THERM_HARD = false)
    (hover : capLimit s < w ∨ s.getL F.PWR_THERM_SOFT_C ≤ tj) (hshare : 0 < s.get F.PWR_STATE_BE_SHARE) :
    ∃ calm, capControlled s tj w = State.set { s with pw := { s.pw with calm := calm } } F.PWR_STATE_BE_SHARE (s.get F.PWR_STATE_BE_SHARE - 25) := by
  have hlevers : hardLevers s tj = s := by
    rw [hardLevers, if_neg (by simp; omega)]
  rw [capControlled, if_pos hon, hlevers, capInterval]
  dsimp only
  rw [if_pos (by simp [hover, hhard]), capCut]
  exact ⟨_, if_pos hshare⟩

theorem exec_capIntervalEnd {tj w : Nat} (hp : s.pst = 3 ∨ s.pst = 4) (hticks : capTicks s ≤ s.pw.capTicks + 1) :
    exec (.capIntervalEnd tj w) s = .next (settle { capControlled (s.set F.PWR_TELEM_AVG_W w) tj w with
      late := smDrop (fun o => o == F.PWR_CAP.off || o == F.PWR_THERM.off) (capControlled (s.set F.PWR_TELEM_AVG_W w) tj w).late,
      pw := { (capControlled (s.set F.PWR_TELEM_AVG_W w) tj w).pw with capTicks := 0 } }) := by
  refine congrArg Host.Outcome.next (if_neg ?_)
  simp
  omega

/-- Showing the mean power changes no input of the loop. -/
theorem capInputs_set (s : State) (w : Nat) : capOn (s.set F.PWR_TELEM_AVG_W w) = capOn s ∧ capLimit (s.set F.PWR_TELEM_AVG_W w) = capLimit s ∧
    (∀ f : RF, f.off = F.PWR_STATE.off → (s.set F.PWR_TELEM_AVG_W w).get f = s.get f) ∧
    ∀ f : RF, f.off = F.PWR_THERM.off → (s.set F.PWR_TELEM_AVG_W w).getL f = s.getL f := by
  have hstate := State.pst_set_ne s (f := F.PWR_TELEM_AVG_W) w (by decide)
  have henable := getL_set s (f := F.PWR_TELEM_AVG_W) (h := F.PWR_CAP_ENABLE) w (by decide)
  have hlimit := getL_set s (f := F.PWR_TELEM_AVG_W) (h := F.PWR_CAP_LIMIT_W) w (by decide)
  refine ⟨by rw [capOn, capOn, hstate, henable], by rw [capLimit, capLimit, hlimit], fun f hf => ?_, fun f hf => ?_⟩
  · exact State.get_set_ne _ _ (by rw [hf]; decide)
  · exact getL_set s w (by rw [hf]; decide)

theorem runs_capIntervalEnd {tj w : Nat} (hp : s.pst = 3 ∨ s.pst = 4) (hticks : capTicks s ≤ s.pw.capTicks + 1) :
    RunsSettled (.capIntervalEnd tj w) s fun u =>
      u.get F.PWR_TELEM_AVG_W = w % 2 ^ 11 ∧ u.pw.capTicks = 0 ∧ MemSame s u ∧
      (capOn s = false → u.get F.PWR_STATE_BE_SHARE = s.get F.PWR_STATE_BE_SHARE ∧ u.get F.PWR_STATE_CLK_LEVEL = s.get F.PWR_STATE_CLK_LEVEL) ∧
      (capOn s = true → tj < s.getL F.PWR_THERM_HARD_C → s.flag F.PWR_STATE_THERM_HARD = false → capLimit s < w ∨ s.getL F.PWR_THERM_SOFT_C ≤ tj →
        0 < s.get F.PWR_STATE_BE_SHARE → u.get F.PWR_STATE_BE_SHARE = s.get F.PWR_STATE_BE_SHARE - 25 ∧
          u.get F.PWR_STATE_CLK_LEVEL = s.get F.PWR_STATE_CLK_LEVEL) := by
  obtain ⟨hon, hlimit, hget, hgetL⟩ := capInputs_set s w
  have hkept := tickKept_capControlled (s.set F.PWR_TELEM_AVG_W w) tj w
  have hshare : s.get F.PWR_STATE_BE_SHARE < 256 := bits_lt _ _ _
  refine ⟨_, exec_capIntervalEnd hp hticks, ?_, rfl, fun a => hkept.memSame a, fun hoff => ?_, fun hact hcool hhard hover hsome => ?_⟩
  · exact (hkept.get (by decide) (by decide)).trans (State.get_set_self _ _ (by decide))
  · have hidle : capControlled (s.set F.PWR_TELEM_AVG_W w) tj w = s.set F.PWR_TELEM_AVG_W w := by
      rw [capControlled, if_neg (by rw [hon, hoff]; decide)]
    rw [hidle]
    exact ⟨hget _ rfl, hget _ rfl⟩
  · have hbefore := hget F.PWR_STATE_BE_SHARE rfl
    rw [← hlimit, ← hgetL F.PWR_THERM_SOFT_C rfl] at hover
    obtain ⟨calm, hcut⟩ := capControlled_cut (hon.trans hact) (by rwa [hgetL F.PWR_THERM_HARD_C rfl])
      ((flag_congr (hget F.PWR_STATE_THERM_HARD rfl)).trans hhard) hover (by rwa [hbefore])
    rw [hcut, hbefore, ← hget F.PWR_STATE_CLK_LEVEL rfl]
    refine ⟨(State.get_set_self _ _ (by decide)).trans ?_, State.get_set_apart _ _ (by decide) (by decide)⟩
    exact Nat.mod_eq_of_lt (show s.get F.PWR_STATE_BE_SHARE - 25 < 256 by omega)

/-! ### A day of life accounting -/

theorem runs_pwrLifeWrite (hp : 2 ≤ s.pst) :
    Runs .pwrLifeWrite s fun u => u.get F.PWR_LIFE_POWERED_DAYS = min 0xFFFF (s.get F.PWR_LIFE_POWERED_DAYS + 1) ∧ u.pw.tjSum = 0 ∧
      u.pw.tjTime = 0 ∧ RegsBut s u [F.PWR_LIFE.off] ∧ CntBut s u [] ∧ MemSame s u := by
  have hdays : min 0xFFFF (s.get F.PWR_LIFE_POWERED_DAYS + 1) < 2 ^ 16 := by omega
  refine ⟨_, congrArg Host.Outcome.next (if_neg (Nat.not_lt.mpr hp)), ?_, rfl, rfl, ?_, fun _ _ => rfl, fun _ => rfl⟩
  · refine (State.get_set_apart _ _ (by decide) (by decide)).trans ((State.get_set_self _ _ (by decide)).trans ?_)
    exact Nat.mod_eq_of_lt hdays
  · exact RegsBut.trans (t := s.fresh.2.set F.PWR_LIFE_POWERED_DAYS (min 0xFFFF (s.get F.PWR_LIFE_POWERED_DAYS + 1)))
      (regsBut_set s.fresh.2 F.PWR_LIFE_POWERED_DAYS _) (regsBut_set _ F.PWR_LIFE_TJ_AVG _)

end Sys2Proof.Machine

namespace Sys2Proof.Machine

variable {s : State}

/-! ## The statement of rest and modes -/

/-- The command, on the entries of one offset. -/
theorem runs_marionetteEntryFire {n : Nat} (h : mayFire s n = true) :
    let group := (enabledEntries s).filter fun k => mayFire s k && entryOff s k == entryOff s n
    Runs (.marionetteEntryFire n) s fun u => u.tk.fired = s.tk.fired ++ group ∧ MemSame s u ∧
      u.sy = { s.sy with reqs := s.sy.reqs ++ (group.filter fun k => entryDoes s k 24).map fun k =>
        ⟨81, bits (s.mariWord (4 * k + 1)) 8 12, some (entryCtx s k), .signal (max 1 (bits (s.mariWord (4 * k + 1)) 20 8)), none, k, none⟩ } ∧
      (group = [n] → entryDoes s n 26 = true → ∀ p c, p < 32 → portPresent s p = true → bit (s.mariWord (4 * n + 2)) p = true → c < 8 →
        bit (smGet u.tk.gates p 0) c = (bit (s.mariWord (4 * n + 3)) (8 + c) || (bit (smGet s.tk.gates p 0) c && !bit (s.mariWord (4 * n + 3)) c))) ∧
      (group = [n] → entryDoes s n 26 = false → u.tk.gates = s.tk.gates) := by
  intro group
  obtain ⟨hfired, hsy⟩ := foldl_fireEntry s group
  have hkept : TickKept s (group.foldl fireEntry s) [] := .foldl (fun t k => tickKept_fireEntry t k []) group s
  have hone (hg : group = [n]) : (group.foldl fireEntry s).tk = (entryFired s n).tk := by
    rw [hg]
    exact fireEntry_tk s n
  refine ⟨_, exec_marionetteEntryFire s h, hfired, hkept.memSame, hsy, fun hg hgate p c hp hpres hbit hc => ?_, fun hg hgate => ?_⟩
  · rw [hone hg]
    exact bit_gates_entryFired s hgate (mem_firedPorts s hp hpres hbit) hc
  · rw [hone hg]
    exact foldl_portGates_of_closed s hgate _ _

theorem runs_tickBoundary (tj v54 : Nat) (hp : 2 ≤ s.pst) (hh : s.pw.held = false) :
    RunsSettled (.tickBoundary tj v54) s fun u => u.tk.num = s.nextNum % 2 ^ 64 ∧ u.tk.nextNum = none ∧
      u.tk.count = s.tk.count + 1 ∧ u.get F.PWR_STATE_TJ_MAX = min 255 tj ∧ u.get F.PWR_TELEM_V54_QV = min 255 v54 ∧ MemSame s u ∧
      (115 ≤ tj → (1, 0, 0) ∈ u.fc.raised) ∧ (s.pst = 3 ∨ s.pst = 4 → s.tk.locked = true → .tickOut (s.boundaryNs s.nextNum % 2 ^ 64) ∈ u.out) ∧
      (s.pst = 3 → ∀ t, t.slot < 8 → (s.thr t).st = .parked → (s.thr t).pend = .twait none → (u.thr t).st = .ready) := by
  obtain ⟨hnum, hnext, hcount⟩ := (tickKept_afterAdvance s tj v54).tick
  refine ⟨_, exec_tickBoundary s hp hh, hnum.trans ?_, hnext, hcount.trans ?_, tjMax_boundaryDone s tj v54, v54Qv_boundaryDone s tj v54,
    memSame_boundaryDone s tj v54, raised_boundaryDone s v54, tickOut_boundaryDone s tj v54,
    fun ha t _ hst hpend => ready_boundaryDone s tj v54 ha (.inr ⟨hst, hpend⟩)⟩
  · show (telemetry s tj v54).nextNum % 2 ^ 64 = _
    rw [nextNum_telemetry]
  · show (telemetry s tj v54).tk.count + 1 = _
    rw [telemetry_tk]

/-- Settles O59: a clause per command, each from what the command's own operations do; TickKept carries the rest of a boundary. -/
theorem restAndModes : Obligations.RestAndModes := by
  intro s ev mev epoch
  refine ⟨?_, ?active, ?rest, ?modes, fun tj v54 hp hh => runs_tickBoundary tj v54 hp hh,
    fun hp tj w hticks => runs_capIntervalEnd hp hticks,
    fun hp hf v => ⟨runs_pwrCapWrite hp hf v, fun horder hmax => runs_pwrThermWrite hp hf v horder hmax⟩, runs_pwrLifeWrite⟩
  · rintro c (rfl | rfl) hp hs
    · exact runs_pwrCmd_ignored rfl hp hs
    · exact runs_pwrCmd_ignored rfl hp hs
  case active =>
    intro ha
    refine ⟨fun hf hd hr => ?_, fun hf hd hr hm => ?_, fun hf hr hm => ?_, fun dl hdl => ⟨fun he => ?_, fun he hl hn => ?_⟩⟩
    · exact ⟨_, (exec_restRequest_active ha hf).trans (congrArg _ (pwrOp_resident ha hd hr)), pwrEvent_refusal s (by decide)⟩
    · exact ⟨_, (exec_restRequest_active ha hf).trans (congrArg _ (pwrOp_pending ha hd hr hm)), pwrEvent_refusal s (by decide)⟩
    · exact ⟨_, (exec_restRequest_active ha hf).trans (congrArg _ (pwrOp_drain ha hr hm)), rfl⟩
    · exact ⟨_, exec_restDrainDone ha hdl he, rfl⟩
    · exact runs_restDrainTimeout ha hdl he hl hn
  case rest =>
    intro hr
    refine ⟨fun hf => ?_, fun hf hx => runs_restExitRequest hr hf hx, fun b hx => ⟨fun n hn hb => ?_, fun hb hn => runs_restExitCommit hr hx hb hn,
      runs_restExitArmTimeout hr hx⟩⟩
    · have hop : pwrOp s 1 = pwrEvent s 5 := by simp [pwrOp, hr]
      obtain ⟨hans, hpw, -⟩ := pwrEvent_refusal s (last := 5) (by decide)
      exact ⟨_, congrArg Host.Outcome.next ((fnCmd_rest (f := fun s => pwrOp s 1) hf hr).trans hop), hans, hpw⟩
    · exact ⟨_, exec_restExitUnitArmed hr hx hn hb, rfl⟩
  case modes =>
    intro ha
    refine ⟨fun c tick swap hf hc => runs_modeCmd ha hf hc, fun c hc => ⟨fun armed hk hat => ⟨_, exec_modeArm ha hc hk hat, rfl⟩,
      fun armed hk hat => ⟨fun n swap hna hkind => ?_, fun hna hkind => ?_, fun hna hp => ?_, fun n swap hna hp hkind => ?_⟩⟩,
      fun n h => runs_marionetteEntryFire h⟩
    · exact runs_modeCommit_cmd ha hc hk hat hna hkind
    · exact runs_modeCommit_rest ha hc hk hat hna hkind
    · exact runs_modePostponed ha hc hk hat hna hp
    · exact runs_modeAbort ha hc hk hat hna hp hkind

end Sys2Proof.Machine

/-! ## Reduction engines: starts and remainders (R107, R108, R207, R211, R215) -/

namespace Sys2Proof.Machine

variable {s : State} {e : Nat} {d : Desc}

/-! ### What the command does -/

/-- What a reduction engine does with the choice that it has made. -/
def redTakes (s : State) (e : Nat) : Next → State
  | .none => s
  | .resume r => resumeRun s e r
  | .remainder r => remStart s e r
  | .over d => refuseOver s e d
  | .start d => redStart (chargeStart s e d) e d

theorem exec_redDescriptorStart {x : Next} (ha : s.pst = 3) (he : e < nEng s) (hk : e % 4 = 0) (hf : s.engFenced e = false)
    (hx : pickNext s e = x) : exec (.redDescriptorStart e) s = .next (settle (redTakes s e x)) := by
  have hserves : ¬ ((decide (nEng s ≤ e) || decide (e % 4 ≠ 0) || s.engFenced e) = true) := by simp [he, hk, hf]
  show Host.Outcome.next (inActive s _) = _
  subst hx
  rw [inActive, if_pos ha, if_neg hserves]
  cases pickNext s e <;> rfl

theorem exec_redRemainderDelivered {q : Run} {rest : List Run} (ha : s.pst = 3) (h : (s.engine e).incoming = q :: rest) :
    exec (.redRemainderDelivered e) s = .next
      ((s.setEngine e { s.engine e with incoming := rest, remainder := q :: (s.engine e).remainder }).count (F.RED_REISSUE_IN (e / 4))) := by
  show Host.Outcome.next (inActive s _) = _
  simp only [inActive, if_pos ha, h]

/-- With no run on the engine and every run that was set aside still parked, a remainder goes ahead of the queue (R211). -/
theorem pickNext_remainder {q : Run} {rest : List Run} (hrun : (s.engine e).run = none) (hrem : (s.engine e).remainder = q :: rest)
    (hcyc : cyclesLeft s e = true) (haside : ∀ x ∈ (s.engine e).aside, x.park ≠ none) : pickNext s e = .remainder q := by
  have hparked : (s.engine e).aside.find? (fun r => r.park.isNone) = none :=
    List.find?_eq_none.2 fun x hx => by simpa using haside x hx
  simp [pickNext, pickNextBy, hrun, hparked, hrem, hcyc]

/-! ### What the parts of a start leave alone -/

/-- Charging a start changes the cycles used and the engine: the descriptor leaves the queue, and the run stays. -/
theorem chargeStart_eq (s : State) (e : Nat) (d : Desc) :
    ∃ used g, chargeStart s e d = State.setEngine { s with en := { s.en with used := used } } e g ∧
      g.queue = (s.engine e).queue.erase d ∧ g.run = (s.engine e).run := by
  unfold chargeStart
  dsimp only
  split <;> exact ⟨_, _, rfl, rfl, rfl⟩

/-- Counting an engine's cycles changes counters, and takes a free value where the descriptor failed. -/
theorem countBusy_eq (s : State) (e cost code : Nat) : ∃ m f, countBusy s e cost code = { s with cnt := m, free := f } := by
  unfold countBusy
  split
  next n t h =>
    obtain ⟨f, ht⟩ : ∃ f, t = { s with free := f } := by
      split at h <;> cases h <;> exact ⟨_, rfl⟩
    subst ht
    split <;> exact ⟨_, _, rfl⟩

/-- A reduction writes nothing into its record as it ends, and shows no code (R203). -/
theorem finishNone_reduction (s : State) (code : Nat) (hd : dKind d.w = 0) : finishNone s d code = s.endDesc d code := by
  simp [finishNone, finishDesc, startTail, noteCode, hd]

/-- A reduction that is refused changes counters and free values, and ends. -/
theorem refuseTaken_reduction (s : State) (code : Nat) (hd : dKind d.w = 0) :
    ∃ m f, refuseTaken s d code = State.endDesc { s with cnt := m, free := f } d code := by
  obtain ⟨m, f, h⟩ := countBusy_eq s d.eng (descCost s d.w d.no).1 code
  exact ⟨m, f, by rw [refuseTaken, h, finishNone_reduction _ _ hd]⟩

theorem noteOverrun_eq (s : State) (p : Program) : ∃ m q, noteOverrun s p = { s with cnt := m, sq := q } := by
  unfold noteOverrun
  split
  · exact ⟨_, _, rfl⟩
  · split <;> exact ⟨_, _, rfl⟩

/-- Stopping the thread of a descriptor over its declaration changes counters and the sequencers. -/
theorem stopOverrun_eq (s : State) (d : Desc) : ∃ m q, stopOverrun s d = { s with cnt := m, sq := q } := by
  unfold stopOverrun
  dsimp only
  split
  · split
    next p _ =>
      obtain ⟨m, q, h⟩ := noteOverrun_eq _ p
      exact ⟨m, q, h⟩
    · exact ⟨_, _, rfl⟩
  · exact ⟨_, _, rfl⟩

/-! ### The checks of a start -/

theorem descCost_reduction (s : State) (no : Nat) {w : BitVec 256} (hw : dKind w = 0) : descCost s w no = redCost w (dCount w) := by
  simp [descCost, hw]

/-- Counters and engines are no part of the translation of addresses. -/
theorem segsCover_cnt_en (s : State) (m : SMap Nat) (en : Eng) (w : Who) (rights ctx no stop fuel a : Nat) :
    segsCover { s with cnt := m, en := en } w rights ctx no stop fuel a = segsCover s w rights ctx no stop fuel a := by
  induction fuel generalizing a with
  | zero => rfl
  | succ k ih =>
    simp only [segsCover, ih]
    rfl

theorem opCovered_cnt_en (s : State) (m : SMap Nat) (en : Eng) (w : Who) (rights ctx no a n : Nat) :
    opCovered { s with cnt := m, en := en } w rights ctx no a n = opCovered s w rights ctx no a n := by
  simp only [opCovered, segsCover_cnt_en]
  rfl

theorem redOperandsOk_cnt_en (s : State) (m : SMap Nat) (en : Eng) (d : Desc) (r : List Byte) :
    redOperandsOk { s with cnt := m, en := en } d r = redOperandsOk s d r := by
  simp only [redOperandsOk, opCovered_cnt_en]
  rfl

@[simp] theorem State.count_engine (s : State) (f : RF) (n k : Nat) : (s.count f n).engine k = s.engine k := rfl

theorem redStart_badFields (h : redFieldsOk d.w = false) :
    redStart s e d = refuseTaken (s.count (F.RED_DESCRIPTORS (e / 4))) d 0x20 := by
  simp [redStart, h]

/-- Without a record, a descriptor whose operands are in place runs from output tile 0. -/
theorem redStart_noRecord (hd : dKind d.w = 0) (hf : redFieldsOk d.w = true) (hp : redPrm d.w = false) (ho : redOperandsOk s d [] = true) :
    redStart s e d = (s.count (F.RED_DESCRIPTORS (e / 4))).setEngine e
      { s.engine e with run := some { d := d, cost := (redCost d.w (dCount d.w)).1 } } := by
  have hops : redOperandsOk (s.count (F.RED_DESCRIPTORS (e / 4))) d [] = true := (redOperandsOk_cnt_en s _ s.en d []).trans ho
  simp [redStart, hf, hp, hops, descCost_reduction _ _ hd]

/-! ### The choices one by one -/

/-- The descriptor leaves the engine's queue and ends with a code: the engine's run, the registers and memory are as before. -/
structure RedEnds (s u : State) (e : Nat) (d : Desc) (code : Nat) : Prop where
  ended : u.en.ended = s.en.ended ++ [⟨d, code⟩]
  run : (u.engine e).run = (s.engine e).run
  queue : (u.engine e).queue = (s.engine e).queue.erase d
  regs : RegsBut s u []
  mem : MemSame s u

theorem redEnds_endDesc (s : State) (e : Nat) (d : Desc) (code : Nat) (used : SMap (Nat × Nat)) (g : Engine) (m : SMap Nat) (q : Seq) (f : Nat)
    (hq : g.queue = (s.engine e).queue.erase d) (hr : g.run = (s.engine e).run) :
    RedEnds s (State.endDesc { State.setEngine { s with en := { s.en with used := used } } e g with cnt := m, sq := q, free := f } d code) e d code := by
  have heng : (State.setEngine { s with en := { s.en with used := used } } e g).engine e = g := State.engine_setEngine_self _ e g
  exact ⟨rfl, (congrArg Engine.run heng).trans hr, (congrArg Engine.queue heng).trans hq, fun _ _ => rfl, fun _ => rfl⟩

/-- Fields outside the valid combinations: the descriptor ends with SEG_FAULT (R215). -/
theorem redTakes_badFields (hd : dKind d.w = 0) (hf : redFieldsOk d.w = false) : RedEnds s (redTakes s e (.start d)) e d 0x20 := by
  obtain ⟨used, g, hc, hq, hr⟩ := chargeStart_eq s e d
  obtain ⟨m, f, hu⟩ := refuseTaken_reduction ((chargeStart s e d).count (F.RED_DESCRIPTORS (e / 4))) 0x20 hd
  rw [redTakes, redStart_badFields hf, hu, hc]
  exact redEnds_endDesc s e d 0x20 used g m s.sq f hq hr

/-- Over its declaration, it ends with TICK_OVERRUN (R108). -/
theorem redTakes_over (hd : dKind d.w = 0) : RedEnds s (redTakes s e (.over d)) e d 0x61 := by
  obtain ⟨m, q, hu⟩ := stopOverrun_eq (s.setEngine e { s.engine e with queue := (s.engine e).queue.erase d }) d
  rw [redTakes, refuseOver, hu, finishNone_reduction _ _ hd]
  exact redEnds_endDesc s e d 0x61 s.en.used _ m q s.free rfl rfl

/-- With its operands in place and no record, it runs from output tile 0 (R207, R215). -/
theorem redTakes_noRecord (hd : dKind d.w = 0) (hf : redFieldsOk d.w = true) (hp : redPrm d.w = false) (ho : redOperandsOk s d [] = true) :
    let u := redTakes s e (.start d)
    u.en.ended = s.en.ended ∧ (u.engine e).run = some { d := d, cost := (redCost d.w (dCount d.w)).1 } ∧
      (u.engine e).queue = (s.engine e).queue.erase d ∧ RegsBut s u [] ∧ MemSame s u := by
  intro u
  obtain ⟨used, g, hc, hq, -⟩ := chargeStart_eq s e d
  have hops : redOperandsOk (chargeStart s e d) d [] = true := by
    rw [hc]
    exact (redOperandsOk_cnt_en s s.cnt _ d []).trans ho
  have hu : u = _ := redStart_noRecord (s := chargeStart s e d) hd hf hp hops
  rw [hu, State.engine_setEngine_self, hc]
  exact ⟨rfl, rfl, (congrArg Engine.queue (State.engine_setEngine_self _ e g)).trans hq, fun _ _ => rfl, fun _ => rfl⟩

/-- A remainder leaves its place and runs from the tile that failed, at the cost of its remaining elements; no program is charged (R207, R211). -/
theorem redTakes_remainder {q : Run} {rest : List Run} (hrem : (s.engine e).remainder = q :: rest) :
    let u := redTakes s e (.remainder q)
    (u.engine e).remainder = rest ∧ (u.engine e).queue = (s.engine e).queue ∧
      (u.engine e).run = some { q with cost := (redCost q.d.w (dCount q.d.w - tileFirst q.d.w q.pos)).1 } ∧
      u.en.used = s.en.used ∧ RegsBut s u [] ∧ MemSame s u := by
  intro u
  have heng : u.engine e = _ := State.engine_setEngine_self s e _
  rw [heng, hrem]
  exact ⟨rfl, rfl, rfl, rfl, fun _ _ => rfl, fun _ => rfl⟩

/-- A remainder that arrives stands at the head of the engine's queue, and is counted (R211). -/
theorem remainder_delivered {q : Run} {rest : List Run} :
    let u := (s.setEngine e { s.engine e with incoming := rest, remainder := q :: (s.engine e).remainder }).count (F.RED_REISSUE_IN (e / 4))
    u.engine e = { s.engine e with incoming := rest, remainder := q :: (s.engine e).remainder } ∧
      (∀ k, k ≠ e → u.engine k = s.engine k) ∧ u.en.ended = s.en.ended ∧ Counted s u (F.RED_REISSUE_IN (e / 4)) ∧
      CntBut s u [F.RED_REISSUE_IN (e / 4)] ∧ RegsBut s u [] ∧ MemSame s u :=
  ⟨State.engine_setEngine_self s e _, fun _ hk => State.engine_setEngine_ne s _ hk, rfl, State.live_count_self _ _ 1,
    fun _ hk => smGet_smSet_ne _ _ _ (by simpa using hk), fun _ _ => rfl, fun _ => rfl⟩

/-! ### The statements -/

/-- Settles O29: each choice of the engine, from what its charge and its checks leave. -/
theorem reductionStart : Obligations.ReductionStart := by
  intro s e d ha he hk hf
  refine ⟨fun hn hd hbad => ⟨_, exec_redDescriptorStart ha he hk hf hn, ?_⟩,
    fun hn hd hok hp ho => ⟨_, exec_redDescriptorStart ha he hk hf hn, redTakes_noRecord hd hok hp ho⟩,
    fun hn hd => ⟨_, exec_redDescriptorStart ha he hk hf hn, ?_⟩⟩
  · obtain ⟨hended, hrun, hqueue, hregs, hmem⟩ := redTakes_badFields (s := s) (e := e) hd hbad
    exact ⟨hended, hrun, hqueue, hregs, hmem⟩
  · obtain ⟨hended, -, hqueue, hregs, hmem⟩ := redTakes_over (s := s) (e := e) hd
    exact ⟨hended, hqueue, hregs, hmem⟩

/-- Settles O31, from the remainder's arrival and its start ahead of the queue. -/
theorem reductionRemainder : Obligations.ReductionRemainder := by
  intro s f q rest ha hf hk
  refine ⟨fun hin => ⟨_, exec_redRemainderDelivered ha hin, remainder_delivered⟩, fun hfen hrun hrem hcyc haside => ?_⟩
  exact ⟨_, exec_redDescriptorStart ha hf hk hfen (pickNext_remainder hrun hrem hcyc haside), redTakes_remainder hrem⟩

end Sys2Proof.Machine

/-! ## Instructions that are issued (R127, R157) -/

namespace Sys2Proof.Machine

variable {s u : State} {t : Th} {c : Instr} {p : Program}

/-- An instruction whose meaning is to write a general register and go on. -/
theorem wroteG_of_issues (h : Issues s t c p) {gd : Nat} {f : Thread → Word}
    (e : exec c s = .next (issueAt s t c (stepTo t fun x => x.setG gd (f x)))) :
    ∃ u, exec c s = .next u ∧ WroteG s u t gd (f (s.thr t)) :=
  ⟨_, answers_of h e, wroteG_setG gd _⟩

/-- Settles O7: each ALU instruction writes its result to gd and goes on. -/
theorem aluResult : Obligations.AluResult := by
  intro s t p gd ga b a v
  exact ⟨fun h => wroteG_of_issues h rfl, fun h => wroteG_of_issues h rfl, fun h => wroteG_of_issues h rfl, fun h => wroteG_of_issues h rfl,
    fun h => wroteG_of_issues h rfl, fun h => wroteG_of_issues h rfl, fun h => wroteG_of_issues h rfl, fun h => wroteG_of_issues h rfl,
    fun h => wroteG_of_issues h rfl⟩

theorem cntBut_issued (s : State) (t : Th) : CntBut s (issued s t) [F.SEQ_ISSUED t.dom] :=
  fun _ hk => smGet_smSet_ne _ _ _ (by simpa using hk)

/-- What issues without its instruction being recognized: a word that `ok` accepts, with no other thread Ready. -/
theorem issueWord_of {ok : Nat → Bool} {w : Nat} (body : State → Thread → Program → State) (ha : s.pst = 3) (hr : (s.thr t).st = .ready)
    (hd : t.dom < nDom s) (hs : t.slot < 8) (hp : s.prog t = some p) (hx : xbarBlocked s t = false) (ho : otherReady s t = false)
    (hw : fetch s t (s.thr t) p = .word w) (hok : ok w = true) : issueWord s t ok body = body (issued s t) (s.thr t) p := by
  simp [issueWord, ha, hr, hd, hs, hp, hx, ho, hw, hok, issued]

/-! ## Threads that halt (R135–R137) -/

/-- A thread of program `p` has halted at its instruction while another goes on: it keeps all but its state, a fault asks the others to stop,
and of the registers, counters and bytes only the count of issued instructions has changed. -/
structure HaltedOn (s u : State) (t : Th) (p : Program) (kind trap : Nat) : Prop where
  thread : u.thr t = { s.thr t with st := .halted, cause := 0, pend := .none, stop := none, kind := kind, code := kindCode kind trap }
  others : ∀ v, thKey v ≠ thKey t →
    u.thr v = if kind ≠ 0 ∧ ∃ j ∈ p.slots, thKey ⟨p.dom, j⟩ = thKey v then (s.thr v).reqStop kind else s.thr v
  regs : RegsBut s u []
  cnt : CntBut s u [F.SEQ_ISSUED t.dom]
  mem : MemSame s u
  out : u.out = s.out

theorem haltedOn_haltThread (kind trap : Nat) (hp : s.prog t = some p)
    (ho : ∃ k ∈ p.slots, thKey ⟨p.dom, k⟩ ≠ thKey t ∧ (s.thr ⟨p.dom, k⟩).st ≠ .halted) :
    HaltedOn s (haltThread (issued s t) t kind trap) t p kind trap := by
  obtain ⟨hthread, hothers, hrest, -⟩ := haltThread_on (s := issued s t) kind trap hp ho
  refine ⟨hthread, hothers, ?_, ?_, ?_, ?_⟩ <;> rw [hrest]
  · exact fun _ _ => rfl
  · exact cntBut_issued s t
  · exact fun _ => rfl
  · rfl

/-- A stop that is asked for stands, unless one was pending. -/
theorem reqStop_stop {x : Thread} (kind : Nat) (hf : x.st ≠ .free) (hh : x.st ≠ .halted) : (x.reqStop kind).stop = some (x.stop.getD kind) := by
  simp [Thread.reqStop, hf, hh]

/-- A fault asks every other thread of the program to stop. -/
theorem HaltedOn.stops {kind trap : Nat} (h : HaltedOn s u t p kind trap) (hk : kind ≠ 0) {k : Nat} (hslot : k ∈ p.slots)
    (hne : thKey ⟨p.dom, k⟩ ≠ thKey t) (hf : (s.thr ⟨p.dom, k⟩).st ≠ .free) (hh : (s.thr ⟨p.dom, k⟩).st ≠ .halted) :
    (u.thr ⟨p.dom, k⟩).stop = some ((s.thr ⟨p.dom, k⟩).stop.getD kind) := by
  rw [h.others _ hne, if_pos ⟨hk, k, hslot, rfl⟩, reqStop_stop kind hf hh]

/-- The last thread of a program halts: the program is gone, its slots are Free, memory stays, and its domain shows an event where its code,
which the first fault decides, is not SUCCESS. -/
theorem haltThread_completes (kind trap : Nat) (hp : s.prog t = some p)
    (hall : ∀ k ∈ p.slots, thKey ⟨p.dom, k⟩ ≠ thKey t → (s.thr ⟨p.dom, k⟩).st = .halted) (hs : anySaved s p = false) (hd : p.dom < 16) :
    let u := haltThread (issued s t) t kind trap
    smFind u.sq.progs (progKey p.dom p.num) = none ∧ (∀ k ∈ p.slots, (u.thr ⟨p.dom, k⟩).st = .free) ∧ MemSame s u ∧
      (kind = 0 → p.decided = none → u.get (F.SEQ_EVENT_SEQ p.dom) = s.get (F.SEQ_EVENT_SEQ p.dom)) ∧
      (kind ≠ 0 → kindCode kind trap ≠ 0 → p.decided = none →
        u.get (F.SEQ_EVENT_SEQ p.dom) = seqNext (s.get (F.SEQ_EVENT_SEQ p.dom)) ∧
          u.get (F.SEQ_EVENT_LAST_KIND p.dom) = kind % 16 ∧ u.get (F.SEQ_EVENT_LAST_THREAD p.dom) = t.slot % 8) := by
  intro u
  obtain ⟨a, q, tail, code, kd, slot, hu, hslots, hdom, hnum, hregs, hvar, hmem, hcode⟩ := haltThread_last (s := issued s t) kind trap hp hall hs
  obtain ⟨hgone, hfree, hbytes, hquiet, hevent⟩ := completeProgram_spec a q tail code kd slot
  have hget (f : RF) : a.get f = s.get f := by rw [State.get, State.get, State.reg, State.reg, hregs, hvar]; rfl
  rw [← hu, hdom, hnum] at hgone
  rw [← hu, hslots, hdom] at hfree
  rw [← hu] at hbytes
  rw [← hu, hdom, hget] at hquiet hevent
  refine ⟨hgone, hfree, fun b => (hbytes b).trans (memSame_of_mem (s := s) (t := a) hmem hvar b), fun h0 hn => hquiet hd ?_, fun h0 hk hn => ?_⟩
  · rw [(hcode hn).1, if_pos h0]
  · obtain ⟨hc, rfl, rfl⟩ := hcode hn
    exact hevent hd (by rwa [hc, if_neg h0])

/-- An instruction that faults as it is issued. -/
theorem exec_fault {kind : Nat} (h : Issues s t c p) {body : State → Thread → Program → State} (e : exec c s = .next (issueAt s t c body))
    (hb : body (issued s t) (s.thr t) p = faultThread (issued s t) t kind) : exec c s = .next (faultThread (issued s t) t kind) :=
  (answers_of h e).trans (congrArg _ hb)

theorem syncAsk_fault {obj : Nat} (s : State) (t : Th) (x : Thread) (ctx : Option Nat) (op : SyncOp) (h : 4096 ≤ obj) :
    syncAsk s t x obj ctx op = faultThread s t 3 := if_pos h

/-- Settles O12: each of the checks fails and the thread faults, while another thread of its program goes on. -/
theorem threadFaults : Obligations.ThreadFaults := by
  intro s t p c kind gd dd pd ga gb idx ticks eng code er nf off x big e h ho hwhy
  have hexec : exec c s = .next (faultThread (issued s t) t kind) ∧ kind ≠ 0 := by
    rcases hwhy with ⟨rfl, hbad, rfl⟩ | ⟨rfl, hpriv, rfl⟩ | ⟨rfl, hbig, rfl⟩ | ⟨rfl, hbig, rfl⟩ | ⟨rfl, hbig, rfl⟩ | ⟨rfl, hbig, rfl⟩ |
      ⟨rfl, hown, rfl⟩ | ⟨rfl, heng, hkind, rfl⟩ | ⟨rfl, hkind, rfl⟩ <;> refine ⟨exec_fault h rfl ?_, by decide⟩
    · exact if_pos hbad
    · exact if_pos (by rw [hpriv]; rfl)
    · exact syncAsk_fault _ _ _ _ _ hbig
    · exact syncAsk_fault _ _ _ _ _ hbig
    · exact syncAsk_fault _ _ _ _ _ hbig
    · exact syncAsk_fault _ _ _ _ _ hbig
    · exact if_pos (congrArg (!·) hown)
    · exact if_pos (Bool.and_eq_true_iff.2 ⟨decide_eq_true heng, decide_eq_true hkind⟩)
    · exact if_pos hkind
  obtain ⟨hexec, hk⟩ := hexec
  have hon := haltedOn_haltThread kind 0 h.prog ho
  exact ⟨_, hexec, hon.thread, fun k hslot hne hf hh => hon.stops hk hslot hne hf hh, hon.regs, hon.cnt, hon.mem⟩

/-- Settles O13: a halt with another thread that goes on, and the last one's. -/
theorem haltResult : Obligations.HaltResult := by
  intro s t p h
  have hexec : exec (.halt t) s = .next (haltThread (issued s t) t 0 0) := answers_of h rfl
  refine ⟨fun ho => ⟨_, hexec, ?_⟩, fun hall hs hd => ⟨_, hexec, ?_⟩⟩
  · have hon := haltedOn_haltThread 0 0 h.prog ho
    refine ⟨by rw [hon.thread], by rw [hon.thread], by rw [hon.thread], fun v hv => ?_, hon.regs, hon.cnt, hon.mem, hon.out⟩
    rw [hon.others v hv, if_neg fun h0 => h0.1 rfl]
  · obtain ⟨hgone, hfree, hmem, hquiet, -⟩ := haltThread_completes 0 0 h.prog hall hs hd
    exact ⟨hgone, hfree, hmem, hquiet rfl⟩

theorem kindCode_trap_ne_zero (code : Nat) : kindCode 6 code ≠ 0 := by
  simp only [kindCode]
  split
  next hc => simpa using (Bool.and_eq_true_iff.1 hc).2
  next => decide

/-- Settles O14: both fault as the last thread of their program. -/
theorem trapAndUndefined : Obligations.TrapAndUndefined := by
  intro s t p code w last event
  have hevent {kind trap : Nat} (hp : s.prog t = some p) (hslot : t.slot < 8) (hlast : last) (hd : p.dom < 16) (h0 : kind ≠ 0) (hk : kind < 16)
      (hcode : kindCode kind trap ≠ 0) : event (faultThread (issued s t) t kind trap) kind := by
    obtain ⟨hall, hs, hnone⟩ := hlast
    obtain ⟨hgone, hfree, -, -, hshown⟩ := haltThread_completes kind trap hp hall hs hd
    obtain ⟨hseq, hkind, hthread⟩ := hshown h0 hcode hnone
    exact ⟨hgone, hfree, hseq, hkind.trans (Nat.mod_eq_of_lt hk), hthread.trans (Nat.mod_eq_of_lt hslot)⟩
  refine ⟨fun h hlast hd => ⟨_, answers_of h rfl, ?_⟩, fun ha hr hdom hslot hp hx ho hw hnone hlast hd => ⟨faultThread (issued s t) t 1, ?_, ?_⟩⟩
  · exact hevent h.prog h.slot hlast hd (by decide) (by decide) (kindCode_trap_ne_zero code)
  · exact congrArg Host.Outcome.next (issueWord_of _ ha hr hdom hslot hp hx ho hw (by simp [hnone]))
  · exact hevent hp hslot hlast hd (by decide) (by decide) (by decide)

/-! ## Pre-emption points (R135, R166) -/

theorem preempt_runs (hs : (s.thr t).stop = none) (hf : (s.thr t).freeze = false) : preempt s t = s := by
  simp [preempt, hs, hf]

theorem preempt_stops {k : Nat} (hs : (s.thr t).stop = some k) : preempt s t = haltThread s t k 0 := by
  simp [preempt, hs]

theorem prog_setThr_self {y : Thread} (h : y.prog = (s.thr t).prog) : (s.setThr t y).prog t = s.prog t := by
  rw [State.prog, State.prog, State.thr_setThr_self, h]
  rfl

/-- The thread that has just issued has its new state, and the domain's next turn is another's (R166). -/
def yielded (s : State) (t : Th) (x : Thread) (n : Nat) : State :=
  let u := (issued s t).setThr t x
  { u with sq := { u.sq with last := smPut 0 u.sq.last t.dom n } }

theorem onlyThread_yielded (s : State) (t : Th) (x : Thread) (n : Nat) : OnlyThread s (yielded s t x n) t where
  rest := rfl
  sq := rfl
  others _ hv := State.thr_setThr_ne (issued s t) x hv
  cnt := cntBut_issued s t
  issued := by simp [yielded, issued, State.setThr, State.live, State.count]
  mem _ := rfl

theorem yielded_last (s : State) (t : Th) (x : Thread) (n : Nat) : smGet (yielded s t x n).sq.last t.dom 0 = n := smGet_smPut_self _ _ _ _

theorem exec_step (h : Issues s t (.step t) p) :
    exec (.step t) s = .next (preempt ((issued s t).setThr t { s.thr t with steps := (s.thr t).steps + 1, pc := (s.thr t).pc + 8#64 }) t) :=
  answers_of h rfl

theorem exec_yield (h : Issues s t (.yield t) p) :
    let x := s.thr t
    let u := preempt ((issued s t).setThr t { x with pc := x.pc + 8#64 }) t
    exec (.yield t) s = .next (if x.stop.isNone && !x.freeze && otherReady s t
      then { u with sq := { u.sq with last := smPut 0 u.sq.last t.dom (x.live + 1) } } else u) :=
  answers_of h rfl

/-- With no stop and no freeze pending, YIELD gives its turn to another thread that is Ready. -/
theorem exec_yield_runs (h : Issues s t (.yield t) p) (hs : (s.thr t).stop = none) (hf : (s.thr t).freeze = false) :
    let y : Thread := { s.thr t with pc := (s.thr t).pc + 8#64 }
    exec (.yield t) s = .next (if otherReady s t then yielded s t y ((s.thr t).live + 1) else (issued s t).setThr t y) := by
  intro y
  have hgo : preempt ((issued s t).setThr t y) t = (issued s t).setThr t y :=
    preempt_runs (by rw [State.thr_setThr_self]; exact hs) (by rw [State.thr_setThr_self]; exact hf)
  rw [exec_yield h, hgo, hs, hf]
  rfl

/-- A stop that is pending halts the thread at either instruction, after it has moved on to `y`. -/
theorem haltThread_stop {y : Thread} (k : Nat) (hp : s.prog t = some p) (hy : y.prog = (s.thr t).prog)
    (ho : ∃ j ∈ p.slots, thKey ⟨p.dom, j⟩ ≠ thKey t ∧ (s.thr ⟨p.dom, j⟩).st ≠ .halted) :
    HaltedOn (s.setThr t y) (haltThread ((issued s t).setThr t y) t k 0) t p k 0 := by
  obtain ⟨j, hj, hne, hst⟩ := ho
  exact haltedOn_haltThread (s := s.setThr t y) k 0 ((prog_setThr_self hy).trans hp) ⟨j, hj, hne, by rwa [s.thr_setThr_ne y hne]⟩

/-- Settles O15: what is pending decides at the pre-emption point. -/
theorem preemptionPoints : Obligations.PreemptionPoints := by
  intro s t p c hc h x y
  have hy : y.stop = x.stop ∧ y.freeze = x.freeze ∧ y.prog = x.prog ∧ y.gr = x.gr := by
    by_cases hstep : c = .step t
    · rw [show y = _ from if_pos hstep]
      exact ⟨rfl, rfl, rfl, rfl⟩
    · rw [show y = _ from if_neg hstep]
      exact ⟨rfl, rfl, rfl, rfl⟩
  obtain ⟨hstop, hfreeze, hprog, hgr⟩ := hy
  refine ⟨fun hs hf => ?_, fun k hs ho => ?_⟩
  · rcases hc with rfl | rfl
    · refine ⟨_, (exec_step h).trans (congrArg _ (preempt_runs ?_ ?_)), onlyThread_setThr _, ?_, nofun⟩ <;> rw [State.thr_setThr_self]
      · exact hs
      · exact hf
      · exact (if_pos rfl).symm
    · refine ⟨_, exec_yield_runs h hs hf, ?_⟩
      split
      next hready =>
        exact ⟨onlyThread_yielded _ _ _ _, State.thr_setThr_self (issued s t) t _, fun _ _ => yielded_last _ _ _ _⟩
      next hready =>
        exact ⟨onlyThread_setThr _, State.thr_setThr_self _ _ _, fun _ ho => absurd ho hready⟩
  · have hexec : exec c s = .next (haltThread ((issued s t).setThr t y) t k 0) := by
      have hhalt : preempt ((issued s t).setThr t y) t = haltThread ((issued s t).setThr t y) t k 0 :=
        preempt_stops (by rw [State.thr_setThr_self, hstop, hs])
      rcases hc with rfl | rfl
      · rw [exec_step h, ← show y = _ from if_pos rfl]
        exact congrArg _ hhalt
      · rw [exec_yield h, if_neg (by simp [show (s.thr t).stop = some k from hs]), ← show y = _ from if_neg nofun]
        exact congrArg _ hhalt
    have hon := haltThread_stop k h.prog hprog ho
    refine ⟨_, hexec, by rw [hon.thread], by rw [hon.thread], ?_, hon.regs, hon.mem⟩
    rw [hon.thread, State.thr_setThr_self]
    exact hgr

/-! ## Requests to the sync units (R138, R179) -/

/-- An object below 4,096: one request is sent, and the thread stays Executing until it is performed. -/
theorem syncAsk_sent {obj : Nat} (ctx : Option Nat) (op : SyncOp) (h : obj < 4096) :
    let r : SyncReq := ⟨t.dom, obj, ctx, op, some (t, (s.thr t).live), 0, none⟩
    let u := syncAsk (issued s t) t (s.thr t) obj ctx op
    u = { s with sq := u.sq, cnt := u.cnt, sy := { s.sy with reqs := s.sy.reqs ++ [r] } } ∧
      u.thr t = { s.thr t with st := .executing, pend := .sync } ∧ ThrBut s u t ∧ CntBut s u [F.SEQ_ISSUED t.dom] ∧ MemSame s u := by
  intro r u
  have hu : u = ((issued s t).setThr t { s.thr t with st := .executing, pend := .sync }).syncSend r := if_neg (by omega)
  rw [hu]
  exact ⟨rfl, State.thr_setThr_self (issued s t) t _, fun v hv => State.thr_setThr_ne (issued s t) _ hv, cntBut_issued s t, fun _ => rfl⟩

/-- Settles O16: each instruction sends its own request. -/
theorem syncRequests : Obligations.SyncRequests := by
  intro s t p c r pd gd ga gb idx ticks off x n v m req hwhy h
  rcases hwhy with ⟨rfl, hobj, rfl⟩ | ⟨rfl, hobj, rfl⟩ | ⟨rfl, hobj, rfl⟩ | ⟨rfl, hobj, rfl⟩ | ⟨rfl, hpriv, hobj, rfl⟩
  · have hamount : (if v.toNat % 2 ^ 32 = 0 then 1 else v.toNat % 2 ^ 32) = max 1 (v.toNat % 2 ^ 32) := by split <;> omega
    rw [hamount]
    exact ⟨_, answers_of h rfl, syncAsk_sent _ _ hobj⟩
  · exact ⟨_, answers_of h rfl, syncAsk_sent _ _ hobj⟩
  · exact ⟨_, answers_of h rfl, syncAsk_sent _ _ hobj⟩
  · exact ⟨_, answers_of h rfl, syncAsk_sent _ _ hobj⟩
  · exact ⟨_, (answers_of h rfl).trans (congrArg _ (if_neg (by rw [hpriv]; decide))), syncAsk_sent _ _ hobj⟩

/-! ## Timed waits and fences (R140, R180, R186) -/

theorem Thread.pr_setP_ne (x : Thread) {n m : Nat} (v : Bool) (h : m ≠ n) : (x.setP n v).pr m = x.pr m := by
  rw [Thread.pr, Thread.setP, BitVec.getLsbD_ofNat]
  have hbit : (putBit x.p.toNat n v).testBit m = x.p.toNat.testBit m := bit_putBits_outside x.p.toNat (b2n v) (n := 1) (by omega)
  rw [hbit]
  by_cases hm : m < 8
  · simp [hm, Thread.pr, BitVec.getLsbD]
  · simp [hm, Thread.pr, BitVec.getLsbD_of_ge _ _ (Nat.le_of_not_lt hm)]

/-- The timer that has expired is that of the thread's own waiter: the waiter goes, and the thread goes on with predicate 0. -/
theorem waitTimeout_eq {w : Waiter} {b pd : Nat} (hw : w ∈ s.sy.waiters) (ht : w.th = t) (he : w.expiry = some (b, pd)) (hb : b ≤ s.tk.count)
    (hone : ∀ v ∈ s.sy.waiters, v.th = t → v = w) :
    waitTimeout s t = State.resume { s with sy := { s.sy with waiters := s.sy.waiters.filter fun v => v.th != t } } t (·.setP pd false) := by
  have hfind : s.sy.waiters.find? (fun w => w.th == t && w.expiry.isSome) = some w := by
    cases hf : s.sy.waiters.find? (fun w => w.th == t && w.expiry.isSome) with
    | none => exact absurd (List.find?_eq_none.1 hf w hw) (by simp [ht, he])
    | some v =>
      have hv := List.find?_some hf
      rw [Bool.and_eq_true, beq_iff_eq] at hv
      rw [hone v (List.mem_of_find?_eq_some hf) hv.1]
  simp only [waitTimeout, hfind, he, if_pos hb]

theorem exec_waittTimeout (ha : s.pst = 3) : exec (.waittTimeout t) s = .next (waitTimeout s t) := by
  show Host.Outcome.next (inActive s _) = _
  rw [inActive, if_pos ha]

/-- A fence as it issues: it goes on where its condition holds, else its thread stays Executing. -/
theorem exec_fence {k : Nat} (h : Issues s t c p) (e : exec c s = .next (issueAt s t c (fenceBody t k))) :
    ∃ u, exec c s = .next u ∧ OnlyThread s u t ∧
      u.thr t = if fenceHolds (s.thr t) k then { s.thr t with pc := (s.thr t).pc + 8#64 }
        else { s.thr t with st := .executing, pend := .fence k } := by
  refine ⟨_, answers_of h e, ?_⟩
  unfold fenceBody
  split <;> exact ⟨onlyThread_setThr _, State.thr_setThr_self _ _ _⟩

/-- A fence that waits goes on once its condition holds. -/
theorem exec_fenceConditionMet {k : Nat} (ha : s.pst = 3) (hp : (s.thr t).pend = .fence k) (hk : fenceHolds (s.thr t) k = true) :
    exec (.fenceConditionMet t) s = .next (s.resume t) := by
  show Host.Outcome.next (inActive s _) = _
  simp only [inActive, if_pos ha, hp, hk, if_true]

/-- Settles O18: the expiry of a timer, TWAIT, and the three fences. -/
theorem timedWaitsAndFences : Obligations.TimedWaitsAndFences := by
  refine ⟨fun s t w b pd ha hw ht he hb hone hpd => ?_, fun s t p mode entry h => ?_, ?_⟩
  · refine ⟨_, (exec_waittTimeout ha).trans (congrArg _ (waitTimeout_eq hw ht he hb hone)), ?_⟩
    simp only [State.resume, State.thr_setThr_self, State.setThr_sy]
    refine ⟨rfl, Thread.pr_setP_self _ _ hpd, fun n hn => Thread.pr_setP_ne _ _ hn, rfl, fun v hv => ?_, trivial, fun v hv => ?_, fun _ _ => rfl,
      fun _ => rfl⟩
    · simpa using (List.mem_filter.1 hv).2
    · exact State.thr_setThr_ne _ _ hv
  · exact ⟨_, answers_of h rfl, onlyThread_setThr _, State.thr_setThr_self _ _ _⟩
  intro s t p x go
  refine ⟨fun h => ?_, fun h => ?_, fun h => ?_, fun ha hmet => ?_⟩
  · obtain ⟨u, hu, honly, hthr⟩ := exec_fence (k := 0) h rfl
    exact ⟨u, hu, honly, by simpa [fenceHolds] using hthr⟩
  · obtain ⟨u, hu, honly, hthr⟩ := exec_fence (k := 1) h rfl
    exact ⟨u, hu, honly, by simpa [fenceHolds] using hthr⟩
  · exact exec_fence (k := 2) h rfl
  · obtain ⟨k, hp, hk⟩ : ∃ k, x.pend = .fence k ∧ fenceHolds x k = true := by
      rcases hmet with ⟨hp, hz⟩ | ⟨hp, hz⟩
      · exact ⟨0, hp, beq_iff_eq.2 hz⟩
      · exact ⟨1, hp, beq_iff_eq.2 hz⟩
    exact ⟨_, exec_fenceConditionMet ha hp hk, State.thr_setThr_self _ _ _, fun v hv => State.thr_setThr_ne _ _ hv, rfl⟩

/-! ## SEQ_STOP (R135, R153) -/

/-- The programs and the names of the threads' programs stay, and of a thread only its pending stop may have changed: to one asked for with `kind`. -/
structure StopsAsked (s u : State) (kind : Nat) : Prop where
  rest : u = { s with sq := u.sq, ho := u.ho }
  progs : u.sq.progs = s.sq.progs
  thread : ∀ v, u.thr v = s.thr v ∨ u.thr v = (s.thr v).reqStop kind

theorem StopsAsked.refl (s : State) (kind : Nat) : StopsAsked s s kind := ⟨rfl, rfl, fun _ => .inl rfl⟩

theorem StopsAsked.trans {a b d : State} {kind : Nat} (h : StopsAsked a b kind) (k : StopsAsked b d kind) : StopsAsked a d kind where
  rest := by rw [k.rest, h.rest]
  progs := k.progs.trans h.progs
  thread v := by
    rcases h.thread v with hv | hv <;> rcases k.thread v with kv | kv <;> rw [hv] at kv
    · exact .inl kv
    · exact .inr kv
    · exact .inr kv
    · exact .inr (kv.trans (reqStop_reqStop _ _))

theorem stopsAsked_stopProgram (s : State) (p : Program) (kind : Nat) : StopsAsked s (stopProgram s p kind) kind := by
  refine ⟨?_, ?_, fun v => ?_⟩
  · obtain ⟨m, z, h⟩ := stopProgram_eq s p kind
    rw [h]
  · obtain ⟨m, z, h⟩ := stopProgram_eq s p kind
    rw [h]
  · rw [stopProgram_thr]
    split
    · exact .inr rfl
    · exact .inl rfl

/-- Asking for a stop changes nothing of a thread but the stop. -/
theorem reqStop_eq (x : Thread) (kind : Nat) : x.reqStop kind = { x with stop := (x.reqStop kind).stop } := by
  unfold Thread.reqStop
  split <;> rfl

theorem StopsAsked.same {kind : Nat} (h : StopsAsked s u kind) (v : Th) : u.thr v = { s.thr v with stop := (u.thr v).stop } := by
  rcases h.thread v with hv | hv <;> rw [hv]
  exact reqStop_eq _ _

theorem StopsAsked.prog {kind : Nat} (h : StopsAsked s u kind) (v : Th) : u.prog v = s.prog v := by
  rw [State.prog, State.prog, h.progs, h.same v]

/-- A stop that has been asked for of a thread is not asked for again. -/
theorem StopsAsked.asked {x : Thread} {kind : Nat} (h : StopsAsked s u kind) {v : Th} (hv : s.thr v = x.reqStop kind) :
    u.thr v = x.reqStop kind := by
  rcases h.thread v with hu | hu <;> rw [hu, hv]
  exact reqStop_reqStop _ _

/-- What SEQ_STOP does for one slot: the program there is asked to stop. -/
def stopSlot (d : Nat) (s : State) (k : Nat) : State :=
  match s.prog ⟨d, k⟩ with
  | some p => if (s.thr ⟨d, k⟩).st = .free then s else stopProgram s p 10
  | none => s

theorem exec_seqStop {d : Nat} (slots : BitVec 8) (ha : s.pst = 3) (hf : s.fnHeld 0 = false) (hd : d < nDom s) :
    exec (.seqStop d slots) s = .next ((bitList slots.toNat 8).foldl (stopSlot d) s) := by
  show Host.Outcome.next (fnCmd s 0 false _) = _
  rw [fnCmd_active hf ha, if_neg (Nat.not_le.2 hd)]
  rfl

theorem stopSlot_of_prog {d k : Nat} (hp : s.prog ⟨d, k⟩ = some p) (hf : (s.thr ⟨d, k⟩).st ≠ .free) : stopSlot d s k = stopProgram s p 10 := by
  simp only [stopSlot, hp, if_neg hf]

theorem stopsAsked_stopSlot (s : State) (d k : Nat) : StopsAsked s (stopSlot d s k) 10 := by
  unfold stopSlot
  split
  · split
    · exact .refl s 10
    · exact stopsAsked_stopProgram s _ 10
  · exact .refl s 10

/-- Every program that holds one of the slots has been asked to stop. -/
theorem foldl_stopSlot (s : State) (d : Nat) (ks : List Nat) :
    StopsAsked s (ks.foldl (stopSlot d) s) 10 ∧
      ∀ k ∈ ks, ∀ p, s.prog ⟨d, k⟩ = some p → p.dom = d → (s.thr ⟨d, k⟩).st ≠ .free →
        ∀ j ∈ p.slots, (ks.foldl (stopSlot d) s).thr ⟨d, j⟩ = (s.thr ⟨d, j⟩).reqStop 10 := by
  induction ks generalizing s with
  | nil => exact ⟨.refl s 10, nofun⟩
  | cons k ks ih =>
    have hone := stopsAsked_stopSlot s d k
    obtain ⟨hrest, hall⟩ := ih (stopSlot d s k)
    refine ⟨hone.trans hrest, fun i hi p hp hdom hf j hj => ?_⟩
    rcases List.mem_cons.1 hi with rfl | hi
    · refine hrest.asked ?_
      rw [stopSlot_of_prog hp hf, stopProgram_thr, if_pos ⟨j, hj, by rw [hdom]⟩]
    · have hst : ((stopSlot d s k).thr ⟨d, i⟩).st = (s.thr ⟨d, i⟩).st := by rw [hone.same]
      refine (hall i hi p ((hone.prog _).trans hp) hdom (by rwa [hst]) j hj).trans ?_
      rcases hone.thread ⟨d, j⟩ with h | h <;> rw [h]
      exact reqStop_reqStop _ _

/-- Settles O25, from what the stops of all set slots leave. -/
theorem seqStopResult : Obligations.SeqStopResult := by
  intro s d k slots p ha hf hd hk hbit hp hdom hst
  have hmem : k ∈ bitList slots.toNat 8 := List.mem_filter.2 ⟨List.mem_range.2 hk, hbit⟩
  obtain ⟨hasked, hall⟩ := foldl_stopSlot s d (bitList slots.toNat 8)
  refine ⟨_, exec_seqStop slots ha hf hd, fun j hj hfree hhalt => ?_, fun v => ?_, ?_, ?_, ?_⟩
  · rw [hall k hmem p hp hdom hst j hj, reqStop_stop 10 hfree hhalt]
  · rw [hasked.same v]
    exact ⟨rfl, rfl, rfl⟩
  all_goals rw [hasked.rest]
  · exact fun _ _ => rfl
  · exact fun _ _ => rfl
  · exact fun _ => rfl

end Sys2Proof.Machine

/-! ## Posts (R182–R184, R329) -/

namespace Sys2Proof.Machine

variable {s : State} {t : Th} {c : Instr} {p : Program}

/-- Counters and sequencers are no part of the translation of addresses. -/
theorem segsCover_cnt_sq (s : State) (m : SMap Nat) (q : Seq) (w : Who) (rights ctx no stop fuel a : Nat) :
    segsCover { s with cnt := m, sq := q } w rights ctx no stop fuel a = segsCover s w rights ctx no stop fuel a := by
  induction fuel generalizing a with
  | zero => rfl
  | succ k ih =>
    simp only [segsCover, ih]
    rfl

theorem opCovered_cnt_sq (s : State) (m : SMap Nat) (q : Seq) (w : Who) (rights ctx no a n : Nat) :
    opCovered { s with cnt := m, sq := q } w rights ctx no a n = opCovered s w rights ctx no a n := by
  simp only [opCovered, segsCover_cnt_sq]
  rfl

theorem localOk_cnt_sq (s : State) (m : SMap Nat) (q : Seq) (d : Desc) : localOk { s with cnt := m, sq := q } d = localOk s d := by
  simp only [localOk, opCovered_cnt_sq]

/-- Operations of which none has ended: none is handed over. -/
theorem tellOps_of_going (ops : List Op) (held : Bool) (h : ∀ o ∈ ops, o.code = none) : tellOps ops held = (ops, []) := by
  induction ops generalizing held with
  | nil => rfl
  | cons o ops ih =>
    obtain ⟨ho, hops⟩ := List.forall_mem_cons.1 h
    simp only [tellOps, ho, ih _ hops]

/-- A queue pair of which no operation has ended keeps them all. -/
theorem settleQp_of_going (s : State) (n : Nat) {q : Qp} (h : ∀ o ∈ q.ops, o.code = none ∧ o.told = false) :
    ∃ q', settleQp s n q = s.setQp n q' ∧ q'.ops = q.ops := by
  have hkept : (q.ops.filter fun o => !(o.told && o.allAcked && o.toSend == o.sent)) = q.ops :=
    List.filter_eq_self.2 fun o ho => by rw [(h o ho).2]; rfl
  simp only [settleQp, tellOps_of_going q.ops false fun o ho => (h o ho).1, hkept, List.append_nil]
  refine ⟨_, rfl, ?_⟩
  split <;> rfl

/-- What a post of descriptor `w` needs to enter its queue pair: a tracker entry and room, a queue pair of the context in RTS without
encryption and without ended operations, and LOCAL and ROFF as R182 and R183 ask. -/
structure Postable (s : State) (t : Th) (w : BitVec 256) : Prop where
  entry : s.trkHeld t < 64
  room : qpFull s w = false
  owned : s.ownsQp (dCtx w) (dQp w) = true
  rts : (s.qp (dQp w)).st = 3
  clear : qpEnc (s.qp (dQp w)).e.toNat = false
  aligned : dKind w = 11 → dRoff w % 8 = 0
  covered : ∀ d : Desc, d.w = w → d.no = s.sq.opNo → localOk s d = true
  going : ∀ o ∈ (s.qp (dQp w)).ops, o.code = none ∧ o.told = false

theorem postCode_none {d : Desc} (hq : qpEnc (s.qp (dQp d.w)).e.toNat = false) (hl : localOk s d = true) (hr : dKind d.w = 11 → dRoff d.w % 8 = 0) :
    postCode s d = none := by
  simp only [postCode, hq, hl, Bool.false_and, Bool.not_true, Bool.false_eq_true, if_false]
  exact if_neg (by simpa using hr)

/-- A work request that passes its checks is the last of its queue pair's operations. -/
theorem acceptPost_queued {d : Desc} (host : Bool) (howned : s.ownsQp (dCtx d.w) (dQp d.w) = true) (hrts : (s.qp (dQp d.w)).st = 3)
    (hcode : postCode s d = none) (hgoing : ∀ o ∈ (s.qp (dQp d.w)).ops, o.code = none ∧ o.told = false) :
    ∃ q, acceptPost s d host = s.setQp (dQp d.w) q ∧ q.ops = (s.qp (dQp d.w)).ops ++ [{ d := d, host := host }] := by
  obtain ⟨q, hset, hops⟩ := settleQp_of_going s (dQp d.w)
    (q := { s.qp (dQp d.w) with ops := (s.qp (dQp d.w)).ops ++ [{ d := d, host := host }] }) (by
      simpa only [List.forall_mem_append, List.forall_mem_singleton, and_true] using hgoing)
  refine ⟨q, ?_, hops⟩
  simp only [acceptPost, hcode]
  rw [if_neg (by simp [howned]), if_neg (by simp [hrts])]
  exact hset

/-- The descriptor of a post as its queue pair holds it. -/
def postDesc (s : State) (t : Th) (dd : Nat) (a b : Word) : Desc := { copyDesc t (s.thr t) dd none 0 a b true with no := s.sq.opNo }

/-- The thread has its tracker entry and goes on, before its queue pair takes the work request. -/
def posting (s : State) (t : Th) (ctx : Nat) : State :=
  let x := s.thr t
  ((issued s t).trkTake ctx (thKey t + 1)).setThr t
    { x with st := .ready, cause := 0, pend := .none, outF := x.outF + 1, pc := x.pc + 8#64 }

/-- A post that may enter its queue pair is the last of its operations; its thread goes on, with the tracker entry. -/
theorem postOn_queued {dd : Nat} (a b : Word) (h : Postable s t (dOwn (s.thr t) ((s.thr t).dr dd))) :
    let x := s.thr t
    let w := dOwn x (x.dr dd)
    let u := postOn (issued s t) t (copyDesc t x dd none 0 a b true)
    (u.qp (dQp w)).ops = (s.qp (dQp w)).ops ++ [{ d := postDesc s t dd a b }] ∧
      smFind u.sq.trk s.sq.opNo = some (dCtx w, thKey t + 1) ∧
      u.thr t = { x with st := .ready, cause := 0, pend := .none, outF := x.outF + 1, pc := x.pc + 8#64 } ∧ ThrBut s u t ∧
      RegsBut s u [] ∧ MemSame s u := by
  intro x w u
  have hlocal : localOk (posting s t (dCtx w)) (postDesc s t dd a b) = true := (localOk_cnt_sq s _ _ _).trans (h.covered _ rfl rfl)
  obtain ⟨q, hu, hops⟩ := acceptPost_queued (s := posting s t (dCtx w)) (d := postDesc s t dd a b) false h.owned h.rts
    (postCode_none h.clear hlocal h.aligned) h.going
  have hu : u = (posting s t (dCtx w)).setQp (dQp w) q := hu
  rw [hu, State.qp_setQp_self]
  exact ⟨hops, smFind_smSet_self _ _ _, State.thr_setThr_self _ t _, fun v hv => State.thr_setThr_ne _ _ hv, fun _ _ => rfl, fun _ => rfl⟩

/-- A post instruction whose descriptor is of its own KIND. -/
theorem exec_post {dd kind : Nat} {a b : Thread → Word} (h : Issues s t c p)
    (e : exec c s = .next (issueAt s t c fun s x _ => postThread s t x (copyDesc t x dd none 0 (a x) (b x) true) kind))
    (hk : dKind (dOwn (s.thr t) ((s.thr t).dr dd)) = kind) (hp : Postable s t (dOwn (s.thr t) ((s.thr t).dr dd))) :
    exec c s = .next (postOn (issued s t) t (copyDesc t (s.thr t) dd none 0 (a (s.thr t)) (b (s.thr t)) true)) := by
  rw [answers_of h e]
  have hwaits : postWaits (issued s t) t (copyDesc t (s.thr t) dd none 0 (a (s.thr t)) (b (s.thr t)) true) = false :=
    Bool.or_eq_false_iff.2 ⟨decide_eq_false (Nat.not_le.2 hp.entry), hp.room⟩
  have hkind : ¬ dKind (copyDesc t (s.thr t) dd none 0 (a (s.thr t)) (b (s.thr t)) true).w ≠ kind := not_not.2 hk
  rw [postThread, if_neg hkind, hwaits]
  rfl

/-- Settles O23: each post instruction queues its own operands. -/
theorem postResult : Obligations.PostResult := by
  intro s t p c kind dd ga gb x w hc h hkind hentry hroom howned hrts hclear halign hcov hgoing
  have hp : Postable s t w := ⟨hentry, hroom, howned, hrts, hclear, fun hk => halign (hkind.symm.trans hk), hcov, hgoing⟩
  rcases hc with ⟨rfl, rfl⟩ | ⟨rfl, rfl⟩ | ⟨rfl, rfl⟩ | ⟨rfl, rfl⟩ | ⟨rfl, rfl⟩
  · obtain ⟨hops, hrest⟩ := postOn_queued 0#64 0#64 hp
    exact ⟨_, _, exec_post h rfl hkind hp, hops, rfl, rfl, rfl, rfl, rfl, nofun, nofun, hrest⟩
  · obtain ⟨hops, hrest⟩ := postOn_queued 0#64 0#64 hp
    exact ⟨_, _, exec_post h rfl hkind hp, hops, rfl, rfl, rfl, rfl, rfl, nofun, nofun, hrest⟩
  · obtain ⟨hops, hrest⟩ := postOn_queued 0#64 0#64 hp
    exact ⟨_, _, exec_post h rfl hkind hp, hops, rfl, rfl, rfl, rfl, rfl, nofun, nofun, hrest⟩
  · obtain ⟨hops, hrest⟩ := postOn_queued (x.gr ga) (x.gr gb) hp
    exact ⟨_, _, exec_post h rfl hkind hp, hops, rfl, rfl, rfl, rfl, rfl, fun _ => ⟨rfl, rfl⟩, nofun, hrest⟩
  · obtain ⟨hops, hrest⟩ := postOn_queued (x.gr ga) 0#64 hp
    exact ⟨_, _, exec_post h rfl hkind hp, hops, rfl, rfl, rfl, rfl, rfl, nofun, fun _ => rfl, hrest⟩

end Sys2Proof.Machine

/-! ## Memory accesses: what they leave alone (R284–R286) -/

namespace Sys2Proof.Machine

variable {s t u : State}

/-- Only registers, counters, memory, fault events and the count of free values may have changed. -/
def AccessOnly (s u : State) : Prop := u = { s with regs := u.regs, cnt := u.cnt, mem := u.mem, fc := u.fc, free := u.free }

theorem AccessOnly.refl (s : State) : AccessOnly s s := rfl

theorem AccessOnly.trans (h : AccessOnly s t) (k : AccessOnly t u) : AccessOnly s u := by
  unfold AccessOnly at *
  rw [k, h]

theorem AccessOnly.sq (h : AccessOnly s u) : u.sq = s.sq := by rw [h]
theorem AccessOnly.en (h : AccessOnly s u) : u.en = s.en := by rw [h]
theorem AccessOnly.thr (h : AccessOnly s u) (v : Th) : u.thr v = s.thr v := by rw [State.thr, State.thr, h.sq]

theorem accessOnly_sumLine (s : State) (tile : Nat) : AccessOnly s (s.sumLine tile) := by
  unfold State.sumLine
  split
  · exact .refl s
  · dsimp only
    split
    · exact .refl s
    · split <;> exact rfl

theorem AccessOnly.set (h : AccessOnly s u) (f : RF) (v : Nat) : AccessOnly s (u.set f v) := h.trans rfl
theorem AccessOnly.bump (h : AccessOnly s u) (f : RF) : AccessOnly s (u.bump f) := h.trans rfl
theorem AccessOnly.count (h : AccessOnly s u) (f : RF) (n : Nat) : AccessOnly s (u.count f n) := h.trans rfl
theorem AccessOnly.raise (h : AccessOnly s u) (src unit detail : Nat) : AccessOnly s (u.raise src unit detail) := h.trans rfl

/-- A check failure is recorded in MEM_TCHK_EVENT, counted and raised. -/
theorem accessOnly_tileFail (s : State) (req tile : Nat) : AccessOnly s (s.tileFail req tile) := by
  have hfail : AccessOnly s { s with mem := { s.mem with failAddr := (tile <<< 11) % 2 ^ 48 } } := rfl
  have hshown (c w x : Nat) := ((((hfail.set F.MEM_TCHK_EVENT_CAUSE c).set F.MEM_TCHK_EVENT_REQ req).set F.MEM_TCHK_EVENT_WHERE w).set
    F.MEM_TCHK_EVENT_UNIT x).bump F.MEM_TCHK_EVENT_SEQ
  unfold State.tileFail
  dsimp only
  split
  · exact ((hshown _ 1 _).count _ _).raise _ _ _
  · refine .raise ?_ _ _ _
    split
    · exact (hshown _ 0 _).count _ _
    · exact ((hshown _ 0 _).count _ _).count _ _

theorem accessOnly_tileCheck (s : State) (req tile : Nat) : AccessOnly s (s.tileCheck req tile).1 := by
  unfold State.tileCheck
  split
  · exact .refl s
  · split
    · exact accessOnly_sumLine s tile
    · exact (accessOnly_sumLine s tile).trans (accessOnly_tileFail _ req tile)

theorem accessOnly_checkTiles (s : State) (req : Nat) (ts : List Nat) : AccessOnly s (s.checkTiles req ts).1 := by
  induction ts generalizing s with
  | nil => exact .refl s
  | cons t ts ih => exact (accessOnly_tileCheck s req t).trans (ih _)

theorem accessOnly_memRead (s : State) (req a n : Nat) : AccessOnly s (memRead s req a n).1 := by
  have h := accessOnly_checkTiles s req (tilesOf a n)
  unfold memRead
  split <;> (rename_i heq; rw [heq] at h; exact h)

theorem accessOnly_setBytes (s : State) (a : Nat) (bs : List Byte) : AccessOnly s (s.setBytes a bs) := by
  induction bs generalizing s a with
  | nil => exact .refl s
  | cons b bs ih =>
    refine .trans ?_ (ih (s.setByte a b) (a + 1))
    unfold State.setByte
    split
    · exact rfl
    · split <;> exact rfl

/-- A write that is one access to one tile touches no byte outside its range. -/
theorem tileWrite_frame (s : State) (req a : Nat) (bs : List Byte) :
    AccessOnly s (tileWrite s req a bs).1 ∧ MemBut s (tileWrite s req a bs).1 a bs.length := by
  have hput (v : State) (h : AccessOnly s v) (hb : SameBytes s v) : AccessOnly s (v.setBytes a bs) ∧ MemBut s (v.setBytes a bs) a bs.length :=
    ⟨h.trans (accessOnly_setBytes v a bs), fun b ho => (byte_setBytes_out ho).trans (hb.byte b)⟩
  have hcheck := accessOnly_tileCheck s req (tileOf a)
  have hsame := tileCheck_same (s := s) req (tileOf a)
  unfold tileWrite
  dsimp only
  split
  · exact ⟨.refl s, fun _ _ => rfl⟩
  · split
    · obtain ⟨hacc, hmem⟩ := hput _ (accessOnly_sumLine s (tileOf a)) (sumLine_same _)
      exact ⟨hacc.trans rfl, hmem⟩
    · split
      next v heq =>
        rw [heq] at hcheck hsame
        refine hput _ ?_ ?_
        · split <;> exact hcheck.trans rfl
        · split <;> exact hsame.trans ⟨rfl, rfl, rfl, rfl, rfl, rfl⟩
      next =>
        exact ⟨hcheck, fun b _ => hsame.byte b⟩

theorem writePieces_cutTiles_frame (s : State) (req a : Nat) (bs : List Byte) (fuel : Nat) :
    AccessOnly s (writePieces s req (cutTiles a bs fuel)).1 ∧ MemBut s (writePieces s req (cutTiles a bs fuel)).1 a bs.length := by
  induction fuel generalizing s a bs with
  | zero => exact ⟨.refl s, fun _ _ => rfl⟩
  | succ k ih =>
    by_cases hnil : bs = []
    · subst hnil
      exact ⟨.refl s, fun _ _ => rfl⟩
    · rw [cutTiles, if_neg hnil]
      have hroom : 2048 - a % 2048 ≤ 2048 := Nat.sub_le _ _
      obtain ⟨hfirst, hbytes⟩ := tileWrite_frame s req a (bs.take (2048 - a % 2048))
      obtain ⟨hrest, hothers⟩ := ih (tileWrite s req a (bs.take (2048 - a % 2048))).1 (a + (2048 - a % 2048)) (bs.drop (2048 - a % 2048))
      refine ⟨hfirst.trans hrest, fun b hb => (hothers b ?_).trans (hbytes b ?_)⟩
      · rw [List.length_drop]; omega
      · rw [List.length_take]; omega

theorem memWrite_frame (s : State) (req a : Nat) (bs : List Byte) :
    AccessOnly s (memWrite s req a bs).1 ∧ MemBut s (memWrite s req a bs).1 a bs.length :=
  writePieces_cutTiles_frame s req a bs _

/-! ## Records of descriptors (R202, R219, R266) -/

theorem bit47_recAddr (w : BitVec 256) (k : Nat) {o : Nat} (ho : o < 128) : bit (recAddr w k + o) 47 = true := by
  have hbank : dfield w k 59 4 < 2 ^ 4 := bits_lt _ _ _
  have hidx : dfield w k 41 18 < 2 ^ 18 := bits_lt _ _ _
  rw [bit_eq_bits, bits_eq, recAddr, stgAddr, decide_eq_true_eq]
  omega

/-- A staging address stands for itself (R161). -/
theorem opTranslate_staging {who : Who} {rights ctx no a n pa : Nat} (ha : bit a 47 = true) (h : opTranslate s who rights ctx no a n = .mem pa) :
    pa = a := by
  rw [opTranslate, ha] at h
  split at h
  · cases h
  · rw [if_pos rfl] at h
    split at h
    · cases h; rfl
    · cases h

/-- Of memory, only the 128 bytes of the record at `a` may have changed. -/
structure RecordOnly (s u : State) (a : Nat) : Prop where
  rest : AccessOnly s u
  mem : MemBut s u a 128

theorem RecordOnly.refl (s : State) (a : Nat) : RecordOnly s s a := ⟨.refl s, fun _ _ => rfl⟩

theorem RecordOnly.trans {a : Nat} (h : RecordOnly s t a) (k : RecordOnly t u a) : RecordOnly s u a :=
  ⟨h.rest.trans k.rest, fun b hb => (k.mem b hb).trans (h.mem b hb)⟩

theorem recordOnly_writeRec (s : State) (d : Desc) (w : BitVec 256) (k : Nat) {o : Nat} {bs : List Byte} (ho : o < 128) (h : o + bs.length ≤ 128) :
    RecordOnly s (writeRec s d (recAddr w k + o) bs) (recAddr w k) := by
  unfold writeRec
  split
  next pa hpa =>
    rw [opTranslate_staging (bit47_recAddr w k ho) hpa]
    obtain ⟨hrest, hmem⟩ := memWrite_frame s d.eng (recAddr w k + o) bs
    exact ⟨hrest, fun b hb => hmem b (by omega)⟩
  next => exact .refl s _

theorem recordOnly_noteCode (s : State) (kind dom code a : Nat) : RecordOnly s (noteCode s kind dom code) a := by
  unfold noteCode
  split
  · exact .refl s a
  · split
    · exact ⟨rfl, fun _ _ => rfl⟩
    · split
      · exact ⟨rfl, fun _ _ => rfl⟩
      · exact .refl s a

theorem recordOnly_foldl_writeRec (s : State) (d : Desc) (w : BitVec 256) (k : Nat) (tail : List (Nat × List Byte))
    (h : ∀ x ∈ tail, x.1 < 128 ∧ x.1 + x.2.length ≤ 128) :
    RecordOnly s (tail.foldl (fun s x => writeRec s d (recAddr w k + x.1) x.2) s) (recAddr w k) := by
  induction tail generalizing s with
  | nil => exact .refl s _
  | cons x tail ih =>
    obtain ⟨⟨ho, hlen⟩, hrest⟩ := List.forall_mem_cons.1 h
    exact (recordOnly_writeRec s d w k ho hlen).trans (ih _ hrest)

theorem startTail_inside (d : Desc) : ∀ x ∈ startTail d, x.1 < 128 ∧ x.1 + x.2.length ≤ 128 := by
  unfold startTail
  split
  · split <;> simp
  · split <;> simp

/-- A descriptor that ends without a unit released writes in its record alone, and then has ended. -/
theorem finishNone_eq (s : State) (d : Desc) (code : Nat) :
    ∃ v, finishNone s d code = v.endDesc d code ∧ RecordOnly s v (recAddr d.w (recWord (dKind d.w))) := by
  unfold finishNone finishDesc
  dsimp only
  refine ⟨_, rfl, .trans ?_ (recordOnly_noteCode _ _ _ _ _)⟩
  have htail := recordOnly_foldl_writeRec s d d.w (recWord (dKind d.w)) (startTail d) (startTail_inside d)
  split
  · exact htail.trans (recordOnly_writeRec _ d d.w _ (by decide) (by simp))
  · exact htail

end Sys2Proof.Machine

/-! ## ISSUE and ISSUEW (R177, R178) -/

namespace Sys2Proof.Machine

variable {s u : State} {t : Th} {c : Instr} {p : Program} {d : Desc} {ew : Option Nat}

/-- The thread after its descriptor has been taken: it goes on, or waits for the code (R177, R178). -/
def issueThread (x : Thread) (ew : Option Nat) : Thread :=
  if ew.isSome then { x with outE := x.outE + 1, st := .waiting, cause := 2, pend := .issuew }
  else { x with outE := x.outE + 1, st := .ready, cause := 0, pend := .none, pc := x.pc + 8#64 }

/-- The thread has its tracker entry, before the descriptor reaches its engine. -/
def issuing (s : State) (t : Th) (d : Desc) : State :=
  ((issued s t).trkTake (dCtx d.w) (thKey t + 1)).setThr t (issueThread (s.thr t) d.ew)

/-- The descriptor as its engine has it: with its tracker entry and its program's declaration. -/
def issueDescOf (s : State) (p : Program) (d : Desc) : Desc :=
  { d with no := s.sq.opNo, ts := p.tickSched, bc := (budgetOf p (engKind s d.eng)).1, bb := (budgetOf p (engKind s d.eng)).2 }

/-- What has issued a descriptor: the thread as it then is, but for a stop that may have been asked for since, and the tracker entry. -/
structure IssueTaken (s u : State) (t : Th) (d : Desc) : Prop where
  thread : u.thr t = { issueThread (s.thr t) d.ew with stop := (u.thr t).stop }
  trk : smFind u.sq.trk s.sq.opNo = some (dCtx d.w, thKey t + 1)
  opNo : u.sq.opNo = s.sq.opNo + 1

theorem issueTaken_issuing (s : State) (t : Th) (d : Desc) : IssueTaken s (issuing s t d) t d where
  thread := by rw [issuing, State.thr_setThr_self]
  trk := smFind_smSet_self _ _ _
  opNo := rfl

/-- The descriptor is at its engine's crossbar input, where it may find the queue full (R16, R18), and its thread goes on or waits. -/
def crossing (s : State) (t : Th) (p : Program) (d : Desc) : State :=
  State.setThr (markStuck (((issued s t).trkTake (dCtx d.w) (thKey t + 1)).setEngine d.eng
    { s.engine d.eng with input := (s.engine d.eng).input ++ [issueDescOf s p d] }) d.eng) t (issueThread (s.thr t) d.ew)

/-- Steps 4 to 6 of R177 for an instruction that has issued. -/
theorem issueOn_issued (s : State) (t : Th) (p : Program) (d : Desc) :
    issueOn (issued s t) t p d =
      if nEng s ≤ d.eng then (issuing s t d).endDesc (issueDescOf s p d) 0x7F
      else if s.engFenced d.eng then finishNone (issuing s t d) (issueDescOf s p d) 0x7F
      else if !bit p.engines d.eng || (budgetOf p (engKind s d.eng)).1 = 0 || (budgetOf p (engKind s d.eng)).2 = 0 then
        stopOverrun (finishNone (issuing s t d) (issueDescOf s p d) 0x61) (issueDescOf s p d)
      else addDemand (crossing s t p d) p (issueDescOf s p d) := by
  obtain ⟨w, th, prog, live, ew, eng, opA, opB, post, no, ts, bc, bb⟩ := d
  cases ew <;> rfl

/-- A descriptor whose KIND is its engine's, or whose engine is absent, is taken with a tracker entry. -/
theorem issueDesc_issued (hroom : s.trkHeld t < 64) (hkind : nEng s ≤ d.eng ∨ dKind d.w = engKind s d.eng) :
    issueDesc (issued s t) t (s.thr t) p d = issueOn (issued s t) t p d := by
  have hsame : ¬ (decide (d.eng < nEng s) && decide (dKind d.w ≠ engKind s d.eng)) = true := by
    rw [Bool.and_eq_true, decide_eq_true_eq, decide_eq_true_eq]
    omega
  have hheld : ¬ 64 ≤ s.trkHeld t := Nat.not_le.2 hroom
  exact (if_neg hsame).trans (if_neg hheld)

/-! ### The crossbar (R16, R18) -/

/-- A descriptor whose engine's queue has no entry for it is marked at the engine's input. -/
theorem mem_stuck_markStuck {e : Nat} (hin : d ∈ (s.engine e).input) (hfull : queueRoom (s.engine e).queue (fromHome d) = false) :
    d.no ∈ ((markStuck s e).engine e).stuck := by
  unfold markStuck
  dsimp only
  obtain ⟨m, hm⟩ := foldl_count_eq (fun d : Desc => F.SEQ_XBAR_WAIT d.th.dom) _ _
  rw [hm]
  show _ ∈ ((State.setEngine s e _).engine e).stuck
  rw [State.engine, smGet, State.setEngine, smFind_smSet_self]
  refine List.mem_filter.2 ⟨?_, List.any_eq_true.2 ⟨d, hin, beq_self_eq_true _⟩⟩
  by_cases hold : d.no ∈ (s.engine e).stuck
  · exact List.mem_append_left _ hold
  · exact List.mem_append_right _ (List.mem_map_of_mem (List.mem_filter.2 ⟨hin, by simp [hfull, hold]⟩))

/-- A marked descriptor of the thread's own program holds the thread. -/
theorem xbarBlocked_of_mem {e : Nat} (hin : d ∈ (s.engine e).input) (hstuck : d.no ∈ (s.engine e).stuck) (hth : d.th = t)
    (hlive : d.live = (s.thr t).live) : xbarBlocked s t = true := by
  cases hf : smFind s.en.eng e with
  | none =>
    rw [State.engine, smGet, hf] at hin
    cases hin
  | some g =>
    have hg : s.engine e = g := by rw [State.engine, smGet, hf]; rfl
    rw [hg] at hin hstuck
    exact List.any_eq_true.2 ⟨(e, g), mem_of_smFind hf, List.any_eq_true.2 ⟨d, hin, by simp [hth, hlive, hstuck]⟩⟩

/-- What the demand of an issued descriptor may change: the sums of demands, counts, programs, and the stops asked of threads. -/
structure DemandNoted (s u : State) : Prop where
  rest : u = { s with
    cnt := u.cnt, ho := u.ho, en := { s.en with demand := u.en.demand }, sq := { s.sq with thr := u.sq.thr, progs := u.sq.progs } }
  thread : ∀ v, u.thr v = { s.thr v with stop := (u.thr v).stop }

theorem demandNoted_noteOverrun {v : State} (h : DemandNoted s v) (p : Program) : DemandNoted s (noteOverrun v p) := by
  have hwith (m : SMap Nat) (ps : SMap Program) : DemandNoted s { v with cnt := m, sq := { v.sq with progs := ps } } :=
    ⟨by rw [h.rest], h.thread⟩
  unfold noteOverrun
  split
  · exact h
  · split
    · exact h
    · exact hwith _ _

theorem demandNoted_addDemand (s : State) (p : Program) (d : Desc) : DemandNoted s (addDemand s p d) := by
  have hstop (m : SMap (Nat × Nat)) : DemandNoted s (stopProgram { s with en := { s.en with demand := m } } p 8) := by
    refine ⟨?_, (stopsAsked_stopProgram _ p 8).same⟩
    obtain ⟨m', z, h⟩ := stopProgram_eq { s with en := { s.en with demand := m } } p 8
    rw [h]
  unfold addDemand
  dsimp only
  split
  · exact demandNoted_noteOverrun (hstop _) p
  · exact ⟨rfl, fun _ => rfl⟩

/-- The descriptor stands last at its engine's input; where the engine's queue has no entry for it, it holds its thread. -/
theorem crossing_frame (s : State) (t : Th) (p : Program) (d : Desc) :
    let u := crossing s t p d
    IssueTaken s u t d ∧ (u.engine d.eng).input = (s.engine d.eng).input ++ [issueDescOf s p d] ∧
      (u.engine d.eng).queue = (s.engine d.eng).queue ∧ RegsBut s u [] ∧ MemSame s u ∧
      (queueRoom (s.engine d.eng).queue (fromHome d) = false → (issueDescOf s p d).no ∈ (u.engine d.eng).stuck) := by
  intro u
  let v := ((issued s t).trkTake (dCtx d.w) (thKey t + 1)).setEngine d.eng
    { s.engine d.eng with input := (s.engine d.eng).input ++ [issueDescOf s p d] }
  have hv : v.engine d.eng = { s.engine d.eng with input := (s.engine d.eng).input ++ [issueDescOf s p d] } := by
    show smGet (smSet _ _ _) _ _ = _
    rw [smGet, smFind_smSet_self]; rfl
  have hstuck := mem_stuck_markStuck (s := v) (d := issueDescOf s p d) (e := d.eng) (by rw [hv]; simp)
  obtain ⟨marks, m, hmark, -⟩ := markStuck_eq v d.eng
  have hu : u = State.setThr (markStuck v d.eng) t (issueThread (s.thr t) d.ew) := rfl
  have heng : u.engine d.eng = { v.engine d.eng with stuck := marks } := by
    rw [hu, hmark]
    show smGet (smSet _ _ _) _ _ = _
    rw [smGet, smFind_smSet_self]; rfl
  refine ⟨⟨by rw [hu, State.thr_setThr_self], ?_, ?_⟩, by rw [heng, hv], by rw [heng, hv], ?_, ?_, fun hfull => ?_⟩
  · rw [hu, hmark]; exact smFind_smSet_self _ _ _
  · rw [hu, hmark]; rfl
  · rw [hu, hmark]; exact fun _ _ => rfl
  · rw [hu, hmark]; exact fun _ => rfl
  · exact hstuck (by rw [hv]; exact hfull)

/-! ### What each instruction leaves -/

/-- Neither memory accesses nor the end of the descriptor touch the thread or the tracker. -/
theorem IssueTaken.ended {v : State} (h : IssueTaken s v t d) (k : AccessOnly v u) (e : Desc) (code : Nat) :
    IssueTaken s (u.endDesc e code) t d where
  thread := (k.thr t).trans (h.thread.trans (by rw [← k.thr t]; rfl))
  trk := (congrArg (fun q => smFind q.trk s.sq.opNo) k.sq).trans h.trk
  opNo := (congrArg Seq.opNo k.sq).trans h.opNo

theorem IssueTaken.noted {v : State} (h : IssueTaken s v t d) (k : DemandNoted v u) : IssueTaken s u t d where
  thread := by rw [k.thread, h.thread]
  trk := by rw [k.rest]; exact h.trk
  opNo := by rw [k.rest]; exact h.opNo

/-- The descriptor of an absent engine ends at once (R147). -/
theorem issue_absent (hroom : s.trkHeld t < 64) (he : nEng s ≤ d.eng) :
    let u := issueDesc (issued s t) t (s.thr t) p d
    IssueTaken s u t d ∧ u.en.ended = s.en.ended ++ [⟨issueDescOf s p d, 0x7F⟩] ∧ RegsBut s u [] ∧ MemSame s u := by
  rw [issueDesc_issued hroom (.inl he), issueOn_issued, if_pos he]
  exact ⟨(issueTaken_issuing s t d).ended (.refl _) _ _, rfl, fun _ _ => rfl, fun _ => rfl⟩

/-- The descriptor of a fenced engine ends at once, and its record says so (R147, R219, R266). -/
theorem issue_fenced (hroom : s.trkHeld t < 64) (he : d.eng < nEng s) (hkind : dKind d.w = engKind s d.eng) (hf : s.engFenced d.eng = true) :
    let u := issueDesc (issued s t) t (s.thr t) p d
    IssueTaken s u t d ∧ u.en.ended = s.en.ended ++ [⟨issueDescOf s p d, 0x7F⟩] ∧ (dKind d.w = 0 → RegsBut s u [] ∧ MemSame s u) ∧
      MemBut s u (recAddr d.w (recWord (dKind d.w))) 128 := by
  rw [issueDesc_issued hroom (.inr hkind), issueOn_issued, if_neg (Nat.not_le.2 he), if_pos hf]
  obtain ⟨v, hend, hrest, hmem⟩ := finishNone_eq (issuing s t d) (issueDescOf s p d) 0x7F
  refine ⟨?_, ?_, fun hred => ?_, ?_⟩
  · rw [hend]; exact (issueTaken_issuing s t d).ended hrest _ _
  · rw [hend]; exact congrArg (fun en : Eng => en.ended ++ _) hrest.en
  · rw [finishNone_reduction (d := issueDescOf s p d) _ _ hred]
    exact ⟨fun _ _ => rfl, fun _ => rfl⟩
  · rw [hend]; exact hmem

/-- The descriptor of a program's own engine reaches the engine's input, and holds its thread there while the queue has no entry for it (R18, R177). -/
theorem issue_sent (hroom : s.trkHeld t < 64) (he : d.eng < nEng s) (hkind : dKind d.w = engKind s d.eng) (hf : s.engFenced d.eng = false)
    (hown : bit p.engines d.eng = true) (hcount : (budgetOf p (engKind s d.eng)).1 ≠ 0) (hbytes : (budgetOf p (engKind s d.eng)).2 ≠ 0)
    (hth : d.th = t) (hlive : d.live = (s.thr t).live) :
    let u := issueDesc (issued s t) t (s.thr t) p d
    IssueTaken s u t d ∧ (u.engine d.eng).input = (s.engine d.eng).input ++ [issueDescOf s p d] ∧
      (u.engine d.eng).queue = (s.engine d.eng).queue ∧ RegsBut s u [] ∧ MemSame s u ∧
      (queueRoom (s.engine d.eng).queue (fromHome d) = false → xbarBlocked u t = true) := by
  intro u
  have hbudget : ¬ (!bit p.engines d.eng || decide ((budgetOf p (engKind s d.eng)).1 = 0) || decide ((budgetOf p (engKind s d.eng)).2 = 0)) = true := by
    simp [hown, hcount, hbytes]
  have hu : u = addDemand (crossing s t p d) p (issueDescOf s p d) := by
    show issueDesc (issued s t) t (s.thr t) p d = _
    rw [issueDesc_issued hroom (.inr hkind), issueOn_issued, if_neg (Nat.not_le.2 he), if_neg (by simp [hf]), if_neg hbudget]
  have hnoted := demandNoted_addDemand (crossing s t p d) p (issueDescOf s p d)
  rw [← hu] at hnoted
  obtain ⟨htaken, hinput, hqueue, hregs, hmem, hstuck⟩ := crossing_frame s t p d
  have heng : u.engine d.eng = (crossing s t p d).engine d.eng := by rw [hnoted.rest]; rfl
  refine ⟨htaken.noted hnoted, heng ▸ hinput, heng ▸ hqueue, ?_, ?_, fun hfull => ?_⟩
  · rw [hnoted.rest]; exact hregs
  · rw [hnoted.rest]; exact hmem
  · refine xbarBlocked_of_mem (d := issueDescOf s p d) (e := d.eng) (by simp [heng, hinput]) (by rw [heng]; exact hstuck hfull) hth ?_
    rw [(htaken.noted hnoted).thread, issueThread]
    split <;> exact hlive

/-- The thread after ISSUE. -/
theorem IssueTaken.goesOn (h : IssueTaken s u t d) (hew : d.ew = none) :
    (u.thr t).outE = (s.thr t).outE + 1 ∧ (u.thr t).g = (s.thr t).g ∧ (u.thr t).st = .ready ∧ (u.thr t).pc = (s.thr t).pc + 8#64 := by
  rw [h.thread, hew]
  exact ⟨rfl, rfl, rfl, rfl⟩

/-- The thread after ISSUEW. -/
theorem IssueTaken.waits (h : IssueTaken s u t d) {gd : Nat} (hew : d.ew = some gd) :
    (u.thr t).outE = (s.thr t).outE + 1 ∧ (u.thr t).g = (s.thr t).g ∧ (u.thr t).st = .waiting ∧ (u.thr t).cause = 2 ∧
      (u.thr t).pc = (s.thr t).pc := by
  rw [h.thread, hew]
  exact ⟨rfl, rfl, rfl, rfl, rfl⟩

/-- Settles O22: both instructions hand over their descriptor alike, and differ in what their thread does then. -/
theorem issueResult : Obligations.IssueResult := by
  intro s t p c gd dd ga eng er x e w b hc h hroom thread sent
  rcases hc with rfl | rfl
  · let d := copyDesc t x dd none e 0#64 0#64 false
    have hrun := answers_of h (c := .issue t dd er ga eng) rfl
    have hthread (u : State) (ht : IssueTaken s u t d) : thread u := by
      obtain ⟨hout, hg, hgo⟩ := ht.goesOn rfl
      exact ⟨hout, hg, fun _ => hgo, nofun, ht.trk, ht.opNo⟩
    have hsent : sent (issueDescOf s p d) := ⟨rfl, rfl, rfl, rfl, rfl, fun _ => rfl, nofun⟩
    refine ⟨fun he => ?_, fun he hk hf => ?_, fun he hk hf ho hcount hbytes => ?_⟩
    · obtain ⟨htaken, hrest⟩ := issue_absent (d := d) (p := p) hroom he
      exact ⟨_, _, hrun, hthread _ htaken, hsent, hrest⟩
    · obtain ⟨htaken, hrest⟩ := issue_fenced (d := d) (p := p) hroom he hk hf
      exact ⟨_, _, hrun, hthread _ htaken, hsent, hrest⟩
    · obtain ⟨htaken, hrest⟩ := issue_sent (d := d) hroom he hk hf ho hcount hbytes rfl rfl
      exact ⟨_, _, hrun, hthread _ htaken, hsent, hrest⟩
  · let d := copyDesc t x dd (some gd) e 0#64 0#64 false
    have hrun := answers_of h (c := .issuew t gd dd er ga eng) rfl
    have hthread (u : State) (ht : IssueTaken s u t d) : thread u := by
      obtain ⟨hout, hg, hwait⟩ := ht.waits rfl
      exact ⟨hout, hg, nofun, fun _ => hwait, ht.trk, ht.opNo⟩
    have hsent : sent (issueDescOf s p d) := ⟨rfl, rfl, rfl, rfl, rfl, nofun, fun _ => rfl⟩
    refine ⟨fun he => ?_, fun he hk hf => ?_, fun he hk hf ho hcount hbytes => ?_⟩
    · obtain ⟨htaken, hrest⟩ := issue_absent (d := d) (p := p) hroom he
      exact ⟨_, _, hrun, hthread _ htaken, hsent, hrest⟩
    · obtain ⟨htaken, hrest⟩ := issue_fenced (d := d) (p := p) hroom he hk hf
      exact ⟨_, _, hrun, hthread _ htaken, hsent, hrest⟩
    · obtain ⟨htaken, hrest⟩ := issue_sent (d := d) hroom he hk hf ho hcount hbytes rfl rfl
      exact ⟨_, _, hrun, hthread _ htaken, hsent, hrest⟩

end Sys2Proof.Machine

/-! ## Launches (R130–R133) -/

namespace Sys2Proof.Machine

variable {s u v : State} {t : Th} {p : Program} {l : Launch} {r : LaunchReq}

/-! ### Reading an image -/

theorem accessOnly_readImage (s : State) (r : LaunchReq) (no n : Nat) : AccessOnly s (readImage s r no n).1 := by
  unfold readImage
  split
  · exact accessOnly_memRead s _ _ _
  · exact .refl s

theorem readImage_same (s : State) (r : LaunchReq) (no n : Nat) : SameBytes s (readImage s r no n).1 := by
  unfold readImage
  split
  · exact memRead_same _ _ _
  · exact .refl s

/-- Reading an image changes no byte and nothing of the sequencers. -/
theorem readImage_frame {no n c : Nat} {img : List Byte} (h : readImage s r no n = (v, c, img)) : v.sq = s.sq ∧ MemSame s v := by
  have hacc := accessOnly_readImage s r no n
  have hsame := readImage_same s r no n
  rw [h] at hacc hsame
  exact ⟨hacc.sq, hsame.byte⟩

/-! ### A launch is taken (R130, R131, R149) -/

theorem exec_launch (ha : s.pst = 3) (hpool : s.poolFull = false) (hq : queued s r.dom < 64) :
    exec (.launch r) s = .next (settle (launchOrHold (s.trkTake r.ctx 0) r s.sq.opNo)) := by
  have hroom : ¬ (s.poolFull || decide (64 ≤ queued s r.dom)) = true := by
    rw [hpool, Bool.false_or, decide_eq_true_eq]
    exact Nat.not_le.2 hq
  show Host.Outcome.next (inActive s _) = _
  rw [inActive, if_pos ha, if_neg hroom]

/-- A launch that nothing holds starts at once. -/
theorem launchOrHold_eq {no : Nat} (hz : smFind s.ho.frozen r.ctx = none) (hw : workHeld s = false) (hc : ctrlOn s = true) :
    launchOrHold s r no = launchReq s r no := by
  rw [launchOrHold, hz]
  dsimp only
  rw [hw, hc]
  rfl

/-- A launch whose header is as R130 gives: by its privilege, it goes to its queue or to the verification of its signature. -/
theorem launchReq_of_header {no a : Nat} {h : List Byte} (hd : r.dom < nDom s) (hf : s.domFenced r.dom = false) (hi : r.image % 8 = 0)
    (hread : readImage s r no 256 = (v, 0, h)) (hparse : parseHeader h r no = some l)
    (hmap : translate v .fetch (rRead + rExec) r.ctx no r.image (imageSize l.p) = .mem a) :
    launchReq s r no =
      if l.p.priv then if r.ctx ≠ 0 then refuseLaunch v r no 0x20 else { v with sq := { v.sq with sigWait := v.sq.sigWait ++ [l] } }
      else queueLaunch v l := by
  have hhere : ¬ (decide (nDom s ≤ r.dom) || s.domFenced r.dom) = true := by
    rw [hf, Bool.or_false, decide_eq_true_eq]
    exact Nat.not_le.2 hd
  rw [launchReq, if_neg hhere, if_neg (not_not.2 hi)]
  simp only [hread, hparse, hmap]

theorem queueLaunch_owned (h : syncRangeOwned s l.p = true) : queueLaunch s l = { s with sq := { s.sq with lq := s.sq.lq ++ [l] } } := if_pos h

/-! ### A signature is verified (R131) -/

theorem exec_privSignatureVerified {dom : Nat} {rest : List Launch} {img : List Byte} (ha : s.pst = 3)
    (htake : takeLaunch dom s.sq.sigWait = some (l, rest))
    (hread : readImage { s with sq := { s.sq with sigWait := rest } } l.r l.p.no (imageSize l.p) = (v, 0, img)) :
    exec (.privSignatureVerified dom) s = .next (settle (match smFind v.ci.slots l.sigKey with
      | some key => if Config.slhDsa256s key (img.take (l.p.codeOff + l.p.codeSize)) (slice img (l.p.codeOff + l.p.codeSize) 29792) = true
          then queueLaunch v l else refuseLaunch v l.r l.p.no 0x70
      | none => refuseLaunch v l.r l.p.no 0x70)) := by
  show Host.Outcome.next (inActive s _) = _
  rw [inActive, if_pos ha, htake]
  dsimp only
  rw [hread]
  rfl

/-- A launch refused for its signature changes no byte and no queue of launches. -/
theorem refuseLaunch_signature (s : State) (r : LaunchReq) (no : Nat) :
    MemSame s (refuseLaunch s r no 0x70) ∧ (refuseLaunch s r no 0x70).sq.sigWait = s.sq.sigWait ∧
      (refuseLaunch s r no 0x70).sq.lq = s.sq.lq := by
  have h : CqFrame s (refuseLaunch s r no 0x70) := cqOwnPost_frame s r.ctx r.cq _ no
  exact ⟨fun a => by rw [h.rest]; rfl, by rw [h.sq], by rw [h.sq]⟩

/-! ### Admission (R133) -/

theorem exec_launchSlotsFree {dom : Nat} {rest : List Launch} (ha : s.pst = 3) (htake : takeLaunch dom s.sq.lq = some (l, rest)) :
    exec (.launchSlotsFree dom) s = .next (if l.threads ≤ freeSlots s dom
      then { s with sq := { s.sq with lq := rest, due := s.sq.due ++ [l] } } else s) := by
  show Host.Outcome.next (inActive s _) = _
  rw [inActive, if_pos ha, htake]

/-! ### The instruction cache (R128) -/

theorem tileCheck_whole {req tile : Nat} (hf : s.tileFenced tile = false) (hb : s.tileBad tile = 0) : s.tileCheck req tile = (s.sumLine tile, 0) := by
  rw [State.tileCheck, if_neg (by simp [hf]), if_pos hb]

/-- The bytes of a tile as the instruction cache holds them. -/
def tileData (s : State) (tile : Nat) : SMap Byte :=
  (List.range 2048).filterMap fun i => if s.byte (tile <<< 11 + i) = 0#8 then none else some (i, s.byte (tile <<< 11 + i))

/-- A list of the bytes that are not 0 gives every byte. -/
theorem smGet_filterMap_nonzero (f : Nat → Byte) (is : List Nat) (i : Nat) :
    smGet (is.filterMap fun j => if f j = 0#8 then none else some (j, f j)) i 0#8 = if i ∈ is then f i else 0#8 := by
  induction is with
  | nil => rfl
  | cons j is ih =>
    by_cases hz : f j = 0#8
    · simp only [List.filterMap_cons, hz, if_true, ih]
      by_cases hi : i = j
      · subst hi; simp [hz]
      · simp [hi]
    · simp only [List.filterMap_cons, hz, if_false, smGet, smFind]
      by_cases hi : i = j
      · subst hi; simp
      · rw [if_neg hi]
        simpa [hi, smGet] using ih

theorem smGet_tileData (s : State) (tile : Nat) {i : Nat} (hi : i < 2048) : smGet (tileData s tile) i 0#8 = s.byte (tile <<< 11 + i) := by
  rw [tileData, smGet_filterMap_nonzero (fun i => s.byte (tile <<< 11 + i)), if_pos (List.mem_range.2 hi)]

/-- The eight bytes of an aligned word, in its tile's data. -/
theorem word_tileData (s : State) {a : Nat} (ha : a % 8 = 0) :
    ((List.range 8).map fun i => smGet (tileData s (tileOf a)) (a % 2048 + i) 0#8) = (List.range 8).map fun i => s.byte (a + i) := by
  refine List.map_congr_left fun i hi => ?_
  have hi : i < 8 := List.mem_range.1 hi
  have haddr : tileOf a <<< 11 + (a % 2048 + i) = a + i := by
    rw [tileOf, Nat.shiftRight_eq_div_pow, Nat.shiftLeft_eq]
    omega
  rw [smGet_tileData s _ (by omega), haddr]

/-- The cache holds the data under the tile. -/
def icacheHold (s : State) (d tile : Nat) (data : SMap Byte) : State :=
  { s with sq := { s.sq with icache := smSet s.sq.icache (icKey d tile) data } }

/-- What a fill leaves besides its thread: counts, free values, checksum lines and the instruction cache, with the tile's data in it. -/
structure Filled (s u : State) (d tile : Nat) : Prop where
  rest : u = { s with cnt := u.cnt, free := u.free, mem := { s.mem with lines := u.mem.lines }, sq := { s.sq with icache := u.sq.icache } }
  data : smFind u.sq.icache (icKey d tile) = some (tileData s tile)

theorem icacheRoom_eq (s : State) (d : Nat) : ∃ m f, icacheRoom s d = { s with free := f, sq := { s.sq with icache := m } } := by
  unfold icacheRoom
  dsimp only
  split
  · exact ⟨_, _, rfl⟩
  · exact ⟨_, _, rfl⟩

theorem sumLine_eq (s : State) (tile : Nat) :
    ∃ m f ls, s.sumLine tile = { s with cnt := m, free := f, mem := { s.mem with lines := ls } } := by
  unfold State.sumLine
  split
  · exact ⟨_, _, _, rfl⟩
  · dsimp only
    split
    · exact ⟨_, _, _, rfl⟩
    · split <;> exact ⟨_, _, _, rfl⟩

/-- A tile that arrives whole is in the instruction cache, and its thread goes on. -/
theorem icacheFill_whole {tile : Nat} (hpend : (s.thr t).pend = .icache) (hp : s.prog t = some p) (hmiss : fetch s t (s.thr t) p = .miss tile)
    (hf : s.tileFenced tile = false) (hb : s.tileBad tile = 0) :
    ∃ v, icacheFill s t = v.setThr t { s.thr t with st := .ready, cause := 0, pend := .none } ∧ Filled s v t.dom tile := by
  obtain ⟨m, f, ls, hline⟩ := sumLine_eq s tile
  obtain ⟨ic, g, hroom⟩ := icacheRoom_eq (s.sumLine tile) t.dom
  have hdata : tileData (s.sumLine tile) tile = tileData s tile := by
    unfold tileData
    simp only [(sumLine_same tile).byte]
  refine ⟨icacheHold (icacheRoom (s.sumLine tile) t.dom) t.dom tile (tileData (s.sumLine tile) tile), ?_, ?_, ?_⟩
  · unfold icacheFill
    dsimp only
    rw [if_neg (not_not.2 hpend), hp]
    dsimp only
    rw [hmiss]
    dsimp only
    rw [tileCheck_whole hf hb]
    rfl
  · rw [hroom, hline]; rfl
  · rw [hdata]
    exact smFind_smSet_self _ _ _

theorem exec_icacheFill (t : Th) (ha : s.pst = 3) : exec (.icacheFill t) s = .next (settle (icacheFill s t)) := by
  show Host.Outcome.next (inActive s _) = _
  rw [inActive, if_pos ha]

/-- A fetch that missed finds its word once the tile has been filled. -/
theorem fetch_filled {x y : Thread} {tile : Nat} (hmiss : fetch s t x p = .miss tile) (hfill : Filled s u t.dom tile) (hpc : y.pc = x.pc) :
    ∃ w, fetch u t y p = .word w ∧
      ∀ a, translate s .fetch rExec p.ctx p.no (p.image + p.codeOff + x.pc.toNat) 8 = .mem a → a % 8 = 0 →
        w = ofLE ((List.range 8).map fun i => s.byte (a + i)) := by
  have hmap : translate u .fetch rExec p.ctx p.no (p.image + p.codeOff + y.pc.toNat) 8 =
      translate s .fetch rExec p.ctx p.no (p.image + p.codeOff + x.pc.toNat) 8 := by rw [hpc, hfill.rest]; rfl
  have hfence (tile : Nat) : u.tileFenced tile = s.tileFenced tile := by rw [hfill.rest]; rfl
  unfold fetch at hmiss ⊢
  dsimp only at hmiss ⊢
  rw [hmap, hpc]
  split at hmiss
  · cases hmiss
  next hin =>
    rw [if_neg hin]
    split at hmiss
    next a ha =>
      split at hmiss
      · cases hmiss
      next hopen =>
        split at hmiss
        · cases hmiss
          refine ⟨_, by rw [hfence, if_neg hopen, hfill.data], fun b hb hal => ?_⟩
          cases ha.symm.trans hb
          rw [word_tileData s hal]
        · cases hmiss
    · cases hmiss

/-- Settles O26: a launch's header, its signature, its admission and the fill of its code. -/
theorem launchSteps : Obligations.LaunchSteps := by
  refine ⟨?_, ?_, ?_, ?_⟩
  · intro s v r h l a hact hctrl hpool hq hz hw hd hf hi hread hparse hmap
    have hrun : exec (.launch r) s = .next (settle (launchReq (s.trkTake r.ctx 0) r s.sq.opNo)) := by
      rw [exec_launch hact hpool hq, launchOrHold_eq (s := s.trkTake r.ctx 0) hz hw hctrl]
    rw [launchReq_of_header (s := s.trkTake r.ctx 0) hd hf hi hread hparse hmap] at hrun
    obtain ⟨hsq, hbytes⟩ : v.sq = (s.trkTake r.ctx 0).sq ∧ MemSame s v := readImage_frame hread
    have hlq : v.sq.lq = s.sq.lq := by rw [hsq]; rfl
    have hwait : v.sq.sigWait = s.sq.sigWait := by rw [hsq]; rfl
    have htrk : smFind v.sq.trk s.sq.opNo = some (r.ctx, 0) := by rw [hsq]; exact smFind_smSet_self _ _ _
    refine ⟨fun hpriv howned => ?_, fun hpriv hctx => ?_⟩
    · rw [if_neg (by simp [hpriv]), queueLaunch_owned howned] at hrun
      exact ⟨_, hrun, congrArg (· ++ [l]) hlq, hwait, htrk, hbytes⟩
    · rw [if_pos hpriv, if_neg (not_not.2 hctx)] at hrun
      exact ⟨_, hrun, hlq, congrArg (· ++ [l]) hwait, htrk, hbytes⟩
  · intro s v dom l rest img hact htake hread howned
    refine ⟨_, exec_privSignatureVerified hact htake hread, ?_⟩
    have hwait : v.sq.sigWait = rest := by rw [(readImage_frame hread).1]
    obtain ⟨hbytes, hsig, hlq⟩ := refuseLaunch_signature v l.r l.p.no
    cases smFind v.ci.slots l.sigKey with
    | none => exact ⟨hbytes, hsig.trans hwait, hlq⟩
    | some key =>
      by_cases hvalid :
          Config.slhDsa256s key (img.take (l.p.codeOff + l.p.codeSize)) (slice img (l.p.codeOff + l.p.codeSize) 29792) = true
      · simp only [if_pos hvalid, queueLaunch_owned howned]
        exact ⟨fun _ => rfl, hwait, trivial⟩
      · simp only [if_neg hvalid]
        exact ⟨hbytes, hsig.trans hwait, hlq⟩
  · exact fun s dom l rest hact htake => exec_launchSlotsFree hact htake
  · intro s t p tile hact hpend hp hmiss hf hb
    obtain ⟨v, hv, hfill⟩ := icacheFill_whole hpend hp hmiss hf hb
    have hrun := exec_icacheFill t hact
    rw [hv] at hrun
    have hthr (x : Th) : v.thr x = s.thr x := by rw [hfill.rest]; rfl
    obtain ⟨w, hw, hword⟩ := fetch_filled (y := { s.thr t with st := .ready, cause := 0, pend := .none }) hmiss hfill rfl
    refine ⟨_, w, hrun, State.thr_setThr_self _ t _, ?_, hword, fun x hx => ?_, ?_, ?_⟩
    · rw [State.thr_setThr_self]; exact hw
    · rw [State.thr_setThr_ne _ _ hx, hthr]
    · rw [hfill.rest]; exact fun _ _ => rfl
    · rw [hfill.rest]; exact fun _ => rfl

end Sys2Proof.Machine

/-! ## The words of Ulent instructions (R155–R159) -/

namespace Sys2Proof.Machine

/-! ### Fields of a word -/

/-- The opcode of a word stands in its top byte. -/
theorem opcode_of_range {op w : Nat} (hlo : op * 2 ^ 56 ≤ w) (hhi : w < (op + 1) * 2 ^ 56) (hop : op < 256) : bits w 56 8 = op := by
  rw [bits_eq]
  omega

/-- A 32-bit immediate in the low half of a word. -/
theorem ofNat_bits_of_mod {w : Nat} {v : BitVec 32} (h : w % 2 ^ 32 = v.toNat) : BitVec.ofNat 32 (bits w 0 32) = v := by
  rw [bits_eq, Nat.pow_zero, Nat.div_one, h, BitVec.ofNat_toNat, BitVec.setWidth_eq]

/-- A one-bit field that a Bool has been put in. -/
theorem bits_beq_one {w lo : Nat} {b : Bool} (h : bits w lo 1 = b2n b) : (bits w lo 1 == 1) = b := by
  rw [h]
  cases b <;> rfl

theorem b2n_le_one (b : Bool) : b2n b ≤ 1 := by
  cases b <;> decide

/-! ### One lemma for each format -/

section Formats

variable {t : Th} {op gd ga gb dd w : Nat} {off : BitVec 32}

/-- Formats 0 and 1: ADD to SAR. -/
theorem ulDecode_encAlu {b : Opd} (k : Nat → Nat → Opd → Instr) (hop : op < 256) (hd : gd < 32) (ha : ga < 32) (hb : wfOpd b = true)
    (hdec : ∀ w, bits w 56 8 = op → ulDecode t w = decAlu w k := by intro w h; simp only [ulDecode, h]) :
    ulDecode t (encAlu op gd ga b) = some (k gd ga b) := by
  cases b with
  | reg gb =>
    have hb : gb < 32 := by simpa [wfOpd] using hb
    rw [encAlu, encHead, hdec _ (opcode_of_range (by omega) (by omega) hop), decAlu]
    simp only [bits_eq]
    rw [if_pos (by omega), if_pos (by omega)]
    congr <;> omega
  | imm v =>
    have hv := v.isLt
    rw [encAlu, encHead, hdec _ (opcode_of_range (by omega) (by omega) hop), decAlu, ofNat_bits_of_mod (v := v) (by omega)]
    simp only [bits_eq]
    rw [if_neg (by omega), if_pos (by omega), if_pos (by omega)]
    congr <;> omega

/-- Formats 2 and 3. -/
theorem ulDecode_cmp {pd cond : Nat} {b : Opd} (hp : pd < 8) (hc : cond ≤ 10) (ha : ga < 32) (hb : wfOpd b = true)
    (hw : ulEncode (.cmp t pd cond ga b) = some w) : ulDecode t w = some (.cmp t pd cond ga b) := by
  have hdec (w : Nat) (h : bits w 56 8 = 0x0A) : ulDecode t w = decCmp t w := by simp only [ulDecode, h]
  cases b with
  | reg gb =>
    have hb : gb < 32 := by simpa [wfOpd] using hb
    cases hw
    rw [encHead, hdec _ (opcode_of_range (by omega) (by omega) (by decide)), decCmp]
    simp only [bits_eq]
    rw [if_neg (by omega), if_pos (by omega), if_pos (by omega)]
    congr <;> omega
  | imm v =>
    have hv := v.isLt
    cases hw
    rw [encHead, hdec _ (opcode_of_range (by omega) (by omega) (by decide)), decCmp, ofNat_bits_of_mod (v := v) (by omega)]
    simp only [bits_eq]
    rw [if_neg (by omega), if_neg (by omega), if_pos (by omega), if_pos (by omega)]
    congr <;> omega

/-- Format 4: LI and LIH. -/
theorem ulDecode_imm (k : Nat → BitVec 32 → Instr) (hop : op < 256) (hd : gd < 32)
    (hdec : ∀ w, bits w 56 8 = op → ulDecode t w = decLi w k := by intro w h; simp only [ulDecode, h]) :
    ulDecode t (encHead op 4 + gd * 2 ^ 47 + off.toNat) = some (k gd off) := by
  have hv := off.isLt
  rw [encHead, hdec _ (opcode_of_range (by omega) (by omega) hop), decLi, ofNat_bits_of_mod (v := off) (by omega)]
  simp only [bits_eq]
  rw [if_pos (by omega)]
  congr; omega

/-- Format 5: a register and a predicate stand only in the instructions that use them. -/
theorem decBr_eq {ps : Nat} {sense useG useP : Bool} (k : Nat → Nat → Bool → BitVec 32 → Instr) (ha : ga < 32) (hp : ps < 8)
    (hG : useG = true ∨ ga = 0) (hP : useP = true ∨ ps = 0 ∧ sense = false)
    (hw : w = encHead op 5 + ga * 2 ^ 47 + ps * 2 ^ 44 + b2n sense * 2 ^ 43 + off.toNat) : decBr w useG useP k = some (k ga ps sense off) := by
  have hv := off.isLt
  have hs := b2n_le_one sense
  have hzero : useP = true ∨ ps = 0 ∧ b2n sense = 0 := hP.imp_right fun h => ⟨h.1, by rw [h.2]; rfl⟩
  rw [encHead] at hw
  rw [decBr, ofNat_bits_of_mod (v := off) (by omega), bits_beq_one (b := sense) (by rw [bits_eq]; omega)]
  simp only [bits_eq]
  rw [if_pos ⟨by omega, by omega, hG.imp_right fun _ => by omega, hzero.imp_right fun _ => by omega⟩]
  congr <;> omega

/-- Format 5 by opcode. -/
theorem ulDecode_br {ps : Nat} {sense : Bool} (op : Nat) (useG useP : Bool) (k : Nat → Nat → Bool → BitVec 32 → Instr) (hop : op < 256) (ha : ga < 32) (hp : ps < 8)
    (hG : useG = true ∨ ga = 0) (hP : useP = true ∨ ps = 0 ∧ sense = false)
    (hw : w = encHead op 5 + ga * 2 ^ 47 + ps * 2 ^ 44 + b2n sense * 2 ^ 43 + off.toNat)
    (hdec : ∀ w, bits w 56 8 = op → ulDecode t w = decBr w useG useP k := by intro w h; simp only [ulDecode, h]) :
    ulDecode t w = some (k ga ps sense off) := by
  have hv := off.isLt
  have hs := b2n_le_one sense
  have hrange : op * 2 ^ 56 ≤ w ∧ w < (op + 1) * 2 ^ 56 := by rw [hw, encHead]; omega
  rw [hdec w (opcode_of_range hrange.1 hrange.2 hop), decBr_eq k ha hp hG hP hw]

theorem ulDecode_ret (ha : ga < 32) : ulDecode t (encHead 0x23 5 + ga * 2 ^ 47) = some (.ret t ga) := by
  have hdec (w : Nat) (h : bits w 56 8 = 0x23) :
      ulDecode t w = if bits w 0 32 = 0 then decBr w true false fun ga _ _ _ => .ret t ga else none := by simp only [ulDecode, h]
  rw [hdec _ (by rw [encHead]; exact opcode_of_range (by omega) (by omega) (by decide)), if_pos (by rw [encHead, bits_eq]; omega)]
  exact decBr_eq (op := 0x23) (sense := false) (off := 0#32) _ ha (by decide : 0 < 8) (.inl rfl) (.inr ⟨rfl, rfl⟩) (by simp [b2n])

/-- Format 6. -/
theorem ulDecode_dset {n lo wid : Nat} (hd : dd < 16) (hn : n < 4) (hwid : wid < 64) (hlo : lo + (if wid = 0 then 64 else wid) ≤ 64) (ha : ga < 32) :
    ulDecode t (encHead 0x30 6 + dd * 2 ^ 48 + n * 2 ^ 46 + lo * 2 ^ 40 + wid * 2 ^ 34 + ga * 2 ^ 29) = some (.dset t dd n lo wid ga) := by
  have hlt : lo < 64 := by split at hlo <;> omega
  have hdec (w : Nat) (h : bits w 56 8 = 0x30) : ulDecode t w = decDset t w := by simp only [ulDecode, h]
  rw [encHead, hdec _ (opcode_of_range (by omega) (by omega) (by decide)), decDset]
  simp only [bits_eq]
  have hw : (48 * 2 ^ 56 + 6 * 2 ^ 52 + dd * 2 ^ 48 + n * 2 ^ 46 + lo * 2 ^ 40 + wid * 2 ^ 34 + ga * 2 ^ 29) / 2 ^ 34 % 2 ^ 6 = wid := by omega
  have hl : (48 * 2 ^ 56 + 6 * 2 ^ 52 + dd * 2 ^ 48 + n * 2 ^ 46 + lo * 2 ^ 40 + wid * 2 ^ 34 + ga * 2 ^ 29) / 2 ^ 40 % 2 ^ 6 = lo := by omega
  rw [hw, hl, if_pos ⟨by omega, by omega, hlo⟩]
  congr <;> omega

/-- Format 7 of DLD and DST. -/
theorem ulDecode_dls (k : Nat → Nat → BitVec 32 → Instr) (hop : op < 256) (hd : dd < 16) (ha : ga < 32)
    (hdec : ∀ w, bits w 56 8 = op → ulDecode t w = decDls w k := by intro w h; simp only [ulDecode, h]) :
    ulDecode t (encMem op dd ga 0 0 off) = some (k dd ga off) := by
  have hv := off.isLt
  rw [encMem, encHead, hdec _ (opcode_of_range (by omega) (by omega) hop), decDls, ofNat_bits_of_mod (v := off) (by omega)]
  simp only [bits_eq]
  rw [if_pos ⟨by omega, by omega, by omega⟩]
  congr <;> omega

/-- Format 7, field by field. -/
theorem encMem_fields {size space : Nat} (hop : op < 256) (hd : gd < 32) (ha : ga < 32) (hz : size < 4) (hs : space < 4) :
    let w := encMem op gd ga size space off
    bits w 56 8 = op ∧ bits w 52 4 = 7 ∧ bits w 47 5 = gd ∧ bits w 42 5 = ga ∧ bits w 40 2 = size ∧ bits w 38 2 = space ∧ bits w 32 6 = 0 ∧
      BitVec.ofNat 32 (bits w 0 32) = off := by
  intro w
  have hv := off.isLt
  have hw : w = op * 2 ^ 56 + 7 * 2 ^ 52 + gd * 2 ^ 47 + ga * 2 ^ 42 + size * 2 ^ 40 + space * 2 ^ 38 + off.toNat := rfl
  refine ⟨?_, ?_, ?_, ?_, ?_, ?_, ?_, ofNat_bits_of_mod (by omega)⟩ <;> rw [bits_eq] <;> omega

/-- Space 0. -/
theorem ulDecode_ld {size : Nat} (hd : gd < 32) (ha : ga < 32) (hz : size < 4) :
    ulDecode t (encMem 0x38 gd ga size 0 off) = some (.ld t gd ga size off) := by
  obtain ⟨hop, hfmt, hgd, hga, hsize, hspace, hzero, himm⟩ := encMem_fields (op := 0x38) (off := off) (by decide) hd ha hz (by decide : 0 < 4)
  simp only [ulDecode, hop, decLd, hfmt, hgd, hga, hsize, hspace, hzero, himm, and_self, if_true]

/-- Spaces 1 and 2, of 8 bytes. -/
theorem ulDecode_ld_space (hd : gd < 32) (ha : ga < 32) :
    ulDecode t (encMem 0x38 gd ga 3 1 off) = some (.ldSyncCount t gd ga off) ∧
      ulDecode t (encMem 0x38 gd ga 3 2 off) = some (.ldFailureLatch t gd ga off) := by
  have hspace {space : Nat} (hs : space < 4) := encMem_fields (op := 0x38) (off := off) (by decide) hd ha (by decide : 3 < 4) hs
  constructor
  · obtain ⟨hop, hfmt, hgd, hga, hsize, hspace, hzero, himm⟩ := hspace (by decide : 1 < 4)
    simp [ulDecode, hop, decLd, hfmt, hgd, hga, hsize, hspace, hzero, himm]
  · obtain ⟨hop, hfmt, hgd, hga, hsize, hspace, hzero, himm⟩ := hspace (by decide : 2 < 4)
    simp [ulDecode, hop, decLd, hfmt, hgd, hga, hsize, hspace, hzero, himm]

theorem ulDecode_st {size : Nat} (hd : gd < 32) (ha : ga < 32) (hz : size < 4) :
    ulDecode t (encMem 0x39 gd ga size 0 off) = some (.st t gd ga size off) := by
  obtain ⟨hop, hfmt, hgd, hga, hsize, hspace, hzero, himm⟩ := encMem_fields (op := 0x39) (off := off) (by decide) hd ha hz (by decide : 0 < 4)
  simp only [ulDecode, hop, decSt, hfmt, hgd, hga, hsize, hspace, hzero, himm, and_self, if_true]

/-- Format 8: by `er`, the engine is named by a register or by the word. -/
theorem ulDecode_issueWord {er wait : Bool} {eng : Nat} (op : Nat) (hop : op < 256) (hd : dd < 16) (hg : gd < 32) (he : wfEng er ga eng = true)
    (hwait : wait = true ∨ gd = 0) (hw : w = encHead op 8 + gd * 2 ^ 47 + dd * 2 ^ 43 + b2n er * 2 ^ 42 + ga * 2 ^ 37 + eng)
    (hdec : ∀ w, bits w 56 8 = op → ulDecode t w = decIssue t w wait := by intro w h; simp only [ulDecode, h]) :
    ulDecode t w = some (if wait then .issuew t gd dd er ga eng else .issue t dd er ga eng) := by
  have hform : b2n er ≤ 1 ∧ ga < 32 ∧ eng < 64 ∧ (b2n er = 1 ∨ ga = 0) ∧ (b2n er = 0 ∨ eng = 0) := by
    cases er
    · obtain ⟨ha, he⟩ : ga = 0 ∧ eng < 64 := by simpa [wfEng] using he
      exact ⟨by decide, by omega, he, .inr ha, .inl rfl⟩
    · obtain ⟨ha, he⟩ : ga < 32 ∧ eng = 0 := by simpa [wfEng] using he
      exact ⟨by decide, ha, by omega, .inl rfl, .inr he⟩
  obtain ⟨her, ha, heng, hga, hz⟩ := hform
  rw [encHead] at hw
  have hgd : bits w 47 5 = gd := by rw [bits_eq]; omega
  have hdd : bits w 43 4 = dd := by rw [bits_eq]; omega
  have hone : bits w 42 1 = b2n er := by rw [bits_eq]; omega
  have hreg : bits w 37 5 = ga := by rw [bits_eq]; omega
  have hnum : bits w 0 6 = eng := by rw [bits_eq]; omega
  have hfmt : bits w 52 4 = 8 := by rw [bits_eq]; omega
  have hzero : bits w 6 31 = 0 := by rw [bits_eq]; omega
  rw [hdec w (opcode_of_range (by omega) (by omega) hop), decIssue, bits_beq_one hone, hgd, hdd, hone, hreg, hnum, hfmt, hzero,
    if_pos ⟨rfl, rfl, hga, hz⟩]
  cases wait
  · simpa using hwait
  · rfl

/-- Format 9 of SIG, WAIT and ARM. -/
theorem ulDecode_sy {idx : Nat} (k : Nat → Nat → Nat → Instr) (hop : op < 256) (ha : ga < 32) (hb : gb < 32) (hi : idx < 4096)
    (hdec : ∀ w, bits w 56 8 = op → ulDecode t w = decSy w k := by intro w h; simp only [ulDecode, h]) :
    ulDecode t (encSy op 0 ga gb idx 0) = some (k ga gb idx) := by
  rw [encSy, encHead, hdec _ (opcode_of_range (by omega) (by omega) hop), decSy]
  simp only [bits_eq]
  rw [if_pos ⟨by omega, by omega, by omega, by omega⟩]
  congr <;> omega

theorem ulDecode_waitt {pd idx ticks : Nat} (hp : pd < 8) (ha : ga < 32) (hb : gb < 32) (hi : idx < 4096) (hpos : 1 ≤ ticks) (ht : ticks < 65536) :
    ulDecode t (encSy 0x4A pd ga gb idx ticks) = some (.waitt t pd ga gb idx ticks) := by
  have hdec (w : Nat) (h : bits w 56 8 = 0x4A) : ulDecode t w = decWaitt t w := by simp only [ulDecode, h]
  rw [encSy, encHead, hdec _ (opcode_of_range (by omega) (by omega) (by decide)), decWaitt]
  simp only [bits_eq]
  rw [if_pos ⟨by omega, by omega, by omega⟩]
  congr <;> omega

/-- Format 10: an entry is named only in mode 1. -/
theorem ulDecode_twait {mode : Bool} {entry : Nat} (h : (if mode then decide (entry < 1024) else entry == 0) = true) :
    ulDecode t (encHead 0x50 10 + b2n mode * 2 ^ 51 + entry * 2 ^ 32) = some (.twait t mode entry) := by
  have hform : b2n mode ≤ 1 ∧ entry < 1024 ∧ (b2n mode = 1 ∨ entry = 0) := by
    cases mode
    · have he : entry = 0 := by simpa using h
      exact ⟨by decide, by omega, .inr he⟩
    · exact ⟨by decide, by simpa using h, .inl rfl⟩
  obtain ⟨hm, he, hused⟩ := hform
  have hdec (w : Nat) (h : bits w 56 8 = 0x50) : ulDecode t w = decTwait t w := by simp only [ulDecode, h]
  rw [encHead, hdec _ (opcode_of_range (by omega) (by omega) (by decide)), decTwait, bits_beq_one (b := mode) (by rw [bits_eq]; omega)]
  simp only [bits_eq]
  rw [if_pos ⟨by omega, by omega, by omega, by omega⟩]
  congr; omega

/-- Format 11 of the posts and SIGR: a register stands only in the instructions that use it. -/
theorem ulDecode_post (useA useB : Bool) (k : Nat → Nat → Nat → Instr) (hop : op < 256) (hd : dd < 16) (ha : ga < 32) (hb : gb < 32)
    (hA : useA = true ∨ ga = 0) (hB : useB = true ∨ gb = 0)
    (hdec : ∀ w, bits w 56 8 = op → ulDecode t w = decPost w useA useB k := by intro w h; simp only [ulDecode, h]) :
    ulDecode t (encPost op dd ga gb) = some (k dd ga gb) := by
  rw [encPost, encHead, hdec _ (opcode_of_range (by omega) (by omega) hop), decPost]
  simp only [bits_eq]
  rw [if_pos ⟨by omega, by omega, hA.imp_right fun _ => by omega, hB.imp_right fun _ => by omega⟩]
  congr <;> omega

theorem codeDefined_lt {code : Nat} (h : codeDefined code = true) : code < 256 := by
  have hall : ∀ c ∈ [0x00, 0x01, 0x10, 0x11, 0x12, 0x13, 0x20, 0x21, 0x30, 0x31, 0x32, 0x40, 0x41, 0x42, 0x50, 0x51, 0x60, 0x61, 0x70, 0x7F], c < 256 := by
    decide
  exact hall code (List.contains_iff_mem.1 h)

theorem ulDecode_cqpost {nf : Bool} {code : Nat} (hd : dd < 16) (ha : ga < 32) (hb : gb < 32) (hc : codeDefined code = true) :
    ulDecode t (encPost 0x5C dd ga gb + b2n nf * 2 ^ 8 + code) = some (.cqpost t dd ga gb nf code) := by
  have hlt := codeDefined_lt hc
  have hn := b2n_le_one nf
  have hdec (w : Nat) (h : bits w 56 8 = 0x5C) : ulDecode t w = decCqpost t w := by simp only [ulDecode, h]
  have hcode : bits (encPost 0x5C dd ga gb + b2n nf * 2 ^ 8 + code) 0 8 = code := by rw [encPost, encHead, bits_eq]; omega
  rw [hdec _ (by rw [encPost, encHead]; exact opcode_of_range (by omega) (by omega) (by decide)), decCqpost, hcode, encPost, encHead,
    bits_beq_one (b := nf) (by rw [bits_eq]; omega)]
  simp only [bits_eq]
  rw [if_pos ⟨by omega, by omega, hc⟩]
  congr <;> omega

/-- Format 12, without an operand. -/
theorem ulDecode_head (c : Instr) (hop : op < 256) (hdec : ∀ w, bits w 56 8 = op → ulDecode t w = decN w c := by intro w h; simp only [ulDecode, h]) :
    ulDecode t (encHead op 12) = some c := by
  rw [encHead, hdec _ (opcode_of_range (by omega) (by omega) hop), decN]
  simp only [bits_eq]
  exact if_pos ⟨by omega, by omega⟩

theorem ulDecode_trap {code : Nat} (hc : code < 256) : ulDecode t (encHead 0x27 12 + code) = some (.trap t code) := by
  have hdec (w : Nat) (h : bits w 56 8 = 0x27) : ulDecode t w = decTrap t w := by simp only [ulDecode, h]
  rw [encHead, hdec _ (opcode_of_range (by omega) (by omega) (by decide)), decTrap]
  simp only [bits_eq]
  rw [if_pos ⟨by omega, by omega⟩]
  congr; omega

theorem ulDecode_mov (hd : gd < 32) (ha : ga < 32) : ulDecode t (encHead 0x0C 0 + gd * 2 ^ 47 + ga * 2 ^ 42) = some (.mov t gd ga) := by
  have hdec (w : Nat) (h : bits w 56 8 = 0x0C) : ulDecode t w = decMov t w := by simp only [ulDecode, h]
  rw [encHead, hdec _ (opcode_of_range (by omega) (by omega) (by decide)), decMov]
  simp only [bits_eq]
  rw [if_pos ⟨by omega, by omega⟩]
  congr <;> omega

/-- Format 13. -/
theorem ulDecode_sel {ps : Nat} (hd : gd < 32) (ha : ga < 32) (hb : gb < 32) (hp : ps < 8) :
    ulDecode t (encHead 0x0B 13 + gd * 2 ^ 47 + ga * 2 ^ 42 + gb * 2 ^ 37 + ps * 2 ^ 34) = some (.sel t gd ga gb ps) := by
  have hdec (w : Nat) (h : bits w 56 8 = 0x0B) : ulDecode t w = decSel t w := by simp only [ulDecode, h]
  rw [encHead, hdec _ (opcode_of_range (by omega) (by omega) (by decide)), decSel]
  simp only [bits_eq]
  rw [if_pos ⟨by omega, by omega⟩]
  congr <;> omega

end Formats

/-- Settles O6, format by format. -/
theorem ulentRoundTrip : Obligations.UlentRoundTrip := by
  intro t c w hwf henc hth
  cases c <;> try cases henc
  all_goals
    cases hth
    simp only [Instr.wf, wfG, Bool.and_eq_true, decide_eq_true_eq] at hwf
  case add gd ga b | sub gd ga b | mul gd ga b | and gd ga b | or gd ga b | xor gd ga b | shl gd ga b | shr gd ga b | sar gd ga b =>
    obtain ⟨⟨⟨-, hd⟩, ha⟩, hb⟩ := hwf
    exact ulDecode_encAlu _ (by decide) hd ha hb
  case cmp pd cond ga b =>
    obtain ⟨⟨⟨⟨-, hp⟩, hc⟩, ha⟩, hb⟩ := hwf
    exact ulDecode_cmp hp hc ha hb henc
  case sel gd ga gb ps =>
    obtain ⟨⟨⟨⟨-, hd⟩, ha⟩, hb⟩, hp⟩ := hwf
    exact ulDecode_sel hd ha hb hp
  case mov gd ga => exact ulDecode_mov hwf.1.2 hwf.2
  case li gd imm | lih gd imm => exact ulDecode_imm _ (by decide) hwf.2
  case br off =>
    exact ulDecode_br 0x20 false false (fun _ _ _ off => .br t off) (by decide) (by decide : 0 < 32) (by decide : 0 < 8) (.inr rfl) (.inr ⟨rfl, rfl⟩) (by simp [b2n])
  case brp ps sense off =>
    exact ulDecode_br 0x21 false true (fun _ ps sense off => .brp t ps sense off) (by decide) (by decide : 0 < 32) hwf.2 (.inr rfl) (.inl rfl) (by simp)
  case call ga off =>
    exact ulDecode_br 0x22 true false (fun ga _ _ off => .call t ga off) (by decide) hwf.2 (by decide : 0 < 8) (.inl rfl) (.inr ⟨rfl, rfl⟩) (by simp [b2n])
  case loop ga off =>
    exact ulDecode_br 0x24 true false (fun ga _ _ off => .loop t ga off) (by decide) hwf.2 (by decide : 0 < 8) (.inl rfl) (.inr ⟨rfl, rfl⟩) (by simp [b2n])
  case ret ga => exact ulDecode_ret hwf.2
  case halt | yield | step | fenceE | fenceF | fenceH => exact ulDecode_head _ (by decide)
  case trap code => exact ulDecode_trap hwf.2
  case dset dd n lo wid ga =>
    obtain ⟨⟨⟨⟨⟨-, hd⟩, hn⟩, hwid⟩, hlo⟩, ha⟩ := hwf
    exact ulDecode_dset hd hn hwid hlo ha
  case dld dd ga off | dst dd ga off => exact ulDecode_dls _ (by decide) hwf.1.2 hwf.2
  case ld gd ga size off =>
    obtain ⟨⟨⟨-, hd⟩, ha⟩, hz⟩ := hwf
    exact ulDecode_ld hd ha hz
  case ldSyncCount gd ga off => exact (ulDecode_ld_space hwf.1.2 hwf.2).1
  case ldFailureLatch gd ga off => exact (ulDecode_ld_space hwf.1.2 hwf.2).2
  case st gd ga size off =>
    obtain ⟨⟨⟨-, hd⟩, ha⟩, hz⟩ := hwf
    exact ulDecode_st hd ha hz
  case issue dd er ga eng => exact ulDecode_issueWord 0x40 (wait := false) (gd := 0) (by decide) hwf.1.2 (by decide) hwf.2 (.inr rfl) (by simp)
  case issuew gd dd er ga eng =>
    obtain ⟨⟨⟨-, hg⟩, hd⟩, he⟩ := hwf
    exact ulDecode_issueWord 0x41 (wait := true) (by decide) hd hg he (.inl rfl) rfl
  case sig ga gb idx | wait ga gb idx | arm ga gb idx =>
    obtain ⟨⟨⟨-, ha⟩, hb⟩, hi⟩ := hwf
    exact ulDecode_sy _ (by decide) ha hb hi
  case waitt pd ga gb idx ticks =>
    obtain ⟨⟨⟨⟨⟨⟨-, hp⟩, ha⟩, hb⟩, hi⟩, hpos⟩, ht⟩ := hwf
    exact ulDecode_waitt hp ha hb hi hpos ht
  case sigr dd ga =>
    obtain ⟨⟨-, hd⟩, ha⟩ := hwf
    exact ulDecode_post true false (fun dd ga _ => .sigr t dd ga) (by decide) hd ha (by decide : 0 < 32) (.inl rfl) (.inr rfl)
  case twait mode entry => exact ulDecode_twait hwf.2
  case postwr dd => exact ulDecode_post false false (fun dd _ _ => .postwr t dd) (by decide) hwf.2 (by decide : 0 < 32) (by decide : 0 < 32) (.inr rfl) (.inr rfl)
  case postrd dd => exact ulDecode_post false false (fun dd _ _ => .postrd t dd) (by decide) hwf.2 (by decide : 0 < 32) (by decide : 0 < 32) (.inr rfl) (.inr rfl)
  case postsend dd => exact ulDecode_post false false (fun dd _ _ => .postsend t dd) (by decide) hwf.2 (by decide : 0 < 32) (by decide : 0 < 32) (.inr rfl) (.inr rfl)
  case postatom dd ga gb =>
    obtain ⟨⟨⟨-, hd⟩, ha⟩, hb⟩ := hwf
    exact ulDecode_post true true (.postatom t) (by decide) hd ha hb (.inl rfl) (.inl rfl)
  case cqpost dd ga gb nf code =>
    obtain ⟨⟨⟨⟨-, hd⟩, ha⟩, hb⟩, hc⟩ := hwf
    exact ulDecode_cqpost hd ha hb hc

end Sys2Proof.Machine

namespace Sys2Proof.Machine

section Moves

variable {s : State} {t : Th} {c : Instr} {p : Program}

/-- The halves of a word that is put together from two. -/
theorem extractLsb'_halves (hi : BitVec 32) (lo : Nat) :
    (BitVec.ofNat 64 (hi.toNat * 2 ^ 32 + lo % 2 ^ 32)).extractLsb' 32 32 = hi ∧
      (BitVec.ofNat 64 (hi.toNat * 2 ^ 32 + lo % 2 ^ 32)).extractLsb' 0 32 = BitVec.ofNat 32 lo := by
  have hhi := hi.isLt
  have hlo : lo % 2 ^ 32 < 2 ^ 32 := Nat.mod_lt _ (by decide)
  constructor <;> apply BitVec.eq_of_toNat_eq <;>
    rw [BitVec.extractLsb'_toNat, BitVec.toNat_ofNat, Nat.shiftRight_eq_div_pow]
  · omega
  · rw [BitVec.toNat_ofNat]; omega

/-- Settles O8: each writes its result to gd and goes on; LIH puts its result together from two halves. -/
theorem moveResult : Obligations.MoveResult := by
  intro s t p gd ga gb ps imm x
  refine ⟨fun h => wroteG_of_issues h rfl, fun h => wroteG_of_issues h rfl, fun h => ?_, fun h => wroteG_of_issues h rfl⟩
  obtain ⟨u, hu, hwrote⟩ := wroteG_of_issues (f := fun x => BitVec.ofNat 64 (imm.toNat * 2 ^ 32 + (x.gr gd).toNat % 2 ^ 32)) h rfl
  obtain ⟨hupper, hlower⟩ := extractLsb'_halves imm (x.gr gd).toNat
  refine ⟨u, _, hu, hwrote, hupper, hlower.trans ?_⟩
  apply BitVec.eq_of_toNat_eq
  simp

end Moves

end Sys2Proof.Machine

namespace Sys2Proof.Machine

/-! ## What a word that has been decoded tells (R157) -/

theorem decAlu_ne {w : Nat} {k : Nat → Nat → Opd → Instr} {c : Instr} (h : ∀ x y o, k x y o ≠ c) : decAlu w k ≠ some c := by
  unfold decAlu
  split_ifs <;> simp [h]

theorem decLd_ne {t : Th} {w : Nat} {c : Instr} (h0 : ∀ g a n v, .ld t g a n v ≠ c) (h1 : ∀ g a v, .ldSyncCount t g a v ≠ c)
    (h2 : ∀ g a v, .ldFailureLatch t g a v ≠ c) : decLd t w ≠ some c := by
  unfold decLd
  split_ifs <;> simp [h0, h1, h2]

theorem decCmp_ne {t : Th} {w : Nat} {c : Instr} (h : ∀ d k a b, .cmp t d k a b ≠ c) : decCmp t w ≠ some c := by
  unfold decCmp
  split_ifs <;> simp [h]

/-- CMP, DSET and LD come from their own decoders. -/
theorem ulDecode_own {t : Th} {w pd cond ga dd n lo wid gd size : Nat} {b : Opd} {off : BitVec 32} :
    (ulDecode t w = some (.cmp t pd cond ga b) → decCmp t w = some (.cmp t pd cond ga b)) ∧
    (ulDecode t w = some (.dset t dd n lo wid ga) → decDset t w = some (.dset t dd n lo wid ga)) ∧
    (ulDecode t w = some (.ld t gd ga size off) → decLd t w = some (.ld t gd ga size off)) := by
  unfold ulDecode
  split
  case h_10 => exact ⟨id, by simp [decCmp_ne], by simp [decCmp_ne]⟩
  case h_23 => exact ⟨by simp [decDset], id, by simp [decDset]⟩
  case h_26 => exact ⟨by simp [decLd_ne], by simp [decLd_ne], id⟩
  all_goals
    simp [decAlu_ne, decLi, decBr, decDls, decSt, decIssue, decSy, decWaitt, decTwait, decPost, decCqpost, decN, decTrap, decMov, decSel]

/-- A CMP's predicate is one of eight, its condition one of 0 to 10 (R164). -/
theorem cmp_bounds {t : Th} {w pd cond ga : Nat} {b : Opd} (h : ulDecode t w = some (.cmp t pd cond ga b)) : pd < 8 ∧ cond ≤ 10 := by
  have hdec := ulDecode_own (dd := 0) (n := 0) (lo := 0) (wid := 0) (gd := 0) (size := 0) (off := 0) |>.1 h
  have hfield : bits w 49 3 < 2 ^ 3 := bits_lt _ _ _
  unfold decCmp at hdec
  split_ifs at hdec <;> cases hdec <;> exact ⟨hfield, by omega⟩

/-- A DSET's field lies within its word (R172). -/
theorem dset_bounds {t : Th} {w dd n lo wid ga : Nat} (h : ulDecode t w = some (.dset t dd n lo wid ga)) :
    n < 4 ∧ lo + (if wid = 0 then 64 else wid) ≤ 64 := by
  have hdec := ulDecode_own (pd := 0) (cond := 0) (b := .reg 0) (gd := 0) (size := 0) (off := 0) |>.2.1 h
  have hfield : bits w 46 2 < 2 ^ 2 := bits_lt _ _ _
  simp only [decDset, Option.ite_none_right_eq_some] at hdec
  obtain ⟨⟨-, -, hfit⟩, heq⟩ := hdec
  cases heq
  exact ⟨hfield, hfit⟩

/-- An LD of space 0 is of at most 8 bytes (R173). -/
theorem ld_bounds {t : Th} {w gd ga size : Nat} {off : BitVec 32} (h : ulDecode t w = some (.ld t gd ga size off)) : size ≤ 3 := by
  have hdec := ulDecode_own (pd := 0) (cond := 0) (b := .reg 0) (dd := 0) (n := 0) (lo := 0) (wid := 0) |>.2.2 h
  have hfield : bits w 40 2 < 2 ^ 2 := bits_lt _ _ _
  unfold decLd at hdec
  split_ifs at hdec
  · cases hdec
    omega
  all_goals cases hdec

theorem condHolds_iff (a v : Word) :
    (condHolds 0 a v = true ↔ a = v) ∧ (condHolds 1 a v = true ↔ a ≠ v) ∧
    (condHolds 2 a v = true ↔ a.toInt < v.toInt) ∧ (condHolds 3 a v = true ↔ v.toInt ≤ a.toInt) ∧
    (condHolds 4 a v = true ↔ a.toNat < v.toNat) ∧ (condHolds 5 a v = true ↔ v.toNat ≤ a.toNat) ∧
    (condHolds 6 a v = true ↔ a.toInt ≤ v.toInt) ∧ (condHolds 7 a v = true ↔ v.toInt < a.toInt) ∧
    (condHolds 8 a v = true ↔ a.toNat ≤ v.toNat) ∧ (condHolds 9 a v = true ↔ v.toNat < a.toNat) ∧
    (condHolds 10 a v = true ↔ a &&& v ≠ 0#64) := by
  simp [condHolds, BitVec.slt, BitVec.sle, BitVec.ult, BitVec.ule]

/-- Settles O9: the word bounds the operands, and the predicate that is written reads the condition. -/
theorem cmpResult : Obligations.CmpResult := by
  intro s t p pd cond ga b h a v
  obtain ⟨w, -, hdec⟩ := h.word
  obtain ⟨hpd, hcond⟩ := cmp_bounds hdec
  have hself : ((s.thr t).setP pd (condHolds cond a v)).next.pr pd = condHolds cond a v := Thread.pr_setP_self _ _ hpd
  refine ⟨hcond, _, answers_of h rfl, onlyThread_setThr _, ?_⟩
  rw [stepTo_eq, State.thr_setThr_self, hself]
  refine ⟨rfl, fun n hn => Thread.pr_setP_ne _ _ hn, ?_⟩
  obtain ⟨h0, h1, h2, h3, h4, h5, h6, h7, h8, h9, h10⟩ := condHolds_iff a v
  refine ⟨?_, ?_, ?_, ?_, ?_, ?_, ?_, ?_, ?_, ?_, ?_⟩ <;> rintro rfl <;> assumption

/-! ## DSET and the failure latch (R171, R172) -/

/-- The bits of a field that is written are those of the value. -/
theorem bit_putBits_inside (w v : Nat) {lo n i : Nat} (hlo : lo ≤ i) (hhi : i < lo + n) : bit (putBits w lo n v) i = bit v (i - lo) := by
  have hbit := testBit_bits (putBits w lo n v) lo (n := n) (i := i - lo) (by omega)
  rw [bits_putBits_self, Nat.testBit_mod_two_pow, decide_eq_true (by omega), Bool.true_and, Nat.add_sub_of_le hlo] at hbit
  exact hbit.symm

/-- A field of a descriptor word that is written. -/
theorem getLsbD_dput (d : BitVec 256) (w lo n : Nat) (v : Word) {i : Nat} (hi : i < 256) :
    (dput d w lo n v.toNat).getLsbD i = if 64 * w + lo ≤ i ∧ i < 64 * w + lo + n then v.getLsbD (i - (64 * w + lo)) else d.getLsbD i := by
  rw [dput, BitVec.getLsbD_ofNat, decide_eq_true hi, Bool.true_and]
  split
  next hin => exact bit_putBits_inside _ _ hin.1 hin.2
  next hout => exact bit_putBits_outside _ _ (by omega)

/-- What an LD of the failure latch returns, field by field. -/
theorem latchWord_eq (count code tag : Nat) :
    BitVec.ofNat 64 (tag % 2 ^ 32 + code % 256 * 2 ^ 32 + count % 2 ^ 24 * 2 ^ 40) = BitVec.ofNat 24 count ++ BitVec.ofNat 8 code ++ BitVec.ofNat 32 tag := by
  have hcode : code % 2 ^ 8 < 2 ^ 8 := Nat.mod_lt _ (by decide)
  have htag : tag % 2 ^ 32 < 2 ^ 32 := Nat.mod_lt _ (by decide)
  apply BitVec.eq_of_toNat_eq
  rw [BitVec.toNat_append, BitVec.toNat_append, BitVec.toNat_ofNat, BitVec.toNat_ofNat, BitVec.toNat_ofNat, BitVec.toNat_ofNat,
    ← Nat.shiftLeft_add_eq_or_of_lt hcode, ← Nat.shiftLeft_add_eq_or_of_lt htag, Nat.shiftLeft_eq, Nat.shiftLeft_eq]
  omega

theorem Thread.gr_setG_eq (x : Thread) (n : Nat) (v : Word) : (x.setG n v).gr n = if n = 0 then 0#64 else v := by
  split
  next hz => rw [hz]; rfl
  next hnz => exact Thread.gr_setG_self _ _ hnz

/-- A thread that goes on after a write to a descriptor register. -/
theorem Thread.next_setD (x : Thread) (n : Nat) (v : BitVec 256) :
    let y := (x.setD n v).next
    y.dr n = v ∧ (∀ m, m ≠ n → y.dr m = x.dr m) ∧ y = { x with d := y.d, pc := x.pc + 8#64 } :=
  ⟨smGet_smPut_self _ _ _ _, fun _ hm => smGet_smPut_ne _ _ _ hm, rfl⟩

theorem Thread.setG_eq (x : Thread) (n : Nat) (v : Word) : x.setG n v = { x with g := (x.setG n v).g } := by
  unfold Thread.setG
  split <;> rfl

/-- Settles O11: the bits that DSET writes, and the word that the latch is read as. -/
theorem descriptorAndLatch : Obligations.DescriptorAndLatch := by
  intro s t p dd w lo wid ga gd off x n
  refine ⟨fun h => ?_, fun h hzero => ?_⟩
  · obtain ⟨v, -, hdec⟩ := h.word
    obtain ⟨hw, hfit⟩ := dset_bounds hdec
    refine ⟨hw, hfit, _, answers_of h rfl, onlyThread_setThr _, ?_⟩
    rw [stepTo_eq, State.thr_setThr_self]
    obtain ⟨hself, hothers, hrest⟩ := Thread.next_setD x dd (dput (x.dr dd) w lo n (x.gr ga).toNat)
    exact ⟨fun i hi => (congrArg (BitVec.getLsbD · i) hself).trans (getLsbD_dput _ _ _ _ _ hi), hothers, hrest⟩
  · have hexec := (answers_of h rfl).trans (congrArg Host.Outcome.next (if_neg (not_not.2 hzero)))
    refine ⟨_, hexec, onlyThread_setThr _, ?_⟩
    rw [State.thr_setThr_self]
    refine ⟨(Thread.gr_setG_eq _ _ _).trans ?_, fun m hm => Thread.gr_setG_ne _ _ hm, ?_⟩
    · rw [latchWord_eq]
    · rw [Thread.setG_eq]
      rfl

end Sys2Proof.Machine

namespace Sys2Proof.Machine

/-! ## A fault event that is still waiting (R501) -/

/-- Program 0 of domain 0, with code of 64 bytes, in slots 0 and 1. -/
def pairProg : Program :=
  { dom := 0, num := 0, ctx := 1, image := 0, codeOff := 0, codeSize := 64, tickSched := false, priv := false, lateSig := false, syncBase := 0,
    syncCount := 0, engines := 0, budget := [], cq := 0, tag := 0, slots := [0, 1], no := 0 }

/-- Active, the thread in slot 0 Ready at program counter 4, the one in slot 1 Waiting; an event of source 26 has been signalled and waits for the
collector. -/
def raisedState : State :=
  { State.reset with
    regs := [(F.PWR_STATE.off, 3#32)]
    pw := { Power.reset with held := false }
    sq := { Seq.reset with thr := [(0, { st := .ready, pc := 4#64 }), (1, { st := .waiting })], progs := [(0, pairProg)] }
    fc := { Fcol.reset with raised := [(26, 0, 0)] } }

/-- What an LD of slot 0 leaves there. -/
def raisedLd : State :=
  settle (issueAt raisedState ⟨0, 0⟩ (.ld ⟨0, 0⟩ 1 1 3 0#32) fun s x p =>
    loadBytes s ⟨0, 0⟩ x p (effAddr x 1 0#32) (2 ^ 3) fun bs x => x.setG 1 (BitVec.ofNat 64 (ofLE bs)))

theorem exec_ld_raisedState : exec (.ld ⟨0, 0⟩ 1 1 3 0#32) raisedState = .next raisedLd := rfl

theorem raisedState_quiet : raisedState.reg (F.FCOL_EVT_SEQ 26).off = 0 := by decide +kernel

/-- The collector takes the event at the end of the command and shows it. -/
theorem raisedLd_shows : raisedLd.reg (F.FCOL_EVT_SEQ 26).off ≠ 0 := by decide +kernel

/-- Refutes O10: the last clause says of every instruction that a fault at its fetch leaves every register as it was. LD, ST, DLD and DST end with the
collector's turn (R501), and the statement does not ask that no event waits: with one of source 26 waiting, an LD at program counter 4 faults and
FCOL_EVT of that source changes. -/
theorem not_controlResult : ¬ Obligations.ControlResult := by
  unfold Obligations.ControlResult
  intro hall
  obtain ⟨-, -, -, -, -, -, hfetch⟩ := hall raisedState ⟨0, 0⟩ pairProg 0 0 false 0#32
  obtain ⟨u, hexec, -, -, -, -, hregs, -, -⟩ := hfetch (.ld ⟨0, 0⟩ 1 1 3 0#32) rfl (by decide) (by decide) (by decide) (by decide) rfl (by decide)
    (by decide) ⟨1, by decide, by decide, by decide⟩ (.inl (by decide))
  rw [exec_ld_raisedState] at hexec
  cases hexec
  exact raisedLd_shows ((hregs _ List.not_mem_nil).trans raisedState_quiet)

end Sys2Proof.Machine

namespace Sys2Proof.Machine

/-! ## Loads and stores (R173, R174, R279, R284) -/

section Accesses

variable {s u v : State} {t : Th} {c : Instr} {p : Program} {x : Thread} {bs : List Byte} {a n pa req : Nat}

/-- What an instruction answers that ends with the collector's turn. -/
theorem settles_of (h : Issues s t c p) {body : State → Thread → Program → State} (e : exec c s = .next (settle (issueAt s t c body))) :
    exec c s = .next (settle (body (issued s t) (s.thr t) p)) := by
  rw [e, issueAt_of h]

/-! ### Whole tiles -/

/-- Only checksum lines have been taken into the caches: beside the lines, only their misses and the count of free values may have changed. -/
structure LinesTaken (s u : State) : Prop where
  rest : u = { s with cnt := u.cnt, mem := { s.mem with lines := u.mem.lines }, free := u.free }
  cnt : CntBut s u sumMisses

theorem LinesTaken.refl (s : State) : LinesTaken s s := ⟨rfl, fun _ _ => rfl⟩

theorem LinesTaken.trans (h : LinesTaken s u) (k : LinesTaken u v) : LinesTaken s v :=
  ⟨by rw [k.rest, h.rest], fun j hj => (k.cnt j hj).trans (h.cnt j hj)⟩

theorem LinesTaken.byte (h : LinesTaken s u) (b : Nat) : u.byte b = s.byte b := by
  rw [h.rest]
  rfl

theorem LinesTaken.tileFenced (h : LinesTaken s u) (tile : Nat) : u.tileFenced tile = s.tileFenced tile := by
  rw [h.rest]
  rfl

theorem LinesTaken.tileBad (h : LinesTaken s u) (tile : Nat) : u.tileBad tile = s.tileBad tile := by
  rw [h.rest]
  rfl

theorem LinesTaken.thr (h : LinesTaken s u) (w : Th) : u.thr w = s.thr w := by
  rw [h.rest]
  rfl

theorem stackOf_lt (v : Variant) (a : Nat) : stackOf v a < 16 := by
  unfold stackOf
  split
  · exact (Nat.xor_lt_two_pow (bits_lt a 11 3) (bits_lt a 14 3)).trans (by decide)
  · exact Nat.xor_lt_two_pow (bits_lt a 11 4) (bits_lt a 15 4)

theorem linesTaken_sumLine (s : State) (tile : Nat) : LinesTaken s (s.sumLine tile) := by
  have hmiss : F.HBM_CSUM_MISS (stackOf s.variant (tile <<< 11)) ∈ sumMisses := List.mem_map.2 ⟨_, List.mem_range.2 (stackOf_lt _ _), rfl⟩
  have hcount : CntBut s (s.count (F.HBM_CSUM_MISS (stackOf s.variant (tile <<< 11)))) sumMisses :=
    fun k hk => smGet_smSet_ne _ _ _ fun e => hk (List.mem_map.2 ⟨_, hmiss, e.symm⟩)
  unfold State.sumLine
  split
  · exact .refl s
  · dsimp only
    split
    · exact .refl s
    · split <;> exact ⟨rfl, hcount⟩

/-- Checks of whole tiles all pass. -/
theorem checkTiles_whole (ts : List Nat) (hw : ∀ k ∈ ts, s.tileFenced k = false ∧ s.tileBad k = 0) :
    ∃ v, s.checkTiles req ts = (v, 0) ∧ LinesTaken s v := by
  induction ts generalizing s with
  | nil => exact ⟨s, rfl, .refl s⟩
  | cons k ts ih =>
    obtain ⟨⟨hf, hb⟩, hrest⟩ := List.forall_mem_cons.1 hw
    have hline := linesTaken_sumLine s k
    obtain ⟨v, hv, hlines⟩ := ih (s := s.sumLine k) fun j hj => by rw [hline.tileFenced, hline.tileBad]; exact hrest j hj
    exact ⟨v, by simp only [State.checkTiles, tileCheck_whole hf hb, hv, if_true], hline.trans hlines⟩

/-- A read of whole tiles answers the bytes. -/
theorem memRead_whole (hw : ∀ k ∈ tilesOf a n, s.tileFenced k = false ∧ s.tileBad k = 0) :
    ∃ v, memRead s req a n = (v, 0, s.bytes a n) ∧ LinesTaken s v := by
  obtain ⟨v, hv, hlines⟩ := checkTiles_whole (req := req) _ hw
  have hbytes : v.bytes a n = s.bytes a n := List.map_congr_left fun i _ => hlines.byte (a + i)
  exact ⟨v, by simp only [memRead, hv, hbytes], hlines⟩

/-! ### Accesses within one tile -/

theorem fits_tile (hn : n ∣ 2048) (ha : a % n = 0) : a % 2048 + n ≤ 2048 := by
  obtain ⟨k, hk⟩ := hn
  obtain ⟨j, hj⟩ : n ∣ a % 2048 := (Nat.dvd_mod_iff ⟨k, hk⟩).2 (Nat.dvd_of_mod_eq_zero ha)
  have hlt : n * j < n * k := by rw [← hj, ← hk]; exact Nat.mod_lt _ (by decide)
  have hle : n * (j + 1) ≤ n * k := Nat.mul_le_mul_left n (Nat.lt_of_mul_lt_mul_left hlt)
  rw [hj]
  rw [Nat.mul_add, Nat.mul_one, ← hk] at hle
  exact hle

theorem bytes_ne_nil (hn : n ∣ 2048) (hlen : bs.length = n) : bs ≠ [] :=
  List.ne_nil_of_length_pos (hlen ▸ Nat.pos_of_dvd_of_pos hn (by decide))

theorem tilesOf_single (hn : 0 < n) (hfit : a % 2048 + n ≤ 2048) : tilesOf a n = [tileOf a] := by
  have hlast : tileOf (a + n - 1) = tileOf a := by
    simp only [tileOf, Nat.shiftRight_eq_div_pow]
    omega
  rw [tilesOf, if_neg (by omega), hlast, Nat.sub_self]
  rfl

theorem cutTiles_single (k : Nat) (hbs : bs ≠ []) (hfit : a % 2048 + bs.length ≤ 2048) : cutTiles a bs (k + 2) = [(a, bs)] := by
  have hroom : bs.length ≤ 2048 - a % 2048 := by omega
  rw [cutTiles, if_neg hbs]
  dsimp only
  rw [List.take_of_length_le hroom, List.drop_of_length_le hroom, cutTiles, if_pos rfl]

/-- A write within one tile is one access. -/
theorem memWrite_single (hbs : bs ≠ []) (hfit : a % 2048 + bs.length ≤ 2048) : memWrite s req a bs = tileWrite s req a bs := by
  rw [memWrite, cutTiles_single _ hbs hfit]
  exact Prod.ext rfl (ite_eq_right_iff.2 Eq.symm)

/-- The count of partial writes at the unit that holds an address (R294). -/
def rmwCount (s : State) (a : Nat) : RF := if isStg a then F.STG_RMW (stgBank a) else F.HBM_RMW (stackOf s.variant a)

/-- A write of a part of a whole tile: the line is taken, the write counted, and the bytes are there. -/
theorem memWrite_part (hbs : bs ≠ []) (hlen : bs.length < 2048) (hfit : a % 2048 + bs.length ≤ 2048) (hf : s.tileFenced (tileOf a) = false)
    (hb : s.tileBad (tileOf a) = 0) : memWrite s req a bs = (((s.sumLine (tileOf a)).count (rmwCount s a)).setBytes a bs, 0) := by
  have hcount (v : State) (hv : v.variant = s.variant) :
      (if isStg a then v.count (F.STG_RMW (stgBank a)) else v.count (F.HBM_RMW (stackOf v.variant a))) = v.count (rmwCount s a) := by
    rw [rmwCount, hv]
    split <;> rfl
  have hpart : ¬ (decide (bs.length = 2048) && decide (a % 2048 = 0)) = true := by
    rw [decide_eq_false (by omega)]
    exact Bool.false_ne_true
  rw [memWrite_single hbs hfit, tileWrite]
  dsimp only
  rw [if_neg (by simp [hf]), if_neg hpart, tileCheck_whole hf hb]
  exact congrArg (fun v : State => (v.setBytes a bs, 0)) (hcount _ (by rw [(linesTaken_sumLine s _).rest]))

/-- A write to a tile of a fenced unit does nothing. -/
theorem memWrite_fenced (hbs : bs ≠ []) (hfit : a % 2048 + bs.length ≤ 2048) (hf : s.tileFenced (tileOf a) = true) :
    memWrite s req a bs = (s, 0x7F) := by
  rw [memWrite_single hbs hfit, tileWrite]
  exact if_pos hf

/-- A read of a tile of a fenced unit does nothing. -/
theorem memRead_fenced (hn : 0 < n) (hfit : a % 2048 + n ≤ 2048) (hf : s.tileFenced (tileOf a) = true) : memRead s req a n = (s, 0x7F, []) := by
  simp only [memRead, tilesOf_single hn hfit, State.checkTiles, State.tileCheck, hf, if_true]
  rfl

/-! ### Bytes that are written -/

theorem setBytes_eq (s : State) (a : Nat) (bs : List Byte) : ∃ m, s.setBytes a bs = { s with mem := m } := by
  induction bs generalizing s a with
  | nil => exact ⟨s.mem, rfl⟩
  | cons b bs ih =>
    obtain ⟨m, hm⟩ := ih (s.setByte a b) (a + 1)
    refine ⟨m, hm.trans ?_⟩
    unfold State.setByte
    split
    · rfl
    · split <;> rfl

theorem byte_setBytes_in (s : State) {a i : Nat} {bs : List Byte} (hi : i < bs.length) : (s.setBytes a bs).byte (a + i) = bs.getD i 0#8 := by
  induction bs generalizing s a i with
  | nil => exact absurd hi (Nat.not_lt_zero _)
  | cons b bs ih =>
    rw [State.setBytes]
    cases i with
    | zero =>
      rw [byte_setBytes_out (.inl (by omega))]
      exact byte_setByte_self a b
    | succ i =>
      rw [show a + (i + 1) = a + 1 + i by omega]
      exact ih _ (Nat.lt_of_succ_lt_succ hi)

theorem getD_toLE (n v : Nat) {i : Nat} (hi : i < n) : (toLE n v).getD i 0#8 = BitVec.ofNat 8 (v / 256 ^ i) := by
  induction n generalizing v i with
  | zero => exact absurd hi (Nat.not_lt_zero _)
  | succ n ih =>
    cases i with
    | zero => simp [toLE]
    | succ i =>
      rw [toLE, List.getD_cons_succ, ih _ (Nat.lt_of_succ_lt_succ hi), Nat.div_div_eq_div_mul, ← Nat.pow_succ']

/-! ### Loads (R173, R174) -/

/-- A load of whole tiles gives its thread the bytes. -/
theorem loadBytes_whole (f : List Byte → Thread → Thread) (hal : a % n = 0) (hmap : opTranslate s .ls rRead x.ctx p.no a n = .mem pa)
    (hw : ∀ k ∈ tilesOf pa n, s.tileFenced k = false ∧ s.tileBad k = 0) :
    ∃ v, loadBytes s t x p a n f = v.setThr t (f (s.bytes pa n) x).next ∧ LinesTaken s v := by
  obtain ⟨v, hv, hlines⟩ := memRead_whole (req := 64 + t.dom) hw
  refine ⟨v, ?_, hlines⟩
  simp only [loadBytes, if_neg (not_not.2 hal), hmap, hv]

/-- A thread that has loaded changes nothing but itself, the counts and the checksum caches. -/
theorem loadOnly_setThr (h : LinesTaken (issued s t) v) (y : Thread) : LoadOnly s (v.setThr t y) t where
  rest := by rw [h.rest]; rfl
  sq := by rw [h.rest]; rfl
  others w hw := (State.thr_setThr_ne v y hw).trans (h.thr w)
  cnt k hk := by
    obtain ⟨hissued, hmiss⟩ := not_or.1 (mt List.mem_cons.2 hk)
    exact (h.cnt k hmiss).trans (cntBut_issued s t k (by simpa using hissued))

/-- What an instruction that loads leaves. -/
theorem exec_load (h : Issues s t c p) {f : List Byte → Thread → Thread}
    (e : exec c s = .next (settle (issueAt s t c fun s x p => loadBytes s t x p a n f)))
    (hal : a % n = 0) (hmap : opTranslate s .ls rRead (s.thr t).ctx p.no a n = .mem pa)
    (hw : ∀ k ∈ tilesOf pa n, s.tileFenced k = false ∧ s.tileBad k = 0) :
    ∃ u, exec c s = .next (settle u) ∧ LoadOnly s u t ∧ u.thr t = (f (s.bytes pa n) (s.thr t)).next := by
  obtain ⟨v, hv, hlines⟩ := loadBytes_whole (s := issued s t) (t := t) (x := s.thr t) f hal hmap hw
  exact ⟨_, (settles_of h e).trans (by rw [hv]; rfl), loadOnly_setThr hlines _, State.thr_setThr_self v t _⟩

/-! ### Stores (R173, R174, R284) -/

/-- Bytes written to a whole tile by an instruction of thread `t`: they stand there, every other byte and the other threads are as before, no register
changes, and of the counts only those of the instruction, of partial writes and of misses. -/
structure StoredBy (s u : State) (t : Th) (pa : Nat) (bs : List Byte) : Prop where
  bytes : Stored s u pa bs
  others : ThrBut s u t
  regs : RegsBut s u []
  cnt : CntBut s u (F.SEQ_ISSUED t.dom :: rmwCount s pa :: sumMisses)

theorem storedBy_setBytes (h : LinesTaken (issued s t) v) (pa : Nat) (bs : List Byte) (y : Thread) :
    StoredBy s (((v.count (rmwCount s pa)).setBytes pa bs).setThr t y) t pa bs := by
  obtain ⟨m, hm⟩ := setBytes_eq (v.count (rmwCount s pa)) pa bs
  refine ⟨⟨fun j hj => byte_setBytes_in (v.count (rmwCount s pa)) hj, fun b hb => ?_⟩, fun w hw => ?_, fun off _ => ?_, fun k hk => ?_⟩
  · exact (byte_setBytes_out (s := v.count (rmwCount s pa)) hb).trans (h.byte b)
  · rw [State.thr_setThr_ne _ y hw, hm]
    exact h.thr w
  · rw [State.setThr_reg, hm, h.rest]
    rfl
  · obtain ⟨hissued, hk⟩ := not_or.1 (mt List.mem_cons.2 hk)
    obtain ⟨hrmw, hmiss⟩ := not_or.1 (mt List.mem_cons.2 hk)
    rw [State.setThr_cnt, hm]
    exact (smGet_smSet_ne _ _ _ hrmw).trans ((h.cnt k hmiss).trans (cntBut_issued s t k (by simpa using hissued)))

/-- What an instruction that stores leaves. -/
theorem exec_store (h : Issues s t c p) {bytes : Thread → List Byte}
    (e : exec c s = .next (settle (issueAt s t c fun s x p => storeBytes s t x p a n (bytes x))))
    (hal : a % n = 0) (hmap : opTranslate s .ls rWrite (s.thr t).ctx p.no a n = .mem pa) (hlen : (bytes (s.thr t)).length = n) (hn : n ∣ 2048)
    (hlt : n < 2048) (hpa : pa % n = 0) (hf : s.tileFenced (tileOf pa) = false) (hb : s.tileBad (tileOf pa) = 0) :
    ∃ u, exec c s = .next (settle u) ∧ StoredBy s u t pa (bytes (s.thr t)) ∧ u.thr t = (s.thr t).next := by
  have hwrite := memWrite_part (s := issued s t) (req := 64 + t.dom) (bytes_ne_nil hn hlen) (hlen ▸ hlt) (hlen ▸ fits_tile hn hpa) hf hb
  have hbody : storeBytes (issued s t) t (s.thr t) p a n (bytes (s.thr t)) =
      ((((issued s t).sumLine (tileOf pa)).count (rmwCount s pa)).setBytes pa (bytes (s.thr t))).setThr t (s.thr t).next := by
    have hmap : opTranslate (issued s t) .ls rWrite (s.thr t).ctx p.no a n = .mem pa := hmap
    simp only [storeBytes, if_neg (not_not.2 hal), hmap, hwrite]
    rfl
  exact ⟨_, (settles_of h e).trans (by rw [hbody]), storedBy_setBytes (linesTaken_sumLine _ _) _ _ _, State.thr_setThr_self _ t _⟩

/-! ### Faults of loads and stores (R173, R174) -/

/-- An access of `n` bytes at `a` faults with `kind`: it is misaligned, has no place in memory with the rights, or meets a fenced unit. -/
def AccessFaults (s : State) (rights ctx no a n kind : Nat) : Prop :=
  (a % n ≠ 0 ∧ kind = 5) ∨ (a % n = 0 ∧ (∀ pa, opTranslate s .ls rights ctx no a n ≠ .mem pa) ∧ kind = 4) ∨
    (a % n = 0 ∧ (∃ pa, opTranslate s .ls rights ctx no a n = .mem pa ∧ pa % n = 0 ∧ s.tileFenced (tileOf pa) = true) ∧ kind = 12)

/-- A load or store that faults as it is issued. -/
theorem exec_settledFault {kind : Nat} (h : Issues s t c p) {body : State → Thread → Program → State}
    (e : exec c s = .next (settle (issueAt s t c body))) (hb : body (issued s t) (s.thr t) p = faultThread (issued s t) t kind) :
    exec c s = .next (settle (faultThread (issued s t) t kind)) := by
  rw [settles_of h e, hb]

theorem loadBytes_fault (f : List Byte → Thread → Thread) {kind : Nat} (hn : n ∣ 2048) (h : AccessFaults s rRead x.ctx p.no a n kind) :
    loadBytes s t x p a n f = faultThread s t kind := by
  unfold loadBytes
  rcases h with ⟨hal, rfl⟩ | ⟨hal, hmap, rfl⟩ | ⟨hal, ⟨pa, hmap, hpa, hf⟩, rfl⟩
  · exact if_pos hal
  · rw [if_neg (not_not.2 hal)]
    split
    next pa hpa => exact absurd hpa (hmap pa)
    next => rfl
  · rw [if_neg (not_not.2 hal), hmap]
    simp only [memRead_fenced (Nat.pos_of_dvd_of_pos hn (by decide)) (fits_tile hn hpa) hf]

theorem storeBytes_fault {kind : Nat} (hn : n ∣ 2048) (hlen : bs.length = n) (h : AccessFaults s rWrite x.ctx p.no a n kind) :
    storeBytes s t x p a n bs = faultThread s t kind := by
  unfold storeBytes
  rcases h with ⟨hal, rfl⟩ | ⟨hal, hmap, rfl⟩ | ⟨hal, ⟨pa, hmap, hpa, hf⟩, rfl⟩
  · exact if_pos hal
  · rw [if_neg (not_not.2 hal)]
    split
    next pa hpa => exact absurd hpa (hmap pa)
    next => rfl
  · rw [if_neg (not_not.2 hal), hmap]
    simp only [memWrite_fenced (bytes_ne_nil hn hlen) (hlen ▸ fits_tile hn hpa) hf]

end Accesses

/-- Settles O19, from what a load of whole tiles gives its thread. -/
theorem loadResult : Obligations.LoadResult := by
  intro s t p gd ga size dd pa off x a whole
  refine ⟨fun h hal hmap hw => ?_, fun h hal hmap hw => ?_⟩
  · obtain ⟨u, hu, honly, hthr⟩ := exec_load h (f := fun bs x => x.setG gd (BitVec.ofNat 64 (ofLE bs))) rfl hal hmap hw
    refine ⟨u, hu, honly, ?_⟩
    rw [hthr]
    refine ⟨Thread.gr_setG_eq _ _ _, fun m hm => Thread.gr_setG_ne _ _ hm, ?_⟩
    rw [Thread.setG_eq]
    rfl
  · obtain ⟨u, hu, honly, hthr⟩ := exec_load h (f := fun bs x => x.setD dd (BitVec.ofNat 256 (ofLE bs))) rfl hal hmap hw
    refine ⟨u, hu, honly, ?_⟩
    rw [hthr]
    exact Thread.next_setD x dd _

/-- Settles O20, from what a store to a whole tile leaves. -/
theorem storeResult : Obligations.StoreResult := by
  intro s t p gd ga size dd pa off x a whole cf stored
  have hstored {u : State} {n v : Nat} (h : StoredBy s u t pa (toLE n v)) (hthr : u.thr t = x.next) : stored u n v := by
    obtain ⟨⟨hbytes, hmem⟩, hothers, hregs, hcnt⟩ := h
    rw [toLE_length] at hbytes hmem
    exact ⟨fun i hi => (hbytes i hi).trans (getD_toLE n v hi), hmem, hthr, hothers, hregs, hcnt⟩
  refine ⟨fun h hsize hal hmap hpa hw => ?_, fun h hal hmap hpa hw => ?_⟩
  · have hlt : 2 ^ size < 2048 := (Nat.pow_le_pow_right (by decide) hsize).trans_lt (by decide : 2 ^ 3 < 2048)
    obtain ⟨u, hu, hby, hthr⟩ := exec_store h (bytes := fun x => toLE (2 ^ size) (x.gr gd).toNat) rfl hal hmap (toLE_length _ _)
      (pow_dvd_pow 2 (hsize.trans (by decide) : size ≤ 11)) hlt hpa hw.1 hw.2
    exact ⟨u, hu, hstored hby hthr⟩
  · obtain ⟨u, hu, hby, hthr⟩ := exec_store h (bytes := fun x => toLE 32 (x.dr dd).toNat) rfl hal hmap (toLE_length _ _)
      (by decide) (by decide) hpa hw.1 hw.2
    exact ⟨u, hu, hstored hby hthr⟩

/-- Settles O21: the first check that fails decides, and the fault leaves all but the thread and the count of issued instructions. -/
theorem loadStoreFaults : Obligations.LoadStoreFaults := by
  intro s t p c kind gd ga size dd off x a h ho hwhy
  obtain ⟨n, rights, hc, hfault⟩ := hwhy
  have hfault : AccessFaults (issued s t) rights x.ctx p.no a n kind := hfault
  have hpow (hsize : size ≤ 3) : 2 ^ size ∣ 2048 := pow_dvd_pow 2 (hsize.trans (by decide) : size ≤ 11)
  have hexec : exec c s = .next (settle (faultThread (issued s t) t kind)) := by
    rcases hc with ⟨rfl, rfl, rfl⟩ | ⟨rfl, hsize, rfl, rfl⟩ | ⟨rfl, rfl, rfl⟩ | ⟨rfl, rfl, rfl⟩ <;> refine exec_settledFault h rfl ?_
    · obtain ⟨w, -, hdec⟩ := h.word
      exact loadBytes_fault _ (hpow (ld_bounds hdec)) hfault
    · exact storeBytes_fault (hpow hsize) (toLE_length _ _) hfault
    · exact loadBytes_fault _ (by decide) hfault
    · exact storeBytes_fault (by decide) (toLE_length _ _) hfault
  have hon := haltedOn_haltThread kind 0 h.prog ho
  exact ⟨_, hexec, hon.thread, hon.regs, hon.cnt, hon.mem⟩

end Sys2Proof.Machine

namespace Sys2Proof.Machine

/-! ## Entries of a completion queue that a thread posts (R185, R447, R448) -/

section Posting

variable {s : State} {t : Th} {q : Cq} {n : Nat}

/-! ### What goes out -/

theorem sendMsix_out (s : State) (ctx v : Nat) : ∃ more, (s.sendMsix ctx v).out = s.out ++ more := by
  unfold State.sendMsix
  split
  · exact ⟨[], (List.append_nil _).symm⟩
  · split
    · exact ⟨[], (List.append_nil _).symm⟩
    · exact ⟨[.msix ctx v], rfl⟩

theorem cqFire_out (s : State) (n : Nat) : ∃ more, (s.cqFire n).out = s.out ++ more := by
  unfold State.cqFire
  split
  · exact ⟨[], (List.append_nil _).symm⟩
  · split
    · exact sendMsix_out _ _ _
    · exact ⟨[], (List.append_nil _).symm⟩

/-- PHASE of a queue's next entry: 1 in its first pass over the ring (R447). -/
def cqPhase (q : Cq) : Byte := if (q.written / 2 ^ q.log2) % 2 = 0 then 1#8 else 0#8

/-- An entry is written at its place in the ring before its interrupt goes out. -/
theorem cqWrite_out (s : State) (n : Nat) (q : Cq) (e : List Byte) : ∃ more,
    (s.cqWrite n q e).out = s.out ++ .hostWrite q.ctx (q.base + 32 * (q.written % 2 ^ q.log2)) (splice e 6 [cqPhase q]) :: more := by
  obtain ⟨more, hmore⟩ := cqFire_out
    { s.emit (.hostWrite q.ctx (q.base + 32 * (q.written % 2 ^ q.log2)) (splice e 6 [cqPhase q])) with
      ho := { s.ho with cqs := smSet s.ho.cqs n { q with written := q.written + 1, since := if q.armed then q.since + 1 else q.since } } } n
  exact ⟨more, hmore.trans (List.append_assoc _ _ _)⟩

/-! ### The bytes of an entry -/

theorem splice_cqEntry (tag code source : Nat) (tail : List Byte) (ph : Byte) : splice (cqEntry tag code source 0 0 tail) 6 [ph] =
    toLE 4 tag ++ (toLE 1 code ++ (toLE 1 source ++ ([ph, 0#8] ++ toLE 4 0 ++ toLE 4 0 ++ slice tail 0 16))) := rfl

theorem slice_toLE (k v : Nat) : slice (toLE k v) 0 k = toLE k v := by
  simp [slice, List.take_of_length_le]

/-- The fields of an entry with sixteen bytes of its own, whatever its PHASE. -/
theorem cqEntry_fields (tag code source v : Nat) (ph : Byte) :
    let bs := splice (cqEntry tag code source 0 0 (toLE 16 v)) 6 [ph]
    bs.length = 32 ∧ fieldLE bs 0 4 = tag % 2 ^ 32 ∧ fieldLE bs 4 1 = code % 256 ∧ fieldLE bs 5 1 = source % 256 ∧ fieldLE bs 16 16 = v % 2 ^ 128 := by
  rw [splice_cqEntry, slice_toLE]
  refine ⟨by simp, fieldLE_append (pre := []) rfl, fieldLE_append (toLE_length 4 tag), ?_, ?_⟩
  · rw [← List.append_assoc (toLE 4 tag)]
    exact fieldLE_append (by simp)
  · have hend : toLE 4 tag ++ (toLE 1 code ++ (toLE 1 source ++ ([ph, 0#8] ++ toLE 4 0 ++ toLE 4 0 ++ toLE 16 v))) =
        (toLE 4 tag ++ toLE 1 code ++ toLE 1 source ++ [ph, 0#8] ++ toLE 4 0 ++ toLE 4 0) ++ (toLE 16 v ++ []) := by
      simp only [List.append_assoc, List.append_nil]
    rw [hend]
    exact fieldLE_append (by simp)

/-! ### The thread that posts -/

/-- A thread that its entry's writing lets go on. -/
theorem cqDone_poster (hs : t.slot < 8) (hpend : (s.thr t).pend = .cqpost) : s.cqDone (some (thKey t, (s.thr t).live)) none = s.resume t := by
  have hkey : (⟨thKey t / 8, thKey t % 8⟩ : Th) = t := by
    cases t
    simp only [thKey, Th.mk.injEq] at hs ⊢
    omega
  simp [State.cqDone, hkey, hpend]

/-- A queue that has room, and in which nothing waits, takes the entry. -/
theorem cqPost_room {e : List Byte} {w : Option (Nat × Nat)} (hq : smFind s.ho.cqs n = some q) (hup : s.hostUp (s.ctxPort q.ctx) = true)
    (hpst : s.pst = 3) (hwait : q.waiting = []) (hroom : q.written - q.consumed < 2 ^ q.log2) :
    s.cqPost n e w none = (s.cqWrite n q e).cqDone w none := by
  unfold State.cqPost
  rw [hq]
  simp [hup, hpst, hwait, hroom]

/-- A queue whose ring is full holds the entry back, and the wait is counted. -/
theorem cqPost_full {e : List Byte} {w : Option (Nat × Nat)} (hq : smFind s.ho.cqs n = some q) (hup : s.hostUp (s.ctxPort q.ctx) = true)
    (hpst : s.pst = 3) (hfull : 2 ^ q.log2 ≤ q.written - q.consumed) : ∃ u, s.cqPost n e w none = u ∧ u.out = s.out ∧ CqFrame s u := by
  refine ⟨(s.cqHold n q (e, w, none)).count F.HOST_CQ_FULL_WAITS, ?_, rfl, rfl, rfl, rfl, fun _ _ => rfl⟩
  unfold State.cqPost
  rw [hq]
  simp [hup, hpst, hfull]

/-- A thread whose entry is written goes on; of the others and of memory nothing changes. -/
theorem cqPost_written {e : List Byte} (hq : smFind s.ho.cqs n = some q) (hup : s.hostUp (s.ctxPort q.ctx) = true) (hpst : s.pst = 3)
    (hwait : q.waiting = []) (hroom : q.written - q.consumed < 2 ^ q.log2) (hs : t.slot < 8) (hpend : (s.thr t).pend = .cqpost) :
    ∃ u more, s.cqPost n e (some (thKey t, (s.thr t).live)) none = u ∧
      u.out = s.out ++ .hostWrite q.ctx (q.base + 32 * (q.written % 2 ^ q.log2)) (splice e 6 [cqPhase q]) :: more ∧
      u.thr t = ({ s.thr t with st := .ready, cause := 0, pend := .none } : Thread).next ∧ ThrBut s u t ∧ MemSame s u := by
  have hframe := cqWrite_frame s n q e
  have hthread := hframe.thr t
  obtain ⟨more, hout⟩ := cqWrite_out s n q e
  have hdone := cqDone_poster (s := s.cqWrite n q e) hs (by rw [hthread, hpend])
  rw [hthread] at hdone
  refine ⟨_, more, (cqPost_room hq hup hpst hwait hroom).trans hdone, hout, ?_, fun w hw => ?_, hframe.byte⟩
  · rw [State.resume, State.thr_setThr_self, hthread, id]
  · rw [State.resume, State.thr_setThr_ne _ _ hw, hframe.thr]

end Posting

/-- What a thread waits as while its entry is posted. -/
def Thread.posting (x : Thread) : Thread := { x with st := .waiting, cause := 4, pend := .cqpost }

/-- A CQPOST to a queue that its context owns posts the entry while its thread waits. -/
theorem exec_cqpost_owned {s : State} {t : Th} {p : Program} {dd ga gb code : Nat} {nf : Bool} (h : Issues s t (.cqpost t dd ga gb nf code) p)
    (hown : s.ownsCq (s.thr t).ctx (((s.thr t).gr ga).toNat % 65536) = true) :
    exec (.cqpost t dd ga gb nf code) s = .next (((issued s t).setThr t (s.thr t).posting).cqPost (((s.thr t).gr ga).toNat % 65536)
      (cqEntry (((s.thr t).gr gb).toNat % 2 ^ 32) code 3 0 0 (toLE 16 ((s.thr t).dr dd).toNat)) (some (thKey t, (s.thr t).live))) :=
  (answers_of h rfl).trans (congrArg _ (if_neg (by
    rw [Bool.not_eq_true', Bool.not_eq_false]
    exact hown)))

/-- Settles O24: the entry's bytes from `cqEntry_fields`, and the poster goes on where its entry is written, else waits. -/
theorem cqpostResult : Obligations.CqpostResult := by
  unfold Obligations.CqpostResult
  intro s t p dd ga gb code nf q x n h hown hq hcode hup
  have hexec := exec_cqpost_owned h hown
  have hothers (w : Th) (hw : thKey w ≠ thKey t) : ((issued s t).setThr t x.posting).thr w = s.thr w := State.thr_setThr_ne _ _ hw
  refine ⟨fun hwait hroom => ?_, fun hfull => ?_⟩
  · obtain ⟨u, more, hu, hout, hthread, hrest, hmem⟩ := cqPost_written (s := (issued s t).setThr t x.posting) (t := t)
      (e := cqEntry ((x.gr gb).toNat % 2 ^ 32) code 3 0 0 (toLE 16 (x.dr dd).toNat)) hq hup h.active hwait hroom h.slot
      (by rw [State.thr_setThr_self]; rfl)
    obtain ⟨hlen, htag, hbcode, hsource, htail⟩ := cqEntry_fields ((x.gr gb).toNat % 2 ^ 32) code 3 (x.dr dd).toNat (cqPhase q)
    rw [State.thr_setThr_self] at hu hthread
    exact ⟨u, _, more, hexec.trans (congrArg _ hu), hout, hlen, htag.trans (Nat.mod_mod _ _), hbcode.trans (Nat.mod_eq_of_lt hcode), hsource, htail,
      hthread, fun w hw => (hrest w hw).trans (hothers w hw), hmem⟩
  · obtain ⟨u, hu, hout, hframe⟩ := cqPost_full (s := (issued s t).setThr t x.posting) hq hup h.active hfull
    refine ⟨u, hexec.trans (congrArg _ hu), hout, ?_, fun w hw => (hframe.thr w).trans (hothers w hw), hframe.byte⟩
    rw [hframe.thr, State.thr_setThr_self]
    rfl

end Sys2Proof.Machine

namespace Sys2Proof.Machine

/-! ## The completion of an engine descriptor (R170, R178) -/

section Tables

variable {β : Type} {m : SMap β}

theorem smSet_smSet (m : SMap β) (k : Nat) (v w : β) : smSet (smSet m k v) k w = smSet m k w := by
  induction m with
  | nil => simp [smSet]
  | cons e m ih =>
    obtain ⟨a, x⟩ := e
    rcases lt_trichotomy k a with hk | hk | hk
    · simp [smSet, hk]
    · simp [smSet, hk]
    · simp [smSet, hk.not_gt, hk.ne', ih]

theorem mem_smSet {k : Nat} {v : β} {e : Nat × β} (h : e ∈ smSet m k v) : e = (k, v) ∨ e ∈ m := by
  induction m with
  | nil => exact .inl (List.mem_singleton.1 h)
  | cons f m ih =>
    rw [smSet] at h
    split_ifs at h
    · exact List.mem_cons.1 h
    · exact (List.mem_cons.1 h).imp_right (List.mem_cons_of_mem _)
    · rcases List.mem_cons.1 h with h | h
      · exact .inr (h ▸ List.mem_cons_self)
      · exact (ih h).imp_right (List.mem_cons_of_mem _)

theorem smKeys_eq_nil {p : Nat → β → Bool} (h : ∀ e ∈ m, p e.1 e.2 = false) : smKeys p m = [] :=
  List.map_eq_nil_iff.2 (List.filter_eq_nil_iff.2 fun e he => Bool.eq_false_iff.1 (h e he))

end Tables

section Completion

variable {s u : State} {d : Desc} {code : Nat}

theorem State.setThr_setThr (s : State) (t : Th) (x y : Thread) : (s.setThr t x).setThr t y = s.setThr t y := by
  simp only [State.setThr, smSet_smSet]

/-! ### The signals -/

/-- The signals of an engine descriptor's completion: SYNC, and FSYNC for a failure (R170). -/
def completionSignals (d : Desc) (code : Nat) : List SyncReq :=
  let ask (obj n : Nat) : SyncReq := ⟨16 + d.eng, obj, some (dCtx d.w), .signal n, none, 0, none⟩
  (if dSigAdd d.w = 0 then [] else [ask (dSync d.w) (dSigAdd d.w)]) ++ (if code ≠ 0 ∧ dFsyncEn d.w = true then [ask (dFsync d.w) 1] else [])

theorem signalDone_eq (s : State) (code : Nat) (hpost : d.post = false) :
    signalDone s d code = { s with sy := { s.sy with reqs := s.sy.reqs ++ completionSignals d code } } := by
  have hreq : sigReq d = 16 + d.eng := if_neg (by simp [hpost])
  simp only [signalDone, completionSignals, State.syncSend, hreq, Bool.and_eq_true, decide_eq_true_eq]
  split_ifs <;> simp

/-! ### The thread that issued it -/

/-- The issuing thread after the completion: counted, and after an ISSUEW going on with the code. -/
def afterDone (d : Desc) (code : Nat) (x : Thread) : Thread :=
  match d.ew with
  | some gd =>
    if x.pend = .issuew then (({ tally d code x with st := .ready, cause := 0, pend := .none } : Thread).setG gd (BitVec.ofNat 64 code)).next
    else tally d code x
  | none => tally d code x

theorem tally_engine (x : Thread) (hpost : d.post = false) : tally d code x =
    if code ≠ 0 ∧ d.ew = none then latchFailure { x with outE := x.outE - 1 } code (dTag d.w) else { x with outE := x.outE - 1 } := by
  simp [tally, hpost]

theorem tally_keeps (x : Thread) (hpost : d.post = false) : (tally d code x).pend = x.pend ∧ (tally d code x).st = x.st ∧
    (tally d code x).g = x.g ∧ (tally d code x).pc = x.pc ∧ (tally d code x).outE = x.outE - 1 := by
  rw [tally_engine x hpost]
  split <;> exact ⟨rfl, rfl, rfl, rfl, rfl⟩

theorem afterDone_pend (x : Thread) (hpost : d.post = false) : (afterDone d code x).pend = .none ∨ (afterDone d code x).pend = x.pend := by
  obtain ⟨hpend, -⟩ := tally_keeps (code := code) x hpost
  unfold afterDone
  split
  · split
    · unfold Thread.setG Thread.next
      split <;> exact .inl rfl
    · exact .inr hpend
  · exact .inr hpend

theorem threadDone_live (hpost : d.post = false) (hlive : (s.thr d.th).live = d.live) (hfree : (s.thr d.th).st ≠ .free)
    (hhalt : (s.thr d.th).st ≠ .halted) : threadDone s d code = s.setThr d.th (afterDone d code (s.thr d.th)) := by
  obtain ⟨hpend, -⟩ := tally_keeps (code := code) (s.thr d.th) hpost
  unfold threadDone afterDone
  simp only [hlive, hfree, hhalt, ne_eq, not_true_eq_false, decide_false, Bool.or_false, Bool.false_eq_true, if_false, State.thr_setThr_self, hpend]
  cases d.ew with
  | none => rfl
  | some gd =>
    dsimp only
    split
    · simp only [State.resume, State.thr_setThr_self, State.setThr_setThr]
    · rfl

/-! ### What goes on with the record -/

/-- Does no thread wait for a tracker entry? -/
def NoneAwaitsTracker (s : State) : Prop := ∀ e ∈ s.sq.thr, ∀ z, e.2.pend ≠ .tracker z

theorem NoneAwaitsTracker.setThr (h : NoneAwaitsTracker s) (t : Th) {x : Thread} (hx : ∀ z, x.pend ≠ .tracker z) : NoneAwaitsTracker (s.setThr t x) := by
  intro e he
  rcases mem_smSet he with rfl | he
  · exact hx
  · exact h e he

theorem NoneAwaitsTracker.afterDone (h : NoneAwaitsTracker s) {t : Th} (hpost : d.post = false) (hfree : (s.thr t).st ≠ .free) :
    NoneAwaitsTracker (s.setThr t (afterDone d code (s.thr t))) := by
  refine h.setThr t fun z => ?_
  rcases afterDone_pend (code := code) (s.thr t) hpost with hp | hp <;> rw [hp]
  · exact Pend.noConfusion
  · exact h _ (mem_thr _ hfree) z

theorem retryThreads_of_noneAwaits (h : NoneAwaitsTracker s) : retryThreads s = s := by
  rw [retryThreads, smKeys_eq_nil fun e he => ?_, List.foldl_nil]
  cases hp : e.2.pend with
  | tracker z => exact absurd hp (h e he z)
  | _ => rfl

theorem endQpCmds_of_none (h : ∀ q ∈ s.sg.pend, q.blk ≠ .qp) : endQpCmds s = s := by
  have hfind : (findPend s .qp fun p => qpRecorded s p.idx) = none := by
    refine List.find?_eq_none.2 fun q hq => ?_
    simp [h q hq]
  rw [endQpCmds, hfind]

theorem reclaim_sq (s : State) : (reclaim s).sq = s.sq := by
  unfold reclaim
  split <;> rfl

/-- The tracker entry given back and the signals sent. -/
def signalled (s : State) (d : Desc) (code : Nat) (rest : List Ended) : State :=
  { s with
    en := { s.en with ended := rest }, sq := { s.sq with trk := smDel s.sq.trk d.no },
    sy := { s.sy with reqs := s.sy.reqs ++ completionSignals d code } }

/-- The state in which a completion has been recorded, before the objects of idle contexts are reclaimed. -/
def recorded (s : State) (d : Desc) (code : Nat) (rest : List Ended) : State :=
  (signalled s d code rest).setThr d.th (afterDone d code (s.thr d.th))

theorem exec_descriptorCompletion {rest : List Ended} (hpst : s.pst = 3) (hended : s.en.ended = ⟨d, code⟩ :: rest) (hpost : d.post = false)
    (hlive : (s.thr d.th).live = d.live) (hfree : (s.thr d.th).st ≠ .free) (hhalt : (s.thr d.th).st ≠ .halted) (hnone : NoneAwaitsTracker s)
    (hqp : ∀ q ∈ s.sg.pend, q.blk ≠ .qp) : exec .descriptorCompletion s = .next (reclaim (reclaim (recorded s d code rest))) := by
  have hdone : recordDone { s with en := { s.en with ended := rest } } d code = reclaim (recorded s d code rest) := by
    have hsignals : signalDone (State.trkGive { s with en := { s.en with ended := rest } } d.no) d code = signalled s d code rest :=
      signalDone_eq _ _ hpost
    have hthread : threadDone (signalled s d code rest) d code = recorded s d code rest := threadDone_live hpost hlive hfree hhalt
    rw [recordDone, hsignals, hthread]
  have hawaits : NoneAwaitsTracker (reclaim (recorded s d code rest)) := by
    rw [NoneAwaitsTracker, reclaim_sq]
    exact hnone.afterDone hpost hfree
  have hpend : ∀ q ∈ (reclaim (recorded s d code rest)).sg.pend, q.blk ≠ .qp := by
    rw [(reclaim_frame _).rest]
    exact hqp
  have hnext : recordNext s = reclaim (reclaim (recorded s d code rest)) := by
    rw [recordNext, hended]
    simp only [hpost, Bool.false_and, Bool.false_eq_true, if_false, hdone, retryThreads_of_noneAwaits hawaits, endQpCmds_of_none hpend]
  exact congrArg _ ((if_pos hpst).trans hnext)

/-- The failure latch of a thread that issued a descriptor by ISSUE: the first failure stays, every failure counts (R170). -/
theorem afterDone_issued (x : Thread) (hpost : d.post = false) (hew : d.ew = none) :
    (afterDone d code x).st = x.st ∧ (afterDone d code x).g = x.g ∧ (code = 0 → (afterDone d code x).latchCount = x.latchCount) ∧
    (code ≠ 0 → (afterDone d code x).latchCount = min (x.latchCount + 1) (2 ^ 24 - 1) ∧
      (x.latchCount = 0 → (afterDone d code x).latchCode = code ∧ (afterDone d code x).latchTag = dTag d.w) ∧
      (x.latchCount ≠ 0 → (afterDone d code x).latchCode = x.latchCode ∧ (afterDone d code x).latchTag = x.latchTag)) := by
  obtain ⟨-, hst, hg, -⟩ := tally_keeps (code := code) x hpost
  have hafter : afterDone d code x = tally d code x := by rw [afterDone, hew]
  rw [hafter]
  refine ⟨hst, hg, fun hzero => ?_, fun hcode => ?_⟩
  · rw [tally_engine x hpost, if_neg fun h => h.1 hzero]
  · rw [tally_engine x hpost, if_pos ⟨hcode, hew⟩]
    exact ⟨rfl, fun hfirst => ⟨if_pos hfirst, if_pos hfirst⟩, fun hlater => ⟨if_neg hlater, if_neg hlater⟩⟩

/-- A thread in ISSUEW receives the code and goes on (R178). -/
theorem afterDone_issuew (x : Thread) {gd : Nat} (hpost : d.post = false) (hew : d.ew = some gd) (hpend : x.pend = .issuew) :
    (afterDone d code x).st = .ready ∧ (afterDone d code x).pc = x.pc + 8#64 ∧ (gd ≠ 0 → (afterDone d code x).gr gd = BitVec.ofNat 64 code) ∧
    (afterDone d code x).latchCount = x.latchCount := by
  have htally : tally d code x = { x with outE := x.outE - 1 } := by
    rw [tally_engine x hpost, if_neg fun h => by rw [hew] at h; exact Option.some_ne_none _ h.2]
  have hafter : afterDone d code x =
      (({ x with outE := x.outE - 1, st := .ready, cause := 0, pend := .none } : Thread).setG gd (BitVec.ofNat 64 code)).next := by
    rw [afterDone, hew, htally]
    exact if_pos hpend
  rw [hafter]
  by_cases hgd : gd = 0
  · subst hgd
    exact ⟨rfl, rfl, absurd rfl, rfl⟩
  · refine ⟨?_, ?_, fun _ => Thread.gr_setG_self _ _ hgd, ?_⟩ <;> simp only [Thread.next, Thread.setG, if_neg hgd]

theorem afterDone_outE (x : Thread) (hpost : d.post = false) : (afterDone d code x).outE = x.outE - 1 := by
  obtain ⟨-, -, -, -, hout⟩ := tally_keeps (code := code) x hpost
  unfold afterDone
  split
  · split
    · unfold Thread.setG Thread.next
      split <;> exact hout
    · exact hout
  · exact hout

end Completion

/-- Settles O28: the recorded state is `recorded`, and the two reclaims after it keep threads, requests, the tracker and memory. -/
theorem descriptorCompletion : Obligations.DescriptorCompletion := by
  unfold Obligations.DescriptorCompletion
  intro s d code rest x sig hpst hended hpost hlive hfree hhalt hnone hqp
  have hexec := exec_descriptorCompletion hpst hended hpost hlive hfree hhalt hnone hqp
  have hframe : CqFrame (recorded s d code rest) (reclaim (reclaim (recorded s d code rest))) := (reclaim_frame _).trans (reclaim_frame _)
  have hthread : (reclaim (reclaim (recorded s d code rest))).thr d.th = afterDone d code x := (hframe.thr _).trans (State.thr_setThr_self _ _ _)
  refine ⟨_, hexec, ?_, ?_, ?_, ?_, fun hew => ?_, fun gd hew hpend => ?_, fun v hv => ?_, memSame_of_mem ?_ ?_⟩
  · rw [hframe.rest]
    rfl
  · rw [reclaim_sq, reclaim_sq]
    exact smFind_smDel_self _ _
  · rw [hframe.sy]
    exact (List.append_assoc _ _ _).symm
  · rw [hthread, afterDone_outE x hpost]
  · rw [hthread]
    exact afterDone_issued x hpost hew
  · rw [hthread]
    exact afterDone_issuew x hpost hew hpend
  · exact (hframe.thr v).trans (State.thr_setThr_ne _ _ hv)
  · rw [hframe.rest]
    rfl
  · rw [hframe.rest]
    rfl

end Sys2Proof.Machine

/-! ## Operands of engines: what reading and writing them leaves alone (R284, R298, R300) -/

namespace Sys2Proof.Machine

section Operands

variable {s t u : State} {who : Who} {rights req ctx no a n pa : Nat} {bs : List Byte}

/-- Only counters, memory, segments and the count of free values may have changed. -/
def OperandOnly (s u : State) : Prop := u = { s with cnt := u.cnt, mem := u.mem, sg := u.sg, free := u.free }

theorem OperandOnly.refl (s : State) : OperandOnly s s := rfl

theorem OperandOnly.trans (h : OperandOnly s t) (k : OperandOnly t u) : OperandOnly s u := by
  unfold OperandOnly at *
  rw [k, h]

theorem OperandOnly.en (h : OperandOnly s u) : u.en = s.en := by rw [h]
theorem OperandOnly.fc (h : OperandOnly s u) : u.fc = s.fc := by rw [h]
theorem OperandOnly.variant (h : OperandOnly s u) : u.variant = s.variant := by rw [h]
theorem OperandOnly.reg (h : OperandOnly s u) (off : Nat) : u.reg off = s.reg off := by rw [h]; rfl
theorem OperandOnly.get (h : OperandOnly s u) (f : RF) : u.get f = s.get f := by rw [h]; rfl
theorem OperandOnly.count (h : OperandOnly s u) (f : RF) (n : Nat) : OperandOnly s (u.count f n) := h.trans rfl
theorem OperandOnly.engine (h : OperandOnly s u) (e : Nat) : u.engine e = s.engine e := by rw [State.engine, State.engine, h.en]

theorem LinesTaken.operandOnly (h : LinesTaken s u) : OperandOnly s u := by
  unfold OperandOnly
  rw [h.rest]

/-- A page that is touched changes in its segment's table alone (R300). -/
theorem touchPage_eq (s : State) (ctx no a n : Nat) (wr : Bool) : ∃ g, touchPage s ctx no a n wr = { s with sg := g } := by
  unfold touchPage
  split
  · exact ⟨_, rfl⟩
  · split
    · exact ⟨_, rfl⟩
    · split
      · dsimp only
        split <;> exact ⟨_, rfl⟩
      · exact ⟨_, rfl⟩

/-! ### Reads -/

/-- Operands have been read: no byte changes, and no state but counters, checksum lines, touched pages and the count of free values. -/
structure OperandsRead (s u : State) : Prop where
  only : OperandOnly s u
  mem : MemSame s u

theorem OperandsRead.refl (s : State) : OperandsRead s s := ⟨.refl s, fun _ => rfl⟩

theorem OperandsRead.trans (h : OperandsRead s t) (k : OperandsRead t u) : OperandsRead s u :=
  ⟨h.only.trans k.only, fun b => (k.mem b).trans (h.mem b)⟩

theorem LinesTaken.operandsRead (h : LinesTaken s u) : OperandsRead s u := ⟨h.operandOnly, h.byte⟩

theorem operandsRead_touchPage (s : State) (ctx no a n : Nat) (wr : Bool) : OperandsRead s (touchPage s ctx no a n wr) := by
  obtain ⟨g, hg⟩ := touchPage_eq s ctx no a n wr
  rw [hg]
  exact ⟨rfl, fun _ => rfl⟩

theorem tileCheck_passed {tile : Nat} (h : s.tileCheck req tile = (u, 0)) : LinesTaken s u := by
  unfold State.tileCheck at h
  split at h
  · cases h
  · split at h
    · cases h
      exact linesTaken_sumLine s tile
    · cases h

theorem checkTiles_passed {ts : List Nat} (h : s.checkTiles req ts = (u, 0)) : LinesTaken s u := by
  induction ts generalizing s with
  | nil =>
    cases h
    exact .refl _
  | cons k ts ih =>
    rw [State.checkTiles] at h
    obtain ⟨hu, hc⟩ := Prod.ext_iff.1 h
    dsimp only at hu hc
    by_cases hk : (s.tileCheck req k).2 = 0
    · rw [if_pos hk] at hc
      exact (tileCheck_passed (Prod.ext rfl hk)).trans (ih (Prod.ext hu hc))
    · rw [if_neg hk] at hc
      exact absurd hc hk

theorem memRead_passed (h : memRead s req a n = (u, 0, bs)) : LinesTaken s u := by
  unfold memRead at h
  split at h
  next v hv =>
    cases h
    exact checkTiles_passed hv
  next hc _ =>
    cases h
    exact (hc rfl).elim

theorem readPieces_ok {both : Bool} {ps : List (Nat × Nat)} (h : readPieces s who rights req ctx no both ps = (u, .ok bs)) : OperandsRead s u := by
  induction ps generalizing s bs with
  | nil =>
    cases h
    exact .refl _
  | cons p ps ih =>
    obtain ⟨a, n⟩ := p
    rw [readPieces] at h
    split at h
    next pa _ =>
      split at h
      next v got hv =>
        have hread : OperandsRead s (touchPage v ctx no a n false) := (memRead_passed hv).operandsRead.trans (operandsRead_touchPage v ctx no a n false)
        split at h
        next hrest =>
          cases h
          exact hread.trans (ih hrest)
        next => exact hread.trans (ih h)
      next => cases h
    next => cases h
    next => cases h

theorem firstFault_ne_ok {g : Got} (h : firstFault s who rights ctx no a n = some g) : g ≠ .ok bs := by
  obtain ⟨p, -, hp⟩ := List.exists_of_findSome?_eq_some h
  split at hp <;> cases hp <;> exact Got.noConfusion

theorem readOp_ok (h : readOp s who req ctx no a n = (u, .ok bs)) : OperandsRead s u := by
  unfold readOp at h
  split at h
  next hfault =>
    cases h
    exact absurd rfl (firstFault_ne_ok hfault)
  next => exact readPieces_ok h

theorem readMany_ok {ps : List (Nat × Nat)} {got : List (List Byte)} (h : readMany s who req ctx no ps = (u, .ok bs, got)) : OperandsRead s u := by
  induction ps generalizing s got with
  | nil =>
    cases h
    exact .refl _
  | cons p ps ih =>
    rw [readMany] at h
    split at h
    next hfirst =>
      split at h
      next hrest =>
        cases h
        exact (readOp_ok hfirst).trans (ih hrest)
    next hfail _ =>
      cases h
      exact (hfail _ rfl).elim

/-! ### Accesses within one tile -/

theorem cutRange_single (hn : 0 < n) (hfit : a % 2048 + n ≤ 2048) : cutRange a n = [(a, n)] := by
  rw [cutRange, tilesOf_single hn hfit]
  simp only [List.map_cons, List.map_nil, tileOf, Nat.shiftLeft_eq, Nat.shiftRight_eq_div_pow]
  congr 2 <;> omega

theorem LinesTaken.oneTile (h : LinesTaken s u) (o : OneTile s who rights ctx no a n pa) : OneTile u who rights ctx no a n pa where
  some_ := o.some_
  tile := o.tile
  maps := by rw [h.rest]; exact o.maps
  place := o.place
  unfenced := (h.tileFenced _).trans o.unfenced
  good := (h.tileBad _).trans o.good

theorem OneTile.firstFault (o : OneTile s who rights ctx no a n pa) : firstFault s who rights ctx no a n = none := by
  simp [Machine.firstFault, cutRange_single o.some_ o.tile, o.maps]

/-- A write of a whole tile takes its line, stores the bytes and ends what stood against the tile (R284, R286). -/
theorem memWrite_whole (hlen : bs.length = 2048) (ha : a % 2048 = 0) (hf : s.tileFenced (tileOf a) = false) :
    let v := (s.sumLine (tileOf a)).setBytes a bs
    memWrite s req a bs = ({ v with mem := { v.mem with bad := smDel v.mem.bad (tileOf a), sums := smDel v.mem.sums (tileOf a) } }, 0) := by
  intro v
  have hwhole : (decide (bs.length = 2048) && decide (a % 2048 = 0)) = true := by simp [hlen, ha]
  rw [memWrite_single (List.ne_nil_of_length_pos (by omega)) (by omega), tileWrite]
  dsimp only
  rw [if_neg (by simp [hf]), if_pos hwhole]

theorem stored_setBytes (h : MemSame s t) (a : Nat) (bs : List Byte) : Stored s (t.setBytes a bs) a bs :=
  ⟨fun _ hi => byte_setBytes_in t hi, fun b hb => (byte_setBytes_out hb).trans (h b)⟩

theorem operandOnly_setBytes (s : State) (a : Nat) (bs : List Byte) : OperandOnly s (s.setBytes a bs) := by
  obtain ⟨m, hm⟩ := setBytes_eq s a bs
  rw [hm]
  exact rfl

/-- A write within one tile that is whole stores its bytes and no other. -/
theorem memWrite_stored (hn : 0 < bs.length) (hfit : a % 2048 + bs.length ≤ 2048) (hf : s.tileFenced (tileOf a) = false)
    (hb : s.tileBad (tileOf a) = 0) : ∃ u, memWrite s req a bs = (u, 0) ∧ Stored s u a bs ∧ OperandOnly s u := by
  have hline := linesTaken_sumLine s (tileOf a)
  rcases Nat.lt_or_ge bs.length 2048 with hpart | hwhole
  · exact ⟨_, memWrite_part (List.ne_nil_of_length_pos hn) hpart hfit hf hb, stored_setBytes (t := (s.sumLine (tileOf a)).count (rmwCount s a)) hline.byte a bs,
      (hline.operandOnly.count _ 1).trans (operandOnly_setBytes _ a bs)⟩
  · exact ⟨_, memWrite_whole (by omega) (by omega) hf, stored_setBytes hline.byte a bs,
      (hline.operandOnly.trans (operandOnly_setBytes _ a bs)).trans rfl⟩

/-- An engine's write within one tile that is whole stores its bytes and no other. -/
theorem writeOp_stored (o : OneTile s who rWrite ctx no a bs.length pa) :
    let u := (writeOp s who req ctx no a bs).1
    Stored s u pa bs ∧ OperandOnly s u := by
  intro u
  have hfit : pa % 2048 + bs.length ≤ 2048 := o.place ▸ o.tile
  obtain ⟨v, hv, ⟨hbytes, hother⟩, honly⟩ := memWrite_stored (req := req) o.some_ hfit o.unfenced o.good
  have hu : u = touchPage v ctx no a bs.length true := by
    simp only [u, writeOp, o.firstFault, cutTiles_single _ (List.ne_nil_of_length_pos o.some_) o.tile, writeCut, o.maps, hv]
  obtain ⟨htouch, hsame⟩ := operandsRead_touchPage v ctx no a bs.length true
  rw [hu]
  exact ⟨⟨fun i hi => (hsame _).trans (hbytes i hi), fun b hb => (hsame b).trans (hother b hb)⟩, honly.trans htouch⟩

end Operands

end Sys2Proof.Machine

/-! ## Reduction engines: the release of a tile (R206, R209–R211) -/

namespace Sys2Proof.Machine

/-! ### The tile's checks and its bytes -/

section Written

variable {s : State} {e ctx no a pa : Nat} {bs : List Byte}

/-- A single piece within a tile that is whole passes the checks before a release. -/
theorem storedOk_oneTile (o : OneTile s .engine rWrite ctx no a bs.length pa) :
    ∃ u, storedOk s e ctx no [(a, bs)] = (u, .ok []) ∧ LinesTaken s u := by
  have hcheck : ∃ u, storedOk.readStored e ctx no s [(a, bs.length)] = (u, 0) ∧ LinesTaken s u := by
    by_cases hwhole : bs.length = 2048
    · exact ⟨s, by simp only [storedOk.readStored, o.maps, o.unfenced, if_pos hwhole, Bool.false_eq_true, if_false], .refl s⟩
    · exact ⟨s.sumLine (tileOf pa), by simp [storedOk.readStored, o.maps, o.unfenced, hwhole, tileCheck_whole o.unfenced o.good],
        linesTaken_sumLine s _⟩
  obtain ⟨u, hu, hlines⟩ := hcheck
  exact ⟨u, by simp only [storedOk, o.firstFault, cutRange_single o.some_ o.tile, hu], hlines⟩

/-- Where no element is unpredictable, a release writes the computed bytes. -/
theorem writeFree_single (s : State) (e ctx no a : Nat) (bs : List Byte) :
    writeFree s e ctx no [] [(a, bs)] = (writeOp s .engine e ctx no a bs).1 := by
  simp [writeFree]

end Written

/-! ### A self-check mismatch (R211, R216) -/

section Mismatch

variable {s t : State} {e f : Nat} {r : Run} {residue : Bool}

/-- What a mismatch reports: RED_STATUS, its counter, and an event of source 16. -/
def redReported (s : State) (e : Nat) (r : Run) (residue : Bool) : State :=
  let t := ((s.set (F.RED_STATUS_LAST_CHECK (e / 4)) (b2n residue)).set (F.RED_STATUS_LAST_TILE (e / 4)) r.pos).bump (F.RED_STATUS_SEQ (e / 4))
  (if residue then t.count (F.RED_RESIDUE_ERR (e / 4)) else t.count (F.RED_CKSUM_ERR (e / 4))).raise 16 e (b2n residue)

theorem redReported_variant (s : State) (e : Nat) (r : Run) (residue : Bool) : (redReported s e r residue).variant = s.variant := by
  cases residue <;> rfl

theorem redReported_mem (s : State) (e : Nat) (r : Run) (residue : Bool) : (redReported s e r residue).mem = s.mem := by
  cases residue <;> rfl

theorem redReported_en (s : State) (e : Nat) (r : Run) (residue : Bool) : (redReported s e r residue).en = s.en := by
  cases residue <;> rfl

theorem redReported_raised (s : State) (e : Nat) (r : Run) (residue : Bool) :
    (redReported s e r residue).fc.raised = s.fc.raised ++ [(16, e, b2n residue)] := by
  cases residue <;> rfl

/-- The registers are those that show the event: neither the counter nor the event raised is one. -/
theorem redReported_reg_eq (s : State) (e : Nat) (r : Run) (residue : Bool) (off : Nat) : (redReported s e r residue).reg off =
    (((s.set (F.RED_STATUS_LAST_CHECK (e / 4)) (b2n residue)).set (F.RED_STATUS_LAST_TILE (e / 4)) r.pos).bump (F.RED_STATUS_SEQ (e / 4))).reg off := by
  cases residue <;> rfl

theorem redReported_reg_ne (s : State) (e : Nat) (r : Run) (residue : Bool) {off : Nat} (h : off ≠ domBase (e / 4) + 0x200) :
    (redReported s e r residue).reg off = s.reg off :=
  (redReported_reg_eq s e r residue off).trans ((State.reg_bump_ne _ h).trans ((State.reg_set_ne _ _ h).trans (State.reg_set_ne _ _ h)))

theorem redReported_check (s : State) (e : Nat) (r : Run) (residue : Bool) :
    (redReported s e r residue).get (F.RED_STATUS_LAST_CHECK (e / 4)) = b2n residue := by
  have hfit : (F.RED_STATUS_LAST_CHECK (e / 4)).lo + (F.RED_STATUS_LAST_CHECK (e / 4)).wid ≤ 32 := by show 16 + 1 ≤ 32; decide
  rw [State.get, redReported_reg_eq]
  refine (State.get_bump_apart _ hfit (.inl (by show 8 + 8 ≤ 16; decide))).trans ?_
  rw [State.get_set_apart _ _ hfit (.inr (by show 16 + 1 ≤ 17; decide)), State.get_set_self _ _ hfit]
  cases residue <;> rfl

theorem redReported_seq (s : State) (e : Nat) (r : Run) (residue : Bool) :
    (redReported s e r residue).get (F.RED_STATUS_SEQ (e / 4)) = seqNext (s.get (F.RED_STATUS_SEQ (e / 4))) := by
  have hfit : (F.RED_STATUS_SEQ (e / 4)).lo + (F.RED_STATUS_SEQ (e / 4)).wid ≤ 32 := by show 8 + 8 ≤ 32; decide
  rw [State.get, redReported_reg_eq]
  refine (State.get_bump_seq _ rfl hfit).trans ?_
  rw [State.get_set_apart _ _ hfit (.inr (by show 8 + 8 ≤ 17; decide)), State.get_set_apart _ _ hfit (.inr (by show 8 + 8 ≤ 16; decide))]

/-- The next reduction engine depends on the variant and on the fences that the registers show. -/
theorem nextRed_congr (hv : t.variant = s.variant) (hlo : t.reg F.FCOL_FENCED_ENG_LO.off = s.reg F.FCOL_FENCED_ENG_LO.off)
    (hhi : t.reg F.FCOL_FENCED_ENG_HI.off = s.reg F.FCOL_FENCED_ENG_HI.off) : nextRed t e = nextRed s e := by
  simp only [nextRed, State.engFenced, nDom, hv, hlo, hhi]

theorem nextRed_redReported (s : State) (e : Nat) (r : Run) (residue : Bool) : nextRed (redReported s e r residue) e = nextRed s e :=
  nextRed_congr (redReported_variant s e r residue) (redReported_reg_ne s e r residue (by show 0x10020 ≠ 0x100000 + 0x10000 * (e / 4) + 0x200; omega))
    (redReported_reg_ne s e r residue (by show 0x10024 ≠ 0x100000 + 0x10000 * (e / 4) + 0x200; omega))

theorem nextRed_ne (h : nextRed s e = some f) : f ≠ e := by
  have hfound := List.find?_some h
  simp only [Bool.and_eq_true, bne_iff_ne] at hfound
  exact hfound.1

/-- The descriptor leaves its engine at the failing tile, and the rest of it goes to engine `f`; the mismatch is shown and raised. -/
structure RedHanded (s u : State) (e f : Nat) (r : Run) (residue : Bool) : Prop where
  mem : MemSame s u
  run : (u.engine e).run = none
  incoming : (u.engine f).incoming = (s.engine f).incoming ++ [{ r with rem := true, cost := 0, d := { r.d with eng := f } }]
  ended : u.en.ended = s.en.ended
  raised : u.fc.raised = s.fc.raised ++ [(16, e, b2n residue)]
  check : u.get (F.RED_STATUS_LAST_CHECK (e / 4)) = b2n residue
  seq : u.get (F.RED_STATUS_SEQ (e / 4)) = seqNext (s.get (F.RED_STATUS_SEQ (e / 4)))

/-- Where another engine is not fenced, a mismatch of a descriptor that is no remainder yet hands it on. -/
theorem redMismatch_eq (hrem : r.rem = false) (hf : nextRed s e = some f) :
    let t := redReported s e r residue
    let v := countBusy (t.setEngine e { t.engine e with run := none }) e r.cost 0x30
    redMismatch s e r residue = (v.setEngine f { v.engine f with
      incoming := (v.engine f).incoming ++ [{ r with rem := true, cost := 0, d := { r.d with eng := f } }] }).count (F.RED_REISSUE_OUT (e / 4)) := by
  have hnext := (nextRed_redReported s e r residue).trans hf
  unfold redReported at hnext
  simp only [redMismatch, redReported, hrem, hnext, Bool.false_eq_true, if_false]

theorem redMismatch_handed (hrem : r.rem = false) (hf : nextRed s e = some f) : RedHanded s (redMismatch s e r residue) e f r residue := by
  have hne := nextRed_ne hf
  obtain ⟨m, k, hbusy⟩ := countBusy_eq ((redReported s e r residue).setEngine e { (redReported s e r residue).engine e with run := none })
    e r.cost 0x30
  have hother (x : Engine) : ((redReported s e r residue).setEngine e x).engine f = s.engine f :=
    (State.engine_setEngine_ne _ x hne).trans (by rw [State.engine, State.engine, redReported_en])
  rw [redMismatch_eq hrem hf, hbusy]
  exact {
    mem := memSame_of_mem (redReported_mem s e r residue) (redReported_variant s e r residue)
    run := (congrArg Engine.run (State.engine_setEngine_ne _ _ hne.symm)).trans
      (congrArg Engine.run (State.engine_setEngine_self (redReported s e r residue) e _))
    incoming := (congrArg Engine.incoming (State.engine_setEngine_self _ f _)).trans (congrArg (·.incoming ++ _) (hother _))
    ended := by
      show (redReported s e r residue).en.ended = s.en.ended
      rw [redReported_en]
    raised := redReported_raised s e r residue
    check := redReported_check s e r residue
    seq := redReported_seq s e r residue }

/-- Operands that are read before a descriptor is handed on change nothing of what that leaves. -/
theorem RedHanded.of_read {v u : State} (h : OperandsRead s v) (k : RedHanded v u e f r residue) : RedHanded s u e f r residue where
  mem b := (k.mem b).trans (h.mem b)
  run := k.run
  incoming := by rw [k.incoming, h.only.engine]
  ended := by rw [k.ended, h.only.en]
  raised := by rw [k.raised, h.only.fc]
  check := k.check
  seq := by rw [k.seq, h.only.get]

theorem OperandOnly.nextRed (h : OperandOnly s t) : nextRed t e = nextRed s e := nextRed_congr h.variant (h.reg _) (h.reg _)

end Mismatch

/-! ### The release -/

section Release

variable {s v w : State} {e : Nat} {r : Run} {got : List (List Byte)}

theorem exec_redTileRelease (chk : RedCheck) (ha : s.pst = 3) (he : e < nEng s) (hk : e % 4 = 0) (hrun : (s.engine e).run = some r)
    (hpark : r.park = none) : exec (.redTileRelease e chk) s = .next (settle (redRelease s e r chk)) := by
  have hserves : ¬ ((decide (nEng s ≤ e) || decide (e % 4 ≠ 0)) = true) := by simp [he, hk]
  show Host.Outcome.next (inActive s _) = _
  simp only [inActive, if_pos ha, if_neg hserves, hrun, hpark, Option.isSome_none, Bool.false_eq_true, if_false]

/-- A reduction that succeeds leaves its engine and ends; its cycles are counted (R203, R217). -/
theorem endRun_reduction (s : State) (e : Nat) (hd : dKind r.d.w = 0) :
    ∃ m k, endRun s e r 0 = State.endDesc { s.setEngine e { s.engine e with run := none } with cnt := m, free := k } r.d 0 := by
  obtain ⟨m, k, hbusy⟩ := countBusy_eq (s.setEngine e { s.engine e with run := none }) r.d.eng r.cost 0
  exact ⟨m, k, by rw [endRun, finishRun, hbusy]; simp [finishDesc, runTail, noteCode, hd]⟩

/-- The run's next output tile reads `got` from its operands, which gives `x`; no error terms are kept. -/
structure RedComputes (s v : State) (e : Nat) (r : Run) (got : List (List Byte)) (x : TileOut) : Prop where
  plain : redComp r.d.w = false
  read : let b := tileBlocks (elemBits (dOutFmt r.d.w)) (dCount r.d.w) r.pos
    readMany s .engine e (dCtx r.d.w) r.d.no
      ((redOperands r.d.w r.bytes).flatMap fun o => operandPieces o.1 o.2 (dCount r.d.w) b.1 b.2) = (v, .ok [], got)
  tile : let b := tileBlocks (elemBits (dOutFmt r.d.w)) (dCount r.d.w) r.pos
    redTile r.d.w r.bytes r.pos (gatherBlocks (b.2 - b.1) (redOperands r.d.w r.bytes) got) [] r.acc = x

variable {x : TileOut} (h : RedComputes s v e r got x)
include h

theorem redRelease_residue (hcov : residueCovers r.d.w = true) : redRelease s e r .residue = redMismatch v e r true := by
  simp only [redRelease, h.plain, h.read, hcov, Bool.false_eq_true, if_false, List.append_nil, decide_true, Bool.and_self, if_true]

theorem redRelease_checksum (hok : storedOk v e (dCtx r.d.w) r.d.no x.writes = (w, .ok [])) :
    redRelease s e r .checksum = redMismatch w e r false := by
  simp [redRelease, h.plain, h.read, h.tile, hok]

theorem redRelease_pass (hok : storedOk v e (dCtx r.d.w) r.d.no x.writes = (w, .ok [])) :
    let q := { r with pos := r.pos + 1, acc := x.carry }
    let t := ((writeFree w e (dCtx r.d.w) r.d.no (redOverlaps r.d.w r.bytes) x.writes).count (F.RED_SATURATED (e / 4)) x.sats).count
      (F.RED_NAN_OUT (e / 4)) x.nans
    redRelease s e r .pass = if redTiles r.d.w ≤ r.pos + 1 then endRun t e q 0 else t.setEngine e { t.engine e with run := some q } := by
  simp [redRelease, h.plain, h.read, h.tile, hok]

end Release

/-- A release of one piece whose checks pass writes its bytes and no other, and the run goes on, or ends with SUCCESS (R206, R210). -/
theorem redRelease_pass_single {s v : State} {e a pa : Nat} {r : Run} {got : List (List Byte)} {bs : List Byte} {sats nans : Nat} {carry : List Nat}
    (h : RedComputes s v e r got ⟨[(a, bs)], sats, nans, carry⟩) (o : OneTile v .engine rWrite (dCtx r.d.w) r.d.no a bs.length pa)
    (hd : dKind r.d.w = 0) (hover : redOverlaps r.d.w r.bytes = []) :
    let u := redRelease s e r .pass
    Stored s u pa bs ∧ (if redTiles r.d.w ≤ r.pos + 1 then (u.engine e).run = none ∧ u.en.ended = s.en.ended ++ [⟨r.d, 0⟩]
      else (u.engine e).run = some { r with pos := r.pos + 1, acc := carry } ∧ u.en.ended = s.en.ended) := by
  intro u
  obtain ⟨w, hok, hlines⟩ := storedOk_oneTile (e := e) o
  have hread : OperandsRead s w := (readMany_ok h.read).trans hlines.operandsRead
  obtain ⟨⟨hbytes, hother⟩, honly⟩ := writeOp_stored (req := e) (hlines.oneTile o)
  have hstored : Stored s (writeOp w .engine e (dCtx r.d.w) r.d.no a bs).1 pa bs :=
    ⟨hbytes, fun b hb => (hother b hb).trans (hread.mem b)⟩
  have hended : (writeOp w .engine e (dCtx r.d.w) r.d.no a bs).1.en.ended = s.en.ended := by rw [(hread.only.trans honly).en]
  have hu : u = _ := redRelease_pass h hok
  rw [hover, writeFree_single] at hu
  rw [hu]
  split
  · obtain ⟨m, k, hend⟩ := endRun_reduction (r := { r with pos := r.pos + 1, acc := carry })
      (((writeOp w .engine e (dCtx r.d.w) r.d.no a bs).1.count (F.RED_SATURATED (e / 4)) sats).count (F.RED_NAN_OUT (e / 4)) nans) e hd
    rw [hend]
    exact ⟨hstored, congrArg Engine.run (State.engine_setEngine_self _ e _), congrArg (· ++ _) hended⟩
  · exact ⟨hstored, congrArg Engine.run (State.engine_setEngine_self _ e _), hended⟩

/-- Settles O30: what a release leaves in each of its three outcomes, after operands whose reading changes no byte. -/
theorem reductionRelease : Obligations.ReductionRelease := by
  intro s v e a pa f r got bs sats nans carry d n b ops handed ha he hk hrun hpark hd hcomp hread htile hmap hpa hal hpos hlen hfen hbad hover
  have hexec (chk : RedCheck) := exec_redTileRelease chk ha he hk hrun hpark
  have h : RedComputes s v e r got ⟨[(a, bs)], sats, nans, carry⟩ := ⟨hcomp, hread, htile⟩
  have o : OneTile v .engine rWrite (dCtx d.w) d.no a bs.length pa := ⟨hpos, by omega, hmap, by omega, hfen, hbad⟩
  have hv := readMany_ok hread
  have hhanded {w : State} (residue : Bool) (hw : OperandsRead s w) (hrem : r.rem = false) (hf : nextRed s e = some f) :
      handed (redMismatch w e r residue) (b2n residue) := by
    obtain ⟨hmem, hnone, hin, hended, hraised, hcheck, hseq⟩ := (redMismatch_handed hrem (hw.only.nextRed.trans hf)).of_read hw
    exact ⟨hmem, hnone, hin, hended, hraised, hcheck, hseq⟩
  refine ⟨?_, fun hrem hf => ⟨?_, fun hcov => ?_⟩⟩
  · obtain ⟨⟨hbytes, hother⟩, hgoes⟩ := redRelease_pass_single h o hd hover
    exact ⟨_, hexec .pass, hbytes, hother, hgoes⟩
  · obtain ⟨w, hok, hlines⟩ := storedOk_oneTile (e := e) o
    exact ⟨_, hexec .checksum, by rw [redRelease_checksum h hok]; exact hhanded false (hv.trans hlines.operandsRead) hrem hf⟩
  · exact ⟨_, hexec .residue, by rw [redRelease_residue h hcov]; exact hhanded true hv hrem hf⟩

end Sys2Proof.Machine

/-! ## The compressed tile format (R244–R246) -/

namespace Sys2Proof.Machine

/-! ### Elements of `esz` bytes, end to end -/

theorem toLE_ofLE (bs : List Byte) : toLE bs.length (ofLE bs) = bs := by
  induction bs with
  | nil => rfl
  | cons b bs ih =>
    have hb := b.isLt
    have hlow : BitVec.ofNat 8 (b.toNat + 256 * ofLE bs) = b := by
      apply BitVec.eq_of_toNat_eq
      rw [BitVec.toNat_ofNat]
      omega
    have hhigh : (b.toNat + 256 * ofLE bs) / 256 = ofLE bs := by omega
    rw [ofLE, List.length_cons, toLE, hlow, hhigh, ih]

/-- The bytes of a list of elements. -/
def elemBytes (esz : Nat) (es : List Nat) : List Byte := es.flatMap fun x => toLE esz x

@[simp] theorem elemBytes_nil (esz : Nat) : elemBytes esz [] = [] := rfl

@[simp] theorem elemBytes_cons (esz x : Nat) (es : List Nat) : elemBytes esz (x :: es) = toLE esz x ++ elemBytes esz es := List.flatMap_cons

@[simp] theorem elemBytes_length (esz : Nat) (es : List Nat) : (elemBytes esz es).length = es.length * esz := by
  induction es with
  | nil => simp
  | cons x es ih => rw [elemBytes_cons, List.length_append, ih, toLE_length, List.length_cons, Nat.succ_mul, Nat.add_comm]

theorem fieldLE_toLE_skip {k v o : Nat} (b : List Byte) (n : Nat) (h : k ≤ o) : fieldLE (toLE k v ++ b) o n = fieldLE b (o - k) n := by
  rw [fieldLE, fieldLE, List.drop_append, toLE_length, List.drop_of_length_le (by simpa using h), List.nil_append]

theorem fieldLE_append_left {a : List Byte} (b : List Byte) {o n : Nat} (h : o + n ≤ a.length) : fieldLE (a ++ b) o n = fieldLE a o n := by
  rw [fieldLE, fieldLE, List.drop_append_of_le_length (by omega), List.take_append_of_le_length (by rw [List.length_drop]; omega)]

theorem fieldLE_toLE_front (n v : Nat) (b : List Byte) : fieldLE (toLE n v ++ b) 0 n = v % 256 ^ n := fieldLE_append (pre := []) rfl

theorem fieldLE_toLE (n v : Nat) : fieldLE (toLE n v) 0 n = v % 256 ^ n := by
  rw [← List.append_nil (toLE n v), fieldLE_toLE_front]

/-- The first `n` fields of `esz` bytes, written out again, are the first bytes. -/
theorem elemBytes_fieldLE {esz n : Nat} {bs : List Byte} (h : n * esz ≤ bs.length) :
    elemBytes esz ((List.range n).map fun k => fieldLE bs (k * esz) esz) = bs.take (n * esz) := by
  rw [elemBytes, List.flatMap_map]
  induction n with
  | zero => simp
  | succ n ih =>
    rw [Nat.succ_mul] at h
    have hlen : ((bs.drop (n * esz)).take esz).length = esz := by rw [List.length_take, List.length_drop]; omega
    have hlast : toLE esz (fieldLE bs (n * esz) esz) = (bs.drop (n * esz)).take esz := by
      have h := toLE_ofLE ((bs.drop (n * esz)).take esz)
      rwa [hlen] at h
    rw [List.range_succ, List.flatMap_append, ih (by omega), List.flatMap_singleton, hlast, Nat.succ_mul, List.take_add]

/-- Elements that fit their size are read back from the front of what follows them. -/
theorem fieldLE_elemBytes {esz : Nat} {l : List Nat} (h : ∀ x ∈ l, x < 256 ^ esz) (r : List Byte) :
    ((List.range l.length).map fun i => fieldLE (elemBytes esz l ++ r) (i * esz) esz) = l := by
  induction l with
  | nil => rfl
  | cons x l ih =>
    rw [List.forall_mem_cons] at h
    have hrest (i : Nat) : fieldLE (elemBytes esz (x :: l) ++ r) ((i + 1) * esz) esz = fieldLE (elemBytes esz l ++ r) (i * esz) esz := by
      rw [elemBytes_cons, List.append_assoc, fieldLE_toLE_skip _ _ (Nat.le_mul_of_pos_left _ i.succ_pos), Nat.succ_mul, Nat.add_sub_cancel]
    have hfirst : fieldLE (elemBytes esz (x :: l) ++ r) (0 * esz) esz = x := by
      rw [Nat.zero_mul, elemBytes_cons, List.append_assoc, fieldLE_toLE_front, Nat.mod_eq_of_lt h.1]
    rw [List.length_cons, List.range_succ_eq_map, List.map_cons, List.map_map, hfirst]
    exact congrArg (x :: ·) ((List.map_congr_left fun i _ => hrest i).trans (ih h.2))

theorem zeElems_length (esz : Nat) (bs : List Byte) : (zeElems esz bs).length = 2048 / esz := by simp [zeElems]

theorem zeElems_lt {esz x : Nat} {bs : List Byte} (h : x ∈ zeElems esz bs) : x < 256 ^ esz := by
  obtain ⟨k, -, rfl⟩ := List.mem_map.mp h
  exact fieldLE_lt _ _ _

theorem zeTile_zeElems {esz : Nat} {bs : List Byte} (hesz : esz ∣ 2048) (hlen : bs.length = 2048) : zeTile esz (zeElems esz bs) = bs := by
  have hall : elemBytes esz (zeElems esz bs) = bs := by
    rw [zeElems, elemBytes_fieldLE (by rw [Nat.div_mul_cancel hesz, hlen]), Nat.div_mul_cancel hesz, ← hlen, List.take_length]
  have hslice := slice_append bs [] hlen
  rw [List.append_nil] at hslice
  exact (congrArg (slice · 0 2048) hall).trans hslice

theorem eq_replicate_of_all_zero {es : List Nat} (h : es.all (· == 0) = true) : es = List.replicate es.length 0 :=
  List.eq_replicate_of_mem (by simpa using h)

/-! ### BITMAP (R245) -/

/-- The presence bits of a bitmap payload, as a number: bit i is set where element i is not zero. -/
def presence (es : List Nat) : Nat := es.foldr (fun x acc => 2 * acc + if x = 0 then 0 else 1) 0

@[simp] theorem presence_cons (x : Nat) (es : List Nat) : presence (x :: es) = 2 * presence es + if x = 0 then 0 else 1 := rfl

theorem presence_lt (es : List Nat) : presence es < 2 ^ es.length := by
  induction es with
  | nil => decide
  | cons x es ih =>
    rw [presence_cons, List.length_cons, Nat.pow_succ]
    split <;> omega

theorem bitmap_eq (esz : Nat) (es : List Nat) : bitmap esz es = toLE (es.length / 8) (presence es) ++ elemBytes esz (es.filter (· != 0)) := rfl

theorem bitmap_length (esz : Nat) (es : List Nat) : (bitmap esz es).length = es.length / 8 + (es.filter (· != 0)).length * esz := by
  rw [bitmap_eq, List.length_append, toLE_length, elemBytes_length]

theorem unBitmap_presence {esz : Nat} {es : List Nat} (h : ∀ x ∈ es, x < 256 ^ esz) :
    unBitmap esz es.length (presence es) (elemBytes esz (es.filter (· != 0))) = es := by
  induction es with
  | nil => rfl
  | cons x es ih =>
    rw [List.forall_mem_cons] at h
    rw [List.length_cons, unBitmap, presence_cons]
    by_cases hx : x = 0
    · have hbit : (2 * presence es + 0) % 2 ≠ 1 := by omega
      have hnext : (2 * presence es + 0) / 2 = presence es := by omega
      subst hx
      simp only [if_true, if_neg hbit, hnext, List.filter_cons, bne_self_eq_false, Bool.false_eq_true, if_false, ih h.2]
    · have hbit : (2 * presence es + 1) % 2 = 1 := by omega
      have hnext : (2 * presence es + 1) / 2 = presence es := by omega
      have hkept : (x :: es).filter (· != 0) = x :: es.filter (· != 0) := List.filter_cons_of_pos (by simpa using hx)
      rw [if_neg hx, if_pos hbit, hnext, hkept, elemBytes_cons, fieldLE_toLE_front, Nat.mod_eq_of_lt h.1, List.drop_left' (toLE_length esz x), ih h.2]

/-- The payload of a bitmap gives its elements back. -/
theorem unBitmap_bitmap {esz : Nat} {es : List Nat} (h8 : 8 ∣ es.length) (h : ∀ x ∈ es, x < 256 ^ esz) :
    unBitmap esz es.length (ofLE ((bitmap esz es).take (es.length / 8))) ((bitmap esz es).drop (es.length / 8)) = es := by
  have hlt : presence es < 256 ^ (es.length / 8) := by
    rw [show 256 = 2 ^ 8 by rfl, ← Nat.pow_mul, Nat.mul_div_cancel' h8]
    exact presence_lt es
  rw [bitmap_eq, List.take_left' (toLE_length _ _), List.drop_left' (toLE_length _ _), ofLE_toLE, Nat.mod_eq_of_lt hlt, unBitmap_presence h]

/-! ### ZRUN (R245) -/

/-- A run is a front part of at most `k` elements, all of which meet `p`. -/
theorem takeRun_spec (p : Nat → Bool) (k : Nat) (xs : List Nat) :
    (takeRun p k xs).1 ++ (takeRun p k xs).2 = xs ∧ (∀ x ∈ (takeRun p k xs).1, p x = true) ∧ (takeRun p k xs).1.length ≤ k := by
  induction k generalizing xs with
  | zero => simp [takeRun]
  | succ k ih =>
    cases xs with
    | nil => simp [takeRun]
    | cons x xs =>
      obtain ⟨happ, hall, hlen⟩ := ih xs
      by_cases hx : p x = true
      · rw [takeRun, if_pos hx]
        exact ⟨congrArg (x :: ·) happ, List.forall_mem_cons.mpr ⟨hx, hall⟩, Nat.succ_le_succ hlen⟩
      · rw [takeRun, if_neg hx]
        simp

theorem takeRun_cons_pos {p : Nat → Bool} {x : Nat} (hx : p x = true) (k : Nat) (xs : List Nat) : 0 < (takeRun p (k + 1) (x :: xs)).1.length := by
  rw [takeRun, if_pos hx]
  exact Nat.succ_pos _

theorem takeRun_cons_neg {p : Nat → Bool} {x : Nat} (hx : p x = false) (k : Nat) (xs : List Nat) : takeRun p (k + 1) (x :: xs) = ([], x :: xs) := by
  rw [takeRun, if_neg (by simp [hx])]

theorem zrun_zeros (esz k : Nat) {es : List Nat} (h : es.all (· == 0) = true) : zrun esz k es = [] := by
  cases k with
  | zero => rfl
  | succ k => rw [zrun, if_pos h]

/-- The first token of elements that are not all zero: `z` zeros, the literals `l`, one of them at least, and the tokens of the rest. -/
theorem zrun_token (esz k : Nat) {es : List Nat} (h : es.all (· == 0) = false) :
    ∃ z l r, es = List.replicate z 0 ++ l ++ r ∧ z < 256 ∧ l.length < 256 ∧ 0 < z + l.length ∧
      zrun esz (k + 1) es = BitVec.ofNat 8 z :: BitVec.ofNat 8 l.length :: (elemBytes esz l ++ zrun esz k r) := by
  obtain ⟨hzero, hz, hzlen⟩ := takeRun_spec (· == 0) 255 es
  obtain ⟨hlit, -, hllen⟩ := takeRun_spec (· != 0) 255 (takeRun (· == 0) 255 es).2
  have hrep := List.eq_replicate_of_mem (a := 0) fun x hx => eq_of_beq (hz x hx)
  refine ⟨(takeRun (· == 0) 255 es).1.length, (takeRun (· != 0) 255 (takeRun (· == 0) 255 es).2).1,
    (takeRun (· != 0) 255 (takeRun (· == 0) 255 es).2).2, ?_, Nat.lt_succ_of_le hzlen, Nat.lt_succ_of_le hllen, ?_, ?_⟩
  · rw [← hrep, List.append_assoc, hlit, hzero]
  · cases es with
    | nil => simp at h
    | cons x es =>
      by_cases hx : x = 0
      · exact Nat.add_pos_left (takeRun_cons_pos (p := (· == 0)) (beq_iff_eq.mpr hx) 254 es) _
      · rw [takeRun_cons_neg (p := (· == 0)) (beq_eq_false_iff_ne.mpr hx) 254]
        exact Nat.add_pos_right _ (takeRun_cons_pos (p := (· != 0)) (bne_iff_ne.mpr hx) 254 es)
  · rw [zrun, if_neg (by simp [h])]
    rfl

theorem unZrun_nil (esz room k : Nat) : unZrun esz room (k + 1) [] = some (List.replicate room 0) := rfl

theorem unZrun_token {esz room z k : Nat} {l : List Nat} {r : List Byte} (hz : z < 256) (hl : l.length < 256) (hroom : z + l.length ≤ room)
    (h : ∀ x ∈ l, x < 256 ^ esz) :
    unZrun esz room (k + 1) (BitVec.ofNat 8 z :: BitVec.ofNat 8 l.length :: (elemBytes esz l ++ r)) =
      (unZrun esz (room - z - l.length) k r).map fun es => List.replicate z 0 ++ l ++ es := by
  have hz' : (BitVec.ofNat 8 z).toNat = z := by rw [BitVec.toNat_ofNat]; omega
  have hl' : (BitVec.ofNat 8 l.length).toNat = l.length := by rw [BitVec.toNat_ofNat]; omega
  have hfits : ¬ (room < z + l.length ∨ (elemBytes esz l ++ r).length < l.length * esz) := by
    rw [List.length_append, elemBytes_length]; omega
  simp only [unZrun, hz', hl', Bool.or_eq_true, decide_eq_true_eq, if_neg hfits, List.drop_left' (elemBytes_length esz l), fieldLE_elemBytes h]

/-- The tokens of a list of elements give it back; neither the encoder nor the decoder runs out of steps. -/
theorem unZrun_zrun {esz k fuel : Nat} {es : List Nat} (h : ∀ x ∈ es, x < 256 ^ esz) (hk : es.length < k) (hfuel : (zrun esz k es).length < fuel) :
    unZrun esz es.length fuel (zrun esz k es) = some es := by
  induction k generalizing es fuel with
  | zero => omega
  | succ k ih =>
    obtain ⟨fuel, rfl⟩ := Nat.exists_eq_succ_of_ne_zero (Nat.ne_of_gt (Nat.zero_lt_of_lt hfuel))
    by_cases hall : es.all (· == 0) = true
    · rw [zrun_zeros esz _ hall, unZrun_nil, ← eq_replicate_of_all_zero hall]
    · obtain ⟨z, l, r, hes, hz, hl, hpos, htok⟩ := zrun_token esz k (by simpa using hall)
      have hlen : es.length = z + l.length + r.length := by
        rw [hes, List.length_append, List.length_append, List.length_replicate]
      have hrest : ∀ x ∈ r, x < 256 ^ esz := fun x hx => h x (by rw [hes]; simp [hx])
      have hlits : ∀ x ∈ l, x < 256 ^ esz := fun x hx => h x (by rw [hes]; simp [hx])
      have hleft : es.length - z - l.length = r.length := by omega
      rw [htok, List.length_cons, List.length_cons, List.length_append] at hfuel
      rw [htok, unZrun_token hz hl (by omega) hlits, hleft, ih hrest (by omega) (by omega), Option.map_some, ← hes]

/-! ### Methods (R245) -/

/-- The elements of a payload of one method. -/
def zePayload (esz nnz : Nat) (p : List Byte) : (method : Nat) → Option (List Nat)
  | 0 => if p.length = 2048 then some (zeElems esz p) else none
  | 1 => if p.length = 2048 / esz / 8 + nnz * esz then
      some (unBitmap esz (2048 / esz) (ofLE (p.take (2048 / esz / 8))) (p.drop (2048 / esz / 8))) else none
  | 2 => unZrun esz (2048 / esz) (p.length + 1) p
  | _ => if p.length = 0 && nnz = 0 then some (List.replicate (2048 / esz) 0) else none

/-- Elements that are not zero. -/
def zeNnz (esz : Nat) (bs : List Byte) : Nat := ((zeElems esz bs).filter (· != 0)).length

theorem zeNnz_le (esz : Nat) (bs : List Byte) : zeNnz esz bs ≤ 2048 := by
  have h := List.length_filter_le (· != 0) (zeElems esz bs)
  rw [zeElems_length] at h
  exact h.trans (Nat.div_le_self 2048 esz)

theorem zeChoose_cases {esz : Nat} {bs : List Byte} (hlen : bs.length = 2048) :
    (zeChoose esz bs = (3, []) ∧ (zeElems esz bs).all (· == 0) = true) ∨ zeChoose esz bs = (0, bs) ∨
      (zeChoose esz bs = (1, bitmap esz (zeElems esz bs)) ∧ (bitmap esz (zeElems esz bs)).length < 2048) ∨
      (zeChoose esz bs = (2, zrun esz 4097 (zeElems esz bs)) ∧ (zrun esz 4097 (zeElems esz bs)).length < 2048) := by
  simp only [zeChoose]
  split
  · exact .inl ⟨rfl, ‹_›⟩
  · by_cases hb : (bitmap esz (zeElems esz bs)).length < 2048
    · simp only [if_pos hb]
      split
      · exact .inr (.inr (.inr ⟨rfl, by omega⟩))
      · exact .inr (.inr (.inl ⟨rfl, hb⟩))
    · simp only [if_neg hb]
      split
      · exact .inr (.inr (.inr ⟨rfl, by omega⟩))
      · exact .inr (.inl rfl)

theorem zeChoose_bounds {esz : Nat} {bs : List Byte} (hlen : bs.length = 2048) : (zeChoose esz bs).1 < 4 ∧ (zeChoose esz bs).2.length ≤ 2048 := by
  rcases zeChoose_cases (esz := esz) hlen with ⟨h, -⟩ | h | ⟨h, hlt⟩ | ⟨h, hlt⟩ <;> rw [h] <;> dsimp only [List.length_nil] <;> omega

/-- Whatever method the encoder chooses, its payload gives the tile's elements back. -/
theorem zePayload_zeChoose {esz : Nat} {bs : List Byte} (hesz : 8 ∣ 2048 / esz) (hlen : bs.length = 2048) :
    zePayload esz (zeNnz esz bs) (zeChoose esz bs).2 (zeChoose esz bs).1 = some (zeElems esz bs) := by
  have hn := zeElems_length esz bs
  have hlt (x : Nat) (hx : x ∈ zeElems esz bs) : x < 256 ^ esz := zeElems_lt hx
  rcases zeChoose_cases (esz := esz) hlen with ⟨h, hzero⟩ | h | ⟨h, -⟩ | ⟨h, -⟩ <;> rw [h]
  case inl =>
    have hnnz : zeNnz esz bs = 0 := by
      rw [zeNnz, List.length_eq_zero_iff, List.filter_eq_nil_iff]
      simpa using hzero
    have hes := eq_replicate_of_all_zero hzero
    rw [hn] at hes
    simp [zePayload, hnnz, ← hes]
  case inr.inl => simp [zePayload, hlen]
  case inr.inr.inl =>
    have hsize := bitmap_length esz (zeElems esz bs)
    have hback := unBitmap_bitmap (hn ▸ hesz) hlt
    rw [hn] at hsize hback
    exact (if_pos hsize).trans (congrArg some hback)
  case inr.inr.inr =>
    have hback := unZrun_zrun (k := 4097) hlt (by rw [hn]; exact Nat.lt_of_le_of_lt (Nat.div_le_self 2048 esz) (by decide)) (Nat.lt_succ_self _)
    rw [hn] at hback
    exact hback

/-! ### Records (R244) -/

/-- The header of a record. -/
def zeHead (fmt method len nnz crc : Nat) : List Byte :=
  toLE 1 (method + 4 * zeEszCode fmt) ++ (toLE 1 0 ++ (toLE 2 len ++ (toLE 2 nnz ++ (toLE 2 0 ++ toLE 8 crc))))

theorem zeHead_length (fmt method len nnz crc : Nat) : (zeHead fmt method len nnz crc).length = 16 := by simp [zeHead]

theorem zeEszCode_le (fmt : Nat) : zeEszCode fmt ≤ 2 := by
  unfold zeEszCode
  split <;> decide

/-- Every field of a header is read back. -/
theorem zeHead_fields {fmt method len nnz crc : Nat} (hm : method < 4) (hlen : len < 2 ^ 16) (hnnz : nnz < 2 ^ 16) (hcrc : crc < 2 ^ 64) :
    let h := zeHead fmt method len nnz crc
    fieldLE h 0 1 = method + 4 * zeEszCode fmt ∧ fieldLE h 1 1 = 0 ∧ fieldLE h 2 2 = len ∧ fieldLE h 4 2 = nnz ∧ fieldLE h 6 2 = 0 ∧
      fieldLE h 8 8 = crc := by
  have hcode := zeEszCode_le fmt
  refine ⟨?_, ?_, ?_, ?_, ?_, ?_⟩ <;> simp [zeHead, fieldLE_toLE_skip, fieldLE_toLE_front, fieldLE_toLE] <;> omega

theorem zeRecord_eq (fmt : Nat) (bs : List Byte) : ∃ pad, zeRecord fmt bs =
    zeHead fmt (zeChoose (zeEsz fmt) bs).1 (zeChoose (zeEsz fmt) bs).2.length (zeNnz (zeEsz fmt) bs) (crc64 bs).toNat ++
      ((zeChoose (zeEsz fmt) bs).2 ++ pad) := by
  simp only [zeRecord, pad16, zeHead, toLE, List.cons_append, List.nil_append]
  exact ⟨_, rfl⟩

/-- A record of well-formed bytes 0, 1, 6 and 7 decodes as its payload says, where the decoded tile has the header's NNZ and ORIG_CRC (R246). -/
theorem zeDecode_eq {fmt method nnz crc : Nat} {h p : List Byte} (h0 : fieldLE h 0 1 = method + 4 * zeEszCode fmt) (h1 : fieldLE h 1 1 = 0)
    (h2 : fieldLE h 2 2 = p.length) (h4 : fieldLE h 4 2 = nnz) (h6 : fieldLE h 6 2 = 0) (h8 : fieldLE h 8 8 = crc) (hm : method < 4) :
    zeDecode fmt h p = (zePayload (zeEsz fmt) nnz p method).bind fun es =>
      if (es.filter (· != 0)).length = nnz && (crc64 (zeTile (zeEsz fmt) es)).toNat = crc then some (zeTile (zeEsz fmt) es) else none := by
  have hcode := zeEszCode_le fmt
  have htop : (method + 4 * zeEszCode fmt) / 16 = 0 := by omega
  have hesz : (method + 4 * zeEszCode fmt) / 4 % 4 = zeEszCode fmt := by omega
  have hmeth : (method + 4 * zeEszCode fmt) % 4 = method := by omega
  simp only [zeDecode, h0, h1, h2, h4, h6, h8, htop, hesz, hmeth, ne_eq, not_true, decide_false, Bool.or_self, Bool.false_eq_true, if_false]
  obtain rfl | rfl | rfl | rfl : method = 0 ∨ method = 1 ∨ method = 2 ∨ method = 3 := by omega
  all_goals simp only [zePayload, List.take_length]

theorem zeEsz_of_format {fmt : Nat} (h : fmt ≤ 4 ∨ isInt fmt = true) : zeEsz fmt ∣ 2048 ∧ 8 ∣ 2048 / zeEsz fmt := by
  have hfmt : fmt = 0 ∨ fmt = 1 ∨ fmt = 2 ∨ fmt = 3 ∨ fmt = 4 ∨ fmt = 11 ∨ fmt = 12 := by
    simp only [isInt, Bool.or_eq_true, beq_iff_eq] at h
    omega
  rcases hfmt with rfl | rfl | rfl | rfl | rfl | rfl | rfl <;> decide

/-- Settles O37: each method's payload gives the elements back, and the elements give the tile. -/
theorem compressionRoundTrip : Obligations.CompressionRoundTrip := by
  intro fmt tile hfmt htile
  obtain ⟨hdvd, hbits⟩ := zeEsz_of_format hfmt
  obtain ⟨hm, hp⟩ := zeChoose_bounds (esz := zeEsz fmt) htile
  obtain ⟨pad, hrec⟩ := zeRecord_eq fmt tile
  have hnnz := zeNnz_le (zeEsz fmt) tile
  have hcrc := (crc64 tile).isLt
  obtain ⟨h0, h1, h2, h4, h6, h8⟩ := zeHead_fields (fmt := fmt) hm (Nat.lt_of_le_of_lt hp (by decide)) (Nat.lt_of_le_of_lt hnnz (by decide)) hcrc
  have hlen : fieldLE (zeRecord fmt tile) 2 2 = (zeChoose (zeEsz fmt) tile).2.length := by
    rw [hrec, fieldLE_append_left _ (by simp [zeHead_length]), h2]
  intro r
  rw [hlen]
  simp only [r, hrec, List.take_left' (zeHead_length ..), List.drop_left' (zeHead_length ..), List.take_left]
  rw [zeDecode_eq h0 h1 h2 h4 h6 h8 hm, zePayload_zeChoose hbits htile, Option.bind_some, zeTile_zeElems hdvd htile]
  exact if_pos (by simp [zeNnz])

end Sys2Proof.Machine

/-! ## Specialty engines: the next unit (R221, R226, R227, R236, R237, R243–R247, R250) -/

namespace Sys2Proof.Machine

/-! ### What reading a unit's operands leaves alone -/

section Reads

variable {s v : State} {e : Nat} {d : Desc} {r q : Run} {bs : List Byte}

theorem optNorm_ok {fuel : Nat} (h : optNorm s e d fuel r = (v, .ok bs, q)) : OperandsRead s v := by
  induction fuel generalizing s r with
  | zero =>
    cases h
    exact .refl _
  | succ k ih =>
    rw [optNorm] at h
    dsimp only at h
    split at h
    next =>
      cases h
      exact .refl _
    next =>
      split at h
      next hread => exact (readMany_ok hread).trans (ih h)
      next hfail _ =>
        cases h
        exact (hfail _ rfl).elim

/-- A slot's weight is read only where the lookup is weighted (R236). -/
theorem readIf_ok {p : Bool} {ctx no a n : Nat} (h : (if p = true then readOp s .engine e ctx no a n else (s, .ok [])) = (v, .ok bs)) :
    OperandsRead s v := by
  split at h
  · exact readOp_ok h
  · cases h
    exact .refl _

theorem fetchRows_ok {l : List (Nat × Nat)} {rows : List (SlotKind × Nat × List Byte)} (h : fetchRows s e r l = (v, .ok bs, rows)) :
    OperandsRead s v := by
  induction l generalizing s rows with
  | nil =>
    cases h
    exact .refl _
  | cons x l ih =>
    obtain ⟨slot, idx⟩ := x
    have hrest {t : State} {y : SlotKind × Nat × List Byte}
        (h : ((fetchRows t e r l).1, (fetchRows t e r l).2.1, y :: (fetchRows t e r l).2.2) = (v, .ok bs, rows)) : OperandsRead t v := by
      obtain ⟨hstate, h⟩ := Prod.mk.inj h
      exact ih (Prod.ext hstate (Prod.ext (Prod.mk.inj h).1 rfl))
    rw [fetchRows] at h
    dsimp only at h
    split at h
    next => exact hrest h
    next =>
      split at h
      next hweight =>
        have hw : OperandsRead s _ := readIf_ok hweight
        split at h
        next =>
          split at h
          next hrow => exact hw.trans ((readOp_ok hrow).trans (hrest h))
          next hfail _ =>
            cases h
            exact (hfail _ rfl).elim
        next => exact hw.trans (hrest h)
      next hfail _ =>
        cases h
        exact (hfail _ rfl).elim

theorem readHeader_ok {src k off : Nat} {x : Nat × Nat} (h : readHeader s e d src k off = (v, .ok bs, x)) : OperandsRead s v := by
  unfold readHeader at h
  dsimp only at h
  split at h
  next hread =>
    split at h
    · cases h
    · split at h
      · cases h
      · split at h
        next hentry =>
          split at h <;> cases h
          exact (readOp_ok hread).trans (readOp_ok hentry)
        next hfail _ =>
          cases h
          exact (hfail _ rfl).elim
  next hfail _ =>
    cases h
    exact (hfail _ rfl).elim

theorem readRecord_ok {src off total n : Nat} (h : readRecord s e d src off total = (v, .ok bs, n)) : OperandsRead s v := by
  unfold readRecord at h
  dsimp only at h
  split at h
  next => cases h
  next =>
    split at h
    next hread =>
      split at h
      · cases h
      · split at h
        next hload =>
          split at h <;> cases h
          exact (readOp_ok hread).trans (readOp_ok hload)
        next hfail _ =>
          cases h
          exact (hfail _ rfl).elim
    next hfail _ =>
      cases h
      exact (hfail _ rfl).elim

theorem readTile_ok {src k off : Nat} {x : AtTile} (h : readTile s e d src k off = (v, .ok bs, x)) : OperandsRead s v := by
  unfold readTile at h
  split at h
  next hhead =>
    split at h
    next hrec =>
      split at h <;> cases h
      exact (readHeader_ok hhead).trans (readRecord_ok hrec)
    next hfail _ =>
      cases h
      exact (hfail _ rfl).elim
  next hfail _ =>
    cases h
    exact (hfail _ rfl).elim

theorem readStream_ok {src n k off : Nat} {ts : List (List Byte)} {x : AtTile} (h : readStream s e d src n k off = (v, .ok bs, ts, x)) :
    OperandsRead s v := by
  induction n generalizing s k off ts x with
  | zero =>
    cases h
    exact .refl _
  | succ n ih =>
    rw [readStream] at h
    split at h
    next htile =>
      split at h
      next hrest =>
        cases h
        exact (readTile_ok htile).trans (ih hrest)
    next hfail _ =>
      cases h
      exact (hfail _ rfl).elim

end Reads

/-! ### The next unit of the running descriptor (R221) -/

/-- A specialty engine runs `r`, which waits for no page and whose next unit has not been computed. -/
structure SpcRunning (s : State) (e : Nat) (r : Run) : Prop where
  active : s.pst = 3
  present : e < nEng s
  kind : e % 4 = 3
  unfenced : s.engFenced e = false
  run : (s.engine e).run = some r
  park : r.park = none
  ready : r.ready = false

/-- An engine whose run waits for no page takes nothing else. -/
theorem pickNext_running {s : State} {e : Nat} {r : Run} (hrun : (s.engine e).run = some r) (hpark : r.park = none) : pickNext s e = .none := by
  simp [pickNext, pickNextBy, hrun, hpark]

/-- The unit `q` of the run `r` has been computed, and stands in the run; nothing has been written (R221). -/
def UnitComputed (s u : State) (e : Nat) (r q : Run) : Prop :=
  (u.engine e).run = some q ∧ q.d = r.d ∧ q.pos = r.pos ∧ q.ready = true ∧ MemSame s u ∧ RegsBut s u [] ∧ u.en.ended = s.en.ended

@[simp] theorem setRun_run (s : State) (e : Nat) (r : Run) : ((setRun s e r).engine e).run = some r :=
  congrArg Engine.run (State.engine_setEngine_self s e _)

@[simp] theorem setRun_ended (s : State) (e : Nat) (r : Run) : (setRun s e r).en.ended = s.en.ended := rfl
@[simp] theorem setRun_byte (s : State) (e : Nat) (r : Run) (b : Nat) : (setRun s e r).byte b = s.byte b := rfl
@[simp] theorem setRun_reg (s : State) (e : Nat) (r : Run) (off : Nat) : (setRun s e r).reg off = s.reg off := rfl

theorem unitComputed_setRun {s v : State} {e : Nat} {r q : Run} (h : OperandsRead s v) (hd : q.d = r.d) (hpos : q.pos = r.pos)
    (hready : q.ready = true) : UnitComputed s (setRun v e q) e r q :=
  ⟨setRun_run v e q, hd, hpos, hready, h.mem, fun off _ => h.only.reg off, by rw [setRun_ended, h.only.en]⟩

section Compute

variable {s v : State} {e : Nat} {c : Instr} {r q : Run} {got : List (List Byte)}

theorem SpcRunning.spcRun_eq (h : SpcRunning s e r) {mine : BitVec 256 → Bool} (hmine : mine r.d.w = true) :
    spcRun s e mine = spcCompute s e r := by
  simp [spcRun, h.present, h.kind, h.unfenced, pickNext_running h.run h.park, h.run, h.park, h.ready, hmine]

/-- The command of a specialty operation computes the next unit of the run that it accepts. -/
theorem SpcRunning.exec_unit (h : SpcRunning s e r) {mine : BitVec 256 → Bool}
    (hc : exec c s = .next (inActive s fun s => settle (spcRun s e mine))) (hmine : mine r.d.w = true) (hq : spcCompute s e r = setRun v e q)
    (hread : OperandsRead s v) (hd : q.d = r.d) (hpos : q.pos = r.pos) (hready : q.ready = true) :
    ∃ u, exec c s = .next (settle u) ∧ UnitComputed s u e r q := by
  refine ⟨setRun v e q, ?_, unitComputed_setRun hread hd hpos hready⟩
  rw [hc, inActive, if_pos h.active, h.spcRun_eq hmine, hq]

theorem isOpt_self {k : Nat} {w : BitVec 256} (hk : dKind w = 3) (hop : spcOpc w = k) : isOpt k w = true := by
  simp [isOpt, hk, hop]

theorem compression_accepted {k : Nat} {w : BitVec 256} (hk : dKind w = 5) (hop : zeOpc w = k) : (dKind w == 5 && (zeOpc w == k || zeOpc w == 3)) = true := by
  simp [hk, hop]

/-- Each optimizer command computes its own operation. -/
theorem exec_optimizer {opc : Nat} (h : (c = .sgd e ∧ opc = 1) ∨ (c = .adam e ∧ opc = 2) ∨ (c = .adamw e ∧ opc = 3) ∨
      (c = .lambMoments e ∧ opc = 4) ∨ (c = .lambApply e ∧ opc = 5) ∨ (c = .lion e ∧ opc = 6) ∨ (c = .cast e ∧ opc = 8)) :
    opc ≠ 7 ∧ exec c s = .next (inActive s fun s => settle (spcRun s e (isOpt opc))) := by
  obtain ⟨rfl, rfl⟩ | ⟨rfl, rfl⟩ | ⟨rfl, rfl⟩ | ⟨rfl, rfl⟩ | ⟨rfl, rfl⟩ | ⟨rfl, rfl⟩ | ⟨rfl, rfl⟩ := h <;> exact ⟨by decide, rfl⟩

theorem spcCompute_stripe (hk : dKind r.d.w = 3) (hop : spcOpc r.d.w ≠ 7)
    (hread : readMany s .engine e (dCtx r.d.w) r.d.no (optPieces r.d.w r.pos (min 512 (dCount r.d.w - 512 * r.pos))) = (v, .ok [], got)) :
    spcCompute s e r = setRun v e (optUnit r (min 512 (dCount r.d.w - 512 * r.pos)) got) := by
  simp only [spcCompute, hk, if_neg hop, hread]

theorem spcCompute_norm (hk : dKind r.d.w = 3) (hop : spcOpc r.d.w = 7)
    (hnorm : optNorm s e r.d (cdiv (dCount r.d.w) 512 + 1) { r with pos := 0, acc := r.acc.take 3 } = (v, .ok [], q)) :
    spcCompute s e r = setRun v e { q with pos := r.pos, ready := true } := by
  simp only [spcCompute, hk, if_pos hop, hnorm]

/-- The slots of a lookup's output row. -/
def lkpSlots (r : Run) : List Nat :=
  if lkpPool r.d.w = 0 then [r.pos] else (List.range (lkpBag r.d.w)).map fun k => r.pos * lkpBag r.d.w + k

theorem spcCompute_lookup {v' : State} {ix : List Byte} {rows : List (SlotKind × Nat × List Byte)} (hk : dKind r.d.w = 4)
    (hix : readOp s .engine e (dCtx r.d.w) r.d.no (fieldLE r.bytes 0 8 + 4 * (lkpSlots r).headD 0) (4 * (lkpSlots r).length) = (v', .ok ix))
    (hrows : fetchRows v' e r ((List.range (lkpSlots r).length).map fun k => ((lkpSlots r).getD k 0, fieldLE ix (4 * k) 4)) = (v, .ok [], rows)) :
    spcCompute s e r = setRun v e (lkpRow r rows) := by
  rw [lkpSlots] at hix hrows
  simp only [spcCompute, hk, hix, hrows]

theorem spcCompute_encode (hk : dKind r.d.w = 5) (hop : zeOpc r.d.w = 0)
    (hread : readMany s .engine e (dCtx r.d.w) r.d.no ((List.range (zeNt r.d.w)).map fun k => (tileField r.d.w 2 0 + 2048 * k, 2048))
      = (v, .ok [], got)) :
    spcCompute s e r = setRun v e { r with out := streamOut r.d.w got, ready := true, cnt := [0, 0, 0, zeNt r.d.w] } := by
  simp only [spcCompute, hk, hop, hread]

theorem spcCompute_decode {t : List Byte} {x : AtTile} (hk : dKind r.d.w = 5) (hop : zeOpc r.d.w = 1)
    (hread : readTile s e r.d (tileField r.d.w 2 0) r.pos (if r.pos = 0 then 16 + zeDirLen (zeNt r.d.w) else r.acc.getD 0 0) = (v, .ok t, x)) :
    spcCompute s e r = setRun v e
      { r with out := [(dDst r.d.w + 2048 * r.pos, t)], acc := [x.next, x.total], ready := true, cnt := [0, 0, 0, 1] } := by
  simp only [spcCompute, hk, hop, hread]

theorem spcCompute_unionSum {v' : State} {as bs : List (List Byte)} {x y : AtTile} (hk : dKind r.d.w = 5) (hop : zeOpc r.d.w = 2)
    (ha : readStream s e r.d (tileField r.d.w 2 0) (zeNt r.d.w) 0 (16 + zeDirLen (zeNt r.d.w)) = (v', .ok [], as, x))
    (hb : readStream v' e r.d (tileField r.d.w 3 0) (zeNt r.d.w) 0 (16 + zeDirLen (zeNt r.d.w)) = (v, .ok [], bs, y)) :
    ∃ cnt, spcCompute s e r = setRun v e { r with
      out := streamOut r.d.w ((as.zip bs).map fun p => (unionTile (zeFmt r.d.w) p.1 p.2).1), acc := [0, x.total, y.total], ready := true,
      cnt := cnt } := by
  simp only [spcCompute, hk, hop, ha, hb, List.map_map]
  exact ⟨_, rfl⟩

theorem spcCompute_quantize (hk : dKind r.d.w = 6) (hef : qeEf r.d.w = false) (hmx : isMx (dOutFmt r.d.w) = false)
    (hread : readMany s .engine e (dCtx r.d.w) r.d.no [(tileField r.d.w 2 0 + 4 * elemBits (dInFmt r.d.w) * r.pos,
      dataBytes (elemBits (dInFmt r.d.w)) (min 32 (dCount r.d.w - 32 * r.pos)))] = (v, .ok [], got)) :
    let q := quantBlock (dOutFmt r.d.w) (if dRnd r.d.w then some (fieldLE r.bytes 8 8) else none) (dFtz r.d.w) (fv32 r.bytes 0) (32 * r.pos)
      ((List.range (min 32 (dCount r.d.w - 32 * r.pos))).map fun i => decodeElem (dInFmt r.d.w) (dFtz r.d.w) (got.headD []) 0 i)
    ∃ acc cnt, spcCompute s e r = setRun v e { r with
      out := [(dDst r.d.w + 4 * elemBits (dOutFmt r.d.w) * r.pos, packElems (elemBits (dOutFmt r.d.w)) q.b.elems)], ready := true, acc := acc,
      cnt := cnt } := by
  simp only [spcCompute, hk, hef, hmx, hread, Bool.false_eq_true, if_false]
  exact ⟨_, _, rfl⟩

end Compute

/-- Settles O32: each operation's unit, which reads its operands and writes nothing. -/
theorem specialtyUnits : Obligations.SpecialtyUnits := by
  intro s v e c r got w ctx no m base unit ha he hkind hfen hrun hpark hready
  have h : SpcRunning s e r := ⟨ha, he, hkind, hfen, hrun, hpark, hready⟩
  refine ⟨?_, ?_, ?_, ?_, ?_, ?_, ?_⟩
  · intro opc hc hk hop hread
    obtain ⟨h7, hexec⟩ := exec_optimizer (s := s) hc
    exact h.exec_unit hexec (isOpt_self hk hop) (spcCompute_stripe hk (hop.trans_ne h7) hread) (readMany_ok hread) rfl rfl rfl
  · rintro q rfl hk hop hnorm hd
    exact h.exec_unit rfl (isOpt_self hk hop) (spcCompute_norm hk hop hnorm) (optNorm_ok hnorm) hd rfl rfl
  · rintro v' ix rows slots rfl hk hix hrows
    exact h.exec_unit rfl (beq_iff_eq.mpr hk) (spcCompute_lookup hk hix hrows) ((readOp_ok hix).trans (fetchRows_ok hrows)) rfl rfl rfl
  · rintro rfl hk hop hread
    exact ⟨_, h.exec_unit rfl (compression_accepted hk hop) (spcCompute_encode hk hop hread) (readMany_ok hread) rfl rfl rfl⟩
  · rintro t x rfl hk hop hread
    exact ⟨_, h.exec_unit rfl (compression_accepted hk hop) (spcCompute_decode hk hop hread) (readTile_ok hread) rfl rfl rfl⟩
  · rintro v' as bs x y rfl hk hop hx hy
    obtain ⟨cnt, hq⟩ := spcCompute_unionSum hk hop hx hy
    exact ⟨cnt, h.exec_unit rfl (compression_accepted hk hop) hq ((readStream_ok hx).trans (readStream_ok hy)) rfl rfl rfl⟩
  · rintro rfl hk hef hmx k q hread
    obtain ⟨acc, cnt, hq⟩ := spcCompute_quantize hk hef hmx hread
    exact ⟨acc, cnt, h.exec_unit rfl (beq_iff_eq.mpr hk) hq (readMany_ok hread) rfl rfl rfl⟩

end Sys2Proof.Machine

/-! ## Specialty engines: the release of a unit (R219, R221, R254) -/

namespace Sys2Proof.Machine

/-- A record's bytes that a run writes as it ends lie within it; those of a transfer are not said. -/
theorem runTail_inside {r : Run} (hk : dKind r.d.w ≠ 1) : ∀ x ∈ runTail r, x.1 < 128 ∧ x.1 + x.2.length ≤ 128 := by
  unfold runTail
  split
  · contradiction
  · simp
  · simp

/-- A descriptor that ends writes in its record alone, and then has ended (R219, R266). -/
theorem finishDesc_eq (s : State) (d : Desc) (units : Nat) {tail : List (Nat × List Byte)} (code : Nat)
    (htail : ∀ x ∈ tail, x.1 < 128 ∧ x.1 + x.2.length ≤ 128) :
    ∃ v, finishDesc s d units tail code = v.endDesc d code ∧ RecordOnly s v (recAddr d.w (recWord (dKind d.w))) := by
  unfold finishDesc
  dsimp only
  refine ⟨_, rfl, .trans ?_ (recordOnly_noteCode _ _ _ _ _)⟩
  have hwritten := recordOnly_foldl_writeRec s d d.w (recWord (dKind d.w)) tail htail
  split
  · exact hwritten.trans (recordOnly_writeRec _ d d.w _ (by decide) (by simp))
  · exact hwritten

/-- A run that ends leaves its engine, and its descriptor has ended with the code. -/
theorem endRun_ends (s : State) (e : Nat) {r : Run} (code : Nat) (hk : dKind r.d.w ≠ 1) :
    ((endRun s e r code).engine e).run = none ∧ (endRun s e r code).en.ended = s.en.ended ++ [⟨r.d, code⟩] := by
  obtain ⟨m, f, hbusy⟩ := countBusy_eq (s.setEngine e { s.engine e with run := none }) r.d.eng r.cost code
  obtain ⟨v, hv, hrec⟩ := finishDesc_eq (countBusy (s.setEngine e { s.engine e with run := none }) r.d.eng r.cost code) r.d r.pos code
    (runTail_inside hk)
  have hen : v.en = (s.setEngine e { s.engine e with run := none }).en := by rw [hrec.rest.en, hbusy]
  have hrun : (v.engine e).run = none := by
    rw [State.engine, hen]
    exact congrArg Engine.run (State.engine_setEngine_self s e _)
  rw [endRun, finishRun, hv]
  exact ⟨hrun, congrArg (·.ended ++ _) hen⟩

section Release

variable {s w : State} {e : Nat} {r : Run}

theorem exec_spcUnitRelease (ha : s.pst = 3) (he : e < nEng s) (hk : e % 4 = 3) (hrun : (s.engine e).run = some r) (hpark : r.park = none)
    (hready : r.ready = true) : exec (.spcUnitRelease e) s = .next (settle (spcRelease s e r)) := by
  have hserves : ¬ ((decide (nEng s ≤ e) || decide (e % 4 ≠ 3)) = true) := by simp [he, hk]
  show Host.Outcome.next (inActive s _) = _
  simp only [inActive, if_pos ha, if_neg hserves, hrun, hpark, hready, Option.isNone_none, Bool.and_self, if_true]

/-- The counts of a released unit (R254). -/
def spcCounted (s : State) (e : Nat) (r : Run) : State :=
  (((s.count (F.SPC_SATURATED (e / 4)) (r.cnt.getD 0 0)).count (F.SPC_NAN_OUT (e / 4)) (r.cnt.getD 1 0)).count (F.SPC_KIND_A (e / 4))
    (r.cnt.getD 2 0)).count (F.SPC_KIND_B (e / 4)) (r.cnt.getD 3 0)

@[simp] theorem spcCounted_en (s : State) (e : Nat) (r : Run) : (spcCounted s e r).en = s.en := rfl
@[simp] theorem spcCounted_byte (s : State) (e : Nat) (r : Run) (b : Nat) : (spcCounted s e r).byte b = s.byte b := rfl

/-- The run after the release of its unit: at the next, which is not computed yet. -/
def spcNext (r : Run) : Run :=
  { r with pos := r.pos + 1, out := [], cnt := [], ready := false, acc := if dKind r.d.w = 6 then [r.acc.getD 1 0] else r.acc }

theorem addNorm_keepsNone (h : spcOpc r.d.w ≠ 4 ∧ spcOpc r.d.w ≠ 7) : addNorm s e r = (s, .ok []) := by
  simp [addNorm, h.1, h.2]

/-- A unit whose stored tiles pass their checks is written and counted; then the run goes on, or ends where no norm is kept. -/
theorem spcRelease_passed (hok : storedOk s e (dCtx r.d.w) r.d.no r.out = (w, .ok []))
    (hnorm : dKind r.d.w = 3 → spcOpc r.d.w ≠ 4 ∧ spcOpc r.d.w ≠ 7) :
    let t := spcCounted (writeFree w e (dCtx r.d.w) r.d.no (spcOverlaps r) r.out) e r
    spcRelease s e r = if r.pos + 1 < spcUnits r.d.w then setRun t e (spcNext r) else endRun t e (spcNext r) 0 := by
  intro t
  have hadd (t : State) : (if dKind r.d.w = 3 then addNorm t e r else (t, .ok [])) = (t, .ok []) := by
    split
    · exact addNorm_keepsNone (hnorm ‹_›)
    · rfl
  simp only [spcRelease, hok, hadd]
  rfl

end Release

/-- Settles O33: the unit's piece is written after its checks, and then the run goes on or ends. -/
theorem specialtyRelease : Obligations.SpecialtyRelease := by
  intro s e a pa r bs d ha he hkind hrun hpark hready hout hlo hhi hnorm hmaps hplace hpos hfit hfen hbad hover
  have o : OneTile s .engine rWrite (dCtx r.d.w) r.d.no a bs.length pa := ⟨hpos, hfit, hmaps, hplace, hfen, hbad⟩
  obtain ⟨w, hok, hlines⟩ := storedOk_oneTile (e := e) o
  obtain ⟨⟨hbytes, hother⟩, honly⟩ := writeOp_stored (req := e) (hlines.oneTile o)
  have hended : (writeOp w .engine e (dCtx r.d.w) r.d.no a bs).1.en.ended = s.en.ended := by rw [(hlines.operandOnly.trans honly).en]
  have hrel := spcRelease_passed (hout ▸ hok) hnorm
  rw [hout, hover, writeFree_single] at hrel
  generalize (writeOp w .engine e (dCtx r.d.w) r.d.no a bs).1 = t at hbytes hother hended hrel
  refine ⟨_, exec_spcUnitRelease ha he hkind hrun hpark hready, fun hmore => ?_, fun hlast => ?_⟩
  · rw [hrel, if_pos hmore]
    exact ⟨⟨spcNext r, setRun_run _ e _, rfl, rfl, rfl⟩, hended, hbytes, fun b hb => (hother b hb).trans (hlines.byte b)⟩
  · have hk : dKind (spcNext r).d.w ≠ 1 := Nat.ne_of_gt (Nat.lt_of_lt_of_le (by decide) hlo)
    obtain ⟨hnone, hends⟩ := endRun_ends (spcCounted t e r) e 0 hk
    rw [hrel, if_neg (Nat.not_lt.mpr hlast)]
    exact ⟨hnone, hends.trans (congrArg (· ++ _) hended)⟩

end Sys2Proof.Machine

/-! ## Transfer engines: starts (R107, R258, R264, R266, R267) -/

namespace Sys2Proof.Machine

section TransferStarts

variable {s : State} {e : Nat} {d : Desc}

/-! ### What the command does -/

theorem exec_teDescriptorStart (ha : s.pst = 3) (he : e < nEng s) (hk : e % 4 = 1) (hf : s.engFenced e = false) (hx : pickNext s e = .start d) :
    exec (.teDescriptorStart e) s = .next (settle (teStart (chargeStart s e d) e d)) := by
  have hserves : ¬ ((decide (nEng s ≤ e) || decide (e % 4 ≠ 1) || s.engFenced e) = true) := by simp [he, hk, hf]
  show Host.Outcome.next (inActive s _) = _
  rw [inActive, if_pos ha, if_neg hserves, hx]

/-- The counts of a descriptor that its engine takes, and of one that resumes (R275). -/
def teCounted (s : State) (e : Nat) (d : Desc) : State :=
  let t := s.count (F.TE_DESCRIPTORS (e / 4))
  if teResume d.w then t.count (F.TE_RESUMED (e / 4)) else t

/-- The engine as it is once the descriptor has been charged and counted. -/
def teTaken (s : State) (e : Nat) (d : Desc) : State := teCounted (chargeStart s e d) e d

/-- Taking a descriptor changes counts and engines: it leaves the queue, and the run stays. -/
theorem teTaken_eq (s : State) (e : Nat) (d : Desc) : ∃ m en, teTaken s e d = { s with cnt := m, en := en } ∧ en.ended = s.en.ended ∧
    ((teTaken s e d).engine e).queue = (s.engine e).queue.erase d ∧ ((teTaken s e d).engine e).run = (s.engine e).run := by
  obtain ⟨used, g, hc, hq, hr⟩ := chargeStart_eq s e d
  have hcounted (t : State) : ∃ m, teCounted t e d = { t with cnt := m } := by
    unfold teCounted
    split <;> exact ⟨_, rfl⟩
  obtain ⟨m, hm⟩ := hcounted (chargeStart s e d)
  have heng : (teTaken s e d).engine e = g := by
    rw [teTaken, hm, hc]
    exact State.engine_setEngine_self _ e g
  refine ⟨m, (chargeStart s e d).en, ?_, ?_, by rw [heng, hq], by rw [heng, hr]⟩
  · rw [teTaken, hm, hc]
    rfl
  · rw [hc]
    rfl

/-! ### A refused descriptor (R258, R266, R274) -/

theorem teStart_badFields (h : teFieldsOk d.w = false) : teStart s e d = refuseTaken (teCounted s e d) d 0x20 := by
  simp [teStart, teCounted, h]

/-- Bytes written into a record go to their place there and nowhere else. -/
theorem writeRec_frame (s : State) (d : Desc) (w : BitVec 256) (k : Nat) {o : Nat} (bs : List Byte) (ho : o < 128) :
    AccessOnly s (writeRec s d (recAddr w k + o) bs) ∧ MemBut s (writeRec s d (recAddr w k + o) bs) (recAddr w k + o) bs.length := by
  unfold writeRec
  split
  next pa hpa =>
    rw [opTranslate_staging (bit47_recAddr w k ho) hpa]
    exact memWrite_frame s d.eng (recAddr w k + o) bs
  next => exact ⟨.refl s, fun _ _ => rfl⟩

/-- A transfer that is refused writes CURSOR and DONE at most, shows its code, and has ended. -/
theorem refuseTaken_transfer (s : State) (hd : dKind d.w = 1) : ∃ v, refuseTaken s d 0x20 =
      ((v.set (F.TE_STATUS_LAST_CODE (d.eng / 4)) 0x20).bump (F.TE_STATUS_SEQ (d.eng / 4))).endDesc d 0x20 ∧
    AccessOnly s v ∧ MemBut s v (recAddr d.w 1 + 0x68) 24 := by
  obtain ⟨m, f, hbusy⟩ := countBusy_eq s d.eng (descCost s d.w d.no).1 0x20
  have hfree : AccessOnly s { s with cnt := m, free := f } := rfl
  have htail : AccessOnly s ((startTail d).foldl (fun s t => writeRec s d (recAddr d.w 1 + t.1) t.2) { s with cnt := m, free := f }) ∧
      MemBut s ((startTail d).foldl (fun s t => writeRec s d (recAddr d.w 1 + t.1) t.2) { s with cnt := m, free := f }) (recAddr d.w 1 + 0x68) 24 := by
    rw [startTail, if_pos hd]
    split
    · exact ⟨rfl, fun _ _ => rfl⟩
    · obtain ⟨hacc, hmem⟩ := writeRec_frame { s with cnt := m, free := f } d d.w 1 (List.replicate 24 0#8) (by decide : 0x68 < 128)
      exact ⟨hfree.trans hacc, hmem⟩
  refine ⟨_, ?_, htail⟩
  simp only [refuseTaken, finishNone, finishDesc, hbusy, noteCode, hd]
  rfl

/-- Fields that are not valid: the descriptor ends with SEG_FAULT, which TE_STATUS shows; of memory, CURSOR and DONE alone may change. -/
theorem teStart_refused (hf : teFieldsOk d.w = false) (heng : d.eng = e) (hd : dKind d.w = 1) :
    let u := teStart (chargeStart s e d) e d
    u.en.ended = s.en.ended ++ [⟨d, 0x20⟩] ∧ (u.engine e).run = (s.engine e).run ∧ u.get (F.TE_STATUS_LAST_CODE (e / 4)) = 0x20 ∧
      MemBut s u (recAddr d.w 1 + 0x68) 24 := by
  intro u
  obtain ⟨m, en, htaken, hended, -, hrun⟩ := teTaken_eq s e d
  obtain ⟨v, hv, hacc, hmem⟩ := refuseTaken_transfer (teTaken s e d) hd
  have hu : u = _ := (teStart_badFields hf).trans hv
  have hen : v.en = (teTaken s e d).en := hacc.en
  have hcode : ((v.set (F.TE_STATUS_LAST_CODE (e / 4)) 0x20).bump (F.TE_STATUS_SEQ (e / 4))).get (F.TE_STATUS_LAST_CODE (e / 4)) = 0x20 := by
    have hfit : (F.TE_STATUS_LAST_CODE (e / 4)).lo + (F.TE_STATUS_LAST_CODE (e / 4)).wid ≤ 32 := by show 16 + 8 ≤ 32; decide
    rw [State.get_bump_apart _ hfit (.inl (by show 8 + 8 ≤ 16; decide)), State.get_set_self _ _ hfit]
    rfl
  rw [hu, heng]
  refine ⟨?_, ?_, hcode, fun b hb => (hmem b hb).trans ?_⟩
  · show v.en.ended ++ _ = _
    rw [hen, htaken, ← hended]
  · show (smGet v.en.eng e {}).run = _
    rw [hen]
    exact hrun
  · rw [htaken]
    rfl

/-! ### The record and the walk (R258, R267, R270) -/

/-- A staging address stands for itself whoever asks, at whatever operation (R161). -/
theorem opTranslate_staging_any {who who' : Who} {rights rights' ctx no no' a n pa : Nat} (ha : bit a 47 = true)
    (h : opTranslate s who rights ctx no a n = .mem pa) : opTranslate s who' rights' ctx no' a n = .mem a := by
  obtain rfl := opTranslate_staging ha h
  rw [← h, opTranslate, opTranslate, ha]
  rfl

/-- A read of staging within one tile that is whole gives the bytes, and takes checksum lines alone. -/
theorem readOp_staging {who : Who} {req ctx no a n : Nat} (ha : bit a 47 = true) (o : OneTile s who rRead ctx no a n a) :
    ∃ v, readOp s who req ctx no a n = (v, .ok (s.bytes a n)) ∧ LinesTaken s v := by
  have hwhole : ∀ k ∈ tilesOf a n, s.tileFenced k = false ∧ s.tileBad k = 0 := by
    rw [tilesOf_single o.some_ o.tile]
    simpa using ⟨o.unfenced, o.good⟩
  obtain ⟨v, hv, hlines⟩ := memRead_whole (req := req) hwhole
  have htouch : touchPage v ctx no a n false = v := if_pos ha
  refine ⟨v, ?_, hlines⟩
  simp only [readOp, o.firstFault, cutRange_single o.some_ o.tile, readPieces, o.maps, hv, htouch, List.append_nil]

/-- Counts, engines and memory's lines are no part of the check of a walk. -/
theorem teWalkOk_cnt_en_mem (s : State) (m : SMap Nat) (en : Eng) (mem : Mem) (f : Nat) (d : Desc) (r : List Byte) :
    teWalkOk { s with cnt := m, en := en, mem := mem, free := f } d r = teWalkOk s d r := by
  have hcovered (ctx no rights : Nat) (x : Int × Int) :
      teCovered { s with cnt := m, en := en, mem := mem, free := f } ctx no rights x = teCovered s ctx no rights x := rfl
  simp only [teWalkOk, hcovered]

/-- The run of a transfer whose walk is covered: from its origin, or from its cursor. -/
def teRunOf (d : Desc) (r : List Byte) (cost : Nat) : Run :=
  { d := d, bytes := r, pos := if teResume d.w then (parseWalk r).done else 0, acc := [teOrigin d.w (parseWalk r)], cost := cost }

theorem teStart_runs {v : State} {r : List Byte} (hf : teFieldsOk d.w = true)
    (hstg : inStaging (teCounted s e d) rRead (dCtx d.w) (recAddr d.w 1) 128 = true)
    (hread : readOp (teCounted s e d) .engine e (dCtx d.w) d.no (recAddr d.w 1) 128 = (v, .ok r)) (hwalk : teWalkOk v d r = true) :
    teStart s e d = v.setEngine e { v.engine e with run := some (teRunOf d r (descCost v d.w d.no).1) } := by
  rw [teCounted] at hstg hread
  simp only [teStart, hf, hstg, hread, hwalk, Bool.not_true, Bool.or_self, Bool.false_eq_true, if_false]
  rfl

/-- The record of a descriptor with valid fields lies within one tile (R270). -/
theorem recAddr_fits (hf : teFieldsOk d.w = true) : recAddr d.w 1 % 2048 + 128 ≤ 2048 := by
  have heven : dfield d.w 1 41 18 % 2 = 0 := by
    simp only [teFieldsOk, Bool.and_eq_true, beq_iff_eq] at hf
    exact hf.2
  rw [recAddr, stgAddr]
  omega

/-- A descriptor whose record can be read and whose walk is covered runs; nothing is written. -/
theorem teStart_covered (hf : teFieldsOk d.w = true) (hstg : inStaging s rRead (dCtx d.w) (recAddr d.w 1) 128 = true)
    (hwhole : ∀ k ∈ tilesOf (recAddr d.w 1) 128, s.tileFenced k = false ∧ s.tileBad k = 0)
    (hwalk : teWalkOk s d (s.bytes (recAddr d.w 1) 128) = true) :
    let u := teStart (chargeStart s e d) e d
    ∃ cost, u.en.ended = s.en.ended ∧ (u.engine e).run = some (teRunOf d (s.bytes (recAddr d.w 1) 128) cost) ∧
      (u.engine e).queue = (s.engine e).queue.erase d ∧ MemSame s u ∧ RegsBut s u [] := by
  intro u
  obtain ⟨m, en, htaken, hended, hqueue, -⟩ := teTaken_eq s e d
  have hfits := recAddr_fits hf
  have ha : bit (recAddr d.w 1) 47 = true := bit47_recAddr d.w 1 (o := 0) (by decide)
  rw [tilesOf_single (by decide) hfits] at hwhole
  obtain ⟨hfen, hbad⟩ := hwhole _ (List.mem_singleton_self _)
  have hmaps : opTranslate s .engine rRead (dCtx d.w) d.no (recAddr d.w 1) 128 = .mem (recAddr d.w 1) := by
    rw [inStaging, ha, Bool.true_and] at hstg
    split at hstg
    next pa hpa => exact opTranslate_staging_any ha hpa
    next => cases hstg
  have o : OneTile (teTaken s e d) .engine rRead (dCtx d.w) d.no (recAddr d.w 1) 128 (recAddr d.w 1) := by
    rw [htaken]
    exact ⟨by decide, hfits, hmaps, rfl, hfen, hbad⟩
  obtain ⟨v, hread, hlines⟩ := readOp_staging (req := e) ha o
  have hbytes : (teTaken s e d).bytes (recAddr d.w 1) 128 = s.bytes (recAddr d.w 1) 128 := by rw [htaken]; rfl
  rw [hbytes] at hread
  have hwalk : teWalkOk v d (s.bytes (recAddr d.w 1) 128) = true := by
    rw [hlines.rest, htaken]
    exact (teWalkOk_cnt_en_mem s _ _ _ _ d _).trans hwalk
  have hu : u = _ := teStart_runs hf (by rw [← teTaken, htaken]; exact hstg) hread hwalk
  have heng : v.engine e = (teTaken s e d).engine e := hlines.operandOnly.engine e
  refine ⟨(descCost v d.w d.no).1, ?_, ?_, ?_, fun b => ?_, fun off _ => ?_⟩ <;> rw [hu]
  · rw [State.setEngine_ended, hlines.operandOnly.en, htaken]
    exact hended
  · rw [State.engine_setEngine_self]
  · rw [State.engine_setEngine_self, heng]
    exact hqueue
  · show v.byte b = _
    rw [hlines.byte, htaken]
    rfl
  · rw [State.setEngine_reg, hlines.operandOnly.reg, htaken]
    rfl

end TransferStarts

/-- Settles O34: what a refusal writes lies in the record, and a covered walk runs from its origin or its cursor. -/
theorem transferStart : Obligations.TransferStart := by
  intro s e d ha he hk hfen hpick a rd
  have hexec := exec_teDescriptorStart ha he hk hfen hpick
  refine ⟨fun hf heng hd => ⟨_, hexec, teStart_refused hf heng hd⟩, fun hf hstg hwhole hwalk => ?_⟩
  obtain ⟨cost, hended, hrun, hqueue, hmem, hregs⟩ := teStart_covered (e := e) hf hstg hwhole hwalk
  exact ⟨_, _, hexec, hended, hrun, rfl, rfl, rfl, rfl, hqueue, hmem, hregs⟩

end Sys2Proof.Machine

/-! ## Transfer engines: the release of a progress unit (R259–R261, R264, R266) -/

namespace Sys2Proof.Machine

/-! ### Sorted tables of bytes, and memory -/

section Bytes

variable {β : Type} {s : State}

theorem smSorted_some_lt {m : SMap β} {lo : Nat} (h : smSorted (some lo) m = true) : ∀ e ∈ m, lo < e.1 := by
  induction m generalizing lo with
  | nil => simp
  | cons e m ih =>
    simp only [smSorted, Bool.and_eq_true, decide_eq_true_eq] at h
    exact List.forall_mem_cons.2 ⟨h.1, fun f hf => h.1.trans (ih h.2 f hf)⟩

/-- No more keys than there are numbers between the bounds. -/
theorem smSorted_length_le {m : SMap β} {lo hi : Nat} (h : smSorted (some lo) m = true) (hhi : ∀ e ∈ m, e.1 ≤ hi) : m.length ≤ hi - lo := by
  induction m generalizing lo with
  | nil => exact Nat.zero_le _
  | cons e m ih =>
    simp only [smSorted, Bool.and_eq_true, decide_eq_true_eq] at h
    obtain ⟨he, hm⟩ := List.forall_mem_cons.1 hhi
    have hlen := ih h.2 hm
    rw [List.length_cons]
    omega

/-- As many sorted entries as there are places from `lo` on: written one by one they are the bytes from `lo` on. -/
theorem setBytes_of_filled {m : SMap Byte} {lo : Nat} (h : smSorted none m = true) (hin : ∀ e ∈ m, lo ≤ e.1 ∧ e.1 < lo + m.length) :
    s.setBytes lo (m.map (·.2)) = m.foldl (fun s e => s.setByte e.1 e.2) s := by
  induction m generalizing s lo with
  | nil => rfl
  | cons e m ih =>
    obtain ⟨a, v⟩ := e
    simp only [smSorted, Bool.true_and] at h
    simp only [List.forall_mem_cons, List.length_cons] at hin
    obtain ⟨⟨hlo, hhi⟩, hm⟩ := hin
    have hlen : m.length ≤ lo + m.length - a := smSorted_length_le h fun e he => by have := (hm e he).2; omega
    obtain rfl : a = lo := by omega
    exact ih (smSorted_none h) fun e he => ⟨smSorted_some_lt h e he, by have := (hm e he).2; omega⟩

/-- Entries written one by one: each byte of the table is there, and no other changes. -/
theorem byte_foldl_setByte {m : SMap Byte} (h : smSorted none m = true) (b : Nat) :
    (m.foldl (fun s e => s.setByte e.1 e.2) s).byte b = (smFind m b).getD (s.byte b) := by
  induction m generalizing s with
  | nil => rfl
  | cons e m ih =>
    obtain ⟨a, v⟩ := e
    simp only [smSorted, Bool.true_and] at h
    rw [List.foldl_cons, ih (smSorted_none h), smFind]
    split
    next hb =>
      rw [hb, smFind_of_lt h (Nat.le_refl a)]
      exact byte_setByte_self a v
    next hb => rw [byte_setByte_ne v hb]

theorem accessOnly_foldl_setByte (s : State) (m : SMap Byte) : AccessOnly s (m.foldl (fun s e => s.setByte e.1 e.2) s) :=
  foldl_keeps (P := AccessOnly s) (fun t e ht => ht.trans (accessOnly_setBytes t e.1 [e.2])) m (.refl s)

end Bytes

/-! ### Writing gathered bytes (R176, R284) -/

section Scatter

variable {s t u : State} {m n : SMap Byte} {req : Nat}

/-- The bytes of `m` have been written, and no other. -/
structure Scattered (s u : State) (m : SMap Byte) : Prop where
  rest : AccessOnly s u
  byte : ∀ b, u.byte b = (smFind m b).getD (s.byte b)

/-- Once a table's lines have been taken and its accesses counted, its bytes are written. -/
theorem scattered_foldl (hm : smSorted none m = true) (hrest : AccessOnly s t) (hmem : MemSame s t) :
    Scattered s (m.foldl (fun s e => s.setByte e.1 e.2) t) m :=
  ⟨hrest.trans (accessOnly_foldl_setByte t m), fun b => (byte_foldl_setByte hm b).trans (congrArg _ (hmem b))⟩

theorem firstTile_cons (a : Nat) (v : Byte) (m : SMap Byte) :
    firstTile ((a, v) :: m) = ((a, v) :: m.filter fun e => tileOf e.1 == tileOf a, m.filter fun e => tileOf e.1 != tileOf a) := by
  simp [firstTile]

/-- A byte of a table is in its first tile or in the rest. -/
theorem smFind_firstTile (m : SMap Byte) (b : Nat) : smFind m b = (smFind (firstTile m).2 b).or (smFind (firstTile m).1 b) := by
  cases m with
  | nil => rfl
  | cons e m =>
    rw [firstTile, smFind_filter_key (fun k => tileOf k == tileOf e.1), smFind_filter_key (fun k => tileOf k != tileOf e.1)]
    by_cases hb : tileOf b = tileOf e.1 <;> simp [hb]

/-- The first tile's bytes and then the rest's are all of the table's. -/
theorem Scattered.of_tiles (h : Scattered s t (firstTile m).1) (k : Scattered t u (firstTile m).2) : Scattered s u m where
  rest := h.rest.trans k.rest
  byte b := by
    rw [k.byte, h.byte, smFind_firstTile m b]
    cases smFind (firstTile m).2 b <;> rfl

theorem tileOf_shiftLeft (tile : Nat) : tileOf (tile <<< 11) = tile := by
  simp [tileOf, Nat.shiftLeft_shiftRight]

/-- A tile that is whole in the table is written by one access without a read. -/
theorem tileWrite_scattered {tile : Nat} (hm : smSorted none m = true) (hlen : m.length = 2048) (hin : ∀ e ∈ m, tileOf e.1 = tile)
    (h : tileWrite s req (tile <<< 11) (m.map (·.2)) = (u, 0)) : Scattered s u m := by
  have hfilled : ∀ e ∈ m, tile <<< 11 ≤ e.1 ∧ e.1 < tile <<< 11 + m.length := by
    intro e he
    have htile := hin e he
    rw [tileOf, Nat.shiftRight_eq_div_pow] at htile
    rw [Nat.shiftLeft_eq, hlen]
    omega
  have hwhole : (decide ((m.map (·.2)).length = 2048) && decide ((tile <<< 11) % 2048 = 0)) = true := by
    simp [hlen, Nat.shiftLeft_eq]
  have hline := linesTaken_sumLine s tile
  obtain ⟨hrest, hbyte⟩ := scattered_foldl hm (accessOnly_sumLine s tile) hline.byte
  simp only [tileWrite, tileOf_shiftLeft, setBytes_of_filled hm hfilled, if_pos hwhole] at h
  split at h
  · cases h
  · cases h
    exact ⟨hrest.trans rfl, hbyte⟩

theorem LinesTaken.accessOnly (h : LinesTaken s t) : AccessOnly s t := by
  unfold AccessOnly
  rw [h.rest]

/-- A partial write checks its tile and is counted, and then its bytes are there. -/
theorem partWrite_scattered {tile : Nat} (hm : smSorted none m = true) (h : s.tileCheck req tile = (t, 0)) (f : RF) :
    Scattered s (m.foldl (fun s e => s.setByte e.1 e.2) (t.count f)) m :=
  scattered_foldl hm ((tileCheck_passed h).accessOnly.count f 1) (tileCheck_passed h).byte

theorem count_rmwCount (s : State) (a : Nat) :
    (if isStg a = true then s.count (F.STG_RMW (stgBank a)) else s.count (F.HBM_RMW (stackOf s.variant a))) = s.count (rmwCount s a) := by
  rw [rmwCount]
  split <;> rfl

/-- With a step for each entry, every byte of the table is written (R176, R284). -/
theorem writeSparse_scattered {fuel : Nat} (hm : smSorted none m = true) (hfuel : m.length < fuel) (h : writeSparse s req fuel m = (u, 0)) :
    Scattered s u m := by
  induction fuel generalizing s m with
  | zero => omega
  | succ k ih =>
    cases m with
    | nil =>
      cases h
      exact ⟨.refl _, fun _ => rfl⟩
    | cons e m =>
      obtain ⟨a, v⟩ := e
      have hfirst : smSorted none (firstTile ((a, v) :: m)).1 = true := smSorted_filter _ hm
      have hrest : smSorted none (firstTile ((a, v) :: m)).2 = true := smSorted_filter _ hm
      have hin : ∀ e ∈ (firstTile ((a, v) :: m)).1, tileOf e.1 = tileOf a := fun e he => by simpa using (List.mem_filter.1 he).2
      have hless : (firstTile ((a, v) :: m)).2.length < k := by
        rw [firstTile_cons]
        exact Nat.lt_of_le_of_lt (List.length_filter_le _ m) (Nat.lt_of_succ_lt_succ hfuel)
      have hgoes {t : State} (ht : Scattered s t (firstTile ((a, v) :: m)).1) (hu : writeSparse t req k (firstTile ((a, v) :: m)).2 = (u, 0)) :
          Scattered s u ((a, v) :: m) := ht.of_tiles (ih hrest hless hu)
      rw [firstTile_cons] at hfirst hin hgoes
      rw [writeSparse, firstTile_cons] at h
      dsimp only at h
      split at h
      next hwhole =>
        split at h
        next ht => exact hgoes (tileWrite_scattered hfirst (congrArg Nat.succ hwhole) hin ht) h
        next hfail => exact (hfail _ h).elim
      next =>
        split at h
        · cases h
        · split at h
          next t ht =>
            rw [count_rmwCount] at h
            exact hgoes (partWrite_scattered hfirst ht _) h
          next hfail => exact (hfail _ h).elim

end Scatter

/-! ### Gathering a unit's bytes (R259, R315) -/

section Gathering

variable {s t v : State} {e ctx no z : Nat} {free : List (Nat × Nat)} {g g' : Gather}

theorem operandsRead_freeBytes (s : State) (rs : List (Nat × Nat)) (a : Nat) (bs : List Byte) : OperandsRead s (freeBytes s rs a bs).1 := by
  induction bs generalizing s a with
  | nil => exact .refl s
  | cons b bs ih =>
    unfold freeBytes
    dsimp only
    split
    · exact ih s (a + 1)
    · have hfresh : OperandsRead s s.fresh.2 := ⟨rfl, fun _ => rfl⟩
      exact hfresh.trans (ih s.fresh.2 (a + 1))

theorem smSorted_putBytes {m : SMap Byte} (a : Nat) (bs : List Byte) (h : smSorted none m = true) : smSorted none (putBytes m a bs) = true := by
  induction bs generalizing m a with
  | nil => exact h
  | cons b bs ih => exact ih (a + 1) (smSorted_smSet a b h)

/-- A gathering that succeeds writes nothing, and keeps its bytes in the order of their addresses. -/
theorem teGather_ok {es : List (Nat × Nat)} (h : teGather s e ctx no z free es g = (v, 0, g')) (hg : smSorted none g.mem = true) :
    OperandsRead s v ∧ smSorted none g'.mem = true := by
  induction es generalizing s g with
  | nil =>
    cases h
    exact ⟨.refl _, hg⟩
  | cons x es ih =>
    obtain ⟨a, b⟩ := x
    rw [teGather] at h
    dsimp only at h
    split at h
    next t bs g₁ hgot =>
      have hsource : OperandsRead s t ∧ g₁.mem = g.mem := by
        split at hgot
        next pa _ =>
          rcases hread : memRead s e pa z with ⟨w, c, got⟩
          rw [hread] at hgot
          cases hgot
          exact ⟨(memRead_passed hread).operandsRead.trans (operandsRead_touchPage w ctx no a z false), rfl⟩
        next =>
          cases hgot
          exact ⟨.refl _, rfl⟩
        next => cases hgot
      obtain ⟨hsource, hmem⟩ := hsource
      have hfree : OperandsRead s (if free = [] then (t, bs) else freeBytes t free b bs).1 := by
        split
        · exact hsource
        · exact hsource.trans (operandsRead_freeBytes t free b bs)
      generalize (if free = [] then (t, bs) else freeBytes t free b bs) = placed at h hfree
      split at h
      next pb _ =>
        obtain ⟨hrest, hsorted⟩ := ih h (smSorted_putBytes pb _ (hmem ▸ hg))
        exact ⟨hfree.trans ((operandsRead_touchPage _ ctx no b z true).trans hrest), hsorted⟩
      next =>
        obtain ⟨hrest, hsorted⟩ := ih h (hmem ▸ hg)
        exact ⟨hfree.trans hrest, hsorted⟩
      next => cases h
    next hfail _ =>
      cases h
      exact (hfail rfl).elim

theorem emitReads_eq (s : State) (ctx : Nat) (g : Gather) :
    emitReads s ctx g = { s with out := s.out ++ g.reads.map fun h => .hostRead ctx h.1 h.2 } := by
  unfold emitReads
  induction g.reads generalizing s with
  | nil => rw [List.foldl_nil, List.map_nil, List.append_nil]
  | cons h hs ih =>
    rw [List.foldl_cons, ih, List.map_cons]
    simp only [State.emit, List.append_assoc, List.singleton_append]

end Gathering

/-! ### The unit is released (R261, R264, R266) -/

section Release

variable {s v z : State} {e : Nat} {r : Run} {hostData : List Byte} {g : Gather}

theorem exec_teUnitRelease (ha : s.pst = 3) (he : e < nEng s) (hk : e % 4 = 1) (hrun : (s.engine e).run = some r) (hpark : r.park = none) :
    exec (.teUnitRelease e hostData) s = .next (settle (teRelease s e r hostData)) := by
  have hserves : ¬ ((decide (nEng s ≤ e) || decide (e % 4 ≠ 1)) = true) := by simp [he, hk]
  show Host.Outcome.next (inActive s _) = _
  simp only [inActive, if_pos ha, if_neg hserves, hrun, hpark, Option.isSome_none, Bool.false_eq_true, if_false]

/-- The signal that a released unit sends: none where PDIM is 0 (R261). -/
def teSignals (e : Nat) (d : Desc) : List SyncReq :=
  if tePdim d.w = 0 then [] else [⟨16 + e, dfield d.w 1 13 12, some (dCtx d.w), .signal (max 1 (dfield d.w 1 25 8)), none, 0, none⟩]

/-- The engine after a unit: signalled and counted, before the run goes on or ends. -/
def teShown (s : State) (e : Nat) (r : Run) (moved : Nat) : State :=
  let t := if tePdim r.d.w = 0 then s else
    s.syncSend { req := 16 + e, obj := dfield r.d.w 1 13 12, ctx := some (dCtx r.d.w), op := .signal (max 1 (dfield r.d.w 1 25 8)), th := none }
  let total := (t.engine e).hostBytes + moved
  let t := (t.count (F.TE_UNITS (e / 4))).count (F.TE_HOST_KIB (e / 4)) (total / 1024)
  t.setEngine e { t.engine e with hostBytes := total % 1024 }

theorem teReleased_eq (s : State) (e : Nat) (r : Run) (moved : Nat) : teReleased s e r moved =
    let w := parseWalk r.bytes
    if w.span 5 ≤ (r.pos + 1) * w.unit (tePdim r.d.w) then endRun (teShown s e r moved) e { r with pos := r.pos + 1 } 0
    else setRun (teShown s e r moved) e { r with pos := r.pos + 1 } := rfl

theorem teShown_frame (s : State) (e : Nat) (r : Run) (moved : Nat) : (teShown s e r moved).out = s.out ∧
    (teShown s e r moved).sy.reqs = s.sy.reqs ++ teSignals e r.d ∧ (teShown s e r moved).en.ended = s.en.ended ∧ MemSame s (teShown s e r moved) := by
  unfold teShown teSignals
  split
  · exact ⟨rfl, (List.append_nil _).symm, rfl, fun _ => rfl⟩
  · exact ⟨rfl, rfl, rfl, fun _ => rfl⟩

/-- A record's bytes that a run writes as it ends lie within it, CURSOR and DONE of a transfer too (R266). -/
theorem runTail_inside_record (r : Run) : ∀ x ∈ runTail r, x.1 < 128 ∧ x.1 + x.2.length ≤ 128 := by
  by_cases hk : dKind r.d.w = 1
  · have hlen : (cursorBytes r.d.w (parseWalk r.bytes) r.pos).length = 24 := by
      unfold cursorBytes
      dsimp only
      split <;> rfl
    simp [runTail, hk, hlen]
  · exact runTail_inside hk

/-- A run that ends leaves its engine, writes in its record, and has ended with the code. -/
theorem endRun_eq (s : State) (e : Nat) (r : Run) (code : Nat) :
    ∃ v, endRun s e r code = v.endDesc r.d code ∧ AccessOnly (s.setEngine e { s.engine e with run := none }) v := by
  obtain ⟨m, f, hbusy⟩ := countBusy_eq (s.setEngine e { s.engine e with run := none }) r.d.eng r.cost code
  obtain ⟨v, hv, hrec⟩ := finishDesc_eq (countBusy (s.setEngine e { s.engine e with run := none }) r.d.eng r.cost code) r.d r.pos code
    (runTail_inside_record r)
  refine ⟨v, hv, AccessOnly.trans ?_ hrec.rest⟩
  rw [hbusy]
  rfl

/-- Source and destination of each element of the run's next unit, from the cursor on. -/
def teUnitElems (r : Run) : List (Nat × Nat) :=
  let w := parseWalk r.bytes
  let n := w.unit (tePdim r.d.w)
  teElems r.d.w w (max (r.pos * n) (r.acc.getD 0 0)) ((r.pos + 1) * n)

/-- A unit whose bytes were gathered and written is released. -/
theorem teRelease_written (hfault : teFault s (dCtx r.d.w) r.d.no (teEsz r.d.w) (teUnitElems r) = none)
    (hgather : teGather s e (dCtx r.d.w) r.d.no (teEsz r.d.w) (teOverlaps r.d.w (parseWalk r.bytes)) (teUnitElems r) { data := hostData } = (v, 0, g))
    (hhost : g.host = []) (hwrite : writeSparse (emitReads v (dCtx r.d.w) g) e (g.mem.length + 1) g.mem = (z, 0)) :
    teRelease s e r hostData = teReleased z e r g.moved := by
  rw [teUnitElems] at hfault hgather
  simp only [teRelease, hfault, hgather, hhost, List.foldl_nil, hwrite]

/-- After a released unit the run goes on with the next, or, after the walk's end, has left the engine. -/
theorem teReleased_outcome (s : State) (e : Nat) (r : Run) (moved : Nat) :
    let u := teReleased s e r moved
    let w := parseWalk r.bytes
    let next := (r.pos + 1) * w.unit (tePdim r.d.w)
    u.out = s.out ∧ u.sy.reqs = s.sy.reqs ++ teSignals e r.d ∧
      (next < w.span 5 → (u.engine e).run = some { r with pos := r.pos + 1 } ∧ u.en.ended = s.en.ended ∧ MemSame s u) ∧
      (w.span 5 ≤ next → (u.engine e).run = none ∧ u.en.ended = s.en.ended ++ [⟨r.d, 0⟩]) := by
  intro u w next
  obtain ⟨hout, hreqs, hended, hmem⟩ := teShown_frame s e r moved
  have hu : u = _ := teReleased_eq s e r moved
  by_cases hend : w.span 5 ≤ next
  · obtain ⟨v, hv, hacc⟩ := endRun_eq (teShown s e r moved) e { r with pos := r.pos + 1 } 0
    rw [hu.trans ((if_pos hend).trans hv)]
    refine ⟨?_, ?_, fun hmore => absurd hend (Nat.not_le.2 hmore), fun _ => ⟨?_, ?_⟩⟩
    · show v.out = _
      rw [hacc]
      exact hout
    · show v.sy.reqs = _
      rw [hacc]
      exact hreqs
    · show (smGet v.en.eng e {}).run = none
      rw [hacc.en]
      exact congrArg Engine.run (State.engine_setEngine_self _ e _)
    · show v.en.ended ++ _ = _
      rw [hacc.en]
      exact congrArg (· ++ _) hended
  · rw [hu.trans (if_neg hend)]
    exact ⟨hout, hreqs, fun _ => ⟨setRun_run _ e _, hended, hmem⟩, fun hdone => absurd hdone hend⟩

end Release

/-- Settles O35: the bytes gathered are the bytes written, and the unit is released. -/
theorem transferRelease : Obligations.TransferRelease := by
  intro s v z e r hostData g d w n es ha he hk hrun hpark hd hfault hgather hhost hwrite
  have hrel := teRelease_written hfault hgather hhost hwrite
  obtain ⟨hread, hsorted⟩ := teGather_ok hgather rfl
  obtain ⟨hacc, hbytes⟩ := writeSparse_scattered hsorted (Nat.lt_succ_self _) hwrite
  rw [emitReads_eq] at hacc hbytes
  obtain ⟨hout, hreqs, hmore, hlast⟩ := teReleased_outcome z e r g.moved
  rw [← hrel] at hout hreqs hmore hlast
  have hended : z.en.ended = s.en.ended := by rw [hacc.en, ← hread.only.en]
  refine ⟨_, exec_teUnitRelease ha he hk hrun hpark, ?_, ?_, fun h => ?_, fun h => ?_⟩
  · rw [hout, hacc, hread.only]
  · rw [hreqs, hacc, hread.only]
    rfl
  · obtain ⟨hnext, hkept, hmem⟩ := hmore h
    refine ⟨⟨_, hnext, rfl, rfl⟩, hkept.trans hended, fun b => ?_⟩
    rw [hmem, hbytes]
    show (smFind g.mem b).getD (v.byte b) = _
    rw [hread.mem]
    cases smFind g.mem b <;> rfl
  · obtain ⟨hnone, hends⟩ := hlast h
    exact ⟨hnone, by rw [hends, hended]⟩

end Sys2Proof.Machine

/-! ## One access at a holding unit (R279, R281, R284–R288, R293) -/

namespace Sys2Proof.Machine

section Access

variable {s : State} {x : HoldUnit} {a : TileAccess} {pa req addr off tile : Nat} {data : List Byte}

/-! ### The cycle of a unit at which one access waits (R22, R288) -/

/-- No access waits at the unit any more. -/
def noneWaits (s : State) (x : HoldUnit) : State := { s with mem := { s.mem with wait := smPut [] s.mem.wait (holdKey x) [] } }

/-- An access that waits alone gets a port of the kind `takes`. -/
theorem portTaken_single {takes : TileAccess → Bool} (p : Nat) (h : takes a = true) : ((fromPtr p ([a].filter takes)).take 2).contains a = true := by
  rw [List.filter_singleton, h]
  exact List.contains_iff_mem.2 (List.mem_singleton_self a)

/-- An access that waits alone gets the ports that it needs, and is served. -/
theorem served_single (s : State) (x : HoldUnit) (a : TileAccess) : served s x [a] = [a] := by
  have hport (takes : TileAccess → Bool) (p : Nat) : (!takes a || ((fromPtr p ([a].filter takes)).take 2).contains a) = true := by
    cases h : takes a
    · rfl
    · exact portTaken_single p h
  cases x with
  | stack k => rfl
  | bank b =>
    have hfree := Bool.and_eq_true_iff.2 ⟨hport takesRead (smGet s.mem.ptr (readPtr b) 0), hport takesWrite (smGet s.mem.ptr (writePtr b) 0)⟩
    exact congrArg (fromPtr _) (List.filter_cons_of_pos hfree)

/-- A cycle in which nothing contends moves no pointer. -/
theorem turnPtrs_single (s : State) (x : HoldUnit) (a : TileAccess) : turnPtrs s x [a] [] = s := by
  obtain ⟨req, addr, op, ecc⟩ := a
  cases x with
  | stack k => rfl
  | bank b => cases op <;> rfl

theorem performAll_single (s : State) (x : HoldUnit) (a : TileAccess) : performAll x none [a] s = performAccess s x a := by
  simp only [performAll, ite_self]

theorem holdServe_single (s : State) (x : HoldUnit) (a : TileAccess) : holdServe s x [a] = performAccess (noneWaits s x) x a := by
  have hrest : [a].foldl List.erase [a] = [] := by simp
  rw [holdServe, served_single]
  dsimp only
  rw [hrest, turnPtrs_single, performAll_single]
  rfl

/-- HOLDING_UNIT_ACCESS with one access, of the unit's own, performs it. -/
theorem exec_singleAccess (ha : s.pst = 3) (hp : holdPresent s x = true) (hs : holdServes s x a = true)
    (hw : smGet s.mem.wait (holdKey x) [] = []) :
    exec (.holdingUnitAccess x [a]) s = .next (settle (performAccess (noneWaits s x) x a)) := by
  rw [exec_holdingUnitAccess, if_neg (by simp [hp, hs]), inActive, if_pos ha, hw, List.nil_append, holdServe_single]

/-! ### Addresses of accesses (R23, R281) -/

theorem tileOf_start (h : pa % 2048 = 0) : tileOf pa <<< 11 = pa := by
  rw [tileOf, Nat.shiftRight_eq_div_pow, Nat.shiftLeft_eq]
  omega

theorem tileOf_add (h : pa % 2048 = 0) (hoff : off < 2048) : tileOf (pa + off) = tileOf pa := by
  simp only [tileOf, Nat.shiftRight_eq_div_pow]
  omega

theorem accWrites_whole (h : pa % 2048 = 0) (hlen : data.length = 2048) : accWrites pa (.writeWhole data) = some (pa, data) := by
  rw [accWrites, tileOf_start h, slice, List.drop_zero, List.take_of_length_le hlen.le, hlen]
  simp

theorem accWrites_part (h : pa % 2048 = 0) (hoff : off < 2048) (hfit : off + data.length ≤ 2048) :
    accWrites pa (.writePart off data) = some (pa + off, data) := by
  rw [accWrites, tileOf_start h, Nat.mod_eq_of_lt hoff, List.take_of_length_le (by omega)]

/-- HBM lies below the staging addresses, and a controller serves its own stack. -/
theorem stack_of_serves {k : Nat} (h : holdServes s (.stack k) a = true) :
    isStg (accAddr (.stack k) a) = false ∧ stackOf s.variant (accAddr (.stack k) a) = k := by
  have hend : reserveEnd s.variant ≤ 2 ^ 47 := by unfold reserveEnd; split <;> decide
  simp only [holdServes, Bool.and_eq_true, decide_eq_true_eq, beq_iff_eq] at h
  obtain ⟨⟨hlt, hk⟩, -⟩ := h
  exact ⟨Nat.testBit_lt_two_pow (hlt.trans_le hend), hk⟩

/-- A bank's accesses are at the staging addresses of the bank. -/
theorem bank_of_serves {b : Nat} (hp : holdPresent s (.bank b) = true) (h : holdServes s (.bank b) a = true) :
    isStg (accAddr (.bank b) a) = true ∧ stgBank (accAddr (.bank b) a) = b := by
  have hn : nDom s ≤ 16 := by unfold nDom; split <;> decide
  simp only [holdPresent, decide_eq_true_eq] at hp
  simp only [holdServes, Bool.and_eq_true, beq_iff_eq, Nat.shiftRight_eq_div_pow] at h
  obtain ⟨hb, -⟩ := h
  rw [isStg, stgBank, accAddr, bit_eq_bits, bits_eq, bits_eq, decide_eq_true_eq]
  omega

/-! ### A tile that fails its check (R286, R293) -/

/-- What MEM_TCHK_EVENT shows of a check failure. -/
def failShown (s : State) (req cause place unit : Nat) : State :=
  ((((s.set F.MEM_TCHK_EVENT_CAUSE cause).set F.MEM_TCHK_EVENT_REQ req).set F.MEM_TCHK_EVENT_WHERE place).set F.MEM_TCHK_EVENT_UNIT
    unit).bump F.MEM_TCHK_EVENT_SEQ

section Shown

variable (s) (req) (cause place unit : Nat)

theorem failShown_seq : (failShown s req cause place unit).get F.MEM_TCHK_EVENT_SEQ = seqNext (s.get F.MEM_TCHK_EVENT_SEQ) := by
  rw [failShown, State.get_bump_seq _ rfl (by decide), State.get_set_apart _ _ (by decide) (by decide),
    State.get_set_apart _ _ (by decide) (by decide), State.get_set_apart _ _ (by decide) (by decide),
    State.get_set_apart _ _ (by decide) (by decide)]

theorem failShown_req (h : req < 128) : (failShown s req cause place unit).get F.MEM_TCHK_EVENT_REQ = req := by
  rw [failShown, State.get_bump_apart _ (by decide) (by decide), State.get_set_apart _ _ (by decide) (by decide),
    State.get_set_apart _ _ (by decide) (by decide), State.get_set_self _ _ (by decide)]
  exact Nat.mod_eq_of_lt h

theorem failShown_cause (h : cause < 4) : (failShown s req cause place unit).get F.MEM_TCHK_EVENT_CAUSE = cause := by
  rw [failShown, State.get_bump_apart _ (by decide) (by decide), State.get_set_apart _ _ (by decide) (by decide),
    State.get_set_apart _ _ (by decide) (by decide), State.get_set_apart _ _ (by decide) (by decide), State.get_set_self _ _ (by decide)]
  exact Nat.mod_eq_of_lt h

end Shown

theorem tileCause_lt (marks : Nat) : tileCause marks < 4 := by
  unfold tileCause
  split
  · decide
  · split <;> decide

theorem tileFail_get (s : State) (req tile : Nat) (f : RF) :
    ∃ place unit, (s.tileFail req tile).get f = (failShown s req (tileCause (s.tileBad tile)) place unit).get f := by
  unfold State.tileFail
  dsimp only
  split
  · exact ⟨1, stgBank (tile <<< 11), rfl⟩
  · refine ⟨0, stackOf s.variant (tile <<< 11), ?_⟩
    split <;> rfl

/-- The event of a check failure: its number, its requester and its first cause. -/
theorem tileFail_event (s : State) (tile : Nat) (h : req < 128) :
    (s.tileFail req tile).get F.MEM_TCHK_EVENT_SEQ = seqNext (s.get F.MEM_TCHK_EVENT_SEQ) ∧
      (s.tileFail req tile).get F.MEM_TCHK_EVENT_REQ = req ∧
      (s.tileFail req tile).get F.MEM_TCHK_EVENT_CAUSE = tileCause (s.tileBad tile) := by
  obtain ⟨_, _, hseq⟩ := tileFail_get s req tile F.MEM_TCHK_EVENT_SEQ
  obtain ⟨_, _, hreq⟩ := tileFail_get s req tile F.MEM_TCHK_EVENT_REQ
  obtain ⟨_, _, hcause⟩ := tileFail_get s req tile F.MEM_TCHK_EVENT_CAUSE
  exact ⟨hseq.trans (failShown_seq ..), hreq.trans (failShown_req s req _ _ _ h), hcause.trans (failShown_cause s req _ _ _ (tileCause_lt _))⟩

/-- The source that a holding unit signals when a tile of its fails its check: 21 of a stack, 20 of a bank (R293). -/
def failSource (cause : Nat) : HoldUnit → Nat × Nat × Nat
  | .stack k => (21, k, cause)
  | .bank b => (20, b, cause)

theorem tileFail_raised_hbm (req : Nat) (h : isStg (tile <<< 11) = false) :
    (s.tileFail req tile).fc.raised = s.fc.raised ++ [(21, stackOf s.variant (tile <<< 11), tileCause (s.tileBad tile))] := by
  unfold State.tileFail
  dsimp only
  rw [if_neg (by simp [h])]
  split <;> rfl

theorem tileFail_raised_staging (req : Nat) (h : isStg (tile <<< 11) = true) :
    (s.tileFail req tile).fc.raised = s.fc.raised ++ [(20, stgBank (tile <<< 11), tileCause (s.tileBad tile))] := by
  unfold State.tileFail
  dsimp only
  rw [if_pos h]
  rfl

/-- A tile that a unit serves is reported under the unit's source and number. -/
theorem tileFail_raised (req : Nat) (hp : holdPresent s x = true) (hs : holdServes s x a = true) (ht : accAddr x a % 2048 = 0) :
    (s.tileFail req (tileOf (accAddr x a))).fc.raised =
      s.fc.raised ++ [failSource (tileCause (s.tileBad (tileOf (accAddr x a)))) x] := by
  cases x with
  | stack k =>
    obtain ⟨hstg, hk⟩ := stack_of_serves hs
    rw [← tileOf_start ht] at hstg hk
    rw [tileFail_raised_hbm req hstg, hk, failSource]
  | bank b =>
    obtain ⟨hstg, hb⟩ := bank_of_serves hp hs
    rw [← tileOf_start ht] at hstg hb
    rw [tileFail_raised_staging req hstg, hb, failSource]

theorem tileCheck_failed (req : Nat) (hf : s.tileFenced tile = false) (hb : s.tileBad tile ≠ 0) :
    s.tileCheck req tile = ((s.sumLine tile).tileFail req tile, 0x30) := by
  rw [State.tileCheck, if_neg (by simp [hf]), if_neg hb]

/-! ### Writes to one tile (R284, R286) -/

/-- A write of a whole tile stores its bytes and no other, and ends what stood against the tile. -/
theorem tileWrite_whole (req : Nat) (h : pa % 2048 = 0) (hlen : data.length = 2048) (hf : s.tileFenced (tileOf pa) = false) :
    let u := (tileWrite s req pa data).1
    Stored s u pa data ∧ u.tileBad (tileOf pa) = 0 ∧ RegsBut s u [] := by
  have hline := linesTaken_sumLine s (tileOf pa)
  rw [← memWrite_single (List.ne_nil_of_length_pos (by omega)) (by omega), memWrite_whole hlen h hf]
  refine ⟨stored_setBytes hline.byte pa data, ?_, fun o _ => (hline.operandOnly.trans (operandOnly_setBytes _ pa data)).reg o⟩
  simp [State.tileBad, State.sumDiffers, smGet, smFind_smDel_self, b2n]

/-- A write of a part of a tile that checks takes its line and is counted, and its bytes are written. -/
theorem tileWrite_part_eq (req : Nat) (hlen : data.length < 2048) (hf : s.tileFenced (tileOf pa) = false) (hb : s.tileBad (tileOf pa) = 0) :
    tileWrite s req pa data = (((s.sumLine (tileOf pa)).count (rmwCount (s.sumLine (tileOf pa)) pa)).setBytes pa data, 0) := by
  have hpart : ¬ (decide (data.length = 2048) && decide (pa % 2048 = 0)) = true := by simp [hlen.ne]
  rw [tileWrite]
  dsimp only
  rw [if_neg (by simp [hf]), if_neg hpart, tileCheck_whole hf hb]
  exact congrArg (fun v : State => (v.setBytes pa data, 0)) (count_rmwCount _ pa)

/-- A write of a part of a tile that checks stores its bytes and no other. -/
theorem tileWrite_part (req : Nat) (hlen : data.length < 2048) (hf : s.tileFenced (tileOf pa) = false) (hb : s.tileBad (tileOf pa) = 0) :
    let u := (tileWrite s req pa data).1
    Stored s u pa data ∧ RegsBut s u [] := by
  have hline := linesTaken_sumLine s (tileOf pa)
  rw [tileWrite_part_eq req hlen hf hb]
  exact ⟨stored_setBytes (t := (s.sumLine (tileOf pa)).count _) hline.byte pa data,
    fun o _ => ((hline.operandOnly.count _ 1).trans (operandOnly_setBytes _ pa data)).reg o⟩

/-! ### One access (R281, R284) -/

/-- A write at a state partition, which has no tile check. -/
theorem performAccess_stateWrite {w : Nat} (h : (isStg (accAddr x a) && inStatePart (stgOff (accAddr x a))) = true) (he : a.ecc = none)
    (hw : accWrites (accAddr x a) a.op = some (w, data)) : performAccess s x a = s.setBytes w data := by
  simp only [performAccess, h, he, hw, if_true]

/-- A read at a state partition. -/
theorem performAccess_stateRead (h : (isStg (accAddr x a) && inStatePart (stgOff (accAddr x a))) = true) (he : a.ecc = none)
    (hw : accWrites (accAddr x a) a.op = none) : performAccess s x a = s := by
  simp only [performAccess, h, he, hw, if_true]

/-- A write at a tile. -/
theorem performAccess_tileWrite {w : Nat} (h : (isStg (accAddr x a) && inStatePart (stgOff (accAddr x a))) = false) (he : a.ecc = none)
    (hw : accWrites (accAddr x a) a.op = some (w, data)) : performAccess s x a = (tileWrite s a.req w data).1 := by
  simp only [performAccess, h, he, hw, Bool.false_eq_true, if_false]

/-- A read at a tile. -/
theorem performAccess_tileRead (h : (isStg (accAddr x a) && inStatePart (stgOff (accAddr x a))) = false) (he : a.ecc = none)
    (hw : accWrites (accAddr x a) a.op = none) : performAccess s x a = (s.tileCheck a.req (tileOf (accAddr x a))).1 := by
  simp only [performAccess, h, he, hw, Bool.false_eq_true, if_false]

theorem cntBut_setBytes (s : State) (pa : Nat) (data : List Byte) : CntBut s (s.setBytes pa data) [] := by
  obtain ⟨m, hm⟩ := setBytes_eq s pa data
  rw [hm]
  exact fun _ _ => rfl

/-- A read of a tile that fails its check: the event is shown and its source raised, and no byte changes. -/
theorem failedRead_event (hp : holdPresent s x = true) (hs : holdServes s x a = true) (ht : accAddr x a % 2048 = 0) (hreq : req < 128)
    (hf : s.tileFenced (tileOf (accAddr x a)) = false) (hb : s.tileBad (tileOf (accAddr x a)) ≠ 0) :
    let u := (s.tileCheck req (tileOf (accAddr x a))).1
    let cause := tileCause (s.tileBad (tileOf (accAddr x a)))
    MemSame s u ∧ u.get F.MEM_TCHK_EVENT_SEQ = seqNext (s.get F.MEM_TCHK_EVENT_SEQ) ∧ u.get F.MEM_TCHK_EVENT_REQ = req ∧
      u.get F.MEM_TCHK_EVENT_CAUSE = cause ∧ u.fc.raised = s.fc.raised ++ [failSource cause x] := by
  have hline := linesTaken_sumLine s (tileOf (accAddr x a))
  have honly := hline.operandOnly
  have hplace : holdPresent (s.sumLine (tileOf (accAddr x a))) x = true ∧ holdServes (s.sumLine (tileOf (accAddr x a))) x a = true := by
    rw [hline.rest]
    exact ⟨hp, hs⟩
  obtain ⟨hseq, hshown, hcause⟩ := tileFail_event (s.sumLine (tileOf (accAddr x a))) (tileOf (accAddr x a)) hreq
  have hraised := tileFail_raised req hplace.1 hplace.2 ht
  rw [hline.tileBad] at hcause hraised
  refine ⟨(tileCheck_same req _).byte, ?_⟩
  rw [tileCheck_failed req hf hb]
  exact ⟨hseq.trans (congrArg seqNext (honly.get _)), hshown, hcause, hraised.trans (by rw [honly.fc])⟩

end Access

/-- Settles O38: the one access that waits is performed, and each kind of access does what its tile's check and its write do. -/
theorem holdingUnitAccess : Obligations.HoldingUnitAccess := by
  intro s x req addr off data pa tile state ha hp hs hw hreq _ hpa hf
  have hexec (op : TileOp) := exec_singleAccess (a := ⟨req, addr, op, none⟩) ha hp hs hw
  refine ⟨fun hst => ⟨⟨_, hexec _, ?_⟩, fun hfit hoff => ⟨_, hexec _, ?_⟩⟩, fun hst hb => ⟨_, hexec _, ?_⟩, fun hst hlen => ⟨_, hexec _, ?_⟩,
    fun hst hb hfit hlen hoff => ⟨_, hexec _, ?_⟩, fun hst hb => ⟨_, hexec _, ?_⟩⟩
  · rw [performAccess_stateRead hst rfl rfl]
    exact ⟨fun _ => rfl, fun _ _ => rfl, fun _ _ => rfl, rfl⟩
  · have honly := operandOnly_setBytes (noneWaits s x) (pa + off) data
    rw [performAccess_stateWrite (a := ⟨req, addr, .writePart off data, none⟩) hst rfl (accWrites_part hpa hoff hfit)]
    exact ⟨stored_setBytes (t := noneWaits s x) (fun _ => rfl) _ _, fun o _ => honly.reg o, cntBut_setBytes _ _ _, honly.fc⟩
  · have hline := linesTaken_sumLine (noneWaits s x) tile
    rw [performAccess_tileRead hst rfl rfl, tileCheck_whole (s := noneWaits s x) hf hb]
    exact ⟨hline.byte, fun o _ => hline.operandOnly.reg o, hline.cnt, hline.operandOnly.fc⟩
  · obtain ⟨⟨hin, hout⟩, hgood, hregs⟩ := tileWrite_whole (s := noneWaits s x) req hpa hlen hf
    rw [performAccess_tileWrite (a := ⟨req, addr, .writeWhole data, none⟩) hst rfl (accWrites_whole hpa hlen)]
    rw [hlen] at hin hout
    exact ⟨hin, hout, hgood, hregs⟩
  · have htile : tileOf (pa + off) = tile := tileOf_add hpa hoff
    obtain ⟨⟨hin, hout⟩, hregs⟩ := tileWrite_part (s := noneWaits s x) req hlen (htile ▸ hf) (htile ▸ hb)
    rw [performAccess_tileWrite (a := ⟨req, addr, .writePart off data, none⟩) hst rfl (accWrites_part hpa hoff hfit)]
    exact ⟨hin, hout, hregs⟩
  · obtain ⟨hmem, hseq, hshown, hcause, hraised⟩ := failedRead_event (s := noneWaits s x) hp hs hpa (hreq.trans (by decide)) hf hb
    rw [performAccess_tileRead hst rfl rfl]
    refine ⟨hmem, hseq, hshown, hcause, hraised.trans ?_⟩
    rw [hcause]
    cases x <;> rfl

end Sys2Proof.Machine

/-! ## Every step keeps the canonical form of memory

A function of the model either leaves memory alone (`f_mem : (f s …).mem = s.mem`) or writes it through tiles, which keeps its
canonical form (`f_wf`; `f_of` where the state comes out of a pair). A command keeps it (`execX_keeps`), and so does a step. -/

namespace Sys2Proof.Machine

/-- Settles O1: a step is defined to do so. -/
theorem stepRunsFront : Obligations.StepRunsFront :=
  ⟨fun _ _ _ => rfl, fun s h => by rw [step, h]⟩

/-- Settles O3: after reset no byte is stored. -/
theorem invReset : Obligations.InvReset := rfl

/-- The command's outcome, if it answers a state, answers one whose memory has the canonical form. -/
def Keeps (o : Out) : Prop := ∀ t, o = .next t → Memory.wf t.mem = true

theorem keeps_next {t : State} (h : Memory.wf t.mem = true) : Keeps (.next t) := fun _ e => by cases e; exact h

theorem pair_wf {β : Type} {p : State × β} {t : State} {y : β} (e : p = (t, y)) (h : Memory.wf p.1.mem = true) :
    Memory.wf t.mem = true := by
  rw [e] at h
  exact h

@[simp] theorem foldl_mem {α : Type} {f : State → α → State} (hf : ∀ t x, (f t x).mem = t.mem) (l : List α) (s : State) :
    (l.foldl f s).mem = s.mem :=
  foldl_keeps (P := fun t => t.mem = s.mem) (fun t x h => (hf t x).trans h) l rfl

theorem foldl_wf {α : Type} {f : State → α → State}
    (hf : ∀ t x, Memory.wf t.mem = true → Memory.wf (f t x).mem = true) (l : List α) {s : State}
    (h : Memory.wf s.mem = true) : Memory.wf (l.foldl f s).mem = true :=
  foldl_keeps hf l h

theorem smPut_all {β : Type} [DecidableEq β] {m : SMap β} {d : β} {k : Nat} (v : β)
    (h : m.all (fun e => e.2 != d) = true) : (smPut d m k v).all (fun e => e.2 != d) = true := by
  unfold smPut
  split
  · exact smDel_all _ h
  · rename_i hv
    exact smSet_all h (by simpa using hv)

theorem smDrop_all {β : Type} {m : SMap β} {q : Nat × β → Bool} (p : Nat → Bool) (h : m.all q = true) :
    (smDrop p m).all q = true := by
  rw [List.all_eq_true] at h ⊢
  exact fun x hx => h x (List.mem_of_mem_filter hx)

section
variable {s : State}

@[simp] theorem fnCmd_mem {f : State → State} (hf : (f s).mem = s.mem) (ctx : Nat) (r : Bool) :
    (fnCmd s ctx r f).mem = s.mem := by
  unfold fnCmd
  (repeat' split) <;> simp [hf]

@[simp] theorem regCmd_mem {f : State → State} (hf : (f s).mem = s.mem) (r : Bool) : (regCmd s r f).mem = s.mem :=
  fnCmd_mem hf _ _

@[simp] theorem inActive_mem {f : State → State} (hf : (f s).mem = s.mem) : (inActive s f).mem = s.mem := by
  unfold inActive
  split <;> simp [hf]

@[simp] theorem inCtrl_mem {f : State → State} (hf : (f s).mem = s.mem) : (inCtrl s f).mem = s.mem := by
  unfold inCtrl
  split <;> simp [hf]

theorem fnCmd_wf {f : State → State} (h : Memory.wf s.mem = true) (hf : Memory.wf (f s).mem = true) (ctx : Nat) (r : Bool) :
    Memory.wf (fnCmd s ctx r f).mem = true := by
  unfold fnCmd
  (repeat' split) <;> simp [hf, h]

theorem regCmd_wf {f : State → State} (h : Memory.wf s.mem = true) (hf : Memory.wf (f s).mem = true) (r : Bool) :
    Memory.wf (regCmd s r f).mem = true :=
  fnCmd_wf h hf _ _

theorem inActive_wf {f : State → State} (h : Memory.wf s.mem = true) (hf : Memory.wf (f s).mem = true) :
    Memory.wf (inActive s f).mem = true := by
  unfold inActive
  split <;> simp [hf, h]

theorem inCtrl_wf {f : State → State} (h : Memory.wf s.mem = true) (hf : Memory.wf (f s).mem = true) :
    Memory.wf (inCtrl s f).mem = true := by
  unfold inCtrl
  split <;> simp [hf, h]

@[simp] theorem State.sumLine_wf (h : Memory.wf s.mem = true) (tile : Nat) : Memory.wf (s.sumLine tile).mem = true :=
  (sumLine_same tile).wf h

@[simp] theorem State.tileCheck_wf (h : Memory.wf s.mem = true) (req tile : Nat) :
    Memory.wf (s.tileCheck req tile).1.mem = true :=
  (tileCheck_same req tile).wf h

@[simp] theorem State.checkTiles_wf (h : Memory.wf s.mem = true) (req : Nat) (ts : List Nat) :
    Memory.wf (s.checkTiles req ts).1.mem = true :=
  (checkTiles_same req ts).wf h

@[simp] theorem State.fresh_mem : s.fresh.2.mem = s.mem := rfl

end

/-! ### Registers, threads, the tracker -/

@[simp] theorem State.setWords_mem (s : State) (off n v : Nat) : (State.setWords s off n v).mem = s.mem := by
  fun_induction State.setWords s off n v <;> simp_all

@[simp] theorem State.resetRegs_mem (s : State) (lo hi : Nat) : (State.resetRegs s lo hi).mem = s.mem := by
  rfl

@[simp] theorem State.resume_mem (s : State) (t : Th) (f : Thread → Thread) : (State.resume s t f).mem = s.mem := by
  rfl

@[simp] theorem State.trkMark_mem (s : State) : (State.trkMark s).mem = s.mem := by
  rfl

/-! ### Tiles and holding units -/

theorem tileCheck_of {s : State} {req tile : Nat} {t : State} {y : Nat} (h : Memory.wf s.mem = true)
    (e : State.tileCheck s req tile = (t, y)) : Memory.wf t.mem = true :=
  pair_wf e (State.tileCheck_wf h ..)

theorem checkTiles_of {s : State} {req : Nat} {l : List Nat} {t : State} {y : Nat} (h : Memory.wf s.mem = true)
    (e : State.checkTiles s req l = (t, y)) : Memory.wf t.mem = true :=
  pair_wf e (State.checkTiles_wf h ..)

theorem memRead_of {s : State} {req a n : Nat} {t : State} {y : Nat × List Byte} (h : Memory.wf s.mem = true)
    (e : memRead s req a n = (t, y)) : Memory.wf t.mem = true :=
  pair_wf e (memRead_wf h ..)

theorem tileWrite_of {s : State} {req a : Nat} {bs : List Byte} {t : State} {y : Nat} (h : Memory.wf s.mem = true)
    (e : tileWrite s req a bs = (t, y)) : Memory.wf t.mem = true :=
  pair_wf e (tileWrite_wf h ..)

theorem memWrite_of {s : State} {req a : Nat} {bs : List Byte} {t : State} {y : Nat} (h : Memory.wf s.mem = true)
    (e : memWrite s req a bs = (t, y)) : Memory.wf t.mem = true :=
  pair_wf e (memWrite_wf h ..)

/-! ### Operands and descriptors -/

@[simp] theorem touchPage_mem (s : State) (ctx no a n : Nat) (wr : Bool) : (touchPage s ctx no a n wr).mem = s.mem := by
  unfold touchPage; simp only; (repeat' split) <;> simp

/-! ### Objects in use and their reclaim -/

@[simp] theorem reclaim_mem (s : State) : (reclaim s).mem = s.mem := by
  unfold reclaim; split <;> simp

/-! ### Submission and completion queues -/

@[simp] theorem State.setSqd_mem (s : State) (k : Nat) (q : Sq) : (State.setSqd s k q).mem = s.mem := by
  rfl

@[simp] theorem sqAsk_mem (s : State) (k : Nat) : (sqAsk s k).mem = s.mem := by
  unfold sqAsk; split <;> simp

@[simp] theorem sqFetch_mem (s : State) (k : Nat) : (sqFetch s k).mem = s.mem := by
  unfold sqFetch; split <;> simp

@[simp] theorem sqFetchAll_mem (s : State) : (sqFetchAll s).mem = s.mem := by
  unfold sqFetchAll; simp only; (repeat' split) <;> simp

@[simp] theorem State.sendMsix_mem (s : State) (ctx v : Nat) : (State.sendMsix s ctx v).mem = s.mem := by
  unfold State.sendMsix; (repeat' split) <;> simp

@[simp] theorem State.cqFire_mem (s : State) (n : Nat) : (State.cqFire s n).mem = s.mem := by
  unfold State.cqFire; (repeat' split) <;> simp

@[simp] theorem State.cqWrite_mem (s : State) (n : Nat) (q : Cq) (e : List Byte) :
    (State.cqWrite s n q e).mem = s.mem := by
  simp [State.cqWrite]

@[simp] theorem State.trkBack_mem (s : State) (no : Nat) : (State.trkBack s no).mem = s.mem := by
  unfold State.trkBack; simp only; (repeat' split) <;> simp

@[simp] theorem State.cqDone_mem (s : State) (th : Option (Nat × Nat)) (no : Option Nat) :
    (State.cqDone s th no).mem = s.mem := by
  unfold State.cqDone; simp only; (repeat' split) <;> simp

@[simp] theorem State.cqHold_mem (s : State) (n : Nat) (q : Cq) (w : List Byte × Option (Nat × Nat) × Option Nat) :
    (State.cqHold s n q w).mem = s.mem := by
  rfl

@[simp] theorem State.cqPost_mem (s : State) (n : Nat) (e : List Byte) (th : Option (Nat × Nat)) (host : Option Nat) :
    (State.cqPost s n e th host).mem = s.mem := by
  unfold State.cqPost; simp only; (repeat' split) <;> simp

@[simp] theorem State.cqOwnPost_mem (s : State) (ctx n : Nat) (e : List Byte) (no : Nat) :
    (State.cqOwnPost s ctx n e no).mem = s.mem := by
  unfold State.cqOwnPost; split <;> simp

@[simp] theorem State.cqDrain_mem (s : State) (n fuel : Nat) : (State.cqDrain s n fuel).mem = s.mem := by
  fun_induction State.cqDrain s n fuel <;> simp_all

@[simp] theorem State.cqDrainAll_mem (s : State) : (State.cqDrainAll s).mem = s.mem := by
  simp [State.cqDrainAll]

/-! ### Sequencers -/

@[simp] theorem mapSaved_mem (s : State) (ctx : Nat) (f : Th × Thread → Th × Thread) :
    (mapSaved s ctx f).mem = s.mem := by
  unfold mapSaved; split <;> simp

@[simp] theorem stopProgram_mem (s : State) (p : Program) (kind : Nat) : (stopProgram s p kind).mem = s.mem :=
  (mapSaved_mem ..).trans (foldl_mem (by intros; rfl) _ s)

@[simp] theorem dropProgram_mem (s : State) (p : Program) : (dropProgram s p).mem = s.mem := by
  unfold dropProgram
  simp only
  exact foldl_mem (by intros; rfl) _ _

@[simp] theorem programEvent_mem (s : State) (d code kind slot : Nat) :
    (programEvent s d code kind slot).mem = s.mem := by
  unfold programEvent; split <;> simp

@[simp] theorem noteOverrun_mem (s : State) (p : Program) : (noteOverrun s p).mem = s.mem := by
  unfold noteOverrun; (repeat' split) <;> simp

@[simp] theorem completeProgram_mem (s : State) (p : Program) (tail : List Byte) (code kind slot : Nat) :
    (completeProgram s p tail code kind slot).mem = s.mem := by
  simp [completeProgram]

@[simp] theorem haltThread_mem (s : State) (t : Th) (kind trap : Nat) : (haltThread s t kind trap).mem = s.mem := by
  unfold haltThread; simp only; (repeat' split) <;> simp

@[simp] theorem faultThread_mem (s : State) (t : Th) (kind trap : Nat) : (faultThread s t kind trap).mem = s.mem := by
  simp [faultThread]

@[simp] theorem icacheRoom_mem (s : State) (d : Nat) : (icacheRoom s d).mem = s.mem := by
  unfold icacheRoom; simp only; (repeat' split) <;> simp

@[simp] theorem icacheFill_wf {s : State} (h : Memory.wf s.mem = true) (t : Th) :
    Memory.wf (icacheFill s t).mem = true := by
  unfold icacheFill
  grind [State.setThr_mem, → tileCheck_of, ← State.tileCheck_wf, faultThread_mem, icacheRoom_mem]

theorem issueWord_wf {s : State} (h : Memory.wf s.mem = true) (t : Th) (ok : Nat → Bool)
    {body : State → Thread → Program → State} (hb : ∀ u x p, Memory.wf u.mem = true → Memory.wf (body u x p).mem = true) :
    Memory.wf (issueWord s t ok body).mem = true := by
  unfold issueWord
  simp only
  (repeat' split) <;> first | exact h | simpa using h | exact hb _ _ _ h

theorem issueAt_wf {s : State} (h : Memory.wf s.mem = true) (t : Th) (c : Instr)
    {body : State → Thread → Program → State} (hb : ∀ u x p, Memory.wf u.mem = true → Memory.wf (body u x p).mem = true) :
    Memory.wf (issueAt s t c body).mem = true := issueWord_wf h t _ hb

@[simp] theorem stepTo_mem (s : State) (t : Th) (f : Thread → Thread) (x : Thread) (p : Program) :
    (stepTo t f s x p).mem = s.mem := by
  rfl

@[simp] theorem writeRec_wf {s : State} (h : Memory.wf s.mem = true) (d : Desc) (a : Nat) (bs : List Byte) :
    Memory.wf (writeRec s d a bs).mem = true := by
  unfold writeRec; split <;> simp [h, memWrite_wf]

@[simp] theorem noteCode_mem (s : State) (kind dom code : Nat) : (noteCode s kind dom code).mem = s.mem := by
  unfold noteCode; (repeat' split) <;> simp

@[simp] theorem finishDesc_wf {s : State} (h : Memory.wf s.mem = true) (d : Desc) (units : Nat)
    (tail : List (Nat × List Byte)) (code : Nat) : Memory.wf (finishDesc s d units tail code).mem = true := by
  have hw (l : List (Nat × List Byte)) (a : Nat) : Memory.wf (l.foldl (fun s t => writeRec s d (a + t.1) t.2) s).mem = true :=
    foldl_wf (fun t x ht => writeRec_wf ht ..) l h
  unfold finishDesc
  simp only
  split <;> simp [hw]

@[simp] theorem finishNone_wf {s : State} (h : Memory.wf s.mem = true) (d : Desc) (code : Nat) :
    Memory.wf (finishNone s d code).mem = true := by
  simp [finishNone, h]

@[simp] theorem markStuck_mem (s : State) (e : Nat) : (markStuck s e).mem = s.mem := by
  unfold markStuck
  simp only
  exact foldl_mem (by intros; rfl) _ _

@[simp] theorem addDemand_mem (s : State) (p : Program) (d : Desc) : (addDemand s p d).mem = s.mem := by
  unfold addDemand; simp only; (repeat' split) <;> simp

@[simp] theorem stopOverrun_mem (s : State) (d : Desc) : (stopOverrun s d).mem = s.mem := by
  unfold stopOverrun; simp only; (repeat' split) <;> simp

@[simp] theorem issueOn_wf {s : State} (h : Memory.wf s.mem = true) (t : Th) (p : Program) (d : Desc) :
    Memory.wf (issueOn s t p d).mem = true := by
  unfold issueOn; simp only; (repeat' split) <;> simp [h]

@[simp] theorem issueDesc_wf {s : State} (h : Memory.wf s.mem = true) (t : Th) (x : Thread) (p : Program) (d : Desc) :
    Memory.wf (issueDesc s t x p d).mem = true := by
  unfold issueDesc; (repeat' split) <;> simp [h]

/-! ### Page faults -/

@[simp] theorem State.setSegm_mem (s : State) (key : Nat) (g : Segm) : (State.setSegm s key g).mem = s.mem := by
  rfl

@[simp] theorem State.setRecs_mem (s : State) (rs : List FaultRec) : (State.setRecs s rs).mem = s.mem := by
  rfl

@[simp] theorem State.putRec_mem (s : State) (r : FaultRec) : (State.putRec s r).mem = s.mem := by
  rfl

@[simp] theorem startMigration_mem (s : State) (key page : Nat) : (startMigration s key page).mem = s.mem := by
  unfold startMigration; simp only; (repeat' split) <;> simp

@[simp] theorem joinFault_mem (s : State) (key page : Nat) (w : FaultWaiter) (again : Bool) :
    (joinFault s key page w again).1.mem = s.mem := by
  unfold joinFault; simp only; (repeat' split) <;> simp

/-! ### What the engines share -/

@[simp] theorem readPieces_wf {s : State} (h : Memory.wf s.mem = true) (w : Who) (rights req ctx no : Nat) (both : Bool)
    (l : List (Nat × Nat)) : Memory.wf (readPieces s w rights req ctx no both l).1.mem = true := by
  fun_induction readPieces s w rights req ctx no both l <;> grind [→ memRead_of, ← memRead_wf, touchPage_mem]

theorem readPieces_of {s : State} {w : Who} {rights req ctx no : Nat} {both : Bool} {l : List (Nat × Nat)} {t : State}
    {y : Got} (h : Memory.wf s.mem = true) (e : readPieces s w rights req ctx no both l = (t, y)) :
    Memory.wf t.mem = true :=
  pair_wf e (readPieces_wf h ..)

@[simp] theorem readOp_wf {s : State} (h : Memory.wf s.mem = true) (w : Who) (req ctx no a n : Nat) :
    Memory.wf (readOp s w req ctx no a n).1.mem = true := by
  unfold readOp; split <;> simp [h]

theorem readOp_of {s : State} {w : Who} {req ctx no a n : Nat} {t : State} {y : Got} (h : Memory.wf s.mem = true)
    (e : readOp s w req ctx no a n = (t, y)) : Memory.wf t.mem = true :=
  pair_wf e (readOp_wf h ..)

@[simp] theorem writeCut_wf {s : State} (h : Memory.wf s.mem = true) (w : Who) (req ctx no : Nat)
    (l : List (Nat × List Byte)) : Memory.wf (writeCut s w req ctx no l).1.mem = true := by
  fun_induction writeCut s w req ctx no l <;> grind [→ memWrite_of, ← memWrite_wf, touchPage_mem]

theorem writeCut_of {s : State} {w : Who} {req ctx no : Nat} {l : List (Nat × List Byte)} {t : State} {y : Got}
    (h : Memory.wf s.mem = true) (e : writeCut s w req ctx no l = (t, y)) : Memory.wf t.mem = true :=
  pair_wf e (writeCut_wf h ..)

@[simp] theorem writeOp_wf {s : State} (h : Memory.wf s.mem = true) (w : Who) (req ctx no a : Nat) (bs : List Byte) :
    Memory.wf (writeOp s w req ctx no a bs).1.mem = true := by
  unfold writeOp; split <;> simp [h]

theorem writeOp_of {s : State} {w : Who} {req ctx no a : Nat} {bs : List Byte} {t : State} {y : Got}
    (h : Memory.wf s.mem = true) (e : writeOp s w req ctx no a bs = (t, y)) : Memory.wf t.mem = true :=
  pair_wf e (writeOp_wf h ..)

@[simp] theorem freeBytes_mem (s : State) (rs : List (Nat × Nat)) (a : Nat) (bs : List Byte) :
    (freeBytes s rs a bs).1.mem = s.mem := by
  induction bs generalizing s a with
  | nil => rfl
  | cons b bs ih => unfold freeBytes; simp only; split <;> simp [ih]

@[simp] theorem countBusy_mem (s : State) (e cost code : Nat) : (countBusy s e cost code).mem = s.mem := by
  unfold countBusy; simp only; (repeat' split) <;> simp

@[simp] theorem finishRun_wf {s : State} (h : Memory.wf s.mem = true) (r : Run) (code : Nat) :
    Memory.wf (finishRun s r code).mem = true := by
  simp [finishRun, h]

@[simp] theorem refuseTaken_wf {s : State} (h : Memory.wf s.mem = true) (d : Desc) (code : Nat) :
    Memory.wf (refuseTaken s d code).mem = true := by
  simp [refuseTaken, h]

@[simp] theorem recordFails_mem (s : State) (d : Desc) (code : Nat) : (recordFails s d code).mem = s.mem := by
  simp [recordFails]

@[simp] theorem showParked_mem (s : State) (e : Nat) : (showParked s e).mem = s.mem := by
  unfold showParked; split <;> simp

@[simp] theorem countPark_mem (s : State) (e : Nat) : (countPark s e).mem = s.mem := by
  unfold countPark; split <;> simp

@[simp] theorem parkRun_wf {s : State} (h : Memory.wf s.mem = true) (e : Nat) (r : Run) (key page : Nat) :
    Memory.wf (parkRun s e r key page).mem = true := by
  have hw (d : Desc) (a : Nat) {t : State} (ht : Memory.wf t.mem = true) (l : List (Nat × List Byte)) :
      Memory.wf (l.foldl (fun s t => writeRec s d (a + t.1) t.2) t).mem = true :=
    foldl_wf (fun t x ht => writeRec_wf ht ..) l ht
  have hj : Memory.wf (joinFault s key page (.engine e) (r.recWait == some (key, page))).1.mem = true := by simpa using h
  unfold parkRun
  split <;> (rename_i u heq; rw [heq] at hj)
  · exact hj
  · simp only [showParked_mem]
    have hc : Memory.wf (if (u.engine e).aside.length < 4 then
        countPark (u.setEngine e { u.engine e with run := none, aside := (u.engine e).aside ++ [{ r with park := some (key, page), recWait := none }] }) e
      else u.setEngine e { u.engine e with run := some { r with park := some (key, page), recWait := none } }).mem = true := by
      split <;> simpa using hj
    split
    · exact hw _ _ hc _
    · exact hc

@[simp] theorem endRun_wf {s : State} (h : Memory.wf s.mem = true) (e : Nat) (r : Run) (code : Nat) :
    Memory.wf (endRun s e r code).mem = true := by
  simp [endRun, h]

@[simp] theorem chargeStart_mem (s : State) (e : Nat) (d : Desc) : (chargeStart s e d).mem = s.mem := by
  unfold chargeStart; split <;> simp

@[simp] theorem refuseOver_wf {s : State} (h : Memory.wf s.mem = true) (e : Nat) (d : Desc) :
    Memory.wf (refuseOver s e d).mem = true := by
  simp [refuseOver, h]

@[simp] theorem resumeRun_mem (s : State) (e : Nat) (r : Run) : (resumeRun s e r).mem = s.mem := by
  unfold resumeRun; simp only; (repeat' split) <;> simp

@[simp] theorem wakeEngine_mem (s : State) (e key page : Nat) : (wakeEngine s e key page).mem = s.mem := by
  rfl

@[simp] theorem failEngine_wf {s : State} (h : Memory.wf s.mem = true) (e key page code : Nat) :
    Memory.wf (failEngine s e key page code).mem = true := by
  unfold failEngine
  simp only [showParked_mem]
  exact foldl_wf (fun t x ht => finishRun_wf ht ..) _ h

/-! ### Sync units -/

@[simp] theorem wakeMet_mem (s : State) (obj : Nat) : (wakeMet s obj).mem = s.mem := by
  simp [wakeMet]

@[simp] theorem sqDoorbell_mem (s : State) (k prod : Nat) : (sqDoorbell s k prod).1.mem = s.mem := by
  unfold sqDoorbell; simp only; (repeat' split) <;> simp

@[simp] theorem syncDoorbells_mem (s : State) (obj : Nat) : (syncDoorbells s obj).mem = s.mem := by
  simp [syncDoorbells]

@[simp] theorem countChanged_mem (s : State) (obj : Nat) : (countChanged s obj).mem = s.mem := by
  simp [countChanged]

@[simp] theorem doSignal_mem (s : State) (obj n : Nat) : (doSignal s obj n).mem = s.mem := by
  unfold doSignal; simp only; (repeat' split) <;> simp

@[simp] theorem syncReturn_mem (s : State) (r : SyncReq) (f : Thread → Thread) : (syncReturn s r f).mem = s.mem := by
  unfold syncReturn; (repeat' split) <;> simp

@[simp] theorem recordWaiter_mem (s : State) (r : SyncReq) (v : Word) (expiry : Option (Nat × Nat)) (pd : Option Nat) :
    (recordWaiter s r v expiry pd).mem = s.mem := by
  unfold recordWaiter; (repeat' split) <;> simp

@[simp] theorem syncPerform_mem (s : State) (r : SyncReq) : (syncPerform s r).mem = s.mem := by
  unfold syncPerform; simp only; (repeat' split) <;> simp

@[simp] theorem syncServe_mem (s : State) (g : Nat) : (syncServe s g).mem = s.mem := by
  unfold syncServe; simp only; (repeat' split) <;> simp

@[simp] theorem waitTimeout_mem (s : State) (t : Th) : (waitTimeout s t).mem = s.mem := by
  unfold waitTimeout; (repeat' split) <;> simp

/-! ### The Ulent instructions -/

@[simp] theorem execAdd_keeps {s : State} (h : Memory.wf s.mem = true) (t : Th) (gd ga : Nat) (b : Opd) :
    Keeps (execAdd t gd ga b s) := by
  unfold execAdd
  refine keeps_next ?_
  refine issueAt_wf h _ _ fun u x p hu => ?_
  exact hu

@[simp] theorem execSub_keeps {s : State} (h : Memory.wf s.mem = true) (t : Th) (gd ga : Nat) (b : Opd) :
    Keeps (execSub t gd ga b s) := by
  unfold execSub
  refine keeps_next ?_
  refine issueAt_wf h _ _ fun u x p hu => ?_
  exact hu

@[simp] theorem execMul_keeps {s : State} (h : Memory.wf s.mem = true) (t : Th) (gd ga : Nat) (b : Opd) :
    Keeps (execMul t gd ga b s) := by
  unfold execMul
  refine keeps_next ?_
  refine issueAt_wf h _ _ fun u x p hu => ?_
  exact hu

@[simp] theorem execAnd_keeps {s : State} (h : Memory.wf s.mem = true) (t : Th) (gd ga : Nat) (b : Opd) :
    Keeps (execAnd t gd ga b s) := by
  unfold execAnd
  refine keeps_next ?_
  refine issueAt_wf h _ _ fun u x p hu => ?_
  exact hu

@[simp] theorem execOr_keeps {s : State} (h : Memory.wf s.mem = true) (t : Th) (gd ga : Nat) (b : Opd) :
    Keeps (execOr t gd ga b s) := by
  unfold execOr
  refine keeps_next ?_
  refine issueAt_wf h _ _ fun u x p hu => ?_
  exact hu

@[simp] theorem execXor_keeps {s : State} (h : Memory.wf s.mem = true) (t : Th) (gd ga : Nat) (b : Opd) :
    Keeps (execXor t gd ga b s) := by
  unfold execXor
  refine keeps_next ?_
  refine issueAt_wf h _ _ fun u x p hu => ?_
  exact hu

@[simp] theorem execShl_keeps {s : State} (h : Memory.wf s.mem = true) (t : Th) (gd ga : Nat) (b : Opd) :
    Keeps (execShl t gd ga b s) := by
  unfold execShl
  refine keeps_next ?_
  refine issueAt_wf h _ _ fun u x p hu => ?_
  exact hu

@[simp] theorem execShr_keeps {s : State} (h : Memory.wf s.mem = true) (t : Th) (gd ga : Nat) (b : Opd) :
    Keeps (execShr t gd ga b s) := by
  unfold execShr
  refine keeps_next ?_
  refine issueAt_wf h _ _ fun u x p hu => ?_
  exact hu

@[simp] theorem execSar_keeps {s : State} (h : Memory.wf s.mem = true) (t : Th) (gd ga : Nat) (b : Opd) :
    Keeps (execSar t gd ga b s) := by
  unfold execSar
  refine keeps_next ?_
  refine issueAt_wf h _ _ fun u x p hu => ?_
  exact hu

@[simp] theorem execCmp_keeps {s : State} (h : Memory.wf s.mem = true) (t : Th) (pd cond ga : Nat) (b : Opd) :
    Keeps (execCmp t pd cond ga b s) := by
  unfold execCmp
  refine keeps_next ?_
  refine issueAt_wf h _ _ fun u x p hu => ?_
  exact hu

@[simp] theorem execSel_keeps {s : State} (h : Memory.wf s.mem = true) (t : Th) (gd ga gb ps : Nat) :
    Keeps (execSel t gd ga gb ps s) := by
  unfold execSel
  refine keeps_next ?_
  refine issueAt_wf h _ _ fun u x p hu => ?_
  exact hu

@[simp] theorem execMov_keeps {s : State} (h : Memory.wf s.mem = true) (t : Th) (gd ga : Nat) :
    Keeps (execMov t gd ga s) := by
  unfold execMov
  refine keeps_next ?_
  refine issueAt_wf h _ _ fun u x p hu => ?_
  exact hu

@[simp] theorem execLi_keeps {s : State} (h : Memory.wf s.mem = true) (t : Th) (gd : Nat) (imm : BitVec 32) :
    Keeps (execLi t gd imm s) := by
  unfold execLi
  refine keeps_next ?_
  refine issueAt_wf h _ _ fun u x p hu => ?_
  exact hu

@[simp] theorem execLih_keeps {s : State} (h : Memory.wf s.mem = true) (t : Th) (gd : Nat) (imm : BitVec 32) :
    Keeps (execLih t gd imm s) := by
  unfold execLih
  refine keeps_next ?_
  refine issueAt_wf h _ _ fun u x p hu => ?_
  exact hu

@[simp] theorem jumpTo_mem (s : State) (t : Th) (f : Thread → Thread) (x : Thread) (p : Program) :
    (jumpTo t f s x p).mem = s.mem := by
  rfl

@[simp] theorem execBr_keeps {s : State} (h : Memory.wf s.mem = true) (t : Th) (off : BitVec 32) :
    Keeps (execBr t off s) := by
  unfold execBr
  refine keeps_next ?_
  refine issueAt_wf h _ _ fun u x p hu => ?_
  exact hu

@[simp] theorem execBrp_keeps {s : State} (h : Memory.wf s.mem = true) (t : Th) (ps : Nat) (sense : Bool)
    (off : BitVec 32) : Keeps (execBrp t ps sense off s) := by
  unfold execBrp
  refine keeps_next ?_
  refine issueAt_wf h _ _ fun u x p hu => ?_
  exact hu

@[simp] theorem execCall_keeps {s : State} (h : Memory.wf s.mem = true) (t : Th) (ga : Nat) (off : BitVec 32) :
    Keeps (execCall t ga off s) := by
  unfold execCall
  refine keeps_next ?_
  refine issueAt_wf h _ _ fun u x p hu => ?_
  exact hu

@[simp] theorem execRet_keeps {s : State} (h : Memory.wf s.mem = true) (t : Th) (ga : Nat) :
    Keeps (execRet t ga s) := by
  unfold execRet
  refine keeps_next ?_
  refine issueAt_wf h _ _ fun u x p hu => ?_
  exact hu

@[simp] theorem execLoop_keeps {s : State} (h : Memory.wf s.mem = true) (t : Th) (ga : Nat) (off : BitVec 32) :
    Keeps (execLoop t ga off s) := by
  unfold execLoop
  refine keeps_next ?_
  refine issueAt_wf h _ _ fun u x p hu => ?_
  exact hu

@[simp] theorem execHalt_keeps {s : State} (h : Memory.wf s.mem = true) (t : Th) : Keeps (execHalt t s) := by
  unfold execHalt
  refine keeps_next ?_
  refine issueAt_wf h _ _ fun u x p hu => ?_
  simp [hu]

@[simp] theorem freezeThread_mem (s : State) (t : Th) : (freezeThread s t).mem = s.mem := by
  unfold freezeThread; split <;> simp

@[simp] theorem preempt_mem (s : State) (t : Th) : (preempt s t).mem = s.mem := by
  unfold preempt; simp only; (repeat' split) <;> simp

@[simp] theorem execYield_keeps {s : State} (h : Memory.wf s.mem = true) (t : Th) : Keeps (execYield t s) := by
  unfold execYield
  refine keeps_next ?_
  refine issueAt_wf h _ _ fun u x p hu => ?_
  split <;> simp [hu]

@[simp] theorem execStep_keeps {s : State} (h : Memory.wf s.mem = true) (t : Th) : Keeps (execStep t s) := by
  unfold execStep
  refine keeps_next ?_
  refine issueAt_wf h _ _ fun u x p hu => ?_
  simp [hu]

@[simp] theorem execTrap_keeps {s : State} (h : Memory.wf s.mem = true) (t : Th) (code : Nat) :
    Keeps (execTrap t code s) := by
  unfold execTrap
  refine keeps_next ?_
  refine issueAt_wf h _ _ fun u x p hu => ?_
  simp [hu]

@[simp] theorem execUndefinedInstruction_keeps {s : State} (h : Memory.wf s.mem = true) (t : Th) (w : Word) :
    Keeps (execUndefinedInstruction t w s) := by
  unfold execUndefinedInstruction
  refine keeps_next ?_
  refine issueWord_wf h _ _ fun u x p hu => ?_
  simp [hu]

@[simp] theorem execDset_keeps {s : State} (h : Memory.wf s.mem = true) (t : Th) (dd w lo wid ga : Nat) :
    Keeps (execDset t dd w lo wid ga s) := by
  unfold execDset
  refine keeps_next ?_
  refine issueAt_wf h _ _ fun u x p hu => ?_
  exact hu

@[simp] theorem syncAsk_mem (s : State) (t : Th) (x : Thread) (obj : Nat) (ctx : Option Nat) (op : SyncOp) :
    (syncAsk s t x obj ctx op).mem = s.mem := by
  unfold syncAsk; split <;> simp

@[simp] theorem execLdSyncCount_keeps {s : State} (h : Memory.wf s.mem = true) (t : Th) (gd ga : Nat) (off : BitVec 32) :
    Keeps (execLdSyncCount t gd ga off s) := by
  unfold execLdSyncCount
  refine keeps_next ?_
  refine issueAt_wf h _ _ fun u x p hu => ?_
  split <;> simp [hu]

@[simp] theorem execLdFailureLatch_keeps {s : State} (h : Memory.wf s.mem = true) (t : Th) (gd ga : Nat)
    (off : BitVec 32) : Keeps (execLdFailureLatch t gd ga off s) := by
  unfold execLdFailureLatch
  refine keeps_next ?_
  refine issueAt_wf h _ _ fun u x p hu => ?_
  split <;> simp [hu]

@[simp] theorem execIssue_keeps {s : State} (h : Memory.wf s.mem = true) (t : Th) (dd : Nat) (er : Bool) (ga eng : Nat) :
    Keeps (execIssue t dd er ga eng s) := by
  unfold execIssue
  refine keeps_next ?_
  refine issueAt_wf h _ _ fun u x p hu => ?_
  simp [hu]

@[simp] theorem execIssuew_keeps {s : State} (h : Memory.wf s.mem = true) (t : Th) (gd dd : Nat) (er : Bool)
    (ga eng : Nat) : Keeps (execIssuew t gd dd er ga eng s) := by
  unfold execIssuew
  refine keeps_next ?_
  refine issueAt_wf h _ _ fun u x p hu => ?_
  simp [hu]

@[simp] theorem execSig_keeps {s : State} (h : Memory.wf s.mem = true) (t : Th) (ga gb idx : Nat) :
    Keeps (execSig t ga gb idx s) := by
  unfold execSig
  refine keeps_next ?_
  refine issueAt_wf h _ _ fun u x p hu => ?_
  simp [hu]

@[simp] theorem execWait_keeps {s : State} (h : Memory.wf s.mem = true) (t : Th) (ga gb idx : Nat) :
    Keeps (execWait t ga gb idx s) := by
  unfold execWait
  refine keeps_next ?_
  refine issueAt_wf h _ _ fun u x p hu => ?_
  simp [hu]

@[simp] theorem execWaitt_keeps {s : State} (h : Memory.wf s.mem = true) (t : Th) (pd ga gb idx ticks : Nat) :
    Keeps (execWaitt t pd ga gb idx ticks s) := by
  unfold execWaitt
  refine keeps_next ?_
  refine issueAt_wf h _ _ fun u x p hu => ?_
  simp [hu]

@[simp] theorem execArm_keeps {s : State} (h : Memory.wf s.mem = true) (t : Th) (ga gb idx : Nat) :
    Keeps (execArm t ga gb idx s) := by
  unfold execArm
  refine keeps_next ?_
  refine issueAt_wf h _ _ fun u x p hu => ?_
  simp [hu]

@[simp] theorem execTwait_keeps {s : State} (h : Memory.wf s.mem = true) (t : Th) (mode : Bool) (entry : Nat) :
    Keeps (execTwait t mode entry s) := by
  unfold execTwait
  refine keeps_next ?_
  refine issueAt_wf h _ _ fun u x p hu => ?_
  exact hu

@[simp] theorem execCqpost_keeps {s : State} (h : Memory.wf s.mem = true) (t : Th) (dd ga gb : Nat) (nf : Bool)
    (code : Nat) : Keeps (execCqpost t dd ga gb nf code s) := by
  unfold execCqpost
  refine keeps_next ?_
  refine issueAt_wf h _ _ fun u x p hu => ?_
  simp only
  (repeat' split) <;> simp [hu]

@[simp] theorem fenceBody_mem (s : State) (t : Th) (k : Nat) (x : Thread) (p : Program) :
    (fenceBody t k s x p).mem = s.mem := by
  unfold fenceBody; split <;> simp

@[simp] theorem execFenceE_keeps {s : State} (h : Memory.wf s.mem = true) (t : Th) : Keeps (execFenceE t s) := by
  unfold execFenceE
  refine keeps_next ?_
  refine issueAt_wf h _ _ fun u x p hu => ?_
  simp [hu]

@[simp] theorem execFenceF_keeps {s : State} (h : Memory.wf s.mem = true) (t : Th) : Keeps (execFenceF t s) := by
  unfold execFenceF
  refine keeps_next ?_
  refine issueAt_wf h _ _ fun u x p hu => ?_
  simp [hu]

@[simp] theorem execFenceH_keeps {s : State} (h : Memory.wf s.mem = true) (t : Th) : Keeps (execFenceH t s) := by
  unfold execFenceH
  refine keeps_next ?_
  refine issueAt_wf h _ _ fun u x p hu => ?_
  exact hu

@[simp] theorem execFenceConditionMet_keeps {s : State} (h : Memory.wf s.mem = true) (t : Th) :
    Keeps (execFenceConditionMet t s) := by
  unfold execFenceConditionMet
  refine keeps_next ?_
  refine inActive_wf h ?_
  (repeat' split) <;> simp [h]

@[simp] theorem execSeqStop_keeps {s : State} (h : Memory.wf s.mem = true) (d : Nat) (slots : BitVec 8) :
    Keeps (execSeqStop d slots s) := by
  refine keeps_next (regCmd_wf h ?_ _)
  split
  · exact h
  · refine foldl_wf (fun t k ht => ?_) _ h
    (repeat' split) <;> simp [ht]

@[simp] theorem execWaittTimeout_keeps {s : State} (h : Memory.wf s.mem = true) (t : Th) :
    Keeps (execWaittTimeout t s) := by
  unfold execWaittTimeout
  refine keeps_next ?_
  refine inActive_wf h ?_
  simp [h]

/-! ### Launches -/

@[simp] theorem refuseLaunch_mem (s : State) (r : LaunchReq) (no code : Nat) :
    (refuseLaunch s r no code).mem = s.mem := by
  unfold refuseLaunch; split <;> simp

@[simp] theorem queueLaunch_mem (s : State) (l : Launch) : (queueLaunch s l).mem = s.mem := by
  unfold queueLaunch; split <;> simp

@[simp] theorem readImage_wf2 {s : State} (h : Memory.wf s.mem = true) (r : LaunchReq) (no n : Nat) :
    Memory.wf (readImage s r no n).1.mem = true := by
  unfold readImage; split <;> simp [h, memRead_wf]

theorem readImage_of {s : State} {r : LaunchReq} {no n : Nat} {t : State} {y : Nat × List Byte}
    (h : Memory.wf s.mem = true) (e : readImage s r no n = (t, y)) : Memory.wf t.mem = true :=
  pair_wf e (readImage_wf2 h ..)

@[simp] theorem launchReq_wf {s : State} (h : Memory.wf s.mem = true) (r : LaunchReq) (no : Nat) :
    Memory.wf (launchReq s r no).mem = true := by
  unfold launchReq
  grind [queueLaunch_mem, → readImage_of, ← readImage_wf2, refuseLaunch_mem]

@[simp] theorem launchOrHold_wf {s : State} (h : Memory.wf s.mem = true) (r : LaunchReq) (no : Nat) :
    Memory.wf (launchOrHold s r no).mem = true := by
  unfold launchOrHold; (repeat' split) <;> simp [h]

@[simp] theorem execLaunchSlotsFree_keeps {s : State} (h : Memory.wf s.mem = true) (dom : Nat) :
    Keeps (execLaunchSlotsFree dom s) := by
  unfold execLaunchSlotsFree
  refine keeps_next ?_
  refine inActive_wf h ?_
  (repeat' split) <;> simp [h]

@[simp] theorem armRange_mem (s : State) (base n : Nat) : (armRange s base n).mem = s.mem := by
  fun_induction armRange s base n <;> simp_all

@[simp] theorem startProgram_mem (s : State) (l : Launch) : (startProgram s l).mem = s.mem := by
  unfold startProgram; split <;> simp

@[simp] theorem admitAll_mem (s : State) (l : List Launch) : (admitAll s l).mem = s.mem := by
  fun_induction admitAll s l <;> grind [refuseLaunch_mem, startProgram_mem]

@[simp] theorem admitDue_mem (s : State) : (admitDue s).mem = s.mem := by
  simp [admitDue]

/-! ### Register words -/

@[simp] theorem storeWord_mem (s : State) (r : RegRow) (off v : Nat) : (storeWord s r off v).mem = s.mem := by
  unfold storeWord; simp only; (repeat' split) <;> simp

@[simp] theorem writeWord_mem (s : State) (off v : Nat) : (writeWord s off v).mem = s.mem := by
  unfold writeWord; (repeat' split) <;> simp

@[simp] theorem State.keepLate_mem (s : State) (off : Nat) : (State.keepLate s off).mem = s.mem := by
  unfold State.keepLate; split <;> simp

@[simp] theorem writeLate_mem (s : State) (off v : Nat) : (writeLate s off v).mem = s.mem := by
  simp [writeLate]

@[simp] theorem State.count64_mem (s : State) (lo : RF) (n : Nat) : (State.count64 s lo n).mem = s.mem := by
  rfl

/-! ### Ports, links and pauses -/

@[simp] theorem countTx_mem (s : State) (n len : Nat) : (countTx s n len).mem = s.mem := by
  rfl

@[simp] theorem sendCtl_mem (s : State) (n enable time : Nat) : (sendCtl s n enable time).mem = s.mem := by
  rfl

@[simp] theorem ctlSend_mem (s : State) (n enable time : Nat) : (ctlSend s n enable time).mem = s.mem := by
  unfold ctlSend; (repeat' split) <;> simp

@[simp] theorem sendPfc_mem (s : State) (i c time : Nat) : (sendPfc s i c time).mem = s.mem := by
  unfold sendPfc; split <;> simp

@[simp] theorem pfcRise_mem (s : State) (i c : Nat) : (pfcRise s i c).mem = s.mem := by
  unfold pfcRise; simp only; (repeat' split) <;> simp

@[simp] theorem pfcFall_mem (s : State) (i c : Nat) : (pfcFall s i c).mem = s.mem := by
  unfold pfcFall; simp only; (repeat' split) <;> simp

/-! ### The time base -/

@[simp] theorem State.holdover_mem (s : State) : (State.holdover s).mem = s.mem := by
  unfold State.holdover; split <;> simp

@[simp] theorem State.setNs_mem (s : State) (ns : Nat) : (State.setNs s ns).mem = s.mem := by
  rfl

@[simp] theorem forgetForeign_mem (s : State) (p : Nat) : (forgetForeign s p).mem = s.mem := by
  unfold forgetForeign; split <;> simp

/-! ### Fault events, reactions and fences -/

@[simp] theorem sendFrame_mem (s : State) (n : Nat) (p : Packet) (good : Bool) :
    (sendFrame s n p good).mem = s.mem := by
  rfl

@[simp] theorem sendCut_mem (s : State) (n : Nat) (f : Frame) : (sendCut s n f).mem = s.mem := by
  rfl

@[simp] theorem linkGoesDown_mem (s : State) (n : Nat) : (linkGoesDown s n).mem = s.mem := by
  unfold linkGoesDown; simp only; (repeat' split) <;> simp

@[simp] theorem writeLife_mem (s : State) (m : Nat) : (writeLife s m).mem = s.mem := by
  unfold writeLife; simp only; (repeat' split) <;> simp

@[simp] theorem endAll_wf {s : State} (h : Memory.wf s.mem = true) (e code : Nat) :
    Memory.wf (endAll s e code).mem = true := by
  unfold endAll
  simp only [showParked_mem]
  refine foldl_wf (fun t x ht => finishNone_wf ht ..) _ ?_
  exact foldl_wf (fun t x ht => finishRun_wf ht ..) _ h

@[simp] theorem markEngFenced_mem (s : State) (e : Nat) (v : Bool) : (markEngFenced s e v).mem = s.mem := by
  unfold markEngFenced; split <;> simp

@[simp] theorem fenceEngine_wf {s : State} (h : Memory.wf s.mem = true) (e : Nat) :
    Memory.wf (fenceEngine s e).mem = true := by
  unfold fenceEngine; split <;> simp [h]

@[simp] theorem fencePort_mem (s : State) (n : Nat) : (fencePort s n).mem = s.mem := by
  unfold fencePort; split <;> simp

@[simp] theorem dropWaiters_mem (s : State) (d : Nat) : (dropWaiters s d).mem = s.mem := by
  rfl

@[simp] theorem fenceDomain_wf {s : State} (h : Memory.wf s.mem = true) (d : Nat) :
    Memory.wf (fenceDomain s d).mem = true := by
  have hf (l : List Nat) (t : State) (ht : Memory.wf t.mem = true) : Memory.wf (l.foldl (fun s k => fenceEngine s (4 * d + k)) t).mem = true :=
    foldl_wf (fun u k hu => fenceEngine_wf hu _) l ht
  have hp (l : List Program) (t : State) : (l.foldl (fun s p => completeProgram s p [] 0x7F 0 0) t).mem = t.mem :=
    foldl_mem (by intros; simp) l t
  have hl (l : List Launch) (t : State) : (l.foldl (fun s l => refuseLaunch s l.r l.p.no 0x7F) t).mem = t.mem :=
    foldl_mem (by intros; simp) l t
  unfold fenceDomain
  split
  · exact h
  · simp only [hl, hp, dropWaiters_mem]
    exact hf _ _ h

@[simp] theorem fenceStack_mem (s : State) (k : Nat) : (fenceStack s k).mem = s.mem := by
  rfl

@[simp] theorem fenceDie_mem (s : State) (i : Nat) : (fenceDie s i).mem = s.mem := by
  unfold fenceDie; split <;> simp

@[simp] theorem fenceBay_mem (s : State) (m : Nat) : (fenceBay s m).mem = s.mem := by
  unfold fenceBay; simp only; (repeat' split) <;> simp

@[simp] theorem fenceUnit_wf {s : State} (h : Memory.wf s.mem = true) (u : FUnit) :
    Memory.wf (fenceUnit s u).mem = true := by
  cases u with
  | domain d => exact fenceDomain_wf (s := { s with fc := { s.fc with degraded := true } }) h d
  | engine e => exact fenceEngine_wf (s := { s with fc := { s.fc with degraded := true } }) h e
  | port n => exact (fencePort_mem ..).symm ▸ h
  | ioDie i => exact (fenceDie_mem ..).symm ▸ h
  | stack k => exact (fenceStack_mem ..).symm ▸ h
  | bay m => exact (fenceBay_mem ..).symm ▸ h

@[simp] theorem hostError_mem (s : State) (h : Nat) : (hostError s h).mem = s.mem := by
  unfold hostError; simp only; (repeat' split) <;> simp

@[simp] theorem enterSafe_mem (s : State) (src : Nat) : (enterSafe s src).mem = s.mem := by
  unfold enterSafe; split <;> simp

@[simp] theorem react_wf {s : State} (h : Memory.wf s.mem = true) (src unit : Nat) :
    Memory.wf (react s src unit).mem = true := by
  unfold react; (repeat' split) <;> simp [h]

@[simp] theorem setActive_mem (s : State) (src : Nat) (v : Bool) : (setActive s src v).mem = s.mem := by
  unfold setActive; split <;> simp

@[simp] theorem sendArmed_mem (s : State) : (sendArmed s).mem = s.mem := by
  unfold sendArmed; split <;> simp

@[simp] theorem collect_wf {s : State} (h : Memory.wf s.mem = true) (src unit detail : Nat) (forced : Bool) :
    Memory.wf (collect s src unit detail forced).mem = true := by
  unfold collect; simp only; (repeat' split) <;> simp [h]

@[simp] theorem settle_wf {s : State} (h : Memory.wf s.mem = true) : Memory.wf (settle s).mem = true := by
  unfold settle
  split
  · exact h
  · refine foldl_wf (fun t k ht => ?_) _ h
    refine foldl_wf (fun u e hu => ?_) _ ht
    split
    · exact collect_wf hu ..
    · exact hu

/-! ### The collector's commands -/

@[simp] theorem execFaultEvent_keeps {s : State} (h : Memory.wf s.mem = true) (src unit detail : Nat) :
    Keeps (execFaultEvent src unit detail s) := by
  unfold execFaultEvent
  refine keeps_next ?_
  (repeat' split) <;> simp [h]

@[simp] theorem clearSource_mem (s : State) (src : Nat) : (clearSource s src).mem = s.mem := by
  simp [clearSource]

@[simp] theorem execQuietPeriodExpiry_keeps {s : State} (h : Memory.wf s.mem = true) (src : Nat) :
    Keeps (execQuietPeriodExpiry src s) := by
  unfold execQuietPeriodExpiry
  refine keeps_next ?_
  split <;> simp [h]

@[simp] theorem execStrikeTimerExpiry_keeps {s : State} (h : Memory.wf s.mem = true) (e : Nat) :
    Keeps (execStrikeTimerExpiry e s) := by
  unfold execStrikeTimerExpiry
  refine keeps_next ?_
  (repeat' split) <;> simp [h]

@[simp] theorem execFcolEvtClear_keeps {s : State} (h : Memory.wf s.mem = true) (src seq : Nat) :
    Keeps (execFcolEvtClear src seq s) := by
  refine keeps_next ?_
  split
  · exact h
  · refine regCmd_wf h ?_ _
    split <;> simp [h]

@[simp] theorem forceOne_wf {s : State} (h : Memory.wf s.mem = true) (src : Nat) :
    Memory.wf (forceOne s src).mem = true := by
  unfold forceOne; simp only; (repeat' split) <;> simp [h]

@[simp] theorem execFcolForce_keeps {s : State} (h : Memory.wf s.mem = true) (lo hi : Word32) :
    Keeps (execFcolForce lo hi s) :=
  keeps_next (regCmd_wf h (foldl_wf (fun _ k ht => forceOne_wf ht k) _ h) _)

@[simp] theorem execFcolArm_keeps {s : State} (h : Memory.wf s.mem = true) : Keeps (execFcolArm s) := by
  unfold execFcolArm
  refine keeps_next ?_
  refine regCmd_wf h ?_ _
  exact h

@[simp] theorem execFcolUnfence_keeps {s : State} (h : Memory.wf s.mem = true) (kind unit : Nat) :
    Keeps (execFcolUnfence kind unit s) := by
  unfold execFcolUnfence
  refine keeps_next ?_
  refine regCmd_wf h ?_ _
  (repeat' split) <;> simp [h]

@[simp] theorem liftEngine_mem (s : State) (e : Nat) : (liftEngine s e).mem = s.mem := by
  unfold liftEngine; (repeat' split) <;> simp

@[simp] theorem liftPort_mem (s : State) (n : Nat) : (liftPort s n).mem = s.mem := by
  rfl

@[simp] theorem liftMember_mem (s : State) (n : Nat) : (liftMember s n).mem = s.mem := by
  unfold liftMember; split <;> simp

@[simp] theorem liftBay_mem (s : State) (m : Nat) : (liftBay s m).mem = s.mem := by
  simp [liftBay]

@[simp] theorem liftUnit_mem (s : State) (x : FUnit) : (liftUnit s x).mem = s.mem := by
  unfold liftUnit
  split
  case h_2 d => exact foldl_mem (fun t k => by split <;> simp) (List.range 4) _
  case h_4 i => exact foldl_mem (fun t k => by simp) (diePorts s i) _
  all_goals simp

@[simp] theorem unfenceDone_mem (s : State) : (unfenceDone s).mem = s.mem := by
  rfl

@[simp] theorem execUnfenceEffect_keeps {s : State} (h : Memory.wf s.mem = true) : Keeps (execUnfenceEffect s) := by
  unfold execUnfenceEffect
  refine keeps_next ?_
  (repeat' split) <;> simp [h, refillBank_wf]

@[simp] theorem execDomainRefillDone_keeps {s : State} (h : Memory.wf s.mem = true) :
    Keeps (execDomainRefillDone s) := by
  unfold execDomainRefillDone
  refine keeps_next ?_
  (repeat' split) <;> simp [h]

/-! ### The egress side of the port switch -/

@[simp] theorem ceMark_mem (s : State) (e c q : Nat) : (ceMark s e c q).1.mem = s.mem := by
  unfold ceMark; simp only; (repeat' split) <;> simp

@[simp] theorem putFrame_mem (s : State) (e : Nat) (f : Frame) : (putFrame s e f).mem = s.mem := by
  unfold putFrame; simp only; (repeat' split) <;> simp

@[simp] theorem enqueue_mem (s : State) (e : Nat) (f : Frame) : (enqueue s e f).mem = s.mem := by
  unfold enqueue; simp only; (repeat' split) <;> simp

@[simp] theorem admitWaiting_mem (s : State) (e : Nat) (kept : List Frame) (l : List Frame) :
    (admitWaiting s e kept l).1.mem = s.mem := by
  fun_induction admitWaiting s e kept l <;> simp_all

@[simp] theorem enqueueAll_mem (s : State) (e : Nat) (fs : List Frame) : (enqueueAll s e fs).mem = s.mem := by
  unfold enqueueAll; split <;> simp

@[simp] theorem sendLocal_mem (s : State) (p : Packet) (requester : Nat) : (sendLocal s p requester).mem = s.mem := by
  unfold sendLocal; simp only; (repeat' split) <;> simp

@[simp] theorem showPaused_mem (s : State) (n : Nat) : (showPaused s n).mem = s.mem := by
  rfl

@[simp] theorem accrue_mem (s : State) (n ns : Nat) : (accrue s n ns).mem = s.mem := by
  rfl

@[simp] theorem dropOversize_mem (s : State) (n c fuel : Nat) : (dropOversize s n c fuel).mem = s.mem := by
  fun_induction dropOversize s n c fuel <;> simp_all

@[simp] theorem sendPtp_mem (s : State) (n kind : Nat) : (sendPtp s n kind).mem = s.mem := by
  unfold sendPtp; split <;> simp

@[simp] theorem State.ptpSend_mem (s : State) (n kind : Nat) : (State.ptpSend s n kind).mem = s.mem := by
  unfold State.ptpSend; (repeat' split) <;> simp

@[simp] theorem sendAnnounce_mem (s : State) (n : Nat) (o : Output) : (sendAnnounce s n o).mem = s.mem := by
  unfold sendAnnounce; split <;> simp

@[simp] theorem boundaryFrames_mem (s : State) (n : Nat) : (boundaryFrames s n).mem = s.mem := by
  unfold boundaryFrames; simp only; (repeat' split) <;> simp

@[simp] theorem endFrame_mem (s : State) (n : Nat) (good : Bool) : (endFrame s n good).mem = s.mem := by
  unfold endFrame; (repeat' split) <;> simp

@[simp] theorem startFrame_mem (s : State) (n c : Nat) : (startFrame s n c).mem = s.mem := by
  unfold startFrame; split <;> simp

@[simp] theorem startClasses_mem (s : State) (n ns : Nat) (cs : List Nat) : (startClasses s n ns cs).mem = s.mem := by
  induction cs generalizing s with
  | nil => rfl
  | cons c cs ih =>
    unfold startClasses
    simp only
    split
    · exact ih s
    · split
      · exact ih s
      · split
        · simp
        · rw [ih]; split <;> simp

/-! ### Port commands -/

@[simp] theorem noteRefusal_mem (s : State) (i cause e hop : Nat) : (noteRefusal s i cause e hop).mem = s.mem := by
  rfl

@[simp] theorem refuseFrame_mem (s : State) (p : Packet) (i cause e : Nat) :
    (refuseFrame s p i cause e).mem = s.mem := by
  unfold refuseFrame; (repeat' split) <;> simp

@[simp] theorem stomp_mem (s : State) (e : Nat) (f : Frame) : (stomp s e f).mem = s.mem := by
  unfold stomp; split <;> simp

@[simp] theorem switchFrame_mem (s : State) (i : Nat) (p : Packet) (good : Bool) :
    (switchFrame s i p good).1.mem = s.mem := by
  unfold switchFrame; simp only; (repeat' split) <;> simp

@[simp] theorem receiveFrame_mem (s : State) (x : RxArrival) (lost : Bool) : (receiveFrame s x lost).1.mem = s.mem := by
  unfold receiveFrame
  grind [State.count64_mem, switchFrame_mem, State.count_mem, State.set_mem, State.bump_mem]

@[simp] theorem receiveFrames_mem (s : State) (xs : List RxArrival) : (receiveFrames s xs).mem = s.mem := by
  have hr : ∀ a : State × List (Nat × Frame), a.1.mem = s.mem → ∀ x,
      ((match receiveFrame a.1 x false with | (s, some y) => (s, a.2 ++ [y]) | (s, none) => (s,
          a.2)) : State × List (Nat × Frame)).1.mem = s.mem := by
    intro a ha x
    have hx := (receiveFrame_mem a.1 x false).trans ha
    split <;> (rename_i heq; rw [heq] at hx; exact hx)
  unfold receiveFrames
  refine (foldl_mem (fun t e => by simp) _ _).trans ?_
  exact foldl_keeps (P := fun a : State × List (Nat × Frame) => a.1.mem = s.mem) (fun a x ha => hr a ha x) xs rfl

@[simp] theorem execFrameReceived_keeps {s : State} (h : Memory.wf s.mem = true) (x : RxArrival) (also : List RxArrival) :
    Keeps (execFrameReceived x also s) := by
  unfold execFrameReceived
  refine keeps_next ?_
  simp [h]

@[simp] theorem execEgressBufferRoom_keeps {s : State} (h : Memory.wf s.mem = true) (n : Nat) :
    Keeps (execEgressBufferRoom n s) := by
  unfold execEgressBufferRoom
  refine keeps_next ?_
  refine inActive_wf h ?_
  split <;> simp [h]

@[simp] theorem execEgressFrameStart_keeps {s : State} (h : Memory.wf s.mem = true) (n ns : Nat) :
    Keeps (execEgressFrameStart n ns s) := by
  unfold execEgressFrameStart
  refine keeps_next ?_
  refine inActive_wf h ?_
  simp only
  (repeat' split) <;> simp [h]

@[simp] theorem resetStart_mem (s : State) (n : Nat) : (resetStart s n).mem = s.mem := by
  rfl

@[simp] theorem execLinkUp_keeps {s : State} (h : Memory.wf s.mem = true) (n : Nat) : Keeps (execLinkUp n s) := by
  unfold execLinkUp
  refine keeps_next ?_
  split <;> simp [h]

@[simp] theorem execLinkDown_keeps {s : State} (h : Memory.wf s.mem = true) (n : Nat) : Keeps (execLinkDown n s) := by
  unfold execLinkDown
  refine keeps_next ?_
  split <;> simp [h]

@[simp] theorem portCfgWrite_mem (s : State) (n v : Nat) : (portCfgWrite s n v).mem = s.mem := by
  unfold portCfgWrite; simp only; (repeat' split) <;> simp

@[simp] theorem execPortCfgWrite_keeps {s : State} (h : Memory.wf s.mem = true) (n : Nat) (v : Word32) :
    Keeps (execPortCfgWrite n v s) := by
  unfold execPortCfgWrite
  refine keeps_next ?_
  refine regCmd_wf h ?_ _
  simp [h]

@[simp] theorem execTxUnderrun_keeps {s : State} (h : Memory.wf s.mem = true) (n : Nat) :
    Keeps (execTxUnderrun n s) := by
  unfold execTxUnderrun
  refine keeps_next ?_
  refine inActive_wf h ?_
  simp only
  (repeat' split) <;> simp [h]

@[simp] theorem execRxOverflow_keeps {s : State} (h : Memory.wf s.mem = true) (x : RxArrival) :
    Keeps (execRxOverflow x s) := by
  unfold execRxOverflow
  refine keeps_next ?_
  refine inActive_wf h ?_
  simp [h]

@[simp] theorem execPauseRx_keeps {s : State} (h : Memory.wf s.mem = true) (n quanta : Nat) :
    Keeps (execPauseRx n quanta s) := by
  unfold execPauseRx
  refine keeps_next ?_
  simp only
  (repeat' split) <;> simp [h]

@[simp] theorem pfcClass_mem (s : State) (n c q : Nat) : (pfcClass s n c q).mem = s.mem := by
  unfold pfcClass; simp only; (repeat' split) <;> simp

@[simp] theorem execPfcRx_keeps {s : State} (h : Memory.wf s.mem = true) (n : Nat) (enable : BitVec 8)
    (quanta : List Nat) : Keeps (execPfcRx n enable quanta s) := by
  unfold execPfcRx
  refine keeps_next ?_
  simp only
  (repeat' split) <;> simp [h]

@[simp] theorem execPauseExpiry_keeps {s : State} (h : Memory.wf s.mem = true) (n : Nat) (cls : Option Nat) :
    Keeps (execPauseExpiry n cls s) := by
  unfold execPauseExpiry
  refine keeps_next ?_
  (repeat' split) <;> simp [h]

@[simp] theorem execPauseWatchdogExpiry_keeps {s : State} (h : Memory.wf s.mem = true) (n cls : Nat) :
    Keeps (execPauseWatchdogExpiry n cls s) := by
  unfold execPauseWatchdogExpiry
  refine keeps_next ?_
  split <;> simp [h]

@[simp] theorem execPauseWatchdogIgnoreEnd_keeps {s : State} (h : Memory.wf s.mem = true) (n cls : Nat) :
    Keeps (execPauseWatchdogIgnoreEnd n cls s) := by
  unfold execPauseWatchdogIgnoreEnd
  refine keeps_next ?_
  split <;> simp [h]

@[simp] theorem execPfcResendTimer_keeps {s : State} (h : Memory.wf s.mem = true) (n cls : Nat) :
    Keeps (execPfcResendTimer n cls s) := by
  unfold execPfcResendTimer
  refine keeps_next ?_
  (repeat' split) <;> simp [h]

/-! ### Bays -/

@[simp] theorem bayPortsDown_mem (s : State) (m : Nat) : (bayPortsDown s m).mem = s.mem := by
  simp [bayPortsDown]

@[simp] theorem execLatchOpen_keeps {s : State} (h : Memory.wf s.mem = true) (m : Nat) : Keeps (execLatchOpen m s) := by
  unfold execLatchOpen
  refine keeps_next ?_
  grind [State.raise_mem, State.set_mem, State.setBay_mem, State.setReg_mem, bayPortsDown_mem, lbEvent_mem, ← settle_wf]

@[simp] theorem execLatchClose_keeps {s : State} (h : Memory.wf s.mem = true) (m : Nat) :
    Keeps (execLatchClose m s) := by
  unfold execLatchClose
  refine keeps_next ?_
  simp only
  (repeat' split) <;> simp [h]

@[simp] theorem refuseCartridge_mem (s : State) (m last : Nat) : (refuseCartridge s m last).mem = s.mem := by
  rfl

@[simp] theorem acceptCartridge_mem (s : State) (m : Nat) (c : Cartridge) : (acceptCartridge s m c).mem = s.mem := by
  rfl

@[simp] theorem showCartridge_mem (s : State) (m : Nat) (c : Cartridge) : (showCartridge s m c).mem = s.mem := by
  rfl

@[simp] theorem execCartridgeIdentified_keeps {s : State} (h : Memory.wf s.mem = true) (m : Nat) (c : Cartridge) :
    Keeps (execCartridgeIdentified m c s) := by
  unfold execCartridgeIdentified
  refine keeps_next ?_
  simp only
  (repeat' split) <;> simp [h]

@[simp] theorem lbQuiesce_mem (s : State) (m : Nat) : (lbQuiesce s m).mem = s.mem := by
  unfold lbQuiesce
  split
  · rfl
  · split
    · rfl
    · exact lbEvent_mem ..

@[simp] theorem lbResume_mem (s : State) (m : Nat) : (lbResume s m).mem = s.mem := by
  unfold lbResume
  split
  · rfl
  · split
    · rfl
    · exact lbEvent_mem ..

@[simp] theorem execLbQuiesce_keeps {s : State} (h : Memory.wf s.mem = true) (m : Nat) : Keeps (execLbQuiesce m s) := by
  unfold execLbQuiesce
  refine keeps_next ?_
  refine regCmd_wf h ?_ _
  simp [h]

@[simp] theorem execLbResume_keeps {s : State} (h : Memory.wf s.mem = true) (m : Nat) : Keeps (execLbResume m s) := by
  unfold execLbResume
  refine keeps_next ?_
  refine regCmd_wf h ?_ _
  simp [h]

@[simp] theorem execQuiesceComplete_keeps {s : State} (h : Memory.wf s.mem = true) (m : Nat) :
    Keeps (execQuiesceComplete m s) := by
  unfold execQuiesceComplete
  refine keeps_next ?_
  grind [State.set_mem, State.setBay_mem, State.setReg_mem, bayPortsDown_mem, lbEvent_mem, writeLife_mem]

theorem lifeEvent_mem (s t : State) (f : RF) (m n : Nat) (c : Bool) (h : t.mem = s.mem) :
    (if c = true then (lbEvent (t.set f 1) m n).raise 24 m n else t).mem = s.mem := by
  split
  · rw [State.raise_mem, lbEvent_mem, State.set_mem, h]
  · exact h

@[simp] theorem lifeEvents_mem (s : State) (m r : Nat) : (lifeEvents s m r).mem = s.mem := by
  unfold lifeEvents
  exact lifeEvent_mem s _ _ _ _ _ (lifeEvent_mem s s _ _ _ _ rfl)

@[simp] theorem execLifeMinute_keeps {s : State} (h : Memory.wf s.mem = true) (m fraction : Nat) :
    Keeps (execLifeMinute m fraction s) := by
  unfold execLifeMinute
  refine keeps_next ?_
  (repeat' split) <;> simp [h]

@[simp] theorem execLifeAreaWrite_keeps {s : State} (h : Memory.wf s.mem = true) (m : Nat) :
    Keeps (execLifeAreaWrite m s) := by
  unfold execLifeAreaWrite
  refine keeps_next ?_
  split <;> simp [h]

/-! ### The crossbar, completion of descriptors -/

@[simp] theorem xbarDeliver_mem (s : State) (e : Nat) : (xbarDeliver s e).mem = s.mem := by
  unfold xbarDeliver; simp only; (repeat' split) <;> simp

@[simp] theorem execXbarDeliver_keeps {s : State} (h : Memory.wf s.mem = true) (e : Nat) :
    Keeps (execXbarDeliver e s) := by
  unfold execXbarDeliver
  refine keeps_next ?_
  refine inActive_wf h ?_
  simp [h]

@[simp] theorem threadDone_mem (s : State) (d : Desc) (code : Nat) : (threadDone s d code).mem = s.mem := by
  unfold threadDone; simp only; (repeat' split) <;> simp

@[simp] theorem signalDone_mem (s : State) (d : Desc) (code : Nat) : (signalDone s d code).mem = s.mem := by
  unfold signalDone; (repeat' split) <;> simp

@[simp] theorem recordDone_mem (s : State) (d : Desc) (code : Nat) : (recordDone s d code).mem = s.mem := by
  simp [recordDone]

@[simp] theorem completeOne_mem (s : State) : (completeOne s).mem = s.mem := by
  unfold completeOne; split <;> simp

/-! ### Reduction engines -/

@[simp] theorem readMany_wf {s : State} (h : Memory.wf s.mem = true) (w : Who) (req ctx no : Nat) (l : List (Nat × Nat)) :
    Memory.wf (readMany s w req ctx no l).1.mem = true := by
  fun_induction readMany s w req ctx no l <;> grind [→ readOp_of, ← readOp_wf]

theorem readMany_of {s : State} {w : Who} {req ctx no : Nat} {l : List (Nat × Nat)} {t : State}
    {y : Got × List (List Byte)} (h : Memory.wf s.mem = true) (e : readMany s w req ctx no l = (t, y)) :
    Memory.wf t.mem = true :=
  pair_wf e (readMany_wf h ..)

@[simp] theorem readStored_wf {s : State} (h : Memory.wf s.mem = true) (req ctx no : Nat) (ps : List (Nat × Nat)) :
    Memory.wf (storedOk.readStored req ctx no s ps).1.mem = true := by
  induction ps generalizing s with
  | nil => exact h
  | cons p ps ih =>
    unfold storedOk.readStored
    split
    · split
      · exact h
      · split
        · exact ih h
        · split
          · exact ih (tileCheck_of h ‹_›)
          · exact State.tileCheck_wf h ..
    · exact h

@[simp] theorem storedOk_wf {s : State} (h : Memory.wf s.mem = true) (req ctx no : Nat) (ps : List (Nat × List Byte)) :
    Memory.wf (storedOk s req ctx no ps).1.mem = true := by
  induction ps generalizing s with
  | nil => exact h
  | cons p ps ih =>
    have hr := readStored_wf h req ctx no (cutRange p.1 p.2.length)
    unfold storedOk
    split
    · exact h
    · split <;> (rename_i heq; rw [heq] at hr)
      · exact ih hr
      · exact hr

theorem storedOk_of {s t : State} {req ctx no : Nat} {ps : List (Nat × List Byte)} {y : Got}
    (h : Memory.wf s.mem = true) (e : storedOk s req ctx no ps = (t, y)) : Memory.wf t.mem = true :=
  pair_wf e (storedOk_wf h ..)

@[simp] theorem writeFree_wf {s : State} (h : Memory.wf s.mem = true) (req ctx no : Nat) (rs : List (Nat × Nat))
    (l : List (Nat × List Byte)) : Memory.wf (writeFree s req ctx no rs l).mem = true := by
  fun_induction writeFree s req ctx no rs l <;> grind [freeBytes_mem, → writeOp_of, ← writeOp_wf]

@[simp] theorem redMismatch_wf {s : State} (h : Memory.wf s.mem = true) (e : Nat) (r : Run) (residue : Bool) :
    Memory.wf (redMismatch s e r residue).mem = true := by
  unfold redMismatch; simp only; (repeat' split) <;> simp [h]

@[simp] theorem redStart_wf {s : State} (h : Memory.wf s.mem = true) (e : Nat) (d : Desc) :
    Memory.wf (redStart s e d).mem = true := by
  unfold redStart
  grind [→ readOp_of, ← readOp_wf, recordFails_mem, ← refuseTaken_wf, State.count_mem, State.setEngine_mem]

@[simp] theorem remStart_mem (s : State) (e : Nat) (r : Run) : (remStart s e r).mem = s.mem := by
  rfl

@[simp] theorem execRedDescriptorStart_keeps {s : State} (h : Memory.wf s.mem = true) (e : Nat) :
    Keeps (execRedDescriptorStart e s) := by
  unfold execRedDescriptorStart
  refine keeps_next ?_
  refine inActive_wf h ?_
  (repeat' split) <;> simp [h]

@[simp] theorem redRelease_wf {s : State} (h : Memory.wf s.mem = true) (e : Nat) (r : Run) (chk : RedCheck) :
    Memory.wf (redRelease s e r chk).mem = true := by
  unfold redRelease
  grind [← endRun_wf, ← parkRun_wf, → readMany_of, ← readMany_wf, ← redMismatch_wf, → storedOk_of, ← writeFree_wf,
      State.count_mem, State.setEngine_mem]

@[simp] theorem execRedTileRelease_keeps {s : State} (h : Memory.wf s.mem = true) (e : Nat) (chk : RedCheck) :
    Keeps (execRedTileRelease e chk s) := by
  unfold execRedTileRelease
  refine keeps_next ?_
  refine inActive_wf h ?_
  (repeat' split) <;> simp [h]

@[simp] theorem execRedRemainderDelivered_keeps {s : State} (h : Memory.wf s.mem = true) (e : Nat) :
    Keeps (execRedRemainderDelivered e s) := by
  unfold execRedRemainderDelivered
  refine keeps_next ?_
  refine inActive_wf h ?_
  simp only
  (repeat' split) <;> simp [h]

/-! ### Cipher engines -/

@[simp] theorem ceMismatch_mem (s : State) (e pipe : Nat) : (ceMismatch s e pipe).mem = s.mem := by
  rfl

@[simp] theorem ceRelease_wf {s : State} (h : Memory.wf s.mem = true) (e : Nat) (bad : Option Nat) (fuel : Nat)
    (r : Run) : Memory.wf (ceRelease s e bad fuel r).1.mem = true := by
  fun_induction ceRelease s e bad fuel r <;> grind [ceMismatch_mem, freeBytes_mem, → readOp_of, ← readOp_wf, → writeOp_of, ← writeOp_wf]

theorem ceRelease_of {s : State} {e : Nat} {bad : Option Nat} {fuel : Nat} {r : Run} {t : State} {y : Run × Option Got}
    (h : Memory.wf s.mem = true) (e : ceRelease s e bad fuel r = (t, y)) : Memory.wf t.mem = true :=
  pair_wf e (ceRelease_wf h ..)

@[simp] theorem ceStop_wf {s : State} (h : Memory.wf s.mem = true) (e : Nat) (r : Run) (g : Got) :
    Memory.wf (ceStop s e r g).mem = true := by
  unfold ceStop; split <;> simp [h]

@[simp] theorem ceAuthFail_wf {s : State} (h : Memory.wf s.mem = true) (e : Nat) (r : Run) :
    Memory.wf (ceAuthFail s e r).mem = true := by
  simp [ceAuthFail, h]

@[simp] theorem ceFinish_wf {s : State} (h : Memory.wf s.mem = true) (e : Nat) (r : Run) (bad : Option Nat) :
    Memory.wf (ceFinish s e r bad).mem = true := by
  unfold ceFinish
  grind [← ceAuthFail_wf, → ceRelease_of, ← ceRelease_wf, ← ceStop_wf, ← endRun_wf, ← writeRec_wf]

@[simp] theorem ceRun_wf {s : State} (h : Memory.wf s.mem = true) (e : Nat) (r : Run) (bad : Option Nat) :
    Memory.wf (ceRun s e r bad).mem = true := by
  unfold ceRun
  grind [← ceAuthFail_wf, ← ceFinish_wf, ceMismatch_mem, ← ceStop_wf, ← endRun_wf, → readOp_of, ← readOp_wf]

@[simp] theorem ceStart_wf {s : State} (h : Memory.wf s.mem = true) (e : Nat) (d : Desc) (bad : Option Nat) :
    Memory.wf (ceStart s e d bad).mem = true := by
  unfold ceStart
  grind [← ceRun_wf, → readOp_of, ← readOp_wf, recordFails_mem, ← refuseTaken_wf, State.count_mem]

@[simp] theorem cePipe_wf {s : State} (h : Memory.wf s.mem = true) (e : Nat) (dir : Bool) (bad : Option Nat) :
    Memory.wf (cePipe s e dir bad).mem = true := by
  unfold cePipe; simp only; (repeat' split) <;> simp [h]

@[simp] theorem execCeEncrypt_keeps {s : State} (h : Memory.wf s.mem = true) (e : Nat) (mismatch : Option Nat) :
    Keeps (execCeEncrypt e mismatch s) := by
  unfold execCeEncrypt
  refine keeps_next ?_
  refine inActive_wf h ?_
  simp [h]

@[simp] theorem execCeDecrypt_keeps {s : State} (h : Memory.wf s.mem = true) (e : Nat) (mismatch : Option Nat) :
    Keeps (execCeDecrypt e mismatch s) := by
  unfold execCeDecrypt
  refine keeps_next ?_
  refine inActive_wf h ?_
  simp [h]

/-! ### Segments, windows and keys -/

@[simp] theorem showPending_mem (s : State) (b : Blk) : (showPending s b).mem = s.mem := by
  rfl

@[simp] theorem sqComplete_mem (s : State) (ctx q : Nat) (e : List Byte) (no : Option Nat) :
    (sqComplete s ctx q e no).mem = s.mem := by
  unfold sqComplete; simp only; (repeat' split) <;> simp

@[simp] theorem ctlDone_mem (s : State) (c : CtlEntry) (code r : Nat) : (ctlDone s c code r).mem = s.mem := by
  simp [ctlDone]

@[simp] theorem cmdDone_mem (s : State) (b : Blk) (entry : Option CtlEntry) (r : Nat) :
    (cmdDone s b entry r).mem = s.mem := by
  unfold cmdDone; split <;> simp

@[simp] theorem cmdPend_mem (s : State) (p : Pending) : (cmdPend s p).mem = s.mem := by
  rfl

@[simp] theorem cmdEnd_mem (s : State) (p : Pending) (r : Nat) : (cmdEnd s p r).mem = s.mem := by
  simp [cmdEnd]

@[simp] theorem ctlRead_wf {s : State} (h : Memory.wf s.mem = true) (ctx no a : Nat) :
    Memory.wf (ctlRead s ctx no a).1.mem = true := by
  unfold ctlRead
  grind [→ readOp_of, ← readOp_wf]

theorem ctlRead_of {s : State} {ctx no a : Nat} {t : State} {y : Option (BitVec 512)} (h : Memory.wf s.mem = true)
    (e : ctlRead s ctx no a = (t, y)) : Memory.wf t.mem = true :=
  pair_wf e (ctlRead_wf h ..)

@[simp] theorem ctlWrite_wf {s : State} (h : Memory.wf s.mem = true) (ctx no a v : Nat) :
    Memory.wf (ctlWrite s ctx no a v).1.mem = true := by
  unfold ctlWrite
  grind [→ writeOp_of, ← writeOp_wf]

theorem ctlWrite_of {s : State} {ctx no a v : Nat} {t : State} {y : Bool} (h : Memory.wf s.mem = true)
    (e : ctlWrite s ctx no a v = (t, y)) : Memory.wf t.mem = true :=
  pair_wf e (ctlWrite_wf h ..)

@[simp] theorem readOut_wf {s : State} (h : Memory.wf s.mem = true) (b : Blk) (entry : Option CtlEntry)
    (off n addr v : Nat) : Memory.wf (readOut s b entry off n addr v).mem = true := by
  unfold readOut
  grind [State.setWords_mem, cmdDone_mem, → ctlWrite_of, ← ctlWrite_wf]

@[simp] theorem segSetCore_mem (s : State) (entry : Option CtlEntry) (ctx idx : Nat) (e : BitVec 512) :
    (segSetCore s entry ctx idx e).mem = s.mem := by
  unfold segSetCore; (repeat' split) <;> simp

@[simp] theorem dropSeg_mem (s : State) (key : Nat) : (dropSeg s key).mem = s.mem := by
  rfl

@[simp] theorem segRemoveCore_mem (s : State) (entry : Option CtlEntry) (ctx idx : Nat) :
    (segRemoveCore s entry ctx idx).mem = s.mem := by
  unfold segRemoveCore; (repeat' split) <;> simp

@[simp] theorem segReadCore_wf {s : State} (h : Memory.wf s.mem = true) (entry : Option CtlEntry) (ctx idx addr : Nat) :
    Memory.wf (segReadCore s entry ctx idx addr).mem = true := by
  unfold segReadCore; (repeat' split) <;> simp [h]

@[simp] theorem execSegSet_keeps {s : State} (h : Memory.wf s.mem = true) (ctx idx : Nat) :
    Keeps (execSegSet ctx idx s) := by
  unfold execSegSet
  refine keeps_next ?_
  refine regCmd_wf h ?_ _
  simp [h]

@[simp] theorem execSegRemove_keeps {s : State} (h : Memory.wf s.mem = true) (ctx idx : Nat) :
    Keeps (execSegRemove ctx idx s) := by
  unfold execSegRemove
  refine keeps_next ?_
  refine regCmd_wf h ?_ _
  simp [h]

@[simp] theorem execSegRead_keeps {s : State} (h : Memory.wf s.mem = true) (ctx idx : Nat) :
    Keeps (execSegRead ctx idx s) := by
  unfold execSegRead
  refine keeps_next ?_
  refine regCmd_wf h ?_ _
  simp [h]

@[simp] theorem execSegRemoveComplete_keeps {s : State} (h : Memory.wf s.mem = true) :
    Keeps (execSegRemoveComplete s) := by
  unfold execSegRemoveComplete
  refine keeps_next ?_
  refine inActive_wf h ?_
  (repeat' split) <;> simp [h]

@[simp] theorem setWin_mem (s : State) (w v : Nat) : (setWin s w v).mem = s.mem := by
  rfl

@[simp] theorem winSetCore_mem (s : State) (entry : Option CtlEntry) (w image : Nat) :
    (winSetCore s entry w image).mem = s.mem := by
  unfold winSetCore; simp only; (repeat' split) <;> simp

@[simp] theorem winDrain_mem (s : State) (entry : Option CtlEntry) (op ctx idx : Nat) (img : BitVec 256) :
    (winDrain s entry op ctx idx img).mem = s.mem := by
  unfold winDrain; split <;> simp

theorem onWin_mem {s : State} (entry : Option CtlEntry) (w : Nat) {f : BitVec 256 → State} (hf : ∀ e, (f e).mem = s.mem) :
    (onWin s entry w f).mem = s.mem := by
  unfold onWin
  (repeat' split) <;> first | exact hf _ | simp

@[simp] theorem winRemoveCore_mem (s : State) (entry : Option CtlEntry) (w : Nat) :
    (winRemoveCore s entry w).mem = s.mem :=
  onWin_mem entry w fun _ => by simp

@[simp] theorem winBumpCore_mem (s : State) (entry : Option CtlEntry) (w : Nat) : (winBumpCore s entry w).mem = s.mem :=
  onWin_mem entry w fun _ => by simp

@[simp] theorem winReadCore_wf {s : State} (h : Memory.wf s.mem = true) (entry : Option CtlEntry) (w addr : Nat) :
    Memory.wf (winReadCore s entry w addr).mem = true := by
  unfold winReadCore; (repeat' split) <;> simp [h]

@[simp] theorem execWinSet_keeps {s : State} (h : Memory.wf s.mem = true) (w : Nat) : Keeps (execWinSet w s) := by
  unfold execWinSet
  refine keeps_next ?_
  refine regCmd_wf h ?_ _
  simp [h]

@[simp] theorem execWinRemove_keeps {s : State} (h : Memory.wf s.mem = true) (w : Nat) : Keeps (execWinRemove w s) := by
  unfold execWinRemove
  refine keeps_next ?_
  refine regCmd_wf h ?_ _
  simp [h]

@[simp] theorem execWinRead_keeps {s : State} (h : Memory.wf s.mem = true) (w : Nat) : Keeps (execWinRead w s) := by
  unfold execWinRead
  refine keeps_next ?_
  refine regCmd_wf h ?_ _
  simp [h]

@[simp] theorem execWinBump_keeps {s : State} (h : Memory.wf s.mem = true) (w : Nat) : Keeps (execWinBump w s) := by
  unfold execWinBump
  refine keeps_next ?_
  refine regCmd_wf h ?_ _
  simp [h]

@[simp] theorem keySetCore_mem (s : State) (entry : Option CtlEntry) (n image : Nat) :
    (keySetCore s entry n image).mem = s.mem := by
  unfold keySetCore; simp only; (repeat' split) <;> simp

@[simp] theorem keyRemoveCore_mem (s : State) (entry : Option CtlEntry) (n : Nat) :
    (keyRemoveCore s entry n).mem = s.mem := by
  unfold keyRemoveCore; (repeat' split) <;> simp

@[simp] theorem keyReadCore_wf {s : State} (h : Memory.wf s.mem = true) (entry : Option CtlEntry) (n addr : Nat) :
    Memory.wf (keyReadCore s entry n addr).mem = true := by
  unfold keyReadCore; (repeat' split) <;> simp [h]

@[simp] theorem execKeySet_keeps {s : State} (h : Memory.wf s.mem = true) (k : Nat) : Keeps (execKeySet k s) := by
  unfold execKeySet
  refine keeps_next ?_
  refine regCmd_wf h ?_ _
  simp [h]

@[simp] theorem execKeyRemove_keeps {s : State} (h : Memory.wf s.mem = true) (k : Nat) : Keeps (execKeyRemove k s) := by
  unfold execKeyRemove
  refine keeps_next ?_
  refine regCmd_wf h ?_ _
  simp [h]

@[simp] theorem execKeyRead_keeps {s : State} (h : Memory.wf s.mem = true) (k : Nat) : Keeps (execKeyRead k s) := by
  unfold execKeyRead
  refine keeps_next ?_
  refine regCmd_wf h ?_ _
  simp [h]

@[simp] theorem execWinDrainComplete_keeps {s : State} (h : Memory.wf s.mem = true) :
    Keeps (execWinDrainComplete s) := by
  unfold execWinDrainComplete
  refine keeps_next ?_
  refine inActive_wf h ?_
  (repeat' split) <;> simp [h]

/-! ### Speron packets -/

@[simp] theorem sendWay_mem (s : State) (p : Packet) (w : Way) : (sendWay s p w).mem = s.mem := by
  unfold sendWay; simp only; (repeat' split) <;> simp

@[simp] theorem waitWay_mem (s : State) (n : Nat) (p : Option Packet) : (waitWay s n p).mem = s.mem := by
  unfold waitWay; split <;> simp

@[simp] theorem finishPacket_mem (s : State) (n : Nat) (p : Packet) : (finishPacket s n p).1.mem = s.mem := by
  unfold finishPacket; simp only; (repeat' split) <;> simp

@[simp] theorem trnReadCut_wf {s : State} (h : Memory.wf s.mem = true) (req rights ctx no : Nat) (l : List (Nat × Nat))
    (host : List Byte) : Memory.wf (trnReadCut s req rights ctx no l host).1.mem = true := by
  fun_induction trnReadCut s req rights ctx no l host <;> grind [→ memRead_of, ← memRead_wf, touchPage_mem, State.emit_mem]

theorem trnReadCut_of {s : State} {req rights ctx no : Nat} {l : List (Nat × Nat)} {host : List Byte} {t : State}
    {y : Got} (h : Memory.wf s.mem = true) (e : trnReadCut s req rights ctx no l host = (t, y)) :
    Memory.wf t.mem = true :=
  pair_wf e (trnReadCut_wf h ..)

@[simp] theorem trnRead_wf {s : State} (h : Memory.wf s.mem = true) (req rights ctx no a n : Nat) (host : List Byte) :
    Memory.wf (trnRead s req rights ctx no a n host).1.mem = true := by
  unfold trnRead; split <;> simp [h]

theorem trnRead_of {s : State} {req rights ctx no a n : Nat} {host : List Byte} {t : State} {y : Got}
    (h : Memory.wf s.mem = true) (e : trnRead s req rights ctx no a n host = (t, y)) : Memory.wf t.mem = true :=
  pair_wf e (trnRead_wf h ..)

@[simp] theorem trnCheck_wf {s : State} (h : Memory.wf s.mem = true) (req rights ctx no : Nat)
    (l : List (Nat × List Byte)) : Memory.wf (trnCheck s req rights ctx no l).1.mem = true := by
  fun_induction trnCheck s req rights ctx no l <;> grind [→ tileCheck_of, ← State.tileCheck_wf]

theorem trnCheck_of {s : State} {req rights ctx no : Nat} {l : List (Nat × List Byte)} {t : State} {y : Nat}
    (h : Memory.wf s.mem = true) (e : trnCheck s req rights ctx no l = (t, y)) : Memory.wf t.mem = true :=
  pair_wf e (trnCheck_wf h ..)

@[simp] theorem trnPlace_wf {s : State} (h : Memory.wf s.mem = true) (req rights ctx no : Nat)
    (ps : List (Nat × List Byte)) : Memory.wf (trnPlace s req rights ctx no ps).mem = true := by
  induction ps generalizing s with
  | nil => exact h
  | cons p ps ih =>
    unfold trnPlace
    split
    · exact ih (by rw [touchPage_mem]; exact memWrite_wf h ..)
    · exact ih h
    · exact ih h

@[simp] theorem trnWrite_wf {s : State} (h : Memory.wf s.mem = true) (req rights ctx no a : Nat) (bs : List Byte) :
    Memory.wf (trnWrite s req rights ctx no a bs).1.mem = true := by
  unfold trnWrite
  grind [→ trnCheck_of, ← trnCheck_wf, ← trnPlace_wf]

theorem trnWrite_of {s : State} {req rights ctx no a : Nat} {bs : List Byte} {t : State} {y : Got}
    (h : Memory.wf s.mem = true) (e : trnWrite s req rights ctx no a bs = (t, y)) : Memory.wf t.mem = true :=
  pair_wf e (trnWrite_wf h ..)

/-! ### The initiator -/

@[simp] theorem settleQp_mem (s : State) (n : Nat) (q : Qp) : (settleQp s n q).mem = s.mem := by
  rfl

@[simp] theorem failOp_mem (s : State) (n i c : Nat) : (failOp s n i c).mem = s.mem := by
  rfl

@[simp] theorem flushQp_mem (s : State) (n st : Nat) : (flushQp s n st).mem = s.mem := by
  rfl

@[simp] theorem qpErrorEvent_mem (s : State) (n cause : Nat) : (qpErrorEvent s n cause).mem = s.mem := by
  rfl

@[simp] theorem ccEcho_mem (s : State) (n : Nat) : (ccEcho s n).mem = s.mem := by
  unfold ccEcho; simp only; (repeat' split) <;> simp

@[simp] theorem paced_mem (s : State) (n ns : Nat) (p : Packet) : (paced s n ns p).mem = s.mem := by
  rfl

@[simp] theorem noteSent_mem (s : State) (n i psn : Nat) (again : Bool) : (noteSent s n i psn again).mem = s.mem := by
  rfl

@[simp] theorem stallSource_mem (s : State) (n no key page : Nat) : (stallSource s n no key page).mem = s.mem := by
  unfold stallSource; simp only; (repeat' split) <;> simp

@[simp] theorem emitPacket_wf {s : State} (h : Memory.wf s.mem = true) (n i k psn ns : Nat) (again : Bool) (way : Way)
    (host : List Byte) (mismatch : Bool) :
    Memory.wf (emitPacket s n i k psn ns again way host mismatch).mem = true := by
  unfold emitPacket
  grind [ceMismatch_mem, failOp_mem, finishPacket_mem, noteSent_mem, paced_mem, sendWay_mem, stallSource_mem, → trnRead_of,
      ← trnRead_wf, State.count_mem, State.setQp_mem]

@[simp] theorem sendResponse_mem (s : State) (n ns : Nat) (p : Packet) (mismatch : Bool) :
    (sendResponse s n ns p mismatch).mem = s.mem := by
  unfold sendResponse; simp only; (repeat' split) <;> simp

@[simp] theorem transmitOp_wf {s : State} (h : Memory.wf s.mem = true) (n ns : Nat) (host : List Byte) (mismatch : Bool) :
    Memory.wf (transmitOp s n ns host mismatch).mem = true := by
  unfold transmitOp; simp only; (repeat' split) <;> simp [h]

@[simp] theorem transmit_wf {s : State} (h : Memory.wf s.mem = true) (n ns : Nat) (host : List Byte) (mismatch : Bool) :
    Memory.wf (transmit s n ns host mismatch).mem = true := by
  unfold transmit; simp only; (repeat' split) <;> simp [h]

@[simp] theorem execTrnPacketTransmit_keeps {s : State} (h : Memory.wf s.mem = true) (n ns : Nat) (hostData : List Byte)
    (mismatch : Bool) : Keeps (execTrnPacketTransmit n ns hostData mismatch s) := by
  unfold execTrnPacketTransmit
  refine keeps_next ?_
  refine inActive_wf h ?_
  simp [h]

@[simp] theorem retryExpiry_mem (s : State) (n : Nat) : (retryExpiry s n).mem = s.mem := by
  unfold retryExpiry; simp only; (repeat' split) <;> simp

@[simp] theorem execRetryTimerExpiry_keeps {s : State} (h : Memory.wf s.mem = true) (n : Nat) :
    Keeps (execRetryTimerExpiry n s) := by
  unfold execRetryTimerExpiry
  refine keeps_next ?_
  refine inActive_wf h ?_
  simp [h]

/-! ### The target -/

@[simp] theorem takeArrival_mem (s : State) (i : Ingress) (p : Packet) : (takeArrival s i p).mem = s.mem := by
  rfl

@[simp] theorem rxHead_mem (s : State) (i : Ingress) (p : Packet) : (rxHead s i p).1.mem = s.mem := by
  unfold rxHead; simp only; (repeat' split) <;> simp

@[simp] theorem countAck_mem (s : State) (p : Packet) : (countAck s p).mem = s.mem := by
  unfold countAck; split <;> simp

@[simp] theorem respond_mem (s : State) (n : Nat) (p : Packet) (i : Nat) : (respond s n p i).mem = s.mem := by
  unfold respond; split <;> simp

@[simp] theorem sendAck_mem (s : State) (n : Nat) (i : Ingress) (p : Packet) (notice noticePsn : Nat) :
    (sendAck s n i p notice noticePsn).mem = s.mem := by
  unfold sendAck; simp only; (repeat' split) <;> simp

@[simp] theorem placed_mem (s : State) (n : Nat) (i : Ingress) (p : Packet) (ackNow : Bool) :
    (placed s n i p ackNow).mem = s.mem := by
  unfold placed; simp only; (repeat' split) <;> simp

@[simp] theorem recvEntry_mem (s : State) (n : Nat) (v : Recv) (code : Nat) : (recvEntry s n v code).mem = s.mem := by
  unfold recvEntry; simp only; (repeat' split) <;> simp

@[simp] theorem putRecv_mem (s : State) (n : Nat) (v : Recv) : (putRecv s n v).1.mem = s.mem := by
  unfold putRecv; simp only; (repeat' split) <;> simp

@[simp] theorem recvRefused_mem (s : State) (n : Nat) (p : Packet) (code : Nat) :
    (recvRefused s n p code).mem = s.mem := by
  unfold recvRefused; simp only; (repeat' split) <;> simp

@[simp] theorem foldEarly_mem (s : State) (n k : Nat) (v : Recv) : (foldEarly s n k v).mem = s.mem := by
  unfold foldEarly; split <;> simp

@[simp] theorem countRefused_mem (s : State) (code : Nat) : (countRefused s code).mem = s.mem := by
  unfold countRefused; (repeat' split) <;> simp

@[simp] theorem refuse_mem (s : State) (n : Nat) (i : Ingress) (p : Packet) (code : Nat) :
    (refuse s n i p code).mem = s.mem := by
  unfold refuse; simp only; (repeat' split) <;> simp

@[simp] theorem holdPacket_mem (s : State) (n : Nat) (i : Ingress) (p : Packet) (key page : Nat) :
    (holdPacket s n i p key page).mem = s.mem := by
  unfold holdPacket
  grind [State.count_mem, joinFault_mem, sendAck_mem]

@[simp] theorem badPieces_wf {s : State} (h : Memory.wf s.mem = true) (req ctx no a : Nat) (p : Packet) :
    Memory.wf (badPieces s req ctx no a p).mem = true := by
  unfold badPieces
  refine foldl_wf (fun t b ht => ?_) _ h
  have hp : (pieceTile t ctx no b).2.mem = t.mem := by unfold pieceTile; split <;> rfl
  exact (show Memory.wf (pieceTile t ctx no b).2.mem = true by rw [hp]; exact ht)

@[simp] theorem applyWrite_wf {s : State} (h : Memory.wf s.mem = true) (n : Nat) (i : Ingress) (p : Packet)
    (ackNow : Bool) : Memory.wf (applyWrite s n i p ackNow).mem = true := by
  unfold applyWrite
  grind [State.setQp_mem, ← badPieces_wf, holdPacket_mem, placed_mem, refuse_mem, → trnWrite_of, ← trnWrite_wf]

@[simp] theorem applySend_wf {s : State} (h : Memory.wf s.mem = true) (n : Nat) (i : Ingress) (p : Packet)
    (ackNow : Bool) : Memory.wf (applySend s n i p ackNow).mem = true := by
  unfold applySend
  grind [State.count_mem, ← badPieces_wf, holdPacket_mem, placed_mem, putRecv_mem, refuse_mem, sendAck_mem, → trnWrite_of, ← trnWrite_wf]

@[simp] theorem pushResponse_mem (s : State) (n : Nat) (r : Packet) : (pushResponse s n r).mem = s.mem := by
  rfl

@[simp] theorem readResponses_mem (s : State) (n : Nat) (p : Packet) (total fuel off : Nat) (l : List Byte) :
    (readResponses s n p total fuel off l).mem = s.mem := by
  fun_induction readResponses s n p total fuel off l <;> simp_all

@[simp] theorem applyRead_wf {s : State} (h : Memory.wf s.mem = true) (n : Nat) (i : Ingress) (p : Packet)
    (host : List Byte) (mark : Bool) : Memory.wf (applyRead s n i p host mark).mem = true := by
  unfold applyRead
  grind [holdPacket_mem, placed_mem, readResponses_mem, refuse_mem, → trnRead_of, ← trnRead_wf]

@[simp] theorem atomicResponse_mem (s : State) (n : Nat) (p : Packet) (old : Nat) :
    (atomicResponse s n p old).mem = s.mem := by
  rfl

@[simp] theorem applyAtomic_wf {s : State} (h : Memory.wf s.mem = true) (n : Nat) (i : Ingress) (p : Packet)
    (host : List Byte) : Memory.wf (applyAtomic s n i p host).mem = true := by
  unfold applyAtomic
  simp only
  split
  · split
    · simpa using h
    · split
      · rw [holdPacket_mem]; exact trnRead_of h ‹_›
      · rw [refuse_mem]; exact trnRead_of h ‹_›
      · split
        · rw [refuse_mem]; exact trnWrite_of (trnRead_of h ‹_›) ‹_›
        · rw [atomicResponse_mem, placed_mem, State.setQp_mem]; exact trnWrite_of (trnRead_of h ‹_›) ‹_›
  · simpa using h

@[simp] theorem applySignal_mem (s : State) (n : Nat) (i : Ingress) (p : Packet) :
    (applySignal s n i p).mem = s.mem := by
  unfold applySignal; (repeat' split) <;> simp

@[simp] theorem rxApply_wf {s : State} (h : Memory.wf s.mem = true) (n : Nat) (i : Ingress) (p : Packet)
    (host : List Byte) (ackNow : Bool) : Memory.wf (rxApply s n i p host ackNow).mem = true := by
  unfold rxApply; split <;> simp [h]

@[simp] theorem rxOpen_mem (s : State) (n : Nat) (p : Packet) : (rxOpen s n p).1.mem = s.mem := by
  unfold rxOpen; simp only; (repeat' split) <;> simp

@[simp] theorem rxNew_wf {s : State} (h : Memory.wf s.mem = true) (n : Nat) (i : Ingress) (p : Packet)
    (host : List Byte) : Memory.wf (rxNew s n i p host).mem = true := by
  unfold rxNew
  grind [refuse_mem, ← rxApply_wf, rxOpen_mem, sendAck_mem, State.count_mem]

@[simp] theorem rxDup_wf {s : State} (h : Memory.wf s.mem = true) (n : Nat) (i : Ingress) (p : Packet)
    (host : List Byte) : Memory.wf (rxDup s n i p host).mem = true := by
  unfold rxDup
  grind [← applyRead_wf, atomicResponse_mem, rxOpen_mem, sendAck_mem, State.count_mem]

@[simp] theorem rxLate_mem (s : State) (n : Nat) (p : Packet) : (rxLate s n p).mem = s.mem := by
  unfold rxLate; simp only; (repeat' split) <;> simp

@[simp] theorem rxData_wf {s : State} (h : Memory.wf s.mem = true) (i : Ingress) (p : Packet) (host : List Byte) :
    Memory.wf (rxData s i p host).mem = true := by
  have hr : Memory.wf (rxHead (takeArrival s i p) i p).1.mem = true := by simpa using h
  unfold rxData
  generalize rxHead (takeArrival s i p) i p = x at hr
  obtain ⟨t, b⟩ := x
  cases b with
  | false => exact hr
  | true =>
    simp only
    (repeat' split) <;> first | exact rxDup_wf hr .. | exact rxNew_wf hr .. | (rw [rxLate_mem]; exact hr) | exact hr

@[simp] theorem rxAs_wf {s : State} (h : Memory.wf s.mem = true) (i : Ingress) (p : Packet) (t : Nat) (host : List Byte) :
    Memory.wf (rxAs s i p t host).mem = true := by
  refine inActive_wf h ?_
  split
  · exact settle_wf (rxData_wf h ..)
  · exact h

@[simp] theorem execWriteRx_keeps {s : State} (h : Memory.wf s.mem = true) (i : Ingress) (p : Packet) :
    Keeps (execWriteRx i p s) := by
  unfold execWriteRx
  refine keeps_next ?_
  simp [h]

@[simp] theorem execReadReqRx_keeps {s : State} (h : Memory.wf s.mem = true) (i : Ingress) (p : Packet)
    (hostData : List Byte) : Keeps (execReadReqRx i p hostData s) := by
  unfold execReadReqRx
  refine keeps_next ?_
  simp [h]

@[simp] theorem execSendRx_keeps {s : State} (h : Memory.wf s.mem = true) (i : Ingress) (p : Packet) :
    Keeps (execSendRx i p s) := by
  unfold execSendRx
  refine keeps_next ?_
  simp [h]

@[simp] theorem execAtomicRx_keeps {s : State} (h : Memory.wf s.mem = true) (i : Ingress) (p : Packet)
    (hostData : List Byte) : Keeps (execAtomicRx i p hostData s) := by
  unfold execAtomicRx
  refine keeps_next ?_
  simp [h]

@[simp] theorem execSignalRx_keeps {s : State} (h : Memory.wf s.mem = true) (i : Ingress) (p : Packet) :
    Keeps (execSignalRx i p s) := by
  unfold execSignalRx
  refine keeps_next ?_
  simp [h]

@[simp] theorem applyResp_wf {s : State} (h : Memory.wf s.mem = true) (n : Nat) (i : Ingress) (p : Packet) :
    Memory.wf (applyResp s n i p).mem = true := by
  unfold applyResp
  grind [State.count_mem, State.set_mem, ← badPieces_wf, failOp_mem, joinFault_mem, settleQp_mem, → trnWrite_of, ← trnWrite_wf]

@[simp] theorem rxResp_wf {s : State} (h : Memory.wf s.mem = true) (i : Ingress) (p : Packet) (t : Nat) :
    Memory.wf (rxResp s i p t).mem = true := by
  unfold rxResp
  grind [← applyResp_wf, failOp_mem, rxHead_mem, rxOpen_mem, takeArrival_mem, State.count_mem]

@[simp] theorem execReadRespRx_keeps {s : State} (h : Memory.wf s.mem = true) (i : Ingress) (p : Packet) :
    Keeps (execReadRespRx i p s) := by
  unfold execReadRespRx
  refine keeps_next ?_
  refine inActive_wf h ?_
  simp [h]

@[simp] theorem execAtomicRespRx_keeps {s : State} (h : Memory.wf s.mem = true) (i : Ingress) (p : Packet) :
    Keeps (execAtomicRespRx i p s) := by
  unfold execAtomicRespRx
  refine keeps_next ?_
  refine inActive_wf h ?_
  simp [h]

@[simp] theorem rxAck_mem (s : State) (i : Ingress) (p : Packet) : (rxAck s i p).mem = s.mem := by
  unfold rxAck
  grind [ccEcho_mem, rxHead_mem, settleQp_mem, takeArrival_mem]

@[simp] theorem execAckRx_keeps {s : State} (h : Memory.wf s.mem = true) (i : Ingress) (p : Packet) :
    Keeps (execAckRx i p s) := by
  unfold execAckRx
  refine keeps_next ?_
  refine inActive_wf h ?_
  simp [h]

@[simp] theorem rxNotice_mem (s : State) (i : Ingress) (p : Packet) : (rxNotice s i p).mem = s.mem := by
  unfold rxNotice; simp only; (repeat' split) <;> simp

@[simp] theorem execPathNoticeRx_keeps {s : State} (h : Memory.wf s.mem = true) (i : Ingress) (p : Packet) :
    Keeps (execPathNoticeRx i p s) := by
  unfold execPathNoticeRx
  refine keeps_next ?_
  refine inActive_wf h ?_
  simp [h]

@[simp] theorem execFenceHeldRelease_keeps {s : State} (h : Memory.wf s.mem = true) (n psn : Nat) (hostData : List Byte) :
    Keeps (execFenceHeldRelease n psn hostData s) := by
  unfold execFenceHeldRelease
  refine keeps_next ?_
  refine inActive_wf h ?_
  simp only
  (repeat' split) <;> simp [h]

@[simp] theorem execAckDelayExpiry_keeps {s : State} (h : Memory.wf s.mem = true) (n : Nat) :
    Keeps (execAckDelayExpiry n s) := by
  unfold execAckDelayExpiry
  refine keeps_next ?_
  refine inActive_wf h ?_
  simp only
  (repeat' split) <;> simp [h]

@[simp] theorem execQpStateFetched_keeps {s : State} (h : Memory.wf s.mem = true) (n : Nat) :
    Keeps (execQpStateFetched n s) := by
  unfold execQpStateFetched
  refine keeps_next ?_
  refine inActive_wf h ?_
  simp only
  (repeat' split) <;> simp [h]

@[simp] theorem releaseWaits_mem (s : State) (ep : Nat) : (releaseWaits s ep).mem = s.mem := by
  unfold releaseWaits
  exact foldl_mem (fun t w => by split <;> simp) _ _

@[simp] theorem cacheRoute_mem (s : State) (ep : Nat) : (cacheRoute s ep).mem = s.mem := by
  rfl

@[simp] theorem execRouteEntryFetched_keeps {s : State} (h : Memory.wf s.mem = true) (ep : Nat) :
    Keeps (execRouteEntryFetched ep s) := by
  unfold execRouteEntryFetched
  refine keeps_next ?_
  refine inActive_wf h ?_
  split <;> simp [h]

@[simp] theorem routeDone_mem (s : State) (r : Nat) : (routeDone s r).mem = s.mem := by
  rfl

@[simp] theorem writeRoute_mem (s : State) (ep : Nat) (e : BitVec 768) : (writeRoute s ep e).mem = s.mem := by
  simp [writeRoute]

@[simp] theorem execRouteSet_keeps {s : State} (h : Memory.wf s.mem = true) (ep : Nat) : Keeps (execRouteSet ep s) := by
  unfold execRouteSet
  refine keeps_next ?_
  refine regCmd_wf h ?_ _
  simp only
  (repeat' split) <;> simp [h]

@[simp] theorem execRouteInvalidate_keeps {s : State} (h : Memory.wf s.mem = true) (ep : Nat) :
    Keeps (execRouteInvalidate ep s) := by
  unfold execRouteInvalidate
  refine keeps_next ?_
  refine regCmd_wf h ?_ _
  split <;> simp [h]

@[simp] theorem execRouteRead_keeps {s : State} (h : Memory.wf s.mem = true) (ep : Nat) :
    Keeps (execRouteRead ep s) := by
  unfold execRouteRead
  refine keeps_next ?_
  refine regCmd_wf h ?_ _
  split <;> simp [h]

@[simp] theorem landSignal_mem (s : State) (x : Ingress × Packet) : (landSignal s x).mem = s.mem := by
  unfold landSignal; simp only; (repeat' split) <;> simp

@[simp] theorem dropStale_mem (s : State) (g : Nat) : (dropStale s g).mem = s.mem := by
  unfold dropStale
  refine foldl_mem (fun t r => ?_) _ _
  split
  · split <;> simp
  · rfl

@[simp] theorem execSyncUnitOperation_keeps {s : State} (h : Memory.wf s.mem = true) (g : Nat) :
    Keeps (execSyncUnitOperation g s) := by
  unfold execSyncUnitOperation
  refine keeps_next ?_
  refine inActive_wf h ?_
  split <;> simp [h]

/-! ### Queue pairs and their posts -/

theorem onQp_mem {s : State} (entry : Option CtlEntry) (n : Nat) {f : Qp → State} (hf : (f (s.qp n)).mem = s.mem) :
    (onQp s entry n f).mem = s.mem := by
  unfold onQp
  (repeat' split) <;> first | exact hf | simp

theorem onQp_wf {s : State} (h : Memory.wf s.mem = true) (entry : Option CtlEntry) (n : Nat) {f : Qp → State}
    (hf : Memory.wf (f (s.qp n)).mem = true) : Memory.wf (onQp s entry n f).mem = true := by
  unfold onQp
  (repeat' split) <;> first | exact hf | simpa using h

@[simp] theorem qpInitCore_mem (s : State) (entry : Option CtlEntry) (n image : Nat) :
    (qpInitCore s entry n image).mem = s.mem := by
  refine onQp_mem entry n ?_
  simp only
  (repeat' split) <;> simp

@[simp] theorem qpRtrCore_mem (s : State) (entry : Option CtlEntry) (n image : Nat) :
    (qpRtrCore s entry n image).mem = s.mem := by
  refine onQp_mem entry n ?_
  simp only
  (repeat' split) <;> simp

@[simp] theorem qpRtsCore_mem (s : State) (entry : Option CtlEntry) (n image : Nat) :
    (qpRtsCore s entry n image).mem = s.mem := by
  refine onQp_mem entry n ?_
  simp only
  (repeat' split) <;> simp

@[simp] theorem qpEndWait_mem (s : State) (entry : Option CtlEntry) (n op : Nat) :
    (qpEndWait s entry n op).mem = s.mem := by
  unfold qpEndWait; split <;> simp

@[simp] theorem discardHeld_mem (s : State) (n : Nat) : (discardHeld s n).mem = s.mem := by
  rfl

@[simp] theorem resetQp_mem (s : State) (n : Nat) : (resetQp s n).mem = s.mem := by
  rfl

@[simp] theorem qpResetCore_mem (s : State) (entry : Option CtlEntry) (n : Nat) :
    (qpResetCore s entry n).mem = s.mem := by
  refine onQp_mem entry n ?_
  split <;> simp

@[simp] theorem qpErrorCore_mem (s : State) (entry : Option CtlEntry) (n : Nat) :
    (qpErrorCore s entry n).mem = s.mem := by
  refine onQp_mem entry n ?_
  split <;> simp

@[simp] theorem qpReadCore_wf {s : State} (h : Memory.wf s.mem = true) (entry : Option CtlEntry) (n addr : Nat) :
    Memory.wf (qpReadCore s entry n addr).mem = true := onQp_wf h entry n (readOut_wf h ..)

@[simp] theorem execQpInit_keeps {s : State} (h : Memory.wf s.mem = true) (n : Nat) : Keeps (execQpInit n s) := by
  unfold execQpInit
  refine keeps_next ?_
  refine regCmd_wf h ?_ _
  simp [h]

@[simp] theorem execQpRtr_keeps {s : State} (h : Memory.wf s.mem = true) (n : Nat) : Keeps (execQpRtr n s) := by
  unfold execQpRtr
  refine keeps_next ?_
  refine regCmd_wf h ?_ _
  simp [h]

@[simp] theorem execQpRts_keeps {s : State} (h : Memory.wf s.mem = true) (n : Nat) : Keeps (execQpRts n s) := by
  unfold execQpRts
  refine keeps_next ?_
  refine regCmd_wf h ?_ _
  simp [h]

@[simp] theorem execQpReset_keeps {s : State} (h : Memory.wf s.mem = true) (n : Nat) : Keeps (execQpReset n s) := by
  unfold execQpReset
  refine keeps_next ?_
  refine regCmd_wf h ?_ _
  simp [h]

@[simp] theorem execQpError_keeps {s : State} (h : Memory.wf s.mem = true) (n : Nat) : Keeps (execQpError n s) := by
  unfold execQpError
  refine keeps_next ?_
  refine regCmd_wf h ?_ _
  simp [h]

@[simp] theorem execQpRead_keeps {s : State} (h : Memory.wf s.mem = true) (n : Nat) : Keeps (execQpRead n s) := by
  unfold execQpRead
  refine keeps_next ?_
  refine regCmd_wf h ?_ _
  simp [h]

@[simp] theorem acceptPost_mem (s : State) (d : Desc) (host : Bool) : (acceptPost s d host).mem = s.mem := by
  unfold acceptPost; simp only; (repeat' split) <;> simp

@[simp] theorem postOn_mem (s : State) (t : Th) (d : Desc) : (postOn s t d).mem = s.mem := by
  simp [postOn]

@[simp] theorem postThread_mem (s : State) (t : Th) (x : Thread) (d : Desc) (kind : Nat) :
    (postThread s t x d kind).mem = s.mem := by
  unfold postThread; (repeat' split) <;> simp

@[simp] theorem execPostwr_keeps {s : State} (h : Memory.wf s.mem = true) (t : Th) (dd : Nat) :
    Keeps (execPostwr t dd s) := by
  unfold execPostwr
  refine keeps_next ?_
  refine issueAt_wf h _ _ fun u x p hu => ?_
  simp [hu]

@[simp] theorem execPostrd_keeps {s : State} (h : Memory.wf s.mem = true) (t : Th) (dd : Nat) :
    Keeps (execPostrd t dd s) := by
  unfold execPostrd
  refine keeps_next ?_
  refine issueAt_wf h _ _ fun u x p hu => ?_
  simp [hu]

@[simp] theorem execPostsend_keeps {s : State} (h : Memory.wf s.mem = true) (t : Th) (dd : Nat) :
    Keeps (execPostsend t dd s) := by
  unfold execPostsend
  refine keeps_next ?_
  refine issueAt_wf h _ _ fun u x p hu => ?_
  simp [hu]

@[simp] theorem execPostatom_keeps {s : State} (h : Memory.wf s.mem = true) (t : Th) (dd ga gb : Nat) :
    Keeps (execPostatom t dd ga gb s) := by
  unfold execPostatom
  refine keeps_next ?_
  refine issueAt_wf h _ _ fun u x p hu => ?_
  simp [hu]

@[simp] theorem execSigr_keeps {s : State} (h : Memory.wf s.mem = true) (t : Th) (dd ga : Nat) :
    Keeps (execSigr t dd ga s) := by
  unfold execSigr
  refine keeps_next ?_
  refine issueAt_wf h _ _ fun u x p hu => ?_
  simp [hu]

@[simp] theorem hostDone_mem (s : State) (d : Desc) (code : Nat) : (hostDone s d code).mem = s.mem := by
  unfold hostDone; simp only; (repeat' split) <;> simp

@[simp] theorem relayDone_mem (s : State) (d : Desc) (code : Nat) : (relayDone s d code).mem = s.mem := by
  unfold relayDone; (repeat' split) <;> simp

@[simp] theorem retryThread_wf {s : State} (h : Memory.wf s.mem = true) (k : Nat) :
    Memory.wf (retryThread s k).mem = true := by
  unfold retryThread; simp only; (repeat' split) <;> simp [h]

@[simp] theorem retryThreads_wf {s : State} (h : Memory.wf s.mem = true) : Memory.wf (retryThreads s).mem = true :=
  foldl_wf (fun t k ht => retryThread_wf ht k) _ h

@[simp] theorem endQpCmds_mem (s : State) : (endQpCmds s).mem = s.mem := by
  unfold endQpCmds; split <;> simp

@[simp] theorem recordNext_wf {s : State} (h : Memory.wf s.mem = true) : Memory.wf (recordNext s).mem = true := by
  unfold recordNext; (repeat' split) <;> simp [h]

@[simp] theorem execDescriptorCompletion_keeps {s : State} (h : Memory.wf s.mem = true) :
    Keeps (execDescriptorCompletion s) := by
  unfold execDescriptorCompletion
  refine keeps_next ?_
  refine inActive_wf h ?_
  simp [h]

/-! ### Migration -/

/-- The function as a variable: the kernel, comparing two applications of `writeBack`, would list the
tiles of a page. -/
theorem writeBack_wf_of {F : State → Nat → Segm → Nat → Nat → State × Bool} (hF : @writeBack = F)
    {s : State} (h : Memory.wf s.mem = true) {key : Nat} {g : Segm} {f page : Nat} {x : State × Bool} (hx : F s key g f page = x) : Memory.wf x.1.mem = true := by
  delta writeBack at hF
  subst hF
  beta_reduce at hx
  extract_lets a at hx
  split at hx
  · rename_i t e
    subst hx
    rw [State.count_mem, State.emit_mem]
    exact checkTiles_of h e
  · rename_i e
    subst hx
    exact checkTiles_of h e

@[simp] theorem writeBack_wf {s : State} (h : Memory.wf s.mem = true) (key : Nat) (g : Segm) (f page : Nat) :
    Memory.wf (writeBack s key g f page).1.mem = true :=
  writeBack_wf_of rfl h rfl

theorem writeBack_of {s t : State} {key : Nat} {g : Segm} {f page : Nat} {y : Bool} (h : Memory.wf s.mem = true)
    (e : writeBack s key g f page = (t, y)) : Memory.wf t.mem = true :=
  pair_wf e (writeBack_wf h ..)

@[simp] theorem fillFrame_wf {s : State} (h : Memory.wf s.mem = true) (a : Nat) (data : List Host.Cell) :
    Memory.wf (fillFrame s a data).mem = true := by
  obtain ⟨h1, h2, h3, h4⟩ := wf_parts h
  unfold fillFrame
  refine foldl_wf (fun t x ht => by split; exacts [State.sumLine_wf ht _, ht]) _ ?_
  have hbytes := foldl_keeps (P := fun m : List Host.Cell => smSorted none m = true ∧ m.all (fun e => e.2 != 0#8) = true)
    (f := fun m c => if c.1 < pageSize && (a ≤ a + c.1 && a + c.1 < a + pageSize && !s.stackFenced (stackOf s.variant (a + c.1)))
      then smPut 0#8 m (a + c.1) c.2 else m)
    (fun m c hm => by split; exacts [⟨smSorted_smPut _ _ _ hm.1, smPut_all _ hm.2⟩, hm]) data
    (t := smDrop (fun k => a ≤ k && k < a + pageSize && !s.stackFenced (stackOf s.variant k)) s.mem.hbm)
    ⟨smSorted_smDrop _ h1, smDrop_all _ h2⟩
  exact wf_of hbytes.1 hbytes.2 h3 h4

@[simp] theorem resumeHeld_wf {s : State} (h : Memory.wf s.mem = true) (i : Ingress) (p : Packet) :
    Memory.wf (resumeHeld s i p).mem = true := by
  unfold resumeHeld; simp only; (repeat' split) <;> simp [h]

@[simp] theorem failHeld_mem (s : State) (i : Ingress) (p : Packet) : (failHeld s i p).mem = s.mem := by
  unfold failHeld; simp only; (repeat' split) <;> simp

@[simp] theorem resumeWaiter_wf {s : State} (h : Memory.wf s.mem = true) (r : FaultRec) (w : FaultWaiter) :
    Memory.wf (resumeWaiter s r w).mem = true := by
  unfold resumeWaiter; (repeat' split) <;> simp [h]

@[simp] theorem failWaiter_wf {s : State} (h : Memory.wf s.mem = true) (r : FaultRec) (w : FaultWaiter) :
    Memory.wf (failWaiter s r w).mem = true := by
  unfold failWaiter; (repeat' split) <;> simp [h]

@[simp] theorem freeRec_mem (s : State) (r : FaultRec) : (freeRec s r).mem = s.mem := by
  rfl

@[simp] theorem serveRec_wf {s : State} (h : Memory.wf s.mem = true) (r : FaultRec) :
    Memory.wf (serveRec s r).mem = true := by
  unfold serveRec
  simp only [freeRec_mem]
  exact foldl_wf (fun t w ht => resumeWaiter_wf ht ..) _ (foldl_wf (fun t w ht => resumeWaiter_wf ht ..) _ h)

@[simp] theorem pageSettled_wf {s : State} (h : Memory.wf s.mem = true) (key page : Nat) :
    Memory.wf (pageSettled s key page).mem = true := by
  unfold pageSettled; (repeat' split) <;> simp [h]

@[simp] theorem setPage_mem (s : State) (key page : Nat) (x : Page) : (setPage s key page x).mem = s.mem := by
  unfold setPage; split <;> simp

@[simp] theorem setFrame_mem (s : State) (key f : Nat) (page : Option Nat) : (setFrame s key f page).mem = s.mem := by
  unfold setFrame; split <;> simp

@[simp] theorem failEvent_mem (s : State) (r : FaultRec) : (failEvent s r).mem = s.mem := by
  unfold failEvent; split <;> simp

@[simp] theorem retryFrames_mem (s : State) (key : Nat) : (retryFrames s key).mem = s.mem := by
  unfold retryFrames
  exact foldl_mem (fun t r => by split <;> simp) _ _

/-- The victim of a failed migration: written back and its frame freed, or kept where it was. -/
def victimKept (s : State) (key : Nat) (g : Segm) (f v : Nat) (done : Bool) : State :=
  let x := g.page v
  let (s, out) := if x.dirty && done then writeBack s key g f v else (s, !x.dirty)
  if out then setFrame (setPage s key v {}) key f none
  else setFrame (setPage s key v { st := 2, frame := f, referenced := x.referenced, dirty := true }) key f (some v)

theorem victimKept_wf {s : State} (h : Memory.wf s.mem = true) (key : Nat) (g : Segm) (f v : Nat) (done : Bool) :
    Memory.wf (victimKept s key g f v done).mem = true := by
  have hw : Memory.wf (if (g.page v).dirty && done then writeBack s key g f v else (s, !(g.page v).dirty)).1.mem = true := by
    split
    · exact writeBack_wf h ..
    · exact h
  unfold victimKept
  simp only
  generalize (if (g.page v).dirty && done then writeBack s key g f v else (s, !(g.page v).dirty)) = x at hw
  obtain ⟨t, out⟩ := x
  simp only
  split <;> (rw [setFrame_mem, setPage_mem]; exact hw)

@[simp] theorem failMigration_wf {s : State} (h : Memory.wf s.mem = true) (r : FaultRec) (done : Bool) :
    Memory.wf (failMigration s r done).mem = true := by
  have hf : ∀ t, Memory.wf t.mem = true → Memory.wf (freeRec (r.waiters.foldl (fun s w => failWaiter s r w) (failEvent t r)) r).mem = true := by
    intro t ht
    simp only [freeRec_mem]
    exact foldl_wf (fun u w hu => failWaiter_wf hu ..) _ (by simpa using ht)
  have hp : Memory.wf (setPage (s.count F.MIG_FAILED) (segKey r.ctx r.seg) r.page {}).mem = true := by simpa using h
  unfold failMigration
  simp only [retryFrames_mem]
  cases hv : r.victim with
  | none =>
    refine hf _ ?_
    split
    · rw [setFrame_mem]; exact hp
    · exact h
  | some v =>
    refine pageSettled_wf (hf _ ?_) ..
    split
    · exact victimKept_wf hp ..
    · exact h

@[simp] theorem completeMigration_wf {s : State} (h : Memory.wf s.mem = true) (r : FaultRec) (data : List Host.Cell) :
    Memory.wf (completeMigration s r data).mem = true := by
  unfold completeMigration
  grind [← failMigration_wf, ← fillFrame_wf, ← pageSettled_wf, retryFrames_mem, ← serveRec_wf, setPage_mem, → writeBack_of,
      ← writeBack_wf, State.count_mem, State.emit_mem]

@[simp] theorem execMigrationComplete_keeps {s : State} (h : Memory.wf s.mem = true) (ctx seg page : Nat)
    (data : List Host.Cell) : Keeps (execMigrationComplete ctx seg page data s) := by
  unfold execMigrationComplete
  refine keeps_next ?_
  refine inActive_wf h ?_
  (repeat' split) <;> simp [h]

@[simp] theorem execMigrationFail_keeps {s : State} (h : Memory.wf s.mem = true) (ctx seg page : Nat)
    (writebackDone : Bool) : Keeps (execMigrationFail ctx seg page writebackDone s) := by
  unfold execMigrationFail
  refine keeps_next ?_
  refine inActive_wf h ?_
  split <;> simp [h]

@[simp] theorem execMigrationTimeout_keeps {s : State} (h : Memory.wf s.mem = true) (ctx seg page : Nat)
    (writebackDone : Bool) : Keeps (execMigrationTimeout ctx seg page writebackDone s) := by
  unfold execMigrationTimeout
  refine keeps_next ?_
  refine inActive_wf h ?_
  (repeat' split) <;> simp [h]

@[simp] theorem prefetchCore_mem (s : State) (entry : Option CtlEntry) (ctx seg page : Nat) :
    (prefetchCore s entry ctx seg page).mem = s.mem := by
  unfold prefetchCore; simp only; (repeat' split) <;> simp

@[simp] theorem evictCore_mem (s : State) (entry : Option CtlEntry) (ctx seg page : Nat) :
    (evictCore s entry ctx seg page).mem = s.mem := by
  unfold evictCore; simp only; (repeat' split) <;> simp

@[simp] theorem endEvict_wf {s : State} (h : Memory.wf s.mem = true) (p : Pending) (ok : Bool) :
    Memory.wf (endEvict s p ok).mem = true := by
  unfold endEvict
  grind [cmdEnd_mem, ← pageSettled_wf, retryFrames_mem, setFrame_mem, setPage_mem, → writeBack_of, ← writeBack_wf]

@[simp] theorem execMigPrefetch_keeps {s : State} (h : Memory.wf s.mem = true) (ctx seg page : Nat) :
    Keeps (execMigPrefetch ctx seg page s) := by
  unfold execMigPrefetch
  refine keeps_next ?_
  refine regCmd_wf h ?_ _
  refine inCtrl_wf h ?_
  simp [h]

@[simp] theorem execMigEvict_keeps {s : State} (h : Memory.wf s.mem = true) (ctx seg page : Nat) :
    Keeps (execMigEvict ctx seg page s) := by
  unfold execMigEvict
  refine keeps_next ?_
  refine regCmd_wf h ?_ _
  refine inCtrl_wf h ?_
  simp [h]

@[simp] theorem execEvictComplete_keeps {s : State} (h : Memory.wf s.mem = true) (ctx seg page : Nat) :
    Keeps (execEvictComplete ctx seg page s) := by
  unfold execEvictComplete
  refine keeps_next ?_
  refine inActive_wf h ?_
  split <;> simp [h]

@[simp] theorem failMigrations_wf {s : State} (h : Memory.wf s.mem = true) (ctx : Nat) :
    Memory.wf (failMigrations s ctx).mem = true := by
  have hf : ∀ t (r : FaultRec), Memory.wf t.mem = true →
      Memory.wf (match startedRec t r.ctx r.seg r.page with | some q => failMigration t q false | none => t).mem = true := by
    intro t r ht
    split
    · exact failMigration_wf ht ..
    · exact ht
  unfold failMigrations
  simp only
  split
  · exact endEvict_wf (foldl_wf (fun t r ht => hf t r ht) _ h) ..
  · exact foldl_wf (fun t r ht => hf t r ht) _ h

/-! ### Entries of submission queues -/

@[simp] theorem startRestExit_wf {s : State} (h : Memory.wf s.mem = true) : Memory.wf (startRestExit s).mem = true := by
  unfold startRestExit
  split
  · exact h
  · exact foldl_wf (fun t b ht => refillBank_wf ht b) (List.range (nDom s)) h

@[simp] theorem execSqDbWrite_keeps {s : State} (h : Memory.wf s.mem = true) (ctx q prod : Nat) :
    Keeps (execSqDbWrite ctx q prod s) := by
  unfold execSqDbWrite
  refine keeps_next ?_
  refine fnCmd_wf h ?_ _ _
  grind [sqDoorbell_mem, ← startRestExit_wf]

@[simp] theorem sqStart_mem (s : State) (k : Nat) : (sqStart s k).mem = s.mem := by
  rfl

@[simp] theorem sqReject_mem (s : State) (ctx q no : Nat) (e : List Byte) : (sqReject s ctx q no e).mem = s.mem := by
  simp [sqReject]

@[simp] theorem sqStop_mem (s : State) (ctx q : Nat) : (sqStop s ctx q).mem = s.mem := by
  simp [sqStop]

@[simp] theorem sqBytes_wf {s : State} (h : Memory.wf s.mem = true) (k : Nat) (entry : SqEntry) :
    Memory.wf (sqBytes s k entry).1.mem = true := by
  unfold sqBytes
  grind [→ readOp_of, ← readOp_wf]

theorem sqBytes_of {s : State} {k : Nat} {entry : SqEntry} {t : State} {y : List Byte} (h : Memory.wf s.mem = true)
    (e : sqBytes s k entry = (t, y)) : Memory.wf t.mem = true :=
  pair_wf e (sqBytes_wf h ..)

@[simp] theorem sqJudge_wf {s : State} (h : Memory.wf s.mem = true) (ctx q : Nat) (entry : SqEntry) :
    Memory.wf (sqJudge s ctx q entry).mem = true := by
  unfold sqJudge; simp only; (repeat' split) <;> simp [h]

@[simp] theorem execSqFetchResponse_keeps {s : State} (h : Memory.wf s.mem = true) (ctx q : Nat) (entry : SqEntry) :
    Keeps (execSqFetchResponse ctx q entry s) := by
  unfold execSqFetchResponse
  refine keeps_next ?_
  refine inActive_wf h ?_
  simp only
  (repeat' split) <;> simp [h]

@[simp] theorem execSqRefetchTimer_keeps {s : State} (h : Memory.wf s.mem = true) (ctx q : Nat) :
    Keeps (execSqRefetchTimer ctx q s) := by
  unfold execSqRefetchTimer
  refine keeps_next ?_
  refine inActive_wf h ?_
  simp only
  (repeat' split) <;> simp [h]

@[simp] theorem sqRestart_mem (s : State) (ctx q : Nat) : (sqRestart s ctx q).mem = s.mem := by
  unfold sqRestart; split <;> simp

@[simp] theorem execSqRestart_keeps {s : State} (h : Memory.wf s.mem = true) (ctx q : Nat) :
    Keeps (execSqRestart ctx q s) := by
  unfold execSqRestart
  refine keeps_next ?_
  refine fnCmd_wf h ?_ _ _
  simp [h]

theorem sqEntry_wf {s : State} (h : Memory.wf s.mem = true) (ctx q : Nat) (entry : SqEntry) (ok : Nat → Bool)
    {f : State → Nat → State} (hf : ∀ no, Memory.wf (f s no).mem = true) :
    Memory.wf (sqEntry s ctx q entry ok f).mem = true := by
  unfold sqEntry
  simp only
  (repeat' split) <;> simp [h, hf]

@[simp] theorem sqDesc_mem (s : State) (ctx q no : Nat) (entry : SqEntry) :
    (sqDesc s ctx q no entry).1.mem = s.mem := by
  rfl

@[simp] theorem execSqTransportEntry_keeps {s : State} (h : Memory.wf s.mem = true) (ctx q : Nat) (entry : SqEntry) :
    Keeps (execSqTransportEntry ctx q entry s) := by
  unfold execSqTransportEntry
  refine keeps_next ?_
  refine inActive_wf h ?_
  grind [acceptPost_mem, sqDesc_mem, ← sqEntry_wf, sqReject_mem, sqStart_mem]

@[simp] theorem execSqLaunchEntry_keeps {s : State} (h : Memory.wf s.mem = true) (ctx q : Nat) (entry : SqEntry) :
    Keeps (execSqLaunchEntry ctx q entry s) := by
  unfold execSqLaunchEntry
  refine keeps_next ?_
  refine inActive_wf h ?_
  grind [← launchOrHold_wf, ← sqEntry_wf, sqReject_mem, sqStart_mem]

@[simp] theorem ctlEnd_mem (s : State) (c : CtlEntry) (code : Nat) : (ctlEnd s c code).mem = s.mem := by
  unfold ctlEnd; split <;> simp

@[simp] theorem cqDrop_mem (s : State) (n : Nat) : (cqDrop s n).mem = s.mem := by
  unfold cqDrop; split <;> simp

@[simp] theorem ctlCq_wf {s : State} (h : Memory.wf s.mem = true) (c : CtlEntry) (op n addr : Nat) :
    Memory.wf (ctlCq s c op n addr).mem = true := by
  unfold ctlCq
  grind [cqDrop_mem, ctlEnd_mem, → ctlRead_of, ← ctlRead_wf, → ctlWrite_of, ← ctlWrite_wf, reclaim_mem]

@[simp] theorem ctlRq_wf {s : State} (h : Memory.wf s.mem = true) (c : CtlEntry) (op n addr : Nat) :
    Memory.wf (ctlRq s c op n addr).mem = true := by
  unfold ctlRq
  grind [State.setRq_mem, ctlEnd_mem, → ctlRead_of, ← ctlRead_wf, → ctlWrite_of, ← ctlWrite_wf]

theorem ctlSet_wf {s : State} (h : Memory.wf s.mem = true) (b : Blk) (c : CtlEntry) (addr : Nat)
    {f : State → Nat → State} (hf : ∀ t v, Memory.wf t.mem = true → Memory.wf (f t v).mem = true) :
    Memory.wf (ctlSet s b c addr f).mem = true := by
  have hr := ctlRead_wf h c.ctx c.no addr
  unfold ctlSet
  split <;> (rename_i heq; rw [heq] at hr)
  · exact hf _ _ hr
  · simpa using hr

@[simp] theorem ctlEntry_wf {s : State} (h : Memory.wf s.mem = true) (c : CtlEntry) (block op idx addr : Nat) :
    Memory.wf (ctlEntry s c block op idx addr).1.mem = true := by
  have hset (b : Blk) {f : State → Nat → State} (hf : ∀ t v, (f t v).mem = t.mem) : Memory.wf (ctlSet s b c addr f).mem = true :=
    ctlSet_wf h b c addr fun t v ht => by rw [hf]; exact ht
  unfold ctlEntry
  split
  case h_1 => exact hset _ fun t v => segSetCore_mem ..
  case h_4 => exact hset _ fun t v => winSetCore_mem ..
  case h_8 => exact hset _ fun t v => keySetCore_mem ..
  case h_11 => exact hset _ fun t v => qpInitCore_mem ..
  case h_12 => exact hset _ fun t v => qpRtrCore_mem ..
  case h_13 => exact hset _ fun t v => qpRtsCore_mem ..
  all_goals simp [h]

theorem ctlEntry_of {s : State} {c : CtlEntry} {block op idx addr : Nat} {t : State} {y : Bool}
    (h : Memory.wf s.mem = true) (e : ctlEntry s c block op idx addr = (t, y)) : Memory.wf t.mem = true :=
  pair_wf e (ctlEntry_wf h ..)

@[simp] theorem execSqControlEntry_keeps {s : State} (h : Memory.wf s.mem = true) (ctx q : Nat) (entry : SqEntry) :
    Keeps (execSqControlEntry ctx q entry s) := by
  unfold execSqControlEntry
  refine keeps_next ?_
  refine inActive_wf h ?_
  grind [→ ctlEntry_of, ← ctlEntry_wf, sqComplete_mem, ← sqEntry_wf, sqReject_mem, sqStart_mem]

@[simp] theorem execSqReceiveEntry_keeps {s : State} (h : Memory.wf s.mem = true) (ctx q : Nat) (entry : SqEntry) :
    Keeps (execSqReceiveEntry ctx q entry s) := by
  unfold execSqReceiveEntry
  refine keeps_next ?_
  refine inActive_wf h ?_
  grind [State.setRq_mem, foldEarly_mem, recvEntry_mem, sqComplete_mem, ← sqEntry_wf, sqStart_mem]

@[simp] theorem cqArm_mem (s : State) (cq : Nat) : (cqArm s cq).mem = s.mem := by
  unfold cqArm; simp only; (repeat' split) <;> simp

@[simp] theorem cqDoorbell_mem (s : State) (ctx cq count : Nat) (arm : Bool) :
    (cqDoorbell s ctx cq count arm).mem = s.mem := by
  unfold cqDoorbell; simp only; (repeat' split) <;> simp

@[simp] theorem execCqDbWrite_keeps {s : State} (h : Memory.wf s.mem = true) (ctx cq count : Nat) :
    Keeps (execCqDbWrite ctx cq count s) := by
  unfold execCqDbWrite
  refine keeps_next ?_
  refine fnCmd_wf h ?_ _ _
  simp [h]

@[simp] theorem execCqDbArm_keeps {s : State} (h : Memory.wf s.mem = true) (ctx cq count : Nat) :
    Keeps (execCqDbArm ctx cq count s) := by
  unfold execCqDbArm
  refine keeps_next ?_
  refine fnCmd_wf h ?_ _ _
  simp [h]

@[simp] theorem execCqModerationTimer_keeps {s : State} (h : Memory.wf s.mem = true) (cq : Nat) :
    Keeps (execCqModerationTimer cq s) := by
  unfold execCqModerationTimer
  refine keeps_next ?_
  refine inActive_wf h ?_
  (repeat' split) <;> simp [h]

@[simp] theorem execHostApertureRead_keeps {s : State} (h : Memory.wf s.mem = true) (ctx off len : Nat) :
    Keeps (execHostApertureRead ctx off len s) := by
  unfold execHostApertureRead
  refine keeps_next ?_
  grind [State.emit_mem, → readOp_of, ← readOp_wf, ← settle_wf]

@[simp] theorem execHostApertureWrite_keeps {s : State} (h : Memory.wf s.mem = true) (ctx off : Nat) (data : List Byte) :
    Keeps (execHostApertureWrite ctx off data s) := by
  unfold execHostApertureWrite
  refine keeps_next ?_
  refine inActive_wf h ?_
  grind [State.count_mem, ← settle_wf, → writeOp_of, ← writeOp_wf]

@[simp] theorem consumeFrame_mem (s : State) (h inbox k : Nat) (f : Nat × Packet) :
    (consumeFrame s h inbox k f).mem = s.mem := by
  unfold consumeFrame; simp only; (repeat' split) <;> simp

@[simp] theorem execPeerInboxDoorbell_keeps {s : State} (h : Memory.wf s.mem = true) (port inbox count : Nat)
    (frames : List (Nat × Packet)) : Keeps (execPeerInboxDoorbell port inbox count frames s) := by
  have hc (k : Nat) (l : List (Nat × Packet)) (t : State) : (l.foldl (fun s f => consumeFrame s port inbox k f) t).mem = t.mem :=
    foldl_mem (by intros; exact consumeFrame_mem ..) l t
  have hb (k n : Nat) : Memory.wf (if 64 < n then s.count F.HOST_PEER_BAD
      else (frames.take n).foldl (fun s f => consumeFrame s port inbox k f) s).mem = true := by
    split
    · exact h
    · rw [hc]; exact h
  refine keeps_next (inActive_wf h ?_)
  split
  · exact h
  · cases inboxPeer s port inbox with
    | none => exact h
    | some k => exact hb k _

@[simp] theorem execPeerOutCredit_keeps {s : State} (h : Memory.wf s.mem = true) (port inbox count : Nat) :
    Keeps (execPeerOutCredit port inbox count s) := by
  refine keeps_next (inActive_wf h ?_)
  split
  · exact h
  · simp only
    split <;> simpa using h

@[simp] theorem vfLimitWrite_mem (s : State) (v : Nat) : (vfLimitWrite s v).mem = s.mem := by
  unfold vfLimitWrite; simp only; (repeat' split) <;> simp

@[simp] theorem execHostVfLimitWrite_keeps {s : State} (h : Memory.wf s.mem = true) (v : Word32) :
    Keeps (execHostVfLimitWrite v s) := by
  unfold execHostVfLimitWrite
  refine keeps_next ?_
  refine regCmd_wf h ?_ _
  simp [h]

/-! ### Contexts, quotas and hosts -/

@[simp] theorem keepRange_mem (s : State) (ctx old new : Nat) (r : Nat × Nat × Nat × Nat) :
    (keepRange s ctx old new r).mem = s.mem := by
  rfl

@[simp] theorem keepStg_mem (s : State) (ctx old new i : Nat) : (keepStg s ctx old new i).mem = s.mem := by
  unfold keepStg; simp only; (repeat' split) <;> simp

@[simp] theorem quotaDone_mem (s : State) (r : Nat) : (quotaDone s r).mem = s.mem := by
  rfl

@[simp] theorem showReclaim_mem (s : State) : (showReclaim s).mem = s.mem := by
  rfl

@[simp] theorem quotaSet_mem (s : State) (ctx : Nat) : (quotaSet s ctx).mem = s.mem := by
  unfold quotaSet; simp only; (repeat' split) <;> simp

@[simp] theorem grantRange_mem (s : State) (ctx old new : Nat) (r : Nat × Nat × Nat × Nat) :
    (grantRange s ctx old new r).mem = s.mem := by
  simp [grantRange]

@[simp] theorem quotaBoundary_mem (s : State) : (quotaBoundary s).mem = s.mem := by
  unfold quotaBoundary; split <;> simp

@[simp] theorem execQuotaSet_keeps {s : State} (h : Memory.wf s.mem = true) (ctx : Nat) :
    Keeps (execQuotaSet ctx s) := by
  unfold execQuotaSet
  refine keeps_next ?_
  refine regCmd_wf h ?_ _
  refine inCtrl_wf h ?_
  simp [h]

@[simp] theorem quotaRead_mem (s : State) (q : BitVec 512) : (quotaRead s q).mem = s.mem := by
  unfold quotaRead; split <;> simp

@[simp] theorem execQuotaReadRequested_keeps {s : State} (h : Memory.wf s.mem = true) (ctx : Nat) :
    Keeps (execQuotaReadRequested ctx s) := by
  unfold execQuotaReadRequested
  refine keeps_next ?_
  refine regCmd_wf h ?_ _
  simp [h]

@[simp] theorem execQuotaReadEffective_keeps {s : State} (h : Memory.wf s.mem = true) (ctx : Nat) :
    Keeps (execQuotaReadEffective ctx s) := by
  unfold execQuotaReadEffective
  refine keeps_next ?_
  refine regCmd_wf h ?_ _
  simp [h]

@[simp] theorem sqDisable_mem (s : State) (ctx q : Nat) : (sqDisable s ctx q).mem = s.mem := by
  unfold sqDisable; simp only; (repeat' split) <;> simp

@[simp] theorem sqEnable_mem (s : State) (ctx q : Nat) : (sqEnable s ctx q).mem = s.mem := by
  rfl

@[simp] theorem endSome_wf {s : State} (h : Memory.wf s.mem = true) (e code : Nat) (p : Desc → Bool) :
    Memory.wf (endSome s e code p).mem = true := by
  unfold endSome
  simp only [showParked_mem]
  refine foldl_wf (fun t x ht => finishNone_wf ht ..) _ ?_
  exact foldl_wf (fun t x ht => finishRun_wf ht ..) _ h

@[simp] theorem takeLaunches_mem (s : State) (ctx : Nat) : (takeLaunches s ctx).1.mem = s.mem := by
  rfl

@[simp] theorem discardProgram_mem (s : State) (z : Frozen) (p : Program) : (discardProgram z s p).mem = s.mem := by
  unfold discardProgram; simp only; (repeat' split) <;> simp

@[simp] theorem discardFrozen_mem (s : State) (ctx : Nat) : (discardFrozen s ctx).mem = s.mem := by
  unfold discardFrozen; split <;> simp

@[simp] theorem contextReset_wf {s : State} (h : Memory.wf s.mem = true) (ctx : Nat) :
    Memory.wf (contextReset s ctx).mem = true := by
  have h1 (l : List Nat) (t : State) : (l.foldl (fun s q => sqDisable s ctx q) t).mem = t.mem := foldl_mem (by intros; simp) l t
  have h2 (l : List Nat) (t : State) : (l.foldl cqDrop t).mem = t.mem := foldl_mem (by intros; simp) l t
  have h3 (l : List Nat) (t : State) : (l.foldl resetQp t).mem = t.mem := foldl_mem (by intros; simp) l t
  have h4 (l : List (LaunchReq × Nat)) (t : State) : (l.foldl (fun s l => s.trkGive l.2) t).mem = t.mem := foldl_mem (by intros; simp) l t
  have h5 (l : List Program) (t : State) : (l.foldl (fun s p => stopProgram s p 10) t).mem = t.mem := foldl_mem (by intros; simp) l t
  have h6 (l : List Nat) (t : State) (ht : Memory.wf t.mem = true) :
      Memory.wf (l.foldl (fun s d => endSome s (4 * d + 1) 0x01 (usesHost s ctx)) t).mem = true :=
          foldl_wf (fun u d hu => endSome_wf hu ..) l ht
  unfold contextReset
  extract_lets t1 t2 t3 t4
  have ht4 : t4.mem = s.mem := by
    unfold t4 t3 t2 t1
    rw [h3, discardFrozen_mem, h2, h1]
  clear_value t4
  have hl := takeLaunches_mem t4 ctx
  generalize takeLaunches t4 ctx = x at hl
  obtain ⟨t, ls⟩ := x
  simp only
  rw [State.count_mem, State.set_mem]
  refine failMigrations_wf (h6 _ _ ?_) ctx
  rw [h5, h4]
  exact (hl.trans ht4).symm ▸ h

@[simp] theorem hostPortLost_wf {s : State} (h : Memory.wf s.mem = true) (n : Nat) :
    Memory.wf (hostPortLost s n).mem = true := by
  have hc (t : State) (ht : Memory.wf t.mem = true) : Memory.wf (if t.pst = 3 || t.pst = 4 then settle ((portCtxs t n).foldl contextReset t) else t).mem = true := by
    split
    · exact settle_wf (foldl_wf (fun u c hu => contextReset_wf hu c) _ ht)
    · exact ht
  unfold hostPortLost
  simp only
  split
  · exact hc _ h
  · exact hc _ h

@[simp] theorem execHostLinkUp_keeps {s : State} (h : Memory.wf s.mem = true) (h rate width : Nat) :
    Keeps (execHostLinkUp h rate width s) := by
  unfold execHostLinkUp
  refine keeps_next ?_
  grind [State.bump_mem, State.set_mem]

@[simp] theorem execHostLinkDown_keeps {s : State} (h : Memory.wf s.mem = true) (h : Nat) :
    Keeps (execHostLinkDown h s) := by
  unfold execHostLinkDown
  refine keeps_next ?_
  grind [← hostPortLost_wf]

@[simp] theorem execFunctionLevelReset_keeps {s : State} (h : Memory.wf s.mem = true) (ctx : Nat) :
    Keeps (execFunctionLevelReset ctx s) := by
  unfold execFunctionLevelReset
  refine keeps_next ?_
  grind [← contextReset_wf, ← settle_wf]

@[simp] theorem execContextDrainComplete_keeps {s : State} (h : Memory.wf s.mem = true) (ctx : Nat) :
    Keeps (execContextDrainComplete ctx s) := by
  unfold execContextDrainComplete
  refine keeps_next ?_
  split <;> simp [h]

@[simp] theorem ctxmDone_mem (s : State) (r : Nat) : (ctxmDone s r).mem = s.mem := by
  rfl

@[simp] theorem startChange_mem (s : State) (k : ModeKind) (a : Nat) : (startChange s k a).mem = s.mem := by
  rfl

@[simp] theorem execCtxmFreeze_keeps {s : State} (h : Memory.wf s.mem = true) (ctx : Nat) :
    Keeps (execCtxmFreeze ctx s) := by
  unfold execCtxmFreeze
  refine keeps_next ?_
  refine regCmd_wf h ?_ _
  (repeat' split) <;> simp [h]

@[simp] theorem freezeCommit_mem (s : State) (ctx : Nat) : (freezeCommit s ctx).mem = s.mem := by
  have hl := takeLaunches_mem s ctx
  unfold freezeCommit
  generalize takeLaunches s ctx = x at hl
  obtain ⟨t, ls⟩ := x
  simp only
  exact (foldl_mem (by intros; rfl) _ _).trans hl

@[simp] theorem execFreezeComplete_keeps {s : State} (h : Memory.wf s.mem = true) (ctx : Nat) :
    Keeps (execFreezeComplete ctx s) := by
  unfold execFreezeComplete
  refine keeps_next ?_
  (repeat' split) <;> simp [h]

@[simp] theorem writeBlob_wf {s : State} (h : Memory.wf s.mem = true) (ctx slot : Nat) (z : Frozen) (key : List Byte) :
    Memory.wf (writeBlob s ctx slot z key).mem = true := by
  unfold writeBlob
  extract_lets count body hd ct tag blob
  split
  · simpa using h
  · have hw := writeOp_wf h .ls 116 0 s.sq.opNo (ctxmAddr s) blob
    generalize writeOp s .ls 116 0 s.sq.opNo (ctxmAddr s) blob = x at hw
    obtain ⟨t, g⟩ := x
    cases g <;> (simp only [ctxmDone_mem]; exact hw)

@[simp] theorem execCtxmSave_keeps {s : State} (h : Memory.wf s.mem = true) (ctx : Nat) :
    Keeps (execCtxmSave ctx s) := by
  refine keeps_next (regCmd_wf h ?_ _)
  have hd (r : Nat) {t : State} (ht : Memory.wf t.mem = true) : Memory.wf (ctxmDone t r).mem = true := by rw [ctxmDone_mem]; exact ht
  split
  · exact hd _ h
  · cases smFind s.ho.frozen ctx with
    | none => exact hd _ h
    | some z =>
      simp only
      split
      · exact hd _ h
      · have hf : Memory.wf s.fresh.2.mem = true := h
        split
        · exact hd _ hf
        · exact settle_wf (writeBlob_wf hf ..)

@[simp] theorem restoreRefused_mem (s : State) (code : Nat) : (restoreRefused s code).mem = s.mem := by
  rfl

@[simp] theorem adoptOp_mem (s : State) (ctx base : Nat) (num : Nat → Nat → Nat) (o : Op) :
    (adoptOp ctx base num s o).1.mem = s.mem := by
  rfl

@[simp] theorem adoptOps_mem (s : State) (ctx base : Nat) (num : Nat → Nat → Nat) (l : List Op) :
    (adoptOps ctx base num s l).1.mem = s.mem := by
  fun_induction adoptOps ctx base num s l <;> grind [adoptOp_mem]

@[simp] theorem adoptQp_mem (s : State) (ctx base : Nat) (num : Nat → Nat → Nat) (e : Nat × Qp) :
    (adoptQp ctx base num s e).mem = s.mem := by
  simp [adoptQp]

@[simp] theorem adoptSq_mem (s : State) (ctx : Nat) (i : SqImage) : (adoptSq ctx s i).mem = s.mem := by
  unfold adoptSq; simp only; (repeat' split) <;> simp

@[simp] theorem adoptProg_mem (s : State) (ctx : Nat) (p : Program) : (adoptProg ctx s p).mem = s.mem := by
  rfl

theorem admitSaved_mem {ctx : Nat} {s t : State} {ps : List Program} (h : admitSaved ctx s ps = some t) :
    t.mem = s.mem := by
  induction ps generalizing s with
  | nil => rw [← Option.some.inj h]
  | cons p ps ih =>
    unfold admitSaved at h
    split at h
    · cases h
    · exact (ih h).trans (adoptProg_mem ..)

@[simp] theorem adopt_mem (s0 s : State) (ctx : Nat) (m : CtxImage) : (adopt s0 s ctx m).mem = s.mem := by
  have hl (t : State) : (m.launches.foldl (fun (x : State × List (LaunchReq × Nat)) r =>
      (x.1.trkTake ctx 0, x.2 ++ [({ r with ctx := ctx }, x.1.sq.opNo)])) (t, [])).1.mem = t.mem :=
    foldl_keeps (P := fun x : State × List (LaunchReq × Nat) => x.1.mem = t.mem) (by intro x r hx; exact hx) m.launches rfl
  unfold adopt
  simp only [ctxmDone_mem, State.set_mem]
  refine (foldl_mem (by intros; rfl) _ _).trans ((hl _).trans ?_)
  exact (foldl_mem (by intros; simp) _ _).trans (foldl_mem (by intros; simp) _ _)

@[simp] theorem readBlob_wf {s : State} (h : Memory.wf s.mem = true) : Memory.wf (readBlob s).1.mem = true := by
  unfold readBlob
  grind [→ readOp_of, ← readOp_wf]

theorem readBlob_of {s t : State} {y : Except Nat (List Byte)} (h : Memory.wf s.mem = true) (e : readBlob s = (t, y)) :
    Memory.wf t.mem = true :=
  pair_wf e (readBlob_wf h ..)

@[simp] theorem readRemap_wf {s : State} (h : Memory.wf s.mem = true) : Memory.wf (readRemap s).1.mem = true := by
  unfold readRemap
  grind [→ readOp_of, ← readOp_wf]

theorem readRemap_of {s t : State} {y : Option (List Byte)} (h : Memory.wf s.mem = true) (e : readRemap s = (t, y)) :
    Memory.wf t.mem = true :=
  pair_wf e (readRemap_wf h ..)

@[simp] theorem restoreStart_wf {s : State} (h : Memory.wf s.mem = true) (ctx : Nat) :
    Memory.wf (restoreStart s ctx).mem = true := by
  unfold restoreStart
  grind [→ readBlob_of, ← readBlob_wf, → readRemap_of, ← readRemap_wf, restoreRefused_mem]

@[simp] theorem execCtxmRestore_keeps {s : State} (h : Memory.wf s.mem = true) (ctx : Nat) :
    Keeps (execCtxmRestore ctx s) := by
  unfold execCtxmRestore
  refine keeps_next ?_
  refine regCmd_wf h ?_ _
  (repeat' split) <;> simp [h]

@[simp] theorem restoreBoundary_mem (s : State) : (restoreBoundary s).mem = s.mem := by
  unfold restoreBoundary
  split
  · rfl
  · rename_i ctx m _
    simp only
    split
    · simp
    · split
      · simp
      · rename_i t ht
        rw [adopt_mem, foldl_mem (by intros; rfl), admitSaved_mem ht]

@[simp] theorem execCtxmThaw_keeps {s : State} (h : Memory.wf s.mem = true) (ctx : Nat) :
    Keeps (execCtxmThaw ctx s) := by
  unfold execCtxmThaw
  refine keeps_next ?_
  refine regCmd_wf h ?_ _
  (repeat' split) <;> simp [h]

@[simp] theorem reload_mem (s : State) (e : Th × Thread) : (reload s e).mem = s.mem := by
  unfold reload; simp only; (repeat' split) <;> simp

@[simp] theorem thawCommit_wf {s : State} (h : Memory.wf s.mem = true) (ctx : Nat) :
    Memory.wf (thawCommit s ctx).mem = true := by
  unfold thawCommit
  split
  · exact h
  · rename_i z hz
    split
    · simpa using h
    · refine foldl_wf (fun t q ht => by simpa using ht) _ ?_
      refine foldl_wf (fun t l ht => launchOrHold_wf ht ..) _ ?_
      simp only [ctxmDone_mem, State.set_mem]
      exact foldl_wf (fun t x ht => by simpa using ht) z.threads h

@[simp] theorem execCtxmDiscard_keeps {s : State} (h : Memory.wf s.mem = true) (ctx : Nat) :
    Keeps (execCtxmDiscard ctx s) := by
  unfold execCtxmDiscard
  refine keeps_next ?_
  refine regCmd_wf h ?_ _
  (repeat' split) <;> simp [h]

@[simp] theorem execCtxmRepoint_keeps {s : State} (h : Memory.wf s.mem = true) (ctx qp : Nat) :
    Keeps (execCtxmRepoint ctx qp s) := by
  unfold execCtxmRepoint
  refine keeps_next ?_
  refine regCmd_wf h ?_ _
  simp only
  (repeat' split) <;> simp [h]

/-! ### Keys and firmware -/

@[simp] theorem ceKeyDone_mem (s : State) (r : Nat) : (ceKeyDone s r).mem = s.mem := by
  rfl

@[simp] theorem State.setKeys_mem (s : State) (m : SMap (Bool × BitVec 256)) : (State.setKeys s m).mem = s.mem := by
  rfl

@[simp] theorem execCeKeySet_keeps {s : State} (h : Memory.wf s.mem = true) (ctx idx : Nat) (use_ : Bool) :
    Keeps (execCeKeySet ctx idx use_ s) := by
  unfold execCeKeySet
  refine keeps_next ?_
  refine regCmd_wf h ?_ _
  (repeat' split) <;> simp [h]

@[simp] theorem execCeKeyClear_keeps {s : State} (h : Memory.wf s.mem = true) (ctx idx : Nat) :
    Keeps (execCeKeyClear ctx idx s) := by
  unfold execCeKeyClear
  refine keeps_next ?_
  refine regCmd_wf h ?_ _
  (repeat' split) <;> simp [h]

@[simp] theorem execCeKeyRead_keeps {s : State} (h : Memory.wf s.mem = true) (ctx idx : Nat) :
    Keeps (execCeKeyRead ctx idx s) := by
  unfold execCeKeyRead
  refine keeps_next ?_
  refine regCmd_wf h ?_ _
  simp only
  (repeat' split) <;> simp [h]

@[simp] theorem keySlotDone_mem (s : State) (r : Nat) : (keySlotDone s r).mem = s.mem := by
  rfl

@[simp] theorem setAct_mem (s : State) (b : Bank) : (setAct s b).mem = s.mem := by
  rfl

@[simp] theorem putSlots_mem (s : State) (kind : Nat) (m : SMap (List Byte)) : (putSlots s kind m).mem = s.mem := by
  unfold putSlots; split <;> simp

@[simp] theorem execKeySlotSet_keeps {s : State} (h : Memory.wf s.mem = true) (kind slot : Nat) :
    Keeps (execKeySlotSet kind slot s) := by
  unfold execKeySlotSet
  refine keeps_next ?_
  refine regCmd_wf h ?_ _
  split <;> simp [h]

@[simp] theorem execKeySlotClear_keeps {s : State} (h : Memory.wf s.mem = true) (kind slot : Nat) :
    Keeps (execKeySlotClear kind slot s) := by
  unfold execKeySlotClear
  refine keeps_next ?_
  refine regCmd_wf h ?_ _
  split <;> simp [h]

@[simp] theorem fwDone_mem (s : State) (r c : Nat) : (fwDone s r c).mem = s.mem := by
  rfl

@[simp] theorem fwOpen_mem (s : State) : (fwOpen s).1.mem = s.mem := by
  unfold fwOpen; (repeat' split) <;> simp

@[simp] theorem fwStageBytes_mem (s : State) (b : List Byte) (written : Bool) :
    (fwStageBytes s b written).1.mem = s.mem := by
  unfold fwStageBytes; (repeat' split) <;> simp

@[simp] theorem fwRead_wf {s : State} (h : Memory.wf s.mem = true) (a n : Nat) :
    Memory.wf (fwRead s a n).1.mem = true := by
  unfold fwRead
  grind [→ readOp_of, ← readOp_wf]

theorem fwRead_of {s : State} {a n : Nat} {t : State} {y : Option (List Byte)} (h : Memory.wf s.mem = true)
    (e : fwRead s a n = (t, y)) : Memory.wf t.mem = true :=
  pair_wf e (fwRead_wf h ..)

@[simp] theorem execFwOpenSession_keeps {s : State} (h : Memory.wf s.mem = true) : Keeps (execFwOpenSession s) := by
  unfold execFwOpenSession
  refine keeps_next ?_
  refine regCmd_wf h ?_ _
  refine inCtrl_wf h ?_
  simp [h]

@[simp] theorem execFwStage_keeps {s : State} (h : Memory.wf s.mem = true) (written : Bool) :
    Keeps (execFwStage written s) := by
  unfold execFwStage
  refine keeps_next ?_
  refine regCmd_wf h ?_ _
  refine inCtrl_wf h ?_
  grind [State.count_mem, fwDone_mem, → fwRead_of, ← fwRead_wf, fwStageBytes_mem, ← settle_wf]

@[simp] theorem fwEnd_mem (s : State) : (fwEnd s).mem = s.mem := by
  rfl

@[simp] theorem fwCancel_mem (s : State) : (fwCancel s).1.mem = s.mem := by
  unfold fwCancel; (repeat' split) <;> simp

@[simp] theorem execFwCancel_keeps {s : State} (h : Memory.wf s.mem = true) : Keeps (execFwCancel s) := by
  unfold execFwCancel
  refine keeps_next ?_
  refine regCmd_wf h ?_ _
  refine inCtrl_wf h ?_
  simp [h]

@[simp] theorem execFwLockClass_keeps {s : State} (h : Memory.wf s.mem = true) (confirm : Nat) :
    Keeps (execFwLockClass confirm s) := by
  unfold execFwLockClass
  refine keeps_next ?_
  refine regCmd_wf h ?_ _
  refine inCtrl_wf h ?_
  (repeat' split) <;> simp [h]

@[simp] theorem releaseHeld_wf {s : State} (h : Memory.wf s.mem = true) : Memory.wf (releaseHeld s).mem = true := by
  unfold releaseHeld
  simp only [sqFetchAll_mem]
  exact foldl_wf (fun t l ht => launchOrHold_wf ht ..) s.pw.launches h

@[simp] theorem fwActivate_mem (s : State) : (fwActivate s).1.mem = s.mem := by
  unfold fwActivate; (repeat' split) <;> simp

@[simp] theorem execFwActivate_keeps {s : State} (h : Memory.wf s.mem = true) : Keeps (execFwActivate s) := by
  unfold execFwActivate
  refine keeps_next ?_
  refine regCmd_wf h ?_ _
  refine inCtrl_wf h ?_
  simp only
  (repeat' split) <;> simp [h]

@[simp] theorem execFwActivationDrainDone_keeps {s : State} (h : Memory.wf s.mem = true) :
    Keeps (execFwActivationDrainDone s) := by
  unfold execFwActivationDrainDone
  refine keeps_next ?_
  (repeat' split) <;> simp [h]

@[simp] theorem fwAbandon_wf {s : State} (h : Memory.wf s.mem = true) (r : Nat) :
    Memory.wf (fwAbandon s r).mem = true := by
  simp [fwAbandon, h]

@[simp] theorem fwDrainTimeout_wf {s : State} (h : Memory.wf s.mem = true) :
    Memory.wf (fwDrainTimeout s).mem = true := by
  unfold fwDrainTimeout; (repeat' split) <;> simp [h]

@[simp] theorem execFwActivationDrainTimeout_keeps {s : State} (h : Memory.wf s.mem = true) :
    Keeps (execFwActivationDrainTimeout s) := by
  unfold execFwActivationDrainTimeout
  refine keeps_next ?_
  simp [h]

@[simp] theorem pauseAll_mem (s : State) (time : Nat) : (pauseAll s time).mem = s.mem :=
  foldl_mem (fun t n => ctlSend_mem ..) _ _

@[simp] theorem fwCommit_mem (s : State) : (fwCommit s).mem = s.mem := by
  unfold fwCommit
  grind [pauseAll_mem]

@[simp] theorem settingsStart_mem (s : State) : (settingsStart s).mem = s.mem := by
  unfold settingsStart; simp only; (repeat' split) <;> simp

@[simp] theorem fwSwap_mem (s : State) : (fwSwap s).mem = s.mem := by
  unfold fwSwap; simp only; (repeat' split) <;> simp

@[simp] theorem execFwLoadComplete_keeps {s : State} (h : Memory.wf s.mem = true) (failed : Option Nat) :
    Keeps (execFwLoadComplete failed s) := by
  unfold execFwLoadComplete
  refine keeps_next ?_
  (repeat' split) <;> simp [h]

@[simp] theorem fwBoundary_wf {s : State} (h : Memory.wf s.mem = true) : Memory.wf (fwBoundary s).mem = true := by
  unfold fwBoundary; split <;> simp [h]

@[simp] theorem relaySend_mem (s : State) (a n qn : Nat) : (relaySend s a n qn).mem = s.mem := by
  simp [relaySend]

@[simp] theorem relayRun_wf {s : State} (h : Memory.wf s.mem = true) (a : Nat) (written : Bool) :
    Memory.wf (relayRun s a written).1.mem = true := by
  have hs (l : List Nat) (n : Nat) (t : State) : (l.foldl (fun s qn => relaySend s a n qn) t).mem = t.mem := foldl_mem (by intros; simp) l t
  unfold relayRun
  split
  · rw [State.count_mem]; exact fwRead_of h ‹_›
  · split
    · rw [State.count_mem]; exact fwRead_of (fwRead_of h ‹_›) ‹_›
    · rename_i u p hp
      have hu : Memory.wf u.mem = true := fwRead_of (fwRead_of h ‹_›) hp
      simp only
      (repeat' split) <;> simp [hs, hu]

theorem relayRun_of {s : State} {a : Nat} {written : Bool} {t : State} {y : Nat} (h : Memory.wf s.mem = true)
    (e : relayRun s a written = (t, y)) : Memory.wf t.mem = true :=
  pair_wf e (relayRun_wf h ..)

@[simp] theorem execFwRelay_keeps {s : State} (h : Memory.wf s.mem = true) : Keeps (execFwRelay s) := by
  unfold execFwRelay
  refine keeps_next ?_
  refine regCmd_wf h ?_ _
  refine inCtrl_wf h ?_
  simp only
  (repeat' split) <;> simp [h]

@[simp] theorem execRelayPackageArrival_keeps {s : State} (h : Memory.wf s.mem = true) (written : Bool) :
    Keeps (execRelayPackageArrival written s) := by
  unfold execRelayPackageArrival
  refine keeps_next ?_
  refine inActive_wf h ?_
  refine inCtrl_wf h ?_
  simp [h]

/-! ### Power, Bring-up and resets -/

@[simp] theorem execHoldingUnitAccess_keeps {s : State} (h : Memory.wf s.mem = true) (u : HoldUnit)
    (as : List TileAccess) : Keeps (execHoldingUnitAccess u as s) := by
  unfold execHoldingUnitAccess
  split
  · exact fun t ht => by cases ht
  · exact keeps_next (inActive_wf h (settle_wf (holdServe_wf h ..)))

@[simp] theorem keepReg_mem (t s : State) (off : Nat) : (keepReg t s off).mem = s.mem := by
  unfold keepReg; split <;> rfl

theorem resetAll_wf (t : State) : Memory.wf (resetAll t).mem = true := by
  have hk (l : List Nat) (s : State) : (l.foldl (keepReg t) s).mem = s.mem := foldl_mem (by intros; simp) l s
  have hset (l : List Nat) (s : State) : (l.foldl (fun s m => s.set (F.LB_STATUS_LATCH m) (t.get (F.LB_STATUS_LATCH m))) s).mem = s.mem :=
    foldl_mem (by intros; rfl) l s
  unfold resetAll
  simp only [hset]
  split
  · rw [State.emit_mem, hk]; rfl
  · rw [hk]; rfl

@[simp] theorem toStandby_wf (s : State) : Memory.wf (toStandby s).mem = true := by
  unfold toStandby
  exact foldl_wf (fun t b ht => refillBank_wf ht b) _ (resetAll_wf _)

@[simp] theorem startBringUp_mem (s : State) (straps : Nat) : (startBringUp s straps).mem = s.mem := by
  rfl

@[simp] theorem execVaux3v3Applied_keeps {s : State} (h : Memory.wf s.mem = true) : Keeps (execVaux3v3Applied s) := by
  unfold execVaux3v3Applied
  refine keeps_next ?_
  split <;> simp [h]

@[simp] theorem toOff_mem (s : State) : (toOff s).mem = s.mem := by
  rfl

@[simp] theorem execVaux3v3Removed_keeps {s : State} (h : Memory.wf s.mem = true) : Keeps (execVaux3v3Removed s) := by
  unfold execVaux3v3Removed
  refine keeps_next ?_
  split <;> simp [h]

@[simp] theorem execVaux3v3Collapse_keeps {s : State} (h : Memory.wf s.mem = true) : Keeps (execVaux3v3Collapse s) := by
  unfold execVaux3v3Collapse
  refine keeps_next ?_
  split <;> simp [h]

@[simp] theorem execV54InReady_keeps {s : State} (h : Memory.wf s.mem = true) (straps : Nat) :
    Keeps (execV54InReady straps s) := by
  unfold execV54InReady
  refine keeps_next ?_
  simp only
  (repeat' split) <;> simp [h]

@[simp] theorem execV54InLoss_keeps {s : State} (h : Memory.wf s.mem = true) : Keeps (execV54InLoss s) := by
  unfold execV54InLoss
  refine keeps_next ?_
  simp only
  (repeat' split) <;> simp [h]

@[simp] theorem execModResetAssert_keeps {s : State} (h : Memory.wf s.mem = true) : Keeps (execModResetAssert s) := by
  unfold execModResetAssert
  refine keeps_next ?_
  grind [State.set_mem, ← resetAll_wf]

@[simp] theorem execModResetRelease_keeps {s : State} (h : Memory.wf s.mem = true) (straps : Nat) :
    Keeps (execModResetRelease straps s) := by
  unfold execModResetRelease
  refine keeps_next ?_
  (repeat' split) <;> simp [h]

@[simp] theorem execPerstNAssert_keeps {s : State} (h : Memory.wf s.mem = true) (h : Nat) :
    Keeps (execPerstNAssert h s) := by
  unfold execPerstNAssert
  refine keeps_next ?_
  grind [← hostPortLost_wf]

@[simp] theorem execPerstNRelease_keeps {s : State} (h : Memory.wf s.mem = true) (h : Nat) :
    Keeps (execPerstNRelease h s) := by
  unfold execPerstNRelease
  refine keeps_next ?_
  grind []

@[simp] theorem brHalt_mem (s : State) (detail : Nat) : (brHalt s detail).mem = s.mem := by
  rfl

@[simp] theorem selfTestFence_wf {s : State} (h : Memory.wf s.mem = true) (u : FUnit) :
    Memory.wf (selfTestFence s u).mem = true := by
  unfold selfTestFence; split <;> simp [h]

@[simp] theorem stageDone_wf {s : State} (h : Memory.wf s.mem = true) : Memory.wf (stageDone s).mem = true := by
  have hset (l : List Nat) (t : State) : (l.foldl (fun s m => s.set (F.LB_STATUS_STATE m) 1) t).mem = t.mem :=
      foldl_mem (by intros; rfl) l t
  unfold stageDone
  simp only
  split
  · exact foldl_wf (fun t b ht => powerBank_wf ht b) _ h
  · split
    · exact h
    · split
      · exact settle_wf (by rw [settingsStart_mem, showSets_mem]; exact loadReserve_wf h)
      · split
        · exact zeroHbm_wf (by rw [hset]; exact h)
        · exact h

@[simp] theorem stageFirmware_mem (s : State) (detail : Nat) : (stageFirmware s detail).mem = s.mem := by
  unfold stageFirmware; split <;> simp

@[simp] theorem stageFailed_wf {s : State} (h : Memory.wf s.mem = true) (detail : Nat) :
    Memory.wf (stageFailed s detail).mem = true := by
  unfold stageFailed; (repeat' split) <;> simp [h]

@[simp] theorem execBringUpStageComplete_keeps {s : State} (h : Memory.wf s.mem = true) (r : StageResult) :
    Keeps (execBringUpStageComplete r s) := by
  refine keeps_next ?_
  split
  · exact h
  · cases r with
    | clean => exact stageDone_wf h
    | failed d => exact stageFailed_wf h d
    | failedUnits us =>
      simp only
      split
      · exact h
      · split
        · simpa using h
        · exact stageDone_wf (foldl_wf (fun t x ht => selfTestFence_wf ht x) _ h)

@[simp] theorem execBringUpStageLimit_keeps {s : State} (h : Memory.wf s.mem = true) :
    Keeps (execBringUpStageLimit s) := by
  unfold execBringUpStageLimit
  refine keeps_next ?_
  split <;> simp [h]

@[simp] theorem execEnterActive_keeps {s : State} (h : Memory.wf s.mem = true) : Keeps (execEnterActive s) := by
  unfold execEnterActive
  refine keeps_next ?_
  split <;> simp [h]

@[simp] theorem pwrEvent_mem (s : State) (last : Nat) : (pwrEvent s last).mem = s.mem := by
  rfl

@[simp] theorem pwrOp_wf {s : State} (h : Memory.wf s.mem = true) (op : Nat) : Memory.wf (pwrOp s op).mem = true := by
  unfold pwrOp; (repeat' split) <;> simp [h]

@[simp] theorem pwrCmd_wf {s : State} (h : Memory.wf s.mem = true) (mgmt : Bool) (op : Nat) :
    Memory.wf (pwrCmd s mgmt op).mem = true := by
  unfold pwrCmd
  split
  · exact regCmd_wf h (pwrOp_wf h op) true
  · split <;> exact h

@[simp] theorem execRestRequest_keeps {s : State} (h : Memory.wf s.mem = true) (mgmt : Bool) :
    Keeps (execRestRequest mgmt s) := by
  unfold execRestRequest
  refine keeps_next ?_
  simp [h]

@[simp] theorem execRestExitRequest_keeps {s : State} (h : Memory.wf s.mem = true) (mgmt : Bool) :
    Keeps (execRestExitRequest mgmt s) := by
  unfold execRestExitRequest
  refine keeps_next ?_
  simp [h]

@[simp] theorem execRestDrainDone_keeps {s : State} (h : Memory.wf s.mem = true) : Keeps (execRestDrainDone s) := by
  unfold execRestDrainDone
  refine keeps_next ?_
  split <;> simp [h]

@[simp] theorem restDrainTimeout_wf {s : State} (h : Memory.wf s.mem = true) :
    Memory.wf (restDrainTimeout s).mem = true := by
  unfold restDrainTimeout; (repeat' split) <;> simp [h]

@[simp] theorem execRestDrainTimeout_keeps {s : State} (h : Memory.wf s.mem = true) :
    Keeps (execRestDrainTimeout s) := by
  unfold execRestDrainTimeout
  refine keeps_next ?_
  simp [h]

@[simp] theorem opticsDown_mem (s : State) : (opticsDown s).mem = s.mem := by
  unfold opticsDown
  simp only
  rw [foldl_mem (by intros; simp), foldl_mem (by intros; rfl)]

@[simp] theorem restCommit_mem (s : State) : (restCommit s).mem = s.mem := by
  unfold restCommit; simp only; (repeat' split) <;> simp

@[simp] theorem restAbort_wf {s : State} (h : Memory.wf s.mem = true) : Memory.wf (restAbort s).mem = true := by
  simp [restAbort, h]

@[simp] theorem execRestExitUnitArmed_keeps {s : State} (h : Memory.wf s.mem = true) (u : Nat) :
    Keeps (execRestExitUnitArmed u s) := by
  unfold execRestExitUnitArmed
  refine keeps_next ?_
  (repeat' split) <;> simp [h]

@[simp] theorem modeDone_mem (s : State) (kind : Nat) : (modeDone s kind).mem = s.mem := by
  rfl

@[simp] theorem execRestExitCommit_keeps {s : State} (h : Memory.wf s.mem = true) : Keeps (execRestExitCommit s) := by
  unfold execRestExitCommit
  refine keeps_next ?_
  (repeat' split) <;> simp [h]

@[simp] theorem execRestExitArmTimeout_keeps {s : State} (h : Memory.wf s.mem = true) :
    Keeps (execRestExitArmTimeout s) := by
  have hr (l : List Nat) (t : State) : (l.foldl (fun s u => s.raise 13 u 0) t).mem = t.mem := foldl_mem (by intros; rfl) l t
  refine keeps_next ?_
  split
  · exact h
  · split
    · exact settle_wf (by rw [hr]; exact h)
    · exact h

theorem onBus_wf {s : State} (h : Memory.wf s.mem = true) {f : State → State} (hf : Memory.wf (f s).mem = true) :
    Memory.wf (onBus s f).mem = true := by
  unfold onBus; split <;> assumption

@[simp] theorem vendor_mem (s : State) (cmd status : Nat) (data : List Byte) :
    (vendor s cmd status data).mem = s.mem := by
  rfl

@[simp] theorem execSetPower_keeps {s : State} (h : Memory.wf s.mem = true) (op flags drainTicks : Nat) :
    Keeps (execSetPower op flags drainTicks s) := by
  unfold execSetPower
  refine keeps_next ?_
  refine onBus_wf h ?_
  (repeat' split) <;> simp [h]

@[simp] theorem hardLevers_mem (s : State) (tj : Nat) : (hardLevers s tj).mem = s.mem := by
  unfold hardLevers; split <;> simp

@[simp] theorem declareLate_mem (s : State) : (declareLate s).mem = s.mem := by
  unfold declareLate
  simp only
  exact foldl_mem (by intros; rfl) _ s

@[simp] theorem hardThermal_mem (s : State) (tj : Nat) : (hardThermal s tj).mem = s.mem := by
  unfold hardThermal; split <;> simp

@[simp] theorem saturate_mem (s : State) : (saturate s).mem = s.mem := by
  unfold saturate; split <;> simp

@[simp] theorem capCut_mem (s : State) : (capCut s).mem = s.mem := by
  unfold capCut; simp only; (repeat' split) <;> simp

@[simp] theorem capRaise_mem (s : State) : (capRaise s).mem = s.mem := by
  unfold capRaise; simp only; (repeat' split) <;> simp

@[simp] theorem capInterval_mem (s : State) (tj avgW : Nat) : (capInterval s tj avgW).mem = s.mem := by
  unfold capInterval; simp only; (repeat' split) <;> simp

@[simp] theorem execCapIntervalEnd_keeps {s : State} (h : Memory.wf s.mem = true) (tj avgW : Nat) :
    Keeps (execCapIntervalEnd tj avgW s) := by
  unfold execCapIntervalEnd
  refine keeps_next ?_
  simp only
  (repeat' split) <;> simp [h]

@[simp] theorem pwrThermWrite_mem (s : State) (therm : Bool) (v : Nat) : (pwrThermWrite s therm v).mem = s.mem := by
  unfold pwrThermWrite; (repeat' split) <;> simp

@[simp] theorem execPwrThermWrite_keeps {s : State} (h : Memory.wf s.mem = true) (therm : Bool) (v : Word32) :
    Keeps (execPwrThermWrite therm v s) := by
  unfold execPwrThermWrite
  refine keeps_next ?_
  refine regCmd_wf h ?_ _
  simp [h]

@[simp] theorem execPwrLifeWrite_keeps {s : State} (h : Memory.wf s.mem = true) : Keeps (execPwrLifeWrite s) := by
  unfold execPwrLifeWrite
  refine keeps_next ?_
  split <;> simp [h]

/-! ### The management bus -/

@[simp] theorem execSetdasa_keeps {s : State} (h : Memory.wf s.mem = true) (target addr : Nat) :
    Keeps (execSetdasa target addr s) := by
  unfold execSetdasa
  refine keeps_next ?_
  split <;> simp [h]

@[simp] theorem execEntdaa_keeps {s : State} (h : Memory.wf s.mem = true) (addr : Nat) : Keeps (execEntdaa addr s) := by
  unfold execEntdaa
  refine keeps_next ?_
  split <;> simp [h]

@[simp] theorem reply_mem (s : State) (data : List Byte) : (reply s data).mem = s.mem := by
  rfl

@[simp] theorem refuseMsg_mem (s : State) : (refuseMsg s).mem = s.mem := by
  rfl

@[simp] theorem execSetEndpointId_keeps {s : State} (h : Memory.wf s.mem = true) (eid : Nat) :
    Keeps (execSetEndpointId eid s) := by
  unfold execSetEndpointId
  refine keeps_next ?_
  refine onBus_wf h ?_
  exact h

@[simp] theorem execGetEndpointId_keeps {s : State} (h : Memory.wf s.mem = true) : Keeps (execGetEndpointId s) := by
  unfold execGetEndpointId
  refine keeps_next ?_
  refine onBus_wf h ?_
  exact h

@[simp] theorem freeData_mem (s : State) (n : Nat) : (freeData s n).2.mem = s.mem := rfl

@[simp] theorem execGetMctpVersionSupport_keeps {s : State} (h : Memory.wf s.mem = true) (msgType : Nat) :
    Keeps (execGetMctpVersionSupport msgType s) := by
  unfold execGetMctpVersionSupport
  refine keeps_next ?_
  refine onBus_wf h ?_
  split <;> simp [h]

@[simp] theorem execGetMessageTypeSupport_keeps {s : State} (h : Memory.wf s.mem = true) :
    Keeps (execGetMessageTypeSupport s) := by
  unfold execGetMessageTypeSupport
  refine keeps_next ?_
  refine onBus_wf h ?_
  exact h

@[simp] theorem execGettid_keeps {s : State} (h : Memory.wf s.mem = true) : Keeps (execGettid s) := by
  unfold execGettid
  refine keeps_next ?_
  refine onBus_wf h ?_
  exact h

@[simp] theorem execGetpldmtypes_keeps {s : State} (h : Memory.wf s.mem = true) : Keeps (execGetpldmtypes s) := by
  unfold execGetpldmtypes
  refine keeps_next ?_
  refine onBus_wf h ?_
  exact h

@[simp] theorem execGetpldmcommands_keeps {s : State} (h : Memory.wf s.mem = true) (type : Nat) :
    Keeps (execGetpldmcommands type s) := by
  unfold execGetpldmcommands
  refine keeps_next ?_
  refine onBus_wf h ?_
  (repeat' split) <;> simp [h]

@[simp] theorem execQuerydeviceidentifiers_keeps {s : State} (h : Memory.wf s.mem = true) :
    Keeps (execQuerydeviceidentifiers s) := by
  unfold execQuerydeviceidentifiers
  refine keeps_next ?_
  refine onBus_wf h ?_
  exact h

@[simp] theorem execGetfirmwareparameters_keeps {s : State} (h : Memory.wf s.mem = true) :
    Keeps (execGetfirmwareparameters s) := by
  unfold execGetfirmwareparameters
  refine keeps_next ?_
  refine onBus_wf h ?_
  exact h

@[simp] theorem setPldm_mem (s : State) (st : Nat) : (setPldm s st).mem = s.mem := by
  rfl

theorem pldmCmd_wf {s : State} (h : Memory.wf s.mem = true) (ok : Nat → Bool) {f : State → State}
    (hf : Memory.wf (f s).mem = true) : Memory.wf (pldmCmd s ok f).mem = true := by
  refine onBus_wf h ?_
  split
  · exact hf
  · simpa using h

@[simp] theorem execRequestupdate_keeps {s : State} (h : Memory.wf s.mem = true) : Keeps (execRequestupdate s) := by
  unfold execRequestupdate
  refine keeps_next ?_
  refine pldmCmd_wf h _ ?_
  grind [fwOpen_mem, pldmCmd_wf, refuseMsg_mem, reply_mem, setPldm_mem]

@[simp] theorem execPasscomponenttable_keeps {s : State} (h : Memory.wf s.mem = true) (comp : Nat) :
    Keeps (execPasscomponenttable comp s) := by
  unfold execPasscomponenttable
  refine keeps_next ?_
  refine pldmCmd_wf h _ ?_
  split <;> simp [h]

@[simp] theorem execUpdatecomponent_keeps {s : State} (h : Memory.wf s.mem = true) (comp : Nat) :
    Keeps (execUpdatecomponent comp s) := by
  unfold execUpdatecomponent
  refine keeps_next ?_
  refine pldmCmd_wf h _ ?_
  split <;> simp [h]

@[simp] theorem execRequestfirmwaredata_keeps {s : State} (h : Memory.wf s.mem = true) (offset : Nat) (data : List Byte) :
    Keeps (execRequestfirmwaredata offset data s) := by
  unfold execRequestfirmwaredata
  refine keeps_next ?_
  refine onBus_wf h ?_
  split <;> simp [h]

@[simp] theorem pldmReport_mem (s : State) (cmd : Byte) (ok : Bool) : (pldmReport s cmd ok).mem = s.mem := by
  unfold pldmReport; split <;> simp

@[simp] theorem execTransfercomplete_keeps {s : State} (h : Memory.wf s.mem = true) (ok : Bool) :
    Keeps (execTransfercomplete ok s) := by
  unfold execTransfercomplete
  refine keeps_next ?_
  refine onBus_wf h ?_
  split <;> simp [h]

@[simp] theorem execVerifycomplete_keeps {s : State} (h : Memory.wf s.mem = true) : Keeps (execVerifycomplete s) := by
  unfold execVerifycomplete
  refine keeps_next ?_
  refine onBus_wf h ?_
  split <;> simp [h]

@[simp] theorem execApplycomplete_keeps {s : State} (h : Memory.wf s.mem = true) (written : Bool) :
    Keeps (execApplycomplete written s) := by
  unfold execApplycomplete
  refine keeps_next ?_
  refine onBus_wf h ?_
  split <;> simp [h]

@[simp] theorem execActivatefirmware_keeps {s : State} (h : Memory.wf s.mem = true) :
    Keeps (execActivatefirmware s) := by
  unfold execActivatefirmware
  refine keeps_next ?_
  refine pldmCmd_wf h _ ?_
  grind [fwActivate_mem, fwDone_mem, pldmCmd_wf, refuseMsg_mem, reply_mem, setPldm_mem]

@[simp] theorem execGetstatus_keeps {s : State} (h : Memory.wf s.mem = true) : Keeps (execGetstatus s) := by
  unfold execGetstatus
  refine keeps_next ?_
  refine onBus_wf h ?_
  exact h

@[simp] theorem execCancelupdatecomponent_keeps {s : State} (h : Memory.wf s.mem = true) :
    Keeps (execCancelupdatecomponent s) := by
  unfold execCancelupdatecomponent
  refine keeps_next ?_
  refine pldmCmd_wf h _ ?_
  exact h

@[simp] theorem execCancelupdate_keeps {s : State} (h : Memory.wf s.mem = true) : Keeps (execCancelupdate s) := by
  unfold execCancelupdate
  refine keeps_next ?_
  refine pldmCmd_wf h _ ?_
  grind [fwCancel_mem, pldmCmd_wf, refuseMsg_mem, reply_mem, setPldm_mem]

@[simp] theorem execGetCert_keeps {s : State} (h : Memory.wf s.mem = true) (offset len : Nat) :
    Keeps (execGetCert offset len s) := by
  unfold execGetCert
  refine keeps_next ?_
  refine onBus_wf h ?_
  split <;> simp [h]

@[simp] theorem execGetQuote_keeps {s : State} (h : Memory.wf s.mem = true) (nonce : List Byte) :
    Keeps (execGetQuote nonce s) := by
  unfold execGetQuote
  refine keeps_next ?_
  refine onBus_wf h ?_
  (repeat' split) <;> simp [h]

@[simp] theorem execQuoteComplete_keeps {s : State} (h : Memory.wf s.mem = true) : Keeps (execQuoteComplete s) := by
  unfold execQuoteComplete
  refine keeps_next ?_
  (repeat' split) <;> simp [h]

@[simp] theorem execReadQuote_keeps {s : State} (h : Memory.wf s.mem = true) (offset len : Nat) :
    Keeps (execReadQuote offset len s) := by
  unfold execReadQuote
  refine keeps_next ?_
  refine onBus_wf h ?_
  (repeat' split) <;> simp [h]

@[simp] theorem execGetState_keeps {s : State} (h : Memory.wf s.mem = true) : Keeps (execGetState s) := by
  unfold execGetState
  refine keeps_next ?_
  refine onBus_wf h ?_
  exact h

@[simp] theorem execGetPowerEvent_keeps {s : State} (h : Memory.wf s.mem = true) : Keeps (execGetPowerEvent s) := by
  unfold execGetPowerEvent
  refine keeps_next ?_
  refine onBus_wf h ?_
  exact h

/-! ### Ticks, mode changes and PTP -/

@[simp] theorem modeCmd_mem (s : State) (tick swap : Bool) : (modeCmd s tick swap).mem = s.mem := by
  unfold modeCmd; (repeat' split) <;> simp

@[simp] theorem execModeCmdTick_keeps {s : State} (h : Memory.wf s.mem = true) (swap : Bool) :
    Keeps (execModeCmdTick swap s) := by
  unfold execModeCmdTick
  refine keeps_next ?_
  refine regCmd_wf h ?_ _
  simp [h]

@[simp] theorem execModeCmdSwap_keeps {s : State} (h : Memory.wf s.mem = true) : Keeps (execModeCmdSwap s) := by
  unfold execModeCmdSwap
  refine keeps_next ?_
  refine regCmd_wf h ?_ _
  simp [h]

@[simp] theorem setChange_mem (s : State) (c : Option ModeChange) : (setChange s c).mem = s.mem := by
  rfl

@[simp] theorem execModeArm_keeps {s : State} (h : Memory.wf s.mem = true) (armed : BitVec 32) :
    Keeps (execModeArm armed s) := by
  unfold execModeArm
  refine keeps_next ?_
  (repeat' split) <;> simp [h]

@[simp] theorem bankSwap_mem (s : State) : (bankSwap s).mem = s.mem := by
  unfold bankSwap
  simp only [State.set_mem]
  exact foldl_mem (by intros; rfl) _ _

@[simp] theorem tickLenCommit_mem (s : State) (len : Nat) : (tickLenCommit s len).mem = s.mem := by
  rfl

@[simp] theorem commitKind_wf {s : State} (h : Memory.wf s.mem = true) (m : ModeKind) :
    Memory.wf (commitKind s m).mem = true := by
  unfold commitKind; (repeat' split) <;> simp [h]

@[simp] theorem abortKind_wf {s : State} (h : Memory.wf s.mem = true) (m : ModeKind) :
    Memory.wf (abortKind s m).mem = true := by
  unfold abortKind; split <;> simp [h]

@[simp] theorem execModeCommitAttempt_keeps {s : State} (h : Memory.wf s.mem = true) (armed : BitVec 32) :
    Keeps (execModeCommitAttempt armed s) := by
  unfold execModeCommitAttempt
  refine keeps_next ?_
  simp only
  (repeat' split) <;> simp [h]

@[simp] theorem execModeAbort_keeps {s : State} (h : Memory.wf s.mem = true) (armed : BitVec 32) :
    Keeps (execModeAbort armed s) := by
  unfold execModeAbort
  refine keeps_next ?_
  simp only
  (repeat' split) <;> simp [h]

@[simp] theorem fireSignal_mem (s : State) (n : Nat) : (fireSignal s n).mem = s.mem := by
  rfl

@[simp] theorem firePort_mem (s : State) (n p : Nat) : (firePort s n p).mem = s.mem := by
  unfold firePort; simp only; (repeat' split) <;> simp

@[simp] theorem firePorts_mem (s : State) (n : Nat) : (firePorts s n).mem = s.mem := by
  simp [firePorts]

@[simp] theorem fireActions_mem (s : State) (n : Nat) : (fireActions s n).mem = s.mem := by
  unfold fireActions; simp only; (repeat' split) <;> simp

@[simp] theorem releaseTwait_mem (s : State) (p : Thread → Bool) : (releaseTwait s p).mem = s.mem := by
  simp [releaseTwait]

@[simp] theorem fireLaunch_mem (s : State) (n : Nat) : (fireLaunch s n).mem = s.mem := by
  unfold fireLaunch; simp only; (repeat' split) <;> simp

@[simp] theorem execMarionetteEntryFire_keeps {s : State} (h : Memory.wf s.mem = true) (n : Nat) :
    Keeps (execMarionetteEntryFire n s) := by
  unfold execMarionetteEntryFire
  refine keeps_next ?_
  split <;> simp [h]

@[simp] theorem skipEntry_mem (s : State) (n : Nat) : (skipEntry s n).mem = s.mem := by
  rfl

@[simp] theorem lateEffect_mem (s : State) : (lateEffect s).mem = s.mem := by
  have ha (l : List Nat) (now : Nat) : (l.foldl (fun s n => accrue s n now) s).mem = s.mem := foldl_mem (by intros; simp) l s
  have hp (l : List Nat) (t : State) : (l.foldl (fun s n =>
      s.setPort n { s.port n with tokens := smMap (fun c v => min (shapeFull s n c) v) (s.port n).tokens }) t).mem = t.mem :=
    foldl_mem (by intros; rfl) l t
  unfold lateEffect
  simp only
  split <;> simp only [hp, ha]

@[simp] theorem renewTick_mem (s : State) : (renewTick s).mem = s.mem := by
  rfl

@[simp] theorem telemetry_mem (s : State) (tj v54qv : Nat) : (telemetry s tj v54qv).mem = s.mem := by
  unfold telemetry; simp only; (repeat' split) <;> simp

@[simp] theorem advanceTick_mem (s : State) : (advanceTick s).mem = s.mem := by
  rfl

@[simp] theorem boundaryEntries_mem (s : State) : (boundaryEntries s).mem = s.mem := by
  unfold boundaryEntries
  simp only
  split
  · rfl
  · refine foldl_mem (fun t n => ?_) _ _
    (repeat' split) <;> simp

@[simp] theorem boundaryLaunches_mem (s : State) : (boundaryLaunches s).mem = s.mem := by
  simp [boundaryLaunches]

@[simp] theorem boundaryTimers_wf {s : State} (h : Memory.wf s.mem = true) :
    Memory.wf (boundaryTimers s).mem = true := by
  simp [boundaryTimers, h]

@[simp] theorem tickOut_mem (s : State) : (tickOut s).mem = s.mem := by
  unfold tickOut; split <;> simp

@[simp] theorem boundaryActive_wf {s : State} (h : Memory.wf s.mem = true) :
    Memory.wf (boundaryActive s).mem = true := by
  unfold boundaryActive; simp only; (repeat' split) <;> simp [h]

@[simp] theorem execTickBoundary_keeps {s : State} (h : Memory.wf s.mem = true) (tj v54qv : Nat) :
    Keeps (execTickBoundary tj v54qv s) := by
  unfold execTickBoundary
  refine keeps_next ?_
  grind [State.raise_mem, advanceTick_mem, ← boundaryActive_wf, ← fwBoundary_wf, hardThermal_mem, lateEffect_mem,
      quotaBoundary_mem, ← settle_wf, telemetry_mem, tickOut_mem]

@[simp] theorem stepTime_mem (s : State) (now t : Nat) : (stepTime s now t).mem = s.mem := by
  rfl

@[simp] theorem execPtpSyncRx_keeps {s : State} (h : Memory.wf s.mem = true) (p : Nat) (ns : BitVec 64) (offset : Int) :
    Keeps (execPtpSyncRx p ns offset s) := by
  unfold execPtpSyncRx
  refine keeps_next ?_
  simp only
  (repeat' split) <;> simp [h]

@[simp] theorem execPtpSyncTimeout_keeps {s : State} (h : Memory.wf s.mem = true) : Keeps (execPtpSyncTimeout s) := by
  unfold execPtpSyncTimeout
  refine keeps_next ?_
  split <;> simp [h]

@[simp] theorem announceTlv_mem (s : State) (p len origin base : Nat) :
    (announceTlv s p len origin base).mem = s.mem := by
  unfold announceTlv; split <;> simp

@[simp] theorem execPtpAnnounceRx_keeps {s : State} (h : Memory.wf s.mem = true) (p domain : Nat) (d : Dataset)
    (len : Nat) (origin : BitVec 64) (base : BitVec 64) : Keeps (execPtpAnnounceRx p domain d len origin base s) := by
  unfold execPtpAnnounceRx
  refine keeps_next ?_
  split <;> simp [h]

@[simp] theorem execPtpPdelayRx_keeps {s : State} (h : Memory.wf s.mem = true) (p : Nat) (resp : Bool) (ns : BitVec 64) :
    Keeps (execPtpPdelayRx p resp ns s) := by
  unfold execPtpPdelayRx
  refine keeps_next ?_
  (repeat' split) <;> simp [h]

@[simp] theorem execPtpSyncInterval_keeps {s : State} (h : Memory.wf s.mem = true) (p : Nat) :
    Keeps (execPtpSyncInterval p s) := by
  unfold execPtpSyncInterval
  refine keeps_next ?_
  simp only
  (repeat' split) <;> simp [h]

@[simp] theorem execPdelayReqInterval_keeps {s : State} (h : Memory.wf s.mem = true) (p : Nat) :
    Keeps (execPdelayReqInterval p s) := by
  unfold execPdelayReqInterval
  refine keeps_next ?_
  split <;> simp [h]

@[simp] theorem ppsStamp_mem (s : State) (ns : Nat) : (ppsStamp s ns).mem = s.mem := by
  rfl

@[simp] theorem ppsSeconds_mem (s : State) : (ppsSeconds s).2.mem = s.mem := by
  unfold ppsSeconds
  split
  · rfl
  · cases s.tk.ppsSec <;> rfl

@[simp] theorem execPpsInEdge_keeps {s : State} (h : Memory.wf s.mem = true) (ns : BitVec 64) :
    Keeps (execPpsInEdge ns s) := by
  unfold execPpsInEdge
  refine keeps_next ?_
  simp only
  (repeat' split) <;> simp [h]

@[simp] theorem execPpsHoldover_keeps {s : State} (h : Memory.wf s.mem = true) : Keeps (execPpsHoldover s) := by
  unfold execPpsHoldover
  refine keeps_next ?_
  split <;> simp [h]

/-! ### Register writes and snapshots -/

@[simp] theorem ranOr_wf {s : State} (h : Memory.wf s.mem = true) {o : Out} (ho : Keeps o) :
    Memory.wf (ranOr s o).mem = true := by
  unfold ranOr; split
  · exact ho _ rfl
  · exact h

@[simp] theorem clearSqc_mem (s : State) (f : RF) (seq : Nat) : (clearSqc s f seq).mem = s.mem := by
  unfold clearSqc; split <;> simp

@[simp] theorem execSqcClearWrite_keeps {s : State} (h : Memory.wf s.mem = true) (r : SqcReg) (seq : Nat) :
    Keeps (execSqcClearWrite r seq s) := by
  refine keeps_next (fnCmd_wf h ?_ _ _)
  (repeat' split) <;> simp [h]

@[simp] theorem plainWrite_mem (s : State) (off v : Nat) : (plainWrite s off v).mem = s.mem := by
  unfold plainWrite; (repeat' split) <;> simp

theorem snapValues_mem (s : State) : (snapValues s).2.mem = s.mem := seeNs_mem ..

theorem xbarWaits_mem (s : State) (ds : List Nat) : (xbarWaits s ds).2.mem = s.mem := by
  induction ds generalizing s with
  | nil => rfl
  | cons d ds ih => unfold xbarWaits; simp only; split <;> exact ih _

@[simp] theorem snapTake_mem (s : State) (scope : Nat) : (snapTake s scope).mem = s.mem := by
  have hv := snapValues_mem s
  unfold snapTake
  generalize snapValues s = x at hv
  obtain ⟨vals, t⟩ := x
  have hx := xbarWaits_mem t (List.range (nDom t))
  simp only
  generalize xbarWaits t (List.range (nDom t)) = y at hx
  obtain ⟨waits, u⟩ := y
  simp only [State.set64_mem, State.set_mem]
  split <;> exact hx.trans hv

@[simp] theorem snapCmd_mem (s : State) (scope : Nat) : (snapCmd s scope).mem = s.mem := by
  unfold snapCmd
  split
  · exact snapTake_mem ..
  · exact State.set_mem ..

@[simp] theorem execSnapCmd_keeps {s : State} (h : Memory.wf s.mem = true) (scope : Nat) :
    Keeps (execSnapCmd scope s) := by
  unfold execSnapCmd
  refine keeps_next ?_
  refine regCmd_wf h ?_ _
  simp [h]

@[simp] theorem writeId_wf {s : State} (h : Memory.wf s.mem = true) (off v : Nat) :
    Memory.wf (writeId s off v).mem = true := by
  unfold writeId; (repeat' split) <;> simp [h]

@[simp] theorem writeFcol_wf {s : State} (h : Memory.wf s.mem = true) (off v : Nat) :
    Memory.wf (writeFcol s off v).mem = true := by
  have hw : Memory.wf (writeWord s off v).mem = true := by simpa using h
  have hp : Memory.wf (plainWrite s off v).mem = true := by simpa using h
  unfold writeFcol
  simp only
  split
  · exact ranOr_wf h (execFcolForce_keeps h _ _)
  split
  · exact ranOr_wf h (execFcolForce_keeps h _ _)
  split
  · split
    · exact ranOr_wf hw (execFcolArm_keeps hw)
    · exact hw
  split
  · exact ranOr_wf hw (execFcolUnfence_keeps hw _ _)
  split
  · split
    · exact hw
    · exact h
  split
  · exact ranOr_wf hw (execFcolEvtClear_keeps hw _ _)
  · exact hp

@[simp] theorem writeTick_mem (s : State) (off v : Nat) : (writeTick s off v).mem = s.mem := by
  unfold writeTick; (repeat' split) <;> simp

@[simp] theorem writeDom_wf {s : State} (h : Memory.wf s.mem = true) (off v : Nat) :
    Memory.wf (writeDom s off v).mem = true := by
  have hw : Memory.wf (writeWord s off v).mem = true := by simpa using h
  unfold writeDom
  simp only
  split
  · exact ranOr_wf hw (execSeqStop_keeps hw _ _)
  · simpa using h

@[simp] theorem writePort_mem (s : State) (off v : Nat) : (writePort s off v).mem = s.mem := by
  unfold writePort; simp only; (repeat' split) <;> simp

@[simp] theorem writeSeg_wf {s : State} (h : Memory.wf s.mem = true) (off v : Nat) :
    Memory.wf (writeSeg s off v).mem = true := by
  unfold writeSeg
  simp only
  (repeat' split) <;> simp [h]

@[simp] theorem writeTrn_wf {s : State} (h : Memory.wf s.mem = true) (off v : Nat) :
    Memory.wf (writeTrn s off v).mem = true := by
  unfold writeTrn
  simp only
  (repeat' split) <;> simp [h]

@[simp] theorem writeSqCfg_mem (s : State) (c q off v : Nat) : (writeSqCfg s c q off v).mem = s.mem := by
  unfold writeSqCfg; (repeat' split) <;> simp

@[simp] theorem writeMsix_mem (s : State) (c i off v : Nat) : (writeMsix s c i off v).mem = s.mem := by
  unfold writeMsix; simp only; (repeat' split) <;> simp

@[simp] theorem writeFn_wf {s : State} (h : Memory.wf s.mem = true) (c off v : Nat) :
    Memory.wf (writeFn s c off v).mem = true := by
  unfold writeFn
  simp only
  (repeat' split) <;> simp [h]

@[simp] theorem writeCtxMap_mem (s : State) (c off v : Nat) : (writeCtxMap s c off v).mem = s.mem := by
  unfold writeCtxMap; simp only; (repeat' split) <;> simp

@[simp] theorem writePeer_mem (s : State) (i off v : Nat) : (writePeer s i off v).mem = s.mem := by
  unfold writePeer; simp only; (repeat' split) <;> simp

theorem ranOr_quota {s : State} (h : Memory.wf s.mem = true) (ctx v : Nat) : Memory.wf (match v % 4 with
      | 1 => ranOr s (execQuotaSet ctx s)
      | 2 => ranOr s (execQuotaReadRequested ctx s)
      | 3 => ranOr s (execQuotaReadEffective ctx s)
      | _ => s).mem = true := by
  split
  · exact ranOr_wf h (execQuotaSet_keeps h _)
  · exact ranOr_wf h (execQuotaReadRequested_keeps h _)
  · exact ranOr_wf h (execQuotaReadEffective_keeps h _)
  · exact h

theorem ranOr_ctxm {s : State} (h : Memory.wf s.mem = true) (ctx v : Nat) : Memory.wf (match v % 8 with
      | 1 => ranOr s (execCtxmFreeze ctx s)
      | 2 => ranOr s (execCtxmSave ctx s)
      | 3 => ranOr s (execCtxmRestore ctx s)
      | 4 => ranOr s (execCtxmThaw ctx s)
      | 5 => ranOr s (execCtxmDiscard ctx s)
      | 6 => ranOr s (execCtxmRepoint ctx (bits v 11 18) s)
      | _ => s).mem = true := by
  split
  · exact ranOr_wf h (execCtxmFreeze_keeps h _)
  · exact ranOr_wf h (execCtxmSave_keeps h _)
  · exact ranOr_wf h (execCtxmRestore_keeps h _)
  · exact ranOr_wf h (execCtxmThaw_keeps h _)
  · exact ranOr_wf h (execCtxmDiscard_keeps h _)
  · exact ranOr_wf h (execCtxmRepoint_keeps h _ _)
  · exact h

@[simp] theorem writeHost_wf {s : State} (h : Memory.wf s.mem = true) (off v : Nat) :
    Memory.wf (writeHost s off v).mem = true := by
  have hw : Memory.wf (writeWord s off v).mem = true := by simpa using h
  unfold writeHost
  split
  · simpa using h
  split
  · simpa using h
  split
  · exact ranOr_quota hw ..
  split
  · exact ranOr_ctxm hw ..
  split
  · simpa using h
  split <;> simpa using h

@[simp] theorem writeCiph_wf {s : State} (h : Memory.wf s.mem = true) (off v : Nat) :
    Memory.wf (writeCiph s off v).mem = true := by
  unfold writeCiph
  simp only
  (repeat' split) <;> simp [h]

theorem ite_wf {c : Prop} [Decidable c] {a b : State} (ha : Memory.wf a.mem = true) (hb : Memory.wf b.mem = true) :
    Memory.wf (if c then a else b).mem = true := by
  split
  · exact ha
  · exact hb

@[simp] theorem writeReg_wf {s : State} (h : Memory.wf s.mem = true) (off v : Nat) :
    Memory.wf (writeReg s off v).mem = true := by
  have hp : Memory.wf (plainWrite s off v).mem = true := by simpa using h
  unfold writeReg
  refine ite_wf h ?_
  cases fnCtx off with
  | some c => exact writeFn_wf h ..
  | none =>
    exact ite_wf (writeId_wf h ..) <| ite_wf (writeFcol_wf h ..) <| ite_wf (by rw [writeTick_mem]; exact h) <|
      ite_wf h <| ite_wf (writeDom_wf h ..) <| ite_wf (by rw [writePort_mem]; exact h) <| ite_wf hp <|
      ite_wf (writeSeg_wf h ..) <| ite_wf (writeTrn_wf h ..) <| ite_wf (writeHost_wf h ..) <|
      ite_wf (writeCiph_wf h ..) <| ite_wf (by rw [snapCmd_mem, writeWord_mem]; exact h) hp

@[simp] theorem writeAny_wf {s : State} (h : Memory.wf s.mem = true) (off v : Nat) :
    Memory.wf (writeAny s off v).mem = true :=
  fnCmd_wf h (writeReg_wf h off v) _ _

@[simp] theorem writeWords_wf {s : State} (h : Memory.wf s.mem = true) (off v n : Nat) :
    Memory.wf (writeWords s off v n).mem = true := by
  fun_induction writeWords s off v n <;> simp_all

@[simp] theorem execRegisterWrite_keeps {s : State} (h : Memory.wf s.mem = true) (off width : Nat) (v : BitVec 64) :
    Keeps (execRegisterWrite off width v s) := by
  refine keeps_next ?_
  split
  · exact ranOr_wf h (execFcolForce_keeps h _ _)
  · refine settle_wf ?_
    have hw := writeWords_wf h off v.toNat (min 2 (width / 4))
    split
    · exact hw
    · exact regCmd_wf hw hw _

/-! ### Specialty engines -/

@[simp] theorem optStart_mem (s : State) (opc : Nat) (r g : List Byte) : (optStart s opc r g).1.mem = s.mem := by
  unfold optStart; simp only; (repeat' split) <;> simp

@[simp] theorem setRun_mem (s : State) (e : Nat) (r : Run) : (setRun s e r).mem = s.mem := by
  rfl

@[simp] theorem spcStart_wf {s : State} (h : Memory.wf s.mem = true) (e : Nat) (d : Desc) :
    Memory.wf (spcStart s e d).mem = true := by
  unfold spcStart
  grind [optStart_mem, → readOp_of, ← readOp_wf, recordFails_mem, ← refuseTaken_wf, setRun_mem, State.count_mem]

@[simp] theorem optNorm_wf {s : State} (h : Memory.wf s.mem = true) (e : Nat) (d : Desc) (fuel : Nat) (r : Run) :
    Memory.wf (optNorm s e d fuel r).1.mem = true := by
  fun_induction optNorm s e d fuel r <;> grind [→ readMany_of, ← readMany_wf]

theorem optNorm_of {s : State} {e : Nat} {d : Desc} {fuel : Nat} {r : Run} {t : State} {y : Got × Run}
    (h : Memory.wf s.mem = true) (e : optNorm s e d fuel r = (t, y)) : Memory.wf t.mem = true :=
  pair_wf e (optNorm_wf h ..)

@[simp] theorem fetchRows_wf {s : State} (h : Memory.wf s.mem = true) (e : Nat) (r : Run) (l : List (Nat × Nat)) :
    Memory.wf (fetchRows s e r l).1.mem = true := by
  fun_induction fetchRows s e r l <;> grind [→ readOp_of, ← readOp_wf]

theorem fetchRows_of {s : State} {e : Nat} {r : Run} {l : List (Nat × Nat)} {t : State}
    {y : Got × List (SlotKind × Nat × List Byte)} (h : Memory.wf s.mem = true) (e : fetchRows s e r l = (t, y)) :
    Memory.wf t.mem = true :=
  pair_wf e (fetchRows_wf h ..)

@[simp] theorem readRecord_wf {s : State} (h : Memory.wf s.mem = true) (e : Nat) (d : Desc) (src off total : Nat) :
    Memory.wf (readRecord s e d src off total).1.mem = true := by
  unfold readRecord
  grind [→ readOp_of, ← readOp_wf]

theorem readRecord_of {s : State} {e : Nat} {d : Desc} {src off total : Nat} {t : State} {y : Got × Nat}
    (h : Memory.wf s.mem = true) (e : readRecord s e d src off total = (t, y)) : Memory.wf t.mem = true :=
  pair_wf e (readRecord_wf h ..)

@[simp] theorem readHeader_wf {s : State} (h : Memory.wf s.mem = true) (e : Nat) (d : Desc) (src k off : Nat) :
    Memory.wf (readHeader s e d src k off).1.mem = true := by
  unfold readHeader
  grind [→ readOp_of, ← readOp_wf]

theorem readHeader_of {s : State} {e : Nat} {d : Desc} {src k off : Nat} {t : State} {y : Got × Nat × Nat}
    (h : Memory.wf s.mem = true) (e : readHeader s e d src k off = (t, y)) : Memory.wf t.mem = true :=
  pair_wf e (readHeader_wf h ..)

@[simp] theorem readTile_wf {s : State} (h : Memory.wf s.mem = true) (e : Nat) (d : Desc) (src k off : Nat) :
    Memory.wf (readTile s e d src k off).1.mem = true := by
  unfold readTile
  grind [→ readHeader_of, ← readHeader_wf, → readRecord_of, ← readRecord_wf]

theorem readTile_of {s : State} {e : Nat} {d : Desc} {src k off : Nat} {t : State} {y : Got × AtTile}
    (h : Memory.wf s.mem = true) (e : readTile s e d src k off = (t, y)) : Memory.wf t.mem = true :=
  pair_wf e (readTile_wf h ..)

@[simp] theorem readStream_wf {s : State} (h : Memory.wf s.mem = true) (e : Nat) (d : Desc) (src n k off : Nat) :
    Memory.wf (readStream s e d src n k off).1.mem = true := by
  fun_induction readStream s e d src n k off <;> grind [→ readTile_of, ← readTile_wf]

theorem readStream_of {s : State} {e : Nat} {d : Desc} {src n k off : Nat} {t : State}
    {y : Got × List (List Byte) × AtTile} (h : Memory.wf s.mem = true) (e : readStream s e d src n k off = (t, y)) :
    Memory.wf t.mem = true :=
  pair_wf e (readStream_wf h ..)

@[simp] theorem spcEnd_wf {s : State} (h : Memory.wf s.mem = true) (e : Nat) (r : Run) (g : Got) (bad : Nat) :
    Memory.wf (spcEnd s e r g bad).mem = true := by
  unfold spcEnd; split <;> simp [h]

@[simp] theorem spcCompute_wf {s : State} (h : Memory.wf s.mem = true) (e : Nat) (r : Run) :
    Memory.wf (spcCompute s e r).mem = true := by
  unfold spcCompute
  grind [→ fetchRows_of, ← fetchRows_wf, → optNorm_of, ← optNorm_wf, → readMany_of, ← readMany_wf, → readOp_of, ← readOp_wf,
      → readStream_of, ← readStream_wf, → readTile_of, ← readTile_wf, setRun_mem, ← spcEnd_wf]

@[simp] theorem addNorm_wf {s : State} (h : Memory.wf s.mem = true) (e : Nat) (r : Run) :
    Memory.wf (addNorm s e r).1.mem = true := by
  unfold addNorm
  grind [freeBytes_mem, → readOp_of, ← readOp_wf, → writeOp_of, ← writeOp_wf]

theorem addNorm_of {s : State} {e : Nat} {r : Run} {t : State} {y : Got} (h : Memory.wf s.mem = true)
    (e : addNorm s e r = (t, y)) : Memory.wf t.mem = true :=
  pair_wf e (addNorm_wf h ..)

@[simp] theorem spcRelease_wf {s : State} (h : Memory.wf s.mem = true) (e : Nat) (r : Run) :
    Memory.wf (spcRelease s e r).mem = true := by
  unfold spcRelease
  grind [→ addNorm_of, ← addNorm_wf, ← endRun_wf, ← parkRun_wf, setRun_mem, → storedOk_of, ← writeFree_wf, State.count_mem]

@[simp] theorem spcRun_wf {s : State} (h : Memory.wf s.mem = true) (e : Nat) (mine : BitVec 256 → Bool) :
    Memory.wf (spcRun s e mine).mem = true := by
  unfold spcRun; simp only; (repeat' split) <;> simp [h]

@[simp] theorem execSgd_keeps {s : State} (h : Memory.wf s.mem = true) (e : Nat) : Keeps (execSgd e s) := by
  unfold execSgd
  refine keeps_next ?_
  refine inActive_wf h ?_
  simp [h]

@[simp] theorem execAdam_keeps {s : State} (h : Memory.wf s.mem = true) (e : Nat) : Keeps (execAdam e s) := by
  unfold execAdam
  refine keeps_next ?_
  refine inActive_wf h ?_
  simp [h]

@[simp] theorem execAdamw_keeps {s : State} (h : Memory.wf s.mem = true) (e : Nat) : Keeps (execAdamw e s) := by
  unfold execAdamw
  refine keeps_next ?_
  refine inActive_wf h ?_
  simp [h]

@[simp] theorem execLambMoments_keeps {s : State} (h : Memory.wf s.mem = true) (e : Nat) :
    Keeps (execLambMoments e s) := by
  unfold execLambMoments
  refine keeps_next ?_
  refine inActive_wf h ?_
  simp [h]

@[simp] theorem execLambApply_keeps {s : State} (h : Memory.wf s.mem = true) (e : Nat) : Keeps (execLambApply e s) := by
  unfold execLambApply
  refine keeps_next ?_
  refine inActive_wf h ?_
  simp [h]

@[simp] theorem execLion_keeps {s : State} (h : Memory.wf s.mem = true) (e : Nat) : Keeps (execLion e s) := by
  unfold execLion
  refine keeps_next ?_
  refine inActive_wf h ?_
  simp [h]

@[simp] theorem execNorm_keeps {s : State} (h : Memory.wf s.mem = true) (e : Nat) : Keeps (execNorm e s) := by
  unfold execNorm
  refine keeps_next ?_
  refine inActive_wf h ?_
  simp [h]

@[simp] theorem execCast_keeps {s : State} (h : Memory.wf s.mem = true) (e : Nat) : Keeps (execCast e s) := by
  unfold execCast
  refine keeps_next ?_
  refine inActive_wf h ?_
  simp [h]

@[simp] theorem execLookupDescriptor_keeps {s : State} (h : Memory.wf s.mem = true) (e : Nat) :
    Keeps (execLookupDescriptor e s) := by
  unfold execLookupDescriptor
  refine keeps_next ?_
  refine inActive_wf h ?_
  simp [h]

@[simp] theorem execEncode_keeps {s : State} (h : Memory.wf s.mem = true) (e : Nat) : Keeps (execEncode e s) := by
  unfold execEncode
  refine keeps_next ?_
  refine inActive_wf h ?_
  simp [h]

@[simp] theorem execDecode_keeps {s : State} (h : Memory.wf s.mem = true) (e : Nat) : Keeps (execDecode e s) := by
  unfold execDecode
  refine keeps_next ?_
  refine inActive_wf h ?_
  simp [h]

@[simp] theorem execUnionSum_keeps {s : State} (h : Memory.wf s.mem = true) (e : Nat) : Keeps (execUnionSum e s) := by
  unfold execUnionSum
  refine keeps_next ?_
  refine inActive_wf h ?_
  simp [h]

@[simp] theorem execQuantizeDescriptor_keeps {s : State} (h : Memory.wf s.mem = true) (e : Nat) :
    Keeps (execQuantizeDescriptor e s) := by
  unfold execQuantizeDescriptor
  refine keeps_next ?_
  refine inActive_wf h ?_
  simp [h]

@[simp] theorem execSpcUnitRelease_keeps {s : State} (h : Memory.wf s.mem = true) (e : Nat) :
    Keeps (execSpcUnitRelease e s) := by
  unfold execSpcUnitRelease
  refine keeps_next ?_
  refine inActive_wf h ?_
  (repeat' split) <;> simp [h]

/-! ### Transfer engines -/

@[simp] theorem teStart_wf {s : State} (h : Memory.wf s.mem = true) (e : Nat) (d : Desc) :
    Memory.wf (teStart s e d).mem = true := by
  unfold teStart
  grind [→ readOp_of, ← readOp_wf, recordFails_mem, ← refuseTaken_wf, State.count_mem, State.setEngine_mem]

@[simp] theorem execTeDescriptorStart_keeps {s : State} (h : Memory.wf s.mem = true) (e : Nat) :
    Keeps (execTeDescriptorStart e s) := by
  unfold execTeDescriptorStart
  refine keeps_next ?_
  refine inActive_wf h ?_
  (repeat' split) <;> simp [h]

@[simp] theorem teGather_wf {s : State} (h : Memory.wf s.mem = true) (e ctx no z : Nat) (free l : List (Nat × Nat))
    (g : Gather) : Memory.wf (teGather s e ctx no z free l g).1.mem = true := by
  fun_induction teGather s e ctx no z free l g <;> grind [freeBytes_mem, → memRead_of, ← memRead_wf, touchPage_mem]

theorem teGather_of {s : State} {e ctx no z : Nat} {free l : List (Nat × Nat)} {g : Gather} {t : State}
    {y : Nat × Gather} (h : Memory.wf s.mem = true) (e : teGather s e ctx no z free l g = (t, y)) :
    Memory.wf t.mem = true :=
  pair_wf e (teGather_wf h ..)

theorem setEach_wf (l : SMap Byte) {s : State} (h : Memory.wf s.mem = true) :
    Memory.wf (l.foldl (fun s e => s.setByte e.1 e.2) s).mem = true :=
  foldl_wf (fun _ _ hu => setByte_wf hu ..) l h

@[simp] theorem writeSparse_wf {s : State} (h : Memory.wf s.mem = true) (req fuel : Nat) (m : SMap Byte) :
    Memory.wf (writeSparse s req fuel m).1.mem = true := by
  induction fuel generalizing s m with
  | zero => exact h
  | succ k ih =>
    unfold writeSparse
    split
    · exact h
    · simp only
      split
      · split
        · exact ih (tileWrite_of h ‹_›) _
        · exact tileWrite_wf h ..
      · split
        · exact h
        · split
          · rename_i u hu
            have hw : Memory.wf u.mem = true := tileCheck_of h hu
            refine ih (setEach_wf _ ?_) _
            split <;> exact hw
          · exact State.tileCheck_wf h ..

theorem writeSparse_of {s t : State} {req fuel c : Nat} {m : SMap Byte} (h : Memory.wf s.mem = true)
    (e : writeSparse s req fuel m = (t, c)) : Memory.wf t.mem = true :=
  pair_wf e (writeSparse_wf h ..)

@[simp] theorem teReleased_wf {s : State} (h : Memory.wf s.mem = true) (e : Nat) (r : Run) (moved : Nat) :
    Memory.wf (teReleased s e r moved).mem = true := by
  unfold teReleased; simp only; (repeat' split) <;> simp [h]

@[simp] theorem emitReads_mem (s : State) (ctx : Nat) (g : Gather) : (emitReads s ctx g).mem = s.mem :=
  foldl_mem (by intros; rfl) _ s

@[simp] theorem teRelease_wf {s : State} (h : Memory.wf s.mem = true) (e : Nat) (r : Run) (hostData : List Byte) :
    Memory.wf (teRelease s e r hostData).mem = true := by
  have he (l : List (Nat × List Byte)) (ctx : Nat) (t : State) : (l.foldl (fun s h => s.emit (.hostWrite ctx h.1 h.2)) t).mem = t.mem :=
    foldl_mem (by intros; rfl) l t
  unfold teRelease
  simp only
  split
  · exact parkRun_wf h ..
  · exact endRun_wf h ..
  · split
    · have hw {t : State} (ht : Memory.wf t.mem = true) (g : Gather) : Memory.wf (g.host.foldl (fun s h => s.emit (.hostWrite (dCtx r.d.w) h.1 h.2)) (emitReads t (dCtx r.d.w) g)).mem = true := by
        rw [he, emitReads_mem]; exact ht
      split
      · exact teReleased_wf (writeSparse_of (hw (teGather_of h ‹_›) _) ‹_›) ..
      · exact endRun_wf (writeSparse_of (hw (teGather_of h ‹_›) _) ‹_›) ..
    · exact endRun_wf (by rw [emitReads_mem]; exact teGather_of h ‹_›) ..

@[simp] theorem execTeUnitRelease_keeps {s : State} (h : Memory.wf s.mem = true) (e : Nat) (hostData : List Byte) :
    Keeps (execTeUnitRelease e hostData s) := by
  unfold execTeUnitRelease
  refine keeps_next ?_
  refine inActive_wf h ?_
  (repeat' split) <;> simp [h]

/-! ### Operand memory of the Ulent instructions -/

@[simp] theorem loadBytes_wf {s : State} (h : Memory.wf s.mem = true) (t : Th) (x : Thread) (p : Program) (a n : Nat)
    (f : List Byte → Thread → Thread) : Memory.wf (loadBytes s t x p a n f).mem = true := by
  unfold loadBytes
  grind [State.setThr_mem, faultThread_mem, → memRead_of, ← memRead_wf]

@[simp] theorem storeBytes_wf {s : State} (h : Memory.wf s.mem = true) (t : Th) (x : Thread) (p : Program) (a n : Nat)
    (bs : List Byte) : Memory.wf (storeBytes s t x p a n bs).mem = true := by
  unfold storeBytes
  grind [State.setThr_mem, faultThread_mem, → memWrite_of, ← memWrite_wf]

@[simp] theorem execDld_keeps {s : State} (h : Memory.wf s.mem = true) (t : Th) (dd ga : Nat) (off : BitVec 32) :
    Keeps (execDld t dd ga off s) := by
  unfold execDld
  refine keeps_next ?_
  refine settle_wf ?_
  refine issueAt_wf h _ _ fun u x p hu => ?_
  simp [hu]

@[simp] theorem execDst_keeps {s : State} (h : Memory.wf s.mem = true) (t : Th) (dd ga : Nat) (off : BitVec 32) :
    Keeps (execDst t dd ga off s) := by
  unfold execDst
  refine keeps_next ?_
  refine settle_wf ?_
  refine issueAt_wf h _ _ fun u x p hu => ?_
  simp [hu]

@[simp] theorem execLd_keeps {s : State} (h : Memory.wf s.mem = true) (t : Th) (gd ga size : Nat) (off : BitVec 32) :
    Keeps (execLd t gd ga size off s) := by
  unfold execLd
  refine keeps_next ?_
  refine settle_wf ?_
  refine issueAt_wf h _ _ fun u x p hu => ?_
  simp [hu]

@[simp] theorem execSt_keeps {s : State} (h : Memory.wf s.mem = true) (t : Th) (gd ga size : Nat) (off : BitVec 32) :
    Keeps (execSt t gd ga size off s) := by
  unfold execSt
  refine keeps_next ?_
  refine settle_wf ?_
  refine issueAt_wf h _ _ fun u x p hu => ?_
  simp [hu]

@[simp] theorem execIcacheFill_keeps {s : State} (h : Memory.wf s.mem = true) (t : Th) :
    Keeps (execIcacheFill t s) := by
  unfold execIcacheFill
  refine keeps_next ?_
  refine inActive_wf h ?_
  simp [h]

@[simp] theorem execLaunch_keeps {s : State} (h : Memory.wf s.mem = true) (r : LaunchReq) : Keeps (execLaunch r s) := by
  unfold execLaunch
  refine keeps_next ?_
  refine inActive_wf h ?_
  split <;> simp [h]

@[simp] theorem execPrivSignatureVerified_keeps {s : State} (h : Memory.wf s.mem = true) (dom : Nat) :
    Keeps (execPrivSignatureVerified dom s) := by
  unfold execPrivSignatureVerified
  refine keeps_next ?_
  refine inActive_wf h ?_
  grind [queueLaunch_mem, → readImage_of, ← readImage_wf2, refuseLaunch_mem, ← settle_wf]

@[simp] theorem State.withFetchWord_mem (s : State) (nbits w : Nat) : (State.withFetchWord s nbits w).mem = s.mem := by
  rfl

/-! ### The step -/

theorem exec_keeps {s : State} (h : Memory.wf s.mem = true) (c : Instr) : Keeps (exec c s) := by
  cases c <;> simp [exec, h]

/-- Settles O4: a step runs one command, and every command keeps the canonical form. -/
theorem stepKeepsMemory : Obligations.StepKeepsMemory := by
  intro s t h hs
  unfold step at hs
  split at hs
  · cases hs
    exact h
  · rename_i c rest _
    exact exec_keeps (s := { s with pending := rest }) h c t hs

end Sys2Proof.Machine

/-! ## The blocks that take commands: events, pending commands, entries in registers (R316, R350) -/

namespace Sys2Proof.Machine

theorem MemSame.trans {s t u : State} (h : MemSame s t) (k : MemSame t u) : MemSame s u := fun a => (k a).trans (h a)

section Words

theorem State.reg_setWords_out {o : Nat} (n : Nat) : ∀ {s : State} {off : Nat} (v : Nat), o < off ∨ off + 4 * n ≤ o →
    (s.setWords off n v).reg o = s.reg o := by
  induction n with
  | zero => intros; rfl
  | succ n ih =>
    intro s off v h
    rw [State.setWords, ih _ (by omega), State.reg_setReg_ne _ _ (by omega)]

theorem State.getWords_congr {s t : State} (n : Nat) : ∀ {off : Nat}, (∀ o, off ≤ o → o < off + 4 * n → t.reg o = s.reg o) →
    t.getWords off n = s.getWords off n := by
  induction n with
  | zero => intros; rfl
  | succ n ih =>
    intro off h
    rw [State.getWords, State.getWords, h off le_rfl (by omega), ih fun o ho hlt => h o (by omega) (by omega)]

theorem State.getWords_setWords (n : Nat) : ∀ (s : State) (off v : Nat), (s.setWords off n v).getWords off n = v % 2 ^ (32 * n) := by
  induction n with
  | zero => intro s off v; simp [State.getWords, Nat.mod_one]
  | succ n ih =>
    intro s off v
    rw [State.setWords, State.getWords, ih, State.reg_setWords_out _ _ (Or.inl (by omega)), State.reg_setReg_self, Nat.mod_mod,
      show 32 * (n + 1) = 32 + 32 * n by ring, pow_add, Nat.mod_mul]

theorem State.setWords_eq (n : Nat) : ∀ (s : State) (off v : Nat), s.setWords off n v = { s with regs := (s.setWords off n v).regs } := by
  induction n with
  | zero => intros; rfl
  | succ n ih =>
    intro s off v
    rw [State.setWords, ih]
    rfl

theorem State.setWords_memSame (s : State) (off n v : Nat) : MemSame s (s.setWords off n v) :=
  memSame_of_mem (by simp) (by rw [State.setWords_eq])

theorem State.getWords_lt_pow {s : State} (n : Nat) : ∀ {off : Nat}, (∀ i < n, regReset s.variant (off + 4 * i) = 0) →
    s.getWords off n < 2 ^ (32 * n) := by
  induction n with
  | zero => intro off _; simp [State.getWords]
  | succ n ih =>
    intro off h
    have h0 := reg_lt_of_reset s (h 0 (by omega))
    have hn := ih (off := off + 4) fun i hi => by simpa [Nat.mul_add, Nat.add_assoc, Nat.add_comm] using h (i + 1) (by omega)
    rw [State.getWords, show 32 * (n + 1) = 32 + 32 * n by ring, pow_add]
    rw [Nat.add_zero] at h0
    have := Nat.mul_le_mul_left (2 ^ 32) (Nat.succ_le_of_lt hn)
    rw [Nat.mul_succ] at this
    omega

theorem State.getWords_lt {s : State} {n off w : Nat} (h : ∀ i < n, regReset s.variant (off + 4 * i) = 0) (hw : 32 * n = w) :
    s.getWords off n < 2 ^ w :=
  hw ▸ State.getWords_lt_pow n h

end Words

/-- What a command of block `b` leaves alone: all but the registers that it shows its outcome in and the tables of the blocks. -/
structure BlockOnly (s u : State) (b : Blk) : Prop where
  rest : u = { s with regs := u.regs, sg := u.sg }
  regs : RegsBut s u [(blkSeq b).off]

namespace BlockOnly

variable {s t u : State} {b : Blk}

theorem mem (h : BlockOnly s u b) : MemSame s u := by
  rw [h.rest]
  exact fun _ => rfl

theorem cnt (h : BlockOnly s u b) : CntBut s u [] := by
  rw [h.rest]
  exact fun _ _ => rfl

theorem trans (h : BlockOnly s t b) (k : BlockOnly t u b) : BlockOnly s u b :=
  ⟨by rw [k.rest, h.rest], h.regs.trans k.regs⟩

/-- The tables of the blocks hold no register. -/
theorem tables (s : State) (b : Blk) (sg : Seg) : BlockOnly s { s with sg := sg } b := ⟨rfl, fun _ _ => rfl⟩

end BlockOnly

section Blocks

variable {s : State} {b : Blk} {r : Nat}

theorem blkResult_off (b : Blk) : (blkResult b).off = (blkSeq b).off := by cases b <;> rfl

theorem blkPending_off (b : Blk) : (blkPendingField b).off = (blkSeq b).off := by cases b <;> rfl

theorem cmdDone_only (s : State) (b : Blk) (r : Nat) : BlockOnly s (cmdDone s b none r) b := by
  refine ⟨rfl, fun o ho => ?_⟩
  have ho : o ≠ (blkSeq b).off := by simpa using ho
  show ((s.set (blkResult b) r).bump (blkSeq b)).reg o = s.reg o
  rw [State.reg_bump_ne _ ho, State.reg_set_ne _ _ (by rwa [blkResult_off])]

theorem cmdDone_answered (s : State) (b : Blk) (hr : r < 16) : Answered s (cmdDone s b none r) (blkSeq b) (blkResult b) r := by
  show Answered s (s.result (blkSeq b) (blkResult b) r) _ _ _
  cases b <;> exact answered_result s (by decide) (by decide) (by decide) (by decide) hr

@[simp] theorem cmdDone_sg (s : State) (b : Blk) (r : Nat) : (cmdDone s b none r).sg = s.sg := rfl

/-- An entry's event leaves PENDING as it was. -/
theorem cmdDone_pending (s : State) (b : Blk) (r : Nat) : (cmdDone s b none r).get (blkPendingField b) = s.get (blkPendingField b) := by
  show ((s.set (blkResult b) r).bump (blkSeq b)).get _ = _
  rw [State.get_bump_apart _ (by cases b <;> decide) (by cases b <;> decide),
    State.get_set_apart _ _ (by cases b <;> decide) (by cases b <;> decide)]

theorem showPending_only (s : State) (b : Blk) : BlockOnly s (showPending s b) b :=
  ⟨rfl, fun o ho => State.reg_set_ne _ _ (by rw [blkPending_off]; simpa using ho)⟩

theorem showPending_pending (s : State) (b : Blk) : (showPending s b).get (blkPendingField b) = b2n (blkBusy s b) := by
  rw [showPending, State.get_set_self _ _ (by cases b <;> decide)]
  cases b <;> cases blkBusy s _ <;> rfl

theorem showPending_seq (s : State) (b : Blk) : (showPending s b).get (blkSeq b) = s.get (blkSeq b) :=
  State.get_set_apart _ _ (by cases b <;> decide) (by cases b <;> decide)

theorem cmdPend_only (s : State) (p : Pending) : BlockOnly s (cmdPend s p) p.blk :=
  (BlockOnly.tables s _ _).trans (showPending_only _ _)

theorem cmdPend_busy (s : State) (p : Pending) : blkBusy (cmdPend s p) p.blk = true := by
  simp [cmdPend, showPending, blkBusy, State.set, State.setReg]

theorem cmdPend_pending (s : State) (p : Pending) : (cmdPend s p).get (blkPendingField p.blk) = 1 := by
  rw [cmdPend, showPending_pending, show blkBusy _ p.blk = true by simp [blkBusy]]
  rfl

theorem cmdPend_seq (s : State) (p : Pending) : (cmdPend s p).get (blkSeq p.blk) = s.get (blkSeq p.blk) :=
  showPending_seq _ _

/-- The block's one pending command ends, and none is left. -/
theorem cmdEnd_last {p : Pending} (hp : s.sg.pend = [p]) (he : p.entry = none) (r : Nat) :
    cmdEnd s p r = cmdDone (showPending { s with sg := { s.sg with pend := [] } } p.blk) p.blk none r := by
  rw [cmdEnd, hp, he, show ([p].filter fun q => q != p) = [] by simp]

theorem cmdEnd_only {p : Pending} (hp : s.sg.pend = [p]) (he : p.entry = none) (r : Nat) : BlockOnly s (cmdEnd s p r) p.blk := by
  rw [cmdEnd_last hp he]
  exact ((BlockOnly.tables s _ _).trans (showPending_only _ _)).trans (cmdDone_only _ _ _)

theorem cmdEnd_answered {p : Pending} (hp : s.sg.pend = [p]) (he : p.entry = none) (hr : r < 16) :
    Answered s (cmdEnd s p r) (blkSeq p.blk) (blkResult p.blk) r := by
  rw [cmdEnd_last hp he]
  exact (cmdDone_answered _ _ hr).of_seq (showPending_seq _ _)

theorem cmdEnd_pending {p : Pending} (hp : s.sg.pend = [p]) (he : p.entry = none) (r : Nat) :
    (cmdEnd s p r).get (blkPendingField p.blk) = 0 := by
  rw [cmdEnd_last hp he, cmdDone_pending, showPending_pending]
  rfl

theorem cmdEnd_sg {p : Pending} (hp : s.sg.pend = [p]) (he : p.entry = none) (r : Nat) : (cmdEnd s p r).sg = { s.sg with pend := [] } := by
  rw [cmdEnd_last hp he]
  rfl

theorem findPend_one {p : Pending} (hp : s.sg.pend = [p]) : findPend s p.blk (fun _ => true) = some p := by
  simp [findPend, hp]

/-- A read command leaves the entry in its registers, which are not those of its event. -/
theorem readOut_mod {off n w v : Nat} (hw : 32 * n = w) (ho : (blkSeq b).off < off ∨ off + 4 * n ≤ (blkSeq b).off) :
    (readOut s b none off n 0 v).getWords off n = v % 2 ^ w := by
  show (cmdDone (s.setWords off n v) b none 0).getWords off n = v % 2 ^ w
  rw [State.getWords_congr (s := s.setWords off n v), State.getWords_setWords, hw]
  exact fun o hlo hhi => (cmdDone_only _ _ _).regs o (by simp; omega)

theorem readOut_words {off n w : Nat} {e : BitVec w} (hw : 32 * n = w) (ho : (blkSeq b).off < off ∨ off + 4 * n ≤ (blkSeq b).off) :
    (readOut s b none off n 0 e.toNat).getWords off n = e.toNat := by
  rw [readOut_mod hw ho, Nat.mod_eq_of_lt e.isLt]

theorem readOut_answered {off n v : Nat} (ho : (blkSeq b).off < off ∨ off + 4 * n ≤ (blkSeq b).off) :
    Answered s (readOut s b none off n 0 v) (blkSeq b) (blkResult b) 0 :=
  (cmdDone_answered _ _ (by decide)).of_seq (by rw [State.get, State.get, State.reg_setWords_out _ _ ho])

theorem readOut_eq (s : State) (b : Blk) (off n v : Nat) :
    readOut s b none off n 0 v = { s with regs := (readOut s b none off n 0 v).regs } := by
  show cmdDone (s.setWords off n v) b none 0 = { s with regs := (cmdDone (s.setWords off n v) b none 0).regs }
  rw [(cmdDone_only _ _ _).rest, s.setWords_eq]
  rfl

theorem readOut_sg (s : State) (b : Blk) (off n v : Nat) : (readOut s b none off n 0 v).sg = s.sg := by rw [readOut_eq]

theorem readOut_tr (s : State) (b : Blk) (off n v : Nat) : (readOut s b none off n 0 v).tr = s.tr := by rw [readOut_eq]

theorem readOut_memSame (s : State) (b : Blk) (off n v : Nat) : MemSame s (readOut s b none off n 0 v) := by
  rw [readOut_eq]
  exact fun _ => rfl

theorem readOut_cnt (s : State) (b : Blk) (off n v : Nat) : CntBut s (readOut s b none off n 0 v) [] := by
  rw [readOut_eq]
  exact fun _ _ => rfl

end Blocks

end Sys2Proof.Machine

/-! ## Segment commands (R296, R299, R316) -/

namespace Sys2Proof.Machine

section Segments

variable {s : State} {ctx idx : Nat}

theorem segSetCore_held {g : Segm} (hb : blkBusy s .seg = false) (hr : ctx < 256 ∧ idx < 16) (hg : smFind s.sg.segs (segKey ctx idx) = some g)
    (e : BitVec 512) : segSetCore s none ctx idx e = cmdDone s .seg none 6 := by
  simp [segSetCore, hb, hg, show ¬ (16 ≤ idx ∨ 256 ≤ ctx) by omega]

theorem segSetCore_refused {e : BitVec 512} {r : Nat} (hb : blkBusy s .seg = false) (hr : ctx < 256 ∧ idx < 16)
    (hg : smFind s.sg.segs (segKey ctx idx) = none) (hc : segCheck s ctx e.toNat = some r) : segSetCore s none ctx idx e = cmdDone s .seg none r := by
  simp [segSetCore, hb, hg, hc, show ¬ (16 ≤ idx ∨ 256 ≤ ctx) by omega]

theorem segSetCore_taken {e : BitVec 512} (hb : blkBusy s .seg = false) (hr : ctx < 256 ∧ idx < 16)
    (hg : smFind s.sg.segs (segKey ctx idx) = none) (hc : segCheck s ctx e.toNat = none) :
    segSetCore s none ctx idx e = cmdDone (s.setSegm (segKey ctx idx) { e := e }) .seg none 0 := by
  simp [segSetCore, hb, hg, hc, show ¬ (16 ≤ idx ∨ 256 ≤ ctx) by omega]

theorem segCheck_lt {e r : Nat} (h : segCheck s ctx e = some r) : r < 16 := by
  simp only [segCheck] at h
  (repeat' split at h) <;> first | (cases h; decide) | cases h

theorem keptBy_none (no : Nat) : keptBy s ctx no none = true ↔ ∃ x ∈ s.sq.trk, x.2.1 = ctx ∧ x.1 < no := by
  simp [keptBy]

theorem segRemoveCore_none (hb : blkBusy s .seg = false) (hr : ctx < 256 ∧ idx < 16) (hg : smFind s.sg.segs (segKey ctx idx) = none) :
    segRemoveCore s none ctx idx = cmdDone s .seg none 6 := by
  simp [segRemoveCore, hb, hg, show ¬ (16 ≤ idx ∨ 256 ≤ ctx) by omega]

theorem segRemoveCore_some {g : Segm} (hb : blkBusy s .seg = false) (hr : ctx < 256 ∧ idx < 16) (hg : smFind s.sg.segs (segKey ctx idx) = some g) :
    segRemoveCore s none ctx idx =
      if winMaps s ctx idx then cmdDone s .seg none 5
      else if keptBy s ctx s.sq.opNo none || segMoving s ctx idx then
        cmdPend (s.setSegm (segKey ctx idx) { g with removed := some s.sq.opNo }) { blk := .seg, op := 2, ctx := ctx, idx := idx, gen := s.sq.opNo }
      else cmdDone (dropSeg s (segKey ctx idx)) .seg none 0 := by
  simp [segRemoveCore, hb, hg, show ¬ (16 ≤ idx ∨ 256 ≤ ctx) by omega]

theorem segReadCore_some {g : Segm} (hb : blkBusy s .seg = false) (hr : ctx < 256 ∧ idx < 16) (hg : smFind s.sg.segs (segKey ctx idx) = some g) :
    segReadCore s none ctx idx 0 = readOut s .seg none (F.SEG_ENTRY 0).off 16 0 g.e.toNat := by
  simp [segReadCore, hb, hg, show ¬ (16 ≤ idx ∨ 256 ≤ ctx) by omega]

/-- A command of the segment block leaves memory, the counters, every register but SEG_EVENT and every segment but the one it names. -/
def SegFrame (s u : State) (key : Nat) : Prop :=
  MemSame s u ∧ RegsBut s u [F.SEG_EVENT.off] ∧ CntBut s u [] ∧ ∀ k, k ≠ key → smFind u.sg.segs k = smFind s.sg.segs k

theorem BlockOnly.segFrame {u : State} {key : Nat} (h : BlockOnly s u .seg)
    (hs : ∀ k, k ≠ key → smFind u.sg.segs k = smFind s.sg.segs k) : SegFrame s u key :=
  ⟨h.mem, h.regs, h.cnt, hs⟩

theorem cmdDone_segFrame (s : State) (key r : Nat) : SegFrame s (cmdDone s .seg none r) key :=
  (cmdDone_only _ _ _).segFrame fun _ _ => rfl

theorem setSegm_segFrame (s : State) (key r : Nat) (g : Segm) : SegFrame s (cmdDone (s.setSegm key g) .seg none r) key :=
  ((BlockOnly.tables s .seg _).trans (cmdDone_only _ _ _)).segFrame fun _ hk => smFind_smSet_ne _ _ hk

theorem dropSeg_segFrame (s : State) (key r : Nat) : SegFrame s (cmdDone (dropSeg s key) .seg none r) key :=
  ((BlockOnly.tables s .seg _).trans (cmdDone_only _ _ _)).segFrame fun _ hk => smFind_smDel_ne _ hk

theorem setSegm_pend_segFrame (s : State) (key : Nat) (g : Segm) {p : Pending} (hp : p.blk = .seg) :
    SegFrame s (cmdPend (s.setSegm key g) p) key :=
  ((BlockOnly.tables s .seg _).trans (hp ▸ cmdPend_only _ p)).segFrame fun _ hk => smFind_smSet_ne _ _ hk

theorem segEntry_reset : ∀ v : Variant, ∀ i < 16, regReset v ((F.SEG_ENTRY 0).off + 4 * i) = 0 := by decide

/-- SEG_ENTRY as the image that a set takes. -/
theorem segImage (s : State) : (BitVec.ofNat 512 (s.getWords (F.SEG_ENTRY 0).off 16)).toNat = s.getWords (F.SEG_ENTRY 0).off 16 :=
  (BitVec.toNat_ofNat ..).trans (Nat.mod_eq_of_lt (State.getWords_lt (segEntry_reset s.variant) rfl))

/-- A set of an empty index: the check's outcome. -/
theorem segSetCore_free (hb : blkBusy s .seg = false) (hi : ctx < 256 ∧ idx < 16) (hg : smFind s.sg.segs (segKey ctx idx) = none) (e : BitVec 512) :
    SegFrame s (segSetCore s none ctx idx e) (segKey ctx idx) ∧
      (segCheck s ctx e.toNat = none → Answered s (segSetCore s none ctx idx e) F.SEG_EVENT_SEQ F.SEG_EVENT_RESULT 0 ∧
        smFind (segSetCore s none ctx idx e).sg.segs (segKey ctx idx) = some { e := e }) ∧
      ∀ r, segCheck s ctx e.toNat = some r → Answered s (segSetCore s none ctx idx e) F.SEG_EVENT_SEQ F.SEG_EVENT_RESULT r ∧
        (segSetCore s none ctx idx e).sg = s.sg := by
  cases hc : segCheck s ctx e.toNat with
  | some r =>
    rw [segSetCore_refused hb hi hg hc]
    refine ⟨cmdDone_segFrame _ _ _, nofun, fun q hq => ?_⟩
    cases hq
    exact ⟨cmdDone_answered _ _ (segCheck_lt hc), rfl⟩
  | none =>
    rw [segSetCore_taken hb hi hg hc]
    exact ⟨setSegm_segFrame _ _ _ _, fun _ => ⟨cmdDone_answered _ _ (by decide), smFind_smSet_self _ _ _⟩, nofun⟩

variable (ha : s.pst = 3) (hr : s.fnHeld 0 = false)
include ha hr

theorem segSet_free (hb : blkBusy s .seg = false) (hi : ctx < 256 ∧ idx < 16) (hg : smFind s.sg.segs (segKey ctx idx) = none) :
    let e := s.getWords (F.SEG_ENTRY 0).off 16
    Runs (.segSet ctx idx) s fun u => SegFrame s u (segKey ctx idx) ∧
      (segCheck s ctx e = none → Answered s u F.SEG_EVENT_SEQ F.SEG_EVENT_RESULT 0 ∧
        smFind u.sg.segs (segKey ctx idx) = some { e := BitVec.ofNat 512 e }) ∧
      ∀ r, segCheck s ctx e = some r → Answered s u F.SEG_EVENT_SEQ F.SEG_EVENT_RESULT r ∧ u.sg = s.sg := by
  refine ⟨_, rfl, ?_⟩
  have h := segSetCore_free hb hi hg (BitVec.ofNat 512 (s.getWords (F.SEG_ENTRY 0).off 16))
  rw [segImage] at h
  rw [regCmd, fnCmd_active hr ha]
  exact h

theorem segSet_held {g : Segm} (hb : blkBusy s .seg = false) (hi : ctx < 256 ∧ idx < 16) (hg : smFind s.sg.segs (segKey ctx idx) = some g) :
    Runs (.segSet ctx idx) s fun u => SegFrame s u (segKey ctx idx) ∧ Answered s u F.SEG_EVENT_SEQ F.SEG_EVENT_RESULT 6 ∧ u.sg = s.sg := by
  refine ⟨_, rfl, ?_⟩
  rw [regCmd, fnCmd_active hr ha, segSetCore_held hb hi hg]
  exact ⟨cmdDone_segFrame _ _ _, cmdDone_answered _ _ (by decide), rfl⟩

theorem segRemove_none (hb : blkBusy s .seg = false) (hi : ctx < 256 ∧ idx < 16) (hg : smFind s.sg.segs (segKey ctx idx) = none) :
    Runs (.segRemove ctx idx) s fun u => SegFrame s u (segKey ctx idx) ∧ Answered s u F.SEG_EVENT_SEQ F.SEG_EVENT_RESULT 6 ∧ u.sg = s.sg := by
  refine ⟨_, rfl, ?_⟩
  rw [regCmd, fnCmd_active hr ha, segRemoveCore_none hb hi hg]
  exact ⟨cmdDone_segFrame _ _ _, cmdDone_answered _ _ (by decide), rfl⟩

theorem segRead_held {g : Segm} (hb : blkBusy s .seg = false) (hi : ctx < 256 ∧ idx < 16) (hg : smFind s.sg.segs (segKey ctx idx) = some g) :
    Runs (.segRead ctx idx) s fun u => Answered s u F.SEG_EVENT_SEQ F.SEG_EVENT_RESULT 0 ∧
      u.getWords (F.SEG_ENTRY 0).off 16 = g.e.toNat ∧ u.sg = s.sg ∧ MemSame s u := by
  refine ⟨_, rfl, ?_⟩
  rw [regCmd, fnCmd_active hr ha, segReadCore_some hb hi hg]
  have hout : (blkSeq .seg).off < (F.SEG_ENTRY 0).off := by decide
  exact ⟨readOut_answered (Or.inl hout), readOut_words (by norm_num) (Or.inl hout), readOut_sg .., readOut_memSame _ _ _ _ _⟩

/-- The three ways of a removal: mapped by a window, held by what is under way, or done at once. -/
theorem segRemove_held {g : Segm} (hb : blkBusy s .seg = false) (hi : ctx < 256 ∧ idx < 16) (hg : smFind s.sg.segs (segKey ctx idx) = some g) :
    Runs (.segRemove ctx idx) s fun u => SegFrame s u (segKey ctx idx) ∧
      (winMaps s ctx idx = true → Answered s u F.SEG_EVENT_SEQ F.SEG_EVENT_RESULT 5 ∧ u.sg = s.sg) ∧
      (winMaps s ctx idx = false → (∀ x ∈ s.sq.trk, x.2.1 = ctx → s.sq.opNo ≤ x.1) → segMoving s ctx idx = false →
        Answered s u F.SEG_EVENT_SEQ F.SEG_EVENT_RESULT 0 ∧ smFind u.sg.segs (segKey ctx idx) = none) ∧
      (winMaps s ctx idx = false → (∃ x ∈ s.sq.trk, x.2.1 = ctx ∧ x.1 < s.sq.opNo) ∨ segMoving s ctx idx = true →
        u.get F.SEG_EVENT_PENDING = 1 ∧ u.get F.SEG_EVENT_SEQ = s.get F.SEG_EVENT_SEQ ∧
        smFind u.sg.segs (segKey ctx idx) = some { g with removed := some s.sq.opNo } ∧ blkBusy u .seg = true) := by
  refine ⟨_, rfl, ?_⟩
  rw [regCmd, fnCmd_active hr ha, segRemoveCore_some hb hi hg]
  have hkept := keptBy_none (s := s) (ctx := ctx) s.sq.opNo
  by_cases hw : winMaps s ctx idx = true
  · rw [if_pos hw, hw]
    exact ⟨cmdDone_segFrame _ _ _, fun _ => ⟨cmdDone_answered _ _ (by decide), rfl⟩, nofun, nofun⟩
  · rw [if_neg hw]
    by_cases hkeep : (keptBy s ctx s.sq.opNo none || segMoving s ctx idx) = true
    · rw [if_pos hkeep]
      refine ⟨setSegm_pend_segFrame _ _ _ rfl, fun h => absurd h hw, fun _ hall hstill => ?_,
        fun _ _ => ⟨cmdPend_pending _ _, cmdPend_seq _ _, smFind_smSet_self _ _ _, cmdPend_busy _ _⟩⟩
      obtain ⟨x, hx, hc, hlt⟩ := hkept.mp (by simpa [hstill] using hkeep)
      exact absurd (hall x hx hc) (by omega)
    · rw [if_neg hkeep]
      rw [Bool.or_eq_true, not_or] at hkeep
      refine ⟨dropSeg_segFrame _ _ _, fun h => absurd h hw, fun _ _ _ => ⟨cmdDone_answered _ _ (by decide), smFind_smDel_self _ _⟩, fun _ hor => ?_⟩
      rcases hor with hex | hmoves
      · exact absurd (hkept.mpr hex) hkeep.1
      · exact absurd hmoves hkeep.2

omit hr in
theorem segRemoveComplete_last {gen : Nat} (hp : s.sg.pend = [{ blk := .seg, op := 2, ctx := ctx, idx := idx, gen := gen }])
    (hidle : ∀ x ∈ s.sq.trk, x.2.1 = ctx → gen ≤ x.1) (hstill : segMoving s ctx idx = false) :
    Runs .segRemoveComplete s fun u => SegFrame s u (segKey ctx idx) ∧ Answered s u F.SEG_EVENT_SEQ F.SEG_EVENT_RESULT 0 ∧
      u.get F.SEG_EVENT_PENDING = 0 ∧ smFind u.sg.segs (segKey ctx idx) = none ∧ blkBusy u .seg = false := by
  have hkeep : keptBy s ctx gen none = false := by
    rw [← Bool.not_eq_true, keptBy_none]
    rintro ⟨x, hx, hc, hlt⟩
    exact absurd (hidle x hx hc) (by omega)
  have hd : (dropSeg s (segKey ctx idx)).sg.pend = [_] := hp
  refine ⟨_, rfl, ?_⟩
  have hfind := findPend_one hp
  simp only at hfind
  rw [inActive, if_pos ha, hfind]
  simp only [hkeep, hstill, Bool.or_self, Bool.false_eq_true, if_false]
  have hsg := cmdEnd_sg hd rfl 0
  refine ⟨((BlockOnly.tables s .seg _).trans (cmdEnd_only hd rfl 0)).segFrame fun k hk => ?_, cmdEnd_answered hd rfl (by decide), cmdEnd_pending hd rfl 0, ?_, ?_⟩
  · rw [hsg]; exact smFind_smDel_ne _ hk
  · rw [hsg]; exact smFind_smDel_self _ _
  · rw [blkBusy, hsg]; rfl

end Segments

/-- Settles O39: each command's outcome in the order of its checks, and a pending removal's end. -/
theorem segmentCommands : Obligations.SegmentCommands := by
  intro s ctx idx ha hr hctx hidx key e ev frame
  have hi : ctx < 256 ∧ idx < 16 := ⟨hctx, hidx⟩
  exact ⟨fun hb => ⟨fun hg => ⟨segSet_free ha hr hb hi hg, segRemove_none ha hr hb hi hg⟩,
      fun g hg => ⟨segSet_held ha hr hb hi hg, segRead_held ha hr hb hi hg, segRemove_held ha hr hb hi hg⟩⟩,
    fun gen hp hidle hstill => segRemoveComplete_last ha hp hidle hstill⟩

end Sys2Proof.Machine

/-! ## Route commands (R353, R354, R374) -/

namespace Sys2Proof.Machine

theorem bit_putBit (w i j : Nat) (b : Bool) : bit (putBit w i b) j = if j = i then b else bit w j := by
  split
  · next h =>
    subst h
    rw [putBit, bit_putBits_inside _ _ le_rfl (by omega), Nat.sub_self]
    cases b <;> rfl
  · exact bit_putBits_outside _ _ (by omega)

/-- Bit 74 of each of the first `n` slots cleared: the rest of the bits stay. -/
theorem bit_clearedValid (e b : Nat) : ∀ n, bit ((List.range n).foldl (fun e k => putBit e (96 * k + 74) false) e) b =
    (decide (¬ (b % 96 = 74 ∧ b / 96 < n)) && bit e b) := by
  intro n
  induction n with
  | zero => simp
  | succ n ih =>
    rw [List.range_succ, List.foldl_append, List.foldl_cons, List.foldl_nil, bit_putBit, ih]
    split
    · next h => simp [show b % 96 = 74 ∧ b / 96 < n + 1 by omega]
    · next h =>
      have hiff : (b % 96 = 74 ∧ b / 96 < n + 1) ↔ (b % 96 = 74 ∧ b / 96 < n) := by omega
      simp only [hiff]

section Routes

variable {s : State} {ep r : Nat}

theorem routeDone_regs (s : State) (r : Nat) : RegsBut s (routeDone s r) [F.ROUTE_EVENT.off] := by
  intro o ho
  have ho := List.mem_singleton.not.mp ho
  exact (State.reg_bump_ne (f := F.ROUTE_EVENT_SEQ) _ ho).trans (State.reg_set_ne (f := F.ROUTE_EVENT_RESULT) _ _ ho)

theorem routeDone_answered (s : State) (hr : r < 16) : Answered s (routeDone s r) F.ROUTE_EVENT_SEQ F.ROUTE_EVENT_RESULT r :=
  answered_result s (by decide) (by decide) (by decide) (by decide) hr

theorem routeDone_tr (s : State) (r : Nat) : (routeDone s r).tr = s.tr := rfl

theorem routeDone_memSame (s : State) (r : Nat) : MemSame s (routeDone s r) := fun _ => rfl

theorem releaseWaits_none (h : s.tr.waitRoute = []) (ep : Nat) : releaseWaits s ep = s := by
  unfold releaseWaits
  simp only [h, List.filter_nil, List.foldl_nil]
  rw [← h]

/-- The entry in the latest place of the route cache. -/
def routesWith (s : State) (ep : Nat) (e : BitVec 768) : State :=
  cacheRoute { s with tr := { s.tr with routes := smPut 0#768 s.tr.routes ep e } } ep

theorem writeRoute_none (h : s.tr.waitRoute = []) (e : BitVec 768) : writeRoute s ep e = routeDone (routesWith s ep e) 0 :=
  congrArg (routeDone · 0) (releaseWaits_none (s := routesWith s ep e) h ep)

theorem mem_cacheRoute (s : State) (ep : Nat) : ep ∈ (cacheRoute s ep).tr.rcache := by
  show ep ∈ (ep :: s.tr.rcache.erase ep).take 65536
  simp

/-- A route command that writes the entry: its RESULT, the entry, and that nothing else changed. -/
theorem writeRoute_spec (h : s.tr.waitRoute = []) (e : BitVec 768) :
    let u := writeRoute s ep e
    Answered s u F.ROUTE_EVENT_SEQ F.ROUTE_EVENT_RESULT 0 ∧ smGet u.tr.routes ep 0#768 = e ∧
      (MemSame s u ∧ ∀ x, x ≠ ep → smGet u.tr.routes x 0#768 = smGet s.tr.routes x 0#768) ∧ ep ∈ u.tr.rcache ∧ RegsBut s u [F.ROUTE_EVENT.off] := by
  rw [writeRoute_none h]
  exact ⟨routeDone_answered _ (by decide), smGet_smPut_self .., ⟨fun _ => rfl, fun x hx => smGet_smPut_ne _ _ _ hx⟩, mem_cacheRoute _ _, routeDone_regs _ _⟩

theorem routeDone_words (s : State) {v : BitVec 768} : (routeDone (s.setWords (F.ROUTE_ENTRY 0).off 24 v.toNat) 0).getWords (F.ROUTE_ENTRY 0).off 24 = v.toNat := by
  rw [State.getWords_congr (s := s.setWords (F.ROUTE_ENTRY 0).off 24 v.toNat), State.getWords_setWords]
  · exact Nat.mod_eq_of_lt (by simpa using v.isLt)
  · have hout : F.ROUTE_EVENT.off < (F.ROUTE_ENTRY 0).off := by decide
    exact fun o hlo _ => routeDone_regs _ _ o (List.mem_singleton.not.mpr (by omega))

variable (ha : s.pst = 3) (hr : s.fnHeld 0 = false)
include ha hr

/-- No entry above the table. -/
theorem routeCmd_above (h : 0xFFFFF ≤ ep) (c : Instr) (hc : c = .routeSet ep ∨ c = .routeInvalidate ep ∨ c = .routeRead ep) :
    Runs c s fun u => Answered s u F.ROUTE_EVENT_SEQ F.ROUTE_EVENT_RESULT 3 ∧ u.tr = s.tr ∧ MemSame s u := by
  have hdone : Answered s (routeDone s 3) F.ROUTE_EVENT_SEQ F.ROUTE_EVENT_RESULT 3 ∧ (routeDone s 3).tr = s.tr ∧ MemSame s (routeDone s 3) :=
    ⟨routeDone_answered _ (by decide), rfl, fun _ => rfl⟩
  rcases hc with rfl | rfl | rfl <;> (refine ⟨_, rfl, ?_⟩; rw [regCmd, fnCmd_active hr ha, if_pos h]; exact hdone)

theorem routeSet_bad (h : ep < 0xFFFFF) (he : routeOk (BitVec.ofNat 768 (s.getWords (F.ROUTE_ENTRY 0).off 24)) = false) :
    Runs (.routeSet ep) s fun u => Answered s u F.ROUTE_EVENT_SEQ F.ROUTE_EVENT_RESULT 1 ∧ u.tr = s.tr ∧ MemSame s u := by
  refine ⟨_, rfl, ?_⟩
  rw [regCmd, fnCmd_active hr ha]
  simp only [he, if_neg (Nat.not_le.mpr h), Bool.not_false, if_true]
  exact ⟨routeDone_answered _ (by decide), rfl, fun _ => rfl⟩

theorem routeSet_good (h : ep < 0xFFFFF) (hw : s.tr.waitRoute = []) (he : routeOk (BitVec.ofNat 768 (s.getWords (F.ROUTE_ENTRY 0).off 24)) = true) :
    Runs (.routeSet ep) s fun u => Answered s u F.ROUTE_EVENT_SEQ F.ROUTE_EVENT_RESULT 0 ∧
      smGet u.tr.routes ep 0#768 = BitVec.ofNat 768 (s.getWords (F.ROUTE_ENTRY 0).off 24) ∧
      (MemSame s u ∧ ∀ x, x ≠ ep → smGet u.tr.routes x 0#768 = smGet s.tr.routes x 0#768) ∧ ep ∈ u.tr.rcache ∧ RegsBut s u [F.ROUTE_EVENT.off] := by
  refine ⟨_, rfl, ?_⟩
  rw [regCmd, fnCmd_active hr ha]
  simp only [he, if_neg (Nat.not_le.mpr h), Bool.not_true, Bool.false_eq_true, if_false]
  exact writeRoute_spec hw _

theorem routeInvalidate_runs (h : ep < 0xFFFFF) (hw : s.tr.waitRoute = []) :
    Runs (.routeInvalidate ep) s fun u => Answered s u F.ROUTE_EVENT_SEQ F.ROUTE_EVENT_RESULT 0 ∧
      (MemSame s u ∧ ∀ x, x ≠ ep → smGet u.tr.routes x 0#768 = smGet s.tr.routes x 0#768) ∧ RegsBut s u [F.ROUTE_EVENT.off] ∧
      ∀ b, b < 768 → (smGet u.tr.routes ep 0#768).getLsbD b = (decide (b % 96 ≠ 74) && (smGet s.tr.routes ep 0#768).getLsbD b) := by
  refine ⟨_, rfl, ?_⟩
  rw [regCmd, fnCmd_active hr ha, if_neg (Nat.not_le.mpr h)]
  obtain ⟨hev, hroute, hothers, -, hregs⟩ := writeRoute_spec (ep := ep) hw
    (BitVec.ofNat 768 ((List.range 8).foldl (fun e k => putBit e (96 * k + 74) false) (smGet s.tr.routes ep 0#768).toNat))
  refine ⟨hev, hothers, hregs, fun b hb => ?_⟩
  have hclear := bit_clearedValid (smGet s.tr.routes ep 0#768).toNat b 8
  rw [hroute, BitVec.getLsbD_ofNat, decide_eq_true hb, Bool.true_and]
  have hiff : (b % 96 = 74 ∧ b / 96 < 8) ↔ b % 96 = 74 := by omega
  simp only [hiff] at hclear
  exact hclear

omit hr in
theorem routeEntryFetched_runs (h : ep < 0xFFFFF) (hw : s.tr.waitRoute = []) :
    Runs (.routeEntryFetched ep) s fun u => u.tr.rcache = (ep :: s.tr.rcache.erase ep).take 65536 ∧ u.tr.routes = s.tr.routes ∧
      MemSame s u ∧ RegsBut s u [] := by
  refine ⟨_, rfl, ?_⟩
  rw [inActive, if_pos ha, if_pos (by omega), releaseWaits_none (s := cacheRoute s ep) hw]
  exact ⟨rfl, rfl, fun _ => rfl, fun _ _ => rfl⟩

theorem routeRead_runs (h : ep < 0xFFFFF) :
    Runs (.routeRead ep) s fun u => Answered s u F.ROUTE_EVENT_SEQ F.ROUTE_EVENT_RESULT 0 ∧ u.tr = s.tr ∧
      u.getWords (F.ROUTE_ENTRY 0).off 24 = (smGet s.tr.routes ep 0#768).toNat ∧ MemSame s u := by
  refine ⟨_, rfl, ?_⟩
  rw [regCmd, fnCmd_active hr ha, if_neg (Nat.not_le.mpr h)]
  have hseq : (s.setWords (F.ROUTE_ENTRY 0).off 24 (smGet s.tr.routes ep 0#768).toNat).get F.ROUTE_EVENT_SEQ = s.get F.ROUTE_EVENT_SEQ := by
    rw [State.get, State.get, State.reg_setWords_out _ _ (Or.inl (by decide))]
  have htr : (s.setWords (F.ROUTE_ENTRY 0).off 24 (smGet s.tr.routes ep 0#768).toNat).tr = s.tr := by rw [State.setWords_eq]
  exact ⟨(routeDone_answered _ (by decide)).of_seq hseq, (routeDone_tr _ _).trans htr, routeDone_words s,
    (s.setWords_memSame _ _ _).trans (routeDone_memSame _ _)⟩

end Routes

/-- Settles O47: each command by its checks, with a bit of an invalidated entry read back. -/
theorem routeCommands : Obligations.RouteCommands := by
  intro s ep ha hr
  exact ⟨fun h => routeCmd_above ha hr h, fun h => ⟨routeSet_bad ha hr h,
    fun hw => ⟨routeSet_good ha hr h hw, routeInvalidate_runs ha hr h hw, routeEntryFetched_runs ha h hw⟩, routeRead_runs ha hr h⟩⟩

end Sys2Proof.Machine

/-! ## Window and key commands (R308, R309, R311, R316) -/

namespace Sys2Proof.Machine

/-- A command of the window block leaves memory, the counters, the segments, and every window and key but number `n`. -/
def WinFrame (s u : State) (n : Nat) : Prop :=
  MemSame s u ∧ u.sg.segs = s.sg.segs ∧ CntBut s u [] ∧
    (∀ j, j ≠ n → smFind u.sg.wins j = smFind s.sg.wins j) ∧ ∀ j, j ≠ n → smFind u.sg.keys j = smFind s.sg.keys j

/-- No packet waits for a migration or at a sync unit. -/
def NoneHeld (s : State) : Prop := (∀ r ∈ s.sg.recs, ∀ x ∈ r.waiters, ∀ i p, x ≠ .held i p) ∧ ∀ r ∈ s.sy.reqs, r.pkt = none

section Reclaim

variable {s u : State}

theorem reclaim_sg (s : State) : (reclaim s).sg = s.sg := by rw [(reclaim_frame s).rest]

theorem reclaim_cnt (s : State) : (reclaim s).cnt = s.cnt := by
  unfold reclaim
  split <;> rfl

theorem Answered.reclaim {seq res : RF} {r : Nat} (h : Answered s u seq res r) (hs : seq.off < 0x600000) (hr : res.off < 0x600000) :
    Answered s (reclaim u) seq res r :=
  ⟨((reclaim_frame u).get hr).trans h.1, ((reclaim_frame u).get hs).trans h.2⟩

theorem WinFrame.reclaim {n : Nat} (h : WinFrame s u n) : WinFrame s (reclaim u) n := by
  obtain ⟨hmem, hsegs, hcnt, hwins, hkeys⟩ := h
  have hc : CntBut s (Machine.reclaim u) [] := fun k hk => by rw [reclaim_cnt]; exact hcnt k hk
  exact ⟨hmem.trans (reclaim_frame u).byte, by rw [reclaim_sg, hsegs], hc, by rwa [reclaim_sg], by rwa [reclaim_sg]⟩

end Reclaim

section Windows

variable {s : State} {n : Nat}

theorem BlockOnly.winFrame {u : State} (h : BlockOnly s u .win) (hs : u.sg.segs = s.sg.segs)
    (hw : ∀ j, j ≠ n → smFind u.sg.wins j = smFind s.sg.wins j) (hk : ∀ j, j ≠ n → smFind u.sg.keys j = smFind s.sg.keys j) : WinFrame s u n :=
  ⟨h.mem, hs, h.cnt, hw, hk⟩

theorem winDrained_none (h : NoneHeld s) (op idx : Nat) : winDrained s op idx = true := by
  obtain ⟨hrecs, hreqs⟩ := h
  unfold winDrained
  rw [Bool.and_eq_true, Bool.not_eq_true', Bool.not_eq_true', List.any_eq_false, List.any_eq_false]
  constructor
  · intro r hr
    rw [Bool.not_eq_true, List.any_eq_false]
    intro x hx
    cases x with
    | held i p => exact absurd rfl (hrecs r hr _ hx i p)
    | _ => exact Bool.false_ne_true
  · intro r hr
    rw [hreqs r hr]
    exact Bool.false_ne_true

/-- A window or key command that is answered with the tables as they are. -/
theorem cmdDone_winFrame (s : State) (n r : Nat) : WinFrame s (cmdDone s .win none r) n :=
  (cmdDone_only _ _ _).winFrame rfl (fun _ _ => rfl) fun _ _ => rfl

theorem win_answered (s : State) {r : Nat} (hr : r < 16) : Answered s (cmdDone s .win none r) F.WIN_EVENT_SEQ F.WIN_EVENT_RESULT r :=
  cmdDone_answered s .win hr

/-- The tables of the blocks with other windows and keys. -/
def withTables (s : State) (wins keys : SMap (BitVec 256)) : State := { s with sg := { s.sg with wins := wins, keys := keys } }

theorem withTables_winFrame {wins keys : SMap (BitVec 256)} (hw : ∀ j, j ≠ n → smFind wins j = smFind s.sg.wins j)
    (hk : ∀ j, j ≠ n → smFind keys j = smFind s.sg.keys j) (r : Nat) : WinFrame s (cmdDone (withTables s wins keys) .win none r) n :=
  ((BlockOnly.tables s .win _).trans (cmdDone_only (withTables s wins keys) _ _)).winFrame rfl hw hk

theorem withTables_answered (wins keys : SMap (BitVec 256)) {r : Nat} (hr : r < 16) :
    Answered s (cmdDone (withTables s wins keys) .win none r) F.WIN_EVENT_SEQ F.WIN_EVENT_RESULT r :=
  win_answered (withTables s wins keys) hr

/-- A bump or a removal while no packet is held completes at once. -/
theorem winDrain_none (h : NoneHeld s) (wins keys : SMap (BitVec 256)) (op ctx idx : Nat) (img : BitVec 256) :
    winDrain (withTables s wins keys) none op ctx idx img = reclaim (cmdDone (withTables s wins keys) .win none 0) :=
  if_pos (winDrained_none (s := withTables s wins keys) h op idx)

theorem winDrain_spec (h : NoneHeld s) {wins keys : SMap (BitVec 256)} (hw : ∀ j, j ≠ n → smFind wins j = smFind s.sg.wins j)
    (hk : ∀ j, j ≠ n → smFind keys j = smFind s.sg.keys j) (op ctx idx : Nat) (img : BitVec 256) :
    let u := winDrain (withTables s wins keys) none op ctx idx img
    WinFrame s u n ∧ Answered s u F.WIN_EVENT_SEQ F.WIN_EVENT_RESULT 0 ∧ u.sg.wins = wins ∧ u.sg.keys = keys := by
  rw [winDrain_none h]
  exact ⟨(withTables_winFrame hw hk 0).reclaim, (withTables_answered wins keys (by decide)).reclaim (by decide) (by decide),
    by rw [reclaim_sg]; rfl, by rw [reclaim_sg]; rfl⟩

theorem winEntry_reset : ∀ v : Variant, ∀ i < 8, regReset v ((F.WIN_ENTRY 0).off + 4 * i) = 0 := by decide

theorem keyEntry_reset : ∀ v : Variant, ∀ i < 8, regReset v ((F.KEY_ENTRY 0).off + 4 * i) = 0 := by decide

theorem winImage (s : State) : s.getWords (F.WIN_ENTRY 0).off 8 % 2 ^ 256 = s.getWords (F.WIN_ENTRY 0).off 8 :=
  Nat.mod_eq_of_lt (State.getWords_lt (winEntry_reset s.variant) rfl)

theorem keyImage (s : State) : s.getWords (F.KEY_ENTRY 0).off 8 % 2 ^ 256 = s.getWords (F.KEY_ENTRY 0).off 8 :=
  Nat.mod_eq_of_lt (State.getWords_lt (keyEntry_reset s.variant) rfl)

/-- The image of a bumped window: GEN one higher, and no other bit changed. -/
theorem bumped_gen (e : BitVec 256) : winGen (BitVec.ofNat 256 (putBits e.toNat 16 8 (winGen e.toNat + 1))).toNat = (winGen e.toNat + 1) % 256 := by
  rw [BitVec.toNat_ofNat, winGen, bits_mod _ (by decide)]
  exact bits_putBits_self _ _ _ _

theorem bumped_bit (e : BitVec 256) {i : Nat} (hi : i < 256) (ho : i < 16 ∨ 24 ≤ i) :
    (BitVec.ofNat 256 (putBits e.toNat 16 8 (winGen e.toNat + 1))).getLsbD i = e.getLsbD i := by
  rw [BitVec.getLsbD_ofNat, decide_eq_true hi, Bool.true_and]
  exact bit_putBits_outside e.toNat (winGen e.toNat + 1) (by omega)

theorem readOut_winFrame (off k v : Nat) : WinFrame s (readOut s .win none off k 0 v) n :=
  ⟨readOut_memSame _ _ _ _ _, by rw [readOut_sg], readOut_cnt _ _ _ _ _, fun _ _ => by rw [readOut_sg], fun _ _ => by rw [readOut_sg]⟩

variable (ha : s.pst = 3) (hr : s.fnHeld 0 = false) (hb : blkBusy s .win = false)
include ha hr hb

theorem winSet_noQuota (hn : n < 65536) (hq : s.mayCreate (winCtx (s.getWords (F.WIN_ENTRY 0).off 8)) 4 n = false) :
    Runs (.winSet n) s fun u => WinFrame s u n ∧ Answered s u F.WIN_EVENT_SEQ F.WIN_EVENT_RESULT 4 ∧ u.sg = s.sg := by
  refine ⟨_, rfl, ?_⟩
  have h : winSetCore s none n (s.getWords (F.WIN_ENTRY 0).off 8) = cmdDone s .win none 4 := by
    simp only [winSetCore, hb, ownImage, winImage, hq, Nat.not_le.mpr hn, if_false, Bool.not_false, if_true, Bool.false_eq_true]
  rw [regCmd, fnCmd_active hr ha, h]
  exact ⟨cmdDone_winFrame _ _ _, win_answered _ (by decide), rfl⟩

theorem winSet_free (hn : n < 65536) (hq : s.mayCreate (winCtx (s.getWords (F.WIN_ENTRY 0).off 8)) 4 n = true)
    (hf : smFind s.sg.wins n = none) (hok : winFieldsOk s (s.getWords (F.WIN_ENTRY 0).off 8) = true) :
    Runs (.winSet n) s fun u => WinFrame s u n ∧ Answered s u F.WIN_EVENT_SEQ F.WIN_EVENT_RESULT 0 ∧
      smFind u.sg.wins n = some (BitVec.ofNat 256 (s.getWords (F.WIN_ENTRY 0).off 8)) ∧ u.sg.keys = s.sg.keys := by
  refine ⟨_, rfl, ?_⟩
  have h : winSetCore s none n (s.getWords (F.WIN_ENTRY 0).off 8) =
      cmdDone (withTables s (smSet s.sg.wins n (BitVec.ofNat 256 (s.getWords (F.WIN_ENTRY 0).off 8))) s.sg.keys) .win none 0 := by
    simp only [winSetCore, hb, ownImage, winImage, hq, hf, hok, Nat.not_le.mpr hn, if_false, Bool.not_true, Bool.false_eq_true,
      Option.isSome_none]
    rfl
  rw [regCmd, fnCmd_active hr ha, h]
  exact ⟨withTables_winFrame (fun _ hj => smFind_smSet_ne _ _ hj) (fun _ _ => rfl) 0, withTables_answered _ _ (by decide), smFind_smSet_self _ _ _, rfl⟩

theorem winSet_held {e : BitVec 256} (hn : n < 65536) (hq : s.mayCreate (winCtx (s.getWords (F.WIN_ENTRY 0).off 8)) 4 n = true)
    (hf : smFind s.sg.wins n = some e) :
    Runs (.winSet n) s fun u => WinFrame s u n ∧ Answered s u F.WIN_EVENT_SEQ F.WIN_EVENT_RESULT 6 ∧ u.sg = s.sg := by
  refine ⟨_, rfl, ?_⟩
  have h : winSetCore s none n (s.getWords (F.WIN_ENTRY 0).off 8) = cmdDone s .win none 6 := by
    simp only [winSetCore, hb, ownImage, winImage, hq, hf, Nat.not_le.mpr hn, if_false, Bool.not_true, Bool.false_eq_true, Option.isSome_some, if_true]
  rw [regCmd, fnCmd_active hr ha, h]
  exact ⟨cmdDone_winFrame _ _ _, win_answered _ (by decide), rfl⟩

theorem winRead_held {e : BitVec 256} (hn : n < 65536) (hf : smFind s.sg.wins n = some e) :
    Runs (.winRead n) s fun u => WinFrame s u n ∧ Answered s u F.WIN_EVENT_SEQ F.WIN_EVENT_RESULT 0 ∧
      u.getWords (F.WIN_ENTRY 0).off 8 = e.toNat ∧ u.sg = s.sg := by
  refine ⟨_, rfl, ?_⟩
  have h : winReadCore s none n 0 = readOut s .win none (F.WIN_ENTRY 0).off 8 0 e.toNat := by
    simp only [winReadCore, hb, smGet, hf, Nat.not_le.mpr hn, outsideOwn, if_false, Bool.false_eq_true, Option.getD_some]
  rw [regCmd, fnCmd_active hr ha, h]
  have hout : (blkSeq .win).off < (F.WIN_ENTRY 0).off := by decide
  exact ⟨readOut_winFrame _ _ _, readOut_answered (Or.inl hout), readOut_words rfl (Or.inl hout), readOut_sg ..⟩

theorem winBump_held {e : BitVec 256} (hn : n < 65536) (hf : smFind s.sg.wins n = some e) (hq : NoneHeld s) :
    Runs (.winBump n) s fun u => WinFrame s u n ∧ Answered s u F.WIN_EVENT_SEQ F.WIN_EVENT_RESULT 0 ∧ u.sg.keys = s.sg.keys ∧
      ∃ e', smFind u.sg.wins n = some e' ∧ winGen e'.toNat = (winGen e.toNat + 1) % 256 ∧
        ∀ i, i < 256 → (i < 16 ∨ 24 ≤ i) → e'.getLsbD i = e.getLsbD i := by
  refine ⟨_, rfl, ?_⟩
  have h : winBumpCore s none n =
      winDrain (withTables s (smSet s.sg.wins n (BitVec.ofNat 256 (putBits e.toNat 16 8 (winGen e.toNat + 1)))) s.sg.keys) none 4 (winCtx e.toNat) n 0#256 := by
    simp only [winBumpCore, onWin, hb, hf, Nat.not_le.mpr hn, outsideOwn, if_false, Bool.false_eq_true]
    rfl
  rw [regCmd, fnCmd_active hr ha, h]
  obtain ⟨hframe, hev, hwins, hkeys⟩ := winDrain_spec hq (n := n) (wins := smSet s.sg.wins n (BitVec.ofNat 256 (putBits e.toNat 16 8 (winGen e.toNat + 1))))
    (fun _ hj => smFind_smSet_ne _ _ hj) (fun _ _ => rfl) 4 (winCtx e.toNat) n 0#256
  refine ⟨hframe, hev, hkeys, _, ?_, bumped_gen e, fun i hi ho => bumped_bit e hi ho⟩
  rw [hwins, smFind_smSet_self]

theorem winRemove_held {e : BitVec 256} (hn : n < 65536) (hf : smFind s.sg.wins n = some e) (hq : NoneHeld s) :
    Runs (.winRemove n) s fun u => WinFrame s u n ∧ Answered s u F.WIN_EVENT_SEQ F.WIN_EVENT_RESULT 0 ∧ u.sg.keys = s.sg.keys ∧ smFind u.sg.wins n = none := by
  refine ⟨_, rfl, ?_⟩
  have h : winRemoveCore s none n = winDrain (withTables s (smDel s.sg.wins n) s.sg.keys) none 2 (winCtx e.toNat) n e := by
    simp only [winRemoveCore, onWin, hb, hf, Nat.not_le.mpr hn, outsideOwn, if_false, Bool.false_eq_true]
    rfl
  rw [regCmd, fnCmd_active hr ha, h]
  obtain ⟨hframe, hev, hwins, hkeys⟩ := winDrain_spec hq (n := n) (wins := smDel s.sg.wins n)
    (fun _ hj => smFind_smDel_ne _ hj) (fun _ _ => rfl) 2 (winCtx e.toNat) n e
  refine ⟨hframe, hev, hkeys, ?_⟩
  rw [hwins, smFind_smDel_self]

theorem keySet_free (hn : n < 2 ^ 20) (hq : s.mayCreate (keyCtx (s.getWords (F.KEY_ENTRY 0).off 8)) 3 n = true)
    (hf : smFind s.sg.keys n = none) (hok : keyFieldsOk s (s.getWords (F.KEY_ENTRY 0).off 8) = true) :
    Runs (.keySet n) s fun u => WinFrame s u n ∧ Answered s u F.WIN_EVENT_SEQ F.WIN_EVENT_RESULT 0 ∧
      smFind u.sg.keys n = some (BitVec.ofNat 256 (s.getWords (F.KEY_ENTRY 0).off 8)) ∧ u.sg.wins = s.sg.wins := by
  refine ⟨_, rfl, ?_⟩
  have h : keySetCore s none n (s.getWords (F.KEY_ENTRY 0).off 8) =
      cmdDone (withTables s s.sg.wins (smSet s.sg.keys n (BitVec.ofNat 256 (s.getWords (F.KEY_ENTRY 0).off 8)))) .win none 0 := by
    simp only [keySetCore, hb, ownImage, keyImage, hq, hf, hok, Nat.not_le.mpr hn, if_false, Bool.not_true, Bool.false_eq_true,
      Option.isSome_none]
    rfl
  rw [regCmd, fnCmd_active hr ha, h]
  exact ⟨withTables_winFrame (fun _ _ => rfl) (fun _ hj => smFind_smSet_ne _ _ hj) 0, withTables_answered _ _ (by decide), smFind_smSet_self _ _ _, rfl⟩

theorem keyRead_held {e : BitVec 256} (hn : n < 2 ^ 20) (hf : smFind s.sg.keys n = some e) :
    Runs (.keyRead n) s fun u => WinFrame s u n ∧ Answered s u F.WIN_EVENT_SEQ F.WIN_EVENT_RESULT 0 ∧
      u.getWords (F.KEY_ENTRY 0).off 8 = e.toNat ∧ u.sg = s.sg := by
  refine ⟨_, rfl, ?_⟩
  have h : keyReadCore s none n 0 = readOut s .win none (F.KEY_ENTRY 0).off 8 0 e.toNat := by
    simp only [keyReadCore, hb, smGet, hf, Nat.not_le.mpr hn, outsideOwn, if_false, Bool.false_eq_true, Option.getD_some]
  rw [regCmd, fnCmd_active hr ha, h]
  have hout : (blkSeq .win).off < (F.KEY_ENTRY 0).off := by decide
  exact ⟨readOut_winFrame _ _ _, readOut_answered (Or.inl hout), readOut_words rfl (Or.inl hout), readOut_sg ..⟩

theorem keyRemove_held {e : BitVec 256} (hn : n < 2 ^ 20) (hf : smFind s.sg.keys n = some e) (hq : NoneHeld s) :
    Runs (.keyRemove n) s fun u => WinFrame s u n ∧ Answered s u F.WIN_EVENT_SEQ F.WIN_EVENT_RESULT 0 ∧ u.sg.wins = s.sg.wins ∧ smFind u.sg.keys n = none := by
  refine ⟨_, rfl, ?_⟩
  have h : keyRemoveCore s none n = winDrain (withTables s s.sg.wins (smDel s.sg.keys n)) none 6 (keyCtx e.toNat) n 0#256 := by
    simp only [keyRemoveCore, hb, hf, Nat.not_le.mpr hn, outsideOwn, if_false, Bool.false_eq_true]
    rfl
  rw [regCmd, fnCmd_active hr ha, h]
  obtain ⟨hframe, hev, hwins, hkeys⟩ := winDrain_spec hq (n := n) (keys := smDel s.sg.keys n)
    (fun _ _ => rfl) (fun _ hj => smFind_smDel_ne _ hj) 6 (keyCtx e.toNat) n 0#256
  refine ⟨hframe, hev, hwins, ?_⟩
  rw [hkeys, smFind_smDel_self]

omit hr hb in
theorem winDrainComplete_last {p : Pending} (hp : s.sg.pend = [p]) (hw : p.blk = .win) (he : p.entry = none) (hd : winDrained s p.op p.idx = true) :
    Runs .winDrainComplete s fun u => WinFrame s u n ∧ Answered s u F.WIN_EVENT_SEQ F.WIN_EVENT_RESULT 0 ∧ u.get F.WIN_EVENT_PENDING = 0 ∧
      u.sg.pend = [] ∧ u.sg.wins = s.sg.wins ∧ u.sg.keys = s.sg.keys := by
  refine ⟨_, rfl, ?_⟩
  have hfind := findPend_one hp
  have honly := cmdEnd_only hp he 0
  have hev := cmdEnd_answered hp he (r := 0) (by decide)
  have hpend := cmdEnd_pending hp he 0
  rw [hw] at hfind honly hev hpend
  rw [inActive, if_pos ha, hfind]
  simp only [hd, if_true]
  have hsg := cmdEnd_sg hp he 0
  have hframe : WinFrame s (cmdEnd s p 0) n := honly.winFrame (by rw [hsg]) (fun _ _ => by rw [hsg]) fun _ _ => by rw [hsg]
  refine ⟨hframe.reclaim, hev.reclaim (by decide) (by decide), ((reclaim_frame _).get (by decide)).trans hpend, ?_, ?_, ?_⟩ <;> rw [reclaim_sg, hsg]

end Windows

/-- Settles O40: each command by its checks; a bump's image bit by bit. -/
theorem windowCommands : Obligations.WindowCommands := by
  intro s n ha hr w k ev frame quiet
  exact ⟨fun hb hn => ⟨winSet_noQuota ha hr hb hn, winSet_free ha hr hb hn, fun e hf => ⟨fun hq => winSet_held ha hr hb hn hq hf,
      winRead_held ha hr hb hn hf, winBump_held ha hr hb hn hf, winRemove_held ha hr hb hn hf⟩⟩,
    fun hb hn => ⟨keySet_free ha hr hb hn, fun e hf => ⟨keyRead_held ha hr hb hn hf, keyRemove_held ha hr hb hn hf⟩⟩,
    fun p hp hw he hd => winDrainComplete_last ha hp hw he hd⟩

end Sys2Proof.Machine

/-! ## Queue pair commands (R329, R330, R350) -/

namespace Sys2Proof.Machine

/-- Memory and every queue pair but `n` are as before. -/
def QpFrame (s u : State) (n : Nat) : Prop := MemSame s u ∧ ∀ m, m ≠ n → u.qp m = s.qp m

section QueuePairs

variable {s u : State} {n : Nat}

theorem bits_copyBits_self (e v lo n : Nat) : bits (copyBits e v lo n) lo n = bits v lo n := by
  rw [copyBits, bits_putBits_self, bits, Nat.mod_mod]

theorem bits_copyBits_apart (e v : Nat) {lo n lo' n' : Nat} (h : lo + n ≤ lo' ∨ lo' + n' ≤ lo) : bits (copyBits e v lo n) lo' n' = bits e lo' n' := by
  rcases h with h | h
  · exact bits_putBits_above _ _ h
  · exact bits_putBits_below _ _ h

/-- A field within the bits copied. -/
theorem bits_copyBits_within (e v : Nat) {lo n lo' n' : Nat} (hlo : lo ≤ lo') (hhi : lo' + n' ≤ lo + n) :
    bits (copyBits e v lo n) lo' n' = bits v lo' n' := by
  have sub (w : Nat) : bits w lo' n' = bits (bits w lo n) (lo' - lo) n' := by
    apply Nat.eq_of_testBit_eq
    intro i
    simp only [bits, Nat.testBit_mod_two_pow, Nat.testBit_shiftRight]
    by_cases hi : i < n'
    · rw [decide_eq_true (p := lo' - lo + i < n) (by omega), Bool.true_and, show lo + (lo' - lo + i) = lo' + i by omega]
    · rw [decide_eq_false hi, Bool.false_and, Bool.false_and]
  rw [sub, bits_copyBits_self, ← sub]

/-- The entry of a queue pair after it takes image `v`, read through the width of the entry. -/
theorem bits_entry (v : Nat) {lo n : Nat} (h : lo + n ≤ 512) : bits (BitVec.ofNat 512 v).toNat lo n = bits v lo n := by
  rw [BitVec.toNat_ofNat]
  exact bits_mod v h

theorem bits_takeInit (v lo n : Nat) (h : (8 ≤ lo ∧ lo + n ≤ 16) ∨ (16 ≤ lo ∧ lo + n ≤ 32) ∨ (160 ≤ lo ∧ lo + n ≤ 192) ∨
    (192 ≤ lo ∧ lo + n ≤ 224) ∨ (256 ≤ lo ∧ lo + n ≤ 288)) : bits (BitVec.ofNat 512 (takeInit v)).toNat lo n = bits v lo n := by
  rw [bits_entry _ (by omega), takeInit]
  rcases h with h | h | h | h | h
  · rw [bits_copyBits_apart _ _ (by omega), bits_copyBits_apart _ _ (by omega), bits_copyBits_apart _ _ (by omega), bits_copyBits_apart _ _ (by omega),
      bits_copyBits_within _ _ (by omega) (by omega)]
  · rw [bits_copyBits_apart _ _ (by omega), bits_copyBits_apart _ _ (by omega), bits_copyBits_apart _ _ (by omega), bits_copyBits_within _ _ (by omega) (by omega)]
  · rw [bits_copyBits_apart _ _ (by omega), bits_copyBits_apart _ _ (by omega), bits_copyBits_within _ _ (by omega) (by omega)]
  · rw [bits_copyBits_apart _ _ (by omega), bits_copyBits_within _ _ (by omega) (by omega)]
  · rw [bits_copyBits_within _ _ (by omega) (by omega)]

theorem bit_takeInit_enc (v : Nat) : qpEnc (BitVec.ofNat 512 (takeInit v)).toNat = qpEnc v := by
  have h := bits_takeInit v 24 1 (by omega)
  rw [qpEnc, qpEnc, bit_eq_bits, bit_eq_bits, h]

theorem qpEntry_reset : ∀ v : Variant, ∀ i < 16, regReset v ((F.QP_ENTRY 0).off + 4 * i) = 0 := by decide

theorem qpImage_mod (s : State) : qpImage s % 2 ^ 512 = qpImage s :=
  Nat.mod_eq_of_lt (State.getWords_lt (qpEntry_reset s.variant) rfl)

/-! ### What a command leaves -/

theorem cmdDone_qpFrame (s : State) (n r : Nat) : QpFrame s (cmdDone s .qp none r) n := ⟨(cmdDone_only s .qp r).mem, fun _ _ => rfl⟩

theorem qp_answered (s : State) {r : Nat} (hr : r < 16) : Answered s (cmdDone s .qp none r) F.QP_EVENT_SEQ F.QP_EVENT_RESULT r :=
  cmdDone_answered s .qp hr

/-- A command that writes the queue pair's state. -/
theorem setQp_done (s : State) (n : Nat) (q : Qp) :
    QpFrame s (cmdDone (s.setQp n q) .qp none 0) n ∧ Answered s (cmdDone (s.setQp n q) .qp none 0) F.QP_EVENT_SEQ F.QP_EVENT_RESULT 0 ∧
      (cmdDone (s.setQp n q) .qp none 0).qp n = q :=
  ⟨⟨(cmdDone_only (s.setQp n q) .qp 0).mem, fun _ hm => s.qp_setQp_ne q hm⟩, qp_answered (s.setQp n q) (by decide), s.qp_setQp_self n q⟩

theorem ccStart_epsn (s : State) (q : Qp) : (ccStart s q).epsn = q.epsn := rfl

theorem flushQp_idle (h : (s.qp n).ops = []) (st : Nat) :
    flushQp s n st = s.setQp n { s.qp n with st := st, ops := [], resp := [], resend := [], timer := none, tries := [], heldPsn := [] } := by
  unfold flushQp
  simp only [h, List.map_nil, show tellOps [] false = ([], []) by rfl, List.append_nil]

theorem resetQp_regs (s : State) (n : Nat) : (resetQp s n).regs = s.regs := rfl

theorem resetQp_variant (s : State) (n : Nat) : (resetQp s n).variant = s.variant := rfl

/-- A reset of a queue pair without operations ends none, and leaves it its entry and TXC. -/
theorem resetQp_idle (h : (s.qp n).ops = []) :
    QpFrame s (resetQp s n) n ∧ (resetQp s n).en = s.en ∧ (resetQp s n).qp n = { e := (s.qp n).e, txc := (s.qp n).txc } := by
  rw [resetQp, flushQp_idle h]
  refine ⟨⟨fun _ => rfl, fun m hm => (State.qp_setQp_ne _ _ hm).trans (s.qp_setQp_ne _ hm)⟩, rfl, (State.qp_setQp_self _ _ _).trans ?_⟩
  have hqp : (discardHeld (s.setQp n { s.qp n with st := 0, ops := [], resp := [], resend := [], timer := none, tries := [], heldPsn := [] }) n).qp n =
      _ := s.qp_setQp_self n _
  rw [hqp]

theorem qpEndWait_idle (h : s.en.ended = []) (op : Nat) : qpEndWait s none n op = reclaim (cmdDone s .qp none 0) := by
  rw [qpEndWait, if_pos (by rw [qpRecorded, h]; rfl)]

theorem QpFrame.reclaim (h : QpFrame s u n) : QpFrame s (reclaim u) n := by
  have htr : (Machine.reclaim u).tr = u.tr := by rw [(reclaim_frame u).rest]
  exact ⟨h.1.trans (reclaim_frame u).byte, fun m hm => by rw [State.qp, htr]; exact h.2 m hm⟩

theorem reclaim_qp (u : State) (n : Nat) : (reclaim u).qp n = u.qp n := by
  rw [State.qp, State.qp, (reclaim_frame u).rest]

/-! ### The commands -/

section

variable (ha : s.pst = 3) (hr : s.fnHeld 0 = false) (hb : blkBusy s .qp = false) (hn : n < 2 ^ 18)

include hb hn in
theorem onQp_idle (f : Qp → State) : onQp s none n f = f (s.qp n) := by
  simp only [onQp, hb, Nat.not_le.mpr hn, outsideOwn, if_false, Bool.false_eq_true]

include ha hr hb hn

theorem qpInit_runs (hst : (s.qp n).st = 0) (hq : s.mayCreate (qpCtx (qpImage s)) 1 n = true) (hf : qpFieldsOk (qpImage s) = true)
    (hk : qpKeyOk s (qpImage s) = true) :
    Runs (.qpInit n) s fun u => QpFrame s u n ∧ Answered s u F.QP_EVENT_SEQ F.QP_EVENT_RESULT 0 ∧
      u.qp n = { e := BitVec.ofNat 512 (takeInit (qpImage s)), st := 1, txc := (s.qp n).txc } := by
  refine ⟨_, rfl, ?_⟩
  have h : qpInitCore s none n (qpImage s) =
      cmdDone (s.setQp n { e := BitVec.ofNat 512 (takeInit (qpImage s)), st := 1, txc := (s.qp n).txc }) .qp none 0 := by
    rw [qpInitCore, onQp_idle hb hn, ownImage, qpImage_mod]
    simp only [hq, hst, hf, hk, Bool.not_true, Bool.false_eq_true, if_false, ne_eq, not_true_eq_false, Bool.or_self]
  rw [regCmd, fnCmd_active hr ha, h]
  exact setQp_done _ _ _

theorem qpRtr_runs (hst : (s.qp n).st = 1) (hf : qpFieldsOk (qpImage s) = true) :
    let e := takeRtr (s.qp n).e.toNat (qpImage s)
    Runs (.qpRtr n) s fun u => QpFrame s u n ∧ Answered s u F.QP_EVENT_SEQ F.QP_EVENT_RESULT 0 ∧
      u.qp n = { s.qp n with e := BitVec.ofNat 512 e, st := 2, epsn := qpRqPsn e, done := [], refusals := [], msgs := [], atomics := [] } := by
  intro e
  refine ⟨_, rfl, ?_⟩
  have h : qpRtrCore s none n (qpImage s) = cmdDone (s.setQp n { s.qp n with
      e := BitVec.ofNat 512 e, st := 2, epsn := qpRqPsn e, done := [], refusals := [], msgs := [], atomics := [] }) .qp none 0 := by
    rw [qpRtrCore, onQp_idle hb hn]
    simp only [hst, hf, Bool.not_true, Bool.false_eq_true, if_false, ne_eq, not_true_eq_false]
    rfl
  rw [regCmd, fnCmd_active hr ha, h]
  exact setQp_done _ _ _

theorem qpRts_runs (hst : (s.qp n).st = 2) (hf : qpFieldsOk (qpImage s) = true) (h1 : 1 ≤ qpNpath (qpImage s)) (h8 : qpNpath (qpImage s) ≤ 8) :
    let e := takeRts (s.qp n).e.toNat (qpImage s)
    Runs (.qpRts n) s fun u => QpFrame s u n ∧ Answered s u F.QP_EVENT_SEQ F.QP_EVENT_RESULT 0 ∧
      u.qp n = ccStart s { s.qp n with e := BitVec.ofNat 512 e, st := 3, nextPsn := qpSqPsn e } := by
  intro e
  refine ⟨_, rfl, ?_⟩
  have h : qpRtsCore s none n (qpImage s) = cmdDone (s.setQp n (ccStart s { s.qp n with
      e := BitVec.ofNat 512 e, st := 3, nextPsn := qpSqPsn e })) .qp none 0 := by
    have hp : ¬ (qpNpath (qpImage s) = 0) := by omega
    rw [qpRtsCore, onQp_idle hb hn]
    simp only [hst, hf, hp, Nat.not_lt.mpr h8, Bool.not_true, Bool.false_eq_true, if_false, ne_eq, not_true_eq_false, decide_false, Bool.or_self]
    rfl
  rw [regCmd, fnCmd_active hr ha, h]
  exact setQp_done _ _ _

/-- A command that the state does not allow. -/
theorem qpCmd_refused (c : Instr)
    (hc : (c = .qpRtr n ∧ (s.qp n).st ≠ 1) ∨ (c = .qpRts n ∧ (s.qp n).st ≠ 2) ∨ (c = .qpReset n ∧ (s.qp n).st = 0) ∨
      (c = .qpError n ∧ (s.qp n).st ≠ 2 ∧ (s.qp n).st ≠ 3) ∨ (c = .qpInit n ∧ (s.qp n).st ≠ 0 ∧ s.mayCreate (qpCtx (qpImage s)) 1 n = true)) :
    Runs c s fun u => QpFrame s u n ∧ Answered s u F.QP_EVENT_SEQ F.QP_EVENT_RESULT 2 ∧ u.tr = s.tr := by
  have done : QpFrame s (cmdDone s .qp none 2) n ∧ Answered s (cmdDone s .qp none 2) F.QP_EVENT_SEQ F.QP_EVENT_RESULT 2 ∧ (cmdDone s .qp none 2).tr = s.tr :=
    ⟨cmdDone_qpFrame _ _ _, qp_answered _ (by decide), rfl⟩
  rcases hc with ⟨rfl, h⟩ | ⟨rfl, h⟩ | ⟨rfl, h⟩ | ⟨rfl, h2, h3⟩ | ⟨rfl, h, hq⟩ <;> refine ⟨_, rfl, ?_⟩ <;> rw [regCmd, fnCmd_active hr ha]
  · rwa [qpRtrCore, onQp_idle hb hn, if_pos h]
  · rwa [qpRtsCore, onQp_idle hb hn, if_pos h]
  · rwa [qpResetCore, onQp_idle hb hn, if_pos h]
  · rwa [qpErrorCore, onQp_idle hb hn, if_neg (by simp [h2, h3])]
  · rw [qpInitCore, onQp_idle hb hn, ownImage, qpImage_mod]
    simp only [hq, Bool.not_true, Bool.false_eq_true, if_false, if_pos h]
    exact done

theorem qpError_idle (hops : (s.qp n).ops = []) (hended : s.en.ended = []) (hst : (s.qp n).st = 2 ∨ (s.qp n).st = 3) :
    Runs (.qpError n) s fun u => QpFrame s u n ∧ Answered s u F.QP_EVENT_SEQ F.QP_EVENT_RESULT 0 ∧ (u.qp n).st = 4 ∧ (u.qp n).e = (s.qp n).e ∧
      (u.qp n).epsn = (s.qp n).epsn := by
  refine ⟨_, rfl, ?_⟩
  rw [regCmd, fnCmd_active hr ha, qpErrorCore, onQp_idle hb hn, if_pos (by simpa using hst), flushQp_idle hops,
    qpEndWait_idle (s := s.setQp n _) hended]
  obtain ⟨hframe, hev, hqp⟩ := setQp_done s n { s.qp n with st := 4, ops := [], resp := [], resend := [], timer := none, tries := [], heldPsn := [] }
  refine ⟨hframe.reclaim, hev.reclaim (by decide) (by decide), ?_⟩
  rw [reclaim_qp, hqp]
  exact ⟨rfl, rfl, rfl⟩

theorem qpReset_idle (hops : (s.qp n).ops = []) (hended : s.en.ended = []) (hst : (s.qp n).st ≠ 0) :
    Runs (.qpReset n) s fun u => QpFrame s u n ∧ Answered s u F.QP_EVENT_SEQ F.QP_EVENT_RESULT 0 ∧ u.qp n = { e := (s.qp n).e, txc := (s.qp n).txc } := by
  refine ⟨_, rfl, ?_⟩
  obtain ⟨hframe, hen, hqp⟩ := resetQp_idle hops
  rw [regCmd, fnCmd_active hr ha, qpResetCore, onQp_idle hb hn, if_neg hst, qpEndWait_idle (by rw [hen, hended])]
  have hev : Answered s (cmdDone (resetQp s n) .qp none 0) F.QP_EVENT_SEQ F.QP_EVENT_RESULT 0 :=
    (qp_answered _ (by decide)).of_seq (by rw [State.get, State.get, State.reg, State.reg, resetQp_regs, resetQp_variant])
  exact ⟨QpFrame.reclaim ⟨hframe.1.trans (cmdDone_only _ .qp 0).mem, hframe.2⟩, hev.reclaim (by decide) (by decide), (reclaim_qp _ _).trans hqp⟩

theorem qpRead_runs :
    Runs (.qpRead n) s fun u => QpFrame s u n ∧ Answered s u F.QP_EVENT_SEQ F.QP_EVENT_RESULT 0 ∧ u.tr = s.tr ∧
      u.getWords (F.QP_ENTRY 0).off 16 = putBits (s.qp n).e.toNat 0 8 (s.qp n).st % 2 ^ 512 := by
  refine ⟨_, rfl, ?_⟩
  rw [regCmd, fnCmd_active hr ha, qpReadCore, onQp_idle hb hn]
  have hout : (blkSeq .qp).off < (F.QP_ENTRY 0).off := by decide
  have htr := readOut_tr s .qp (F.QP_ENTRY 0).off 16 (putBits (s.qp n).e.toNat 0 8 (s.qp n).st)
  exact ⟨⟨readOut_memSame _ _ _ _ _, fun m _ => by rw [State.qp, htr]; rfl⟩, readOut_answered (Or.inl hout), htr, readOut_mod rfl (Or.inl hout)⟩

omit hr hb hn in
theorem qpStateFetched_runs (hst : (s.qp n).st ≠ 0) (hc : (s.qp n).cached = false) :
    Runs (.qpStateFetched n) s fun u => QpFrame s u n ∧ u.qp n = { s.qp n with cached := true } ∧
      u.tr.waitState = s.tr.waitState.filter (fun w => w.2.dqp != n) ∧
      u.tr.arrivals = s.tr.waitState.filter (fun w => w.2.dqp == n) ++ s.tr.arrivals ∧ RegsBut s u [] ∧ CntBut s u [] := by
  refine ⟨_, rfl, ?_⟩
  rw [inActive, if_pos ha, if_neg (by simp [hst, hc])]
  exact ⟨⟨fun _ => rfl, fun m hm => s.qp_setQp_ne _ hm⟩, s.qp_setQp_self n _, rfl, rfl, fun _ _ => rfl, fun _ _ => rfl⟩

end

end QueuePairs

/-- A command's outcome gives a weaker one. -/
theorem Runs.imp {c : Instr} {s : State} {P Q : State → Prop} (h : Runs c s P) (hi : ∀ u, P u → Q u) : Runs c s Q := by
  obtain ⟨u, hu, hp⟩ := h
  exact ⟨u, hu, hi u hp⟩

/-- Settles O42: each command gives the queue pair's new state, whose fields are then read. -/
theorem queuePairCommands : Obligations.QueuePairCommands := by
  intro s n ha hr hn q v ev frame
  refine ⟨fun hb => ⟨fun hst hq hf hk => ?_, fun hst hf => ?_, fun hst hf h1 h8 => ?_, qpCmd_refused ha hr hb hn,
    fun hops hended => ⟨qpError_idle ha hr hb hn hops hended, qpReset_idle ha hr hb hn hops hended⟩, qpRead_runs ha hr hb hn⟩,
    qpStateFetched_runs ha⟩
  · refine (qpInit_runs ha hr hb hn hst hq hf hk).imp fun u ⟨hframe, hev, hu⟩ => ?_
    rw [hu]
    exact ⟨hframe, hev, rfl, rfl, bits_takeInit _ _ _ (by omega), bits_takeInit _ _ _ (by omega), bits_takeInit _ _ _ (by omega), bit_takeInit_enc _,
      bits_takeInit _ _ _ (by omega), bits_takeInit _ _ _ (by omega), bits_takeInit _ _ _ (by omega)⟩
  · refine (qpRtr_runs ha hr hb hn hst hf).imp fun u ⟨hframe, hev, hu⟩ => ?_
    rw [hu]
    refine ⟨hframe, hev, rfl, ?_, rfl, ?_, ?_, ?_⟩
    · show qpRqPsn (takeRtr _ _) = _
      rw [qpRqPsn, takeRtr, bits_copyBits_self]
      rfl
    · rw [qpRemoteEp, bits_entry _ (by decide), takeRtr, bits_copyBits_apart _ _ (by omega), bits_copyBits_apart _ _ (by omega), bits_copyBits_self]
      rfl
    · rw [qpRemoteQp, bits_entry _ (by decide), takeRtr, bits_copyBits_apart _ _ (by omega), bits_copyBits_self]
      rfl
    · rw [qpCtx, bits_entry _ (by decide), takeRtr, bits_copyBits_apart _ _ (by omega), bits_copyBits_apart _ _ (by omega), bits_copyBits_apart _ _ (by omega)]
      rfl
  · refine (qpRts_runs ha hr hb hn hst hf h1 h8).imp fun u ⟨hframe, hev, hu⟩ => ?_
    rw [hu]
    refine ⟨hframe, hev, rfl, ?_, ccStart_epsn _ _, ?_, ?_⟩
    · show qpSqPsn (takeRts _ _) = _
      rw [qpSqPsn, takeRts, bits_copyBits_apart _ _ (by omega), bits_copyBits_self]
      rfl
    · show qpNpath (BitVec.ofNat 512 (takeRts _ _)).toNat = _
      rw [qpNpath, bits_entry _ (by decide), takeRts, bits_copyBits_self]
      rfl
    · show qpRemoteEp (BitVec.ofNat 512 (takeRts _ _)).toNat = _
      rw [qpRemoteEp, bits_entry _ (by decide), takeRts, bits_copyBits_apart _ _ (by omega), bits_copyBits_apart _ _ (by omega)]
      rfl

end Sys2Proof.Machine

/-! ## Transport: packets that arrive, operations that end (R335, R345, R346) -/

namespace Sys2Proof.Machine

section Psn

theorem psnSub_psnAdd {a k : Nat} (hk : k < 2 ^ 24) : psnSub (psnAdd a k) a = k := by
  unfold psnSub psnAdd
  omega

theorem psnSub_self (a : Nat) : psnSub a a = 0 := by
  unfold psnSub
  omega

end Psn

section Arrivals

variable {s : State} {i : Ingress} {p : Packet}

/-- What a packet that passes steps 1 to 3 leaves: it is taken, and counted where it takes a PSN. -/
def taken (s : State) (i : Ingress) (p : Packet) : State :=
  if p.type ≤ 6 then (takeArrival s i p).count F.TRN_RX_PKTS else takeArrival s i p

theorem rxHead_arrives (h : Arrives s i p) : rxHead (takeArrival s i p) i p = (taken s i p, true) := by
  obtain ⟨hcached, ⟨htype, hrsvHdr, hrsvRoute, hhdr⟩, hpair, hyoung, -⟩ := h
  have hc : ((takeArrival s i p).qp p.dqp).cached = true := hcached
  have hp (t : State) (ht : t = taken s i p) : qpAccepts t i p = true := by
    rw [ht, taken]
    split <;> exact hpair
  have hy (t : State) (ht : t = taken s i p) : agedOut t p = false := by
    rw [ht, taken]
    split <;> exact hyoung
  simp only [rxHead, hc, Bool.not_true, Bool.and_false, Bool.false_eq_true, if_false]
  rw [← taken]
  simp only [hrsvHdr, hrsvRoute, hhdr, hp _ rfl, hy _ rfl, Bool.not_true, Bool.or_false, Bool.false_eq_true, if_false,
    show ¬ 9 ≤ p.type by omega, decide_false]

theorem taken_qp (n : Nat) : (taken s i p).qp n = s.qp n := by
  unfold taken
  split <;> rfl

/-- A packet taken leaves everything but the arrivals and the counters. -/
theorem taken_eq : taken s i p = { s with tr := { s.tr with arrivals := s.tr.arrivals.erase (i, p) }, cnt := (taken s i p).cnt } := by
  unfold taken
  split <;> rfl

end Arrivals

section Operations

variable {s : State} {n : Nat} {q : Qp} {o : Op} {c : Nat}

theorem settleQp_eq (s : State) (n : Nat) (q : Qp) : settleQp s n q = { s with tr := (settleQp s n q).tr, en := (settleQp s n q).en } := by
  unfold settleQp
  rcases tellOps q.ops false with ⟨ops, ends⟩
  rfl

theorem tellOps_one (hc : o.code = some c) (ht : o.told = false) : tellOps [o] false = ([{ o with told := true }], [⟨o.d, c⟩]) := by
  simp [tellOps, hc, ht]

/-- The one operation of a queue pair has ended: it is handed over. -/
theorem settleQp_ended (hops : q.ops = [o]) (hc : o.code = some c) (ht : o.told = false) :
    (settleQp s n q).en.ended = s.en.ended ++ [⟨o.d, c⟩] ∧ ((settleQp s n q).qp n).epsn = q.epsn := by
  have htell := tellOps_one hc ht
  simp only [settleQp, hops, htell]
  constructor
  · rfl
  · rw [State.qp]
    exact (congrArg Qp.epsn (State.qp_setQp_self s n _)).trans (by split <;> rfl)

/-- Acknowledged whole, it leaves the queue pair, and its timer stops. -/
theorem settleQp_acked (hops : q.ops = [o]) (hc : o.code = some c) (ht : o.told = false) (hall : o.allAcked = true) (hs : o.abort = none) :
    ((settleQp s n q).qp n).ops = [] ∧ ((settleQp s n q).qp n).timer = none := by
  have htell := tellOps_one hc ht
  have hall' : ({ o with told := true } : Op).allAcked = true := hall
  have hleave : ({ o with told := true } : Op).toSend = o.sent := by simp [Op.toSend, hs, hc]
  have hqp := State.qp_setQp_self s n { q with ops := [], timer := none, resend := [] }
  simp only [settleQp, hops, htell, List.filter_cons, hall', hleave, beq_self_eq_true, Bool.and_self, Bool.not_true, Bool.false_eq_true, if_false,
    List.filter_nil, anyWaits, List.any_nil]
  exact ⟨congrArg Qp.ops hqp, congrArg Qp.timer hqp⟩

theorem settleQp_memSame (s : State) (n : Nat) (q : Qp) : MemSame s (settleQp s n q) := by
  rw [settleQp_eq]
  exact fun _ => rfl

theorem settleQp_regs (s : State) (n : Nat) (q : Qp) : RegsBut s (settleQp s n q) [] := by
  rw [settleQp_eq]
  exact fun _ _ => rfl

theorem Op.fail_going (hc : o.code = none) (hk : dKind o.d.w ≠ 10) (c : Nat) : o.fail c = { o with code := some c, abort := none } := by
  simp [Op.fail, hc, hk]

end Operations

/-! ## Acknowledgements, notices and retries at the initiator (R345, R347, R361) -/

/-- The one operation of queue pair `n`: a WRITE whose every packet has been sent, none of them acknowledged. -/
structure Unacked (q : Qp) (o : Op) : Prop where
  only : q.ops = [o]
  going : o.code = none
  write : dKind o.d.w = 8
  whole : o.sent = opPkts o.d.w
  some_ : 0 < o.sent
  few : o.sent ≤ 4096
  acked : o.acked = []
  refused : o.refused = none
  abort : o.abort = none
  told : o.told = false
  first : o.first < 2 ^ 24

section Initiator

variable {s : State} {i : Ingress} {p : Packet} {o : Op} {q : Qp}

theorem Unacked.index (h : Unacked q o) {k : Nat} (hk : k < o.sent) : o.index (psnAdd o.first k) = some k := by
  have := h.few
  simp only [Op.index, psnSub_psnAdd (show k < 2 ^ 24 by omega), if_pos hk]

/-- The operation under an ACK that shows every packet as done. -/
theorem Unacked.acks (h : Unacked q o) (hall : ∀ k, k < o.sent → ackShows p (psnAdd o.first k) = true) {r : Option (Nat × Nat)}
    (hr : (p.refusals.filterMap fun r => (o.index r.1).map fun k => (k, r.2)).foldl
      (fun m r => match m with | some x => if r.1 < x.1 then some r else some x | none => some r) none = r) :
    o.acks p = Op.judge { o with acked := List.range o.sent, refused := r } := by
  have hnew : ((List.range o.sent).filter fun k => !o.acked.contains k && ackShows p (psnAdd o.first k)) = List.range o.sent :=
    List.filter_eq_self.2 fun k hk => by rw [h.acked, hall k (List.mem_range.1 hk)]; rfl
  simp only [Op.acks, hnew, h.refused, ← hr]
  rw [h.acked, List.nil_append] <;> rfl

theorem Unacked.acks_success (h : Unacked q o) (hall : ∀ k, k < o.sent → ackShows p (psnAdd o.first k) = true) (hr : p.refusals = []) :
    o.acks p = { o with acked := List.range o.sent, refused := none, code := some 0 } := by
  rw [h.acks hall (r := none) (by rw [hr]; rfl)]
  simp [Op.judge, Op.allAcked, Op.isResp, h.going, ← h.whole, h.write]

theorem Op.judge_refused {k c : Nat} (hr : o.refused = some (k, c)) : o.judge = o.fail c := by
  rw [Op.judge, hr]

theorem Unacked.acks_refused (h : Unacked q o) (hall : ∀ k, k < o.sent → ackShows p (psnAdd o.first k) = true) {k c : Nat} (hk : k < o.sent)
    (hr : p.refusals = [(psnAdd o.first k, c)]) :
    o.acks p = { o with acked := List.range o.sent, refused := some (k, c), code := some c, abort := none } := by
  have hone : (p.refusals.filterMap fun r => (o.index r.1).map fun k => (k, r.2)) = [(k, c)] := by
    rw [hr, List.filterMap_cons_some (b := (k, c)), List.filterMap_nil]
    exact congrArg (Option.map fun k => (k, c)) (h.index hk)
  have hw : dKind ({ o with acked := List.range o.sent, refused := some (k, c) } : Op).d.w ≠ 10 := by rw [h.write]; decide
  rw [h.acks hall (r := some (k, c)) (by rw [hone]; rfl)]
  exact (Op.judge_refused rfl).trans (Op.fail_going (o := { o with acked := List.range o.sent, refused := some (k, c) }) h.going hw c)

theorem noteHeld_ops (q : Qp) (p : Packet) : (noteHeld q p).ops = q.ops := by
  unfold noteHeld
  (repeat' split) <;> rfl

theorem noteHeld_epsn (q : Qp) (p : Packet) : (noteHeld q p).epsn = q.epsn := by
  unfold noteHeld
  (repeat' split) <;> rfl

/-- What an ACK makes of the queue pair before its ended operations are handed over. -/
def ackedQp (t : State) (q : Qp) (p : Packet) : Qp :=
  { noteHeld q p with
    ops := (noteHeld q p).ops.map fun o => o.acks p, tries := smDrop (fun k => !(!ackShows p k)) (noteHeld q p).tries,
    heldPsn := (noteHeld q p).heldPsn.filter fun k => !ackShows p k,
    timer := if (noteHeld q p).ops.any fun o => o.news p then (noteHeld q p).timer.map fun _ => retryAt t else (noteHeld q p).timer }

theorem rxAck_arrives (h : Arrives s i p) (ht : p.type = 7) (he : p.echo = 0) :
    rxAck s i p = settleQp (taken s i p) p.dqp (ackedQp (taken s i p) (s.qp p.dqp) p) := by
  simp only [rxAck, ht, rxHead_arrives h, he, ne_eq, not_true_eq_false, if_false, Nat.lt_irrefl, taken_qp]
  rfl

/-- An ACK that ends the operation with code `c`. -/
theorem ackRx_ends {c : Nat} {o' : Op} (ha : s.pst = 3) (h : Arrives s i p) (ht : p.type = 7) (he : p.echo = 0) (hops : (s.qp p.dqp).ops = [o])
    (hacks : o.acks p = o') (hd : o'.d = o.d) (hc : o'.code = some c) (htold : o'.told = false) (hall : o'.allAcked = true) (hab : o'.abort = none) :
    Runs (.ackRx i p) s fun u => u.en.ended = s.en.ended ++ [⟨o.d, c⟩] ∧ (u.qp p.dqp).ops = [] ∧ (u.qp p.dqp).timer = none ∧
      (u.qp p.dqp).epsn = (s.qp p.dqp).epsn ∧ MemSame s u ∧ RegsBut s u [] := by
  refine ⟨_, rfl, ?_⟩
  rw [inActive, if_pos ha, rxAck_arrives h ht he]
  have hone : (ackedQp (taken s i p) (s.qp p.dqp) p).ops = [o'] := by rw [ackedQp, noteHeld_ops, hops, ← hacks]; rfl
  obtain ⟨hended, hepsn⟩ := settleQp_ended (s := taken s i p) (n := p.dqp) hone hc htold
  obtain ⟨hleft, htimer⟩ := settleQp_acked (s := taken s i p) (n := p.dqp) hone hc htold hall hab
  refine ⟨?_, hleft, htimer, hepsn.trans (noteHeld_epsn _ _), ?_, ?_⟩
  · rw [hended, hd, taken_eq]
  · exact MemSame.trans (by rw [taken_eq]; exact fun _ => rfl) (settleQp_memSame _ _ _)
  · exact RegsBut.trans (by rw [taken_eq]; exact fun _ _ => rfl) (settleQp_regs _ _ _)

theorem ackRx_success (ha : s.pst = 3) (hu : Unacked (s.qp p.dqp) o) (h : Arrives s i p) (ht : p.type = 7) (he : p.echo = 0)
    (hall : ∀ k, k < o.sent → ackShows p (psnAdd o.first k) = true) (hr : p.refusals = []) :
    Runs (.ackRx i p) s fun u => u.en.ended = s.en.ended ++ [⟨o.d, 0⟩] ∧ (u.qp p.dqp).ops = [] ∧ (u.qp p.dqp).timer = none ∧
      (u.qp p.dqp).epsn = (s.qp p.dqp).epsn ∧ MemSame s u ∧ RegsBut s u [] :=
  ackRx_ends ha h ht he hu.only (hu.acks_success hall hr) rfl rfl hu.told (by simp [Op.allAcked]) hu.abort

theorem ackRx_refused {k c : Nat} (ha : s.pst = 3) (hu : Unacked (s.qp p.dqp) o) (h : Arrives s i p) (ht : p.type = 7) (he : p.echo = 0)
    (hall : ∀ k, k < o.sent → ackShows p (psnAdd o.first k) = true) (hk : k < o.sent) (hr : p.refusals = [(psnAdd o.first k, c)]) :
    Runs (.ackRx i p) s fun u => u.en.ended = s.en.ended ++ [⟨o.d, c⟩] ∧ (u.qp p.dqp).ops = [] ∧ (u.qp p.dqp).timer = none ∧ MemSame s u := by
  obtain ⟨u, hx, hended, hops, htimer, -, hmem, -⟩ :=
    ackRx_ends ha h ht he hu.only (hu.acks_refused hall hk hr) rfl rfl hu.told (by simp [Op.allAcked]) rfl
  exact ⟨u, hx, hended, hops, htimer, hmem⟩

theorem find_only {q : Qp} {o : Op} (hit : Op → Bool) (hops : q.ops = [o]) (h : hit o = true) :
    (List.range q.ops.length).find? (fun k => (q.ops[k]?).any hit) = some 0 := by
  rw [hops]
  simp [h]

theorem any_only {q : Qp} {o : Op} (hit : Op → Bool) (hops : q.ops = [o]) (h : hit o = true) : (q.ops[0]?).any hit = true := by
  rw [hops]
  exact h

/-- A notice of an unacknowledged packet of the one operation fails it. -/
theorem rxNotice_hit {k : Nat} (hu : Unacked (s.qp p.dqp) o) (ht : p.type = 8) (hh : hdrOk p = true) (hrh : p.rsvHdr = false)
    (hrr : p.rsvRoute = false) (hy : agedOut s p = false) (hst : (s.qp p.dqp).st = 2 ∨ (s.qp p.dqp).st = 3)
    (hep : p.ssn % 2 ^ 20 = qpRemoteEp (s.qp p.dqp).e.toNat) (hidx : o.index p.psn = some k) :
    rxNotice s i p = failOp ((takeArrival s i p).count F.TRN_PATH_INVALID) p.dqp 0 0x51 := by
  have hst' : ((s.qp p.dqp).st == 2 || (s.qp p.dqp).st == 3) = true := by simpa using hst
  rw [rxNotice, if_neg (by rw [ht]; decide)]
  extract_lets s' q hit
  have hhit : hit o = true := by
    simp only [hit]
    rw [hidx]
    exact congrArg (fun l : List Nat => !l.contains k) hu.acked
  have hfor : ¬ ((!(q.st == 2 || q.st == 3) || decide (p.ssn % 2 ^ 20 ≠ qpRemoteEp q.e.toNat)) = true) := by
    rw [Bool.or_eq_true, decide_eq_true_eq, show q = s.qp p.dqp from rfl, hst']
    rintro (h | h)
    · cases h
    · exact h hep
  have hbad : ¬ ((p.rsvHdr || p.rsvRoute || !hdrOk p) = true) := by rw [hrh, hrr, hh]; decide
  rw [if_neg hbad, if_neg (by rw [show agedOut s' p = false from hy]; decide), if_neg hfor]

  have hone : q.ops = [o] := hu.only
  rw [find_only hit hone hhit]
  exact congrArg (fun t => failOp t p.dqp 0 0x51) (if_pos (any_only _ hone (by rw [hu.going]; rfl)))

theorem pathNoticeRx_ends {k : Nat} (ha : s.pst = 3) (hu : Unacked (s.qp p.dqp) o) (hk : k < o.sent) (ht : p.type = 8) (hh : hdrOk p = true)
    (hrh : p.rsvHdr = false) (hrr : p.rsvRoute = false) (hy : agedOut s p = false) (hst : (s.qp p.dqp).st = 2 ∨ (s.qp p.dqp).st = 3)
    (hep : p.ssn % 2 ^ 20 = qpRemoteEp (s.qp p.dqp).e.toNat) (hpsn : p.psn = psnAdd o.first k) :
    Runs (.pathNoticeRx i p) s fun u => u.en.ended = s.en.ended ++ [⟨o.d, 0x51⟩] ∧ Counted s u F.TRN_PATH_INVALID ∧ MemSame s u ∧ RegsBut s u [] := by
  refine ⟨_, rfl, ?_⟩
  have hidx : o.index p.psn = some k := by rw [hpsn]; exact hu.index hk
  rw [inActive, if_pos ha, rxNotice_hit hu ht hh hrh hrr hy hst hep hidx, failOp]
  have hops : (((s.qp p.dqp).ops.modify 0 fun o => o.fail 0x51)) = [{ o with code := some 0x51, abort := none }] := by
    rw [hu.only, ← Op.fail_going hu.going (by rw [hu.write]; decide)]
    rfl
  obtain ⟨hended, -⟩ := settleQp_ended (s := (takeArrival s i p).count F.TRN_PATH_INVALID) (n := p.dqp)
    (q := { s.qp p.dqp with ops := (s.qp p.dqp).ops.modify 0 fun o => o.fail 0x51 }) hops rfl hu.told
  refine ⟨hended, ?_, settleQp_memSame _ _ _, settleQp_regs _ _ _⟩
  rw [Counted, State.live, settleQp_eq]
  exact State.live_count_self (s := takeArrival s i p) F.TRN_PATH_INVALID 1

/-! ### The retransmission timer -/

theorem Unacked.toResend (h : Unacked q o) : toResend q = (List.range o.sent).map (psnAdd o.first) := by
  simp [Machine.toResend, h.only, h.acked]

theorem smGet_foldl_smPut {f : Nat → Nat} (ps : List Nat) (m : SMap Nat) {p : Nat} (hp : p ∈ ps) :
    smGet (ps.foldl (fun m p => smPut 0 m p (f p)) m) p 0 = f p := by
  have keep (ps : List Nat) (m : SMap Nat) (hm : smGet m p 0 = f p) : smGet (ps.foldl (fun m p => smPut 0 m p (f p)) m) p 0 = f p := by
    refine foldl_keeps (P := fun m => smGet m p 0 = f p) (fun m x hm => ?_) ps hm
    by_cases hx : p = x
    · rw [hx, smGet_smPut_self]
    · rw [smGet_smPut_ne _ _ _ hx, hm]
  induction ps generalizing m with
  | nil => cases hp
  | cons x xs ih =>
    rw [List.foldl_cons]
    rcases List.mem_cons.1 hp with rfl | hp
    · exact keep _ _ (smGet_smPut_self _ _ _ _)
    · exact ih _ hp

theorem nextTry_unheld (h : q.heldPsn = []) (psn : Nat) : nextTry q psn = smGet q.tries psn 0 + 1 := by
  rw [nextTry, h]
  rfl

variable {n b : Nat}

theorem retry_again (ha : s.pst = 3) (hu : Unacked (s.qp n) o) (htimer : (s.qp n).timer = some b) (hst : (s.qp n).st = 3) (hb : b ≤ s.tk.count)
    (hheld : (s.qp n).heldPsn = []) (hlow : ∀ k, k < o.sent → smGet (s.qp n).tries (psnAdd o.first k) 0 < 7) :
    Runs (.retryTimerExpiry n) s fun u => (u.qp n).resend = (List.range o.sent).map (psnAdd o.first) ∧ (u.qp n).timer = some (retryAt s) ∧
      (∀ k, k < o.sent → smGet (u.qp n).tries (psnAdd o.first k) 0 = smGet (s.qp n).tries (psnAdd o.first k) 0 + 1) ∧
      (u.qp n).st = 3 ∧ (u.qp n).ops = [o] ∧ u.en.ended = s.en.ended ∧ MemSame s u ∧ RegsBut s u [] := by
  have hmem (k : Nat) (hk : k < o.sent) : psnAdd o.first k ∈ (List.range o.sent).map (psnAdd o.first) := List.mem_map_of_mem (List.mem_range.2 hk)
  have hnone : (toResend (s.qp n)).find? (fun p => 8 ≤ nextTry (s.qp n) p) = none := by
    rw [hu.toResend, List.find?_eq_none]
    intro x hx
    obtain ⟨k, hk, rfl⟩ := List.mem_map.1 hx
    have := hlow k (List.mem_range.1 hk)
    rw [nextTry_unheld hheld, decide_eq_true_eq]
    omega
  refine ⟨_, rfl, ?_⟩
  have hexp : retryExpiry s n = s.setQp n { s.qp n with
      resend := (List.range o.sent).map (psnAdd o.first),
      tries := ((List.range o.sent).map (psnAdd o.first)).foldl (fun m p => smPut 0 m p (nextTry (s.qp n) p)) (s.qp n).tries,
      timer := some (retryAt s) } := by
    simp only [retryExpiry, htimer, hnone]
    rw [if_neg (by simp [hst, hb]), ← hu.toResend]
  have hqp (q : Qp) : (s.setQp n q).qp n = q := s.qp_setQp_self n q
  rw [inActive, if_pos ha, hexp]
  refine ⟨congrArg Qp.resend (hqp _), congrArg Qp.timer (hqp _), fun k hk => ?_, (congrArg Qp.st (hqp _)).trans hst, (congrArg Qp.ops (hqp _)).trans hu.only, rfl,
    fun _ => rfl, fun _ _ => rfl⟩
  rw [hqp]
  exact (smGet_foldl_smPut _ _ (hmem k hk)).trans (nextTry_unheld hheld _)

theorem flushQp_one {t : State} {c : Nat} (hops : (t.qp n).ops = [o]) (hc : o.code = some c) (ht : o.told = false) (st : Nat) :
    flushQp t n st = { t.setQp n { t.qp n with st := st, ops := [], resp := [], resend := [], timer := none, tries := [], heldPsn := [] } with
      en := { t.en with ended := t.en.ended ++ [⟨o.d, c⟩] } } := by
  simp only [flushQp, hops, List.map_cons, List.map_nil, hc, Option.isSome_some, if_true, tellOps_one hc ht]
  rfl

/-- The event of a queue pair that goes to ERROR (R347). -/
theorem qpErrorEvent_answered (t : State) (n cause : Nat) (hc : cause < 4) :
    Answered t (((t.set F.TRN_EVENT_LAST_QP n).set F.TRN_EVENT_LAST_CAUSE cause).bump F.TRN_EVENT_SEQ) F.TRN_EVENT_SEQ F.TRN_EVENT_LAST_CAUSE cause :=
  (answered_result (t.set F.TRN_EVENT_LAST_QP n) (seq := F.TRN_EVENT_SEQ) (res := F.TRN_EVENT_LAST_CAUSE) (by decide) (by decide) (by decide) (by decide) hc).of_seq
    (State.get_set_apart _ _ (by decide) (by decide))

theorem retry_exceeded (ha : s.pst = 3) (hu : Unacked (s.qp n) o) (htimer : (s.qp n).timer = some b) (hst : (s.qp n).st = 3) (hb : b ≤ s.tk.count)
    (hheld : (s.qp n).heldPsn = []) (hhigh : ∃ k, k < o.sent ∧ 7 ≤ smGet (s.qp n).tries (psnAdd o.first k) 0) :
    Runs (.retryTimerExpiry n) s fun u => (u.qp n).st = 4 ∧ (u.qp n).ops = [] ∧ (u.qp n).timer = none ∧ u.en.ended = s.en.ended ++ [⟨o.d, 0x50⟩] ∧
      Answered s u F.TRN_EVENT_SEQ F.TRN_EVENT_LAST_CAUSE 0 ∧ Counted s u F.TRN_RETRY_EXCEEDED ∧ MemSame s u := by
  obtain ⟨k, hk, htry⟩ := hhigh
  obtain ⟨x, hx⟩ : ∃ x, (toResend (s.qp n)).find? (fun p => 8 ≤ nextTry (s.qp n) p) = some x := by
    rw [← Option.isSome_iff_exists, List.find?_isSome]
    refine ⟨psnAdd o.first k, ?_, ?_⟩
    · rw [hu.toResend]
      exact List.mem_map_of_mem (List.mem_range.2 hk)
    · rw [nextTry_unheld hheld, decide_eq_true_eq]
      omega
  have hmine : (o.index x).isSome = true := by
    have hin := List.mem_of_find?_eq_some hx
    rw [hu.toResend] at hin
    obtain ⟨j, hj, rfl⟩ := List.mem_map.1 hin
    rw [hu.index (List.mem_range.1 hj)]
    rfl
  refine ⟨_, rfl, ?_⟩
  have hexp : retryExpiry s n = qpErrorEvent ((s.count F.TRN_RETRY_EXCEEDED).setQp n { s.qp n with ops := [{ o with code := some 0x50 }] }) n 0 := by
    simp only [retryExpiry, htimer, hx]
    rw [if_neg (by simp [hst, hb])]
    simp only [hu.only, List.any_cons, List.any_nil, hmine, hu.going, Option.isNone_none, Bool.and_self, Bool.or_false, if_true, List.map_cons, List.map_nil]
  rw [inActive, if_pos ha, hexp]
  have hev := qpErrorEvent_answered ((s.count F.TRN_RETRY_EXCEEDED).setQp n { s.qp n with ops := [{ o with code := some 0x50 }] }) n 0 (by decide)
  rw [qpErrorEvent, flushQp_one (o := { o with code := some 0x50 }) (c := 0x50) (congrArg Qp.ops (State.qp_setQp_self _ n _)) rfl hu.told]
  have hqp (t : State) (q : Qp) (en : Eng) : State.qp { t.setQp n q with en := en } n = q := t.qp_setQp_self n q
  exact ⟨congrArg Qp.st (hqp _ _ _), congrArg Qp.ops (hqp _ _ _), congrArg Qp.timer (hqp _ _ _), rfl, hev, State.live_count_self (s := s) F.TRN_RETRY_EXCEEDED 1, fun _ => rfl⟩

end Initiator

/-- Settles O44: what an ACK, a notice and the timer make of one WRITE whose packets have all been sent. -/
theorem initiatorEvents : Obligations.InitiatorEvents := by
  intro s i p o n q ha hops hcode hkind hsent hpos hfew hacked hrefused habort htold hfirst
  have hu : Unacked (s.qp p.dqp) o := ⟨hops, hcode, hkind, hsent, hpos, hfew, hacked, hrefused, habort, htold, hfirst⟩
  exact ⟨fun harr ht he hall => ⟨ackRx_success ha hu harr ht he hall, fun k c hk hr => ackRx_refused ha hu harr ht he hall hk hr⟩,
    fun k hk ht hh hrh hrr hy hst hep hpsn => pathNoticeRx_ends ha hu hk ht hh hrh hrr hy hst hep hpsn,
    fun b htimer hst hb hheld => ⟨retry_again ha hu htimer hst hb hheld, retry_exceeded ha hu htimer hst hb hheld⟩⟩

end Sys2Proof.Machine

/-! ## Operands of the transport unit within one tile (R284, R290, R297, R298, R300) -/

namespace Sys2Proof.Machine

section Live

variable {s u : State}

/-- Counters of the blocks above HBM and staging are as before. -/
def LiveAbove (s u : State) : Prop := ∀ f : RF, 0x500000 ≤ f.off → u.live f = s.live f

theorem LiveAbove.refl (s : State) : LiveAbove s s := fun _ _ => rfl

theorem LiveAbove.trans {t : State} (h : LiveAbove s t) (k : LiveAbove t u) : LiveAbove s u := fun f hf => (k f hf).trans (h f hf)

theorem liveAbove_count (s : State) (f : RF) (n : Nat) (hf : f.off < 0x500000) (hlo : f.lo < 32) : LiveAbove s (s.count f n) := by
  intro g hg
  exact s.live_count_ne n (by unfold RF.key; omega)

theorem LinesTaken.liveAbove (h : LinesTaken s u) : LiveAbove s u := by
  intro f hf
  refine h.cnt _ fun hk => ?_
  obtain ⟨m, hm, hkey⟩ := List.mem_map.1 hk
  obtain ⟨j, hj, rfl⟩ := List.mem_map.1 hm
  have hj := List.mem_range.1 hj
  simp only [RF.key, F.HBM_CSUM_MISS] at hkey
  omega

theorem rmwCount_below (s : State) (a : Nat) : (rmwCount s a).off < 0x500000 ∧ (rmwCount s a).lo < 32 := by
  unfold rmwCount
  split
  · have : stgBank a < 16 := by unfold stgBank; exact bits_lt _ _ _
    simp only [F.STG_RMW]
    omega
  · have := stackOf_lt s.variant a
    simp only [F.HBM_RMW]
    omega

end Live

section Operands

variable {s : State} {who : Who} {req rights ctx no a n pa : Nat} {bs : List Byte}

theorem memWrite_liveAbove (hn : 0 < bs.length) (hfit : a % 2048 + bs.length ≤ 2048) (hf : s.tileFenced (tileOf a) = false)
    (hb : s.tileBad (tileOf a) = 0) : LiveAbove s (memWrite s req a bs).1 := by
  have hset (t : State) : LiveAbove t (t.setBytes a bs) := by
    obtain ⟨m, hm⟩ := setBytes_eq t a bs
    rw [hm]
    exact fun _ _ => rfl
  have hline := (linesTaken_sumLine s (tileOf a)).liveAbove
  obtain ⟨hoff, hlo⟩ := rmwCount_below s a
  rcases Nat.lt_or_ge bs.length 2048 with hpart | hwhole
  · rw [memWrite_part (List.ne_nil_of_length_pos hn) hpart hfit hf hb]
    exact (hline.trans (liveAbove_count _ _ _ hoff hlo)).trans (hset _)
  · rw [memWrite_whole (by omega) (by omega) hf]
    exact hline.trans (hset _)

/-! ### A page that is touched -/

theorem findSeg_found {key : Nat} {g : Segm} (h : findSeg s ctx no a n = some (key, g)) : smFind s.sg.segs key = some g := by
  obtain ⟨i, -, hi⟩ := List.exists_of_findSome?_eq_some h
  split at hi
  · cases hi
  · next g' hg =>
    dsimp only at hi
    split at hi <;> cases hi
    exact hg

theorem segLive_congr {g g' : Segm} (hr : g'.removed = g.removed) (no : Nat) : segLive g' no = segLive g no := by
  rw [segLive, segLive, hr]

/-- A segment whose entry and removal stay is found where it was. -/
theorem findSeg_setSegm {key : Nat} {g g' : Segm} (hg : smFind s.sg.segs key = some g) (he : g'.e = g.e) (hr : g'.removed = g.removed) :
    findSeg { s with sg := { s.sg with segs := smSet s.sg.segs key g' } } ctx no a n =
      (findSeg s ctx no a n).map fun x => if x.1 = key then (key, g') else x := by
  unfold findSeg
  rw [List.map_findSome?]
  congr 1
  funext i
  dsimp only [Function.comp]
  by_cases hk : segKey ctx i = key
  · rw [hk, smFind_smSet_self, hg]
    simp only [he, segLive_congr hr]
    generalize (segLive g no && decide (segVbase g.e.toNat ≤ a) && decide (a + n ≤ segVbase g.e.toNat + segPages g.e.toNat * pageSize)) = c
    cases c <;> simp
  · rw [smFind_smSet_ne _ _ hk]
    cases smFind s.sg.segs (segKey ctx i) with
    | none => rfl
    | some x =>
      dsimp only
      split
      · simp [hk]
      · rfl

theorem mapOffset_touched (g : Segm) (key off : Nat) (x : Page) (hst : (smGet g.pages (off / pageSize) {}).st = 2) (hx : x.st = 2)
    (hf : x.frame = (smGet g.pages (off / pageSize) {}).frame) :
    mapOffset { g with pages := smSet g.pages (off / pageSize) x } key off = mapOffset g key off := by
  unfold mapOffset
  by_cases h1 : segBacking g.e.toNat = 1
  · rw [if_pos h1, if_pos h1]
  · by_cases h2 : segBacking g.e.toNat = 2
    · rw [if_neg h1, if_neg h1, if_pos h2, if_pos h2]
    · rw [if_neg h1, if_neg h1, if_neg h2, if_neg h2, smGet_smSet_self, if_pos hx, if_pos hst, hf]

/-- What a touch makes of the segments: none changed, or the page's one with the page still in its frame. -/
theorem touchPage_cases (s : State) (ctx no a n : Nat) (wr : Bool) :
    touchPage s ctx no a n wr = s ∨ ∃ key g, findSeg s ctx no a n = some (key, g) ∧
      (smGet g.pages ((a - segVbase g.e.toNat) / pageSize) {}).st = 2 ∧ ∃ x : Page, x.st = 2 ∧
      x.frame = (smGet g.pages ((a - segVbase g.e.toNat) / pageSize) {}).frame ∧
      touchPage s ctx no a n wr =
        { s with sg := { s.sg with segs := smSet s.sg.segs key { g with pages := smSet g.pages ((a - segVbase g.e.toNat) / pageSize) x } } } := by
  unfold touchPage
  split
  · exact .inl rfl
  · split
    · exact .inl rfl
    · next key g hg =>
      split
      · dsimp only
        split
        · next hst => exact .inr ⟨key, g, hg, hst, { smGet g.pages ((a - segVbase g.e.toNat) / pageSize) {} with
            referenced := true, dirty := (smGet g.pages ((a - segVbase g.e.toNat) / pageSize) {}).dirty || wr }, hst, rfl, rfl⟩
        · exact .inl rfl
      · exact .inl rfl

theorem opTranslate_touchPage (who : Who) (rights : Nat) (wr : Bool) :
    opTranslate (touchPage s ctx no a n wr) who rights ctx no a n = opTranslate s who rights ctx no a n := by
  rcases touchPage_cases s ctx no a n wr with h | ⟨key, g, hg, hst, x, hx, hf, h⟩
  · rw [h]
  · have hseg := findSeg_setSegm (ctx := ctx) (no := no) (a := a) (n := n)
      (g' := { g with pages := smSet g.pages ((a - segVbase g.e.toNat) / pageSize) x }) (findSeg_found hg) rfl rfl
    rw [hg, Option.map_some, if_pos rfl] at hseg
    have htr : translate { s with sg := { s.sg with segs := smSet s.sg.segs key { g with pages := smSet g.pages ((a - segVbase g.e.toNat) / pageSize) x } } }
        who rights ctx no a n = translate s who rights ctx no a n := by
      simp only [translate, hseg, hg, mapOffset_touched g key _ x hst hx hf]
    rw [h]
    unfold opTranslate
    rw [htr]
    rfl

theorem OneTile.touchPage (o : OneTile s who rights ctx no a n pa) (wr : Bool) : OneTile (touchPage s ctx no a n wr) who rights ctx no a n pa where
  some_ := o.some_
  tile := o.tile
  maps := (opTranslate_touchPage who rights wr).trans o.maps
  place := o.place
  unfenced := by obtain ⟨g, hg⟩ := touchPage_eq s ctx no a n wr; rw [hg]; exact o.unfenced
  good := by obtain ⟨g, hg⟩ := touchPage_eq s ctx no a n wr; rw [hg]; exact o.good

theorem liveAbove_touchPage (wr : Bool) : LiveAbove s (Machine.touchPage s ctx no a n wr) := by
  obtain ⟨g, hg⟩ := touchPage_eq s ctx no a n wr
  rw [hg]
  exact fun _ _ => rfl

/-! ### Reads and placements of the transport unit -/

theorem OneTile.trnFault (o : OneTile s .trn rights ctx no a n pa) : trnFault s rights ctx no a n = none := by
  simp [Machine.trnFault, cutRange_single o.some_ o.tile, o.maps]

/-- A read within one tile that is whole delivers its bytes. -/
theorem trnRead_oneTile (o : OneTile s .trn rights ctx no a n pa) (req : Nat) (host : List Byte) :
    ∃ u, trnRead s req rights ctx no a n host = (u, .ok (s.bytes pa n)) ∧ OperandsRead s u ∧ LiveAbove s u ∧ OneTile u .trn rights ctx no a n pa := by
  have htiles : ∀ k ∈ tilesOf pa n, s.tileFenced k = false ∧ s.tileBad k = 0 := by
    rw [tilesOf_single o.some_ (o.place ▸ o.tile)]
    exact fun k hk => List.mem_singleton.1 hk ▸ ⟨o.unfenced, o.good⟩
  obtain ⟨v, hv, hlines⟩ := memRead_whole (req := req) htiles
  refine ⟨Machine.touchPage v ctx no a n false, ?_, hlines.operandsRead.trans (operandsRead_touchPage _ _ _ _ _ _), hlines.liveAbove.trans (liveAbove_touchPage _),
    (hlines.oneTile o).touchPage false⟩
  simp only [trnRead, o.trnFault, cutRange_single o.some_ o.tile, trnReadCut, o.maps, hv, List.append_nil]

/-- A placement within one tile that is whole stores its bytes and no other. -/
theorem trnWrite_oneTile (o : OneTile s .trn rights ctx no a bs.length pa) (req : Nat) :
    ∃ u, trnWrite s req rights ctx no a bs = (u, .ok []) ∧ Stored s u pa bs ∧ OperandOnly s u ∧ LiveAbove s u := by
  have hcheck : ∃ t, trnCheck s req rights ctx no [(a, bs)] = (t, 0) ∧ LinesTaken s t := by
    by_cases hwhole : bs.length = 2048
    · exact ⟨s, by simp only [trnCheck, o.maps, if_pos hwhole, o.unfenced, Bool.false_eq_true, if_false, if_true], .refl s⟩
    · exact ⟨s.sumLine (tileOf pa), by simp only [trnCheck, o.maps, if_neg hwhole, tileCheck_whole o.unfenced o.good, if_true], linesTaken_sumLine s _⟩
  obtain ⟨t, ht, hlines⟩ := hcheck
  have ot := hlines.oneTile o
  have hfit : pa % 2048 + bs.length ≤ 2048 := o.place ▸ o.tile
  obtain ⟨v, hv, ⟨hbytes, hother⟩, honly⟩ := memWrite_stored (req := req) ot.some_ hfit ot.unfenced ot.good
  have hlive : LiveAbove t v := by
    have h := memWrite_liveAbove (req := req) ot.some_ hfit ot.unfenced ot.good
    rwa [hv] at h
  obtain ⟨htouch, hsame⟩ := operandsRead_touchPage v ctx no a bs.length true
  refine ⟨Machine.touchPage v ctx no a bs.length true, ?_, ⟨fun i hi => (hsame _).trans (hbytes i hi), fun b hb => ?_⟩,
    (hlines.operandOnly.trans honly).trans htouch, (hlines.liveAbove.trans hlive).trans (liveAbove_touchPage _)⟩
  · simp only [trnWrite, o.trnFault, cutTiles_single _ (List.ne_nil_of_length_pos o.some_) o.tile, ht, trnPlace, ot.maps, hv]
  · exact ((hsame b).trans (hother b hb)).trans (hlines.byte b)

/-! ### Bytes placed, through steps that place none -/

section Placed

variable {s t u : State} {pa : Nat} {bs : List Byte}

theorem Stored.of_memSame (h : Stored t u pa bs) (k : MemSame s t) : Stored s u pa bs :=
  ⟨h.1, fun b hb => (h.2 b hb).trans (k b)⟩

theorem Stored.memSame (h : Stored s t pa bs) (k : MemSame t u) : Stored s u pa bs :=
  ⟨fun j hj => (k _).trans (h.1 j hj), fun b hb => (k b).trans (h.2 b hb)⟩

end Placed

end Operands
end Sys2Proof.Machine

/-! ## Responses, held packets and delayed ACKs (R337, R341–R344) -/

namespace Sys2Proof.Machine

section Responses

variable {s t : State} {i : Ingress} {p : Packet} {o : Op} {q : Qp} {n : Nat}

theorem rxOpen_clear (h : qpEnc (s.qp n).e.toNat = false) : rxOpen s n p = (s, some p, none) := by
  rw [rxOpen]
  simp only [h, Bool.not_false, if_true]

theorem Op.index_first (hs : o.sent = 1) (hf : o.first = p.psn) : o.index p.psn = some 0 := by
  simp only [Op.index, hf, psnSub_self, hs, Nat.zero_lt_one, if_true]

theorem respOp_only {kind psn : Nat} (hops : q.ops = [o]) (hk : dKind o.d.w = kind) (hi : (o.index psn).isSome = true) (hc : o.code = none) :
    respOp q kind psn = some (0, o) := by
  simp [respOp, hops, hk, hi, hc]

theorem echoResp_epsn (q : Qp) (i : Ingress) (p : Packet) : (echoResp q i p).epsn = q.epsn := by
  unfold echoResp
  split <;> rfl

/-- A response of at most one tile leaves nothing missing. -/
theorem Op.missing_single {len : Nat} (hl : opLen o.d.w = len) (h1 : 0 < len) (h2 : len ≤ 2048) (hg : o.got = [(0, len)]) : o.missing = none := by
  have hone : cdiv len 8192 = 1 := by unfold cdiv; omega
  simp [Op.missing, hl, hone, hg]

/-- The one operation of queue pair `n` waits for its response, of which nothing has come. -/
structure AwaitsResp (q : Qp) (o : Op) (p : Packet) : Prop where
  only : q.ops = [o]
  going : o.code = none
  told : o.told = false
  got : o.got = []
  sent : o.sent = 1
  first : o.first = p.psn
  start : p.offset = 0
  whole : p.payload.length = opLen o.d.w
  kind : dKind o.d.w = if p.type = 2 then 9 else 11

/-- What a response that is whole makes of the queue pair before its ended operation is handed over. -/
def respQp (t : State) (q : Qp) (i : Ingress) (p : Packet) (o : Op) : Qp :=
  let first := o.got.isEmpty && !o.acked.contains 0
  { echoResp q i p with
    ops := (echoResp q i p).ops.set 0 { o with got := o.got ++ [(p.offset, p.payload.length)], code := some 0 },
    timer := if first then (echoResp q i p).timer.map fun _ => retryAt t else (echoResp q i p).timer }

theorem echoResp_ops (q : Qp) (i : Ingress) (p : Packet) : (echoResp q i p).ops = q.ops := by
  unfold echoResp
  split <;> rfl

/-- The response is placed, and the operation ends. -/
theorem applyResp_oneTile {pa : Nat} (h : AwaitsResp (t.qp n) o p)
    (hone : OneTile t .trn rWrite (dCtx o.d.w) o.d.no (dLocal o.d.w) p.payload.length pa) (hp : piecesOf (dLocal o.d.w) p.payload = p.pieces) :
    ∃ v, applyResp t n i p = settleQp v n (respQp v (t.qp n) i p o) ∧ Stored t v pa p.payload ∧ OperandOnly t v := by
  obtain ⟨v, hv, hstored, honly, -⟩ := trnWrite_oneTile hone (ingressReq t i)
  have hlen : p.payload.length ≤ 2048 := by have := hone.tile; omega
  have hsome := hone.some_
  have hmissing : ({ o with got := o.got ++ [(p.offset, p.payload.length)] } : Op).missing = none :=
    Op.missing_single h.whole.symm hsome hlen (by rw [h.got, h.start]; rfl)
  have hqp : v.qp n = t.qp n := by rw [State.qp, honly]; rfl
  have hresp := respOp_only (q := t.qp n) (psn := p.psn) h.only h.kind (by rw [Op.index_first h.sent h.first]; rfl) h.going
  refine ⟨v, ?_, hstored, honly⟩
  simp only [applyResp, hresp]
  rw [if_neg (by simp [h.start, h.got, ← h.whole, List.ne_nil_of_length_pos hsome]), show dLocal o.d.w + p.offset = dLocal o.d.w by rw [h.start, Nat.add_zero]]
  simp only [hone.trnFault, hp, ne_eq, not_true_eq_false, if_false, hv, hmissing, Option.isNone_none, if_true, hqp]
  rfl

theorem respQp_ops (h : AwaitsResp q o p) : (respQp t q i p o).ops = [{ o with got := o.got ++ [(p.offset, p.payload.length)], code := some 0 }] := by
  rw [respQp, echoResp_ops, h.only]
  rfl

theorem respQp_epsn : (respQp t q i p o).epsn = q.epsn := echoResp_epsn q i p

theorem OneTile.taken {who : Who} {rights ctx no a len pa : Nat} (h : OneTile s who rights ctx no a len pa) :
    OneTile (taken s i p) who rights ctx no a len pa where
  some_ := h.some_
  tile := h.tile
  maps := by rw [taken_eq]; exact h.maps
  place := h.place
  unfenced := by rw [taken_eq]; exact h.unfenced
  good := by rw [taken_eq]; exact h.good

/-- A response of at most one tile: placed, and its operation ended. -/
theorem rxResp_oneTile {pa : Nat} (harr : Arrives s i p) (h : AwaitsResp (s.qp p.dqp) o p)
    (hone : OneTile s .trn rWrite (dCtx o.d.w) o.d.no (dLocal o.d.w) p.payload.length pa) (hp : piecesOf (dLocal o.d.w) p.payload = p.pieces) :
    Stored s (rxResp s i p p.type) pa p.payload ∧ (rxResp s i p p.type).en.ended = s.en.ended ++ [⟨o.d, 0⟩] ∧
      ((rxResp s i p p.type).qp p.dqp).epsn = (s.qp p.dqp).epsn := by
  have hqp : (taken s i p).qp p.dqp = s.qp p.dqp := taken_qp _
  have hclear : qpEnc ((taken s i p).qp p.dqp).e.toNat = false := hqp ▸ harr.clear
  obtain ⟨v, hv, hstored, honly⟩ := applyResp_oneTile (n := p.dqp) (i := i) (hqp ▸ h) hone.taken hp
  have hrx : rxResp s i p p.type = settleQp v p.dqp (respQp v (s.qp p.dqp) i p o) := by
    rw [← hqp, ← hv]
    simp only [rxResp, ne_eq, not_true_eq_false, if_false, rxHead_arrives harr, rxOpen_clear hclear]
  obtain ⟨hended, hepsn⟩ := settleQp_ended (s := v) (n := p.dqp) (respQp_ops (t := v) (i := i) h) rfl h.told
  rw [hrx]
  refine ⟨?_, ?_, hepsn.trans respQp_epsn⟩
  · have hsame : MemSame s (taken s i p) := by rw [taken_eq]; exact fun _ => rfl
    exact (hstored.of_memSame hsame).memSame (settleQp_memSame _ _ _)
  · rw [hended, honly, taken_eq]

end Responses

section Acks

variable {s : State} {i : Ingress} {p : Packet} {n : Nat}

theorem applySignal_sent {w : Nat} (hk : keyCheck s (qpCtx (s.qp n).e.toNat) p p.roff 1 rAtomic = (0, w)) (hw : winSync w = true) :
    applySignal s n i p = s.syncSend { req := 80, obj := winBase w + p.roff, ctx := none, op := .signal (max 1 p.aux), th := none, pkt := some (i, p) } := by
  simp only [applySignal, hk, hw, if_true]

theorem rxApply_signal (h : p.type = 6) (host : List Byte) (now : Bool) : rxApply s n i p host now = applySignal s n i p := by
  simp only [rxApply, h]

theorem wayTo_peer {ep npath j k : Nat} (h : wayTo s ep npath j = .peer k) : (peerOf s ep).isSome = true := by
  unfold wayTo at h
  split at h
  · next hp => rw [hp]; rfl
  · split at h
    · cases h
    · dsimp only at h
      split at h
      · cases h
      · split at h <;> cases h

/-- A packet for a peer: the two writes on the bus, counted. -/
theorem sendWay_peer (k : Nat) :
    sendWay s p (.peer k) = State.count { s with out := s.out ++ peerOut s k p, ho := { s.ho with sentTo := smSet s.ho.sentTo k ((smGet s.ho.sentTo k 0 + 1) % 2 ^ 32) } }
      F.HOST_PEER_FRAMES_TX := by
  simp only [sendWay, State.emit, peerOut, List.append_assoc, List.cons_append, List.nil_append]
  rfl

/-- The one packet that its FENCE holds is handled once everything before it is placed: here a SIGNAL. -/
theorem fenceHeldRelease_signal {w : Nat} (ha : s.pst = 3) (hf : s.tr.fences = [(i, p)]) (hst : (s.qp p.dqp).st = 2 ∨ (s.qp p.dqp).st = 3)
    (ht : p.type = 6) (hk : keyCheck s (qpCtx (s.qp p.dqp).e.toNat) p p.roff 1 rAtomic = (0, w)) (hw : winSync w = true)
    (hopen : fenceOpen (s.qp p.dqp) p = true) :
    RunsSettled (.fenceHeldRelease p.dqp p.psn []) s fun u => u.tr.fences = [] ∧ MemSame s u ∧
      u.sy.reqs = s.sy.reqs ++ [⟨80, winBase w + p.roff, none, .signal (max 1 p.aux), none, 0, some (i, p)⟩] := by
  have hst' : ((s.qp p.dqp).st == 2 || (s.qp p.dqp).st == 3) = true := by simpa using hst
  have hfind : (s.tr.fences.find? fun f => f.2.dqp == p.dqp && f.2.psn == p.psn) = some (i, p) := by rw [hf]; simp
  have herase : s.tr.fences.erase (i, p) = [] := by rw [hf]; simp
  have hsent := applySignal_sent (s := { s with tr := { s.tr with fences := [] } }) (i := i) (n := p.dqp) hk hw
  have hrun : execFenceHeldRelease p.dqp p.psn [] s =
      .next (settle (applySignal { s with tr := { s.tr with fences := [] } } p.dqp i p)) := by
    simp only [execFenceHeldRelease, inActive, ha, if_true, hfind, hst', hopen, Bool.and_self, herase, rxApply_signal ht]
  refine ⟨_, hrun, ?_⟩
  rw [hsent]
  exact ⟨rfl, fun _ => rfl, rfl⟩

theorem fenceHeldRelease_waits (hf : s.tr.fences = [(i, p)]) (hopen : fenceOpen (s.qp p.dqp) p = false) :
    Runs (.fenceHeldRelease p.dqp p.psn []) s fun u => u = s := by
  have hfind : (s.tr.fences.find? fun f => f.2.dqp == p.dqp && f.2.psn == p.psn) = some (i, p) := by rw [hf]; simp
  refine ⟨_, rfl, ?_⟩
  simp only [inActive, hfind, hopen, Bool.and_false, Bool.false_eq_true, if_false, ite_self]

/-- An ACK to a peer: the queue pair owes none, and two writes on the bus carry it. -/
theorem sendAck_peer {k : Nat} (hst : (s.qp n).st = 2 ∨ (s.qp n).st = 3)
    (hw : wayTo s (qpRemoteEp (s.qp n).e.toNat) (npathOf (s.qp n).e.toNat) 0 = .peer k) (notice noticePsn : Nat) :
    sendAck s n i p notice noticePsn = sendWay (countAck (s.setQp n { s.qp n with echo := 0, ackDue := 0, ackFrom := none })
      (ackOf s n notice noticePsn)) (ackOf s n notice noticePsn) (.peer k) := by
  have hst' : ¬ (((s.qp n).st ≠ 2 && (s.qp n).st ≠ 3) = true) := by rcases hst with h | h <;> rw [h] <;> decide
  have hpeer := wayTo_peer hw
  have hqp := s.qp_setQp_self n { s.qp n with echo := 0, ackDue := 0, ackFrom := none }
  rw [sendAck, if_neg hst']
  extract_lets a q u
  have hp : (peerOf u a.dstEp).isSome = true := hpeer
  rw [if_pos hp, respond, show u.qp n = _ from hqp, show wayTo u a.dstEp _ 0 = .peer k from hw]

theorem ackDelayExpiry_peer {k : Nat} (ha : s.pst = 3) (hfrom : (s.qp n).ackFrom = some (i, p)) (hst : (s.qp n).st = 2 ∨ (s.qp n).st = 3)
    (hw : wayTo s (qpRemoteEp (s.qp n).e.toNat) (npathOf (s.qp n).e.toNat) 0 = .peer k) :
    Runs (.ackDelayExpiry n) s fun u => u.qp n = { s.qp n with echo := 0, ackDue := 0, ackFrom := none } ∧ MemSame s u ∧ RegsBut s u [] ∧
      Counted s u F.TRN_ACKS_TX ∧ u.out = s.out ++ peerOut s k (ackOf s n 0 0) := by
  have hst' : ((s.qp n).st == 2 || (s.qp n).st == 3) = true := by simpa using hst
  have hrun : execAckDelayExpiry n s = .next (sendAck s n i p 0 0) := by
    simp only [execAckDelayExpiry, inActive, ha, if_true, hfrom, hst']
  refine ⟨_, hrun, ?_⟩
  rw [sendAck_peer hst hw, sendWay_peer, countAck, if_pos (show (ackOf s n 0 0).type = 7 from rfl)]
  refine ⟨State.qp_setQp_self _ _ _, fun _ => rfl, fun _ _ => rfl, ?_, rfl⟩
  exact (State.live_count_ne _ 1 (by decide)).trans (State.live_count_self (s := s.setQp n _) F.TRN_ACKS_TX 1)

end Acks

/-- Settles O46: a response placed, a packet held by its FENCE, and a delayed ACK. -/
theorem responsesAndAcks : Obligations.ResponsesAndAcks := by
  intro s i p n q e ha
  refine ⟨fun o pa c hc harr hops hcode htold hgot hsent hfirst _ _ hoff hlen hone hp => ?_,
    fun w hf hst ht hk hw => ⟨?_, fenceHeldRelease_signal ha hf hst ht hk hw⟩, fun k hfrom hst hw => ?_⟩
  · have hrx (hkind : dKind o.d.w = if p.type = 2 then 9 else 11) :=
      rxResp_oneTile harr ⟨hops, hcode, htold, hgot, hsent, hfirst, hoff, hlen, hkind⟩ hone hp
    rcases hc with ⟨rfl, ht, hkind⟩ | ⟨rfl, ht, hkind⟩
    · exact ⟨_, congrArg Host.Outcome.next (if_pos ha), ht ▸ hrx (by rw [hkind, ht]; rfl)⟩
    · exact ⟨_, congrArg Host.Outcome.next (if_pos ha), ht ▸ hrx (by rw [hkind, ht]; rfl)⟩
  · cases hopen : fenceOpen q p with
    | false => exact (fenceHeldRelease_waits hf hopen).imp fun u hu _ => hu
    | true => exact ⟨_, rfl, fun h => absurd h (by decide)⟩
  · obtain ⟨u, hx, hqp, hmem, hregs, hcnt, hout⟩ := ackDelayExpiry_peer ha hfrom hst hw
    exact ⟨u, hx, hqp, hmem, hregs, hcnt, _, hout, rfl, rfl, rfl, rfl, rfl, rfl, rfl, rfl⟩

end Sys2Proof.Machine

/-! ## What the transport unit sends (R343, R355, R357) -/

namespace Sys2Proof.Machine

section Sent

variable {s t u : State}

/-- A packet is put on its way, or waits for it: beside counters, what the ports, the peers and the transport unit's queues hold is all that changes,
and none of the counters named. -/
structure WaySent (s u : State) : Prop where
  rest : u = { s with
    cnt := u.cnt, fb := u.fb, out := u.out, free := u.free, ho := { s.ho with sentTo := u.ho.sentTo },
    tr := { s.tr with arrivals := u.tr.arrivals, waitRoute := u.tr.waitRoute } }
  cnt : ∀ f ∈ [F.TRN_RX_PKTS, F.TRN_REFUSED, F.TRN_TX_PKTS], u.live f = s.live f
  out : s.out <+: u.out

theorem WaySent.refl (s : State) : WaySent s s := ⟨rfl, fun _ _ => rfl, List.prefix_refl _⟩

theorem WaySent.trans (h : WaySent s t) (k : WaySent t u) : WaySent s u where
  rest := by rw [k.rest, h.rest]
  cnt f hf := (k.cnt f hf).trans (h.cnt f hf)
  out := h.out.trans k.out

theorem WaySent.qp (h : WaySent s u) (n : Nat) : u.qp n = s.qp n := by rw [State.qp, h.rest]; rfl

theorem WaySent.mem (h : WaySent s u) : u.mem = s.mem := by rw [h.rest]

theorem waySent_count (s : State) {f : RF} (hf : ∀ g ∈ [F.TRN_RX_PKTS, F.TRN_REFUSED, F.TRN_TX_PKTS], g.key ≠ f.key) : WaySent s (s.count f) :=
  ⟨rfl, fun g hg => s.live_count_ne 1 (hf g hg), List.prefix_refl _⟩

/-- A port's counters are none of the transport unit's. -/
theorem waySent_portCount (s : State) {e : Nat} (he : e < 32) {f : RF} (ho : f.off < portBase e + 0x4000) (hlo : f.lo < 32) : WaySent s (s.count f) := by
  refine waySent_count s fun g hg => ?_
  have hg' : 32 * 0x500000 ≤ g.key := by revert g; decide
  unfold portBase at ho
  unfold RF.key at *
  omega

theorem waySent_setPort (s : State) (n : Nat) (p : Port) : WaySent s (s.setPort n p) := ⟨rfl, fun _ _ => rfl, List.prefix_refl _⟩

theorem waySent_fresh (s : State) : WaySent s s.fresh.2 := ⟨rfl, fun _ _ => rfl, List.prefix_refl _⟩

theorem waySent_ceMark (s : State) (e c q : Nat) : WaySent s (ceMark s e c q).1 := by
  unfold ceMark
  dsimp only
  split
  · exact .refl s
  · split
    · exact .refl s
    · exact waySent_fresh s

/-- A frame of the adapter's own raises no pause. -/
theorem pfcRise_own (s : State) (c : Nat) : pfcRise s 32 c = s := if_pos (Nat.le_refl 32)

theorem waySent_putFrame (s : State) {e : Nat} (he : e < 32) (f : Frame) (hf : f.ingress = 32) : WaySent s (putFrame s e f) := by
  have hdraw : WaySent s (if f.pkt.type ≤ 6 then ceMark s e f.cls (framesLen ((s.port e).cls f.cls)) else (s, false)).1 := by
    split
    · exact waySent_ceMark s e f.cls _
    · exact .refl s
  unfold putFrame
  dsimp only
  generalize (if f.pkt.type ≤ 6 then ceMark s e f.cls (framesLen ((s.port e).cls f.cls)) else (s, false)) = r at hdraw ⊢
  obtain ⟨u, mark⟩ := r
  cases mark with
  | false =>
    simp only [Bool.false_eq_true, if_false, hf, pfcRise_own]
    exact hdraw.trans (waySent_setPort _ _ _)
  | true =>
    simp only [if_true, hf, pfcRise_own]
    exact (hdraw.trans (waySent_portCount _ he (f := F.FAB_CE_MARKED e) (by simp [F.FAB_CE_MARKED]) (by simp [F.FAB_CE_MARKED]))).trans (waySent_setPort _ _ _)

theorem hopOf_lt (path h : Nat) : hopOf path h < 32 := bits_lt _ _ _

theorem waySent_sendLocal (s : State) (p : Packet) : WaySent s (sendLocal s p 32) := by
  unfold sendLocal
  dsimp only
  split
  · exact waySent_portCount s (hopOf_lt p.path 0) (f := F.FAB_EGRESS_DOWN (hopOf p.path 0)) (by simp [F.FAB_EGRESS_DOWN]) (by simp [F.FAB_EGRESS_DOWN])
  · unfold enqueue
    dsimp only
    split
    · exact waySent_putFrame s (hopOf_lt _ _) _ rfl
    · exact waySent_setPort s _ _

theorem waySent_sendWay (s : State) (p : Packet) (w : Way) : WaySent s (sendWay s p w) := by
  cases w with
  | peer k =>
    rw [sendWay_peer]
    refine WaySent.trans ?_ (waySent_count _ (f := F.HOST_PEER_FRAMES_TX) (by decide))
    exact ⟨rfl, fun _ _ => rfl, List.prefix_append _ _⟩
  | path w =>
    unfold sendWay
    dsimp only
    split
    · split
      · exact ⟨rfl, fun _ _ => rfl, List.prefix_refl _⟩
      · exact .refl s
    · exact waySent_sendLocal s _
  | _ => exact .refl s

theorem waySent_waitWay (s : State) (n : Nat) (p : Option Packet) : WaySent s (waitWay s n p) := by
  unfold waitWay
  split
  · exact .refl s
  · exact ⟨rfl, fun _ _ => rfl, List.prefix_refl _⟩

theorem waySent_countAck (s : State) (p : Packet) : WaySent s (countAck s p) := by
  unfold countAck
  split
  · exact waySent_count s (by decide)
  · exact .refl s

theorem waySent_respond (s : State) (n : Nat) (p : Packet) (j : Nat) : WaySent s (respond s n p j) := by
  unfold respond
  split
  · exact waySent_waitWay s _ _
  · exact waySent_waitWay s _ _
  · exact .refl s
  · exact .refl s
  · exact (waySent_countAck s p).trans (waySent_sendWay _ _ _)

/-- An ACK sent, or not: queue pair `n` is `q` but for what it owes. -/
structure AckSent (n : Nat) (q : Qp) (s u : State) : Prop where
  rest : u = { s with
    cnt := u.cnt, fb := u.fb, out := u.out, free := u.free, ho := { s.ho with sentTo := u.ho.sentTo },
    tr := { s.tr with arrivals := u.tr.arrivals, waitRoute := u.tr.waitRoute, qps := u.tr.qps } }
  qp : ∃ e d f, u.qp n = { q with echo := e, ackDue := d, ackFrom := f }
  cnt : ∀ f ∈ [F.TRN_RX_PKTS, F.TRN_REFUSED, F.TRN_TX_PKTS], u.live f = s.live f
  out : s.out <+: u.out

variable {n : Nat} {q q' : Qp}

theorem WaySent.ackSent {e d : Nat} {f : Option (Ingress × Packet)} (h : WaySent (s.setQp n { q with echo := e, ackDue := d, ackFrom := f }) u) :
    AckSent n q s u where
  rest := by rw [h.rest]; rfl
  qp := ⟨e, d, f, (h.qp n).trans (s.qp_setQp_self n _)⟩
  cnt := h.cnt
  out := h.out

theorem AckSent.of_setQp (h : AckSent n q (s.setQp n q') u) : AckSent n q s u := ⟨by rw [h.rest]; rfl, h.qp, h.cnt, h.out⟩

theorem AckSent.mem (h : AckSent n q s u) : u.mem = s.mem := by rw [h.rest]

theorem AckSent.sy (h : AckSent n q s u) : u.sy = s.sy := by rw [h.rest]

theorem AckSent.refusals (h : AckSent n q s u) : (u.qp n).refusals = q.refusals := by
  obtain ⟨e, d, f, hqp⟩ := h.qp
  rw [hqp]

theorem AckSent.rqs (h : AckSent n q s u) : u.tr.rqs = s.tr.rqs := by rw [h.rest]

theorem sendAck_sent (s : State) (n : Nat) (i : Ingress) (p : Packet) (notice psn : Nat) : AckSent n (s.qp n) s (sendAck s n i p notice psn) := by
  unfold sendAck
  split
  · exact ⟨rfl, ⟨_, _, _, rfl⟩, fun _ _ => rfl, List.prefix_refl _⟩
  · refine WaySent.ackSent (e := 0) (d := 0) (f := none) ?_
    dsimp only
    split
    · exact waySent_respond _ _ _ _
    · cases i with
      | loopback => exact (waySent_countAck _ _).trans (waySent_sendWay _ _ _)
      | peer k => exact waySent_respond _ _ _ _
      | port j =>
        dsimp only
        split
        · exact (waySent_countAck _ _).trans (waySent_sendLocal _ _)
        · exact waySent_respond _ _ _ _

/-- What a placement owes before it is known whether the ACK leaves at once. -/
theorem AckSent.owed {e d : Nat} {f : Option (Ingress × Packet)} (h : AckSent n { q with echo := e, ackDue := d, ackFrom := f } s u) : AckSent n q s u :=
  ⟨h.rest, by obtain ⟨e', d', f', hqp⟩ := h.qp; exact ⟨e', d', f', hqp⟩, h.cnt, h.out⟩

/-- A placement: its PSN is done, and an ACK is sent or owed. -/
theorem placed_sent (s : State) (n : Nat) (i : Ingress) (p : Packet) (now : Bool) : AckSent n (markDone (s.qp n) p) s (placed s n i p now) := by
  have hboth (q : Qp) (b : Bool) : AckSent n q s (if b then sendAck (s.setQp n q) n i p 0 0 else s.setQp n q) := by
    cases b with
    | true =>
      have h := (sendAck_sent (s.setQp n q) n i p 0 0).of_setQp
      rwa [State.qp_setQp_self] at h
    | false => exact ⟨rfl, ⟨_, _, _, s.qp_setQp_self n q⟩, fun _ _ => rfl, List.prefix_refl _⟩
  exact (hboth { markDone (s.qp n) p with
    ackDue := (markDone (s.qp n) p).ackDue + 1,
    echo := if p.ce then min (2 ^ 32 - 1) ((markDone (s.qp n) p).echo + p.payload.length) else (markDone (s.qp n) p).echo,
    ackFrom := match (markDone (s.qp n) p).ackFrom with | some f => some f | none => some (i, p) } _).owed

end Sent


/-! ## Packets at the target (R310, R335–R342) -/

section Reception

variable {s t u v : State} {i : Ingress} {p : Packet} {n w : Nat} {q : Qp}

theorem markDone_next (h : q.epsn = p.psn) (hd : q.done = []) : (markDone q p).epsn = psnAdd p.psn 1 ∧ (markDone q p).done = [] := by
  simp [markDone, hd, h, advancePsn]

theorem psnPlace_next (h : p.psn = q.epsn) (hr : p.psn < 2 ^ 24) : psnPlace q p.psn = 4096 := by
  rw [psnPlace, ← h]
  unfold psnSub
  omega

/-- A packet that is expected goes through steps 1 to 6. -/
theorem rxData_expected (h : Expected s i p) (host : List Byte) : rxData s i p host = rxApply (taken s i p) p.dqp i p host false := by
  obtain ⟨harr, hnext, hrange, hdone, ⟨hmig, hfence, hsig⟩, hopen⟩ := h
  have hqp : (taken s i p).qp p.dqp = s.qp p.dqp := taken_qp _
  have hplace : psnPlace (s.qp p.dqp) p.psn = 4096 := psnPlace_next hnext hrange
  have hclear : qpEnc ((taken s i p).qp p.dqp).e.toNat = false := hqp ▸ harr.clear
  have hmig' : migHeld (taken s i p) p.dqp p.psn = false := by rw [taken_eq]; exact hmig
  have hfence' : fenceHeld (taken s i p) p.dqp p.psn = false := by rw [taken_eq]; exact hfence
  have hsig' : signalling (taken s i p) p.dqp p.psn = false := by rw [taken_eq]; exact hsig
  have hfree : (p.fence && !fenceOpen (s.qp p.dqp) p) = false := by rcases hopen with h | h <;> simp [h]
  simp only [rxData, rxHead_arrives harr, hqp, hplace, hdone, List.contains_nil, hmig', hfence', hsig', Bool.or_self, Bool.false_eq_true, if_false,
    Nat.lt_irrefl, show (4096 : Nat) < 8192 by decide, if_true, rxNew, rxOpen_clear hclear, hfree]

theorem runs_expected {c : Instr} {k : Nat} {host : List Byte} {P : State → Prop} (hexec : exec c s = .next (rxAs s i p k host)) (ha : s.pst = 3)
    (hk : p.type = k) (h : Expected s i p) (hP : P (rxApply (taken s i p) p.dqp i p host false)) : RunsSettled c s P := by
  refine ⟨_, ?_, hP⟩
  rw [hexec, rxAs, inActive, if_pos ha, if_pos (by simp [hk]), rxData_expected h]

/-- After the packet with PSN `k`, queue pair `n` expects the next one. -/
structure Moved (n k : Nat) (u : State) : Prop where
  epsn : (u.qp n).epsn = psnAdd k 1
  alone : (u.qp n).done = []

theorem AckSent.moved (h : AckSent n (markDone q p) t u) (hn : q.epsn = p.psn) (hd : q.done = []) : Moved n p.psn u := by
  obtain ⟨e, d, f, hqp⟩ := h.qp
  obtain ⟨hepsn, hdone⟩ := markDone_next hn hd
  exact ⟨(congrArg Qp.epsn hqp).trans hepsn, (congrArg Qp.done hqp).trans hdone⟩

theorem AckSent.memSame (h : AckSent n q t u) : MemSame t u := by
  rw [h.rest]
  exact fun _ => rfl

theorem countMsg_rest (q : Qp) (p : Packet) : ∃ m, (countMsg q p).1 = { q with msgs := m } := by
  unfold countMsg
  dsimp only
  generalize (if p.last = true then some (p.offset + p.payload.length) else (smGet q.msgs (firstPsn p) (0, none)).2) = total
  split <;> exact ⟨_, rfl⟩

/-- A WRITE within its key and window, of at most one tile: placed, every byte and no other. -/
theorem applyWrite_placed {a pa : Nat} (hk : keyCheck t (qpCtx (t.qp n).e.toNat) p (p.roff + p.offset) p.payload.length rWrite = (0, w))
    (ha : winAddr t w (p.roff + p.offset) = some a) (hone : OneTile t .trn rWrite (qpCtx (t.qp n).e.toNat) t.sq.opNo a p.payload.length pa)
    (hp : piecesOf a p.payload = p.pieces) (hn : (t.qp n).epsn = p.psn) (hd : (t.qp n).done = []) (now : Bool) :
    Stored t (applyWrite t n i p now) pa p.payload ∧ Moved n p.psn (applyWrite t n i p now) ∧
      (applyWrite t n i p now).live F.TRN_RX_PKTS = t.live F.TRN_RX_PKTS := by
  obtain ⟨v, hv, hstored, honly, hlive⟩ := trnWrite_oneTile hone (ingressReq t i)
  have hqp : v.qp n = t.qp n := by rw [State.qp, honly]; rfl
  obtain ⟨m, hm⟩ := countMsg_rest (v.qp n) p
  have hrun : applyWrite t n i p now = placed (v.setQp n { t.qp n with msgs := m }) n i p (now || (countMsg (v.qp n) p).2) := by
    rw [← hqp, ← hm]
    simp only [applyWrite, hk, ha, hone.trnFault, hp, ne_eq, not_true_eq_false, if_false, hv]
  have hsent := placed_sent (v.setQp n { t.qp n with msgs := m }) n i p (now || (countMsg (v.qp n) p).2)
  rw [State.qp_setQp_self] at hsent
  rw [hrun]
  exact ⟨hstored.memSame hsent.of_setQp.memSame, hsent.moved hn hd, (hsent.cnt _ (by decide)).trans (hlive _ (by decide))⟩

/-! ### ATOMIC and READ_REQ -/

theorem pushResponse_qp (s : State) (n : Nat) (r : Packet) : (pushResponse s n r).qp n = { s.qp n with resp := (s.qp n).resp ++ [r] } :=
  s.qp_setQp_self n _

/-- What the queue pair remembers of its latest atomics, one more. -/
def keptAtomics (q : Qp) (x : Nat × Nat) : List (Nat × Nat) := (q.atomics ++ [x]).drop ((q.atomics ++ [x]).length - 16)

theorem keptAtomics_last (q : Qp) (x : Nat × Nat) : (keptAtomics q x).getLast? = some x := by
  unfold keptAtomics
  rw [List.getLast?_drop, if_neg (by simp), List.getLast?_concat]

/-- An ATOMIC within its key and window: the new value is stored, the old one kept. -/
theorem applyAtomic_placed {a pa : Nat} (hk : keyCheck t (qpCtx (t.qp n).e.toNat) p p.roff 8 rAtomic = (0, w)) (ha : winAddr t w p.roff = some a)
    (hone : OneTile t .trn rAtomic (qpCtx (t.qp n).e.toNat) t.sq.opNo a 8 pa) (hn : (t.qp n).epsn = p.psn) (hd : (t.qp n).done = []) :
    Stored t (applyAtomic t n i p []) pa (toLE 8 (atomicNew p (ofLE (t.bytes pa 8)))) ∧ Moved n p.psn (applyAtomic t n i p []) ∧
      ((applyAtomic t n i p []).qp n).atomics.getLast? = some (p.psn, ofLE (t.bytes pa 8)) := by
  obtain ⟨r, hr, hread, -, honeR⟩ := trnRead_oneTile hone (ingressReq t i) []
  have hno : r.sq.opNo = t.sq.opNo := by rw [hread.only]
  have hlen : (toLE 8 (atomicNew p (ofLE (t.bytes pa 8)))).length = 8 := toLE_length 8 _
  obtain ⟨v, hv, hstored, honly, -⟩ := trnWrite_oneTile (bs := toLE 8 (atomicNew p (ofLE (t.bytes pa 8)))) (hlen.symm ▸ honeR) (ingressReq t i)
  have hqp : v.qp n = t.qp n := by rw [State.qp, honly, hread.only]; rfl
  generalize hold : ofLE (t.bytes pa 8) = old at *
  have hrun : applyAtomic t n i p [] =
      atomicResponse (placed (v.setQp n { t.qp n with atomics := keptAtomics (t.qp n) (p.psn, old) }) n i p true) n p old := by
    rw [← hqp]
    simp only [applyAtomic, hk, ha, hr, hold, hno, hv]
    rfl
  have hsent := placed_sent (v.setQp n { t.qp n with atomics := keptAtomics (t.qp n) (p.psn, old) }) n i p true
  rw [State.qp_setQp_self] at hsent
  obtain ⟨hepsn, hdone⟩ := hsent.moved hn hd
  obtain ⟨e, d, f, hq⟩ := hsent.qp
  rw [hrun, atomicResponse]
  refine ⟨?_, ⟨?_, ?_⟩, ?_⟩
  · exact ((hstored.of_memSame hread.mem).memSame hsent.of_setQp.memSame).memSame fun _ => rfl
  · exact (congrArg Qp.epsn (pushResponse_qp _ n _)).trans hepsn
  · exact (congrArg Qp.done (pushResponse_qp _ n _)).trans hdone
  · rw [congrArg Qp.atomics (pushResponse_qp _ n _)]
    exact (congrArg (fun q : Qp => q.atomics.getLast?) hq).trans (keptAtomics_last _ _)

theorem readResponses_nil (s : State) (n : Nat) (p : Packet) (total k off : Nat) : readResponses s n p total k off [] = s := by
  cases k <;> rfl

/-- A response of at most one packet. -/
def oneResponse (s : State) (n : Nat) (p : Packet) (total off : Nat) (bs : List Byte) : Packet :=
  { pktFrom s n (s.qp n) 2 p.psn with
    try_ := p.try_, offset := off, last := off + bs.length == total, payload := bs, pieces := piecesOf (p.phase + off) bs }

theorem readResponses_single (s : State) (n : Nat) (p : Packet) (total k off : Nat) {bs : List Byte} (hsome : bs ≠ []) (hlen : bs.length ≤ 8192) :
    readResponses s n p total (k + 1) off bs = pushResponse s n (oneResponse s n p total off bs) := by
  rw [readResponses, if_neg hsome]
  simp only [List.take_of_length_le hlen, List.drop_of_length_le hlen, readResponses_nil]
  rfl

theorem bytes_length (s : State) (a n : Nat) : (s.bytes a n).length = n := by simp [State.bytes]

/-- A READ_REQ within its key and window, of at most one tile: no byte changes, and the bytes read stand in the response. -/
theorem applyRead_answered {a pa len : Nat} (hlen : p.aux % 2 ^ 30 + 1 = len) (hoff : p.offset = 0)
    (hk : keyCheck t (qpCtx (t.qp n).e.toNat) p p.roff len rRead = (0, w)) (ha : winAddr t w p.roff = some a)
    (hone : OneTile t .trn rRead (qpCtx (t.qp n).e.toNat) t.sq.opNo a len pa) (hn : (t.qp n).epsn = p.psn) (hd : (t.qp n).done = []) :
    MemSame t (applyRead t n i p [] true) ∧ Moved n p.psn (applyRead t n i p [] true) ∧ ∃ x : State,
      (x.qp n).e = (t.qp n).e ∧ ((applyRead t n i p [] true).qp n).resp = (t.qp n).resp ++ [oneResponse x n p len 0 (t.bytes pa len)] := by
  obtain ⟨v, hv, hread, -, -⟩ := trnRead_oneTile hone (ingressReq t i) []
  have htile := hone.tile
  have hqp : v.qp n = t.qp n := by rw [State.qp, hread.only]; rfl
  have hsent := placed_sent v n i p true
  rw [hqp] at hsent
  have hrun : applyRead t n i p [] true = pushResponse (placed v n i p true) n (oneResponse (placed v n i p true) n p len 0 (t.bytes pa len)) := by
    rw [← readResponses_single _ n p len (len / 8192) 0 (List.ne_nil_of_length_pos (by rw [bytes_length]; omega)) (by rw [bytes_length]; omega)]
    simp only [applyRead, hlen, hoff, Nat.add_zero, Nat.sub_zero, show ¬ len = 0 by omega, if_false, hk, ha, hv, if_true]
  obtain ⟨hepsn, hdone⟩ := hsent.moved hn hd
  obtain ⟨e, d, f, hq⟩ := hsent.qp
  rw [hrun]
  refine ⟨?_, ⟨?_, ?_⟩, placed v n i p true, by rw [hq]; rfl, ?_⟩
  · exact (hread.mem.trans hsent.memSame).trans fun _ => rfl
  · exact (congrArg Qp.epsn (pushResponse_qp _ n _)).trans hepsn
  · exact (congrArg Qp.done (pushResponse_qp _ n _)).trans hdone
  · rw [congrArg Qp.resp (pushResponse_qp _ n _)]
    exact congrArg (· ++ _) (by rw [hq]; rfl)

/-! ### SEND -/

theorem recvEntry_frame (s : State) (n : Nat) (r : Recv) (c : Nat) : CqFrame s (recvEntry s n r c) := by
  unfold recvEntry
  dsimp only
  split
  · exact cqPost_frame s _ _ none
  · exact .refl s

theorem recvEntry_out {r : Recv} {c : Nat} {x : Cq} (ha : s.pst = 3) (hown : s.ownsCq (qpCtx (s.qp n).e.toNat) (qpRcq (s.qp n).e.toNat) = true)
    (hq : smFind s.ho.cqs (qpRcq (s.qp n).e.toNat) = some x) (hup : s.hostUp (s.ctxPort x.ctx) = true) (hwait : x.waiting = [])
    (hroom : x.written - x.consumed < 2 ^ x.log2) :
    .hostWrite x.ctx (x.base + 32 * (x.written % 2 ^ x.log2)) (splice (cqEntry r.tag c 1 n r.bytes (toLE 4 r.imm)) 6 [cqPhase x]) ∈ (recvEntry s n r c).out := by
  obtain ⟨more, hout⟩ := cqWrite_out s (qpRcq (s.qp n).e.toNat) x (cqEntry r.tag c 1 n r.bytes (toLE 4 r.imm))
  rw [recvEntry, if_pos hown, cqPost_room hq hup ha hwait hroom, State.cqDone, hout]
  exact List.mem_append_right _ (List.mem_cons_self ..)

/-- The fields of a receive's entry, whatever its PHASE. -/
theorem recvEntry_fields (tag c obj nbytes : Nat) (tail : List Byte) (ph : Byte) :
    let bs := splice (cqEntry tag c 1 obj nbytes tail) 6 [ph]
    fieldLE bs 0 4 = tag % 2 ^ 32 ∧ fieldLE bs 4 1 = c % 256 ∧ fieldLE bs 5 1 = 1 ∧ fieldLE bs 12 4 = nbytes % 2 ^ 32 := by
  have hsplit : splice (cqEntry tag c 1 obj nbytes tail) 6 [ph] =
      toLE 4 tag ++ (toLE 1 c ++ (toLE 1 1 ++ ([ph, 0#8] ++ toLE 4 obj ++ toLE 4 nbytes ++ slice tail 0 16))) := rfl
  rw [hsplit]
  refine ⟨fieldLE_append (pre := []) rfl, fieldLE_append (toLE_length 4 tag), ?_, ?_⟩
  · rw [← List.append_assoc (toLE 4 tag)]
    exact fieldLE_append (by simp)
  · have hend : toLE 4 tag ++ (toLE 1 c ++ (toLE 1 1 ++ ([ph, 0#8] ++ toLE 4 obj ++ toLE 4 nbytes ++ slice tail 0 16))) =
        (toLE 4 tag ++ toLE 1 c ++ toLE 1 1 ++ [ph, 0#8] ++ toLE 4 obj) ++ (toLE 4 nbytes ++ slice tail 0 16) := by
      simp only [List.append_assoc]
    rw [hend]
    exact fieldLE_append (by simp)

/-- A receive that its message has filled. -/
def filled (r : Recv) (p : Packet) : Recv :=
  { r with bytes := r.bytes + p.payload.length, donePk := r.donePk + 1, npk := some (p.offset / 8192 + 1), imm := p.aux }

/-- A receive of whose message nothing has come. -/
structure Recv.Fresh (r : Recv) : Prop where
  donePk : r.donePk = 0
  bad : r.bad = none
  abort : r.abort = none
  bytes : r.bytes = 0

theorem putRecv_filled {r : Recv} {rq : Rq} (hf : r.Fresh) (hoff : p.offset = 0) (hrq : smFind t.tr.rqs (rqOf (t.qp n)) = some rq) :
    putRecv t n (filled r p) = (recvEntry (t.setRq (rqOf (t.qp n)) { rq with recvs := rq.recvs.filter fun z => z.ssn != r.ssn }) n (filled r p) 0, true) := by
  have hcode : recvCode (filled r p) = some 0 := by simp [recvCode, filled, hf.abort, hf.bad, hf.donePk, hoff]
  simp only [putRecv, hrq, hcode]
  rfl

/-- A SEND of one packet, of at most one tile, for a receive that is posted: placed there, and the receive completes. -/
theorem applySend_placed {r : Recv} {rq : Rq} {pa : Nat} (hfind : findRecv t (t.qp n) p.ssn = some r)
    (hrq : smFind t.tr.rqs (rqOf (t.qp n)) = some rq) (hab : p.abort = false) (hoff : p.offset = 0) (hlast : p.last = true) (hf : r.Fresh)
    (hfit : p.payload.length ≤ r.len) (hone : OneTile t .trn rWrite (qpCtx (t.qp n).e.toNat) t.sq.opNo r.buf p.payload.length pa)
    (hp : piecesOf r.buf p.payload = p.pieces) (hn : (t.qp n).epsn = p.psn) (hd : (t.qp n).done = []) (now : Bool) :
    Stored t (applySend t n i p now) pa p.payload ∧ Moved n p.psn (applySend t n i p now) ∧
      (smFind (applySend t n i p now).tr.rqs (rqOf (t.qp n))).map (·.recvs) = some (rq.recvs.filter fun z => z.ssn != r.ssn) ∧
      ∃ v, OperandOnly t v ∧ (recvEntry (v.setRq (rqOf (t.qp n)) { rq with recvs := rq.recvs.filter fun z => z.ssn != r.ssn }) n (filled r p) 0).out <+:
        (applySend t n i p now).out := by
  obtain ⟨v, hv, hstored, honly, -⟩ := trnWrite_oneTile hone (ingressReq t i)
  have hqp : v.qp n = t.qp n := by rw [State.qp, honly]; rfl
  have hput := putRecv_filled (t := v) (n := n) (r := r) (p := p) (rq := rq) hf hoff (by rw [hqp, honly]; exact hrq)
  rw [hqp] at hput
  have hframe := recvEntry_frame (v.setRq (rqOf (t.qp n)) { rq with recvs := rq.recvs.filter fun z => z.ssn != r.ssn }) n (filled r p) 0
  have hfilled : ({ r with bytes := r.bytes + p.payload.length, donePk := r.donePk + 1, npk := some (p.offset / 8192 + 1), imm := p.aux } : Recv) = filled r p := rfl
  have hrun : applySend t n i p now =
      placed (recvEntry (v.setRq (rqOf (t.qp n)) { rq with recvs := rq.recvs.filter fun z => z.ssn != r.ssn }) n (filled r p) 0) n i p true := by
    simp only [applySend, hfind, hab, Bool.false_eq_true, if_false, show ¬ r.len < p.offset + p.payload.length by omega,
      show r.buf + p.offset = r.buf by rw [hoff, Nat.add_zero], hone.trnFault, hp, ne_eq, not_true_eq_false, hv, hlast, if_true, hfilled, hput,
      Bool.or_true]
  generalize hw : recvEntry (v.setRq (rqOf (t.qp n)) { rq with recvs := rq.recvs.filter fun z => z.ssn != r.ssn }) n (filled r p) 0 = x at *
  have hqx : x.qp n = t.qp n := by rw [State.qp, hframe.rest]; exact hqp
  have hsent := placed_sent x n i p true
  rw [hqx] at hsent
  rw [hrun]
  refine ⟨?_, hsent.moved hn hd, ?_, v, honly, hw ▸ hsent.out⟩
  · exact ((hstored.memSame fun _ => rfl).memSame hframe.byte).memSame hsent.memSame
  · rw [hsent.rqs, hframe.rest]
    exact congrArg (Option.map Rq.recvs) (smFind_smSet_self _ _ _)

/-! ### Refusals -/

/-- A refusal is counted, and its counters are all that its count changes. -/
theorem countRefused_counted (t : State) (c : Nat) : countRefused t c = { t with cnt := (countRefused t c).cnt } ∧
    Counted t (countRefused t c) F.TRN_REFUSED := by
  have hone := State.live_count_self (s := t) F.TRN_REFUSED 1
  unfold countRefused
  dsimp only
  split
  · exact ⟨rfl, (State.live_count_ne _ 1 (by decide)).trans hone⟩
  · split
    · exact ⟨rfl, (State.live_count_ne _ 1 (by decide)).trans hone⟩
    · exact ⟨rfl, hone⟩

theorem noteTotal_rest (q : Qp) (p : Packet) : ∃ m, noteTotal q p = { q with msgs := m } := by
  unfold noteTotal
  split
  · exact ⟨_, rfl⟩
  · exact ⟨_, rfl⟩

/-- A refusal of the next PSN stands in history. -/
theorem markDone_refusals {c : Nat} (hn : q.epsn = p.psn) (hd : q.done = []) (hr : q.refusals = [(p.psn, c)]) :
    (markDone q p).refusals = [(p.psn, c)] := by
  have hplace : psnPlace (markDone q p) p.psn < 8192 := by
    rw [psnPlace, (markDone_next hn hd).1]
    unfold psnSub psnAdd
    omega
  have hkept : (markDone q p).refusals = q.refusals.filter fun r => psnPlace (markDone q p) r.1 < 8192 := rfl
  rw [hkept, hr, List.filter_cons_of_pos (by simpa using hplace), List.filter_nil]

/-- A packet of no SEND that the queue pair expects next is refused: placed nowhere. -/
theorem refuse_next {c : Nat} (h3 : p.type ≠ 3) (hn : (t.qp n).epsn = p.psn) (hd : (t.qp n).done = []) (hr : (t.qp n).refusals = []) :
    Moved n p.psn (refuse t n i p c) ∧ MemSame t (refuse t n i p c) ∧ ((refuse t n i p c).qp n).refusals = [(p.psn, c)] ∧
      Counted t (refuse t n i p c) F.TRN_REFUSED ∧ (refuse t n i p c).sy = t.sy := by
  obtain ⟨hcnt, hcounted⟩ := countRefused_counted t c
  have hqp : (countRefused t c).qp n = t.qp n := by rw [hcnt]; rfl
  obtain ⟨m, hm⟩ := noteTotal_rest (t.qp n) p
  have hins (q : Qp) : insertRefusal q (p.psn, c) (noteTotal (t.qp n) p).refusals = [(p.psn, c)] := by rw [hm, hr]; rfl
  have hlist := markDone_refusals (q := { noteTotal (t.qp n) p with refusals := [(p.psn, c)] }) (p := p) (c := c) (by rw [hm]; exact hn) (by rw [hm]; exact hd) rfl
  have hrun : refuse t n i p c = sendAck ((countRefused t c).setQp n (markDone { noteTotal (t.qp n) p with refusals := [(p.psn, c)] } p)) n i p 0 0 := by
    simp only [refuse, h3, if_false, hqp, hins, hlist, List.length_singleton]
    exact if_neg (by simp)
  have hsent := sendAck_sent ((countRefused t c).setQp n (markDone { noteTotal (t.qp n) p with refusals := [(p.psn, c)] } p)) n i p 0 0
  rw [State.qp_setQp_self] at hsent
  refine hrun ▸ ⟨hsent.moved (by rw [hm]; exact hn) (by rw [hm]; exact hd), ?_, hsent.refusals.trans hlist, ?_, ?_⟩
  · refine MemSame.trans (fun _ => ?_) hsent.memSame
    rw [hcnt]
    rfl
  · exact (hsent.cnt _ (by decide)).trans hcounted
  · rw [hsent.sy, hcnt]
    rfl

/-! ### From the packet's arrival -/

theorem keyCheck_taken (ctx off len right : Nat) : keyCheck (taken s i p) ctx p off len right = keyCheck s ctx p off len right := by
  rw [taken_eq]
  rfl

theorem winAddr_taken (off : Nat) : winAddr (taken s i p) w off = winAddr s w off := by
  rw [taken_eq]
  rfl

theorem taken_memSame : MemSame s (taken s i p) := by
  rw [taken_eq]
  exact fun _ => rfl

theorem taken_live {f : RF} (hf : f.key ≠ F.TRN_RX_PKTS.key) : (taken s i p).live f = s.live f := by
  unfold taken
  split
  · exact State.live_count_ne (s := takeArrival s i p) 1 hf
  · rfl

theorem bytes_taken (a n : Nat) : (taken s i p).bytes a n = s.bytes a n := by
  unfold State.bytes
  exact List.map_congr_left fun j _ => taken_memSame _

theorem atomicNew_add (h : p.aux % 2 = 0) (old : Nat) : atomicNew p old = (old + fieldLE p.payload 0 8) % 2 ^ 64 := by
  simp [atomicNew, bit, Nat.testBit_zero, h]

theorem atomicNew_swap (h : p.aux % 2 = 1) (old : Nat) :
    atomicNew p old = if old = fieldLE p.payload 0 8 then fieldLE p.payload 8 8 else old := by
  simp [atomicNew, bit, Nat.testBit_zero, h]

theorem taken_counted (h : p.type ≤ 6) : Counted s (taken s i p) F.TRN_RX_PKTS := by
  rw [taken, if_pos h]
  exact State.live_count_self (s := takeArrival s i p) F.TRN_RX_PKTS 1

theorem taken_opNo : (taken s i p).sq.opNo = s.sq.opNo := by rw [taken_eq]

/-- A packet that R310 refuses, of any kind but SEND. -/
theorem rxApply_refused {off len right code x : Nat} (hk : keyCheck t (qpCtx (t.qp n).e.toNat) p off len right = (code, x)) (hc : code ≠ 0)
    (h : (p.type = 0 ∧ off = p.roff + p.offset ∧ len = p.payload.length ∧ right = rWrite) ∨
      (p.type = 1 ∧ off = p.roff + p.offset ∧ len = p.aux % 2 ^ 30 + 1 - p.offset ∧ 0 < len ∧ right = rRead) ∨
      (p.type = 4 ∧ off = p.roff ∧ len = 8 ∧ right = rAtomic) ∨ (p.type = 6 ∧ off = p.roff ∧ len = 1 ∧ right = rAtomic)) :
    rxApply t n i p [] false = refuse t n i p code := by
  obtain ⟨c, rfl⟩ := Nat.exists_eq_succ_of_ne_zero hc
  rcases h with ⟨ht, rfl, rfl, rfl⟩ | ⟨ht, rfl, rfl, hpos, rfl⟩ | ⟨ht, rfl, rfl, rfl⟩ | ⟨ht, rfl, rfl, rfl⟩
  · simp only [rxApply, ht, applyWrite, hk]
  · simp only [rxApply, ht, applyRead, show ¬ p.aux % 2 ^ 30 + 1 - p.offset = 0 by omega, if_false, hk, if_true]
  · simp only [rxApply, ht, applyAtomic, hk]
  · simp only [rxApply, ht, applySignal, hk]

end Reception

/-- Settles O45: what a packet that is expected next does at its target, by its kind, and what one that R310 refuses does. -/
theorem packetReception : Obligations.PacketReception := by
  intro s i p off len right n q ctx moved ha hexp
  have hqp : (taken s i p).qp n = q := taken_qp n
  have hn : ((taken s i p).qp n).epsn = p.psn := hqp ▸ hexp.next.symm
  have hd : ((taken s i p).qp n).done = [] := hqp ▸ hexp.none_done
  have hkey {off len right : Nat} {x : Nat × Nat} (h : keyCheck s ctx p off len right = x) :
      keyCheck (taken s i p) (qpCtx ((taken s i p).qp n).e.toNat) p off len right = x := by rw [hqp, keyCheck_taken]; exact h
  have hmoved {u : State} (h : Moved n p.psn u) : moved u := ⟨h.epsn, h.alone⟩
  have htile {right a len pa : Nat} (h : OneTile s .trn right ctx s.sq.opNo a len pa) :
      OneTile (taken s i p) .trn right (qpCtx ((taken s i p).qp n).e.toNat) (taken s i p).sq.opNo a len pa := by rw [hqp, taken_opNo]; exact h.taken
  refine ⟨?_, ?_, ?_, ?_, ?_, ?_⟩
  · intro hoff hlen ht w a pa hk hw hone hp
    subst hoff hlen
    obtain ⟨hstored, hmv, hcnt⟩ := applyWrite_placed (i := i) (hkey hk) ((winAddr_taken _).trans hw) (htile hone) hp hn hd false
    refine runs_expected rfl ha ht hexp ?_
    simp only [rxApply, ht]
    exact ⟨hstored.of_memSame taken_memSame, hmoved hmv, hcnt.trans (taken_counted (by omega))⟩
  · intro hoff ht w a pa hk hw hone old x
    subst hoff
    obtain ⟨hstored, hmv, hlast⟩ := applyAtomic_placed (i := i) (hkey hk) ((winAddr_taken _).trans hw) (htile hone) hn hd
    rw [bytes_taken] at hstored hlast
    refine runs_expected rfl ha ht hexp ?_
    simp only [rxApply, ht]
    have hst := hstored.of_memSame taken_memSame
    exact ⟨hmoved hmv, hlast, fun h => atomicNew_add h old ▸ hst, fun h => atomicNew_swap h old ▸ hst⟩
  · intro hoff ht hzero hlen _ w a pa hk hw hone
    subst hoff
    obtain ⟨hmem, hmv, x, he, hresp⟩ := applyRead_answered (i := i) hlen.symm hzero (hkey hk) ((winAddr_taken _).trans hw) (htile hone) hn hd
    rw [bytes_taken, hqp] at hresp
    rw [hqp] at he
    refine runs_expected rfl ha ht hexp ?_
    simp only [rxApply, ht]
    refine ⟨hmoved hmv, taken_memSame.trans hmem, _, hresp, rfl, rfl, ?_, rfl, rfl, ?_, rfl, rfl⟩
    · exact congrArg (fun e : BitVec 512 => qpRemoteQp e.toNat) he
    · simp [oneResponse, bytes_length]
  · intro ht hab hzero hlast hlen r rq pa hfind hrq hpk hbad hnoabort hbytes hfit hone hp
    subst hlen
    have hrqs : (taken s i p).tr.rqs = s.tr.rqs := by rw [taken_eq]
    obtain ⟨hstored, hmv, hrecvs, v, honly, hout⟩ := applySend_placed (i := i) (t := taken s i p) (n := n) (r := r) (rq := rq)
      (by rw [hqp, taken_eq]; exact hfind) (by rw [hqp, hrqs]; exact hrq) hab hzero hlast ⟨hpk, hbad, hnoabort, hbytes⟩ hfit (htile hone) hp hn hd false
    rw [hqp] at hrecvs hout
    refine runs_expected rfl ha ht hexp ?_
    simp only [rxApply, ht]
    refine ⟨hstored.of_memSame taken_memSame, hmoved hmv, hrecvs, fun c hown hc hup hwait hroom => ?_⟩
    have hpost : (v.setRq (rqOf q) { rq with recvs := rq.recvs.filter fun z => z.ssn != r.ssn }).qp n = q := by
      rw [State.qp, honly]
      exact hqp
    obtain ⟨htag, hcode, hsource, hcount⟩ := recvEntry_fields (filled r p).tag 0 n (filled r p).bytes (toLE 4 (filled r p).imm) (cqPhase c)
    refine ⟨_, hout.subset (recvEntry_out ?_ ?_ ?_ ?_ hwait hroom), htag, hcode, hsource, ?_⟩
    · rw [honly, taken_eq]
      exact ha
    · rw [hpost, honly, taken_eq]
      exact hown
    · rw [hpost, honly, taken_eq]
      exact hc
    · rw [honly, taken_eq]
      exact hup
    · have := hone.tile
      rw [hcount]
      simp only [filled, hbytes]
      omega
  · intro hoff ht w hk hw
    subst hoff
    refine runs_expected rfl ha ht hexp ?_
    rw [rxApply_signal ht, applySignal_sent (hkey hk) hw]
    refine ⟨hqp, taken_memSame, ?_⟩
    rw [taken_eq]
    rfl
  · intro c code x hc hk hcode hrefs
    have hkind : (p.type = 0 ∧ off = p.roff + p.offset ∧ len = p.payload.length ∧ right = rWrite) ∨
      (p.type = 1 ∧ off = p.roff + p.offset ∧ len = p.aux % 2 ^ 30 + 1 - p.offset ∧ 0 < len ∧ right = rRead) ∨
      (p.type = 4 ∧ off = p.roff ∧ len = 8 ∧ right = rAtomic) ∨ (p.type = 6 ∧ off = p.roff ∧ len = 1 ∧ right = rAtomic) :=
      hc.imp And.right (Or.imp And.right (Or.imp And.right And.right))
    have hne : p.type ≠ 3 := by rcases hkind with ⟨h, -⟩ | ⟨h, -⟩ | ⟨h, -⟩ | ⟨h, -⟩ <;> rw [h] <;> decide
    obtain ⟨hmv, hmem, hlist, hcnt, hsy⟩ := refuse_next (i := i) (c := code) hne hn hd (hqp ▸ hrefs)
    have hexec : exec c s = .next (rxAs s i p p.type []) := by
      rcases hc with ⟨rfl, h, -⟩ | ⟨rfl, h, -⟩ | ⟨rfl, h, -⟩ | ⟨rfl, h, -⟩ <;> rw [h] <;> rfl
    refine runs_expected hexec ha rfl hexp ?_
    rw [rxApply_refused (hkey hk) hcode hkind]
    refine ⟨hmoved hmv, taken_memSame.trans hmem, hlist, ?_, ?_⟩
    · rw [Counted, hcnt, taken_live (by decide)]
    · rw [hsy, taken_eq]

end Sys2Proof.Machine

/-! ## The next packet of a queue pair (R322, R331–R333, R373) -/

namespace Sys2Proof.Machine

section Source

variable {s v t : State} {req rights ctx no a n : Nat} {host bs : List Byte}

/-- The transport unit has read a source: no byte changes, nor any counter of its own. -/
structure SourceRead (s v : State) : Prop where
  rest : v = { s with cnt := v.cnt, mem := v.mem, sg := v.sg, free := v.free, out := v.out }
  mem : MemSame s v
  live : LiveAbove s v

theorem SourceRead.refl (s : State) : SourceRead s s := ⟨rfl, fun _ => rfl, .refl s⟩

theorem SourceRead.trans (h : SourceRead s t) (k : SourceRead t v) : SourceRead s v :=
  ⟨by rw [k.rest, h.rest], h.mem.trans k.mem, h.live.trans k.live⟩

theorem sourceRead_touched {req pa : Nat} (h : memRead s req pa n = (t, 0, bs)) : SourceRead s (touchPage t ctx no a n false) := by
  have hlines := memRead_passed h
  obtain ⟨honly, hmem⟩ := hlines.operandsRead.trans (operandsRead_touchPage t ctx no a n false)
  exact ⟨by rw [honly], hmem, hlines.liveAbove.trans (liveAbove_touchPage _)⟩

theorem trnReadCut_ok {ps : List (Nat × Nat)} (h : trnReadCut s req rights ctx no ps host = (v, .ok bs)) : SourceRead s v := by
  induction ps generalizing s host bs with
  | nil =>
    cases h
    exact .refl _
  | cons p ps ih =>
    obtain ⟨a, n⟩ := p
    rw [trnReadCut] at h
    split at h
    · split at h
      next t got hread =>
        split at h
        next hrest =>
          cases h
          exact (sourceRead_touched hread).trans (ih hrest)
        next => exact (sourceRead_touched hread).trans (ih h)
      next => cases h
    · have hemit (o : Output) : SourceRead s (s.emit o) := ⟨rfl, fun _ => rfl, fun _ _ => rfl⟩
      split at h
      next hrest =>
        cases h
        exact (hemit _).trans (ih hrest)
      next => exact (hemit _).trans (ih h)
    · cases h
    · cases h

theorem trnFault_ne_ok {g : Got} (h : trnFault s rights ctx no a n = some g) : g ≠ .ok bs := by
  obtain ⟨p, -, hp⟩ := List.exists_of_findSome?_eq_some h
  split at hp <;> cases hp <;> exact Got.noConfusion

theorem trnRead_ok (h : trnRead s req rights ctx no a n host = (v, .ok bs)) : SourceRead s v := by
  unfold trnRead at h
  split at h
  next hfault =>
    cases h
    exact absurd rfl (trnFault_ne_ok hfault)
  next => exact trnReadCut_ok h

end Source

section Job

variable {s v : State} {n : Nat} {q : Qp} {o : Op} {rest : List Op}

/-- The first operation of a queue pair has a packet to send, and nothing is to be sent again. -/
structure Sends (q : Qp) (o : Op) (rest : List Op) : Prop where
  ops : q.ops = o :: rest
  fresh : q.resend = []
  going : o.code = none
  abort : o.abort = none
  more : o.sent < opPkts o.d.w

theorem Sends.nextJob (h : Sends q o rest) : nextJob q = some (0, o.sent, false) := by
  have hsend : o.sent < o.toSend := by simpa [Op.toSend, h.abort, h.going] using h.more
  simp [Machine.nextJob, h.fresh, h.ops, List.range_succ_eq_map, hsend]

/-- The queue pair as its first operation has sent one packet more. -/
def sentQp (s : State) (q : Qp) (o : Op) (rest : List Op) : Qp :=
  let send := dKind o.d.w == 10 && o.sent == 0
  let o := { o with
    sent := o.sent + 1, first := if o.sent = 0 then q.nextPsn else o.first, ssn := if send then q.nextSsn else o.ssn }
  { q with
    ops := o :: rest, nextPsn := psnAdd q.nextPsn 1, nextSsn := if send then (q.nextSsn + 1) % 2 ^ 24 else q.nextSsn,
    timer := if anyWaits q then q.timer else some (retryAt s) }

theorem noteSent_sends (h : Sends (s.qp n) o rest) : noteSent s n 0 (s.qp n).nextPsn false = s.setQp n (sentQp s (s.qp n) o rest) := by
  simp only [noteSent, h.ops, List.getElem?_cons_zero, Bool.false_eq_true, if_false, List.modify_zero_cons]
  by_cases hw : anyWaits (s.qp n) = true <;> simp [hw, sentQp]

/-- The first operation's next packet, as it goes on its way. -/
def nextPacket (s : State) (n : Nat) (o : Op) (bs : List Byte) : Packet :=
  { opPacket s n o o.sent (s.qp n).nextPsn (smGet (s.qp n).tries (s.qp n).nextPsn 0) bs with txc := (s.qp n).txc }

/-- What the next packet of operation `o` carries. -/
structure Carries (s : State) (n : Nat) (o : Op) (bs : List Byte) (p : Packet) : Prop where
  psn : p.psn = (s.qp n).nextPsn
  txc : p.txc = (s.qp n).txc
  sqp : p.sqp = n
  dqp : p.dqp = qpRemoteQp (s.qp n).e.toNat
  dstEp : p.dstEp = qpRemoteEp (s.qp n).e.toNat
  srcEp : p.srcEp = s.get F.TRN_ID_ENDPOINT
  stamp : p.stamp = s.tk.num % 65536
  tc : p.tc = qpTc (s.qp n).e.toNat
  enc : p.enc = false
  ptr : p.ptr = 0
  last : p.last = true ↔ o.sent + 1 = opPkts o.d.w
  payload : dKind o.d.w ≠ 11 → p.payload = bs
  kind : p.type ≤ 6

theorem nextPacket_carries {bs : List Byte} (h : Sends q o rest) (hbs : readsSource o o.sent = false → bs = []) :
    Carries s n o bs (nextPacket s n o bs) := by
  have hone (h8 : dKind o.d.w ≠ 8) (h10 : dKind o.d.w ≠ 10) : o.sent + 1 = opPkts o.d.w ∧ bs = [] := by
    refine ⟨?_, hbs (by simp [readsSource, h8, h10])⟩
    have hmore := h.more
    simp only [opPkts, h8, h10, decide_false, Bool.or_self, Bool.false_eq_true, if_false] at hmore ⊢
    omega
  unfold nextPacket opPacket
  simp only [h.abort]
  split
  next hk => refine ⟨rfl, rfl, rfl, rfl, rfl, rfl, rfl, rfl, rfl, rfl, by simp, fun _ => rfl, by simp [pktFrom]⟩
  next hk =>
    obtain ⟨hlast, hnil⟩ := hone (by rw [hk]; decide) (by rw [hk]; decide)
    refine ⟨rfl, rfl, rfl, rfl, rfl, rfl, rfl, rfl, rfl, rfl, by simpa using hlast, fun _ => hnil.symm, by simp [pktFrom]⟩
  next hk => refine ⟨rfl, rfl, rfl, rfl, rfl, rfl, rfl, rfl, rfl, rfl, by simp, fun _ => rfl, by simp [pktFrom]⟩
  next hk =>
    obtain ⟨hlast, hnil⟩ := hone (by rw [hk]; decide) (by rw [hk]; decide)
    refine ⟨rfl, rfl, rfl, rfl, rfl, rfl, rfl, rfl, rfl, rfl, by simpa using hlast, fun h11 => absurd hk h11, by simp [pktFrom]⟩
  next h8 h9 h10 h11 =>
    obtain ⟨hlast, hnil⟩ := hone h8 h10
    refine ⟨rfl, rfl, rfl, rfl, rfl, rfl, rfl, rfl, rfl, rfl, by simpa using hlast, fun _ => hnil.symm, by simp [pktFrom]⟩

/-- The queue pair as a packet of it has started at `ns`. -/
def startedQp (v : State) (q : Qp) (o : Op) (rest : List Op) (ns : Nat) (p : Packet) : Qp :=
  { sentQp v q o rest with txc := q.txc + 1, nextAt := ns + cdiv (80 * frameLen p) (qpRate v q) }

/-- The adapter as the packet goes on its way. -/
def started (v : State) (n : Nat) (o : Op) (rest : List Op) (ns : Nat) (p : Packet) : State :=
  paced ((((v.setQp n (sentQp v (v.qp n) o rest)).setQp n { sentQp v (v.qp n) o rest with txc := (v.qp n).txc + 1 }).count F.TRN_TX_PKTS)) n ns p

theorem started_qp (ns : Nat) (p : Packet) : (started v n o rest ns p).qp n = startedQp v (v.qp n) o rest ns p := by
  unfold started paced
  rw [State.qp_setQp_self]
  have h (t : State) (x : Qp) : ((t.setQp n x).count F.TRN_TX_PKTS).qp n = x := t.qp_setQp_self n x
  rw [h]
  rfl

theorem started_rest (ns : Nat) (p : Packet) : started v n o rest ns p =
    { v with cnt := (started v n o rest ns p).cnt, tr := { v.tr with qps := (started v n o rest ns p).tr.qps } } := rfl

theorem finishPacket_clear {t : State} {Q : Qp} (h : t.qp n = Q) (hc : qpEnc Q.e.toNat = false) (p : Packet) :
    finishPacket t n p = ((t.setQp n { Q with txc := Q.txc + 1 }).count F.TRN_TX_PKTS, { p with txc := Q.txc }) := by
  subst h
  simp only [finishPacket, hc, Bool.false_eq_true, if_false]

/-- The next packet of the queue pair leaves. -/
theorem transmit_sends {ns : Nat} {way : Way} {host bs : List Byte} (h : Sends (s.qp n) o rest) (hst : (s.qp n).st = 3)
    (hcached : (s.qp n).cached = true) (hmay : mayStart s n ns = true) (hresp : (s.qp n).resp = []) (hclear : qpEnc (s.qp n).e.toNat = false)
    (hwin : windowOpen (s.qp n) = true)
    (hway : wayTo s (qpRemoteEp (s.qp n).e.toNat) (npathOf (s.qp n).e.toNat) ((s.qp n).nextPsn + smGet (s.qp n).tries (s.qp n).nextPsn 0) = way)
    (hon : (∃ k, way = .peer k) ∨ ∃ w, way = .path w)
    (hread : readsSource o o.sent = true →
      trnRead s (wayReq s way) rRead (dCtx o.d.w) o.d.no (dLocal o.d.w + 8192 * o.sent) (pktLen o.d.w o.sent) host = (v, .ok bs))
    (hnone : readsSource o o.sent = false → v = s ∧ bs = []) (hv : SourceRead s v) :
    transmit s n ns host false = sendWay (started v n o rest ns (nextPacket v n o bs)) (nextPacket v n o bs) way := by
  have hqp : v.qp n = s.qp n := by rw [State.qp, hv.rest]; rfl
  have hgot : (if readsSource o o.sent then
      trnRead s (wayReq s way) rRead (dCtx o.d.w) o.d.no (dLocal o.d.w + 8192 * o.sent) (pktLen o.d.w o.sent) host
      else (s, .ok [])) = (v, .ok bs) := by
    cases hsrc : readsSource o o.sent with
    | true => exact hread hsrc
    | false =>
      obtain ⟨rfl, rfl⟩ := hnone hsrc
      rfl
  have hemit : transmit s n ns host false = emitPacket s n 0 o.sent (s.qp n).nextPsn ns false way host false := by
    rw [transmit, if_neg (by simp [hst, hcached, hmay])]
    simp only [hresp, hst, if_true, transmitOp, h.nextJob, Bool.not_false, Bool.true_and, hwin, Bool.not_true, Bool.false_eq_true, if_false, h.ops,
      List.getElem?_cons_zero, hway]
    rcases hon with ⟨k, rfl⟩ | ⟨w, rfl⟩ <;> rfl
  have hnote := noteSent_sends (s := v) (n := n) (hqp ▸ h)
  rw [hqp] at hnote
  rw [hemit]
  simp only [emitPacket, h.ops, List.getElem?_cons_zero, hclear, Bool.false_and, Bool.false_eq_true, if_false, hgot, hnote]
  rw [finishPacket_clear (v.qp_setQp_self n _) (by exact hclear)]
  simp only [started, nextPacket, hqp]
  rfl

/-! ### Where it goes -/

theorem frameLen_path (p : Packet) (h x : Nat) : frameLen { p with hops := h, path := x, ptr := 0 } = frameLen p := by
  simp [frameLen, frameBytes, packetBytes, routeBytes, hdrBytes, ackBody]

theorem wayTo_path {s : State} {ep npath j w : Nat} (h : wayTo s ep npath j = .path w) : slotDown s w = false := by
  unfold wayTo at h
  split at h
  · split at h
    · cases h
    · split at h <;> cases h
  · split at h
    · cases h
    · dsimp only at h
      split at h
      · cases h
      · split at h
        next k hk =>
          cases h
          have hup := List.find?_some hk
          simpa using hup
        next => cases h

theorem ceMark_off {t : State} {e c q : Nat} (h : bit (t.get (F.FAB_MARK_CE_EN e)) c = false) : ceMark t e c q = (t, false) := by
  simp [ceMark, h]

/-- A frame of the adapter's own, unmarked, goes to the tail of its class. -/
theorem putFrame_own {t : State} {e : Nat} {f : Frame} (hi : f.ingress = 32) (hm : bit (t.get (F.FAB_MARK_CE_EN e)) f.cls = false) :
    putFrame t e f = t.setPort e ((t.port e).setCls f.cls ((t.port e).cls f.cls ++ [f])) := by
  simp only [putFrame, ceMark_off hm, ite_self, Bool.false_eq_true, if_false, hi, pfcRise_own]

theorem cls_setCls_self (x : Port) (c : Nat) (fs : List Frame) : (x.setCls c fs).cls c = fs := smGet_smPut_self _ _ _ _

theorem port_setPort_self (t : State) (e : Nat) (x : Port) : (t.setPort e x).port e = x := smGet_smSet_self _ _ _ _

/-- A packet of the adapter's own, over a port whose link is up and whose buffer has room, goes to the tail of its class. -/
theorem sendLocal_tail {t : State} {p : Packet} (hup : egressOk t (hopOf p.path 0) = true) (hwait : (t.port (hopOf p.path 0)).wait = [])
    (hroom : (t.port (hopOf p.path 0)).buffered + frameLen p ≤ bufferSize) (hm : bit (t.get (F.FAB_MARK_CE_EN (hopOf p.path 0))) p.tc = false) :
    ((sendLocal t p 32).port (hopOf p.path 0)).cls p.tc =
      (t.port (hopOf p.path 0)).cls p.tc ++ [⟨p.tc, frameLen p, { p with ptr := 1 }, false, 32⟩] := by
  have henq : enqueue t (hopOf p.path 0) ⟨p.tc, frameLen p, { p with ptr := 1 }, false, 32⟩ =
      putFrame t (hopOf p.path 0) ⟨p.tc, frameLen p, { p with ptr := 1 }, false, 32⟩ := by
    rw [enqueue, if_pos (by rw [hwait]; simpa [waitsBehind] using hroom)]
  rw [sendLocal, if_neg (by rw [hup]; decide), henq, putFrame_own rfl hm, port_setPort_self, cls_setCls_self]


theorem SourceRead.qp (h : SourceRead s v) (n : Nat) : v.qp n = s.qp n := by rw [State.qp, h.rest]; rfl

theorem Carries.of_source {bs : List Byte} {p : Packet} (h : Carries v n o bs p) (hv : SourceRead s v) : Carries s n o bs p where
  psn := by rw [h.psn, hv.qp]
  txc := by rw [h.txc, hv.qp]
  sqp := h.sqp
  dqp := by rw [h.dqp, hv.qp]
  dstEp := by rw [h.dstEp, hv.qp]
  srcEp := by rw [h.srcEp, hv.rest]; rfl
  stamp := by rw [h.stamp, hv.rest]
  tc := by rw [h.tc, hv.qp]
  enc := h.enc
  ptr := h.ptr
  last := h.last
  payload := h.payload
  kind := h.kind

theorem Carries.onPath {bs : List Byte} {p : Packet} (h : Carries s n o bs p) (hops path : Nat) :
    Carries s n o bs { p with hops := hops, path := path, ptr := 0 } :=
  ⟨h.psn, h.txc, h.sqp, h.dqp, h.dstEp, h.srcEp, h.stamp, h.tc, h.enc, rfl, h.last, h.payload, h.kind⟩

/-- What a packet sent leaves of its queue pair, of the counters and of memory, over whatever way. -/
structure PacketSent (s : State) (n : Nat) (o : Op) (rest : List Op) (ns : Nat) (p : Packet) (u : State) : Prop where
  nextPsn : (u.qp n).nextPsn = psnAdd (s.qp n).nextPsn 1
  txc : (u.qp n).txc = (s.qp n).txc + 1
  epsn : (u.qp n).epsn = (s.qp n).epsn
  tail : (u.qp n).ops.tail = rest
  head : ((u.qp n).ops.map (·.sent)).head? = some (o.sent + 1)
  nextAt : (u.qp n).nextAt = ns + cdiv (80 * frameLen p) (qpRate s (s.qp n))
  timer : (u.qp n).timer = if anyWaits (s.qp n) then (s.qp n).timer else some (retryAt s)
  counted : Counted s u F.TRN_TX_PKTS
  mem : MemSame s u

theorem packetSent {ns : Nat} {p p' : Packet} {way : Way} (hv : SourceRead s v) (hlen : frameLen p' = frameLen p) :
    PacketSent s n o rest ns p' (sendWay (started v n o rest ns p) p way) := by
  have hsent := waySent_sendWay (started v n o rest ns p) p way
  have hqp := (hsent.qp n).trans (started_qp ns p)
  rw [hv.qp] at hqp
  have hretry : retryAt v = retryAt s := by rw [hv.rest]; rfl
  have hrate : qpRate v (s.qp n) = qpRate s (s.qp n) := by rw [hv.rest]; rfl
  refine ⟨by rw [hqp]; rfl, by rw [hqp]; rfl, by rw [hqp]; rfl, by rw [hqp]; rfl, by rw [hqp]; rfl, ?_, ?_, ?_, ?_⟩
  · rw [hqp, hlen, ← hrate]
    rfl
  · rw [hqp, ← hretry]
    rfl
  · rw [Counted, hsent.cnt _ (by decide), ← hv.live F.TRN_TX_PKTS (by decide)]
    exact State.live_count_self (s := v) F.TRN_TX_PKTS 1
  · refine hv.mem.trans fun b => ?_
    rw [State.byte, hsent.mem, hsent.rest]
    rfl

theorem started_live {ns : Nat} {p : Packet} (hv : SourceRead s v) {f : RF} (hf : 0x500000 ≤ f.off) (hne : f.key ≠ F.TRN_TX_PKTS.key) :
    (started v n o rest ns p).live f = s.live f :=
  (State.live_count_ne (s := v) 1 hne).trans (hv.live f hf)

theorem sentTo_peer {ns k : Nat} {p : Packet} (hv : SourceRead s v) :
    (sendWay (started v n o rest ns p) p (.peer k)).out = v.out ++ peerOut s k p ∧
      Counted s (sendWay (started v n o rest ns p) p (.peer k)) F.HOST_PEER_FRAMES_TX := by
  have hpeer : peerOut v k p = peerOut s k p := by rw [hv.rest]; rfl
  rw [sendWay_peer]
  refine ⟨congrArg (v.out ++ ·) hpeer, ?_⟩
  rw [Counted, ← started_live (n := n) (o := o) (rest := rest) (ns := ns) (p := p) hv (f := F.HOST_PEER_FRAMES_TX) (by decide) (by decide)]
  exact State.live_count_self (s := { started v n o rest ns p with
    out := (started v n o rest ns p).out ++ peerOut (started v n o rest ns p) k p,
    ho := { (started v n o rest ns p).ho with
      sentTo := smSet (started v n o rest ns p).ho.sentTo k ((smGet (started v n o rest ns p).ho.sentTo k 0 + 1) % 2 ^ 32) } }) F.HOST_PEER_FRAMES_TX 1

theorem sentTo_self {t : State} {w : Nat} {p : Packet} (hw : slotHops w = 0) (hp : p.dstEp = t.get F.TRN_ID_ENDPOINT) :
    (sendWay t p (.path w)).tr.arrivals = t.tr.arrivals ++ [(.loopback, { p with hops := slotHops w, path := slotPath w, ptr := 0 })] := by
  simp only [sendWay, hw, if_true, hp]

theorem sentTo_hop {t : State} {w : Nat} (hw : slotHops w ≠ 0) (p : Packet) :
    sendWay t p (.path w) = sendLocal t { p with hops := slotHops w, path := slotPath w, ptr := 0 } 32 := by
  simp only [sendWay, hw, if_false]

theorem slotDown_up {t : State} {w : Nat} (h : slotDown t w = false) (hw : slotHops w ≠ 0) : egressOk t (hopOf (slotPath w) 0) = true := by
  have hpos : 1 ≤ slotHops w := Nat.one_le_iff_ne_zero.2 hw
  simp only [slotDown, Bool.or_eq_false_iff, Bool.and_eq_false_imp, decide_eq_true_eq, Bool.not_eq_false'] at h
  exact h.2 hpos

end Job

/-- Settles O43: the next packet of a queue pair whose operation has one to send, over each way. -/
theorem packetTransmission : Obligations.PacketTransmission := by
  intro s v n ns o rest way host bs q e src ha hst hcached hmay hresp hfresh hclear hops hcode habort hmore hwin hway hread hnone hon
  have hs : Sends (s.qp n) o rest := ⟨hops, hfresh, hcode, habort, hmore⟩
  have hv : SourceRead s v := by
    cases hsrc : src with
    | true => exact trnRead_ok (hread hsrc)
    | false =>
      obtain ⟨rfl, -⟩ := hnone hsrc
      exact .refl _
  have hrun := transmit_sends (ns := ns) hs hst hcached hmay hresp hclear hwin hway hon hread hnone hv
  have hc := (nextPacket_carries (s := v) (n := n) hs fun h => (hnone h).2).of_source hv
  have hexec : exec (.trnPacketTransmit n ns host false) s = .next (settle (sendWay (started v n o rest ns (nextPacket v n o bs)) (nextPacket v n o bs) way)) := by
    rw [← hrun]
    exact congrArg Host.Outcome.next (if_pos ha)
  refine ⟨_, hexec, ?_⟩
  rcases hon with ⟨k, rfl⟩ | ⟨w, rfl⟩
  · have hp := packetSent (n := n) (o := o) (rest := rest) (ns := ns) (way := .peer k) hv (rfl : frameLen (nextPacket v n o bs) = _)
    refine ⟨nextPacket v n o bs, hp.nextPsn, hp.txc, hp.epsn, hp.tail, hp.head, hp.nextAt, hp.timer, hc.psn, hc.txc, hc.sqp, hc.dqp, hc.dstEp, hc.srcEp,
      hc.stamp, hc.tc, hc.enc, hc.ptr, hc.last, hc.payload, hp.counted, hp.mem, fun k' hk => ?_, fun w hw => (by cases hw)⟩
    cases hk
    exact sentTo_peer hv
  · have hp := packetSent (n := n) (o := o) (rest := rest) (ns := ns) (way := .path w) hv (frameLen_path (nextPacket v n o bs) (slotHops w) (slotPath w))
    have hc' := hc.onPath (slotHops w) (slotPath w)
    refine ⟨{ nextPacket v n o bs with hops := slotHops w, path := slotPath w, ptr := 0 }, hp.nextPsn, hp.txc, hp.epsn, hp.tail, hp.head, hp.nextAt,
      hp.timer, hc'.psn, hc'.txc, hc'.sqp, hc'.dqp, hc'.dstEp, hc'.srcEp, hc'.stamp, hc'.tc, hc'.enc, hc'.ptr, hc'.last, hc'.payload, hp.counted, hp.mem,
      fun k hk => (by cases hk), fun w' hw => ?_⟩
    cases hw
    refine ⟨rfl, rfl, fun h0 hself => ?_, fun h0 => ?_⟩
    · have hself' : (nextPacket v n o bs).dstEp = (started v n o rest ns (nextPacket v n o bs)).get F.TRN_ID_ENDPOINT := by
        rw [hc.dstEp, started_rest, hv.rest]
        exact hself
      rw [sentTo_self h0 hself', started_rest, hv.rest]
    · intro x hwait hroom hm
      have hport : (started v n o rest ns (nextPacket v n o bs)).port x = s.port x := by rw [started_rest, hv.rest]; rfl
      have hup : egressOk (started v n o rest ns (nextPacket v n o bs)) x = true := by
        rw [started_rest, hv.rest]
        exact slotDown_up (wayTo_path hway) h0
      rw [sentTo_hop h0]
      refine (sendLocal_tail hup (by rw [hport]; exact hwait) (by rw [hport]; exact hroom) ?_).trans (by rw [hport])
      have hget (f : RF) : (started v n o rest ns (nextPacket v n o bs)).get f = s.get f := by rw [started_rest, hv.rest]; rfl
      exact (congrArg (fun m => bit m _) (hget _)).trans hm

end Sys2Proof.Machine

/-! ## Results of the cipher engine (R466, R476) -/

namespace Sys2Proof.Machine

section Cipher

variable {s v : State} {e : Nat} {r q : Run}

theorem gcmXor_length (key : BitVec 256) (nonce : List Byte) (off : Nat) (bs : List Byte) : (gcmXor key nonce off bs).length = bs.length := by
  simp [gcmXor]

/-- The key stream XORed twice cancels. -/
theorem gcmXor_gcmXor (key : BitVec 256) (nonce : List Byte) (off : Nat) (bs : List Byte) : gcmXor key nonce off (gcmXor key nonce off bs) = bs := by
  refine List.ext_getElem (by simp only [gcmXor_length]) fun k _ hk => ?_
  simp [gcmXor, hk]

theorem writeCut_en (s : State) (w : Who) (req ctx no : Nat) (ps : List (Nat × List Byte)) : (writeCut s w req ctx no ps).1.en = s.en := by
  induction ps generalizing s with
  | nil => rfl
  | cons p ps ih =>
    obtain ⟨a, bs⟩ := p
    rw [writeCut]
    split
    next pa _ =>
      have hwrite (c : Nat) (t : State) (h : memWrite s req pa bs = (t, c)) : t.en = s.en := by
        rw [← (memWrite_frame s req pa bs).1.en, h]
      split
      next t ht =>
        obtain ⟨g, hg⟩ := touchPage_eq t ctx no a bs.length true
        rw [ih, hg]
        exact hwrite 0 t ht
      next t c _ ht => exact (ih t).trans (hwrite c t ht)
    · rfl
    · rfl

theorem writeOp_en (s : State) (w : Who) (req ctx no a : Nat) (bs : List Byte) : (writeOp s w req ctx no a bs).1.en = s.en := by
  unfold writeOp
  split
  · rfl
  · exact writeCut_en _ _ _ _ _ _

/-- One output tile, read and enciphered, changes no engine's state. -/
theorem ceTile_en {t u : State} {bs : List Byte} {ctx no a n x : Nat} {rs : List (Nat × Nat)} {y out : List Byte} {g : Got}
    (hread : readOp s .engine e ctx no x n = (t, .ok bs)) (hfree : (if rs = [] then (t, y) else freeBytes t rs a y) = (u, out))
    (hwrite : writeOp u .engine e ctx no a out = (v, g)) : v.en = s.en := by
  have ht : t.en = s.en := (readOp_ok hread).only.en
  have hu : u.en = t.en := by
    split at hfree
    · cases hfree; rfl
    · rw [← (operandsRead_freeBytes t rs a y).only.en, hfree]
  have hv := writeOp_en u .engine e ctx no a out
  rw [hwrite] at hv
  exact hv.trans (hu.trans ht)

/-- Tiles that are released change no engine's state. -/
theorem ceRelease_passed {bad : Option Nat} {k : Nat} (h : ceRelease s e bad k r = (v, q, none)) : v.en = s.en := by
  fun_induction ceRelease s e bad k r with
  | case1 => cases h; rfl
  | case2 => cases h; rfl
  | case3 => cases h
  | case4 =>
    rename_i hread _ _ _ _ _ hfree _ _ hwrite ih
    exact (ih h).trans (ceTile_en hread hfree hwrite)
  | case5 => cases h
  | case6 => cases h

/-- The engine's one pipe of direction `dir` goes on with the run. -/
theorem cePipe_runs {dir : Bool} (he : e < nEng s) (hk : e % 4 = 2) (hf : s.engFenced e = false) (hrun : (s.engine e).run = some r)
    (hpark : r.park = none) (hdir : ceDir r.d.w = dir) : cePipe s e dir none = ceRun s e r none := by
  rw [cePipe, if_neg (by simp [he, hk, hf])]
  simp only [hrun, hpark, hdir, Option.isNone_none, beq_self_eq_true, Bool.and_self, if_true]

theorem ceRun_ends {u : State} {code : Nat} (hk : dKind q.d.w = 2) (hen : u.en.ended = s.en.ended) (hu : ceRun s e r none = endRun u e q code) :
    (ceRun s e r none).en.ended = s.en.ended ++ [⟨q.d, code⟩] ∧ ((ceRun s e r none).engine e).run = none := by
  obtain ⟨hrun, hended⟩ := endRun_ends u e (r := q) code (by rw [hk]; decide)
  rw [hu]
  exact ⟨hended.trans (by rw [hen]), hrun⟩

/-- An encryption whose tiles are released writes its tag and ends. -/
theorem ceRun_encrypted (hdir : ceDir r.d.w = false) (hrel : ceRelease s e none ((ceTiles r).length + 1) r = (v, q, none)) (hq : q.d = r.d) :
    ∃ u, u.en = s.en ∧ ceRun s e r none = endRun u e q 0 := by
  have hdq : ceDir q.d.w = false := hq ▸ hdir
  refine ⟨writeRec v q.d (recAddr q.d.w 1 + 0x20) (gcmTag (ceKeyOf q) (ceNonce (ceRec q)) (ceAadOf q) (ceText q)), ?_, ?_⟩
  · exact (writeRec_frame v q.d q.d.w 1 _ (by decide)).1.en.trans (ceRelease_passed hrel)
  · simp only [ceRun, hdir, Bool.false_and, Bool.false_eq_true, if_false, ceFinish, hrel, hdq]

/-- A decryption whose second GHASH is the first ends. -/
theorem ceRun_decrypted (hdir : ceDir r.d.w = true) (hpass : r.acc.getD 1 0 = 1)
    (hrel : ceRelease s e none ((ceTiles r).length + 1) r = (v, q, none)) (hq : q.d = r.d)
    (hhash : ghash (ceKeyOf q) (ceAadOf q) (ceText q) = q.acc.getD 2 0) : ceRun s e r none = endRun v e q 0 := by
  have hdq : ceDir q.d.w = true := hq ▸ hdir
  simp only [ceRun, hdir, hpass, Bool.true_and, show ((1 : Nat) == 0) = false from rfl, Bool.false_eq_true, if_false, ceFinish, hrel, hdq, if_true, hhash]

/-- The first pass of a decryption finds a tag that does not match. -/
theorem ceRun_refused {ct : List Byte} (hdir : ceDir r.d.w = true) (hpass : r.acc.getD 1 0 = 0)
    (hread : readOp s .engine e (dCtx r.d.w) r.d.no (ceSrc r.d.w) (ceLen (ceRec r)) = (v, .ok ct))
    (htag : gcmTag (ceKeyOf r) (ceNonce (ceRec r)) (ceAadOf r) ct ≠ ceTag (ceRec r)) :
    ceRun s e r none = endRun (v.count (F.CE_AUTH_FAIL (e / 4))) e r 0x70 := by
  simp only [ceRun, hdir, hpass, beq_self_eq_true, Bool.and_self, if_true, Option.bind_none, Option.getD_none, hread, Option.isSome_none,
    Bool.false_eq_true, if_false, htag, ceAuthFail]

/-- A cipher descriptor that ends writes DONE and no other byte. -/
theorem endRun_done (s : State) (e : Nat) {code : Nat} (hk : dKind r.d.w = 2) : MemBut s (endRun s e r code) (recAddr r.d.w 1 + 0x3C) 4 := by
  obtain ⟨m, f, hbusy⟩ := countBusy_eq (s.setEngine e { s.engine e with run := none }) r.d.eng r.cost code
  have hframe := (writeRec_frame (countBusy (s.setEngine e { s.engine e with run := none }) r.d.eng r.cost code) r.d r.d.w 1 (toLE 4 r.pos)
    (by decide : 0x3C < 128)).2
  rw [toLE_length] at hframe
  have hnote (t : State) : noteCode t 2 (r.d.eng / 4) code = t := by
    unfold noteCode
    split <;> rfl
  have hend : endRun s e r code =
      (writeRec (countBusy (s.setEngine e { s.engine e with run := none }) r.d.eng r.cost code) r.d (recAddr r.d.w 1 + 0x3C) (toLE 4 r.pos)).endDesc r.d code := by
    simp [endRun, finishRun, finishDesc, runTail, hk, recWord, hnote]
  rw [hend]
  refine fun b hb => (hframe b hb).trans ?_
  rw [hbusy]
  rfl

end Cipher

/-- Settles O36: the results of the cipher engine's runs, and that deciphering inverts enciphering. -/
theorem cipherResult : Obligations.CipherResult := by
  refine ⟨fun key nonce text off => gcmXor_gcmXor key nonce off text, ?_⟩
  intro s v e r q ct d rd key ha he hk hf hrun hpark hkind
  refine ⟨fun hdir hrel hq => ?_, fun hdir hpass hread htag => ?_, fun hdir hpass hrel hq hhash => ?_⟩
  · obtain ⟨u, hen, hu⟩ := ceRun_encrypted hdir hrel hq
    refine ⟨ceRun s e r none, ?_, hq ▸ ceRun_ends (hq ▸ hkind) (by rw [hen]) hu⟩
    rw [← cePipe_runs he hk hf hrun hpark hdir]
    exact congrArg Host.Outcome.next (if_pos ha)
  · have hu := ceRun_refused hdir hpass hread htag
    have hread' := readOp_ok hread
    obtain ⟨hended, hgone⟩ := ceRun_ends hkind (show (v.count (F.CE_AUTH_FAIL (e / 4))).en.ended = s.en.ended by exact congrArg Eng.ended hread'.only.en) hu
    refine ⟨ceRun s e r none, ?_, hended, hgone, ?_⟩
    · rw [← cePipe_runs he hk hf hrun hpark hdir]
      exact congrArg Host.Outcome.next (if_pos ha)
    · rw [hu]
      exact fun b hb => (endRun_done _ e hkind b hb).trans (hread'.mem b)
  · refine ⟨ceRun s e r none, ?_, hq ▸ ceRun_ends (hq ▸ hkind) (by rw [ceRelease_passed hrel]) (ceRun_decrypted hdir hpass hrel hq hhash)⟩
    rw [← cePipe_runs he hk hf hrun hpark hdir]
    exact congrArg Host.Outcome.next (if_pos ha)

end Sys2Proof.Machine

/-! ## Links, PORT_CFG, pauses and the watchdog (R408, R409, R414–R418) -/

namespace Sys2Proof.Machine

section Status

variable {s t u : State} {n : Nat}

/-- PORT_STATUS shows an event. -/
structure PortEvent (s u : State) (n last : Nat) : Prop where
  last : u.get (F.PORT_STATUS_LAST n) = last
  seq : u.get (F.PORT_STATUS_SEQ n) = seqNext (s.get (F.PORT_STATUS_SEQ n))

theorem portEvent_bump {x : Nat} (hx : x < 8) (hseq : t.get (F.PORT_STATUS_SEQ n) = s.get (F.PORT_STATUS_SEQ n)) :
    PortEvent s ((t.set (F.PORT_STATUS_LAST n) x).bump (F.PORT_STATUS_SEQ n)) n x where
  last := by
    rw [State.get_bump_apart _ (by simp [F.PORT_STATUS_LAST]) (by simp [F.PORT_STATUS_LAST, F.PORT_STATUS_SEQ]),
      State.get_set_self _ _ (by simp [F.PORT_STATUS_LAST])]
    exact Nat.mod_eq_of_lt hx
  seq := by
    rw [State.get_bump_seq _ rfl (by simp [F.PORT_STATUS_SEQ]),
      State.get_set_apart _ _ (by simp [F.PORT_STATUS_SEQ]) (by simp [F.PORT_STATUS_LAST, F.PORT_STATUS_SEQ]), hseq]

theorem PortEvent.congr {x : Nat} (h : PortEvent s t n x) (hlast : u.get (F.PORT_STATUS_LAST n) = t.get (F.PORT_STATUS_LAST n))
    (hseq : u.get (F.PORT_STATUS_SEQ n) = t.get (F.PORT_STATUS_SEQ n)) : PortEvent s u n x := ⟨hlast.trans h.last, hseq.trans h.seq⟩

theorem PortEvent.count {x : Nat} (h : PortEvent s t n x) (f : RF) (k : Nat) : PortEvent s (t.count f k) n x := ⟨h.last, h.seq⟩

/-! ### A link that comes up -/

/-- A link up: LINK, LAST 0, and START_CUR at START_STEP. -/
def linkRaised (s : State) (n : Nat) : State :=
  resetStart (((s.set (F.PORT_STATUS_LINK n) 1).set (F.PORT_STATUS_LAST n) 0).bump (F.PORT_STATUS_SEQ n)) n

theorem execLinkUp_trains (ha : s.pst = 3) (ht : mayTrain s n = true) (hd : s.linkUp n = false) : execLinkUp n s = .next (linkRaised s n) := by
  simp only [execLinkUp, ht, hd, ha, Bool.not_true, Bool.or_self, decide_true, Bool.true_or, Bool.false_eq_true, if_false]
  rfl

theorem resetStart_cur (t : State) (n : Nat) : (resetStart t n).get (F.PORT_STATUS_START_CUR n) = min 4 (t.get (F.PORT_CFG_START_STEP n)) := by
  rw [resetStart, State.get_set_self _ _ (by simp [F.PORT_STATUS_START_CUR])]
  refine Nat.mod_eq_of_lt ?_
  simp only [F.PORT_STATUS_START_CUR]
  omega

theorem linkRaised_regs (s : State) (n : Nat) : RegsBut s (linkRaised s n) [(F.PORT_STATUS n).off] :=
  ((((regsBut_set s (F.PORT_STATUS_LINK n) 1).trans (regsBut_set _ (F.PORT_STATUS_LAST n) 0)).trans (regsBut_set _ (F.PORT_STATUS_SEQ n) _)).trans
    (regsBut_set _ (F.PORT_STATUS_START_CUR n) _))

theorem linkRaised_linkUp (s : State) (n : Nat) : (linkRaised s n).linkUp n = true := by
  refine flag_of_get ?_
  rw [linkRaised, resetStart, State.get_set_apart _ _ (by simp [F.PORT_STATUS_LINK]) (by simp [F.PORT_STATUS_LINK, F.PORT_STATUS_START_CUR]),
    State.get_bump_apart _ (by simp [F.PORT_STATUS_LINK]) (by simp [F.PORT_STATUS_LINK, F.PORT_STATUS_SEQ]),
    State.get_set_apart _ _ (by simp [F.PORT_STATUS_LINK]) (by simp [F.PORT_STATUS_LINK, F.PORT_STATUS_LAST]), State.get_set_self _ _ (by simp [F.PORT_STATUS_LINK])]
  rfl

theorem linkRaised_event (s : State) (n : Nat) : PortEvent s (linkRaised s n) n 0 := by
  refine PortEvent.congr (portEvent_bump (t := s.set (F.PORT_STATUS_LINK n) 1) (x := 0) (by decide) ?_) ?_ ?_
  · exact State.get_set_apart _ _ (by simp [F.PORT_STATUS_SEQ]) (by simp [F.PORT_STATUS_LINK, F.PORT_STATUS_SEQ])
  · exact State.get_set_apart _ _ (by simp [F.PORT_STATUS_LAST]) (by simp [F.PORT_STATUS_LAST, F.PORT_STATUS_START_CUR])
  · exact State.get_set_apart _ _ (by simp [F.PORT_STATUS_SEQ]) (by simp [F.PORT_STATUS_SEQ, F.PORT_STATUS_START_CUR])

theorem RegsBut.get {l : List Nat} {f : RF} (h : RegsBut s u l) (hf : f.off ∉ l) : u.get f = s.get f := congrArg (bits · f.lo f.wid) (h _ hf)

theorem linkRaised_cur (s : State) (n : Nat) : (linkRaised s n).get (F.PORT_STATUS_START_CUR n) = min 4 (s.get (F.PORT_CFG_START_STEP n)) := by
  have hregs : RegsBut s (((s.set (F.PORT_STATUS_LINK n) 1).set (F.PORT_STATUS_LAST n) 0).bump (F.PORT_STATUS_SEQ n)) [(F.PORT_STATUS n).off] :=
    ((regsBut_set s (F.PORT_STATUS_LINK n) 1).trans (regsBut_set _ (F.PORT_STATUS_LAST n) 0)).trans (regsBut_set _ (F.PORT_STATUS_SEQ n) _)
  rw [linkRaised, resetStart_cur, hregs.get (f := F.PORT_CFG_START_STEP n) (by simp [F.PORT_CFG_START_STEP, F.PORT_STATUS])]

theorem linkUp_raises (ha : s.pst = 3) (ht : mayTrain s n = true) (hd : s.linkUp n = false) :
    Runs (.linkUp n) s fun u => u.linkUp n = true ∧ PortEvent s u n 0 ∧ MemSame s u ∧
      u.get (F.PORT_STATUS_START_CUR n) = min 4 (s.get (F.PORT_CFG_START_STEP n)) ∧ u.fb = s.fb ∧ RegsBut s u [(F.PORT_STATUS n).off] ∧ CntBut s u [] :=
  ⟨_, execLinkUp_trains ha ht hd, linkRaised_linkUp s n, linkRaised_event s n, fun _ => rfl, linkRaised_cur s n, rfl, linkRaised_regs s n, fun _ _ => rfl⟩

/-! ### A link that goes down -/

/-- Port `n`, and what its link's loss counts, are as before. -/
structure PfcKept (n : Nat) (s u : State) : Prop where
  port : u.port n = s.port n
  cnt : ∀ f ∈ [F.MAC_TX_DISCARD n, F.LINK_DOWNS n], u.live f = s.live f

theorem PfcKept.refl (n : Nat) (s : State) : PfcKept n s s := ⟨rfl, fun _ _ => rfl⟩

theorem PfcKept.trans (h : PfcKept n s t) (k : PfcKept n t u) : PfcKept n s u := ⟨k.port.trans h.port, fun f hf => (k.cnt f hf).trans (h.cnt f hf)⟩

theorem port_setPort_ne (t : State) {i n : Nat} (x : Port) (h : n ≠ i) : (t.setPort i x).port n = t.port n := smGet_smSet_ne _ _ _ h

theorem pfcKept_count (t : State) {n : Nat} {f : RF} (k : Nat) (h : ∀ g ∈ [F.MAC_TX_DISCARD n, F.LINK_DOWNS n], g.key ≠ f.key) : PfcKept n t (t.count f k) :=
  ⟨rfl, fun g hg => t.live_count_ne k (h g hg)⟩

theorem pfcKept_sendCtl (t : State) (n i enable time : Nat) : PfcKept n t (sendCtl t i enable time) := by
  have h1 : ∀ g ∈ [F.MAC_TX_DISCARD n, F.LINK_DOWNS n], g.key ≠ (F.MAC_TX_FRAMES i).key := by
    simp [RF.key, F.MAC_TX_DISCARD, F.LINK_DOWNS, F.MAC_TX_FRAMES, portBase]
    omega
  have h2 : ∀ g ∈ [F.MAC_TX_DISCARD n, F.LINK_DOWNS n], g.key ≠ { F.MAC_TX_BYTES_LO i with wid := 64 }.key := by
    simp [RF.key, F.MAC_TX_DISCARD, F.LINK_DOWNS, F.MAC_TX_BYTES_LO, portBase]
    omega
  exact ((⟨rfl, fun _ _ => rfl⟩ : PfcKept n t (t.emit (.pause i enable time))).trans (pfcKept_count _ _ h1)).trans (pfcKept_count _ _ h2)

theorem pfcKept_sendPfc (t : State) {n i : Nat} (hi : n ≠ i) (c time : Nat) : PfcKept n t (sendPfc t i c time) := by
  have h : ∀ g ∈ [F.MAC_TX_DISCARD n, F.LINK_DOWNS n], g.key ≠ (F.FAB_PFC_SENT i).key := by
    simp [RF.key, F.MAC_TX_DISCARD, F.LINK_DOWNS, F.FAB_PFC_SENT, portBase]
    omega
  have hctl : PfcKept n t (ctlSend t i (2 ^ c) time) := by
    unfold ctlSend
    split
    · exact .refl n t
    · split
      · exact ⟨port_setPort_ne t _ hi, fun _ _ => rfl⟩
      · exact pfcKept_sendCtl t n i _ _
  unfold sendPfc
  split
  · exact hctl.trans (pfcKept_count _ _ h)
  · exact .refl n t

theorem bit_zero (i : Nat) : bit 0 i = false := Nat.zero_testBit i

/-- An ingress whose pauses have all ended sends none. -/
theorem pfcFall_clear {i : Nat} (h : (s.port i).xoff = 0) (c : Nat) : pfcFall s i c = s := by
  unfold pfcFall
  simp only [h, bit_zero, Bool.false_and, Bool.false_eq_true, if_false, ite_self]

theorem pfcKept_pfcFall (h : (s.port n).xoff = 0) (i c : Nat) : PfcKept n s (pfcFall s i c) := by
  by_cases hi : n = i
  · rw [pfcFall_clear (hi ▸ h)]
    exact .refl n s
  · unfold pfcFall
    split
    · exact .refl n s
    · dsimp only
      split
      · exact PfcKept.trans ⟨port_setPort_ne s _ hi, fun _ _ => rfl⟩ (pfcKept_sendPfc _ hi _ _)
      · exact .refl n s

theorem pfcKept_foldl (h : (s.port n).xoff = 0) (fs : List Frame) : PfcKept n s (fs.foldl (fun s f => pfcFall s f.ingress f.cls) s) :=
  foldl_keeps (P := PfcKept n s) (fun t f ht => ht.trans (pfcKept_pfcFall (by rw [ht.port]; exact h) _ _)) fs (.refl n s)

theorem pfcFall_foldl_clear (h : ∀ m, (s.port m).xoff = 0) (fs : List Frame) : fs.foldl (fun s f => pfcFall s f.ingress f.cls) s = s :=
  foldl_keeps (P := fun t => t = s) (fun t f ht => by rw [ht, pfcFall_clear (h _)]) fs rfl

/-- A port without frames, and without pauses. -/
def Port.emptied (p : Port) : Port := { p with cut := none, q := [], ptp := [], ctl := [], pfc := 0, llp := 0, xoff := 0, held := 0 }

/-- What a lost link leaves before other ports' pauses end: the frame in transmission cut short, the queue discarded. -/
def linkCut (s : State) (n : Nat) : State :=
  ((match (s.port n).cut with | some f => sendCut s n f | none => s).count (F.MAC_TX_DISCARD n) (queuedFrames (s.port n))).setPort n (s.port n).emptied

theorem linkDropped_eq (s : State) (n : Nat) : linkDropped s n =
    ((s.port n).q.flatMap fun e => e.2).foldl (fun s f => pfcFall s f.ingress f.cls) (linkCut s n) := by
  unfold linkDropped linkCut
  rfl

theorem linkCut_port (s : State) (n : Nat) : (linkCut s n).port n = (s.port n).emptied := smGet_smSet_self _ _ _ _

theorem linkCut_discard (s : State) (n : Nat) : Counted s (linkCut s n) (F.MAC_TX_DISCARD n) (queuedFrames (s.port n)) := by
  have h1 : (F.MAC_TX_DISCARD n).key ≠ (F.MAC_TX_FRAMES n).key := by simp [RF.key, F.MAC_TX_DISCARD, F.MAC_TX_FRAMES]
  have h2 : (F.MAC_TX_DISCARD n).key ≠ { F.MAC_TX_BYTES_LO n with wid := 64 }.key := by simp [RF.key, F.MAC_TX_DISCARD, F.MAC_TX_BYTES_LO]
  unfold linkCut
  cases (s.port n).cut with
  | none => exact State.live_count_self (s := s) _ _
  | some f =>
    refine (State.live_count_self (s := sendCut s n f) _ _).trans ?_
    have hcut : (sendCut s n f).live (F.MAC_TX_DISCARD n) = s.live (F.MAC_TX_DISCARD n) :=
      (State.live_count_ne _ _ h2).trans (State.live_count_ne (s := s) _ h1)
    rw [hcut]

theorem linkCut_downs (s : State) (n : Nat) : (linkCut s n).live (F.LINK_DOWNS n) = s.live (F.LINK_DOWNS n) := by
  have h0 : (F.LINK_DOWNS n).key ≠ (F.MAC_TX_DISCARD n).key := by simp [RF.key, F.MAC_TX_DISCARD, F.LINK_DOWNS]
  have h1 : (F.LINK_DOWNS n).key ≠ (F.MAC_TX_FRAMES n).key := by simp [RF.key, F.LINK_DOWNS, F.MAC_TX_FRAMES]
  have h2 : (F.LINK_DOWNS n).key ≠ { F.MAC_TX_BYTES_LO n with wid := 64 }.key := by simp [RF.key, F.LINK_DOWNS, F.MAC_TX_BYTES_LO]
  unfold linkCut
  cases (s.port n).cut with
  | none => exact State.live_count_ne (s := s) _ h0
  | some f => exact (State.live_count_ne (s := sendCut s n f) _ h0).trans ((State.live_count_ne _ _ h2).trans (State.live_count_ne (s := s) _ h1))

theorem linkLost_rest (s : State) (n : Nat) : (linkLost s n).fb = s.fb ∧ (linkLost s n).cnt = s.cnt ∧ (linkLost s n).out = s.out := by
  have hforget (t : State) : (forgetForeign t n).fb = t.fb ∧ (forgetForeign t n).cnt = t.cnt ∧ (forgetForeign t n).out = t.out := by
    unfold forgetForeign
    split
    · exact ⟨bmca_fb _, bmca_cnt _, bmca_out _⟩
    · exact ⟨rfl, rfl, rfl⟩
  have hhold (t : State) : t.holdover.fb = t.fb ∧ t.holdover.cnt = t.cnt ∧ t.holdover.out = t.out := by
    unfold State.holdover
    split
    · exact ⟨rfl, rfl, rfl⟩
    · rw [setLock_rest]
      exact ⟨rfl, rfl, rfl⟩
  unfold linkLost
  obtain ⟨hfb, hcnt, hout⟩ := hforget (if n < 16 && s.get F.TIME_STATUS_PARENT = n then s.holdover else s)
  rw [hfb, hcnt, hout]
  split
  · exact hhold s
  · exact ⟨rfl, rfl, rfl⟩

/-- The registers of a lost link, before it is counted. -/
def linkTold (s : State) (n : Nat) : State :=
  let s := ((s.set (F.MAC_PAUSE_STATE_PAUSED n) 0).set (F.MAC_PAUSE_STATE_LLP n) 0).set (F.MAC_PAUSE_STATE_WD_BROKEN n) 0
  ((s.set (F.PORT_STATUS_LINK n) 0).set (F.PORT_STATUS_LAST n) 1).bump (F.PORT_STATUS_SEQ n)

theorem linkShown_eq (s : State) (n : Nat) : linkShown s n = (linkTold s n).count (F.LINK_DOWNS n) := rfl

theorem linkTold_rest (s : State) (n : Nat) : (linkTold s n).fb = s.fb ∧ (linkTold s n).cnt = s.cnt := ⟨rfl, rfl⟩

theorem linkShown_event (s : State) (n : Nat) : PortEvent s (linkShown s n) n 1 := by
  refine (portEvent_bump (by decide) ?_).count _ _
  have hpause : (F.PORT_STATUS_SEQ n).off ≠ (F.MAC_PAUSE_STATE n).off := by simp [F.PORT_STATUS_SEQ, F.MAC_PAUSE_STATE]
  rw [State.get_set_apart _ _ (by simp [F.PORT_STATUS_SEQ]) (by simp [F.PORT_STATUS_SEQ, F.PORT_STATUS_LINK]),
    State.get_set_ne (f := F.MAC_PAUSE_STATE_WD_BROKEN n) _ _ hpause, State.get_set_ne (f := F.MAC_PAUSE_STATE_LLP n) _ _ hpause,
    State.get_set_ne (f := F.MAC_PAUSE_STATE_PAUSED n) _ _ hpause]

theorem portStatus_ne_time (n : Nat) : (F.PORT_STATUS n).off ≠ F.TIME_STATUS.off := by
  simp [F.PORT_STATUS, F.TIME_STATUS, portBase]
  omega

theorem linkGoesDown_event (h : s.linkUp n = true) : PortEvent s (linkGoesDown s n) n 1 := by
  have hdrop := portKept_linkDropped s n []
  have hlost := portKept_linkLost (linkShown (linkDropped s n) n) n
  rw [linkGoesDown_eq, h, Bool.not_true, if_neg Bool.false_ne_true]
  obtain ⟨hlast, hseq⟩ := linkShown_event (linkDropped s n) n
  exact ⟨(hlost.get (f := F.PORT_STATUS_LAST n) (List.mem_singleton.not.2 (portStatus_ne_time n))).trans hlast,
    ((hlost.get (f := F.PORT_STATUS_SEQ n) (List.mem_singleton.not.2 (portStatus_ne_time n))).trans hseq).trans (congrArg seqNext (hdrop.get (List.not_mem_nil)))⟩

/-- What a lost link leaves of its port, and counts. -/
theorem linkGoesDown_port (h : s.linkUp n = true) : (linkGoesDown s n).port n = (s.port n).emptied ∧
    Counted s (linkGoesDown s n) (F.LINK_DOWNS n) ∧ Counted s (linkGoesDown s n) (F.MAC_TX_DISCARD n) (queuedFrames (s.port n)) := by
  obtain ⟨hfb, hcnt, -⟩ := linkLost_rest (linkShown (linkDropped s n) n) n
  have hkept : PfcKept n (linkCut s n) (linkDropped s n) := by
    rw [linkDropped_eq]
    exact pfcKept_foldl (by rw [linkCut_port]; rfl) _
  have hxlive (f : RF) : (linkTold (linkDropped s n) n).live f = (linkDropped s n).live f := by rw [State.live, (linkTold_rest _ n).2]; rfl
  have hlive (f : RF) : (linkLost (linkShown (linkDropped s n) n) n).live f = (linkShown (linkDropped s n) n).live f := by rw [State.live, hcnt]; rfl
  rw [linkGoesDown_eq, h, Bool.not_true, if_neg Bool.false_ne_true]
  refine ⟨?_, ?_, ?_⟩
  · rw [State.port, hfb, linkShown_eq, State.count_fb, (linkTold_rest _ n).1]
    exact hkept.port.trans (linkCut_port s n)
  · rw [Counted, hlive, linkShown_eq, State.live_count_self, hxlive, hkept.cnt _ (by simp), linkCut_downs]
  · rw [Counted, hlive, linkShown_eq, State.live_count_ne _ _ (by simp [RF.key, F.MAC_TX_DISCARD, F.LINK_DOWNS]), hxlive, hkept.cnt _ (by simp), linkCut_discard s n]

theorem linkGoesDown_memSame (s : State) (n : Nat) : MemSame s (linkGoesDown s n) :=
  memSame_of_mem (portKept_linkGoesDown s n).mem (portKept_linkGoesDown s n).variant

/-- Where no port has a pause sent, a lost link leaves the other ports, and nothing but the frame cut short goes out. -/
theorem linkGoesDown_alone (h : s.linkUp n = true) (hclear : ∀ m, (s.port m).xoff = 0) :
    (∀ m, m ≠ n → (linkGoesDown s n).port m = s.port m) ∧
      ∀ f, (s.port n).cut = some f → (linkGoesDown s n).out = s.out ++ [.frame n f.pkt (macSource (s.get F.TRN_ID_ENDPOINT) n) false] := by
  obtain ⟨hfb, -, hout⟩ := linkLost_rest (linkShown (linkDropped s n) n) n
  have hport (m : Nat) (hm : m ≠ n) : (linkCut s n).port m = s.port m := by
    unfold linkCut
    rw [port_setPort_ne _ _ hm]
    cases (s.port n).cut <;> rfl
  have hdrop : linkDropped s n = linkCut s n := by
    rw [linkDropped_eq]
    refine pfcFall_foldl_clear (fun m => ?_) _
    by_cases hm : m = n
    · rw [hm, linkCut_port]
      rfl
    · rw [hport m hm, hclear m]
  rw [hdrop] at hfb hout
  rw [linkGoesDown_eq, h, Bool.not_true, if_neg Bool.false_ne_true, hdrop]
  refine ⟨fun m hm => ?_, fun f hf => ?_⟩
  · rw [State.port, hfb]
    exact hport m hm
  · rw [hout]
    show (linkCut s n).out = _
    rw [linkCut, hf]
    rfl

/-! ### Writes of PORT_CFG -/

theorem regRow_portCfg (hn : n < 32) : ∃ r i j, regRow (F.PORT_CFG n).off = some (r, i, j) ∧ r.rw ||| r.rwk = 2 ^ 32 - 1 := by
  have hall : ∀ n < 32, (regRow (F.PORT_CFG n).off).map (fun x => x.1.rw ||| x.1.rwk) = some (2 ^ 32 - 1) := by decide
  obtain ⟨⟨r, i, j⟩, hr, hmask⟩ := Option.map_eq_some_iff.1 (hall n hn)
  exact ⟨r, i, j, hr, hmask⟩

theorem slotPresent_portCfg (hn : n < 32) : slotPresent s (F.PORT_CFG n).off = portPresent s n := by
  have hoff : (F.PORT_CFG n).off = 0x200000 + 0x4000 * n := by simp [F.PORT_CFG, portBase]
  rw [slotPresent, hoff, if_neg (by simp), if_pos (by simp; omega)]
  congr 1
  omega

/-- The bits of PORT_CFG above WIDTH, whether WIDTH is written or stays 0. -/
theorem bits_sub_mod (v : Nat) {lo : Nat} (h : 2 ≤ lo) (w : Nat) : bits (v - v % 4) lo w = bits v lo w := by
  obtain ⟨k, rfl⟩ := Nat.exists_eq_add_of_le h
  have hclear : v - v % 4 = 4 * (v / 4) := by omega
  rw [bits, bits, Nat.shiftRight_eq_div_pow, Nat.shiftRight_eq_div_pow, hclear, Nat.pow_add, ← Nat.div_div_eq_div_mul, ← Nat.div_div_eq_div_mul]
  have hfour : 4 * (v / 4) / 2 ^ 2 = v / 2 ^ 2 := by omega
  rw [hfour]

/-- What a write of PORT_CFG stores: WIDTH of an attach port stays 0. -/
def cfgValue (n v : Nat) : Nat := if 16 ≤ n then v - v % 4 else v

theorem bits_cfgValue (v : Nat) {lo : Nat} (h : 2 ≤ lo) (w : Nat) : bits (cfgValue n v) lo w = bits v lo w := by
  unfold cfgValue
  split
  · exact bits_sub_mod v h w
  · rfl

theorem width_cfgValue (v : Nat) : bits (cfgValue n v) 0 2 % 3 = if n < 16 then bits v 0 2 % 3 else 0 := by
  unfold cfgValue
  by_cases h : 16 ≤ n
  · have hzero : bits (v - v % 4) 0 2 = 0 := by
      rw [bits, Nat.shiftRight_zero]
      omega
    rw [if_pos h, if_neg (by omega), hzero]
  · rw [if_neg h, if_pos (by omega)]

/-- A port whose PORT_CFG has been written. -/
structure CfgWritten (s : State) (n v : Nat) (t : State) : Prop where
  field : ∀ f : RF, f.off = (F.PORT_CFG n).off → f.lo + f.wid ≤ 32 → t.get f = bits (cfgValue n v) f.lo f.wid
  late : t.getL (F.PORT_CFG_GUARD_EN n) = s.getL (F.PORT_CFG_GUARD_EN n)
  regs : RegsBut s t [(F.PORT_CFG n).off]
  fb : t.fb = s.fb
  mem : MemSame s t

theorem cfgWritten (hn : n < 32) (hp : portPresent s n = true) (v : Nat) : CfgWritten s n v (writeLate s (F.PORT_CFG n).off (cfgValue n v)) := by
  obtain ⟨r, i, j, hr, hmask⟩ := regRow_portCfg hn
  have hslot : slotPresent (s.keepLate (F.PORT_CFG n).off) (F.PORT_CFG n).off = true := by
    rw [slotPresent_portCfg hn, keepLate_rest]
    exact hp
  obtain ⟨hregs, hmem⟩ := writeLate_frame s (cfgValue n v) hr hslot
  refine ⟨fun f hf hw => ?_, getL_writeLate (f := F.PORT_CFG_GUARD_EN n) s _ hr hslot (by simp [F.PORT_CFG_GUARD_EN]), hregs, ?_, hmem⟩
  · rw [writeLate_eq s _ hr hslot, ← hf]
    refine get_storeWord _ r _ hw fun k hk => ?_
    rw [hmask, bit, Nat.testBit_two_pow_sub_one]
    exact decide_eq_true (by omega)
  · rw [writeLate_eq s _ hr hslot, storeWord]
    split <;> rw [keepLate_rest] <;> rfl

theorem portCfgWrite_eq (hn : n < 32) (hp : portPresent s n = true) (v : Nat) :
    portCfgWrite s n v =
      let t := resetStart (writeLate s (F.PORT_CFG n).off (cfgValue n v)) n
      if t.get (F.PORT_CFG_WIDTH n) % 3 ≠ s.get (F.PORT_CFG_WIDTH n) % 3 || !t.flag (F.PORT_CFG_ENABLE n) then linkGoesDown t n else t := by
  rw [portCfgWrite, if_neg (by simp [hp]; omega)]
  rfl

/-- What the restart of START_CUR leaves of a written PORT_CFG. -/
theorem CfgWritten.field_reset {v : Nat} (h : CfgWritten s n v t) {f : RF} (hf : f.off = (F.PORT_CFG n).off) (hw : f.lo + f.wid ≤ 32) :
    (resetStart t n).get f = bits (cfgValue n v) f.lo f.wid := by
  rw [resetStart, State.get_set_ne _ _ (by rw [hf]; simp [F.PORT_CFG, F.PORT_STATUS_START_CUR]), h.field f hf hw]

theorem CfgWritten.linkUp_reset {v : Nat} (h : CfgWritten s n v t) : (resetStart t n).linkUp n = s.linkUp n := by
  refine flag_congr ?_
  rw [resetStart, State.get_set_apart _ _ (by simp [F.PORT_STATUS_LINK]) (by simp [F.PORT_STATUS_LINK, F.PORT_STATUS_START_CUR])]
  exact h.regs.get (by simp [F.PORT_STATUS_LINK, F.PORT_CFG])

theorem exec_portCfgWrite (ha : s.pst = 3) (hf : s.fnHeld 0 = false) (n : Nat) (v : Word32) :
    exec (.portCfgWrite n v) s = .next (portCfgWrite s n v.toNat) := congrArg Host.Outcome.next (fnCmd_active hf ha false _)

/-- A write that keeps the width and the link enabled. -/
theorem portCfgWrite_keeps (ha : s.pst = 3) (hh : s.fnHeld 0 = false) (hn : n < 32) (hp : portPresent s n = true) {v : Word32} (hen : bit v.toNat 2 = true)
    (hwidth : (if n < 16 then bits v.toNat 0 2 % 3 else 0) = s.get (F.PORT_CFG_WIDTH n) % 3) :
    Runs (.portCfgWrite n v) s fun u => u.get (F.PORT_CFG_MAXF n) = bits v.toNat 16 14 ∧ u.get (F.PORT_CFG_TX_MODE n) = bits v.toNat 3 1 ∧
      u.get (F.PORT_STATUS_START_CUR n) = min 4 (bits v.toNat 4 3) ∧ u.getL (F.PORT_CFG_GUARD_EN n) = s.getL (F.PORT_CFG_GUARD_EN n) ∧
      u.get (F.PORT_CFG_GUARD_EN n) = bits v.toNat 7 1 ∧ u.linkUp n = s.linkUp n ∧ u.fb = s.fb ∧ MemSame s u := by
  have hw := cfgWritten (s := s) hn hp v.toNat
  have hfield (f : RF) (ho : f.off = (F.PORT_CFG n).off) (hlo : 2 ≤ f.lo) (hfit : f.lo + f.wid ≤ 32) :
      (resetStart (writeLate s (F.PORT_CFG n).off (cfgValue n v.toNat)) n).get f = bits v.toNat f.lo f.wid := by
    rw [hw.field_reset ho hfit, bits_cfgValue _ hlo]
  have henable : (resetStart (writeLate s (F.PORT_CFG n).off (cfgValue n v.toNat)) n).flag (F.PORT_CFG_ENABLE n) = true := by
    refine flag_of_get ?_
    rw [hfield (F.PORT_CFG_ENABLE n) rfl (by simp [F.PORT_CFG_ENABLE]) (by simp [F.PORT_CFG_ENABLE])]
    simpa [bit_eq_bits, F.PORT_CFG_ENABLE] using hen
  have hsame : (resetStart (writeLate s (F.PORT_CFG n).off (cfgValue n v.toNat)) n).get (F.PORT_CFG_WIDTH n) % 3 = s.get (F.PORT_CFG_WIDTH n) % 3 := by
    rw [hw.field_reset (f := F.PORT_CFG_WIDTH n) rfl (by simp [F.PORT_CFG_WIDTH]), ← hwidth]
    exact width_cfgValue _
  refine ⟨_, exec_portCfgWrite ha hh n v, ?_⟩
  rw [portCfgWrite_eq hn hp]
  dsimp only
  rw [if_neg (by simp [hsame, henable])]
  refine ⟨hfield _ rfl (by simp [F.PORT_CFG_MAXF]) (by simp [F.PORT_CFG_MAXF]), hfield _ rfl (by simp [F.PORT_CFG_TX_MODE]) (by simp [F.PORT_CFG_TX_MODE]), ?_,
    ?_, hfield _ rfl (by simp [F.PORT_CFG_GUARD_EN]) (by simp [F.PORT_CFG_GUARD_EN]), hw.linkUp_reset, hw.fb, hw.mem⟩
  · rw [resetStart_cur, hw.field (F.PORT_CFG_START_STEP n) rfl (by simp [F.PORT_CFG_START_STEP]), bits_cfgValue _ (by simp [F.PORT_CFG_START_STEP])]
    rfl
  · exact (getL_set _ _ (by simp [F.PORT_CFG_GUARD_EN, F.PORT_STATUS_START_CUR])).trans hw.late

/-- A write that disables the port takes its link down. -/
theorem portCfgWrite_disables (ha : s.pst = 3) (hh : s.fnHeld 0 = false) (hn : n < 32) (hp : portPresent s n = true) {v : Word32} (hen : bit v.toNat 2 = false)
    (hup : s.linkUp n = true) :
    Runs (.portCfgWrite n v) s fun u => u.linkUp n = false ∧ PortEvent s u n 1 ∧ MemSame s u ∧ (u.port n).cut = none ∧ (u.port n).q = [] := by
  have hw := cfgWritten (s := s) hn hp v.toNat
  have hdisable : (resetStart (writeLate s (F.PORT_CFG n).off (cfgValue n v.toNat)) n).flag (F.PORT_CFG_ENABLE n) = false := by
    rw [State.flag, hw.field_reset (f := F.PORT_CFG_ENABLE n) rfl (by simp [F.PORT_CFG_ENABLE]), bits_cfgValue _ (by simp [F.PORT_CFG_ENABLE])]
    rw [bit_eq_bits] at hen
    simpa [F.PORT_CFG_ENABLE] using hen
  have hlink : (resetStart (writeLate s (F.PORT_CFG n).off (cfgValue n v.toNat)) n).linkUp n = true := hw.linkUp_reset.trans hup
  obtain ⟨hlast, hseq⟩ := linkGoesDown_event hlink
  obtain ⟨hport, -, -⟩ := linkGoesDown_port hlink
  refine ⟨_, exec_portCfgWrite ha hh n v, ?_⟩
  rw [portCfgWrite_eq hn hp]
  dsimp only
  rw [if_pos (by simp [hdisable])]
  refine ⟨linkUp_linkGoesDown _ n, ⟨hlast, hseq.trans (congrArg seqNext ?_)⟩, hw.mem.trans (linkGoesDown_memSame _ n), by rw [hport]; rfl, by rw [hport]; rfl⟩
  rw [resetStart, State.get_set_apart _ _ (by simp [F.PORT_STATUS_SEQ]) (by simp [F.PORT_STATUS_SEQ, F.PORT_STATUS_START_CUR])]
  exact hw.regs.get (by simp [F.PORT_STATUS_SEQ, F.PORT_CFG])

/-! ### Pauses -/

theorem showPaused_paused (t : State) (n : Nat) : (showPaused t n).get (F.MAC_PAUSE_STATE_PAUSED n) = pausedMask t n % 256 := by
  rw [showPaused, State.get_set_apart _ _ (by simp [F.MAC_PAUSE_STATE_PAUSED]) (by simp [F.MAC_PAUSE_STATE_PAUSED, F.MAC_PAUSE_STATE_LLP]),
    State.get_set_self _ _ (by simp [F.MAC_PAUSE_STATE_PAUSED])]
  rfl

theorem showPaused_llp (t : State) (n : Nat) : (showPaused t n).get (F.MAC_PAUSE_STATE_LLP n) = b2n ((t.port n).llp != 0) := by
  rw [showPaused, State.get_set_self _ _ (by simp [F.MAC_PAUSE_STATE_LLP])]
  refine Nat.mod_eq_of_lt ?_
  show b2n _ < 2
  unfold b2n
  split <;> decide

theorem showPaused_broken (t : State) (n : Nat) : (showPaused t n).get (F.MAC_PAUSE_STATE_WD_BROKEN n) = t.get (F.MAC_PAUSE_STATE_WD_BROKEN n) := by
  rw [showPaused, State.get_set_apart _ _ (by simp [F.MAC_PAUSE_STATE_WD_BROKEN]) (by simp [F.MAC_PAUSE_STATE_WD_BROKEN, F.MAC_PAUSE_STATE_LLP]),
    State.get_set_apart _ _ (by simp [F.MAC_PAUSE_STATE_WD_BROKEN]) (by simp [F.MAC_PAUSE_STATE_WD_BROKEN, F.MAC_PAUSE_STATE_PAUSED])]

theorem showPaused_status (t : State) (n : Nat) {f : RF} (hf : f.off = (F.PORT_STATUS n).off) : (showPaused t n).get f = t.get f := by
  have hne : f.off ≠ (F.MAC_PAUSE_STATE n).off := by rw [hf]; simp [F.PORT_STATUS, F.MAC_PAUSE_STATE]
  rw [showPaused, State.get_set_ne (f := F.MAC_PAUSE_STATE_LLP n) _ _ hne, State.get_set_ne (f := F.MAC_PAUSE_STATE_PAUSED n) _ _ hne]

theorem showPaused_port (t : State) (n m : Nat) : (showPaused t n).port m = t.port m := rfl

theorem showPaused_live (t : State) (n : Nat) (f : RF) : (showPaused t n).live f = t.live f := rfl

theorem port_setPort_same (t : State) (n : Nat) (x : Port) : (t.setPort n x).port n = x := smGet_smSet_self _ _ _ _

theorem receives_active (ha : s.pst = 3) (hp : portPresent s n = true) (hup : s.linkUp n = true) : receives s n = true := by
  simp [receives, hp, hup, ha]

theorem pst_ne_rest (ha : s.pst = 3) : ¬ s.pst = 4 := by omega

/-- A PAUSE with a time, where PAUSE is received. -/
theorem pauseRx_holds (ha : s.pst = 3) (hp : portPresent s n = true) (hup : s.linkUp n = true) (hen : s.flag (F.MAC_PAUSE_CTL_RX_LLP_EN n) = true)
    {quanta : Nat} (hq : quanta ≠ 0) :
    Runs (.pauseRx n quanta) s fun u => u.port n = { s.port n with llp := 0xFF - s.get (F.MAC_PAUSE_STATE_WD_BROKEN n) } ∧
      u.get (F.MAC_PAUSE_STATE_PAUSED n) = pausedMask u n % 256 ∧ Counted s u (F.MAC_PAUSE_RX n) ∧ (∀ m, m ≠ n → u.port m = s.port m) ∧ MemSame s u := by
  have hrun : execPauseRx n quanta s = .next (showPaused ((s.count (F.MAC_PAUSE_RX n)).setPort n
      { s.port n with llp := 0xFF - s.get (F.MAC_PAUSE_STATE_WD_BROKEN n) }) n) := by
    have hen' : (s.count (F.MAC_PAUSE_RX n)).flag (F.MAC_PAUSE_CTL_RX_LLP_EN n) = true := hen
    have ha' : ¬ (s.count (F.MAC_PAUSE_RX n)).pst = 4 := pst_ne_rest ha
    simp only [execPauseRx, receives_active ha hp hup, Bool.not_true, Bool.false_eq_true, if_false, hen', ha', decide_false, Bool.or_self, hq]
    rfl
  refine ⟨_, hrun, port_setPort_same _ _ _, showPaused_paused _ _, State.live_count_self (s := s) _ 1, fun m hm => port_setPort_ne _ _ hm, fun _ => rfl⟩

/-- A PAUSE of time 0 ends it, and the watchdog's breaks. -/
theorem pauseRx_ends (ha : s.pst = 3) (hp : portPresent s n = true) (hup : s.linkUp n = true) (hen : s.flag (F.MAC_PAUSE_CTL_RX_LLP_EN n) = true) :
    Runs (.pauseRx n 0) s fun u => u.port n = { s.port n with llp := 0 } ∧ u.get (F.MAC_PAUSE_STATE_WD_BROKEN n) = 0 ∧
      u.get (F.MAC_PAUSE_STATE_LLP n) = 0 ∧ u.get (F.MAC_PAUSE_STATE_PAUSED n) = (s.port n).pfc % 256 ∧ Counted s u (F.MAC_PAUSE_RX n) ∧ MemSame s u := by
  have hrun : execPauseRx n 0 s = .next (showPaused (((s.count (F.MAC_PAUSE_RX n)).setPort n { s.port n with llp := 0 }).set (F.MAC_PAUSE_STATE_WD_BROKEN n) 0) n) := by
    have hen' : (s.count (F.MAC_PAUSE_RX n)).flag (F.MAC_PAUSE_CTL_RX_LLP_EN n) = true := hen
    have ha' : ¬ (s.count (F.MAC_PAUSE_RX n)).pst = 4 := pst_ne_rest ha
    simp only [execPauseRx, receives_active ha hp hup, Bool.not_true, Bool.false_eq_true, if_false, hen', ha', decide_false, Bool.or_self, if_true]
    rfl
  have hport : (((s.count (F.MAC_PAUSE_RX n)).setPort n { s.port n with llp := 0 }).set (F.MAC_PAUSE_STATE_WD_BROKEN n) 0).port n =
      { s.port n with llp := 0 } := port_setPort_same _ _ _
  refine ⟨_, hrun, hport, ?_, ?_, ?_, State.live_count_self (s := s) _ 1, fun _ => rfl⟩
  · rw [showPaused_broken, State.get_set_self _ _ (by simp [F.MAC_PAUSE_STATE_WD_BROKEN]), Nat.zero_mod]
  · rw [showPaused_llp, hport]
    rfl
  · rw [showPaused_paused, pausedMask, hport, Nat.zero_or]

theorem pauseRx_ignored (ha : s.pst = 3) (hp : portPresent s n = true) (hup : s.linkUp n = true) (hen : s.flag (F.MAC_PAUSE_CTL_RX_LLP_EN n) = false)
    (quanta : Nat) :
    Runs (.pauseRx n quanta) s fun u => Counted s u (F.MAC_PAUSE_RX n) ∧ u.fb = s.fb ∧ RegsBut s u [] ∧ MemSame s u := by
  have hrun : execPauseRx n quanta s = .next (s.count (F.MAC_PAUSE_RX n)) := by
    have hen' : (s.count (F.MAC_PAUSE_RX n)).flag (F.MAC_PAUSE_CTL_RX_LLP_EN n) = false := hen
    simp only [execPauseRx, receives_active ha hp hup, Bool.not_true, Bool.false_eq_true, if_false, hen', Bool.not_false, Bool.or_true, if_true]
  exact ⟨_, hrun, State.live_count_self (s := s) _ 1, rfl, fun _ _ => rfl, fun _ => rfl⟩

/-! ### Per-class pauses -/

/-- The field of classes whose pauses the watchdog ignores. -/
theorem bit_broken_set (t : State) (n v : Nat) {c : Nat} (hc : c < 8) :
    bit ((t.set (F.MAC_PAUSE_STATE_WD_BROKEN n) v).get (F.MAC_PAUSE_STATE_WD_BROKEN n)) c = bit v c := by
  rw [State.get_set_self _ _ (by simp [F.MAC_PAUSE_STATE_WD_BROKEN]), bit, Nat.testBit_mod_two_pow]
  simp [F.MAC_PAUSE_STATE_WD_BROKEN, hc, bit]

/-- What one class of a per-class pause does to class `c` of its port. -/
theorem pfcClass_bits (t : State) (n x q : Nat) {c : Nat} (hc : c < 8) :
    (pfcClass t n x q).get (F.MAC_PAUSE_CTL_RX_PFC_EN n) = t.get (F.MAC_PAUSE_CTL_RX_PFC_EN n) ∧
    bit ((pfcClass t n x q).port n).pfc c = (if c = x ∧ bit (t.get (F.MAC_PAUSE_CTL_RX_PFC_EN n)) x = true then
      (if q = 0 then false else if bit (t.get (F.MAC_PAUSE_STATE_WD_BROKEN n)) c then bit (t.port n).pfc c else true) else bit (t.port n).pfc c) ∧
    bit ((pfcClass t n x q).get (F.MAC_PAUSE_STATE_WD_BROKEN n)) c =
      (if c = x ∧ bit (t.get (F.MAC_PAUSE_CTL_RX_PFC_EN n)) x = true ∧ q = 0 then false else bit (t.get (F.MAC_PAUSE_STATE_WD_BROKEN n)) c) := by
  have hctl : (F.MAC_PAUSE_CTL_RX_PFC_EN n).off ≠ (F.MAC_PAUSE_STATE_WD_BROKEN n).off := by simp [F.MAC_PAUSE_CTL_RX_PFC_EN, F.MAC_PAUSE_STATE_WD_BROKEN]
  unfold pfcClass
  cases hen : bit (t.get (F.MAC_PAUSE_CTL_RX_PFC_EN n)) x with
  | false => simp
  | true =>
    dsimp only
    rw [Bool.not_true, if_neg Bool.false_ne_true]
    by_cases hq : q = 0
    · rw [if_pos hq]
      refine ⟨State.get_set_ne _ _ hctl, ?_, ?_⟩
      · show bit (State.port (t.setPort n _) n).pfc c = _
        rw [port_setPort_same]
        simp only [bit_putBit, hq, and_true, if_true]
      · rw [bit_broken_set _ _ _ hc, bit_putBit]
        simp only [hq, and_true]
    · rw [if_neg hq]
      by_cases hb : bit (t.get (F.MAC_PAUSE_STATE_WD_BROKEN n)) x = true
      · rw [if_pos hb]
        refine ⟨rfl, ?_, by simp [hq]⟩
        by_cases hx : c = x
        · simp [hx, hq, hb]
        · simp [hx]
      · rw [if_neg hb]
        refine ⟨rfl, ?_, by simp [hq]⟩
        rw [port_setPort_same]
        simp only [bit_putBit]
        by_cases hx : c = x
        · simp [hx, hq, hb]
        · simp [hx]

/-- A per-class pause's effect on class `c`: that of its own entry, where the pause names it. -/
theorem pfcClasses_bit (quanta : List Nat) (n : Nat) {c : Nat} (hc : c < 8) (cs : List Nat) (t : State) :
    bit ((cs.foldl (fun s x => pfcClass s n x (quanta.getD x 0)) t).port n).pfc c =
      if c ∈ cs ∧ bit (t.get (F.MAC_PAUSE_CTL_RX_PFC_EN n)) c = true then
        (if quanta.getD c 0 = 0 then false else if bit (t.get (F.MAC_PAUSE_STATE_WD_BROKEN n)) c then bit (t.port n).pfc c else true)
      else bit (t.port n).pfc c := by
  induction cs generalizing t with
  | nil => simp
  | cons x xs ih =>
    obtain ⟨hen, hpfc, hbroken⟩ := pfcClass_bits t n x (quanta.getD x 0) hc
    rw [List.foldl_cons, ih, hen, hpfc, hbroken]
    by_cases hx : c = x
    · subst hx
      generalize quanta.getD c 0 = q
      by_cases hon : bit (t.get (F.MAC_PAUSE_CTL_RX_PFC_EN n)) c = true
      · by_cases hq : q = 0
        · simp [hon, hq]
        · by_cases hb : bit (t.get (F.MAC_PAUSE_STATE_WD_BROKEN n)) c = true <;> simp [hon, hq, hb]
      · simp [hon]
    · simp [hx]

theorem pfcClasses_rest (quanta : List Nat) (n : Nat) (cs : List Nat) (t : State) :
    (cs.foldl (fun s x => pfcClass s n x (quanta.getD x 0)) t).cnt = t.cnt ∧ MemSame t (cs.foldl (fun s x => pfcClass s n x (quanta.getD x 0)) t) := by
  refine foldl_keeps (P := fun u => u.cnt = t.cnt ∧ MemSame t u) (fun u x hu => ?_) cs ⟨rfl, fun _ => rfl⟩
  unfold pfcClass
  split
  · exact hu
  · dsimp only
    split
    · exact hu
    · split
      · exact hu
      · exact hu

theorem pfcRx_holds (ha : s.pst = 3) (hp : portPresent s n = true) (hup : s.linkUp n = true) (en : BitVec 8) (quanta : List Nat) :
    Runs (.pfcRx n en quanta) s fun u => Counted s u (F.MAC_PFC_RX n) ∧ MemSame s u ∧ u.get (F.MAC_PAUSE_STATE_PAUSED n) = pausedMask u n % 256 ∧
      ∀ c, c < 8 → bit (u.port n).pfc c =
        if bit en.toNat c && bit (s.get (F.MAC_PAUSE_CTL_RX_PFC_EN n)) c then
          (if quanta.getD c 0 = 0 then false else if bit (s.get (F.MAC_PAUSE_STATE_WD_BROKEN n)) c then bit (s.port n).pfc c else true)
        else bit (s.port n).pfc c := by
  have hrun : execPfcRx n en quanta s = .next (showPaused ((bitList en.toNat 8).foldl (fun s c => pfcClass s n c (quanta.getD c 0)) (s.count (F.MAC_PFC_RX n))) n) := by
    have ha' : ¬ (s.count (F.MAC_PFC_RX n)).pst = 4 := pst_ne_rest ha
    simp only [execPfcRx, receives_active ha hp hup, Bool.not_true, Bool.false_eq_true, if_false, ha']
  obtain ⟨hcnt, hmem⟩ := pfcClasses_rest quanta n (bitList en.toNat 8) (s.count (F.MAC_PFC_RX n))
  refine ⟨_, hrun, ?_, hmem, showPaused_paused _ _, fun c hc => ?_⟩
  · rw [Counted, showPaused_live, State.live, hcnt]
    exact State.live_count_self (s := s) _ 1
  · rw [showPaused_port, pfcClasses_bit quanta n hc]
    simp only [bitList, List.mem_filter, List.mem_range, hc, true_and, Bool.and_eq_true]
    rfl

/-! ### The end of a pause, and the watchdog -/

theorem pauseExpiry_all (hp : portPresent s n = true) :
    Runs (.pauseExpiry n none) s fun u => u.port n = { s.port n with llp := 0 } ∧ u.get (F.MAC_PAUSE_STATE_PAUSED n) = (s.port n).pfc % 256 ∧
      u.get (F.MAC_PAUSE_STATE_LLP n) = 0 ∧ MemSame s u := by
  have hrun : execPauseExpiry n none s = .next (showPaused (s.setPort n { s.port n with llp := 0 }) n) := by
    simp only [execPauseExpiry, hp, Bool.not_true, Bool.false_eq_true, if_false]
  have hport : (s.setPort n { s.port n with llp := 0 }).port n = { s.port n with llp := 0 } := port_setPort_same _ _ _
  refine ⟨_, hrun, hport, ?_, ?_, fun _ => rfl⟩
  · rw [showPaused_paused, pausedMask, hport, Nat.zero_or]
  · rw [showPaused_llp, hport]
    rfl

theorem pauseExpiry_class (hp : portPresent s n = true) (c : Nat) :
    Runs (.pauseExpiry n (some c)) s fun u => (∀ k, bit (u.port n).pfc k = (bit (s.port n).pfc k && k != c)) ∧
      u.get (F.MAC_PAUSE_STATE_PAUSED n) = pausedMask u n % 256 ∧ MemSame s u := by
  have hrun : execPauseExpiry n (some c) s = .next (showPaused (s.setPort n { s.port n with pfc := putBit (s.port n).pfc c false }) n) := by
    simp only [execPauseExpiry, hp, Bool.not_true, Bool.false_eq_true, if_false]
  refine ⟨_, hrun, fun k => ?_, showPaused_paused _ _, fun _ => rfl⟩
  rw [showPaused_port, port_setPort_same]
  simp only [bit_putBit]
  by_cases hk : k = c <;> simp [hk]

/-- What the watchdog leaves of the port: neither kind of pause holds the class. -/
def unheld (p : Port) (c : Nat) : Port := { p with pfc := putBit p.pfc c false, llp := if bit p.llp c then 0 else p.llp }

theorem bit_or (v w c : Nat) : bit (v ||| w) c = (bit v c || bit w c) := Nat.testBit_or ..

theorem unheld_bit (p : Port) (c : Nat) : bit ((unheld p c).llp ||| (unheld p c).pfc) c = false := by
  rw [bit_or]
  simp only [unheld, bit_putBit, if_true, Bool.or_false]
  split
  · exact bit_zero c
  · exact Bool.eq_false_iff.2 ‹_›

theorem pauseWatchdog_breaks {c : Nat} (hc : c < 8) (hw : watchdogOn s n = true) (hheld : bit (pausedMask s n) c = true) :
    Runs (.pauseWatchdogExpiry n c) s fun u => bit (pausedMask u n) c = false ∧ PortEvent s u n 3 ∧ MemSame s u ∧
      bit (u.get (F.MAC_PAUSE_STATE_WD_BROKEN n)) c = true ∧ Counted s u (F.MAC_PAUSE_WD n) := by
  have hrun : execPauseWatchdogExpiry n c s = .next (showPaused (((((s.setPort n (unheld (s.port n) c)).set (F.MAC_PAUSE_STATE_WD_BROKEN n)
      (s.get (F.MAC_PAUSE_STATE_WD_BROKEN n) ||| 2 ^ c)).count (F.MAC_PAUSE_WD n)).set (F.PORT_STATUS_LAST n) 3).bump (F.PORT_STATUS_SEQ n)) n) := by
    simp only [execPauseWatchdogExpiry, hw, show ¬ 8 ≤ c by omega, hheld, Bool.not_true, decide_false, Bool.or_self, Bool.false_eq_true, if_false]
    rfl
  have hne : (F.MAC_PAUSE_STATE_WD_BROKEN n).off ≠ (F.PORT_STATUS n).off := by simp [F.MAC_PAUSE_STATE_WD_BROKEN, F.PORT_STATUS]
  refine ⟨_, hrun, ?_, ?_, fun _ => rfl, ?_, State.live_count_self (s := (s.setPort n _).set _ _) (F.MAC_PAUSE_WD n) 1⟩
  · have hport : (s.setPort n (unheld (s.port n) c)).port n = unheld (s.port n) c := port_setPort_same _ _ _
    rw [pausedMask, showPaused_port]
    exact (congrArg (fun p : Port => bit (p.llp ||| p.pfc) c) hport).trans (unheld_bit _ c)
  · refine (portEvent_bump (x := 3) (by decide) ?_).congr (showPaused_status _ n rfl) (showPaused_status _ n rfl)
    exact State.get_set_ne (h := F.PORT_STATUS_SEQ n) (f := F.MAC_PAUSE_STATE_WD_BROKEN n) _ _ (Ne.symm hne)
  · rw [showPaused_broken, State.bump, State.get_set_ne (f := F.PORT_STATUS_SEQ n) _ _ hne, State.get_set_ne (f := F.PORT_STATUS_LAST n) _ _ hne, State.count_get,
      bit_broken_set _ _ _ hc, bit_or, show bit (2 ^ c) c = true from Nat.testBit_two_pow_self, Bool.or_true]

theorem pauseWatchdogIgnoreEnd_clears (hp : portPresent s n = true) {c : Nat} (hc : c < 8) :
    Runs (.pauseWatchdogIgnoreEnd n c) s fun u => u.fb = s.fb ∧ MemSame s u ∧ RegsBut s u [(F.MAC_PAUSE_STATE n).off] ∧
      ∀ k, bit (u.get (F.MAC_PAUSE_STATE_WD_BROKEN n)) k = (bit (s.get (F.MAC_PAUSE_STATE_WD_BROKEN n)) k && k != c) := by
  have hrun : execPauseWatchdogIgnoreEnd n c s = .next (s.set (F.MAC_PAUSE_STATE_WD_BROKEN n) (putBit (s.get (F.MAC_PAUSE_STATE_WD_BROKEN n)) c false)) := by
    simp only [execPauseWatchdogIgnoreEnd, hp, hc, decide_true, Bool.and_self, if_true]
  refine ⟨_, hrun, rfl, fun _ => rfl, regsBut_set s _ _, fun k => ?_⟩
  by_cases hk : k < 8
  · rw [bit_broken_set _ _ _ hk, bit_putBit]
    by_cases hkc : k = c <;> simp [hkc]
  · have habove (t : State) : bit (t.get (F.MAC_PAUSE_STATE_WD_BROKEN n)) k = false := by
      rw [State.get, bit, testBit_bits_eq, decide_eq_false (by simp only [F.MAC_PAUSE_STATE_WD_BROKEN]; omega), Bool.false_and]
    rw [habove, habove, Bool.false_and]

theorem pfcResend_renews (ha : s.pst = 3) (hn : n < 32) (hup : s.linkUp n = true) (hq : quiesced s n = false) (hcut : (s.port n).cut = none) {c : Nat}
    (hc : c < 8) (hx : bit (s.port n).xoff c = true) (hover : xoffBytes s n < fromIngress s n c) :
    Runs (.pfcResendTimer n c) s fun u => u.out = s.out ++ [.pause n (2 ^ c) 0xFFFF] ∧ Counted s u (F.FAB_PFC_SENT n) ∧ u.fb = s.fb ∧ RegsBut s u [] ∧
      MemSame s u := by
  have hrun : execPfcResendTimer n c s = .next ((sendCtl s n (2 ^ c) 0xFFFF).count (F.FAB_PFC_SENT n)) := by
    simp only [execPfcResendTimer, show ¬ 32 ≤ n by omega, hup, Bool.not_true, decide_false, Bool.or_self, Bool.false_eq_true, if_false, ha,
      show ¬ (3 : Nat) = 5 by decide, hc, hx, hover, decide_true, Bool.and_self, if_true, sendPfc, ctlSend, hq, hcut, Option.isSome_none, Bool.false_and]
  have h1 : (F.FAB_PFC_SENT n).key ≠ (F.MAC_TX_FRAMES n).key := by simp [RF.key, F.FAB_PFC_SENT, F.MAC_TX_FRAMES]
  have h2 : (F.FAB_PFC_SENT n).key ≠ { F.MAC_TX_BYTES_LO n with wid := 64 }.key := by simp [RF.key, F.FAB_PFC_SENT, F.MAC_TX_BYTES_LO]
  refine ⟨_, hrun, rfl, ?_, rfl, fun _ _ => rfl, fun _ => rfl⟩
  have hctl : (sendCtl s n (2 ^ c) 0xFFFF).live (F.FAB_PFC_SENT n) = s.live (F.FAB_PFC_SENT n) :=
    (State.live_count_ne _ _ h2).trans (State.live_count_ne (s := s.emit (.pause n (2 ^ c) 0xFFFF)) _ h1)
  rw [Counted, State.live_count_self, hctl]

end Status

/-- Settles O49: links, PORT_CFG, and pauses with their watchdog. -/
theorem linksAndPauses : Obligations.LinksAndPauses := by
  intro s n ha hh hn hp p st
  have hst {u : State} {x : Nat} (h : PortEvent s u n x) (hm : MemSame s u) : st u x := ⟨h.last, h.seq, hm⟩
  refine ⟨fun ht hd => ?_, fun hup => ?_, fun v hen hw => portCfgWrite_keeps ha hh hn hp hen hw, fun v hen hup => ?_,
    fun hup quanta => ⟨fun hen => ⟨pauseRx_holds ha hp hup hen, fun hq => hq ▸ pauseRx_ends ha hp hup hen⟩, fun hen => pauseRx_ignored ha hp hup hen quanta⟩,
    fun hup en quanta => pfcRx_holds ha hp hup en quanta, pauseExpiry_all hp, fun c hc => ⟨pauseExpiry_class hp c, fun hw hheld => ?_,
      pauseWatchdogIgnoreEnd_clears hp hc, fun hup hq hcut hx hover => pfcResend_renews ha hn hup hq hcut hc hx hover⟩⟩
  · exact (linkUp_raises ha ht hd).imp fun u ⟨hl, he, hm, hrest⟩ => ⟨hl, hst he hm, hrest⟩
  · obtain ⟨hport, hdowns, hdiscard⟩ := linkGoesDown_port hup
    refine ⟨linkGoesDown s n, congrArg Host.Outcome.next (if_pos hp), linkUp_linkGoesDown s n, hst (linkGoesDown_event hup) (linkGoesDown_memSame s n),
      by rw [hport]; rfl, by rw [hport]; rfl, by rw [hport]; rfl, hdowns, hdiscard, linkGoesDown_alone hup⟩
  · exact (portCfgWrite_disables ha hh hn hp hen hup).imp fun u ⟨hl, he, hm, hrest⟩ => ⟨hl, hst he hm, hrest⟩
  · exact (pauseWatchdog_breaks hc hw hheld).imp fun u ⟨hb, he, hm, hrest⟩ => ⟨hb, hst he hm, hrest⟩

end Sys2Proof.Machine

/-! ## A bad frame that has been cut through spends the tokens of its egress's shaper (R357, R376) -/

namespace Sys2Proof.Machine

/-- A state in Active with ports 1 and 2 up and a shaper on class 2 of port 2. -/
def shapedState : State :=
  let s := { State.reset.set F.PWR_STATE_STATE 3 with pw := { State.reset.pw with held := false } }
  ((((s.set F.TRN_ID_ENDPOINT 9).set (F.PORT_STATUS_LINK 1) 1).set (F.PORT_STATUS_LINK 2) 1).set (F.FAB_SHAPE_RATE_RATE 2 2) 1).set
    (F.PORT_CFG_MAXF 1) 9000

/-- A WRITE that passes port 2 next, in class 2. -/
def shapedPacket : Packet :=
  { type := 0, dqp := 3, srcEp := 5, dstEp := 9, psn := 40, hops := 2, path := 2, tc := 2, payload := List.replicate 20 7#8, pieces := [0#64] }

/-- The packet's frame, arriving at port 1 with a bad FCS. -/
def badArrival : RxArrival := ⟨1, .speron shapedPacket, 100, false, 0, 0⟩

/-- The switch has begun to send the frame at port 2: stomping it takes its length from the shaper's tokens there. -/
theorem badArrival_tokens : (receiveFrames shapedState [badArrival]).fb ≠ shapedState.fb := by
  have htokens : ((receiveFrames shapedState [badArrival]).port 2).tokens ≠ (shapedState.port 2).tokens := by decide +kernel
  intro hfb
  exact htokens (by rw [State.port, State.port, hfb])

theorem exec_badArrival : exec (.frameReceived badArrival []) shapedState = .next (receiveFrames shapedState [badArrival]) := by
  rfl

/-- Refutes O48: the statement has a frame with a bad FCS change no port. Where the frame goes out cut through, at a port that shapes its class, R357's
stomp sends it with a bad FCS and takes its length from that port's tokens. -/
theorem not_frameForwarding : ¬ Obligations.FrameForwarding := by
  unfold Obligations.FrameForwarding
  intro hall
  obtain ⟨hframes, -⟩ := hall shapedState 1 (by decide +kernel) (by decide) (by decide +kernel) (by decide +kernel) (by decide +kernel)
  obtain ⟨-, -, hfits⟩ := hframes shapedPacket 100
  obtain ⟨hbad, -⟩ := hfits (by decide) (by decide +kernel)
  obtain ⟨u, hexec, ⟨-, -, hfb⟩, -⟩ := hbad
  have hu : receiveFrames shapedState [badArrival] = u := by
    have h := exec_badArrival.symm.trans hexec
    injection h
  exact badArrival_tokens (hu ▸ hfb)

end Sys2Proof.Machine

/-! ## A host link that goes down (R66, R457) -/

namespace Sys2Proof.Machine

/-- `strayState` with the link of host port 1 up. -/
def strayLinkState : State := strayState.set (F.HOST_PORT_STATUS_LINK 1) 1

theorem exec_hostLinkDown_stray : exec (.hostLinkDown 1) strayLinkState = .next (hostPortLost strayLinkState 1) := by
  refine congrArg Host.Outcome.next (if_neg ?_)
  decide

theorem strayLink_ctx : 192 ∈ portCtxs strayLinkState 1 := by decide

/-- As at the loss of PERST_N, the stray descriptor completes into the register that shows context 192. -/
theorem strayLink_ctxState : (hostPortLost strayLinkState 1).ctxState 192 = 3 := by decide +kernel

theorem strayLink_quiet : Quiet (hostPortLost strayLinkState 1) := by
  unfold Quiet
  decide +kernel

/-- A quiet turn of the collector leaves every context's state. -/
theorem settle_ctxState {u : State} (h : Quiet (settle u)) (ctx : Nat) : (settle u).ctxState ctx = u.ctxState ctx := by
  obtain ⟨hregs, hvariant⟩ := settle_quiet u h
  rw [State.ctxState, State.ctxState, State.get, State.get, State.reg, State.reg, hregs, hvariant]

/-- Refutes O52: the statement puts no bound on the engine number of a queued descriptor. With one of domain 0x51, the loss of a host port's link resets
context 192 (STATE 2), then context 193, whose descriptor completes into the register that shows context 192: its STATE reads 3. -/
theorem not_hostFunctions : ¬ Obligations.HostFunctions := by
  unfold Obligations.HostFunctions
  rintro ⟨-, -, -, -, hlinks, -⟩
  obtain ⟨-, hdown⟩ := hlinks strayLinkState 1 (by decide) (by decide)
  obtain ⟨u, hexec, -, -, hctx⟩ := hdown (by decide)
  have hsettled : hostPortLost strayLinkState 1 = settle u := by
    have h := exec_hostLinkDown_stray.symm.trans hexec
    injection h
  have hsame := settle_ctxState (hsettled ▸ strayLink_quiet : Quiet (settle u)) 192
  have hthree : u.ctxState 192 = 3 := by rw [← hsame, ← hsettled, strayLink_ctxState]
  have htwo : u.ctxState 192 = 2 := hctx 192 strayLink_ctx
  omega

end Sys2Proof.Machine

/-! ## A freeze of a context that no register shows (R458) -/

namespace Sys2Proof.Machine

/-- In Active, context 513 is being frozen and has nothing running. Its HOST_CTX_MAP would stand at 0x610904, where CTXM_EVENT stands. -/
def strayFreeze : State :=
  { State.reset with
    regs := [(F.PWR_STATE.off, 3#32)]
    pw := { Power.reset with held := false }
    ho := { Hosts.reset with frozen := [(513, {})], freezing := some 513 } }

/-- What its FREEZE_COMPLETE leaves. -/
def strayFrozen : State :=
  ctxmDone (State.set { strayFreeze with ho := { strayFreeze.ho with frozen := [(513, { done := true })], freezing := none } }
    (F.HOST_CTX_MAP_STATE 513) 3) 0

/-- RESULT 0 of CTXM_EVENT clears the bits that would show STATE 3. -/
theorem strayFrozen_ctxState : strayFrozen.ctxState 513 = 0 := by decide

theorem exec_freezeComplete_stray : exec (.freezeComplete 513) strayFreeze = .next strayFrozen := by
  refine congrArg Host.Outcome.next (if_neg ?_)
  decide

/-- Refutes O53: its clause on FREEZE_COMPLETE puts no bound on the context. For context 513, which no adapter has, the register that would show STATE 3
is CTXM_EVENT, and the freeze's RESULT 0 overwrites it. -/
theorem not_tenants : ¬ Obligations.Tenants := by
  unfold Obligations.Tenants
  rintro ⟨-, -, hfreeze⟩
  obtain ⟨u, hexec, -, -, hstate, -⟩ := hfreeze strayFreeze 513 {} (by decide) (by decide) (by decide) (by decide)
  have hu : strayFrozen = u := by
    have h := exec_freezeComplete_stray.symm.trans hexec
    injection h
  rw [← hu, strayFrozen_ctxState] at hstate
  exact absurd hstate (by decide)

end Sys2Proof.Machine

/-! ## Which counters a completion moves (R448, R449) -/

namespace Sys2Proof.Machine

section CntBut

variable {s t u : State} {fs gs : List RF}

theorem CntBut.of_cnt (h : u.cnt = s.cnt) : CntBut s u fs := fun _ _ => by rw [h]

theorem CntBut.refl (s : State) (fs : List RF) : CntBut s s fs := .of_cnt rfl

theorem CntBut.trans (h : CntBut s t fs) (k : CntBut t u fs) : CntBut s u fs := fun x hx => (k x hx).trans (h x hx)

theorem CntBut.mono (h : CntBut s u fs) (hl : fs ⊆ gs) : CntBut s u gs :=
  fun x hx => h x fun hm => hx (List.map_subset _ hl hm)

theorem CntBut.count (s : State) {f : RF} (n : Nat) (hf : f ∈ fs) : CntBut s (s.count f n) fs :=
  fun _ hx => smGet_smSet_ne _ _ _ fun e => hx (e ▸ List.mem_map_of_mem hf)

theorem CntBut.foldl {α : Type} {f : State → α → State} (hf : ∀ t x, CntBut t (f t x) fs) (l : List α) (s : State) : CntBut s (l.foldl f s) fs :=
  foldl_keeps (P := fun t => CntBut s t fs) (fun t x h => h.trans (hf t x)) l (refl s fs)

/-- A counter that is not among them. -/
theorem CntBut.live (h : CntBut s u fs) {f : RF} (hf : f.key ∉ fs.map RF.key) : u.live f = s.live f := h _ hf

end CntBut

/-- The counters of a completion queue's writes: entries that wait, and messages. -/
def cqCounters : List RF := [F.HOST_CQ_FULL_WAITS, F.HOST_MSIX_SENT]

variable (s : State)

theorem cntBut_sendMsix (ctx v : Nat) : CntBut s (s.sendMsix ctx v) cqCounters := by
  unfold State.sendMsix
  split
  · exact .refl s _
  · split
    · exact .of_cnt rfl
    · exact .trans (t := s.emit (.msix ctx v)) (.of_cnt rfl) (.count _ 1 (by simp [cqCounters]))

theorem cntBut_cqFire (n : Nat) : CntBut s (s.cqFire n) cqCounters := by
  unfold State.cqFire
  split
  · exact .refl s _
  next q _ =>
    split
    · exact .trans (t := { s with ho := { s.ho with cqs := smSet s.ho.cqs n { q with armed := false } } }) (.of_cnt rfl) (cntBut_sendMsix _ _ _)
    · exact .refl s _

theorem cntBut_cqWrite (n : Nat) (q : Cq) (e : List Byte) : CntBut s (s.cqWrite n q e) cqCounters := by
  unfold State.cqWrite
  exact .trans (.of_cnt rfl) (cntBut_cqFire _ n)

theorem sqAsk_cnt (k : Nat) : (sqAsk s k).cnt = s.cnt := by
  unfold sqAsk
  dsimp only
  split <;> rfl

theorem sqFetch_cnt (k : Nat) : (sqFetch s k).cnt = s.cnt := by
  unfold sqFetch
  split
  · exact sqAsk_cnt s k
  · rfl

theorem sqFetchAll_cnt : (sqFetchAll s).cnt = s.cnt := by
  have hall (ks : List Nat) : (ks.foldl sqFetch s).cnt = s.cnt :=
    foldl_keeps (P := fun t => t.cnt = s.cnt) (fun t k h => (sqFetch_cnt t k).trans h) ks rfl
  unfold sqFetchAll
  dsimp only
  split <;> exact hall _

theorem trkBack_cnt (no : Nat) : (s.trkBack no).cnt = s.cnt := by
  have hgiven : (reclaim (s.trkGive no)).cnt = s.cnt := reclaim_cnt _
  unfold State.trkBack
  dsimp only
  split
  · rw [sqFetchAll_cnt, hgiven]
  · exact hgiven

theorem cqDone_cnt (no : Option Nat) : (s.cqDone none no).cnt = s.cnt := by
  cases no with
  | none => rfl
  | some n => exact trkBack_cnt s n

theorem cntBut_cqPost (n : Nat) (e : List Byte) (no : Option Nat) : CntBut s (s.cqPost n e none no) cqCounters := by
  unfold State.cqPost
  split
  · exact .of_cnt (cqDone_cnt s no)
  next q _ =>
    split
    · exact .of_cnt (cqDone_cnt s no)
    · dsimp only
      split
      · exact .of_cnt rfl
      · split
        · exact .trans (t := s.cqHold n q (e, none, no)) (.of_cnt rfl) (.count _ 1 (by simp [cqCounters]))
        · exact (cntBut_cqWrite s n q e).trans (.of_cnt (cqDone_cnt _ no))

theorem cntBut_cqOwnPost (ctx n : Nat) (e : List Byte) (no : Nat) : CntBut s (s.cqOwnPost ctx n e no) cqCounters := by
  unfold State.cqOwnPost
  split
  · exact cntBut_cqPost s n e _
  · exact .of_cnt (cqDone_cnt s _)

end Sys2Proof.Machine

/-! ## What a reaction leaves of the collector's block (R501–R507) -/

namespace Sys2Proof.Machine

/-- The registers below those of the tick, but those of `l`, and their counters are as before. -/
structure FenceKept (l : List Nat) (s u : State) : Prop where
  regs : ∀ o, o < 0x20000 → o ∉ l → u.reg o = s.reg o
  cnt : ∀ k, k < 32 * 0x20000 → smGet u.cnt k 0 = smGet s.cnt k 0

namespace FenceKept

variable {s t u : State} {l l' : List Nat}

theorem of_rest (hr : u.regs = s.regs) (hv : u.variant = s.variant) (hc : u.cnt = s.cnt) : FenceKept l s u :=
  ⟨fun o _ _ => by rw [State.reg, State.reg, hr, hv], fun _ _ => by rw [hc]⟩

theorem refl (l : List Nat) (s : State) : FenceKept l s s := of_rest rfl rfl rfl

theorem trans (h : FenceKept l s t) (k : FenceKept l t u) : FenceKept l s u :=
  ⟨fun o ho hl => (k.regs o ho hl).trans (h.regs o ho hl), fun x hx => (k.cnt x hx).trans (h.cnt x hx)⟩

theorem mono (h : FenceKept l s t) (hl : l ⊆ l') : FenceKept l' s t := { h with regs := fun o ho hn => h.regs o ho fun hm => hn (hl hm) }

theorem foldl {α : Type} {f : State → α → State} (hf : ∀ t x, FenceKept l t (f t x)) (xs : List α) (s : State) : FenceKept l s (xs.foldl f s) :=
  foldl_keeps (P := FenceKept l s) (fun t x h => h.trans (hf t x)) xs (refl l s)

theorem setReg (s : State) {off : Nat} (v : Nat) (h : 0x20000 ≤ off ∨ off ∈ l) : FenceKept l s (s.setReg off v) :=
  ⟨fun o ho hl => s.reg_setReg_ne v fun e => by subst e; exact h.elim (by omega) hl, fun _ _ => rfl⟩

theorem set (s : State) {f : RF} (v : Nat) (h : 0x20000 ≤ f.off ∨ f.off ∈ l) : FenceKept l s (s.set f v) := setReg s _ h

theorem bump (s : State) {f : RF} (h : 0x20000 ≤ f.off ∨ f.off ∈ l) : FenceKept l s (s.bump f) := set s _ h

theorem count (s : State) {f : RF} (n : Nat) (h : 0x20000 ≤ f.off) : FenceKept l s (s.count f n) := by
  refine ⟨fun _ _ _ => rfl, fun k hk => smGet_smSet_ne _ _ _ ?_⟩
  rw [RF.key]
  omega

/-- Counters that all stand above the collector's. -/
theorem cnt_of_cntBut {fs : List RF} (h : CntBut s u fs) (hf : ∀ f ∈ fs, 0x20000 ≤ f.off) : ∀ k, k < 32 * 0x20000 → smGet u.cnt k 0 = smGet s.cnt k 0 := by
  refine fun k hk => h k fun hm => ?_
  obtain ⟨f, hmem, rfl⟩ := List.mem_map.mp hm
  have := hf f hmem
  rw [RF.key] at hk
  omega

theorem of_cqFrame (h : CqFrame s u) (hc : CntBut s u cqCounters) : FenceKept l s u :=
  ⟨fun o ho _ => h.regs o (by omega), cnt_of_cntBut hc (by decide)⟩

theorem get (h : FenceKept l s u) {f : RF} (ho : f.off < 0x20000) (hl : f.off ∉ l) : u.get f = s.get f := congrArg (bits · f.lo f.wid) (h.regs _ ho hl)

theorem live (h : FenceKept l s u) {f : RF} (hf : f.key < 32 * 0x20000) : u.live f = s.live f := h.cnt _ hf

end FenceKept

open FenceKept

/-! ### Memory and descriptors (R147, R284–R286) -/

section Engines

variable (l : List Nat) (s : State)

/-- A domain's registers and those of a port or bay lie above the collector's. -/
theorem domBase_high (d k : Nat) : 0x20000 ≤ domBase d + k ∨ domBase d + k ∈ l := by
  left
  unfold domBase
  omega

theorem bayBase_high (m k : Nat) : 0x20000 ≤ bayBase m + k ∨ bayBase m + k ∈ l := by
  left
  unfold bayBase
  omega

theorem fenceKept_setBytes (a : Nat) (bs : List Byte) : FenceKept l s (s.setBytes a bs) := by
  obtain ⟨m, h⟩ := setBytes_eq s a bs
  rw [h]
  exact of_rest rfl rfl rfl

theorem fenceKept_sumLine (tile : Nat) : FenceKept l s (s.sumLine tile) := by
  have hcount (k : Nat) : FenceKept l s (s.count (F.HBM_CSUM_MISS k)) := count s 1 (by show 0x20000 ≤ 0x301010 + 0x100 * k; omega)
  unfold State.sumLine
  split
  · exact refl l s
  · dsimp only
    split
    · exact refl l s
    · refine (hcount (stackOf s.variant (tile <<< 11))).trans ?_
      split <;> exact of_rest rfl rfl rfl

/-- A check failure shows in MEM_TCHK_EVENT and its counters. -/
theorem fenceKept_tileFail (req tile : Nat) : FenceKept l s (s.tileFail req tile) := by
  have hfail : FenceKept l s { s with mem := { s.mem with failAddr := (tile <<< 11) % 2 ^ 48 } } := of_rest rfl rfl rfl
  have hshown (c w x : Nat) := ((((hfail.trans (set _ (f := F.MEM_TCHK_EVENT_CAUSE) c (.inl (by decide)))).trans
    (set _ (f := F.MEM_TCHK_EVENT_REQ) req (.inl (by decide)))).trans (set _ (f := F.MEM_TCHK_EVENT_WHERE) w (.inl (by decide)))).trans
    (set _ (f := F.MEM_TCHK_EVENT_UNIT) x (.inl (by decide)))).trans (bump _ (f := F.MEM_TCHK_EVENT_SEQ) (.inl (by decide)))
  have hraise (t : State) (src unit detail : Nat) : FenceKept l t (t.raise src unit detail) := of_rest rfl rfl rfl
  have hfails (t : State) (k : Nat) : FenceKept l t (t.count (F.HBM_TCHK_FAIL k)) := count t 1 (by show 0x20000 ≤ 0x301008 + 0x100 * k; omega)
  have hbank (t : State) (b : Nat) : FenceKept l t (t.count (F.STG_TCHK_FAIL b)) := count t 1 (by show 0x20000 ≤ 0x302000 + 0x100 * b; omega)
  have hecc (t : State) (k n : Nat) : FenceKept l t (t.count (F.HBM_ECC_UNCORR k) n) := count t n (by show 0x20000 ≤ 0x301004 + 0x100 * k; omega)
  unfold State.tileFail
  dsimp only
  split
  · exact ((hshown _ _ _).trans (hbank _ _)).trans (hraise _ _ _ _)
  · refine (((hshown (tileCause (s.tileBad tile)) 0 (stackOf s.variant (tile <<< 11))).trans
      (hfails _ (stackOf s.variant (tile <<< 11)))).trans ?_).trans (hraise _ 21 (stackOf s.variant (tile <<< 11)) (tileCause (s.tileBad tile)))
    split
    · exact refl l _
    · exact hecc _ _ _

theorem fenceKept_tileCheck (req tile : Nat) : FenceKept l s (s.tileCheck req tile).1 := by
  unfold State.tileCheck
  split
  · exact refl l s
  · split
    · exact fenceKept_sumLine l s tile
    · exact (fenceKept_sumLine l s tile).trans (fenceKept_tileFail l _ req tile)

theorem fenceKept_tileWrite (req a : Nat) (bs : List Byte) : FenceKept l s (tileWrite s req a bs).1 := by
  have hcheck := fenceKept_tileCheck l s req (tileOf a)
  have hstg (t : State) : FenceKept l t (t.count (F.STG_RMW (stgBank a))) := count t 1 (by show 0x20000 ≤ 0x302004 + 0x100 * stgBank a; omega)
  have hhbm (t : State) : FenceKept l t (t.count (F.HBM_RMW (stackOf t.variant a))) :=
    count t 1 (by show 0x20000 ≤ 0x30100c + 0x100 * stackOf t.variant a; omega)
  unfold tileWrite
  dsimp only
  split
  · exact refl l s
  · split
    · exact ((fenceKept_sumLine l s _).trans (fenceKept_setBytes l _ a bs)).trans (of_rest rfl rfl rfl)
    · split
      next t h =>
        rw [h] at hcheck
        refine .trans (hcheck.trans ?_) (fenceKept_setBytes l _ a bs)
        split
        · exact hstg t
        · exact hhbm t
      next => exact hcheck

theorem fenceKept_writePieces (req : Nat) (ps : List (Nat × List Byte)) : FenceKept l s (writePieces s req ps).1 := by
  induction ps generalizing s with
  | nil => exact refl l s
  | cons p ps ih => exact (fenceKept_tileWrite l s req p.1 p.2).trans (ih _)

theorem fenceKept_writeRec (d : Desc) (a : Nat) (bs : List Byte) : FenceKept l s (writeRec s d a bs) := by
  unfold writeRec
  split
  · exact fenceKept_writePieces l s _ _
  · exact refl l s

theorem fenceKept_noteCode (kind dom code : Nat) : FenceKept l s (noteCode s kind dom code) := by
  unfold noteCode
  split
  · exact refl l s
  · split
    · exact (set s code (domBase_high l _ _)).trans (bump _ (domBase_high l _ _))
    · split
      · exact (set s code (domBase_high l _ _)).trans (bump _ (domBase_high l _ _))
      · exact refl l s

theorem fenceKept_finishDesc (d : Desc) (units : Nat) (tail : List (Nat × List Byte)) (code : Nat) :
    FenceKept l s (finishDesc s d units tail code) := by
  have htail := FenceKept.foldl (f := fun s (t : Nat × List Byte) => writeRec s d (recAddr d.w (recWord (dKind d.w)) + t.1) t.2)
    (fun t x => fenceKept_writeRec l t d _ x.2) tail s
  have hnote (t : State) : FenceKept l t ((noteCode t (dKind d.w) (d.eng / 4) code).endDesc d code) :=
    (fenceKept_noteCode l t _ _ _).trans (of_rest rfl rfl rfl)
  unfold finishDesc
  dsimp only
  split
  · exact (htail.trans (fenceKept_writeRec l _ _ _ _)).trans (hnote _)
  · exact htail.trans (hnote _)

theorem fenceKept_domCount {f : RF} {d k : Nat} (hf : f.off = domBase d + k) (n : Nat) : FenceKept l s (s.count f n) :=
  count s n (by rw [hf, domBase]; omega)

theorem fenceKept_countBusy (e cost code : Nat) : FenceKept l s (countBusy s e cost code) := by
  unfold countBusy
  split
  next n t h =>
    have ht : FenceKept l s t := by
      split at h <;> cases h <;> exact of_rest rfl rfl rfl
    split
    · exact ht.trans (fenceKept_domCount l t rfl n)
    · exact ht.trans (fenceKept_domCount l t rfl n)
    · exact ht.trans (fenceKept_domCount l t rfl n)
    · exact ht

theorem fenceKept_finishRun (r : Run) (code : Nat) : FenceKept l s (finishRun s r code) :=
  (fenceKept_countBusy l s _ _ _).trans (fenceKept_finishDesc l _ _ _ _ _)

theorem fenceKept_showParked (e : Nat) : FenceKept l s (showParked s e) := by
  unfold showParked
  split
  · exact set s _ (domBase_high l _ _)
  · exact refl l s

theorem fenceKept_endAll (e code : Nat) : FenceKept l s (endAll s e code) := by
  refine .trans (.trans (.trans (t := s.setEngine e _) (of_rest rfl rfl rfl) (FenceKept.foldl ?_ _ _)) (FenceKept.foldl ?_ _ _))
    (fenceKept_showParked l _ _)
  · exact fun t r => fenceKept_finishRun l t r code
  · exact fun t d => fenceKept_finishDesc l t d 0 _ code

end Engines

/-! ### Fences (R505) -/

section Fences

variable (l : List Nat) (s : State)

/-- The registers that show which units are fenced. -/
def fencedRegs : List Nat := [F.FCOL_FENCED_ENG_LO.off, F.FCOL_FENCED_ENG_HI.off, F.FCOL_FENCED_DOM.off, F.FCOL_FENCED_PORT.off]

theorem fenceKept_programEvent (d code kind slot : Nat) : FenceKept l s (programEvent s d code kind slot) := by
  unfold programEvent
  split
  · exact refl l s
  · exact ((set s kind (domBase_high l _ _)).trans (set _ slot (domBase_high l _ _))).trans (bump _ (domBase_high l _ _))

theorem fenceKept_completeProgram (p : Program) (tail : List Byte) (code kind slot : Nat) :
    FenceKept l s (completeProgram s p tail code kind slot) := by
  obtain ⟨thr, hdrop⟩ := dropProgram_eq s p
  have hdropped : FenceKept l s (dropProgram s p) := by
    rw [hdrop]
    exact of_rest rfl rfl rfl
  have hreclaim (t : State) : FenceKept l t (reclaim t) := of_cqFrame (reclaim_frame t) (.of_cnt (reclaim_cnt t))
  exact ((hdropped.trans (fenceKept_programEvent l _ _ _ _ _)).trans (hreclaim _)).trans
    (of_cqFrame (cqOwnPost_frame _ _ _ _ _) (cntBut_cqOwnPost _ _ _ _ _))

theorem fenceKept_refuseLaunch (r : LaunchReq) (no code : Nat) : FenceKept l s (refuseLaunch s r no code) := by
  unfold refuseLaunch
  refine .trans ?_ (of_cqFrame (cqOwnPost_frame _ _ _ _ _) (cntBut_cqOwnPost _ _ _ _ _))
  split
  · exact fenceKept_domCount l s rfl 1
  · exact refl l s

/-! ### Ports (R409, R416) -/

theorem fenceKept_portCount {f : RF} {n k : Nat} (hf : f.off = portBase n + k) (m : Nat) : FenceKept l s (s.count f m) :=
  count s m (by rw [hf, portBase]; omega)

theorem fenceKept_countTx (n len : Nat) : FenceKept l s (countTx s n len) :=
  (fenceKept_portCount l s rfl 1).trans (fenceKept_portCount l _ rfl len)

theorem fenceKept_ctlSend (n enable time : Nat) : FenceKept l s (ctlSend s n enable time) := by
  unfold ctlSend
  split
  · exact refl l s
  · split
    · exact of_rest rfl rfl rfl
    · exact .trans (t := s.emit (.pause n enable time)) (of_rest rfl rfl rfl) (fenceKept_countTx l _ n 64)

theorem fenceKept_pfcFall (i c : Nat) : FenceKept l s (pfcFall s i c) := by
  have hsend (t : State) : FenceKept l t (sendPfc t i c 0) := by
    unfold sendPfc
    split
    · exact (fenceKept_ctlSend l t i _ 0).trans (fenceKept_portCount l _ rfl 1)
    · exact refl l t
  unfold pfcFall
  split
  · exact refl l s
  · dsimp only
    split
    · exact .trans (t := s.setPort i { s.port i with xoff := putBit (s.port i).xoff c false }) (of_rest rfl rfl rfl) (hsend _)
    · exact refl l s

theorem fenceKept_linkCut (n : Nat) : FenceKept l s (linkCut s n) := by
  have hcut : FenceKept l s (match (s.port n).cut with | some f => sendCut s n f | none => s) := by
    cases (s.port n).cut with
    | none => exact refl l s
    | some f => exact .trans (t := (sendFrame s n f.pkt false).fresh.2) (of_rest rfl rfl rfl) (fenceKept_countTx l _ n _)
  unfold linkCut
  exact (hcut.trans (fenceKept_portCount l _ rfl _)).trans (of_rest rfl rfl rfl)

theorem fenceKept_linkLost (n : Nat) : FenceKept l s (linkLost s n) := by
  have hkept := portKept_linkLost s n
  refine ⟨fun o ho _ => hkept.reg ?_, fun _ _ => by rw [(linkLost_rest s n).2.1]⟩
  rw [List.mem_singleton]
  exact Nat.ne_of_lt (ho.trans (by decide))

theorem fenceKept_linkTold (n : Nat) : FenceKept l s (linkTold s n) := by
  have hport (t : State) {f : RF} {k : Nat} (hf : f.off = portBase n + k) (v : Nat) : FenceKept l t (t.set f v) :=
    set t v (.inl (by rw [hf, portBase]; omega))
  unfold linkTold
  exact (((((hport _ (f := F.MAC_PAUSE_STATE_PAUSED n) rfl 0).trans (hport _ (f := F.MAC_PAUSE_STATE_LLP n) rfl 0)).trans
    (hport _ (f := F.MAC_PAUSE_STATE_WD_BROKEN n) rfl 0)).trans (hport _ (f := F.PORT_STATUS_LINK n) rfl 0)).trans
    (hport _ (f := F.PORT_STATUS_LAST n) rfl 1)).trans (hport _ (f := F.PORT_STATUS_SEQ n) rfl _)

theorem fenceKept_linkGoesDown (n : Nat) : FenceKept l s (linkGoesDown s n) := by
  rw [linkGoesDown_eq]
  split
  · exact refl l s
  · rw [linkShown_eq, linkDropped_eq]
    have hfalls (t : State) (fs : List Frame) : FenceKept l t (fs.foldl (fun s f => pfcFall s f.ingress f.cls) t) :=
      FenceKept.foldl (f := fun s (f : Frame) => pfcFall s f.ingress f.cls) (fun t f => fenceKept_pfcFall l t f.ingress f.cls) fs t
    exact ((((fenceKept_linkCut l s n).trans (hfalls _ _)).trans (fenceKept_linkTold l _ n)).trans (fenceKept_portCount l _ rfl 1)).trans (fenceKept_linkLost l _ n)

/-! ### What each fence does (R505) -/

variable {l}

theorem fenceKept_markEngFenced (hlo : F.FCOL_FENCED_ENG_LO.off ∈ l) (hhi : F.FCOL_FENCED_ENG_HI.off ∈ l) (e : Nat) (v : Bool) :
    FenceKept l s (markEngFenced s e v) := by
  unfold markEngFenced
  split
  · exact setReg s _ (.inr hlo)
  · exact setReg s _ (.inr hhi)

theorem fenceKept_fenceEngine (hlo : F.FCOL_FENCED_ENG_LO.off ∈ l) (hhi : F.FCOL_FENCED_ENG_HI.off ∈ l) (e : Nat) : FenceKept l s (fenceEngine s e) := by
  unfold fenceEngine
  split
  · exact refl l s
  · exact (fenceKept_markEngFenced s hlo hhi e true).trans (fenceKept_endAll l _ e 0x7F)

theorem fenceKept_fencePort (hport : F.FCOL_FENCED_PORT.off ∈ l) (n : Nat) : FenceKept l s (fencePort s n) := by
  unfold fencePort
  split
  · exact refl l s
  · exact (setReg s _ (.inr hport)).trans (fenceKept_linkGoesDown l _ n)

/-- What a fenced domain ends once its bit shows. -/
def domainEnded (s : State) (d : Nat) : State :=
  let s := (List.range 4).foldl (fun s k => fenceEngine s (4 * d + k)) s
  let ps := (s.sq.progs.filter fun e => e.2.dom == d).map (·.2)
  let s := ps.foldl (fun s p => completeProgram s p [] 0x7F 0 0) (dropWaiters s d)
  let mine (l : Launch) : Bool := l.r.dom == d
  let ls := s.sq.sigWait.filter mine ++ s.sq.due.filter mine ++ s.sq.lq.filter mine
  let s := { s with sq := { s.sq with
    sigWait := s.sq.sigWait.filter fun l => !mine l,
    due := s.sq.due.filter fun l => !mine l,
    lq := s.sq.lq.filter fun l => !mine l } }
  ls.foldl (fun s l => refuseLaunch s l.r l.p.no 0x7F) s

theorem fenceDomain_eq (d : Nat) : fenceDomain s d =
    if s.domFenced d then s else domainEnded (s.set F.FCOL_FENCED_DOM_DOMAINS (putBit (s.get F.FCOL_FENCED_DOM_DOMAINS) d true)) d := rfl

theorem fenceKept_domainEnded (hlo : F.FCOL_FENCED_ENG_LO.off ∈ l) (hhi : F.FCOL_FENCED_ENG_HI.off ∈ l) (d : Nat) : FenceKept l s (domainEnded s d) := by
  have hengines : FenceKept l s ((List.range 4).foldl (fun s k => fenceEngine s (4 * d + k)) s) :=
    FenceKept.foldl (fun t k => fenceKept_fenceEngine t hlo hhi (4 * d + k)) _ s
  have hprograms (t : State) (ps : List Program) : FenceKept l t (ps.foldl (fun s p => completeProgram s p [] 0x7F 0 0) t) :=
    FenceKept.foldl (fun t p => fenceKept_completeProgram l t p [] 0x7F 0 0) ps t
  have hlaunches (t : State) (ls : List Launch) : FenceKept l t (ls.foldl (fun s l => refuseLaunch s l.r l.p.no 0x7F) t) :=
    FenceKept.foldl (f := fun s (l : Launch) => refuseLaunch s l.r l.p.no 0x7F) (fun t x => fenceKept_refuseLaunch l t x.r x.p.no 0x7F) ls t
  have hwaiters (t : State) : FenceKept l t (dropWaiters t d) := of_rest rfl rfl rfl
  have hqueues (t : State) (w e q : List Launch) : FenceKept l t { t with sq := { t.sq with sigWait := w, due := e, lq := q } } := of_rest rfl rfl rfl
  unfold domainEnded
  exact (((hengines.trans (hwaiters _)).trans (hprograms _ _)).trans (hqueues _ _ _ _)).trans (hlaunches _ _)

theorem fenceKept_writeLife (m : Nat) : FenceKept l s (writeLife s m) := by
  obtain ⟨b, h | h⟩ := writeLife_rest s (m := m) <;> rw [h]
  · exact refl l s
  · exact of_rest rfl rfl rfl

/-- What a fenced bay loses once its bit shows. -/
def bayEnded (s : State) (m : Nat) : State :=
  let s := fencePort (fencePort s (2 * m)) (2 * m + 1)
  let s := if s.get (F.LB_STATUS_STATE m) == 2 then writeLife s m else s
  let s := s.setBay m { s.bay m with quiescing := false }
  (s.set (F.LB_STATUS_STATE m) 5).setReg (F.LB_OUTPUT m).off 0

theorem fenceBay_eq (m : Nat) : fenceBay s m =
    if s.bayFenced m then s else bayEnded (s.set F.FCOL_FENCED_DOM_BAYS (putBit (s.get F.FCOL_FENCED_DOM_BAYS) m true)) m := rfl

theorem fenceKept_bayEnded (hport : F.FCOL_FENCED_PORT.off ∈ l) (m : Nat) : FenceKept l s (bayEnded s m) := by
  have hbay (t : State) (b : Bay) : FenceKept l t (t.setBay m b) := of_rest rfl rfl rfl
  have hdark (t : State) : FenceKept l t ((t.set (F.LB_STATUS_STATE m) 5).setReg (F.LB_OUTPUT m).off 0) :=
    (set _ (f := F.LB_STATUS_STATE m) 5 (bayBase_high l _ _)).trans (setReg _ (off := (F.LB_OUTPUT m).off) 0 (bayBase_high l _ _))
  unfold bayEnded
  refine ((((fenceKept_fencePort s hport (2 * m)).trans (fenceKept_fencePort _ hport (2 * m + 1))).trans ?_).trans (hbay _ _)).trans (hdark _)
  split
  · exact fenceKept_writeLife _ m
  · exact refl l _

theorem fenceKept_fenceDomain (d : Nat) : FenceKept fencedRegs s (fenceDomain s d) := by
  rw [fenceDomain_eq]
  split
  · exact refl _ s
  · exact (set _ _ (.inr (by decide))).trans (fenceKept_domainEnded _ (by decide) (by decide) d)

theorem fenceKept_fenceDie (i : Nat) : FenceKept fencedRegs s (fenceDie s i) := by
  unfold fenceDie
  split
  · exact refl _ s
  · exact .trans (t := { s with fc := { s.fc with ioDies := putBit s.fc.ioDies i true } }) (of_rest rfl rfl rfl)
      (FenceKept.foldl (fun t n => fenceKept_fencePort t (by decide) n) _ _)

theorem fenceKept_fenceBay (m : Nat) : FenceKept fencedRegs s (fenceBay s m) := by
  rw [fenceBay_eq]
  split
  · exact refl _ s
  · exact (set _ _ (.inr (by decide))).trans (fenceKept_bayEnded _ (by decide) m)

/-- A fence changes nothing of the collector's block but the registers that show the fences. -/
theorem fenceKept_fenceUnit (u : FUnit) : FenceKept fencedRegs s (fenceUnit s u) := by
  refine .trans (t := { s with fc := { s.fc with degraded := true } }) (of_rest rfl rfl rfl) ?_
  cases u with
  | engine e => exact fenceKept_fenceEngine _ (by decide) (by decide) e
  | domain d => exact fenceKept_fenceDomain _ d
  | port n => exact fenceKept_fencePort _ (by decide) n
  | ioDie i => exact fenceKept_fenceDie _ i
  | stack k => exact .trans (set _ _ (.inl (by decide))) (of_rest rfl rfl rfl)
  | bay m => exact fenceKept_fenceBay _ m

/-! ### A fenced unit shows (R505) -/

theorem bit_fencedHi_high {i : Nat} (hi : 32 ≤ i) : bit (s.reg F.FCOL_FENCED_ENG_HI.off) i = false := by
  have hreset : regReset s.variant F.FCOL_FENCED_ENG_HI.off = 0 := by cases s.variant <;> decide +kernel
  exact Nat.testBit_lt_two_pow ((reg_lt_of_reset s hreset).trans_le (Nat.pow_le_pow_right (by decide) hi))

theorem engFenced_markEngFenced (e : Nat) (v : Bool) (x : Nat) :
    (markEngFenced s e v).engFenced x = if x = e then v && decide (e < 64) else s.engFenced x := by
  have hne : F.FCOL_FENCED_ENG_LO.off ≠ F.FCOL_FENCED_ENG_HI.off := by decide
  unfold markEngFenced State.engFenced
  by_cases he : e < 32 <;> by_cases hx : x < 32
  · rw [if_pos he, if_pos hx, if_pos hx, bit_reg_setReg _ _ _ hx, bit_putBit]
    simp [show e < 64 by omega]
  · rw [if_pos he, if_neg hx, if_neg hx, State.reg_setReg_ne _ _ hne.symm, if_neg (by omega)]
  · rw [if_neg he, if_pos hx, if_pos hx, State.reg_setReg_ne _ _ hne, if_neg (by omega)]
  · rw [if_neg he, if_neg hx, if_neg hx]
    by_cases hh : x - 32 < 32
    · rw [bit_reg_setReg _ _ _ hh, bit_putBit]
      by_cases hxe : x = e
      · simp [hxe, show e < 64 by omega]
      · rw [if_neg hxe, if_neg (by omega)]
    · rw [bit_fencedHi_high _ (by omega), bit_fencedHi_high _ (by omega)]
      by_cases hxe : x = e
      · simp [hxe, show ¬ e < 64 by omega]
      · rw [if_neg hxe]

/-- A bit of a field of fences, set or cleared. -/
theorem bit_get_setBit {f : RF} (h : f.lo + f.wid ≤ 32) (i : Nat) (v : Bool) :
    bit ((s.set f (putBit (s.get f) i v)).get f) i = (v && decide (i < f.wid)) := by
  rw [State.get_set_self _ _ h, bit, Nat.testBit_mod_two_pow, Bool.and_comm]
  exact congrArg (· && decide (i < f.wid)) ((bit_putBit _ _ _ _).trans (if_pos rfl))

/-- The numbers that the fence registers show. -/
def fenceShows : FUnit → Prop
  | .engine e => e < 64
  | .domain d => d < 16
  | .port n => n < 32
  | .ioDie _ => True
  | .stack k => k < 16
  | .bay m => m < 8

theorem fencePort_fc (n : Nat) : (fencePort s n).fc = s.fc := by
  unfold fencePort
  split
  · rfl
  · exact (portKept_linkGoesDown _ n).fc

/-- A fenced unit shows it. -/
theorem unitFenced_fenceUnit {u : FUnit} (hu : fenceShows u) : unitFenced (fenceUnit s u) u = true := by
  cases u with
  | engine e =>
    show (fenceEngine _ e).engFenced e = true
    unfold fenceEngine
    split
    · assumption
    · have hkept (t : State) : (endAll t e 0x7F).engFenced e = t.engFenced e := by
        have h := fenceKept_endAll [] t e 0x7F
        rw [State.engFenced, State.engFenced, h.regs _ (by decide) (by decide), h.regs _ (by decide) (by decide)]
      rw [hkept, engFenced_markEngFenced, if_pos rfl]
      exact decide_eq_true hu
  | domain d =>
    show (fenceDomain _ d).domFenced d = true
    rw [fenceDomain_eq]
    split
    · assumption
    · have hkept (t : State) : (domainEnded t d).domFenced d = t.domFenced d := by
        have h := fenceKept_domainEnded (l := [F.FCOL_FENCED_ENG_LO.off, F.FCOL_FENCED_ENG_HI.off]) t (by decide) (by decide) d
        rw [State.domFenced, State.domFenced, h.get (by decide) (by decide)]
      rw [hkept, State.domFenced, bit_get_setBit _ (by decide)]
      exact decide_eq_true hu
  | port n =>
    show (fencePort _ n).portFenced n = true
    unfold fencePort
    split
    · assumption
    · rw [State.portFenced, (fenceKept_linkGoesDown [] _ n).regs _ (by decide) (by decide), bit_reg_setReg _ _ _ hu, bit_putBit, if_pos rfl]
  | ioDie i =>
    have hports (t : State) (ns : List Nat) : (ns.foldl fencePort t).fc = t.fc :=
      foldl_keeps (P := fun x => x.fc = t.fc) (fun x n h => (fencePort_fc x n).trans h) ns rfl
    show bit (fenceDie _ i).fc.ioDies i = true
    unfold fenceDie
    split
    · assumption
    · rw [hports]
      exact (bit_putBit _ _ _ _).trans (if_pos rfl)
  | stack k =>
    show bit ((State.set _ F.MEM_FENCED_STACKS _).get F.MEM_FENCED_STACKS) k = true
    rw [bit_get_setBit _ (by decide)]
    exact decide_eq_true hu
  | bay m =>
    show (fenceBay _ m).bayFenced m = true
    rw [fenceBay_eq]
    split
    · assumption
    · have hkept (t : State) : (bayEnded t m).bayFenced m = t.bayFenced m := by
        rw [State.bayFenced, State.bayFenced, (fenceKept_bayEnded (l := [F.FCOL_FENCED_PORT.off]) t (by decide) m).get (by decide) (by decide)]
      rw [hkept, State.bayFenced, bit_get_setBit _ (by decide)]
      exact decide_eq_true hu

end Fences

end Sys2Proof.Machine

/-! ## Events at the collector (R501, R503, R507, R509) -/

namespace Sys2Proof.Machine

open FenceKept

/-! ### Entry into Safe (R507) -/

section Safe

variable (s : State) {src : Nat}

/-- The registers that entry into Safe writes. -/
def safeRegs : List Nat := [F.PWR_STATE.off, F.FCOL_SAFE_CAUSE.off]

/-- Safe, before the ports pause and the host ports report. -/
def safeBegun (s : State) (src : Nat) : State :=
  let s := ((s.set F.PWR_STATE_STATE 5).set F.FCOL_SAFE_CAUSE_SOURCE src).set F.FCOL_SAFE_CAUSE_VALID 1
  State.emit { s with pw := { s.pw with sref := true } } (.safeN true)

/-- What the ports and the host ports send then. -/
def safeTold (s : State) : State := (List.range 4).foldl hostError ((List.range 32).foldl (fun s n => ctlSend s n 0xFF 0xFFFF) s)

theorem enterSafe_eq (src : Nat) : enterSafe s src = if (s.pst = 2 && !s.pw.halt) || s.pst = 3 || s.pst = 4 then safeTold (safeBegun s src) else s := rfl

theorem tickKept_ctlSend (n enable time : Nat) : TickKept s (ctlSend s n enable time) [] := by
  unfold ctlSend
  split
  · exact .refl s _
  · split
    · exact .of_core rfl
    · exact (TickKept.emit s _ _).trans (.of_core rfl)

theorem tickKept_hostError (h : Nat) : TickKept s (hostError s h) [] := by
  unfold hostError
  dsimp only
  split
  · exact .trans (t := { s with ho := { s.ho with aer := putBit s.ho.aer h true } }) (.of_core rfl) (.emit _ _ _)
  · exact .of_core rfl

theorem tickKept_safeTold : TickKept s (safeTold s) [] :=
  (TickKept.foldl (f := fun s n => ctlSend s n 0xFF 0xFFFF) (fun t n => tickKept_ctlSend t n 0xFF 0xFFFF) _ _).trans
    (TickKept.foldl tickKept_hostError _ _)

theorem safeBegun_reg {o : Nat} (ho : o ∉ safeRegs) : (safeBegun s src).reg o = s.reg o := by
  obtain ⟨hpwr, hcause⟩ : o ≠ F.PWR_STATE.off ∧ o ≠ F.FCOL_SAFE_CAUSE.off := by simpa [safeRegs] using ho
  show (((s.set F.PWR_STATE_STATE 5).set F.FCOL_SAFE_CAUSE_SOURCE src).set F.FCOL_SAFE_CAUSE_VALID 1).reg o = _
  rw [State.reg_set_ne (f := F.FCOL_SAFE_CAUSE_VALID) _ _ hcause, State.reg_set_ne (f := F.FCOL_SAFE_CAUSE_SOURCE) _ _ hcause,
    State.reg_set_ne (f := F.PWR_STATE_STATE) _ _ hpwr]

theorem safeBegun_cause (hsrc : src < 64) : (safeBegun s src).get F.FCOL_SAFE_CAUSE_SOURCE = src ∧ (safeBegun s src).flag F.FCOL_SAFE_CAUSE_VALID = true := by
  constructor
  · show (((s.set F.PWR_STATE_STATE 5).set F.FCOL_SAFE_CAUSE_SOURCE src).set F.FCOL_SAFE_CAUSE_VALID 1).get F.FCOL_SAFE_CAUSE_SOURCE = src
    rw [State.get_set_apart _ _ (by decide) (.inr (by decide)), State.get_set_self _ _ (by decide)]
    exact Nat.mod_eq_of_lt hsrc
  · exact flag_set_b2n ((s.set F.PWR_STATE_STATE 5).set F.FCOL_SAFE_CAUSE_SOURCE src) true rfl (by decide)

theorem safeBegun_pst (hheld : s.pw.held = false) : (safeBegun s src).pst = 5 := by
  have hget : (safeBegun s src).get F.PWR_STATE_STATE = 5 := by
    show (((s.set F.PWR_STATE_STATE 5).set F.FCOL_SAFE_CAUSE_SOURCE src).set F.FCOL_SAFE_CAUSE_VALID 1).get F.PWR_STATE_STATE = 5
    rw [State.get_set_ne _ _ (by decide), State.get_set_ne _ _ (by decide), State.get_set_self _ _ (by decide)]
    rfl
  have hpin : (safeBegun s src).pw.held = false := hheld
  rw [State.pst, hget, hpin]
  rfl

/-- The adapter is in Safe, with the source as its cause, and SAFE_N is low. -/
theorem enterSafe_safe (ha : s.pst = 3) (hsrc : src < 64) : (enterSafe s src).pst = 5 ∧ (enterSafe s src).get F.FCOL_SAFE_CAUSE_SOURCE = src ∧
    (enterSafe s src).flag F.FCOL_SAFE_CAUSE_VALID = true ∧ .safeN true ∈ (enterSafe s src).out := by
  have hheld : s.pw.held = false := by
    rw [State.pst] at ha
    split at ha
    · omega
    next h => simpa [ha] using h
  obtain ⟨hsource, hvalid⟩ := safeBegun_cause s hsrc
  have hkept := tickKept_safeTold (safeBegun s src)
  rw [enterSafe_eq, if_pos (by simp [ha])]
  refine ⟨(hkept.pst_eq (by decide)).trans (safeBegun_pst s hheld), (hkept.get (by decide) (by decide)).trans hsource,
    (flag_congr (hkept.get (by decide) (by decide))).trans hvalid, hkept.sent.subset ?_⟩
  exact List.mem_append_right _ (List.mem_singleton.mpr rfl)

theorem fenceKept_enterSafe (src : Nat) : FenceKept safeRegs s (enterSafe s src) := by
  have hbegun : FenceKept safeRegs s (safeBegun s src) := ⟨fun o _ hl => safeBegun_reg s hl, fun _ _ => rfl⟩
  have hpauses (t : State) : FenceKept safeRegs t ((List.range 32).foldl (fun s n => ctlSend s n 0xFF 0xFFFF) t) :=
    FenceKept.foldl (fun t n => fenceKept_ctlSend _ t n 0xFF 0xFFFF) _ t
  have herrors (t : State) : FenceKept safeRegs t ((List.range 4).foldl hostError t) := by
    refine FenceKept.foldl (fun t h => ?_) _ t
    unfold hostError
    dsimp only
    split <;> exact of_rest rfl rfl rfl
  rw [enterSafe_eq]
  split
  · exact (hbegun.trans (hpauses _)).trans (herrors _)
  · exact refl _ s

/-! ### Reactions (R503–R507) -/

theorem react_safe {unit : Nat} (ha : s.pst = 3) (h : src ≤ 1 ∨ s.get (F.FCOL_CFG_REACTION src) = 2 ∧ src ≠ 13) : react s src unit = enterSafe s src := by
  unfold react
  rw [if_neg (by omega)]
  by_cases h1 : src = 0 ∨ src = 1
  · rw [if_pos (by simpa using h1)]
  · obtain ⟨hhow, h13⟩ : s.get (F.FCOL_CFG_REACTION src) = 2 ∧ src ≠ 13 := h.resolve_left (by omega)
    rw [if_neg (by simpa using h1), if_neg h13, hhow]
    rfl

theorem react_report {unit : Nat} (h : 2 ≤ src) (h13 : src ≠ 13) (hhow : s.get (F.FCOL_CFG_REACTION src) = 0) : react s src unit = s := by
  unfold react
  by_cases hp : s.pst = 5
  · rw [if_pos hp]
  · rw [if_neg hp, if_neg (c := (decide (src = 0) || decide (src = 1)) = true) (by simp; omega), if_neg h13, hhow]
    rfl

theorem react_fence {unit : Nat} {x : FUnit} (ha : s.pst = 3) (h : 2 ≤ src) (h13 : src ≠ 13) (hhow : s.get (F.FCOL_CFG_REACTION src) = 1)
    (hx : fenceTarget src unit = some x) : react s src unit = fenceUnit s x := by
  unfold react
  rw [if_neg (by omega), if_neg (c := (decide (src = 0) || decide (src = 1)) = true) (by simp; omega), if_neg h13, hhow, hx]
  rfl

/-- Every reaction keeps the collector's registers but those of the fences and of Safe. -/
theorem fenceKept_react (src unit : Nat) : FenceKept (fencedRegs ++ safeRegs) s (react s src unit) := by
  have hfence (u : FUnit) : FenceKept (fencedRegs ++ safeRegs) s (fenceUnit s u) := (fenceKept_fenceUnit s u).mono (List.subset_append_left _ _)
  have hsafe : FenceKept (fencedRegs ++ safeRegs) s (enterSafe s src) := (fenceKept_enterSafe s src).mono (List.subset_append_right _ _)
  unfold react
  split
  · exact refl _ s
  · split
    · exact hsafe
    · split
      · split
        · exact hfence _
        · exact hsafe
      · split
        · split
          · exact hfence _
          · exact refl _ s
        · exact hsafe
        · exact refl _ s

end Safe

/-! ### An event that shows (R501) -/

/-- Event `src` shows unit `n`, counted once. -/
structure EventSeen (s u : State) (src n : Nat) (forced : Bool) : Prop where
  active : u.flag (F.FCOL_EVT_ACTIVE src) = true
  unit : u.get (F.FCOL_EVT_UNIT src) = n % 256
  seq : u.get (F.FCOL_EVT_SEQ src) = seqNext (s.get (F.FCOL_EVT_SEQ src))
  forced : u.flag (F.FCOL_EVT_FORCED src) = forced
  counted : Counted s u (F.FCOL_COUNT_EVENTS src)
  status : bit (if src < 32 then u.reg F.FCOL_STATUS_LO.off else u.reg F.FCOL_STATUS_HI.off) (src % 32) = true

section Seen

variable {s t u : State} {src n : Nat} {forced : Bool}

theorem countEvents_low (hsrc : src < 64) : (F.FCOL_COUNT_EVENTS src).key < 32 * 0x20000 := by
  simp [RF.key, F.FCOL_COUNT_EVENTS]
  omega

theorem evt_low (hsrc : src < 64) : 0x10200 + 4 * src < 0x20000 := by omega

/-- The event's own register is none that a fence or Safe writes. -/
theorem evt_apart (src : Nat) : 0x10200 + 4 * src ∉ fencedRegs ++ safeRegs := by
  simp [fencedRegs, safeRegs, F.FCOL_FENCED_ENG_LO, F.FCOL_FENCED_ENG_HI, F.FCOL_FENCED_DOM, F.FCOL_FENCED_PORT, F.PWR_STATE, F.FCOL_SAFE_CAUSE]
  omega

theorem EventSeen.kept (h : EventSeen s t src n forced) (hsrc : src < 64) (k : FenceKept (fencedRegs ++ safeRegs) t u) : EventSeen s u src n forced := by
  have hget {f : RF} (hf : f.off = 0x10200 + 4 * src) : u.get f = t.get f := k.get (by rw [hf]; exact evt_low hsrc) (by rw [hf]; exact evt_apart src)
  refine ⟨(flag_congr (hget rfl)).trans h.active, (hget rfl).trans h.unit, (hget rfl).trans h.seq, (flag_congr (hget rfl)).trans h.forced,
    (k.live (countEvents_low hsrc)).trans h.counted, ?_⟩
  rw [k.regs _ (by decide) (by decide), k.regs _ (by decide) (by decide)]
  exact h.status

theorem setActive_evt (s : State) (src : Nat) (v : Bool) {f : RF} (hf : f.off = 0x10200 + 4 * src) :
    (setActive s src v).get f = (s.set (F.FCOL_EVT_ACTIVE src) (b2n v)).get f := by
  have hlo : f.off ≠ F.FCOL_STATUS_LO.off := by rw [hf]; show 0x10200 + 4 * src ≠ 0x10000; omega
  have hhi : f.off ≠ F.FCOL_STATUS_HI.off := by rw [hf]; show 0x10200 + 4 * src ≠ 0x10004; omega
  unfold setActive
  dsimp only
  split
  · rw [State.get, State.reg_setReg_ne _ _ hlo]; rfl
  · rw [State.get, State.reg_setReg_ne _ _ hhi]; rfl

theorem setActive_status (s : State) (hsrc : src < 64) (v : Bool) :
    bit (if src < 32 then (setActive s src v).reg F.FCOL_STATUS_LO.off else (setActive s src v).reg F.FCOL_STATUS_HI.off) (src % 32) = v := by
  unfold setActive
  dsimp only
  split
  · rw [bit_reg_setReg _ _ _ (by omega), bit_putBit, if_pos (by omega)]
  · rw [bit_reg_setReg _ _ _ (by omega), bit_putBit, if_pos (by omega)]

/-- What a collected event leaves before its reaction. -/
def eventTold (s : State) (src unit detail : Nat) (forced : Bool) : State :=
  sendArmed ((eventShown (setActive s src true) src unit detail forced).count (F.FCOL_COUNT_EVENTS src))

theorem collect_plain (s : State) {src : Nat} (h16 : src ≠ 16) (h17 : src ≠ 17) (unit detail : Nat) (forced : Bool) :
    collect s src unit detail forced = react (eventTold s src unit detail forced) src unit := by
  have hno : (src == 16 || src == 17) = false := by simp [h16, h17]
  unfold collect
  rw [hno]
  rfl

/-- The first mismatch of a self-check sets STRIKE and has no reaction (R509). -/
theorem collect_strike (s : State) {src : Nat} (h : src = 16 ∨ src = 17) {unit : Nat} (hf : s.flag (strikeField src unit) = false) (detail : Nat) (forced : Bool) :
    collect s src unit detail forced = eventTold (s.set (strikeField src unit) 1) src unit detail forced := by
  have hyes : (src == 16 || src == 17) = true := by simpa using h
  unfold collect
  rw [hyes, hf]
  rfl

theorem sendArmed_kept (s : State) : FenceKept [F.FCOL_CTL.off] s (sendArmed s) := by
  unfold sendArmed
  split
  · exact (set s 0 (.inr (by decide))).trans (of_cqFrame (sendMsix_frame _ _ _) (cntBut_sendMsix _ _ _))
  · exact refl _ s

theorem sendArmed_reg (s : State) {o : Nat} (ho : o < 0x600000) (hctl : o ≠ F.FCOL_CTL.off) : (sendArmed s).reg o = s.reg o := by
  unfold sendArmed
  split
  · rw [(sendMsix_frame _ _ _).regs o ho, State.reg_set_ne (f := F.FCOL_CTL_ARMED) _ _ hctl]
  · rfl

theorem sendArmed_rest (s : State) : (sendArmed s).en = s.en ∧ (sendArmed s).fb = s.fb ∧ (sendArmed s).pw = s.pw ∧ MemSame s (sendArmed s) := by
  unfold sendArmed
  split
  · have h := sendMsix_frame (s.set F.FCOL_CTL_ARMED 0) 0 (s.get F.FCOL_CTL_VECTOR)
    exact ⟨by rw [h.rest]; rfl, by rw [h.rest]; rfl, by rw [h.rest]; rfl, h.byte⟩
  · exact ⟨rfl, rfl, rfl, fun _ => rfl⟩

theorem eventTold_rest (s : State) (src unit detail : Nat) (forced : Bool) : (eventTold s src unit detail forced).en = s.en ∧
    (eventTold s src unit detail forced).fb = s.fb ∧ (eventTold s src unit detail forced).pw = s.pw ∧ MemSame s (eventTold s src unit detail forced) := by
  have hactive : (setActive s src true).en = s.en ∧ (setActive s src true).fb = s.fb ∧ (setActive s src true).pw = s.pw ∧ MemSame s (setActive s src true) := by
    unfold setActive
    dsimp only
    split <;> exact ⟨rfl, rfl, rfl, fun _ => rfl⟩
  obtain ⟨hen, hfb, hpw, hmem⟩ := sendArmed_rest ((eventShown (setActive s src true) src unit detail forced).count (F.FCOL_COUNT_EVENTS src))
  obtain ⟨aen, afb, apw, amem⟩ := hactive
  exact ⟨hen.trans aen, hfb.trans afb, hpw.trans apw, fun a => (hmem a).trans (amem a)⟩

/-- The registers that an event writes. -/
def eventRegs (src : Nat) : List Nat := [F.FCOL_STATUS_LO.off, F.FCOL_STATUS_HI.off, F.FCOL_CTL.off, (F.FCOL_EVT src).off]

theorem eventShown_reg (s : State) (src unit detail : Nat) (forced : Bool) {o : Nat} (ho : o ≠ (F.FCOL_EVT src).off) :
    (eventShown s src unit detail forced).reg o = s.reg o := by
  rw [eventShown, State.reg_set_ne (f := F.FCOL_EVT_FORCED src) _ _ ho, State.reg_set_ne (f := F.FCOL_EVT_DETAIL src) _ _ ho,
    State.reg_set_ne (f := F.FCOL_EVT_UNIT src) _ _ ho, State.reg_bump_ne (f := F.FCOL_EVT_SEQ src) _ ho]

theorem setActive_reg (s : State) (src : Nat) (v : Bool) {o : Nat} (he : o ≠ (F.FCOL_EVT src).off) (hlo : o ≠ F.FCOL_STATUS_LO.off) (hhi : o ≠ F.FCOL_STATUS_HI.off) :
    (setActive s src v).reg o = s.reg o := by
  unfold setActive
  dsimp only
  split
  · rw [State.reg_setReg_ne _ _ hlo, State.reg_set_ne (f := F.FCOL_EVT_ACTIVE src) _ _ he]
  · rw [State.reg_setReg_ne _ _ hhi, State.reg_set_ne (f := F.FCOL_EVT_ACTIVE src) _ _ he]

theorem eventTold_reg (s : State) (src unit detail : Nat) (forced : Bool) {o : Nat} (ho : o < 0x600000) (hl : o ∉ eventRegs src) :
    (eventTold s src unit detail forced).reg o = s.reg o := by
  obtain ⟨hlo, hhi, hctl, he⟩ : o ≠ F.FCOL_STATUS_LO.off ∧ o ≠ F.FCOL_STATUS_HI.off ∧ o ≠ F.FCOL_CTL.off ∧ o ≠ (F.FCOL_EVT src).off := by
    simpa [eventRegs] using hl
  rw [eventTold, sendArmed_reg _ ho hctl, State.count_reg, eventShown_reg _ _ _ _ _ he, setActive_reg _ _ _ he hlo hhi]

theorem eventTold_get (s : State) (hsrc : src < 64) (unit detail : Nat) (forced : Bool) {f : RF} (hf : f.off = 0x10200 + 4 * src) :
    (eventTold s src unit detail forced).get f = (eventShown (setActive s src true) src unit detail forced).get f := by
  refine ((sendArmed_kept _).get (by rw [hf]; exact evt_low hsrc) ?_).trans (State.count_get _ _ _ _)
  rw [List.mem_singleton, hf]
  show 0x10200 + 4 * src ≠ 0x10014
  omega

/-- The fields of the event's register. -/
theorem eventShown_fields (s : State) (src unit detail : Nat) (forced : Bool) :
    (eventShown s src unit detail forced).get (F.FCOL_EVT_ACTIVE src) = s.get (F.FCOL_EVT_ACTIVE src) ∧
      (eventShown s src unit detail forced).get (F.FCOL_EVT_UNIT src) = unit % 256 ∧
      (eventShown s src unit detail forced).get (F.FCOL_EVT_DETAIL src) = detail % 256 ∧
      (eventShown s src unit detail forced).get (F.FCOL_EVT_SEQ src) = seqNext (s.get (F.FCOL_EVT_SEQ src)) ∧
      (eventShown s src unit detail forced).flag (F.FCOL_EVT_FORCED src) = forced := by
  refine ⟨?_, ?_, ?_, ?_, flag_set_b2n _ forced rfl (by show 9 < 32; decide)⟩
  · rw [eventShown, State.get_set_apart _ _ (by show 8 + 1 ≤ 32; decide) (.inr (by show 8 + 1 ≤ 9; decide)),
      State.get_set_apart _ _ (by show 8 + 1 ≤ 32; decide) (.inr (by show 8 + 1 ≤ 24; decide)),
      State.get_set_apart _ _ (by show 8 + 1 ≤ 32; decide) (.inr (by show 8 + 1 ≤ 16; decide)),
      State.get_bump_apart _ (by show 8 + 1 ≤ 32; decide) (.inl (by show 0 + 8 ≤ 8; decide))]
  · rw [eventShown, State.get_set_apart _ _ (by show 16 + 8 ≤ 32; decide) (.inl (by show 9 + 1 ≤ 16; decide)),
      State.get_set_apart _ _ (by show 16 + 8 ≤ 32; decide) (.inr (by show 16 + 8 ≤ 24; decide)), State.get_set_self _ _ (by show 16 + 8 ≤ 32; decide)]
    rfl
  · rw [eventShown, State.get_set_apart _ _ (by show 24 + 8 ≤ 32; decide) (.inl (by show 9 + 1 ≤ 24; decide)),
      State.get_set_self _ _ (by show 24 + 8 ≤ 32; decide)]
    rfl
  · rw [eventShown, State.get_set_apart _ _ (by show 0 + 8 ≤ 32; decide) (.inr (by show 0 + 8 ≤ 9; decide)),
      State.get_set_apart _ _ (by show 0 + 8 ≤ 32; decide) (.inr (by show 0 + 8 ≤ 24; decide)),
      State.get_set_apart _ _ (by show 0 + 8 ≤ 32; decide) (.inr (by show 0 + 8 ≤ 16; decide)), State.get_bump_seq _ rfl (by show 0 + 8 ≤ 32; decide)]

theorem eventTold_seen (s : State) (hsrc : src < 64) (unit detail : Nat) (forced : Bool) :
    EventSeen s (eventTold s src unit detail forced) src unit forced ∧ (eventTold s src unit detail forced).get (F.FCOL_EVT_DETAIL src) = detail % 256 := by
  obtain ⟨hactive, hunit, hdetail, hseq, hforced⟩ := eventShown_fields (setActive s src true) src unit detail forced
  have hget {f : RF} (hf : f.off = 0x10200 + 4 * src) := eventTold_get s hsrc unit detail forced hf
  have hcnt : (setActive s src true).cnt = s.cnt := by
    unfold setActive
    dsimp only
    split <;> rfl
  have hstatus {o : Nat} (ho : o < 0x20000) (hctl : o ≠ F.FCOL_CTL.off) (he : o ≠ (F.FCOL_EVT src).off) :
      (eventTold s src unit detail forced).reg o = (setActive s src true).reg o := by
    rw [eventTold, (sendArmed_kept _).regs o ho (by simpa using hctl), State.count_reg, eventShown_reg _ _ _ _ _ he]
  refine ⟨⟨?_, (hget rfl).trans hunit, ?_, (flag_congr (hget rfl)).trans hforced, ?_, ?_⟩, (hget rfl).trans hdetail⟩
  · rw [flag_congr ((hget rfl).trans hactive), flag_congr (setActive_evt s src true rfl), flag_set_b2n _ _ rfl (by show 8 < 32; decide)]
  · rw [hget rfl, hseq, setActive_evt s src true rfl, State.get_set_apart _ _ (by show 0 + 8 ≤ 32; decide) (.inr (by show 0 + 8 ≤ 8; decide))]
  · refine ((sendArmed_kept _).live (countEvents_low hsrc)).trans ((State.live_count_self _ _ _).trans ?_)
    rw [State.live, State.live]
    show min (smGet (setActive s src true).cnt _ 0 + 1) _ = _
    rw [hcnt]
  · rw [hstatus (by decide) (by decide) (by show 0x10000 ≠ 0x10200 + 4 * src; omega),
      hstatus (by decide) (by decide) (by show 0x10004 ≠ 0x10200 + 4 * src; omega)]
    exact setActive_status s hsrc true

end Seen

/-! ### What a collected event leaves -/

section Collected

variable {s t u : State} {src n : Nat} {forced : Bool}

/-- What a source counts before its event is collected leaves the collector's block and what the event's clauses speak of. -/
structure Unmoved (s t : State) : Prop where
  kept : FenceKept [] s t
  pw : t.pw = s.pw
  en : t.en = s.en
  fb : t.fb = s.fb
  mem : MemSame s t

theorem Unmoved.refl (s : State) : Unmoved s s := ⟨.refl _ s, rfl, rfl, rfl, fun _ => rfl⟩

theorem EventSeen.of_unmoved (h : EventSeen t u src n forced) (hsrc : src < 64) (k : Unmoved s t) : EventSeen s u src n forced :=
  { h with
    seq := h.seq.trans (congrArg seqNext (k.kept.get (evt_low hsrc) (by simp)))
    counted := by rw [Counted, ← k.kept.live (countEvents_low hsrc)]; exact h.counted }

theorem cfg_not_event (src : Nat) : (F.FCOL_CFG src).off ∉ eventRegs src := by
  simp [eventRegs, F.FCOL_CFG, F.FCOL_STATUS_LO, F.FCOL_STATUS_HI, F.FCOL_CTL, F.FCOL_EVT]
  omega

theorem Unmoved.told (k : Unmoved s t) (hsrc : src < 64) (n d : Nat) (forced : Bool) (ha : s.pst = 3) :
    (eventTold t src n d forced).pst = 3 ∧ (eventTold t src n d forced).get (F.FCOL_CFG_REACTION src) = s.get (F.FCOL_CFG_REACTION src) ∧
      (eventTold t src n d forced).en = s.en ∧ (eventTold t src n d forced).fb = s.fb ∧ MemSame s (eventTold t src n d forced) := by
  obtain ⟨hen, hfb, hpw, hmem⟩ := eventTold_rest t src n d forced
  have hpwr : F.PWR_STATE.off ∉ eventRegs src := by
    simp [eventRegs, F.PWR_STATE, F.FCOL_STATUS_LO, F.FCOL_STATUS_HI, F.FCOL_CTL, F.FCOL_EVT]
    omega
  have hstate : (eventTold t src n d forced).get F.PWR_STATE_STATE = s.get F.PWR_STATE_STATE :=
    congrArg (bits · _ _) ((eventTold_reg t src n d forced (by decide) hpwr).trans (k.kept.regs _ (by decide) (by simp)))
  have hcfg : (F.FCOL_CFG src).off < 0x20000 := by show 0x10100 + 4 * src < 0x20000; omega
  refine ⟨?_, congrArg (bits · _ _) ((eventTold_reg t src n d forced (hcfg.trans (by decide)) (cfg_not_event src)).trans (k.kept.regs _ hcfg (by simp))),
    hen.trans k.en, hfb.trans k.fb, fun a => (hmem a).trans (k.mem a)⟩
  rw [← ha, State.pst, State.pst, hstate, hpw, k.pw]

/-- An event that is no self-check's: it shows, and its source's reaction is applied. -/
theorem collect_spec (k : Unmoved s t) (ha : s.pst = 3) (hsrc : src < 64) (h16 : src ≠ 16) (h17 : src ≠ 17) (n d : Nat) (forced : Bool) :
    EventSeen s (collect t src n d forced) src n forced ∧ (collect t src n d forced).get (F.FCOL_EVT_DETAIL src) = d % 256 ∧
      (src ≤ 1 ∨ (s.get (F.FCOL_CFG_REACTION src) = 2 ∧ src ≠ 13) → (collect t src n d forced).pst = 5 ∧
        (collect t src n d forced).get F.FCOL_SAFE_CAUSE_SOURCE = src ∧ (collect t src n d forced).flag F.FCOL_SAFE_CAUSE_VALID = true ∧
        .safeN true ∈ (collect t src n d forced).out) ∧
      (2 ≤ src → src ≠ 13 → s.get (F.FCOL_CFG_REACTION src) = 0 → (collect t src n d forced).pst = 3 ∧ (collect t src n d forced).en = s.en ∧
        (collect t src n d forced).fb = s.fb ∧ MemSame s (collect t src n d forced)) ∧
      (2 ≤ src → src ≠ 13 → s.get (F.FCOL_CFG_REACTION src) = 1 → ∀ x, fenceTarget src n = some x → fenceShows x →
        unitFenced (collect t src n d forced) x = true) := by
  obtain ⟨hpst, hhow, hen, hfb, hmem⟩ := k.told hsrc n d forced ha
  obtain ⟨hseen, hdetail⟩ := eventTold_seen t hsrc n d forced
  rw [← hhow, collect_plain t h16 h17]
  have hreact := fenceKept_react (eventTold t src n d forced) src n
  refine ⟨(hseen.kept hsrc hreact).of_unmoved hsrc k, (hreact.get (evt_low hsrc) (evt_apart src)).trans hdetail, fun h => ?_, fun h h13 hz => ?_,
    fun h h13 ho x hx hshow => ?_⟩
  · rw [react_safe _ hpst h]
    exact enterSafe_safe _ hpst hsrc
  · rw [react_report _ h h13 hz]
    exact ⟨hpst, hen, hfb, hmem⟩
  · rw [react_fence _ hpst h h13 ho hx]
    exact unitFenced_fenceUnit _ hshow

end Collected

/-! ### FAULT_EVENT and FCOL_FORCE (R498, R501, R512) -/

section Events

variable {s : State} {src unit : Nat}

theorem eventValid_iff : eventValid s src unit = true ↔ (src < 64 ∧ ¬ (27 ≤ src ∧ src ≤ 31)) ∧ unitInRange s src unit = true := by
  simp only [eventValid, Bool.and_eq_true, Bool.not_eq_true', decide_eq_true_eq, Bool.and_eq_false_iff, decide_eq_false_iff_not, not_and_or]

theorem nDom_le (s : State) : nDom s ≤ 16 := by
  unfold nDom
  split <;> decide

theorem nStack_le (s : State) : nStack s ≤ 16 := by
  unfold nStack
  split <;> decide

/-- The unit that a valid event's fence concerns shows in a fence register. -/
theorem fenceTarget_shows (hv : eventValid s src unit = true) (h13 : src ≠ 13) {x : FUnit} (hx : fenceTarget src unit = some x) : fenceShows x := by
  obtain ⟨⟨hsrc, -⟩, hunit⟩ := eventValid_iff.mp hv
  have hdom := nDom_le s
  have hstack := nStack_le s
  have hbay := nBay_le s
  have heng : nEng s = 4 * nDom s := rfl
  obtain h | rfl | rfl | rfl | rfl | rfl | rfl | h | h | h : (16 ≤ src ∧ src ≤ 19) ∨ src = 20 ∨ src = 21 ∨ src = 22 ∨ src = 23 ∨ src = 24 ∨ src = 25 ∨
      (32 ≤ src ∧ src < 48) ∨ 48 ≤ src ∨ (src < 16 ∨ src = 26 ∨ 27 ≤ src ∧ src ≤ 31) := by omega
  · have : unit < nEng s := by
      simpa [unitInRange, h, show src ≠ 5 by omega, show src ≠ 10 by omega, show src ≠ 20 by omega, show src ≠ 11 by omega, show src ≠ 12 by omega, h13,
        show src ≠ 14 by omega, show src ≠ 15 by omega, show src ≠ 23 by omega] using hunit
    obtain rfl : FUnit.engine unit = x := by simpa [fenceTarget, h13, h] using hx
    show unit < 64
    omega
  · cases hx
    exact (show unit < nDom s by simpa [unitInRange] using hunit).trans_le hdom
  · cases hx
    exact (show unit < nStack s by simpa [unitInRange] using hunit).trans_le hstack
  · cases hx
    exact (show unit < 32 ∧ portPresent s unit = true by simpa [unitInRange] using hunit).1
  · cases hx
    trivial
  · cases hx
    exact (show unit < nBay s by simpa [unitInRange] using hunit).trans_le hbay
  · cases hx
    exact (show unit < nBay s by simpa [unitInRange] using hunit).trans_le hbay
  · obtain rfl : FUnit.domain (src - 32) = x := by
      simpa [fenceTarget, h13, h, show ¬ (16 ≤ src ∧ src ≤ 19) by omega, show src ≠ 20 by omega, show src ≠ 21 by omega, show src ≠ 22 by omega,
        show src ≠ 23 by omega, show src ≠ 24 by omega, show src ≠ 25 by omega] using hx
    show src - 32 < 16
    omega
  · obtain rfl : FUnit.stack (src - 48) = x := by
      simpa [fenceTarget, h13, h, show ¬ (16 ≤ src ∧ src ≤ 19) by omega, show src ≠ 20 by omega, show src ≠ 21 by omega, show src ≠ 22 by omega,
        show src ≠ 23 by omega, show src ≠ 24 by omega, show src ≠ 25 by omega, show ¬ src < 48 by omega] using hx
    show src - 48 < 16
    omega
  · simp [fenceTarget, h13, show ¬ (16 ≤ src ∧ src ≤ 19) by omega, show src ≠ 20 by omega, show src ≠ 21 by omega, show src ≠ 22 by omega,
        show src ≠ 23 by omega, show src ≠ 24 by omega, show src ≠ 25 by omega, show ¬ 32 ≤ src by omega, show ¬ 48 ≤ src by omega] at hx

/-- A source whose events concern a unit that can be fenced names it. -/
theorem hasUnit_of_target (h13 : src ≠ 13) {x : FUnit} (hx : fenceTarget src unit = some x) : hasUnit src = true := by
  by_contra hno
  simp only [hasUnit, Bool.or_eq_true, Bool.and_eq_true, decide_eq_true_eq, beq_iff_eq] at hno
  simp [fenceTarget, h13, show ¬ (16 ≤ src ∧ src ≤ 19) by omega, show src ≠ 20 by omega, show src ≠ 21 by omega, show src ≠ 22 by omega,
    show src ≠ 23 by omega, show src ≠ 24 by omega, show src ≠ 25 by omega, show ¬ 32 ≤ src by omega, show ¬ 48 ≤ src by omega] at hx

/-- What the source itself leaves: an uncorrectable error counted at its bank, a management core that has stopped. -/
def eventPrepared (s : State) (src unit : Nat) : State :=
  let s := if src = 10 then s.count (F.STG_STATE_ECC_UNCORR unit) else s
  if src = 11 then { s with fc := { s.fc with cores := putBit s.fc.cores unit true } } else s

theorem unmoved_eventPrepared (s : State) (src unit : Nat) : Unmoved s (eventPrepared s src unit) := by
  have hcount : FenceKept [] s (s.count (F.STG_STATE_ECC_UNCORR unit)) := count s 1 (by show 0x20000 ≤ 0x30200c + 0x100 * unit; omega)
  unfold eventPrepared
  dsimp only
  by_cases h : src = 10
  · rw [if_pos h, if_neg (by omega)]
    exact ⟨hcount, rfl, rfl, rfl, fun _ => rfl⟩
  · rw [if_neg h]
    split
    · exact ⟨of_rest rfl rfl rfl, rfl, rfl, rfl, fun _ => rfl⟩
    · exact .refl s

theorem exec_faultEvent (ha : s.pst = 3) (hv : eventValid s src unit = true) (d : Nat) : exec (.faultEvent src unit d) s =
    .next (collect (eventPrepared s src unit) src (if hasUnit src then unit else 0) (detailOf src d) false) :=
  congrArg Host.Outcome.next (if_neg (by simp [ha, hv]))

theorem detailOf_lt (src d : Nat) : detailOf src d < 256 := by
  unfold detailOf
  split
  · omega
  · split
    · omega
    · split <;> omega

/-- An event of a source that is no self-check's. -/
theorem faultEvent_collected (ha : s.pst = 3) (hv : eventValid s src unit = true) (h16 : src ≠ 16) (h17 : src ≠ 17) (d : Nat) :
    Runs (.faultEvent src unit d) s fun u => EventSeen s u src (if hasUnit src then unit else 0) false ∧ u.get (F.FCOL_EVT_DETAIL src) = detailOf src d ∧
      (src ≤ 1 ∨ (s.get (F.FCOL_CFG_REACTION src) = 2 ∧ src ≠ 13) → u.pst = 5 ∧ u.get F.FCOL_SAFE_CAUSE_SOURCE = src ∧
        u.flag F.FCOL_SAFE_CAUSE_VALID = true ∧ .safeN true ∈ u.out) ∧
      (2 ≤ src → src ≠ 13 → s.get (F.FCOL_CFG_REACTION src) = 0 → u.pst = 3 ∧ u.en = s.en ∧ u.fb = s.fb ∧ MemSame s u) ∧
      (2 ≤ src → src ≠ 13 → s.get (F.FCOL_CFG_REACTION src) = 1 → ∀ x, fenceTarget src unit = some x → unitFenced u x = true) := by
  obtain ⟨hseen, hdetail, hsafe, hreport, hfence⟩ := collect_spec (unmoved_eventPrepared s src unit) ha (eventValid_iff.mp hv).1.1 h16 h17
    (if hasUnit src then unit else 0) (detailOf src d) false
  refine ⟨_, exec_faultEvent ha hv d, hseen, hdetail.trans (Nat.mod_eq_of_lt (detailOf_lt src d)), hsafe, hreport, fun h h13 hhow x hx => ?_⟩
  refine hfence h h13 hhow x ?_ (fenceTarget_shows hv h13 hx)
  rw [if_pos (hasUnit_of_target h13 hx)]
  exact hx

/-- STRIKE stands among a domain's registers. -/
theorem strikeField_off (src unit : Nat) : ∃ k, (strikeField src unit).off = domBase (unit / 4) + k ∧ k < 0x10000 ∧ (strikeField src unit).lo + 1 ≤ 32 ∧
    (strikeField src unit).wid = 1 := by
  unfold strikeField
  split
  · exact ⟨0x200, rfl, by decide, by show 1 + 1 ≤ 32; decide, rfl⟩
  · exact ⟨0x500, rfl, by decide, by show 1 + 1 ≤ 32; decide, rfl⟩

/-- The first mismatch of an engine's self-check. -/
theorem faultEvent_strike (ha : s.pst = 3) (h : src = 16 ∨ src = 17) (hv : eventValid s src unit = true) (hf : s.flag (strikeField src unit) = false) (d : Nat) :
    Runs (.faultEvent src unit d) s fun u => EventSeen s u src unit false ∧ u.get (F.FCOL_EVT_DETAIL src) = d % 2 ∧
      u.flag (strikeField src unit) = true ∧ u.pst = 3 ∧ u.en = s.en ∧ u.fb = s.fb ∧ MemSame s u := by
  have hsrc : src < 64 := by omega
  have hprepared : eventPrepared s src unit = s := by
    unfold eventPrepared
    dsimp only
    rw [if_neg (by omega), if_neg (by omega)]
  have hunit : hasUnit src = true := by rcases h with rfl | rfl <;> rfl
  have hdetail : detailOf src d = d % 2 := if_pos (by simpa using h)
  obtain ⟨k, hoff, hk, hlo, hwid⟩ := strikeField_off src unit
  have hhigh : 0x20000 ≤ (strikeField src unit).off := by
    rw [hoff, domBase]
    omega
  have hmoved : Unmoved s (s.set (strikeField src unit) 1) := ⟨set s 1 (.inl hhigh), rfl, rfl, rfl, fun _ => rfl⟩
  obtain ⟨hpst, -, hen, hfb, hmem⟩ := hmoved.told hsrc unit (d % 2) false ha
  obtain ⟨hseen, hgot⟩ := eventTold_seen (s.set (strikeField src unit) 1) hsrc unit (d % 2) false
  have hexec := exec_faultEvent ha hv d
  rw [hprepared, hunit, if_pos rfl, hdetail, collect_strike s h hf] at hexec
  refine ⟨_, hexec, hseen.of_unmoved hsrc hmoved, hgot.trans (Nat.mod_eq_of_lt (by omega)), ?_, hpst, hen, hfb, hmem⟩
  have hlt : unit < 64 := by
    have hin : unit < nEng s := by
      have := (eventValid_iff.mp hv).2
      rcases h with rfl | rfl <;> simpa [unitInRange] using this
    exact hin.trans_le (by show 4 * nDom s ≤ 64; have := nDom_le s; omega)
  have hreg : (eventTold (s.set (strikeField src unit) 1) src unit (d % 2) false).reg (strikeField src unit).off =
      (s.set (strikeField src unit) 1).reg (strikeField src unit).off := by
    refine eventTold_reg _ _ _ _ _ (by rw [hoff, domBase]; omega) ?_
    rw [hoff, domBase]
    simp [eventRegs, F.FCOL_STATUS_LO, F.FCOL_STATUS_HI, F.FCOL_CTL, F.FCOL_EVT]
    omega
  rw [flag_congr (s := s.set (strikeField src unit) 1) (congrArg (bits · _ _) hreg)]
  exact flag_set_b2n s true hwid (by omega)

end Events

/-! ### Clears and forced events (R510–R513) -/

section Clears

variable {s : State} {src : Nat}

theorem clearSource_cleared (s : State) (hsrc : src < 64) : (clearSource s src).flag (F.FCOL_EVT_ACTIVE src) = false ∧
    (clearSource s src).get (F.FCOL_EVT_SEQ src) = 0 ∧
    bit (if src < 32 then (clearSource s src).reg F.FCOL_STATUS_LO.off else (clearSource s src).reg F.FCOL_STATUS_HI.off) (src % 32) = false ∧
    MemSame s (clearSource s src) := by
  have hreg {o : Nat} (ho : o ≠ (F.FCOL_EVT src).off) : (clearSource s src).reg o = (setActive s src false).reg o :=
    State.reg_set_ne (f := F.FCOL_EVT_SEQ src) _ 0 ho
  refine ⟨?_, ?_, ?_, ?_⟩
  · rw [clearSource, flag_congr (State.get_set_apart _ _ (by show 8 + 1 ≤ 32; decide) (.inl (by show 0 + 8 ≤ 8; decide))),
      flag_congr (setActive_evt s src false rfl), flag_set_b2n _ _ rfl (by show 8 < 32; decide)]
  · rw [clearSource, State.get_set_self _ _ (by show 0 + 8 ≤ 32; decide)]
    rfl
  · rw [hreg (by show 0x10000 ≠ 0x10200 + 4 * src; omega), hreg (by show 0x10004 ≠ 0x10200 + 4 * src; omega)]
    exact setActive_status s hsrc false
  · unfold clearSource setActive
    dsimp only
    split <;> exact fun _ => rfl

theorem clearSource_cnt (s : State) (src : Nat) : (clearSource s src).cnt = s.cnt := by
  unfold clearSource setActive
  dsimp only
  split <;> rfl

theorem bitList_two_pow : ∀ src < 64, bitList (2 ^ src) 64 = [src] := by decide +kernel

theorem exec_fcolForce (ha : s.pst = 3) (hf : s.fnHeld 0 = false) (hsrc : src < 64) {lo hi : Word32} (hv : lo.toNat + 2 ^ 32 * hi.toNat = 2 ^ src) :
    exec (.fcolForce lo hi) s = .next (forceOne s src) := by
  refine congrArg Host.Outcome.next ((fnCmd_active hf ha true _).trans ?_)
  rw [hv, bitList_two_pow src hsrc]
  rfl

end Clears

/-! ### Unfencing (R514, R515) -/

section Unfence

variable {s t : State} {x : FUnit}

theorem unfenceCheck_lt {r : Nat} (h : unfenceCheck s x = some r) : r < 16 := by
  have hite {p : Prop} [Decidable p] {n : Nat} {o : Option Nat} (hn : n < 16) (ho : o = some r → r < 16) (e : (if p then some n else o) = some r) : r < 16 := by
    split at e
    · cases e; exact hn
    · exact ho e
  exact hite (by decide) (hite (by decide) (hite (by decide) (hite (by decide) (hite (by decide) (by simp))))) h

theorem unfenceDone_answered (s : State) {r : Nat} (hr : r < 16) :
    Answered s (s.result F.FCOL_CMD_EVENT_SEQ F.FCOL_CMD_EVENT_RESULT r) F.FCOL_CMD_EVENT_SEQ F.FCOL_CMD_EVENT_RESULT r :=
  answered_result s rfl (by decide) (by decide) (.inl (by decide)) hr

/-- An event after what keeps the event's register. -/
theorem unfenceDone_of_kept (h : FenceKept fencedRegs s t) : Answered s (unfenceDone t) F.FCOL_CMD_EVENT_SEQ F.FCOL_CMD_EVENT_RESULT 0 := by
  obtain ⟨hres, hseq⟩ := unfenceDone_answered t (r := 0) (by decide)
  exact ⟨hres, hseq.trans (congrArg seqNext (h.get (by decide) (by decide)))⟩

/-- The register of the event shows no fence. -/
theorem unitFenced_unfenceDone (t : State) (x : FUnit) : unitFenced (unfenceDone t) x = unitFenced t x := by
  have hreg {o : Nat} (ho : o ≠ F.FCOL_CMD_EVENT.off) : (unfenceDone t).reg o = t.reg o := by
    rw [unfenceDone, State.result, State.reg_bump_ne (f := F.FCOL_CMD_EVENT_SEQ) _ ho, State.reg_set_ne (f := F.FCOL_CMD_EVENT_RESULT) _ _ ho]
  cases x with
  | engine e => simp only [unitFenced, State.engFenced, hreg (show F.FCOL_FENCED_ENG_LO.off ≠ _ by decide), hreg (show F.FCOL_FENCED_ENG_HI.off ≠ _ by decide)]
  | domain d => simp only [unitFenced, State.domFenced, State.get, hreg (show F.FCOL_FENCED_DOM_DOMAINS.off ≠ _ by decide)]
  | port n => simp only [unitFenced, State.portFenced, hreg (show F.FCOL_FENCED_PORT.off ≠ _ by decide)]
  | ioDie i => rfl
  | stack k => simp only [unitFenced, State.stackFenced, State.get, hreg (show F.MEM_FENCED_STACKS.off ≠ _ by decide)]
  | bay m => simp only [unitFenced, State.bayFenced, State.get, hreg (show F.FCOL_FENCED_DOM_BAYS.off ≠ _ by decide)]

/-- The parts of the state that lifting a fence leaves, but for the bit of an I/O die. -/
def liftRest (s : State) := (s.fc, s.mem, s.variant)

theorem liftEngine_rest (s : State) (e : Nat) : liftRest (liftEngine s e) = liftRest s := by
  have hmark : liftRest (markEngFenced s e false) = liftRest s := by
    unfold markEngFenced
    split <;> rfl
  unfold liftEngine
  dsimp only
  split
  · exact hmark
  · split <;> exact hmark

/-- STRIKE shows no fence. -/
theorem liftEngine_kept (s : State) (e : Nat) {l : List Nat} : FenceKept l (markEngFenced s e false) (liftEngine s e) := by
  unfold liftEngine
  dsimp only
  split
  · exact set _ 0 (domBase_high l _ _)
  · split
    · exact set _ 0 (domBase_high l _ _)
    · exact refl l _

theorem engFenced_liftEngine (s : State) (e y : Nat) : (liftEngine s e).engFenced y = if y = e then false else s.engFenced y := by
  have h := liftEngine_kept s e (l := [])
  have hmark := engFenced_markEngFenced s e false y
  rw [Bool.false_and] at hmark
  rw [← hmark, State.engFenced, State.engFenced, h.regs _ (by decide) (by decide), h.regs _ (by decide) (by decide)]

/-- The engines of a domain that is lifted: those that self-test does not hold. -/
def liftEngines (s : State) (d : Nat) (ks : List Nat) : State :=
  ks.foldl (fun s k => if s.fc.selfTest.contains (.engine (4 * d + k)) then s else liftEngine s (4 * d + k)) s

theorem liftEngines_rest (s : State) (d : Nat) (ks : List Nat) : liftRest (liftEngines s d ks) = liftRest s := by
  refine foldl_keeps (P := fun t => liftRest t = liftRest s) (fun t k h => ?_) ks rfl
  split
  · exact h
  · exact (liftEngine_rest t _).trans h

theorem fenceKept_liftEngine (s : State) (e : Nat) : FenceKept [F.FCOL_FENCED_ENG_LO.off, F.FCOL_FENCED_ENG_HI.off] s (liftEngine s e) :=
  (fenceKept_markEngFenced s (by decide) (by decide) e false).trans (liftEngine_kept s e)

theorem fenceKept_liftEngines (s : State) (d : Nat) (ks : List Nat) :
    FenceKept [F.FCOL_FENCED_ENG_LO.off, F.FCOL_FENCED_ENG_HI.off] s (liftEngines s d ks) := by
  refine FenceKept.foldl (fun t k => ?_) ks s
  split
  · exact refl _ t
  · exact fenceKept_liftEngine t _

theorem engFenced_liftEngines (d : Nat) {k : Nat} (ks : List Nat) (s : State) (hno : s.fc.selfTest.contains (.engine (4 * d + k)) = false)
    (h : k ∈ ks ∨ s.engFenced (4 * d + k) = false) : (liftEngines s d ks).engFenced (4 * d + k) = false := by
  induction ks generalizing s with
  | nil => exact h.resolve_left List.not_mem_nil
  | cons j js ih =>
    rw [liftEngines, List.foldl_cons]
    by_cases hj : s.fc.selfTest.contains (.engine (4 * d + j)) = true
    · rw [if_pos hj]
      refine ih s hno (h.imp_left fun hm => (List.mem_cons.mp hm).resolve_left fun e => ?_)
      rw [e, hj] at hno
      cases hno
    · rw [if_neg hj]
      have hfc : (liftEngine s (4 * d + j)).fc = s.fc := congrArg Prod.fst (liftEngine_rest s _)
      refine ih _ (by rw [hfc]; exact hno) ?_
      rw [engFenced_liftEngine]
      by_cases hkj : k = j
      · exact .inr (if_pos (by rw [hkj]))
      · rw [if_neg (by omega)]
        exact h.imp_left fun hm => (List.mem_cons.mp hm).resolve_left hkj

theorem liftMember_rest (s : State) (n : Nat) : liftRest (liftMember s n) = liftRest s := by
  unfold liftMember
  split <;> rfl

theorem fenceKept_liftMember (s : State) (n : Nat) : FenceKept [F.FCOL_FENCED_PORT.off] s (liftMember s n) := by
  unfold liftMember
  split
  · exact refl _ s
  · exact setReg s _ (.inr (by decide))

/-- The ports of a die that rejoins. -/
theorem liftMembers_rest (s : State) (ns : List Nat) : liftRest (ns.foldl liftMember s) = liftRest s :=
  foldl_keeps (P := fun t => liftRest t = liftRest s) (fun t n h => (liftMember_rest t n).trans h) ns rfl

/-- What a bay's ports and LB_STATUS show once its bit is cleared. -/
def bayLifted (s : State) (m : Nat) : State :=
  let s := liftMember (liftMember s (2 * m)) (2 * m + 1)
  s.set (F.LB_STATUS_STATE m) (if s.flag (F.LB_STATUS_LATCH m) then 1 else 0)

theorem fenceKept_bayLifted (s : State) (m : Nat) : FenceKept [F.FCOL_FENCED_PORT.off] s (bayLifted s m) :=
  ((fenceKept_liftMember s _).trans (fenceKept_liftMember _ _)).trans (set _ (f := F.LB_STATUS_STATE m) _ (bayBase_high _ _ _))

theorem bayLifted_rest (s : State) (m : Nat) : liftRest (bayLifted s m) = liftRest s := by
  show liftRest (liftMember (liftMember s (2 * m)) (2 * m + 1)) = _
  rw [liftMember_rest, liftMember_rest]

/-- A unit whose fence is lifted: the collector's registers but the fences, memory, and the rest of the collector. -/
theorem liftUnit_kept (s : State) (hx : ∀ d, x ≠ .domain d) : FenceKept fencedRegs s (liftUnit s x) ∧ MemSame s (liftUnit s x) ∧
    (liftUnit s x).fc.unfence = s.fc.unfence ∧ unitFenced (liftUnit s x) x = false := by
  have hrest {t u : State} (h : liftRest u = liftRest t) : MemSame t u ∧ u.fc = t.fc := by
    simp only [liftRest, Prod.mk.injEq] at h
    exact ⟨memSame_of_mem h.2.1 h.2.2, h.1⟩
  cases x with
  | engine e =>
    obtain ⟨hmem, hfc⟩ := hrest (liftEngine_rest s e)
    refine ⟨(fenceKept_liftEngine s e).mono (by decide), hmem, congrArg Fcol.unfence hfc, ?_⟩
    show (liftEngine s e).engFenced e = false
    rw [engFenced_liftEngine, if_pos rfl]
  | domain d => exact absurd rfl (hx d)
  | port n =>
    refine ⟨setReg s _ (.inr (by decide)), fun _ => rfl, rfl, ?_⟩
    show bit ((s.setReg F.FCOL_FENCED_PORT.off (putBit (s.reg F.FCOL_FENCED_PORT.off) n false)).reg F.FCOL_FENCED_PORT.off) n = false
    rw [State.reg_setReg_self, bit, Nat.testBit_mod_two_pow]
    rw [show Nat.testBit (putBit (s.reg F.FCOL_FENCED_PORT.off) n false) n = false from (bit_putBit _ _ _ _).trans (if_pos rfl), Bool.and_false]
  | ioDie i =>
    obtain ⟨hmem, hfc⟩ := hrest (liftMembers_rest { s with fc := { s.fc with ioDies := putBit s.fc.ioDies i false } } (diePorts s i))
    have hports (t : State) (ns : List Nat) : FenceKept fencedRegs t (ns.foldl liftMember t) :=
      FenceKept.foldl (fun t n => (fenceKept_liftMember t n).mono (by decide)) ns t
    refine ⟨.trans (t := { s with fc := { s.fc with ioDies := putBit s.fc.ioDies i false } }) (of_rest rfl rfl rfl) (hports _ _), hmem,
      (congrArg Fcol.unfence hfc :), ?_⟩
    show bit ((diePorts s i).foldl liftMember _).fc.ioDies i = false
    rw [hfc]
    exact (bit_putBit _ _ _ _).trans (if_pos rfl)
  | stack k =>
    refine ⟨set s _ (.inl (by decide)), fun _ => rfl, rfl, ?_⟩
    exact (bit_get_setBit s (by decide) k false).trans (Bool.false_and _)
  | bay m =>
    obtain ⟨hmem, hfc⟩ := hrest (bayLifted_rest (s.set F.FCOL_FENCED_DOM_BAYS (putBit (s.get F.FCOL_FENCED_DOM_BAYS) m false)) m)
    have hkept := fenceKept_bayLifted (s.set F.FCOL_FENCED_DOM_BAYS (putBit (s.get F.FCOL_FENCED_DOM_BAYS) m false)) m
    refine ⟨(set s _ (.inr (by decide))).trans (hkept.mono (by decide)), hmem, congrArg Fcol.unfence hfc, ?_⟩
    show bit ((bayLifted _ m).get F.FCOL_FENCED_DOM_BAYS) m = false
    rw [hkept.get (by decide) (by decide)]
    exact (bit_get_setBit s (by decide) m false).trans (Bool.false_and _)

/-- A domain that rejoins after its refill. -/
theorem liftDomain_kept (s : State) (d : Nat) : FenceKept fencedRegs s (liftUnit s (.domain d)) ∧ MemSame s (liftUnit s (.domain d)) ∧
    (liftUnit s (.domain d)).fc = s.fc ∧ unitFenced (liftUnit s (.domain d)) (.domain d) = false ∧
    ∀ k, k < 4 → s.fc.selfTest.contains (.engine (4 * d + k)) = false → (liftUnit s (.domain d)).engFenced (4 * d + k) = false := by
  have heq : liftUnit s (.domain d) = liftEngines (s.set F.FCOL_FENCED_DOM_DOMAINS (putBit (s.get F.FCOL_FENCED_DOM_DOMAINS) d false)) d (List.range 4) := rfl
  have hkept := fenceKept_liftEngines (s.set F.FCOL_FENCED_DOM_DOMAINS (putBit (s.get F.FCOL_FENCED_DOM_DOMAINS) d false)) d (List.range 4)
  have hrest := liftEngines_rest (s.set F.FCOL_FENCED_DOM_DOMAINS (putBit (s.get F.FCOL_FENCED_DOM_DOMAINS) d false)) d (List.range 4)
  simp only [liftRest, Prod.mk.injEq] at hrest
  obtain ⟨hfc, hmem, hvariant⟩ := hrest
  rw [heq]
  refine ⟨(set s _ (.inr (by decide))).trans (hkept.mono (by decide)), memSame_of_mem hmem hvariant, hfc, ?_, fun k hk hno => ?_⟩
  · show bit (State.get _ F.FCOL_FENCED_DOM_DOMAINS) d = false
    rw [hkept.get (by decide) (by decide)]
    exact (bit_get_setBit s (by decide) d false).trans (Bool.false_and _)
  · exact engFenced_liftEngines d _ _ hno (.inl (List.mem_range.mpr hk))

end Unfence

/-! ### The commands -/

section Commands

variable {s : State} {src unit kind : Nat} {x : FUnit}

/-- What a cleared source shows. -/
def SourceCleared (s u : State) (src : Nat) : Prop := u.flag (F.FCOL_EVT_ACTIVE src) = false ∧ u.get (F.FCOL_EVT_SEQ src) = 0 ∧
  bit (if src < 32 then u.reg F.FCOL_STATUS_LO.off else u.reg F.FCOL_STATUS_HI.off) (src % 32) = false ∧ MemSame s u

theorem quietPeriodExpiry_clears (ha : s.pst = 3) (hsrc : src < 64) (hactive : s.flag (F.FCOL_EVT_ACTIVE src) = true) :
    Runs (.quietPeriodExpiry src) s fun u => SourceCleared s u src ∧ Counted s u (F.FCOL_COUNT_RECOVERIES src) := by
  have hlive : (clearSource s src).live (F.FCOL_COUNT_RECOVERIES src) = s.live (F.FCOL_COUNT_RECOVERIES src) := by
    rw [State.live, State.live, clearSource_cnt]
  refine ⟨_, congrArg Host.Outcome.next (if_pos (by simp [ha, hsrc, hactive])), clearSource_cleared s hsrc, ?_⟩
  rw [Counted, State.live_count_self, hlive]

theorem strikeTimerExpiry_rests (ha : s.pst = 3) (he : unit < nEng s) : Runs (.strikeTimerExpiry unit) s fun u => MemSame s u ∧ u.fc = s.fc ∧
    (unit % 4 = 0 → u.get (F.RED_STATUS_STRIKE (unit / 4)) = 0) ∧ (unit % 4 = 2 → u.get (F.CE_STATUS_STRIKE (unit / 4)) = 0) := by
  have hexec : exec (.strikeTimerExpiry unit) s = .next _ := congrArg Host.Outcome.next (if_pos (by simp [ha, he]))
  refine ⟨_, hexec, ?_⟩
  by_cases h0 : unit % 4 = 0
  · rw [if_pos h0]
    exact ⟨fun _ => rfl, rfl, fun _ => State.get_set_self _ _ (by show 1 + 1 ≤ 32; decide), fun h => by omega⟩
  · rw [if_neg h0]
    split
    · exact ⟨fun _ => rfl, rfl, fun h => absurd h h0, fun _ => State.get_set_self _ _ (by show 1 + 1 ≤ 32; decide)⟩
    next h2 => exact ⟨fun _ => rfl, rfl, fun h => absurd h h0, fun h => absurd h h2⟩

theorem fcolForce_raises (ha : s.pst = 3) (hf : s.fnHeld 0 = false) (hsrc : src < 64) (h16 : src ≠ 16) (h17 : src ≠ 17) {lo hi : Word32}
    (hv : lo.toNat + 2 ^ 32 * hi.toNat = 2 ^ src) {n : Nat} (hn : n = if hasUnit src then s.get F.FCOL_FORCE_UNIT_UNIT else 0)
    (hvalid : eventValid s src n = true) : Runs (.fcolForce lo hi) s fun u => EventSeen s u src n true ∧
      (src ≤ 1 ∨ (s.get (F.FCOL_CFG_REACTION src) = 2 ∧ src ≠ 13) → u.pst = 5 ∧ u.get F.FCOL_SAFE_CAUSE_SOURCE = src) := by
  obtain ⟨hseen, -, hsafe, -⟩ := collect_spec (.refl s) ha hsrc h16 h17 n 0 true
  subst hn
  refine ⟨_, (exec_fcolForce ha hf hsrc hv).trans (congrArg Host.Outcome.next (if_pos hvalid)), hseen, fun h => ?_⟩
  obtain ⟨hpst, hsource, -⟩ := hsafe h
  exact ⟨hpst, hsource⟩

theorem fcolForce_ignored (ha : s.pst = 3) (hf : s.fnHeld 0 = false) (hsrc : src < 64) {lo hi : Word32} (hv : lo.toNat + 2 ^ 32 * hi.toNat = 2 ^ src)
    {n : Nat} (hn : n = if hasUnit src then s.get F.FCOL_FORCE_UNIT_UNIT else 0) (hvalid : eventValid s src n = false) :
    Runs (.fcolForce lo hi) s fun u => Counted s u { F.BRUP_IGN_WRITES with wid := 16 } ∧ RegsBut s u [] ∧ MemSame s u := by
  subst hn
  exact ⟨_, (exec_fcolForce ha hf hsrc hv).trans (congrArg Host.Outcome.next (if_neg (by simp [hvalid]))), State.live_count_self _ _ _,
    fun _ _ => rfl, fun _ => rfl⟩

/-- An unfence that is not accepted has its RESULT at once. -/
theorem unfence_refused (s : State) {r : Nat} (hr : r < 16) : Answered s (s.result F.FCOL_CMD_EVENT_SEQ F.FCOL_CMD_EVENT_RESULT r) F.FCOL_CMD_EVENT_SEQ
    F.FCOL_CMD_EVENT_RESULT r ∧ (s.result F.FCOL_CMD_EVENT_SEQ F.FCOL_CMD_EVENT_RESULT r).fc = s.fc ∧
      MemSame s (s.result F.FCOL_CMD_EVENT_SEQ F.FCOL_CMD_EVENT_RESULT r) :=
  ⟨unfenceDone_answered s hr, rfl, fun _ => rfl⟩

theorem exec_fcolUnfence_absent (ha : s.pst = 3) (hf : s.fnHeld 0 = false) (h : unfenceUnit s kind unit = none) :
    exec (.fcolUnfence kind unit) s = .next (s.result F.FCOL_CMD_EVENT_SEQ F.FCOL_CMD_EVENT_RESULT 1) := by
  have hexec : exec (.fcolUnfence kind unit) s = execFcolUnfence kind unit s := rfl
  simp only [hexec, execFcolUnfence, regCmd, fnCmd_active hf ha true, h]

theorem exec_fcolUnfence_refused (ha : s.pst = 3) (hf : s.fnHeld 0 = false) (h : unfenceUnit s kind unit = some x) {r : Nat}
    (hr : unfenceCheck s x = some r) : exec (.fcolUnfence kind unit) s = .next (s.result F.FCOL_CMD_EVENT_SEQ F.FCOL_CMD_EVENT_RESULT r) := by
  have hexec : exec (.fcolUnfence kind unit) s = execFcolUnfence kind unit s := rfl
  simp only [hexec, execFcolUnfence, regCmd, fnCmd_active hf ha true, h, hr]

theorem exec_fcolUnfence_accepted (ha : s.pst = 3) (hf : s.fnHeld 0 = false) (h : unfenceUnit s kind unit = some x) (hr : unfenceCheck s x = none) :
    exec (.fcolUnfence kind unit) s = .next { s with fc := { s.fc with unfence := some x } } := by
  have hexec : exec (.fcolUnfence kind unit) s = execFcolUnfence kind unit s := rfl
  simp only [hexec, execFcolUnfence, regCmd, fnCmd_active hf ha true, h, hr]

theorem exec_unfenceEffect (ha : s.pst = 3) (hx : s.fc.unfence = some x) (hdom : ∀ d, x ≠ .domain d) :
    exec .unfenceEffect s = .next (unfenceDone (liftUnit { s with fc := { s.fc with unfence := none } } x)) := by
  have hexec : exec .unfenceEffect s = execUnfenceEffect s := rfl
  rw [hexec, execUnfenceEffect, hx]
  dsimp only
  rw [if_neg (by simp [ha])]
  cases x with
  | domain d => exact absurd rfl (hdom d)
  | _ => rfl

theorem unfenceEffect_rejoins (ha : s.pst = 3) (hx : s.fc.unfence = some x) (hdom : ∀ d, x ≠ .domain d) : Runs .unfenceEffect s fun u =>
    Answered s u F.FCOL_CMD_EVENT_SEQ F.FCOL_CMD_EVENT_RESULT 0 ∧ unitFenced u x = false ∧ u.fc.unfence = none ∧ MemSame s u := by
  obtain ⟨hkept, hmem, hunfence, hfence⟩ := liftUnit_kept { s with fc := { s.fc with unfence := none } } hdom
  refine ⟨_, exec_unfenceEffect ha hx hdom, unfenceDone_of_kept (.trans (t := { s with fc := { s.fc with unfence := none } }) (of_rest rfl rfl rfl) hkept),
    (unitFenced_unfenceDone _ x).trans hfence, hunfence, hmem⟩

/-- A domain's refill starts (R515). -/
theorem unfenceEffect_refills (ha : s.pst = 3) {d : Nat} (hx : s.fc.unfence = some (.domain d)) : Runs .unfenceEffect s fun u =>
    u.fc = { s.fc with unfence := none, refilling := some d } ∧ RegsBut s u [] := by
  refine ⟨{ refillBank { s with fc := { s.fc with unfence := none } } d with fc := { s.fc with unfence := none, refilling := some d } }, ?_, rfl,
    fun _ _ => rfl⟩
  have hexec : exec .unfenceEffect s = execUnfenceEffect s := rfl
  rw [hexec, execUnfenceEffect, hx]
  dsimp only
  rw [if_neg (by simp [ha])]

theorem domainRefillDone_rejoins (ha : s.pst = 3) {d : Nat} (hd : s.fc.refilling = some d) : Runs .domainRefillDone s fun u =>
    Answered s u F.FCOL_CMD_EVENT_SEQ F.FCOL_CMD_EVENT_RESULT 0 ∧ unitFenced u (.domain d) = false ∧ u.fc.refilling = none ∧ MemSame s u ∧
      ∀ k, k < 4 → s.fc.selfTest.contains (.engine (4 * d + k)) = false → u.engFenced (4 * d + k) = false := by
  obtain ⟨hkept, hmem, hfc, hdom, heng⟩ := liftDomain_kept { s with fc := { s.fc with refilling := none } } d
  have hexec : exec .domainRefillDone s = .next (unfenceDone (liftUnit { s with fc := { s.fc with refilling := none } } (.domain d))) := by
    have h : exec .domainRefillDone s = execDomainRefillDone s := rfl
    rw [h, execDomainRefillDone, hd]
    dsimp only
    rw [if_neg (by simp [ha])]
  refine ⟨_, hexec, unfenceDone_of_kept (.trans (t := { s with fc := { s.fc with refilling := none } }) (of_rest rfl rfl rfl) hkept),
    (unitFenced_unfenceDone _ _).trans hdom, congrArg Fcol.refilling hfc, hmem, fun k hk hno => ?_⟩
  exact (unitFenced_unfenceDone _ (.engine (4 * d + k))).trans (heng k hk hno)

end Commands

/-! ## O56 -/

/-- Settles O56: an event shows in registers that no reaction writes, and each reaction, clear or lifted fence leaves what its own branch says. -/
theorem faultCollector : Obligations.FaultCollector := by
  unfold Obligations.FaultCollector
  intro s src unit ha act cleared ev how
  have hact {u : State} {n : Nat} {forced : Bool} (h : EventSeen s u src n forced) : act u n forced :=
    ⟨h.active, h.unit, h.seq, h.forced, h.counted, h.status⟩
  refine ⟨fun d hv h16 h17 => ?_, fun d h hv hf => ?_, quietPeriodExpiry_clears ha, strikeTimerExpiry_rests ha, fun seq hfn hsrc => ⟨fun hseq heq => ?_, fun hno => ?_⟩,
    ?_, fun hfn => ?_, fun kind hfn => ⟨fun hnone => ?_, fun x hx => ⟨fun r hr => ?_, fun hr => ?_⟩⟩, fun x hx hdom => unfenceEffect_rejoins ha hx hdom,
    fun d hd => unfenceEffect_refills ha hd, fun d hd => domainRefillDone_rejoins ha hd⟩
  · obtain ⟨u, hexec, hseen, hdetail, hsafe, hreport, hfence⟩ := faultEvent_collected ha hv h16 h17 d
    exact ⟨u, hexec, hact hseen, hdetail, hsafe, hreport, hfence⟩
  · obtain ⟨u, hexec, hseen, hrest⟩ := faultEvent_strike ha h hv hf d
    exact ⟨u, hexec, hact hseen, hrest⟩
  · exact ⟨_, congrArg Host.Outcome.next ((if_neg (by omega)).trans ((fnCmd_active hfn ha true _).trans (if_pos (by simp [hseq, heq])))),
      clearSource_cleared s hsrc⟩
  · exact ⟨_, congrArg Host.Outcome.next ((if_neg (by omega)).trans ((fnCmd_active hfn ha true _).trans (if_neg (by simpa [imp_iff_not_or] using hno)))), rfl⟩
  · intro lo hi hfn hsrc h16 h17 hforce n
    refine ⟨fun hv => ?_, fcolForce_ignored ha hfn hsrc hforce rfl⟩
    obtain ⟨u, hexec, hseen, hsafe⟩ := fcolForce_raises ha hfn hsrc h16 h17 hforce (n := n) rfl hv
    exact ⟨u, hexec, hact hseen, hsafe⟩
  · exact ⟨_, congrArg Host.Outcome.next (fnCmd_active hfn ha true _), flag_set_b2n s true rfl (by decide), regsBut_set s _ _, fun _ _ => rfl, fun _ => rfl⟩
  · exact ⟨_, exec_fcolUnfence_absent ha hfn hnone, unfence_refused s (by decide)⟩
  · exact ⟨_, exec_fcolUnfence_refused ha hfn hx hr, unfence_refused s (unfenceCheck_lt hr)⟩
  · exact ⟨_, exec_fcolUnfence_accepted ha hfn hx hr, rfl⟩

end Sys2Proof.Machine

/-! ## Page migration (R300–R307) -/

namespace Sys2Proof.Machine

/-! ### The bytes of a frame that is filled (R305) -/

section Fill

variable {s : State} {a : Nat} {data : List Host.Cell}

/-- The addresses of a frame whose stacks take writes. -/
def frameTakes (s : State) (a k : Nat) : Bool := a ≤ k && k < a + pageSize && !s.stackFenced (stackOf s.variant k)

/-- One byte of the page. -/
def fillCell (s : State) (a : Nat) (m : SMap Byte) (c : Host.Cell) : SMap Byte :=
  if c.1 < pageSize && frameTakes s a (a + c.1) then smPut 0#8 m (a + c.1) c.2 else m

/-- HBM with the page in its frame. -/
def filledHbm (s : State) (a : Nat) (data : List Host.Cell) : SMap Byte := data.foldl (fillCell s a) (smDrop (frameTakes s a) s.mem.hbm)

/-- The state with the page in its frame, before its checksum lines are taken. -/
def filledState (s : State) (a : Nat) (data : List Host.Cell) : State :=
  { s with mem := { s.mem with
    hbm := filledHbm s a data,
    bad := smDrop (fun t => frameTakes s a (t * 2048)) s.mem.bad,
    sums := smDrop (fun t => frameTakes s a (t * 2048)) s.mem.sums } }

theorem fillFrame_eq (s : State) (a : Nat) (data : List Host.Cell) : fillFrame s a data =
    (tilesOf a pageSize).foldl (fun u t => if frameTakes s a (t * 2048) then u.sumLine t else u) (filledState s a data) := rfl

theorem linesTaken_fillFrame (s : State) (a : Nat) (data : List Host.Cell) : LinesTaken (filledState s a data) (fillFrame s a data) := by
  rw [fillFrame_eq]
  refine foldl_keeps (P := LinesTaken (filledState s a data)) (fun u t h => ?_) _ (.refl _)
  split
  · exact h.trans (linesTaken_sumLine u t)
  · exact h

theorem smGet_foldl_fillCell_out (m : SMap Byte) {k : Nat} (h : ∀ c ∈ data, a + c.1 ≠ k) : smGet (data.foldl (fillCell s a) m) k 0#8 = smGet m k 0#8 := by
  induction data generalizing m with
  | nil => rfl
  | cons c cs ih =>
    obtain ⟨hc, hcs⟩ := List.forall_mem_cons.mp h
    rw [List.foldl_cons, ih _ hcs, fillCell]
    split
    · exact smGet_smPut_ne _ _ _ hc.symm
    · rfl

theorem smGet_foldl_fillCell_in (m : SMap Byte) (hin : ∀ c ∈ data, c.1 < pageSize) (htakes : ∀ i, i < pageSize → frameTakes s a (a + i) = true)
    (hone : data.Pairwise fun x y => x.1 ≠ y.1) {c : Host.Cell} (hc : c ∈ data) : smGet (data.foldl (fillCell s a) m) (a + c.1) 0#8 = c.2 := by
  induction data generalizing m with
  | nil => cases hc
  | cons d ds ih =>
    obtain ⟨hd, hds⟩ := List.forall_mem_cons.mp hin
    obtain ⟨hapart, hone⟩ := List.pairwise_cons.mp hone
    rw [List.foldl_cons]
    obtain rfl | hc := List.mem_cons.mp hc
    · rw [smGet_foldl_fillCell_out _ fun x hx e => hapart x hx (by omega), fillCell, if_pos (by simp [hd, htakes _ hd])]
      exact smGet_smPut_self _ _ _ _
    · exact ih _ hds hone hc

/-- Addresses below the end of what can be allocated are HBM's, outside the reserve. -/
theorem byte_hbm (s : State) {b : Nat} (h : b < allocEnd s.variant) : s.byte b = smGet s.mem.hbm b 0#8 := by
  have hend : allocEnd s.variant < 2 ^ 47 := by
    unfold allocEnd
    split <;> decide
  have hstg : isStg b = false := Nat.testBit_lt_two_pow (h.trans hend)
  have hreserve : inReserve s.variant b = false := by simp [inReserve, h]
  rw [State.byte, hstg, hreserve]
  rfl

theorem byte_filledState {b : Nat} (h : smGet (filledHbm s a data) b 0#8 = smGet s.mem.hbm b 0#8) : (filledState s a data).byte b = s.byte b := by
  unfold State.byte
  show (if isStg b then _ else if inReserve s.variant b then _ else smGet (filledHbm s a data) b 0#8) = _
  rw [h]
  rfl

/-- The frame lies in HBM and none of its stacks is fenced. -/
structure FrameOpen (s : State) (a : Nat) : Prop where
  fits : a + pageSize ≤ allocEnd s.variant
  open_ : ∀ b, a ≤ b → b < a + pageSize → s.stackFenced (stackOf s.variant b) = false

theorem FrameOpen.takes (h : FrameOpen s a) (b : Nat) : frameTakes s a b = decide (a ≤ b ∧ b < a + pageSize) := by
  unfold frameTakes
  by_cases hb : a ≤ b ∧ b < a + pageSize
  · rw [h.open_ b hb.1 hb.2]
    simp [hb]
  · rw [decide_eq_false hb]
    simp only [Bool.and_eq_false_iff, decide_eq_false_iff_not]
    omega

/-- The page's bytes stand in the frame, the frame's others are 0, and no byte outside it changes. -/
theorem FrameOpen.filled (h : FrameOpen s a) (hin : ∀ c ∈ data, c.1 < pageSize) (hone : data.Pairwise fun x y => x.1 ≠ y.1) :
    MemBut s (fillFrame s a data) a pageSize ∧ (∀ c ∈ data, (fillFrame s a data).byte (a + c.1) = c.2) ∧
      ∀ i, i < pageSize → (∀ c ∈ data, c.1 ≠ i) → (fillFrame s a data).byte (a + i) = 0#8 := by
  have hlines := linesTaken_fillFrame s a data
  have hhbm {b : Nat} (hb : b < allocEnd s.variant) : (fillFrame s a data).byte b = smGet (filledHbm s a data) b 0#8 := by
    rw [hlines.byte, byte_hbm (filledState s a data) hb]
    rfl
  have hdrop (b : Nat) : smGet (smDrop (frameTakes s a) s.mem.hbm) b 0#8 = if a ≤ b ∧ b < a + pageSize then 0#8 else smGet s.mem.hbm b 0#8 := by
    rw [smGet, smFind_smDrop, h.takes]
    by_cases hb : a ≤ b ∧ b < a + pageSize
    · rw [if_pos (decide_eq_true hb), if_pos hb]
      rfl
    · rw [if_neg (by simpa using hb), if_neg hb]
      rfl
  refine ⟨fun b hb => ?_, fun c hc => ?_, fun i hi hno => ?_⟩
  · rw [hlines.byte]
    refine byte_filledState ((smGet_foldl_fillCell_out _ fun c hc => ?_).trans ((hdrop b).trans (if_neg (by omega))))
    have := hin c hc
    omega
  · have := h.fits
    have := hin c hc
    rw [hhbm (by omega)]
    exact smGet_foldl_fillCell_in _ hin (fun i hi => by rw [h.takes]; simp [hi]) hone hc
  · have := h.fits
    rw [hhbm (by omega)]
    exact (smGet_foldl_fillCell_out _ fun c hc e => hno c hc (by omega)).trans ((hdrop _).trans (if_pos (by omega)))

end Fill

/-! ### The tables: a page, the page in a frame, a page's record -/

section Tables

variable {s u : State} {key page f ctx seg : Nat} {g : Segm} {x : Page}

/-- A page of segment `key`. -/
def pageOf (s : State) (key page : Nat) : Option Page := (smFind s.sg.segs key).map fun g => g.page page

/-- The page in a frame of segment `key`. -/
def frameOf (s : State) (key f : Nat) : Option (Option Nat) := (smFind s.sg.segs key).map fun g => smFind g.frames f

/-- Only the segments' table changed. -/
def SegsOnly (s u : State) : Prop := u = { s with sg := { s.sg with segs := u.sg.segs } }

theorem SegsOnly.trans {t : State} (h : SegsOnly s t) (k : SegsOnly t u) : SegsOnly s u := by
  unfold SegsOnly at *
  rw [k, h]

theorem SegsOnly.blockOnly (h : SegsOnly s u) (b : Blk) : BlockOnly s u b := by
  unfold SegsOnly at h
  rw [h]
  exact .tables s b _

theorem SegsOnly.pend (h : SegsOnly s u) : u.sg.pend = s.sg.pend := by
  unfold SegsOnly at h
  rw [h]

theorem SegsOnly.cnt (h : SegsOnly s u) : u.cnt = s.cnt := by
  unfold SegsOnly at h
  rw [h]

theorem SegsOnly.recs (h : SegsOnly s u) : u.sg.recs = s.sg.recs := by
  unfold SegsOnly at h
  rw [h]

theorem Segm.page_setPage (g : Segm) (p : Nat) (x : Page) : (g.setPage p x).page p = x := smGet_smPut_self _ _ _ _

theorem setPage_at (hg : smFind s.sg.segs key = some g) (x : Page) : setPage s key page x = s.setSegm key (g.setPage page x) := by
  rw [setPage, hg]

theorem setPage_segsOnly (s : State) (key page : Nat) (x : Page) : SegsOnly s (setPage s key page x) := by
  unfold setPage
  split <;> rfl

theorem setFrame_segsOnly (s : State) (key f : Nat) (p : Option Nat) : SegsOnly s (setFrame s key f p) := by
  unfold setFrame
  split <;> rfl

theorem find_setPage (hg : smFind s.sg.segs key = some g) (x : Page) : smFind (setPage s key page x).sg.segs key = some (g.setPage page x) := by
  rw [setPage_at hg]
  exact smFind_smSet_self _ _ _

theorem pageOf_setPage (hg : smFind s.sg.segs key = some g) (x : Page) : pageOf (setPage s key page x) key page = some x := by
  rw [pageOf, find_setPage hg, Option.map_some, Segm.page_setPage]

/-- The page's frame is free again, and the page is NONRES. -/
def pageFreed (s : State) (key page f : Nat) : State := setFrame (setPage s key page {}) key f none

theorem pageFreed_segsOnly (s : State) (key page f : Nat) : SegsOnly s (pageFreed s key page f) :=
  (setPage_segsOnly _ _ _ _).trans (setFrame_segsOnly _ _ _ _)

theorem pageFreed_at (hg : smFind s.sg.segs key = some g) :
    pageOf (pageFreed s key page f) key page = some {} ∧ frameOf (pageFreed s key page f) key f = some none := by
  have hfind : smFind (pageFreed s key page f).sg.segs key =
      some { g.setPage page {} with frames := smDel (g.setPage page {}).frames f } := by
    rw [pageFreed, setFrame, find_setPage hg]
    exact smFind_smSet_self _ _ _
  rw [pageOf, frameOf, hfind]
  exact ⟨congrArg some (Segm.page_setPage g page {}), congrArg some (smFind_smDel_self _ _)⟩

theorem segKey_div (hs : seg < 16) : segKey ctx seg / 16 = ctx := by
  unfold segKey
  omega

theorem segKey_mod (hs : seg < 16) : segKey ctx seg % 16 = seg := by
  unfold segKey
  omega

theorem migTarget_some (hs : seg < 16) (hp : page < segPages g.e.toNat) (hb : segBacking g.e.toNat = 3)
    (hg : smFind s.sg.segs (segKey ctx seg) = some g) (hr : g.removed = none) : migTarget s ctx seg page = some g := by
  simp [migTarget, Nat.not_le.mpr hs, hg, hb, hr, hp]

end Tables

/-! ### Prefetch and evict (R303, R307) -/

section Commands

variable {s : State} {ctx seg page f : Nat} {g : Segm}

/-- A command of the migration block in progress. -/
def migAsk (ctx seg page op : Nat) : Pending := { blk := .mig, op := op, ctx := ctx, idx := seg, page := page }

/-- The record of a page that only its prefetch waits for. -/
def prefetchRec (ctx seg page : Nat) (started frame : Option Nat) : FaultRec := ⟨ctx, seg, page, [.prefetch], started, none, frame⟩

/-- The segment with the page on its way into a frame. -/
def pageIn (g : Segm) (page f : Nat) : Segm := { g.setPage page { st := 1, frame := f } with frames := smSet g.frames f page }

theorem rec?_one {r : FaultRec} {key : Nat} (hs : s.sg.recs = [r]) (hk : segKey r.ctx r.seg = key) (hp : r.page = page) : s.rec? key page = some r := by
  simp [State.rec?, hs, hk, hp]

theorem putRec_one {q r : FaultRec} (hs : s.sg.recs = [q]) (hc : q.ctx = r.ctx) (hg : q.seg = r.seg) (hp : q.page = r.page) : s.putRec r = s.setRecs [r] := by
  simp [State.putRec, hs, hc, hg, hp]

theorem startMigration_free {key : Nat} {r : FaultRec} (hc : ctrlOn s = true) (hg : smFind s.sg.segs key = some g) (hr : s.rec? key page = some r)
    (hst : r.started = none) (hf : freeFrame g (segFrames g.e.toNat) = some f) :
    startMigration s key page = (s.setSegm key (pageIn g page f)).putRec { r with started := some s.tk.count, frame := some f, victim := none } := by
  rw [startMigration, hc, hg, hr]
  simp only [Bool.not_true, Bool.false_eq_true, if_false, hf, hst]
  rfl

theorem joinFault_first {w : FaultWaiter} {key : Nat} (hrecs : s.sg.recs = []) (hg : smFind s.sg.segs key = some g) (hst : (g.page page).st = 0) :
    (joinFault s key page w).1 = startMigration ((s.setRecs [⟨key / 16, key % 16, page, [w], none, none, none⟩]).count F.MIG_FAULTS) key page := by
  have hnone : s.rec? key page = none := by simp [State.rec?, hrecs]
  have hfind (rs : List FaultRec) : smFind ((s.setRecs rs).count F.MIG_FAULTS).sg.segs key = some g := hg
  rw [joinFault, hnone, hrecs]
  simp only [List.length_nil, List.nil_append, show ¬ 256 ≤ 0 by decide, if_false, hfind, hst, if_true]

/-- The state that a prefetch into a free frame leaves. -/
def prefetched (s : State) (g : Segm) (ctx seg page f : Nat) : State :=
  ((((cmdPend s (migAsk ctx seg page 1)).setRecs [prefetchRec ctx seg page none none]).count F.MIG_FAULTS).setSegm (segKey ctx seg) (pageIn g page f)).setRecs
    [prefetchRec ctx seg page (some s.tk.count) (some f)]

theorem prefetchCore_free (hs : seg < 16) (hc : ctrlOn s = true) (hb : blkBusy s .mig = false) (ht : migTarget s ctx seg page = some g)
    (hg : smFind s.sg.segs (segKey ctx seg) = some g) (hst : (g.page page).st = 0) (hrecs : s.sg.recs = [])
    (hf : freeFrame g (segFrames g.e.toNat) = some f) : prefetchCore s none ctx seg page = prefetched s g ctx seg page f := by
  have hnone : s.rec? (segKey ctx seg) page = none := by simp [State.rec?, hrecs]
  have hjoin := joinFault_first (s := cmdPend s (migAsk ctx seg page 1)) (w := .prefetch) hrecs hg hst
  have hstart := startMigration_free (s := ((cmdPend s (migAsk ctx seg page 1)).setRecs [prefetchRec ctx seg page none none]).count F.MIG_FAULTS)
    (page := page) (r := prefetchRec ctx seg page none none) hc hg (rec?_one rfl rfl rfl) rfl hf
  rw [segKey_div hs, segKey_mod hs] at hjoin
  rw [prefetchCore, hb, ht, hnone]
  simp only [Bool.false_eq_true, if_false, hst, show ¬ (0 = 2) by decide, hrecs, List.length_nil, show decide (0 < 256) = true by decide, Bool.not_true]
  refine (hjoin.trans hstart).trans ?_
  exact putRec_one (q := prefetchRec ctx seg page none none) rfl rfl rfl rfl

theorem prefetched_spec (s : State) (g : Segm) (ctx seg page f : Nat) :
    let u := prefetched s g ctx seg page f
    pageOf u (segKey ctx seg) page = some { st := 1, frame := f } ∧ frameOf u (segKey ctx seg) f = some (some page) ∧
      u.get F.MIG_EVENT_PENDING = 1 ∧ u.get F.MIG_EVENT_SEQ = s.get F.MIG_EVENT_SEQ ∧ Counted s u F.MIG_FAULTS ∧ MemSame s u := by
  have hfind : smFind (prefetched s g ctx seg page f).sg.segs (segKey ctx seg) = some (pageIn g page f) := smFind_smSet_self _ _ _
  have hget {h : RF} (ho : h.off ≠ F.MIG_STATUS_RECORDS.off) : (prefetched s g ctx seg page f).get h = (cmdPend s (migAsk ctx seg page 1)).get h :=
    (State.get_set_ne _ _ ho).trans (State.get_set_ne _ _ ho)
  refine ⟨?_, ?_, (hget (by decide)).trans (cmdPend_pending _ _),
    (hget (by decide)).trans (cmdPend_seq _ _), State.live_count_self _ _ _, fun _ => rfl⟩
  · rw [pageOf, hfind]
    exact congrArg some (Segm.page_setPage g page { st := 1, frame := f })
  · rw [frameOf, hfind]
    exact congrArg some (smFind_smSet_self _ _ _)

section Register

variable (ha : s.pst = 3) (hr : s.fnHeld 0 = false) (hc : ctrlOn s = true) (hs : seg < 16) (hp : page < segPages g.e.toNat)
  (hb : segBacking g.e.toNat = 3) (hg : smFind s.sg.segs (segKey ctx seg) = some g) (hrem : g.removed = none)
include ha hr hc hs hp hb hg hrem

theorem migPrefetch_free (hidle : blkBusy s .mig = false) (hst : (g.page page).st = 0) (hrecs : s.sg.recs = [])
    (hf : freeFrame g (segFrames g.e.toNat) = some f) :
    Runs (.migPrefetch ctx seg page) s fun u => u = prefetched s g ctx seg page f := by
  refine ⟨_, rfl, ?_⟩
  rw [regCmd, fnCmd_active hr ha, inCtrl, if_pos hc]
  exact prefetchCore_free hs hc hidle (migTarget_some hs hp hb hg hrem) hg hst hrecs hf

theorem migEvict_clean (hidle : blkBusy s .mig = false) (hst : (g.page page).st = 2) (hd : (g.page page).dirty = false) :
    Runs (.migEvict ctx seg page) s fun u => u = cmdDone (pageFreed s (segKey ctx seg) page (g.page page).frame) .mig none 0 := by
  refine ⟨_, rfl, ?_⟩
  rw [regCmd, fnCmd_active hr ha, inCtrl, if_pos hc, evictCore, hidle, migTarget_some hs hp hb hg hrem]
  simp only [Bool.false_eq_true, if_false, hst, hd, show ¬ (2 = 0) by decide, ne_eq, not_true_eq_false]
  rfl

theorem migEvict_dirty (hidle : blkBusy s .mig = false) (hst : (g.page page).st = 2) (hd : (g.page page).dirty = true) :
    Runs (.migEvict ctx seg page) s fun u =>
      u = cmdPend (setPage s (segKey ctx seg) page { g.page page with st := 3 }) (migAsk ctx seg page 2) := by
  refine ⟨_, rfl, ?_⟩
  rw [regCmd, fnCmd_active hr ha, inCtrl, if_pos hc, evictCore, hidle, migTarget_some hs hp hb hg hrem]
  simp only [Bool.false_eq_true, if_false, hst, hd, if_true, show ¬ (2 = 0) by decide, ne_eq, not_true_eq_false]
  rfl

end Register

/-- A clean page evicted at once. -/
theorem evictedClean_spec (hg : smFind s.sg.segs (segKey ctx seg) = some g) :
    let u := cmdDone (pageFreed s (segKey ctx seg) page f) .mig none 0
    pageOf u (segKey ctx seg) page = some {} ∧ frameOf u (segKey ctx seg) f = some none ∧
      Answered s u F.MIG_EVENT_SEQ F.MIG_EVENT_RESULT 0 ∧ MemSame s u := by
  have hfree := pageFreed_segsOnly s (segKey ctx seg) page f
  obtain ⟨hpage, hframe⟩ := pageFreed_at (f := f) (page := page) hg
  refine ⟨hpage, hframe, (cmdDone_answered _ .mig (by decide)).of_seq ?_, ((hfree.blockOnly .mig).trans (cmdDone_only _ _ _)).mem⟩
  rw [hfree]
  rfl

/-- A dirty page on its way out. -/
theorem evictedDirty_spec (hg : smFind s.sg.segs (segKey ctx seg) = some g) (x : Page) :
    let u := cmdPend (setPage s (segKey ctx seg) page x) (migAsk ctx seg page 2)
    pageOf u (segKey ctx seg) page = some x ∧ u.get F.MIG_EVENT_PENDING = 1 ∧ u.sg.pend = s.sg.pend ++ [migAsk ctx seg page 2] ∧
      u.get F.MIG_EVENT_SEQ = s.get F.MIG_EVENT_SEQ ∧ MemSame s u := by
  have hset := setPage_segsOnly s (segKey ctx seg) page x
  refine ⟨pageOf_setPage hg x, cmdPend_pending _ _, ?_, (cmdPend_seq _ _).trans ?_, ((hset.blockOnly .mig).trans (cmdPend_only _ (migAsk ctx seg page 2))).mem⟩
  · show (setPage s (segKey ctx seg) page x).sg.pend ++ _ = _
    rw [hset.pend]
  · rw [hset]
    rfl

end Commands

/-! ### The end of an evict and of a migration (R305, R306, R307) -/

section Ends

variable {s w : State} {ctx seg page f : Nat} {g : Segm}

theorem pageSettled_noRec (h : s.sg.recs = []) (key page : Nat) : pageSettled s key page = s := by
  simp [pageSettled, State.rec?, h]

theorem retryFrames_noRec (h : s.sg.recs = []) (key : Nat) : retryFrames s key = s := by
  simp [retryFrames, h]

theorem linesTaken_live (h : LinesTaken s w) {h' : RF} (hk : h'.key ∉ sumMisses.map RF.key) : w.live h' = s.live h' := h.cnt _ hk

theorem linesTaken_bytes (h : LinesTaken s w) (a n : Nat) : w.bytes a n = s.bytes a n := List.map_congr_left fun i _ => h.byte (a + i)

/-- The function as a variable: the kernel, comparing two applications of `writeBack`, would list the tiles of a page. -/
theorem writeBack_checked {back : State → Nat → Segm → Nat → Nat → State × Bool} (hF : @writeBack = back) {v : State}
    (hv : s.checkTiles 116 (tilesOf (frameBase g f) pageSize) = (v, 0)) (hbytes : v.bytes (frameBase g f) pageSize = s.bytes (frameBase g f) pageSize)
    (key page : Nat) : back s key g f page =
      ((v.emit (.hostWrite (key / 16) (segHost g.e.toNat + page * pageSize) (s.bytes (frameBase g f) pageSize))).count F.MIG_WRITEBACK, true) := by
  delta writeBack at hF
  subst hF
  generalize pageSize = n at hv hbytes ⊢
  simp only [hv, hbytes]

/-- A page whose frame's tiles are whole goes to its host backing. -/
theorem writeBack_whole (hw : ∀ k ∈ tilesOf (frameBase g f) pageSize, s.tileFenced k = false ∧ s.tileBad k = 0) (key page : Nat) :
    ∃ v, LinesTaken s v ∧ writeBack s key g f page =
      ((v.emit (.hostWrite (key / 16) (segHost g.e.toNat + page * pageSize) (s.bytes (frameBase g f) pageSize))).count F.MIG_WRITEBACK, true) := by
  obtain ⟨v, hv, hlines⟩ := checkTiles_whole (req := 116) _ hw
  exact ⟨v, hlines, writeBack_checked rfl hv (linesTaken_bytes hlines _ _) key page⟩

/-- The block's command ends on a page whose frame comes free. -/
theorem freed_spec {p : Pending} (hp : w.sg.pend = [p]) (hb : p.blk = .mig) (he : p.entry = none)
    (hg : smFind w.sg.segs (segKey ctx seg) = some g) {r : Nat} (hr : r < 16) :
    let u := cmdEnd (pageFreed w (segKey ctx seg) page f) p r
    pageOf u (segKey ctx seg) page = some {} ∧ frameOf u (segKey ctx seg) f = some none ∧
      Answered w u F.MIG_EVENT_SEQ F.MIG_EVENT_RESULT r ∧ u.get F.MIG_EVENT_PENDING = 0 ∧ u.sg.pend = [] ∧ u.sg.recs = w.sg.recs ∧
      BlockOnly w u .mig := by
  have hfree := pageFreed_segsOnly w (segKey ctx seg) page f
  have hpend := hfree.pend.trans hp
  obtain ⟨hpage, hframe⟩ := pageFreed_at (f := f) (page := page) hg
  have hsg := cmdEnd_sg hpend he r
  have hans := cmdEnd_answered hpend he hr
  have hpending := cmdEnd_pending hpend he r
  have honly := cmdEnd_only hpend he r
  rw [hb] at hans hpending honly
  refine ⟨?_, ?_, hans.of_seq ?_, hpending, ?_, ?_, (hfree.blockOnly .mig).trans honly⟩
  · rw [pageOf, hsg]
    exact hpage
  · rw [frameOf, hsg]
    exact hframe
  · rw [hfree]
    rfl
  · rw [hsg]
  · rw [hsg]
    exact hfree.recs

/-- The state after the write-back of a page, before its frame comes free. -/
def writtenBack (s v : State) (g : Segm) (ctx seg page f : Nat) : State :=
  (v.emit (.hostWrite (segKey ctx seg / 16) (segHost g.e.toNat + page * pageSize) (s.bytes (frameBase g f) pageSize))).count F.MIG_WRITEBACK

/-- An evict's end after its write-back, the two functions as variables (see `writeBack_checked`). -/
theorem endEvict_written {back : State → Nat → Segm → Nat → Nat → State × Bool} {done : State → Pending → Bool → State} (hb : @writeBack = back)
    (hd : @endEvict = done) {p : Pending} {t : State} {key page : Nat} (hkey : segKey p.ctx p.idx = key) (hpage : p.page = page)
    (hg : smFind s.sg.segs key = some g) (hback : back s key g (g.page page).frame page = (t, true)) : done s p true =
      retryFrames (pageSettled (cmdEnd (pageFreed t key page (g.page page).frame) p 0) key page) key := by
  delta endEvict at hd
  rw [hb] at hd
  subst hd hkey hpage
  simp only [hg, if_true, hback]
  rfl

theorem evictComplete_whole (ha : s.pst = 3) (hg : smFind s.sg.segs (segKey ctx seg) = some g) (hpend : s.sg.pend = [migAsk ctx seg page 2])
    (hrecs : s.sg.recs = []) (hw : ∀ k ∈ tilesOf (frameBase g (g.page page).frame) pageSize, s.tileFenced k = false ∧ s.tileBad k = 0) :
    RunsSettled (.evictComplete ctx seg page) s fun u => ∃ v, LinesTaken s v ∧
      u = cmdEnd (pageFreed (writtenBack s v g ctx seg page (g.page page).frame) (segKey ctx seg) page (g.page page).frame) (migAsk ctx seg page 2) 0 := by
  obtain ⟨v, hlines, hback⟩ := writeBack_whole hw (segKey ctx seg) page
  have hev : evictOf s ctx seg page = some (migAsk ctx seg page 2) := by simp [evictOf, findPend, hpend, migAsk]
  have hsg : (writtenBack s v g ctx seg page (g.page page).frame).sg = s.sg := by
    show v.sg = s.sg
    rw [hlines.rest]
  obtain ⟨-, -, -, -, -, hnorec, -⟩ := freed_spec (page := page) (f := (g.page page).frame) (r := 0) (hsg ▸ hpend) rfl rfl (hsg ▸ hg) (by decide)
  rw [hsg, hrecs] at hnorec
  have hend := endEvict_written rfl rfl (p := migAsk ctx seg page 2) (t := writtenBack s v g ctx seg page (g.page page).frame) rfl rfl hg hback
  replace hend := hend.trans ((congrArg (retryFrames · _) (pageSettled_noRec hnorec _ _)).trans (retryFrames_noRec hnorec _))
  refine ⟨_, ?_, v, hlines, rfl⟩
  show Host.Outcome.next (inActive s _) = _
  rw [inActive, if_pos ha, hev]
  exact congrArg (fun u => Host.Outcome.next (settle u)) hend

theorem evictedComplete_spec {v : State} (hlines : LinesTaken s v) (hg : smFind s.sg.segs (segKey ctx seg) = some g)
    (hpend : s.sg.pend = [migAsk ctx seg page 2]) :
    let u := cmdEnd (pageFreed (writtenBack s v g ctx seg page f) (segKey ctx seg) page f) (migAsk ctx seg page 2) 0
    pageOf u (segKey ctx seg) page = some {} ∧ frameOf u (segKey ctx seg) f = some none ∧ Answered s u F.MIG_EVENT_SEQ F.MIG_EVENT_RESULT 0 ∧
      u.get F.MIG_EVENT_PENDING = 0 ∧ u.sg.pend = [] ∧ Counted s u F.MIG_WRITEBACK ∧ MemSame s u ∧
      u.out = s.out ++ [.hostWrite (segKey ctx seg / 16) (segHost g.e.toNat + page * pageSize) (s.bytes (frameBase g f) pageSize)] := by
  intro u
  have hsg : (writtenBack s v g ctx seg page f).sg = s.sg := by
    show v.sg = s.sg
    rw [hlines.rest]
  have hregs : (writtenBack s v g ctx seg page f).regs = s.regs := by
    show v.regs = s.regs
    rw [hlines.rest]
  have hvar : (writtenBack s v g ctx seg page f).variant = s.variant := by
    show v.variant = s.variant
    rw [hlines.rest]
  have hout : v.out = s.out := by rw [hlines.rest]
  have hlive : v.live F.MIG_WRITEBACK = s.live F.MIG_WRITEBACK := linesTaken_live hlines (by decide)
  obtain ⟨hpage, hframe, hans, hpending, hp, -, honly⟩ := freed_spec (page := page) (f := f) (r := 0) (hsg ▸ hpend) rfl rfl (hsg ▸ hg) (by decide)
  refine ⟨hpage, hframe, hans.of_seq ?_, hpending, hp, ?_, ?_, ?_⟩
  · simp only [State.get, State.reg, hregs, hvar]
  · rw [Counted, ← hlive]
    exact (honly.cnt _ (by simp)).trans (State.live_count_self _ _ _)
  · exact fun b => (honly.mem b).trans (hlines.byte b)
  · exact (congrArg State.out honly.rest).trans (congrArg (· ++ _) hout)

/-! A page's own prefetch waits for it alone. -/

section Prefetch

variable {started : Nat} (hpend : s.sg.pend = [migAsk ctx seg page 1])
include hpend

theorem prefetchOf_own (a f : Option Nat) : prefetchOf s (prefetchRec ctx seg page a f) = some (migAsk ctx seg page 1) := by
  simp [prefetchOf, findPend, hpend, migAsk, prefetchRec]

theorem serveRec_own (a f : Option Nat) (hrecs : s.sg.recs = [prefetchRec ctx seg page a f]) :
    serveRec s (prefetchRec ctx seg page a f) = (cmdEnd s (migAsk ctx seg page 1) 0).setRecs [] := by
  have hsame := cmdEnd_sg hpend rfl 0
  have hserve : serveRec s (prefetchRec ctx seg page a f) = freeRec (cmdEnd s (migAsk ctx seg page 1) 0) (prefetchRec ctx seg page a f) := by
    simp only [serveRec, prefetchRec, isHeld, List.filter_cons, List.filter_nil, Bool.false_eq_true, if_false, Bool.not_false, if_true, List.foldl_nil,
      List.foldl_cons, resumeWaiter]
    rw [← prefetchRec, prefetchOf_own hpend]
  rw [hserve, freeRec, hsame, hrecs]
  simp [prefetchRec]

theorem failWaiters_own (a f : Option Nat) :
    (prefetchRec ctx seg page a f).waiters.foldl (fun s w => failWaiter s (prefetchRec ctx seg page a f) w) (failEvent s (prefetchRec ctx seg page a f)) =
      cmdEnd s (migAsk ctx seg page 1) 8 := by
  rw [failEvent, if_pos (show (prefetchRec ctx seg page a f).waiters.head? = some .prefetch from rfl)]
  show failWaiter s (prefetchRec ctx seg page a f) .prefetch = _
  simp only [failWaiter, prefetchOf_own hpend]

end Prefetch

/-! A migration that completes: `w` is the state with the page's bytes in its frame. -/

/-- The page is resident, before its record is served. -/
def pageLanded (w : State) (key page f : Nat) : State := (setPage w key page { st := 2, frame := f, referenced := true }).count F.MIG_IN

/-- The state that the end of a migration leaves: its command answered, its record gone. -/
def migEnded (w : State) (ctx seg page r : Nat) : State := (cmdEnd w (migAsk ctx seg page 1) r).setRecs []

theorem fillFrame_sg (s : State) (a : Nat) (data : List Host.Cell) : (fillFrame s a data).sg = s.sg := by
  rw [(linesTaken_fillFrame s a data).rest]
  rfl

theorem pageLanded_segsOnly (w : State) (key page f : Nat) : SegsOnly (w.count F.MIG_IN) (pageLanded w key page f) := by
  unfold pageLanded setPage
  split <;> rfl

theorem migEnded_spec {r : Nat} (hpend : w.sg.pend = [migAsk ctx seg page 1]) (hr : r < 16) :
    let u := migEnded w ctx seg page r
    u.sg.segs = w.sg.segs ∧ Answered w u F.MIG_EVENT_SEQ F.MIG_EVENT_RESULT r ∧ u.sg.recs = [] ∧ u.sg.pend = [] ∧ u.get F.MIG_EVENT_PENDING = 0 ∧
      u.get F.MIG_STATUS_RECORDS = 0 ∧ u.cnt = w.cnt ∧ MemSame w u := by
  intro u
  have hsg := cmdEnd_sg hpend rfl r
  obtain ⟨hres, hseq⟩ := cmdEnd_answered hpend rfl hr
  have hkept {h : RF} (ho : h.off ≠ F.MIG_STATUS_RECORDS.off) : u.get h = (cmdEnd w (migAsk ctx seg page 1) r).get h := State.get_set_ne _ _ ho
  have hsegs : (cmdEnd w (migAsk ctx seg page 1) r).sg.segs = w.sg.segs := by rw [hsg]
  have hnone : (cmdEnd w (migAsk ctx seg page 1) r).sg.pend = [] := by rw [hsg]
  have hcnt : (cmdEnd w (migAsk ctx seg page 1) r).cnt = w.cnt := by rw [(cmdEnd_only hpend rfl r).rest]
  refine ⟨hsegs, ⟨(hkept (by decide)).trans hres, (hkept (by decide)).trans hseq⟩, rfl, hnone,
    (hkept (by decide)).trans (cmdEnd_pending hpend rfl r), State.get_set_self _ _ (by decide),
    hcnt, (cmdEnd_only hpend rfl r).mem⟩

theorem completeMigration_own {started : Nat} {data : List Host.Cell} (hg : smFind s.sg.segs (segKey ctx seg) = some g)
    (hx : g.page page = { st := 1, frame := f }) (hrecs : w.sg.recs = [prefetchRec ctx seg page (some started) (some f)])
    (hpend : w.sg.pend = [migAsk ctx seg page 1])
    (hfill : fillFrame (s.emit (.hostRead ctx (segHost g.e.toNat + page * pageSize) pageSize)) (frameBase g f) data = w) :
    completeMigration s (prefetchRec ctx seg page (some started) (some f)) data = migEnded (pageLanded w (segKey ctx seg) page f) ctx seg page 0 := by
  have hland := pageLanded_segsOnly w (segKey ctx seg) page f
  have hserve := serveRec_own (hland.pend.trans hpend) _ _ (hland.recs.trans hrecs)
  rw [← migEnded] at hserve
  have hlast := retryFrames_noRec (s := migEnded (pageLanded w (segKey ctx seg) page f) ctx seg page 0) rfl (segKey ctx seg)
  refine Eq.trans ?_ ((congrArg (retryFrames · _) hserve).trans hlast)
  simp only [completeMigration, prefetchRec, hg, hx, ne_eq, not_true_eq_false, decide_false, Bool.or_self, Bool.false_eq_true, if_false, Bool.not_true, hfill]
  rfl

/-- A migration without a victim that fails. -/
theorem failMigration_own {started : Nat} (done : Bool) (hg : smFind s.sg.segs (segKey ctx seg) = some g)
    (hrecs : s.sg.recs = [prefetchRec ctx seg page (some started) (some f)]) (hpend : s.sg.pend = [migAsk ctx seg page 1]) :
    failMigration s (prefetchRec ctx seg page (some started) (some f)) done =
      migEnded (pageFreed (s.count F.MIG_FAILED) (segKey ctx seg) page f) ctx seg page 8 := by
  have hfree := pageFreed_segsOnly (s.count F.MIG_FAILED) (segKey ctx seg) page f
  have hpend' := hfree.pend.trans hpend
  have hwait := failWaiters_own hpend' (some started) (some f)
  have hend : freeRec (cmdEnd (pageFreed (s.count F.MIG_FAILED) (segKey ctx seg) page f) (migAsk ctx seg page 1) 8)
      (prefetchRec ctx seg page (some started) (some f)) = migEnded (pageFreed (s.count F.MIG_FAILED) (segKey ctx seg) page f) ctx seg page 8 := by
    rw [freeRec, cmdEnd_sg hpend' rfl, hfree.recs.trans hrecs, migEnded]
    simp [prefetchRec]
  have hlast := retryFrames_noRec (s := migEnded (pageFreed (s.count F.MIG_FAILED) (segKey ctx seg) page f) ctx seg page 8) rfl (segKey ctx seg)
  refine Eq.trans ?_ ((congrArg (retryFrames · _) ((congrArg (freeRec · _) hwait).trans hend)).trans hlast)
  have hg' : smFind (s.count F.MIG_FAILED).sg.segs (segKey ctx seg) = some g := hg
  unfold failMigration
  simp only [prefetchRec, hg']
  rfl

section Steps

variable {started : Nat} (ha : s.pst = 3) (hg : smFind s.sg.segs (segKey ctx seg) = some g) (hx : g.page page = { st := 1, frame := f })
  (hrecs : s.sg.recs = [prefetchRec ctx seg page (some started) (some f)]) (hpend : s.sg.pend = [migAsk ctx seg page 1])
include ha hg hrecs hpend

omit ha hg hpend in
theorem startedRec_own : startedRec s ctx seg page = some (prefetchRec ctx seg page (some started) (some f)) := by
  have hrec : s.rec? (segKey ctx seg) page = _ := rec?_one hrecs rfl rfl
  rw [startedRec, hrec]
  rfl

include hx in
theorem migrationComplete_own {data : List Host.Cell}
    (hfill : fillFrame (s.emit (.hostRead ctx (segHost g.e.toNat + page * pageSize) pageSize)) (frameBase g f) data = w) (hw : w.sg = s.sg) :
    RunsSettled (.migrationComplete ctx seg page data) s fun u => u = migEnded (pageLanded w (segKey ctx seg) page f) ctx seg page 0 := by
  refine ⟨_, ?_, rfl⟩
  rw [← completeMigration_own hg hx (hw ▸ hrecs) (hw ▸ hpend) hfill]
  show Host.Outcome.next (inActive s _) = _
  rw [inActive, if_pos ha, startedRec_own hrecs]
  rfl

theorem migrationFail_own (done : Bool) :
    RunsSettled (.migrationFail ctx seg page done) s fun u =>
      u = migEnded (pageFreed (s.count F.MIG_FAILED) (segKey ctx seg) page f) ctx seg page 8 := by
  refine ⟨_, ?_, rfl⟩
  rw [← failMigration_own done hg hrecs hpend]
  show Host.Outcome.next (inActive s _) = _
  rw [inActive, if_pos ha, startedRec_own hrecs]

theorem migrationTimeout_own (done : Bool) (hlate : started + max 1 (s.get F.MIG_CTL_TIMEOUT_TICKS) ≤ s.tk.count) :
    RunsSettled (.migrationTimeout ctx seg page done) s fun u =>
      u = migEnded (pageFreed (s.count F.MIG_FAILED) (segKey ctx seg) page f) ctx seg page 8 := by
  refine ⟨_, ?_, rfl⟩
  rw [← failMigration_own done hg hrecs hpend]
  show Host.Outcome.next (inActive s _) = _
  rw [inActive, if_pos ha, startedRec_own hrecs]
  exact congrArg Host.Outcome.next (if_pos hlate)

end Steps

/-- What a failed migration leaves. -/
theorem failed_spec (hg : smFind s.sg.segs (segKey ctx seg) = some g) (hpend : s.sg.pend = [migAsk ctx seg page 1]) :
    let u := migEnded (pageFreed (s.count F.MIG_FAILED) (segKey ctx seg) page f) ctx seg page 8
    pageOf u (segKey ctx seg) page = some {} ∧ frameOf u (segKey ctx seg) f = some none ∧ Answered s u F.MIG_EVENT_SEQ F.MIG_EVENT_RESULT 8 ∧
      u.sg.recs = [] ∧ u.sg.pend = [] ∧ Counted s u F.MIG_FAILED ∧ MemSame s u := by
  intro u
  have hfree := pageFreed_segsOnly (s.count F.MIG_FAILED) (segKey ctx seg) page f
  obtain ⟨hpage, hframe⟩ := pageFreed_at (s := s.count F.MIG_FAILED) (f := f) (page := page) hg
  obtain ⟨hsegs, hans, hrec, hp, -, -, hcnt, hend⟩ := migEnded_spec (page := page) (r := 8) (hfree.pend.trans hpend) (by decide)
  have hmem : MemSame s (pageFreed (s.count F.MIG_FAILED) (segKey ctx seg) page f) := (hfree.blockOnly .mig).mem
  refine ⟨?_, ?_, hans.of_seq ?_, hrec, hp, ?_, hmem.trans hend⟩
  · rw [pageOf, hsegs]
    exact hpage
  · rw [frameOf, hsegs]
    exact hframe
  · rw [hfree]
    rfl
  · exact (congrArg (smGet · _ 0) (hcnt.trans hfree.cnt)).trans (State.live_count_self _ _ _)

/-- What a migration leaves whose page stands in its frame in `w`. -/
theorem landed_spec (hg : smFind w.sg.segs (segKey ctx seg) = some g) (hpend : w.sg.pend = [migAsk ctx seg page 1]) :
    let u := migEnded (pageLanded w (segKey ctx seg) page f) ctx seg page 0
    pageOf u (segKey ctx seg) page = some { st := 2, frame := f, referenced := true } ∧ Answered w u F.MIG_EVENT_SEQ F.MIG_EVENT_RESULT 0 ∧
      u.sg.recs = [] ∧ u.sg.pend = [] ∧ u.get F.MIG_EVENT_PENDING = 0 ∧ u.get F.MIG_STATUS_RECORDS = 0 ∧ Counted w u F.MIG_IN ∧ MemSame w u := by
  intro u
  have hland := pageLanded_segsOnly w (segKey ctx seg) page f
  obtain ⟨hsegs, hans, hrec, hp, hpending, hnone, hcnt, hend⟩ := migEnded_spec (page := page) (r := 0) (hland.pend.trans hpend) (by decide)
  have hmem : MemSame w (pageLanded w (segKey ctx seg) page f) := (hland.blockOnly .mig).mem
  refine ⟨?_, hans.of_seq ?_, hrec, hp, hpending, hnone, ?_, hmem.trans hend⟩
  · rw [pageOf, hsegs]
    exact pageOf_setPage hg _
  · rw [hland]
    rfl
  · exact (congrArg (smGet · _ 0) (hcnt.trans hland.cnt)).trans (State.live_count_self _ _ _)

/-- A migration's page stands in its frame, byte by byte, and its command is answered. -/
theorem migrationComplete_fills {started : Nat} {data : List Host.Cell} (ha : s.pst = 3) (hg : smFind s.sg.segs (segKey ctx seg) = some g)
    (hx : g.page page = { st := 1, frame := f }) (hrecs : s.sg.recs = [prefetchRec ctx seg page (some started) (some f)])
    (hpend : s.sg.pend = [migAsk ctx seg page 1]) (hopen : FrameOpen s (frameBase g f)) (hin : ∀ c ∈ data, c.1 < pageSize)
    (hone : data.Pairwise fun x y => x.1 ≠ y.1) :
    RunsSettled (.migrationComplete ctx seg page data) s fun u => pageOf u (segKey ctx seg) page = some { st := 2, frame := f, referenced := true } ∧
      Answered s u F.MIG_EVENT_SEQ F.MIG_EVENT_RESULT 0 ∧ u.sg.recs = [] ∧ u.sg.pend = [] ∧ u.get F.MIG_EVENT_PENDING = 0 ∧
      u.get F.MIG_STATUS_RECORDS = 0 ∧ Counted s u F.MIG_IN ∧ MemBut s u (frameBase g f) pageSize ∧
      (∀ c ∈ data, u.byte (frameBase g f + c.1) = c.2) ∧ ∀ i, i < pageSize → (∀ c ∈ data, c.1 ≠ i) → u.byte (frameBase g f + i) = 0#8 := by
  obtain ⟨t, ht⟩ : ∃ t, s.emit (.hostRead ctx (segHost g.e.toNat + page * pageSize) pageSize) = t := ⟨_, rfl⟩
  have hopened : FrameOpen t (frameBase g f) := ht ▸ ⟨hopen.fits, hopen.open_⟩
  have hts : MemSame s t ∧ t.sg = s.sg ∧ t.get F.MIG_EVENT_SEQ = s.get F.MIG_EVENT_SEQ ∧ t.live F.MIG_IN = s.live F.MIG_IN := by
    subst ht
    exact ⟨fun _ => rfl, rfl, rfl, rfl⟩
  obtain ⟨htmem, htsg, htseq, htlive⟩ := hts
  obtain ⟨hbut, hdata, hzero⟩ := hopened.filled hin hone
  have hlines := linesTaken_fillFrame t (frameBase g f) data
  have hsg := (fillFrame_sg t (frameBase g f) data).trans htsg
  obtain ⟨w, hfill⟩ : ∃ w, fillFrame t (frameBase g f) data = w := ⟨_, rfl⟩
  rw [hfill] at hbut hdata hzero hlines hsg
  obtain ⟨u, hu, rfl⟩ := migrationComplete_own ha hg hx hrecs hpend (ht ▸ hfill) hsg
  obtain ⟨hpage, hans, hrec, hnopend, hpending, hnone, hcount, hmem⟩ := landed_spec (page := page) (f := f) (hsg ▸ hg) (hsg ▸ hpend)
  have hseq : w.get F.MIG_EVENT_SEQ = s.get F.MIG_EVENT_SEQ := by
    rw [hlines.rest, ← htseq]
    rfl
  have hlive : w.live F.MIG_IN = s.live F.MIG_IN := (linesTaken_live hlines (by decide)).trans htlive
  refine ⟨_, hu, hpage, hans.of_seq hseq, hrec, hnopend, hpending, hnone, ?_, fun b hout => (hmem b).trans ((hbut b hout).trans (htmem b)),
    fun c hcell => (hmem _).trans (hdata c hcell), fun i hi hno => (hmem _).trans (hzero i hi hno)⟩
  rw [Counted, hcount, hlive]

end Ends

/-- Settles O41: a prefetch and an evict as they start, then the two ends of each, the page's bytes by `FrameOpen.filled`. -/
theorem migrationCommands : Obligations.MigrationCommands := by
  intro s ctx seg page g ha hr hc hs hp hb key x hg hrem pg fr ev ask
  refine ⟨fun f hidle hst hrecs hf => ?_, fun hidle hst hd => ?_, fun hidle hst hd => ?_, fun hpend hrecs hw => ?_,
    fun f started data hx hrecs hpend hfit hopen hin hone => ⟨?_, fun c done hcmd => ?_⟩⟩
  · obtain ⟨u, hu, rfl⟩ := migPrefetch_free ha hr hc hs hp hb hg hrem hidle hst hrecs hf
    obtain ⟨hpage, hframe, hpending, hseq, hcount, hmem⟩ := prefetched_spec s g ctx seg page f
    exact ⟨_, hu, hpage, hframe, rfl, hpending, rfl, hseq, hcount, hmem⟩
  · obtain ⟨u, hu, rfl⟩ := migEvict_clean ha hr hc hs hp hb hg hrem hidle hst hd
    exact ⟨_, hu, evictedClean_spec hg⟩
  · obtain ⟨u, hu, rfl⟩ := migEvict_dirty ha hr hc hs hp hb hg hrem hidle hst hd
    exact ⟨_, hu, evictedDirty_spec hg _⟩
  · obtain ⟨u, hu, v, hlines, rfl⟩ := evictComplete_whole ha hg hpend hrecs hw
    exact ⟨_, hu, evictedComplete_spec hlines hg hpend⟩
  · exact migrationComplete_fills ha hg hx hrecs hpend ⟨hfit, hopen⟩ hin hone
  · have hwhole := failed_spec (f := f) hg hpend
    obtain rfl | ⟨rfl, hlate⟩ := hcmd
    · obtain ⟨u, hu, rfl⟩ := migrationFail_own ha hg hrecs hpend done
      exact ⟨_, hu, hwhole⟩
    · obtain ⟨u, hu, rfl⟩ := migrationTimeout_own ha hg hrecs hpend done hlate
      exact ⟨_, hu, hwhole⟩

end Sys2Proof.Machine

/-! ## A submission queue that stops (R445, R449) -/

namespace Sys2Proof.Machine

/-- The vector of context 0 whose pending bit would stand in bit 0 of SQ_STATUS of queue 0 of context 1. -/
def strayVector : Nat := 32 * (((F.SQ_STATUS 1 0).off - (F.MSIX_PBA 0 0).off) / 4)

/-- In Active, queue 0 of context 1 has re-read an entry sixteen times and has asked once more. Its completion queue is armed on a vector that no adapter
has, and that is masked. -/
def strayStop : State :=
  let s : State := { State.reset with
    pw := { Power.reset with held := false, perst := 15 }
    ho := { Hosts.reset with
      sqs := [(16, { asked := 1, tries := 16 })]
      owned := [(ownKey 2 0, 1)]
      cqs := [(0, { ctx := 0, base := 0, log2 := 6, vector := strayVector, modCount := 1, modNs := 0, armed := true })] } }
  (((((s.set F.PWR_STATE_STATE 3).set (F.HOST_CTX_MAP_STATE 1) 1).set (F.HOST_PORT_STATUS_LINK 0) 1).set (F.SQ_CFG_ENABLE 1 0) 1).set
    (F.SQ_STATUS_STATE 1 0) 1).setReg (F.MSIX_TABLE 0 (4 * strayVector + 3)).off 1

/-- What the seventeenth response that shows no entry leaves. -/
def strayStopped : State := sqJudge strayStop 1 0 []

theorem exec_sqFetchResponse_stray : exec (.sqFetchResponse 1 0 []) strayStop = .next (settle strayStopped) := by
  refine congrArg Host.Outcome.next ((if_pos (by decide +kernel)).trans ?_)
  have hfetch : sqFetch strayStop (sqKey 1 0) = strayStop := if_neg (by decide +kernel)
  dsimp only
  rw [if_neg (by decide), hfetch, if_neg (by decide +kernel)]
  rfl

/-- DOORBELL_AHEAD sets the vector's pending bit, in SQ_STATUS. -/
theorem strayStopped_state : strayStopped.get (F.SQ_STATUS_STATE 1 0) = 3 := by decide +kernel

theorem strayStopped_quiet : Quiet (settle strayStopped) := by
  unfold Quiet
  decide +kernel

/-- A quiet turn of the collector leaves every field. -/
theorem settle_get {u : State} (h : Quiet (settle u)) (f : RF) : (settle u).get f = u.get f := by
  obtain ⟨hregs, hvariant⟩ := settle_quiet u h
  rw [State.get, State.get, State.reg, State.reg, hregs, hvariant]

/-- Refutes O51: the statement puts no bound on a completion queue's vector. With one whose pending bit would stand in the stopped queue's SQ_STATUS, the
DOORBELL_AHEAD that the stop completes with sets that bit, and STATE reads 3. -/
theorem not_submissionQueues : ¬ Obligations.SubmissionQueues := by
  unfold Obligations.SubmissionQueues
  intro hall
  obtain ⟨hfetching, -⟩ := hall strayStop 1 0 (by decide +kernel) (by decide) (by decide) (by decide +kernel) (by decide +kernel)
  obtain ⟨-, hresponses⟩ := hfetching (by decide +kernel) (by decide +kernel)
  obtain ⟨-, -, hstops⟩ := hresponses [] (by decide +kernel) (by decide +kernel)
  obtain ⟨u, hexec, hstate, -⟩ := hstops (by decide +kernel) (by decide +kernel)
  have hsettled : settle strayStopped = settle u := by
    have h := exec_sqFetchResponse_stray.symm.trans hexec
    injection h
  have hsame : u.get (F.SQ_STATUS_STATE 1 0) = strayStopped.get (F.SQ_STATUS_STATE 1 0) := by
    rw [← settle_get strayStopped_quiet, hsettled, settle_get (hsettled ▸ strayStopped_quiet)]
  rw [hstate, strayStopped_state] at hsame
  exact absurd hsame (by decide)

end Sys2Proof.Machine

/-! ## Key tables and key slots (R470–R472, R492, R495) -/

namespace Sys2Proof.Machine

section Keys

variable {s t : State} {ctx idx k r : Nat}

theorem kcv_lt (key : BitVec 256) : kcv key < 2 ^ 64 := by
  have hlen : ((toBE 16 (aes key 0)).take 8).length ≤ 8 := List.length_take_le _ _
  exact (ofLE_lt _).trans_le (Nat.pow_le_pow_right (by decide) hlen)

theorem State.get64_set64 (s : State) {lo hi : RF} {v : Nat} (hne : lo.off ≠ hi.off) (hv : v < 2 ^ 64) : (s.set64 lo hi v).get64 lo hi = v := by
  have hhigh : v / 2 ^ 32 % 2 ^ 32 = v / 2 ^ 32 := Nat.mod_eq_of_lt (by omega)
  rw [State.get64, State.set64, State.reg_setReg_self, State.reg_setReg_ne _ _ hne, State.reg_setReg_self, Nat.mod_mod, Nat.mod_mod, hhigh,
    Nat.mod_add_div]

/-- What a command of the key table shows: its event, memory and every key but number `k` as they were. -/
def KeyEvent (s u : State) (k r : Nat) : Prop :=
  Answered s u F.CE_KEY_EVENT_SEQ F.CE_KEY_EVENT_RESULT r ∧ MemSame s u ∧ ∀ j, j ≠ k → smFind u.ci.keys j = smFind s.ci.keys j

theorem ceKeyDone_event (hr : r < 16) (hseq : t.get F.CE_KEY_EVENT_SEQ = s.get F.CE_KEY_EVENT_SEQ) (hmem : MemSame s t)
    (hkeys : ∀ j, j ≠ k → smFind t.ci.keys j = smFind s.ci.keys j) : KeyEvent s (ceKeyDone t r) k r :=
  ⟨(answered_result t (by decide) (by decide) (by decide) (by decide) hr).of_seq hseq, hmem, hkeys⟩

/-- A command that is answered with the table as it is. -/
theorem ceKeyDone_refused (s : State) (k : Nat) (hr : r < 16) : KeyEvent s (ceKeyDone s r) k r ∧ (ceKeyDone s r).ci = s.ci :=
  ⟨ceKeyDone_event hr rfl (fun _ => rfl) fun _ _ => rfl, rfl⟩

/-- The event stands in a register of its own. -/
theorem ceKeyDone_kcv (s : State) (r : Nat) : (ceKeyDone s r).get64 F.CE_KEY_KCV_LO F.CE_KEY_KCV_HI = s.get64 F.CE_KEY_KCV_LO F.CE_KEY_KCV_HI := by
  have hreg {o : Nat} (ho : o ≠ F.CE_KEY_EVENT.off) : (ceKeyDone s r).reg o = s.reg o :=
    (State.reg_bump_ne (f := F.CE_KEY_EVENT_SEQ) _ ho).trans (State.reg_set_ne (f := F.CE_KEY_EVENT_RESULT) _ _ ho)
  rw [State.get64, State.get64, hreg (by decide), hreg (by decide)]

/-- The key check value as a command shows it, with its event. -/
def kcvShown (s : State) (v : Nat) : State := ceKeyDone (s.set64 F.CE_KEY_KCV_LO F.CE_KEY_KCV_HI v) 0

theorem kcvShown_kcv (s : State) {v : Nat} (hv : v < 2 ^ 64) : (kcvShown s v).get64 F.CE_KEY_KCV_LO F.CE_KEY_KCV_HI = v := by
  rw [kcvShown, ceKeyDone_kcv, State.get64_set64 _ (by decide) hv]

theorem set64_kcv_get (s : State) (v : Nat) {f : RF} (hf : f.off = F.CE_KEY_EVENT.off) :
    (s.set64 F.CE_KEY_KCV_LO F.CE_KEY_KCV_HI v).get f = s.get f := by
  rw [State.get, State.get, State.set64, State.reg_setReg_ne _ _ (by rw [hf]; decide), State.reg_setReg_ne _ _ (by rw [hf]; decide)]

/-- VALID and USE, as a read leaves them. -/
theorem kcvShown_flags (s : State) (valid use v : Nat) :
    let u := kcvShown ((s.set F.CE_KEY_EVENT_VALID valid).set F.CE_KEY_EVENT_USE use) v
    u.get F.CE_KEY_EVENT_VALID = valid % 2 ∧ u.get F.CE_KEY_EVENT_USE = use % 2 := by
  have hget {f : RF} (hf : f.off = F.CE_KEY_EVENT.off) (hlo : 12 ≤ f.lo) (hw : f.lo + f.wid ≤ 32) (t : State) :
      (kcvShown t v).get f = t.get f := by
    rw [kcvShown, ceKeyDone, State.result, State.get_bump_apart _ hw (Or.inl ((by decide : F.CE_KEY_EVENT_SEQ.lo + F.CE_KEY_EVENT_SEQ.wid ≤ 12).trans hlo)),
      State.get_set_apart _ _ hw (Or.inl ((by decide : F.CE_KEY_EVENT_RESULT.lo + F.CE_KEY_EVENT_RESULT.wid ≤ 12).trans hlo)), set64_kcv_get _ _ hf]
  refine ⟨(hget (f := F.CE_KEY_EVENT_VALID) rfl (by decide) (by decide) _).trans ?_,
    (hget (f := F.CE_KEY_EVENT_USE) rfl (by decide) (by decide) _).trans ?_⟩
  · rw [State.get_set_apart _ _ (by decide) (by decide), State.get_set_self _ _ (by decide)]
    rfl
  · rw [State.get_set_self _ _ (by decide)]
    rfl

theorem kcvShown_event {v : Nat} (hseq : t.get F.CE_KEY_EVENT_SEQ = s.get F.CE_KEY_EVENT_SEQ) (hmem : MemSame s t)
    (hkeys : ∀ j, j ≠ k → smFind t.ci.keys j = smFind s.ci.keys j) : KeyEvent s (kcvShown t v) k 0 :=
  ceKeyDone_event (by decide) ((set64_kcv_get t v (f := F.CE_KEY_EVENT_SEQ) rfl).trans hseq) hmem hkeys

/-- A read's event: its flags leave SEQ. -/
theorem keyRead_event (s : State) (k valid use v : Nat) :
    KeyEvent s (kcvShown ((s.set F.CE_KEY_EVENT_VALID valid).set F.CE_KEY_EVENT_USE use) v) k 0 :=
  kcvShown_event ((State.get_set_apart _ _ (by decide) (by decide)).trans (State.get_set_apart _ _ (by decide) (by decide))) (fun _ => rfl) fun _ _ => rfl

variable (ha : s.pst = 3) (hr : s.fnHeld 0 = false)
include ha hr

theorem keyCommand_range (h : 256 ≤ ctx ∨ 256 ≤ idx) (c : Instr) (hc : c = .ceKeyClear ctx idx ∨ c = .ceKeyRead ctx idx ∨ ∃ b, c = .ceKeySet ctx idx b) :
    Runs c s fun u => KeyEvent s u (256 * ctx + idx) 1 ∧ u.ci = s.ci := by
  have hrange : (decide (256 ≤ ctx) || decide (256 ≤ idx)) = true := by simpa using h
  obtain rfl | rfl | ⟨b, rfl⟩ := hc <;> refine ⟨_, rfl, ?_⟩ <;> rw [regCmd, fnCmd_active hr ha, if_pos hrange] <;>
    exact ceKeyDone_refused s _ (by decide)

variable (hctx : ctx < 256) (hidx : idx < 256)
include hctx hidx

omit ha hr in
theorem keyRange : ¬ (decide (256 ≤ ctx) || decide (256 ≤ idx)) = true := by
  simp only [Bool.or_eq_true, decide_eq_true_eq]
  omega

theorem keyCommand_used (h : ceKeyUsed s ctx idx = true) (c : Instr) (hc : c = .ceKeyClear ctx idx ∨ ∃ b, c = .ceKeySet ctx idx b) :
    Runs c s fun u => KeyEvent s u (256 * ctx + idx) 5 ∧ u.ci = s.ci := by
  obtain rfl | ⟨b, rfl⟩ := hc <;> refine ⟨_, rfl, ?_⟩ <;> rw [regCmd, fnCmd_active hr ha, if_neg (keyRange hctx hidx), if_pos h] <;>
    exact ceKeyDone_refused s _ (by decide)

theorem ceKeySet_free (h : ceKeyUsed s ctx idx = false) (b : Bool) : Runs (.ceKeySet ctx idx b) s fun u => KeyEvent s u (256 * ctx + idx) 0 ∧
    smFind u.ci.keys (256 * ctx + idx) = some (b, ceKeyImage s) ∧ u.get64 F.CE_KEY_KCV_LO F.CE_KEY_KCV_HI = kcv (ceKeyImage s) := by
  refine ⟨_, rfl, ?_⟩
  rw [regCmd, fnCmd_active hr ha, if_neg (keyRange hctx hidx), h]
  exact ⟨kcvShown_event rfl (fun _ => rfl) fun _ hj => smFind_smSet_ne _ _ hj, smFind_smSet_self _ _ _, kcvShown_kcv _ (kcv_lt _)⟩

theorem ceKeyClear_free (h : ceKeyUsed s ctx idx = false) : Runs (.ceKeyClear ctx idx) s fun u => KeyEvent s u (256 * ctx + idx) 0 ∧
    smFind u.ci.keys (256 * ctx + idx) = none := by
  refine ⟨_, rfl, ?_⟩
  rw [regCmd, fnCmd_active hr ha, if_neg (keyRange hctx hidx), h]
  exact ⟨ceKeyDone_event (by decide) rfl (fun _ => rfl) fun _ hj => smFind_smDel_ne _ hj, smFind_smDel_self _ _⟩

theorem ceKeyRead_valid {b : Bool} {x : BitVec 256} (h : smFind s.ci.keys (256 * ctx + idx) = some (b, x)) :
    Runs (.ceKeyRead ctx idx) s fun u => u = kcvShown ((s.set F.CE_KEY_EVENT_VALID 1).set F.CE_KEY_EVENT_USE (b2n b)) (kcv x) := by
  refine ⟨_, rfl, ?_⟩
  rw [regCmd, fnCmd_active hr ha, if_neg (keyRange hctx hidx), h]
  rfl

theorem ceKeyRead_invalid (h : smFind s.ci.keys (256 * ctx + idx) = none) :
    Runs (.ceKeyRead ctx idx) s fun u => ∃ use v, u = kcvShown (({ s with free := s.free + 1 + 1 }.set F.CE_KEY_EVENT_VALID 0).set F.CE_KEY_EVENT_USE use) v := by
  refine ⟨_, rfl, (Config.freeValue (s.free + 1)).toNat % 2, (Config.freeValue s.free).toNat, ?_⟩
  rw [regCmd, fnCmd_active hr ha, if_neg (keyRange hctx hidx), h]
  rfl

theorem ceKeyRead_any : Runs (.ceKeyRead ctx idx) s fun u => KeyEvent s u (256 * ctx + idx) 0 ∧ u.ci = s.ci ∧
    (u.get F.CE_KEY_EVENT_VALID = 1 ↔ (smFind s.ci.keys (256 * ctx + idx)).isSome = true) ∧
    ∀ b x, smFind s.ci.keys (256 * ctx + idx) = some (b, x) → u.get64 F.CE_KEY_KCV_LO F.CE_KEY_KCV_HI = kcv x ∧
      (u.get F.CE_KEY_EVENT_USE = 1 ↔ b = true) := by
  cases h : smFind s.ci.keys (256 * ctx + idx) with
  | none =>
    obtain ⟨_, hu, use, v, rfl⟩ := ceKeyRead_invalid ha hr hctx hidx h
    obtain ⟨hvalid, -⟩ := kcvShown_flags { s with free := s.free + 1 + 1 } 0 use v
    refine ⟨_, hu, keyRead_event { s with free := s.free + 1 + 1 } _ 0 use v, rfl, ?_, nofun⟩
    rw [hvalid]
    decide
  | some e =>
    obtain ⟨b, x⟩ := e
    obtain ⟨_, hu, rfl⟩ := ceKeyRead_valid ha hr hctx hidx h
    obtain ⟨hvalid, huse⟩ := kcvShown_flags s 1 (b2n b) (kcv x)
    refine ⟨_, hu, keyRead_event s _ 1 (b2n b) (kcv x), rfl, ?_, fun b' x' he => ?_⟩
    · rw [hvalid]
      exact iff_of_true rfl rfl
    · cases he
      refine ⟨kcvShown_kcv _ (kcv_lt _), ?_⟩
      rw [huse]
      cases b <;> decide

end Keys

/-! ### The two banks (R484) -/

section Banks

variable {s u : State}

theorem actBank_congr (hci : u.ci.bankA = s.ci.bankA ∧ u.ci.bankB = s.ci.bankB) (hbank : u.get F.BRUP_PROGRESS_FW_BANK = s.get F.BRUP_PROGRESS_FW_BANK) :
    actBank u = actBank s := by
  rw [actBank, actBank, flag_congr hbank, hci.1, hci.2]

variable (s) (b : Bank)

theorem setAct_flag : (setAct s b).flag F.BRUP_PROGRESS_FW_BANK = s.flag F.BRUP_PROGRESS_FW_BANK := rfl

theorem setAlt_flag : (setAlt s b).flag F.BRUP_PROGRESS_FW_BANK = s.flag F.BRUP_PROGRESS_FW_BANK := rfl

@[simp] theorem actBank_setAct : actBank (setAct s b) = b := by
  rw [actBank, setAct_flag, setAct]
  cases s.flag F.BRUP_PROGRESS_FW_BANK <;> rfl

@[simp] theorem altBank_setAct : altBank (setAct s b) = altBank s := by
  rw [altBank, altBank, setAct_flag, setAct]
  cases s.flag F.BRUP_PROGRESS_FW_BANK <;> rfl

@[simp] theorem actBank_setAlt : actBank (setAlt s b) = actBank s := by
  rw [actBank, actBank, setAlt_flag, setAlt]
  cases s.flag F.BRUP_PROGRESS_FW_BANK <;> rfl

theorem setAct_slots : (setAct s b).ci.slots = s.ci.slots := by
  rw [setAct]
  cases s.flag F.BRUP_PROGRESS_FW_BANK <;> rfl

end Banks

/-! ### Key slots (R492) -/

section Slots

variable {s : State} {kind slot : Nat}

/-- What a command of the key slots shows: its event, memory, every slot but number `k` and the inactive bank as they were. -/
def SlotEvent (s u : State) (k r : Nat) : Prop :=
  Answered s u F.KEY_SLOT_EVENT_SEQ F.KEY_SLOT_EVENT_RESULT r ∧ MemSame s u ∧ (∀ j, j ≠ k → smFind u.ci.slots j = smFind s.ci.slots j) ∧
    altBank u = altBank s

theorem keySlotDone_get (s : State) (r : Nat) {f : RF} (hf : f.off ≠ F.KEY_SLOT_EVENT.off) : (keySlotDone s r).get f = s.get f :=
  congrArg (bits · f.lo f.wid) ((State.reg_bump_ne (f := F.KEY_SLOT_EVENT_SEQ) _ hf).trans (State.reg_set_ne (f := F.KEY_SLOT_EVENT_RESULT) _ _ hf))

theorem keySlotDone_actBank (s : State) (r : Nat) : actBank (keySlotDone s r) = actBank s := actBank_congr ⟨rfl, rfl⟩ (keySlotDone_get s r (by decide))

theorem keySlotDone_altBank (s : State) (r : Nat) : altBank (keySlotDone s r) = altBank s := altBank_congr ⟨rfl, rfl⟩ (keySlotDone_get s r (by decide))

theorem keySlotDone_answered (s : State) {r : Nat} (hr : r < 16) : Answered s (keySlotDone s r) F.KEY_SLOT_EVENT_SEQ F.KEY_SLOT_EVENT_RESULT r :=
  answered_result s (by decide) (by decide) (by decide) (by decide) hr

theorem putSlots_slots (s : State) (kind : Nat) (m : SMap (List Byte)) : (putSlots s kind m).ci.slots = m := by
  unfold putSlots
  dsimp only
  split
  · exact setAct_slots _ _
  · rfl

theorem putSlots_rest (s : State) (kind : Nat) (m : SMap (List Byte)) : putSlots s kind m = { s with ci := (putSlots s kind m).ci } := by
  unfold putSlots
  dsimp only
  split <;> rfl

theorem putSlots_altBank (s : State) (kind : Nat) (m : SMap (List Byte)) : altBank (putSlots s kind m) = altBank s := by
  unfold putSlots
  dsimp only
  split
  · exact (altBank_setAct _ _).trans (altBank_congr ⟨rfl, rfl⟩ rfl)
  · exact altBank_congr ⟨rfl, rfl⟩ rfl

theorem putSlots_settings (s : State) {kind : Nat} (m : SMap (List Byte)) (hk : kind < 2) : (actBank (putSlots s kind m)).settings = settingsOf m := by
  rw [putSlots, if_pos hk, actBank_setAct]

theorem slotCount_le (kind : Nat) : slotCount kind ≤ 16 := by
  unfold slotCount
  split <;> decide

/-- The slots of the first two kinds are the settings. -/
theorem find_settingsOf (m : SMap (List Byte)) (hk : kind < 2) (hs : slot < slotCount kind) :
    smFind (settingsOf m) (16 * kind + slot) = smFind m (16 * kind + slot) := by
  have hle := slotCount_le kind
  rw [settingsOf, smFind_smDrop, if_neg (by simp only [decide_eq_true_eq]; omega)]

/-- A slot that is set or cleared: the table with the change, the settings following it. -/
theorem slotPut_spec (s : State) {m : SMap (List Byte)} (hm : ∀ j, j ≠ 16 * kind + slot → smFind m j = smFind s.ci.slots j)
    (hs : slot < slotCount kind) {v : Option (List Byte)} (hv : smFind m (16 * kind + slot) = v) :
    let u := keySlotDone (putSlots s kind m) 0
    SlotEvent s u (16 * kind + slot) 0 ∧ smFind u.ci.slots (16 * kind + slot) = v ∧
      (kind < 2 → smFind (actBank u).settings (16 * kind + slot) = v) := by
  intro u
  have hslots : u.ci.slots = m := putSlots_slots s kind m
  have hrest := putSlots_rest s kind m
  refine ⟨⟨(keySlotDone_answered _ (by decide)).of_seq ?_, ?_, fun j hj => ?_, ?_⟩, ?_, fun hk => ?_⟩
  · rw [hrest]
    rfl
  · have hput : MemSame s (putSlots s kind m) := by
      rw [hrest]
      exact fun _ => rfl
    exact hput
  · rw [hslots]
    exact hm j hj
  · exact (keySlotDone_altBank _ _).trans (putSlots_altBank s kind m)
  · rw [hslots]
    exact hv
  · rw [keySlotDone_actBank, putSlots_settings _ _ hk, find_settingsOf m hk hs]
    exact hv

variable (ha : s.pst = 3) (hr : s.fnHeld 0 = false)
include ha hr

theorem keySlot_range (h : slotCount kind ≤ slot) (c : Instr) (hc : c = .keySlotSet kind slot ∨ c = .keySlotClear kind slot) :
    Runs c s fun u => SlotEvent s u (16 * kind + slot) 1 ∧ u.ci = s.ci := by
  obtain rfl | rfl := hc <;> refine ⟨_, rfl, ?_⟩ <;> rw [regCmd, fnCmd_active hr ha, if_pos h] <;>
    exact ⟨⟨keySlotDone_answered s (by decide), fun _ => rfl, fun _ _ => rfl, keySlotDone_altBank s 1⟩, rfl⟩

theorem keySlotSet_taken (h : slot < slotCount kind) :
    let bs := slice (toLE 64 (s.getWords (F.KEY_SLOT_DATA 0).off 16)) 0 (if kind = 0 then 64 else 32)
    Runs (.keySlotSet kind slot) s fun u => SlotEvent s u (16 * kind + slot) 0 ∧ smFind u.ci.slots (16 * kind + slot) = some bs ∧
      (kind < 2 → smFind (actBank u).settings (16 * kind + slot) = some bs) := by
  intro bs
  refine ⟨_, rfl, ?_⟩
  rw [regCmd, fnCmd_active hr ha, if_neg (Nat.not_le.mpr h)]
  exact slotPut_spec s (fun j hj => smFind_smSet_ne _ _ hj) h (smFind_smSet_self _ _ _)

theorem keySlotClear_taken (h : slot < slotCount kind) :
    Runs (.keySlotClear kind slot) s fun u => SlotEvent s u (16 * kind + slot) 0 ∧ smFind u.ci.slots (16 * kind + slot) = none ∧
      (kind < 2 → smFind (actBank u).settings (16 * kind + slot) = none) := by
  refine ⟨_, rfl, ?_⟩
  rw [regCmd, fnCmd_active hr ha, if_neg (Nat.not_le.mpr h)]
  exact slotPut_spec s (fun j hj => smFind_smDel_ne _ hj) h (smFind_smDel_self _ _)

end Slots

end Sys2Proof.Machine

/-! ## Firmware: sessions, activation, settings, the relay (R486–R495) -/

namespace Sys2Proof.Machine

/-! ### What the firmware block's operations leave alone -/

section Firmware

variable {s t u : State} {r c : Nat} {b : List Byte}

theorem fwDone_get (s : State) (r c : Nat) {f : RF} (hf : f.off ≠ F.FW_EVENT.off) : (fwDone s r c).get f = s.get f :=
  congrArg (bits · f.lo f.wid) ((State.reg_bump_ne (f := F.FW_EVENT_SEQ) _ hf).trans
    ((State.reg_set_ne (f := F.FW_EVENT_RESULT) _ _ hf).trans (State.reg_set_ne (f := F.FW_EVENT_COMP) _ _ hf)))

theorem fwDone_comp (s : State) (r : Nat) (hc : c < 4) : (fwDone s r c).get F.FW_EVENT_COMP = c := by
  rw [fwDone, State.result, State.get_bump_apart _ (by decide) (by decide), State.get_set_apart _ _ (by decide) (by decide),
    State.get_set_self _ _ (by decide)]
  exact Nat.mod_eq_of_lt hc

theorem actBank_set (s : State) {f : RF} (v : Nat) (h : F.BRUP_PROGRESS_FW_BANK.off ≠ f.off) : actBank (s.set f v) = actBank s :=
  actBank_congr ⟨rfl, rfl⟩ (s.get_set_ne v h)

theorem actBank_fwDone (s : State) (r c : Nat) : actBank (fwDone s r c) = actBank s := actBank_congr ⟨rfl, rfl⟩ (fwDone_get s r c (by decide))

theorem actBank_fwShown (s : State) (l : List Nat) : actBank (fwShown s l) = actBank s := actBank_congr ⟨rfl, rfl⟩ (fwShown_get s l (by decide))

theorem actBank_raise (s : State) (i j k : Nat) : actBank (s.raise i j k) = actBank s := rfl

theorem altBank_raise (s : State) (i j k : Nat) : altBank (s.raise i j k) = altBank s := rfl

theorem setAlt_staged (s : State) (x : Bank) : (setAlt s x).ci.staged = s.ci.staged := by
  rw [setAlt]
  cases s.flag F.BRUP_PROGRESS_FW_BANK <;> rfl

theorem fwSession_fwDone (s : State) (r c : Nat) : fwSession (fwDone s r c) = fwSession s := flag_congr (fwDone_get s r c (by decide))

theorem fwActivating_fwDone (s : State) (r c : Nat) : fwActivating (fwDone s r c) = fwActivating s := flag_congr (fwDone_get s r c (by decide))

/-- An event of the firmware block changes FW_EVENT alone. -/
theorem fwDone_event (s : State) (hr : r < 32) (c : Nat) : Answered s (fwDone s r c) F.FW_EVENT_SEQ F.FW_EVENT_RESULT r ∧ (fwDone s r c).ci = s.ci ∧
    MemSame s (fwDone s r c) :=
  ⟨answered_fwDone c rfl hr, rfl, fun _ => rfl⟩

/-! ### Commands in Active with the control complex running -/

section Commands

variable (ha : s.pst = 3) (hr : s.fnHeld 0 = false) (hc : ctrlOn s = true)
include ha hr hc

theorem fwCommand (f : State → State) : regCmd s false (fun s => inCtrl s f) = f s := by
  rw [regCmd, fnCmd_active hr ha, inCtrl, if_pos hc]

theorem exec_fwOpenSession (h : fwOpen s = (t, r)) : exec .fwOpenSession s = .next (fwDone t r 0) := by
  refine congrArg Host.Outcome.next ((fwCommand ha hr hc _).trans ?_)
  dsimp only
  rw [h]

theorem exec_fwCancel (h : fwCancel s = (t, r)) : exec .fwCancel s = .next (fwDone t r 0) := by
  refine congrArg Host.Outcome.next ((fwCommand ha hr hc _).trans ?_)
  dsimp only
  rw [h]

theorem exec_fwStage (hact : fwActivating s = false) (written : Bool) (h : fwRead s (fwAddr s) (s.reg F.FW_LEN.off) = (t, some b)) :
    exec (.fwStage written) s = .next (settle (fwStageBytes t b written).1) := by
  refine congrArg Host.Outcome.next ((fwCommand ha hr hc _).trans ?_)
  rw [hact, h]
  rfl

/-- While an activation is under way, each of the four commands is refused. -/
theorem fwBusy (hact : fwActivating s = true) (cmd : Instr)
    (hcmd : cmd = .fwOpenSession ∨ (∃ w, cmd = .fwStage w) ∨ cmd = .fwCancel ∨ cmd = .fwRelay) : exec cmd s = .next (fwDone s 11 0) := by
  obtain rfl | ⟨w, rfl⟩ | rfl | rfl := hcmd
  · exact exec_fwOpenSession ha hr hc (if_pos hact)
  · exact congrArg Host.Outcome.next ((fwCommand ha hr hc _).trans (if_pos hact))
  · exact exec_fwCancel ha hr hc (if_pos hact)
  · exact congrArg Host.Outcome.next ((fwCommand ha hr hc _).trans (if_pos hact))

/-! #### Sessions (R486) -/

theorem fwOpenSession_open (hact : fwActivating s = false) (hses : fwSession s = true) : exec .fwOpenSession s = .next (fwDone s 10 0) := by
  refine exec_fwOpenSession ha hr hc ?_
  rw [fwOpen, hact, hses]
  rfl

theorem fwCancel_none (hact : fwActivating s = false) (hses : fwSession s = false) : exec .fwCancel s = .next (fwDone s 10 0) := by
  refine exec_fwCancel ha hr hc ?_
  rw [fwCancel, hact, hses]
  rfl

theorem fwCancel_open (hact : fwActivating s = false) (hses : fwSession s = true) : Runs .fwCancel s fun u =>
    Answered s u F.FW_EVENT_SEQ F.FW_EVENT_RESULT 0 ∧ fwSession u = false ∧ u.ci = { s.ci with staged := [] } ∧ MemSame s u := by
  refine ⟨_, exec_fwCancel ha hr hc (fwCancel_eq hact hses), answered_fwDone 0 (State.get_set_ne _ _ (by decide)) (by decide), ?_, rfl, fun _ => rfl⟩
  rw [fwSession_fwDone, fwSession_fwEnd]

theorem fwOpenSession_none (hact : fwActivating s = false) (hses : fwSession s = false) : Runs .fwOpenSession s fun u =>
    Answered s u F.FW_EVENT_SEQ F.FW_EVENT_RESULT 0 ∧ fwSession u = true ∧ u.ci.staged = [] ∧ actBank u = actBank s ∧
      (altBank u).comps = (actBank s).comps ∧ MemSame s u := by
  refine ⟨_, exec_fwOpenSession ha hr hc (fwOpen_eq hact hses), answered_fwDone 0 ?_ (by decide), ?_, rfl, ?_, ?_,
    memSame_of_mem (by simp [fwDone]) (by simp [fwDone])⟩
  · rw [State.get_set_ne _ _ (by decide), State.get_set_ne _ _ (by decide), fwShown_get _ _ (by decide), setAlt_get]
  · rw [fwSession_fwDone]
    refine flag_of_get ?_
    rw [State.get_set_apart _ _ (by decide) (by decide), State.get_set_self _ _ (by decide)]
    rfl
  · rw [actBank_fwDone, actBank_set _ _ (by decide), actBank_set _ _ (by decide), actBank_fwShown, actBank_setAlt]
  · rw [altBank_fwDone, altBank_set _ _ (by decide), altBank_set _ _ (by decide), altBank_fwShown, altBank_setAlt]

/-! #### Staging (R487) -/

omit ha hr hc in
theorem fwJudge_comp (s : State) (b : List Byte) (written : Bool) : (fwJudge s b written).2 < 4 := by
  have hcomp : fwComp b % 4 < 4 := Nat.mod_lt _ (by decide)
  unfold fwJudge
  dsimp only
  split
  · exact hcomp
  · split
    · exact hcomp
    · split
      · exact hcomp
      · split
        · exact hcomp
        · split
          next o ho =>
            obtain ⟨i, -, rfl⟩ := Option.map_eq_some_iff.mp ho
            exact Nat.mod_lt _ (by decide)
          next => exact hcomp

omit ha hr hc in
/-- What staging leaves: the new component, or the refusal counted. -/
theorem staged_spec (v : State) (b : List Byte) (written : Bool) {r c : Nat} (hj : fwJudge v b written = (r, c)) :
    let u := (fwStageBytes v b written).1
    Answered v u F.FW_EVENT_SEQ F.FW_EVENT_RESULT r ∧ u.get F.FW_EVENT_COMP = c ∧ MemSame v u ∧
      if r = 0 then actBank u = actBank v ∧ (altBank u).comps = (altBank v).comps.set c (fwComponent b) ∧
        u.ci.staged = v.ci.staged ++ [c] ∧ u.get F.FW_STATUS_LAST_STAGED = c
      else Counted v u F.FW_REFUSED ∧ u.ci = v.ci := by
  have hcomp : c < 4 := by simpa [hj] using fwJudge_comp v b written
  obtain ⟨w, hw, -, -, hmem, hevent, hcomps⟩ := fwStageBytes_spec hj
  intro u
  have hu : u = w := congrArg Prod.fst hw
  rw [hu]
  by_cases h0 : r = 0
  · subst h0
    rw [if_pos rfl]
    have heq := hw.symm.trans (fwStageBytes_staged hj)
    injection heq with heq
    refine ⟨hevent, ?_, hmem, ?_, hcomps rfl, ?_, ?_⟩ <;> rw [heq]
    · exact fwDone_comp _ _ hcomp
    · rw [actBank_fwDone, actBank_set _ _ (by decide), actBank_fwShown, actBank_setAlt]
    · exact congrArg (· ++ [c]) (setAlt_staged _ _)
    · rw [fwDone_get _ _ _ (by decide), State.get_set_self _ _ (by decide)]
      exact Nat.mod_eq_of_lt hcomp
  · rw [if_neg h0]
    have heq := hw.symm.trans (fwStageBytes_refused hj h0)
    injection heq with heq
    refine ⟨hevent, ?_, hmem, ?_, ?_⟩ <;> rw [heq]
    · exact fwDone_comp _ _ hcomp
    · exact State.live_count_self _ _ _
    · rfl

/-! #### The lock (R488) -/

theorem fwLockClass_other {confirm : Nat} (h : confirm ≠ 0xC1A5) : Runs (.fwLockClass confirm) s fun u => u = s :=
  ⟨_, congrArg Host.Outcome.next (fwCommand ha hr hc _), if_pos h⟩

/-- No image names an extension: the class is locked. -/
theorem fwLockClass_plain (h : ∀ x ∈ (actBank s).comps ++ (altBank s).comps, x.ext = 0) : Runs (.fwLockClass 0xC1A5) s fun u =>
    Answered s u F.FW_EVENT_SEQ F.FW_EVENT_RESULT 0 ∧ u.flag F.COMPAT_CLASS_LOCKED = true ∧ u.ci = s.ci ∧ MemSame s u := by
  have hnone : ((actBank s).comps ++ (altBank s).comps).findIdx? (fun x => x.ext != 0) = none := by
    rw [List.findIdx?_eq_none_iff]
    exact fun x hx => by simp [h x hx]
  refine ⟨fwDone (s.set F.COMPAT_CLASS_LOCKED 1) 0 0, congrArg Host.Outcome.next ((fwCommand ha hr hc _).trans ((if_neg (not_not.2 rfl)).trans ?_)),
    answered_fwDone 0 (State.get_set_ne _ _ (by decide)) (by decide), ?_, rfl, fun _ => rfl⟩
  · rw [hnone]
  · rw [flag_congr (fwDone_get _ 0 0 (by decide))]
    exact flag_of_get (State.get_set_self _ _ (by decide))

/-- An image names an extension: the class stays as it is. -/
theorem fwLockClass_extended (h : ∃ x ∈ (actBank s).comps ++ (altBank s).comps, x.ext ≠ 0) : Runs (.fwLockClass 0xC1A5) s fun u =>
    Answered s u F.FW_EVENT_SEQ F.FW_EVENT_RESULT 6 ∧ u.reg F.COMPAT_CLASS.off = s.reg F.COMPAT_CLASS.off := by
  cases hi : ((actBank s).comps ++ (altBank s).comps).findIdx? (fun x => x.ext != 0) with
  | none =>
    rw [List.findIdx?_eq_none_iff] at hi
    obtain ⟨x, hx, hext⟩ := h
    exact absurd (by simpa using hi x hx) hext
  | some i =>
    refine ⟨fwDone s 6 (i % 4), congrArg Host.Outcome.next ((fwCommand ha hr hc _).trans ((if_neg (not_not.2 rfl)).trans ?_)),
      answered_fwDone _ rfl (by decide), ?_⟩
    · rw [hi]
    · exact ((State.reg_bump_ne (f := F.FW_EVENT_SEQ) _ (by decide)).trans
        ((State.reg_set_ne (f := F.FW_EVENT_RESULT) _ _ (by decide)).trans (State.reg_set_ne (f := F.FW_EVENT_COMP) _ _ (by decide))))

/-! #### Activation (R489) -/

/-- May the staged set be activated? -/
def fwAble (s : State) : Prop := fwSession s = true ∧ (altBank s).comps ≠ (actBank s).comps ∧ anyResident s = false

omit ha hr hc in
theorem fwActivate_unable (h : ¬ fwAble s) : fwActivate s = (s, 10) := by
  have hcond : (!fwSession s || decide ((altBank s).comps = (actBank s).comps) || anyResident s) = true := by
    by_contra hno
    simp only [Bool.or_eq_true, Bool.not_eq_true', decide_eq_true_eq, not_or, Bool.not_eq_false, Bool.not_eq_true] at hno
    obtain ⟨⟨hses, hnew⟩, hidle⟩ := hno
    exact h ⟨hses, hnew, hidle⟩
  rw [fwActivate, if_pos hcond]

omit ha hr hc in
theorem fwActivate_modePending (h : fwAble s) (hmode : modePending s = true) : fwActivate s = (s, 12) := by
  obtain ⟨hses, hnew, hidle⟩ := h
  simp [fwActivate, hses, hnew, hidle, hmode]

theorem fwActivate_refused (h : fwActivate s = (s, r)) (h0 : r ≠ 0) (hlt : r < 32) : Runs .fwActivate s fun u =>
    Answered s u F.FW_EVENT_SEQ F.FW_EVENT_RESULT r ∧ u.pw = s.pw := by
  refine ⟨fwDone s r 0, congrArg Host.Outcome.next ((fwCommand ha hr hc _).trans ?_), answered_fwDone 0 rfl hlt, rfl⟩
  dsimp only
  rw [h]
  exact if_neg h0

/-- The state that an accepted activation leaves: new work is held until its limit. -/
def fwDraining (s : State) : State :=
  State.set { s with pw := { s.pw with drain := .fw (s.tk.count + max 1 (s.get F.FW_CTL_DRAIN_TICKS)) } } F.FW_STATUS_ACTIVATING 1

theorem fwActivate_accepted (h : fwAble s) (hmode : modePending s = false) : Runs .fwActivate s fun u =>
    u.get F.FW_EVENT_SEQ = s.get F.FW_EVENT_SEQ ∧ fwActivating u = true ∧ MemSame s u ∧
      u.pw = { s.pw with drain := .fw (s.tk.count + max 1 (s.get F.FW_CTL_DRAIN_TICKS)) } := by
  obtain ⟨hses, hnew, hidle⟩ := h
  refine ⟨fwDraining s, congrArg Host.Outcome.next ((fwCommand ha hr hc _).trans ?_), State.get_set_ne _ _ (by decide),
    flag_of_get (State.get_set_self _ _ (by decide)), fun _ => rfl, rfl⟩
  dsimp only
  rw [fwActivate_eq hses hnew hidle hmode]
  rfl

end Commands

/-! ### The relay (R493, R494) -/

section Relay

variable {v w : State} {a : Nat} {p h : List Byte} {written : Bool}

/-- Only counters, queue pairs and ended descriptors changed. -/
def PostsOnly (s u : State) : Prop := u = { s with cnt := u.cnt, tr := u.tr, en := u.en }

theorem PostsOnly.trans (h : PostsOnly s t) (k : PostsOnly t u) : PostsOnly s u := by
  unfold PostsOnly at *
  rw [k, h]

theorem PostsOnly.memSame (h : PostsOnly s u) : MemSame s u := by
  unfold PostsOnly at h
  rw [h]
  exact fun _ => rfl

theorem PostsOnly.ci (h : PostsOnly s u) : u.ci = s.ci := by
  unfold PostsOnly at h
  rw [h]

theorem PostsOnly.get (h : PostsOnly s u) (f : RF) : u.get f = s.get f := by
  unfold PostsOnly at h
  rw [h]
  rfl

theorem acceptPost_cnt (s : State) (d : Desc) (host : Bool) : PostsOnly s (acceptPost s d host) ∧ (acceptPost s d host).cnt = s.cnt := by
  have hsettle (n : Nat) (q : Qp) : PostsOnly s (settleQp s n q) ∧ (settleQp s n q).cnt = s.cnt := by
    rw [settleQp_eq]
    exact ⟨rfl, rfl⟩
  unfold acceptPost
  dsimp only
  split
  · exact ⟨rfl, rfl⟩
  · split
    · exact ⟨rfl, rfl⟩
    · exact hsettle _ _

theorem relaySend_only (s : State) (a n qn : Nat) : PostsOnly s (relaySend s a n qn) ∧ (relaySend s a n qn).cnt = (s.count F.FW_RELAY_FWD).cnt := by
  obtain ⟨hposts, hcnt⟩ := acceptPost_cnt (s.count F.FW_RELAY_FWD)
    { w := BitVec.ofNat 256 (10 + 2 ^ 64 * (2 ^ 14 * qn + 2 ^ 32 * (n - 1)) + 2 ^ 128 * a), th := ⟨0, 0⟩, prog := 0, live := 0, ew := none,
      eng := relayEng, opA := 0#64, opB := 0#64, post := true, no := s.sq.opNo, ts := false, bc := 0, bb := 0 } false
  have hcount : PostsOnly s (s.count F.FW_RELAY_FWD) := rfl
  exact ⟨hcount.trans hposts, hcnt⟩

/-- The package goes to each of the queue pairs. -/
def relaySends (s : State) (a n : Nat) (qns : List Nat) : State := qns.foldl (fun s qn => relaySend s a n qn) s

theorem relaySends_only (s : State) (a n : Nat) (qns : List Nat) : PostsOnly s (relaySends s a n qns) :=
  foldl_keeps (P := PostsOnly s) (f := fun s qn => relaySend s a n qn) (fun t qn h => h.trans (relaySend_only t a n qn).1) qns rfl

/-- Each copy is counted. -/
theorem relaySends_counted (a n qn : Nat) (qns : List Nat) : ∀ s : State,
    Counted s (relaySends s a n (qn :: qns)) F.FW_RELAY_FWD (qns.length + 1) := by
  have hone (s : State) (qn : Nat) : (relaySend s a n qn).live F.FW_RELAY_FWD = min (s.live F.FW_RELAY_FWD + 1) (2 ^ F.FW_RELAY_FWD.wid - 1) := by
    rw [State.live, (relaySend_only s a n qn).2]
    exact State.live_count_self _ _ _
  induction qns generalizing qn with
  | nil => exact fun s => hone s qn
  | cons q2 qns ih =>
    intro s
    have hrest := ih q2 (relaySend s a n qn)
    rw [Counted, hone] at hrest
    show (relaySends (relaySend s a n qn) a n (q2 :: qns)).live _ = _
    rw [hrest, List.length_cons]
    omega

/-- The state after steps 1 to 4 on a package that stands in memory, and the RESULT of FW_RELAY, where nothing is staged. -/
theorem relayRun_bad (h1 : fwRead t a 64 = (v, some h)) (h2 : fwRead v a (relayLen h) = (w, some p)) (hok : relayOk p = false) :
    relayRun t a written = (w.count F.FW_RELAY_BAD, 1) := by
  simp only [relayRun, h1, h2, hok, Bool.not_false, if_true]

theorem relayRun_refused (h1 : fwRead t a 64 = (v, some h)) (h2 : fwRead v a (relayLen h) = (w, some p)) (hok : relayOk p = true)
    (hcheck : fwCheck4 w (p.drop (64 + 4 * relayCount p)) ≠ 0) : relayRun t a written =
      (fwDone w (fwCheck4 w (p.drop (64 + 4 * relayCount p))) (fwComp (p.drop (64 + 4 * relayCount p)) % 4), 0) := by
  simp only [relayRun, h1, h2, hok, Bool.not_true, Bool.false_eq_true, if_false, if_pos hcheck]

theorem relayRun_sent (h1 : fwRead t a 64 = (v, some h)) (h2 : fwRead v a (relayLen h) = (w, some p)) (hok : relayOk p = true)
    (hcheck : fwCheck4 w (p.drop (64 + 4 * relayCount p)) = 0) (hauto : w.flag F.FW_CTL_AUTO_STAGE = false) :
    relayRun t a written = (relaySends w a p.length (relayTargets w p), 0) := by
  have hflag : (relaySends w a p.length (relayTargets w p)).flag F.FW_CTL_AUTO_STAGE = false :=
    (flag_congr ((relaySends_only _ _ _ _).get _)).trans hauto
  simp only [relayRun, h1, h2, hok, hcheck, Bool.not_true, Bool.false_eq_true, if_false, ne_eq, not_true_eq_false]
  rw [← relaySends, hflag]
  rfl

theorem fwCheck4_le (s : State) (b : List Byte) : fwCheck4 s b ≤ 4 := by
  unfold fwCheck4
  split_ifs <;> omega

theorem relaySends_targets {a : Nat} (k : Nat) (hk : (relayTargets w p).length = k + 1) :
    Counted w (relaySends w a p.length (relayTargets w p)) F.FW_RELAY_FWD (k + 1) := by
  cases hl : relayTargets w p with
  | nil => rw [hl] at hk; exact absurd hk (by simp)
  | cons qn qns =>
    rw [hl, List.length_cons, Nat.add_right_cancel_iff] at hk
    exact hk ▸ relaySends_counted _ _ _ _ _

theorem relaySends_event (s : State) (a n : Nat) (qns : List Nat) (r : Nat) (hr : r < 32) :
    Answered s (fwDone (relaySends s a n qns) r 0) F.FW_EVENT_SEQ F.FW_EVENT_RESULT r :=
  answered_fwDone 0 ((relaySends_only s a n qns).get _) hr

theorem seqNext_ne (n : Nat) : seqNext n ≠ n := by
  unfold seqNext
  split <;> omega

/-- An event that has been told shows in SEQ. -/
theorem fwDone_seq_ne (s : State) (r c : Nat) (hr : r < 32) : (fwDone s r c).get F.FW_EVENT_SEQ ≠ s.get F.FW_EVENT_SEQ := by
  obtain ⟨-, hseq⟩ := answered_fwDone (s := s) c rfl hr
  rw [hseq]
  exact seqNext_ne _

section Steps

variable (ha : s.pst = 3) (hc : ctrlOn s = true) (hauto : w.flag F.FW_CTL_AUTO_STAGE = false)
include ha hc hauto

/-- A package of the adapter's own: its event is the relay's RESULT, or that of the check that fails. -/
theorem fwRelay_spec (hr : s.fnHeld 0 = false) (hact : fwActivating s = false) (h1 : fwRead s (fwAddr s) 64 = (v, some h))
    (h2 : fwRead v (fwAddr s) (relayLen h) = (w, some p)) (hseq : w.get F.FW_EVENT_SEQ = s.get F.FW_EVENT_SEQ) :
    let img := p.drop (64 + 4 * relayCount p)
    RunsSettled .fwRelay s fun u => u.ci = w.ci ∧ MemSame w u ∧
      if relayOk p = false then Answered w u F.FW_EVENT_SEQ F.FW_EVENT_RESULT 1 ∧ Counted w u F.FW_RELAY_BAD ∧ u.tr = w.tr
      else if fwCheck4 w img = 0 then Answered w u F.FW_EVENT_SEQ F.FW_EVENT_RESULT 0 ∧
        ∀ k, (relayTargets w p).length = k + 1 → Counted w u F.FW_RELAY_FWD (k + 1)
      else Answered w u F.FW_EVENT_SEQ F.FW_EVENT_RESULT (fwCheck4 w img) ∧ u.tr = w.tr := by
  intro img
  have hexec {r : Nat} {t u : State} (hrun : relayRun s (fwAddr s) true = (t, r))
      (hu : (if t.get F.FW_EVENT_SEQ ≠ s.get F.FW_EVENT_SEQ then t else fwDone t r 0) = u) : exec .fwRelay s = .next (settle u) := by
    refine congrArg Host.Outcome.next ((fwCommand ha hr hc _).trans ((if_neg (by simp [hact])).trans ?_))
    rw [hrun, ← hu]
  cases hok : relayOk p with
  | false =>
    refine ⟨fwDone (w.count F.FW_RELAY_BAD) 1 0, hexec (relayRun_bad h1 h2 hok) (if_neg (not_not.2 hseq)), rfl, fun _ => rfl, ?_⟩
    rw [if_pos rfl]
    exact ⟨answered_fwDone 0 rfl (by decide), State.live_count_self _ _ _, rfl⟩
  | true =>
    by_cases hcheck : fwCheck4 w img = 0
    · have hsends := relaySends_only w (fwAddr s) p.length (relayTargets w p)
      refine ⟨fwDone (relaySends w (fwAddr s) p.length (relayTargets w p)) 0 0, hexec (relayRun_sent h1 h2 hok hcheck hauto)
        (if_neg (not_not.2 ((hsends.get _).trans hseq))), hsends.ci, hsends.memSame, ?_⟩
      rw [if_neg (by decide), if_pos hcheck]
      exact ⟨relaySends_event _ _ _ _ _ (by decide), relaySends_targets⟩
    · have hlt : fwCheck4 w img < 32 := (fwCheck4_le _ _).trans_lt (by decide)
      refine ⟨fwDone w (fwCheck4 w img) (fwComp img % 4), hexec (relayRun_refused h1 h2 hok hcheck)
        (if_pos (hseq ▸ fwDone_seq_ne _ _ _ hlt)), rfl, fun _ => rfl, ?_⟩
      rw [if_neg (by decide), if_neg hcheck]
      exact ⟨answered_fwDone _ rfl hlt, rfl⟩

/-- A package that has arrived: only a check that fails has an event. -/
theorem relayPackageArrival_spec (h1 : fwRead (s.count F.FW_RELAY_RX) (s.get64 F.FW_RELAY_BUF_LO F.FW_RELAY_BUF_HI) 64 = (v, some h))
    (h2 : fwRead v (s.get64 F.FW_RELAY_BUF_LO F.FW_RELAY_BUF_HI) (relayLen h) = (w, some p)) (written : Bool) :
    let img := p.drop (64 + 4 * relayCount p)
    RunsSettled (.relayPackageArrival written) s fun u => u.ci = w.ci ∧ MemSame w u ∧
      if relayOk p = false then Counted w u F.FW_RELAY_BAD ∧ u.tr = w.tr
      else if fwCheck4 w img = 0 then ∀ k, (relayTargets w p).length = k + 1 → Counted w u F.FW_RELAY_FWD (k + 1)
      else Answered w u F.FW_EVENT_SEQ F.FW_EVENT_RESULT (fwCheck4 w img) ∧ u.tr = w.tr := by
  intro img
  have hexec {r : Nat} {u : State} (hrun : relayRun (s.count F.FW_RELAY_RX) (s.get64 F.FW_RELAY_BUF_LO F.FW_RELAY_BUF_HI) written = (u, r)) :
      exec (.relayPackageArrival written) s = .next (settle u) := by
    refine congrArg Host.Outcome.next ((if_pos ha).trans ((if_pos hc).trans ?_))
    exact congrArg (fun x => settle x.1) hrun
  cases hok : relayOk p with
  | false =>
    refine ⟨w.count F.FW_RELAY_BAD, hexec (relayRun_bad h1 h2 hok), rfl, fun _ => rfl, ?_⟩
    rw [if_pos rfl]
    exact ⟨State.live_count_self _ _ _, rfl⟩
  | true =>
    by_cases hcheck : fwCheck4 w img = 0
    · have hsends := relaySends_only w (s.get64 F.FW_RELAY_BUF_LO F.FW_RELAY_BUF_HI) p.length (relayTargets w p)
      refine ⟨_, hexec (relayRun_sent h1 h2 hok hcheck hauto), hsends.ci, hsends.memSame, ?_⟩
      rw [if_neg (by decide), if_pos hcheck]
      exact relaySends_targets
    · refine ⟨_, hexec (relayRun_refused h1 h2 hok hcheck), rfl, fun _ => rfl, ?_⟩
      rw [if_neg (by decide), if_neg hcheck]
      exact ⟨answered_fwDone _ rfl ((fwCheck4_le _ _).trans_lt (by decide)), rfl⟩

end Steps

end Relay

/-! ### The drain (R489) -/

section Drain

variable {dl : Nat}

theorem fwActivationDrainDone_empty (ha : s.pst = 3) (hd : s.pw.drain = .fw dl) (he : trackerEmpty s = true) :
    exec .fwActivationDrainDone s = .next (startChange { s with pw := { s.pw with drain := .none } } .fw (s.tk.count + 1)) := by
  show Host.Outcome.next _ = _
  rw [hd]
  dsimp only
  rw [if_pos (by simp [ha, he])]

/-- The registers that show how far the queues are lie outside the firmware block. -/
theorem setSqd_reg (s : State) (k : Nat) (q : Sq) {o : Nat} (ho : 0x700000 ≤ o) (ho' : o < 0x2000000) : (s.setSqd k q).reg o = s.reg o := by
  have hne : o ≠ (F.SQ_FETCH (k / 16) (k % 16)).off := by
    have hlt := Nat.mod_lt k (by decide : 0 < 16)
    show o ≠ fnBase (k / 16) + 0x28 + 0x20 * (k % 16)
    unfold fnBase
    split <;> omega
  exact (State.reg_set_ne (f := F.SQ_FETCH_PROD (k / 16) (k % 16)) _ _ hne).trans
    (State.reg_set_ne (f := F.SQ_FETCH_FETCH (k / 16) (k % 16)) _ _ hne)

theorem sqFetch_reg (s : State) (k : Nat) {o : Nat} (ho : 0x700000 ≤ o) (ho' : o < 0x2000000) : (sqFetch s k).reg o = s.reg o := by
  unfold sqFetch
  split
  · unfold sqAsk
    dsimp only
    rw [setSqd_reg _ _ _ ho ho']
    split <;> rfl
  · rfl

theorem sqFetchAll_reg (s : State) {o : Nat} (ho : 0x700000 ≤ o) (ho' : o < 0x2000000) : (sqFetchAll s).reg o = s.reg o := by
  have hall (ks : List Nat) : (ks.foldl sqFetch s).reg o = s.reg o :=
    foldl_keeps (P := fun t : State => t.reg o = s.reg o) (fun t k h => (sqFetch_reg t k ho ho').trans h) ks rfl
  unfold sqFetchAll
  dsimp only
  split <;> exact hall _

/-- With no launch held, only the queues go on. -/
theorem releaseHeld_get (h : s.pw.launches = []) {f : RF} (hf : 0x700000 ≤ f.off) (hf' : f.off < 0x2000000) : (releaseHeld s).get f = s.get f := by
  rw [releaseHeld, h]
  exact congrArg (bits · f.lo f.wid) (sqFetchAll_reg _ hf hf')

theorem releaseHeld_frame (h : s.pw.launches = []) : CqFrame { s with pw := { s.pw with launches := [] } } (releaseHeld s) := by
  rw [releaseHeld, h]
  exact sqFetchAll_frame _

theorem fwActivationDrainTimeout_busy (ha : s.pst = 3) (hd : s.pw.drain = .fw dl) (he : trackerEmpty s = false) (hl : dl ≤ s.tk.count)
    (hn : s.pw.launches = []) : Runs .fwActivationDrainTimeout s fun u => Answered s u F.FW_EVENT_SEQ F.FW_EVENT_RESULT 13 ∧ fwActivating u = false ∧
      u.pw = { s.pw with drain := .none } ∧ MemSame s u := by
  have hout : fwDrainTimeout s = releaseHeld (fwDone (State.set { s with pw := { s.pw with drain := .none } } F.FW_STATUS_ACTIVATING 0) 13 0) := by
    simp [fwDrainTimeout, fwAbandon, hd, ha, he, hl]
  have hkept {f : RF} (hf : 0x700000 ≤ f.off) (hf' : f.off < 0x2000000) := releaseHeld_get
    (s := fwDone (State.set { s with pw := { s.pw with drain := .none } } F.FW_STATUS_ACTIVATING 0) 13 0) hn hf hf'
  obtain ⟨hres, hseq⟩ := answered_fwDone (s := s) (t := State.set { s with pw := { s.pw with drain := .none } } F.FW_STATUS_ACTIVATING 0) (r := 13) 0
    (State.get_set_ne _ _ (by decide)) (by decide)
  refine ⟨_, congrArg Host.Outcome.next hout, ⟨(hkept (by decide) (by decide)).trans hres, (hkept (by decide) (by decide)).trans hseq⟩, ?_,
    pw_releaseHeld hn, fun a => (releaseHeld_frame (s := fwDone (State.set { s with pw := { s.pw with drain := .none } } F.FW_STATUS_ACTIVATING 0) 13 0)
      hn).byte a⟩
  rw [fwActivating, flag_congr (hkept (by decide) (by decide)), ← fwActivating, fwActivating_fwDone, fwActivating, State.flag,
    State.get_set_self _ _ (by decide)]
  rfl

end Drain

/-! ### Links and pauses while a set loads (R490) -/

section Links

variable {l l' : List Nat}

/-- What links and pauses leave alone: the registers but `l`, memory, the faults raised, the sets and what is held. -/
structure LinksOnly (s u : State) (l : List Nat) : Prop where
  port : PortKept s u l
  ci : u.ci = s.ci
  pw : u.pw = s.pw

theorem LinksOnly.refl (s : State) (l : List Nat) : LinksOnly s s l := ⟨.refl s l, rfl, rfl⟩

theorem LinksOnly.trans (h : LinksOnly s t l) (k : LinksOnly t u l) : LinksOnly s u l := ⟨h.port.trans k.port, k.ci.trans h.ci, k.pw.trans h.pw⟩

theorem LinksOnly.mono (h : LinksOnly s t l) (hl : l ⊆ l') : LinksOnly s t l' := ⟨h.port.mono hl, h.ci, h.pw⟩

theorem LinksOnly.memSame (h : LinksOnly s u l) : MemSame s u := memSame_of_mem h.port.mem h.port.variant

theorem ctlSend_ci (s : State) (n enable time : Nat) : (ctlSend s n enable time).ci = s.ci := by
  unfold ctlSend
  split
  · rfl
  · split <;> rfl

theorem pfcFall_ci (s : State) (i x : Nat) : (pfcFall s i x).ci = s.ci := by
  unfold pfcFall
  split
  · rfl
  · dsimp only
    split
    · unfold sendPfc
      split
      · exact ctlSend_ci _ _ _ _
      · rfl
    · rfl

theorem linkDropped_ci (s : State) (n : Nat) : (linkDropped s n).ci = s.ci := by
  unfold linkDropped
  refine foldl_keeps (P := fun t : State => t.ci = s.ci) (fun t f h => (pfcFall_ci t _ _).trans h) _ ?_
  cases (s.port n).cut <;> rfl

theorem linkLost_ci (s : State) (n : Nat) : (linkLost s n).ci = s.ci := by
  have hforget (t : State) : (forgetForeign t n).ci = t.ci := by
    unfold forgetForeign
    split
    · rw [bmca_rest]
    · rfl
  unfold linkLost
  rw [hforget]
  split
  · unfold State.holdover
    split
    · rfl
    · rw [setLock_rest]
  · rfl

theorem linkShown_ci (s : State) (n : Nat) : (linkShown s n).ci = s.ci := rfl

theorem linksOnly_linkGoesDown (s : State) (n : Nat) : LinksOnly s (linkGoesDown s n) (linkRegs n) := by
  refine ⟨portKept_linkGoesDown s n, ?_, pw_linkGoesDown s n⟩
  rw [linkGoesDown_eq]
  split
  · rfl
  · rw [linkLost_ci, linkShown_ci, linkDropped_ci]

theorem linksOnly_allDown (ns : List Nat) : ∀ s : State, LinksOnly s (ns.foldl linkGoesDown s) (ns.flatMap linkRegs) := by
  induction ns with
  | nil => exact fun s => .refl s _
  | cons n ns ih =>
    intro s
    exact ((linksOnly_linkGoesDown s n).mono (List.subset_append_left _ _)).trans ((ih (linkGoesDown s n)).mono (List.subset_append_right _ _))

theorem linksOnly_pauseAll (s : State) (time : Nat) (l : List Nat) : LinksOnly s (pauseAll s time) l := by
  have hall (ns : List Nat) : LinksOnly s (ns.foldl (fun t n => ctlSend t n 0xFF time) s) l :=
    foldl_keeps (P := fun t => LinksOnly s t l) (fun t n h => h.trans ⟨portKept_ctlSend t n _ _ _, ctlSend_ci _ _ _ _, pw_ctlSend _ _ _ _⟩) ns (.refl s l)
  exact hall _

end Links

/-! ### The settings as control firmware starts (R492) -/

section Settings

/-- The settings' format that the active set's control firmware knows. -/
def settingsRun (s : State) : Nat := ((actBank s).comps.getD 2 {}).settingsFmt

/-- FW_SETTINGS and the slots with the settings `m`, and the active bank `x`. -/
def settingsPut (s : State) (m : SMap (List Byte)) (x : Bank) : State :=
  let w := (s.set F.FW_SETTINGS_RUNNING (settingsRun s)).set F.FW_SETTINGS_STORED (settingsRun s)
  setAct { w with ci := { s.ci with slots := m ++ smDrop (fun k => k < 32) s.ci.slots } } x

theorem settingsStart_kept (h : (actBank s).fmt ≤ settingsRun s) : settingsStart s =
    (settingsPut s (actBank s).settings { actBank s with fmt := settingsRun s }).set F.FW_STATUS_SETTINGS_RESET 0 :=
  if_neg (Nat.not_lt.mpr h)

/-- The settings reset, before the event that says so. -/
def settingsWiped (s : State) : State := (settingsPut s [] { actBank s with settings := [], fmt := settingsRun s }).set F.FW_STATUS_SETTINGS_RESET 1

theorem settingsStart_reset (h : settingsRun s < (actBank s).fmt) : settingsStart s = (fwDone (settingsWiped s) 16 2).raise 15 2 0 := if_pos h

variable (s) (m : SMap (List Byte)) (x : Bank)

theorem settingsPut_get {f : RF} (hf : f.off ≠ F.FW_SETTINGS.off) : (settingsPut s m x).get f = s.get f := by
  show ((s.set F.FW_SETTINGS_RUNNING (settingsRun s)).set F.FW_SETTINGS_STORED (settingsRun s)).get f = _
  rw [State.get_set_ne (f := F.FW_SETTINGS_STORED) _ _ hf, State.get_set_ne (f := F.FW_SETTINGS_RUNNING) _ _ hf]

theorem settingsPut_load : (settingsPut s m x).ci.load = s.ci.load := by
  unfold settingsPut setAct
  dsimp only
  split <;> rfl

theorem settingsPut_slots : (settingsPut s m x).ci.slots = m ++ smDrop (fun k => k < 32) s.ci.slots := setAct_slots _ _

theorem settingsPut_actBank : actBank (settingsPut s m x) = x := actBank_setAct _ _

theorem settingsPut_altBank : altBank (settingsPut s m x) = altBank s := by
  rw [settingsPut, altBank_setAct]
  exact (altBank_congr ⟨rfl, rfl⟩ rfl).trans ((altBank_set (s.set F.FW_SETTINGS_RUNNING (settingsRun s)) _ (by decide)).trans (altBank_set s _ (by decide)))

theorem settingsWiped_actBank : actBank (settingsWiped s) = { actBank s with settings := [], fmt := settingsRun s } :=
  (actBank_set _ _ (by decide)).trans (settingsPut_actBank s _ _)

theorem settingsWiped_seq : (settingsWiped s).get F.FW_EVENT_SEQ = s.get F.FW_EVENT_SEQ :=
  (State.get_set_ne _ _ (by decide)).trans (settingsPut_get s _ _ (by decide))

theorem settingsWiped_flag : (settingsWiped s).flag F.FW_STATUS_SETTINGS_RESET = true := flag_of_get (State.get_set_self _ _ (by decide))

theorem settingsWiped_slots {k : Nat} (hk : k < 32) : smFind (settingsWiped s).ci.slots k = none := by
  have hslots : (settingsWiped s).ci.slots = smDrop (fun k => k < 32) s.ci.slots := by
    rw [settingsWiped, State.set_ci, settingsPut_slots, List.nil_append]
  rw [hslots, smFind_smDrop, if_pos (decide_eq_true hk)]

/-- What the start of control firmware leaves, whether the settings are kept or reset. -/
structure SettingsStarted (s u : State) : Prop where
  load : u.ci.load = s.ci.load
  session : fwSession u = fwSession s
  comps : (actBank u).comps = (actBank s).comps
  alt : altBank u = altBank s
  bank : u.flag F.BRUP_PROGRESS_FW_BANK = s.flag F.BRUP_PROGRESS_FW_BANK
  mem : MemSame s u

theorem settingsPut_started (hx : x.comps = (actBank s).comps) (v : Nat) :
    SettingsStarted s ((settingsPut s m x).set F.FW_STATUS_SETTINGS_RESET v) where
  load := settingsPut_load s m x
  session := flag_congr ((State.get_set_apart _ _ (by decide) (by decide)).trans (settingsPut_get s m x (by decide)))
  comps := by rw [actBank_set _ _ (by decide), settingsPut_actBank, hx]
  alt := by rw [altBank_set _ _ (by decide), settingsPut_altBank]
  bank := flag_congr ((State.get_set_ne _ _ (by decide)).trans (settingsPut_get s m x (by decide)))
  mem := fun _ => rfl

variable {s} in
theorem SettingsStarted.fwDone (h : SettingsStarted s u) (r c : Nat) : SettingsStarted s (fwDone u r c) where
  load := h.load
  session := (fwSession_fwDone u r c).trans h.session
  comps := (congrArg Bank.comps (actBank_fwDone u r c)).trans h.comps
  alt := (altBank_fwDone u r c).trans h.alt
  bank := (flag_congr (fwDone_get u r c (by decide))).trans h.bank
  mem := h.mem

variable {s} in
theorem SettingsStarted.raise (h : SettingsStarted s u) (i j k : Nat) : SettingsStarted s (u.raise i j k) :=
  ⟨h.load, h.session, h.comps, h.alt, h.bank, h.mem⟩

theorem settingsStart_started : SettingsStarted s (settingsStart s) := by
  rcases Nat.lt_or_ge (settingsRun s) (actBank s).fmt with h | h
  · rw [settingsStart_reset h]
    exact ((settingsPut_started s [] { actBank s with settings := [], fmt := settingsRun s } rfl 1).fwDone 16 2).raise 15 2 0
  · rw [settingsStart_kept h]
    exact settingsPut_started s (actBank s).settings { actBank s with fmt := settingsRun s } rfl 0

end Settings

/-! ### A set that has loaded, or has failed (R490–R492) -/

section Load

/-- The set that becomes active. -/
def swapNew (s : State) : Bank := { altBank s with settings := settingsOf s.ci.slots, fmt := (actBank s).fmt }

/-- The banks with their roles exchanged, before any link is taken down. -/
def swapped (s : State) : State :=
  showSets (State.set { setAlt s (swapNew s) with ci := { (setAlt s (swapNew s)).ci with active := !s.flag F.BRUP_PROGRESS_FW_BANK } }
    F.BRUP_PROGRESS_FW_BANK (b2n (!s.flag F.BRUP_PROGRESS_FW_BANK)))

theorem fwSwap_eq (s : State) : fwSwap s = if (actBank s).comps.getD 0 {} = (swapNew s).comps.getD 0 {} then swapped s
    else (List.range 32).foldl linkGoesDown (swapped s) := rfl

/-- The registers that the ports' links show in. -/
def allLinkRegs : List Nat := (List.range 32).flatMap linkRegs

theorem fwSwap_links (s : State) : LinksOnly (swapped s) (fwSwap s) allLinkRegs := by
  rw [fwSwap_eq]
  split
  · exact .refl _ _
  · exact linksOnly_allDown _ _

variable (s)

theorem swapped_bank : (swapped s).flag F.BRUP_PROGRESS_FW_BANK = !s.flag F.BRUP_PROGRESS_FW_BANK := by
  rw [swapped, flag_congr (showSets_get _ (by decide)), State.flag, State.get_set_self _ _ (by decide)]
  cases s.flag F.BRUP_PROGRESS_FW_BANK <;> rfl

theorem swapped_get {f : RF} (hf : f.off < 0x700220) (hne : f.off ≠ F.BRUP_PROGRESS.off) : (swapped s).get f = s.get f := by
  rw [swapped, showSets_get _ hf, State.get_set_ne (f := F.BRUP_PROGRESS_FW_BANK) _ _ hne]
  rfl

theorem swapped_ci : (swapped s).ci = { (setAlt s (swapNew s)).ci with active := !s.flag F.BRUP_PROGRESS_FW_BANK } := rfl

theorem swapped_actBank : actBank (swapped s) = swapNew s := by
  rw [actBank, swapped_bank, swapped_ci, setAlt]
  cases s.flag F.BRUP_PROGRESS_FW_BANK <;> rfl

theorem swapped_altBank : altBank (swapped s) = actBank s := by
  rw [altBank, swapped_bank, swapped_ci, setAlt, actBank]
  cases s.flag F.BRUP_PROGRESS_FW_BANK <;> rfl

theorem swapped_memSame : MemSame s (swapped s) := memSame_of_mem (by simp [swapped]) (by simp [swapped])

/-- The session ends, and the load stands as `l`. -/
def loadEnded (w : State) (l : Loading) : State := fwEnd { w with ci := { w.ci with load := l } }

/-- The state in which a loaded set's settings start. -/
def loadedState : State := loadEnded (pauseAll (fwSwap s) 0) .loaded

theorem loadedState_links : LinksOnly (swapped s) (pauseAll (fwSwap s) 0) allLinkRegs := (fwSwap_links s).trans (linksOnly_pauseAll _ 0 _)

theorem fwEnd_get (s : State) {f : RF} (hf : f.off ≠ F.FW_STATUS.off) : (fwEnd s).get f = s.get f := State.get_set_ne (f := F.FW_STATUS_SESSION) _ _ hf

theorem loadEnded_get (w : State) (l : Loading) {f : RF} (hf : f.off ≠ F.FW_STATUS.off) : (loadEnded w l).get f = w.get f :=
  fwEnd_get { w with ci := { w.ci with load := l } } hf

theorem loadEnded_banks (w : State) (l : Loading) : (loadEnded w l).ci.bankA = w.ci.bankA ∧ (loadEnded w l).ci.bankB = w.ci.bankB := ⟨rfl, rfl⟩

theorem loadEnded_memSame (w : State) (l : Loading) : MemSame w (loadEnded w l) := fun _ => rfl

theorem loadedState_get {f : RF} (hf : f.off ≠ F.FW_STATUS.off) (hl : f.off ∉ allLinkRegs) : (loadedState s).get f = (swapped s).get f := by
  rw [loadedState, loadEnded_get _ _ hf, (loadedState_links s).port.get hl]

theorem loadedState_banks : (loadedState s).ci.bankA = (swapped s).ci.bankA ∧ (loadedState s).ci.bankB = (swapped s).ci.bankB := by
  obtain ⟨ha, hb⟩ := loadEnded_banks (pauseAll (fwSwap s) 0) .loaded
  rw [loadedState, ha, hb, (loadedState_links s).ci]
  exact ⟨rfl, rfl⟩

theorem loadedState_actBank : actBank (loadedState s) = swapNew s :=
  (actBank_congr (loadedState_banks s) (loadedState_get s (by decide) (by decide))).trans (swapped_actBank s)

theorem loadedState_altBank : altBank (loadedState s) = actBank s :=
  (altBank_congr (loadedState_banks s) (loadedState_get s (by decide) (by decide))).trans (swapped_altBank s)

theorem loadedState_bank : (loadedState s).flag F.BRUP_PROGRESS_FW_BANK = !s.flag F.BRUP_PROGRESS_FW_BANK :=
  (flag_congr (loadedState_get s (by decide) (by decide))).trans (swapped_bank s)

theorem loadedState_memSame : MemSame s (loadedState s) :=
  (swapped_memSame s).trans ((loadedState_links s).memSame.trans (loadEnded_memSame _ _))

variable {s}
variable (ha : s.pst = 3) (hl : s.ci.load = .loading)
include ha hl

theorem exec_fwLoadComplete_none : exec (.fwLoadComplete none) s = .next (settle (settingsStart (loadedState s))) := by
  refine congrArg Host.Outcome.next ((if_neg ?_).trans rfl)
  simp [ha, hl]

theorem fwLoadComplete_loaded : RunsSettled (.fwLoadComplete none) s fun u => u.ci.load = .loaded ∧ fwSession u = false ∧
    (actBank u).comps = (altBank s).comps ∧ (altBank u).comps = (actBank s).comps ∧
    u.flag F.BRUP_PROGRESS_FW_BANK = !s.flag F.BRUP_PROGRESS_FW_BANK ∧ MemSame s u := by
  have hstart := settingsStart_started (loadedState s)
  refine ⟨_, exec_fwLoadComplete_none ha hl, hstart.load.trans rfl, hstart.session.trans (fwSession_fwEnd _), ?_, ?_,
    hstart.bank.trans (loadedState_bank s), fun a => (hstart.mem a).trans (loadedState_memSame s a)⟩
  · rw [hstart.comps, loadedState_actBank]
    rfl
  · rw [hstart.alt, loadedState_altBank]

/-- Control firmware that does not know the settings' format resets them. -/
theorem fwLoadComplete_reset (h : ((altBank s).comps.getD 2 {}).settingsFmt < (actBank s).fmt) : RunsSettled (.fwLoadComplete none) s fun u =>
    Answered s u F.FW_EVENT_SEQ F.FW_EVENT_RESULT 16 ∧ u.get F.FW_EVENT_COMP = 2 ∧ u.flag F.FW_STATUS_SETTINGS_RESET = true ∧
      (actBank u).settings = [] ∧ ∀ k, k < 32 → smFind u.ci.slots k = none := by
  have hold : settingsRun (loadedState s) < (actBank (loadedState s)).fmt := by
    rw [settingsRun, loadedState_actBank]
    exact h
  have hseq : (loadedState s).get F.FW_EVENT_SEQ = s.get F.FW_EVENT_SEQ :=
    (loadedState_get s (by decide) (by decide)).trans (swapped_get s (by decide) (by decide))
  have hexec := exec_fwLoadComplete_none ha hl
  rw [settingsStart_reset hold] at hexec
  have hevent := answered_fwDone 2 ((settingsWiped_seq (loadedState s)).trans hseq) (r := 16) (by decide)
  have hbank := settingsWiped_actBank (loadedState s)
  have hflag := settingsWiped_flag (loadedState s)
  have hslots {k : Nat} (hk : k < 32) := settingsWiped_slots (loadedState s) hk
  generalize settingsWiped (loadedState s) = w at hexec hevent hbank hflag hslots
  refine ⟨_, hexec, hevent, fwDone_comp w 16 (by decide), (flag_congr (fwDone_get w 16 2 (by decide))).trans hflag, ?_, fun k hk => hslots hk⟩
  rw [actBank_raise, actBank_fwDone, hbank]

/-! A component that fails its start checks: the previous set runs on. -/

omit ha hl
variable (s)

/-- The state before the session of a failed load ends. -/
def loadStopped : State := pauseAll { s with ci := { s.ci with load := .none } } 0

theorem loadStopped_links : LinksOnly { s with ci := { s.ci with load := .none } } (loadStopped s) [] := linksOnly_pauseAll _ 0 _

/-- The state in which the previous set's settings start again. -/
def failedState : State := fwEnd (loadStopped s)

theorem fwEnd_rest (s : State) : (fwEnd s).ci = { s.ci with staged := [] } ∧ (fwEnd s).fc = s.fc ∧ (fwEnd s).pw = s.pw ∧ MemSame s (fwEnd s) :=
  ⟨rfl, rfl, rfl, fun _ => rfl⟩

theorem failedState_get {f : RF} (hf : f.off ≠ F.FW_STATUS.off) : (failedState s).get f = s.get f := by
  rw [failedState, fwEnd_get _ hf, (loadStopped_links s).port.get (by simp)]
  rfl

theorem failedState_ci : (failedState s).ci = { s.ci with load := .none, staged := [] } := by
  obtain ⟨hci, -, -, -⟩ := fwEnd_rest (loadStopped s)
  rw [failedState, hci, (loadStopped_links s).ci]

theorem failedState_actBank : actBank (failedState s) = actBank s :=
  actBank_congr (by rw [failedState_ci]; exact ⟨rfl, rfl⟩) (failedState_get s (by decide))

theorem failedState_altBank : altBank (failedState s) = altBank s :=
  altBank_congr (by rw [failedState_ci]; exact ⟨rfl, rfl⟩) (failedState_get s (by decide))

theorem failedState_fc : (failedState s).fc = s.fc := by
  obtain ⟨-, hfc, -, -⟩ := fwEnd_rest (loadStopped s)
  rw [failedState, hfc, (loadStopped_links s).port.fc]

theorem failedState_pw : (failedState s).pw = s.pw := by
  obtain ⟨-, -, hpw, -⟩ := fwEnd_rest (loadStopped s)
  rw [failedState, hpw, (loadStopped_links s).pw]

theorem failedState_memSame : MemSame s (failedState s) := by
  obtain ⟨-, -, -, hmem⟩ := fwEnd_rest (loadStopped s)
  exact (loadStopped_links s).memSame.trans hmem

theorem CqFrame.ci {s u : State} (h : CqFrame s u) : u.ci = s.ci := by rw [h.rest]

theorem CqFrame.fc {s u : State} (h : CqFrame s u) : u.fc = s.fc := by rw [h.rest]

/-- Settings that the control firmware knows: the state before the event. -/
def loadUndone (s : State) : State := releaseHeld ((settingsStart s).set F.FW_STATUS_ACTIVATING 0)

theorem exec_fwLoadComplete_some (ha : s.pst = 3) (hl : s.ci.load = .loading) (c : Nat) : exec (.fwLoadComplete (some c)) s =
    .next (settle ((fwDone (loadUndone (failedState s)) 15 (c % 4)).raise 15 (c % 4) 0)) := by
  refine congrArg Host.Outcome.next ((if_neg ?_).trans rfl)
  simp [ha, hl]

/-- What is left where the settings are kept and no launch is held. -/
theorem loadUndone_spec (h : (actBank s).fmt ≤ settingsRun s) (hn : s.pw.launches = []) :
    let u := loadUndone s
    u.ci.load = s.ci.load ∧ fwActivating u = false ∧ fwSession u = fwSession s ∧ u.get F.FW_EVENT_SEQ = s.get F.FW_EVENT_SEQ ∧
      u.fc = s.fc ∧ (actBank u).comps = (actBank s).comps ∧ altBank u = altBank s ∧ MemSame s u := by
  intro u
  have hstart := settingsStart_started s
  have hseq : (settingsStart s).get F.FW_EVENT_SEQ = s.get F.FW_EVENT_SEQ := by
    rw [settingsStart_kept h]
    exact (State.get_set_ne _ _ (by decide)).trans (settingsPut_get s _ _ (by decide))
  have hfc : (settingsStart s).fc = s.fc := by
    rw [settingsStart_kept h]
    rfl
  have hlaunch : (settingsStart s).pw.launches = [] := by
    rw [settingsStart_kept h]
    exact hn
  have hu : u = releaseHeld ((settingsStart s).set F.FW_STATUS_ACTIVATING 0) := rfl
  clear_value u
  generalize settingsStart s = w at *
  have hkept {f : RF} (hf : 0x700000 ≤ f.off) (hf' : f.off < 0x2000000) : u.get f = (w.set F.FW_STATUS_ACTIVATING 0).get f :=
    hu ▸ releaseHeld_get (s := w.set F.FW_STATUS_ACTIVATING 0) hlaunch hf hf'
  have hframe : CqFrame { w.set F.FW_STATUS_ACTIVATING 0 with pw := { w.pw with launches := [] } } u :=
    hu ▸ releaseHeld_frame (s := w.set F.FW_STATUS_ACTIVATING 0) hlaunch
  have hci : u.ci = w.ci := hframe.ci
  have hfcs : u.fc = w.fc := hframe.fc
  have hbank : u.get F.BRUP_PROGRESS_FW_BANK = w.get F.BRUP_PROGRESS_FW_BANK := (hframe.get (by decide)).trans (State.get_set_ne _ _ (by decide))
  refine ⟨?_, ?_, ?_, ?_, ?_, ?_, ?_, fun a => (hframe.byte a).trans (hstart.mem a)⟩
  · rw [hci, hstart.load]
  · rw [fwActivating, flag_congr (hkept (by decide) (by decide)), State.flag, State.get_set_self _ _ (by decide)]
    rfl
  · rw [fwSession, flag_congr ((hkept (by decide) (by decide)).trans (State.get_set_apart _ _ (by decide) (by decide)))]
    exact hstart.session
  · exact (hkept (by decide) (by decide)).trans ((State.get_set_ne _ _ (by decide)).trans hseq)
  · exact hfcs.trans hfc
  · rw [actBank_congr ⟨congrArg Cipher.bankA hci, congrArg Cipher.bankB hci⟩ hbank, hstart.comps]
  · rw [altBank_congr ⟨congrArg Cipher.bankA hci, congrArg Cipher.bankB hci⟩ hbank, hstart.alt]

/-- What a load that failed leaves before its event, as the previous set found it. -/
structure LoadUndone (s w : State) : Prop where
  load : w.ci.load = .none
  idle : fwActivating w = false
  closed : fwSession w = false
  seq : w.get F.FW_EVENT_SEQ = s.get F.FW_EVENT_SEQ
  fc : w.fc = s.fc
  comps : (actBank w).comps = (actBank s).comps
  alt : altBank w = altBank s
  mem : MemSame s w

theorem loadUndone_failed (h : (actBank s).fmt ≤ settingsRun s) (hn : s.pw.launches = []) : LoadUndone s (loadUndone (failedState s)) := by
  have hrun : settingsRun (failedState s) = settingsRun s := by rw [settingsRun, settingsRun, failedState_actBank]
  obtain ⟨hload, hact, hses, hseq, hfc, hcomps, halt, hmem⟩ := loadUndone_spec (failedState s) (by rw [failedState_actBank, hrun]; exact h)
    (by rw [failedState_pw]; exact hn)
  exact {
    load := by rw [hload, failedState_ci]
    idle := hact
    closed := hses.trans (fwSession_fwEnd _)
    seq := hseq.trans (failedState_get s (by decide))
    fc := hfc.trans (failedState_fc s)
    comps := by rw [hcomps, failedState_actBank]
    alt := halt.trans (failedState_altBank s)
    mem := (failedState_memSame s).trans hmem }

/-- A fault that is raised shows nowhere else. -/
theorem raise_shows (s : State) (i j k : Nat) : (s.raise i j k).ci = s.ci ∧ fwActivating (s.raise i j k) = fwActivating s ∧
    fwSession (s.raise i j k) = fwSession s ∧ (∀ f, (s.raise i j k).get f = s.get f) ∧ (s.raise i j k).fc.raised = s.fc.raised ++ [(i, j, k)] ∧
    MemSame s (s.raise i j k) :=
  ⟨rfl, rfl, rfl, fun _ => rfl, rfl, fun _ => rfl⟩

theorem LoadUndone.event {s w : State} (h : LoadUndone s w) {r : Nat} (hr : r < 32) (c : Nat) :
    let u := (fwDone w r c).raise r c 0
    u.ci.load = .none ∧ fwActivating u = false ∧ fwSession u = false ∧ Answered s u F.FW_EVENT_SEQ F.FW_EVENT_RESULT r ∧
      u.fc.raised = s.fc.raised ++ [(r, c, 0)] ∧ (actBank u).comps = (actBank s).comps ∧ altBank u = altBank s ∧ MemSame s u := by
  intro u
  obtain ⟨hci, hact, hses, hget, hraised, hmem⟩ := raise_shows (fwDone w r c) r c 0
  obtain ⟨hevent, hkept, hsame⟩ := fwDone_event w hr c
  have hfc : (fwDone w r c).fc = w.fc := rfl
  refine ⟨?_, ?_, ?_, ⟨(hget _).trans hevent.1, (hget _).trans (hevent.2.trans (congrArg seqNext h.seq))⟩, ?_, ?_, ?_, (h.mem.trans hsame).trans hmem⟩
  · rw [hci, hkept, h.load]
  · rw [hact, fwActivating_fwDone, h.idle]
  · rw [hses, fwSession_fwDone, h.closed]
  · rw [hraised, hfc, h.fc]
  · rw [actBank_raise, actBank_fwDone, h.comps]
  · rw [altBank_raise, altBank_fwDone, h.alt]

theorem fwLoadComplete_failed (ha : s.pst = 3) (hl : s.ci.load = .loading) (h : (actBank s).fmt ≤ settingsRun s) (c : Nat) (hn : s.pw.launches = []) :
    RunsSettled (.fwLoadComplete (some c)) s fun u => u.ci.load = .none ∧ fwActivating u = false ∧ fwSession u = false ∧
      Answered s u F.FW_EVENT_SEQ F.FW_EVENT_RESULT 15 ∧ u.fc.raised = s.fc.raised ++ [(15, c % 4, 0)] ∧
      (actBank u).comps = (actBank s).comps ∧ altBank u = altBank s ∧ MemSame s u :=
  ⟨_, exec_fwLoadComplete_some s ha hl c, (loadUndone_failed s h hn).event (by decide) (c % 4)⟩

end Load

end Firmware

/-- Settles O54: the key tables and the slots, then the firmware block's commands and its own steps, each by its lemma. -/
theorem keysAndFirmware : Obligations.KeysAndFirmware := by
  refine ⟨fun s ctx idx ha hr => ?_, fun s kind slot ha hr => ?_, fun s ha hr hc => ?_⟩
  · exact ⟨keyCommand_range ha hr, fun hctx hidx => ⟨keyCommand_used ha hr hctx hidx,
      fun hfree => ⟨ceKeySet_free ha hr hctx hidx hfree, ceKeyClear_free ha hr hctx hidx hfree⟩, ceKeyRead_any ha hr hctx hidx⟩⟩
  · exact ⟨keySlot_range ha hr, fun h => ⟨keySlotSet_taken ha hr h, keySlotClear_taken ha hr h⟩⟩
  · refine ⟨fun hact cmd hcmd => ⟨_, fwBusy ha hr hc hact cmd hcmd, fwDone_event s (by decide) 0⟩, fun hact => ⟨fun hses => ⟨?_, ?_⟩, fun hses => ⟨?_, ?_⟩,
      fun v b written hread => ?_, fun v w h p h1 h2 hseq => ?_⟩, fun v w h p written h1 h2 => ?_, fun confirm => ⟨?_, ?_, ?_⟩, ⟨?_, ?_, ?_⟩,
      fun dl hd => ⟨?_, ?_⟩, fun hl => ⟨?_, ?_, ?_⟩⟩
    · exact ⟨_, fwOpenSession_open ha hr hc hact hses, answered_fwDone 0 rfl (by decide), rfl⟩
    · exact fwCancel_open ha hr hc hact hses
    · exact ⟨_, fwCancel_none ha hr hc hact hses, answered_fwDone 0 rfl (by decide), rfl⟩
    · exact fwOpenSession_none ha hr hc hact hses
    · obtain ⟨⟨r, c⟩, hj⟩ : ∃ x, fwJudge v b written = x := ⟨_, rfl⟩
      rw [hj]
      exact ⟨_, exec_fwStage ha hr hc hact written hread, staged_spec v b written hj⟩
    · intro img hauto
      exact fwRelay_spec ha hc hauto hr hact h1 h2 hseq
    · intro img hauto
      exact relayPackageArrival_spec ha hc hauto h1 h2 written
    · exact fwLockClass_other ha hr hc
    · rintro rfl
      exact fwLockClass_plain ha hr hc
    · rintro rfl
      exact fwLockClass_extended ha hr hc
    · exact fun h => fwActivate_refused ha hr hc (fwActivate_unable h) (by decide) (by decide)
    · exact fun h hmode => fwActivate_refused ha hr hc (fwActivate_modePending h hmode) (by decide) (by decide)
    · exact fwActivate_accepted ha hr hc
    · exact fun he => ⟨_, fwActivationDrainDone_empty ha hd he, rfl⟩
    · exact fun he hlate hn => fwActivationDrainTimeout_busy ha hd he hlate hn
    · exact fwLoadComplete_loaded ha hl
    · exact fun hkept c hn => fwLoadComplete_failed s ha hl hkept c hn
    · exact fwLoadComplete_reset ha hl

end Sys2Proof.Machine
